-- ==== Sys2Proof/Word.lean ====
section
/-! DEFINITION. The word types of the Digor and their plainest arithmetic: the byte, the 64-bit word, the
128-byte queue entry and the widths the register files use (00 R1, 07 R136). -/

namespace Sys2Proof

/-- One byte. -/
abbrev Byte := BitVec 8
/-- A 64-bit value: an S or A register, an address, an instruction word. -/
abbrev W64 := BitVec 64
/-- A 32-bit word of memory or of a lane. -/
abbrev W32 := BitVec 32
/-- One 128-byte entry of a queue register (07 R136). -/
abbrev Entry := BitVec 1024

/-- Bits [lo + len - 1 : lo] of a value (00 R1). -/
def bits {w : Nat} (x : BitVec w) (lo len : Nat) : BitVec len := x.extractLsb' lo len

/-- Bit `n` of a value as a truth value (00 R1). -/
def bit {w : Nat} (x : BitVec w) (n : Nat) : Bool := x.getLsbD n

/-- A truth value as 0 or 1 in `w` bits. -/
def ofBool (w : Nat) (b : Bool) : BitVec w := BitVec.ofNat w b.toNat

end Sys2Proof
end

