-- ==== Sys2Proof/Config.lean ====
section
/-! DEFINITION. What the spec leaves open: each constant here has NO body, so nothing in Lean can evaluate it or prove a
value of it. Values that change from one use to the next take a counter of the state. The log entries under
notes/assumptions name each one. -/

namespace Sys2Proof.Config

/-- A free 64-bit value, fresh at each count: every value the spec leaves undefined takes one (log 6). -/
opaque freeValue : Nat → BitVec 64
/-- The entropy of the p-bit array: one 32-bit draw for each count (16 R310, log 6). -/
opaque entropy : Nat → BitVec 32
/-- The temperature that a zone's sensor gives at a sample, in 0.25 degrees (20 R391, log 7). -/
opaque sensorTemp : Nat → Nat → BitVec 10
/-- The liquid sensor of a zone at a sample (20 R392, log 7). -/
opaque sensorLiquid : Nat → Nat → Bool
/-- The opening that a zone's valve measures at a sample (20 R389, log 7). -/
opaque sensorValve : Nat → Nat → BitVec 8
/-- The draw of a partition measured over a window, in tenths of a watt, at a count (20 R382, log 8). -/
opaque measuredDraw : Nat → Nat → Nat
/-- The base grant that the controller gives a partition at a count, before the limits the spec states (20 R381, log 8). -/
opaque baseGrant : Nat → Nat → BitVec 3
/-- Does the controller grant a boost request (20 R386, log 8)? -/
opaque boostGranted : Nat → Nat → Bool
/-- The entry that a keeping read peeks at when the word's own pops have emptied its queue, at each count (07 R139, R140, log 27). -/
opaque emptyPeek : Nat → Nat → BitVec 1024
/-- The syndrome that a parity error of a pool entry gives (19 R379, log 48). -/
opaque syndrome : BitVec 1024 → BitVec 64
/-- The clusters that the relay set named by a destination field holds, one bit each (15 R301, log 54). -/
opaque relaySet : BitVec 64 → Nat
/-- SHA-384 of a byte string (27, log 9). -/
opaque sha384 : List Byte → List Byte
/-- The device's ECDSA signature over a report (27 R421, log 9). -/
opaque signReport : List Byte → List Byte
/-- The device's HSS signature over a report, by its index (27 R420, R421, log 9). -/
opaque hssSign : Nat → List Byte → List Byte
/-- Does a firmware image's signature verify against a vendor key: key, signature, what it covers (27 R418, log 9)? -/
opaque verifies : List Byte → List Byte → List Byte → Bool
/-- The fuse slots of vendor keys: how many there are, and the hash that each holds (27 R418, log 133). -/
opaque keySlots : Nat
/-- The hash of a vendor key in a fuse slot (27 R418, log 133). -/
opaque keyHash : Nat → List Byte
/-- A transcendental result that the interval of the model does not decide (10 R202, log 10). -/
opaque transcendental : Nat → Nat → Nat → BitVec 32

end Sys2Proof.Config
end

