-- ==== Sys2Proof/Syntax.lean ====
section
/-! DEFINITION. The instructions of the Digor: the header and the body formats of 03 R38 and R45 as records of
their fields, and the ONE inductive with a constructor for each row of the opcode table: 189 rows that are words
(03 R48 to R51) and 108 rows that are steps of the other agents or messages from outside. An event carries the
numbers of the things it acts on: r is a hand (2 x core + hand, 11 R222), c a cluster, d a die, p a partition, z a
zone, seq a sequence number, id a number the model gave the record that the step completes. -/

namespace Sys2Proof

/-- The header fields that an instruction carries beside its tag and opcode (03 R38). -/
structure Hdr where
  wait : BitVec 10
  pop  : BitVec 2
  push : BitVec 2
  deriving DecidableEq, Repr

/-- The fields of a word of format VVV (03 R45). -/
structure VVV where
  hdr : Hdr
  d : BitVec 11
  a : BitVec 11
  b : BitVec 11
  ka : Bool
  kb : Bool
  h : Bool
  ty : BitVec 4
  deriving DecidableEq, Repr

/-- The fields of a word of format VVI (03 R45). -/
structure VVI where
  hdr : Hdr
  d : BitVec 11
  a : BitVec 11
  ty : BitVec 4
  ka : Bool
  imm : BitVec 13
  deriving DecidableEq, Repr

/-- The fields of a word of format SSS (03 R45). -/
structure SSS where
  hdr : Hdr
  d : BitVec 6
  a : BitVec 6
  b : BitVec 6
  imm : BitVec 22
  deriving DecidableEq, Repr

/-- The fields of a word of format SSI (03 R45). -/
structure SSI where
  hdr : Hdr
  d : BitVec 6
  imm : BitVec 34
  deriving DecidableEq, Repr

/-- The fields of a word of format AAA (03 R45). -/
structure AAA where
  hdr : Hdr
  d : BitVec 5
  a : BitVec 5
  b : BitVec 5
  imm : BitVec 25
  deriving DecidableEq, Repr

/-- The fields of a word of format AAI (03 R45). -/
structure AAI where
  hdr : Hdr
  d : BitVec 5
  part : BitVec 3
  imm : BitVec 32
  deriving DecidableEq, Repr

/-- The fields of a word of format AM (03 R45). -/
structure AM where
  hdr : Hdr
  q : BitVec 11
  base : BitVec 5
  index : BitVec 5
  size : BitVec 3
  disp : BitVec 16
  deriving DecidableEq, Repr

/-- The fields of a word of format AF (03 R45). -/
structure AF where
  hdr : Hdr
  q : BitVec 11
  base : BitVec 5
  route : BitVec 24
  deriving DecidableEq, Repr

/-- The fields of a word of format AC (03 R45). -/
structure AC where
  hdr : Hdr
  desc : BitVec 5
  stream : BitVec 4
  tt : BitVec 3
  acq : Bool
  rel : Bool
  scope : BitVec 2
  imm : BitVec 24
  deriving DecidableEq, Repr

/-- The fields of a word of format MC (03 R45). -/
structure MC where
  hdr : Hdr
  stream : BitVec 4
  slot : BitVec 4
  handle : BitVec 4
  row0 : BitVec 10
  count : BitVec 11
  flags : BitVec 7
  deriving DecidableEq, Repr

/-- The fields of a word of format MA (03 R45). -/
structure MA where
  hdr : Hdr
  handle : BitVec 4
  row0 : BitVec 10
  count : BitVec 11
  q : BitVec 11
  op : BitVec 4
  deriving DecidableEq, Repr

/-- The fields of a word of format BA (03 R45). -/
structure BA where
  hdr : Hdr
  cond : BitVec 3
  a : BitVec 5
  b : BitVec 5
  offset : BitVec 27
  deriving DecidableEq, Repr

/-- The fields of a word of format BX (03 R45). -/
structure BX where
  hdr : Hdr
  cond : BitVec 3
  a : BitVec 6
  b : BitVec 6
  offset : BitVec 25
  deriving DecidableEq, Repr

/-- The fields of a word of format J (03 R45). -/
structure J where
  hdr : Hdr
  offset : BitVec 40
  deriving DecidableEq, Repr

/-- The fields of a word of format N (03 R45). -/
structure N where
  hdr : Hdr
  mod : BitVec 4
  imm : BitVec 36
  deriving DecidableEq, Repr

/-- The fields of a word of format K (03 R45). -/
structure K where
  hdr : Hdr
  s : BitVec 6
  creg : BitVec 12
  imm : BitVec 22
  deriving DecidableEq, Repr

/-- The fields of a word of format Z (03 R45). -/
structure Z where
  hdr : Hdr
  body : BitVec 40
  deriving DecidableEq, Repr

/-- The header of a Jorade Command Transport message (27 R414): its source, context number and sequence number. -/
structure JctHdr where
  src : Nat
  ctx : Nat
  seq : Nat
  deriving DecidableEq, Repr

/-- A firmware image as the boot ROM sees it, with the vendor key that it is signed with (27 R418). -/
structure FwImage where
  cls     : Nat
  svn     : Nat
  key     : List Byte
  digest  : List Byte
  body    : List Byte
  ecdsa   : List Byte
  lms     : List Byte
  deriving DecidableEq, Repr

/-- A row that arrives from another device (15 R288): kind 1 FWR, 2 collective row; `thread` tells the sender's threads apart (R289). -/
structure RemoteRow where
  kind    : Nat
  device  : Nat
  cluster : Nat
  thread  : Nat
  ctx     : Nat
  addr    : W64
  data    : List Byte
  seq     : Nat
  index   : Nat
  ordered : Bool
  deriving DecidableEq, Repr

/-- One constructor per row of the opcode table: the words, the events that the model posts itself, and then the others. -/
inductive Instr where
  /-- NOP (R186). -/
  | nop (w : Z)
  /-- JMP (R186). -/
  | jmp (w : J)
  /-- CALL (R186). -/
  | call (w : J)
  /-- RET (R186). -/
  | ret (w : Z)
  /-- BRA (R189). -/
  | bra (w : BA)
  /-- BRX (R189). -/
  | brx (w : BX)
  /-- LOOP (R189). -/
  | loop (w : BA)
  /-- ALIGN (R150). -/
  | align (w : Z)
  /-- EXIT (R334). -/
  | exit (w : Z)
  /-- BAR (R320). -/
  | bar (w : N)
  /-- PHASE (R319). -/
  | phase (w : N)
  /-- MARK (R76). -/
  | mark (w : N)
  /-- TRAP (R368). -/
  | trap (w : N)
  /-- SYS (R368). -/
  | sys (w : N)
  /-- ERET (R367). -/
  | eret (w : Z)
  /-- PSW (R385). -/
  | psw (w : N)
  /-- AADD (R178). -/
  | aadd (w : AAA)
  /-- AADDI (R178). -/
  | aaddi (w : AAA)
  /-- ASUB (R178). -/
  | asub (w : AAA)
  /-- AMUL (R178). -/
  | amul (w : AAA)
  /-- AMULI (R178). -/
  | amuli (w : AAA)
  /-- ASHL (R178). -/
  | ashl (w : AAA)
  /-- ASHR (R178). -/
  | ashr (w : AAA)
  /-- AAND (R178). -/
  | aand (w : AAA)
  /-- AOR (R178). -/
  | aor (w : AAA)
  /-- AXOR (R178). -/
  | axor (w : AAA)
  /-- AMIN (R178). -/
  | amin (w : AAA)
  /-- AMAX (R178). -/
  | amax (w : AAA)
  /-- ALI (R178). -/
  | ali (w : AAI)
  /-- ALIH (R178). -/
  | alih (w : AAI)
  /-- AFV (R153). -/
  | afv (w : VVI)
  /-- LDA (R121). -/
  | lda (w : AM)
  /-- STA (R121). -/
  | sta (w : AM)
  /-- VLD (R121). -/
  | vld (w : AM)
  /-- VLDS (R121). -/
  | vlds (w : AM)
  /-- VLDB (R121). -/
  | vldb (w : AM)
  /-- VGTH (R121). -/
  | vgth (w : AM)
  /-- VST (R121). -/
  | vst (w : AM)
  /-- VSTS (R121). -/
  | vsts (w : AM)
  /-- VSCT (R121). -/
  | vsct (w : AM)
  /-- LSALIGN (R123). -/
  | lsalign (w : Z)
  /-- FENCE (R124). -/
  | fence (w : AC)
  /-- ATM (R126). -/
  | atm (w : AM)
  /-- VATM (R126). -/
  | vatm (w : AM)
  /-- SACC (R127). -/
  | sacc (w : VVV)
  /-- SACCF (R129). -/
  | saccf (w : AC)
  /-- FINC (R325). -/
  | finc (w : AAA)
  /-- FWT (R325). -/
  | fwt (w : AAA)
  /-- FRDF (R325). -/
  | frdf (w : AAA)
  /-- STSET (R89). -/
  | stset (w : AC)
  /-- STGET (R89). -/
  | stget (w : AC)
  /-- CPY (R101). -/
  | cpy (w : AC)
  /-- CPYQ (R103). -/
  | cpyq (w : AC)
  /-- CPYK (R104). -/
  | cpyk (w : AC)
  /-- TTADD (R81). -/
  | ttadd (w : AC)
  /-- TTCLR (R82). -/
  | ttclr (w : AC)
  /-- TIERQ (R83). -/
  | tierq (w : AC)
  /-- WPF (R84). -/
  | wpf (w : AC)
  /-- WPF_SPEC (R276). -/
  | wpfSpec (w : AC)
  /-- FWR (R285). -/
  | fwr (w : AF)
  /-- FRD (R285). -/
  | frd (w : AF)
  /-- COLL (R297). -/
  | coll (w : AC)
  /-- COLLQ (R297). -/
  | collq (w : AC)
  /-- SADD (R180). -/
  | sadd (w : SSS)
  /-- SADDI (R180). -/
  | saddi (w : SSS)
  /-- SSUB (R180). -/
  | ssub (w : SSS)
  /-- SMUL (R180). -/
  | smul (w : SSS)
  /-- SMULH (R180). -/
  | smulh (w : SSS)
  /-- SDIV (R180). -/
  | sdiv (w : SSS)
  /-- SREM (R180). -/
  | srem (w : SSS)
  /-- SAND (R180). -/
  | sand (w : SSS)
  /-- SOR (R180). -/
  | sor (w : SSS)
  /-- SXOR (R180). -/
  | sxor (w : SSS)
  /-- SSHL (R180). -/
  | sshl (w : SSS)
  /-- SSHR (R180). -/
  | sshr (w : SSS)
  /-- SSRA (R180). -/
  | ssra (w : SSS)
  /-- SMIN (R180). -/
  | smin (w : SSS)
  /-- SMAX (R180). -/
  | smax (w : SSS)
  /-- SSLT (R180). -/
  | sslt (w : SSS)
  /-- SSEL (R180). -/
  | ssel (w : SSS)
  /-- SLI (R180). -/
  | sli (w : SSI)
  /-- SLIH (R180). -/
  | slih (w : SSI)
  /-- SPOPC (R180). -/
  | spopc (w : SSS)
  /-- SCLZ (R180). -/
  | sclz (w : SSS)
  /-- SFADD (R182). -/
  | sfadd (w : SSS)
  /-- SFMUL (R182). -/
  | sfmul (w : SSS)
  /-- SFMA (R182). -/
  | sfma (w : SSS)
  /-- SFCVT (R183). -/
  | sfcvt (w : SSS)
  /-- SFCMP (R184). -/
  | sfcmp (w : SSS)
  /-- SFV (R153). -/
  | sfv (w : VVI)
  /-- SVS (R153). -/
  | svs (w : VVI)
  /-- VADD (R200). -/
  | vadd (w : VVV)
  /-- VSUB (R200). -/
  | vsub (w : VVV)
  /-- VMUL (R200). -/
  | vmul (w : VVV)
  /-- VMULH (R200). -/
  | vmulh (w : VVV)
  /-- VMIN (R200). -/
  | vmin (w : VVV)
  /-- VMAX (R200). -/
  | vmax (w : VVV)
  /-- VABS (R200). -/
  | vabs (w : VVV)
  /-- VSADD (R200). -/
  | vsadd (w : VVV)
  /-- VSSUB (R200). -/
  | vssub (w : VVV)
  /-- VAND (R200). -/
  | vand (w : VVV)
  /-- VOR (R200). -/
  | vor (w : VVV)
  /-- VXOR (R200). -/
  | vxor (w : VVV)
  /-- VANDN (R200). -/
  | vandn (w : VVV)
  /-- VSHL (R200). -/
  | vshl (w : VVV)
  /-- VSHR (R200). -/
  | vshr (w : VVV)
  /-- VSRA (R200). -/
  | vsra (w : VVV)
  /-- VPOPC (R200). -/
  | vpopc (w : VVV)
  /-- VCLZ (R200). -/
  | vclz (w : VVV)
  /-- VFADD (R202). -/
  | vfadd (w : VVV)
  /-- VFSUB (R202). -/
  | vfsub (w : VVV)
  /-- VFMUL (R202). -/
  | vfmul (w : VVV)
  /-- VFMA (R202). -/
  | vfma (w : VVV)
  /-- VFMS (R202). -/
  | vfms (w : VVV)
  /-- VFMIN (R204). -/
  | vfmin (w : VVV)
  /-- VFMAX (R204). -/
  | vfmax (w : VVV)
  /-- VFABS (R204). -/
  | vfabs (w : VVV)
  /-- VFNEG (R204). -/
  | vfneg (w : VVV)
  /-- VRCP (R202). -/
  | vrcp (w : VVV)
  /-- VRSQ (R202). -/
  | vrsq (w : VVV)
  /-- VEXP2 (R202). -/
  | vexp2 (w : VVV)
  /-- VLOG2 (R202). -/
  | vlog2 (w : VVV)
  /-- VSIGM (R202). -/
  | vsigm (w : VVV)
  /-- VTANH (R202). -/
  | vtanh (w : VVV)
  /-- VSCALE (R202). -/
  | vscale (w : VVV)
  /-- VCVT (R206). -/
  | vcvt (w : VVI)
  /-- VPACK (R207). -/
  | vpack (w : VVV)
  /-- VUNPK (R208). -/
  | vunpk (w : VVI)
  /-- VCMP (R209). -/
  | vcmp (w : VVV)
  /-- VFCMP (R209). -/
  | vfcmp (w : VVV)
  /-- VSEL (R210). -/
  | vsel (w : VVV)
  /-- PAND (R211). -/
  | pand (w : VVV)
  /-- POR (R211). -/
  | por (w : VVV)
  /-- PNOT (R211). -/
  | pnot (w : VVV)
  /-- PCNT (R211). -/
  | pcnt (w : VVV)
  /-- VRADD (R212). -/
  | vradd (w : VVI)
  /-- VRMAX (R212). -/
  | vrmax (w : VVI)
  /-- VRMIN (R212). -/
  | vrmin (w : VVI)
  /-- VRFADD (R213). -/
  | vrfadd (w : VVI)
  /-- VSCAN (R213). -/
  | vscan (w : VVI)
  /-- VARGMX (R213). -/
  | vargmx (w : VVI)
  /-- VPERM (R214). -/
  | vperm (w : VVV)
  /-- VBCST (R214). -/
  | vbcst (w : VVI)
  /-- VSLD (R214). -/
  | vsld (w : VVI)
  /-- VZIP (R214). -/
  | vzip (w : VVV)
  /-- VUZP (R214). -/
  | vuzp (w : VVV)
  /-- VIOTA (R214). -/
  | viota (w : VVI)
  /-- VCLR (R153). -/
  | vclr (w : VVI)
  /-- VDEP (R153). -/
  | vdep (w : VVI)
  /-- VMOV (R153). -/
  | vmov (w : VVV)
  /-- VTHR (R251). -/
  | vthr (w : VVV)
  /-- VSIGN (R266). -/
  | vsign (w : VVI)
  /-- MFC (R369). -/
  | mfc (w : K)
  /-- MTC (R369). -/
  | mtc (w : K)
  /-- TSR (R369). -/
  | tsr (w : K)
  /-- TLBI (R371). -/
  | tlbi (w : SSS)
  /-- HSWAP (R374). -/
  | hswap (w : Z)
  /-- CTXSV (R375). -/
  | ctxsv (w : SSS)
  /-- CTXLD (R375). -/
  | ctxld (w : SSS)
  /-- LEASE (R227). -/
  | lease (w : MC)
  /-- UNLSE (R227). -/
  | unlse (w : MC)
  /-- MSHAPE (R227). -/
  | mshape (w : MC)
  /-- MMODE (R227). -/
  | mmode (w : MC)
  /-- WLD (R228). -/
  | wld (w : MC)
  /-- WDROP (R231). -/
  | wdrop (w : MC)
  /-- MMA (R230). -/
  | mma (w : MC)
  /-- MMAT (R230). -/
  | mmat (w : MC)
  /-- ACMAL (R241). -/
  | acmal (w : MA)
  /-- ACMFR (R241). -/
  | acmfr (w : MA)
  /-- ACMZ (R246). -/
  | acmz (w : MA)
  /-- ACMOWN (R241). -/
  | acmown (w : MA)
  /-- ACMV (R242). -/
  | acmv (w : MA)
  /-- ACMPK (R242). -/
  | acmpk (w : MA)
  /-- ACMST (R245). -/
  | acmst (w : MA)
  /-- ACMAD (R246). -/
  | acmad (w : MA)
  /-- PRED (R270). -/
  | pred (w : VVV)
  /-- PREDUP (R271). -/
  | predup (w : VVV)
  /-- PTCLR (R272). -/
  | ptclr (w : Z)
  /-- DISP (R259). -/
  | disp (w : VVV)
  /-- RSLV (R280). -/
  | rslv (w : VVV)
  /-- RSNAP (R263). -/
  | rsnap (w : VVI)
  /-- EMAPS (R254). -/
  | emaps (w : VVV)
  /-- PBLD (R313). -/
  | pbld (w : MC)
  /-- PBCLR (R313). -/
  | pbclr (w : Z)
  /-- PBCLMP (R313). -/
  | pbclmp (w : VVV)
  /-- PBSWP (R313). -/
  | pbswp (w : VVI)
  /-- PBRD (R313). -/
  | pbrd (w : VVI)
  /-- PBSEED (R313). -/
  | pbseed (w : VVI)
  /-- HFV (R153). -/
  | hfv (w : VVI)
  /-- RESULT_LANDING (R139). -/
  | resultLanding (r id : Nat)
  /-- PENDING_TOKEN_ENTRY (R143). -/
  | pendingTokenEntry (r f : Nat)
  /-- BANK_ACCESS (R116). -/
  | bankAccess (id : Nat)
  /-- MESH_FLIT_ADVANCE (R130). -/
  | meshFlitAdvance (id : Nat)
  /-- TRANSLATION_WALK (R60). -/
  | translationWalk (id : Nat)
  /-- SACC_ACCEPT (R128). -/
  | saccAccept (c : Nat)
  /-- WATCHDOG_EXPIRY (R148). -/
  | watchdogExpiry (r : Nat)
  /-- TIMER_EXPIRY (R361). -/
  | timerExpiry (r : Nat)
  /-- RECORDED_FAULT_DELIVERY (R364). -/
  | recordedFaultDelivery (r : Nat)
  /-- HAND_SWAP_ACTIVATE (R374). -/
  | handSwapActivate (core : Nat)
  /-- AUTO_HAND_SWITCH (R422). -/
  | autoHandSwitch (core : Nat)
  /-- TT_RING_READ_RETURN (R81). -/
  | ttRingReadReturn (ctx idx : Nat)
  /-- TT_ENTRY_START (R70). -/
  | ttEntryStart (ctx idx : Nat)
  /-- TIER_SHARD_TIMEOUT (R72). -/
  | tierShardTimeout (mv : Nat)
  /-- TT_ENTRY_END (R74). -/
  | ttEntryEnd (mv : Nat)
  /-- TIER_REQUEST_END (R83). -/
  | tierRequestEnd (mv : Nat)
  /-- SPEC_FETCH_END (R276). -/
  | specFetchEnd (mv : Nat)
  /-- STSET_IMAGE_RETURN (R89). -/
  | stsetImageReturn (r id : Nat)
  /-- COPY_START (R102). -/
  | copyStart (r : Nat)
  /-- COPY_UNIT (R91). -/
  | copyUnit (r id : Nat)
  /-- COPY_COMPLETE (R101). -/
  | copyComplete (r id : Nat)
  /-- LEASE_GRANT (R222). -/
  | leaseGrant (c : Nat)
  /-- WLD_START (R228). -/
  | wldStart (r seq : Nat)
  /-- WLD_COMPLETE (R228). -/
  | wldComplete (r seq : Nat)
  /-- WDROP_ACT (R231). -/
  | wdropAct (r seq : Nat)
  /-- MMA_START (R232). -/
  | mmaStart (r seq : Nat)
  /-- MMA_COMPLETE (R232). -/
  | mmaComplete (r seq : Nat)
  /-- MODE_COMMAND_COMPLETE (R227). -/
  | modeCommandComplete (r seq : Nat)
  /-- BAND_IDLE_OFF (R219). -/
  | bandIdleOff (c b : Nat)
  /-- BAND_WAKE_DONE (R219). -/
  | bandWakeDone (c b : Nat)
  /-- ACCUM_COMMAND_START (R246). -/
  | accumCommandStart (r seq : Nat)
  /-- ACCUM_COMMAND_COMPLETE (R248). -/
  | accumCommandComplete (r seq : Nat)
  /-- RSLV_START (R281). -/
  | rslvStart (r seq : Nat)
  /-- EMAP_UPDATE (R254). -/
  | emapUpdate (id : Nat)
  /-- FRAME_ARRIVAL (R260). -/
  | frameArrival (id : Nat)
  /-- HELD_FRAME_RESUME (R260). -/
  | heldFrameResume (c ctx : Nat)
  /-- DISP_COMPLETE (R259). -/
  | dispComplete (id : Nat)
  /-- PBIT_COMMAND_START (R305). -/
  | pbitCommandStart (d : Nat)
  /-- PBIT_SWEEP (R310). -/
  | pbitSweep (d : Nat)
  /-- PBIT_COMMAND_COMPLETE (R314). -/
  | pbitCommandComplete (d : Nat)
  /-- DEAL_ITERATION (R331). -/
  | dealIteration (d : Nat)
  /-- LAUNCH_COMPLETE (R334). -/
  | launchComplete (l : Nat)
  /-- BARRIER_COMPLETE (R321); `lvl` 7 is level 3, and an input: the other devices of the group have all arrived (R316). -/
  | barrierComplete (ctx lvl inst : Nat)
  /-- FLAG_WAIT_SERVED (R326). -/
  | flagWaitServed (ctx team f : Nat)
  /-- REMOTE_FINC_ARRIVAL (R325). -/
  | remoteFincArrival (ctx hand c f : Nat) (v : W32) (who snap iseq : Nat)
  /-- COLL_STEP_ARRIVAL (R295). -/
  | collStepArrival (r seq k : Nat) (ext : List Byte)
  /-- SHAPE_VARIABLE_WRITE (R327). -/
  | shapeVariableWrite (r ix : Nat) (v : W32) (push : BitVec 2)
  /-- PEER_ACK_TIMEOUT (R300). -/
  | peerAckTimeout (r seq : Nat)
  /-- COLL_BLOCK_EXCHANGE (R292). -/
  | collBlockExchange (r seq : Nat) (peers : Option Bool)
  /-- COLL_COMPLETE (R297). -/
  | collComplete (r seq : Nat)
  /-- BOOST_ANSWER (R386). -/
  | boostAnswer (r : Nat) (granted : Bool)
  /-- BOOST_EXPIRY (R386). -/
  | boostExpiry (r : Nat)
  /-- EVAC_STATE_ADVANCE (R392). -/
  | evacStateAdvance (z : Nat)
  /-- TLBI_COMPLETE (R371). -/
  | tlbiComplete (r id : Nat)
  /-- REPLAY_DIVERGENCE (R401). -/
  | replayDivergence (p index : Nat)
  /-- REMOTE_ROW_ARRIVAL (R288). -/
  | remoteRowArrival (row : RemoteRow)
  /-- TIER_SHARD_ARRIVAL (R72). -/
  | tierShardArrival (mv : Nat) (peer : List Byte) (crc : W64)
  /-- QUEUE_SCHEDULER_PASS (R337). -/
  | queueSchedulerPass
  /-- QUEUE_LAUNCH_START (R330). -/
  | queueLaunchStart (slot : Nat)
  /-- QUEUE_WAIT (R336). -/
  | queueWait (slot : Nat)
  /-- QUEUE_SIGNAL (R336). -/
  | queueSignal (slot : Nat)
  /-- QUEUE_NOP (R336). -/
  | queueNop (slot : Nat)
  /-- NOTIFY (R338). -/
  | notify (j : JctHdr) (queue index : Nat)
  /-- MEMWR (R414). -/
  | memwr (j : JctHdr) (va : W64) (data : List Byte)
  /-- MEMRD (R414). -/
  | memrd (j : JctHdr) (va : W64) (n : Nat)
  /-- REGWR (R414). -/
  | regwr (j : JctHdr) (creg core : Nat) (v : W64)
  /-- REGRD (R414). -/
  | regrd (j : JctHdr) (creg core : Nat)
  /-- ATTEST (R421). -/
  | attest (j : JctHdr) (nonce : List Byte)
  /-- HALTLOG (R419). -/
  | haltlog (j : JctHdr)
  /-- CTXNEW (R340). -/
  | ctxnew (j : JctHdr) (part : Nat)
  /-- CTXEND (R341). -/
  | ctxend (j : JctHdr)
  /-- EVAC_TIMEOUT (R392). -/
  | evacTimeout (z : Nat)
  /-- PEER_ACK (R285). -/
  | peerAck (id status reason : Nat) (data : List Byte)
  /-- CONTEXT_AGENT_FINC (R376). -/
  | contextAgentFinc (ctx hand c f : Nat) (v : W32)
  /-- PARKRPL (R290). -/
  | parkrpl (r : Nat) (v : W64)
  /-- PARKDIS (R290). -/
  | parkdis (r : Nat) (v : W64)
  /-- DNEXT (R260). -/
  | dnext (r : Nat) (v : W64)
  /-- DRXR_WRITE (R256). -/
  | drxrWrite (r : Nat) (v : W64)
  /-- DRX_WRITE (R256). -/
  | drxWrite (r : Nat) (v : W64)
  /-- DLST_WRITE (R256). -/
  | dlstWrite (r : Nat) (v : W64)
  /-- DOVF_WRITE (R256). -/
  | dovfWrite (r : Nat) (v : W64)
  /-- SPTE_OPEN (R274). -/
  | spteOpen (r : Nat) (v : W64)
  /-- SPTE_FREE (R274). -/
  | spteFree (r : Nat) (v : W64)
  /-- TTCTL_WRITE (R65). -/
  | ttctlWrite (r creg : Nat) (v : W64)
  /-- SWIN_WRITE (R113). -/
  | swinWrite (r : Nat) (v : W64)
  /-- Q_REGISTER_WRITE (R160). -/
  | qRegisterWrite (r ix : Nat) (v : W64)
  /-- CPQN_WRITE (R335). -/
  | cpqnWrite (r : Nat) (v : W64)
  /-- BOOST_REQUEST (R386). -/
  | boostRequest (r : Nat) (v : W64)
  /-- BOOST_WITHDRAW (R386). -/
  | boostWithdraw (r : Nat)
  /-- POWER_WINDOW (R381). -/
  | powerWindow
  /-- SENSOR_SAMPLE (R391). -/
  | sensorSample
  /-- ZCMD_EVACUATE (R392). -/
  | zcmdEvacuate (r : Nat)
  /-- ZCMD_REFILL (R392). -/
  | zcmdRefill (r : Nat)
  /-- PEVQR_WRITE (R383). -/
  | pevqrWrite (r : Nat) (v : W64)
  /-- RPCTL_WRITE (R396). -/
  | rpctlWrite (r : Nat) (v : W64)
  /-- PTP_MESSAGE (R395). -/
  | ptpMessage (offset : W64) (err : Bool)
  /-- TTMISS_READ (R64). -/
  | ttmissRead (r : Nat) (sd : BitVec 6)
  /-- TTLATE_READ (R64). -/
  | ttlateRead (r : Nat) (sd : BitVec 6)
  /-- FRZN_READ (R149). -/
  | frznRead (r : Nat) (sd : BitVec 6)
  /-- DCNT_READ (R256). -/
  | dcntRead (r : Nat) (sd : BitVec 6)
  /-- SPTCNT_READ (R273). -/
  | sptcntRead (r : Nat) (sd : BitVec 6)
  /-- ECNT_READ (R361). -/
  | ecntRead (r : Nat) (sd : BitVec 6)
  /-- CONTROL_REGISTER_WRITE (R370). -/
  | controlRegisterWrite (r creg : Nat) (v : W64)
  /-- DEVICE_RESET (R303). -/
  | deviceReset
  /-- BOOT_VERIFICATION (R418). -/
  | bootVerification (images : List FwImage)
  /-- CXL_LINK_CHANGE (R417). -/
  | cxlLinkChange (p : Nat) (up : Bool) (wid rate capg : Nat)
  /-- UE_PORT_LINK_CHANGE (R413). -/
  | uePortLinkChange (p : Nat) (up : Bool)
  /-- PEER_READ_ARRIVAL (R286). -/
  | peerReadArrival (ctx : Nat) (va : W64) (n : Nat)
  deriving DecidableEq, Repr

/-- The tags of a word (03 R38). -/
inductive Tag where
  | all | a | x | m
  deriving DecidableEq, Repr

/-- The three engines of a thread (01 R9). -/
inductive Engine where
  | a | x | m
  deriving DecidableEq, Repr

end Sys2Proof
end

