-- ==== Sys2Proof/WellFormed.lean ====
section
/-! DEFINITION. Which terms of Instr are instructions: checks 2 to 5 of 03 R54, made in its order, for every
constructor, from the field tables of each chapter. Instr.check answers the first check that fails. -/

namespace Sys2Proof

/-- Why a word is no instruction: checks 1 to 5 of 03 R54. -/
inductive WordFault where
  | hole | tokenField | reservedField | typeCode | registerField
  deriving DecidableEq, Repr

/-- The reason code of illegal-instruction (03 R54). -/
def WordFault.reason : WordFault → Nat
  | .hole => 1 | .tokenField => 2 | .reservedField => 3 | .typeCode => 4 | .registerField => 5

/-- Checks 2 to 5 in the order of 03 R54: token field, reserved fields and selectors, type code, register fields. -/
def wordCheck (tok res typ reg : Bool) : Option WordFault :=
  if !tok then some .tokenField
  else if !res then some .reservedField
  else if !typ then some .typeCode
  else if !reg then some .registerField
  else none

/-- The header's code for an engine (03 R38). -/
def Engine.code : Engine → BitVec 2
  | .a => 1 | .x => 2 | .m => 3

/-- A word tagged A, X or M names another engine in its token fields (03 R40). -/
def tokOk (e : Engine) (h : Hdr) : Bool := h.pop != e.code && h.push != e.code

/-- An ALL-tagged word names no engine (03 R40). -/
def tokNone (h : Hdr) : Bool := h.pop == 0 && h.push == 0

/-- An AC word also keeps push-to at zero (03 R40). -/
def tokAC (h : Hdr) : Bool := tokOk .a h && h.push == 0

/-- V0 to V1535 (03 R41). -/
def isV (r : BitVec 11) : Bool := r.toNat < 1536
/-- lane, zero and ones (03 R41). -/
def isSpecial (r : BitVec 11) : Bool := 1616 ≤ r.toNat && r.toNat ≤ 1618
/-- A source any engine may name (03 R41). -/
def isSrc (r : BitVec 11) : Bool := isV r || isSpecial r
/-- A source of an X word (03 R41). -/
def isSrcX (r : BitVec 11) : Bool := r.toNat ≤ 1618
/-- S0 to S63 in an 11-bit field (03 R41). -/
def isS11 (r : BitVec 11) : Bool := 1536 ≤ r.toNat && r.toNat < 1600
/-- P0 to P15 in an 11-bit field (03 R41). -/
def isP11 (r : BitVec 11) : Bool := 1600 ≤ r.toNat && r.toNat < 1616

/-- Type codes 0x0 to 0x5 (03 R44). -/
def tyInt (t : BitVec 4) : Bool := t.toNat ≤ 5
/-- bf16, f16, f32 (03 R44). -/
def tyFloat (t : BitVec 4) : Bool := 6 ≤ t.toNat && t.toNat ≤ 8
/-- Type codes 0x0 to 0x8 (03 R44). -/
def tyAny (t : BitVec 4) : Bool := t.toNat ≤ 8
/-- Type codes 0x0 to 0xA, which name a type and so give a number of lanes (03 R44, 10 R196); a reserved code gives none, and no count is
then tested (log 30). -/
def tyCode (t : BitVec 4) : Bool := t.toNat ≤ 10
/-- The types of VPACK and VUNPK (10 R207, R208). -/
def tyPack (t : BitVec 4) : Bool := t.toNat ≤ 3 || t == 9 || t == 10

/-- log2 of the width of a type code (03 R44, 10 R196). -/
def tyLogWidth (t : BitVec 4) : Nat :=
  match t.toNat with
  | 0 | 1 => 3 | 2 | 3 | 6 | 7 => 4 | 4 | 5 | 8 => 5 | 9 | 10 => 2 | _ => 5

/-- The width in bits of a type code (10 R196). -/
def tyWidth (t : BitVec 4) : Nat := 2 ^ tyLogWidth t
/-- log2 of the number of elements of an entry (10 R196). -/
def tyLogLanes (t : BitVec 4) : Nat := 10 - tyLogWidth t
/-- The number of elements of an entry (10 R196). -/
def tyLanes (t : BitVec 4) : Nat := 2 ^ tyLogLanes t

/-- The control registers that some register map defines (19 R370). -/
def cregDefined (n : Nat) : Bool :=
  n ≤ 0x001 || (0x004 ≤ n && n ≤ 0x00E) || (0x010 ≤ n && n ≤ 0x014) || n == 0x016
  || (0x020 ≤ n && n ≤ 0x026) || (0x030 ≤ n && n ≤ 0x032) || (0x038 ≤ n && n ≤ 0x04A)
  || (0x050 ≤ n && n ≤ 0x05A) || (0x060 ≤ n && n ≤ 0x066) || (0x070 ≤ n && n ≤ 0x076)
  || n == 0x078 || (0x07A ≤ n && n ≤ 0x07D) || (0x080 ≤ n && n ≤ 0x0A6) || (0x0A8 ≤ n && n ≤ 0x0B8)
  || (0x0C0 ≤ n && n ≤ 0x0C3) || n == 0x100 || n == 0x101 || (0x108 ≤ n && n ≤ 0x111)

/-- The bits of a register whose access is WO, which no TSR may select (19 R369). -/
def woBits (n : Nat) : W64 :=
  match n with
  | 0x058 => BitVec.allOnes 64
  | 0x075 | 0x076 => 0x3FF
  | 0x0A2 => 0x1FF0007
  | 0x0AC => 3
  | _ => 0

/-- A two-source VVV word on X (10 R199). -/
def chk2 (w : VVV) (typ : Bool) : Option WordFault :=
  wordCheck (tokOk .x w.hdr) true typ (isV w.d && isSrcX w.a && isSrcX w.b)

/-- A one-source VVV word on X: b, kb and bit 4 are zero (03 R46). -/
def chk1 (w : VVV) (typ : Bool) : Option WordFault :=
  wordCheck (tokOk .x w.hdr) (w.b == 0 && !w.kb && !w.h) typ (isV w.d && isSrcX w.a)

/-- An SSS word: `mask` holds the imm22 bits its row allows; `b0` says that b is unused (09 R179). -/
def chkS (w : SSS) (mask : BitVec 22) (b0 : Bool) : Option WordFault :=
  wordCheck (tokOk .x w.hdr) (w.imm &&& ~~~mask == 0 && (!b0 || w.b == 0)) true true

/-- A scalar floating word with type and NB (09 R181). -/
def chkSF (w : SSS) : Option WordFault :=
  wordCheck (tokOk .x w.hdr) (w.imm &&& ~~~0x1F == 0) (tyFloat (bits w.imm 0 4)) true

/-- An AAA word: `mask` holds the imm25 bits its row allows; `b0` says that b is unused (09 R177). -/
def chkA (w : AAA) (mask : BitVec 25) (b0 : Bool) : Option WordFault :=
  wordCheck (tokOk .a w.hdr) (w.imm &&& ~~~mask == 0 && (!b0 || w.b == 0)) true true

/-- An AM word with what its q field may name (06 R120). -/
def chkAM (w : AM) (res reg : Bool) : Option WordFault := wordCheck (tokOk .a w.hdr) res true reg

/-- An AC word: the token target is not 7 and the row's own fields hold (03 R45). -/
def chkAC (w : AC) (res : Bool) : Option WordFault :=
  wordCheck (tokAC w.hdr) (w.tt != 7 && res) true true

/-- Acquire, release and scope are all zero. -/
def AC.noOrder (w : AC) : Bool := !w.acq && !w.rel && w.scope == 0

/-- A scope without acquire or release is illegal in CPY and COLL (05 R100). -/
def AC.scopeOk (w : AC) : Bool := w.scope == 0 || w.acq || w.rel

/-- A Z word has an empty body (03 R46). -/
def chkZ (tok : Bool) (w : Z) : Option WordFault := wordCheck tok (w.body == 0) true true

/-- An MC word whose stream, slot, handle, row0 and count obey the row (11 R226). -/
def chkMC (w : MC) (res : Bool) : Option WordFault := wordCheck (tokOk .m w.hdr) res true true

/-- An MA word: a value outside a column of 12 R240, q among them, is a reserved field. -/
def chkMA (w : MA) (res : Bool) : Option WordFault := wordCheck (tokOk .m w.hdr) res true true

/-- A two-source VVV word of the M engine whose type field is zero (13, 14). -/
def chkM2 (w : VVV) (h0 : Bool) : Option WordFault :=
  wordCheck (tokOk .m w.hdr) (w.ty == 0 && (!h0 || !w.h)) true (isV w.d && isSrc w.a && isSrc w.b)

/-- A reduction or scan: G at most log2 n, X on VSCAN only (10 R212). -/
def chkRed (w : VVI) (scan : Bool) (typ : Bool) : Option WordFault :=
  wordCheck (tokOk .x w.hdr)
    (bits w.imm 5 8 == 0 && (scan || !bit w.imm 4) && (!tyCode w.ty || (bits w.imm 0 4).toNat ≤ tyLogLanes w.ty))
    typ (isV w.d && isSrcX w.a)

/-- A count field from 1 to `hi`. -/
def cnt (c : BitVec 11) (hi : Nat) : Bool := 1 ≤ c.toNat && c.toNat ≤ hi

/-- The ratio of the wider element width to the narrower of VCVT (10 R205). -/
def cvtRatio (d s : BitVec 4) : Nat := 2 ^ (max (tyLogWidth d) (tyLogWidth s) - min (tyLogWidth d) (tyLogWidth s))

/-- Checks 2 to 5 of 03 R54 for every row. Events have no word and always pass. -/
def Instr.check : Instr → Option WordFault
  | .nop w => chkZ (tokNone w.hdr) w
  | .jmp w => wordCheck (tokNone w.hdr) true true true
  | .call w => wordCheck (tokNone w.hdr) true true true
  | .ret w => chkZ (tokNone w.hdr) w
  | .bra w => wordCheck (tokNone w.hdr) (w.cond.toNat ≤ 5) true true
  | .brx w => wordCheck (tokNone w.hdr) (w.cond.toNat ≤ 5) true true
  | .loop w => wordCheck (tokNone w.hdr) (w.cond == 0 && w.b == 0) true (w.a != 0)
  | .align w => chkZ (tokNone w.hdr) w
  | .exit w => chkZ (tokNone w.hdr) w
  | .bar w => wordCheck (tokNone w.hdr) (bits w.mod 0 2 != 3 && w.imm == 0) true true
  | .phase w => wordCheck (tokNone w.hdr) (bits w.mod 2 2 != 0 && bits w.mod 0 2 == 0 && w.imm == 0) true true
  | .mark w => wordCheck (tokNone w.hdr) (bits w.mod 0 2 == 0 && bits w.imm 32 4 == 0) true true
  | .trap w => wordCheck (tokNone w.hdr) (w.mod == 0 && bits w.imm 16 20 == 0) true true
  | .sys w => wordCheck (tokNone w.hdr) (bits w.mod 2 2 == 0 && w.mod != 0 && bits w.imm 16 20 == 0) true true
  | .eret w => chkZ (tokNone w.hdr) w
  | .psw w => wordCheck (tokNone w.hdr) (w.mod == 0 && bits w.imm 8 28 == 0) true true
  | .aadd w => chkA w 0 false
  | .aaddi w => chkA w (-1) true
  | .asub w => chkA w 0 false
  | .amul w => chkA w 0 false
  | .amuli w => chkA w (-1) true
  | .ashl w => chkA w 0x3F false
  | .ashr w => chkA w 0x7F false
  | .aand w => chkA w 0 false
  | .aor w => chkA w 0 false
  | .axor w => chkA w 0 false
  | .amin w => chkA w 0x40 false
  | .amax w => chkA w 0x40 false
  | .ali w => wordCheck (tokOk .a w.hdr) (w.part.toNat ≤ 1) true true
  | .alih w => wordCheck (tokOk .a w.hdr) (w.part == 0) true true
  | .afv w => wordCheck (tokOk .a w.hdr)
      (bits w.imm 7 5 == 0 && (!bit w.imm 12 || w.ty == 4 || w.ty == 5)
        && (!tyCode w.ty || (bits w.imm 0 7).toNat < tyLanes w.ty)) (tyInt w.ty) (w.d.toNat < 32 && isSrc w.a)
  | .lda w => chkAM w true (w.q.toNat < 32)
  | .sta w => chkAM w true (w.q.toNat < 32)
  | .vld w => chkAM w true (isV w.q)
  | .vlds w => chkAM w true (isV w.q)
  | .vldb w => chkAM w true (isV w.q)
  | .vgth w => chkAM w (w.index == 0) (isV w.q)
  | .vst w => chkAM w true (isSrc w.q)
  | .vsts w => chkAM w true (isSrc w.q)
  | .vsct w => chkAM w (w.index == 0) (isV w.q)
  | .lsalign w => chkZ (tokOk .a w.hdr) w
  | .fence w => chkAC w (w.desc == 0 && w.stream == 0 && w.imm == 0 && (w.acq || w.rel))
  | .atm w => chkAM w ((bits w.disp 12 4).toNat ≤ 10) (isV w.q)
  | .vatm w => chkAM w ((bits w.disp 12 4).toNat ≤ 10) (isV w.q)
  | .sacc w => wordCheck (tokOk .a w.hdr) (!w.h) (w.ty == 4 || w.ty == 8)
      (w.d.toNat < 32 && isSrc w.a && isSrc w.b)
  | .saccf w => chkAC w (w.desc == 0 && w.stream == 0 && w.imm == 0)
  | .finc w => wordCheck (tokOk .a w.hdr)
      (w.d == 0 && (bit w.imm 6 || w.a == 0) && bits w.imm 8 17 == 0) true true
  | .fwt w => wordCheck (tokOk .a w.hdr) (w.a == 0 && !bit w.imm 6 && bits w.imm 8 17 == 0) true true
  | .frdf w => wordCheck (tokOk .a w.hdr) (w.a == 0 && w.b == 0 && bits w.imm 6 19 == 0) true true
  | .stset w => chkAC w (w.noOrder && w.imm == 0)
  | .stget w => chkAC w (w.noOrder && w.imm == 0)
  | .cpy w => chkAC w (w.stream == 0 && w.scopeOk)
  | .cpyq w => chkAC w (w.desc == 0 && w.stream == 0 && w.tt == 0 && w.noOrder && bits w.imm 3 21 == 0)
  | .cpyk w => chkAC w (w.desc == 0 && w.stream == 0 && w.noOrder && w.imm == 0)
  | .ttadd w => chkAC w (w.stream == 0 && (!bit w.imm 23 || w.desc == 0) && bits w.imm 13 10 == 0
      && 1 ≤ (bits w.imm 0 13).toNat && (bits w.imm 0 13).toNat ≤ 4096)
  | .ttclr w => chkAC w (w.stream == 0 && w.desc == 0 && w.imm == 0 && w.noOrder)
  | .tierq w => chkAC w (w.stream == 0 && w.imm == 0)
  | .wpf w => chkAC w (w.stream == 0 && !bit w.imm 23 && bits w.imm 12 11 == 0 && bits w.imm 0 12 != 0)
  | .wpfSpec w => chkAC w (w.stream == 0 && bit w.imm 23 && bits w.imm 12 3 == 0 && bits w.imm 0 12 != 0)
  | .fwr w => wordCheck (tokOk .a w.hdr) true true (isSrc w.q)
  | .frd w => wordCheck (tokOk .a w.hdr) true true (isV w.q)
  | .coll w => chkAC w (w.stream == 0 && w.imm == 0 && w.scopeOk)
  | .collq w => chkAC w (w.desc == 0 && w.stream == 0 && w.tt == 0 && w.noOrder && bits w.imm 2 22 == 0)
  | .sadd w => chkS w 0 false
  | .saddi w => chkS w (-1) true
  | .ssub w => chkS w 0 false
  | .smul w => chkS w 0 false
  | .smulh w => chkS w 0x40 false
  | .sdiv w => chkS w 0x40 false
  | .srem w => chkS w 0x40 false
  | .sand w => chkS w 0 false
  | .sor w => chkS w 0 false
  | .sxor w => chkS w 0 false
  | .sshl w => chkS w 0x3F false
  | .sshr w => chkS w 0x3F false
  | .ssra w => chkS w 0x3F false
  | .smin w => chkS w 0x40 false
  | .smax w => chkS w 0x40 false
  | .sslt w => chkS w 0x40 false
  | .ssel w => chkS w 0x3F false
  | .sli w => wordCheck (tokOk .x w.hdr) true true true
  | .slih w => wordCheck (tokOk .x w.hdr) (bits w.imm 32 2 == 0) true true
  | .spopc w => chkS w 0 true
  | .sclz w => chkS w 0 true
  | .sfadd w => chkSF w
  | .sfmul w => chkSF w
  | .sfma w => chkSF w
  | .sfcvt w => wordCheck (tokOk .x w.hdr) (bits w.imm 8 14 == 0 && w.b == 0)
      (tyAny (bits w.imm 0 4) && tyAny (bits w.imm 4 4)) true
  | .sfcmp w => wordCheck (tokOk .x w.hdr) (bits w.imm 7 15 == 0 && bits w.imm 4 3 != 7)
      (tyFloat (bits w.imm 0 4)) true
  | .sfv w => wordCheck (tokOk .x w.hdr)
      (bits w.imm 7 6 == 0 && (!tyCode w.ty || (bits w.imm 0 7).toNat < tyLanes w.ty)) (tyAny w.ty)
      (w.d.toNat < 64 && isSrc w.a)
  | .svs w => wordCheck (tokOk .x w.hdr)
      (bits w.imm 7 6 == 0 && (!tyCode w.ty || (bits w.imm 0 7).toNat < tyLanes w.ty)) (tyAny w.ty)
      (isV w.d && isS11 w.a)
  | .vadd w => chk2 w (tyInt w.ty)
  | .vsub w => chk2 w (tyInt w.ty)
  | .vmul w => chk2 w (tyInt w.ty)
  | .vmulh w => chk2 w (tyInt w.ty)
  | .vmin w => chk2 w (tyInt w.ty)
  | .vmax w => chk2 w (tyInt w.ty)
  | .vabs w => chk1 w (w.ty == 0 || w.ty == 2 || w.ty == 4)
  | .vsadd w => chk2 w (tyInt w.ty)
  | .vssub w => chk2 w (tyInt w.ty)
  | .vand w => chk2 w (tyAny w.ty)
  | .vor w => chk2 w (tyAny w.ty)
  | .vxor w => chk2 w (tyAny w.ty)
  | .vandn w => chk2 w (tyAny w.ty)
  | .vshl w => chk2 w (tyInt w.ty)
  | .vshr w => chk2 w (tyInt w.ty)
  | .vsra w => chk2 w (tyInt w.ty)
  | .vpopc w => chk1 w (tyInt w.ty)
  | .vclz w => chk1 w (tyInt w.ty)
  | .vfadd w => chk2 w (tyFloat w.ty)
  | .vfsub w => chk2 w (tyFloat w.ty)
  | .vfmul w => chk2 w (tyFloat w.ty)
  | .vfma w => chk2 w (tyFloat w.ty)
  | .vfms w => chk2 w (tyFloat w.ty)
  | .vfmin w => chk2 w (tyFloat w.ty)
  | .vfmax w => chk2 w (tyFloat w.ty)
  | .vfabs w => chk1 w (tyFloat w.ty)
  | .vfneg w => chk1 w (tyFloat w.ty)
  | .vrcp w => chk1 w (tyFloat w.ty)
  | .vrsq w => chk1 w (tyFloat w.ty)
  | .vexp2 w => chk1 w (tyFloat w.ty)
  | .vlog2 w => chk1 w (tyFloat w.ty)
  | .vsigm w => chk1 w (tyFloat w.ty)
  | .vtanh w => chk1 w (tyFloat w.ty)
  | .vscale w => chk2 w (tyFloat w.ty)
  | .vcvt w => wordCheck (tokOk .x w.hdr)
      (bits w.imm 8 2 != 3 && (bits w.imm 8 2 != 0 || bits w.imm 5 3 == 0) && !bit w.imm 4
        && w.ty.toNat ≤ 10 && (bits w.imm 0 4).toNat ≤ 10
        && (bits w.imm 8 2 != 1 || w.ty == 1) && (bits w.imm 8 2 != 2 || bits w.imm 0 4 == 1)
        && (bits w.imm 10 3).toNat < cvtRatio w.ty (bits w.imm 0 4)) true (isV w.d && isSrcX w.a)
  | .vpack w => chk2 w (tyPack w.ty)
  | .vunpk w => wordCheck (tokOk .x w.hdr) (bits w.imm 1 12 == 0) (tyPack w.ty) (isV w.d && isSrcX w.a)
  | .vcmp w => wordCheck (tokOk .x w.hdr) (bits w.d 0 4 == 0 && (bits w.d 4 3).toNat ≤ 5) (tyInt w.ty)
      (isSrcX w.a && isSrcX w.b)
  | .vfcmp w => wordCheck (tokOk .x w.hdr) (bits w.d 0 4 == 0 && (bits w.d 4 3).toNat ≤ 6) (tyFloat w.ty)
      (isSrcX w.a && isSrcX w.b)
  | .vsel w => chk2 w (tyAny w.ty)
  | .pand w => wordCheck (tokOk .x w.hdr) (w.ty == 0) true (isP11 w.d && isP11 w.a && isP11 w.b)
  | .por w => wordCheck (tokOk .x w.hdr) (w.ty == 0) true (isP11 w.d && isP11 w.a && isP11 w.b)
  | .pnot w => wordCheck (tokOk .x w.hdr) (w.ty == 0 && w.b == 0 && !w.kb && !w.h) true (isP11 w.d && isP11 w.a)
  | .pcnt w => wordCheck (tokOk .x w.hdr) (w.b == 0 && !w.kb && !w.h) (tyAny w.ty) (isS11 w.d && isP11 w.a)
  | .vradd w => chkRed w false (tyInt w.ty)
  | .vrmax w => chkRed w false (tyAny w.ty)
  | .vrmin w => chkRed w false (tyAny w.ty)
  | .vrfadd w => chkRed w false (tyFloat w.ty)
  | .vscan w => chkRed w true (tyAny w.ty)
  | .vargmx w => chkRed w false (tyAny w.ty)
  | .vperm w => chk2 w (tyAny w.ty)
  | .vbcst w => wordCheck (tokOk .x w.hdr)
      (bits w.imm 7 6 == 0 && (!tyCode w.ty || (bits w.imm 0 7).toNat < tyLanes w.ty)) (tyAny w.ty)
      (isV w.d && isSrcX w.a)
  | .vsld w => wordCheck (tokOk .x w.hdr)
      (bits w.imm 8 5 == 0 && (!tyCode w.ty || (bits w.imm 0 7).toNat < tyLanes w.ty)) (tyAny w.ty)
      (isV w.d && isSrcX w.a)
  | .vzip w => chk2 w (tyAny w.ty)
  | .vuzp w => chk2 w (tyAny w.ty)
  | .viota w => wordCheck (tokOk .x w.hdr) (w.imm == 0) (tyInt w.ty) (isV w.d && isSrcX w.a)
  | .vclr w => wordCheck (tokOk .x w.hdr) (w.a == 0 && w.ty == 0 && !w.ka && bits w.imm 6 7 == 0) true
      (w.d.toNat + (bits w.imm 0 6).toNat < 1536)
  | .vdep w => wordCheck (tokOk .x w.hdr) (w.ty == 0 && !w.ka && w.imm == 0) true (isV w.d && isV w.a)
  | .vmov w => wordCheck (tokOk .x w.hdr) (w.b == 0 && !w.kb && !w.h && w.ty == 0) true (isV w.d && isSrc w.a)
  | .vthr w => chk2 w (tyFloat w.ty)
  | .vsign w => wordCheck (tokOk .x w.hdr) true
      (w.ty == 0 || w.ty == 2 || w.ty == 4 || tyFloat w.ty) (isV w.d && isSrcX w.a)
  | .mfc w => wordCheck (tokOk .x w.hdr) (w.imm == 0 && cregDefined w.creg.toNat) true true
  | .mtc w => wordCheck (tokOk .x w.hdr) (w.imm == 0 && cregDefined w.creg.toNat) true true
  | .tsr w => wordCheck (tokOk .x w.hdr)
      (cregDefined w.creg.toNat && (bits w.imm 0 21).zeroExtend 64 &&& woBits w.creg.toNat == 0) true true
  | .tlbi w => wordCheck (tokOk .x w.hdr)
      (w.d == 0 && w.b == 0 && bits w.imm 2 20 == 0 && bits w.imm 0 2 != 3 && (bits w.imm 0 2 == 1 || w.a == 0))
      true true
  | .hswap w => chkZ (tokOk .x w.hdr) w
  | .ctxsv w => wordCheck (tokOk .x w.hdr) (w.d == 0 && w.imm == 0) true true
  | .ctxld w => wordCheck (tokOk .x w.hdr) (w.d == 0 && w.b == 0 && w.imm == 0) true true
  | .lease w => chkMC w (w.stream == 0 && w.slot == 0 && w.handle == 0 && w.row0 == 0 && w.flags == 0 && w.count != 0)
  | .unlse w => chkMC w (w.stream == 0 && w.slot == 0 && w.handle == 0 && w.row0 == 0 && w.flags == 0 && w.count == 0)
  | .mshape w => chkMC w (w.stream == 0 && w.slot == 0 && w.handle == 0 && w.row0 == 0 && w.count == 0
      && bits w.flags 4 3 == 0 && bits w.flags 0 4 != 0)
  | .mmode w => chkMC w (w.stream == 0 && w.slot == 0 && w.handle == 0 && w.row0 == 0 && w.count == 0
      && bits w.flags 4 3 == 0 && (bits w.flags 0 3).toNat ≤ 4)
  | .wld w => chkMC w (w.handle == 0 && w.row0 == 0 && cnt w.count 256 && bits w.flags 1 6 == 0)
  | .wdrop w => chkMC w (w.stream == 0 && w.handle == 0 && w.row0 == 0 && w.count == 0 && w.flags == 0)
  | .mma w => chkMC w (cnt w.count 1024 && bits w.flags 2 5 == 0)
  | .mmat w => chkMC w (cnt w.count 1024 && bits w.flags 2 5 == 0)
  | .acmal w => chkMA w (w.q == 0 && w.op.toNat ≤ 1 && cnt w.count 64 && !bit w.row0 8
      && (bit w.row0 9 || w.row0 == 0))
  | .acmfr w => chkMA w (w.row0 == 0 && w.count == 0 && w.q == 0 && w.op == 0)
  | .acmz w => chkMA w (cnt w.count 1024 && w.q == 0 && w.op == 0)
  | .acmown w => chkMA w (cnt w.count 1024 && w.q == 0 && w.op.toNat ≤ 3)
  | .acmv w => chkMA w (isV w.q && cnt w.count 4 && w.op.toNat ≤ 7)
  | .acmpk w => chkMA w (isV w.q && w.handle == 0 && cnt w.count 4 && w.op.toNat ≤ 7 && w.row0.toNat + w.count.toNat ≤ 1024)
  | .acmst w => chkMA w (w.q.toNat < 16 && cnt w.count 1024 && w.op == 0)
  | .acmad w => chkMA w (isV w.q && cnt w.count 4 && w.op.toNat ≤ 7)
  | .pred w => chkM2 w true
  | .predup w => chkM2 w false
  | .ptclr w => chkZ (tokOk .m w.hdr) w
  | .disp w => chkM2 w true
  | .rslv w => chkM2 w true
  | .rsnap w => wordCheck (tokOk .m w.hdr) (w.ty == 0 && w.imm == 0) true (isV w.d && isSrc w.a)
  | .emaps w => wordCheck (tokOk .m w.hdr) (w.b == 0 && !w.kb && !w.h && w.ty == 0) true (isV w.d && isSrc w.a)
  | .pbld w => chkMC w (w.slot == 0 && w.handle == 0 && w.flags == 0 && cnt w.count 1024
      && w.row0.toNat + w.count.toNat ≤ 1024)
  | .pbclr w => chkZ (tokOk .m w.hdr) w
  | .pbclmp w => wordCheck (tokOk .m w.hdr) (w.d == 0 && w.b == 0 && !w.kb && !w.h && w.ty == 0) true (isSrc w.a)
  | .pbswp w => wordCheck (tokOk .m w.hdr) (w.d == 0 && w.ty == 0) true (isSrc w.a)
  | .pbrd w => wordCheck (tokOk .m w.hdr)
      (w.a == 0 && !w.ka && w.ty == 0 && bits w.imm 8 4 == 0 && (bit w.imm 12 || (bits w.imm 0 8).toNat ≤ 15))
      true (isV w.d)
  | .pbseed w => wordCheck (tokOk .m w.hdr)
      (w.d == 0 && w.ty == 0 && bits w.imm 1 12 == 0 && (!bit w.imm 0 || (w.a == 0 && !w.ka))) true
      (isSrc w.a)
  | .hfv w => wordCheck (tokOk .m w.hdr) (w.ty == 0 && bits w.imm 5 8 == 0) true (w.d.toNat < 16 && isSrc w.a)
  | .resultLanding _ _ => none
  | .pendingTokenEntry _ _ => none
  | .bankAccess _ => none
  | .meshFlitAdvance _ => none
  | .translationWalk _ => none
  | .saccAccept _ => none
  | .watchdogExpiry _ => none
  | .timerExpiry _ => none
  | .recordedFaultDelivery _ => none
  | .handSwapActivate _ => none
  | .autoHandSwitch _ => none
  | .ttRingReadReturn _ _ => none
  | .ttEntryStart _ _ => none
  | .tierShardArrival _ _ _ => none
  | .tierShardTimeout _ => none
  | .ttEntryEnd _ => none
  | .tierRequestEnd _ => none
  | .specFetchEnd _ => none
  | .stsetImageReturn _ _ => none
  | .copyStart _ => none
  | .copyUnit _ _ => none
  | .copyComplete _ _ => none
  | .leaseGrant _ => none
  | .wldStart _ _ => none
  | .wldComplete _ _ => none
  | .wdropAct _ _ => none
  | .mmaStart _ _ => none
  | .mmaComplete _ _ => none
  | .modeCommandComplete _ _ => none
  | .bandIdleOff _ _ => none
  | .bandWakeDone _ _ => none
  | .accumCommandStart _ _ => none
  | .accumCommandComplete _ _ => none
  | .rslvStart _ _ => none
  | .emapUpdate _ => none
  | .frameArrival _ => none
  | .heldFrameResume _ _ => none
  | .dispComplete _ => none
  | .pbitCommandStart _ => none
  | .pbitSweep _ => none
  | .pbitCommandComplete _ => none
  | .dealIteration _ => none
  | .launchComplete _ => none
  | .barrierComplete _ _ _ => none
  | .flagWaitServed _ _ _ => none
  | .remoteFincArrival _ _ _ _ _ _ _ _ => none
  | .contextAgentFinc _ _ _ _ _ => none
  | .shapeVariableWrite _ _ _ _ => none
  | .queueSchedulerPass => none
  | .queueLaunchStart _ => none
  | .queueWait _ => none
  | .queueSignal _ => none
  | .queueNop _ => none
  | .notify _ _ _ => none
  | .memwr _ _ _ => none
  | .memrd _ _ _ => none
  | .regwr _ _ _ _ => none
  | .regrd _ _ _ => none
  | .attest _ _ => none
  | .haltlog _ => none
  | .ctxnew _ _ => none
  | .ctxend _ => none
  | .remoteRowArrival _ => none
  | .peerAck _ _ _ _ => none
  | .peerAckTimeout _ _ => none
  | .collBlockExchange _ _ _ => none
  | .collStepArrival _ _ _ _ => none
  | .collComplete _ _ => none
  | .parkrpl _ _ => none
  | .parkdis _ _ => none
  | .dnext _ _ => none
  | .drxrWrite _ _ => none
  | .drxWrite _ _ => none
  | .dlstWrite _ _ => none
  | .dovfWrite _ _ => none
  | .spteOpen _ _ => none
  | .spteFree _ _ => none
  | .ttctlWrite _ _ _ => none
  | .swinWrite _ _ => none
  | .qRegisterWrite _ _ _ => none
  | .cpqnWrite _ _ => none
  | .boostRequest _ _ => none
  | .boostWithdraw _ => none
  | .boostAnswer _ _ => none
  | .boostExpiry _ => none
  | .powerWindow => none
  | .sensorSample => none
  | .zcmdEvacuate _ => none
  | .zcmdRefill _ => none
  | .evacStateAdvance _ => none
  | .evacTimeout _ => none
  | .pevqrWrite _ _ => none
  | .rpctlWrite _ _ => none
  | .replayDivergence _ _ => none
  | .ptpMessage _ _ => none
  | .ttmissRead _ _ => none
  | .ttlateRead _ _ => none
  | .frznRead _ _ => none
  | .dcntRead _ _ => none
  | .sptcntRead _ _ => none
  | .ecntRead _ _ => none
  | .controlRegisterWrite _ _ _ => none
  | .deviceReset => none
  | .bootVerification _ => none
  | .cxlLinkChange _ _ _ _ _ => none
  | .uePortLinkChange _ _ => none
  | .peerReadArrival _ _ _ => none
  | .tlbiComplete _ _ => none

/-- An instruction of the Digor: every check of its word passes. -/
abbrev Instr.WellFormed (i : Instr) : Prop := i.check = none

end Sys2Proof
end

