-- ==== Sys2Proof/Decode.lean ====
section
/-! DEFINITION. The decoder and the encoder of the 64-bit instruction word: the header of 03 R38, the body formats of
R45 and the opcode map of R48 to R51. `decode` names why it refuses (checks 1 to 5 of R54); `encode` writes the word
of an instruction from the same tables. -/

namespace Sys2Proof

/-- The tag of a word (03 R38): 0 ALL, 1 A, 2 X, 3 M. -/
def wordTag (w : W64) : Nat := (bits w 62 2).toNat
/-- The opcode of a word (03 R38). -/
def wordOpcode (w : W64) : Nat := (bits w 40 8).toNat
/-- The header fields of a word (03 R38). -/
def wordHdr (w : W64) : Hdr := ⟨bits w 52 10, bits w 50 2, bits w 48 2⟩

/-- A word from its tag, header fields, opcode and body (03 R38). -/
def packWord (tag : BitVec 2) (h : Hdr) (op : BitVec 8) (body : BitVec 40) : W64 :=
  tag ++ h.wait ++ h.pop ++ h.push ++ op ++ body

/-- The fields of a VVV body (03 R45). -/
def unpackVVV (w : W64) : VVV := ⟨wordHdr w, bits w 29 11, bits w 18 11, bits w 7 11, bit w 6, bit w 5, bit w 4, bits w 0 4⟩
/-- The body of a VVV word (03 R45). -/
def bodyVVV (x : VVV) : BitVec 40 := x.d ++ x.a ++ x.b ++ ofBool 1 x.ka ++ ofBool 1 x.kb ++ ofBool 1 x.h ++ x.ty

/-- The fields of a VVI body (03 R45). -/
def unpackVVI (w : W64) : VVI := ⟨wordHdr w, bits w 29 11, bits w 18 11, bits w 14 4, bit w 13, bits w 0 13⟩
/-- The body of a VVI word (03 R45). -/
def bodyVVI (x : VVI) : BitVec 40 := x.d ++ x.a ++ x.ty ++ ofBool 1 x.ka ++ x.imm

/-- The fields of a SSS body (03 R45). -/
def unpackSSS (w : W64) : SSS := ⟨wordHdr w, bits w 34 6, bits w 28 6, bits w 22 6, bits w 0 22⟩
/-- The body of a SSS word (03 R45). -/
def bodySSS (x : SSS) : BitVec 40 := x.d ++ x.a ++ x.b ++ x.imm

/-- The fields of a SSI body (03 R45). -/
def unpackSSI (w : W64) : SSI := ⟨wordHdr w, bits w 34 6, bits w 0 34⟩
/-- The body of a SSI word (03 R45). -/
def bodySSI (x : SSI) : BitVec 40 := x.d ++ x.imm

/-- The fields of a AAA body (03 R45). -/
def unpackAAA (w : W64) : AAA := ⟨wordHdr w, bits w 35 5, bits w 30 5, bits w 25 5, bits w 0 25⟩
/-- The body of a AAA word (03 R45). -/
def bodyAAA (x : AAA) : BitVec 40 := x.d ++ x.a ++ x.b ++ x.imm

/-- The fields of a AAI body (03 R45). -/
def unpackAAI (w : W64) : AAI := ⟨wordHdr w, bits w 35 5, bits w 32 3, bits w 0 32⟩
/-- The body of a AAI word (03 R45). -/
def bodyAAI (x : AAI) : BitVec 40 := x.d ++ x.part ++ x.imm

/-- The fields of a AM body (03 R45). -/
def unpackAM (w : W64) : AM := ⟨wordHdr w, bits w 29 11, bits w 24 5, bits w 19 5, bits w 16 3, bits w 0 16⟩
/-- The body of a AM word (03 R45). -/
def bodyAM (x : AM) : BitVec 40 := x.q ++ x.base ++ x.index ++ x.size ++ x.disp

/-- The fields of a AF body (03 R45). -/
def unpackAF (w : W64) : AF := ⟨wordHdr w, bits w 29 11, bits w 24 5, bits w 0 24⟩
/-- The body of a AF word (03 R45). -/
def bodyAF (x : AF) : BitVec 40 := x.q ++ x.base ++ x.route

/-- The fields of a AC body (03 R45). -/
def unpackAC (w : W64) : AC := ⟨wordHdr w, bits w 35 5, bits w 31 4, bits w 28 3, bit w 27, bit w 26, bits w 24 2, bits w 0 24⟩
/-- The body of a AC word (03 R45). -/
def bodyAC (x : AC) : BitVec 40 := x.desc ++ x.stream ++ x.tt ++ ofBool 1 x.acq ++ ofBool 1 x.rel ++ x.scope ++ x.imm

/-- The fields of a MC body (03 R45). -/
def unpackMC (w : W64) : MC := ⟨wordHdr w, bits w 36 4, bits w 32 4, bits w 28 4, bits w 18 10, bits w 7 11, bits w 0 7⟩
/-- The body of a MC word (03 R45). -/
def bodyMC (x : MC) : BitVec 40 := x.stream ++ x.slot ++ x.handle ++ x.row0 ++ x.count ++ x.flags

/-- The fields of a MA body (03 R45). -/
def unpackMA (w : W64) : MA := ⟨wordHdr w, bits w 36 4, bits w 26 10, bits w 15 11, bits w 4 11, bits w 0 4⟩
/-- The body of a MA word (03 R45). -/
def bodyMA (x : MA) : BitVec 40 := x.handle ++ x.row0 ++ x.count ++ x.q ++ x.op

/-- The fields of a BA body (03 R45). -/
def unpackBA (w : W64) : BA := ⟨wordHdr w, bits w 37 3, bits w 32 5, bits w 27 5, bits w 0 27⟩
/-- The body of a BA word (03 R45). -/
def bodyBA (x : BA) : BitVec 40 := x.cond ++ x.a ++ x.b ++ x.offset

/-- The fields of a BX body (03 R45). -/
def unpackBX (w : W64) : BX := ⟨wordHdr w, bits w 37 3, bits w 31 6, bits w 25 6, bits w 0 25⟩
/-- The body of a BX word (03 R45). -/
def bodyBX (x : BX) : BitVec 40 := x.cond ++ x.a ++ x.b ++ x.offset

/-- The fields of a J body (03 R45). -/
def unpackJ (w : W64) : J := ⟨wordHdr w, bits w 0 40⟩
/-- The body of a J word (03 R45). -/
def bodyJ (x : J) : BitVec 40 := x.offset

/-- The fields of a N body (03 R45). -/
def unpackN (w : W64) : N := ⟨wordHdr w, bits w 36 4, bits w 0 36⟩
/-- The body of a N word (03 R45). -/
def bodyN (x : N) : BitVec 40 := x.mod ++ x.imm

/-- The fields of a K body (03 R45). -/
def unpackK (w : W64) : K := ⟨wordHdr w, bits w 34 6, bits w 22 12, bits w 0 22⟩
/-- The body of a K word (03 R45). -/
def bodyK (x : K) : BitVec 40 := x.s ++ x.creg ++ x.imm

/-- The fields of a Z body (03 R45). -/
def unpackZ (w : W64) : Z := ⟨wordHdr w, bits w 0 40⟩
/-- The body of a Z word (03 R45). -/
def bodyZ (x : Z) : BitVec 40 := x.body

/-- The opcode map of the ALL tag (03 R48); `none` is a hole. -/
def opcodeAll (w : W64) : Nat → Option Instr
  | 0x00 => some (.nop (unpackZ w))
  | 0x01 => some (.jmp (unpackJ w))
  | 0x02 => some (.call (unpackJ w))
  | 0x03 => some (.ret (unpackZ w))
  | 0x04 => some (.bra (unpackBA w))
  | 0x05 => some (.brx (unpackBX w))
  | 0x06 => some (.loop (unpackBA w))
  | 0x07 => some (.align (unpackZ w))
  | 0x08 => some (.exit (unpackZ w))
  | 0x09 => some (.bar (unpackN w))
  | 0x0A => some (.phase (unpackN w))
  | 0x0B => some (.mark (unpackN w))
  | 0x0C => some (.trap (unpackN w))
  | 0x0D => some (.sys (unpackN w))
  | 0x0E => some (.eret (unpackZ w))
  | 0x0F => some (.psw (unpackN w))
  | _ => none

/-- The opcode map of the A tag (03 R49); `none` is a hole. -/
def opcodeA (w : W64) : Nat → Option Instr
  | 0x00 => some (.aadd (unpackAAA w))
  | 0x01 => some (.aaddi (unpackAAA w))
  | 0x02 => some (.asub (unpackAAA w))
  | 0x03 => some (.amul (unpackAAA w))
  | 0x04 => some (.amuli (unpackAAA w))
  | 0x05 => some (.ashl (unpackAAA w))
  | 0x06 => some (.ashr (unpackAAA w))
  | 0x07 => some (.aand (unpackAAA w))
  | 0x08 => some (.aor (unpackAAA w))
  | 0x09 => some (.axor (unpackAAA w))
  | 0x0A => some (.amin (unpackAAA w))
  | 0x0B => some (.amax (unpackAAA w))
  | 0x0C => some (.ali (unpackAAI w))
  | 0x0D => some (.alih (unpackAAI w))
  | 0x0E => some (.afv (unpackVVI w))
  | 0x10 => some (.lda (unpackAM w))
  | 0x11 => some (.sta (unpackAM w))
  | 0x12 => some (.vld (unpackAM w))
  | 0x13 => some (.vlds (unpackAM w))
  | 0x14 => some (.vldb (unpackAM w))
  | 0x15 => some (.vgth (unpackAM w))
  | 0x16 => some (.vst (unpackAM w))
  | 0x17 => some (.vsts (unpackAM w))
  | 0x18 => some (.vsct (unpackAM w))
  | 0x19 => some (.lsalign (unpackZ w))
  | 0x1A => some (.fence (unpackAC w))
  | 0x20 => some (.atm (unpackAM w))
  | 0x21 => some (.vatm (unpackAM w))
  | 0x22 => some (.sacc (unpackVVV w))
  | 0x23 => some (.saccf (unpackAC w))
  | 0x24 => some (.finc (unpackAAA w))
  | 0x25 => some (.fwt (unpackAAA w))
  | 0x26 => some (.frdf (unpackAAA w))
  | 0x28 => some (.stset (unpackAC w))
  | 0x29 => some (.stget (unpackAC w))
  | 0x2A => some (.cpy (unpackAC w))
  | 0x2B => some (.cpyq (unpackAC w))
  | 0x2C => some (.cpyk (unpackAC w))
  | 0x30 => some (.ttadd (unpackAC w))
  | 0x31 => some (.ttclr (unpackAC w))
  | 0x32 => some (.tierq (unpackAC w))
  | 0x33 => if bit w 23 then some (.wpfSpec (unpackAC w)) else some (.wpf (unpackAC w))
  | 0x38 => some (.fwr (unpackAF w))
  | 0x39 => some (.frd (unpackAF w))
  | 0x3A => some (.coll (unpackAC w))
  | 0x3B => some (.collq (unpackAC w))
  | _ => none

/-- The opcode map of the X tag (03 R50); `none` is a hole. -/
def opcodeX (w : W64) : Nat → Option Instr
  | 0x00 => some (.sadd (unpackSSS w))
  | 0x01 => some (.saddi (unpackSSS w))
  | 0x02 => some (.ssub (unpackSSS w))
  | 0x03 => some (.smul (unpackSSS w))
  | 0x04 => some (.smulh (unpackSSS w))
  | 0x05 => some (.sdiv (unpackSSS w))
  | 0x06 => some (.srem (unpackSSS w))
  | 0x07 => some (.sand (unpackSSS w))
  | 0x08 => some (.sor (unpackSSS w))
  | 0x09 => some (.sxor (unpackSSS w))
  | 0x0A => some (.sshl (unpackSSS w))
  | 0x0B => some (.sshr (unpackSSS w))
  | 0x0C => some (.ssra (unpackSSS w))
  | 0x0D => some (.smin (unpackSSS w))
  | 0x0E => some (.smax (unpackSSS w))
  | 0x0F => some (.sslt (unpackSSS w))
  | 0x10 => some (.ssel (unpackSSS w))
  | 0x11 => some (.sli (unpackSSI w))
  | 0x12 => some (.slih (unpackSSI w))
  | 0x13 => some (.spopc (unpackSSS w))
  | 0x14 => some (.sclz (unpackSSS w))
  | 0x15 => some (.sfadd (unpackSSS w))
  | 0x16 => some (.sfmul (unpackSSS w))
  | 0x17 => some (.sfma (unpackSSS w))
  | 0x18 => some (.sfcvt (unpackSSS w))
  | 0x19 => some (.sfcmp (unpackSSS w))
  | 0x1A => some (.sfv (unpackVVI w))
  | 0x1B => some (.svs (unpackVVI w))
  | 0x20 => some (.vadd (unpackVVV w))
  | 0x21 => some (.vsub (unpackVVV w))
  | 0x22 => some (.vmul (unpackVVV w))
  | 0x23 => some (.vmulh (unpackVVV w))
  | 0x24 => some (.vmin (unpackVVV w))
  | 0x25 => some (.vmax (unpackVVV w))
  | 0x26 => some (.vabs (unpackVVV w))
  | 0x27 => some (.vsadd (unpackVVV w))
  | 0x28 => some (.vssub (unpackVVV w))
  | 0x29 => some (.vand (unpackVVV w))
  | 0x2A => some (.vor (unpackVVV w))
  | 0x2B => some (.vxor (unpackVVV w))
  | 0x2C => some (.vandn (unpackVVV w))
  | 0x2D => some (.vshl (unpackVVV w))
  | 0x2E => some (.vshr (unpackVVV w))
  | 0x2F => some (.vsra (unpackVVV w))
  | 0x30 => some (.vpopc (unpackVVV w))
  | 0x31 => some (.vclz (unpackVVV w))
  | 0x40 => some (.vfadd (unpackVVV w))
  | 0x41 => some (.vfsub (unpackVVV w))
  | 0x42 => some (.vfmul (unpackVVV w))
  | 0x43 => some (.vfma (unpackVVV w))
  | 0x44 => some (.vfms (unpackVVV w))
  | 0x45 => some (.vfmin (unpackVVV w))
  | 0x46 => some (.vfmax (unpackVVV w))
  | 0x47 => some (.vfabs (unpackVVV w))
  | 0x48 => some (.vfneg (unpackVVV w))
  | 0x49 => some (.vrcp (unpackVVV w))
  | 0x4A => some (.vrsq (unpackVVV w))
  | 0x4B => some (.vexp2 (unpackVVV w))
  | 0x4C => some (.vlog2 (unpackVVV w))
  | 0x4D => some (.vsigm (unpackVVV w))
  | 0x4E => some (.vtanh (unpackVVV w))
  | 0x4F => some (.vscale (unpackVVV w))
  | 0x50 => some (.vcvt (unpackVVI w))
  | 0x51 => some (.vpack (unpackVVV w))
  | 0x52 => some (.vunpk (unpackVVI w))
  | 0x58 => some (.vcmp (unpackVVV w))
  | 0x59 => some (.vfcmp (unpackVVV w))
  | 0x5A => some (.vsel (unpackVVV w))
  | 0x5B => some (.pand (unpackVVV w))
  | 0x5C => some (.por (unpackVVV w))
  | 0x5D => some (.pnot (unpackVVV w))
  | 0x5E => some (.pcnt (unpackVVV w))
  | 0x60 => some (.vradd (unpackVVI w))
  | 0x61 => some (.vrmax (unpackVVI w))
  | 0x62 => some (.vrmin (unpackVVI w))
  | 0x63 => some (.vrfadd (unpackVVI w))
  | 0x64 => some (.vscan (unpackVVI w))
  | 0x65 => some (.vargmx (unpackVVI w))
  | 0x68 => some (.vperm (unpackVVV w))
  | 0x69 => some (.vbcst (unpackVVI w))
  | 0x6A => some (.vsld (unpackVVI w))
  | 0x6B => some (.vzip (unpackVVV w))
  | 0x6C => some (.vuzp (unpackVVV w))
  | 0x6D => some (.viota (unpackVVI w))
  | 0x70 => some (.vclr (unpackVVI w))
  | 0x71 => some (.vdep (unpackVVI w))
  | 0x72 => some (.vmov (unpackVVV w))
  | 0x73 => some (.vthr (unpackVVV w))
  | 0x74 => some (.vsign (unpackVVI w))
  | 0x78 => some (.mfc (unpackK w))
  | 0x79 => some (.mtc (unpackK w))
  | 0x7A => some (.tsr (unpackK w))
  | 0x7B => some (.tlbi (unpackSSS w))
  | 0x7C => some (.hswap (unpackZ w))
  | 0x7D => some (.ctxsv (unpackSSS w))
  | 0x7E => some (.ctxld (unpackSSS w))
  | _ => none

/-- The opcode map of the M tag (03 R51); `none` is a hole. -/
def opcodeM (w : W64) : Nat → Option Instr
  | 0x00 => some (.lease (unpackMC w))
  | 0x01 => some (.unlse (unpackMC w))
  | 0x02 => some (.mshape (unpackMC w))
  | 0x03 => some (.mmode (unpackMC w))
  | 0x04 => some (.wld (unpackMC w))
  | 0x05 => some (.wdrop (unpackMC w))
  | 0x06 => some (.mma (unpackMC w))
  | 0x07 => some (.mmat (unpackMC w))
  | 0x10 => some (.acmal (unpackMA w))
  | 0x11 => some (.acmfr (unpackMA w))
  | 0x12 => some (.acmz (unpackMA w))
  | 0x13 => some (.acmown (unpackMA w))
  | 0x14 => some (.acmv (unpackMA w))
  | 0x15 => some (.acmpk (unpackMA w))
  | 0x16 => some (.acmst (unpackMA w))
  | 0x17 => some (.acmad (unpackMA w))
  | 0x20 => some (.pred (unpackVVV w))
  | 0x21 => some (.predup (unpackVVV w))
  | 0x22 => some (.ptclr (unpackZ w))
  | 0x23 => some (.disp (unpackVVV w))
  | 0x24 => some (.rslv (unpackVVV w))
  | 0x25 => some (.rsnap (unpackVVI w))
  | 0x26 => some (.emaps (unpackVVV w))
  | 0x30 => some (.pbld (unpackMC w))
  | 0x31 => some (.pbclr (unpackZ w))
  | 0x32 => some (.pbclmp (unpackVVV w))
  | 0x33 => some (.pbswp (unpackVVI w))
  | 0x34 => some (.pbrd (unpackVVI w))
  | 0x35 => some (.pbseed (unpackVVI w))
  | 0x38 => some (.hfv (unpackVVI w))
  | _ => none

/-- The instruction that the tag and the opcode of a word select, its fields unpacked and not yet checked. -/
def opcodeLookup (w : W64) : Option Instr :=
  match wordTag w with
  | 0 => opcodeAll w (wordOpcode w)
  | 1 => opcodeA w (wordOpcode w)
  | 2 => opcodeX w (wordOpcode w)
  | _ => opcodeM w (wordOpcode w)

/-- Decoding: checks 1 to 5 of 03 R54 in their order. -/
def decode (w : W64) : Except WordFault Instr :=
  match opcodeLookup w with
  | none => .error .hole
  | some i =>
    match i.check with
    | none => .ok i
    | some f => .error f

/-- A word from its eight bytes, least significant first (00 R1). -/
def wordOfBytes (bs : List Byte) : W64 :=
  bs.foldr (fun b acc => (acc <<< 8) ||| b.zeroExtend 64) 0

/-- The eight bytes of a word, least significant first (00 R1). -/
def bytesOfWord (w : W64) : List Byte := (List.range 8).map (fun k => bits w (8 * k) 8)

/-- Decoding from bytes: the first eight are the word, and the rest stays; fewer than eight hold no word. -/
def decodeBytes (bs : List Byte) : Option (Except WordFault Instr × List Byte) :=
  if bs.length < 8 then none else some (decode (wordOfBytes (bs.take 8)), bs.drop 8)

/-- The instruction that the decoder reads from the low `nbits` bits of `w`, laid out in memory as 00 R1 says; every
bit of the word above `nbits` is 0. -/
def decodeTableWord (nbits w : Nat) : Option Instr :=
  match decodeBytes (bytesOfWord (BitVec.ofNat 64 (w % 2 ^ nbits))) with
  | some (.ok i, _) => some i
  | _ => none

/-- The word of an instruction (03 R38, R45, R48 to R51); an event has none. -/
def encode : Instr → Option W64
  | .nop x => some (packWord 0 x.hdr 0x00 (bodyZ x))
  | .jmp x => some (packWord 0 x.hdr 0x01 (bodyJ x))
  | .call x => some (packWord 0 x.hdr 0x02 (bodyJ x))
  | .ret x => some (packWord 0 x.hdr 0x03 (bodyZ x))
  | .bra x => some (packWord 0 x.hdr 0x04 (bodyBA x))
  | .brx x => some (packWord 0 x.hdr 0x05 (bodyBX x))
  | .loop x => some (packWord 0 x.hdr 0x06 (bodyBA x))
  | .align x => some (packWord 0 x.hdr 0x07 (bodyZ x))
  | .exit x => some (packWord 0 x.hdr 0x08 (bodyZ x))
  | .bar x => some (packWord 0 x.hdr 0x09 (bodyN x))
  | .phase x => some (packWord 0 x.hdr 0x0A (bodyN x))
  | .mark x => some (packWord 0 x.hdr 0x0B (bodyN x))
  | .trap x => some (packWord 0 x.hdr 0x0C (bodyN x))
  | .sys x => some (packWord 0 x.hdr 0x0D (bodyN x))
  | .eret x => some (packWord 0 x.hdr 0x0E (bodyZ x))
  | .psw x => some (packWord 0 x.hdr 0x0F (bodyN x))
  | .aadd x => some (packWord 1 x.hdr 0x00 (bodyAAA x))
  | .aaddi x => some (packWord 1 x.hdr 0x01 (bodyAAA x))
  | .asub x => some (packWord 1 x.hdr 0x02 (bodyAAA x))
  | .amul x => some (packWord 1 x.hdr 0x03 (bodyAAA x))
  | .amuli x => some (packWord 1 x.hdr 0x04 (bodyAAA x))
  | .ashl x => some (packWord 1 x.hdr 0x05 (bodyAAA x))
  | .ashr x => some (packWord 1 x.hdr 0x06 (bodyAAA x))
  | .aand x => some (packWord 1 x.hdr 0x07 (bodyAAA x))
  | .aor x => some (packWord 1 x.hdr 0x08 (bodyAAA x))
  | .axor x => some (packWord 1 x.hdr 0x09 (bodyAAA x))
  | .amin x => some (packWord 1 x.hdr 0x0A (bodyAAA x))
  | .amax x => some (packWord 1 x.hdr 0x0B (bodyAAA x))
  | .ali x => some (packWord 1 x.hdr 0x0C (bodyAAI x))
  | .alih x => some (packWord 1 x.hdr 0x0D (bodyAAI x))
  | .afv x => some (packWord 1 x.hdr 0x0E (bodyVVI x))
  | .lda x => some (packWord 1 x.hdr 0x10 (bodyAM x))
  | .sta x => some (packWord 1 x.hdr 0x11 (bodyAM x))
  | .vld x => some (packWord 1 x.hdr 0x12 (bodyAM x))
  | .vlds x => some (packWord 1 x.hdr 0x13 (bodyAM x))
  | .vldb x => some (packWord 1 x.hdr 0x14 (bodyAM x))
  | .vgth x => some (packWord 1 x.hdr 0x15 (bodyAM x))
  | .vst x => some (packWord 1 x.hdr 0x16 (bodyAM x))
  | .vsts x => some (packWord 1 x.hdr 0x17 (bodyAM x))
  | .vsct x => some (packWord 1 x.hdr 0x18 (bodyAM x))
  | .lsalign x => some (packWord 1 x.hdr 0x19 (bodyZ x))
  | .fence x => some (packWord 1 x.hdr 0x1A (bodyAC x))
  | .atm x => some (packWord 1 x.hdr 0x20 (bodyAM x))
  | .vatm x => some (packWord 1 x.hdr 0x21 (bodyAM x))
  | .sacc x => some (packWord 1 x.hdr 0x22 (bodyVVV x))
  | .saccf x => some (packWord 1 x.hdr 0x23 (bodyAC x))
  | .finc x => some (packWord 1 x.hdr 0x24 (bodyAAA x))
  | .fwt x => some (packWord 1 x.hdr 0x25 (bodyAAA x))
  | .frdf x => some (packWord 1 x.hdr 0x26 (bodyAAA x))
  | .stset x => some (packWord 1 x.hdr 0x28 (bodyAC x))
  | .stget x => some (packWord 1 x.hdr 0x29 (bodyAC x))
  | .cpy x => some (packWord 1 x.hdr 0x2A (bodyAC x))
  | .cpyq x => some (packWord 1 x.hdr 0x2B (bodyAC x))
  | .cpyk x => some (packWord 1 x.hdr 0x2C (bodyAC x))
  | .ttadd x => some (packWord 1 x.hdr 0x30 (bodyAC x))
  | .ttclr x => some (packWord 1 x.hdr 0x31 (bodyAC x))
  | .tierq x => some (packWord 1 x.hdr 0x32 (bodyAC x))
  | .wpf x => some (packWord 1 x.hdr 0x33 (bodyAC x))
  | .wpfSpec x => some (packWord 1 x.hdr 0x33 (bodyAC x))
  | .fwr x => some (packWord 1 x.hdr 0x38 (bodyAF x))
  | .frd x => some (packWord 1 x.hdr 0x39 (bodyAF x))
  | .coll x => some (packWord 1 x.hdr 0x3A (bodyAC x))
  | .collq x => some (packWord 1 x.hdr 0x3B (bodyAC x))
  | .sadd x => some (packWord 2 x.hdr 0x00 (bodySSS x))
  | .saddi x => some (packWord 2 x.hdr 0x01 (bodySSS x))
  | .ssub x => some (packWord 2 x.hdr 0x02 (bodySSS x))
  | .smul x => some (packWord 2 x.hdr 0x03 (bodySSS x))
  | .smulh x => some (packWord 2 x.hdr 0x04 (bodySSS x))
  | .sdiv x => some (packWord 2 x.hdr 0x05 (bodySSS x))
  | .srem x => some (packWord 2 x.hdr 0x06 (bodySSS x))
  | .sand x => some (packWord 2 x.hdr 0x07 (bodySSS x))
  | .sor x => some (packWord 2 x.hdr 0x08 (bodySSS x))
  | .sxor x => some (packWord 2 x.hdr 0x09 (bodySSS x))
  | .sshl x => some (packWord 2 x.hdr 0x0A (bodySSS x))
  | .sshr x => some (packWord 2 x.hdr 0x0B (bodySSS x))
  | .ssra x => some (packWord 2 x.hdr 0x0C (bodySSS x))
  | .smin x => some (packWord 2 x.hdr 0x0D (bodySSS x))
  | .smax x => some (packWord 2 x.hdr 0x0E (bodySSS x))
  | .sslt x => some (packWord 2 x.hdr 0x0F (bodySSS x))
  | .ssel x => some (packWord 2 x.hdr 0x10 (bodySSS x))
  | .sli x => some (packWord 2 x.hdr 0x11 (bodySSI x))
  | .slih x => some (packWord 2 x.hdr 0x12 (bodySSI x))
  | .spopc x => some (packWord 2 x.hdr 0x13 (bodySSS x))
  | .sclz x => some (packWord 2 x.hdr 0x14 (bodySSS x))
  | .sfadd x => some (packWord 2 x.hdr 0x15 (bodySSS x))
  | .sfmul x => some (packWord 2 x.hdr 0x16 (bodySSS x))
  | .sfma x => some (packWord 2 x.hdr 0x17 (bodySSS x))
  | .sfcvt x => some (packWord 2 x.hdr 0x18 (bodySSS x))
  | .sfcmp x => some (packWord 2 x.hdr 0x19 (bodySSS x))
  | .sfv x => some (packWord 2 x.hdr 0x1A (bodyVVI x))
  | .svs x => some (packWord 2 x.hdr 0x1B (bodyVVI x))
  | .vadd x => some (packWord 2 x.hdr 0x20 (bodyVVV x))
  | .vsub x => some (packWord 2 x.hdr 0x21 (bodyVVV x))
  | .vmul x => some (packWord 2 x.hdr 0x22 (bodyVVV x))
  | .vmulh x => some (packWord 2 x.hdr 0x23 (bodyVVV x))
  | .vmin x => some (packWord 2 x.hdr 0x24 (bodyVVV x))
  | .vmax x => some (packWord 2 x.hdr 0x25 (bodyVVV x))
  | .vabs x => some (packWord 2 x.hdr 0x26 (bodyVVV x))
  | .vsadd x => some (packWord 2 x.hdr 0x27 (bodyVVV x))
  | .vssub x => some (packWord 2 x.hdr 0x28 (bodyVVV x))
  | .vand x => some (packWord 2 x.hdr 0x29 (bodyVVV x))
  | .vor x => some (packWord 2 x.hdr 0x2A (bodyVVV x))
  | .vxor x => some (packWord 2 x.hdr 0x2B (bodyVVV x))
  | .vandn x => some (packWord 2 x.hdr 0x2C (bodyVVV x))
  | .vshl x => some (packWord 2 x.hdr 0x2D (bodyVVV x))
  | .vshr x => some (packWord 2 x.hdr 0x2E (bodyVVV x))
  | .vsra x => some (packWord 2 x.hdr 0x2F (bodyVVV x))
  | .vpopc x => some (packWord 2 x.hdr 0x30 (bodyVVV x))
  | .vclz x => some (packWord 2 x.hdr 0x31 (bodyVVV x))
  | .vfadd x => some (packWord 2 x.hdr 0x40 (bodyVVV x))
  | .vfsub x => some (packWord 2 x.hdr 0x41 (bodyVVV x))
  | .vfmul x => some (packWord 2 x.hdr 0x42 (bodyVVV x))
  | .vfma x => some (packWord 2 x.hdr 0x43 (bodyVVV x))
  | .vfms x => some (packWord 2 x.hdr 0x44 (bodyVVV x))
  | .vfmin x => some (packWord 2 x.hdr 0x45 (bodyVVV x))
  | .vfmax x => some (packWord 2 x.hdr 0x46 (bodyVVV x))
  | .vfabs x => some (packWord 2 x.hdr 0x47 (bodyVVV x))
  | .vfneg x => some (packWord 2 x.hdr 0x48 (bodyVVV x))
  | .vrcp x => some (packWord 2 x.hdr 0x49 (bodyVVV x))
  | .vrsq x => some (packWord 2 x.hdr 0x4A (bodyVVV x))
  | .vexp2 x => some (packWord 2 x.hdr 0x4B (bodyVVV x))
  | .vlog2 x => some (packWord 2 x.hdr 0x4C (bodyVVV x))
  | .vsigm x => some (packWord 2 x.hdr 0x4D (bodyVVV x))
  | .vtanh x => some (packWord 2 x.hdr 0x4E (bodyVVV x))
  | .vscale x => some (packWord 2 x.hdr 0x4F (bodyVVV x))
  | .vcvt x => some (packWord 2 x.hdr 0x50 (bodyVVI x))
  | .vpack x => some (packWord 2 x.hdr 0x51 (bodyVVV x))
  | .vunpk x => some (packWord 2 x.hdr 0x52 (bodyVVI x))
  | .vcmp x => some (packWord 2 x.hdr 0x58 (bodyVVV x))
  | .vfcmp x => some (packWord 2 x.hdr 0x59 (bodyVVV x))
  | .vsel x => some (packWord 2 x.hdr 0x5A (bodyVVV x))
  | .pand x => some (packWord 2 x.hdr 0x5B (bodyVVV x))
  | .por x => some (packWord 2 x.hdr 0x5C (bodyVVV x))
  | .pnot x => some (packWord 2 x.hdr 0x5D (bodyVVV x))
  | .pcnt x => some (packWord 2 x.hdr 0x5E (bodyVVV x))
  | .vradd x => some (packWord 2 x.hdr 0x60 (bodyVVI x))
  | .vrmax x => some (packWord 2 x.hdr 0x61 (bodyVVI x))
  | .vrmin x => some (packWord 2 x.hdr 0x62 (bodyVVI x))
  | .vrfadd x => some (packWord 2 x.hdr 0x63 (bodyVVI x))
  | .vscan x => some (packWord 2 x.hdr 0x64 (bodyVVI x))
  | .vargmx x => some (packWord 2 x.hdr 0x65 (bodyVVI x))
  | .vperm x => some (packWord 2 x.hdr 0x68 (bodyVVV x))
  | .vbcst x => some (packWord 2 x.hdr 0x69 (bodyVVI x))
  | .vsld x => some (packWord 2 x.hdr 0x6A (bodyVVI x))
  | .vzip x => some (packWord 2 x.hdr 0x6B (bodyVVV x))
  | .vuzp x => some (packWord 2 x.hdr 0x6C (bodyVVV x))
  | .viota x => some (packWord 2 x.hdr 0x6D (bodyVVI x))
  | .vclr x => some (packWord 2 x.hdr 0x70 (bodyVVI x))
  | .vdep x => some (packWord 2 x.hdr 0x71 (bodyVVI x))
  | .vmov x => some (packWord 2 x.hdr 0x72 (bodyVVV x))
  | .vthr x => some (packWord 2 x.hdr 0x73 (bodyVVV x))
  | .vsign x => some (packWord 2 x.hdr 0x74 (bodyVVI x))
  | .mfc x => some (packWord 2 x.hdr 0x78 (bodyK x))
  | .mtc x => some (packWord 2 x.hdr 0x79 (bodyK x))
  | .tsr x => some (packWord 2 x.hdr 0x7A (bodyK x))
  | .tlbi x => some (packWord 2 x.hdr 0x7B (bodySSS x))
  | .hswap x => some (packWord 2 x.hdr 0x7C (bodyZ x))
  | .ctxsv x => some (packWord 2 x.hdr 0x7D (bodySSS x))
  | .ctxld x => some (packWord 2 x.hdr 0x7E (bodySSS x))
  | .lease x => some (packWord 3 x.hdr 0x00 (bodyMC x))
  | .unlse x => some (packWord 3 x.hdr 0x01 (bodyMC x))
  | .mshape x => some (packWord 3 x.hdr 0x02 (bodyMC x))
  | .mmode x => some (packWord 3 x.hdr 0x03 (bodyMC x))
  | .wld x => some (packWord 3 x.hdr 0x04 (bodyMC x))
  | .wdrop x => some (packWord 3 x.hdr 0x05 (bodyMC x))
  | .mma x => some (packWord 3 x.hdr 0x06 (bodyMC x))
  | .mmat x => some (packWord 3 x.hdr 0x07 (bodyMC x))
  | .acmal x => some (packWord 3 x.hdr 0x10 (bodyMA x))
  | .acmfr x => some (packWord 3 x.hdr 0x11 (bodyMA x))
  | .acmz x => some (packWord 3 x.hdr 0x12 (bodyMA x))
  | .acmown x => some (packWord 3 x.hdr 0x13 (bodyMA x))
  | .acmv x => some (packWord 3 x.hdr 0x14 (bodyMA x))
  | .acmpk x => some (packWord 3 x.hdr 0x15 (bodyMA x))
  | .acmst x => some (packWord 3 x.hdr 0x16 (bodyMA x))
  | .acmad x => some (packWord 3 x.hdr 0x17 (bodyMA x))
  | .pred x => some (packWord 3 x.hdr 0x20 (bodyVVV x))
  | .predup x => some (packWord 3 x.hdr 0x21 (bodyVVV x))
  | .ptclr x => some (packWord 3 x.hdr 0x22 (bodyZ x))
  | .disp x => some (packWord 3 x.hdr 0x23 (bodyVVV x))
  | .rslv x => some (packWord 3 x.hdr 0x24 (bodyVVV x))
  | .rsnap x => some (packWord 3 x.hdr 0x25 (bodyVVI x))
  | .emaps x => some (packWord 3 x.hdr 0x26 (bodyVVV x))
  | .pbld x => some (packWord 3 x.hdr 0x30 (bodyMC x))
  | .pbclr x => some (packWord 3 x.hdr 0x31 (bodyZ x))
  | .pbclmp x => some (packWord 3 x.hdr 0x32 (bodyVVV x))
  | .pbswp x => some (packWord 3 x.hdr 0x33 (bodyVVI x))
  | .pbrd x => some (packWord 3 x.hdr 0x34 (bodyVVI x))
  | .pbseed x => some (packWord 3 x.hdr 0x35 (bodyVVI x))
  | .hfv x => some (packWord 3 x.hdr 0x38 (bodyVVI x))
  | .resultLanding _ _ => none
  | .pendingTokenEntry _ _ => none
  | .bankAccess _ => none
  | .meshFlitAdvance _ => none
  | .translationWalk _ => none
  | .saccAccept _ => none
  | .watchdogExpiry _ => none
  | .timerExpiry _ => none
  | .recordedFaultDelivery _ => none
  | .handSwapActivate _ => none
  | .autoHandSwitch _ => none
  | .ttRingReadReturn _ _ => none
  | .ttEntryStart _ _ => none
  | .tierShardArrival _ _ _ => none
  | .tierShardTimeout _ => none
  | .ttEntryEnd _ => none
  | .tierRequestEnd _ => none
  | .specFetchEnd _ => none
  | .stsetImageReturn _ _ => none
  | .copyStart _ => none
  | .copyUnit _ _ => none
  | .copyComplete _ _ => none
  | .leaseGrant _ => none
  | .wldStart _ _ => none
  | .wldComplete _ _ => none
  | .wdropAct _ _ => none
  | .mmaStart _ _ => none
  | .mmaComplete _ _ => none
  | .modeCommandComplete _ _ => none
  | .bandIdleOff _ _ => none
  | .bandWakeDone _ _ => none
  | .accumCommandStart _ _ => none
  | .accumCommandComplete _ _ => none
  | .rslvStart _ _ => none
  | .emapUpdate _ => none
  | .frameArrival _ => none
  | .heldFrameResume _ _ => none
  | .dispComplete _ => none
  | .pbitCommandStart _ => none
  | .pbitSweep _ => none
  | .pbitCommandComplete _ => none
  | .dealIteration _ => none
  | .launchComplete _ => none
  | .barrierComplete _ _ _ => none
  | .flagWaitServed _ _ _ => none
  | .remoteFincArrival _ _ _ _ _ _ _ _ => none
  | .contextAgentFinc _ _ _ _ _ => none
  | .shapeVariableWrite _ _ _ _ => none
  | .queueSchedulerPass => none
  | .queueLaunchStart _ => none
  | .queueWait _ => none
  | .queueSignal _ => none
  | .queueNop _ => none
  | .notify _ _ _ => none
  | .memwr _ _ _ => none
  | .memrd _ _ _ => none
  | .regwr _ _ _ _ => none
  | .regrd _ _ _ => none
  | .attest _ _ => none
  | .haltlog _ => none
  | .ctxnew _ _ => none
  | .ctxend _ => none
  | .remoteRowArrival _ => none
  | .peerAck _ _ _ _ => none
  | .peerAckTimeout _ _ => none
  | .collBlockExchange _ _ _ => none
  | .collStepArrival _ _ _ _ => none
  | .collComplete _ _ => none
  | .parkrpl _ _ => none
  | .parkdis _ _ => none
  | .dnext _ _ => none
  | .drxrWrite _ _ => none
  | .drxWrite _ _ => none
  | .dlstWrite _ _ => none
  | .dovfWrite _ _ => none
  | .spteOpen _ _ => none
  | .spteFree _ _ => none
  | .ttctlWrite _ _ _ => none
  | .swinWrite _ _ => none
  | .qRegisterWrite _ _ _ => none
  | .cpqnWrite _ _ => none
  | .boostRequest _ _ => none
  | .boostWithdraw _ => none
  | .boostAnswer _ _ => none
  | .boostExpiry _ => none
  | .powerWindow => none
  | .sensorSample => none
  | .zcmdEvacuate _ => none
  | .zcmdRefill _ => none
  | .evacStateAdvance _ => none
  | .evacTimeout _ => none
  | .pevqrWrite _ _ => none
  | .rpctlWrite _ _ => none
  | .replayDivergence _ _ => none
  | .ptpMessage _ _ => none
  | .ttmissRead _ _ => none
  | .ttlateRead _ _ => none
  | .frznRead _ _ => none
  | .dcntRead _ _ => none
  | .sptcntRead _ _ => none
  | .ecntRead _ _ => none
  | .controlRegisterWrite _ _ _ => none
  | .deviceReset => none
  | .bootVerification _ => none
  | .cxlLinkChange _ _ _ _ _ => none
  | .uePortLinkChange _ _ => none
  | .peerReadArrival _ _ _ => none
  | .tlbiComplete _ _ => none

end Sys2Proof
end

