-- ==== Sys2Proof/Machine/KMap.lean ====
section
/-! DEFINITION. A finite map from numbers as plain data: a list of key and value pairs in rising key order. A key that
is not listed reads as the map's default. -/

namespace Sys2Proof.Machine

/-- A map from numbers to values, listed by rising key. -/
abbrev KMap (α : Type) := List (Nat × α)

/-- The value at a key, or the default `d`. -/
def KMap.get {α : Type} (d : α) : KMap α → Nat → α
  | [], _ => d
  | (k', v) :: t, k => if k' = k then v else KMap.get d t k

/-- The map with `v` at `k`, its keys kept in order. -/
def KMap.set {α : Type} : KMap α → Nat → α → KMap α
  | [], k, v => [(k, v)]
  | (k', v') :: t, k, v =>
    if k' = k then (k, v) :: t
    else if k < k' then (k, v) :: (k', v') :: t
    else (k', v') :: KMap.set t k v

/-- The keys of a map. -/
def KMap.keys {α : Type} (m : KMap α) : List Nat := m.map (·.1)

end Sys2Proof.Machine
end

