-- ==== Sys2Proof/Machine/State.lean ====
section
/-! DEFINITION. The state of the package as plain data: what every hand, core, cluster, die, context, partition and the
device hold, the physical memory, and the agenda of what is due. Each structure names the rule that gives it; the
fields marked MODEL are the model's own bookkeeping. State.reset is the machine right after reset. -/

namespace Sys2Proof.Machine

/-- The reasons a step can stop the model with a fault. -/
inductive Fault where
  /-- Raised by an agent's access to a physical address at which the spec places no memory (04 R61), where no rule names
  a trap for it: a register-named physical ring (20 R383, 21 R396, 15 R287) outside DRAM and CXL. Safe: the model stops. -/
  | absentMemory (pa : Nat)
  deriving DecidableEq, Repr

/-- The reasons a step can refuse. -/
inductive Refusal where
  /-- Raised by an arm of exec for an instruction that has no meaning yet. Safe: the model stops. -/
  | notModelled (mnemonic : String)
  deriving DecidableEq, Repr

/-- Memory: address and byte pairs, addresses strictly rising, no byte equal to the 0 that an unlisted address reads as
(log 3). Keys below 2^52 are physical addresses (04 R61); slice bytes lie above (Ops.sliceKey, 06 R114). -/
abbrev Memory := List Host.Cell

/-- The canonical form of a memory: addresses strictly rising, and no 0 listed. -/
def Memory.wf : Memory → Bool
  | [] => true
  | (a, v) :: t => v != 0 && t.head?.all (fun p => decide (a < p.1)) && Memory.wf t

/-! ## A hand -/

/-- One entry of a queue register: landed, landed with a parity error (19 R379), or reserved by the result with that id (07
R139). -/
inductive Slot where
  | landed (x : Entry)
  | parity (x : Entry)
  | reserved (id : Nat)
  deriving DecidableEq, Repr

/-- A token FIFO (07 R143): tokens, reserved places, completions that wait for a place, and how many tokens entered in
cycle `lastIn` (they can be popped from the next cycle on). -/
structure Fifo where
  count : Nat := 0
  reserved : Nat := 0
  pend : Nat := 0
  lastIn : Nat := 0
  lastN : Nat := 0
  deriving DecidableEq, Repr

/-- What a landing writes. Register numbers are home keys (Ops.sKey, Ops.aKey). -/
inductive Land where
  | sreg (n : Nat) (v : W64)
  | areg (n : Nat) (v : W64)
  | hreg (n : Nat) (v : W32)
  | preg (n : Nat) (v : BitVec 128)
  | queue (n : Nat) (v : Entry)
  | streg (n : Nat) (v : BitVec 256)
  | creg (n : Nat) (v : W64)
  | mem (k : Nat) (bs : List Byte)
  deriving DecidableEq, Repr

/-- What a FENCE or SACCF waits for (06 R124, R129): the accesses numbered below `snap`, of them all when it releases, else
loads and atomics; for a release at fabric scope the acknowledgements of other devices too. -/
structure Fence where
  snap : Nat
  rel : Bool := false
  fabric : Bool := false
  deriving DecidableEq, Repr

/-- A fault with the fields of its record: the cause, the reason, and the cause's own 8-byte slots (19 R366). -/
structure FaultRec where
  cause : Nat
  reason : Nat := 0
  slots : List W64 := []
  deriving DecidableEq, Repr

/-- A result in flight (07 R137, R139): what it writes, the flags it sets (08 R169), the FIFO (1 to 6, 0 none) its token
enters, and when it lands; `ready` is clear while a bank has yet to supply it. `acq` holds later accesses and A-engine commands until it
lands (06 R124); a completion with a `fence` waits for it, and its token `tok` enters without a reserved place (07 R143); `fault` is
the machine-check of the data it brings, delivered at the boundary before the landing vc (19 R379). -/
structure Result where
  id : Nat
  lands : List Land
  flags : BitVec 6 := 0
  push : Nat := 0
  due : Nat := 0
  ready : Bool := true
  xres : Bool := false
  acq : Bool := false
  fence : Option Fence := none
  tok : Nat := 0
  fault : Option FaultRec := none
  deriving DecidableEq, Repr

/-- What an engine holds: its PC, the vc of its previous issue or rendezvous, whether it has issued in this vc, whether
it has arrived at a rendezvous, its word counter (07 R147), ISEQ and last issue vc (19 R366), the one suppressed
breakpoint compare (19 R378), whether a trap entry or ERET has made its next word due in the next vc whatever its wait (19 R363,
R367), its return stack (09 R187), operand latch (07 R142), outcome queue (07 R144), and a vc
before which its next word is not due (19 R371). -/
structure EngineState where
  pc : W64 := 0
  prev : Nat := 0
  issued : Bool := false
  arrived : Bool := false
  words : Nat := 0
  iseq : Nat := 0
  lastVc : Nat := 0
  bkOff : Bool := false
  anew : Bool := false
  stack : List W64 := []
  latch : Option (Nat × Entry) := none
  outq : List Bool := []
  notBefore : Nat := 0
  deriving DecidableEq, Repr

/-- Why an engine is blocked (07 R146): the freeze code, the engine, and the FIFO or register the deadlock record names. -/
structure Blocked where
  code : Nat
  eng : Engine
  info : Nat := 0
  deriving DecidableEq, Repr

/-- What an access does at its bank or controller (06 R121, R126); `img` reads command images (04 R81), `peerW` and `peerR` go to
another device (15 R286), the first in the ordered stream or not. -/
inductive AccOp where
  | load8 | load128 | loadB | gather | store8 | store128 | scatter
  | atm (op : Nat) | vatm (op : Nat)
  | img (n : Nat)
  | peerW (ord : Bool) | peerR
  deriving DecidableEq, Repr

/-- An access in a load or store queue (06 R118): the byte address of every lane, the rows it was issued for, the operand
and compare entries, when it leaves its queue, when it is performed, how many of its flits are on the mesh, the result that waits
for it, the ISEQ of its engine, the number below which no access of the hand may be left before it acts (06 R123, 18 R350), the
directions of a placed flit (15 R285), the bank input it came by (06 R116: 0 local, 1 to 4 N, E, S, W), and whether it has gone to its
peer. -/
structure Access where
  id : Nat
  hand : Nat
  isLoad : Bool
  op : AccOp
  keys : List Nat
  rows : List W64
  data : Entry := 0
  cmp : Entry := 0
  rel : Nat := 0
  at_ : Nat := 0
  waits : Nat := 0
  land : Nat := 4
  res : Nat := 0
  reg : Nat := 0
  push : Nat := 0
  remote : Bool := false
  vas : List W64 := []
  iseq : Nat := 0
  after : Nat := 0
  route : List Nat := []
  port : Nat := 0
  sent : Bool := false
  deriving DecidableEq, Repr

/-- A copy in flight (05 R101, R108): its number in the model, sequence number, context, descriptor, captured XMODE and Q and permission,
the route of the word as the cluster where it ejects and its H, the token target of the word and its own, next indices i0 to i5, running
CRC, mask bits formed, state (0 waiting, 1 emitting, 2 at a resume point, 3 faulted, 4 emitted, 5 cancelled, 6 writing its mask before a
resume point), first emission and the unit it began with, end of emission, the latency of a unit, and the cycle it was stopped. -/
structure Copy where
  id : Nat := 0
  seq : Nat
  ctx : Nat := 0
  descAt : W64
  desc : List Byte
  xmode : Nat
  qreg : Nat
  u : Bool := true
  route : Option (Nat × Nat) := none
  tt : Nat := 0
  push : Nat := 0
  idx : List Nat := [0, 0, 0, 0, 0, 0]
  crc : W64 := BitVec.allOnes 64
  mask : List Bool := []
  state : Nat := 0
  startT : Nat := 0
  first : Nat := 0
  endT : Nat := 0
  lat : Nat := 0
  stopT : Option Nat := none
  remoteW : Bool := false
  reason : Nat := 0
  deriving DecidableEq, Repr

/-- A collective in flight, kept where it was issued (15 R297): its number in the model, sequence number, block, permission, token target,
the number of its thread, the number behind whose accesses its reads stand (18 R350), members in rank order (a hand, or 1024 + peer entry,
with the collective's number there), own rank, state (0 exchange, 1 running, 3 faulted), the steps performed
and in all, tree contributions waiting for an earlier one, sends not yet performed, CSUM failures of each chunk (R300), and the rows of a token exchange: counted, discarded,
parked at receivers. -/
structure Coll where
  id : Nat := 0
  seq : Nat
  iseq : Nat := 0
  block : List Byte
  u : Bool := true
  push : Nat := 0
  ctx : Nat := 0
  members : List (Nat × Nat) := []
  rank : Nat := 0
  state : Nat := 0
  reason : Nat := 0
  done : List Nat := []
  total : Nat := 0
  stash : KMap (List Byte) := []
  sends : Nat := 0
  fails : KMap Nat := []
  rows : Nat := 0
  discarded : Nat := 0
  parked : List Nat := []
  tid : Nat := 0
  after : Nat := 0
  deriving DecidableEq, Repr

/-- A TTADD whose entries are being appended (04 R81): the images left, or how many to publish, the cycle by which its release
is nominally done (0: none) and whether that is at fabric scope, its token, the first index it took, and the number behind whose accesses
its entries start (18 R350). -/
structure TtAdd where
  images : List (List Byte) := []
  pub : Nat := 0
  isPub : Bool := false
  rel : Nat := 0
  fabric : Bool := false
  tok : Nat := 0
  first : Nat := 0
  after : Nat := 0
  deriving DecidableEq, Repr

/-- What a p-bit command does (16 R311). -/
inductive PbOp where
  | ld (st : BitVec 256) (b0 nb : Nat)
  | clr
  | clmp (v : Entry)
  | swp (b : Nat) (n : Nat)
  | rd (cnt : Bool) (k : Nat) (res : Nat)
  | seed (ent : Bool) (v : W32)
  deriving DecidableEq, Repr

/-- A p-bit command (16 R305): when it started, the sweeps left of a PBSWP (at its start: of one that was stopped), whether it is to stop after the
sweep under way (R315), and the entry that a PBRD has read. -/
structure PbCmd where
  hand : Nat
  ctx : Nat
  op : PbOp
  push : Nat
  started : Bool := false
  startT : Nat := 0
  left : Nat := 0
  stop : Bool := false
  val : Entry := 0
  deriving DecidableEq, Repr

/-- What an entry of an array command queue does (11 R226, 12 R240, 14 R280). -/
inductive CmdOp where
  | mshape | mmode | wld | wdrop | mma | mmat | acmfr | acmz | acmad | acmst | rslv
  deriving DecidableEq, Repr

/-- One add of an RSLV: tentative physical row, element kind, output physical row, gate, expert (14 R281). -/
structure RAdd where
  row : Nat
  isInt : Bool
  out : Nat
  gate : Nat
  expert : Nat
  deriving DecidableEq, Repr

/-- A command accepted into an array command queue (11 R225, R233), with all it captured at issue; `wldAcc` the WLD that its
slot's image comes from, `need` the bands it needs, `got` the rows or columns that it has read, `wrote` the output rows
written, `deep` the 3 c that a packed slot adds (R221, R232), and `olds` the rows as the command found them (12 R242). -/
structure Cmd where
  id : Nat := 0
  acc : Nat
  hand : Nat
  ctx : Nat
  seq : Nat
  op : CmdOp
  slot : Nat := 0
  handle : W32 := 0
  row0 : Nat := 0
  count : Nat := 0
  flags : Nat := 0
  st : BitVec 256 := 0
  q : Nat := 0
  band : Nat := 15
  rnd : Nat := 0
  pp : W64 := 0
  ppBias : W64 := 0
  ppScl : W64 := 0
  ents : List Entry := []
  blk : Nat := 0
  push : Nat := 0
  leased : Bool := false
  armed : Bool := false
  started : Bool := false
  startT : Nat := 0
  adds : List RAdd := []
  res : Nat := 0
  wldAcc : Nat := 0
  need : Nat := 0
  got : List (Option (List Nat × List Nat)) := []
  wrote : Nat := 0
  deep : Nat := 0
  again : Bool := false
  olds : List (Nat × BitVec 8192) := []
  deriving DecidableEq, Repr

/-- A TLBI under way (19 R371): the first walk number that it need not wait for, its form, its address, and its token target. -/
structure Tlbi where
  id : Nat
  form : Nat
  va : W64
  push : Nat
  deriving DecidableEq, Repr

/-- The state of a hand (07 R136). -/
structure Hand where
  /-- the context it holds (17 R341), whether a thread is present, the launch that dealt it, and its iteration count -/
  ctx : Nat := 0
  thread : Bool := false
  launch : Nat := 0
  /-- MODEL: the number of its thread, unique for each one dealt -/
  tid : Nat := 0
  ea : EngineState := {}
  ex : EngineState := {}
  em : EngineState := {}
  s : KMap W64 := []
  a : KMap W64 := []
  p : KMap (BitVec 128) := []
  st : KMap (BitVec 256) := []
  h : KMap W32 := []
  v : KMap (List Slot) := []
  pool : Nat := 2048
  freed : Nat := 0
  /-- MODEL: the counter of the free values that peeks at an emptied queue take (log 27) -/
  peeks : Nat := 0
  fifos : KMap Fifo := []
  results : List Result := []
  /-- virtual clock, freeze state (07 R145 to R149) -/
  vclk : Nat := 0
  frzc : Nat := 0
  frzRun : Nat := 0
  blocked : Option Blocked := none
  /-- MODEL: the first real cycle in which the hand may attempt, the code of that wait, and whether the vc runs in it -/
  holdTill : Nat := 0
  /-- ring, busy bits, recorded faults and those lost (19 R361, R364) -/
  ring : Nat := 0
  busy : BitVec 4 := 0
  pending : List FaultRec := []
  lost : Nat := 0
  /-- in replay: causes of the log's kind 7 that came live and wait for their recorded point, and those delivered at it before they came
  live (21 R399, R401) -/
  live : List FaultRec := []
  injected : List Nat := []
  /-- TCAUSE: the cause and reason of the latest trap delivered to each ring (19 R361) -/
  tcause : KMap W64 := []
  /-- every per-hand control register by its number; unlisted ones hold their reset value -/
  cr : KMap W64 := []
  /-- XFLAGS (08 R169) -/
  xflags : BitVec 6 := 0
  /-- load and store queues, and the cycle before which no later access or A-engine command starts (06 R118, R124) -/
  accs : List Access := []
  accHold : Nat := 0
  /-- the number below which accesses stand before the latest LSALIGN (06 R123), and before the latest FENCE .rel (18 R350) -/
  alignAt : Nat := 0
  relAt : Nat := 0
  /-- the LSALIGNs that stand in both queues, each by the number below which accesses are older (06 R123) -/
  aligns : List Nat := []
  copies : List Copy := []
  /-- copies of killed contexts whose emitted units are still landing (05 R104, R109) -/
  deadCopies : List Copy := []
  cpseq : Nat := 0
  colls : List Coll := []
  clseq : Nat := 0
  /-- DISPs in flight (13 R259), and the p-bit commands that pre-emption saved (16 R315) -/
  disps : Nat := 0
  pbSaved : List PbCmd := []
  /-- boost: state and level of the lease, when it ends or is answered, and its time in cycles (20 R386 to R388) -/
  boostSt : Nat := 0
  boostLvl : Nat := 0
  boostEnd : Nat := 0
  boostLeft : Nat := 0
  /-- is the request one for a lease that was suspended, whose saved time REM shows (20 R388) -/
  boostAgain : Bool := false
  /-- pre-emption: set aside, and what rem was (19 R372, 11 R235) -/
  aside : Bool := false
  savedRem : Nat := 0
  /-- TTADDs whose entries wait for room in the ring: the A engine's next word is held (04 R81) -/
  ttAdds : List TtAdd := []
  /-- TTADDs whose images are still to be read, by the number of that access -/
  ttWait : List (Nat × TtAdd) := []
  /-- MODEL: stage of a blocked word that has begun (BAR arrival, MARK counted, LEASE waiting, FWT waiting), and when -/
  stage : Nat := 0
  stageT : Nat := 0
  stageV : W64 := 0
  /-- COSTART: the thread waits until its team is placed (17 R333) -/
  coWait : Bool := false
  /-- the first cycle in which the hand can be dealt a thread again, and the cycle in which it was last dealt one (17 R331, R422) -/
  freeAt : Nat := 0
  dealtT : Nat := 0
  /-- the first cycle in which a word may issue behind a BAR that has completed: its nominal time is not frozen (17 R321) -/
  barTill : Nat := 0
  /-- pre-emption: the hand drains; its unstarted array commands saved; the lease asked for again (19 R372, 11 R235) -/
  draining : Bool := false
  cmdSaved : List Cmd := []
  askLease : Bool := false
  /-- a TLBI not yet complete (19 R371) -/
  tlbi : Option Tlbi := none
  deriving DecidableEq, Repr

/-! ## A cluster -/

/-- One page held by the translation cache (04 R60). -/
structure TcEntry where
  ctx : Nat
  vpage : Nat
  logSize : Nat
  ppage : Nat
  w : Bool
  u : Bool
  deriving DecidableEq, Repr

/-- A walk outstanding (04 R57 to R60): the next level, its table, permissions so far; when it has failed, why. -/
structure Walk where
  id : Nat
  ctx : Nat
  va : W64
  level : Nat
  table : Nat
  w : Bool := true
  u : Bool := true
  failed : Option (Nat × Nat × Nat) := none
  deriving DecidableEq, Repr

/-- One column of a WBUF image, expanded: element codes and scale bytes (11 R220). -/
structure WCol where
  elems : List Nat
  scales : List Nat
  deriving DecidableEq, Repr

/-- A WBUF slot (11 R220, R221): state 0 EMPTY, 1 LOADING, 2 READY. -/
structure WSlot where
  st : Nat := 0
  ctx : Nat := 0
  cls : Nat := 0
  ty : Nat := 0
  nf : Bool := false
  q : Nat := 0
  blk : Nat := 0
  sp : Bool := false
  k : Nat := 0
  n : Nat := 0
  cols : List WCol := []
  deriving DecidableEq, Repr

/-- The states of a band (11 R219). -/
inductive BandSt where
  | on | off | waking | forced
  deriving DecidableEq, Repr

/-- A band: its state, when it last entered it, and when a command last needed it. -/
structure Band where
  st : BandSt := .on
  since : Nat := 0
  lastNeed : Nat := 0
  deriving DecidableEq, Repr

/-- A bank's entry of the ACM allocation table (12 R236). -/
structure AcmBank where
  used : Bool := false
  ctx : Nat := 0
  hand : Nat := 0
  core : Nat := 0
  isInt : Bool := false
  sp : Bool := false
  tag : Nat := 0
  gen : Nat := 0
  base : Nat := 0
  nb : Nat := 0
  deriving DecidableEq, Repr

/-- A predictor entry (14 R267). -/
structure PredEntry where
  v : Bool := false
  ctx : Nat := 0
  tag : Nat := 0
  ids : List Nat := [255, 255, 255, 255]
  conf : List Nat := [0, 0, 0, 0]
  deriving DecidableEq, Repr

/-- The state of a mapped row; one that is MAPPED and computed counts as TENT (14 R278). -/
inductive RowSt where
  | mapped | conf | sq
  deriving DecidableEq, Repr

/-- An entry of the speculation table (14 R273, R274): `rows` gives, for each mapped row, its token and state; `computed`
rows that an MMAT marked; `opening` numbers the openings; `freeing` a write of ST 0 that waits for an RSLV. -/
structure Spte where
  open_ : Bool := false
  ctx : Nat := 0
  round : Nat := 0
  exp : Nat := 0
  fst : Nat := 0
  npend : Nat := 0
  hb : Bool := false
  handle : W32 := 0
  rows : List (Nat × RowSt) := []
  computed : List Nat := []
  opening : Nat := 0
  failRec : List W64 := []
  freeing : Bool := false
  deriving DecidableEq, Repr

/-- An SACC merge-window entry: word key, type (f32 or i32), partial sum, and the hands with a pair in it (06 R128). -/
structure SaccEntry where
  key : Nat
  isF : Bool
  val : W32
  hands : List Nat
  ctx : Nat
  deriving DecidableEq, Repr

/-- An SACC entry waiting to be accepted (06 R128): 32 word keys (none: dropped), values, type and hand, and its number among what the
hand has issued. -/
structure SaccIn where
  hand : Nat
  ctx : Nat
  isF : Bool
  keys : List (Option Nat)
  vals : List W32
  id : Nat := 0
  deriving DecidableEq, Repr

/-- An eviction that a hand has asked the SACC for (06 R129, R135): its number, also that of the result which waits for it; whether the
hand's earlier pairs are in the window, and then the entries still to evict, by word key and type. -/
structure SaccFl where
  hand : Nat
  ctx : Nat := 0
  id : Nat
  begun : Bool := false
  left : List (Nat × Bool) := []
  deriving DecidableEq, Repr

/-- A dispatched frame (13 R255, R260): where it comes from, its header, its bytes on the mesh with `len` of the hidden vector, its receipt,
how often it was sent, when it leaves, whether it is served late in its cycle, and, once in the ring, its index and the next pair to
file. -/
structure Frame where
  id : Nat
  hand : Nat
  disp : Nat
  src : Nat
  dst : Nat
  ctx : Nat
  hdr : List Byte
  len : Nat
  bytes : List Byte
  rowAt : W64 := 0
  sent : Nat := 1
  sendT : Nat := 0
  late : Bool := false
  filed : Option Nat := none
  nextP : Nat := 0
  iseq : Nat := 0
  deriving DecidableEq, Repr

/-- A DISP in flight with the counts of its receipt (13 R259). -/
structure DispRec where
  id : Nat
  hand : Nat
  ctx : Nat
  frames : Nat := 0
  left : Nat := 0
  pairs : Nat := 0
  placed : Nat := 0
  held : Nat := 0
  dropped : Nat := 0
  resends : Nat := 0
  res : Nat := 0
  earliest : Nat := 0
  deriving DecidableEq, Repr

/-- Dispatch registers kept per context and cluster (13 R256). -/
structure DispCtl where
  drxw : Nat := 0
  drxr : Nat := 0
  drnd : Nat := 0
  deriving DecidableEq, Repr

/-- An EMAPS update on its way to the clusters (13 R254): its entry, and whether its old entries have been read. -/
structure EmapUpd where
  id : Nat
  ctx : Nat
  ents : Entry
  hand : Nat
  res : Nat
  landed : Bool := false
  deriving DecidableEq, Repr

/-- A range-table entry (15 R296): `coll` is the number of its collective. -/
structure RangeEntry where
  hand : Nat
  ctx : Nat
  coll : Nat
  addr : W64
  len : Nat
  deriving DecidableEq, Repr

/-- A flit of a remote access or flag write on the mesh (06 R130): the cluster it stands at, its target, and the access. -/
structure Flit where
  id : Nat
  src : Nat
  at_ : Nat
  dst : Nat
  acc : Nat
  /-- the directions left of a placed flit (06 R132) -/
  route : List Nat := []
  deriving DecidableEq, Repr

/-- The lease (11 R222): the state of each requester (0 IDLE, 1 WAITING, 2 HOLDING), the run that each waiting one asks
for, rem, the holder, and the requester whose run ended last. -/
structure Lease where
  st : KMap Nat := []
  want : KMap Nat := []
  rem : Nat := 0
  holder : Option Nat := none
  last : Nat := 7
  deriving DecidableEq, Repr

/-- The state of a cluster (01 R9). -/
structure Cluster where
  /-- the placed text of each context: its words in address order (02 R24, 03 R39) -/
  text : KMap (List W64) := []
  tc : List TcEntry := []
  walks : List Walk := []
  wbuf : KMap WSlot := []
  bands : KMap Band := []
  lease : Lease := {}
  cmds : List Cmd := []
  accNo : Nat := 0
  acm : KMap (BitVec 8192) := []
  banks : KMap AcmBank := []
  rowOwner : KMap Nat := []
  acmgen : Nat := 0
  /-- ACMVs in flight: allocation base bank and landing time (12 R241) -/
  drains : List (Nat × Nat) := []
  pred : KMap PredEntry := []
  spt : KMap Spte := []
  /-- MODEL: the openings of speculation entries so far (14 R274) -/
  spteNext : Nat := 0
  /-- SPTCNT fields per context: key 4 x context + field (CONF, SQ, RERUN, FDISC) -/
  sptcnt : KMap Nat := []
  /-- routing counters (13 R262), and the increments that reached them in cycle `cntT` -/
  counters : KMap W32 := []
  cntNew : KMap W32 := []
  cntT : Nat := 0
  emap : KMap (KMap (BitVec 16)) := []
  emapUpds : List EmapUpd := []
  dctl : KMap DispCtl := []
  /-- frames held at the mesh inputs, in order of arrival (13 R260) -/
  heldFrames : List Nat := []
  /-- DCNT, RCCTX, ECNT, CLPART, CLZONE raw values by register number -/
  cr : KMap W64 := []
  ranges : List RangeEntry := []
  sacc : List SaccEntry := []
  saccIn : List SaccIn := []
  saccFl : List SaccFl := []
  saccFault : Option (Nat × Nat) := none
  saccNext : Nat := 0
  deriving DecidableEq, Repr

/-! ## A die -/

/-- A cell of the p-bit array (16 R303): clamp 0 free, 2 clamped to 0, 3 clamped to 1. -/
structure PCell where
  h : Int := 0
  n : Nat := 0
  j : List Int := []
  k : List Nat := []
  colour : Nat := 0
  clamp : Nat := 0
  s : Bool := false
  count : Nat := 0
  x : W32 := 0
  deriving DecidableEq, Repr

/-- The state of a die: the p-bit array with its queue, tier-engine places and walk slots (04 R60). -/
structure Die where
  cells : KMap PCell := []
  owner : Option Nat := none
  det : Bool := false
  bad : Bool := false
  nsw : W32 := 0
  queue : List PbCmd := []
  /-- the places in use on each of the four tier-engine sequencers (04 R70) -/
  places : KMap Nat := []
  walks : Nat := 0
  /-- MODEL: one more than the cycle in which its dealer last dealt (17 R331) -/
  dealtAt : Nat := 0
  deriving DecidableEq, Repr

/-! ## A context -/

/-- How a move was asked for (04 R66, R83, R84, 14 R276). -/
inductive MoveKind where
  | ring (idx : Nat)
  | tierq
  | wpf (marker : Nat)
  | spec (marker : Nat) (spte : Nat) (opening : Nat)
  deriving DecidableEq, Repr

/-- A timetable entry or request (04 R66 to R86): state 0 not at the engine (a request from its issue, R76), 1 waiting, 2 running,
3 done, 4 failed, 5 discarded, 6 killed. `slotSt` are the statuses of R77. -/
structure Move where
  id : Nat
  kind : MoveKind
  hand : Nat
  cluster : Nat
  img : List Byte
  push : Nat := 0
  state : Nat := 0
  checked : Bool := true
  late : Bool := false
  startT : Nat := 0
  endT : Nat := 0
  reason : Nat := 0
  fault : List W64 := []
  slotSt : List Nat := [0, 0, 0, 0]
  slotUsed : Nat := 0xFF
  bad : Nat := 0
  firstBad : Option Nat := none
  shard : Nat := 0
  slotNow : Nat := 0
  /-- MODEL: a shard from a peer that waits for its banks (06 R116) -/
  got : Option (List Byte) := none
  /-- the places it holds: die and sequencer (R70) -/
  dies : List (Nat × Nat) := []
  /-- where the current local shard was translated to (R86); the run of local shards it belongs to: its start, slot, first shard (R71) -/
  src : List (Nat × Nat) := []
  runT : Nat := 0
  runSlot : Nat := 4
  runFrom : Nat := 0
  /-- stopped by a kill, at its next shard boundary (R87) -/
  killed : Bool := false
  /-- the issuing thread (R74, R83), and the number below which no access of its hand may be left before the move starts (18 R350) -/
  tid : Nat := 0
  after : Nat := 0
  asked : Bool := false
  askT : Nat := 0
  apT : Nat := 0
  deriving DecidableEq, Repr

/-- Is a move one that an instruction of a thread asked for, and no ring entry (04 R83, R84)? -/
def Move.asksTier (v : Move) : Bool := match v.kind with | .ring _ => false | _ => true

/-- One barrier instance (17 R321): its action, the members that have arrived, the completion time once known, and whether the other
devices of a fabric group have all arrived (R316). -/
structure Barrier where
  act : Nat := 0
  arrived : List Nat := []
  doneAt : Option Nat := none
  peers : Bool := false
  deriving DecidableEq, Repr

/-- An FWT that waits (17 R326): team and flag, hand, amount, whether it has been served and the value it then took. -/
structure FlagWait where
  team : Nat
  flag : Nat
  hand : Nat
  amount : Nat
  served : Bool := false
  old : W32 := 0
  deriving DecidableEq, Repr

/-- A team saved in a gang image: its address, bytes by which the image is known where it was copied to, the team it was, and its hands
(19 R376, log 16). -/
structure SavedTeam where
  at_ : W64
  stamp : List Byte := []
  team : Nat
  hands : List Hand
  /-- its releasing FINCs that wait behind stopped copies or saved commands (17 R325, log 132) -/
  fincs : List Instr := []
  deriving DecidableEq, Repr

/-- The state of a context. Team key t = 2 x cluster + hand (17 R316). -/
structure Ctx where
  live : Bool := false
  part : Nat := 0
  saved : Bool := false
  ended : Bool := false
  /-- per-context control registers by number; unlisted ones hold their reset value -/
  cr : KMap W64 := []
  sv : KMap W32 := []
  /-- MODEL: the shape variables before the writes of cycle `svT` - 1 (17 R342) -/
  svOld : KMap W32 := []
  svT : Nat := 0
  mkcur : KMap Nat := []
  ttwr : Nat := 0
  ttrd : Nat := 0
  ttmiss : Nat := 0
  ttlate : Nat := 0
  /-- the markers of ring entries that have reached the engine, by index, while the next entry has not (04 R69) -/
  ttMks : KMap Nat := []
  moves : List Move := []
  /-- team flags: key 64 x team + flag (17 R323) -/
  flags : KMap W32 := []
  flagWaits : List FlagWait := []
  /-- phase bits: key 0 to 3 die, 4 package, 5 fabric (17 R318) -/
  phases : KMap Bool := []
  /-- barriers: key 4 x instance number + level (Teams.barInst) -/
  barriers : KMap Barrier := []
  /-- faults kept with the context (04 R74, 15 R288) with the cluster at whose core 0 they are delivered -/
  kept : List (Nat × FaultRec) := []
  /-- hands whose thread is saved in an image: their MKCUR still counts (04 R87) -/
  out : List Nat := []
  /-- switched-out teams registered with the context agent: team key and image address (19 R376) -/
  agent : List (Nat × W64) := []
  /-- MODEL: of each team saved in an image, what the image's layout has no place for (19 R376, log 16) -/
  images : List SavedTeam := []
  /-- TTCLR commands that wait: hand, thread, token, ids of the started entries (04 R82) -/
  clrWaits : List (Nat × Nat × Nat × List Nat) := []
  /-- DMEM context fields are register 0x07A of `cr`; JCT sequence counts per source (27 R415) -/
  jctSeq : KMap Nat := []
  deriving DecidableEq, Repr

/-! ## Partitions, the device, launches -/

/-- A parked row: its slot, the row, and whether it is parked behind an earlier one (15 R288, R289). -/
structure Parked where
  slot : Nat
  row : RemoteRow
  behind : Bool := false
  deriving DecidableEq, Repr

/-- A partition: its control registers, event ring, parking, recording and throttle (15 R287, 20 R382, R383, 21 R396). -/
structure Part where
  base : Nat := 0
  eff : Nat := 0
  throttle : Bool := false
  /-- MODEL: the level before the change of cycle `effT` - 1 (20 R385) -/
  effOld : Nat := 0
  effT : Nat := 0
  /-- parked rows in order of arrival -/
  parked : List Parked := []
  refused : Nat := 0
  pevqw : Nat := 0
  lostEv : Nat := 0
  rpw : Nat := 0
  rpr : Nat := 0
  rpstat : Nat := 0
  /-- indices of log records that replay has used out of order (21 R399) -/
  rpUsed : List Nat := []
  /-- the cycle by which the input of the next record has to come (21 R401), and whether a write of MODE 0 waits for pending records: 1, or
  2 once the ring has had room (R402) -/
  rpDue : Nat := 0
  rpStop : Nat := 0
  /-- arrivals counted at each bank, key 64 x cluster + bank, since MODE was written (21 R398) -/
  ords : KMap Nat := []
  cr : KMap W64 := []
  deriving DecidableEq, Repr

/-- The states of a coolant channel (20 R392). -/
inductive ZoneSt where
  | wet | draining | purging | dry | refilling
  deriving DecidableEq, Repr

/-- A coolant zone (20 R389 to R392). -/
structure Zone where
  cfg : W64 := 0xF5A1400000FF2000
  req : Nat := 0
  temp : Nat := 0
  liq : Bool := true
  grant : Nat := 0
  hot : Bool := false
  crit : Bool := false
  st : ZoneSt := .wet
  fail : Bool := false
  since : Nat := 0
  /-- the opening measured, the first samples from which LIQ has been 0 and VALVE within 8 of FLOOR, and a ZCMD 1 that waits
  for the bands (20 R392) -/
  valve : Nat := 0
  dryAt : Option Nat := none
  nearAt : Option Nat := none
  evac : Bool := false
  deriving DecidableEq, Repr

/-- A launch in progress (17 R328 to R334): its number, context, entry, hand, priority and members, the order and extents of its
iterations with how many have been taken, the strides and preloads, the iterations allotted to co-started clusters and not
yet placed, threads dealt and running, and its event, status address, queue slot, and first cycle of dealing. -/
structure Launch where
  id : Nat
  ctx : Nat
  entry : W64
  hand : Nat
  prio : Nat
  costart : Bool
  cores : Nat
  cset : Nat
  order : Nat := 0
  extents : List Nat := []
  strides : List Int := []
  preload : List Nat := []
  next : Nat := 0
  total : Nat := 0
  teams : KMap (List (List Nat)) := []
  dealt : Nat := 0
  running : Nat := 0
  event : Nat := 0
  status : W64 := 0
  slot : Option Nat := none
  notBefore : Nat := 0
  deriving DecidableEq, Repr

/-- A hardware queue slot (17 R337): its queue, state (0 EMPTY, 1 READY, 2 BLOCKED, 3 RUNNING), indices, base priority, the
cycle of its last service or since which it is EMPTY or READY, the cycle from which its next entry may start, and the hands
in which its entry has raised preempt, with the contexts they held (R341). -/
structure QSlot where
  ctx : Nat
  q : Nat
  st : Nat := 0
  rd : Nat := 0
  wr : Nat := 0
  prio : Nat := 0
  since : Nat := 0
  ready : Nat := 0
  asked : List (Nat × Nat) := []
  deriving DecidableEq, Repr

/-- What a JCT message of types 1 to 5, 8 and 9 asks for (27 R414). -/
inductive JctBody where
  | notify (queue index : Nat)
  | memwr (va : W64) (data : List Byte)
  | memrd (va : W64) (n : Nat)
  | regwr (creg core : Nat) (v : W64)
  | regrd (creg core : Nat)
  | ctxnew (part : Nat)
  | ctxend
  deriving DecidableEq, Repr

/-- A message to the command processor (27 R414). -/
structure JctMsg where
  hdr : JctHdr
  body : JctBody
  deriving DecidableEq, Repr

/-- An answer or message that left the package (27 R414): source, type, context, and its bytes. -/
structure Answer where
  source : Nat
  type : Nat
  ctx : Nat
  seq : Nat
  status : Nat
  data : List Byte := []
  deriving DecidableEq, Repr

/-- The halt log (19 R362): the record of the failing trap and every hand's CR. -/
structure HaltLog where
  record : List Byte
  crs : List (Nat × W64)
  deriving DecidableEq, Repr

/-- A peer row or read that left the device (15 R286): an FWR, FRD or collective send that waits for its acknowledgement; for a
collective its number in the model, step or row index, and when it was last sent. -/
structure PeerOp where
  id : Nat
  hand : Nat
  isRead : Bool
  peer : Nat
  addr : W64
  bytes : List Byte := []
  ord : Bool := false
  res : Nat := 0
  push : Nat := 0
  coll : Nat := 0
  index : Nat := 0
  tries : Nat := 0
  sentT : Nat := 0
  /-- the queued access that it performs, 0 for a collective's -/
  acc : Nat := 0
  /-- of a token-exchange row: the rank that it is for, its index there, and whether it is passed on for another member (15 R293, R294) -/
  rank : Nat := 0
  row : Nat := 0
  fwd : Bool := false
  deriving DecidableEq, Repr

/-- What belongs to the whole device. -/
structure Dev where
  tboff : W64 := 0
  tbsync : W64 := 0
  bootst : W64 := 0
  fabid : W64 := 0
  cxlst : KMap W64 := []
  cxlGib : KMap Nat := []
  uePort : KMap Bool := []
  /-- the device map: the retired physical clusters of each die, 0 to 18 (01 R11, 02 R35, 06 R131, 20 R424) -/
  retired : KMap (List Nat) := []
  zones : KMap Zone := []
  launches : List Launch := []
  slots : KMap QSlot := []
  lastSlot : Nat := 63
  /-- passes of the scheduler (21 R398), the host table (source: 1 driver, 2 hypervisor), messages dropped, messages held, and
  contexts being ended (27 R414, R415, 17 R341) -/
  passNo : Nat := 0
  hosts : KMap Nat := [(1, 1), (2, 2)]
  dropped : Nat := 0
  held : List JctMsg := []
  ending : List (Option JctHdr × Nat) := []
  answers : List Answer := []
  /-- fuse counters by class; key slots revoked; signature budget; digests and versions of the accepted images (27 R418 to
  R421) -/
  fuses : KMap Nat := []
  revoked : List Nat := []
  sigBudget : Nat := 1048576
  digests : KMap (List Byte) := []
  svns : KMap Nat := []
  /-- rows in which an error stands: memory key, or Mach.acmKey of an accumulator row, and whether it is uncorrectable (log 21) -/
  errors : KMap Bool := []
  peerOps : List PeerOp := []
  /-- fabric barriers by FGRP: their members are of every context with that group (17 R316) -/
  fabBars : KMap Barrier := []
  deriving DecidableEq, Repr

/-! ## The machine -/

/-- A change of hand at a core (19 R372 to R375): the hand that drains, the other hands that drain with it, where their team is
saved and what is loaded, whether it is a CTXSV, and, once drained, the cycle in which the next hand acts. -/
structure Swap where
  hand : Nat
  team : List Nat := []
  isSave : Bool := false
  saveAt : W64 := 0
  loadAt : W64 := 0
  drained : Bool := false
  at_ : Nat := 0
  deriving DecidableEq, Repr

/-- Whose turn it is (MODEL, log 1): events due now, the boundary of a hand, an engine's attempt, the end of the cycle. -/
inductive Turn where
  | serve
  | boundary (hand : Nat)
  | attempt (hand : Nat) (e : Engine)
  | tick
  deriving DecidableEq, Repr

/-- Everything but the clock. -/
structure Mach where
  agenda : List (Nat × Instr) := []
  nextId : Nat := 1
  freeN : Nat := 0
  mem : Memory := []
  hands : KMap Hand := []
  /-- the active hand of each core, and the change of hand under way (17 R422, 19 R374, R375) -/
  active : KMap Nat := []
  swaps : KMap Swap := []
  clusters : KMap Cluster := []
  dies : KMap Die := []
  ctxs : KMap Ctx := []
  parts : KMap Part := []
  dev : Dev := {}
  disps : List DispRec := []
  frames : List Frame := []
  flits : List Flit := []
  /-- MODEL: one more than the cycle in which banks last served, and those that have served in it (06 R116) -/
  bankT : Nat := 0
  bankUse : List Nat := []
  /-- MODEL: the events that wait at a busy bank, each with the cycle in which it came there (06 R116) -/
  bankQ : List (Instr × Nat) := []
  /-- rows of other devices that wait at their banks, with the numbers of their flits (06 R116) -/
  rowsIn : List (Nat × RemoteRow) := []
  halted : Option HaltLog := none
  /-- MODEL: a ring that a register names was written where the spec places no memory; the next step stops -/
  bad : Option Nat := none
  deriving DecidableEq, Repr

/-- The state of the package. TB is the real cycle (21 R395); only the end of a cycle advances it. -/
structure State where
  tb : Nat := 0
  turn : Turn := .serve
  cur : Nat := 0
  eng : Engine := .a
  m : Mach := {}
  deriving DecidableEq, Repr

/-- The machine right after reset: nothing listed in memory, no context, every register at its reset value, every band
ON; due are the first band times (11 R219), scheduler pass (17 R337), sensor sample (20 R391) and power window (R382). -/
def State.reset : State :=
  { m := { agenda :=
      (List.range 288).map (fun k => (1050, Instr.bandIdleOff (k / 4) (k % 4)))
        ++ [(1050, .sensorSample), (2100, .queueSchedulerPass), (10500, .powerWindow)] } }

end Sys2Proof.Machine
end

