-- ==== Sys2Proof/Machine/Mem.lean ====
section
/-! DEFINITION. Named operations over memory, addresses and the mesh: one byte read and written in canonical form, wider
accesses in the one byte order (00 R1), the key of a slice byte (06 R114), the geometry of the mesh (01 R10, R14), and
the records' accessors. -/

namespace Sys2Proof.Machine

/-- The byte at an address; an unlisted byte reads 0 (log 3). -/
def Memory.read : Memory → Nat → Byte
  | [], _ => 0
  | (a, v) :: t, k => if a = k then v else if k < a then 0 else Memory.read t k

/-- Memory with byte `v` at `k`, in canonical form: a 0 is not listed. -/
def Memory.write : Memory → Nat → Byte → Memory
  | [], k, v => if v = 0 then [] else [(k, v)]
  | (a, x) :: t, k, v =>
    if k < a then (if v = 0 then (a, x) :: t else (k, v) :: (a, x) :: t)
    else if a = k then (if v = 0 then t else (k, v) :: t)
    else (a, x) :: Memory.write t k v

/-- `n` bytes from `k` up. -/
def Memory.readN (mem : Memory) (k n : Nat) : List Byte := (List.range n).map (fun i => mem.read (k + i))

/-- The bytes of a list written from `k` up. -/
def Memory.writeN (mem : Memory) (k : Nat) : List Byte → Memory
  | [] => mem
  | b :: t => Memory.writeN (mem.write k b) (k + 1) t

/-- A number from bytes, least significant first (00 R1). -/
def leNat : List Byte → Nat
  | [] => 0
  | b :: t => b.toNat + 256 * leNat t

/-- The `n` bytes of a number, least significant first (00 R1). -/
def leBytes (n v : Nat) : List Byte := (List.range n).map (fun i => BitVec.ofNat 8 (v / 2 ^ (8 * i)))

/-- Bytes `lo` to `lo + n - 1` of a byte list as a number. -/
def field (bs : List Byte) (lo n : Nat) : Nat := leNat ((bs.drop lo).take n)

/-- Bits [lo + len - 1 : lo] of a number. -/
def nbits (x lo len : Nat) : Nat := x / 2 ^ lo % 2 ^ len

/-- Difference of two 32-bit counters. -/
def sub32 (a b : Nat) : Nat := (a + 2 ^ 32 - b % 2 ^ 32) % 2 ^ 32
/-- Sign extension of the low `n` bits of a number. -/
def sext (n x : Nat) : Int := if 2 ^ (n - 1) ≤ x % 2 ^ n then (x % 2 ^ n : Nat) - (2 ^ n : Nat) else (x % 2 ^ n : Nat)

/-- A 64-bit value from an integer, wrapping. -/
def w64 (v : Int) : W64 := BitVec.ofInt 64 v

/-! ## Geometry -/

/-- The compute die of a cluster (01 R10). -/
def dieOf (c : Nat) : Nat := c / 18
/-- The mesh column of a cluster (01 R10). -/
def colOf (c : Nat) : Nat := 6 * (c / 18 % 2) + c % 18 % 6
/-- The mesh row of a cluster (01 R10). -/
def rowOf (c : Nat) : Nat := 3 * (c / 18 / 2) + c % 18 / 6
/-- The cluster at a mesh position (01 R10). -/
def clusterAt (x y : Nat) : Nat := 18 * (2 * (y / 3) + x / 6) + 6 * (y % 3) + x % 6
/-- Hand numbers: r = 2 x core + hand. -/
def coreOf (r : Nat) : Nat := r / 2
/-- The cluster of a hand. -/
def clusterOf (r : Nat) : Nat := r / 8
/-- The requester index of a hand in its cluster (11 R222). -/
def reqOf (r : Nat) : Nat := r % 8
/-- The team key of a hand: 2 x cluster + hand (17 R316). -/
def teamOf (r : Nat) : Nat := 2 * (r / 8) + r % 2

/-- The next cluster of the plain route: along the row, then along the column (06 R131). -/
def plainNext (at_ dst : Nat) : Nat :=
  let x := colOf at_; let y := rowOf at_
  if x < colOf dst then clusterAt (x + 1) y
  else if colOf dst < x then clusterAt (x - 1) y
  else if y < rowOf dst then clusterAt x (y + 1)
  else if rowOf dst < y then clusterAt x (y - 1)
  else at_

/-- The cycles of one link: 1, and 6 more between dies (01 R13, R14). -/
def linkCost (a b : Nat) : Nat := if a = b then 0 else if dieOf a = dieOf b then 1 else 7

/-- H of the plain route (06 R122): hops, and 6 for each crossing. -/
def hopsAux : Nat → Nat → Nat → Nat
  | 0, _, _ => 0
  | n + 1, a, b => if a = b then 0 else let c := plainNext a b; linkCost a c + hopsAux n c b
/-- H between two clusters. -/
def hops (a b : Nat) : Nat := hopsAux 18 a b

/-- The steps of a route string as directions, leg 0 first (02 R33): 0 N, 1 E, 2 S, 3 W. -/
def routeDirs (rt : Nat) : List Nat :=
  (List.range 4).flatMap (fun l => List.replicate (nbits rt (6 * l) 4) (nbits rt (6 * l + 4) 2))
/-- One step of a placed flit; none off the mesh (06 R132). -/
def stepDir (c d : Nat) : Option Nat :=
  let x := colOf c; let y := rowOf c
  match d with
  | 0 => if y = 0 then none else some (clusterAt x (y - 1))
  | 1 => if x = 11 then none else some (clusterAt (x + 1) y)
  | 2 => if y = 5 then none else some (clusterAt x (y + 1))
  | _ => if x = 0 then none else some (clusterAt (x - 1) y)
/-- Where a route ejects and its H; none when it leaves the mesh. -/
def routeEnd (c : Nat) : List Nat → Option (Nat × Nat)
  | [] => some (c, 0)
  | d :: t =>
    match stepDir c d with
    | none => none
    | some c' =>
      match routeEnd c' t with
      | none => none
      | some (e, h) => some (e, h + linkCost c c')

/-! ## The records of the state -/

/-- A hand. -/
def Mach.hand (m : Mach) (r : Nat) : Hand := KMap.get {} m.hands r
/-- The machine with a hand replaced. -/
def Mach.setHand (m : Mach) (r : Nat) (h : Hand) : Mach := { m with hands := m.hands.set r h }
/-- The machine with a hand changed. -/
def Mach.modHand (m : Mach) (r : Nat) (f : Hand → Hand) : Mach := m.setHand r (f (m.hand r))
/-- A cluster. -/
def Mach.cluster (m : Mach) (c : Nat) : Cluster := KMap.get {} m.clusters c
/-- The machine with a cluster replaced. -/
def Mach.setCluster (m : Mach) (c : Nat) (x : Cluster) : Mach := { m with clusters := m.clusters.set c x }
/-- The machine with a cluster changed. -/
def Mach.modCluster (m : Mach) (c : Nat) (f : Cluster → Cluster) : Mach := m.setCluster c (f (m.cluster c))
/-- A die. -/
def Mach.die (m : Mach) (d : Nat) : Die := KMap.get {} m.dies d
/-- The machine with a die replaced. -/
def Mach.setDie (m : Mach) (d : Nat) (x : Die) : Mach := { m with dies := m.dies.set d x }
/-- The machine with a die changed. -/
def Mach.modDie (m : Mach) (d : Nat) (f : Die → Die) : Mach := m.setDie d (f (m.die d))
/-- A context. -/
def Mach.ctx (m : Mach) (k : Nat) : Ctx := KMap.get {} m.ctxs k
/-- The machine with a context replaced. -/
def Mach.setCtx (m : Mach) (k : Nat) (x : Ctx) : Mach := { m with ctxs := m.ctxs.set k x }
/-- The machine with a context changed. -/
def Mach.modCtx (m : Mach) (k : Nat) (f : Ctx → Ctx) : Mach := m.setCtx k (f (m.ctx k))
/-- A partition. -/
def Mach.part (m : Mach) (p : Nat) : Part := KMap.get {} m.parts p
/-- The machine with a partition replaced. -/
def Mach.setPart (m : Mach) (p : Nat) (x : Part) : Mach := { m with parts := m.parts.set p x }
/-- The machine with a partition changed. -/
def Mach.modPart (m : Mach) (p : Nat) (f : Part → Part) : Mach := m.setPart p (f (m.part p))
/-- The machine with the device changed. -/
def Mach.modDev (m : Mach) (f : Dev → Dev) : Mach := { m with dev := f m.dev }
/-- The context that a hand holds. -/
def Mach.handCtx (m : Mach) (r : Nat) : Ctx := m.ctx (m.hand r).ctx
/-- A coolant zone. -/
def Mach.zone (m : Mach) (z : Nat) : Zone := KMap.get {} m.dev.zones z
/-- The machine with a zone changed. -/
def Mach.modZone (m : Mach) (z : Nat) (f : Zone → Zone) : Mach :=
  m.modDev (fun d => { d with zones := d.zones.set z (f (m.zone z)) })

/-- The agenda with an event at a time, behind those due no later. -/
def agendaAdd (t : Nat) (i : Instr) : List (Nat × Instr) → List (Nat × Instr)
  | [] => [(t, i)]
  | (t', j) :: l => if t < t' then (t, i) :: (t', j) :: l else (t', j) :: agendaAdd t i l
/-- An event put on the agenda. -/
def Mach.post (m : Mach) (t : Nat) (i : Instr) : Mach := { m with agenda := agendaAdd t i m.agenda }
/-- A fresh number for a record (MODEL). -/
def Mach.bump (m : Mach) : Mach := { m with nextId := m.nextId + 1 }

/-- A byte of memory. -/
def Mach.byte (m : Mach) (k : Nat) : Byte := m.mem.read k
/-- Bytes of memory. -/
def Mach.bytes (m : Mach) (k n : Nat) : List Byte := m.mem.readN k n
/-- Memory with bytes written. -/
def Mach.poke (m : Mach) (k : Nat) (bs : List Byte) : Mach := { m with mem := m.mem.writeN k bs }

/-- The parts of an engine in a hand. -/
def Hand.engine (h : Hand) : Engine → EngineState
  | .a => h.ea | .x => h.ex | .m => h.em
/-- A hand with an engine replaced. -/
def Hand.setEngine (h : Hand) (e : Engine) (x : EngineState) : Hand :=
  match e with
  | .a => { h with ea := x }
  | .x => { h with ex := x }
  | .m => { h with em := x }
/-- A hand with an engine changed. -/
def Hand.modEngine (h : Hand) (e : Engine) (f : EngineState → EngineState) : Hand := h.setEngine e (f (h.engine e))
/-- A hand with all engines changed alike. -/
def Hand.modEngines (h : Hand) (f : EngineState → EngineState) : Hand :=
  { h with ea := f h.ea, ex := f h.ex, em := f h.em }

/-! ## Slices, virtual addresses, the physical map -/

/-- A per-context control register. -/
def Ctx.reg (x : Ctx) (n : Nat) : W64 := KMap.get 0 x.cr n
/-- SWIN.SIZE in bytes (06 R112). -/
def Ctx.winSize (x : Ctx) : Nat := (bits (x.reg 0x110) 32 8).toNat * 65536
/-- The place of a window offset in a cluster's banks, as a memory key (06 R114). -/
def sliceKey (base key c o : Nat) : Nat :=
  let w := o / 128
  let bank := (w % 64) ^^^ (w / 64 % 64) ^^^ (w / 4096 % 16) ^^^ key
  let row := 8 * base + w / 64
  2 ^ 52 + c * 2 ^ 23 + bank * 2 ^ 17 + row * 128 + o % 128
/-- The key of a context's slice byte. -/
def Ctx.sliceKey (x : Ctx) (c o : Nat) : Nat :=
  Sys2Proof.Machine.sliceKey (bits (x.reg 0x110) 0 7).toNat (bits (x.reg 0x111) 0 6).toNat c o
/-- The partition of a cluster (20 R423): CLPART, per cluster register 0x0AE. -/
def Mach.clPart (m : Mach) (c : Nat) : Nat := (KMap.get 0 (m.cluster c).cr 0x0AE).toNat % 16
/-- Is a cluster in the context's partition? -/
def Mach.inPart (m : Mach) (k c : Nat) : Bool := c < 72 && m.clPart c == (m.ctx k).part

/-- What a physical address names (04 R61). -/
inductive PhysKind where
  | dram (die : Nat) | cxl (port : Nat) | peer (k : Nat) | hole
  deriving DecidableEq, Repr

/-- The physical map (04 R61). -/
def Mach.physKind (m : Mach) (pa : Nat) : PhysKind :=
  if pa < 0x6000000000 then .dram (pa / 0x1800000000)
  else if 0x100000000000 ≤ pa && pa < 0x180000000000 then
    let p := (pa - 0x100000000000) / 0x20000000000
    if (pa - 0x100000000000) % 0x20000000000 < KMap.get 0 m.dev.cxlGib p * 2 ^ 30 then .cxl p else .hole
  else if 0x8000000000000 ≤ pa && pa < 0x10000000000000 then .peer (nbits pa 45 6)
  else .hole

/-- Is a physical address behind a CXL port whose link has gone down (27 R417)? -/
def Mach.cxlDown (m : Mach) (k : Nat) : Bool :=
  match m.physKind k with
  | .cxl p => !bit (KMap.get 0 m.dev.cxlst p) 0
  | _ => false
/-- The error that stands in a row: whether it is uncorrectable (06 R117, 19 R379, 27 R417, log 21). -/
def Mach.rowError (m : Mach) (k : Nat) : Option Bool :=
  if m.cxlDown k then some true else (m.dev.errors.find? (fun p => p.1 == k / 128 * 128)).map (·.2)
/-- Is one of the rows uncorrectable? -/
def Mach.anyUE (m : Mach) (keys : List Nat) : Option Nat := keys.find? (fun k => m.rowError k == some true)
/-- Bytes within one row as a reader receives them: zeros from an uncorrectable row (19 R379). -/
def Mach.readRow (m : Mach) (k n : Nat) : List Byte :=
  if m.rowError k == some true then List.replicate n 0 else m.bytes k n
/-- A table entry (04 R58). -/
structure Pte where
  addr : Nat
  u : Bool
  w : Bool
  l : Bool
  v : Bool
  res : Bool
  deriving DecidableEq, Repr
/-- The fields of a table entry (04 R58). -/
def pteOf (x : Nat) : Pte :=
  ⟨nbits x 12 40 * 4096, nbits x 3 1 == 1, nbits x 2 1 == 1, nbits x 1 1 == 1, nbits x 0 1 == 1,
    nbits x 52 12 != 0 || nbits x 4 8 != 0⟩

/-- What one level of a walk gives: a fault (cause, reason), a page, or the next table (04 R57 to R59). -/
inductive WalkStep where
  | fault (cause reason : Nat)
  | page (pa : Nat)
  | table (pa : Nat)
  deriving DecidableEq, Repr

/-- log2 of the page a leaf maps at a level (04 R57). -/
def pageLog (level : Nat) : Nat := match level with | 2 => 30 | 1 => 21 | _ => 16
/-- The index of a virtual address at a level, with the level's index width (04 R57). -/
def walkIndex (va level : Nat) : Nat :=
  match level with
  | 3 => nbits va 39 9 | 2 => nbits va 30 9 | 1 => nbits va 21 9 | _ => nbits va 16 5

/-- One level read at its table: the step and the entry's permissions (04 R57 to R59). -/
def Mach.walkLevel (m : Mach) (va level table : Nat) : WalkStep × Bool × Bool :=
  match m.physKind table with
  | .hole | .peer _ => (.fault 8 4, true, true)
  | _ =>
    let e := pteOf (leNat (m.readRow (table + 8 * walkIndex va level) 8))
    if !e.v then (.fault 8 1, true, true)
    else if e.res || (level == 3 && e.l) || (level == 0 && !e.l) then (.fault 8 2, true, true)
    else if e.l then
      if e.addr % 2 ^ pageLog level != 0 then (.fault 8 2, true, true)
      else (.page e.addr, e.w, e.u)
    else if level == 1 && e.addr % 256 != 0 then (.fault 8 2, true, true)
    else (.table e.addr, e.w, e.u)

/-- A fault of a translation: cause, reason, level reached. -/
abbrev XlFault := Nat × Nat × Nat

/-- The levels of a walk from `n - 1` down. -/
def Mach.walkFrom (m : Mach) (va : Nat) : Nat → Nat → Bool → Bool → Except XlFault TcEntry
  | 0, _, _, _ => .error (8, 2, 0)
  | n + 1, table, w, u =>
    match m.walkLevel va n table with
    | (.fault c r, _, _) => .error (c, r, n)
    | (.page pa, w', u') =>
      .ok { ctx := 0, vpage := va / 2 ^ pageLog n, logSize := pageLog n, ppage := pa, w := w && w', u := u && u' }
    | (.table t, w', u') => m.walkFrom va n t (w && w') (u && u')

/-- The translation of a virtual address for context `k`, by the tables as they stand (04 R57, R59). -/
def Mach.walk (m : Mach) (k : Nat) (va : W64) : Except XlFault TcEntry :=
  let xl := (m.ctx k).reg 0x100
  if !bit xl 0 then .error (8, 1, 3)
  else if bits va 48 15 != 0 then .error (8, 3, 3)
  else (m.walkFrom (va.toNat % 2 ^ 48) 4 ((bits xl 12 40).toNat * 4096) true true).map (fun e => { e with ctx := k })

/-- The physical address that a page gives, with the checks of R59: write, U at ring 0, and then where it lies. `peer` is the fault of
a page in a peer window, where that is one. The order of the permissions before the hole is a DESIGN CHOICE (log 97). -/
def Mach.usePage (m : Mach) (e : TcEntry) (va : W64) (wr ring0 : Bool) (peer : Option (Nat × Nat)) : Except XlFault Nat :=
  let lv := match e.logSize with | 30 => 2 | 21 => 1 | _ => 0
  let pa := e.ppage + va.toNat % 2 ^ e.logSize
  if wr && !e.w then .error (9, 1, lv)
  else if ring0 && !e.u then .error (9, 2, lv)
  else match m.physKind pa with
    | .hole => .error (8, 4, lv)
    | .peer _ => (match peer with | none => .ok pa | some f => .error (f.1, f.2, lv))
    | _ => .ok pa

/-- A whole address for an engine's access (04 R55, R56, R59): the key of its first byte. `wr` a write, `ring0` with
ring-0 permissions. A slice access is checked against the window for `n` bytes; a page in a peer window is no place for an engine. -/
def Mach.resolve (m : Mach) (k : Nat) (x : W64) (n : Nat) (wr ring0 : Bool) : Except FaultRec Nat :=
  if bit x 63 then
    match m.walk k x with
    | .error (c, r, lv) => .error ⟨c, r, [x, ofBool 64 wr, BitVec.ofNat 64 lv]⟩
    | .ok e =>
      match m.usePage e x wr ring0 (some (8, 4)) with
      | .error (c, r, lv) => .error ⟨c, r, [x, ofBool 64 wr, BitVec.ofNat 64 lv]⟩
      | .ok pa => .ok pa
  else
    let c := (bits x 23 7).toNat
    let o := (bits x 0 23).toNat
    if bits x 30 33 != 0 || !m.inPart k c || (m.ctx k).winSize < o + n then
      .error ⟨7, 0, [x, BitVec.ofNat 64 n, BitVec.ofNat 64 c]⟩
    else .ok ((m.ctx k).sliceKey c o)

/-- The keys of `n` bytes at an address, in chunks that stay inside one 128-byte row; every row is resolved by itself (DESIGN CHOICE,
log 97: a range longer than a row is one access for each row). -/
def Mach.spanAux (m : Mach) (k : Nat) (wr ring0 : Bool) : Nat → W64 → Nat → Except FaultRec (List (Nat × Nat))
  | 0, _, _ => .ok []
  | f + 1, x, n =>
    if n = 0 then .ok [] else
    let c := min n (128 - x.toNat % 128)
    match m.resolve k x c wr ring0 with
    | .error e => .error e
    | .ok key =>
      match m.spanAux k wr ring0 f (x + BitVec.ofNat 64 c) (n - c) with
      | .error e => .error e
      | .ok l => .ok ((key, c) :: l)
/-- The row pieces (key, length) of `n` bytes at an address. -/
def Mach.span (m : Mach) (k : Nat) (x : W64) (n : Nat) (wr ring0 : Bool) : Except FaultRec (List (Nat × Nat)) :=
  m.spanAux k wr ring0 (n / 128 + 2) x n
/-- Bytes read over row pieces: zeros from an uncorrectable row (19 R379). -/
def Mach.readSpan (m : Mach) (l : List (Nat × Nat)) : List Byte := l.flatMap (fun p => m.readRow p.1 p.2)
/-- The row pieces of `n` bytes at a key. -/
def rowPieces (k n : Nat) : List (Nat × Nat) :=
  (List.range ((k % 128 + n + 127) / 128)).map (fun i =>
    let a := max k (k / 128 * 128 + 128 * i)
    (a, min (k + n) (k / 128 * 128 + 128 * (i + 1)) - a))
/-- Bytes written over row pieces. -/
def Mach.writeSpan (m : Mach) : List (Nat × Nat) → List Byte → Mach
  | [], _ => m
  | (k, n) :: t, bs => Mach.writeSpan (m.poke k (bs.take n)) t (bs.drop n)
/-- Bytes at an address with an engine's permissions. -/
def Mach.readAt (m : Mach) (k : Nat) (x : W64) (n : Nat) (ring0 : Bool) : Except FaultRec (List Byte) :=
  (m.span k x n false ring0).map m.readSpan
/-- Memory with bytes written at an address, or the fault. -/
def Mach.writeAt (m : Mach) (k : Nat) (x : W64) (bs : List Byte) (ring0 : Bool) : Except FaultRec Mach :=
  (m.span k x bs.length true ring0).map (fun l => m.writeSpan l bs)

/-- The cluster of a slice address. -/
def sliceCluster (x : W64) : Nat := (bits x 23 7).toNat
/-- The time of one access to a key from a cluster: slice 2 + H before it is performed, 180 to T1 and 6 more from another
die's stack on a load, 620 to T2 (06 R122). -/
def Mach.pathTime (m : Mach) (c key : Nat) (load : Bool) : Nat :=
  if 2 ^ 52 ≤ key then 2 + hops c ((key - 2 ^ 52) / 2 ^ 23)
  else match m.physKind key with
    | .dram d => (if load then (if d = dieOf c then 176 else 182) else 180)
    | .cxl _ => if load then 616 else 620
    | _ => 2396

end Sys2Proof.Machine
end

