-- ==== Sys2Proof/Machine/Ops.lean ====
section
/-! DEFINITION. The named operations every meaning is written with: registers (07 R136, 19 R363), token FIFOs (07 R143),
queue registers and the checks of 07 R140, results in flight (07 R137, R139, R141), recorded faults (19 R364), taking a
trap as ONE operation (19 R362, R363, R365, R366) with the return beside it (19 R367), and the frame in which every word
issues (03 R54). -/

namespace Sys2Proof.Machine

/-- Where and when a word acts: the real cycle, the hand, the engine. -/
structure At where
  now : Nat
  r : Nat
  e : Engine
  deriving DecidableEq, Repr

/-- Why a word does not issue: a trap, a freeze with its code of 07 R146 and what the deadlock record names, a freeze of
a word that begins its action and then waits (a BAR's arrival), or a miss of the translation cache, whose walk is started
and freezes with code 8 (04 R60). -/
inductive Stop where
  | trap (f : FaultRec)
  | freeze (code : Nat) (info : Nat)
  | start (code : Nat)
  | walk (va : W64)
  deriving DecidableEq, Repr

/-- A trap with a cause, a reason and its own fields. -/
def trapOf (cause reason : Nat) (slots : List W64 := []) : Option Stop := some (.trap ⟨cause, reason, slots⟩)
/-- A trap when a condition holds. -/
def trapIf (b : Bool) (cause reason : Nat) (slots : List W64 := []) : Option Stop :=
  if b then trapOf cause reason slots else none
/-- A freeze when a condition holds. -/
def freezeIf (b : Bool) (code : Nat) (info : Nat := 0) : Option Stop := if b then some (.freeze code info) else none
/-- The first stop of a list of checks, in order. -/
def firstStop : List (Option Stop) → Option Stop
  | [] => none
  | some x :: _ => some x
  | none :: t => firstStop t
/-- A number as a record slot. -/
def slotN (n : Nat) : W64 := BitVec.ofNat 64 n

/-! ## Registers -/

/-- The home of S[n] at a ring: rings 1 to 3 have their own S56 to S63 (19 R363). -/
def sKey (ring n : Nat) : Nat := if ring = 0 || n < 56 then n else 64 + 8 * (ring - 1) + (n - 56)
/-- The home of A[n] at a ring: rings 1 to 3 have their own A28 to A31 (19 R363). -/
def aKey (ring n : Nat) : Nat := if ring = 0 || n < 28 then n else 32 + 4 * (ring - 1) + (n - 28)
/-- S[n]; S0 reads zero (07 R136). -/
def Hand.sreg (h : Hand) (n : Nat) : W64 := if n = 0 then 0 else KMap.get 0 h.s (sKey h.ring n)
/-- A[n]; A0 reads zero (07 R136). -/
def Hand.areg (h : Hand) (n : Nat) : W64 := if n = 0 then 0 else KMap.get 0 h.a (aKey h.ring n)
/-- P[n]. -/
def Hand.preg (h : Hand) (n : Nat) : BitVec 128 := KMap.get 0 h.p n
/-- H[n]. -/
def Hand.hreg (h : Hand) (n : Nat) : W32 := KMap.get 0 h.h n
/-- ST[n]. -/
def Hand.streg (h : Hand) (n : Nat) : BitVec 256 := KMap.get 0 h.st n
/-- S at a home key written; home 0 discards (03 R43). -/
def Hand.putS (h : Hand) (k : Nat) (v : W64) : Hand := if k = 0 then h else { h with s := h.s.set k v }
/-- A at a home key written; home 0 discards (03 R43). -/
def Hand.putA (h : Hand) (k : Nat) (v : W64) : Hand := if k = 0 then h else { h with a := h.a.set k v }

/-- Is a write of the S register at home `k` in flight (07 R137)? -/
def Hand.pendS (h : Hand) (k : Nat) : Bool :=
  h.results.any (fun x => x.lands.any (fun l => match l with | .sreg n _ => n == k | _ => false))
/-- Is a write of the A register at home `k` in flight? -/
def Hand.pendA (h : Hand) (k : Nat) : Bool :=
  h.results.any (fun x => x.lands.any (fun l => match l with | .areg n _ => n == k | _ => false))
/-- Is a write of H[k] in flight? -/
def Hand.pendH (h : Hand) (k : Nat) : Bool :=
  h.results.any (fun x => x.lands.any (fun l => match l with | .hreg n _ => n == k | _ => false))
/-- Is a write of P[k] in flight (10 R198)? -/
def Hand.pendP (h : Hand) (k : Nat) : Bool :=
  h.results.any (fun x => x.lands.any (fun l => match l with | .preg n _ => n == k | _ => false))

/-- Code 3 while S[n] has not landed; the record names it by its operand code (03 R41). -/
def Hand.needS (h : Hand) (n : Nat) : Option Stop := freezeIf (n != 0 && h.pendS (sKey h.ring n)) 3 (1536 + n)
/-- Code 3 while A[n] has not landed. -/
def Hand.needA (h : Hand) (n : Nat) : Option Stop := freezeIf (n != 0 && h.pendA (aKey h.ring n)) 3 n
/-- Code 3 while H[n] has not landed. -/
def Hand.needH (h : Hand) (n : Nat) : Option Stop := freezeIf (h.pendH n) 3 n
/-- Code 3 while P[n] has not landed. -/
def Hand.needP (h : Hand) (n : Nat) : Option Stop := freezeIf (h.pendP n) 3 (1600 + n)

/-- A per-hand control register's raw value, with its reset value where it was never written. -/
def crReset (n : Nat) : W64 :=
  if n = 0x021 then 512 else if n = 0x022 then 0x01000000 else if n = 0x040 then 32 else if n = 0x042 then 15
  else if n = 0x048 then 0x00FF0800 else if n = 0x04A then 0x3F800000 else if n = 0x07A then 0x20
  else if 0x038 ≤ n && n ≤ 0x03F then
    match n - 0x038 with | 1 => 0x41EB8 | 2 => 0x676 | 3 => 0x256 | 4 => 0x254 | _ => 0x20E98
  else 0
/-- A per-hand control register. -/
def Hand.creg (h : Hand) (n : Nat) : W64 := KMap.get (crReset n) h.cr n
/-- A per-hand control register written raw. -/
def Hand.setCreg (h : Hand) (n : Nat) (v : W64) : Hand := { h with cr := h.cr.set n v }
/-- XMODE.RM (08 R170). -/
def Hand.xrm (h : Hand) : Nat := (bits (h.creg 0x030) 0 3).toNat
/-- XMODE.SAT (08 R170). -/
def Hand.xsat (h : Hand) : Bool := bit (h.creg 0x030) 3

/-! ## Tokens -/

/-- The FIFO from one engine to another by its token-target number (03 R45): 1 A>X, 2 X>A, 3 A>M, 4 M>A, 5 X>M, 6 M>X. -/
def fifoNo : Engine → Engine → Nat
  | .a, .x => 1 | .x, .a => 2 | .a, .m => 3 | .m, .a => 4 | .x, .m => 5 | .m, .x => 6 | _, _ => 0
/-- The engine a header's 2-bit code names. -/
def engOf (c : BitVec 2) : Option Engine :=
  if c = 1 then some .a else if c = 2 then some .x else if c = 3 then some .m else none
/-- The FIFO that a pop-from field names for an engine; 0 none. -/
def popFifo (e : Engine) (c : BitVec 2) : Nat := match engOf c with | some f => fifoNo f e | none => 0
/-- The FIFO that a push-to field names for an engine; 0 none. -/
def pushFifo (e : Engine) (c : BitVec 2) : Nat := match engOf c with | some f => fifoNo e f | none => 0

/-- A token FIFO of a hand. -/
def Hand.fifo (h : Hand) (f : Nat) : Fifo := KMap.get {} h.fifos f
/-- A hand with a FIFO replaced. -/
def Hand.setFifo (h : Hand) (f : Nat) (x : Fifo) : Hand := { h with fifos := h.fifos.set f x }
/-- The tokens that can be popped: one that entered in this cycle cannot (07 R143). -/
def Fifo.avail (x : Fifo) (now : Nat) : Nat := x.count - (if x.lastIn = now then x.lastN else 0)
/-- One token enters. -/
def Fifo.enter (x : Fifo) (now : Nat) : Fifo :=
  { x with count := x.count + 1, lastIn := now, lastN := if x.lastIn = now then x.lastN + 1 else 1 }
/-- A pending token enters as soon as a place frees (07 R143). -/
def Fifo.letIn (x : Fifo) (now : Nat) : Fifo :=
  if x.pend = 0 || 16 ≤ x.count + x.reserved then x else { x.enter now with pend := x.pend - 1 }
/-- One token popped; a pending one takes the place. -/
def Fifo.pop (x : Fifo) (now : Nat) : Fifo := Fifo.letIn { x with count := x.count - 1 } now
/-- Pop-from freezes with code 1 on an empty FIFO (07 R143, R146). -/
def Hand.popStop (h : Hand) (now f : Nat) : Option Stop := freezeIf (f != 0 && (h.fifo f).avail now == 0) 1 f
/-- Push-to freezes with code 2 when tokens, places and pending tokens number 16 (07 R143, R146). -/
def Hand.pushStop (h : Hand) (f : Nat) : Option Stop :=
  freezeIf (f != 0 && decide (16 ≤ (h.fifo f).count + (h.fifo f).reserved + (h.fifo f).pend)) 2 f
/-- A token popped, where the header names one. -/
def Hand.popTok (h : Hand) (now f : Nat) : Hand := if f = 0 then h else h.setFifo f ((h.fifo f).pop now)
/-- A place reserved, where the header names one. -/
def Hand.reserveTok (h : Hand) (f : Nat) : Hand :=
  if f = 0 then h else h.setFifo f { h.fifo f with reserved := (h.fifo f).reserved + 1 }
/-- A reserved token enters. -/
def Hand.enterTok (h : Hand) (now f : Nat) : Hand :=
  if f = 0 then h else h.setFifo f (Fifo.enter { h.fifo f with reserved := (h.fifo f).reserved - 1 } now)
/-- A completion pushes without a reservation: into a full FIFO it waits as a pending token (07 R143). -/
def Hand.completeTok (h : Hand) (now f : Nat) : Hand :=
  if f = 0 then h
  else if 16 ≤ (h.fifo f).count + (h.fifo f).reserved then h.setFifo f { h.fifo f with pend := (h.fifo f).pend + 1 }
  else h.setFifo f ((h.fifo f).enter now)

/-! ## Queue registers -/

/-- The entries of a queue register, head first (07 R139). -/
def Hand.queue (h : Hand) (n : Nat) : List Slot := KMap.get [] h.v n
/-- The operands that an instruction reads from queues, in order: register, and whether it keeps. -/
abbrev Reads := List (Nat × Bool)
/-- The popping reads of `q` in a list. -/
def popsOf (rs : Reads) (q : Nat) : Nat := (rs.filter (fun x => x.1 == q && !x.2)).length
/-- The place in its queue that read number `i` takes: behind the earlier popping reads of the same queue. -/
def readPos (rs : Reads) (i : Nat) : Nat := popsOf (rs.take i) (rs.getD i (0, true)).1
/-- Does the queue of read `i` hold too few entries: fewer than the word's popping reads of it, or none (07 R140)? -/
def Hand.under (h : Hand) (rs : Reads) (i : Nat) : Bool :=
  let q := (rs.getD i (0, true)).1
  decide ((h.queue q).length < max 1 (popsOf rs q))
/-- Does a keeping read stand past the last entry, behind pops of the same word? The spec gives it no value (log 27). -/
def Hand.beyond (h : Hand) (rs : Reads) (i : Nat) : Bool :=
  decide ((h.queue (rs.getD i (0, true)).1).length ≤ readPos rs i)
/-- The value at a slot; a reserved one has none yet. -/
def Slot.val : Slot → Entry
  | .landed x | .parity x => x
  | .reserved _ => 0
/-- Has a slot landed? -/
def Slot.isLanded : Slot → Bool
  | .landed _ | .parity _ => true
  | .reserved _ => false
/-- Does a parity error stand in a slot (19 R379)? -/
def Slot.bad : Slot → Bool
  | .parity _ => true
  | _ => false
/-- The value that read `i` takes. -/
def Hand.readVal (h : Hand) (rs : Reads) (i : Nat) : Entry :=
  let q := (rs.getD i (0, true)).1
  ((h.queue q).getD (readPos rs i) (.landed (Config.emptyPeek h.peeks q))).val
/-- Has the entry of read `i` landed? -/
def Hand.readLanded (h : Hand) (rs : Reads) (i : Nat) : Bool :=
  ((h.queue (rs.getD i (0, true)).1).getD (readPos rs i) (.landed 0)).isLanded

/-- Does a parity error stand in the entry of read `i`? -/
def Hand.readBad (h : Hand) (rs : Reads) (i : Nat) : Bool :=
  ((h.queue (rs.getD i (0, true)).1).getD (readPos rs i) (.landed 0)).bad

/-- The checks of 07 R140: underflow of any source, overflow of any pushed queue after the word's own pops, an empty
pool, and then the freeze on a head that has not landed. `pushes` lists one register for each entry pushed. An entry with a parity
error, popped or peeked, then raises machine-check (19 R379). -/
def Hand.queueStop (h : Hand) (rs : Reads) (pushes : List Nat) : Option Stop :=
  let idx := List.range rs.length
  match idx.find? (fun i => h.under rs i) with
  | some i =>
    let q := (rs.getD i (0, true)).1
    trapOf 3 0 [slotN q, slotN (h.queue q).length]
  | none =>
    match pushes.find? (fun q => decide (4 < (h.queue q).length - popsOf rs q + pushes.count q)) with
    | some q => trapOf 4 0 [slotN q, slotN (h.queue q).length]
    | none =>
      if h.pool < pushes.length then trapOf 5 0 [slotN (pushes.headD 0), slotN (h.queue (pushes.headD 0)).length]
      else match idx.find? (fun i => !h.readLanded rs i) with
        | some i => some (.freeze 3 (rs.getD i (0, true)).1)
        | none =>
          match idx.find? (fun i => h.readBad rs i) with
          | some i => trapOf 0x1F 0 [5, slotN (rs.getD i (0, true)).1, Config.syndrome (h.readVal rs i), 0]
          | none => none

/-- The popping reads performed: heads leave, their pool entries free in the next vc (07 R139), and a pop invalidates
the engine's own latch on that register (07 R142). -/
def Hand.popReads (h : Hand) (e : Engine) : Reads → Hand
  | [] => h
  | (q, keep) :: t =>
    let h' := if keep then h else
      Hand.modEngine { h with v := h.v.set q ((h.queue q).drop 1), freed := h.freed + 1 } e
        (fun x => if (x.latch.map (·.1)) == some q then { x with latch := none } else x)
    h'.popReads e t

/-- One entry reserved at the tail of a queue, from the pool (07 R139). -/
def Hand.reserve (h : Hand) (q id : Nat) : Hand :=
  { h with v := h.v.set q (h.queue q ++ [.reserved id]), pool := h.pool - 1 }

/-- The first slot that result `id` reserved takes its value. -/
def fillSlot (id : Nat) (x : Entry) : List Slot → List Slot
  | [] => []
  | .reserved j :: t => if j = id then .landed x :: t else .reserved j :: fillSlot id x t
  | s :: t => s :: fillSlot id x t
/-- Does a slot reserved by another result stand before the first slot of `id` (07 R141)? -/
def blockedBy (id : Nat) : List Slot → Bool
  | [] => false
  | .reserved j :: _ => j != id
  | _ :: t => blockedBy id t

/-! ## Recorded faults -/

/-- A recorded fault noted against a hand; past eight it is counted as lost (19 R364). -/
def Mach.recordFault (m : Mach) (r : Nat) (f : FaultRec) : Mach :=
  m.modHand r (fun h => if 8 ≤ h.pending.length then { h with lost := h.lost + 1 }
    else { h with pending := h.pending ++ [f] })

/-- ECNT of a cluster counts errors: corrected in the low half, uncorrectable in the high half (19 R361, R379). -/
def Mach.addErrors (m : Mach) (c ce ue : Nat) : Mach :=
  if ce + ue = 0 then m
  else m.modCluster c (fun x =>
    let old := (KMap.get 0 x.cr 0x016).toNat
    { x with cr := x.cr.set 0x016 (BitVec.ofNat 64 (min (old % 2 ^ 32 + ce) (2 ^ 32 - 1) + 2 ^ 32 * min (old / 2 ^ 32 + ue) (2 ^ 32 - 1))) })

/-! ## Results in flight -/

/-- The queues that a result lands in. -/
def Land.queueNo : Land → Option Nat
  | .queue n _ => some n
  | _ => none
/-- Do two landings write one register? -/
def Land.same : Land → Land → Bool
  | .sreg a _, .sreg b _ => a == b
  | .areg a _, .areg b _ => a == b
  | .hreg a _, .hreg b _ => a == b
  | .preg a _, .preg b _ => a == b
  | .streg a _, .streg b _ => a == b
  | _, _ => false
/-- The earliest landing that keeps issue order with earlier writes of the same register (07 R137). -/
def Hand.landAfter (h : Hand) (lands : List Land) (t : Nat) : Nat :=
  h.results.foldl (fun acc x => if x.lands.any (fun l => lands.any l.same) then max acc x.due else acc) t

/-- A result issued by a hand: queue places reserved, the token's place reserved, its landing put on the agenda at cycle
`due` when it is ready. `xres` marks a result of an X instruction, whose flags an MFC of XFLAGS waits for. -/
def Mach.issueResult (m : Mach) (r : Nat) (lands : List Land) (flags : BitVec 6) (push due : Nat) (ready : Bool)
    (xres : Bool) : Mach :=
  let id := m.nextId
  let h := m.hand r
  let due := h.landAfter lands due
  let h1 := (lands.filterMap Land.queueNo).foldl (fun h q => h.reserve q id) h
  let h2 := h1.reserveTok push
  let h3 := { h2 with results := h2.results ++ [{ id := id, lands := lands, flags := flags, push := push, due := due,
                                                   ready := ready, xres := xres }] }
  let m1 := (m.setHand r h3).bump
  if ready then m1.post due (.resultLanding r id) else m1

/-- One landing performed in a hand. -/
def Hand.land (h : Hand) (id : Nat) : Land → Hand
  | .sreg n v => h.putS n v
  | .areg n v => h.putA n v
  | .hreg n v => { h with h := h.h.set n v }
  | .preg n v => { h with p := h.p.set n v }
  | .streg n v => { h with st := h.st.set n v }
  | .creg n v => h.setCreg n v
  | .mem _ _ => h
  | .queue n v => { h with v := h.v.set n (fillSlot id v (h.queue n)) }

/-- Memory with what a landing writes to it. -/
def Mach.landMem (m : Mach) : Land → Mach
  | .mem k bs => m.poke k bs
  | _ => m
/-- Has everything that a fence waits for been performed (06 R124)? A write to a peer counts, below fabric scope, once it has gone. -/
def Hand.fenceMet (h : Hand) (f : Fence) : Bool :=
  h.accs.all (fun a => decide (f.snap ≤ a.id) || (!f.rel && !a.isLoad) || (!a.isLoad && a.sent && !f.fabric))
/-- Does an eviction that was asked of the SACC under a number go on (06 R129)? -/
def Mach.flushing (m : Mach) (r id : Nat) : Bool := (m.cluster (clusterOf r)).saccFl.any (fun f => f.id == id)
/-- A result lands: its registers and queue entries take their values, its flags are set (08 R169), its token enters
(07 R143). A queue entry waits behind earlier reservations of its queue (07 R141), a register behind an earlier write of
it (07 R137), a fence for its accesses (06 R124), a SACCF for its evictions (06 R129): the landing is then tried again in the next cycle. The machine-check of what it
brings is noted with it, and so delivered at the boundary before the vc in which it can be read (19 R379). -/
def Mach.landResult (m : Mach) (now r id : Nat) : Mach :=
  let h := m.hand r
  match h.results.find? (fun x => x.id == id) with
  | none => m
  | some x =>
    if (x.lands.filterMap Land.queueNo).any (fun q => blockedBy id (h.queue q)) then
      m.post (now + 1) (.resultLanding r id)
    else if (h.results.takeWhile (fun y => y.id != id)).any (fun y => y.lands.any (fun l => x.lands.any l.same)) then
      m.post (now + 1) (.resultLanding r id)
    else if x.fence.any (fun f => !h.fenceMet f) || m.flushing r id then m.post (now + 1) (.resultLanding r id)
    else
      let h1 := { h with results := h.results.filter (fun y => y.id != id), xflags := h.xflags ||| x.flags }
      let h2 := x.lands.foldl (fun h l => h.land id l) h1
      let m1 := x.lands.foldl Mach.landMem (m.setHand r ((h2.enterTok now x.push).completeTok now x.tok))
      x.fault.elim m1 (m1.recordFault r)

/-- A result gets the values it lands and its landing time. -/
def Mach.supply (m : Mach) (r id : Nat) (lands : List Land) (due : Nat) : Mach :=
  let h := m.hand r
  let due := { h with results := h.results.takeWhile (fun x => x.id != id) }.landAfter lands due
  (m.setHand r { h with results := h.results.map (fun x =>
      if x.id == id then { x with lands := lands, due := due, ready := true } else x) }).post due (.resultLanding r id)

/-- A result gets the machine-check of the data that it brings (19 R379). -/
def Mach.warn (m : Mach) (r id : Nat) (f : Option FaultRec) : Mach :=
  if f.isNone then m
  else m.modHand r (fun h => { h with results := h.results.map (fun x => if x.id == id then { x with fault := f } else x) })
/-- A result of a hand supplied with the entry for its queue, if it still waits. -/
def Mach.supplyQueue (m : Mach) (now r res : Nat) (v : Entry) : Mach :=
  match (m.hand r).results.find? (fun x => x.id == res) with
  | none => m
  | some x => m.supply r res (x.lands.map (fun l => match l with | .queue q _ => .queue q v | l => l)) now
/-- The id that the latest issued result took. -/
def Mach.lastId (m : Mach) : Nat := m.nextId - 1

/-- A command's completion token enters its FIFO at a hand (07 R143). -/
def Mach.pushToken (m : Mach) (now r f : Nat) : Mach := m.modHand r (fun h => h.completeTok now f)

/-! ## Traps -/

/-- The default ring of a cause (19 R360). -/
def defaultRing (c : Nat) : Nat :=
  if c = 0x1F then 2
  else if [0x02, 0x08, 0x09, 0x0C, 0x15, 0x16, 0x17, 0x1B, 0x1C, 0x1D, 0x1E].contains c then 1 else 0
/-- TRING at its defaults (19 R361). -/
def tringReset : W64 :=
  BitVec.ofNat 64 ((List.range 32).foldl (fun acc c => acc + defaultRing c * 4 ^ c) 0)
/-- The target ring that the context's TRING gives a cause (19 R361). -/
def Mach.tring (m : Mach) (r c : Nat) : Nat :=
  (bits (KMap.get tringReset (m.handCtx r).cr 1) (2 * c) 2).toNat
/-- Is a handler of the current ring active? -/
def Hand.busyAt (h : Hand) (k : Nat) : Bool := h.busy.getLsbD k
/-- The ring a trap is delivered at (19 R362); `want` is the target ring. -/
def Hand.deliverRing (h : Hand) (want : Nat) : Nat := max want (h.ring + (h.busyAt h.ring).toNat)

/-- CR as the control register reads (19 R361). -/
def Hand.crValue (h : Hand) : W64 := (BitVec.ofNat 64 h.busy.toNat <<< 4) ||| BitVec.ofNat 64 h.ring
/-- The command before the oldest of some commands of a hand, by 32-bit sequence numbers; ASEQ without any (11 R225). -/
def Hand.before (h : Hand) (cs : List Cmd) : Nat :=
  let n := (h.creg 0x043).toNat
  cs.foldl (fun acc c => if sub32 n acc < sub32 n (sub32 c.seq 1) then sub32 c.seq 1 else acc) n
/-- The array commands of a hand that have not completed, with those that pre-emption saved (11 R225, R235). -/
def Mach.openCmds (m : Mach) (r : Nat) : List Cmd := (m.cluster (clusterOf r)).cmds.filter (fun c => c.hand == r) ++ (m.hand r).cmdSaved
/-- ASTRT: the highest number such that it and every earlier command of the hand have started (11 R225). -/
def Mach.astrt (m : Mach) (r : Nat) : Nat := (m.hand r).before ((m.openCmds r).filter (fun c => !c.started))
/-- ADONE: the highest number such that it and every earlier command of the hand have completed (11 R225). -/
def Mach.adone (m : Mach) (r : Nat) : Nat := (m.hand r).before (m.openCmds r)
/-- p-bit sweeps remaining of the hand (19 R366, 16 R315). -/
def Mach.sweepsOf (m : Mach) (r : Nat) : Nat :=
  ((m.die (dieOf (clusterOf r))).queue.find? (fun c => c.hand == r && c.started)).elim (((m.hand r).pbSaved.head?).elim 0 (·.left)) (·.left)

/-- The collectives of a hand's thread that have not faulted: those it issued here, and those it issued in another hand (15 R297, R302). -/
def Mach.collsOf (m : Mach) (r : Nat) : List Coll :=
  let h := m.hand r
  let mine := fun (c : Coll) => decide (c.state < 3) && c.ctx == h.ctx && c.tid == h.tid
  h.colls.filter mine ++ (m.hands.filter (fun p => p.1 != r)).flatMap (fun p => p.2.colls.filter mine)
/-- The same with those that have faulted, as the record shows them (19 R366). -/
def Mach.threadColls (m : Mach) (r : Nat) : List Coll :=
  let h := m.hand r
  let mine := fun (c : Coll) => decide (c.state < 4) && c.ctx == h.ctx && c.tid == h.tid
  h.colls.filter mine ++ (m.hands.filter (fun p => p.1 != r)).flatMap (fun p => p.2.colls.filter mine)
/-- The state code of a copy in the record (19 R366). -/
def Copy.recState (c : Copy) : Nat := match c.state with | 0 | 1 | 4 => 1 | 2 | 6 => 2 | 3 => 3 | _ => 0
/-- One copy slot of the record, 32 bytes. -/
def copySlot (c : Option Copy) : List Byte :=
  match c with
  | none => leBytes 32 0
  | some c =>
    leBytes 4 c.seq ++ leBytes 1 c.recState ++ leBytes 3 0
      ++ leBytes 15 ((c.idx.zipIdx).foldl (fun acc p => acc + p.1 * 2 ^ (20 * p.2)) 0) ++ leBytes 1 0
      ++ leBytes 8 c.crc.toNat
/-- One collective slot of the record, 16 bytes. -/
def collSlot (c : Option Coll) : List Byte :=
  match c with
  | none => leBytes 16 0
  | some c =>
    leBytes 4 c.seq ++ leBytes 1 (if c.state = 3 then 3 else if c.parked.isEmpty && c.discarded = 0 then 1 else 2) ++ leBytes 1 (field c.block 0 1) ++ leBytes 2 0
      ++ leBytes 4 (c.done.length + c.rows) ++ leBytes 4 c.total

/-- What a trap's cut names: the fault, the engine (0 A, 1 X, 2 M, 3 all), whether it was recorded, the word, the PCs. -/
structure Cut where
  f : FaultRec
  eng : Nat := 3
  recorded : Bool := false
  word : W64 := 0
  pcs : List W64 := []
  deriving DecidableEq, Repr

/-- The 1,024 bytes of the trap record (19 R366): `d` the ring delivered, `ret` the return ring, `nested`. -/
def Mach.recordBytes (m : Mach) (now r : Nat) (c : Cut) (d ret : Nat) (nested : Bool) : List Byte :=
  let h := m.hand r
  let low := min h.ea.words (min h.ex.words h.em.words)
  leBytes 8 now
    ++ leBytes 1 c.f.cause ++ leBytes 1 c.f.reason ++ leBytes 1 (c.eng + (if c.recorded then 4 else 0))
    ++ leBytes 1 (d + 4 * ret + (if nested then 16 else 0))
    ++ leBytes 2 (min h.lost 65535) ++ leBytes 1 h.frzc ++ leBytes 1 0 ++ leBytes 8 c.word.toNat
    ++ c.pcs.flatMap (fun p => leBytes 8 p.toNat)
    ++ leBytes 4 h.ea.iseq ++ leBytes 4 h.ex.iseq ++ leBytes 4 h.em.iseq ++ leBytes 4 0
    ++ leBytes 8 h.vclk ++ leBytes 8 h.ea.lastVc ++ leBytes 8 h.ex.lastVc ++ leBytes 8 h.em.lastVc
    ++ leBytes 4 (h.creg 0x043).toNat ++ leBytes 4 (m.astrt r) ++ leBytes 4 (m.adone r)
    ++ leBytes 4 h.cpseq ++ leBytes 4 h.clseq ++ leBytes 4 (m.sweepsOf r)
    ++ leBytes 2 (h.ea.words - low) ++ leBytes 2 (h.ex.words - low) ++ leBytes 2 (h.em.words - low) ++ leBytes 2 0
    ++ ((c.f.slots ++ List.replicate 16 (0 : W64)).take 16).flatMap (fun x => leBytes 8 x.toNat)
    ++ (List.range 8).flatMap (fun i => copySlot h.copies[i]?)
    ++ (List.range 4).flatMap (fun i => collSlot (m.threadColls r)[i]?)
    ++ leBytes 448 0

/-- Memory with a record written at ring k's area: slice or virtual for k up to 1, physical DRAM above (19 R361). -/
def Mach.writeRec (m : Mach) (r k : Nat) (bs : List Byte) : Except FaultRec Mach :=
  let x := (m.hand r).creg (0x008 + k)
  if k ≤ 1 then m.writeAt (m.hand r).ctx x bs (k == 0)
  else match m.physKind x.toNat with
    | .dram _ => .ok (m.poke x.toNat bs)
    | _ => .error ⟨8, 4, [x, 1, 0]⟩
/-- A record read at ring k's area. -/
def Mach.readRec (m : Mach) (r k : Nat) : Except FaultRec (List Byte) :=
  let x := (m.hand r).creg (0x008 + k)
  if k ≤ 1 then m.readAt (m.hand r).ctx x 1024 (k == 0)
  else match m.physKind x.toNat with
    | .dram _ => .ok (m.readSpan (rowPieces x.toNat 1024))
    | _ => .error ⟨8, 4, [x, 0, 0]⟩

/-- Steps 3 to 5 of trap entry (19 R363) into ring `d` for cause `c`. -/
def Hand.enterHandler (h : Hand) (now d c reason : Nat) : Hand :=
  let tvec := (h.creg (0x004 + d)) &&& ~~~7
  { (h.modEngines (fun e => { e with pc := tvec + BitVec.ofNat 64 (32 * c), prev := 0, issued := false,
                                      arrived := false, words := 0, latch := none, notBefore := 0, anew := true, bkOff := false })) with
    tcause := h.tcause.set d (BitVec.ofNat 64 (c + 256 * reason)), ring := d, busy := h.busy ||| (1 <<< d), vclk := 0, blocked := none, frzRun := 0, holdTill := now + 40, barTill := 0, stage := 0,
    lost := 0 }

/-- A barrier without the arrival of a hand: it has not completed then (17 R321, R342). -/
def Barrier.without (b : Barrier) (r : Nat) : Barrier :=
  if b.arrived.contains r then { b with arrived := b.arrived.erase r, doneAt := none } else b
/-- Every barrier arrival of a hand taken back, and its place in the order of a flag's waiters: a trap or pre-emption inside the wait of a
BAR or FWT (17 R321, R342, log 20). The members that counted the barrier's time wait again; an amount already taken for an FWT is given
back, and the flag's other waiters are looked at (17 R326). -/
def Mach.withdraw (m : Mach) (now r : Nat) : Mach :=
  let k := (m.hand r).ctx
  let ws := (m.ctx k).flagWaits.filter (fun w => w.hand == r)
  let back := ((m.ctx k).barriers ++ m.dev.fabBars).flatMap (fun p => if p.2.arrived.contains r then p.2.arrived else [])
  let m := (m.modCtx k (fun x =>
    { x with barriers := x.barriers.map (fun p => (p.1, p.2.without r))
             flags := ws.foldl (fun fl w => if w.served then
               fl.set (64 * w.team + w.flag) (KMap.get 0 fl (64 * w.team + w.flag) + BitVec.ofNat 32 w.amount) else fl) x.flags
             flagWaits := x.flagWaits.filter (fun w => w.hand != r) })).modDev (fun d =>
    { d with fabBars := d.fabBars.map (fun p => (p.1, p.2.without r)) })
  let m := back.foldl (fun m q => m.modHand q (fun h => { h with barTill := 0 })) m
  ws.foldl (fun m w => m.post now (.flagWaitServed k w.team w.flag)) m

/-- A trap delivered at ring `d` or above: the record is written, and where that write faults the write fault goes to a
higher ring in its place (19 R363); past ring 3 the package halts, its halt log keeping the first such record (19 R362). `fuel` bounds the rings left. -/
def Mach.deliver (m : Mach) (now r : Nat) (c : Cut) (ret : Nat) : Nat → Nat → Bool → Mach
  | 0, _, _ => m
  | fuel + 1, d, nested =>
    if 4 ≤ d then
      { m with halted := some (m.halted.getD ⟨m.recordBytes now r c 3 ret nested, m.hands.map (fun p => (p.1, p.2.crValue))⟩) }
    else
      match m.writeRec r d (m.recordBytes now r c d ret nested) with
      | .ok m' => m'.modHand r (fun h => h.enterHandler now d c.f.cause c.f.reason)
      | .error f => m.deliver now r { c with f := f } ret fuel (max (m.tring r f.cause) (d + 1)) true

/-- A walk started for a miss, unless one of the page is outstanding or all 1,024 walk slots of the die are busy
(04 R60); a level read takes 180 c. -/
def Mach.startWalk (m : Mach) (now c k : Nat) (va : W64) : Mach :=
  let x := m.cluster c
  let d := m.die (dieOf c)
  if x.walks.any (fun w => w.ctx == k && w.va.toNat / 65536 == va.toNat / 65536) || decide (1024 ≤ d.walks) then m
  else
    let w : Walk := { id := m.nextId, ctx := k, va := va, level := 3, table := (bits ((m.ctx k).reg 0x100) 12 40).toNat * 4096 }
    (((m.setCluster c { x with walks := x.walks ++ [w] }).setDie (dieOf c) { d with walks := d.walks + 1 }).bump).post
      (now + 180) (.translationWalk m.nextId)

/-- The failed walks of a cluster forgotten: what they found was reported, or is to be looked at again. -/
def Mach.dropFailed (m : Mach) (c : Nat) : Mach :=
  m.modCluster c (fun x => { x with walks := x.walks.filter (fun w => w.failed.isNone) })

/-- The number of an engine in a record (19 R366). -/
def engNo : Engine → Nat
  | .a => 0 | .x => 1 | .m => 2

/-- The placed text of the hand's context on its cluster (03 R39, log 13): what the instruction store of 512 KiB holds of it (01 R9). -/
def Mach.textOf (m : Mach) (r : Nat) : List W64 := (KMap.get [] (m.cluster (clusterOf r)).text (m.hand r).ctx).take 65536

/-- Does an engine decode a word (03 R39)? -/
def ownWord (e : Engine) (w : W64) : Bool := wordTag w == 0 || wordTag w == engNo e + 1

/-- The words passed up to the next one that engine `e` decodes, and that word, if the text holds one (03 R39). -/
def scanWords (e : Engine) : List W64 → Nat × Option W64
  | [] => (0, none)
  | w :: t => if ownWord e w then (0, some w) else let r := scanWords e t; (r.1 + 1, r.2)

/-- The return PC of an engine at a cut: its first word not issued (19 R366). An engine that has issued in this vc stands
at the word after; another stands at its own next word. -/
def Mach.cutPc (m : Mach) (r : Nat) (e : Engine) : W64 :=
  let h := m.hand r
  let x := h.engine e
  if x.issued && x.lastVc == h.vclk then x.pc
  else match scanWords e ((m.textOf r).drop (x.pc.toNat / 8)) with
    | (k, some _) => x.pc + BitVec.ofNat 64 (8 * k)
    | (_, none) => x.pc
/-- The return PCs of a cut. -/
def Mach.cutPcs (m : Mach) (r : Nat) : List W64 := [m.cutPc r .a, m.cutPc r .x, m.cutPc r .m]
/-- TAKING A TRAP (19 R362, R363, R365, R366). The cut is the machine as it stands: the engines' PCs are the first words
not issued unless `c` names others. `want` is the target ring of the cause. -/
def Mach.takeTrap (m : Mach) (now r : Nat) (c : Cut) (want : Nat) : Mach :=
  let m := (m.withdraw now r).dropFailed (clusterOf r)
  let h := m.hand r
  let c := if c.pcs.isEmpty then { c with pcs := m.cutPcs r } else c
  m.deliver now r c h.ring 5 (h.deliverRing want) (h.busy != 0)

/-- A trap with the ring its cause gives it. -/
def Mach.trap (m : Mach) (now r : Nat) (c : Cut) : Mach := m.takeTrap now r c (m.tring r c.f.cause)

/-! ## The frame of a word -/

/-- What one word does beyond the frame: a check that stands among the first five, the ring it needs (check 6), its own
checks and freezes in their order (check 7), what it does when it begins and must wait, and its effect. -/
structure Meaning where
  pre  : Option Stop := none
  ring : Nat := 0
  own  : Option Stop := none
  wait : Mach → Mach := id
  eff  : Mach → Mach := id

/-- A word issues at an engine: the token is popped, the PC moves on, the engine has issued in this vc. -/
def Hand.issueAt (h : Hand) (now : Nat) (e : Engine) (pop : Nat) : Hand :=
  { (h.popTok now pop).modEngine e (fun x =>
      { x with pc := x.pc + 8, prev := h.vclk, issued := true, anew := false, words := x.words + 1, iseq := x.iseq + 1,
               lastVc := h.vclk, bkOff := false }) with blocked := none, stage := 0 }

/-- The header of a long engine command as far as its issue is concerned: its token takes no place at issue, for it is
pushed at completion without a reservation (05 R102, 07 R143). -/
def lateHdr (hd : Hdr) : Hdr := { hd with push := 0 }

/-- The checks of 03 R54 in their order, the pop-from token, the word's own checks, and the push-to place. -/
def guardWord (m : Mach) (x : At) (i : Instr) (pop push : Nat) (mn : Meaning) : Option Stop :=
  match i.check with
  | some f => trapOf 1 f.reason
  | none =>
    firstStop [mn.pre, trapIf (decide ((m.hand x.r).ring < mn.ring)) 2 0, (m.hand x.r).popStop x.now pop, mn.own,
      (m.hand x.r).pushStop push]

/-- The hand blocked: the freeze code is noted, nothing else changes (07 R146). -/
def Mach.block (m : Mach) (x : At) (code info : Nat) : Mach :=
  m.modHand x.r (fun h => { h with blocked := some ⟨code, x.e, info⟩, frzc := code })

/-- A machine-check that a word takes: ECNT counts it, and its record names the requester (19 R379). -/
def FaultRec.by (f : FaultRec) (r : Nat) : FaultRec := if f.cause = 0x1F then { f with slots := f.slots.set 3 (slotN r) } else f
/-- A word that stops: it traps precisely at engine number `te` (3: all three), or its hand is blocked; one that begins
does what it begins, and its hand is at the stage after. -/
def Mach.stopWord (m : Mach) (x : At) (te : Nat) (i : Instr) (wait : Mach → Mach) : Stop → Mach
  | .trap f => (m.addErrors (clusterOf x.r) 0 (if f.cause = 0x1F then 1 else 0)).trap x.now x.r
      { f := f.by x.r, eng := te, word := (encode i).getD 0 }
  | .freeze c info => m.block x c info
  | .start c => wait ((m.block x c 0).modHand x.r (fun h => { h with stage := h.stage + 1, stageT := x.now }))
  | .walk va => (m.startWalk x.now (clusterOf x.r) (m.hand x.r).ctx va).block x 8 0

/-- A word at engine `e`: guard, then issue and effect; a trap names engine number `te`. -/
def runWordAt (s : State) (e : Engine) (te : Nat) (i : Instr) (hd : Hdr) (mn : At → Mach → Meaning) : State :=
  let x : At := ⟨s.tb, s.cur, e⟩
  let pop := popFifo e hd.pop
  match guardWord s.m x i pop (pushFifo e hd.push) (mn x s.m) with
  | some st => { s with m := s.m.stopWord x te i (mn x s.m).wait st }
  | none => { s with m := (mn x s.m).eff (s.m.modHand x.r (fun h => h.issueAt s.tb e pop)) }

/-- A word of one engine (03 R54). -/
def runWord (s : State) (e : Engine) (i : Instr) (hd : Hdr) (mn : At → Mach → Meaning) : State :=
  runWordAt s e (engNo e) i hd mn

/-- An ALL-tagged word that the current engine executes for itself; a trap of it is one trap of all three engines
(03 R52, R53, 09 R188). -/
def runEach (s : State) (i : Instr) (hd : Hdr) (mn : At → Mach → Meaning) : State := runWordAt s s.eng 3 i hd mn

/-- A rendezvous is passed by all three engines together (03 R52). -/
def Hand.passRv (h : Hand) : Hand :=
  { h.modEngines (fun x =>
      { x with pc := x.pc + 8, prev := h.vclk, issued := true, arrived := false, anew := false, words := x.words + 1,
               iseq := x.iseq + 1, lastVc := h.vclk, bkOff := false }) with blocked := none, stage := 0 }

/-- A rendezvous word, performed once when the last engine has arrived (03 R52, R53): guard, then all three engines go
past it, then its effect. -/
def runRv (s : State) (i : Instr) (mn : At → Mach → Meaning) : State :=
  let x : At := ⟨s.tb, s.cur, s.eng⟩
  match guardWord s.m x i 0 0 (mn x s.m) with
  | some st => { s with m := s.m.stopWord x 3 i (mn x s.m).wait st }
  | none => { s with m := (mn x s.m).eff (s.m.modHand x.r Hand.passRv) }

/-- An event: its effect at the present cycle. -/
def runEvent (s : State) (f : Nat → Mach → Mach) : State := { s with m := f s.tb s.m }

/-! ## The order at banks -/

/-- The queued access with a number, and its hand. -/
def Mach.findAcc (m : Mach) (id : Nat) : Option (Nat × Access) :=
  m.hands.findSome? (fun p => (p.2.accs.find? (fun a => a.id == id)).map (fun a => (p.1, a)))
/-- The cycle in which an event came to its bank: the present one, unless it waits there (06 R116). -/
def Mach.cameAt (m : Mach) (now : Nat) (i : Instr) : Nat := ((m.bankQ.find? (fun p => p.1 == i)).map (·.2)).getD now
/-- The order in which the events of one cycle are served: those of no bank first, a deal of a lower-numbered die before one of a higher
(17 R331), then accesses in order of arrival, those that arrive together from local cores 0 to 3, the SACC, the copy, tier-engine and
collective port, and the mesh inputs N, E, S, W (06 R116); behind them what no mesh input is named for, a row from another device
(DESIGN CHOICE, log 114), and a frame after a round that begins (13 R264). -/
def Mach.bankTurn (m : Mach) (now : Nat) (i : Instr) : Nat :=
  match i with
  | .bankAccess id =>
    match m.findAcc id with
    | none => 0
    | some (r, a) => 16 * min a.at_ now + (if a.port = 0 then 1 + coreOf r % 4 else 7 + a.port)
  | .saccAccept _ => 16 * m.cameAt now i + 5
  | .dealIteration d => 1 + d
  | .frameArrival _ => 16 * m.cameAt now i + 15
  | .remoteRowArrival _ => 16 * now + 12
  | .meshFlitAdvance id => if m.rowsIn.any (fun p => p.1 == id) then 16 * m.cameAt now i + 12 else 0
  | .copyComplete _ _ => 16 * m.cameAt now i + 7
  | .copyUnit _ _ | .tierShardArrival _ _ _ | .collStepArrival _ _ _ _ | .collBlockExchange _ _ _ | .collComplete _ _ | .ttEntryEnd _ | .tierRequestEnd _ | .specFetchEnd _ => 16 * m.cameAt now i + 6
  | _ => 0
/-- Is an event the arrival of a frame that waits for the words of its cycle (13 R264)? -/
def Mach.lateFrame (m : Mach) : Instr → Bool
  | .frameArrival id => m.frames.any (fun f => f.id == id && f.late)
  | _ => false
/-- The place in the agenda of the event that is due and served next, with the event: of the earliest turn, first of equals; before the
hands' turns (`early`) none that is late. -/
def Mach.nextDue (m : Mach) (now : Nat) (early : Bool) : Option (Nat × Instr) :=
  let best := (m.agenda.takeWhile (fun p => decide (p.1 ≤ now))).zipIdx.foldl (fun (b : Option (Nat × Nat × Instr)) p =>
    if early && m.lateFrame p.1.2 then b
    else
      let k := m.bankTurn now p.1.2
      match b with
      | none => some (k, p.2, p.1.2)
      | some q => if k < q.1 then some (k, p.2, p.1.2) else b) none
  best.map (fun q => (q.2.1, q.2.2))

end Sys2Proof.Machine
end

