-- ==== Sys2Proof/Machine/Logs.lean ====
section
/-! DEFINITION. The rings that the device writes at physical addresses: a partition's event queue (20 R393) and its replay
log (21 R396, R398). -/

namespace Sys2Proof.Machine

/-- Bytes written at a physical DRAM address that a register names; elsewhere the machine stops (04 R61). -/
def Mach.pokePhys (m : Mach) (pa : Nat) (bs : List Byte) : Mach :=
  match m.physKind pa with
  | .dram _ => m.poke pa bs
  | _ => { m with bad := some pa }

/-- A per-partition control register. -/
def Part.reg (p : Part) (n : Nat) : W64 := KMap.get 0 p.cr n

/-- A core and hand as an event or log record names it (20 R393, 21 R398); none is 0xFFFF. -/
def coreHand : Option Nat → Nat
  | none => 0xFFFF
  | some r => r / 2 + 32768 * (r % 2)

/-- An event written into a partition's queue: type, old and new level or state, zone, hand, REM or TEMP (20 R393). With
no queue or a full one it is counted as lost. -/
def Mach.powerEvent (m : Mach) (now p ty old new zone : Nat) (who : Option Nat) (datum : Nat) : Mach :=
  let x := m.part p
  let b := x.reg 0x0A4
  let cap := (bits b 0 5).toNat
  if cap = 0 || 2 ^ cap ≤ sub32 x.pevqw (x.reg 0x0A6).toNat then m.setPart p { x with lostEv := x.lostEv + 1 }
  else
    let pa := (bits b 5 47).toNat * 32 + 32 * (x.pevqw % 2 ^ cap)
    (m.setPart p { x with pevqw := (x.pevqw + 1) % 2 ^ 32, lostEv := 0 }).pokePhys pa
      (leBytes 8 now ++ leBytes 1 ty ++ leBytes 1 p ++ leBytes 1 old ++ leBytes 1 new ++ leBytes 1 zone ++ leBytes 1 0
        ++ leBytes 2 (coreHand who) ++ leBytes 4 datum ++ leBytes 4 (min x.lostEv (2 ^ 32 - 1)) ++ leBytes 8 0)

/-- RPCTL.MODE of a partition: 0 off, 1 record, 2 replay (21 R396). -/
def Part.rpMode (x : Part) : Nat := (x.reg 0x0B3).toNat % 4
/-- The capacity of the log ring (21 R396). -/
def Part.rpCap (x : Part) : Nat := 2 ^ (bits (x.reg 0x0B4) 0 5).toNat
/-- The address of record `k` of the log ring (21 R398). -/
def Part.rpAddr (x : Part) (k : Nat) : Nat := (bits (x.reg 0x0B4) 5 47).toNat * 32 + 32 * (k % x.rpCap)
/-- Is the partition recording into a ring without room for `n` records (21 R398)? -/
def Part.noRoom (x : Part) (n : Nat) : Bool := x.rpMode == 1 && decide (x.rpCap < sub32 x.rpw x.rpr + n)
/-- Is the partition recording with a full ring (21 R398)? -/
def Part.logFull (x : Part) : Bool := x.noRoom 1

/-- An input written into the log of a recording partition (21 R398): kind, thread, and the two data. -/
def Mach.logInput (m : Mach) (now p kind : Nat) (who : Option Nat) (a b : W64) : Mach :=
  let x := m.part p
  if x.rpMode != 1 then m
  else
    (m.setPart p { x with rpw := (x.rpw + 1) % 2 ^ 32 }).pokePhys (x.rpAddr x.rpw)
      (leBytes 8 now ++ leBytes 1 kind ++ leBytes 1 0 ++ leBytes 2 (coreHand who)
        ++ leBytes 4 (who.elim 0 (fun r => (m.hand r).vclk)) ++ leBytes 8 a.toNat ++ leBytes 8 b.toNat)

/-- The partition of the context that a hand holds. -/
def Mach.partOf (m : Mach) (r : Nat) : Nat := (m.handCtx r).part
/-- A word that needs a log record waits, frozen with code 12, while the ring is full (21 R398). -/
def Mach.logStop (m : Mach) (r : Nat) : Option Stop := freezeIf (m.part (m.partOf r)).logFull 12

/-- One record of a log in DRAM. -/
structure LogRec where
  kind : Nat
  who : Nat
  vclk : Nat
  a : W64
  b : W64
  deriving DecidableEq, Repr
/-- Record `k` of a partition's log. -/
def Mach.logRecord (m : Mach) (p k : Nat) : LogRec :=
  let bs := m.bytes ((m.part p).rpAddr k) 32
  ⟨field bs 8 1, field bs 10 2, field bs 12 4, BitVec.ofNat 64 (field bs 16 8), BitVec.ofNat 64 (field bs 24 8)⟩
/-- The records that a replaying partition has yet to use, in order, with their indices (21 R399). -/
def Mach.logLeft (m : Mach) (p : Nat) : List (Nat × LogRec) :=
  let x := m.part p
  if x.rpMode != 2 then []
  else (((List.range (sub32 x.rpw x.rpr)).map (x.rpr + ·)).filter (fun k => !x.rpUsed.contains k)).map (fun k => (k, m.logRecord p k))
/-- In replay, the next unused record of a kind for a thread. -/
def Mach.replayNext (m : Mach) (p kind : Nat) (who : Option Nat) : Option (Nat × LogRec) :=
  (m.logLeft p).find? (fun x => x.2.kind == kind && x.2.who == coreHand who)
/-- The used indices that follow `k` without a gap are counted into RPR. -/
def advanceRpr : Nat → Nat → List Nat → Nat × List Nat
  | 0, k, us => (k, us)
  | n + 1, k, us => if us.contains k then advanceRpr n (k + 1) (us.erase k) else (k, us)
/-- A record of the log used; RPR counts the records consumed in order (21 R396). -/
def Mach.useRecord (m : Mach) (p k : Nat) : Mach :=
  m.modPart p (fun x =>
    let r := advanceRpr (x.rpUsed.length + 1) x.rpr (k :: x.rpUsed)
    { x with rpr := r.1 % 2 ^ 32, rpUsed := r.2 })

/-- Replay has diverged (21 R401): RPSTAT.DIV is set, and machine-check with unit 8 and the log index goes to every thread of
the partition. -/
def Mach.diverge (m : Mach) (p index : Nat) : Mach :=
  if (m.part p).rpstat = 1 then m
  else (m.hands.keys.filter (fun r => (m.hand r).thread && m.partOf r == p)).foldl
    (fun m r => m.recordFault r ⟨0x1F, 0, [8, slotN index]⟩) (m.modPart p (fun x => { x with rpstat := 1 }))
/-- A record that becomes the next one of a replay has 2^24 c for its input to arrive (21 R401). -/
def Mach.expectRecord (m : Mach) (now p : Nat) : Mach :=
  let x := m.part p
  if x.rpMode == 2 && x.rpw != x.rpr then (m.setPart p { x with rpDue := now + 2 ^ 24 }).post (now + 2 ^ 24) (.replayDivergence p x.rpr) else m
/-- A record of the log used, and the next one awaited. -/
def Mach.useNext (m : Mach) (now p k : Nat) : Mach :=
  let m' := m.useRecord p k
  if (m'.part p).rpr = (m.part p).rpr then m' else m'.expectRecord now p

/-! ## Arrivals at banks (21 R398, R399) -/

/-- An arrival at a bank of a slice: sender, the ISEQ of its engine, and the bank as 64 x cluster + bank. -/
structure Arrival where
  who : Nat
  iseq : Nat
  bank : Nat
  deriving DecidableEq, Repr
/-- Datum A of an arrival (the placing of the ISEQ is log 22). -/
def Arrival.datum (a : Arrival) : W64 := slotN (coreHand (some a.who) + 2 ^ 32 * (a.iseq % 2 ^ 32))
/-- The cluster and bank of an arrival as bits [12:0] of datum B. -/
def Arrival.place (a : Arrival) : Nat := a.bank / 64 + 128 * (a.bank % 64)
/-- The records of a replay for one bank. -/
def Mach.bankRecs (m : Mach) (p : Nat) (a : Arrival) : List (Nat × LogRec) :=
  (m.logLeft p).filter (fun x => x.2.kind == 2 && (bits x.2.b 0 13).toNat == a.place)
/-- May an arrival, one of `n` that come together, be performed now: in recording while the ring has room for them all, in replay in the
order of the records; one that no record names is performed, and diverges. -/
def Mach.mayArrive (m : Mach) (n : Nat) (a : Arrival) : Bool :=
  let p := m.clPart (a.bank / 64)
  let x := m.part p
  if x.rpMode == 1 then !x.noRoom n
  else if x.rpMode == 2 then
    let l := m.bankRecs p a
    l.head?.all (fun y => y.2.a == a.datum) || !l.any (fun y => y.2.a == a.datum)
  else true
/-- An arrival noted: recorded with its ordinal, or its record used. -/
def Mach.noteArrival (m : Mach) (now : Nat) (a : Arrival) : Mach :=
  let p := m.clPart (a.bank / 64)
  let x := m.part p
  if x.rpMode == 1 then
    let n := KMap.get 0 x.ords a.bank
    (m.modPart p (fun x => { x with ords := x.ords.set a.bank (n + 1) })).logInput now p 2 (some a.who) a.datum
      (slotN (a.place + 2 ^ 32 * (n % 2 ^ 32)))
  else if x.rpMode == 2 then
    match (m.bankRecs p a).find? (fun y => y.2.a == a.datum) with
    | some y => m.useNext now p y.1
    | none => m.diverge p x.rpr
  else m
/-- The arrivals of an access at slice banks. -/
def arrivalsOf (who iseq : Nat) (keys : List Nat) : List Arrival :=
  ((keys.filter (fun k => decide (2 ^ 52 ≤ k && k < 2 ^ 60))).map (fun k => (k - 2 ^ 52) / 2 ^ 17)).eraseDups.map (fun b => ⟨who, iseq, b⟩)
/-- May all arrivals of an access be performed now? -/
def Mach.mayArriveAll (m : Mach) (l : List Arrival) : Bool := l.all (m.mayArrive l.length)
/-- All arrivals of an access noted. -/
def Mach.noteArrivals (m : Mach) (now : Nat) (l : List Arrival) : Mach := l.foldl (fun m a => m.noteArrival now a) m

/-! ## Recorded causes (21 R398, R399, kind 7) -/

/-- A recorded fault is one that no instruction of the thread raised (21 R398, kind 7). -/
def outsideCause (c : Nat) : Bool := c == 0x1D || c == 0x1E || c == 0x17 || c == 0x15
/-- The ISEQs of the three engines as datum B of kind 7 (21 R398). -/
def Hand.iseqs (h : Hand) : W64 := slotN (h.ea.iseq % 65536 + 65536 * (h.ex.iseq % 65536) + 2 ^ 32 * (h.em.iseq % 65536))
/-- VCLK at a boundary's cut: the vc that has ended, or the one in which the core is frozen (19 R364, R366, R377). -/
def Hand.cutVclk (h : Hand) : Nat := if h.blocked.isSome then h.vclk else h.vclk - 1
/-- The recorded cause that a replay delivers to a hand at the present boundary: its next one, at the recorded ISEQs and VCLK (21 R399;
the VCLK is log 127). -/
def Mach.pointCause (m : Mach) (r : Nat) : Option (Nat × LogRec) :=
  (m.replayNext (m.partOf r) 7 (some r)).filter (fun x => x.2.b == (m.hand r).iseqs && x.2.vclk == (m.hand r).cutVclk % 2 ^ 32)
/-- The oldest pending fault that may be delivered now: target ring at least CR, or a cause never held back (19 R364); in replay no outside
cause but at its recorded point (21 R399). -/
def Mach.dueFault (m : Mach) (r : Nat) : Option FaultRec :=
  (m.hand r).pending.find? (fun f => (decide ((m.hand r).ring ≤ m.tring r f.cause) || [0x1F, 0x16, 0x1D].contains f.cause)
    && !((m.part (m.partOf r)).rpMode == 2 && outsideCause f.cause))
/-- Is there a fault to deliver to a hand at this boundary? -/
def Mach.anyCause (m : Mach) (r : Nat) : Bool := (m.pointCause r).isSome || (m.dueFault r).isSome
/-- Is that fault one for which the log has no room (21 R398)? -/
def Mach.causeWaits (m : Mach) (r : Nat) : Bool :=
  (m.part (m.partOf r)).logFull && (m.dueFault r).any (fun f => outsideCause f.cause)
/-- A preempt, thermal or row-parked that comes live to a hand: recorded against it, but in replay matched with its record, whose point it
waits for or has passed; a live preempt is not delivered but there, and a thermal or row-parked without a record diverges (21 R399, R401,
log 127). -/
def Mach.outsideFault (m : Mach) (r : Nat) (f : FaultRec) : Mach :=
  let p := m.partOf r
  let h := m.hand r
  if (m.part p).rpMode != 2 then m.recordFault r f
  else if h.injected.contains f.cause then m.setHand r { h with injected := h.injected.erase f.cause }
  else if f.cause == 0x1D || decide ((h.live.filter (fun g => g.cause == f.cause)).length <
      ((m.logLeft p).filter (fun x => x.2.kind == 7 && x.2.who == coreHand (some r) && x.2.a == slotN f.cause)).length) then
    m.setHand r { h with live := h.live ++ [f] }
  else m.diverge p (m.part p).rpr
/-- A fault of either kind noted against a hand. -/
def Mach.noteFault (m : Mach) (r : Nat) (f : FaultRec) : Mach := if outsideCause f.cause then m.outsideFault r f else m.recordFault r f
/-- The fault of a recorded cause: the one that came live, or else one whose reason and own fields, which no record holds, are free values
(log 127). -/
def Mach.causeFault (m : Mach) (r c : Nat) : FaultRec × Mach :=
  let h := m.hand r
  match (h.live ++ h.pending).find? (fun g => g.cause == c) with
  | some f => (f, m.setHand r { h with live := h.live.erase f, pending := h.pending.erase f })
  | none =>
    if c = 0x1E then (⟨c, 0, []⟩, m)
    else
      (⟨c, if c = 0x17 then (Config.freeValue m.freeN).toNat % 256 else 0,
        (List.range (if c = 0x1D then 1 else 2)).map (fun i => Config.freeValue (m.freeN + 1 + i))⟩,
       { m with freeN := m.freeN + 3 }.setHand r (if c = 0x1D then h else { h with injected := h.injected ++ [c] }))

end Sys2Proof.Machine
end

