-- ==== Sys2Proof/Machine/Num.lean ====
section
/-! DEFINITION. Number formats and rounding (spec 08): the floating formats, exact values as sign, magnitude and power
of two, the one rounding rule of R165 with its overflow and tiny cases, conversions, and the arithmetic of which every
floating instruction rounds the exact result once (R164). -/

namespace Sys2Proof.Machine

/-- The exact value (-1)^neg * mag * 2^exp; a zero keeps its sign. -/
structure DyVal where
  neg : Bool
  mag : Nat
  exp : Int
  deriving DecidableEq, Repr, Inhabited

/-- What a floating code stands for (08 R156, R161). -/
inductive FVal where
  | nan (signalling : Bool)
  | inf (neg : Bool)
  | fin (x : DyVal)
  deriving DecidableEq, Repr, Inhabited

/-- The special-value policies of R159. -/
inductive Policy where
  | none | topNaN | ieee
  deriving DecidableEq, Repr, Inhabited

/-- A floating format: sign bit, exponent width, mantissa width, bias, policy, and whether it has signalling NaNs. -/
structure FFmt where
  sgn : Bool
  ew  : Nat
  mw  : Nat
  bias : Int
  pol : Policy
  std : Bool
  deriving DecidableEq, Repr, Inhabited

/-- FP32 (08 R156). -/
def FFmt.f32 : FFmt := ⟨true, 8, 23, 127, .ieee, true⟩
/-- BF16 (08 R156). -/
def FFmt.bf16 : FFmt := ⟨true, 8, 7, 127, .ieee, true⟩
/-- FP16 (08 R156). -/
def FFmt.f16 : FFmt := ⟨true, 5, 10, 15, .ieee, true⟩

/-- The floating format of a type code 0x6 to 0x8 (03 R44). -/
def FFmt.ofType (t : Nat) : FFmt := if t == 6 then .bf16 else if t == 7 then .f16 else .f32

/-- The flags of XFLAGS in their bit places (08 R169). -/
abbrev Flags := BitVec 6
/-- SAT. -/
def flSAT : Flags := 0x20
/-- NV. -/
def flNV : Flags := 0x10
/-- DZ. -/
def flDZ : Flags := 0x08
/-- OF. -/
def flOF : Flags := 0x04
/-- UF. -/
def flUF : Flags := 0x02
/-- NX. -/
def flNX : Flags := 0x01

/-- A result code with the flags its computation raised. -/
structure FRes where
  code  : Nat
  flags : Flags
  deriving DecidableEq, Repr, Inhabited

/-- A flag when a condition holds. -/
def flagIf (b : Bool) (f : Flags) : Flags := if b then f else 0

/-- The place of the sign bit. -/
def FFmt.signBit (f : FFmt) : Nat := 2 ^ (f.ew + f.mw)
/-- The total width in bits. -/
def FFmt.width (f : FFmt) : Nat := f.ew + f.mw + f.sgn.toNat
/-- The exponent of the unit in the last place of the smallest normal and of every denormal (08 R156). -/
def FFmt.qmin (f : FFmt) : Int := 1 - f.bias - f.mw
/-- The magnitude code of the largest finite value (08 R161). -/
def FFmt.maxMag (f : FFmt) : Nat :=
  match f.pol with
  | .none => 2 ^ (f.ew + f.mw) - 1
  | .topNaN => 2 ^ (f.ew + f.mw) - 2
  | .ieee => (2 ^ f.ew - 1) * 2 ^ f.mw - 1
/-- The NaN that a result takes: the canonical quiet NaN (08 R157, R161); a none format has none and takes +0. -/
def FFmt.nanCode (f : FFmt) : Nat :=
  match f.pol with
  | .none => 0
  | .topNaN => 2 ^ (f.ew + f.mw) - 1
  | .ieee => (2 ^ f.ew - 1) * 2 ^ f.mw + 2 ^ (f.mw - 1)
/-- The code of an infinity of an IEEE format. -/
def FFmt.infCode (f : FFmt) (neg : Bool) : Nat := (2 ^ f.ew - 1) * 2 ^ f.mw + (if neg then f.signBit else 0)
/-- A magnitude code with a sign. -/
def FFmt.signed (f : FFmt) (neg : Bool) (mag : Nat) : Nat := mag + (if neg && f.sgn then f.signBit else 0)
/-- The largest finite value with a sign. -/
def FFmt.maxCode (f : FFmt) (neg : Bool) : Nat := f.signed neg f.maxMag

/-- The exact value of a magnitude code (08 R156, R161). -/
def FFmt.magValue (f : FFmt) (neg : Bool) (mc : Nat) : DyVal :=
  let e := mc / 2 ^ f.mw
  let m := mc % 2 ^ f.mw
  if e == 0 then ⟨neg, m, f.qmin⟩ else ⟨neg, 2 ^ f.mw + m, f.qmin + (e - 1 : Nat)⟩

/-- Decoding a code (08 R156, R161). -/
def FFmt.decode (f : FFmt) (code : Nat) : FVal :=
  let c := code % 2 ^ f.width
  let neg := f.sgn && c / f.signBit % 2 == 1
  let mc := c % f.signBit
  match f.pol with
  | .none => .fin (f.magValue neg mc)
  | .topNaN => if mc == f.signBit - 1 then .nan false else .fin (f.magValue neg mc)
  | .ieee =>
    if mc / 2 ^ f.mw == 2 ^ f.ew - 1 then
      if mc % 2 ^ f.mw == 0 then .inf neg
      else .nan (f.std && mc % 2 ^ f.mw < 2 ^ (f.mw - 1))
    else .fin (f.magValue neg mc)

/-- Rounding modes by their codes (08 R165): does a magnitude whose integer part is `n` round up, when the discarded
part compares with one half as `half` says and is nonzero when `rest` holds? -/
def roundsUp (rm : Nat) (neg : Bool) (n : Nat) (half : Ordering) (rest : Bool) : Bool :=
  match rm with
  | 0 => half == .gt || (half == .eq && n % 2 == 1)
  | 1 => false
  | 2 => rest && neg
  | 3 => rest && !neg
  | _ => half == .gt || half == .eq

/-- Magnitude `mag * 2^exp`, plus a little when `sticky` holds, rounded to a multiple of `2^q`: the multiple and
whether it differs from the exact value. `sticky` stands for a value strictly between this one and the next of its
resolution, which must be finer than 2^(q-1). -/
def roundMag (rm : Nat) (neg : Bool) (mag : Nat) (exp q : Int) (sticky : Bool) : Nat × Bool :=
  if q ≤ exp then (mag * 2 ^ (exp - q).toNat + (if sticky && roundsUp rm neg 0 .lt true then 1 else 0), sticky)
  else
    let sh := (q - exp).toNat
    let n := mag / 2 ^ sh
    let r := mag % 2 ^ sh
    let h := 2 ^ (sh - 1)
    let half : Ordering := if r < h then .lt else if r == h then (if sticky then .gt else .eq) else .gt
    let rest := r != 0 || sticky
    (n + (if roundsUp rm neg n half rest then 1 else 0), rest)

/-- A nonzero exact value rounded into a format's set extended upward (08 R165): the magnitude code, which passes
maxMag on overflow, whether it is inexact, and whether it is tiny (R168). -/
def roundCode (f : FFmt) (rm : Nat) (x : DyVal) (sticky : Bool) : Nat × Bool × Bool :=
  let lg : Int := Nat.log2 x.mag + x.exp
  let qn := lg - f.mw
  let q := max qn f.qmin
  let (n, ix) := roundMag rm x.neg x.mag x.exp q sticky
  let mc := (q - f.qmin).toNat * 2 ^ f.mw + n
  let tiny :=
    if f.qmin ≤ qn then false
    else
      let (u, _) := roundMag rm x.neg x.mag x.exp qn sticky
      -- the value rounded with an unbounded exponent lies below the smallest normal, 2^(qmin + mw)
      u != 0 && Nat.log2 u + qn < f.qmin + f.mw
  (mc, ix, tiny)

/-- Does an overflow of this sign and mode give an infinity under IEEE 754 (08 R166)? -/
def overflowsToInf (rm : Nat) (neg : Bool) : Bool :=
  match rm with
  | 1 => false
  | 2 => neg
  | 3 => !neg
  | _ => true

/-- An arithmetic result rounded once to a standard format (08 R164 to R168). -/
def roundArith (f : FFmt) (rm : Nat) (x : DyVal) (sticky : Bool := false) : FRes :=
  if x.mag == 0 then ⟨f.signed x.neg 0, 0⟩
  else
    let (mc, ix, tiny) := roundCode f rm x sticky
    if f.maxMag < mc then
      ⟨if overflowsToInf rm x.neg then f.infCode x.neg else f.maxCode x.neg, flOF ||| flNX⟩
    else ⟨f.signed x.neg mc, flagIf (tiny && ix) flUF ||| flagIf ix flNX⟩

/-- A value converted to a floating format (08 R166, R168; 10 R206 for a format without a sign). `rm` is the mode and
`sat` the saturation bit. -/
def convertTo (f : FFmt) (rm : Nat) (sat : Bool) (v : FVal) (sticky : Bool := false) : FRes :=
  match v with
  | .nan s => ⟨f.nanCode, flagIf (s || f.pol == .none) flNV⟩
  | .inf neg =>
    if neg && !f.sgn then ⟨0, flNV⟩
    else match f.pol with
      | .ieee => if sat then ⟨f.maxCode neg, flSAT⟩ else ⟨f.infCode neg, 0⟩
      | .topNaN => if sat then ⟨f.maxCode neg, flSAT⟩ else ⟨f.nanCode, flNV⟩
      | .none => ⟨f.maxCode neg, flNV ||| flagIf sat flSAT⟩
  | .fin x =>
    if x.mag == 0 then ⟨f.signed x.neg 0, 0⟩
    else if x.neg && !f.sgn then ⟨0, flNV⟩
    else
      let (mc, ix, tiny) := roundCode f rm x sticky
      -- past the largest finite value, whether the mode would round to it or beyond (the worked conversions of 08)
      let ovf := f.maxMag < mc
      if ovf then
        if sat then ⟨f.maxCode x.neg, flSAT ||| flNX⟩
        else if !overflowsToInf rm x.neg then ⟨f.maxCode x.neg, flOF ||| flNX⟩
        else match f.pol with
          | .ieee => ⟨f.infCode x.neg, flOF ||| flNX⟩
          | .topNaN => ⟨f.nanCode, flOF ||| flNX⟩
          | .none => ⟨f.maxCode x.neg, flOF ||| flNX⟩
      else
        -- a value past the largest finite one that the mode rounds down to it has overflowed (08, worked conversions)
        let past := ix && mc == f.maxMag && !overflowsToInf rm x.neg && (roundCode f (if x.neg then 2 else 3) x sticky).1 > f.maxMag
        if past then ⟨f.maxCode x.neg, if sat then flSAT ||| flNX else flOF ||| flNX⟩
        else ⟨f.signed x.neg mc, flagIf (tiny && ix) flUF ||| flagIf ix flNX⟩

/-- The exact sum, with the sign of an exact zero as 08 R165 states it. -/
def addDy (rm : Nat) (x y : DyVal) : DyVal :=
  let e := min x.exp y.exp
  let xs : Int := (if x.neg then -1 else 1) * (x.mag * 2 ^ (x.exp - e).toNat : Nat)
  let ys : Int := (if y.neg then -1 else 1) * (y.mag * 2 ^ (y.exp - e).toNat : Nat)
  let s := xs + ys
  if s == 0 then
    if x.mag == 0 && y.mag == 0 && x.neg == y.neg then ⟨x.neg, 0, e⟩ else ⟨rm == 2, 0, e⟩
  else ⟨decide (s < 0), s.natAbs, e⟩

/-- The exact product. -/
def mulDy (x y : DyVal) : DyVal := ⟨x.neg != y.neg, x.mag * y.mag, x.exp + y.exp⟩

/-- The opposite. -/
def FVal.negate : FVal → FVal
  | .nan s => .nan s
  | .inf n => .inf !n
  | .fin x => .fin { x with neg := !x.neg }

/-- Is the value a NaN? -/
def FVal.isNaN : FVal → Bool
  | .nan _ => true
  | _ => false
/-- Is the value a signalling NaN? -/
def FVal.isSNaN : FVal → Bool
  | .nan s => s
  | _ => false
/-- The sign of a value that is no NaN. -/
def FVal.isNeg : FVal → Bool
  | .nan _ => false
  | .inf n => n
  | .fin x => x.neg
/-- Is the value a zero? -/
def FVal.isZero : FVal → Bool
  | .fin x => x.mag == 0
  | _ => false

/-- The exact sum of two values, with NV on a signalling NaN and on inf - inf (08 R169). -/
def addNum (rm : Nat) (x y : FVal) : FVal × Flags :=
  match x, y with
  | .nan s, _ => (.nan false, flagIf (s || y.isSNaN) flNV)
  | _, .nan s => (.nan false, flagIf s flNV)
  | .inf a, .inf b => if a == b then (.inf a, 0) else (.nan false, flNV)
  | .inf a, .fin _ => (.inf a, 0)
  | .fin _, .inf b => (.inf b, 0)
  | .fin a, .fin b => (.fin (addDy rm a b), 0)

/-- The exact product of two values, with NV on a signalling NaN and on 0 x inf (08 R169). -/
def mulNum (x y : FVal) : FVal × Flags :=
  match x, y with
  | .nan s, _ => (.nan false, flagIf (s || y.isSNaN) flNV)
  | _, .nan s => (.nan false, flagIf s flNV)
  | .inf a, .inf b => (.inf (a != b), 0)
  | .inf a, .fin b => if b.mag == 0 then (.nan false, flNV) else (.inf (a != b.neg), 0)
  | .fin a, .inf b => if a.mag == 0 then (.nan false, flNV) else (.inf (a.neg != b), 0)
  | .fin a, .fin b => (.fin (mulDy a b), 0)

/-- An exact value as an arithmetic result of a standard format (08 R157, R164, R166). -/
def arithResult (f : FFmt) (rm : Nat) (r : FVal × Flags) : FRes :=
  match r.1 with
  | .nan _ => ⟨f.nanCode, r.2⟩
  | .inf n => ⟨f.infCode n, r.2⟩
  | .fin x => let y := roundArith f rm x; ⟨y.code, y.flags ||| r.2⟩

/-- a + b, rounded once (08 R164). -/
def fAdd (f : FFmt) (rm a b : Nat) : FRes := arithResult f rm (addNum rm (f.decode a) (f.decode b))
/-- a - b, rounded once; the subtraction is a + (-b) (08 R165). -/
def fSub (f : FFmt) (rm a b : Nat) : FRes := arithResult f rm (addNum rm (f.decode a) (f.decode b).negate)
/-- a x b, rounded once. -/
def fMul (f : FFmt) (rm a b : Nat) : FRes := arithResult f rm (mulNum (f.decode a) (f.decode b))
/-- a x b + c, or a x b - c, rounded once (08 R164); NV of the product stands even beside a quiet NaN (09 R182). -/
def fMulAdd (f : FFmt) (rm a b c : Nat) (negC : Bool) : FRes :=
  let p := mulNum (f.decode a) (f.decode b)
  let c := f.decode c
  let s := addNum rm p.1 (if negC then c.negate else c)
  arithResult f rm (s.1, s.2 ||| p.2)
/-- a x 2^k, rounded once (10 R202). -/
def fScale (f : FFmt) (rm a : Nat) (k : Int) : FRes :=
  match f.decode a with
  | .nan s => ⟨f.nanCode, flagIf s flNV⟩
  | .inf n => ⟨f.infCode n, 0⟩
  | .fin x => roundArith f rm { x with exp := x.exp + k }

/-- The value of a number on a line: used only to compare values that are no NaN. -/
def cmpNum (x y : FVal) : Ordering :=
  match x, y with
  | .inf a, .inf b => if a == b then .eq else if a then .lt else .gt
  | .inf a, _ => if a then .lt else .gt
  | _, .inf b => if b then .gt else .lt
  | .fin a, .fin b =>
    let d := addDy 0 a { b with neg := !b.neg }
    if d.mag == 0 then .eq else if d.neg then .lt else .gt
  | _, _ => .eq

/-- The order of VFMIN, VFMAX and VARGMX: as cmpNum, with -0 less than +0 (10 R204, R213). -/
def cmpNumZ (x y : FVal) : Ordering :=
  match cmpNum x y with
  | .eq => if x.isZero && y.isZero && x.isNeg != y.isNeg then (if x.isNeg then .lt else .gt) else .eq
  | o => o

/-- The outcome of comparison code C on two values (09 R184, 10 R209): eq, ne, lt, le, gt, ge, un. -/
def fCompare (c : Nat) (x y : FVal) : Bool :=
  if x.isNaN || y.isNaN then c == 1 || c == 6
  else
    let o := cmpNum x y
    match c with
    | 0 => o == .eq
    | 1 => o != .eq
    | 2 => o == .lt
    | 3 => o != .gt
    | 4 => o == .gt
    | 5 => o != .lt
    | _ => false

/-- The smaller or larger of two codes (10 R204): a NaN counts as missing, -0 is less than +0. -/
def fMinMax (f : FFmt) (isMax : Bool) (a b : Nat) : FRes :=
  let x := f.decode a
  let y := f.decode b
  let fl := flagIf (x.isSNaN || y.isSNaN) flNV
  if x.isNaN then ⟨if y.isNaN then f.nanCode else b, fl⟩
  else if y.isNaN then ⟨a, fl⟩
  else if (cmpNumZ x y == .lt) != isMax then ⟨a, fl⟩ else ⟨b, fl⟩

/-- The sign bit cleared or inverted; a NaN becomes canonical (10 R204). -/
def fSign (f : FFmt) (abs : Bool) (a : Nat) : FRes :=
  match f.decode a with
  | .nan s => ⟨f.nanCode, flagIf s flNV⟩
  | _ => ⟨if abs then a % f.signBit else a ^^^ f.signBit, 0⟩

/-- The range of an integer type by its signedness and width (08 R158). -/
def intMin (signed : Bool) (w : Nat) : Int := if signed then -(2 ^ (w - 1) : Nat) else 0
/-- The largest value of an integer type (08 R158). -/
def intMax (signed : Bool) (w : Nat) : Int := if signed then (2 ^ (w - 1) : Nat) - 1 else (2 ^ w : Nat) - 1
/-- A value clamped to an integer type's range. -/
def clampInt (signed : Bool) (w : Nat) (v : Int) : Int := max (intMin signed w) (min (intMax signed w) v)
/-- The value of a `w`-bit code of an integer type. -/
def intOf (signed : Bool) (w : Nat) (code : Nat) : Int :=
  let c := code % 2 ^ w
  if signed && 2 ^ (w - 1) ≤ c then (c : Int) - (2 ^ w : Nat) else c
/-- The `w`-bit code of a value, wrapping. -/
def intCode (w : Nat) (v : Int) : Nat := (v % (2 ^ w : Nat)).toNat

/-- An exact value rounded to an integer (08 R165): the integer, and whether it differs. -/
def roundInt (rm : Nat) (x : DyVal) : Int × Bool :=
  let (n, ix) := roundMag rm x.neg x.mag x.exp 0 false
  (if x.neg then -(n : Int) else n, ix)

/-- A floating value converted to an integer type: it always saturates (08 R167). -/
def floatToInt (rm : Nat) (signed : Bool) (w : Nat) (v : FVal) : FRes :=
  match v with
  | .nan _ => ⟨0, flNV⟩
  | .inf n => ⟨intCode w (if n then intMin signed w else intMax signed w), flNV⟩
  | .fin x =>
    let (i, ix) := roundInt rm x
    if i < intMin signed w || intMax signed w < i then ⟨intCode w (clampInt signed w i), flNV⟩
    else ⟨intCode w i, flagIf ix flNX⟩

/-- An integer converted to an integer type (08 R167). -/
def intToInt (sat : Bool) (signed : Bool) (w : Nat) (v : Int) : FRes :=
  if sat then
    let c := clampInt signed w v
    ⟨intCode w c, flagIf (c != v) flSAT⟩
  else ⟨intCode w v, 0⟩

/-- An integer as an exact value. -/
def DyVal.ofInt (v : Int) : DyVal := ⟨decide (v < 0), v.natAbs, 0⟩

/-- What one side of a conversion is: an integer type or a floating format (09 R183, 10 R206). -/
inductive CvtSide where
  | int (signed : Bool) (w : Nat)
  | flt (f : FFmt)
  deriving DecidableEq, Repr, Inhabited

/-- The conversion of R165 to R168 from one side to the other. -/
def convert (rm : Nat) (sat : Bool) (dst src : CvtSide) (code : Nat) : FRes :=
  match dst, src with
  | .int sg w, .int sg' w' => intToInt sat sg w (intOf sg' w' code)
  | .int sg w, .flt f => floatToInt rm sg w (f.decode code)
  | .flt f, .int sg' w' => convertTo f rm sat (.fin (DyVal.ofInt (intOf sg' w' code)))
  | .flt f, .flt g =>
    if f == g then
      -- the value is unchanged, except that NaNs become canonical (09 R183, 10 R206)
      match g.decode code with
      | .nan s => convertTo f rm sat (.nan s)
      | _ => ⟨code % 2 ^ f.width, 0⟩
    else convertTo f rm sat (g.decode code)

/-- Is type code `t` signed (03 R44)? The odd codes below 6, and 0xA, are not. -/
def tySigned (t : Nat) : Bool := t == 0 || t == 2 || t == 4 || t == 9

/-- The fields of a Q register's value (08 R159). -/
def qFmt (q : Nat) : FFmt :=
  let w := q % 16
  let sg := q / 16 % 2
  let e := q / 32 % 16
  ⟨sg == 1, e, w - sg - e, intOf true 8 (q / 512), match q / 131072 % 4 with | 0 => .none | 1 => .topNaN | _ => .ieee, false⟩

/-- A Q value is well formed (08 R160). -/
def qWellFormed (q : Nat) : Bool :=
  let w := q % 16
  let sg := q / 16 % 2
  let e := q / 32 % 16
  let pol := q / 131072 % 4
  4 ≤ w && w ≤ 8 && 1 ≤ e && sg + e ≤ w && pol != 3 && (pol != 2 || (2 ≤ e && sg + e + 1 ≤ w))

/-- The presets of Q0 to Q7 (08 R162). -/
def qPreset (i : Nat) : W64 :=
  match i with
  | 1 => 0x41EB8
  | 2 => 0x676
  | 3 => 0x256
  | 4 => 0x254
  | _ => 0x20E98

/-- The exact value of an element under a block scale byte (08 R163); 0xFF makes it NaN. -/
def scaled (scale : Nat) (v : FVal) : FVal :=
  if scale == 0xFF then .nan false
  else match v with
    | .fin x => .fin { x with exp := x.exp + (scale : Int) - 127 }
    | n => n

/-- An f32 sum in the array's and the SACC's fixed way: RNE, no saturation (08 R174). -/
def addF32 (a b : Nat) : Nat := (fAdd .f32 0 a b).code

end Sys2Proof.Machine
end

