-- ==== Sys2Proof/Machine/Flags.lean ====
section
/-! DEFINITION. The flags of an instruction over many lanes: every lane computes a code with its flags, and the sticky
flags gather over all of them (08 R169, 10 R199, R213). -/

namespace Sys2Proof.Machine

/-- The flags of a list of results, gathered. -/
def gatherFlags (rs : List FRes) : Flags := rs.foldl (fun acc r => acc ||| r.flags) 0

/-- A result that sets no flag. -/
def plain (code : Nat) : FRes := ⟨code, 0⟩

/-- A compare outcome as a predicate bit, with NV on a signalling NaN (09 R184, 10 R209). -/
def compareFlags (x y : FVal) : Flags := flagIf (x.isSNaN || y.isSNaN) flNV

/-- The flags of rounding an exact value into an arithmetic result (08 R166, R168): they are those roundArith gives. -/
def arithFlags (f : FFmt) (rm : Nat) (x : DyVal) : Flags := (roundArith f rm x).flags

end Sys2Proof.Machine
end

