-- ==== Sys2Proof/Machine/Operands.lean ====
section
/-! DEFINITION. Every operand form of a word: the 11-bit register field with its keep and hold bits (03 R41, R42, 07
R139, R142), the entries that the special sources build (10 R197), elements of an entry (10 R196), and the shared frame
of the words that read queues and push results. -/

namespace Sys2Proof.Machine

/-- Element `j` of an entry of `w`-bit elements (07 R153). -/
def elem (x : Entry) (w j : Nat) : Nat := x.toNat / 2 ^ (w * j) % 2 ^ w
/-- A 32-bit lane of an entry (06 R121). -/
def lane (x : Entry) (i : Nat) : W32 := BitVec.ofNat 32 (elem x 32 i)
/-- A number built from `w`-bit elements, element 0 lowest. -/
def packElems (w : Nat) : List Nat → Nat
  | [] => 0
  | v :: t => v % 2 ^ w + 2 ^ w * packElems w t
/-- An entry built from `w`-bit elements, the rest zero. -/
def mkEntry (w : Nat) (vs : List Nat) : Entry := BitVec.ofNat 1024 (packElems w vs)
/-- All elements of an entry of type width `w`. -/
def elems (x : Entry) (w : Nat) : List Nat := (List.range (1024 / w)).map (elem x w)
/-- An entry from 128 bytes. -/
def entryOfBytes (bs : List Byte) : Entry := BitVec.ofNat 1024 (leNat bs)
/-- The 128 bytes of an entry. -/
def entryBytes (x : Entry) : List Byte := leBytes 128 x.toNat

/-- The width of a type code as a number (03 R44). -/
def tw (ty : Nat) : Nat := tyWidth (BitVec.ofNat 4 ty)
/-- Is a type code a floating one? -/
def isF (ty : Nat) : Bool := 6 ≤ ty && ty ≤ 8

/-- The entry that a source other than a queue builds for type `ty` (10 R197). -/
def Hand.special (h : Hand) (ty reg : Nat) : Entry :=
  let w := tw ty
  let n := 1024 / w
  let one := if isF ty then (convertTo (FFmt.ofType ty) 0 false (.fin ⟨false, 1, 0⟩)).code else 1
  if reg < 1600 then mkEntry w (List.replicate n ((h.sreg (reg - 1536)).toNat % 2 ^ w))
  else if reg < 1616 then
    mkEntry w ((List.range n).map (fun j => if (h.preg (reg - 1600)).getLsbD j then one else 0))
  else if reg = 1616 then
    mkEntry w ((List.range n).map (fun j =>
      if isF ty then (convertTo (FFmt.ofType ty) 0 false (.fin ⟨false, j, 0⟩)).code else j))
  else if reg = 1617 then 0
  else BitVec.allOnes 1024

/-- One source operand: its register field, keep and hold bits, and the type that builds a special source. -/
structure Opnd where
  reg : Nat
  keep : Bool := false
  hold : Bool := false
  ty : Nat := 4
  deriving DecidableEq, Repr

/-- Does a held operand hit the engine's latch (07 R142)? -/
def Hand.latchHit (h : Hand) (e : Engine) (o : Opnd) : Bool :=
  o.hold && !o.keep && ((h.engine e).latch.map (·.1)) == some o.reg
/-- The queue read that an operand makes, if any: a held one peeks (07 R142). -/
def Hand.opRead (h : Hand) (e : Engine) (o : Opnd) : Option (Nat × Bool) :=
  if 1536 ≤ o.reg then none
  else if h.latchHit e o then none
  else some (o.reg, o.keep || o.hold)
/-- The queue reads of a word's operands, in order (07 R139). -/
def Hand.opReads (h : Hand) (e : Engine) (os : List Opnd) : Reads := os.filterMap (h.opRead e)
/-- The values of a word's operands: `rs` all its reads, `k` the reads already counted. -/
def Hand.opVals (h : Hand) (e : Engine) (rs : Reads) : Nat → List Opnd → List Entry
  | _, [] => []
  | k, o :: t =>
    if 1536 ≤ o.reg then h.special o.ty o.reg :: h.opVals e rs k t
    else if h.latchHit e o then (((h.engine e).latch.map (·.2)).getD 0) :: h.opVals e rs k t
    else h.readVal rs k :: h.opVals e rs (k + 1) t
/-- The freeze on a broadcast S or P source that has not landed (10 R198, R216). -/
def Hand.opStop (h : Hand) (o : Opnd) : Option Stop :=
  if 1536 ≤ o.reg && o.reg < 1600 then h.needS (o.reg - 1536)
  else if 1600 ≤ o.reg && o.reg < 1616 then h.needP (o.reg - 1600)
  else none
/-- The latch filled by a held operand that missed (07 R142). -/
def Hand.fillLatch (h : Hand) (e : Engine) (os : List Opnd) (vals : List Entry) : Hand :=
  match os, vals with
  | o :: _, v :: _ =>
    if o.hold && !o.keep && o.reg < 1536 then h.modEngine e (fun x => { x with latch := some (o.reg, v) }) else h
  | _, _ => h

/-- What a queue word computes from its operand values: what lands, and the flags. -/
abbrev QFun := List Entry → List Land × Flags

/-- The checks of a word that reads `os` and pushes `pushes`, followed by `more` (07 R140). -/
def queueOwn (h : Hand) (e : Engine) (os : List Opnd) (pushes : List Nat) (more : List (Option Stop)) : Option Stop :=
  firstStop (h.queueStop (h.opReads e os) pushes :: os.map h.opStop ++ more)
/-- The operand values of a word. -/
def opValues (h : Hand) (e : Engine) (os : List Opnd) : List Entry := h.opVals e (h.opReads e os) 0 os
/-- A hand with a word's operands read: the latch filled by operand a, then the heads popped, which may invalidate it (07 R142). -/
def takeOps (h0 : Hand) (e : Engine) (os : List Opnd) (h : Hand) : Hand :=
  let rs := h0.opReads e os
  let h1 := (h.fillLatch e os (opValues h0 e os)).popReads e rs
  if (List.range rs.length).any (h0.beyond rs) then { h1 with peeks := h1.peeks + 1 } else h1

/-- A word that reads operands, computes, and lands its results `lat` cycles after issue (10 R199, R215). -/
def queueMeaning (x : At) (m : Mach) (hd : Hdr) (os : List Opnd) (pushes : List Nat) (lat : Nat)
    (more : List (Option Stop)) (f : QFun) : Meaning where
  own := queueOwn (m.hand x.r) x.e os pushes more
  eff m' :=
    let h := m.hand x.r
    let out := f (opValues h x.e os)
    (m'.modHand x.r (takeOps h x.e os)).issueResult x.r out.1 out.2 (pushFifo x.e hd.push) (x.now + lat) true (x.e == .x)

/-- A result without queue operands: registers read first, then what lands. -/
def regMeaning (x : At) (hd : Hdr) (lat : Nat) (stops : List (Option Stop)) (lands : List Land) (flags : Flags) :
    Meaning where
  own := firstStop stops
  eff m' := m'.issueResult x.r lands flags (pushFifo x.e hd.push) (x.now + lat) true (x.e == .x)

/-- A word whose effect is complete in its issue vc: its token enters then (07 R143). -/
def instantMeaning (x : At) (hd : Hdr) (stops : List (Option Stop)) (f : Mach → Mach) : Meaning where
  own := firstStop stops
  eff m' := (f m').modHand x.r (fun h => if hd.push = 0 then h else (h.reserveTok (pushFifo x.e hd.push)).enterTok x.now (pushFifo x.e hd.push))

end Sys2Proof.Machine
end

