-- ==== Sys2Proof/Machine/Scalar.lean ====
section
/-! DEFINITION. Scalar and address words (spec 09): address arithmetic on A (R177, R178), scalar integers (R179, R180)
and scalar floating point (R181 to R184) on X, and the moves between scalar files and queues (07 R151 to R153). -/

namespace Sys2Proof.Machine

/-- The outcome type of every meaning. -/
abbrev Out := Host.Outcome State Fault Refusal

/-- An AAA or AAI word that writes A[d]: its source registers, its latency, its value (09 R178). -/
def addrWord (i : Instr) (hd : Hdr) (d : Nat) (srcs : List Nat) (lat : Nat) (f : Hand → W64) (s : State) : Out :=
  .next (runWord s .a i hd (fun x m =>
    let h := m.hand x.r
    regMeaning x hd lat (srcs.map h.needA) [.areg (aKey h.ring d) (f h)] 0))

/-- A scalar X word that writes S[d]: its source registers, its latency, its value and flags (09 R180, R185). -/
def scalarWord (i : Instr) (hd : Hdr) (d : Nat) (srcs : List Nat) (lat : Nat) (f : Hand → W64 × Flags) (s : State) : Out :=
  .next (runWord s .x i hd (fun x m =>
    let h := m.hand x.r
    regMeaning x hd lat (srcs.map h.needS) [.sreg (sKey h.ring d) (f h).1] (f h).2))

/-- Smaller or larger of two values, signed or unsigned. -/
def pickMin (u isMax : Bool) (a b : W64) : W64 :=
  let less := if u then a.ult b else a.slt b
  if less != isMax then a else b
/-- The shift count of a 64-bit shift (09 R178, R180). -/
def shiftCount (b : W64) (n : Nat) : Nat := (b.toNat + n) % 64
/-- An upper half joined to a lower half (09 R178, R180). -/
def joinHigh (hi : W32) (lo : W64) : W64 := hi ++ bits lo 0 32
/-- The number of one bits of the low `n` bits. -/
def popCount (x n : Nat) : Nat := ((List.range n).filter (fun i => x.testBit i)).length
/-- The number of leading zero bits in `n` bits. -/
def leadZeros (x n : Nat) : Nat := if x = 0 then n else n - 1 - Nat.log2 x

/-! ## Address arithmetic -/

/-- AADD (09 R178). -/
def execAadd (w : AAA) (s : State) : Out :=
  addrWord (.aadd w) w.hdr w.d.toNat [w.a.toNat, w.b.toNat] 1 (fun h => h.areg w.a.toNat + h.areg w.b.toNat) s

/-- AADDI (09 R178). -/
def execAaddi (w : AAA) (s : State) : Out :=
  addrWord (.aaddi w) w.hdr w.d.toNat [w.a.toNat] 1 (fun h => h.areg w.a.toNat + w.imm.signExtend 64) s

/-- ASUB (09 R178). -/
def execAsub (w : AAA) (s : State) : Out :=
  addrWord (.asub w) w.hdr w.d.toNat [w.a.toNat, w.b.toNat] 1 (fun h => h.areg w.a.toNat - h.areg w.b.toNat) s

/-- AMUL (09 R178). -/
def execAmul (w : AAA) (s : State) : Out :=
  addrWord (.amul w) w.hdr w.d.toNat [w.a.toNat, w.b.toNat] 2 (fun h => h.areg w.a.toNat * h.areg w.b.toNat) s

/-- AMULI (09 R178). -/
def execAmuli (w : AAA) (s : State) : Out :=
  addrWord (.amuli w) w.hdr w.d.toNat [w.a.toNat] 2 (fun h => h.areg w.a.toNat * w.imm.signExtend 64) s

/-- ASHL (09 R178). -/
def execAshl (w : AAA) (s : State) : Out :=
  addrWord (.ashl w) w.hdr w.d.toNat [w.a.toNat, w.b.toNat] 1 (fun h => h.areg w.a.toNat <<< shiftCount (h.areg w.b.toNat) (bits w.imm 0 6).toNat) s

/-- ASHR (09 R178). -/
def execAshr (w : AAA) (s : State) : Out :=
  addrWord (.ashr w) w.hdr w.d.toNat [w.a.toNat, w.b.toNat] 1 (fun h => let c := shiftCount (h.areg w.b.toNat) (bits w.imm 0 6).toNat; if bit w.imm 6 then h.areg w.a.toNat >>> c else (h.areg w.a.toNat).sshiftRight c) s

/-- AAND (09 R178). -/
def execAand (w : AAA) (s : State) : Out :=
  addrWord (.aand w) w.hdr w.d.toNat [w.a.toNat, w.b.toNat] 1 (fun h => h.areg w.a.toNat &&& h.areg w.b.toNat) s

/-- AOR (09 R178). -/
def execAor (w : AAA) (s : State) : Out :=
  addrWord (.aor w) w.hdr w.d.toNat [w.a.toNat, w.b.toNat] 1 (fun h => h.areg w.a.toNat ||| h.areg w.b.toNat) s

/-- AXOR (09 R178). -/
def execAxor (w : AAA) (s : State) : Out :=
  addrWord (.axor w) w.hdr w.d.toNat [w.a.toNat, w.b.toNat] 1 (fun h => h.areg w.a.toNat ^^^ h.areg w.b.toNat) s

/-- AMIN (09 R178). -/
def execAmin (w : AAA) (s : State) : Out :=
  addrWord (.amin w) w.hdr w.d.toNat [w.a.toNat, w.b.toNat] 1 (fun h => pickMin (bit w.imm 6) false (h.areg w.a.toNat) (h.areg w.b.toNat)) s

/-- AMAX (09 R178). -/
def execAmax (w : AAA) (s : State) : Out :=
  addrWord (.amax w) w.hdr w.d.toNat [w.a.toNat, w.b.toNat] 1 (fun h => pickMin (bit w.imm 6) true (h.areg w.a.toNat) (h.areg w.b.toNat)) s

/-- ALI: an immediate, sign- or zero-extended (09 R178). -/
def execAli (w : AAI) (s : State) : Out :=
  addrWord (.ali w) w.hdr w.d.toNat [] 1 (fun _ => if w.part = 0 then w.imm.signExtend 64 else w.imm.zeroExtend 64) s

/-- ALIH: the upper half replaced; it reads its own destination (09 R178). -/
def execAlih (w : AAI) (s : State) : Out :=
  addrWord (.alih w) w.hdr w.d.toNat [w.d.toNat] 1 (fun h => joinHigh w.imm (h.areg w.d.toNat)) s

/-- An element extended to 64 bits: signed for i types, else with zeros (07 R153). -/
def extendElem (ty v : Nat) : W64 := if tySigned ty then w64 (sext (tw ty) v) else BitVec.ofNat 64 v

/-- AFV: an element of a queue entry into A (07 R153). -/
def execAfv (w : VVI) (s : State) : Out :=
  .next (runWord s .a (.afv w) w.hdr (fun x m =>
    let h := m.hand x.r
    let ty := w.ty.toNat
    let hi := bit w.imm 12
    queueMeaning x m w.hdr [⟨w.a.toNat, w.ka, false, ty⟩] [] 2 [if hi then h.needA w.d.toNat else none] (fun vs =>
      let v := extendElem ty (elem (vs.headD 0) (tw ty) (bits w.imm 0 7).toNat)
      ([.areg (aKey h.ring w.d.toNat) (if hi then joinHigh (bits v 0 32) (h.areg w.d.toNat) else v)], 0))))

/-! ## Scalar integers -/

/-- SADD (09 R180). -/
def execSadd (w : SSS) (s : State) : Out :=
  scalarWord (.sadd w) w.hdr w.d.toNat [w.a.toNat, w.b.toNat] 2 (fun h => (h.sreg w.a.toNat + h.sreg w.b.toNat, 0)) s

/-- SADDI (09 R180). -/
def execSaddi (w : SSS) (s : State) : Out :=
  scalarWord (.saddi w) w.hdr w.d.toNat [w.a.toNat] 2 (fun h => (h.sreg w.a.toNat + w.imm.signExtend 64, 0)) s

/-- SSUB (09 R180). -/
def execSsub (w : SSS) (s : State) : Out :=
  scalarWord (.ssub w) w.hdr w.d.toNat [w.a.toNat, w.b.toNat] 2 (fun h => (h.sreg w.a.toNat - h.sreg w.b.toNat, 0)) s

/-- SMUL (09 R180). -/
def execSmul (w : SSS) (s : State) : Out :=
  scalarWord (.smul w) w.hdr w.d.toNat [w.a.toNat, w.b.toNat] 4 (fun h => (h.sreg w.a.toNat * h.sreg w.b.toNat, 0)) s

/-- The upper half of the exact 128-bit product (09 R180). -/
def mulHigh (u : Bool) (a b : W64) : W64 :=
  if u then BitVec.ofNat 64 (a.toNat * b.toNat / 2 ^ 64) else BitVec.ofInt 64 (a.toInt * b.toInt / 2 ^ 64)
/-- The quotient of SDIV, truncated toward zero, with its two corners (09 R180). -/
def divQ (u : Bool) (a b : W64) : W64 :=
  if b = 0 then -1
  else if u then BitVec.ofNat 64 (a.toNat / b.toNat)
  else BitVec.ofInt 64 (a.toInt.tdiv b.toInt)
/-- The remainder of SREM, with the sign of the dividend (09 R180). -/
def divR (u : Bool) (a b : W64) : W64 := if b = 0 then a else a - divQ u a b * b

/-- SMULH (09 R180). -/
def execSmulh (w : SSS) (s : State) : Out :=
  scalarWord (.smulh w) w.hdr w.d.toNat [w.a.toNat, w.b.toNat] 4 (fun h => (mulHigh (bit w.imm 6) (h.sreg w.a.toNat) (h.sreg w.b.toNat), 0)) s

/-- SDIV (09 R180). -/
def execSdiv (w : SSS) (s : State) : Out :=
  scalarWord (.sdiv w) w.hdr w.d.toNat [w.a.toNat, w.b.toNat] 20 (fun h => (divQ (bit w.imm 6) (h.sreg w.a.toNat) (h.sreg w.b.toNat), 0)) s

/-- SREM (09 R180). -/
def execSrem (w : SSS) (s : State) : Out :=
  scalarWord (.srem w) w.hdr w.d.toNat [w.a.toNat, w.b.toNat] 20 (fun h => (divR (bit w.imm 6) (h.sreg w.a.toNat) (h.sreg w.b.toNat), 0)) s

/-- SAND (09 R180). -/
def execSand (w : SSS) (s : State) : Out :=
  scalarWord (.sand w) w.hdr w.d.toNat [w.a.toNat, w.b.toNat] 2 (fun h => (h.sreg w.a.toNat &&& h.sreg w.b.toNat, 0)) s

/-- SOR (09 R180). -/
def execSor (w : SSS) (s : State) : Out :=
  scalarWord (.sor w) w.hdr w.d.toNat [w.a.toNat, w.b.toNat] 2 (fun h => (h.sreg w.a.toNat ||| h.sreg w.b.toNat, 0)) s

/-- SXOR (09 R180). -/
def execSxor (w : SSS) (s : State) : Out :=
  scalarWord (.sxor w) w.hdr w.d.toNat [w.a.toNat, w.b.toNat] 2 (fun h => (h.sreg w.a.toNat ^^^ h.sreg w.b.toNat, 0)) s

/-- SSHL (09 R180). -/
def execSshl (w : SSS) (s : State) : Out :=
  scalarWord (.sshl w) w.hdr w.d.toNat [w.a.toNat, w.b.toNat] 2 (fun h => (h.sreg w.a.toNat <<< shiftCount (h.sreg w.b.toNat) (bits w.imm 0 6).toNat, 0)) s

/-- SSHR (09 R180). -/
def execSshr (w : SSS) (s : State) : Out :=
  scalarWord (.sshr w) w.hdr w.d.toNat [w.a.toNat, w.b.toNat] 2 (fun h => (h.sreg w.a.toNat >>> shiftCount (h.sreg w.b.toNat) (bits w.imm 0 6).toNat, 0)) s

/-- SSRA (09 R180). -/
def execSsra (w : SSS) (s : State) : Out :=
  scalarWord (.ssra w) w.hdr w.d.toNat [w.a.toNat, w.b.toNat] 2 (fun h => ((h.sreg w.a.toNat).sshiftRight (shiftCount (h.sreg w.b.toNat) (bits w.imm 0 6).toNat), 0)) s

/-- SMIN (09 R180). -/
def execSmin (w : SSS) (s : State) : Out :=
  scalarWord (.smin w) w.hdr w.d.toNat [w.a.toNat, w.b.toNat] 2 (fun h => (pickMin (bit w.imm 6) false (h.sreg w.a.toNat) (h.sreg w.b.toNat), 0)) s

/-- SMAX (09 R180). -/
def execSmax (w : SSS) (s : State) : Out :=
  scalarWord (.smax w) w.hdr w.d.toNat [w.a.toNat, w.b.toNat] 2 (fun h => (pickMin (bit w.imm 6) true (h.sreg w.a.toNat) (h.sreg w.b.toNat), 0)) s

/-- SSLT (09 R180). -/
def execSslt (w : SSS) (s : State) : Out :=
  scalarWord (.sslt w) w.hdr w.d.toNat [w.a.toNat, w.b.toNat] 2 (fun h => (ofBool 64 (if bit w.imm 6 then (h.sreg w.a.toNat).ult (h.sreg w.b.toNat) else (h.sreg w.a.toNat).slt (h.sreg w.b.toNat)), 0)) s

/-- SSEL (09 R180). -/
def execSsel (w : SSS) (s : State) : Out :=
  scalarWord (.ssel w) w.hdr w.d.toNat [(bits w.imm 0 6).toNat, w.a.toNat, w.b.toNat] 2 (fun h => (if h.sreg (bits w.imm 0 6).toNat != 0 then h.sreg w.a.toNat else h.sreg w.b.toNat, 0)) s

/-- SLI (09 R180). -/
def execSli (w : SSI) (s : State) : Out :=
  scalarWord (.sli w) w.hdr w.d.toNat [] 2 (fun _ => (w.imm.signExtend 64, 0)) s

/-- SLIH (09 R180). -/
def execSlih (w : SSI) (s : State) : Out :=
  scalarWord (.slih w) w.hdr w.d.toNat [w.d.toNat] 2 (fun h => (joinHigh (bits w.imm 0 32) (h.sreg w.d.toNat), 0)) s

/-- SPOPC (09 R180). -/
def execSpopc (w : SSS) (s : State) : Out :=
  scalarWord (.spopc w) w.hdr w.d.toNat [w.a.toNat] 2 (fun h => (BitVec.ofNat 64 (popCount (h.sreg w.a.toNat).toNat 64), 0)) s

/-- SCLZ (09 R180). -/
def execSclz (w : SSS) (s : State) : Out :=
  scalarWord (.sclz w) w.hdr w.d.toNat [w.a.toNat] 2 (fun h => (BitVec.ofNat 64 (leadZeros (h.sreg w.a.toNat).toNat 64), 0)) s

/-! ## Scalar floating point -/

/-- The code of a floating operand in the low bits of an S register (09 R181). -/
def sfCode (f : FFmt) (v : W64) : Nat := v.toNat % 2 ^ f.width
/-- Operand b with NB applied: an exact sign change, on a NaN as well (09 R182). -/
def sfNeg (f : FFmt) (nb : Bool) (c : Nat) : Nat := if nb then c ^^^ f.signBit else c
/-- A scalar floating result, zero-extended (09 R181). -/
def sfOut (r : FRes) : W64 × Flags := (BitVec.ofNat 64 r.code, r.flags)
/-- The frame of SFADD, SFMUL and SFMA (09 R182): the mode is XMODE.RM at issue. -/
def sfWord (i : Instr) (w : SSS) (srcs : List Nat) (f : FFmt → Nat → Nat → Nat → Nat → FRes) (s : State) : Out :=
  let fm := FFmt.ofType (bits w.imm 0 4).toNat
  scalarWord i w.hdr w.d.toNat srcs 4 (fun h =>
    sfOut (f fm h.xrm (sfCode fm (h.sreg w.a.toNat)) (sfNeg fm (bit w.imm 4) (sfCode fm (h.sreg w.b.toNat)))
      (sfCode fm (h.sreg w.d.toNat)))) s

/-- SFADD (09 R182). -/
def execSfadd (w : SSS) (s : State) : Out :=
  sfWord (.sfadd w) w [w.a.toNat, w.b.toNat] (fun f rm a b _ => fAdd f rm a b) s
/-- SFMUL (09 R182). -/
def execSfmul (w : SSS) (s : State) : Out :=
  sfWord (.sfmul w) w [w.a.toNat, w.b.toNat] (fun f rm a b _ => fMul f rm a b) s
/-- SFMA, with S[d] as the addend (09 R182). -/
def execSfma (w : SSS) (s : State) : Out :=
  sfWord (.sfma w) w [w.a.toNat, w.b.toNat, w.d.toNat] (fun f rm a b c => fMulAdd f rm a b c false) s

/-- One side of a conversion from a type code (09 R181, R183). -/
def cvtSide (ty : Nat) : CvtSide := if isF ty then .flt (FFmt.ofType ty) else .int (tySigned ty) (tw ty)
/-- A conversion's result extended by its type (09 R181). -/
def cvtExtend (ty code : Nat) : W64 := if isF ty then BitVec.ofNat 64 code else extendElem ty code
/-- SFCVT (09 R183). -/
def execSfcvt (w : SSS) (s : State) : Out :=
  let d := (bits w.imm 0 4).toNat
  let t := (bits w.imm 4 4).toNat
  scalarWord (.sfcvt w) w.hdr w.d.toNat [w.a.toNat] 4 (fun h =>
    let r := convert h.xrm h.xsat (cvtSide d) (cvtSide t) ((h.sreg w.a.toNat).toNat % 2 ^ tw t)
    (cvtExtend d r.code, r.flags)) s
/-- SFCMP (09 R184). -/
def execSfcmp (w : SSS) (s : State) : Out :=
  let f := FFmt.ofType (bits w.imm 0 4).toNat
  scalarWord (.sfcmp w) w.hdr w.d.toNat [w.a.toNat, w.b.toNat] 2 (fun h =>
    let a := f.decode (sfCode f (h.sreg w.a.toNat))
    let b := f.decode (sfCode f (h.sreg w.b.toNat))
    (ofBool 64 (fCompare (bits w.imm 4 3).toNat a b), compareFlags a b)) s

/-! ## Moves between the scalar files and the queues -/

/-- SFV: an element of a queue entry into S (07 R153). -/
def execSfv (w : VVI) (s : State) : Out :=
  .next (runWord s .x (.sfv w) w.hdr (fun x m =>
    let ty := w.ty.toNat
    queueMeaning x m w.hdr [⟨w.a.toNat, w.ka, false, ty⟩] [] 2 [] (fun vs =>
      ([.sreg (sKey (m.hand x.r).ring w.d.toNat) (extendElem ty (elem (vs.headD 0) (tw ty) (bits w.imm 0 7).toNat))], 0))))

/-- SVS: a queue entry with one element from S, the rest zero (07 R153). -/
def execSvs (w : VVI) (s : State) : Out :=
  .next (runWord s .x (.svs w) w.hdr (fun x m =>
    let ty := w.ty.toNat
    let n := w.a.toNat - 1536
    queueMeaning x m w.hdr [] [w.d.toNat] 2 [(m.hand x.r).needS n] (fun _ =>
      ([.queue w.d.toNat (BitVec.ofNat 1024 (((m.hand x.r).sreg n).toNat % 2 ^ tw ty * 2 ^ (tw ty * (bits w.imm 0 7).toNat)))], 0))))

/-- HFV: a lane into H (07 R153). -/
def execHfv (w : VVI) (s : State) : Out :=
  .next (runWord s .m (.hfv w) w.hdr (fun x m =>
    queueMeaning x m w.hdr [⟨w.a.toNat, w.ka, false, 4⟩] [] 2 [] (fun vs =>
      ([.hreg w.d.toNat (lane (vs.headD 0) (bits w.imm 0 5).toNat)], 0))))

/-- VMOV: an entry from one queue to another (07 R153); it lands in 1. It carries no type, and from source 1616 it moves the 32-bit lane
numbers (DESIGN CHOICE, log 119). -/
def execVmov (w : VVV) (s : State) : Out :=
  .next (runWord s .x (.vmov w) w.hdr (fun x m =>
    queueMeaning x m w.hdr [⟨w.a.toNat, w.ka, false, 4⟩] [w.d.toNat] 1 [] (fun vs => ([.queue w.d.toNat (vs.headD 0)], 0))))

/-- VDEP: the landed and reserved depth of a, and the pool's free entries after d's reservation (07 R153). -/
def execVdep (w : VVI) (s : State) : Out :=
  .next (runWord s .x (.vdep w) w.hdr (fun x m =>
    let h := m.hand x.r
    let q := h.queue w.a.toNat
    let l := (q.filter Slot.isLanded).length
    queueMeaning x m w.hdr [] [w.d.toNat] 2 [] (fun _ =>
      ([.queue w.d.toNat (mkEntry 32 [l, q.length - l, h.pool - 1])], 0))))

/-- The registers of a VCLR range. -/
def vclrRange (w : VVI) : List Nat := (List.range ((bits w.imm 0 6).toNat + 1)).map (w.d.toNat + ·)
/-- One queue register freed, with every engine's latch on it (07 R142, R153). -/
def Hand.clearQueue (h : Hand) (q : Nat) : Hand :=
  Hand.modEngines { h with v := h.v.set q [], freed := h.freed + (h.queue q).length }
    (fun x => if x.latch.map Prod.fst == some q then { x with latch := none } else x)
/-- VCLR: frozen with code 3 while a reservation stands, then every entry of the range is freed (07 R153). -/
def execVclr (w : VVI) (s : State) : Out :=
  .next (runWord s .x (.vclr w) w.hdr (fun x m =>
    let h := m.hand x.r
    instantMeaning x w.hdr
      [freezeIf ((vclrRange w).any (fun q => (h.queue q).any (fun e => !e.isLanded))) 3
        (((vclrRange w).find? (fun q => (h.queue q).any (fun e => !e.isLanded))).getD 0)]
      (fun m' => m'.modHand x.r (fun h => (vclrRange w).foldl Hand.clearQueue h))))

end Sys2Proof.Machine
end

