-- ==== Sys2Proof/Machine/Access.lean ====
section
/-! DEFINITION. The A engine's memory accesses (06 R112 to R135, 04 R55 to R60): translation through the cluster's cache,
the checks of R119, the load and store queues with their order (R118), flits on the mesh (R130, R131), the banks and
their ALU (R116, R125, R126), LSALIGN and FENCE, and the walk of a miss. -/

namespace Sys2Proof.Machine

/-! ## Translation -/

/-- What translating one address for a core gives. -/
inductive Xl where
  | key (k : Nat)
  | fault (f : FaultRec)
  | miss (va : W64)
  deriving DecidableEq, Repr

/-- The page of the translation cache that maps an address for a context (04 R60). -/
def Cluster.page (x : Cluster) (k : Nat) (va : W64) : Option TcEntry :=
  x.tc.find? (fun e => e.ctx == k && e.vpage == va.toNat % 2 ^ 48 / 2 ^ e.logSize)
/-- What a failed walk of the page found. -/
def Cluster.failedWalk (x : Cluster) (k : Nat) (va : W64) : Option XlFault :=
  (x.walks.find? (fun w => w.ctx == k && w.va.toNat / 65536 == va.toNat / 65536 && w.failed.isSome)).bind (·.failed)
/-- The record of a translation fault: address, access kind, level reached (04 R59). -/
def xlRec (x : W64) (wr : Bool) (f : XlFault) : FaultRec := ⟨f.1, f.2.1, [x, ofBool 64 wr, slotN f.2.2]⟩

/-- An address as a core of hand `r` reaches it for `n` bytes, `u` with ring-0 permissions (04 R55, R56, R59, R60). -/
def Mach.xlate (m : Mach) (r : Nat) (x : W64) (n : Nat) (wr : Bool) (u : Bool := (m.hand r).ring == 0) : Xl :=
  let h := m.hand r
  let c := m.cluster (clusterOf r)
  if !bit x 63 then
    match m.resolve h.ctx x n wr u with
    | .ok k => .key k
    | .error f => .fault f
  else if !bit ((m.ctx h.ctx).reg 0x100) 0 then .fault (xlRec x wr (8, 1, 3))
  else if bits x 48 15 != 0 then .fault (xlRec x wr (8, 3, 3))
  else match c.page h.ctx x with
    | some e =>
      match m.usePage e x wr u (some (9, 3)) with
      | .ok k => .key k
      | .error f => .fault (xlRec x wr f)
    | none =>
      match c.failedWalk h.ctx x with
      | some f => .fault (xlRec x wr f)
      | none => .miss x
/-- The key of an address that passed its checks. -/
def Mach.keyOf (m : Mach) (r : Nat) (x : W64) (n : Nat) (wr : Bool) (u : Bool := (m.hand r).ring == 0) : Nat :=
  match m.xlate r x n wr u with
  | .key k => k
  | _ => 0
/-- The stop that translating an address makes, if any. -/
def Mach.xlStop (m : Mach) (r : Nat) (x : W64) (n : Nat) (wr : Bool) (u : Bool := (m.hand r).ring == 0) : Option Stop :=
  match m.xlate r x n wr u with
  | .key _ => none
  | .fault f => some (.trap f)
  | .miss va => some (.walk va)

/-- The first addresses of the 128-byte rows that `n` bytes at `x` touch. -/
def rowStarts (x : W64) (n : Nat) : List W64 :=
  (List.range ((x.toNat % 128 + n + 127) / 128)).map (fun i => if i = 0 then x else (x &&& ~~~127) + BitVec.ofNat 64 (128 * i))
/-- The stop that a range of bytes makes: every row is checked on the path it names, the lowest first. -/
def Mach.spanStop (m : Mach) (r : Nat) (x : W64) (n : Nat) (wr : Bool) (u : Bool := (m.hand r).ring == 0) : Option Stop :=
  firstStop ((rowStarts x n).map (fun a =>
    m.xlStop r a (min (128 - a.toNat % 128) (x.toNat + n - a.toNat)) wr u))

/-- One level of a walk returns (04 R57 to R60). -/
def Mach.walkReturn (m : Mach) (now c id : Nat) : Mach :=
  let x := m.cluster c
  match x.walks.find? (fun w => w.id == id) with
  | none => m
  | some w =>
    let rest := x.walks.filter (fun v => v.id != id)
    let freeSlot := fun (m : Mach) => m.modDie (dieOf c) (fun d => { d with walks := d.walks - 1 })
    match m.walkLevel (w.va.toNat % 2 ^ 48) w.level w.table with
    | (.fault cs rs, _, _) => freeSlot (m.setCluster c { x with walks := rest ++ [{ w with failed := some (cs, rs, w.level) }] })
    | (.table t, wr, u) =>
      (m.setCluster c { x with walks := rest ++ [{ w with level := w.level - 1, table := t, w := w.w && wr, u := w.u && u }] }).post
        (now + 180) (.translationWalk id)
    | (.page pa, wr, u) =>
      let e : TcEntry := { ctx := w.ctx, vpage := w.va.toNat % 2 ^ 48 / 2 ^ pageLog w.level, logSize := pageLog w.level,
                           ppage := pa, w := w.w && wr, u := w.u && u }
      freeSlot (m.setCluster c { x with walks := rest, tc := (x.tc ++ [e]).drop (x.tc.length + 1 - 2048) })

/-- The cluster whose walk has the number `id`. -/
def Mach.walkCluster (m : Mach) (id : Nat) : Nat :=
  ((List.range 72).find? (fun c => (m.cluster c).walks.any (fun w => w.id == id))).getD 0
/-- TRANSLATION_WALK: the read of one table level returns (04 R60). -/
def execTranslationWalk (id : Nat) (s : State) : Out :=
  .next (runEvent s (fun now m => m.walkReturn now (m.walkCluster id) id))

/-! ## The checks of an access -/

/-- The phase of the thread's governing domain: true in a communicate phase (17 R317, R318). -/
def Mach.phase (m : Mach) (r : Nat) : Bool :=
  let pdom := (bits ((m.hand r).creg 0x07A) 4 2).toNat
  let key := if pdom = 1 then dieOf (clusterOf r) else if pdom = 3 then 5 else 4
  KMap.get false (m.handCtx r).phases key
/-- Does `n` bytes at `x` touch a buffer that a collective of its context has in the cluster's range table (15 R296)? -/
def Mach.inRange (m : Mach) (r : Nat) (x : W64) (n : Nat) : Bool :=
  (m.cluster (clusterOf r)).ranges.any (fun e =>
    e.ctx == (m.hand r).ctx && decide (x.toNat < e.addr.toNat + e.len) && decide (e.addr.toNat < x.toNat + n))
/-- Is a slice address one of another cluster? -/
def otherSlice (r : Nat) (x : W64) : Bool := !bit x 63 && sliceCluster x != clusterOf r

/-- Checks 4 to 7 of 06 R119 over all lanes, the lowest lane that fails in each. -/
def Mach.accessStop (m : Mach) (r : Nat) (lanes : List W64) (n : Nat) (wr store : Bool) : Option Stop :=
  firstStop
    [ firstStop (lanes.map (fun a => trapIf (a.toNat % n != 0) 6 0 [a])),
      firstStop (lanes.map (fun a => m.xlStop r a n wr)),
      firstStop (lanes.map (fun a => trapIf (m.inRange r a n) 0x0B 0 [a])),
      firstStop (lanes.map (fun a => trapIf (store && otherSlice r a && !m.phase r) 0x0A 0 [a])) ]

/-- The accesses of a queue: loads and atomics, or stores (06 R118). -/
def Hand.queueAccs (h : Hand) (isLoad : Bool) : List Access := h.accs.filter (fun a => a.isLoad == isLoad)
/-- Is an access one that goes to another device (15 R286)? -/
def Access.toPeer (a : Access) : Bool := match a.op with | .peerW _ | .peerR => true | _ => false
/-- The nominal time at which an access is performed: a far write at its peer's answer, 2,400 c after it, a far read 4 c before it lands
(06 R122, 15 R285). -/
def Access.doneAt (a : Access) : Nat := if a.toPeer then a.at_ + (if a.isLoad then 2396 else 2400) else a.at_
/-- The LSALIGNs that still stand in both queues: an older access is left (06 R123). -/
def Hand.alignsOpen (h : Hand) : List Nat := h.aligns.filter (fun n => h.accs.any (fun a => decide (a.id < n)))
/-- The places taken in a queue: by accesses, but for an image access that reads nothing, and by LSALIGNs (06 R118, R123). -/
def Hand.lsUsed (h : Hand) (isLoad : Bool) : Nat :=
  ((h.queueAccs isLoad).filter (fun a => a.op != .img 0 || !a.keys.isEmpty)).length + h.alignsOpen.length
/-- Issuing into a full queue freezes with code 8 (06 R118, 07 R146); so does an access behind an LSALIGN that cannot leave at its
nominal time, since an older access is beyond its own (R123). -/
def Hand.lsFull (h : Hand) (now : Nat) (isLoad : Bool) : Option Stop :=
  freezeIf (decide (16 ≤ h.lsUsed isLoad) || h.accs.any (fun a => decide (a.id < h.alignAt) && decide (a.doneAt < now))) 8

/-! ## Into the queues -/

/-- The bank that a slice key lies in, as one number for the package. -/
def bankOf (k : Nat) : Nat := (k - 2 ^ 52) / 2 ^ 17
/-- N of 06 R122: the largest number of distinct rows that one bank serves for the access. -/
def rowsPerBank (keys : List Nat) : Nat :=
  let rows := (keys.filter (fun k => decide (2 ^ 52 ≤ k))).map (· / 128) |>.eraseDups
  let banks := rows.map (fun w => bankOf (w * 128))
  (banks.map (fun b => banks.count b)).foldl max 1
/-- The clusters other than `c` whose slices an access touches. -/
def farClusters (c : Nat) (keys : List Nat) : List Nat :=
  ((keys.filter (fun k => decide (2 ^ 52 ≤ k))).map (fun k => (k - 2 ^ 52) / 2 ^ 23)).eraseDups.filter (· != c)

/-- When an access leaves its queue: in issue order with its own queue, and not before the hold of an LSALIGN, FENCE or
FWT (06 R118, R123, R124). -/
def Hand.release (h : Hand) (now : Nat) (isLoad : Bool) : Nat :=
  (h.queueAccs isLoad).foldl (fun t a => max t a.rel) (max now h.accHold)
/-- When an access with a nominal time is performed: behind every older access of the other queue to one of its rows
(06 R118). -/
def Hand.performAt (h : Hand) (isLoad : Bool) (rows : List W64) (t : Nat) : Nat :=
  (h.queueAccs (!isLoad)).foldl (fun t a => if a.rows.any rows.contains then max t (a.doneAt + 1) else t) t
/-- Is something numbered `id` of a hand held back: by an acquire that was issued before it and is not complete (06 R124, 18 R348), or
by an access numbered below `after` that is still to be performed (06 R123, 18 R350)? -/
def Hand.held (h : Hand) (id after : Nat) : Bool :=
  h.results.any (fun x => x.acq && decide (x.id < id)) || h.accs.any (fun a => decide (a.id < after) && a.id != id)

/-- The nominal end of the acquires of a hand that are not complete (06 R124). -/
def Hand.acqT (h : Hand) (t : Nat) : Nat := h.results.foldl (fun t x => if x.acq then max t x.due else t) t
/-- A command that reads a block at its issue, in order with the accesses of its thread, waits there behind an acquire that is not complete,
frozen with code 8 (06 R124, 18 R348; log 44). -/
def Hand.acqStop (h : Hand) : Option Stop := freezeIf (h.results.any (·.acq)) 8

/-- The next cluster of a flit: along its route, or else by the plain route (06 R131, R132). -/
def flitNext (c d : Nat) : List Nat → Nat
  | [] => plainNext c d
  | s :: _ => (stepDir c s).getD c
/-- The bank input at which a flit enters cluster `d` from cluster `c`: 1 to 4 for N, E, S, W (06 R116). -/
def inputOf (c d : Nat) : Nat :=
  if rowOf c < rowOf d then 1 else if colOf d < colOf c then 2 else if rowOf d < rowOf c then 3 else 4

/-- Flits of an access sent toward clusters (06 R130), a placed one along its route (R132). -/
def Mach.sendFlits (m : Mach) (src acc rel : Nat) (route : List Nat) : List Nat → Mach
  | [] => m
  | d :: t =>
    let f : Flit := { id := m.nextId, src := src, at_ := src, dst := d, acc := acc, route := route }
    Mach.sendFlits (({ m with flits := m.flits ++ [f] }.bump).post
      (rel + linkCost src (flitNext src d route)) (.meshFlitAdvance m.nextId)) src acc rel route t

/-- An access put into its queue (06 R118, R122): its nominal time from the moment it may leave, and the moment it leaves where it
waits for one of the other queue. A placed access counts the links of its route (15 R285). -/
def Mach.enqueue (m : Mach) (now r : Nat) (a : Access) (lanes : List W64) : Mach :=
  let h := m.hand r
  let c := clusterOf r
  let rows := (lanes.map (· &&& ~~~127)).eraseDups
  let rel := h.release now a.isLoad
  let path := if a.toPeer then 0
    else if a.route.isEmpty then (a.keys.map (fun k => m.pathTime c k a.isLoad)).foldl max 0
    else 2 + ((routeEnd c a.route).elim 0 (·.2))
  let img := match a.op with | .img _ => (if a.isLoad then 4 else 0) | _ => 0
  let t0 := rel + path + img + rowsPerBank a.keys - 1
  let t := h.performAt a.isLoad rows t0
  let far := farClusters c a.keys
  let walk := if far.isEmpty && a.route.isEmpty then [] else if a.route.isEmpty then far else [(routeEnd c a.route).elim c (·.1)]
  let a := { a with id := m.nextId, hand := r, rows := rows, rel := rel + (t - t0), at_ := t, waits := walk.length,
                    remote := !far.isEmpty || a.toPeer, iseq := h.ea.iseq, after := max a.after h.alignAt }
  let m := (m.setHand r { h with accs := h.accs ++ [a] }).bump
  if walk.isEmpty then m.post t (.bankAccess a.id) else m.sendFlits c a.id (rel + (t - t0)) a.route walk

/-- A flit takes one link; at its target its access goes to the bank (06 R130, R131). -/
def Mach.advanceFlit (m : Mach) (now id : Nat) : Mach :=
  match m.flits.find? (fun f => f.id == id) with
  | none => m
  | some f =>
    let here := flitNext f.at_ f.dst f.route
    let left := f.route.drop 1
    if left.isEmpty && here = f.dst then
      let m := { m with flits := m.flits.filter (fun g => g.id != id) }
      let own := m.hands.keys.find? (fun r => (m.hand r).accs.any (fun a => a.id == f.acc))
      match own with
      | none => m
      | some r =>
        let m := m.modHand r (fun h => { h with accs := h.accs.map (fun a =>
          if a.id == f.acc then { a with waits := a.waits - 1, port := inputOf f.at_ f.dst } else a) })
        match (m.hand r).accs.find? (fun a => a.id == f.acc) with
        | none => m
        | some a => if a.waits = 0 then m.post (max (now + 1) a.at_) (.bankAccess a.id) else m
    else
      ({ m with flits := m.flits.map (fun (g : Flit) => if g.id == id then { g with at_ := here, route := left } else g) }).post
        (now + linkCost here (flitNext here f.dst left)) (.meshFlitAdvance id)

/-! ## At the bank -/

/-- The new value of a bank atomic (06 R125). -/
def atomicNew (op : Nat) (old v c : W32) : W32 :=
  match op with
  | 0 => old + v
  | 1 => old &&& v
  | 2 => old ||| v
  | 3 => old ^^^ v
  | 4 => if v.slt old then v else old
  | 5 => if old.slt v then v else old
  | 6 => if v.ult old then v else old
  | 7 => if old.ult v then v else old
  | 8 => v
  | 9 => if old == c then v else old
  | _ => BitVec.ofNat 32 (addF32 old.toNat v.toNat)

/-- A 32-bit word as a reader receives it. -/
def Mach.readWord (m : Mach) (k : Nat) : W32 := BitVec.ofNat 32 (leNat (m.readRow k 4))
/-- ECNT of a cluster counts the errors that an access of rows met (19 R379). -/
def Mach.countErrors (m : Mach) (c : Nat) (keys : List Nat) : Mach :=
  let rows := (keys.map (· / 128 * 128)).eraseDups
  m.addErrors c (rows.filter (fun k => m.rowError k == some false)).length (rows.filter (fun k => m.rowError k == some true)).length
/-- The key of an accumulator row among the rows in error. -/
def acmKey (c p : Nat) : Nat := 2 ^ 61 + (1024 * c + p) * 128
/-- The key of a WBUF slot among the rows in error. -/
def wbufKey (c j : Nat) : Nat := 2 ^ 62 + (64 * c + j) * 128
/-- The key of a control register of a hand among the rows in error. -/
def crKey (r n : Nat) : Nat := 2 ^ 63 + (4096 * r + n) * 128
/-- The unit of a row in error, and how a record names the row (19 R379): a slice or DRAM address, an accumulator row, a WBUF slot, a
control register (log 48). -/
def errUnit (k : Nat) : Nat × Nat :=
  if k < 2 ^ 52 then (4, k / 128 * 128) else if k < 2 ^ 61 then (1, k / 128 * 128)
  else if k < 2 ^ 62 then (2, (k - 2 ^ 61) / 128 % 1024) else if k < 2 ^ 63 then (3, (k - 2 ^ 62) / 128 % 64)
  else (6, (k - 2 ^ 63) / 128 % 4096)
/-- The machine-check record of an uncorrectable row (19 R379): unit, address, syndrome (a free value), requester. -/
def Mach.mcheck (m : Mach) (k req : Nat) : FaultRec :=
  ⟨0x1F, 0, [slotN (errUnit k).1, slotN (errUnit k).2, Config.freeValue m.freeN, slotN req]⟩
/-- The machine-check that rows raise, if any of them is uncorrectable, with a fresh syndrome. -/
def Mach.checkOf (m : Mach) (r : Nat) (keys : List Nat) : Option FaultRec × Mach :=
  match m.anyUE keys with
  | none => (none, m)
  | some k => (some (m.mcheck k r), { m with freeN := m.freeN + 1 })
/-- An uncorrectable error is recorded against the issuing hand (19 R379). -/
def Mach.noteUE (m : Mach) (r : Nat) (keys : List Nat) : Mach :=
  let c := m.checkOf r keys
  c.1.elim c.2 (c.2.recordFault r)

/-- A range of bytes read for a hand: the errors of its rows are counted, and an uncorrectable one recorded (19 R379). -/
def Mach.noteRead (m : Mach) (r k : Nat) (x : W64) (n : Nat) (ring0 : Bool) : Mach :=
  match m.span k x n false ring0 with
  | .ok l => (m.countErrors (clusterOf r) (l.map (·.1))).noteUE r (l.map (·.1))
  | .error _ => m

/-- The words of lanes written in ascending order (06 R121). -/
def Mach.scatter (m : Mach) : List Nat → Nat → Entry → Mach
  | [], _, _ => m
  | k :: t, i, x => Mach.scatter (m.poke k (leBytes 4 (lane x i).toNat)) t (i + 1) x
/-- A store performed on memory. -/
def Mach.doStore (m : Mach) (a : Access) : Mach :=
  match a.op with
  | .store8 => m.poke (a.keys.headD 0) (leBytes 8 a.data.toNat)
  | .store128 => m.poke (a.keys.headD 0) (entryBytes a.data)
  | .scatter => m.scatter a.keys 0 a.data
  | .img _ => if a.isLoad then m else m.poke (a.keys.headD 0) (leBytes 32 a.data.toNat)
  | _ => m
/-- The machine as the thread's own next access would see it: with its queued stores performed (06 R118). -/
def Mach.seen (m : Mach) (r : Nat) : Mach := (m.hand r).accs.foldl Mach.doStore m

/-- What a load or atomic lands. -/
def Mach.loadLands (m : Mach) (a : Access) : List Land :=
  let k := a.keys.headD 0
  match a.op with
  | .load8 => [.areg a.reg (BitVec.ofNat 64 (leNat (m.readRow k 8)))]
  | .load128 => [.queue a.reg (entryOfBytes (m.readRow k 128))]
  | .loadB => [.queue a.reg (mkEntry 32 (List.replicate 32 (m.readWord k).toNat))]
  | .gather => [.queue a.reg (mkEntry 32 (a.keys.map (fun k => (m.readWord k).toNat)))]
  | .atm _ => [.queue a.reg (mkEntry 32 [(m.readWord k).toNat])]
  | .vatm _ => [.queue a.reg (entryOfBytes (m.readRow k 128))]
  | _ => []
/-- An atomic's write; none to a row with an uncorrectable error (06 R117, R126). -/
def Mach.doAtomic (m : Mach) (a : Access) : Mach :=
  let k := a.keys.headD 0
  if m.rowError k == some true then m
  else match a.op with
    | .atm op => m.poke k (leBytes 4 (atomicNew op (m.readWord k) (lane a.data 0) (lane a.data 1)).toNat)
    | .vatm op => m.poke k (entryBytes (mkEntry 32 ((List.range 32).map (fun i =>
        (atomicNew op (m.readWord (k + 4 * i)) (lane a.data i) (lane a.cmp i)).toNat))))
    | _ => m

/-- An access performed at its banks or controller (06 R116, R121, R126): it leaves its queue; a load's value is fixed
and returns, with the machine-check of a row in error (19 R379); a store's token enters. -/
def Mach.bankAccess (m : Mach) (now r : Nat) (a : Access) : Mach :=
  let m := m.modHand r (fun h => { h with accs := h.accs.filter (fun b => b.id != a.id) })
  if a.isLoad then
    let lands := m.loadLands a
    let c := (m.countErrors (clusterOf r) a.keys).checkOf r a.keys
    ((c.2.doAtomic a).supply r a.res lands (now + a.land)).warn r a.res c.1
  else (m.doStore a).modHand r (fun h => h.enterTok now a.push)

/-- The arrivals at banks that a replay log records of an access: an atomic, or a store to another cluster (21 R398). -/
def Access.arrivals (a : Access) : List Arrival :=
  match a.op with
  | .atm _ | .vatm _ => arrivalsOf a.hand a.iseq a.keys
  | _ => if a.isLoad then [] else arrivalsOf a.hand a.iseq (a.keys.filter (fun k => (k - 2 ^ 52) / 2 ^ 23 != clusterOf a.hand))
/-- Is an older access of the hand to one of the same rows still queued (06 R118)? -/
def Mach.olderRow (m : Mach) (r : Nat) (a : Access) : Bool :=
  ((m.hand r).accs.takeWhile (fun b => b.id != a.id)).any (fun b => b.rows.any a.rows.contains)
/-- Does an access stay in its queue behind an older one of its rows that is beyond its nominal time (06 R118)? -/
def Mach.stuck (m : Mach) (now r : Nat) (a : Access) : Bool :=
  ((m.hand r).accs.takeWhile (fun b => b.id != a.id)).any (fun b => b.isLoad != a.isLoad && b.rows.any a.rows.contains && decide (b.doneAt < now))
/-- Has an older access of the same queue not left it, so that this one has not either: a queue releases its accesses in issue order (06
R118)? -/
def Mach.olderStuck (m : Mach) (now r : Nat) (a : Access) : Bool :=
  ((m.hand r).accs.takeWhile (fun b => b.id != a.id)).any (fun b => b.isLoad == a.isLoad && !b.sent && m.stuck now r b)
/-- Is an older far write under ROD to the same peer still to be sent (15 R286)? -/
def Mach.olderOrdered (m : Mach) (r : Nat) (a : Access) : Bool :=
  a.op == .peerW true && ((m.hand r).accs.takeWhile (fun b => b.id != a.id)).any (fun b =>
    b.op == .peerW true && !b.sent && nbits (b.keys.headD 0) 45 6 == nbits (a.keys.headD 0) 45 6)
/-- Is an access to wait: held back, behind an older one of a row, of its queue or of its ordered stream, or with its turn in a log not
come (06 R118, R123, R124, 15 R286, 21 R399)? -/
def Mach.accessWaits (m : Mach) (now r : Nat) (a : Access) : Bool :=
  (m.hand r).held a.id a.after || m.olderRow r a || m.olderStuck now r a || m.olderOrdered r a || !m.mayArriveAll a.arrivals
/-- The banks of some keys. -/
def banksOf (keys : List Nat) : List Nat := ((keys.filter (fun k => decide (2 ^ 52 ≤ k))).map bankOf).eraseDups
/-- The banks that serve an access. -/
def Access.banks (a : Access) : List Nat := banksOf a.keys
/-- Has one of some banks served an access in this cycle (06 R116)? -/
def Mach.banksBusy (m : Mach) (now : Nat) (bs : List Nat) : Bool := m.bankT == now + 1 && bs.any m.bankUse.contains
/-- Banks that serve an access in this cycle. -/
def Mach.useBanks (m : Mach) (now : Nat) (bs : List Nat) : Mach :=
  if bs.isEmpty then m else { m with bankT := now + 1, bankUse := if m.bankT = now + 1 then bs ++ m.bankUse else bs }
/-- An event that banks cannot serve yet waits there, with the cycle in which it came (06 R116). -/
def Mach.waitAtBank (m : Mach) (now : Nat) (i : Instr) : Mach :=
  { m with bankQ := if m.bankQ.any (fun p => p.1 == i) then m.bankQ else m.bankQ ++ [(i, now)] }.post (now + 1) i
/-- The rows that `n` bytes at each of some addresses lie in, where a copy may reach them. -/
def Mach.rowKeys (m : Mach) (k : Nat) (n : Nat) (wr u : Bool) (as : List W64) : List Nat :=
  as.flatMap (fun a => match m.span k a n wr u with | .ok l => l.map (·.1) | .error _ => [])
/-- Banks of some rows that serve an event in this cycle. -/
def Mach.served (m : Mach) (now : Nat) (i : Instr) (keys : List Nat) : Mach :=
  { m.useBanks now (banksOf keys) with bankQ := m.bankQ.filter (fun p => p.1 != i) }
/-- An event at the banks of the slice rows in `keys`: it waits while one of them has served another access in this cycle, or while
`late` says that its turn has not come; else they serve it (06 R116, 21 R399). -/
def Mach.atBanks (m : Mach) (now : Nat) (i : Instr) (keys : List Nat) (late : Bool) (f : Mach → Mach) : Mach :=
  if late || m.banksBusy now (banksOf keys) then m.waitAtBank now i
  else f (m.served now i keys)
/-- A message to a peer put among those that wait for an acknowledgement. -/
def Mach.sendPeer (m : Mach) (p : PeerOp) : Mach := (m.modDev (fun d => { d with peerOps := d.peerOps ++ [{ p with id := m.nextId }] })).bump
/-- An FWR or FRD leaves for its peer (15 R286): its place in the queue is free once the peer has answered. -/
def Mach.toPeer (m : Mach) (r : Nat) (a : Access) : Mach :=
  let pa := a.keys.headD 0
  let m := m.modHand r (fun h => { h with accs := h.accs.map (fun b => if b.id == a.id then { b with sent := true } else b) })
  let p : PeerOp := { id := 0, hand := r, isRead := a.isLoad, peer := nbits pa 45 6, addr := BitVec.ofNat 64 (pa % 2 ^ 45 + 2 ^ 63), res := a.res,
                      push := a.push, acc := a.id }
  m.sendPeer (match a.op with | .peerW o => { p with bytes := entryBytes a.data, ord := o } | _ => p)
/-! ## Loads, stores and atomics -/

/-- The address of a single access (06 R120). -/
def amAddr (h : Hand) (w : AM) : W64 := h.areg w.base.toNat + (h.areg w.index.toNat <<< w.size.toNat) + w.disp.signExtend 64
/-- The lanes of a strided access (06 R120). -/
def strideLanes (h : Hand) (w : AM) : List W64 :=
  (List.range 32).map (fun i =>
    h.areg w.base.toNat + w.disp.signExtend 64 + BitVec.ofNat 64 i * (h.areg w.index.toNat <<< w.size.toNat))
/-- The lanes of an indexed access (06 R120). -/
def indexLanes (h : Hand) (w : AM) (off : Entry) : List W64 :=
  (List.range 32).map (fun i => h.areg w.base.toNat + w.disp.signExtend 64 + ((lane off i).signExtend 64 <<< w.size.toNat))

/-- A load or atomic of the A engine: its queue operands, the queues it pushes, its lanes and access size from the
operand values, what it does at the bank, and the latency from there (06 R119, R121, R122). -/
def loadMeaning (x : At) (m : Mach) (hd : Hdr) (w : AM) (os : List Opnd) (pushes : List Nat) (n : Nat)
    (lanes : List Entry → List W64) (wr : Bool) (own : List W64 → Option Stop) (land : Land) (op : AccOp) (reg : Nat)
    (data cmp : List Entry → Entry) (lat : Nat) : Meaning where
  own :=
    let h := m.hand x.r
    let ls := lanes (opValues h x.e os)
    firstStop [queueOwn h x.e os pushes [], h.needA w.base.toNat, h.needA w.index.toNat, own ls,
      m.accessStop x.r ls n wr false, h.lsFull x.now true]
  eff m' :=
    let h := m.hand x.r
    let vs := opValues h x.e os
    let ls := lanes vs
    let m1 := (m'.modHand x.r (takeOps h x.e os)).issueResult x.r [land] 0 (pushFifo x.e hd.push) 0 false false
    m1.enqueue x.now x.r { id := 0, hand := x.r, isLoad := true, op := op, keys := ls.map (fun a => m.keyOf x.r a n wr),
                           rows := [], data := data vs, cmp := cmp vs, land := lat, res := m1.lastId, reg := reg } ls

/-- A load without queue operands. -/
def plainLoad (x : At) (m : Mach) (hd : Hdr) (w : AM) (pushes : List Nat) (n : Nat) (lanes : Hand → List W64) (land : Land)
    (op : AccOp) (reg : Nat) : Meaning :=
  loadMeaning x m hd w [] pushes n (fun _ => lanes (m.hand x.r)) false (fun _ => none) land op reg (fun _ => 0) (fun _ => 0) 4

/-- A store of the A engine (06 R119, R121, R122): the stored data from the operand values. -/
def storeMeaning (x : At) (m : Mach) (hd : Hdr) (w : AM) (os : List Opnd) (n : Nat) (lanes : List Entry → List W64)
    (more : List (Option Stop)) (op : AccOp) (data : List Entry → Entry) : Meaning where
  own :=
    let h := m.hand x.r
    let ls := lanes (opValues h x.e os)
    firstStop [queueOwn h x.e os [] [], h.needA w.base.toNat, h.needA w.index.toNat, firstStop more,
      m.accessStop x.r ls n true true, h.lsFull x.now false]
  eff m' :=
    let h := m.hand x.r
    let vs := opValues h x.e os
    let ls := lanes vs
    let f := pushFifo x.e hd.push
    (m'.modHand x.r (fun h' => (takeOps h x.e os h').reserveTok f)).enqueue x.now x.r
      { id := 0, hand := x.r, isLoad := false, op := op, keys := ls.map (fun a => m.keyOf x.r a n true), rows := [],
        data := data vs, push := f } ls

/-- LDA (06 R120, R121). -/
def execLda (w : AM) (s : State) : Out :=
  .next (runWord s .a (.lda w) w.hdr (fun x m =>
    let k := aKey (m.hand x.r).ring w.q.toNat
    plainLoad x m w.hdr w [] 8 (fun h => [amAddr h w]) (.areg k 0) .load8 k))
/-- VLD (06 R120, R121). -/
def execVld (w : AM) (s : State) : Out :=
  .next (runWord s .a (.vld w) w.hdr (fun x m =>
    plainLoad x m w.hdr w [w.q.toNat] 128 (fun h => [amAddr h w]) (.queue w.q.toNat 0) .load128 w.q.toNat))
/-- VLDB (06 R120, R121). -/
def execVldb (w : AM) (s : State) : Out :=
  .next (runWord s .a (.vldb w) w.hdr (fun x m =>
    plainLoad x m w.hdr w [w.q.toNat] 4 (fun h => [amAddr h w]) (.queue w.q.toNat 0) .loadB w.q.toNat))
/-- VLDS (06 R120, R121). -/
def execVlds (w : AM) (s : State) : Out :=
  .next (runWord s .a (.vlds w) w.hdr (fun x m =>
    plainLoad x m w.hdr w [w.q.toNat] 4 (fun h => strideLanes h w) (.queue w.q.toNat 0) .gather w.q.toNat))
/-- VGTH: the offsets are popped from the queue that takes the result (06 R121). -/
def execVgth (w : AM) (s : State) : Out :=
  .next (runWord s .a (.vgth w) w.hdr (fun x m =>
    loadMeaning x m w.hdr w [⟨w.q.toNat, false, false, 4⟩] [w.q.toNat] 4 (fun vs => indexLanes (m.hand x.r) w (vs.headD 0))
      false (fun _ => none) (.queue w.q.toNat 0) .gather w.q.toNat (fun _ => 0) (fun _ => 0) 4))

/-- STA (06 R120, R121). -/
def execSta (w : AM) (s : State) : Out :=
  .next (runWord s .a (.sta w) w.hdr (fun x m =>
    let h := m.hand x.r
    storeMeaning x m w.hdr w [] 8 (fun _ => [amAddr h w]) [h.needA w.q.toNat] .store8
      (fun _ => (h.areg w.q.toNat).zeroExtend 1024)))
/-- VST (06 R120, R121). -/
def execVst (w : AM) (s : State) : Out :=
  .next (runWord s .a (.vst w) w.hdr (fun x m =>
    storeMeaning x m w.hdr w [⟨w.q.toNat, false, false, 4⟩] 128 (fun _ => [amAddr (m.hand x.r) w]) [] .store128
      (fun vs => vs.headD 0)))
/-- VSTS (06 R120, R121). -/
def execVsts (w : AM) (s : State) : Out :=
  .next (runWord s .a (.vsts w) w.hdr (fun x m =>
    storeMeaning x m w.hdr w [⟨w.q.toNat, false, false, 4⟩] 4 (fun _ => strideLanes (m.hand x.r) w) [] .scatter
      (fun vs => vs.headD 0)))
/-- VSCT: offsets, then data, from one queue (06 R121). -/
def execVsct (w : AM) (s : State) : Out :=
  .next (runWord s .a (.vsct w) w.hdr (fun x m =>
    storeMeaning x m w.hdr w [⟨w.q.toNat, false, false, 4⟩, ⟨w.q.toNat, false, false, 4⟩] 4
      (fun vs => indexLanes (m.hand x.r) w (vs.headD 0)) [] .scatter (fun vs => vs.getD 1 0)))

/-- The operation of an atomic word (06 R125). -/
def atmOp (w : AM) : Nat := (bits w.disp 12 4).toNat
/-- The address of an atomic: a 12-bit displacement (06 R126). -/
def atmAddr (h : Hand) (w : AM) : W64 :=
  h.areg w.base.toNat + (h.areg w.index.toNat <<< w.size.toNat) + (bits w.disp 0 12).signExtend 64
/-- A virtual address of an atomic takes protection-fault with reason 5 (06 R126). -/
def atmVirtual (n : Nat) (ls : List W64) : Option Stop :=
  firstStop (ls.map (fun a => trapIf (a.toNat % n == 0 && bit a 63) 9 5 [a, 1, 3]))
/-- ATM (06 R126). -/
def execAtm (w : AM) (s : State) : Out :=
  .next (runWord s .a (.atm w) w.hdr (fun x m =>
    loadMeaning x m w.hdr w [⟨w.q.toNat, false, false, 4⟩] [w.q.toNat] 4 (fun _ => [atmAddr (m.hand x.r) w]) true
      (atmVirtual 4) (.queue w.q.toNat 0) (.atm (atmOp w)) w.q.toNat (fun vs => vs.headD 0) (fun _ => 0) 6))
/-- VATM: the compare entry first for cas, then the operand entry (06 R126). -/
def execVatm (w : AM) (s : State) : Out :=
  .next (runWord s .a (.vatm w) w.hdr (fun x m =>
    let q : Opnd := ⟨w.q.toNat, false, false, 4⟩
    let cas := atmOp w == 9
    loadMeaning x m w.hdr w (if cas then [q, q] else [q]) [w.q.toNat] 128 (fun _ => [atmAddr (m.hand x.r) w]) true
      (atmVirtual 128) (.queue w.q.toNat 0) (.vatm (atmOp w)) w.q.toNat (fun vs => vs.getD (if cas then 1 else 0) 0)
      (fun vs => vs.headD 0) 6))

/-! ## LSALIGN and FENCE -/

/-- The latest nominal time at which a queued access of the hand is performed (06 R123, R124). -/
def Hand.lastPerformed (h : Hand) (t : Nat) : Nat := h.accs.foldl (fun t a => max t a.doneAt) t
/-- The same over loads and atomics only. -/
def Hand.lastLoaded (h : Hand) (t : Nat) : Nat := (h.queueAccs true).foldl (fun t a => max t a.doneAt) t

/-- LSALIGN enters both queues: no later access leaves before every older one has been performed (06 R123). -/
def execLsalign (w : Z) (s : State) : Out :=
  .next (runWord s .a (.lsalign w) w.hdr (fun x m =>
    let h := m.hand x.r
    instantMeaning x w.hdr [freezeIf (decide (16 ≤ h.lsUsed true) || decide (16 ≤ h.lsUsed false)) 8] (fun m' => m'.modHand x.r (fun h =>
      { h with accHold := max h.accHold (h.lastPerformed x.now), alignAt := m'.nextId, aligns := h.alignsOpen ++ [m'.nextId] }))))

/-- The token target of an AC word: FIFO 1 to 6, 0 none (03 R45). -/
def acTok (w : AC) : Nat := w.tt.toNat
/-- A long engine command's token at a time: it enters without a reservation (07 R143). -/
def Mach.tokenAt (m : Mach) (t r f : Nat) : Mach := if f = 0 then m else m.post t (.pendingTokenEntry r f)
/-- A completion that waits for what `f` names, with its nominal time and its token (06 R124, R129, 04 R81). An acquire holds back later
accesses and A-engine commands until it has come, and a release is what later commands read behind (18 R350). -/
def Mach.issueFence (m : Mach) (r t : Nat) (acq : Bool) (f : Fence) (tok : Nat) : Mach :=
  let id := m.nextId
  ((m.modHand r (fun h => { h with
      results := h.results ++ [{ id := id, lands := [], due := t, acq := acq, fence := some f, tok := tok }],
      accHold := if acq then max h.accHold t else h.accHold, relAt := if f.rel then id else h.relAt })).bump).post t (.resultLanding r id)
/-- FENCE (06 R124): its completion is one cycle after the older accesses it covers. -/
def execFence (w : AC) (s : State) : Out :=
  .next (runWord s .a (.fence w) w.hdr (fun x _ =>
    { eff := fun m' =>
        let h := m'.hand x.r
        m'.issueFence x.r ((if w.rel then h.lastPerformed x.now else h.lastLoaded x.now) + 1) w.acq ⟨m'.nextId, w.rel, w.scope == 3⟩ (acTok w) }))

end Sys2Proof.Machine
end

