-- ==== Sys2Proof/Machine/Crc.lean ====
section
/-! DEFINITION. The two cyclic redundancy checks of the spec, both reflected with initial value and final XOR all ones:
CRC-64/XZ over shards and copies (04 R72, 05 R94) and CRC-32C over frames (13 R255). -/

namespace Sys2Proof.Machine

/-- One bit of a reflected check with reflected polynomial `p`. -/
def crcBit {w : Nat} (p c : BitVec w) : BitVec w := if c.getLsbD 0 then (c >>> 1) ^^^ p else c >>> 1
/-- One byte. -/
def crcByte {w : Nat} (p c : BitVec w) (b : Byte) : BitVec w :=
  (List.range 8).foldl (fun c _ => crcBit p c) (c ^^^ b.zeroExtend w)
/-- CRC-64/XZ continued from a running value: the ECMA-182 polynomial 0x42F0_E1EB_A9EA_3693, reflected (04 R72). -/
def crc64Run (c : W64) (bs : List Byte) : W64 := bs.foldl (crcByte 0xC96C5795D7870F42#64) c
/-- CRC-64/XZ of bytes (04 R72). -/
def crc64 (bs : List Byte) : W64 := ~~~ (crc64Run (BitVec.allOnes 64) bs)
/-- CRC-32C of bytes: the polynomial 0x1EDC_6F41, reflected (13 R255). -/
def crc32c (bs : List Byte) : W32 := ~~~ (bs.foldl (crcByte 0x82F63B78#32) (BitVec.allOnes 32))

end Sys2Proof.Machine
end

