-- ==== Sys2Proof/Machine/Control.lean ====
section
/-! DEFINITION. Control flow (09 R186 to R193), ALIGN (07 R150), the software traps and the return from a trap (19 R367,
R368), and the events that end a freeze or a handler's wait: landings, tokens, WDOG, TIMER, recorded faults. -/

namespace Sys2Proof.Machine

/-- A branch target: a signed word offset from the branching word (03 R39). -/
def target {n : Nat} (pc : W64) (off : BitVec n) : W64 := pc + (off.signExtend 64 <<< 3)
/-- An engine sent to an address. -/
def Mach.goto (m : Mach) (r : Nat) (e : Engine) (pc : W64) : Mach := m.modHand r (fun h => h.modEngine e (fun x => { x with pc := pc }))
/-- The PC of a word at its engine. -/
def Mach.pcAt (m : Mach) (x : At) : W64 := ((m.hand x.r).engine x.e).pc

/-- NOP (09 R186). -/
def execNop (w : Z) (s : State) : Out := .next (runEach s (.nop w) w.hdr (fun _ _ => {}))
/-- JMP (09 R186). -/
def execJmp (w : J) (s : State) : Out :=
  .next (runEach s (.jmp w) w.hdr (fun x m => { eff := fun m' => m'.goto x.r x.e (target (m.pcAt x) w.offset) }))
/-- CALL: the engine's own return stack of 32 addresses (09 R186 to R188). -/
def execCall (w : J) (s : State) : Out :=
  .next (runEach s (.call w) w.hdr (fun x m =>
    { own := trapIf (decide (32 ≤ ((m.hand x.r).engine x.e).stack.length)) 1 6
      eff := fun m' => (m'.modHand x.r (fun h => h.modEngine x.e (fun y => { y with stack := (m.pcAt x + 8) :: y.stack }))).goto
        x.r x.e (target (m.pcAt x) w.offset) }))
/-- RET (09 R186 to R188). -/
def execRet (w : Z) (s : State) : Out :=
  .next (runEach s (.ret w) w.hdr (fun x m =>
    let st := ((m.hand x.r).engine x.e).stack
    { own := trapIf st.isEmpty 1 7
      eff := fun m' => (m'.modHand x.r (fun h => h.modEngine x.e (fun y => { y with stack := y.stack.drop 1 }))).goto
        x.r x.e (st.headD 0) }))

/-- The engines that follow a decision of `e` (03 R52). -/
def followers : Engine → List Engine
  | .a => [.x, .m] | .x => [.a, .m] | .m => [.a, .x]
/-- A branch condition (09 R189). -/
def condHolds (c : Nat) (x y : W64) : Bool :=
  match c with
  | 0 => x == y | 1 => x != y | 2 => x.slt y | 3 => !x.slt y | 4 => x.ult y | _ => !x.ult y
/-- A decided word (09 R189, R190): the decider `d` reads, acts, pushes the outcome to both followers and goes; a
follower pops its bit and goes. -/
def decidedMeaning (x : At) (m : Mach) (d : Engine) (tgt : W64) (reads : List (Option Stop)) (taken : Bool)
    (act : Hand → Hand) : Meaning :=
  let h := m.hand x.r
  if x.e = d then
    { own := firstStop (reads ++ [freezeIf ((followers d).any (fun f => decide (16 ≤ (h.engine f).outq.length))) 4])
      eff := fun m' =>
        let m1 := m'.modHand x.r (fun h => (followers d).foldl
          (fun h f => h.modEngine f (fun y => { y with outq := y.outq ++ [taken] })) (act h))
        if taken then m1.goto x.r x.e tgt else m1 }
  else
    { own := freezeIf (h.engine x.e).outq.isEmpty 4
      eff := fun m' =>
        let m1 := m'.modHand x.r (fun h => h.modEngine x.e (fun y => { y with outq := y.outq.drop 1 }))
        if (h.engine x.e).outq.headD false then m1.goto x.r x.e tgt else m1 }
/-- BRA, decided by A (09 R189). -/
def execBra (w : BA) (s : State) : Out :=
  .next (runEach s (.bra w) w.hdr (fun x m =>
    let h := m.hand x.r
    decidedMeaning x m .a (target (m.pcAt x) w.offset) [h.needA w.a.toNat, h.needA w.b.toNat]
      (condHolds w.cond.toNat (h.areg w.a.toNat) (h.areg w.b.toNat)) id))
/-- BRX, decided by X (09 R189). -/
def execBrx (w : BX) (s : State) : Out :=
  .next (runEach s (.brx w) w.hdr (fun x m =>
    let h := m.hand x.r
    decidedMeaning x m .x (target (m.pcAt x) w.offset) [h.needS w.a.toNat, h.needS w.b.toNat]
      (condHolds w.cond.toNat (h.sreg w.a.toNat) (h.sreg w.b.toNat)) id))
/-- LOOP: A counts down and goes back while the count is above 0 (09 R189). -/
def execLoop (w : BA) (s : State) : Out :=
  .next (runEach s (.loop w) w.hdr (fun x m =>
    let h := m.hand x.r
    let n := h.areg w.a.toNat - 1
    decidedMeaning x m .a (target (m.pcAt x) w.offset) [h.needA w.a.toNat] ((0 : W64).slt n)
      (fun h => h.putA (aKey h.ring w.a.toNat) n)))

/-- VCLK and the word counters set to 0; every engine's next word is due at 1 + wait (07 R150). -/
def Hand.realign (h : Hand) : Hand :=
  { h.modEngines (fun y => { y with prev := 0, words := 0, lastVc := 0, issued := false, notBefore := 0 }) with vclk := 0 }
/-- ALIGN (07 R150). -/
def execAlign (w : Z) (s : State) : Out :=
  .next (runRv s (.align w) (fun x _ => { eff := fun m' => m'.modHand x.r Hand.realign }))

/-! ## Software traps and the return -/

/-- The body of a TRAP or SYS record: n, and the calling ring (19 R368). -/
def callSlot (n : BitVec 36) (ring : Nat) : List W64 := [slotN ((bits n 0 16).toNat + 65536 * ring)]
/-- TRAP: user-trap (19 R368); the return PCs are the words after it (19 R366). -/
def execTrap (w : N) (s : State) : Out :=
  .next (runRv s (.trap w) (fun x m =>
    { eff := fun m' => m'.trap x.now x.r
        { f := ⟨0x1A, 0, callSlot w.imm (m.hand x.r).ring⟩, word := (encode (.trap w)).getD 0 } }))
/-- SYS: ring-call at the ring it names (19 R368). -/
def execSys (w : N) (s : State) : Out :=
  .next (runRv s (.sys w) (fun x m =>
    let k := (bits w.mod 0 2).toNat
    { own := trapIf (decide (k ≤ (m.hand x.r).ring)) 1 8
      eff := fun m' => m'.takeTrap x.now x.r
        { f := ⟨0x19, 0, callSlot w.imm (m.hand x.r).ring⟩, word := (encode (.sys w)).getD 0 } k }))

/-- How long ERET reads its record: 6 + H from a slice, 180 from T1 (19 R367). -/
def Mach.recTime (m : Mach) (r : Nat) : Nat :=
  let h := m.hand r
  let x := h.creg (0x008 + h.ring)
  if h.ring ≤ 1 && !bit x 63 then 6 + hops (clusterOf r) (sliceCluster x) else 180
/-- THE RETURN FROM A TRAP (19 R367): the hand as the record says, its next words due at VCLK + 1 once it is read. -/
def Hand.returnFrom (h : Hand) (now t : Nat) (img : List Byte) : Hand :=
  let vc := field img 64 8
  let back := fun (i : Nat) (y : EngineState) => { y with
    pc := BitVec.ofNat 64 (field img (24 + 8 * i) 8) &&& ~~~7, prev := vc, words := field img (120 + 2 * i) 2,
    arrived := false, issued := false, latch := none, bkOff := true, notBefore := 0, anew := true }
  { h with busy := h.busy &&& ~~~((1 : BitVec 4) <<< h.ring), ring := nbits (field img 11 1) 2 2, vclk := vc, ea := back 0 h.ea,
           ex := back 1 h.ex, em := back 2 h.em, holdTill := now + t + 1, blocked := none, frzRun := 0, stage := 0 }
/-- The errors of the rows that hold ring k's record counted, and an uncorrectable one recorded (19 R379). -/
def Mach.noteRec (m : Mach) (r k : Nat) : Mach :=
  let x := (m.hand r).creg (0x008 + k)
  if k ≤ 1 then m.noteRead r (m.hand r).ctx x 1024 (k == 0)
  else
    let ks := (rowPieces x.toNat 1024).map (·.1)
    (m.countErrors (clusterOf r) ks).noteUE r ks
/-- ERET (19 R367). -/
def execEret (w : Z) (s : State) : Out :=
  .next (runRv s (.eret w) (fun x m =>
    let h := m.hand x.r
    let rd := (m.seen x.r).readRec x.r h.ring
    let img := match rd with | .ok bs => bs | .error _ => []
    let r := nbits (field img 11 1) 2 2
    { own := firstStop [trapIf (h.ring == 0 && !h.busyAt 0) 1 8,
        (match rd with | .ok _ => none | .error f => some (.trap f)),
        trapIf (decide (h.ring < r) || (r == h.ring && h.ring != 0)) 1 8]
      eff := fun m' => (m'.noteRec x.r h.ring).modHand x.r (fun h' => h'.returnFrom x.now (m.recTime x.r) img) }))

/-! ## Events of a hand -/

/-- RESULT_LANDING (07 R137, R139). -/
def execResultLanding (r id : Nat) (s : State) : Out := .next (runEvent s (fun now m => m.landResult now r id))
/-- PENDING_TOKEN_ENTRY: the token of a completed command enters its FIFO, or waits there for a place (07 R143). -/
def execPendingTokenEntry (r f : Nat) (s : State) : Out := .next (runEvent s (fun now m => m.pushToken now r f))

/-- The word of the text that an engine stands at. -/
def Mach.wordAt (m : Mach) (r : Nat) (pc : W64) : W64 := (KMap.get [] (m.cluster (clusterOf r)).text (m.hand r).ctx).getD (pc.toNat / 8) 0
/-- WATCHDOG_EXPIRY: deadlock, precise at the blocked engine, with the freeze code, the engine and the PC of its
blocked word, past the words of other tags, and the FIFO or register (07 R148). -/
def execWatchdogExpiry (r : Nat) (s : State) : Out :=
  .next (runEvent s (fun now m =>
    let h := m.hand r
    match h.blocked with
    | none => m
    | some b =>
      let pc := m.cutPc r b.eng
      let wd := (bits (h.creg 0x022) 0 32).toNat
      if wd = 0 || h.frzRun ≤ wd then m
      else m.trap now r { f := ⟨0x16, 0, [slotN b.code, slotN (engNo b.eng), pc, slotN b.info]⟩, eng := engNo b.eng,
                          word := m.wordAt r pc }))
/-- TIMER_EXPIRY (19 R361): the timer passed from 1 to 0. -/
def execTimerExpiry (r : Nat) (s : State) : Out :=
  .next (runEvent s (fun _ m => if (m.part (m.partOf r)).rpMode == 2 then m else m.recordFault r ⟨0x1E, 0, []⟩))

/-- A recorded fault taken at a boundary, with the cut at the end of the vc before (19 R364, R377): one whose record cannot be written stays
(`drop` takes it out otherwise) and the write's fault is taken in its place (R363). -/
def Mach.takeRecorded (m : Mach) (now r : Nat) (f : FaultRec) (drop : Mach → Mach) : Mach :=
  let h := m.hand r
  let d := h.deliverRing (m.tring r f.cause)
  let kept := match m.writeRec r d (List.replicate 1024 0) with
    | .ok _ => false
    | .error _ => decide (d < 4)
  let m1 := (if kept then m else drop m).modHand r (fun y => { y with vclk := h.cutVclk })
  let m2 := if outsideCause f.cause then m1.logInput now (m.partOf r) 7 (some r) (slotN f.cause) h.iseqs else m1
  m2.trap now r { f := f, recorded := true, pcs := m.cutPcs r }
/-- RECORDED_FAULT_DELIVERY: the cause that a replay has recorded for this point, or else the oldest deliverable fault, unless a full log has
no room for it (19 R364, 21 R398, R399). -/
def execRecordedFaultDelivery (r : Nat) (s : State) : Out :=
  .next (runEvent s (fun now m =>
    match m.pointCause r with
    | some (k, x) =>
      let c := m.causeFault r (x.a.toNat % 32)
      (m.useNext now (m.partOf r) k).takeRecorded now r c.1 (fun m => (m.causeFault r (x.a.toNat % 32)).2)
    | none =>
      match m.dueFault r with
      | none => m
      | some f =>
        if m.causeWaits r then m
        else m.takeRecorded now r f (fun m => m.modHand r (fun h => { h with pending := h.pending.erase f }))))

end Sys2Proof.Machine
end

