-- ==== Sys2Proof/Machine/Teams.lean ====
section
/-! DEFINITION. Phases, barriers and team flags (17 R316 to R327): BAR, PHASE, FINC, FWT, FRDF, and the events that
complete them. -/

namespace Sys2Proof.Machine

/-! ## Domains and barriers -/

/-- FGRP of a context (17 R317). -/
def Ctx.fgrp (x : Ctx) : Nat := (bits (x.reg 0x07A) 48 16).toNat
/-- Does the fabric domain of a context hold other devices: FSIZE above 1 (17 R317)? -/
def Ctx.farGroup (x : Ctx) : Bool := decide (1 < (bits (x.reg 0x07A) 32 8).toNat)
/-- The launch with a number. -/
def Mach.launch? (m : Mach) (l : Nat) : Option Launch := m.dev.launches.find? (fun x => x.id == l)
/-- The member hands of a launch (17 R331): core k of a cluster c of CSET with CORES bit k set, in the launch's hand. -/
def Launch.members (l : Launch) : List Nat :=
  ((List.range 72).filter (fun c => l.cset.testBit c)).flatMap (fun c =>
    ((List.range 4).filter (fun k => l.cores.testBit k)).map (fun k => 2 * (4 * c + k) + l.hand))
/-- Is hand `q` in the same instance of a level as hand `r` (17 R316)? -/
def sameInst (lvl r q : Nat) : Bool :=
  match lvl with
  | 0 => teamOf r == teamOf q
  | 1 => dieOf (clusterOf r) == dieOf (clusterOf q)
  | _ => true
/-- The instance number of a hand's domain at a level, for its launch; a fabric domain's is its FGRP (17 R316, R320). -/
def Mach.barInst (m : Mach) (lvl r : Nat) : Nat :=
  if lvl = 3 then (m.handCtx r).fgrp
  else (m.hand r).launch * 256 + (match lvl with | 0 => teamOf r | 1 => dieOf (clusterOf r) | _ => 0)
/-- The key of a barrier. -/
def barKey (lvl inst : Nat) : Nat := 4 * inst + lvl
/-- A barrier: a context's, or at level 3 that of a fabric group (17 R316). -/
def Mach.barrier (m : Mach) (k lvl inst : Nat) : Barrier :=
  if lvl = 3 then KMap.get {} m.dev.fabBars inst else KMap.get {} (m.ctx k).barriers (barKey lvl inst)
/-- A barrier replaced. -/
def Mach.setBarrier (m : Mach) (k lvl inst : Nat) (b : Barrier) : Mach :=
  if lvl = 3 then m.modDev (fun d => { d with fabBars := d.fabBars.set inst b })
  else m.modCtx k (fun x => { x with barriers := x.barriers.set (barKey lvl inst) b })
/-- The threads of a launch (by context and number) whose team is saved in an image, by the hands they were in (19 R376). -/
def Mach.savedHands (m : Mach) (p : Nat × Nat) : List Nat :=
  (m.ctx p.1).images.flatMap (fun st => (st.hands.zipIdx.filter (fun q => q.1.thread && q.1.launch == p.2)).map
    (fun q => 8 * (st.team / 2) + 2 * q.2 + st.team % 2))
/-- Does a hand hold a thread of a launch? -/
def Mach.runs (m : Mach) (p : Nat × Nat) (q : Nat) : Bool :=
  (m.hand q).thread && (m.hand q).ctx == p.1 && (m.hand q).launch == p.2
/-- The hands of a launch: its members, and any other that holds a thread of it. -/
def Mach.launchHands (m : Mach) (p : Nat × Nat) : List Nat :=
  ((((m.launch? p.2).map Launch.members).getD []) ++ m.hands.keys.filter (m.runs p)).eraseDups
/-- The launches, by context and number, whose threads are in the instance of a hand at a level: its own, or for the fabric level every
one of a context with the same FGRP (17 R316). -/
def Mach.instLaunches (m : Mach) (r lvl : Nat) : List (Nat × Nat) :=
  let h := m.hand r
  if lvl != 3 then [(h.ctx, h.launch)]
  else
    let g := (m.ctx h.ctx).fgrp
    ((m.dev.launches.map (fun l => (l.ctx, l.id))) ++ (m.hands.filter (fun p => p.2.thread)).map (fun p => (p.2.ctx, p.2.launch))
      ++ m.ctxs.flatMap (fun p => p.2.images.flatMap (fun st => (st.hands.filter (·.thread)).map (fun h => (p.1, h.launch))))).eraseDups.filter
      (fun p => (m.ctx p.1).fgrp == g)
/-- The member hands of a hand's instance at a level (17 R316). -/
def Mach.members (m : Mach) (r lvl : Nat) : List Nat :=
  ((m.instLaunches r lvl).flatMap m.launchHands).eraseDups.filter (sameInst lvl r)
/-- Does the dealer hold undealt iterations of a launch? -/
def Mach.undealt (m : Mach) (p : Nat × Nat) : Bool :=
  ((m.launch? p.2).map (fun l => decide (l.next < l.total) || !l.teams.isEmpty)).getD false
/-- Has every member core of a hand's instance arrived, or no thread and nothing left to deal (17 R321)? A member saved in an image has
not arrived (17 R342). -/
def Mach.allArrived (m : Mach) (r lvl : Nat) (arrived : List Nat) : Bool :=
  (m.instLaunches r lvl).all (fun p =>
    ((m.launchHands p).filter (sameInst lvl r)).all (fun q => arrived.contains q || (!m.runs p q && !m.undealt p))
      && !(m.savedHands p).any (sameInst lvl r))
/-- Has every remote write of a hand been performed: remote stores, FWR, copies, frames, collectives, remote FINCs (17 R321, R325)? -/
def Mach.remoteDone (m : Mach) (r : Nat) : Bool :=
  let h := m.hand r
  !h.accs.any (fun a => !a.isLoad && a.remote) && !m.dev.peerOps.any (fun p => p.hand == r && !p.isRead)
    && !h.copies.any (fun c => c.remoteW && c.state != 3) && !m.frames.any (fun f => f.hand == r)
    && (m.collsOf r).all (fun c => c.sends == 0)
    && !m.agenda.any (fun p => match p.2 with
      | .remoteFincArrival k _ c _ _ who _ _ => k == h.ctx && who == r && c != clusterOf r
      | _ => false)
/-- Is an access or a command write of hand `r` numbered below `snap` yet to be performed (18 R347), collectives apart? The writes of its
TIERQs and WPFs count, whenever they start (log 129). -/
def Mach.accessesOpen (m : Mach) (r snap : Nat) : Bool :=
  let h := m.hand r
  h.accs.any (fun a => decide (a.id < snap)) || h.copies.any (fun c => c.state != 3 && decide (c.id < snap))
    || (m.ctx h.ctx).moves.any (fun v => v.tid == h.tid && v.asksTier && decide (v.state ≤ 2) && decide (v.id < snap))
    || (m.cluster (clusterOf r)).cmds.any (fun c => c.hand == r && c.op == .acmst && decide (c.id < snap))
    || h.cmdSaved.any (fun c => c.op == .acmst && decide (c.id < snap))
    || m.frames.any (fun f => f.hand == r && decide (f.id < snap))
    || h.results.any (fun x => decide (x.id < snap) && x.lands.any (fun l => match l with | .mem _ _ => true | _ => false))
/-- The same with the hand's collectives. -/
def Mach.writesOpen (m : Mach) (r snap : Nat) : Bool :=
  m.accessesOpen r snap || (m.collsOf r).any (fun c => decide (c.id < snap))
/-- Is a step that a collective of a hand's thread has sent yet to be performed (15 R298)? -/
def Mach.stepsOpen (m : Mach) (r : Nat) : Bool := (m.collsOf r).any (fun c => c.sends != 0)
/-- The nominal cycle by which a hand's accesses and copies have been performed. -/
def Hand.releasedBy (h : Hand) (now : Nat) : Nat :=
  h.copies.foldl (fun t c => if c.state = 3 then t else max t (c.endT - 1 + c.lat)) (h.accs.foldl (fun t a => max t a.doneAt) now)
/-- The nominal time of a barrier (17 R321). -/
def barTime (lvl : Nat) : Nat := match lvl with | 0 => 4 | 1 => 12 | 2 => 24 | _ => 4824
/-- The phase-bit key of a level's instance for a hand (17 R318). -/
def phaseKey (lvl r : Nat) : Nat := match lvl with | 1 => dieOf (clusterOf r) | 3 => 5 | _ => 4

/-- A member counts the barrier's nominal time in vc, unfrozen, from the last arrival (17 R321). -/
def Hand.countBar (h : Hand) (now n : Nat) : Hand := { h with blocked := none, frzRun := 0, barTill := now + n }
/-- What a barrier whose members have all arrived still waits for: the accesses, command writes and sent steps that each member released
on arrival (17 R322, 18 R347, 15 R298), and, for `comp` out of a communicate phase, every member's remote writes (17 R321). -/
def Mach.barWaits (m : Mach) (lvl : Nat) (b : Barrier) : Bool :=
  let r := b.arrived.headD 0
  b.arrived.any (fun q => m.accessesOpen q m.nextId || m.stepsOpen q)
    || (b.act == 2 && KMap.get false (m.handCtx r).phases (phaseKey lvl r) && !(m.members r lvl).all m.remoteDone)
/-- A barrier tested: once every member has arrived, or has no thread and nothing is left to deal, the other devices' members of a fabric
group among them, its nominal time passes, counted by every member (17 R321). -/
def Mach.tryBarrier (m : Mach) (now k lvl inst : Nat) : Mach :=
  let b := m.barrier k lvl inst
  match b.arrived, b.doneAt with
  | r :: _, none =>
    if !m.allArrived r lvl b.arrived then m
    else if lvl == 3 && (m.handCtx r).farGroup && !b.peers then m
    else
      let m1 := m.setBarrier k lvl inst { b with doneAt := some (now + barTime lvl) }
      (b.arrived.foldl (fun m q => m.modHand q (fun h => h.countBar now (barTime lvl))) m1).post (now + barTime lvl)
        (.barrierComplete k lvl inst)
  | _, _ => m
/-- The new phase of a barrier's domain, in the context of one of its members (17 R318, R321). -/
def Mach.newPhase (m : Mach) (lvl act r : Nat) : Mach :=
  if act = 0 then m else m.modCtx (m.hand r).ctx (fun x => { x with phases := x.phases.set (phaseKey lvl r) (act == 1) })
/-- BARRIER_COMPLETE: the phase bit takes the new phase, and every member goes past its BAR in this cycle (17 R321); one that still waits for
writes is tested again in each cycle, its members frozen. `lvl` 7 is level 3 and an input: the members of the fabric group on the other devices have all
arrived, and have acknowledged (17 R316, 18 R357, log 20). -/
def execBarrierComplete (ctx lvl inst : Nat) (s : State) : Out :=
  .next (runEvent s (fun now m =>
    let far := decide (4 ≤ lvl)
    let lvl := lvl % 4
    let m := if far then m.setBarrier ctx lvl inst { m.barrier ctx lvl inst with peers := true } else m
    let b := m.barrier ctx lvl inst
    match b.doneAt with
    | none => m.tryBarrier now ctx lvl inst
    | some t =>
      if now < t then m
      else if m.barWaits lvl b then m.post (now + 1) (.barrierComplete ctx lvl inst)
      else b.arrived.foldl (fun m q => (m.newPhase lvl b.act q).modHand q Hand.passRv) (m.setBarrier ctx lvl inst {})))
/-- Every barrier of a context and of the fabric groups with arrivals tested: a thread has exited, or the dealer has dealt its last
iteration. -/
def Mach.testBarriers (m : Mach) (now k : Nat) : Mach :=
  let m := (m.ctx k).barriers.foldl (fun m p => if p.2.arrived.isEmpty then m else m.tryBarrier now k (p.1 % 4) (p.1 / 4)) m
  m.dev.fabBars.foldl (fun m p => if p.2.arrived.isEmpty then m else m.tryBarrier now k 3 p.1) m

/-- BAR (17 R320 to R322): its member arrives once and waits, frozen with code 6, until BARRIER_COMPLETE takes it past
the word. -/
def execBar (w : N) (s : State) : Out :=
  .next (runRv s (.bar w) (fun x m =>
    let h := m.hand x.r
    let lvl := (bits w.mod 2 2).toNat
    let act := (bits w.mod 0 2).toNat
    let inst := m.barInst lvl x.r
    let b := m.barrier h.ctx lvl inst
    { own := firstStop
        [ trapIf (lvl == 0 && act != 0) 1 8, trapIf (lvl == 3 && (m.ctx h.ctx).fgrp == 0) 1 8,
          trapIf (!b.arrived.isEmpty && !b.arrived.contains x.r && b.act != act) 1 9,
          if b.arrived.contains x.r then some (.freeze 6 0) else some (.start 6) ]
      wait := fun m' => (m'.setBarrier h.ctx lvl inst { b with act := act, arrived := b.arrived ++ [x.r] }).tryBarrier
        x.now h.ctx lvl inst }))

/-- PHASE (17 R319): DMEM.PDOM names the domain. -/
def execPhase (w : N) (s : State) : Out :=
  .next (runRv s (.phase w) (fun x m =>
    let d := bits w.mod 2 2
    { own := trapIf (d == 3 && (m.handCtx x.r).fgrp == 0) 1 8
      eff := fun m' => m'.modHand x.r (fun h => h.setCreg 0x07A ((h.creg 0x07A &&& ~~~(0x30 : W64)) ||| (d.zeroExtend 64 <<< 4))) }))

/-! ## Team flags -/

/-- A team flag (17 R323). -/
def Ctx.flag (x : Ctx) (team f : Nat) : W32 := KMap.get 0 x.flags (64 * team + f)
/-- A team flag written. -/
def Ctx.setFlag (x : Ctx) (team f : Nat) (v : W32) : Ctx := { x with flags := x.flags.set (64 * team + f) v }
/-- The value a flag word uses: A[b][31:0], or 1 for A0 (17 R324). -/
def flagAmount (h : Hand) (w : AAA) : W32 := if w.b = 0 then 1 else bits (h.areg w.b.toNat) 0 32

/-- A flag raised; its first waiter may then be served in the same cycle (17 R325, R326). -/
def Mach.raiseFlag (m : Mach) (now k team f : Nat) (v : W32) : Mach :=
  (m.modCtx k (fun x => x.setFlag team f (x.flag team f + v))).post now (.flagWaitServed k team f)
/-- The image address at which the context agent holds a switched-out team (19 R376). -/
def Ctx.agentOf (x : Ctx) (team : Nat) : Option W64 := (x.agent.find? (fun p => p.1 == team)).map (·.2)
/-- A FINC at its flag file; for a switched-out team the context agent adds it atomically in the saved image (19 R376), whose errors ECNT
counts (R379); no hand issued the agent's read, so none takes machine-check (log 21). -/
def Mach.agentFinc (m : Mach) (now ctx hand c f : Nat) (v : W32) : Mach :=
  match (m.ctx ctx).agentOf (2 * c + hand) with
  | none => m.raiseFlag now ctx (2 * c + hand) f v
  | some img =>
    let a := img + BitVec.ofNat 64 (1179648 + 4 * f)
    match m.span ctx a 4 false false with
    | .error _ => m
    | .ok l =>
      match m.writeAt ctx a (leBytes 4 (leNat (m.readSpan l) + v.toNat)) false with
      | .ok m' => m'.countErrors c (l.map (·.1))
      | .error _ => m
/-- Does a FINC numbered `snap` wait: behind an acquire issued before it (06 R124, 18 R348, R349), or, with .rel, for what its thread issued
before it (17 R325)? One without a number waits for nothing. A plain one's result has a fence that covers nothing. -/
def Mach.fincWaits (m : Mach) (who snap : Nat) : Bool :=
  snap != 0 && ((m.hand who).held snap 0
    || (!(m.hand who).results.any (fun x => x.id == snap && x.fence.isSome) && m.writesOpen who snap))
/-- REMOTE_FINC_ARRIVAL: a FINC reaches the flag file of its team, local ones too, one with .rel once every access and
command write that its thread issued before has been performed (17 R325, `snap` its number); a switched-out team's goes to
the context agent (19 R376). -/
def execRemoteFincArrival (ctx hand c f : Nat) (v : W32) (who snap iseq : Nat) (s : State) : Out :=
  .next (runEvent s (fun now m =>
    let a : Arrival := ⟨who, iseq, 64 * c + f⟩
    if m.fincWaits who snap || !m.mayArriveAll [a] then m.post (now + 1) (.remoteFincArrival ctx hand c f v who snap iseq) else
    let m := (m.noteArrival now a).agentFinc now ctx hand c f v
    if snap = 0 then m else m.supply who snap [] now))
/-- CONTEXT_AGENT_FINC (19 R376). -/
def execContextAgentFinc (ctx hand c f : Nat) (v : W32) (s : State) : Out :=
  .next (runEvent s (fun now m => m.agentFinc now ctx hand c f v))
/-- FLAG_WAIT_SERVED: the first waiter of a flag is served when the flag suffices, and then the next (17 R326). -/
def execFlagWaitServed (ctx team f : Nat) (s : State) : Out :=
  .next (runEvent s (fun now m =>
    let x := m.ctx ctx
    match x.flagWaits.find? (fun w => w.team == team && w.flag == f && !w.served) with
    | none => m
    | some w =>
      let v := x.flag team f
      if v.toNat < w.amount then m
      else (m.setCtx ctx { x.setFlag team f (v - BitVec.ofNat 32 w.amount) with
              flagWaits := x.flagWaits.map (fun y => if y == w then { y with served := true, old := v } else y) }).post now
              (.flagWaitServed ctx team f)))

/-- FINC (17 R325): performed 2 c after issue, 2 + H for a far one; with .rel behind every older access and command
write of the thread, and behind an acquire that is not complete in any form; its token then (07 R143): `snap` is the number of its
result. -/
def execFinc (w : AAA) (s : State) : Out :=
  .next (runWord s .a (.finc w) w.hdr (fun x m =>
    let h := m.hand x.r
    let far := bit w.imm 6
    let c := if far then (bits (h.areg w.a.toNat) 0 7).toNat else clusterOf x.r
    { own := firstStop [if far then h.needA w.a.toNat else none, h.needA w.b.toNat,
        trapIf (far && !m.inPart h.ctx c) 7 0 [h.areg w.a.toNat, 4, slotN c]]
      eff := fun m' =>
        let rel := bit w.imm 7
        let late := rel || h.results.any (·.acq)
        let t := h.acqT (if rel then h.releasedBy x.now else x.now) + 2 + hops (clusterOf x.r) c
        let m1 := m'.post t
          (.remoteFincArrival h.ctx (x.r % 2) c (bits w.imm 0 6).toNat (flagAmount h w) x.r (if late then m.nextId else 0) (h.ea.iseq + 1))
        let m2 := m1.issueResult x.r [] 0 (pushFifo x.e w.hdr.push) t (!late) false
        if late && !rel then m2.modHand x.r (fun h => { h with results := h.results.map (fun y =>
          if y.id == m.nextId then { y with fence := some ⟨0, false, false⟩ } else y) })
        else m2 }))

/-- FWT (17 R325, R326): frozen with code 11 until served; then A[d] takes the old value and the flag the rest. -/
def execFwt (w : AAA) (s : State) : Out :=
  .next (runWord s .a (.fwt w) w.hdr (fun x m =>
    let h := m.hand x.r
    let k := h.ctx
    let team := teamOf x.r
    let f := (bits w.imm 0 6).toNat
    let v := flagAmount h w
    let y := m.ctx k
    let mine := y.flagWaits.find? (fun u => u.hand == x.r)
    let first := !y.flagWaits.any (fun u => u.team == team && u.flag == f && !u.served)
    let now? := first && decide (v.toNat ≤ (y.flag team f).toNat)
    { own := firstStop [h.needA w.b.toNat,
        match mine with
        | some u => freezeIf (!u.served) 11
        | none => if now? then none else some (.start 11)]
      wait := fun m' => m'.modCtx k (fun z => { z with flagWaits := z.flagWaits ++
        [FlagWait.mk team f x.r v.toNat false 0] })
      eff := fun m' =>
        let old := match mine with | some u => u.old | none => y.flag team f
        let m1 := match mine with
          | some _ => m'.modCtx k (fun z => { z with flagWaits := z.flagWaits.filter (fun u => u.hand != x.r) })
          | none => m'.modCtx k (fun z => z.setFlag team f (old - v))
        let m2 := if bit w.imm 7 then m1.modHand x.r (fun h => { h with accHold := max h.accHold (x.now + 4) }) else m1
        m2.issueResult x.r [.areg (aKey h.ring w.d.toNat) (old.zeroExtend 64)] 0 (pushFifo x.e w.hdr.push) (x.now + 4) true false }))

/-- FRDF (17 R325). -/
def execFrdf (w : AAA) (s : State) : Out :=
  .next (runWord s .a (.frdf w) w.hdr (fun x m =>
    let h := m.hand x.r
    regMeaning x w.hdr 4 []
      [.areg (aKey h.ring w.d.toNat) (((m.ctx h.ctx).flag (teamOf x.r) (bits w.imm 0 6).toNat).zeroExtend 64)] 0))

/-- SHAPE_VARIABLE_WRITE: an MTC to a shape variable is performed at the command processor, and its token enters (17
R327). -/
def execShapeVariableWrite (r i : Nat) (v : W32) (push : BitVec 2) (s : State) : Out :=
  .next (runEvent s (fun now m =>
    (m.modCtx (m.hand r).ctx (fun x => { x with svOld := if x.svT = now + 1 then x.svOld else x.sv, svT := now + 1, sv := x.sv.set i v })).modHand r (fun h => h.enterTok now (pushFifo .x push))))

end Sys2Proof.Machine
end

