-- ==== Sys2Proof/Machine/Tier.lean ====
section
/-! DEFINITION. The movement timetable and the tier engine (04 R63 to R87, 14 R276): the ring, its entries and requests,
horizon and places, shards, endings with their status records, MARK, TTADD, TTCLR, TIERQ, WPF and WPF.spec. -/

namespace Sys2Proof.Machine

/-! ## Entries -/

/-- TTCTL.CAP (04 R64). -/
def Ctx.ttCap (x : Ctx) : Nat := (bits (x.reg 0x109) 0 5).toNat
/-- The capacity of the ring; 0 with no timetable. -/
def Ctx.ttRoom (x : Ctx) : Nat := if x.ttCap = 0 then 0 else 2 ^ x.ttCap
/-- The address of ring slot `i` (04 R65). -/
def Ctx.ttSlot (x : Ctx) (i : Nat) : W64 := (x.reg 0x108 &&& ~~~31) + BitVec.ofNat 64 (32 * (i % 2 ^ x.ttCap))
/-- The address of status record `i` (04 R65). -/
def Ctx.ttStat (x : Ctx) (i : Nat) : W64 := (x.reg 0x10C &&& ~~~15) + BitVec.ofNat 64 (16 * (i % 2 ^ x.ttCap))

/-- The marker at which a move is due (04 R66, R83, R84). -/
def Move.marker (v : Move) : Nat :=
  match v.kind with | .ring _ => field v.img 0 4 | .tierq => 0 | .wpf n => n | .spec n _ _ => n
/-- The ring index of a move, 0xFFFFFFFF for a request (04 R77). -/
def Move.index (v : Move) : Nat := match v.kind with | .ring i => i | _ => 0xFFFFFFFF
/-- Is a move an entry of the ring? -/
def Move.isRing (v : Move) : Bool := match v.kind with | .ring _ => true | _ => false
/-- Destination cluster field (04 R66). -/
def Move.dst (v : Move) : Nat := field v.img 5 1
/-- Destination address. -/
def Move.da (v : Move) : W64 := BitVec.ofNat 64 (field v.img 8 8)
/-- Source address. -/
def Move.sa (v : Move) : W64 := BitVec.ofNat 64 (field v.img 16 8)
/-- Length in bytes. -/
def Move.len (v : Move) : Nat := field v.img 28 4
/-- Source slot `j`: its kind and peer index (04 R68). -/
def Move.slot (v : Move) (j : Nat) : Nat × Nat := (field v.img (24 + j) 1 / 64, field v.img (24 + j) 1 % 64)
/-- Is a move neither done, failed, discarded nor killed? -/
def Move.isOpen (v : Move) : Bool := v.state ≤ 2

/-- Does an image break R66 to R68? A slot of kind 0b00 with a peer index is no ending slot (DESIGN CHOICE, log 99). -/
def malformed (v : Move) : Bool :=
  let act := field v.img 4 1
  let fl := field v.img 6 2
  let sl := (List.range 4).map v.slot
  let n := (sl.takeWhile (fun s => s.1 != 0)).length
  let peer := sl.any (fun s => s.1 == 2)
  let dOk := v.dst < 72 || v.dst == 0x7E || v.dst == 0x7F
  2 < act || fl / 128 != 0 || nbits fl 2 2 != 0 || nbits fl 4 3 == 7 || !dOk
    || v.len % 128 != 0 || v.len == 0 || decide (2 ^ 30 < v.len)
    || n == 0 || (sl.drop n).any (fun s => s != (0, 0)) || sl.any (fun s => s.1 == 3)
    || (peer && (!bit v.sa 63 || bits v.sa 45 3 != 0))
    || (match act with
        | 0 => bit v.da 63 || v.dst == 0x7E || sliceCluster v.da != (if v.dst = 0x7F then 0 else v.dst)
        | 1 => !bit v.da 63 || v.dst == 0x7F || n != 1 || peer
        | _ => !bit v.da 63 || v.dst == 0x7F)
/-- Does the image of a request break R83 or R84 besides? -/
def badRequest (v : Move) : Bool :=
  malformed v || (match v.kind with
    | .ring _ => false
    | .tierq => field v.img 0 4 != 0
    | _ => field v.img 4 1 == 1 || v.dst != v.cluster)

/-- The hands whose MKCUR counts for a move: threads of the context, switched-out ones too, in its destination cluster or
the partition (04 R70, R87). -/
def Mach.counted (m : Mach) (k : Nat) (v : Move) : List Nat :=
  let x := m.ctx k
  ((m.hands.keys.filter (fun r => (m.hand r).thread && (m.hand r).ctx == k)) ++ x.out).filter
    (fun r => 72 ≤ v.dst || clusterOf r == v.dst)
/-- MKCUR of a hand (04 R65). -/
def Ctx.mkOf (x : Ctx) (r : Nat) : Nat := KMap.get 0 x.mkcur r
/-- H for a move (04 R70). -/
def Mach.horizon (m : Mach) (k : Nat) (v : Move) : Nat :=
  let x := m.ctx k
  match m.counted k v with
  | [] => (x.mkcur.map (·.2)).foldl max 0
  | r :: t => t.foldl (fun a q => min a (x.mkOf q)) (x.mkOf r)
/-- Is a move late: some thread would check it, and all have passed its marker (04 R75)? -/
def Mach.isLate (m : Mach) (k : Nat) (v : Move) : Bool :=
  let ts := m.counted k v
  (v.dst < 72 || v.dst == 0x7F) && !ts.isEmpty && ts.all (fun r => decide (v.marker ≤ (m.ctx k).mkOf r))

/-- The move with a number, and its context. -/
def Mach.findMove (m : Mach) (id : Nat) : Option (Nat × Move) :=
  m.ctxs.findSome? (fun p => (p.2.moves.find? (fun v => v.id == id)).map (fun v => (p.1, v)))
/-- A move replaced. -/
def Mach.putMove (m : Mach) (k : Nat) (v : Move) : Mach :=
  m.modCtx k (fun x => { x with moves := x.moves.map (fun u => if u.id == v.id then v else u) })

/-! ## Sources and times -/

/-- What the address of one side of a move lies in: 0 a slice, 1 DRAM with its die, 2 CXL (04 R62). -/
def Mach.tierOf (m : Mach) (k : Nat) (x : W64) : Nat × Nat :=
  if !bit x 63 then (0, dieOf (sliceCluster x))
  else match m.walk k x with
    | .error _ => (1, 0)
    | .ok e => match m.physKind (e.ppage + x.toNat % 2 ^ e.logSize) with
      | .cxl _ => (2, 0)
      | .dram d => (1, d)
      | _ => (1, 0)
/-- The dies that serve a move (04 R70). -/
def Mach.servers (m : Mach) (k : Nat) (v : Move) : List Nat :=
  if v.dst < 72 then [dieOf v.dst]
  else if v.dst = 0x7F then (((List.range 72).filter (m.inPart k)).map dieOf).eraseDups
  else [(m.tierOf k v.da).2]
/-- The CXL port that an address of a context lies behind (04 R61). -/
def Mach.cxlPort (m : Mach) (k : Nat) (x : W64) : Option Nat :=
  if !bit x 63 then none
  else match m.walk k x with
    | .error _ => none
    | .ok e => match m.physKind (e.ppage + x.toNat % 2 ^ e.logSize) with
      | .cxl p => some p
      | _ => none
/-- B of a CXL port (04 R62, 27 R417): 112 bytes per cycle over 16 lanes at 64 GT/s, less in proportion on a narrower or slower link (DESIGN
CHOICE, log 123); CXLST holds 16 lanes as 0. -/
def Mach.cxlRate (m : Mach) (p : Nat) : Nat :=
  let st := KMap.get 0 m.dev.cxlst p
  let lanes := (bits st 4 4).toNat
  112 * (if lanes = 0 then 16 else min 16 lanes) * (if bits st 1 3 = 1 then 1 else 2) / 32
/-- L and B of a move whose source is slot `j` (04 R62). -/
def Mach.moveRate (m : Mach) (k : Nat) (v : Move) (j : Nat) : Nat × Nat :=
  let s := m.tierOf k v.sa
  let d := m.tierOf k v.da
  let far := (m.servers k v).any (fun q => q != s.2)
  if (v.slot j).1 = 2 then (2400, 96)
  else if s.1 = 2 then (620, ([v.sa, v.da].filterMap (m.cxlPort k)).foldl (fun b p => min b (m.cxlRate p)) 112)
  else
    let b := if d.1 = 2 then ((m.cxlPort k v.da).map m.cxlRate).getD 112 else if s.1 = 1 && d.1 = 1 then 2048 else 512
    let l := if s.1 = 1 then (if d.1 = 0 && far then 186 else 180) else if d.1 = 0 && far then 12 else 6
    (l, b)
/-- The cycles that `n` bytes of a move take (04 R71). -/
def Mach.moveTime (m : Mach) (k : Nat) (v : Move) (j n : Nat) : Nat :=
  let r := m.moveRate k v j
  r.1 + (n + r.2 - 1) / r.2

/-- The peer entry `j` of a context is valid (04 R63); one that cannot be read counts as V = 0 (DESIGN CHOICE, log 97). -/
def Mach.peerValid (m : Mach) (k j : Nat) : Bool :=
  match m.readAt k (((m.ctx k).reg 0x101 &&& ~~~15) + BitVec.ofNat 64 (16 * j)) 16 true with
  | .ok bs => field bs 4 1 % 2 == 1
  | .error _ => false
/-- A slot of a move that has failed takes its status, the latest of the shards that it was tried for (04 R72, R77; DESIGN CHOICE, log 120);
corrupt (2) and missing (3) shards are counted, and the first shard that a slot failed for counts as the first failed one, though a later
slot may deliver it (R74; DESIGN CHOICE, log 120). -/
def Move.slotFails (v : Move) (j st : Nat) : Move :=
  { v with slotSt := v.slotSt.set j st, slotNow := j + 1,
           bad := if st = 2 || st = 3 then min 255 (v.bad + 1) else v.bad,
           firstBad := some (v.firstBad.getD v.shard) }
/-- The source slot of the current shard, from `slotNow` on: one that faulted for the entry is passed, one that names an
invalid peer fails at once (04 R63, R72). -/
def Mach.pickSlot (m : Mach) (k : Nat) : Nat → Move → Move × Option Nat
  | 0, v => (v, none)
  | n + 1, v =>
    if 4 ≤ v.slotNow || (v.slot v.slotNow).1 = 0 then (v, none)
    else if 4 ≤ v.slotSt.getD v.slotNow 0 then m.pickSlot k n { v with slotNow := v.slotNow + 1 }
    else if (v.slot v.slotNow).1 = 2 && !m.peerValid k (v.slot v.slotNow).2 then
      m.pickSlot k n (v.slotFails v.slotNow 5)
    else (v, some v.slotNow)

/-- The end event of a move's kind. -/
def Move.endEvent (v : Move) : Instr :=
  match v.kind with
  | .ring _ => .ttEntryEnd v.id
  | .spec _ _ _ => .specFetchEnd v.id
  | _ => .tierRequestEnd v.id
/-- A move goes to its end at a time. -/
def Mach.endAt (m : Mach) (k : Nat) (v : Move) (t : Nat) : Mach := (m.putMove k { v with endT := t }).post t v.endEvent
/-- A move fails: its end comes at once. -/
def Mach.failMove (m : Mach) (now k : Nat) (v : Move) (reason : Nat) : Mach := m.endAt k { v with reason := reason } now

/-- The bytes of a move's current shard (04 R72). -/
def Move.shardLen (v : Move) : Nat := min 1048576 (v.len - 1048576 * v.shard)
/-- The slot that the current shard comes from: a local source is translated at once, and a fault fails it (04 R72, R86). A slot in use is no
longer unused (R77, 26 R411). -/
def Mach.pickSource (m : Mach) (k : Nat) : Nat → Move → Move × Option Nat
  | 0, v => (v, none)
  | n + 1, v => match m.pickSlot k 5 v with
    | (v, none) => (v, none)
    | (v, some j) =>
      let v := if v.slotSt.getD j 0 = 0 then { v with slotSt := v.slotSt.set j 1 } else v
      if (v.slot j).1 != 1 then (v, some j)
      else match m.span k (v.sa + BitVec.ofNat 64 (1048576 * v.shard)) v.shardLen false true with
        | .error _ => m.pickSource k n (v.slotFails j 4)
        | .ok l => ({ v with src := l }, some j)
/-- The source of the current shard is tried: the end of a local read is put on the agenda, in a run of local shards at the rate of the
tier from the run's start; a peer is asked and has 52,500 cycles; with every shard landed the move ends, not before its time (04 R71,
R72). One stopped by a kill ends here, at a shard boundary (R87). -/
def Mach.goMove (m : Mach) (now k : Nat) (v : Move) : Mach :=
  if v.killed then m.endAt k v now
  else if v.len ≤ 1048576 * v.shard then m.endAt k v (max now (v.startT + m.moveTime k v v.slotUsed v.len))
  else match m.pickSource k 5 v with
    | (v, none) => m.failMove now k v 1
    | (v, some j) =>
      if (v.slot j).1 = 1 then
        let v := if v.runSlot = j then v else { v with runSlot := j, runT := now, runFrom := v.shard }
        m.endAt k v (max now (v.runT + m.moveTime k v j (min v.len (1048576 * (v.shard + 1)) - 1048576 * v.runFrom)))
      else (m.putMove k { v with asked := true, askT := now, runSlot := 4 }).post (now + 52500) (.tierShardTimeout v.id)

/-- The addresses that a shard of a move is written to (04 R67). -/
def Mach.shardDests (m : Mach) (k : Nat) (v : Move) : List W64 :=
  let a := v.da + BitVec.ofNat 64 (1048576 * v.shard)
  if v.dst = 0x7F then ((List.range 72).filter (m.inPart k)).map (fun c => a + BitVec.ofNat 64 (c * 2 ^ 23)) else [a]
/-- The rows that the current shard of a move is written to. -/
def Mach.shardKeys (m : Mach) (k : Nat) (v : Move) : List Nat := m.rowKeys k v.shardLen true true (m.shardDests k v)
/-- Bytes written at every destination, or the fault of the first that fails. -/
def Mach.writeAll (m : Mach) (k : Nat) (bs : List Byte) : List W64 → Except FaultRec Mach
  | [] => .ok m
  | a :: t => match m.writeAt k a bs true with
    | .error f => .error f
    | .ok m' => m'.writeAll k bs t
/-- A fault record as slots (19 R366). -/
def FaultRec.asSlots (f : FaultRec) : List W64 := slotN (f.cause + 256 * f.reason) :: f.slots
/-- A shard's bytes have come: they are written and the next shard is due, or the destination faults, and its shard has failed (04 R73, R74); one in a peer window
faults too (DESIGN CHOICE, log 99: it is no malformed entry). -/
def Mach.landShard (m : Mach) (k : Nat) (v : Move) (j : Nat) (bs : List Byte) : Mach × Move :=
  match m.writeAll k bs (m.shardDests k v) with
  | .error f => (m, { v with reason := 2, fault := f.asSlots, firstBad := some (v.firstBad.getD v.shard) })
  | .ok m' => (m', { v with slotSt := v.slotSt.set j 1, slotUsed := j, shard := v.shard + 1, slotNow := 0, asked := false })
/-- The local read of the current shard from where it was translated to at its start (04 R72, R86). -/
def Mach.localShard (m : Mach) (k : Nat) (v : Move) (j : Nat) : Mach × Move :=
  if (m.anyUE (v.src.map (·.1))).isSome then (m.countErrors v.cluster (v.src.map (·.1)), v.slotFails j 2)
  else m.landShard k v j (m.readSpan v.src)

/-! ## Starting -/

/-- The lowest-numbered sequencer of a die with one of its 16 places free (04 R70). -/
def Die.freeSeq (x : Die) : Option Nat := (List.range 4).find? (fun q => decide (KMap.get 0 x.places q < 16))
/-- Is a place free on every die that serves a move (04 R70)? -/
def Mach.hasPlace (m : Mach) (k : Nat) (v : Move) : Bool := (m.servers k v).all (fun d => (m.die d).freeSeq.isSome)
/-- A place of a sequencer taken or given back. -/
def Die.place (x : Die) (q : Nat) (take : Bool) : Die :=
  { x with places := x.places.set q (if take then KMap.get 0 x.places q + 1 else KMap.get 0 x.places q - 1) }
/-- A move starts: it takes its places (04 R70, R71). -/
def Mach.startMove (m : Mach) (now k : Nat) (v : Move) : Mach :=
  let ds := (m.servers k v).map (fun d => (d, (m.die d).freeSeq.getD 0))
  let m1 := ds.foldl (fun m d => m.modDie d.1 (fun x => x.place d.2 true)) m
  m1.goMove now k { v with state := 2, startT := now, dies := ds }
/-- Can a move that stands at the engine start (04 R70, R84)? What its command's acquire or release, or an earlier release of its thread,
orders before it has been performed (18 R350). -/
def Mach.startable (m : Mach) (k : Nat) (v : Move) : Bool :=
  v.state == 1 && m.hasPlace k v && !(m.hand v.hand).accs.any (fun a => decide (a.id < v.after)) && (match v.kind with
    | .tierq => true
    | .ring i => decide (v.marker ≤ m.horizon k v + 8) && (!(field v.img 6 2).testBit 0 ||
        (m.ctx k).moves.all (fun u => !(u.isRing && u.isOpen && decide (sub32 u.index (m.ctx k).ttrd < sub32 i (m.ctx k).ttrd))))
    | _ => decide (v.marker ≤ m.horizon k v + 8))
/-- The first entry of a context's ring that has not started. -/
def Ctx.nextEntry (x : Ctx) : Option Move :=
  (x.moves.filter (fun v => v.isRing && decide (v.state ≤ 1))).foldl (fun b v => match b with
    | none => some v
    | some u => if sub32 v.index x.ttrd < sub32 u.index x.ttrd then some v else b) none
/-- The engine looks at a context: requests first, then the ring in index order, which stops at the first entry that it
cannot start (04 R70, R83). -/
def Mach.examine (m : Mach) (now k : Nat) : Mach :=
  let m := ((m.ctx k).moves.filter (fun v => !v.isRing)).foldl
    (fun m v => if m.startable k v then m.startMove now k v else m) m
  match (m.ctx k).nextEntry with
  | none => m
  | some v => if m.startable k v && !m.agenda.contains (now, .ttEntryStart k v.index) then
      (m.putMove k { v with startT := now }).post now (.ttEntryStart k v.index) else m
/-- Every context looked at: a place, a marker or a thread has changed. -/
def Mach.examineAll (m : Mach) (now : Nat) : Mach :=
  (m.ctxs.filter (fun p => !p.2.moves.isEmpty)).foldl (fun m p => m.examine now p.1) m
/-- TT_ENTRY_START (04 R70, R71). -/
def execTtEntryStart (ctx idx : Nat) (s : State) : Out :=
  .next (runEvent s (fun now m =>
    match (m.ctx ctx).nextEntry with
    | none => m
    | some v =>
      let t := if now ≤ v.startT + 1 then v.startT else now
      if v.index == idx && m.startable ctx v then (m.startMove t ctx v).examine t ctx else m))

/-- An entry reaches the engine (04 R69, R70, R75): it may be late, and it may be one that fails at once. -/
def Mach.arrive (m : Mach) (now k : Nat) (v : Move) : Mach :=
  let x := m.ctx k
  let before := (v.index + 2 ^ 32 - 1) % 2 ^ 32
  let prev := ((x.moves.find? (fun u => u.isRing && u.index == before)).map Move.marker).getD (KMap.get 0 x.ttMks before)
  let late := m.isLate k v
  let v := { v with late := late, checked := v.checked && !late }
  let m := (m.putMove k v).modCtx k (fun x => { x with ttMks := KMap.set (x.ttMks.filter (fun p => v.isRing && p.1 != before)) v.index v.marker, ttlate := if late then min (x.ttlate + 1) (2 ^ 32 - 1) else x.ttlate })
  if v.reason != 0 then m.endAt k v now
  else if malformed v then m.failMove now k { v with state := 1 } 3
  else if v.marker < prev then m.failMove now k { v with state := 1 } 4
  else (m.putMove k { v with state := 1 }).examine now k

/-! ## Appending -/

/-- Moves that no MARK can meet are forgotten: done ones that every thread has passed, and closed ones no longer
checked. -/
def Mach.pruneMoves (m : Mach) (k : Nat) : Mach :=
  m.modCtx k (fun x => { x with moves := x.moves.filter (fun v => v.isOpen ||
    (v.checked && !(v.state == 3 && x.mkcur.all (fun p => decide (v.marker ≤ p.2))))) })
/-- One entry appended to the ring (04 R81): its image written, or, published, read back by the engine later. -/
def Mach.appendOne (m : Mach) (now r after : Nat) (img : Option (List Byte)) : Mach :=
  let k := (m.hand r).ctx
  let m := m.pruneMoves k
  let x := m.ctx k
  let i := x.ttwr
  let a := x.ttSlot i
  let v : Move := { id := m.nextId, kind := .ring i, hand := r, tid := (m.hand r).tid, cluster := clusterOf r, img := [], apT := now, after := after }
  let add := fun (m : Mach) (v : Move) =>
    (m.modCtx k (fun x => { x with ttwr := (i + 1) % 2 ^ 32, moves := x.moves ++ [v] })).bump
  match img with
  | none => add m { v with img := match m.readAt k a 32 true with | .ok bs => bs | .error _ => [] }
  | some bs =>
    match m.writeAt k a bs true with
    | .ok m' =>
      let v := { v with img := bs }
      (add m' v).arrive now k v
    | .error f =>
      let v := { v with img := bs, reason := 3, fault := f.asSlots }
      (add m v).arrive now k v
/-- The entries of the first waiting TTADD of a hand, while the ring has room; at the last one it completes: its token
enters, and the engine reads a published one's entries from the ring (04 R81). -/
def Mach.appendSome (m : Mach) (now r : Nat) : Nat → Mach
  | 0 => m
  | n + 1 =>
    match (m.hand r).ttAdds with
    | [] => m
    | t :: rest =>
      let x := m.handCtx r
      let left := if t.isPub then t.pub else t.images.length
      if left = 0 then
        let done := max now t.rel
        let m := m.modHand r (fun h => { h with ttAdds := rest })
        let m := if t.rel = 0 then m.tokenAt done r t.tok else m.issueFence r done false ⟨t.after, true, t.fabric⟩ t.tok
        let idxs := if t.isPub then (List.range (sub32 x.ttwr t.first)).map (fun j => (t.first + j) % 2 ^ 32) else []
        (idxs.foldl (fun m i => m.post done (.ttRingReadReturn (m.hand r).ctx i)) m).appendSome now r n
      else if x.ttRoom ≤ sub32 x.ttwr x.ttrd then m
      else
        let t' := if t.isPub then { t with pub := t.pub - 1 } else { t with images := t.images.drop 1 }
        let m := m.modHand r (fun h => { h with ttAdds := t' :: rest })
        (m.appendOne now r t.after (if t.isPub then none else t.images.head?)).appendSome now r n
/-- A TTADD whose images are there begins to append. -/
def Mach.beginAdd (m : Mach) (now r : Nat) (t : TtAdd) : Mach :=
  (m.modHand r (fun h => { h with ttAdds := h.ttAdds ++ [{ t with first := (m.handCtx r).ttwr }] })).appendSome now r 8194
/-- Every hand of a context goes on appending: TTRD has moved. -/
def Mach.resumeAdds (m : Mach) (now k : Nat) : Mach :=
  (m.hands.keys.filter (fun r => (m.hand r).ctx == k && !(m.hand r).ttAdds.isEmpty)).foldl
    (fun m r => m.appendSome now r 8194) m
/-- TT_RING_READ_RETURN: the ring read of a published entry begins when its TTADD completes, after its release, and returns 180 c later with
the bytes that the ring holds by then (04 R81; DESIGN CHOICE, log 121); one whose read faults fails, with bytes that the spec does not give
(log 6). -/
def execTtRingReadReturn (ctx idx : Nat) (s : State) : Out :=
  .next (runEvent s (fun now m =>
    match (m.ctx ctx).moves.find? (fun v => v.isRing && v.index == idx && v.state == 0) with
    | none => m
    | some v =>
      if (m.hand v.hand).accs.any (fun a => decide (a.id < v.after)) then m.post (now + 1) (.ttRingReadReturn ctx idx)
      else if v.askT = 0 then (m.putMove ctx { v with askT := now + 180 }).post (now + 180) (.ttRingReadReturn ctx idx)
      else if now < v.askT then m
      else match m.readAt ctx ((m.ctx ctx).ttSlot idx) 32 true with
      | .ok bs => (m.putMove ctx { v with img := bs }).arrive now ctx { v with img := bs }
      | .error f =>
        let v := { v with img := (List.range 4).flatMap (fun i => leBytes 8 (Config.freeValue (m.freeN + i)).toNat), reason := 3,
                          fault := f.asSlots }
        ({ m with freeN := m.freeN + 4 }.putMove ctx v).arrive now ctx v))

/-! ## Endings -/

/-- TTRD: the oldest entry not yet done, failed or discarded (04 R64). -/
def Mach.moveTtrd (m : Mach) (k : Nat) : Mach :=
  m.modCtx k (fun x =>
    let os := (x.moves.filter (fun v => v.isRing && v.isOpen)).map (fun v => sub32 v.index x.ttrd)
    { x with ttrd := (x.ttrd + os.foldl min (sub32 x.ttwr x.ttrd)) % 2 ^ 32 })
/-- The hand that holds a context on core 0 of a cluster. -/
def Mach.holder0 (m : Mach) (k c : Nat) : Option Nat := [8 * c, 8 * c + 1].find? (fun q => k != 0 && (m.hand q).ctx == k)
/-- A fault of a context for a cluster: recorded against the hand that holds it on core 0 there, else kept with the context (04 R74,
15 R288). -/
def Mach.homeFault (m : Mach) (k c : Nat) (f : FaultRec) : Mach :=
  match m.holder0 k c with
  | some q => m.noteFault q f
  | none => m.modCtx k (fun x => { x with kept := x.kept ++ [(c, f)] })
/-- A fault noted in the thread `tid` of a saved team. -/
def SavedTeam.note (st : SavedTeam) (tid : Nat) (f : FaultRec) : SavedTeam :=
  { st with hands := st.hands.map (fun h => if h.thread && h.tid == tid then
      (if 8 ≤ h.pending.length then { h with lost := h.lost + 1 } else { h with pending := h.pending ++ [f] }) else h) }
/-- The hand that holds thread `tid` of a context: `r`, or another that it was loaded into. -/
def Mach.threadAt (m : Mach) (k r tid : Nat) : Option Nat :=
  let mine := fun (q : Nat) => (m.hand q).thread && (m.hand q).ctx == k && (m.hand q).tid == tid
  if mine r then some r else m.hands.keys.find? mine
/-- A fault of a command of thread `tid`, issued from hand `r`: recorded against its thread, wherever it is; when that has performed EXIT,
against the hand that holds the context on core 0 of its cluster, else kept with the context (04 R74, R83). -/
def Mach.ctxFault (m : Mach) (k r tid : Nat) (f : FaultRec) : Mach :=
  match m.threadAt k r tid with
  | some q => m.recordFault q f
  | none =>
    if (m.ctx k).images.any (fun st => st.hands.any (fun h => h.thread && h.tid == tid)) then
      m.modCtx k (fun x => { x with images := x.images.map (fun st => st.note tid f) })
    else m.homeFault k (clusterOf r) f
/-- The faults kept for a cluster recorded against the hand that now holds the context on its core 0 (04 R74, 15 R288). -/
def Mach.deliverKept (m : Mach) (k : Nat) : Mach :=
  (m.ctx k).kept.foldl (fun m p => match m.holder0 k p.1 with
    | none => m
    | some q => (m.recordFault q p.2).modCtx k (fun x => { x with kept := x.kept.erase p })) m
/-- The status record of a ring entry (04 R74); where no shard has failed, the index of the first one is a value that the spec does not
give (log 6). -/
def Mach.writeStatus (m : Mach) (now k : Nat) (v : Move) : Mach :=
  let st := match v.state with | 3 => if v.late then 4 else 1 | 4 => 2 | 5 => 3 | _ => 5
  let a := (m.ctx k).ttStat v.index
  let bs := leBytes 8 now ++ leBytes 1 st ++ leBytes 1 v.reason ++ leBytes 1 v.slotUsed ++ leBytes 1 v.bad
    ++ leBytes 4 (v.firstBad.getD (bits (Config.freeValue m.freeN) 0 32).toNat)
  let m := if v.firstBad.isNone then { m with freeN := m.freeN + 1 } else m
  match m.writeAt k a bs true with
  | .ok m' => m'
  | .error f => m.ctxFault k v.hand v.tid f
/-- The fields of a schedule-miss record (04 R77). -/
def Move.missSlots (v : Move) (reason : Nat) : List W64 :=
  [slotN v.index, slotN (if v.isRing then v.marker else 0xFFFFFFFF)] ++ v.slotSt.map slotN
    ++ (if reason = 3 || reason = 4 then v.fault else [])
/-- The end of a speculative fetch at its entry of the speculation table, while that opening stands (14 R276). -/
def Mach.endSpec (m : Mach) (v : Move) (e o : Nat) : Mach :=
  m.modCluster v.cluster (fun x =>
    let t := KMap.get {} x.spt e
    if !t.open_ || t.opening != o then x
    else
      let np := t.npend - 1
      let t := if v.state = 3 then { t with npend := np, fst := if np = 0 && t.fst != 3 then 2 else t.fst }
        else { t with npend := np, fst := 3, failRec := if t.failRec.isEmpty then
          [slotN (0x11 + 256 * (v.reason + 1))] ++ v.missSlots (v.reason + 1) else t.failRec }
      { x with spt := x.spt.set e t })
/-- A request's token (04 R80): the word's target, or the image's. -/
def Move.token (v : Move) : Nat := if v.push != 0 then v.push else nbits (field v.img 6 2) 4 3
/-- A completion token applied by the context agent to the token FIFO in a gang image, where a place or a pending token is
counted (15 R302, 19 R376). -/
def Mach.agentToken (m : Mach) (k c core f : Nat) (img : W64) : Mach :=
  let a := img + BitVec.ofNat 64 (294912 * core + 3392 + 8 * (f - 1))
  match m.span k a 8 false false with
  | .error _ => m
  | .ok l =>
    let bs := m.readSpan l
    let n := field bs 0 4
    let p := field bs 4 4
    match m.writeAt k a (if 16 ≤ n then leBytes 4 n ++ leBytes 4 (p + 1) else leBytes 4 (n + 1) ++ leBytes 4 p) false with
    | .ok m' => m'.countErrors c (l.map (·.1))
    | .error _ => m
/-- The image that holds thread `tid` of a context, and its core there. -/
def Ctx.imageOf (x : Ctx) (tid : Nat) : Option (SavedTeam × Nat) :=
  x.images.findSome? (fun st => (st.hands.zipIdx.find? (fun h => h.1.thread && h.1.tid == tid)).map (fun h => (st, h.2)))
/-- A completion token for a thread that issued its command in hand `r`: in its hand, or in the image that holds it. -/
def Mach.tokenFor (m : Mach) (now k r tid f : Nat) : Mach :=
  if f = 0 then m
  else match m.threadAt k r tid, (m.ctx k).imageOf tid with
    | some q, _ => m.pushToken now q f
    | none, some p => m.agentToken k (p.1.team / 2) p.2 f p.1.at_
    | none, none => m
/-- The TTCLRs that wait for a move (04 R82). -/
def Mach.clrDone (m : Mach) (now k id : Nat) : Mach :=
  let ws := (m.ctx k).clrWaits.map (fun w => (w.1, w.2.1, w.2.2.1, w.2.2.2.erase id))
  let m := m.modCtx k (fun x => { x with clrWaits := ws.filter (fun w => !w.2.2.2.isEmpty) })
  (ws.filter (fun w => w.2.2.2.isEmpty)).foldl (fun m w => m.tokenFor now k w.1 w.2.1 w.2.2.1) m
/-- A MOVE ENDS: done (3), failed (4), discarded (5) or killed (6). Its places are free; a ring entry moves TTRD and writes
its status record; a request reports as R83, R84 and R276 say. -/
def Mach.endMove (m : Mach) (now k : Nat) (v : Move) (st : Nat) : Mach :=
  let m := if v.state = 2 then v.dies.foldl (fun m d => m.modDie d.1 (fun x => x.place d.2 false)) m else m
  let v := { v with state := st }
  let m := m.putMove k v
  let m := match v.kind with
    | .ring _ => (m.moveTtrd k).writeStatus now k v
    | .tierq =>
      if 5 ≤ st then m
      else
        let m := if st = 4 then m.ctxFault k v.hand v.tid ⟨0x11, 8, v.missSlots 8⟩ else m
        m.tokenFor now k v.hand v.tid v.token
    | .wpf _ => if 5 ≤ st then m else m.tokenFor now k v.hand v.tid v.token
    | .spec _ e o => if 5 ≤ st then m else (m.endSpec v e o).tokenFor now k v.hand v.tid v.token
  let m := match v.kind with
    | .ring _ => m
    | .wpf _ => m
    | _ => m.modCtx k (fun x => { x with moves := x.moves.filter (fun u => u.id != v.id) })
  m.clrDone now k v.id
/-- What follows an ending: room in the ring, places and markers are looked at again. -/
def Mach.afterEnd (m : Mach) (now k : Nat) : Mach := (m.resumeAdds now k).examineAll now
/-- The end event of a move: it has failed, its current local shard has been read and is written at its banks, or one from a peer is (06
R116), it is stopped by a kill at this shard boundary, or it waits for a peer (04 R72, R73, R87). -/
def Mach.moveEnd (m : Mach) (now id : Nat) : Mach :=
  match m.findMove id with
  | none => m
  | some (k, v) =>
    if !v.isOpen || now < v.endT || (v.asked && v.reason == 0) then m
    else if v.reason != 0 then (m.endMove now k v (if v.killed then 6 else 4)).afterEnd now k
    else match v.got with
    | some bs => m.atBanks now v.endEvent (m.shardKeys k v) false (fun m =>
        let r := m.landShard k { v with got := none } v.slotNow bs
        if r.2.reason != 0 then r.1.endAt k r.2 now else r.1.goMove now k r.2)
    | none =>
      let reads := !(v.shardLen = 0 || v.runSlot = 4)
      m.atBanks now v.endEvent (if reads then v.src.map (·.1) ++ m.shardKeys k v else []) false (fun m =>
        let r := if reads then m.localShard k v v.runSlot else (m, v)
        let m := r.1
        let v := r.2
        if v.killed then (m.endMove now k v 6).afterEnd now k
        else if v.reason != 0 then (m.endMove now k v 4).afterEnd now k
        else if v.len ≤ 1048576 * v.shard then (m.endMove now k v 3).afterEnd now k
        else m.goMove now k v)
/-- TT_ENTRY_END (04 R73, R74). -/
def execTtEntryEnd (mv : Nat) (s : State) : Out := .next (runEvent s (fun now m => m.moveEnd now mv))
/-- TIER_REQUEST_END (04 R83, R84). -/
def execTierRequestEnd (mv : Nat) (s : State) : Out := .next (runEvent s (fun now m => m.moveEnd now mv))
/-- SPEC_FETCH_END (14 R276). -/
def execSpecFetchEnd (mv : Nat) (s : State) : Out := .next (runEvent s (fun now m => m.moveEnd now mv))
/-- TIER_SHARD_ARRIVAL: a shard that a peer was asked for, checked with its CRC and written at its banks (04 R72). -/
def execTierShardArrival (mv : Nat) (peer : List Byte) (crc : W64) (s : State) : Out :=
  .next (runEvent s (fun now m =>
    match m.findMove mv with
    | none => m
    | some (k, v) =>
      if v.state != 2 || !v.asked then m
      else if crc64 peer != crc || peer.length != v.shardLen then m.goMove now k { v.slotFails v.slotNow 2 with asked := false }
      else (m.putMove k { v with got := some peer, asked := false, endT := now }).moveEnd now mv))
/-- TIER_SHARD_TIMEOUT: the shard is missing (04 R72). -/
def execTierShardTimeout (mv : Nat) (s : State) : Out :=
  .next (runEvent s (fun now m =>
    match m.findMove mv with
    | none => m
    | some (k, v) =>
      if v.state != 2 || !v.asked || now < v.askT + 52500 then m
      else m.goMove now k { v.slotFails v.slotNow 3 with asked := false }))

/-- A killed context's moves: unstarted ones are discarded, started ones stop at their next shard boundary (04 R87). -/
def Mach.killMoves (m : Mach) (now k : Nat) : Mach :=
  let vs := (m.ctx k).moves.filter (fun v => decide (v.state ≤ 1))
  let m := vs.foldl (fun m v => m.endMove now k v 6) (m.modCtx k (fun x => { x with clrWaits := [] }))
  m.modCtx k (fun x => { x with moves := (x.moves.filter (fun v => v.state == 2)).map (fun v => { v with killed := true }) })
/-- Is an entry one of those from TTRD up to TTWR? -/
def Ctx.inRing (x : Ctx) (v : Move) : Bool := v.isRing && decide (sub32 v.index x.ttrd < sub32 x.ttwr x.ttrd)
/-- The unstarted entries of the ring discarded (04 R65, R82). -/
def Mach.discardUnstarted (m : Mach) (now k : Nat) : Mach :=
  let x := m.ctx k
  (x.moves.filter (fun v => x.inRing v && decide (v.state ≤ 1))).foldl (fun m v => m.endMove now k v 5) m
/-- Every entry from TTRD up and every WPF request is no longer checked; unstarted entries are discarded (04 R82). -/
def Mach.clearMoves (m : Mach) (now k : Nat) : Mach :=
  (m.modCtx k (fun x => { x with moves := x.moves.map (fun v =>
    if x.inRing v || (match v.kind with | .wpf _ => true | _ => false) then { v with checked := false } else v) })).discardUnstarted now k

/-! ## MARK -/

/-- E of a MARK with bound `n` performed from cycle `t` on: ring entries in index order, then WPF requests (04 R76); an
entry appended in the vc of the MARK is not in it (R86). A request is checked in its issuing cluster (R84). -/
def Mach.markSet (m : Mach) (r n t : Nat) : List Move :=
  let x := m.handCtx r
  let cur := x.mkOf r
  let due := x.moves.filter (fun v => v.checked && v.state != 5 && v.state != 6 && decide (cur < v.marker) &&
    decide (v.marker ≤ n) && (if v.isRing then v.dst == clusterOf r || v.dst == 0x7F else v.cluster == clusterOf r) && decide (v.apT < t))
  due.filter Move.isRing ++ due.filter (fun v => match v.kind with | .wpf _ => true | _ => false)
/-- The schedule-miss reason of a move that has failed or is not complete (04 R77, R84). -/
def Move.missReason (v : Move) : Nat :=
  if v.state != 4 then 1 else if v.isRing then v.reason + 1 else 8
/-- The schedule-miss that a move raises with a reason. -/
def Move.miss (v : Move) (reason : Nat) : Option Stop := trapOf 0x11 reason (v.missSlots reason)
/-- The strict test of E: the first failed or incomplete entry misses (04 R76). -/
def strictStop : List Move → Option Stop
  | [] => none
  | v :: t => if v.state = 3 then strictStop t else v.miss v.missReason
/-- The wait test of E: the first failed entry misses; with one incomplete the MARK freezes (04 R76). -/
def waitStop (started : Bool) (es : List Move) : Option Stop :=
  match es.find? (fun v => v.state == 4) with
  | some v => v.miss v.missReason
  | none => if es.all (fun v => v.state == 3) then none else if started then some (.freeze 10 0) else some (.start 10)
/-- The strict test in replay: the records decide, and one of a done entry waits for it (21 R399). -/
def replayStop : List Move → List (Nat × LogRec) → Option Stop
  | [], _ => none
  | v :: t, (_, q) :: qs =>
    let b := (bits q.b 0 8).toNat
    if b != 0 then v.miss b
    else if v.state = 3 then replayStop t qs else some (.freeze 10 0)
  | v :: t, [] => if v.state = 3 then replayStop t [] else v.miss v.missReason
/-- How many outcomes a strict MARK gives: up to the first miss. -/
def outcomes (es : List Move) : Nat := min es.length ((es.takeWhile (fun v => v.state == 3)).length + 1)
/-- The records of kind 3 that a replayed thread has yet to use. -/
def Mach.markRecs (m : Mach) (r : Nat) : List (Nat × LogRec) :=
  (m.logLeft (m.partOf r)).filter (fun x => x.2.kind == 3 && x.2.who == coreHand (some r))
/-- The outcomes of a strict MARK recorded, or the records of a replayed one used; one without a record diverges (21 R398, R399, R401). -/
def Mach.noteMark (m : Mach) (now r : Nat) (es : List Move) : Mach :=
  let p := m.partOf r
  match (m.part p).rpMode with
  | 1 => (es.take (outcomes es)).foldl (fun m v => m.logInput now p 3 (some r) (slotN v.index)
      (slotN (if v.state = 3 then 0 else v.missReason))) m
  | 2 =>
    let recs := m.markRecs r
    let n := ((recs.take es.length).takeWhile (fun q => bits q.2.b 0 8 == 0)).length
    let m := (recs.take (min es.length (n + 1))).foldl (fun m q => m.useNext now p q.1) m
    if recs.length < es.length && recs.length ≤ n then m.diverge p (m.part p).rpr else m
  | _ => m
/-- Has the log no room for the outcomes of a MARK (21 R398)? -/
def Mach.markFull (m : Mach) (r n : Nat) : Bool :=
  (m.part (m.partOf r)).noRoom n
/-- Entries that came in the vc of a MARK may now be late: every thread has passed them (04 R86). -/
def Mach.lateAfter (m : Mach) (k t : Nat) : Mach :=
  (m.ctx k).moves.foldl (fun m v =>
    if v.isRing && v.isOpen && v.state != 0 && !v.late && v.checked && decide (t ≤ v.apT) && m.isLate k v then
      (m.putMove k { v with late := true, checked := false }).modCtx k (fun x => { x with ttlate := min (x.ttlate + 1) (2 ^ 32 - 1) })
    else m) m
/-- The bound n of a MARK (04 R76). -/
def markBound (w : N) (cur : Nat) : Nat := (bits w.imm 0 32).toNat + (if bit w.mod 2 then cur else 0)
/-- MARK (04 R76): precise, performed once when the last engine arrives. -/
def execMark (w : N) (s : State) : Out :=
  .next (runRv s (.mark w) (fun x m =>
    let h := m.hand x.r
    let y := m.handCtx x.r
    let cur := y.mkOf x.r
    let n := markBound w cur
    let t := if h.stage = 0 then x.now else h.stageT
    let es := m.markSet x.r n t
    let strict := !bit w.mod 3 && !bit (y.reg 0x109) 8
    let go := decide (cur < n)
    let replay := (m.part (m.partOf x.r)).rpMode == 2
    let stop := if !go then none
      else if strict then (if replay then replayStop es (m.markRecs x.r) else strictStop es)
      else waitStop (h.stage != 0) es
    { own := firstStop [trapIf (bit w.mod 2 && decide (0xFFFFFFFF < n)) 0x11 6
          [slotN 0xFFFFFFFF, slotN 0xFFFFFFFF, 0, 0, 0, 0],
        freezeIf (go && strict && m.markFull x.r (outcomes es)) 12,
        match stop with | some (.trap _) => none | o => o]
      -- TTMISS and TTLATE stop at their highest value (DESIGN CHOICE, log 98)
      wait := fun m' => m'.modCtx h.ctx (fun z => { z with ttmiss := min (z.ttmiss + 1) (2 ^ 32 - 1) })
      eff := fun m' =>
        let m1 := if go && strict then m'.noteMark x.now x.r es else m'
        match stop with
        | some (.trap f) => (m1.setHand x.r h).trap x.now x.r { f := f, word := (encode (.mark w)).getD 0 }
        | _ =>
          if !go then m1
          else ((m1.modCtx h.ctx (fun z => { z with mkcur := z.mkcur.set x.r n })).lateAfter h.ctx t).examineAll x.now }))

/-! ## TTADD, TTCLR, TIERQ, WPF -/

/-- The checks of R81 and R83 on `n` images at A[desc]. -/
def imageStop (m : Mach) (x : At) (w : AC) (n : Nat) : Option Stop :=
  let a := (m.hand x.r).areg w.desc.toNat
  firstStop [trapIf (a.toNat % 32 != 0) 6 0 [a], m.spanStop x.r a (32 * n) false]
/-- The checks of R81 on the ring slots that `n` indices name; the tier engine's own path checks them, in no time that the
core waits (26 R411, checkpoint 2). -/
def ringStop (m : Mach) (x : At) (n : Nat) (wr : Bool) : Option Stop :=
  let y := m.handCtx x.r
  let cap := 2 ^ y.ttCap
  let n := min n cap
  let o := y.ttwr % cap
  let k := min n (cap - o)
  let chk := fun (a : W64) (b : Nat) => match m.span (m.hand x.r).ctx a b wr true with
    | .error f => some (Stop.trap f)
    | .ok _ => none
  firstStop [chk (y.ttSlot y.ttwr) (32 * k), chk (y.ttSlot 0) (32 * (n - k))]
/-- Behind what a command's reads stand: with an acquire the thread's older accesses, else those before its latest FENCE .rel (18 R348,
R350). -/
def readAfter (m : Mach) (x : At) (w : AC) : Nat := if w.acq then m.nextId else (m.hand x.r).relAt
/-- The images at A[desc] read through the load queue (04 R81), for the request or TTADD that `res` describes. -/
def readImages (m : Mach) (x : At) (w : AC) (n kind reg res : Nat) (m' : Mach) : Mach :=
  let a := (m.hand x.r).areg w.desc.toNat
  let ks := (List.range n).map (fun i => m.keyOf x.r (a + BitVec.ofNat 64 (32 * i)) 32 false)
  m'.enqueue x.now x.r { id := 0, hand := x.r, isLoad := true, op := .img kind, keys := ks, rows := [], reg := reg,
                         push := acTok w, res := res, after := readAfter m x w } (rowStarts a (32 * n))
/-- The TTADDs of a hand whose images are still on their way. -/
def Hand.addsAhead (h : Hand) : List Access := h.accs.filter (fun a => a.op == .img 0)
/-- The TTADD of a word, without images: its release, by when that is nominally done, and behind what its entries start (04 R81, 18
R350). -/
def addOf (m : Mach) (x : At) (w : AC) : TtAdd :=
  { rel := if w.rel then max 1 ((m.hand x.r).releasedBy x.now) else 0, fabric := w.scope == 3, tok := acTok w,
    after := if w.rel then m.nextId else readAfter m x w }

/-- TTADD (04 R81). One that publishes reads no image: it begins at once, unless an acquire or an earlier TTADD holds it back. -/
def execTtadd (w : AC) (s : State) : Out :=
  .next (runWord s .a (.ttadd w) w.hdr (fun x m =>
    let h := m.hand x.r
    let n := (bits w.imm 0 13).toNat
    let pub := bit w.imm 23
    let t := addOf m x w
    { own := firstStop [trapIf ((m.handCtx x.r).ttCap == 0) 0x11 7 [slotN 0xFFFFFFFF, slotN 0xFFFFFFFF, 0, 0, 0, 0],
        (if pub then none else firstStop [h.needA w.desc.toNat, imageStop m x w n]), ringStop m x n (!pub),
        (if pub then none else h.lsFull x.now true)]
      eff := fun m' =>
        if !pub then readImages m x w n 0 n 0 (m'.modHand x.r (fun h => { h with ttWait := h.ttWait ++ [(m'.nextId, t)] }))
        else if h.addsAhead.isEmpty && !h.held m.nextId (readAfter m x w) && decide (h.accHold ≤ x.now) then
          m'.beginAdd x.now x.r { t with images := [], pub := n, isPub := true }
        else (m'.modHand x.r (fun h => { h with ttWait := h.ttWait ++ [(m'.nextId, { t with pub := n, isPub := true })] })).enqueue x.now x.r
          { id := 0, hand := x.r, isLoad := true, op := .img 0, keys := [], rows := [], after := readAfter m x w } [] }))

/-- TTCLR (04 R82). -/
def execTtclr (w : AC) (s : State) : Out :=
  .next (runWord s .a (.ttclr w) w.hdr (fun x m =>
    let k := (m.hand x.r).ctx
    { eff := fun m' =>
        let m1 := m'.clearMoves x.now k
        let y := m1.ctx k
        let run := (y.moves.filter (fun v => v.isRing && v.state == 2)).map (·.id)
        let m2 := if run.isEmpty then m1.pushToken x.now x.r (acTok w)
          else m1.modCtx k (fun z => { z with clrWaits := z.clrWaits ++ [(x.r, (m.hand x.r).tid, acTok w, run)] })
        ((m2.resumeAdds x.now k).pruneMoves k).examineAll x.now }))

/-- The TIERQ and WPF requests of a hand's thread that have not ended (04 R85). -/
def Mach.requests (m : Mach) (r : Nat) : Nat :=
  let h := m.hand r
  ((m.ctx h.ctx).moves.filter (fun v => v.tid == h.tid && v.isOpen && !v.isRing)).length
/-- The checks common to TIERQ and WPF (04 R83 to R85). -/
def requestStop (m : Mach) (x : At) (w : AC) (more : Option Stop) : Option Stop :=
  firstStop [(m.hand x.r).needA w.desc.toNat, more, imageStop m x w 1, freezeIf (decide (8 ≤ m.requests x.r)) 9,
    (m.hand x.r).lsFull x.now true]
/-- A request made at its issue, in order of issue (04 R76, R84); its image is read through the load queue. -/
def makeRequest (m : Mach) (x : At) (w : AC) (kind : MoveKind) (m' : Mach) : Mach :=
  let h := m.hand x.r
  let v : Move := { id := m'.nextId, kind := kind, hand := x.r, tid := h.tid, cluster := clusterOf x.r, img := [], push := acTok w, state := 0,
                    apT := x.now, after := if w.rel then m.nextId else readAfter m x w }
  readImages m x w 1 1 0 v.id ((m'.modCtx h.ctx (fun y => { y with moves := y.moves ++ [v] })).bump)
/-- TIERQ (04 R83). -/
def execTierq (w : AC) (s : State) : Out :=
  .next (runWord s .a (.tierq w) w.hdr (fun x m =>
    { own := requestStop m x w none, eff := makeRequest m x w .tierq }))
/-- WPF (04 R84). Its marker is MKCUR + d also past 2^32 - 1, where no MARK reaches it (DESIGN CHOICE, log 122). -/
def execWpf (w : AC) (s : State) : Out :=
  .next (runWord s .a (.wpf w) w.hdr (fun x m =>
    { own := requestStop m x w none
      eff := makeRequest m x w (.wpf ((m.handCtx x.r).mkOf x.r + (bits w.imm 0 12).toNat)) }))
/-- An entry of the speculation table with one more fetch pending (14 R276). -/
def Spte.fetching (t : Spte) : Spte := { t with npend := t.npend + 1, fst := if t.fst = 3 then 3 else 1 }
/-- WPF.spec (14 R276): the entry must be OPEN for the context; its NPEND and FST are raised at issue. -/
def execWpfSpec (w : AC) (s : State) : Out :=
  .next (runWord s .a (.wpfSpec w) w.hdr (fun x m =>
    let e := (bits w.imm 15 8).toNat
    let c := clusterOf x.r
    let t := KMap.get {} (m.cluster c).spt e
    { own := requestStop m x w (trapIf (!t.open_ || t.ctx != (m.hand x.r).ctx) 1 8)
      eff := fun m' => makeRequest m x w (.spec ((m.handCtx x.r).mkOf x.r + (bits w.imm 0 12).toNat) e t.opening)
        (m'.modCluster c (fun y => { y with spt := y.spt.set e t.fetching })) }))

/-! ## Images at the bank -/

/-- A request whose image has been read reaches the engine (04 R83, R84); one that was discarded by then is gone. -/
def Mach.beginRequest (m : Mach) (now id : Nat) (img : List Byte) : Mach :=
  match m.findMove id with
  | none => m
  | some (k, v) =>
    if v.state != 0 then m
    else
      let v := { v with img := img, state := 1 }
      let m := m.putMove k v
      if badRequest v then m.failMove now k v 3 else m.examineAll now
/-- An image access performed: what its command does with the bytes. -/
def Mach.imageReturn (m : Mach) (now r : Nat) (a : Access) (kind : Nat) : Mach :=
  let older := ((m.hand r).accs.takeWhile (fun b => b.id != a.id)).any (fun b => b.op == a.op)
  if kind = 0 && older then m.post (now + 1) (.bankAccess a.id)
  else
    let imgs := a.keys.map (fun k => m.readRow k 32)
    let m := ((m.modHand r (fun h => { h with accs := h.accs.filter (fun b => b.id != a.id) })).countErrors
      (clusterOf r) a.keys).noteUE r a.keys
    match kind with
    | 0 =>
      match (m.hand r).ttWait.find? (fun q => q.1 == a.id) with
      | none => m
      | some q =>
        (m.modHand r (fun h => { h with ttWait := h.ttWait.filter (fun q => q.1 != a.id) })).beginAdd now r
          (if q.2.isPub then q.2 else { q.2 with images := imgs })
    | _ => m.beginRequest now a.res (imgs.headD [])
/-- The contexts' engines look again: an access that some entry waited behind has been performed (18 R350). -/
def Mach.wakeMoves (m : Mach) (now r : Nat) : Mach :=
  (m.ctxs.filter (fun p => p.2.moves.any (fun v => v.hand == r && v.state == 1 && v.after != 0))).foldl (fun m p => m.examine now p.1) m
end Sys2Proof.Machine
end

