-- ==== Sys2Proof/Machine/Copy.lean ====
section
/-! DEFINITION. Stream registers (05 R88, R89) and the copy engine (R90 to R111): descriptors and what makes them
malformed, the loop nest and its stages, CPY, CPYQ, CPYK, status records and faults, and the accesses at a bank that read
or write images. -/

namespace Sys2Proof.Machine

/-! ## Stream registers -/

/-- A field of a stream register. -/
def stField (st : BitVec 256) (lo len : Nat) : Nat := (bits st lo len).toNat
/-- Does a stream image break R88, as R89 lists it? An SBASE with BLK = 0 is not in that list and is accepted (DESIGN CHOICE, log 100). -/
def stBad (s : BitVec 256) : Bool :=
  let ty := stField s 112 4
  let k := stField s 96 16
  let nf := bit s 119
  stField s 123 5 != 0 || k == 0 || 1024 < k
    || (if nf then ty != 0 else !(ty == 0 || ty == 1 || ty == 6 || ty == 7))
    || (stField s 120 2 != 0 && !nf) || bit s 63 || bit s 191
    || stField s 224 32 % 128 != 0 || (stField s 224 32 != 0 && !bit s 122)

/-- The image at A[desc] that STSET reads or STGET writes: its checks (05 R89). -/
def streamStop (m : Mach) (x : At) (w : AC) (wr : Bool) : Option Stop :=
  let h := m.hand x.r
  let a := h.areg w.desc.toNat
  firstStop [h.needA w.desc.toNat, trapIf (a.toNat % 32 != 0) 6 0 [a], m.xlStop x.r a 32 wr, h.lsFull x.now (!wr)]
/-- STSET (05 R89). -/
def execStset (w : AC) (s : State) : Out :=
  .next (runWord s .a (.stset w) w.hdr (fun x m =>
    let a := (m.hand x.r).areg w.desc.toNat
    { own := streamStop m x w false
      eff := fun m' => m'.enqueue x.now x.r
        { id := 0, hand := x.r, isLoad := true, op := .img 4, keys := [m.keyOf x.r a 32 false], rows := [],
          reg := w.stream.toNat, push := acTok w, vas := [a] } [a] }))
/-- STGET (05 R89). -/
def execStget (w : AC) (s : State) : Out :=
  .next (runWord s .a (.stget w) w.hdr (fun x m =>
    let h := m.hand x.r
    let a := h.areg w.desc.toNat
    { own := streamStop m x w true
      eff := fun m' => m'.enqueue x.now x.r
        { id := 0, hand := x.r, isLoad := false, op := .img 9, keys := [m.keyOf x.r a 32 true], rows := [],
          data := (h.streg w.stream.toNat).zeroExtend 1024, push := acTok w, vas := [a] } [a] }))

/-- The copy-fault of a sequence number: its indices i5 to i0, the address, and an inner record (05 R107). -/
def copyFault (reason seq : Nat) (idx : List Nat) (addr : W64) (inner : List W64) : FaultRec :=
  ⟨0x13, reason, slotN seq :: (idx.reverse.map slotN) ++ addr :: inner⟩
/-- STSET_IMAGE_RETURN: 1 c after the load path returns the register takes all 256 bits and the token is pushed; a malformed
image records copy-fault (05 R89). The access carries the image as its data. -/
def execStsetImageReturn (r id : Nat) (s : State) : Out :=
  .next (runEvent s (fun now m =>
    match (m.hand r).accs.find? (fun a => a.id == id) with
    | none => m
    | some a =>
      let m := m.modHand r (fun h => { h with accs := h.accs.filter (fun b => b.id != id) })
      let img : BitVec 256 := bits a.data 0 256
      if stBad img then m.recordFault r (copyFault 1 0 [0, 0, 0, 0, 0, 0] (a.vas.headD 0) [])
      else (m.modHand r (fun h => { h with st := h.st.set a.reg img })).pushToken now r a.push))
/-- The image access of a stream register or a timetable command performed (05 R89, 04 R81). -/
def Mach.imageAccess (m : Mach) (now r : Nat) (a : Access) (kind : Nat) : Mach :=
  match kind with
  | 9 => ((m.modHand r (fun h => { h with accs := h.accs.filter (fun b => b.id != a.id) })).doStore a).pushToken now r a.push
  | 4 =>
    let img := m.readRow (a.keys.headD 0) 32
    (((m.countErrors (clusterOf r) a.keys).noteUE r a.keys).modHand r (fun h => { h with accs := h.accs.map (fun b =>
      if b.id == a.id then { b with data := BitVec.ofNat 1024 (leNat img) } else b) })).post (now + 1) (.stsetImageReturn r a.id)
  | _ => m.imageReturn now r a kind
/-- BANK_ACCESS: an access performed at its banks or controller, each bank serving one in a cycle (06 R116), or sent to its peer
(15 R286). -/
def execBankAccess (id : Nat) (s : State) : Out :=
  .next (runEvent s (fun now m =>
    match m.findAcc id with
    | none => m
    | some (r, a) =>
      if a.sent then m
      else if m.accessWaits now r a || m.banksBusy now a.banks then m.post (now + 1) (.bankAccess id)
      else
        let m := m.useBanks now a.banks
        (match a.op with
        | .img k => m.imageAccess now r a k
        | .peerW _ | .peerR => m.toPeer r a
        | _ => (m.noteArrivals now a.arrivals).bankAccess now r a).wakeMoves now r))

/-! ## Descriptors -/

/-- A level of the loop nest (05 R90). -/
structure Level where
  dstr : Int
  sstr : Int
  limit : Nat
  cnt : Nat
  deriving DecidableEq, Repr

/-- The levels of a descriptor, level 0 first. -/
def Copy.levels (c : Copy) : List Level :=
  (List.range 6).map (fun l =>
    let v := field c.desc (44 + 14 * l) 14
    ⟨sext 36 (nbits v 76 36), sext 36 (nbits v 40 36), nbits v 20 20, nbits v 0 20 + 1⟩)
/-- The microword (05 R93). -/
def Copy.mw (c : Copy) : Nat := field c.desc 16 8
/-- A bit of the microword. -/
def Copy.on (c : Copy) (b : Nat) : Bool := c.mw.testBit b
/-- SRC and DST. -/
def Copy.src (c : Copy) : W64 := BitVec.ofNat 64 (field c.desc 0 8)
/-- DST. -/
def Copy.dst (c : Copy) : W64 := BitVec.ofNat 64 (field c.desc 8 8)
/-- The unit size in bytes. -/
def Copy.usz (c : Copy) : Nat := field c.desc 40 2 + 1
/-- The bytes of a wide type code: bf16, f16 or f32. -/
def wideBytes (t : Nat) : Nat := if t = 8 then 4 else 2
/-- The wide type of CONV. -/
def Copy.wide (c : Copy) : Nat := nbits c.mw 7 4
/-- The elements of a unit under CONV (05 R95). -/
def Copy.convN (c : Copy) : Nat := c.usz / wideBytes c.wide
/-- The narrow format. -/
def Copy.narrow (c : Copy) : FFmt := qFmt c.qreg
/-- The block size of CONV, N where there are no blocks (05 R95). -/
def Copy.blk (c : Copy) : Nat := match nbits c.mw 5 2 with | 0 => c.convN | 1 => 16 | 2 => 32 | _ => 64
/-- The bytes of a narrow unit (05 R95). -/
def Copy.narrowLen (c : Copy) : Nat :=
  c.convN * c.narrow.width / 8 + (if nbits c.mw 5 2 = 0 then 0 else c.convN / c.blk)
/-- The bytes of a unit at its source. -/
def Copy.inLen (c : Copy) : Nat := if c.on 15 && !c.on 14 then c.narrowLen else c.usz
/-- The element size of ZCMP. -/
def Copy.zsz (c : Copy) : Nat := if c.on 34 then 2 else 1
/-- The element size of TRANS. -/
def Copy.tsz (c : Copy) : Nat := 2 ^ nbits c.mw 21 2
/-- The bytes of a unit at its destination (05 R94). -/
def Copy.outLen (c : Copy) : Nat :=
  if c.on 15 && c.on 14 then c.narrowLen else if c.on 35 then c.usz / 2 + c.usz / c.zsz / 8 else c.usz
/-- The units of a copy. -/
def Copy.units (c : Copy) : Nat := c.levels.foldl (fun a l => a * l.cnt) 1
/-- The number of the next unit in emission order. -/
def Copy.unitNo (c : Copy) : Nat := (List.zip c.levels c.idx).reverse.foldl (fun a p => a * p.1.cnt + p.2) 0
/-- The bytes of the validity mask, whole 128-byte rows (05 R99). -/
def Copy.maskLen (c : Copy) : Nat := if c.on 27 && c.on 26 then (c.units + 1023) / 1024 * 128 else 0
/-- TE (05 R99). -/
def Copy.te (c : Copy) : W64 :=
  let top := c.levels.foldl (fun a l => a + ((l.cnt : Int) - 1) * l.dstr) 0 + (c.outLen : Int)
  c.dst + w64 (128 * ((top + 127) / 128))
/-- The sequencer cycles of one unit and of the whole copy (05 R105). -/
def Copy.unitCyc (c : Copy) : Nat := max 1 ((c.outLen + 127) / 128)
/-- STAT (05 R90). -/
def Copy.stat (c : Copy) : Bool := field c.desc 43 1 % 2 == 1
/-- N_c (05 R105). -/
def Copy.cycles (c : Copy) : Nat :=
  c.units * c.unitCyc + c.maskLen / 128 + (if c.on 31 && c.on 30 then 1 else 0) + (if c.stat then 1 else 0)
/-- The stage latency S (05 R94). -/
def Copy.stageLat (c : Copy) : Nat :=
  let n := fun b (t : Nat) => if c.on b then t else 0
  n 31 2 + n 27 1 + n 39 4 + n 15 4 + n 23 (2 * ((c.levels.map (·.cnt)).headD 1)) + n 35 3 + n 47 1

/-- The clusters that BCAST names (05 R98). -/
def Copy.bcast (c : Copy) : List Nat :=
  (List.range (nbits c.mw 44 3 + 1)).map (fun i => sliceCluster c.dst + i * nbits c.mw 40 4)
/-- Does a descriptor break R90 to R99, or does a route not fit it (R101)? -/
def Copy.bad (m : Mach) (k : Nat) (c : Copy) : Bool :=
  let w := c.mw
  let ctl := field c.desc 42 1
  let conv := c.on 15
  let ls := c.levels
  let l0 := ls.headD ⟨0, 0, 0, 1⟩
  let tE := c.usz / c.tsz
  ctl / 128 != 0 || nbits ctl 4 3 == 7 || field c.desc 43 1 / 2 != 0
    || nbits w 48 16 != 0 || nbits w 32 2 != 0 || nbits w 28 2 != 0 || nbits w 24 2 != 0 || nbits w 16 5 != 0 || nbits w 0 5 != 0
    || c.usz % 4 != 0
    || (!c.on 27 && ls.any (fun l => l.limit != 0))
    || (c.on 23 && (nbits w 21 2 == 3 || decide (128 < l0.cnt) || decide (128 < tE) || l0.dstr ≤ 0
          || decide (l0.dstr < (l0.cnt * c.tsz : Nat))))
    || (c.on 23 && conv && (c.on 14 || c.tsz != wideBytes c.wide))
    || (c.on 35 && (conv || c.on 23 || c.on 39 || c.usz % 64 != 0))
    || (c.on 39 && (decide (2 < nbits w 36 3) || (conv && nbits w 36 3 != (match c.wide with | 8 => 0 | 6 => 1 | _ => 2))))
    || (conv && (c.wide < 6 || 8 < c.wide || c.usz % wideBytes c.wide != 0 || c.convN * c.narrow.width % 8 != 0
          || c.convN % c.blk != 0))
    || (c.on 47 && (nbits w 40 4 == 0 || bit c.dst 63 || c.bcast.any (fun q => !m.inPart k q)))
    || (c.on 27 && c.on 26 && (ls.any (fun l => l.dstr < 0) || decide (2 ^ 20 < c.units)))
    || (c.route.isSome && (c.on 47 || bit c.dst 63))

/-! ## Units -/

/-- Offset of the current unit on one side. -/
def Copy.offset (c : Copy) (stride : Level → Int) : Int :=
  (List.zip c.levels c.idx).foldl (fun a p => a + (p.2 : Int) * stride p.1) 0
/-- Is the current unit valid (05 R91)? -/
def Copy.valid (c : Copy) : Bool := (List.zip c.levels c.idx).all (fun p => p.1.limit == 0 || decide (p.2 < p.1.limit))
/-- The indices after the current ones, i0 fastest; all zero after the last. -/
def nextIdx : List Level → List Nat → List Nat
  | l :: ls, i :: is => if i + 1 < l.cnt then (i + 1) :: is else 0 :: nextIdx ls is
  | _, is => is
/-- The values of `w`-bit elements of bytes. -/
def splitElems (w n : Nat) (bs : List Byte) : List Nat := let v := leNat bs; (List.range n).map (fun j => nbits v (w * j) w)

/-- SCALE of elements in a format: x := round(x × SCL) (05 R94). -/
def Copy.scale (c : Copy) (bs : List Byte) : List Byte :=
  let f := FFmt.ofType (match nbits c.mw 36 3 with | 0 => 8 | 1 => 6 | _ => 7)
  let n := 8 * bs.length / f.width
  let scl := FFmt.f32.decode (field c.desc 36 4)
  leBytes bs.length (packElems f.width ((splitElems f.width n bs).map (fun a =>
    (convertTo f (c.xmode % 8) (c.xmode.testBit 3) (mulNum (f.decode a) scl).1).code)))
/-- CONV from narrow to wide (05 R95). -/
def Copy.widen (c : Copy) (bs : List Byte) : List Byte :=
  let f := c.narrow
  let g := FFmt.ofType c.wide
  let es := splitElems f.width c.convN bs
  let scl := fun j => if nbits c.mw 5 2 = 0 then 127 else field bs (c.convN * f.width / 8 + j / c.blk) 1
  leBytes c.usz (packElems g.width ((es.zipIdx).map (fun p =>
    (convertTo g (c.xmode % 8) (c.xmode.testBit 3) (scaled (scl p.2) (f.decode p.1))).code)))
/-- ⌊log2⌋ of the largest finite magnitude of values; none when all are zero or none is finite. -/
def maxLog (vs : List FVal) : Option Int :=
  vs.foldl (fun a v => match v with
    | .fin x => if x.mag = 0 then a else
        let l := (Nat.log2 x.mag : Int) + x.exp
        some (match a with | none => l | some b => max b l)
    | _ => a) none
/-- One block narrowed: its element codes and its scale byte (05 R95). Without blocks no scale byte is written, and no scale is applied
(DESIGN CHOICE, log 115). -/
def Copy.narrowBlock (c : Copy) (vs : List FVal) : List Nat × Nat :=
  let f := c.narrow
  let top := f.magValue false f.maxMag
  let emax : Int := (Nat.log2 top.mag : Int) + top.exp
  let x : Int := if nbits c.mw 5 2 = 0 then 0 else match maxLog vs with
    | none => -127
    | some l => max (-127) (min 127 (l - emax))
  (vs.map (fun v => (convertTo f (c.xmode % 8) (c.xmode.testBit 3)
    (match v with | .fin y => .fin { y with exp := y.exp - x } | o => o)).code), (x + 127).toNat)
/-- A list in chunks of `n`. -/
def chunks {α : Type} (n : Nat) : Nat → List α → List (List α)
  | 0, _ => []
  | k + 1, l => if l.isEmpty then [] else l.take n :: chunks n k (l.drop n)
/-- CONV from wide to narrow (05 R95). -/
def Copy.narrowing (c : Copy) (bs : List Byte) : List Byte :=
  let g := FFmt.ofType c.wide
  let vs := (splitElems g.width c.convN bs).map g.decode
  let rs := (chunks c.blk c.convN vs).map c.narrowBlock
  leBytes (c.convN * c.narrow.width / 8) (packElems c.narrow.width (rs.flatMap (·.1)))
    ++ (if nbits c.mw 5 2 = 0 then [] else rs.map (fun p => BitVec.ofNat 8 p.2))
/-- The two positions of a group of four that ZCMP keeps, ascending; none with three or more nonzero (05 R97). -/
def zcmpKeep (g : List Nat) : Option (Nat × Nat) :=
  match (List.range 4).filter (fun i => g.getD i 0 != 0) with
  | [] => some (0, 1)
  | [i] => let j := if i = 0 then 1 else 0; some (min i j, max i j)
  | [i, j] => some (i, j)
  | _ => none
/-- ZCMP (05 R97). -/
def Copy.zcmp (c : Copy) (bs : List Byte) : Option (List Byte) :=
  let w := 8 * c.zsz
  let gs := chunks 4 c.usz (splitElems w (c.usz / c.zsz) bs)
  let ks := gs.map zcmpKeep
  if ks.any Option.isNone then none
  else
    let ps := ks.map (fun o => o.getD (0, 1))
    some (leBytes (c.usz / 2) (packElems w ((List.zip gs ps).flatMap (fun p => [p.1.getD p.2.1 0, p.1.getD p.2.2 0])))
      ++ leBytes (c.usz / c.zsz / 8) (packElems 4 (ps.map (fun p => p.1 + 4 * p.2))))
/-- The stages on the bytes of a valid unit; none where ZCMP meets a group that is not 2:4 (05 R94). -/
def Copy.stages (c : Copy) (bs : List Byte) : Option (List Byte) :=
  let early := c.on 39 && (!c.on 15 || c.on 14)
  let b1 := if early then c.scale bs else bs
  let b2 := if c.on 15 then (if c.on 14 then c.narrowing b1 else c.widen b1) else b1
  let b3 := if c.on 39 && !early then c.scale b2 else b2
  if c.on 35 then c.zcmp b3 else some b3
/-- FILL over a unit (05 R92). -/
def Copy.fill (c : Copy) : List Byte := (List.range c.outLen).map (fun i => c.desc.getD (32 + i % 4) 0)

/-- The addresses at which a destination address is written: BCAST's clusters, the route's, or itself (05 R98, R101). -/
def Copy.dests (c : Copy) (a : W64) : List W64 :=
  let at_ := fun (q : Nat) => (a &&& ~~~((127 : W64) <<< 23)) ||| (BitVec.ofNat 64 q <<< 23)
  if c.on 47 then c.bcast.map at_ else match c.route with | some q => [at_ q.1] | none => [a]
/-- A copy's fault: reason, address, inner record. -/
abbrev CopyErr := Nat × W64 × List W64
/-- The error that an engine's access fault gives, at the address that it names (05 R107). -/
def copyErr (a : W64) (f : FaultRec) : CopyErr := ((if f.cause = 7 then 3 else if f.cause = 8 then 4 else 5), f.slots.headD a, f.asSlots)
/-- How far into row pieces the first row with an uncorrectable error stands, if one has it. -/
def Mach.ueOffset (m : Mach) : List (Nat × Nat) → Option Nat
  | [] => none
  | (k, n) :: t => if m.rowError k == some true then some 0 else (m.ueOffset t).map (· + n)
/-- Bytes written at a list of addresses with the copy's permissions. -/
def Mach.copyWrite (m : Mach) (k : Nat) (u : Bool) (bs : List Byte) : List W64 → Except CopyErr Mach
  | [] => .ok m
  | a :: t => match m.writeAt k a bs u with
    | .error f => .error (copyErr a f)
    | .ok m' => m'.copyWrite k u bs t
/-- The pieces that a unit is written in: whole, or its elements under TRANS (05 R96). -/
def Copy.pieces (c : Copy) (bs : List Byte) : List (W64 × List Byte) :=
  let d := c.dst + w64 (c.offset (·.dstr))
  if !c.on 23 then [(d, bs)]
  else
    let l0 := c.levels.headD ⟨0, 0, 0, 1⟩
    let i0 := c.idx.headD 0
    let run := d - w64 ((i0 : Int) * l0.dstr)
    (List.range (bs.length / c.tsz)).map (fun (j : Nat) =>
      (run + w64 ((j : Int) * l0.dstr + ((i0 * c.tsz : Nat) : Int)), (bs.drop (j * c.tsz)).take c.tsz))
/-- The pieces written one after the other. -/
def Mach.copyPieces (m : Mach) (k : Nat) (c : Copy) : List (W64 × List Byte) → Except CopyErr Mach
  | [] => .ok m
  | (a, bs) :: t => match m.copyWrite k c.u bs (c.dests a) with
    | .error e => .error e
    | .ok m' => m'.copyPieces k c t
/-- ONE UNIT (05 R91 to R98): read, taken through the stages, written; the copy with the CRC run on, the unit's mask bit
and the next indices. -/
def Mach.copyUnitAt (m : Mach) (r : Nat) (c : Copy) : Except CopyErr (Mach × Copy) :=
  let k := c.ctx
  let s := c.src + w64 (c.offset (·.sstr))
  let d := c.dst + w64 (c.offset (·.dstr))
  let next := { c with idx := nextIdx c.levels c.idx, mask := c.mask ++ [c.valid] }
  if d.toNat % 4 != 0 then .error (2, d, [])
  else if !c.valid then (m.copyPieces k c (c.pieces c.fill)).map (fun m' => (m', next))
  else if s.toNat % 4 != 0 then .error (2, s, [])
  else match m.span k s c.inLen false c.u with
    | .error f => .error (copyErr s f)
    | .ok l =>
      match m.ueOffset l with
      | some o => .error (8, s + slotN o, [])
      | none =>
        let bs := m.readSpan l
        match c.stages bs with
        | none => .error (7, s, [])
        | some out => (m.copyPieces k c (c.pieces out)).map (fun m' =>
            (m'.countErrors (clusterOf r) (l.map (·.1)), { next with crc := if c.on 31 then crc64Run c.crc bs else c.crc }))

/-- The mask formed so far, as bytes padded with zero bits to whole rows (05 R99, R108). -/
def Copy.maskBytes (c : Copy) : List Byte := leBytes ((c.mask.length + 1023) / 1024 * 128) (packElems 1 (c.mask.map Bool.toNat))
/-- The mask written at TE, in every cluster that BCAST names (DESIGN CHOICE, log 116). -/
def Mach.writeMask (m : Mach) (c : Copy) : Except CopyErr Mach :=
  if c.maskLen = 0 then .ok m else m.copyWrite c.ctx c.u c.maskBytes (c.dests c.te)
/-- The mask bits formed so far written in their own places, the last partial byte padded with zero bits (05 R108). -/
def Mach.writeMaskPart (m : Mach) (c : Copy) : Except CopyErr Mach :=
  m.copyWrite c.ctx c.u (c.maskBytes.take ((c.mask.length + 7) / 8)) (c.dests c.te)

/-! ## A copy's life -/

/-- A copy of a hand replaced. -/
def Hand.putCopy (h : Hand) (c : Copy) : Hand :=
  { h with copies := h.copies.map (fun d => if d.id == c.id then c else d), deadCopies := h.deadCopies.map (fun d => if d.id == c.id then c else d) }
/-- A copy taken out. -/
def Hand.dropCopy (h : Hand) (id : Nat) : Hand :=
  { h with copies := h.copies.filter (fun d => d.id != id), deadCopies := h.deadCopies.filter (fun d => d.id != id) }
/-- The copy of a hand with a number of the model. -/
def Hand.copy? (h : Hand) (id : Nat) : Option Copy := (h.copies ++ h.deadCopies).find? (fun c => c.id == id)
/-- Is a copy one of a killed context (05 R109)? -/
def Hand.isDead (h : Hand) (c : Copy) : Bool := h.deadCopies.any (fun d => d.id == c.id)
/-- The copies in flight (05 R101, R103). -/
def Hand.copiesOpen (h : Hand) : List Copy := h.copies.filter (fun c => c.state != 3)
/-- The status record of a copy, where it asks for one (05 R106); `st` 1 done, 2 faulted, 3 cancelled, 5 killed. -/
def Mach.copyStatus (m : Mach) (now : Nat) (c : Copy) (st : Nat) : Except CopyErr Mach :=
  if c.stat then m.copyWrite c.ctx c.u
    (leBytes 8 now ++ leBytes 1 st ++ leBytes 1 c.reason ++ leBytes 2 0 ++ leBytes 4 c.seq) [c.descAt + 128]
  else .ok m
/-- A cancelled or killed copy ends: its status record is written, no token is pushed (05 R104, R109). -/
def Mach.copyCancelled (m : Mach) (now r : Nat) (c : Copy) (st : Nat) : Mach :=
  let m := m.modHand r (fun h => h.dropCopy c.id)
  match m.copyStatus now c st with | .ok m' => m' | .error _ => m
/-- A running copy faults: it stops, its fault is recorded, its status record says so, and the next copy may start (05
R107); a killed one only ends (R109). -/
def Mach.copyFails (m : Mach) (now r : Nat) (c : Copy) (e : CopyErr) : Mach :=
  if (m.hand r).isDead c then m.copyCancelled now r c 5
  else
    let c := { c with state := 3, reason := e.1, endT := now }
    let m := (m.modHand r (fun h => h.putCopy c)).recordFault r (copyFault e.1 c.seq c.idx e.2.1 e.2.2)
    let m := match m.copyStatus now c 2 with | .ok m' => m' | .error _ => m
    m.post now (.copyStart r)
/-- A copy ends after its last unit: mask, CRC, status record, then the token (05 R94, R99, R101, R106). The record of a CRC mismatch, which
no unit meets, names SRC and index zero (DESIGN CHOICE, log 117). -/
def Mach.copyEnds (m : Mach) (now r : Nat) (c : Copy) : Mach :=
  let sum := ~~~ c.crc
  let wrote := (m.writeMask c).bind (fun m =>
    if c.on 31 && c.on 30 then m.copyWrite c.ctx c.u (leBytes 8 sum.toNat) [c.descAt + 24] else .ok m)
  match wrote with
  | .error e => m.copyFails now r c e
  | .ok m1 =>
    if c.on 31 && !c.on 30 && sum != BitVec.ofNat 64 (field c.desc 24 8) then m1.copyFails now r c (6, c.src, [])
    else match m1.copyStatus now c 1 with
      | .error e => m1.copyFails now r c e
      | .ok m2 => (m2.modHand r (fun h => h.dropCopy c.id)).pushToken now r c.push
/-- COPY_START: the sequencer starts the oldest waiting copy when no other is emitting (05 R102), nothing that it stands behind is left (18
R348, R350), and its time has come. -/
def execCopyStart (r : Nat) (s : State) : Out :=
  .next (runEvent s (fun now m =>
    let h := m.hand r
    if h.copies.any (fun c => c.state == 1 && decide (now < c.endT)) then m
    else match h.copies.find? (fun c => c.state == 0) with
      | none => m
      | some c =>
        if now < c.startT then m.post c.startT (.copyStart r)
        else if h.held c.id c.id then m.post (now + 1) (.copyStart r)
        else
          let left := c.cycles - c.unitNo * c.unitCyc
          let c := { c with state := 1, startT := now, first := c.unitNo, endT := now + left, stopT := none }
          ((m.setHand r (h.putCopy c)).post (now + c.lat) (.copyUnit r c.id)).post c.endT (.copyStart r)))
/-- Does a stopped copy go no further: its next unit would be emitted after the stop, at a boundary (05 R104, R108)? -/
def Copy.stopsNow (c : Copy) : Bool :=
  match c.stopT with
  | none => false
  | some t => decide (t < c.startT + (c.unitNo - c.first) * c.unitCyc) && (c.state == 5 || !c.on 23 || c.idx.headD 0 == 0)
/-- The rows that the next unit of a copy reads and writes (06 R116). -/
def Mach.unitKeys (m : Mach) (c : Copy) : List Nat :=
  (if c.valid then m.rowKeys c.ctx c.inLen false c.u [c.src + w64 (c.offset (·.sstr))] else [])
    ++ (c.pieces (List.replicate c.outLen 0)).flatMap (fun p => m.rowKeys c.ctx p.2.length true c.u (c.dests p.1))
/-- The rows that the mask, CRC result and status record of a copy lie in. -/
def Mach.endKeys (m : Mach) (c : Copy) : List Nat :=
  (if c.maskLen = 0 then [] else m.rowKeys c.ctx c.maskLen true c.u (c.dests c.te))
    ++ m.rowKeys c.ctx 16 true c.u (if c.stat then [c.descAt + 128] else []) ++ m.rowKeys c.ctx 8 true c.u (if c.on 31 && c.on 30 then [c.descAt + 24] else [])
/-- COPY_UNIT: a unit lands at its banks, emitted the copy's latency before (05 R91, R105, 06 R116). At a stop for pre-emption the mask bits formed so far are
written, one sequencer cycle for each row (R108). -/
def execCopyUnit (r id : Nat) (s : State) : Out :=
  .next (runEvent s (fun now m =>
    match (m.hand r).copy? id with
    | none => m
    | some c =>
      if c.state != 1 && c.state != 5 then m
      else if c.stopsNow then
        if c.state = 5 then m
        else if c.maskLen = 0 || c.mask.isEmpty then m.modHand r (fun h => h.putCopy { c with state := 2, stopT := none })
        else (m.modHand r (fun h => h.putCopy { c with state := 6, stopT := none })).post (now + (c.mask.length + 1023) / 1024)
          (.copyComplete r id)
      else m.atBanks now (.copyUnit r id) (m.unitKeys c) false (fun m => match m.copyUnitAt r c with
        | .error e => m.copyFails now r c e
        | .ok (m1, c1) =>
          if c1.mask.length = c1.units then
            (m1.modHand r (fun h => h.putCopy (if c1.state = 5 then c1 else { c1 with state := 4 }))).post
              (max now (c1.endT - 1 + c1.lat)) (.copyComplete r id)
          else (m1.modHand r (fun h => h.putCopy c1)).post (now + c1.unitCyc) (.copyUnit r id))))
/-- COPY_COMPLETE (05 R101, R104, R108, R109). -/
def execCopyComplete (r id : Nat) (s : State) : Out :=
  .next (runEvent s (fun now m =>
    match (m.hand r).copy? id with
    | none => m
    | some c =>
      if c.state = 4 then m.atBanks now (.copyComplete r id) (m.endKeys c) false (fun m => m.copyEnds now r c)
      else if c.state = 5 then
        if now < c.endT then m
        else if !c.stopsNow && decide (c.mask.length < c.units) then m.post (now + 1) (.copyComplete r id)
        else (m.copyCancelled now r c (if (m.hand r).isDead c then 5 else 3)).post now (.copyStart r)
      else if c.state = 6 then
        match m.writeMaskPart c with
        | .error e => m.copyFails now r c e
        | .ok m' => m'.modHand r (fun h => h.putCopy { c with state := 2 })
      else m))
/-- When the units that a copy has emitted by now have landed (05 R104). -/
def Copy.drainAt (c : Copy) (now : Nat) : Nat :=
  if c.state = 1 then max now (c.startT + min (c.units - c.first) ((now - c.startT) / c.unitCyc + 1) * c.unitCyc - 1 + c.lat) else now

/-- Every copy of a hand stopped at an iteration boundary; those that wait keep their place (05 R108). -/
def Hand.stopCopies (h : Hand) (now : Nat) : Hand :=
  { h with copies := h.copies.map (fun c => if c.state = 0 then { c with state := 2 } else if c.state = 1 then
      { c with stopT := some now } else c) }
/-- Have the emitted units drained? -/
def Hand.copiesQuiet (h : Hand) : Bool := h.copies.all (fun c => c.state == 2 || c.state == 3)
/-- The mask bits that a resumed copy reads back from TE, as they stand there by then (05 R108; DESIGN CHOICE, log 118). -/
def Mach.rereadMask (m : Mach) (k : Nat) (c : Copy) : Copy :=
  let n := c.unitNo
  if c.maskLen = 0 then { c with mask := List.replicate n true }
  else match m.readAt k ((c.dests c.te).headD 0) ((n + 7) / 8) c.u with
    | .ok bs => { c with mask := (List.range n).map (fun i => (leNat bs).testBit i) }
    | .error _ => c
/-- The copies of a hand go on from their resume points, in order (05 R108). -/
def Mach.resumeCopies (m : Mach) (now r : Nat) : Mach :=
  let k := (m.hand r).ctx
  (m.modHand r (fun h => { h with copies := h.copies.map (fun c =>
    if c.state = 2 then { m.rereadMask k c with state := 0, startT := now } else c) })).post now (.copyStart r)
/-- The copies of a killed thread: each is cancelled, with status 5, once what it has emitted has landed (05 R104, R109). -/
def Mach.killCopies (m : Mach) (now r : Nat) : Mach :=
  let h := m.hand r
  let run := h.copiesOpen.filter (fun c => c.state == 1 || c.state == 5)
  let m := m.setHand r { h with copies := h.copiesOpen.filter (fun c => c.state != 1 && c.state != 5) }
  let m := (m.hand r).copies.foldl (fun m c => m.copyCancelled now r c 5) m
  run.foldl (fun m c =>
    let t := if c.state = 1 then c.drainAt now else c.endT
    (m.modHand r (fun h => { h with deadCopies := h.deadCopies ++ [{ c with state := 5, stopT := some (c.stopT.getD now), endT := t }] })).post t
      (.copyComplete r c.id)) m

/-! ## CPY, CPYQ, CPYK -/

/-- The read or write latency of an address for a core's cluster (05 R105). -/
def Mach.copyLat (m : Mach) (k c : Nat) (a : W64) (read : Bool) : Nat :=
  if !bit a 63 then (if read then 6 else 2) + hops c (sliceCluster a)
  else match m.tierOf k a with
    | (2, _) => 620
    | (_, d) => if read && d != dieOf c then 186 else 180
/-- The aligned blocks of `g` bytes that base + Σ i × stride reaches, i below each count, with `e` bytes at every point: a range within one
block is that block, and any other is halved, level by level; `fuel` bounds the halvings. -/
def blocksOf (g e : Nat) : Nat → List (Nat × Int) → Int → List Int
  | 0, _, base => [base / g]
  | fuel + 1, ls, base =>
    let lo := ls.foldl (fun a l => a + min 0 (((l.1 : Int) - 1) * l.2)) base
    let hi := ls.foldl (fun a l => a + max 0 (((l.1 : Int) - 1) * l.2)) base + (e : Int) - 1
    if lo / g = hi / g then [lo / g]
    else match ls with
      | [] => (List.range (hi / g - lo / g + 1).toNat).map (fun j => lo / g + j)
      | (n, st) :: rest =>
        if n ≤ 1 then blocksOf g e fuel rest base
        else (blocksOf g e fuel ((n / 2, st) :: rest) base ++ blocksOf g e fuel ((n - n / 2, st) :: rest) (base + ((n / 2 : Nat) : Int) * st)).eraseDups
/-- The levels of one side as counts and strides, longest stride first. -/
def sortLevels (ls : List (Nat × Int)) : List (Nat × Int) := (ls.filter (fun l => decide (1 < l.1))).mergeSort (fun a b => decide (b.2.natAbs ≤ a.2.natAbs))
/-- The blocks that a copy reads from: of its valid units (05 R91). -/
def Copy.srcBlocks (c : Copy) (g : Nat) : List W64 :=
  (blocksOf g c.inLen 160 (sortLevels (c.levels.map (fun l => (if l.limit = 0 then l.cnt else min l.limit l.cnt, l.sstr)))) c.src.toNat).map (fun b => w64 (b * g))
/-- The blocks that a copy writes to, before BCAST or a route moves them: units, transposed rows (05 R96) and mask (R99). -/
def Copy.dstBlocks (c : Copy) (g : Nat) : List W64 :=
  let ls := c.levels.map (fun l => (l.cnt, l.dstr))
  let l0 := ls.headD (1, 0)
  let us := if c.on 23 then blocksOf g c.tsz 160 (sortLevels ([(l0.1, (c.tsz : Int)), (c.outLen / c.tsz, l0.2)] ++ ls.drop 1)) c.dst.toNat
    else blocksOf g c.outLen 160 (sortLevels ls) c.dst.toNat
  ((us ++ (if c.maskLen = 0 then [] else blocksOf g c.maskLen 160 [] c.te.toNat)).eraseDups).map (fun b => w64 (b * g))
/-- The destinations of a copy, one address for each block of `g` bytes; DST itself first. -/
def Copy.reach (c : Copy) (g : Nat) : List W64 := (c.dests c.dst ++ (c.dstBlocks g).flatMap c.dests).eraseDups
/-- Ld of a copy (05 R105): of the worst unit; a placed unit goes by its route. -/
def Mach.copyLd (m : Mach) (cl : Nat) (c : Copy) : Nat :=
  match c.route with
  | some q => 2 + q.2
  | none => ((c.reach 65536).map (fun a => m.copyLat c.ctx cl a false)).foldl max 0
/-- The copy that a CPY word describes, before it has a number: the descriptor is read once, at issue (05 R90, R110). A route24 of zero is no route, and DST names its own cluster (DESIGN CHOICE, log 101); one that leaves the mesh ejects at no
cluster, 127 here, so that a unit of it meets the window check (DESIGN CHOICE, log 44). -/
def copyOf (m : Mach) (x : At) (w : AC) : Copy :=
  let h := m.hand x.r
  let a := h.areg w.desc.toNat
  let D := match (m.seen x.r).readAt h.ctx a 128 (h.ring == 0) with | .ok bs => bs | .error _ => []
  let c0 := clusterOf x.r
  let route := if w.imm = 0 then none else some ((routeEnd c0 (routeDirs w.imm.toNat)).getD (127, 0))
  let c : Copy := { id := m.nextId, seq := (h.cpseq + 1) % 2 ^ 32, ctx := h.ctx, descAt := a, desc := D, xmode := (h.creg 0x030).toNat % 16, qreg := 0,
                    u := h.ring == 0, route := route, tt := acTok w, push := if w.tt = 0 then nbits (field D 42 1) 4 3 else acTok w }
  let c := { c with qreg := if c.on 15 then (bits (h.creg (0x038 + nbits c.mw 11 3)) 0 19).toNat else 0 }
  let ls := ((c.srcBlocks 65536).map (fun a => m.copyLat h.ctx c0 a true)).foldl max 0
  let prev := (h.copiesOpen.filter (fun c => c.state != 5)).foldl (fun t c => max t c.endT) 0
  let st := max (h.lastPerformed (max x.now h.accHold + m.copyLat h.ctx c0 a true + 2)) prev
  { c with lat := ls + c.stageLat + m.copyLd c0 c, startT := st, endT := st + c.cycles,
           remoteW := (c.reach (2 ^ 23)).any (fun a => bit a 63 || otherSlice x.r a) }
/-- CPY (05 R101): precise checks, then the copy runs on its own. A copy that would write another cluster's slice in a compute phase names
DST, or the start of the first slice block of another cluster that it reaches (DESIGN CHOICE, log 101). -/
def execCpy (w : AC) (s : State) : Out :=
  .next (runWord s .a (.cpy w) w.hdr (fun x m =>
    let h := m.hand x.r
    let a := h.areg w.desc.toNat
    let c := copyOf m x w
    { own := firstStop [h.needA w.desc.toNat, trapIf (a.toNat % 128 != 0) 6 0 [a], m.xlStop x.r a 128 false, h.acqStop,
        (if c.bad m h.ctx then some (.trap (copyFault 1 c.seq [0, 0, 0, 0, 0, 0] a [])) else none),
        trapIf ((c.reach (2 ^ 23)).any (otherSlice x.r) && !m.phase x.r) 0x0A 0 [((c.reach (2 ^ 23)).find? (otherSlice x.r)).getD 0],
        freezeIf (decide (8 ≤ h.copiesOpen.length)) 9]
      eff := fun m' => ((m'.noteRead x.r h.ctx a 128 (h.ring == 0)).modHand x.r (fun h => { h with
          copies := (if 8 ≤ h.copies.length then h.copiesOpen else h.copies) ++ [c], cpseq := c.seq })).bump.post
          c.startT (.copyStart x.r) }))
/-- CPYQ (05 R103). -/
def execCpyq (w : AC) (s : State) : Out :=
  .next (runWord s .a (.cpyq w) w.hdr (fun x m =>
    { own := freezeIf (decide ((bits w.imm 0 3).toNat < (m.hand x.r).copiesOpen.length)) 9 }))
/-- One copy cancelled: one that emits drains what it has emitted, any other ends at once (05 R104). -/
def Mach.cancelCopy (m : Mach) (now r : Nat) (c : Copy) : Mach :=
  if c.state = 1 then
    (m.modHand r (fun h => h.putCopy { c with state := 5, stopT := some now, endT := c.drainAt now })).post (c.drainAt now) (.copyComplete r c.id)
  else m.copyCancelled now r c 3
/-- CPYK: every copy in flight is cancelled; its own token comes when the last emitted unit has drained (05 R104). -/
def execCpyk (w : AC) (s : State) : Out :=
  .next (runWord s .a (.cpyk w) w.hdr (fun x m =>
    { eff := fun m' =>
        let cs := (m.hand x.r).copiesOpen
        let m1 := (cs.filter (fun c => c.state != 5)).foldl (fun m c => m.cancelCopy x.now x.r c) m'
        m1.tokenAt (cs.foldl (fun t c => max t (if c.state = 5 then c.endT else c.drainAt x.now)) x.now) x.r (acTok w) }))

end Sys2Proof.Machine
end

