-- ==== Sys2Proof/Machine/Sched.lean ====
section
/-! DEFINITION. Fetching and the order of turns (07 R145 to R149, 03 R39, R52, R53, 19 R364, R378, log 1): within one
real cycle everything that is due is served, then each active hand takes a boundary and the attempts of its engines in
the order A, X, M, then the cycle ends. `plan` says what one step does; only Step.lean calls it. -/

namespace Sys2Proof.Machine

/-- Is a hand one that may run: a thread, not set aside, dealt whole, and active on its core (17 R333, 19 R372)? -/
def Mach.live (m : Mach) (r : Nat) : Bool :=
  let h := m.hand r
  h.thread && !h.aside && !h.draining && !h.coWait && KMap.get 0 m.active (coreOf r) == r % 2

/-- The turn of the first hand from number `r` up that may run, or the end of the cycle. -/
def Mach.turnFrom (m : Mach) (r : Nat) : Turn :=
  match m.hands.keys.find? (fun k => decide (r ≤ k) && m.live k) with
  | some k => .boundary k
  | none => .tick

/-- The turn after engine `e` of hand `r` has attempted (07 R145). -/
def Mach.turnAfter (m : Mach) (r : Nat) (e : Engine) : Turn :=
  match e with
  | .a => .attempt r .x
  | .x => .attempt r .m
  | .m => m.turnFrom (r + 1)

/-- Is `e` the engine that decides this word (03 R52, 09 R191)? An illegal word has no decider (03 R53). -/
def decides (e : Engine) (w : W64) : Bool :=
  match decode w with
  | .ok (.bra _) | .ok (.loop _) => e == .a
  | .ok (.brx _) => e == .x
  | _ => false

/-- The wait of a word at an engine: none for the decider of a decided word (09 R191), none past the text. -/
def waitOf (e : Engine) : Option W64 → Nat
  | none => 0
  | some w => if decides e w then 0 else (wordHdr w).wait.toNat

/-- Is a word at this engine due (07 R145, 19 R371)? The first one after a trap entry or ERET has no wait (19 R363, R367). -/
def dueNow (h : Hand) (e : Engine) (w : Option W64) : Bool :=
  decide ((h.engine e).prev + 1 + (if (h.engine e).anew then 0 else waitOf e w) ≤ h.vclk) && decide ((h.engine e).notBefore ≤ h.vclk)

/-- Does an enabled comparator match (19 R378)? -/
def Hand.breaks (h : Hand) (e : Engine) (pc : W64) : Bool :=
  !(h.engine e).bkOff && (List.range 4).any (fun j => bit (h.creg (0x010 + j)) 0 && (h.creg (0x010 + j)) &&& ~~~7 == pc)

/-- Is a word of the ALL tag one at which the engines meet: a rendezvous word (03 R52), an illegal one (R53), or a CALL
or RET that stops (09 R188)? -/
def meets (h : Hand) (e : Engine) (w : W64) : Bool :=
  match decode w with
  | .error _ => true
  | .ok (.nop _) | .ok (.jmp _) | .ok (.bra _) | .ok (.brx _) | .ok (.loop _) => false
  | .ok (.call _) => decide (32 ≤ (h.engine e).stack.length)
  | .ok (.ret _) => (h.engine e).stack.isEmpty
  | .ok _ => true

/-- Have the engines other than `e` arrived at the rendezvous (03 R52)? -/
def othersArrived (h : Hand) (e : Engine) : Bool :=
  match e with
  | .a => h.ex.arrived && h.em.arrived
  | .x => h.ea.arrived && h.em.arrived
  | .m => h.ea.arrived && h.ex.arrived

/-- What one step does: an instruction or event on a state, a move of the machine that is neither, or a stop. -/
inductive Action where
  | run (i : Instr) (s : State)
  | quiet (s : State)
  | stop (f : Fault)

/-- A word that reaches its engine (03 R54): a breakpoint (19 R378), an illegal word (R53, R54), or its instruction.
`te` is the engine number that a trap names. -/
def issueWord (s : State) (r : Nat) (te : Nat) (w : W64) (brk : Bool) : Action :=
  if brk then .quiet { s with m := s.m.trap s.tb r { f := ⟨0x1C, 0, []⟩, eng := te, word := w } }
  else match decode w with
    | .error f => .quiet { s with m := s.m.trap s.tb r { f := ⟨1, f.reason, []⟩, eng := te, word := w } }
    | .ok i => .run i s

/-- An engine's attempt at its next word, the words of other tags passed (03 R39): the slip window,
which holds back an engine that would lead another by more than SLIP words (07 R147), text-miss
(03 R39), the meeting of the engines at a rendezvous (03 R52), and then the word. -/
def attemptWord (s : State) (r : Nat) (e : Engine) (k : Nat) (w : Option W64) : Action :=
  let h := s.m.hand r
  let x := h.engine e
  let low := match e with
    | .a => min h.ex.words h.em.words
    | .x => min h.ea.words h.em.words
    | .m => min h.ea.words h.ex.words
  if low + (bits (h.creg 0x021) 0 13).toNat < x.words + k + 1 then .quiet { s with m := s.m.block ⟨s.tb, r, e⟩ 5 0 }
  else
    let pc := x.pc + BitVec.ofNat 64 (8 * k)
    let s := { s with m := s.m.modHand r (fun h => h.modEngine e (fun x => { x with pc := pc, words := x.words + k })) }
    match w with
    | none => .quiet { s with m := s.m.trap s.tb r { f := ⟨0x0C, 0, [pc]⟩, eng := engNo e } }
    | some w =>
      let brk := h.breaks e pc
      if wordTag w == 0 && (brk || meets h e w) then
        if othersArrived h e then issueWord s r 3 w brk
        else .quiet { s with m := s.m.modHand r (fun h => h.modEngine e (fun x => { x with arrived := true })) }
      else issueWord s r (engNo e) w brk

/-- Is a release at fabric scope past its nominal time because a peer has not acknowledged a write (18 R358)? -/
def Hand.unacked (h : Hand) (now : Nat) : Bool :=
  h.results.any (fun x => decide (x.due < now) && x.fence.any (fun f =>
    f.rel && f.fabric && h.accs.any (fun a => decide (a.id < f.snap) && !a.isLoad && a.sent)))
/-- A freeze of every due word (20 R382, 11 R235, 18 R358; that of R358 not in a handler, log 128), of X behind a TLBI (19 R371), of A
behind a TTADD's entries (04 R81). -/
def Mach.heldCode (m : Mach) (now r : Nat) (e : Engine) : Option Nat :=
  let h := m.hand r
  if (m.part (m.partOf r)).throttle then some 12
  else if h.askLease then some 7
  else if h.busy == 0 && h.unacked now then some 8
  else if e == .x && h.tlbi.isSome then some 12
  else if e == .a && !h.ttAdds.isEmpty then some 9
  else none

/-- Has the package halted (19 R362), or did its boot fail, so that it stays in reset (27 R419)? -/
def Mach.stopped (m : Mach) : Bool := m.halted.isSome || bits m.dev.bootst 0 8 != 0

/-- The turn of engine `e` of hand `r`: nothing where the package has stopped (19 R362, R365), where the hand is held, counts a barrier's time (17 R321), is blocked in this cycle or no longer runs, where
the engine has arrived at a rendezvous, or where its word is not due. -/
def attemptTurn (s : State) (r : Nat) (e : Engine) : Action :=
  let h := s.m.hand r
  if s.m.stopped then .quiet { s with turn := .tick }
  else if s.tb < h.holdTill || s.tb < h.barTill || h.blocked.isSome || !s.m.live r then .quiet { s with turn := s.m.turnFrom (r + 1) }
  else
    let s := { s with turn := s.m.turnAfter r e, cur := r, eng := e }
    if (h.engine e).arrived then .quiet s
    else
      let pc := (h.engine e).pc.toNat
      let sc := scanWords e ((s.m.textOf r).drop (pc / 8))
      if !dueNow h e sc.2 then .quiet s
      else match s.m.heldCode s.tb r e with
        | some c => .quiet { s with m := s.m.block ⟨s.tb, r, e⟩ c 0 }
        | none => attemptWord s r e sc.1 sc.2

/-- The turn of a hand's boundary: every cycle that is not held is a delivery point, frozen ones too (19 R364); a cause that a full log has no
room for freezes the core with code 12 (21 R398). A stopped package has none: every core stops at its next boundary (19 R362). -/
def boundaryTurn (s : State) (r : Nat) : Action :=
  if s.m.stopped then .quiet { s with turn := .tick }
  else
  let s := { s with turn := .attempt r .a, cur := r, eng := .a }
  let h := s.m.hand r
  if h.holdTill ≤ s.tb && s.m.causeWaits r then .quiet { s with m := s.m.block ⟨s.tb, r, .a⟩ 12 0 }
  else if h.holdTill ≤ s.tb && s.m.anyCause r then .run (.recordedFaultDelivery r) s
  else .quiet { s with m := s.m.setHand r { h with blocked := none } }

/-- The end of a cycle for a hand that is blocked: frozen cycles are counted, and past WDOG the watchdog runs out
(07 R146, R148, R149). -/
def Mach.endFrozen (m : Mach) (now r : Nat) : Mach :=
  let h := m.hand r
  let n := (h.creg 0x023).toNat
  let wd := (bits (h.creg 0x022) 0 32).toNat
  let m := m.setHand r { (h.setCreg 0x023 (BitVec.ofNat 64 (min (n + 1) (2 ^ 32 - 1)))) with frzRun := h.frzRun + 1 }
  if wd != 0 && wd < h.frzRun + 1 then m.post (now + 1) (.watchdogExpiry r) else m

/-- The end of a cycle for a hand that is not blocked: VCLK advances, entries freed in the vc return to the pool
(07 R139, R145), and single-step at ring 0 notes debug-step (19 R377); the time of a completed barrier is one step (log 20). -/
def Mach.endRunning (m : Mach) (now r : Nat) : Mach :=
  let h := m.hand r
  let h := { h with frzRun := 0 }
  if now + 1 < h.holdTill then m.setHand r h
  else
    let h := { h with vclk := h.vclk + 1, pool := h.pool + h.freed, freed := 0 }
    let m := m.setHand r h
    if h.holdTill ≤ now && h.barTill ≤ now && h.ring == 0 && bit (h.creg 0x00E) 0 then m.recordFault r ⟨0x1B, 0, []⟩ else m

/-- TIMER counts down in each cycle that the hand is active at ring 0 (19 R361). -/
def Mach.countTimer (m : Mach) (now r : Nat) : Mach :=
  let h := m.hand r
  let t := h.creg 0x014
  if h.ring != 0 || t == 0 then m
  else
    let m := m.setHand r (h.setCreg 0x014 (t - 1))
    if t == 1 then m.post (now + 1) (.timerExpiry r) else m

/-- The end of a cycle for one hand. -/
def Mach.endCycle (m : Mach) (now : Nat) (r : Nat) : Mach :=
  if !m.live r then m
  else
    let m := m.countTimer now r
    if (m.hand r).blocked.isSome then m.endFrozen now r else m.endRunning now r

/-- The end of a cycle: every active hand, then TB advances (21 R395). A stopped package runs no hand. -/
def tickState (s : State) : State :=
  { s with tb := s.tb + 1, turn := .serve,
           m := if s.m.stopped then s.m else s.m.hands.keys.foldl (fun m r => m.endCycle s.tb r) s.m }

/-- What still acts in a stopped package: the halt log's reader, reset, and a boot (19 R362, 27 R418, R419). -/
def actsHalted : Instr → Bool
  | .haltlog _ => true
  | .deviceReset => true
  | .bootVerification _ => true
  | _ => false

/-- An event that is due is served; else the step does what `k` says. A stopped package serves only what still acts. -/
def serveOr (s : State) (early : Bool) (k : Action) : Action :=
  match s.m.nextDue s.tb early with
  | some (j, i) =>
    let s' := { s with m := { s.m with agenda := s.m.agenda.eraseIdx j } }
    if s.m.stopped && !actsHalted i then .quiet s' else .run i s'
  | none => k
/-- The events that are due, one at a time, then the first hand. -/
def serveTurn (s : State) : Action := serveOr s true (.quiet { s with turn := if s.m.stopped then .tick else s.m.turnFrom 0 })
/-- The events that the words of this cycle have set for this same cycle (a command that starts as it is accepted), then
the end of the cycle. -/
def tickTurn (s : State) : Action := serveOr s false (.quiet (tickState s))

/-- What the next step does. -/
def plan (s : State) : Action :=
  match s.m.bad with
  | some pa => .stop (.absentMemory pa)
  | none =>
  match s.turn with
  | .serve => serveTurn s
  | .boundary r => boundaryTurn s r
  | .attempt r e => attemptTurn s r e
  | .tick => tickTurn s

end Sys2Proof.Machine
end

