-- ==== Sys2Proof/Machine/Matrix.lean ====
section
/-! DEFINITION. The matrix array of a cluster (11 R217 to R235): handles (12 R237 to R239), the lease, bands, the weight
buffer, the array command queue with the order in which its commands start, the dot product of 08 R175, and LEASE, UNLSE,
MSHAPE, MMODE, WLD, WDROP, MMA and MMAT. -/

namespace Sys2Proof.Machine

/-! ## Handles and rows of the accumulator memory -/

/-- A handle in an H register (12 R237). -/
structure Hdl where
  v : Bool
  isInt : Bool
  sp : Bool
  tag : Nat
  nb : Nat
  base : Nat
  gen : Nat
  deriving DecidableEq, Repr
/-- The fields of a handle (12 R237). -/
def hdlOf (x : W32) : Hdl :=
  ⟨bit x 31, bit x 30, bit x 29, (bits x 21 8).toNat, (bits x 15 6).toNat, (bits x 9 6).toNat, (bits x 0 9).toNat⟩
/-- The handle as a register value. -/
def Hdl.code (h : Hdl) : W32 :=
  BitVec.ofNat 32 (2 ^ 31 * h.v.toNat + 2 ^ 30 * h.isInt.toNat + 2 ^ 29 * h.sp.toNat + 2 ^ 21 * h.tag + 2 ^ 15 * h.nb + 2 ^ 9 * h.base + h.gen)
/-- The rows of a handle. -/
def Hdl.rows (h : Hdl) : Nat := 16 * (h.nb + 1)
/-- The bank entry that a handle expects of each of its banks. -/
def Hdl.bank (h : Hdl) (k r core : Nat) : AcmBank :=
  { used := true, ctx := k, hand := r % 2, core := core, isInt := h.isInt, sp := h.sp, tag := h.tag, gen := h.gen, base := h.base,
    nb := h.nb }
/-- A bank of the allocation table (12 R236). -/
def Cluster.bank (x : Cluster) (b : Nat) : AcmBank := KMap.get {} x.banks b
/-- Check 1 of the handle check (12 R238). -/
def Mach.hdlLive (m : Mach) (r : Nat) (h : Hdl) : Bool :=
  let x := m.cluster (clusterOf r)
  h.v && decide (h.base + h.nb ≤ 63) && (List.range (h.nb + 1)).all (fun i =>
    let b := x.bank (h.base + i)
    b == h.bank (m.hand r).ctx r b.core)
/-- The handle check (12 R238): the type and the kind that the instruction needs, and rows `row0` to `row0 + n - 1`. -/
def Mach.hdlStop (m : Mach) (r : Nat) (h : Hdl) (ty sp : Option Bool) (row0 n : Nat) : Option Stop :=
  firstStop [trapIf (!m.hdlLive r h) 0x0E 1, trapIf (ty.elim false (fun t => t != h.isInt)) 0x0E 2,
    trapIf (sp.elim false (fun t => t != h.sp)) 0x0E 3, trapIf (decide (h.rows < row0 + n)) 0x0E 4]
/-- A row of the accumulator memory. -/
def Cluster.acmRow (x : Cluster) (p : Nat) : BitVec 8192 := KMap.get 0 x.acm p
/-- Column `n` of a row. -/
def acmElem (row : BitVec 8192) (n : Nat) : Nat := (bits row (32 * n) 32).toNat
/-- A row from its 256 elements. -/
def acmPack (vs : List Nat) : BitVec 8192 := BitVec.ofNat 8192 (packElems 32 vs)
/-- The physical rows of a command, as ranges (11 R232, 12 R246, 14 R281). -/
def Cmd.rows (c : Cmd) : List (Nat × Nat) :=
  let h := hdlOf c.handle
  match c.op with
  | .mma | .mmat | .acmz | .acmad | .acmst => [(16 * h.base + c.row0, c.count)]
  | .acmfr => [(16 * h.base, h.rows)]
  | .rslv => c.adds.flatMap (fun a => [(a.row, 1), (a.out, 1)])
  | _ => []
/-- Do two lists of ranges meet? -/
def overlap (a b : List (Nat × Nat)) : Bool :=
  a.any (fun p => b.any (fun q => decide (p.1 < q.1 + q.2) && decide (q.1 < p.1 + p.2)))
/-- Does a command read or write WBUF slot `s` (11 R228)? -/
def Cmd.usesSlot (c : Cmd) (s : Nat) : Bool :=
  (match c.op with | .wld | .wdrop | .mma | .mmat => true | _ => false) && c.slot == s
/-- Is a command an MMA or MMAT? -/
def Cmd.isMma (c : Cmd) : Bool := c.op == .mma || c.op == .mmat

/-! ## The lease -/

/-- The state of a requester (11 R222). -/
def Lease.of (l : Lease) (q : Nat) : Nat := KMap.get 0 l.st q
/-- The next waiting requester after the last holder (11 R222). -/
def Lease.next (l : Lease) : Option Nat := ((List.range 8).map (fun i => (l.last + 1 + i) % 8)).find? (fun q => l.of q == 1)
/-- The free lease granted to the next waiting requester, if any. -/
def Lease.grant (l : Lease) : Lease :=
  match l.holder, l.next with
  | none, some q => { l with st := l.st.set q 2, holder := some q, rem := KMap.get 0 l.want q }
  | _, _ => l
/-- The run of the holder ends, and the array passes on (11 R222). -/
def Lease.endRun (l : Lease) : Lease :=
  match l.holder with
  | none => l
  | some q => Lease.grant { l with st := l.st.set q 0, holder := none, last := q, rem := 0 }
/-- A requester forgotten: its context has been killed or its hand emptied. Its run ends, and where it was the last holder the count
starts from 7 again (11 R222). -/
def Lease.forget (l : Lease) (q : Nat) : Lease :=
  let l1 := { l with st := l.st.set q 0, last := if l.last = q || l.holder = some q then 7 else l.last }
  if l.holder = some q then Lease.grant { l1 with holder := none, rem := 0 } else l1
/-- A requester that waits no more: its LEASE has not issued (11 R222, R235). -/
def Lease.unwait (l : Lease) (q : Nat) : Lease := if l.of q = 1 then { l with st := l.st.set q 0 } else l
/-- The lease of a cluster changed. -/
def Mach.modLease (m : Mach) (c : Nat) (f : Lease → Lease) : Mach := m.modCluster c (fun x => { x with lease := f x.lease })
/-- The lease of a hand's cluster. -/
def Mach.lease (m : Mach) (r : Nat) : Lease := (m.cluster (clusterOf r)).lease
/-- Does a hand hold the lease? -/
def Mach.holds (m : Mach) (r : Nat) : Bool := (m.lease r).of (reqOf r) == 2
/-- The run of a hand ends, if it holds the lease. -/
def Mach.endRunOf (m : Mach) (r : Nat) : Mach := if m.holds r then m.modLease (clusterOf r) Lease.endRun else m
/-- LEASE_GRANT (11 R222): a free lease goes to the next waiting requester. -/
def execLeaseGrant (c : Nat) (s : State) : Out := .next (runEvent s (fun _ m => m.modLease c Lease.grant))

/-- Will hand `q` attempt a LEASE later in this cycle (11 R235)? -/
def Mach.willLease (m : Mach) (now r q : Nat) : Bool :=
  let h := m.hand q
  let sc := scanWords .m ((m.textOf q).drop (h.em.pc.toNat / 8))
  decide (r < q) && m.live q && !h.em.arrived && decide (h.holdTill ≤ now) && dueNow h .m sc.2 &&
    (match sc.2 with | some w => (match decode w with | .ok (.lease _) => true | _ => false) | none => false)
/-- Does another requester come before `r` for a lease that is free: one that waits, or one that asks in this cycle and is
counted first from the last holder (11 R222, R235)? -/
def Mach.rival (m : Mach) (now r : Nat) : Bool :=
  let l := m.lease r
  let last := if m.holds r then reqOf r else l.last
  let rank := fun (q : Nat) => (q + 8 - (last + 1) % 8) % 8
  (List.range 8).any (fun q => q != reqOf r && (l.of q == 1 || m.willLease now r (8 * clusterOf r + q))
    && decide (rank q < rank (reqOf r)))
/-- LEASE (11 R222, R227): it completes at its grant. -/
def execLease (w : MC) (s : State) : Out :=
  .next (runWord s .m (.lease w) w.hdr (fun x m =>
    let h := m.hand x.r
    let n := w.count.toNat
    let l := m.lease x.r
    let c := clusterOf x.r
    let q := reqOf x.r
    let granted := h.stage != 0 && l.of q == 2
    let free := l.holder.isNone || m.holds x.r
    { pre := trapIf (decide ((bits (h.creg 0x040) 0 7).toNat < n)) 1 3
      own := if granted then none
        else if free && !m.rival x.now x.r then none
        else if h.stage = 0 then some (.start 7) else some (.freeze 7 0)
      wait := fun m' => ((m'.endRunOf x.r).modLease c (fun l =>
        { l with st := l.st.set q 1, want := l.want.set q n })).post (x.now + 1) (.leaseGrant c)
      eff := fun m' =>
        let m1 := if granted then m' else m'.endRunOf x.r
        let m2 := m1.modLease c (fun l => { l with st := l.st.set q 2, holder := some q, rem := n })
        m2.issueResult x.r [] 0 (pushFifo x.e w.hdr.push) x.now true false }))
/-- UNLSE (11 R227). -/
def execUnlse (w : MC) (s : State) : Out :=
  .next (runWord s .m (.unlse w) w.hdr (fun x _ => instantMeaning x w.hdr [] (fun m' => m'.endRunOf x.r)))

/-! ## Bands -/

/-- A band of a cluster. -/
def Cluster.band (x : Cluster) (b : Nat) : Band := KMap.get {} x.bands b
/-- A band replaced. -/
def Mach.setBand (m : Mach) (c b : Nat) (v : Band) : Mach := m.modCluster c (fun x => { x with bands := x.bands.set b v })
/-- An accepted command needs a band: the band wakes if it is off, and its idle time starts anew (11 R219). -/
def Mach.needBand (m : Mach) (now c b : Nat) : Mach :=
  let v := (m.cluster c).band b
  let m := if v.st = .off then (m.setBand c b { st := .waking, since := now, lastNeed := now }).post (now + 400) (.bandWakeDone c b)
    else m.setBand c b { v with lastNeed := now }
  m.post (now + 1050) (.bandIdleOff c b)
/-- BAND_IDLE_OFF (11 R219). -/
def execBandIdleOff (c b : Nat) (s : State) : Out :=
  .next (runEvent s (fun now m =>
    let v := (m.cluster c).band b
    if v.st = .on && decide (v.lastNeed + 1050 ≤ now) then m.setBand c b { v with st := .off, since := now } else m))
/-- BAND_WAKE_DONE (11 R219). -/
def execBandWakeDone (c b : Nat) (s : State) : Out :=
  .next (runEvent s (fun now m =>
    let v := (m.cluster c).band b
    if v.st = .waking && decide (v.since + 400 ≤ now) then
      let m := m.setBand c b { v with st := .on, since := now }
      if decide (v.lastNeed + 1050 ≤ now) then m.post (max (now + 1) (v.lastNeed + 1050)) (.bandIdleOff c b) else m
    else m))

/-! ## Streams and slots -/

/-- The operand class of a stream (11 R217): 0 F16, 1 F8, 2 I8, 3 F4. -/
def stClass (st : BitVec 256) (q : Nat) : Nat :=
  if bit st 119 then (if q % 16 = 4 then 3 else 1) else if stField st 112 4 < 2 then 2 else 0
/-- k per band of a class (11 R217). -/
def bandK (cls : Nat) : Nat := match cls with | 0 => 64 | 3 => 256 | _ => 128
/-- The K limit of a class (11 R217). -/
def kLimit (cls : Nat) (sp : Bool) : Nat := match cls with | 0 => if sp then 512 else 256 | 3 => 1024 | _ => if sp then 1024 else 512
/-- The element width of a stream. -/
def stWidth (st : BitVec 256) (q : Nat) : Nat := if bit st 119 then q % 16 else tw (stField st 112 4)
/-- The block size of a stream; 0 without blocks. -/
def stBlk (st : BitVec 256) : Nat := match stField st 120 2 with | 0 => 0 | 1 => 16 | 2 => 32 | _ => 64
/-- K of a stream. -/
def stK (st : BitVec 256) : Nat := stField st 96 16
/-- Bytes of the elements of one row, halved and with metadata under sparsity (05 R97, 11 R220). -/
def stRowLen (st : BitVec 256) (q : Nat) (sp : Bool) : Nat :=
  if sp then stK st / 2 * (stWidth st q) / 8 + stK st / 8 else (stK st * stWidth st q + 7) / 8
/-- Bytes of the scales of one row. -/
def stSclLen (st : BitVec 256) : Nat := if stBlk st = 0 then 0 else stK st / stBlk st
/-- The address of row `i` and of its scales (05 R88). -/
def stRowAt (st : BitVec 256) (i : Nat) : W64 := bits st 0 64 + w64 ((i : Int) * sext 32 (stField st 64 32))
/-- The address of the scales of row `i`. -/
def stSclAt (st : BitVec 256) (i : Nat) : W64 := bits st 128 64 + w64 ((i : Int) * sext 32 (stField st 192 32))
/-- P of an image of `n` columns (11 R220). -/
def imageLen (st : BitVec 256) (q n : Nat) (sp : Bool) : Nat :=
  let k := stK st
  let e := n * k * stWidth st q / 8
  (if sp then e / 2 else e) + (if stBlk st = 0 then 0 else n * k / stBlk st) + (if sp then n * k / 8 else 0)
/-- Do `n` bytes at an address of the issuing cluster's slice lie in the window? -/
def Mach.ownSlice (m : Mach) (r : Nat) (a : W64) (n : Nat) : Bool :=
  !bit a 63 && sliceCluster a == clusterOf r && (m.resolve (m.hand r).ctx a n false false).isOk
/-- Check 6 of 11 R229 on the rows, scales and mask of a stream. -/
def Mach.streamIn (m : Mach) (r : Nat) (st : BitVec 256) (q n : Nat) (sp vm : Bool) : Option Stop :=
  let row := fun (i : Nat) => (stRowAt st i, stRowLen st q sp)
  let scl := fun (i : Nat) => (stSclAt st i, stSclLen st)
  let msk : W64 × Nat := (bits st 0 64 + BitVec.ofNat 64 (stField st 224 32), (n + 7) / 8)
  let ps := (List.range n).flatMap (fun i => if stBlk st = 0 then [row i] else [row i, scl i])
  let ps := if vm && bit st 122 then ps ++ [msk] else ps
  match ps.find? (fun p => !m.ownSlice r p.1 p.2) with
  | none => none
  | some p => trapOf 7 0 [p.1, slotN p.2, slotN (sliceCluster p.1)]

/-- What a slot holds once every accepted command on it has acted (11 R229, checks 2, 3, 5). -/
structure SlotView where
  tag : Option Nat := none
  wld : Nat := 0
  ready : Bool := false
  cls : Nat := 0
  k : Nat := 0
  sp : Bool := false
  packed : Bool := false
  deriving DecidableEq, Repr
/-- Is an image a packed one (11 R221)? -/
def packedImg (st : BitVec 256) (sp : Bool) : Bool := bit st 119 || stBlk st != 0 || sp
/-- The view of a slot. -/
def Cluster.slotView (x : Cluster) (s : Nat) : SlotView :=
  let v := KMap.get {} x.wbuf s
  let v0 : SlotView := if v.st = 0 then {} else { tag := some v.ctx, ready := v.st == 2, cls := v.cls, k := v.k, sp := v.sp,
                                                  packed := v.nf || v.blk != 0 || v.sp }
  (x.cmds.filter (fun c => c.slot == s)).foldl (fun v c => match c.op with
    | .wld => { tag := some c.ctx, wld := c.acc, ready := true, cls := stClass c.st c.q, k := stK c.st, sp := c.flags.testBit 0,
                packed := packedImg c.st (c.flags.testBit 0) }
    | .wdrop => {}
    | _ => v) v0

/-! ## The array command queue -/

/-- The commands of a hand's queue (11 R233). -/
def Mach.cmdsOf (m : Mach) (r : Nat) : List Cmd := (m.cluster (clusterOf r)).cmds.filter (fun c => c.hand == r)
/-- A ninth command freezes with code 9 until the oldest of the eight completes (11 R233), which `waitOldest` has noted. -/
def Mach.queueFull (m : Mach) (r : Nat) : Option Stop :=
  let h := m.hand r
  if h.stage != 0 then freezeIf ((m.cmdsOf r).any (fun c => slotN c.acc == h.stageV)) 9
  else if 8 ≤ (m.cmdsOf r).length then some (.start 9)
  else none
/-- The oldest command of a full queue noted. -/
def Mach.waitOldest (m : Mach) (r : Nat) : Mach :=
  m.modHand r (fun h => { h with stageV := slotN (((m.cmdsOf r).map (·.acc)).headD 0) })
/-- A command replaced. -/
def Mach.putCmd (m : Mach) (c : Nat) (d : Cmd) : Mach :=
  m.modCluster c (fun x => { x with cmds := x.cmds.map (fun e => if e.acc == d.acc then d else e) })
/-- The command of a hand with a sequence number. -/
def Mach.findCmd (m : Mach) (r seq : Nat) : Option Cmd := (m.cmdsOf r).find? (fun c => c.seq == seq)
/-- Does command `d`, which touches the handle of the free `c`, hold it back (12 R241, R249)? Every earlier one does, and a later MMA or
MMAT, but for one behind a command that itself waits for the free (R246, log 39). -/
def Cluster.holdsFree (x : Cluster) (c d : Cmd) : Bool :=
  decide (d.acc < c.acc) || (d.isMma && !x.cmds.any (fun e => decide (c.acc < e.acc) && decide (e.acc < d.acc) && !e.isMma
    && overlap e.rows c.rows && overlap e.rows d.rows))
/-- Have all events come on which the start of a command waits (11 R223, R228, R231, R232, 12 R241, R246, 14 R281)? An MMA does not wait for
an earlier free of its handle, which waits for it (R249, log 39). -/
def Cluster.canStart (x : Cluster) (c : Cmd) : Bool :=
  let before := x.cmds.takeWhile (fun d => d.acc != c.acc)
  let mine := before.filter (fun d => d.hand == c.hand)
  let prev := mine.getLast?.elim true (·.started)
  match c.op with
  | .mshape | .mmode => mine.all (·.started)
  | .wld => before.all (fun d => d.op != .wld && !d.usesSlot c.slot)
  | .wdrop => before.all (fun d => !d.usesSlot c.slot)
  | .mma | .mmat =>
    let lastM := (before.filter Cmd.isMma).getLast?
    (match lastM with
     | none => true
     | some d => d.started && d.slot == c.slot)
      && before.all (fun d => !(d.op == .wld && d.slot == c.slot)
        && !((d.op == .acmz || d.op == .acmad || d.op == .acmst || d.op == .rslv) && overlap d.rows c.rows))
  | .acmfr => x.cmds.all (fun d => d.acc == c.acc || !overlap d.rows c.rows || !x.holdsFree c d)
  | .acmz | .acmad | .acmst | .rslv => prev && before.all (fun d => !overlap d.rows c.rows)
/-- The end of the wakes under way among some bands (11 R219, R232). -/
def Cluster.wakeEnd (x : Cluster) (need : Nat) : Nat :=
  (List.range 4).foldl (fun t b => if need.testBit b && (x.band b).st == .waking then max t ((x.band b).since + 400) else t) 0
/-- The time at which a command whose events have come starts: after the wake of its bands, and, behind an MMA on the same
slot, after that one's rows (11 R232); a free after the landings of the drains of its handle (12 R241). -/
def Cluster.startAt (x : Cluster) (now : Nat) (c : Cmd) : Nat :=
  let before := x.cmds.takeWhile (fun d => d.acc != c.acc)
  if c.isMma then ((before.filter Cmd.isMma).getLast?).elim (max now (x.wakeEnd c.need)) (fun d => max (max now (x.wakeEnd c.need)) (d.startT + d.count))
  else if c.op == .acmfr then x.drains.foldl (fun t d => if d.1 = (hdlOf c.handle).base then max t d.2 else t) now
  else now
/-- The event that starts a command. -/
def Cmd.startEvent (c : Cmd) : Instr :=
  match c.op with
  | .mshape | .mmode => .modeCommandComplete c.hand c.seq
  | .wld => .wldStart c.hand c.seq
  | .wdrop => .wdropAct c.hand c.seq
  | .mma | .mmat => .mmaStart c.hand c.seq
  | .rslv => .rslvStart c.hand c.seq
  | _ => .accumCommandStart c.hand c.seq
/-- The commands of a cluster that pre-emption saved (11 R235). -/
def Mach.savedCmds (m : Mach) (c : Nat) : List Cmd :=
  (m.hands.filter (fun p => clusterOf p.1 == c)).flatMap (fun p => p.2.cmdSaved)
    ++ m.ctxs.flatMap (fun p => (p.2.images.filter (fun st => st.team / 2 == c)).flatMap (fun st => st.hands.flatMap (·.cmdSaved)))
/-- Does a command rely on a WLD that pre-emption saved, so that it waits for the resumption (11 R228, R235)? -/
def Mach.wldSaved (m : Mach) (c : Nat) (d : Cmd) : Bool := d.isMma && (m.savedCmds c).any (fun s => s.op == .wld && s.acc == d.wldAcc)
/-- Every command that can now start gets its start event; none while the partition is throttled (20 R382). -/
def Mach.armCmds (m : Mach) (now c : Nat) : Mach :=
  let x := m.cluster c
  if (m.part (m.clPart c)).throttle then m else
  (x.cmds.filter (fun d => !d.armed && x.canStart d && !m.wldSaved c d)).foldl (fun m d =>
    let t := x.startAt now d
    (m.putCmd c { d with armed := true, startT := t }).post t d.startEvent) m
/-- Is a command kept from starting at its event: by a throttle that has begun since (20 R382), or by a band that wakes again (11 R219)? -/
def Mach.startHeld (m : Mach) (now : Nat) (c : Cmd) : Bool :=
  let cl := clusterOf c.hand
  !c.started && ((m.part (m.clPart cl)).throttle || decide (now < (m.cluster cl).wakeEnd c.need))
/-- Such a command is looked at anew: after the wake, or when the throttle ends. -/
def Mach.holdCmd (m : Mach) (now : Nat) (c : Cmd) : Mach := (m.putCmd (clusterOf c.hand) { c with armed := false }).armCmds now (clusterOf c.hand)
/-- A command is accepted (11 R225, R229): it takes its numbers, its bands, and one of the run. -/
def Mach.acceptCmd (m : Mach) (now r : Nat) (c : Cmd) : Mach :=
  let cl := clusterOf r
  let x := m.cluster cl
  let h := m.hand r
  let seq := ((h.creg 0x043).toNat + 1) % 2 ^ 32
  let m := (m.setHand r (h.setCreg 0x043 (BitVec.ofNat 64 seq))).setCluster cl { x with accNo := x.accNo + 1 }
  let m := (List.range 4).foldl (fun m b => if c.need.testBit b then m.needBand now cl b else m) m
  let c := { c with id := m.nextId, acc := x.accNo + 1, hand := r, ctx := h.ctx, seq := seq }
  let m := (m.modCluster cl (fun x => { x with cmds := x.cmds ++ [c] })).bump
  let m := if c.leased then m.modLease cl (fun l => if l.rem ≤ 1 then l.endRun else { l with rem := l.rem - 1 }) else m
  m.armCmds now cl
/-- The commands accepted in a cluster that have not completed, with those that pre-emption saved (11 R235). -/
def Mach.accepted (m : Mach) (c : Nat) : List Cmd := (m.cluster c).cmds ++ m.savedCmds c
/-- Does an accepted RSLV that has not completed read rows of an entry (14 R274)? -/
def Mach.rslvReads (m : Mach) (c : Nat) (t : Spte) : Bool :=
  let h := hdlOf t.handle
  t.hb && (m.accepted c).any (fun c => c.op == .rslv && c.adds.any (fun a => decide (16 * h.base ≤ a.row && a.row < 16 * h.base + h.rows)))
/-- SPTCNT fields of a context: CONF, SQ, RERUN, FDISC raised, saturating (14 R273). -/
def Cluster.sptCount (x : Cluster) (k : Nat) (ns : List Nat) : Cluster :=
  { x with sptcnt := (ns.zipIdx).foldl (fun t p =>
      if p.1 = 0 then t else t.set (4 * k + p.2) (min 65535 (KMap.get 0 t (4 * k + p.2) + p.1))) x.sptcnt }
/-- An entry of the speculation table freed: the handle is unbound, its marks and mappings go, and a failed fetch counts in FDISC (14
R274). -/
def Cluster.spteFree (x : Cluster) (i : Nat) : Cluster :=
  let t := KMap.get {} x.spt i
  let x := if t.fst = 3 then x.sptCount t.ctx [0, 0, 0, 1] else x
  { x with spt := x.spt.set i {} }
/-- The entries whose free waited for an RSLV that has gone, freed (14 R274). -/
def Mach.freeSptes (m : Mach) (c : Nat) : Mach :=
  ((m.cluster c).spt.filter (fun p => p.2.freeing && !m.rslvReads c p.2)).foldl (fun m p => m.modCluster c (fun x => x.spteFree p.1)) m
/-- A command has completed: it leaves its queue, its token enters, and others may start. -/
def Mach.finishCmd (m : Mach) (now : Nat) (c : Cmd) : Mach :=
  let cl := clusterOf c.hand
  (((m.modCluster cl (fun x => { x with cmds := x.cmds.filter (fun d => d.acc != c.acc) })).freeSptes cl).modHand c.hand
    (fun h => h.completeTok now c.push)).armCmds now cl
/-- A result that will never land given back: its queue places and its token's place (11 R228). -/
def Hand.dropResult (h : Hand) (id : Nat) : Hand :=
  match h.results.find? (fun x => x.id == id) with
  | none => h
  | some x =>
    let qs := x.lands.filterMap Land.queueNo
    let h := qs.foldl (fun h q => { h with v := h.v.set q ((h.queue q).filter (fun s => s != .reserved id)), pool := h.pool + 1 }) h
    let h := { h with results := h.results.filter (fun y => y.id != id) }
    if x.push = 0 then h else h.setFifo x.push { h.fifo x.push with reserved := (h.fifo x.push).reserved - 1 }
/-- Commands discarded without effect: their tokens are never pushed. -/
def Mach.dropCmds (m : Mach) (cl : Nat) (p : Cmd → Bool) : Mach :=
  let ds := (m.cluster cl).cmds.filter p
  let m := (m.modCluster cl (fun x => { x with cmds := x.cmds.filter (fun c => !p c) })).freeSptes cl
  ds.foldl (fun m c => m.modHand c.hand (fun h => h.dropResult c.res)) m
/-- The commands that pre-emption saved with a hand, from the first that meets `p` on, discarded, and a fault noted that counts them (11
R228, R235). -/
def Hand.dropSaved (h : Hand) (p : Cmd → Bool) (cause reason : Nat) : Hand :=
  let n := h.cmdSaved.length - (h.cmdSaved.takeWhile (fun c => !p c)).length
  if n = 0 then h
  else
    let f : FaultRec := ⟨cause, reason, [slotN n]⟩
    let h := (h.cmdSaved.drop (h.cmdSaved.length - n)).foldl (fun h c => h.dropResult c.res) h
    { h with cmdSaved := h.cmdSaved.take (h.cmdSaved.length - n), lost := if 8 ≤ h.pending.length then h.lost + 1 else h.lost,
             pending := if 8 ≤ h.pending.length then h.pending else h.pending ++ [f] }
/-- The same in the hands of a cluster, and in the teams saved from it. -/
def Mach.dropSaved (m : Mach) (cl : Nat) (p : Cmd → Bool) (cause reason : Nat) : Mach :=
  { m with hands := m.hands.map (fun (q : Nat × Hand) => if clusterOf q.1 = cl then (q.1, q.2.dropSaved p cause reason) else q),
           ctxs := m.ctxs.map (fun (q : Nat × Ctx) => (q.1, { q.2 with images := q.2.images.map (fun (st : SavedTeam) =>
             if st.team / 2 = cl then { st with hands := st.hands.map (fun h => h.dropSaved p cause reason) } else st) })) }
/-- A command that cannot start is discarded with every later one of its hand's queue, and a fault is recorded that counts them (11 R228,
R235); a WLD among them leaves its slot EMPTY, and the commands of other hands that rely on it follow. `fuel` bounds the chain. -/
def Mach.dropFrom (now : Nat) : Nat → Mach → Cmd → Nat → Nat → Mach
  | 0, m, _, _, _ => m
  | fuel + 1, m, c, cause, reason =>
    let cl := clusterOf c.hand
    if !(m.cluster cl).cmds.any (fun e => e.acc == c.acc) then m
    else
      let p := fun (d : Cmd) => d.hand == c.hand && decide (c.acc ≤ d.acc)
      let ds := (m.cluster cl).cmds.filter p
      let ws := ds.filter (fun d => d.op == .wld)
      let m := (m.dropCmds cl p).noteFault c.hand ⟨cause, reason, [slotN ds.length]⟩
      let m := m.modCluster cl (fun x => { x with wbuf := ws.foldl (fun t w => if w.started then t.set w.slot {} else t) x.wbuf })
      let rely := fun (d : Cmd) => d.isMma && !d.started && ws.any (fun w => w.acc == d.wldAcc)
      ((m.cluster cl).cmds.foldl (fun m d => if rely d then Mach.dropFrom now fuel m d 0x10 2 else m) (m.dropSaved cl rely 0x10 2)).armCmds now cl
/-- A band forced off by the controller (11 R219, R235): commands that need it and have not started are discarded. -/
def Mach.forceBand (m : Mach) (now c b : Nat) : Mach :=
  let m := m.setBand c b { (m.cluster c).band b with st := .forced, since := now }
  let p := fun (d : Cmd) => d.isMma && !d.started && d.need.testBit b
  let m := { m with hands := m.hands.map (fun (q : Nat × Hand) => if clusterOf q.1 = c then (q.1, q.2.dropSaved p 0x17 4) else q) }
  (m.cluster c).cmds.foldl (fun m d => if p d then Mach.dropFrom now 64 m d 0x17 4 else m) m
/-- A forced band released (11 R219). -/
def Mach.releaseBand (m : Mach) (now c b : Nat) : Mach :=
  let v := (m.cluster c).band b
  if v.st = .forced then m.setBand c b { v with st := .off, since := now } else m

/-- MODE_COMMAND_COMPLETE: an MSHAPE or MMODE completes when every earlier command of the hand has started (11 R227). -/
def execModeCommandComplete (r seq : Nat) (s : State) : Out :=
  .next (runEvent s (fun now m => match m.findCmd r seq with
    | none => m
    | some c => if m.startHeld now c then m.holdCmd now c else m.finishCmd now c))

/-- An MSHAPE or MMODE word: it is accepted, and its value stands for later commands (11 R227). -/
def modeMeaning (x : At) (m : Mach) (w : MC) (op : CmdOp) (creg : Nat) : Meaning where
  own := m.queueFull x.r
  wait m' := m'.waitOldest x.r
  eff m' := (m'.modHand x.r (fun h => h.setCreg creg (BitVec.ofNat 64 (w.flags.toNat % 16)))).acceptCmd x.now x.r
    { acc := 0, hand := x.r, ctx := 0, seq := 0, op := op, push := pushFifo x.e w.hdr.push }
/-- MSHAPE (11 R218, R227). -/
def execMshape (w : MC) (s : State) : Out := .next (runWord s .m (.mshape w) (lateHdr w.hdr) (fun x m => modeMeaning x m w .mshape 0x042))
/-- MMODE (11 R227, 08 R172). -/
def execMmode (w : MC) (s : State) : Out := .next (runWord s .m (.mmode w) (lateHdr w.hdr) (fun x m => modeMeaning x m w .mmode 0x032))

/-! ## Reading rows -/

/-- The bytes of a range of the issuing cluster's slice, or the fault of reaching it. -/
def Mach.sliceBytes (m : Mach) (r : Nat) (a : W64) (n : Nat) : Except FaultRec (List Byte × List Nat) :=
  (m.span (m.hand r).ctx a n false false).map (fun l => (l.flatMap (fun p => m.readRow p.1 p.2), l.map (·.1)))
/-- Element codes and scale bytes of row `i` of a stream, with the rows of memory read. -/
def Mach.streamRow (m : Mach) (r : Nat) (st : BitVec 256) (q i : Nat) : Except FaultRec ((List Nat × List Nat) × List Nat) :=
  match m.sliceBytes r (stRowAt st i) (stRowLen st q false) with
  | .error f => .error f
  | .ok (bs, ks) => match m.sliceBytes r (stSclAt st i) (stSclLen st) with
    | .error f => .error f
    | .ok (sb, ks') => .ok ((splitElems (stWidth st q) (stK st) bs, sb.map (·.toNat)), ks ++ ks')
/-- A group of 2:4 metadata: two ascending positions (05 R97, 11 R228). -/
def pairOk (b : Nat) : Bool := decide (b % 4 < b / 4 % 4)
/-- Kept elements put back in their places, `none` where a pair of positions is wrong (11 R228). -/
def unsparse : List Nat → List Nat → Option (List Nat)
  | [], _ => some []
  | b :: bs, vs =>
    if !pairOk b then none
    else match unsparse bs (vs.drop 2) with
      | none => none
      | some t => some ((List.range 4).map (fun i => if i = b % 4 then vs.getD 0 0 else if i = b / 4 % 4 then vs.getD 1 0 else 0) ++ t)
/-- Column `i` of a WLD as a whole column of K elements; an error is a fault or, `none`, wrong metadata. -/
def Mach.wldColumn (m : Mach) (c : Cmd) (i : Nat) : Except (Option FaultRec) ((List Nat × List Nat) × List Nat) :=
  let sp := c.flags.testBit 0
  if !sp then match m.streamRow c.hand c.st c.q i with | .error f => .error (some f) | .ok v => .ok v
  else match m.sliceBytes c.hand (stRowAt c.st i) (stRowLen c.st c.q true), m.sliceBytes c.hand (stSclAt c.st i) (stSclLen c.st) with
    | .error f, _ => .error (some f)
    | _, .error f => .error (some f)
    | .ok (bs, ks), .ok (sb, ks') =>
      let w := stWidth c.st c.q
      let k := stK c.st
      match unsparse (splitElems 4 (k / 4) (bs.drop (k / 2 * w / 8))) (splitElems w (k / 2) bs) with
      | none => .error none
      | some es => .ok ((es, sb.map (·.toNat)), ks ++ ks')

/-! ## WLD and WDROP -/

/-- A WLD fails: its slot becomes EMPTY, its fault is recorded, and the commands that rely on it, those that pre-emption saved too, are
discarded with those behind them (11 R228). -/
def Mach.wldFails (m : Mach) (now : Nat) (c : Cmd) (f : FaultRec) : Mach :=
  let cl := clusterOf c.hand
  let m := (m.modCluster cl (fun x => { x with wbuf := x.wbuf.set c.slot {}, cmds := x.cmds.filter (fun d => d.acc != c.acc) })).recordFault
    c.hand f
  let rely := fun (d : Cmd) => d.isMma && !d.started && d.wldAcc == c.acc
  ((m.cluster cl).cmds.foldl (fun m d => if rely d then Mach.dropFrom now 64 m d 0x10 2 else m) (m.dropSaved cl rely 0x10 2)).armCmds now cl
/-- WLD_START: the slot is LOADING, and column after column is read at 128 bytes per cycle (11 R228). -/
def execWldStart (r seq : Nat) (s : State) : Out :=
  .next (runEvent s (fun now m =>
    match m.findCmd r seq with
    | none => m
    | some c =>
      if m.startHeld now c then m.holdCmd now c
      else
      let cl := clusterOf r
      let sp := c.flags.testBit 0
      let p := imageLen c.st c.q c.count sp
      let m := if c.started then m
        else (m.modCluster cl (fun x => { x with wbuf := x.wbuf.set c.slot { st := 1, ctx := c.ctx } })).post
          (c.startT + 6 + (p + 127) / 128) (.wldComplete r seq)
      let i := c.got.length
      match m.wldColumn c i with
      | .error (some f) => m.wldFails now c (copyFault (copyErr 0 f).1 0 [0, 0, 0, 0, 0, 0] (stRowAt c.st i) f.asSlots)
      | .error none => m.wldFails now c (copyFault 7 0 [0, 0, 0, 0, 0, 0] (stRowAt c.st i) [])
      | .ok (col, ks) =>
        let m := ((m.countErrors cl ks).noteUE r ks).putCmd cl { c with started := true, got := c.got ++ [some col] }
        let m := if c.started then m else m.armCmds now cl
        if i + 1 < c.count then m.post (max now (c.startT + (i + 1) * ((p + c.count - 1) / c.count) / 128)) (.wldStart r seq) else m))
/-- WLD_COMPLETE: the slot is READY with its image and all that the slot records (11 R221, R228). -/
def execWldComplete (r seq : Nat) (s : State) : Out :=
  .next (runEvent s (fun now m =>
    match m.findCmd r seq with
    | none => m
    | some c =>
      if c.got.length < c.count then m.post (now + 1) (.wldComplete r seq)
      else
        let v : WSlot := { st := 2, ctx := c.ctx, cls := stClass c.st c.q, ty := stField c.st 112 4, nf := bit c.st 119, q := c.q,
                           blk := stBlk c.st, sp := c.flags.testBit 0, k := stK c.st, n := c.count,
                           cols := c.got.filterMap (fun g => g.map (fun p => ⟨p.1, p.2⟩)) }
        (m.modCluster (clusterOf r) (fun x => { x with wbuf := x.wbuf.set c.slot v })).finishCmd now c))
/-- WDROP_ACT (11 R231). -/
def execWdropAct (r seq : Nat) (s : State) : Out :=
  .next (runEvent s (fun now m =>
    match m.findCmd r seq with
    | none => m
    | some c =>
      if m.startHeld now c then m.holdCmd now c
      else (m.modCluster (clusterOf r) (fun x => { x with wbuf := x.wbuf.set c.slot {} })).finishCmd now c))

/-- Checks 1 and 2 of 11 R229. -/
def Mach.leaseStop (m : Mach) (r s : Nat) : Option Stop :=
  let v := (m.cluster (clusterOf r)).slotView s
  firstStop [trapIf (!m.holds r) 0x10 1, trapIf (v.tag.elim false (fun k => k != (m.hand r).ctx)) 0x10 3]
/-- The Q register that a stream names, as captured (08 R159). -/
def Hand.stQ (h : Hand) (st : BitVec 256) : Nat := (bits (h.creg (0x038 + stField st 116 3)) 0 19).toNat
/-- WLD (11 R228, R229). -/
def execWld (w : MC) (s : State) : Out :=
  .next (runWord s .m (.wld w) (lateHdr w.hdr) (fun x m =>
    let h := m.hand x.r
    let st := h.streg w.stream.toNat
    let q := h.stQ st
    let sp := bit w.flags 0
    let n := w.count.toNat
    let cls := stClass st q
    let k := stK st
    let fits := k != 0 && decide (k ≤ kLimit cls sp) && (stBlk st == 0 || k % stBlk st == 0) && decide (imageLen st q n sp ≤ 131072)
      && (!sp || (k % 8 == 0 && cls != 3 && (!bit st 119 || q % 16 == 8)))
    { own := firstStop [m.leaseStop x.r w.slot.toNat, trapIf (!fits) 1 8, m.streamIn x.r st q n sp false, m.queueFull x.r]
      wait := fun m' => m'.waitOldest x.r
      eff := fun m' => m'.acceptCmd x.now x.r
        { acc := 0, hand := x.r, ctx := 0, seq := 0, op := .wld, slot := w.slot.toNat, count := n, flags := w.flags.toNat, st := st,
          q := q, push := pushFifo x.e w.hdr.push, leased := true } }))
/-- WDROP (11 R229, R231). -/
def execWdrop (w : MC) (s : State) : Out :=
  .next (runWord s .m (.wdrop w) (lateHdr w.hdr) (fun x m =>
    { own := firstStop [m.leaseStop x.r w.slot.toNat, m.queueFull x.r]
      wait := fun m' => m'.waitOldest x.r
      eff := fun m' => m'.acceptCmd x.now x.r
        { acc := 0, hand := x.r, ctx := 0, seq := 0, op := .wdrop, slot := w.slot.toNat, push := pushFifo x.e w.hdr.push, leased := true } }))

/-! ## The dot product (08 R175) -/

/-- The values of the elements of a row or column: type code or narrow format, with the block scales. -/
def elemVals (nf : Bool) (ty q blk : Nat) (p : List Nat × List Nat) : List FVal :=
  let f := if nf then qFmt q else FFmt.ofType ty
  (p.1.zipIdx).map (fun e => if blk = 0 then f.decode e.1 else scaled (p.2.getD (e.2 / blk) 127) (f.decode e.1))
/-- An exact sum of products: NaN and infinities as 08 R175 says. -/
def exactDot : List (FVal × FVal) → FVal → FVal
  | [], acc => acc
  | (a, b) :: t, acc => exactDot t (addNum 0 acc (mulNum a b).1).1
/-- One group's exact sum, rounded once to f32 (08 R175, step 2); `pad` adds the zero products at and above K. -/
def groupSum (ps : List (FVal × FVal)) (pad : Bool) : Nat :=
  let z : FVal := .fin ⟨false, 0, 0⟩
  match ps with
  | [] => 0
  | (a, b) :: t =>
    let s := exactDot t (mulNum a b).1
    (arithResult .f32 0 ((if pad then (addNum 0 s z).1 else s), 0)).code
/-- Is the group that starts at `k` in an active band (08 R175)? -/
def inBand (mask wb k : Nat) : Bool := mask.testBit (k / wb)
/-- The rounded sums of the kept groups, ascending. -/
def groupSums (g mask wb : Nat) : Nat → Nat → List (FVal × FVal) → List Nat
  | 0, _, _ => []
  | n + 1, k, ps =>
    if ps.isEmpty then []
    else
      let rest := groupSums g mask wb n (k + g) (ps.drop g)
      if inBand mask wb k then groupSum (ps.take g) (decide (ps.length < g)) :: rest else rest
/-- The running sum of 08 R175, step 3; `none` for an empty one. -/
def runningSum : List Nat → Option Nat
  | [] => none
  | x :: t => some (t.foldl addF32 x)
/-- The dot product of a row with a column in a floating class (08 R175). -/
def dotF (g mask wb : Nat) (a b : List FVal) : Option Nat := runningSum (groupSums g mask wb (a.length + 1) 0 (List.zip a b))
/-- The dot product in an integer class: exact, wrapping (08 R175). -/
def dotI (mask wb : Nat) (a b : List Int) : Nat :=
  intCode 32 (((List.zip a b).zipIdx).foldl (fun s p => if inBand mask wb p.2 then s + p.1.1 * p.1.2 else s) 0)

/-! ## MMA and MMAT -/

/-- The bands that a command needs: active ones that hold some k below K (11 R219). -/
def bandsNeeded (mask wb k : Nat) : Nat := (List.range 4).foldl (fun a b => if mask.testBit b && decide (b * wb < k) then a + 2 ^ b else a) 0
/-- wb of a command on a slot: doubled under sparsity (11 R217). -/
def wbOf (cls : Nat) (sp : Bool) : Nat := if sp then 2 * bandK cls else bandK cls
/-- One output row: the old row with the N dot products added or put (11 R230). -/
def mmaRow (c : Cmd) (v : WSlot) (a : List Nat × List Nat) (old : BitVec 8192) : BitVec 8192 :=
  let wb := wbOf v.cls v.sp
  let za := c.flags.testBit 1
  let g := match v.cls with | 0 => 4 | 3 => 16 | _ => 8
  let sums := if v.cls = 2 then
      let av := a.1.map (intOf (stField c.st 112 4 == 0) 8)
      v.cols.map (fun b => some (dotI c.band wb av (b.elems.map (intOf (v.ty == 0) 8))))
    else
      let av := elemVals (bit c.st 119) (stField c.st 112 4) c.q (stBlk c.st) a
      v.cols.map (fun b => dotF g c.band wb av (elemVals v.nf v.ty v.q v.blk (b.elems, b.scales)))
  acmPack ((List.range 256).map (fun n => match sums[n]? with
    | none => acmElem old n
    | some x =>
      if v.cls = 2 then (if za then x.getD 0 else (acmElem old n + x.getD 0) % 2 ^ 32)
      else if za then x.getD 0 else addF32 (acmElem old n) (x.getD 0)))
/-- MMAT marks the rows it wrote as computed, while their handle is bound (11 R230, 14 R278). -/
def Cluster.markRows (x : Cluster) (c : Cmd) (rows : List Nat) : Cluster :=
  let h := hdlOf c.handle
  let e := KMap.get {} x.spt h.tag
  if c.op == .mmat && e.open_ && e.hb && e.handle == c.handle then
    { x with spt := x.spt.set h.tag { e with computed := (e.computed ++ rows).eraseDups } }
  else x
/-- A slot as an MMA reads it: zeros from one with an uncorrectable error (19 R379). -/
def Mach.slotSeen (m : Mach) (c j : Nat) : WSlot :=
  let v := KMap.get {} (m.cluster c).wbuf j
  if m.rowError (wbufKey c j) == some true then
    { v with cols := v.cols.map (fun k => ⟨k.elems.map (fun _ => 0), k.scales.map (fun _ => 0)⟩) }
  else v
/-- The output rows up to row `n`, of those not yet written, written: an invalid row leaves its row unchanged (11 R230,
R232). The rows as they stood are kept for ACMPK (12 R242). -/
def Mach.mmaWrite (m : Mach) (c : Cmd) (n : Nat) : Mach :=
  let cl := clusterOf c.hand
  let x := m.cluster cl
  let v := m.slotSeen cl c.slot
  let p0 := 16 * (hdlOf c.handle).base + c.row0
  let rows := (c.got.zipIdx.drop c.wrote).take (n - c.wrote)
  let x1 := rows.foldl (fun (x : Cluster) g => match g.1 with
    | none => x
    | some a => { x with acm := x.acm.set (p0 + g.2) (mmaRow c v a (x.acmRow (p0 + g.2))) }) x
  let done := (rows.filter (fun g => g.1.isSome)).map (fun g => c.row0 + g.2)
  (m.setCluster cl (x1.markRows c done)).putCmd cl { c with wrote := max c.wrote n
                                                            olds := c.olds ++ (rows.filter (fun g => g.1.isSome)).map (fun g => (p0 + g.2, x.acmRow (p0 + g.2))) }
/-- The cycles from a row's input to its output (11 R221, R232). -/
def Cmd.depth (c : Cmd) : Nat := 265 + c.deep
/-- One A row goes into the array; an invalid row reads nothing, and a row with an uncorrectable error is recorded and not
written (11 R230); an error in the mask byte counts too, and the byte reads as zero (19 R379). -/
def Mach.mmaInput (m : Mach) (c : Cmd) : Mach × Cmd :=
  let r := c.hand
  let i := c.got.length
  let ma := bits c.st 0 64 + BitVec.ofNat 64 (stField c.st 224 32 + i / 8)
  let masked := c.flags.testBit 0 && bit c.st 122
  let mb := if masked then m.sliceBytes r ma 1 else .ok ([], [])
  let mk := match mb with | .ok p => p.2 | .error _ => []
  let valid := !masked || (match mb with | .ok (b :: _, _) => b.toNat.testBit (i % 8) | _ => false)
  let m := (m.countErrors (clusterOf r) mk).noteUE r mk
  let out := match (if valid then some (m.streamRow r c.st c.q i) else none) with
    | none => (m, none)
    | some (.error f) => (m.recordFault r f, none)
    | some (.ok (v, ks)) => ((m.countErrors (clusterOf r) ks).noteUE r ks, if (m.anyUE ks).isSome then none else some v)
  let c' := { c with started := true, got := c.got ++ [out.2] }
  (out.1.putCmd (clusterOf r) c', c')
/-- MMA_START: the command starts, and takes one A row into the array in each cycle; row i of the output is written when it
leaves the array (11 R230, R232). -/
def execMmaStart (r seq : Nat) (s : State) : Out :=
  .next (runEvent s (fun now m =>
    match m.findCmd r seq with
    | none => m
    | some c =>
      if m.startHeld now c then m.holdCmd now c
      else
      let d := c.depth
      let wk := [wbufKey (clusterOf r) c.slot]
      let m0 := if c.started then m
        else ((m.countErrors (clusterOf r) wk).noteUE r wk).post (c.startT + c.count + d - 1) (.mmaComplete r seq)
      let q := if c.got.length < c.count && decide (c.startT + c.got.length ≤ now) then m0.mmaInput c else (m0, c)
      let m1 := if c.started then q.1 else q.1.armCmds now (clusterOf r)
      let n := min (q.2.count - 1) (now + 1 - (c.startT + d))
      let m2 := if q.2.wrote < n then m1.mmaWrite q.2 n else m1
      if q.2.got.length < q.2.count then m2.post (c.startT + q.2.got.length) (.mmaStart r seq)
      else if max q.2.wrote n + 1 < q.2.count then m2.post (c.startT + max q.2.wrote n + d) (.mmaStart r seq)
      else m2))
/-- MMA_COMPLETE: the last row is written (11 R230, R232). -/
def execMmaComplete (r seq : Nat) (s : State) : Out :=
  .next (runEvent s (fun now m =>
    match m.findCmd r seq with
    | none => m
    | some c => (m.mmaWrite c c.count).finishCmd now c))
/-- The checks and acceptance of MMA and MMAT (11 R229, R230). -/
def mmaMeaning (x : At) (m : Mach) (w : MC) (op : CmdOp) : Meaning :=
  let h := m.hand x.r
  let st := h.streg w.stream.toNat
  let q := h.stQ st
  let cls := stClass st q
  let v := (m.cluster (clusterOf x.r)).slotView w.slot.toNat
  let hv := h.hreg w.handle.toNat
  let n := w.count.toNat
  let k := stK st
  let band := (bits (h.creg 0x042) 0 4).toNat
  let need := bandsNeeded band (wbOf cls v.sp) k
  let fits := k != 0 && decide (k ≤ kLimit cls v.sp) && (stBlk st == 0 || k % stBlk st == 0) && cls == v.cls && k == v.k
  { own := firstStop [h.needH w.handle.toNat, m.leaseStop x.r w.slot.toNat, trapIf (!v.ready) 0x10 2,
      m.hdlStop x.r (hdlOf hv) (some (cls == 2)) (some (op == .mmat)) w.row0.toNat n, trapIf (!fits) 1 8,
      m.streamIn x.r st q n false (bit w.flags 0),
      trapIf ((List.range 4).any (fun b => need.testBit b && ((m.cluster (clusterOf x.r)).band b).st == .forced)) 0x17 3,
      m.queueFull x.r]
    wait := fun m' => m'.waitOldest x.r
    eff := fun m' => m'.acceptCmd x.now x.r
      { acc := 0, hand := x.r, ctx := 0, seq := 0, op := op, slot := w.slot.toNat, handle := hv, row0 := w.row0.toNat, count := n,
        flags := w.flags.toNat, st := st, q := q, band := band, rnd := (h.creg 0x032).toNat, push := pushFifo x.e w.hdr.push,
        leased := true, wldAcc := v.wld, need := need, deep := if v.packed then 3 else 0 } }
/-- MMA (11 R230). -/
def execMma (w : MC) (s : State) : Out := .next (runWord s .m (.mma w) (lateHdr w.hdr) (fun x m => mmaMeaning x m w .mma))
/-- MMAT (11 R230). -/
def execMmat (w : MC) (s : State) : Out := .next (runWord s .m (.mmat w) (lateHdr w.hdr) (fun x m => mmaMeaning x m w .mmat))

end Sys2Proof.Machine
end

