-- ==== Sys2Proof/Machine/Transc.lean ====
section
/-! DEFINITION. The six transcendental functions of 10 R202 and R203, each correctly rounded: reciprocal and reciprocal
root from exact integer division, the others from a bracket of the real value at 2^-256 whose two ends must round to
the same code (log 10 names the constant taken where they do not). -/

namespace Sys2Proof.Machine

/-- The fixed-point scale of the brackets. -/
def fxP : Nat := 256
/-- The value one. -/
def fxOne : Nat := 2 ^ fxP
/-- Half the width of a bracket: far more than the truncation errors of the sums below. -/
def fxErr : Nat := 2 ^ 48

/-- The integer square root, one bit at a time from bit `k` down. -/
def isqrtAux (n : Nat) : Nat → Nat → Nat
  | 0, r => r
  | k + 1, r => let t := r + 2 ^ k; isqrtAux n k (if t * t ≤ n then t else r)
/-- The integer square root. -/
def isqrt (n : Nat) : Nat := isqrtAux n (Nat.log2 n / 2 + 1) 0

/-- The series of ln((1+t)/(1-t))/2 = t + t^3/3 + ...: `p` is t^(2k+1), all scaled. -/
def atanhSum (t2 : Nat) : Nat → Nat → Nat → Nat → Nat
  | 0, _, _, acc => acc
  | k + 1, d, p, acc => atanhSum t2 k (d + 2) (p * t2 / fxOne) (acc + p / d)
/-- ln of a/b for b ≤ a ≤ 2b, scaled. -/
def fxLnRatio (a b : Nat) : Nat :=
  let t := (a - b) * fxOne / (a + b)
  2 * atanhSum (t * t / fxOne) 96 1 t 0
/-- ln 2, scaled. -/
def fxLn2 : Nat := fxLnRatio 2 1

/-- The series of e^y: term y^k/k!, scaled. -/
def expSum (y : Nat) : Nat → Nat → Nat → Nat → Nat
  | 0, _, _, acc => acc
  | n + 1, k, t, acc => expSum y n (k + 1) (t * y / fxOne / k) (acc + t)
/-- e^y for 0 ≤ y < 1, scaled. -/
def fxExp (y : Nat) : Nat := expSum y 80 1 fxOne 0
/-- e^-y for a scaled y ≥ 0: reduced by multiples of ln 2. -/
def fxExpNeg (y : Nat) : Nat :=
  -- e^-y = 2^-n * e^(n ln2 - y) with n = floor(y / ln2) + 1
  let n := y / fxLn2 + 1
  fxExp (n * fxLn2 - y) / 2 ^ n

/-- A bracket of magnitudes at scale 2^exp rounded at both ends: the result when they agree. -/
def roundBracket (f : FFmt) (rm : Nat) (neg : Bool) (lo hi : Nat) (exp : Int) : Option FRes :=
  let a := roundArith f rm ⟨neg, lo, exp⟩ true
  let b := roundArith f rm ⟨neg, hi, exp⟩ true
  if lo != 0 && a == b then some a else none

/-- An exact dyadic magnitude as a scaled integer, cut below 2^-256 (its error stays inside fxErr). -/
def fxOf (x : DyVal) : Nat :=
  let e := x.exp + fxP
  if 0 ≤ e then x.mag * 2 ^ e.toNat else x.mag / 2 ^ (-e).toNat

/-- Is a magnitude at least 2^k? -/
def geTwo (x : DyVal) (k : Int) : Bool := x.mag != 0 && k ≤ Nat.log2 x.mag + x.exp

/-- 1 / x for a finite nonzero x, exact division with a sticky remainder. -/
def rcpFin (f : FFmt) (rm : Nat) (x : DyVal) : FRes :=
  let k := 2 * Nat.log2 x.mag + 64
  roundArith f rm ⟨x.neg, 2 ^ k / x.mag, -(k : Int) - x.exp⟩ (2 ^ k % x.mag != 0)

/-- 1 / sqrt(x) for a finite x > 0, exact root with a sticky remainder. -/
def rsqFin (f : FFmt) (rm : Nat) (x : DyVal) : FRes :=
  let (m, e) := if x.exp % 2 == 0 then (x.mag, x.exp) else (2 * x.mag, x.exp - 1)
  let k := Nat.log2 m + 64
  let q := 2 ^ (2 * k) / m
  let r := isqrt q
  roundArith f rm ⟨false, r, -(k : Int) - e / 2⟩ (r * r * m != 2 ^ (2 * k))

/-- 2^x for a finite nonzero x. -/
def exp2Fin (f : FFmt) (rm : Nat) (x : DyVal) : Option FRes :=
  if geTwo x 10 then
    -- far outside every format's range: a value beyond the largest, or below half the smallest
    some (roundArith f rm ⟨false, 1, if x.neg then -1000 else 1000⟩ true)
  else
    let v := fxOf x
    -- an integer has no bits below the point
    if x.mag * 2 ^ (fxP - 1) % 2 ^ (fxP - 1 - x.exp).toNat == 0 then
      roundArith f rm ⟨false, 1, if x.neg then -((v / fxOne : Nat) : Int) else ((v / fxOne : Nat) : Int)⟩
    else
      let n : Int := if x.neg then -((v / fxOne : Nat) : Int) - 1 else ((v / fxOne : Nat) : Int)
      let fr := if x.neg then fxOne - v % fxOne else v % fxOne
      let y := fxExp (fr * fxLn2 / fxOne)
      roundBracket f rm false (y - fxErr) (y + fxErr) (n - fxP)

/-- log2 x for a finite x > 0. -/
def log2Fin (f : FFmt) (rm : Nat) (x : DyVal) : Option FRes :=
  let lg := Nat.log2 x.mag
  let n : Int := lg + x.exp
  if x.mag == 2 ^ lg then roundArith f rm ⟨decide (n < 0), n.natAbs, 0⟩
  else
    -- n + fr with 0 < fr < 1
    let fr := fxLnRatio x.mag (2 ^ lg) * fxOne / fxLn2
    let s : Int := n * fxOne + fr
    roundBracket f rm (decide (s < 0)) (s.natAbs - fxErr) (s.natAbs + fxErr) (-(fxP : Int))

/-- 1 / (1 + e^-x) for a finite nonzero x. -/
def sigmFin (f : FFmt) (rm : Nat) (x : DyVal) : Option FRes :=
  if geTwo x 8 then
    if x.neg then some (roundArith f rm ⟨false, 1, -1000⟩ true)
    else some (roundArith f rm ⟨false, fxOne - 1, -(fxP : Int)⟩ true)
  else
    let e := fxExpNeg (fxOf x)
    let v := if x.neg then e * fxOne / (fxOne + e) else fxOne * fxOne / (fxOne + e)
    if e ≤ 2 * fxErr then
      if x.neg then some (roundArith f rm ⟨false, 1, -1000⟩ true)
      else some (roundArith f rm ⟨false, fxOne - 1, -(fxP : Int)⟩ true)
    else roundBracket f rm false (v - fxErr) (v + fxErr) (-(fxP : Int))

/-- tanh x for a finite nonzero x. -/
def tanhFin (f : FFmt) (rm : Nat) (x : DyVal) : Option FRes :=
  if geTwo x 7 then some (roundArith f rm ⟨x.neg, fxOne - 1, -(fxP : Int)⟩ true)
  else if !geTwo x (-64) then
    -- x - x^3/3 + ...: a value just below x
    some (roundArith f rm ⟨x.neg, x.mag * 2 ^ 200 - 1, x.exp - 200⟩ true)
  else
    let e := fxExpNeg (2 * fxOf x)
    let v := (fxOne - e) * fxOne / (fxOne + e)
    roundBracket f rm x.neg (v - fxErr) (min (v + fxErr) (fxOne - 1)) (-(fxP : Int))

/-- The six functions by number: 0 rcp, 1 rsq, 2 exp2, 3 log2, 4 sigm, 5 tanh, with the special inputs of 10 R203. -/
def transcendental (fn : Nat) (f : FFmt) (rm a : Nat) : FRes :=
  let one := (roundArith f rm ⟨false, 1, 0⟩).code
  let half := (roundArith f rm ⟨false, 1, -1⟩).code
  let nanNV : FRes := ⟨f.nanCode, flNV⟩
  match f.decode a with
  | .nan s => ⟨f.nanCode, flagIf s flNV⟩
  | .inf n =>
    match fn with
    | 0 => ⟨f.signed n 0, 0⟩
    | 1 => if n then nanNV else ⟨0, 0⟩
    | 2 => if n then ⟨0, 0⟩ else ⟨f.infCode false, 0⟩
    | 3 => if n then nanNV else ⟨f.infCode false, 0⟩
    | 4 => if n then ⟨0, 0⟩ else ⟨one, 0⟩
    | _ => ⟨f.signed n one, 0⟩
  | .fin x =>
    if x.mag == 0 then
      match fn with
      | 0 | 1 => ⟨f.infCode x.neg, flDZ⟩
      | 2 => ⟨one, 0⟩
      | 3 => ⟨f.infCode true, flDZ⟩
      | 4 => ⟨half, 0⟩
      | _ => ⟨a % 2 ^ f.width, 0⟩
    else if x.neg && (fn == 1 || fn == 3) then nanNV
    else
      let r : Option FRes :=
        match fn with
        | 0 => some (rcpFin f rm x)
        | 1 => some (rsqFin f rm x)
        | 2 => exp2Fin f rm x
        | 3 => log2Fin f rm x
        | 4 => sigmFin f rm x
        | _ => tanhFin f rm x
      r.getD ⟨(Config.transcendental fn rm a).toNat % 2 ^ f.width, flNX⟩

end Sys2Proof.Machine
end

