-- ==== Sys2Proof/Machine/Acm.lean ====
section
/-! DEFINITION. The accumulator memory of a cluster (12 R236 to R249): allocation and ownership, ACMAL, ACMFR, ACMZ, ACMOWN,
ACMV, ACMPK, ACMST with the post pipe, ACMAD, and the events of the accumulator commands. -/

namespace Sys2Proof.Machine

/-- The core of a hand in its cluster. -/
def coreIn (r : Nat) : Nat := r / 2 % 4
/-- Ownership of rows of a handle (12 R239). -/
def Mach.ownStop (m : Mach) (r : Nat) (h : Hdl) (row0 n : Nat) : Option Stop :=
  let x := m.cluster (clusterOf r)
  trapIf ((List.range n).any (fun i => KMap.get 0 x.rowOwner (16 * h.base + row0 + i) != coreIn r)) 0x0F 1
/-- Is a row targeted by a command that has been accepted and has not completed (12 R243)? -/
def Cluster.busyRow (x : Cluster) (p : Nat) : Bool :=
  x.cmds.any (fun c => (c.isMma || c.op == .acmz || c.op == .acmad) && overlap c.rows [(p, 1)])
/-- acm-busy on rows `p0` to `p0 + n - 1`: the bank of the lowest targeted row, requester and number of the oldest command
(12 R243). -/
def Mach.busyStop (m : Mach) (r p0 n : Nat) : Option Stop :=
  let x := m.cluster (clusterOf r)
  match (List.range n).find? (fun i => x.busyRow (p0 + i)),
      x.cmds.find? (fun c => (c.isMma || c.op == .acmz || c.op == .acmad) && overlap c.rows [(p0, n)]) with
  | some i, some c => trapOf 0x0D 0 [slotN ((p0 + i) / 16), slotN (reqOf c.hand), slotN c.seq]
  | _, _ => none
/-- A row as a reader receives it: zeros from one with an uncorrectable error (12 R248, 19 R379). -/
def Mach.acmSeen (m : Mach) (c p : Nat) : BitVec 8192 :=
  if m.rowError (acmKey c p) == some true then 0 else (m.cluster c).acmRow p
/-- Errors of accumulator rows counted, and machine-check recorded for an uncorrectable one (19 R379). -/
def Mach.acmErrors (m : Mach) (r : Nat) (ps : List Nat) : Mach :=
  let ks := ps.map (acmKey (clusterOf r))
  (m.countErrors (clusterOf r) ks).noteUE r ks
/-- A row as the last command that has completed left it (12 R242): an MMA or RSLV under way keeps what it has overwritten. -/
def Cluster.settled (x : Cluster) (p : Nat) : BitVec 8192 :=
  ((x.cmds.findSome? (fun c => c.olds.find? (fun o => o.1 == p))).map (·.2)).getD (x.acmRow p)
/-- Column block `b` of a row as an entry (12 R240). -/
def acmBlock (row : BitVec 8192) (b : Nat) : Entry := bits row (1024 * b) 1024

/-! ## ACMAL, ACMFR, ACMOWN, ACMZ -/

/-- The lowest free range of `n` banks (12 R241). -/
def Cluster.freeRange (x : Cluster) (n : Nat) : Option Nat :=
  (List.range (65 - n)).find? (fun b => (List.range n).all (fun i => !(x.bank (b + i)).used))
/-- The next generation (12 R236). -/
def nextGen (g : Nat) : Nat := if g = 511 then 1 else g + 1
/-- Banks allocated for a handle: zeroed rows, all owned by the core (12 R241). -/
def Cluster.allocate (x : Cluster) (h : Hdl) (k r : Nat) : Cluster :=
  let bs := (List.range (h.nb + 1)).map (h.base + ·)
  let ps := (List.range h.rows).map (16 * h.base + ·)
  { x with acmgen := h.gen, banks := bs.foldl (fun t b => t.set b (h.bank k r (coreIn r))) x.banks,
           acm := ps.foldl (fun t p => t.set p 0) x.acm, rowOwner := ps.foldl (fun t p => t.set p (coreIn r)) x.rowOwner }
/-- A handle's entry of the speculation table bound to it (14 R275). -/
def Cluster.bindSpt (x : Cluster) (h : Hdl) : Cluster :=
  if h.sp then { x with spt := x.spt.set h.tag { KMap.get {} x.spt h.tag with hb := true, handle := h.code, rows := [], computed := [] } }
  else x
/-- A handle unbound from its entry of the speculation table: its marks and mappings go (14 R275, 12 R241). -/
def Cluster.unbindSpt (x : Cluster) (h : Hdl) : Cluster :=
  let e := KMap.get {} x.spt h.tag
  if h.sp && e.hb && e.handle == h.code then
    { x with spt := x.spt.set h.tag { e with hb := false, handle := 0, rows := [], computed := [] } }
  else x
/-- ACMAL (12 R241): H lands 2 vc after issue. -/
def execAcmal (w : MA) (s : State) : Out :=
  .next (runWord s .m (.acmal w) w.hdr (fun x m =>
    let k := (m.hand x.r).ctx
    let c := clusterOf x.r
    let y := m.cluster c
    let nb := w.count.toNat
    let sp := bit w.row0 9
    let tag := (bits w.row0 0 8).toNat
    let e := KMap.get {} y.spt tag
    let hd : Hdl := ⟨true, w.op == 1, sp, tag, nb - 1, (y.freeRange nb).getD 0, nextGen y.acmgen⟩
    { own := firstStop [trapIf (sp && (!e.open_ || e.ctx != k || e.hb)) 1 8, trapIf (y.freeRange nb).isNone 0x0E 5]
      eff := fun m' =>
        let m1 := m'.modCluster c (fun z => (z.allocate hd k x.r).bindSpt hd)
        m1.issueResult x.r [.hreg w.handle.toNat hd.code] 0 (pushFifo x.e w.hdr.push) (x.now + 2) true false }))
/-- An accumulator command accepted. -/
def acmAccept (x : At) (w : MA) (op : CmdOp) (hv : W32) (f : Cmd → Cmd) (m' : Mach) : Mach :=
  m'.acceptCmd x.now x.r (f { acc := 0, hand := x.r, ctx := 0, seq := 0, op := op, handle := hv, row0 := w.row0.toNat,
                              count := w.count.toNat, push := pushFifo x.e w.hdr.push })
/-- ACMFR (12 R239, R241). -/
def execAcmfr (w : MA) (s : State) : Out :=
  .next (runWord s .m (.acmfr w) (lateHdr w.hdr) (fun x m =>
    let h := m.hand x.r
    let hv := h.hreg w.handle.toNat
    { own := firstStop [h.needH w.handle.toNat, m.hdlStop x.r (hdlOf hv) none none 0 0,
        trapIf (((m.cluster (clusterOf x.r)).bank (hdlOf hv).base).core != coreIn x.r) 0x0F 2, m.queueFull x.r]
      wait := fun m' => m'.waitOldest x.r
      eff := acmAccept x w .acmfr hv id }))
/-- ACMZ (12 R246). -/
def execAcmz (w : MA) (s : State) : Out :=
  .next (runWord s .m (.acmz w) (lateHdr w.hdr) (fun x m =>
    let h := m.hand x.r
    let hv := h.hreg w.handle.toNat
    { own := firstStop [h.needH w.handle.toNat, m.hdlStop x.r (hdlOf hv) none none w.row0.toNat w.count.toNat,
        m.ownStop x.r (hdlOf hv) w.row0.toNat w.count.toNat, m.queueFull x.r]
      wait := fun m' => m'.waitOldest x.r
      eff := acmAccept x w .acmz hv id }))
/-- Rows `p0` to `p0 + n - 1` given to a core (12 R239). -/
def Cluster.giveRows (x : Cluster) (p0 n core : Nat) : Cluster :=
  { x with rowOwner := (List.range n).foldl (fun t i => t.set (p0 + i) core) x.rowOwner }
/-- ACMOWN acts at issue (12 R239, R241). -/
def execAcmown (w : MA) (s : State) : Out :=
  .next (runWord s .m (.acmown w) w.hdr (fun x m =>
    let h := m.hand x.r
    let hd := hdlOf (h.hreg w.handle.toNat)
    let c := clusterOf x.r
    instantMeaning x w.hdr [h.needH w.handle.toNat, m.hdlStop x.r hd none none w.row0.toNat w.count.toNat,
        m.ownStop x.r hd w.row0.toNat w.count.toNat]
      (fun m' => m'.modCluster c (fun y => y.giveRows (16 * hd.base + w.row0.toNat) w.count.toNat w.op.toNat))))

/-! ## ACMV, ACMPK -/

/-- Entries pushed one a cycle from 4 on, the token with the last (12 R248); an error in the row that one comes from is delivered before
it lands (19 R379). -/
def Mach.pushRows (m : Mach) (now r q push : Nat) (es : List (Entry × List Nat)) (last : List Land) : Mach :=
  (es.zipIdx).foldl (fun m p =>
    let fin := p.2 + 1 == es.length
    let c := m.checkOf r p.1.2
    let m1 := c.2.issueResult r (.queue q p.1.1 :: (if fin then last else [])) 0 (if fin then push else 0) (now + 4 + p.2) true false
    m1.warn r m1.lastId c.1) (m.countErrors (clusterOf r) (es.flatMap (·.2)))
/-- A drain noted: a free of its handle waits for the landings (12 R241). -/
def Mach.noteDrain (m : Mach) (now c base t : Nat) : Mach :=
  m.modCluster c (fun x => { x with drains := x.drains.filter (fun d => decide (now < d.2)) ++ [(base, t)] })
/-- ACMV (12 R242, R243). -/
def execAcmv (w : MA) (s : State) : Out :=
  .next (runWord s .m (.acmv w) w.hdr (fun x m =>
    let h := m.hand x.r
    let hd := hdlOf (h.hreg w.handle.toNat)
    let n := w.count.toNat
    let q := w.q.toNat
    let c := clusterOf x.r
    let ps := (List.range n).map (fun i => 16 * hd.base + w.row0.toNat + i)
    { own := firstStop [h.queueStop [] (List.replicate n q), h.needH w.handle.toNat, m.hdlStop x.r hd none none w.row0.toNat n,
        m.ownStop x.r hd w.row0.toNat n, m.busyStop x.r (16 * hd.base + w.row0.toNat) n]
      eff := fun m' => ((m'.noteDrain x.now c hd.base (x.now + 3 + n)).pushRows x.now x.r q
        (pushFifo x.e w.hdr.push) (ps.map (fun p => (acmBlock (m.acmSeen c p) w.op.toNat, [acmKey c p]))) []) }))
/-- ACMPK (12 R242): no handle, ownership or busy check, and rows as the last command that has completed left them; ACMPKS is written with
the last entry. -/
def execAcmpk (w : MA) (s : State) : Out :=
  .next (runWord s .m (.acmpk w) w.hdr (fun x m =>
    let k := (m.hand x.r).ctx
    let c := clusterOf x.r
    let y := m.cluster c
    let n := w.count.toNat
    let q := w.q.toNat
    let ps := (List.range n).map (w.row0.toNat + ·)
    let free := fun (p : Nat) => !(y.bank (p / 16)).used
    let far := fun (p : Nat) => !free p && (y.bank (p / 16)).ctx != k
    { own := (m.hand x.r).queueStop [] (List.replicate n q)
      eff := fun m' =>
        let m1 := (ps.filter (fun p => !free p)).foldl (fun m p => m.noteDrain x.now c (y.bank (p / 16)).base (x.now + 3 + n)) m'
        m1.pushRows x.now x.r q (pushFifo x.e w.hdr.push)
          (ps.map (fun p => if free p || far p then (0, [])
            else (if m.rowError (acmKey c p) == some true then 0 else acmBlock (y.settled p) w.op.toNat, [acmKey c p])))
          [.creg 0x047 (BitVec.ofNat 64 ((ps.any free).toNat + 2 * (ps.any far).toNat))] }))

/-! ## ACMAD -/

/-- ACMAD (12 R246): its entries are popped at issue. -/
def execAcmad (w : MA) (s : State) : Out :=
  .next (runWord s .m (.acmad w) (lateHdr w.hdr) (fun x m =>
    let h := m.hand x.r
    let hv := h.hreg w.handle.toNat
    let n := w.count.toNat
    let os : List Opnd := List.replicate n ⟨w.q.toNat, false, false, 4⟩
    { own := firstStop [queueOwn h x.e os [] [], h.needH w.handle.toNat,
        m.hdlStop x.r (hdlOf hv) none (some false) w.row0.toNat n, m.ownStop x.r (hdlOf hv) w.row0.toNat n, m.queueFull x.r]
      wait := fun m' => m'.waitOldest x.r
      eff := fun m' =>
        let cap := fun (c : Cmd) => { c with ents := opValues h x.e os, blk := w.op.toNat, rnd := (h.creg 0x032).toNat % 16 }
        acmAccept x w .acmad hv cap (m'.modHand x.r (takeOps h x.e os)) }))
/-- A row with an entry added into column block `b` (12 R246). -/
def acmAdd (isInt : Bool) (rm b : Nat) (row : BitVec 8192) (e : Entry) : BitVec 8192 :=
  acmPack ((List.range 256).map (fun n =>
    let old := acmElem row n
    if n / 32 != b then old
    else
      let v := elem e 32 (n % 32)
      if isInt then (old + v) % 2 ^ 32 else (fAdd .f32 rm old v).code))

/-! ## ACMST and the post pipe -/

/-- PPCTL's fields (12 R244). -/
def ppOut (pp : W64) : Nat := (bits pp 8 4).toNat
/-- The width of an output element. -/
def ppWidth (pp : W64) (q : Nat) : Nat := if bit pp 15 then q % 16 else tw (ppOut pp)
/-- Columns written per row. -/
def ppCols (pp : W64) : Nat := (bits pp 16 8).toNat + 1
/-- Bytes written per row. -/
def ppLen (pp : W64) (q : Nat) : Nat := ppCols pp * ppWidth pp q / 8

/-- A real value between `lo` and `hi` at scale 2^exp, or exact. -/
inductive RealVal where
  | exact (v : FVal)
  | open_ (neg : Bool) (lo hi : Nat) (exp : Int)
  deriving DecidableEq, Repr
/-- e^-y for a finite y > 0, as an open interval: far below every format where y is large. -/
def expNegReal (y : DyVal) : Nat × Nat × Int :=
  if geTwo y 12 then (1, 2 ^ 100, -6000)
  else
    let n := fxOf y / fxLn2 + 1
    let e := fxExp (n * fxLn2 - fxOf y)
    (e - fxErr, e + fxErr, -(fxP : Int) - n)
/-- The sigmoid as an exact real (12 R245). -/
def sigmReal (x : DyVal) : RealVal :=
  let e := expNegReal { x with neg := false }
  if x.mag = 0 then .exact (.fin ⟨false, 1, -1⟩)
  else if e.2.2 < -(fxP : Int) - 100 then
    -- e^-|x| is below 2^-100: the value lies just under it, or just under one
    if x.neg then .open_ false (max 1 (e.1 - e.1 / 2 ^ 90 - 1)) e.2.1 e.2.2
    else .open_ false (fxOne - 2 ^ 156) fxOne (-(fxP : Int))
  else
    let s := (-(fxP : Int) - e.2.2).toNat
    let v := fun (a : Nat) => if x.neg then a / 2 ^ s * fxOne / (fxOne + a / 2 ^ s) else fxOne * fxOne / (fxOne + a / 2 ^ s)
    let a := v e.1
    .open_ false (a - fxErr) (a + fxErr) (-(fxP : Int))
/-- tanh as an exact real (12 R245). -/
def tanhReal (x : DyVal) : RealVal :=
  if x.mag = 0 then .exact (.fin x)
  else if geTwo x 7 then .open_ x.neg (fxOne - 1) fxOne (-(fxP : Int))
  else if !geTwo x (-64) then .open_ x.neg (x.mag * 2 ^ 200 - x.mag * 2 ^ 73) (x.mag * 2 ^ 200) (x.exp - 200)
  else
    let e := fxExpNeg (2 * fxOf x)
    let v := (fxOne - e) * fxOne / (fxOne + e)
    .open_ x.neg (v - fxErr) (min (v + fxErr) fxOne) (-(fxP : Int))
/-- ACT of an exact value (12 R245): a NaN stays, infinities give the limits. -/
def ppAct (act : Nat) (t : FVal) : RealVal :=
  match act, t with
  | 0, _ => .exact t
  | _, .nan s => .exact (.nan s)
  | 1, .inf n => .exact (if n then .fin ⟨false, 0, 0⟩ else .inf false)
  | 1, .fin x => .exact (if x.neg || x.mag = 0 then .fin ⟨false, 0, 0⟩ else .fin x)
  | 2, .inf n => .exact (.fin ⟨false, if n then 0 else 1, 0⟩)
  | 2, .fin x => sigmReal x
  | _, .inf n => .exact (.fin ⟨n, 1, 0⟩)
  | _, .fin x => tanhReal x
/-- A real times an exact factor. -/
def RealVal.times (u : RealVal) (s : FVal) : RealVal :=
  match u, s with
  | .exact v, _ => .exact (mulNum v s).1
  | .open_ neg lo hi e, .fin y => if y.mag = 0 then .exact (.fin ⟨neg != y.neg, 0, 0⟩) else .open_ (neg != y.neg) (lo * y.mag) (hi * y.mag) (e + y.exp)
  | .open_ neg _ _ _, .inf n => .exact (.inf (neg != n))
  | .open_ _ _ _ _, .nan s => .exact (.nan s)
/-- What the post pipe writes: a type code or a narrow format. -/
def ppFmt (pp : W64) (q : Nat) : CvtSide :=
  if bit pp 15 then .flt (qFmt q)
  else if isF (ppOut pp) then .flt (FFmt.ofType (ppOut pp)) else .int (tySigned (ppOut pp)) (tw (ppOut pp))
/-- One rounding of a value, with a part below its resolution where `sticky` holds, into the output (08 R165 to R167). -/
def ppRound (f : CvtSide) (rm : Nat) (sat : Bool) (v : FVal) (sticky : Bool) : Nat :=
  match f, v with
  | .flt g, _ => (convertTo g rm sat v sticky).code
  | .int sg w, .fin x =>
    let n := (roundMag rm x.neg x.mag x.exp 0 sticky).1
    intCode w (clampInt sg w (if x.neg then -(n : Int) else n))
  | .int sg w, _ => (floatToInt rm sg w v).code
/-- The rounded output of a real value; where its bracket does not decide, the constant of log 10. -/
def RealVal.out (u : RealVal) (f : CvtSide) (rm : Nat) (sat : Bool) (w seed : Nat) : Nat :=
  match u with
  | .exact v => ppRound f rm sat v false
  | .open_ neg lo hi e =>
    let a := ppRound f rm sat (.fin ⟨neg, lo, e⟩) true
    let b := ppRound f rm sat (.fin ⟨neg, hi - 1, e⟩) true
    if lo != 0 && a == b then a else (Config.transcendental 8 rm seed).toNat % 2 ^ w
/-- One element through the post pipe (12 R245). -/
def ppElem (c : Cmd) (isInt : Bool) (x bias : Nat) : Nat :=
  let w := ppWidth c.pp c.q
  let f := ppFmt c.pp c.q
  let rm := c.rnd % 8
  let sat := c.rnd.testBit 3
  let act := (bits c.pp 4 2).toNat
  let scl := FFmt.f32.decode (bits c.ppScl 0 32).toNat
  if isInt then
    let t := intOf true 32 (if bit c.pp 0 then x + bias else x)
    let u := if act = 1 then max t 0 else t
    if bit c.pp 1 then (RealVal.times (.exact (.fin (DyVal.ofInt u))) scl).out f rm sat w x
    else match f with
      | .int sg n => (intToInt sat sg n u).code
      | .flt g => (convertTo g rm sat (.fin (DyVal.ofInt u))).code
  else
    let t := FFmt.f32.decode x
    let t := if bit c.pp 0 then (addNum rm t (FFmt.f32.decode bias)).1 else t
    let u := ppAct act t
    (if bit c.pp 1 then u.times scl else u).out f rm sat w x
/-- ACMST (12 R245): reason 8, misaligned, window-fault after the checks of R247. -/
def execAcmst (w : MA) (s : State) : Out :=
  .next (runWord s .m (.acmst w) (lateHdr w.hdr) (fun x m =>
    let h := m.hand x.r
    let hv := h.hreg w.handle.toNat
    let hd := hdlOf hv
    let n := w.count.toNat
    let st := h.streg w.q.toNat
    let pp := h.creg 0x048
    let q := (bits (h.creg (0x038 + (bits pp 12 3).toNat)) 0 19).toNat
    let bias := h.creg 0x049
    let bits_ := ppCols pp * ppWidth pp q
    let rows := (List.range n).map (fun i => stRowAt st i)
    let badRow := rows.find? (fun a => !m.ownSlice x.r a (ppLen pp q))
    { own := firstStop [h.needH w.handle.toNat, m.hdlStop x.r hd none (some false) w.row0.toNat n, m.ownStop x.r hd w.row0.toNat n,
        m.busyStop x.r (16 * hd.base + w.row0.toNat) n,
        trapIf ((bit pp 5 && hd.isInt) || bits_ % 32 != 0) 1 8,
        trapIf ((bits st 0 64).toNat % 4 != 0 || stField st 64 32 % 4 != 0) 6 0 [bits st 0 64],
        trapIf (bit pp 0 && bias.toNat % 4 != 0) 6 0 [bias],
        (match badRow with | some a => trapOf 7 0 [a, slotN (ppLen pp q), slotN (sliceCluster a)] | none => none),
        trapIf (bit pp 0 && !m.ownSlice x.r bias 1024) 7 0 [bias, 1024, slotN (sliceCluster bias)], m.queueFull x.r]
      wait := fun m' => m'.waitOldest x.r
      eff :=
        let cap := fun (c : Cmd) => { c with st := st, q := q, pp := pp, ppBias := bias, ppScl := h.creg 0x04A, rnd := (h.creg 0x032).toNat % 16 }
        acmAccept x w .acmst hv cap }))

/-! ## Events -/

/-- The cycles of an accumulator command from its start (12 R248). -/
def Cmd.acmTime (c : Cmd) : Nat :=
  match c.op with
  | .acmz => 2 + c.count
  | .acmad => 4 + c.count
  | .acmst => 8 + c.count * ((ppCols c.pp * ppWidth c.pp c.q + 1023) / 1024)
  | _ => 2
/-- ACCUM_COMMAND_START (12 R241, R246): an ACMST reads its bias row. A free is looked at again, for what has been accepted or issued
since its events came (R241, R249). -/
def execAccumCommandStart (r seq : Nat) (s : State) : Out :=
  .next (runEvent s (fun now m =>
    match m.findCmd r seq with
    | none => m
    | some c =>
      let x := m.cluster (clusterOf r)
      let t := x.startAt now c
      if m.startHeld now c then m.holdCmd now c
      else if c.op == .acmfr && !x.canStart c then m.putCmd (clusterOf r) { c with armed := false }
      else if now < t then (m.putCmd (clusterOf r) { c with startT := t }).post t (.accumCommandStart r seq)
      else
      let bias := match (if c.op == .acmst && bit c.pp 0 then m.sliceBytes r c.ppBias 1024 else .ok ([], [])) with
        | .ok v => v
        | .error _ => ([], [])
      let m := (m.countErrors (clusterOf r) bias.2).noteUE r bias.2
      ((m.putCmd (clusterOf r) { c with started := true, got := [some (splitElems 32 256 bias.1, [])] }).post (c.startT + c.acmTime)
        (.accumCommandComplete r seq)).armCmds now (clusterOf r)))
/-- The rows of an ACMST written to the slice. -/
def Mach.storeRows (m : Mach) (r : Nat) (c : Cmd) (p0 : Nat) (bias : List Nat) : Mach :=
  let hd := hdlOf c.handle
  let w := ppWidth c.pp c.q
  (List.range c.count).foldl (fun m i =>
    let row := m.acmSeen (clusterOf r) (p0 + i)
    let bs := leBytes (ppLen c.pp c.q) (packElems w ((List.range (ppCols c.pp)).map (fun n =>
      ppElem c hd.isInt (acmElem row n) (bias.getD n 0))))
    match m.writeAt c.ctx (stRowAt c.st i) bs false with
    | .ok m' => m'
    | .error f => m.recordFault r f) m
/-- ACCUM_COMMAND_COMPLETE (12 R241, R245, R246); an RSLV's rerun records land with it (14 R281). A free that has started still waits for
an MMA accepted since (R249). -/
def execAccumCommandComplete (r seq : Nat) (s : State) : Out :=
  .next (runEvent s (fun now m =>
    match m.findCmd r seq with
    | none => m
    | some c =>
      if c.op == .acmfr && !(m.cluster (clusterOf r)).canStart c then m.post (now + 1) (.accumCommandComplete r seq)
      else
      let cl := clusterOf r
      let hd := hdlOf c.handle
      let p0 := 16 * hd.base + c.row0
      let ps := (List.range c.count).map (p0 + ·)
      let m := match c.op with
        | .acmfr => m.modCluster cl (fun x =>
            { x.unbindSpt hd with banks := (List.range (hd.nb + 1)).foldl (fun t i => t.set (hd.base + i) {}) x.banks })
        | .acmz => m.modCluster cl (fun x => { x with acm := ps.foldl (fun t p => t.set p 0) x.acm })
        | .acmad => (m.acmErrors r ps).modCluster cl (fun x =>
            { x with acm := (ps.zip c.ents).foldl (fun (t : KMap (BitVec 8192)) (p : Nat × Entry) =>
                t.set p.1 (acmAdd hd.isInt (c.rnd % 8) c.blk (m.acmSeen cl p.1) p.2)) x.acm })
        | .rslv => m.supplyQueue now r c.res (c.ents.headD 0)
        | .acmst => (m.acmErrors r ps).storeRows r c p0 ((c.got.headD none).elim [] (·.1))
        | _ => m
      m.finishCmd now c))

end Sys2Proof.Machine
end

