-- ==== Sys2Proof/Machine/Routing.lean ====
section
/-! DEFINITION. Dispatch (13 R253 to R264): the expert map, call records, DISP, frames and their filing, rounds, routing
counters, RSNAP and EMAPS. -/

namespace Sys2Proof.Machine

/-! ## The expert map and call records -/

/-- An expert's entry in a cluster's copy of the map (13 R253). -/
def Cluster.expert (x : Cluster) (k e : Nat) : BitVec 16 := KMap.get 0 (KMap.get [] x.emap k) e
/-- The cluster of an expert for a token: odd ids go to a replica (13 R253). -/
def expertDest (v : BitVec 16) (tid : Nat) : Nat := if bit v 14 && tid % 2 == 1 then (bits v 0 7).toNat else (bits v 7 7).toNat
/-- Is an entry one that R253 allows in the context's partition? -/
def Mach.emapOk (m : Mach) (k : Nat) (v : BitVec 16) : Bool :=
  if !bit v 15 then v == 0
  else m.inPart k (bits v 7 7).toNat && (if bit v 14 then m.inPart k (bits v 0 7).toNat else bits v 0 7 == 0)

/-- A call record (13 R255). -/
structure Call where
  tid : Nat
  zero : Nat
  n : Nat
  flags : Nat
  tag : Nat
  ids : List Nat
  gates : List Nat
  deriving DecidableEq, Repr
/-- Record `r` of an entry. -/
def callOf (e : Entry) (r : Nat) : Call :=
  let bs := ((entryBytes e).drop (32 * r)).take 32
  ⟨field bs 0 4, field bs 4 1, field bs 5 1, field bs 6 1, field bs 7 1, (List.range 8).map (fun i => field bs (8 + i) 1),
    (List.range 8).map (fun i => field bs (16 + 2 * i) 2)⟩
/-- The four records of an entry. -/
def callsOf (e : Entry) : List Call := (List.range 4).map (callOf e)
/-- SPEC of a record. -/
def Call.spec (c : Call) : Bool := c.flags % 2 == 1
/-- The listed experts with their gates, in rank order. -/
def Call.pairs (c : Call) : List (Nat × Nat) := (c.ids.zip c.gates).take c.n
/-- The listed experts. -/
def Call.experts (c : Call) : List Nat := c.ids.take c.n
/-- Too many ids, repeated ids, or 0xFF among them (13 R259, 14 R270). -/
def Call.badIds (c : Call) : Bool := decide (8 < c.n) || c.experts.contains 0xFF || decide (c.experts.eraseDups.length ≠ c.experts.length)
/-- The 32 bytes of a record or frame header: `b4` byte 4, the pairs, the flags and tag (13 R255). -/
def headerBytes (tid b4 : Nat) (spec : Bool) (tag : Nat) (ps : List (Nat × Nat)) : List Byte :=
  leBytes 4 tid ++ leBytes 1 b4 ++ leBytes 1 ps.length ++ leBytes 1 spec.toNat ++ leBytes 1 tag
    ++ ((ps.map (fun (p : Nat × Nat) => BitVec.ofNat 8 p.1)) ++ List.replicate 8 0xFF).take 8
    ++ ((ps.flatMap (fun (p : Nat × Nat) => leBytes 2 p.2)) ++ List.replicate 16 0).take 16

/-! ## Routing counters -/

/-- A call counted in a cluster's routing counters (13 R262). -/
def Cluster.countCall (x : Cluster) (now k e : Nat) : Cluster :=
  let rc := KMap.get 0 x.cr 0x05A
  if !bit rc 16 || (bits rc 0 16).toNat != k then x
  else
    let x := if x.cntT = now then x else { x with cntNew := [], cntT := now }
    { x with counters := x.counters.set e (KMap.get 0 x.counters e + 1), cntNew := x.cntNew.set e (KMap.get 0 x.cntNew e + 1) }
/-- The counters as a snapshot in cycle `now` takes them: without the increments that reach them in it (13 R263). -/
def Cluster.snapshot (x : Cluster) (now e : Nat) : W32 :=
  KMap.get 0 x.counters e - (if x.cntT = now then KMap.get 0 x.cntNew e else 0)
/-- RSNAP (13 R263): the rows of counters are written, and d lands, 10 c after issue. -/
def execRsnap (w : VVI) (s : State) : Out :=
  .next (runWord s .m (.rsnap w) w.hdr (fun x m =>
    let h := m.hand x.r
    let c := clusterOf x.r
    let y := m.cluster c
    let os : List Opnd := [⟨w.a.toNat, w.ka, false, 4⟩]
    let a := bits ((opValues h x.e os).headD 0) 0 64
    let rc := KMap.get 0 y.cr 0x05A
    { own := queueOwn h x.e os [w.d.toNat]
        [ trapIf (a.toNat % 128 != 0) 6 0 [a], trapIf (!m.ownSlice x.r a 1024) 7 0 [a, 1024, slotN (sliceCluster a)],
          trapIf (!bit rc 16 || (bits rc 0 16).toNat != h.ctx) 9 6 ]
      eff := fun m' =>
        let snap := (List.range 256).map (fun e => (y.snapshot x.now e).toNat)
        let rows := (List.range 8).map (fun i => Land.mem ((m.ctx h.ctx).sliceKey c ((bits a 0 23).toNat + 128 * i))
          (((snap.drop (32 * i)).take 32).flatMap (leBytes 4)))
        let v : Entry := BitVec.ofNat 1024 (x.now % 2 ^ 64 + 2 ^ 64 * (snap.foldl (· + ·) 0 % 2 ^ 32))
        let fresh := if y.cntT = x.now then y.cntNew else []
        ((m'.modHand x.r (takeOps h x.e os)).modCluster c (fun z => { z with counters := fresh })).issueResult x.r
          (.queue w.d.toNat v :: rows) 0 (pushFifo x.e w.hdr.push) (x.now + 10) true false }))

/-! ## EMAPS -/

/-- The lanes of an EMAPS entry that write: lane, expert, new entry (13 R254). -/
def emapWrites (x : Entry) : List (Nat × Nat × BitVec 16) :=
  ((List.range 32).filter (fun j => bit (lane x j) 31)).map (fun j => (j, (bits (lane x j) 16 8).toNat, bits (lane x j) 0 16))
/-- A map with the writes of an entry. -/
def emapApply (t : KMap (BitVec 16)) (x : Entry) : KMap (BitVec 16) := (emapWrites x).foldl (fun t p => t.set p.2.1 p.2.2) t
/-- The updates of a context on their way, in order. -/
def Mach.emapPending (m : Mach) (k : Nat) : List EmapUpd :=
  (m.clusters.flatMap (fun p => p.2.emapUpds.filter (fun u => u.ctx == k && u.landed))).mergeSort (fun a b => decide (a.id ≤ b.id))
/-- EMAPS (13 R254): checked at issue; old entries land 24 c after issue, and the copies change at the end of that cycle, so
that a DISP in it uses the old map (R264). -/
def execEmaps (w : VVV) (s : State) : Out :=
  .next (runWord s .m (.emaps w) w.hdr (fun x m =>
    let h := m.hand x.r
    let os : List Opnd := [⟨w.a.toNat, w.ka, false, 4⟩]
    let v := (opValues h x.e os).headD 0
    let bad := (List.range 32).any (fun j => bit (lane v j) 31 &&
      (bits (lane v j) 24 7 != 0 || !m.emapOk h.ctx (bits (lane v j) 0 16)))
    { own := queueOwn h x.e os [w.d.toNat] [trapIf bad 1 8]
      eff := fun m' =>
        let m1 := (m'.modHand x.r (takeOps h x.e os)).issueResult x.r [.queue w.d.toNat 0] 0 (pushFifo x.e w.hdr.push) 0 false false
        let res := m1.lastId
        let u : EmapUpd := { id := m1.nextId, ctx := h.ctx, ents := v, hand := x.r, res := res }
        (((m1.modCluster (clusterOf x.r) (fun y => { y with emapUpds := y.emapUpds ++ [u] })).bump).post (x.now + 24)
          (.emapUpdate u.id)).post (x.now + 25) (.emapUpdate u.id) }))
/-- EMAP_UPDATE: first the old entries land, then every cluster's copy changes (13 R254). -/
def execEmapUpdate (id : Nat) (s : State) : Out :=
  .next (runEvent s (fun now m =>
    match m.clusters.findSome? (fun p => (p.2.emapUpds.find? (fun u => u.id == id)).map (fun u => (p.1, u))) with
    | none => m
    | some (c, u) =>
      if !u.landed then
        let t := (m.emapPending u.ctx).foldl (fun t v => emapApply t v.ents) (KMap.get [] (m.cluster c).emap u.ctx)
        let old := mkEntry 32 ((List.range 32).map (fun j =>
          if bit (lane u.ents j) 31 then (KMap.get 0 t (bits (lane u.ents j) 16 8).toNat).toNat else 0))
        (m.modCluster c (fun x => { x with emapUpds := x.emapUpds.map (fun (v : EmapUpd) =>
          if v.id == id then { v with landed := true } else v) })).supplyQueue now u.hand u.res old
      else
        let m1 := m.modCluster c (fun x => { x with emapUpds := x.emapUpds.filter (fun v => v.id != id) })
        ((List.range 72).filter (m.inPart u.ctx)).foldl (fun m q =>
          m.modCluster q (fun x => { x with emap := x.emap.set u.ctx (emapApply (KMap.get [] x.emap u.ctx) u.ents) })) m1))

/-! ## Dispatch registers and the window -/

/-- DLEN.L of a context (13 R256). -/
def Ctx.dlen (x : Ctx) : Nat := (bits (x.reg 0x050) 0 14).toNat
/-- F for `n` hidden bytes (13 R255). -/
def frameLen (n : Nat) : Nat := 128 * ((n + 36 + 127) / 128)
/-- Capacity and base of DRX, DLST or DOVF (13 R256). -/
def Ctx.region (x : Ctx) (n : Nat) : Nat × Nat := ((bits (x.reg n) 32 16).toNat, (bits (x.reg n) 0 23).toNat)
/-- The address of a window offset in a cluster. -/
def winAddr (c o : Nat) : W64 := BitVec.ofNat 64 (c * 2 ^ 23 + o)
/-- Bytes at a window offset of a cluster. -/
def Mach.winRead (m : Mach) (k c o n : Nat) : List Byte :=
  match m.readAt k (winAddr c o) n false with | .ok bs => bs | .error _ => List.replicate n 0
/-- Bytes written at a window offset of a cluster. -/
def Mach.winWrite (m : Mach) (k c o : Nat) (bs : List Byte) : Mach :=
  match m.writeAt k (winAddr c o) bs false with | .ok m' => m' | .error _ => m
/-- A word at a window offset. -/
def Mach.winWord (m : Mach) (k c o : Nat) : Nat := leNat (m.winRead k c o 4)
/-- The dispatch state of a context in a cluster. -/
def Mach.dctl (m : Mach) (c k : Nat) : DispCtl := KMap.get {} (m.cluster c).dctl k
/-- The dispatch state of a context in a cluster changed. -/
def Mach.modDctl (m : Mach) (c k : Nat) (f : DispCtl → DispCtl) : Mach :=
  m.modCluster c (fun x => { x with dctl := x.dctl.set k (f (KMap.get {} x.dctl k)) })
/-- DCNT of a cluster: RESEND in the low half, DROP in the high half (13 R256). -/
def Cluster.addDcnt (x : Cluster) (drop resend : Nat) : Cluster :=
  let v := (KMap.get 0 x.cr 0x059).toNat
  { x with cr := x.cr.set 0x059 (BitVec.ofNat 64 ((v % 2 ^ 32 + resend) % 2 ^ 32 + 2 ^ 32 * ((v / 2 ^ 32 + drop) % 2 ^ 32))) }

/-! ## Tentative rows -/

/-- The OPEN entry of a context for a round and an expert (14 R274, R277). -/
def Cluster.sptOf (x : Cluster) (k round e : Nat) : Option (Nat × Spte) :=
  x.spt.find? (fun p => p.2.open_ && p.2.ctx == k && p.2.round == round && p.2.exp == e)
/-- A reference of a SPEC frame enters an arrival list: the token gets the next row of the bound handle, if there is one
(14 R277). -/
def Cluster.mapRow (x : Cluster) (k tag e tid : Nat) : Cluster :=
  match x.sptOf k tag e with
  | none => x
  | some (i, t) =>
    if t.hb && decide (t.rows.length < (hdlOf t.handle).rows) then
      { x with spt := x.spt.set i { t with rows := t.rows ++ [(tid, .mapped)] } }
    else x
/-- The same for the reference of a frame header. -/
def Mach.entered (m : Mach) (c k e : Nat) (hdr : List Byte) : Mach :=
  if field hdr 6 1 % 2 == 1 then m.modCluster c (fun x => x.mapRow k (field hdr 7 1) e (field hdr 0 4)) else m

/-! ## Filing -/

/-- The DISP in flight with a number, changed. -/
def Mach.modDisp (m : Mach) (id : Nat) (f : DispRec → DispRec) : Mach :=
  { m with disps := m.disps.map (fun d => if d.id == id then f d else d) }
/-- A frame is done with: its DISP completes with the last one (13 R259). -/
def Mach.frameDone (m : Mach) (now : Nat) (f : Frame) : Mach :=
  let m := ({ m with frames := m.frames.filter (fun g => g.id != f.id) }).modDisp f.disp (fun d => { d with left := d.left - 1 })
  match m.disps.find? (fun d => d.id == f.disp) with
  | none => m
  | some d => if d.left = 0 then m.post (max now d.earliest) (.dispComplete d.id) else m
/-- A frame record replaced. -/
def Mach.putFrame (m : Mach) (f : Frame) : Mach := { m with frames := m.frames.map (fun g => if g.id == f.id then f else g) }
/-- One pair of a filed frame (13 R260): placed, dropped, or in the overflow list; none where that is full. -/
def Mach.filePair (m : Mach) (f : Frame) (idx p : Nat) : Option Mach :=
  let x := m.ctx f.ctx
  let l := x.region 0x052
  let o := x.region 0x053
  let cap := (bits (x.reg 0x054) 0 16).toNat
  let e := field f.hdr (8 + p) 1
  let ref := leBytes 4 (idx % 2 ^ 16 + 2 ^ 16 * p)
  let la := l.2 + 4 * e * (l.1 + 1)
  let n := m.winWord f.ctx f.dst la
  if n < cap then
    some ((((m.winWrite f.ctx f.dst (la + 4 * (n + 1)) ref).winWrite f.ctx f.dst la (leBytes 4 (n + 1))).entered f.dst f.ctx e
      f.hdr).modDisp f.disp (fun d => { d with placed := d.placed + 1 }))
  else if bit (x.reg 0x054) 16 then
    some ((m.modCluster f.dst (fun y => y.addDcnt 1 0)).modDisp f.disp (fun d => { d with dropped := d.dropped + 1 }))
  else
    let oa := o.2 + 4 * e * (o.1 + 1)
    let v := m.winWord f.ctx f.dst oa
    if o.1 ≤ v / 2 ^ 16 then none
    else
      some (((m.winWrite f.ctx f.dst (oa + 4 * (1 + (v % 2 ^ 16 + v / 2 ^ 16) % o.1)) ref).winWrite f.ctx f.dst oa
        (leBytes 4 (v + 2 ^ 16))).modDisp f.disp (fun d => { d with held := d.held + 1 }))
/-- The pairs of a frame from its next one on; the flag says whether all are filed. -/
def Mach.filePairs (m : Mach) (f : Frame) (idx : Nat) : Nat → Nat → Mach × Nat × Bool
  | 0, p => (m, p, true)
  | n + 1, p => match m.filePair f idx p with
    | none => (m, p, false)
    | some m' => m'.filePairs f idx n (p + 1)
/-- The place of ring index `i` for frames of `len` bytes. -/
def Ctx.ringOff (x : Ctx) (i len : Nat) : Nat := (x.region 0x051).2 + len * i
/-- The arrival that a frame written at ring index `i` is (21 R398): at the bank of its first row. -/
def Mach.frameArrival (m : Mach) (f : Frame) (i : Nat) : List Arrival :=
  arrivalsOf f.hand f.iseq [(m.ctx f.ctx).sliceKey f.dst ((m.ctx f.ctx).ringOff i f.bytes.length)]
/-- A frame filed as far as it can be (13 R260); the flag says whether it is filed whole, or gone: one of a killed context that finds no
room, which nothing will free any more (R264, DESIGN CHOICE, log 109). -/
def Mach.fileFrame (m : Mach) (now : Nat) (f : Frame) : Mach × Bool :=
  let x := m.ctx f.ctx
  let d := m.dctl f.dst f.ctx
  let rcap := (x.region 0x051).1
  let st : Option (Mach × Nat) := match f.filed with
    | some i => some (m, i)
    | none =>
      let i := d.drxw % rcap
      if rcap ≤ sub32 d.drxw d.drxr || !m.mayArriveAll (m.frameArrival f i) then none
      else some (((m.noteArrivals now (m.frameArrival f i)).winWrite f.ctx f.dst (x.ringOff i f.bytes.length) f.bytes).modDctl f.dst f.ctx
        (fun y => { y with drxw := (y.drxw + 1) % 2 ^ 32 }), i)
  match st with
  | none => if !x.live && rcap ≤ sub32 d.drxw d.drxr then (m.frameDone now f, true) else (m, false)
  | some (m, i) =>
    let n := field f.hdr 5 1
    let out := m.filePairs f i (n - f.nextP) f.nextP
    if out.2.2 || !x.live then (out.1.frameDone now f, true)
    else (out.1.putFrame { f with filed := some i, nextP := out.2.1 }, false)
/-- The mesh input by which a frame comes: the cluster before its receiver on its way, or its own (13 R260). -/
def Frame.input (f : Frame) : Nat := (List.range 18).foldl (fun c _ => if plainNext c f.dst = f.dst then c else plainNext c f.dst) f.src
/-- The frames held at a cluster proceed in order of arrival; one behind a frame still held at its input waits (13 R260). -/
def Mach.fileHeld (m : Mach) (now c : Nat) : List Nat → List Nat → Mach
  | [], _ => m
  | id :: t, ins =>
    match m.frames.find? (fun f => f.id == id) with
    | none => (m.modCluster c (fun x => { x with heldFrames := x.heldFrames.erase id })).fileHeld now c t ins
    | some f =>
      if ins.contains f.input then m.fileHeld now c t ins
      else
        let out := m.fileFrame now f
        if out.2 then (out.1.modCluster c (fun x => { x with heldFrames := x.heldFrames.erase id })).fileHeld now c t ins
        else out.1.fileHeld now c t (f.input :: ins)
/-- Frames held only by a log's order or its room are tried again (21 R398, R399). -/
def Mach.retryHeld (m : Mach) (now c : Nat) : Mach :=
  let hs := (m.cluster c).heldFrames.filterMap (fun id => m.frames.find? (fun f => f.id == id))
  let first := hs.zipIdx.filter (fun p => !(hs.take p.2).any (fun g => g.input == p.1.input))
  match first.find? (fun p => p.1.filed.isNone
      && decide (sub32 (m.dctl c p.1.ctx).drxw (m.dctl c p.1.ctx).drxr < ((m.ctx p.1.ctx).region 0x051).1)) with
  | some p => m.post (now + 1) (.heldFrameResume c p.1.ctx)
  | none => m
/-- HELD_FRAME_RESUME: the ring or a list has room again (13 R260); frames of every context behind the first may proceed. -/
def execHeldFrameResume (c _ctx : Nat) (s : State) : Out :=
  .next (runEvent s (fun now m => (m.fileHeld now c (m.cluster c).heldFrames []).retryHeld now c))

/-- Will a hand of the cluster write DNEXT for a context in this cycle (13 R264)? -/
def Mach.willDnext (m : Mach) (now c k : Nat) : Bool :=
  (List.range 8).any (fun q =>
    let r := 8 * c + q
    let h := m.hand r
    let sc := scanWords .x ((m.textOf r).drop (h.ex.pc.toNat / 8))
    h.ctx == k && m.live r && !h.ex.arrived && decide (h.holdTill ≤ now) && dueNow h .x sc.2 &&
      (match sc.2 with | some w => (match decode w with | .ok (.mtc v) => v.creg == 0x058 | _ => false) | none => false))
/-- The bytes of a frame (13 R255): header, hidden vector, CRC, zeros. -/
def frameBytes (hdr hid : List Byte) : List Byte :=
  let b := hdr ++ hid
  let t := b ++ leBytes 4 (crc32c b).toNat
  t ++ List.replicate (frameLen hid.length - t.length) 0
/-- Does a frame's CRC hold? -/
def Frame.good (f : Frame) : Bool := field f.bytes (32 + f.len) 4 == (crc32c (f.bytes.take (32 + f.len))).toNat
/-- FRAME_ARRIVAL (13 R260): CRC, resends, and filing behind the frames held at its input; with a DNEXT word to come in this cycle it is
served after the words (R264). -/
def execFrameArrival (id : Nat) (s : State) : Out :=
  .next (runEvent s (fun now m =>
    match m.frames.find? (fun f => f.id == id) with
    | none => m
    | some f =>
      let held := (m.cluster f.dst).heldFrames
      let behind := (m.frames.takeWhile (fun g => g.id != id)).any (fun g =>
        g.hand == f.hand && g.dst == f.dst && g.ctx == f.ctx && !held.contains g.id)
      if held.contains id then m
      else if behind then (m.putFrame { f with late := false }).post (now + 1) (.frameArrival id)
      else if !f.late && m.willDnext now f.dst f.ctx then (m.putFrame { f with late := true }).post now (.frameArrival id)
      else if !f.good then
        if 3 ≤ f.sent then
          (if (m.hand f.hand).ctx == f.ctx then m.recordFault f.hand ⟨0x1F, 0, [7, slotN (field f.hdr 0 4 + 2 ^ 32 * f.dst), 0, slotN f.hand]⟩
            else m).frameDone now f
        else
          let hid := match m.readAt f.ctx f.rowAt f.len false with | .ok bs => bs | .error _ => []
          let f := { f with sent := f.sent + 1, bytes := frameBytes f.hdr hid, len := hid.length, sendT := now, late := false }
          (((m.putFrame f).modCluster f.src (fun x => x.addDcnt 0 1)).modDisp f.disp (fun d => { d with resends := d.resends + 1 })).post
            (now + hops f.src f.dst + f.bytes.length / 128) (.frameArrival id)
      else
        let blocked := m.frames.any (fun g => held.contains g.id && g.input == f.input)
        let out := if blocked then (m, false) else m.fileFrame now f
        if out.2 then out.1
        else (out.1.modCluster f.dst (fun y => { y with heldFrames := y.heldFrames ++ [id] })).retryHeld now f.dst))

/-- A round begins in a cluster (13 R260): for every expert the count word is cleared and up to CAP of the oldest overflow references move
into the arrival list; overflow lists without entries give none (log 105). -/
def Mach.beginRound (m : Mach) (now c k : Nat) : Mach :=
  let x := m.ctx k
  let l := x.region 0x052
  let o := x.region 0x053
  let cap := (bits (x.reg 0x054) 0 16).toNat
  let m := (List.range 256).foldl (fun m e =>
    let la := l.2 + 4 * e * (l.1 + 1)
    let oa := o.2 + 4 * e * (o.1 + 1)
    let v := if o.1 = 0 then 0 else m.winWord k c oa
    let n := min cap (v / 2 ^ 16)
    let m := (List.range n).foldl (fun m j =>
      let ref := m.winRead k c (oa + 4 * (1 + (v % 2 ^ 16 + j) % o.1)) 4
      (m.winWrite k c (la + 4 * (j + 1)) ref).entered c k e
        (m.winRead k c (x.ringOff (field ref 0 2) (frameLen x.dlen)) 32)) m
    let m := if n = 0 then m else m.winWrite k c oa (leBytes 4 ((v % 2 ^ 16 + n) % o.1 + 2 ^ 16 * (v / 2 ^ 16 - n)))
    if m.winWord k c la = n then m else m.winWrite k c la (leBytes 4 n)) m
  (m.modDctl c k (fun y => { y with drnd := (y.drnd + 1) % 2 ^ 32 })).post now (.heldFrameResume c k)

/-! ## DISP -/

/-- The frames that a record needs: for each cluster in ascending order, the pairs bound for it (13 R259). -/
def Cluster.framesFor (x : Cluster) (k : Nat) (c : Call) : List (Nat × List (Nat × Nat)) :=
  let ds := c.pairs.map (fun p => (expertDest (x.expert k p.1) c.tid, p))
  ((List.range 72).filter (fun d => ds.any (fun q => q.1 == d))).map (fun d => (d, (ds.filter (fun q => q.1 == d)).map (·.2)))
/-- DISP (13 R258, R259, 14 R277). -/
def execDisp (w : VVV) (s : State) : Out :=
  .next (runWord s .m (.disp w) w.hdr (fun x m =>
    let h := m.hand x.r
    let k := h.ctx
    let c := clusterOf x.r
    let y := m.cluster c
    let len := (m.ctx k).dlen
    let os : List Opnd := [⟨w.a.toNat, w.ka, false, 4⟩, ⟨w.b.toNat, w.kb, false, 4⟩]
    let vs := opValues h x.e os
    let d := vs.getD 1 0
    let base := bits d 0 64
    let stride := sext 32 (lane d 2).toNat
    let recs := (callsOf (vs.headD 0)).filter (fun c => c.n != 0)
    let bad := len == 0 || bit base 63 || sliceCluster base != c || (lane d 2).toNat % 4 != 0 || bits d 128 896 != 0
      || recs.any (fun c => c.zero != 0 || c.flags / 2 != 0 || (!c.spec && c.tag != 0) || c.badIds
          || c.experts.any (fun e => !bit (y.expert k e) 15))
    let rowOf := fun (c : Call) => base + w64 (((c.tid : Int) - (lane d 3).toNat) * stride)
    let fs := recs.flatMap (fun c => (y.framesFor k c).map (fun f => (c, f)))
    { own := queueOwn h x.e os [w.d.toNat] ([trapIf bad 1 8]
        ++ recs.flatMap (fun c => [trapIf ((rowOf c).toNat % 4 != 0) 6 0 [rowOf c], m.spanStop x.r (rowOf c) len false])
        ++ [trapIf (!m.phase x.r && fs.any (fun f => f.2.1 != c)) 0x0A 0 [rowOf (fs.headD (callOf 0 0, 0, [])).1],
            freezeIf (decide (8 ≤ h.disps)) 9])
      eff := fun m' =>
        let m1 := (m'.modHand x.r (takeOps h x.e os)).issueResult x.r [.queue w.d.toNat 0] 0 (pushFifo x.e w.hdr.push) 0 false false
        let res := m1.lastId
        let fl := frameLen len / 128
        let hmax := fs.foldl (fun t f => max t (hops c f.2.1)) 0
        let id := m1.nextId
        let t := x.now + 8 + hmax + fl * fs.length
        let dr : DispRec := { id := id, hand := x.r, ctx := k, frames := fs.length, left := fs.length,
                              pairs := (recs.map (·.n)).foldl (· + ·) 0, res := res, earliest := t }
        let m2 := ({ m1.bump with disps := m1.disps ++ [dr] }).modHand x.r (fun h => { h with disps := h.disps + 1 })
        let m3 := m2.modCluster c (fun z => recs.foldl (fun z q => if q.spec then z else q.experts.foldl (fun z e => z.countCall x.now k e) z) z)
        let m4 := (fs.zipIdx).foldl (fun m f =>
          let q := f.1.1
          let at_ := rowOf q
          let sp := match m.span k at_ len false (h.ring == 0) with | .ok l => l | .error _ => []
          let hid := sp.flatMap (fun p => m.readRow p.1 p.2)
          let hdr := headerBytes q.tid c q.spec q.tag f.1.2.2
          let fr : Frame := { id := m.nextId, hand := x.r, disp := id, src := c, dst := f.1.2.1, ctx := k, hdr := hdr, len := len,
                              bytes := frameBytes hdr hid, rowAt := at_, iseq := h.em.iseq + 1,
                              sendT := x.now + 8 + fl * f.2 }
          let m := (m.countErrors c (sp.map (·.1))).noteUE x.r (sp.map (·.1))
          ({ m.bump with frames := m.frames ++ [fr] }).post (x.now + 8 + hops c fr.dst + fl * (f.2 + 1)) (.frameArrival fr.id)) m3
        if fs.isEmpty then m4.post t (.dispComplete id) else m4 }))
/-- DISP_COMPLETE: the receipt lands and the token is pushed (13 R259). -/
def execDispComplete (id : Nat) (s : State) : Out :=
  .next (runEvent s (fun now m =>
    match m.disps.find? (fun d => d.id == id) with
    | none => m
    | some d =>
      if d.left != 0 then m
      else
        let v := mkEntry 32 [d.frames, d.pairs, d.placed, d.held, d.dropped, d.resends]
        (({ m with disps := m.disps.filter (fun e => e.id != id) }).modHand d.hand (fun h => { h with disps := h.disps - 1 })).supplyQueue
          now d.hand d.res v))

end Sys2Proof.Machine
end

