-- ==== Sys2Proof/Machine/Speculate.lean ====
section
/-! DEFINITION. Speculation (14 R265 to R283): the predictor with PRED, PREDUP and PTCLR, the speculation table, tentative
rows and RSLV. -/

namespace Sys2Proof.Machine

/-! ## The predictor -/

/-- A query entry (14 R268). -/
structure Query where
  sigs : List Nat
  layer : Nat
  kmax : Nat
  cmin : Nat
  tag : Nat
  mask : Nat
  np : Bool
  zeros : Bool
  deriving DecidableEq, Repr
/-- The fields of a query (14 R268). -/
def queryOf (e : Entry) : Query :=
  let l := fun (i : Nat) => lane e i
  ⟨(List.range 4).map (fun i => (bits (l i) 0 16).toNat), (bits (l 4) 0 10).toNat, (bits (l 4) 16 3).toNat, (bits (l 4) 20 2).toNat,
    (bits (l 4) 24 8).toNat, (bits (l 5) 0 4).toNat, bit (l 5) 4,
    (List.range 4).all (fun i => bits (l i) 16 16 == 0) && bits (l 4) 10 6 == 0 && !bit (l 4) 19 && bits (l 4) 22 2 == 0
      && bits (l 5) 5 27 == 0 && bits e 192 832 == 0⟩
/-- Does slot `r` take part? -/
def Query.has (q : Query) (r : Nat) : Bool := q.mask.testBit r
/-- PS of a record (14 R269). -/
def predSet (np : Bool) (c : Call) : Nat := if np then 0 else c.experts.foldl (fun a e => a ^^^ (e * 0x9E37 % 2 ^ 16)) 0
/-- Index and tag of a slot (14 R269). -/
def predHash (q : Query) (r : Nat) (c : Call) : Nat × Nat :=
  let x := (q.sigs.getD r 0) * 2 ^ 16 + (predSet q.np c ^^^ q.layer) % 2 ^ 16
  let y := x * 0x9E3779B1 % 2 ^ 32
  (y / 2 ^ 20, y / 16 % 2 ^ 16)
/-- A predictor entry of a cluster. -/
def Cluster.predAt (x : Cluster) (i : Nat) : PredEntry := KMap.get {} x.pred i
/-- Does an entry match (14 R267)? -/
def PredEntry.hits (p : PredEntry) (k tag : Nat) : Bool := p.v && p.ctx == k && p.tag == tag
/-- The ids bid from an entry: by falling confidence, then slot (14 R270). -/
def PredEntry.bid (p : PredEntry) (cmin kmax : Nat) : List Nat :=
  ([3, 2, 1, 0].flatMap (fun c => ((p.ids.zip p.conf).filter (fun s => s.1 != 0xFF && s.2 == c && decide (cmin ≤ s.2))).map (·.1))).take kmax
/-- The checks of R270 on records and query. -/
def predBad (q : Query) (cs : List Call) : Bool := !q.zeros || (cs.zipIdx).any (fun c => q.has c.2 && c.1.badIds)
/-- The bid of a cluster (14 R270). -/
def Cluster.bids (x : Cluster) (k : Nat) (q : Query) (cs : List Call) : Entry :=
  entryOfBytes ((cs.zipIdx).flatMap (fun c =>
    if !q.has c.2 then List.replicate 32 0
    else
      let ix := predHash q c.2 c.1
      let p := x.predAt ix.1
      headerBytes c.1.tid 0 true q.tag ((if p.hits k ix.2 then p.bid q.cmin q.kmax else []).map (fun e => (e, 0)))))
/-- PRED (14 R270). -/
def execPred (w : VVV) (s : State) : Out :=
  .next (runWord s .m (.pred w) w.hdr (fun x m =>
    let h := m.hand x.r
    let os : List Opnd := [⟨w.a.toNat, w.ka, false, 4⟩, ⟨w.b.toNat, w.kb, false, 4⟩]
    let vs := opValues h x.e os
    let q := queryOf (vs.getD 1 0)
    let cs := callsOf (vs.headD 0)
    queueMeaning x m w.hdr os [w.d.toNat] 6 [trapIf (predBad q cs || q.kmax == 0 || decide (4 < q.kmax)) 1 8]
      (fun _ => ([.queue w.d.toNat ((m.cluster (clusterOf x.r)).bids h.ctx q cs)], 0))))

/-- A called id put into an entry that lacks it: the lowest empty slot, else the lowest of confidence 0; whether an id went
(14 R271). -/
def PredEntry.place (st : PredEntry × Bool) (e : Nat) : PredEntry × Bool :=
  let p := st.1
  if p.ids.contains e then st
  else
    match (List.range 4).find? (fun i => p.ids.getD i 0 == 0xFF), (List.range 4).find? (fun i => p.conf.getD i 0 == 0) with
    | some i, _ => ({ p with ids := p.ids.set i e, conf := p.conf.set i 1 }, st.2)
    | none, some i => ({ p with ids := p.ids.set i e, conf := p.conf.set i 1 }, true)
    | none, none => st
/-- An entry trained with a call, and the statistics (14 R271). -/
def PredEntry.train (p : PredEntry) (k tag : Nat) (c : List Nat) : PredEntry × Nat :=
  let found := (c.filter (fun e => e != 0xFF && p.ids.contains e)).length
  if p.hits k tag then
    let p1 := { p with conf := (p.ids.zip p.conf).map (fun s =>
      if s.1 = 0xFF then s.2 else if c.contains s.1 then min 3 (s.2 + 1) else s.2 - 1) }
    let out := c.foldl PredEntry.place (p1, false)
    (out.1, found + 8 + 16 * out.2.toNat)
  else
    ({ v := true, ctx := k, tag := tag, ids := (c ++ List.replicate 4 0xFF).take 4,
       conf := (c.map (fun _ => 1) ++ List.replicate 4 0).take 4 }, found + 16 * p.v.toNat)
/-- The masked slots of a PREDUP applied in ascending order (14 R271). -/
def Cluster.trainAll (x : Cluster) (k : Nat) (q : Query) : List (Nat × Call × Call) → Cluster × List Nat
  | [] => (x, [])
  | (r, prev, call) :: t =>
    if !q.has r then
      let out := x.trainAll k q t
      (out.1, 0 :: out.2)
    else
      let ix := predHash q r prev
      let st := (x.predAt ix.1).train k ix.2 (call.ids.take (min call.n 4))
      let out := Cluster.trainAll { x with pred := x.pred.set ix.1 st.1 } k q t
      (out.1, st.2 :: out.2)
/-- PREDUP (14 R271): the addend d is the current call. -/
def execPredup (w : VVV) (s : State) : Out :=
  .next (runWord s .m (.predup w) w.hdr (fun x m =>
    let h := m.hand x.r
    let c := clusterOf x.r
    let os : List Opnd := [⟨w.a.toNat, w.ka, false, 4⟩, ⟨w.b.toNat, w.kb, false, 4⟩, ⟨w.d.toNat, w.h, false, 4⟩]
    let vs := opValues h x.e os
    let q := queryOf (vs.getD 1 0)
    let prev := callsOf (vs.headD 0)
    let call := callsOf (vs.getD 2 0)
    let badCall := (List.range 4).any (fun r =>
      let a := prev.getD r (callOf 0 0)
      let d := call.getD r (callOf 0 0)
      q.has r && (d.tid != a.tid || decide (8 < d.n) || decide (d.experts.eraseDups.length ≠ d.experts.length) || d.spec))
    let out := (m.cluster c).trainAll h.ctx q ((List.range 4).map (fun r => (r, prev.getD r (callOf 0 0), call.getD r (callOf 0 0))))
    { own := queueOwn h x.e os [w.d.toNat] [trapIf (predBad q prev || badCall) 1 8]
      eff := fun m' => ((m'.modHand x.r (takeOps h x.e os)).modCluster c (fun y => { y with pred := out.1.pred })).issueResult x.r
        [.queue w.d.toNat (mkEntry 32 out.2)] 0 (pushFifo x.e w.hdr.push) (x.now + 4) true false }))
/-- PTCLR (14 R272). -/
def execPtclr (w : Z) (s : State) : Out :=
  .next (runWord s .m (.ptclr w) w.hdr (fun x m =>
    let k := (m.hand x.r).ctx
    instantMeaning x w.hdr [] (fun m' => m'.modCluster (clusterOf x.r) (fun y =>
      { y with pred := y.pred.map (fun (p : Nat × PredEntry) => (p.1, if p.2.ctx == k then { p.2 with v := false } else p.2)) }))))

/-! ## The speculation table -/

/-- The entry that SPTIX names, of the hand's cluster. -/
def Mach.spteAt (m : Mach) (r : Nat) : Nat × Spte :=
  let i := (bits ((m.hand r).creg 0x064) 0 8).toNat
  (i, KMap.get {} (m.cluster (clusterOf r)).spt i)
/-- SPTE as it reads (14 R273). -/
def Mach.spteValue (m : Mach) (r : Nat) : W64 :=
  let t := (m.spteAt r).2
  if !t.open_ || t.ctx != (m.hand r).ctx then 0
  else BitVec.ofNat 64 (2 ^ 62 + 2 ^ 48 * t.round + 2 ^ 40 * t.exp + 2 ^ 38 * t.fst + 2 ^ 32 * min t.npend 63 + 2 ^ 31 * t.hb.toNat
    + 2 ^ 16 * t.rows.length)
/-- The refusals and the wait of a write to SPTE (14 R274). -/
def Mach.spteStop (m : Mach) (r : Nat) (v : W64) : Option Stop :=
  let k := (m.hand r).ctx
  let x := m.cluster (clusterOf r)
  let t := (m.spteAt r).2
  let st := bits v 62 2
  let twin := x.spt.any (fun p => p.2.open_ && p.2.ctx == k && p.2.round == (bits v 48 8).toNat && p.2.exp == (bits v 40 8).toNat)
  firstStop [trapIf (st == 2 || st == 3 || (t.open_ && t.ctx != k) || (st == 1 && (t.open_ || twin))) 1 3,
    freezeIf (st == 0 && t.open_ && m.rslvReads (clusterOf r) t) 12]
/-- An entry opened (14 R274). -/
def Cluster.spteOpen (x : Cluster) (i k : Nat) (v : W64) : Cluster :=
  { x with spt := x.spt.set i { open_ := true, ctx := k, round := (bits v 48 8).toNat, exp := (bits v 40 8).toNat,
                                opening := x.spteNext + 1 }, spteNext := x.spteNext + 1 }
/-- An allowed write of SPTE acts (14 R274). -/
def Mach.spteWrite (m : Mach) (r : Nat) (v : W64) : Mach :=
  let k := (m.hand r).ctx
  let it := m.spteAt r
  m.modCluster (clusterOf r) (fun x =>
    if bits v 62 2 == 1 then x.spteOpen it.1 k v
    else if it.2.open_ then x.spteFree it.1
    else x)
/-- A write of ST 0 from outside the words waits in the entry until no RSLV reads its rows (14 R274). -/
def Mach.spteFreeing (m : Mach) (r : Nat) : Mach :=
  let it := m.spteAt r
  m.modCluster (clusterOf r) (fun x => { x with spt := x.spt.set it.1 { it.2 with freeing := true } })

/-! ## RSLV -/

/-- Is row `i` of an entry TENT, given that it is mapped and unresolved (14 R278)? -/
def Cluster.tent (x : Cluster) (t : Spte) (i : Nat) : Bool :=
  t.computed.contains i || x.cmds.any (fun c => c.op == .mmat && c.handle == t.handle && decide (c.row0 ≤ i && i < c.row0 + c.count))
/-- The row of a token in an entry: the highest that is mapped to it and not SQ (14 R278). -/
def Spte.rowOf (t : Spte) (tid : Nat) : Option (Nat × RowSt) :=
  ((t.rows.zipIdx).reverse.find? (fun p => p.1.1 == tid && p.1.2 != .sq)).map (fun p => (p.2, p.1.2))
/-- A row's state set. -/
def Spte.mark (t : Spte) (i : Nat) (st : RowSt) : Spte :=
  { t with rows := (t.rows.zipIdx).map (fun p => if p.2 = i then (p.1.1, st) else p.1) }
/-- What RSLV's decisions build: the cluster, the adds, the rerun pairs of the record, and the SPTCNT increments. -/
structure Decided where
  x : Cluster
  adds : List RAdd := []
  rerun : List (Nat × Nat) := []
  conf : Nat := 0
  sq : Nat := 0
  nrerun : Nat := 0
  fdisc : Nat := 0
/-- One local pair decided (14 R280, R282). -/
def Decided.pair (d : Decided) (k round tid out : Nat) (p : Nat × Nat) : Decided :=
  let again : Decided := { d with rerun := d.rerun ++ [p], nrerun := d.nrerun + 1 }
  match d.x.sptOf k round p.1 with
  | none => again
  | some (i, t) => match t.rowOf tid with
    | none => again
    | some (_, .conf) => d
    | some (row, _) =>
      let h := hdlOf t.handle
      if d.x.tent t row then
        { d with x := { d.x with spt := d.x.spt.set i (t.mark row .conf) }, conf := d.conf + 1,
                 adds := d.adds ++ [⟨16 * h.base + row, h.isInt, out, p.2, p.1⟩] }
      else { again with x := { d.x with spt := d.x.spt.set i (t.mark row .sq) }, sq := d.sq + 1 }
/-- The unresolved rows of a token in the entries of experts that its call does not name are squashed (14 R280). -/
def Decided.uncalled (d : Decided) (k round tid : Nat) (ids : List Nat) : Decided :=
  d.x.spt.foldl (fun d p =>
    let t := p.2
    if t.open_ && t.ctx == k && t.round == round && !ids.contains t.exp then
      let n := (t.rows.filter (fun q => q.1 == tid && q.2 == .mapped)).length
      let t' := { t with rows := t.rows.map (fun q => if q.1 == tid && q.2 == .mapped then (q.1, .sq) else q) }
      { d with x := { d.x with spt := d.x.spt.set p.1 t' }, sq := d.sq + n, fdisc := d.fdisc + (if t.fst = 3 then n else 0) }
    else d) d
/-- One record resolved: its rerun record, 32 bytes (14 R280, R281). -/
def Decided.record (d : Decided) (k round c out : Nat) (q : Call) : Decided × List Byte :=
  if q.n = 0 then (d, List.replicate 32 0)
  else
    let mine := q.pairs.filter (fun p => expertDest (d.x.expert k p.1) q.tid == c)
    let d1 := (mine.foldl (fun (d : Decided) p => d.pair k round q.tid out p) { d with rerun := [] }).uncalled k round q.tid q.experts
    (d1, if d1.rerun.isEmpty then List.replicate 32 0 else headerBytes q.tid 0 true round d1.rerun)
/-- All records resolved, in order. -/
def Decided.all (d : Decided) (k round c : Nat) : List (Call × Nat) → Decided × List Byte
  | [] => (d, [])
  | (q, out) :: t =>
    let a := d.record k round c out q
    let b := a.1.all k round c t
    (b.1, a.2 ++ b.2)

/-- The resolve descriptor: round, output handle, TID0, ORB, and whether the rest is zero (14 R279). -/
def rslvDesc (e : Entry) : Nat × W32 × Nat × Nat × Bool :=
  ((bits (lane e 0) 0 8).toNat, lane e 1, (lane e 2).toNat, (lane e 3).toNat, bits (lane e 0) 8 24 == 0 && bits e 128 896 == 0)
/-- The output row of a token in its handle, none below row 0 (14 R279). -/
def outRow (tid0 orb tid : Nat) : Option Nat := if orb + tid < tid0 then none else some (orb + tid - tid0)
/-- RSLV (14 R279, R280). -/
def execRslv (w : VVV) (s : State) : Out :=
  .next (runWord s .m (.rslv w) (lateHdr w.hdr) (fun x m =>
    let h := m.hand x.r
    let k := h.ctx
    let c := clusterOf x.r
    let y := m.cluster c
    let os : List Opnd := [⟨w.a.toNat, w.ka, false, 4⟩, ⟨w.b.toNat, w.kb, false, 4⟩]
    let vs := opValues h x.e os
    let ds := rslvDesc (vs.getD 1 0)
    let round := ds.1
    let hd := hdlOf ds.2.1
    let cs := callsOf (vs.headD 0)
    let live := cs.filter (fun c => c.n != 0)
    let bad := !ds.2.2.2.2 || live.any (fun q => q.spec || q.tag != 0 || q.badIds || q.experts.any (fun e => !bit (y.expert k e) 15))
    let rows := live.map (fun q => outRow ds.2.2.1 ds.2.2.2.1 q.tid)
    let far := rows.any (fun o => o.elim true (fun i => decide (hd.rows ≤ i)))
    let locals := (cs.zipIdx).flatMap (fun q => ((q.1.pairs.zipIdx).filter (fun p => expertDest (y.expert k p.1.1) q.1.tid == c)).map
      (fun p => (q.1.tid, p.1.1, q.2, p.2)))
    let waits := locals.any (fun l => ((y.sptOf k round l.2.1).map (fun t => t.2.npend != 0)).getD false)
    let faulty := locals.findSome? (fun l => match y.sptOf k round l.2.1 with
      | some (i, t) => if t.fst != 3 then none else (match t.rowOf l.1 with
        | some (row, .mapped) => if y.tent t row then
            some ([slotN l.1, slotN l.2.1, slotN l.2.2.1, slotN l.2.2.2, slotN i] ++ t.failRec) else none
        | _ => none)
      | none => none)
    { own := queueOwn h x.e os [w.d.toNat]
        ([trapIf bad 1 8, m.hdlStop x.r hd (some false) (some false) 0 0, trapIf far 0x0E 4]
          ++ rows.map (fun o => m.ownStop x.r hd (o.getD 0) 1)
          ++ [freezeIf waits 12, (match faulty with | some sl => trapOf 0x12 0 sl | none => none), m.queueFull x.r])
      wait := fun m' => m'.waitOldest x.r
      eff := fun m' =>
        let out := (Decided.mk y [] [] 0 0 0 0).all k round c (cs.map (fun q =>
          (q, 16 * hd.base + (outRow ds.2.2.1 ds.2.2.2.1 q.tid).getD 0)))
        let d := out.1
        let m1 := (m'.modHand x.r (takeOps h x.e os)).modCluster c (fun z =>
          Cluster.sptCount { z with spt := d.x.spt } k [d.conf, d.sq, d.nrerun, d.fdisc])
        let m2 := m1.issueResult x.r [.queue w.d.toNat 0] 0 0 0 false false
        m2.acceptCmd x.now x.r { acc := 0, hand := x.r, ctx := 0, seq := 0, op := .rslv, handle := ds.2.1, adds := d.adds, res := m2.lastId,
                                 ents := [entryOfBytes out.2], push := pushFifo x.e w.hdr.push } }))
/-- One add: the output row with the tentative row times the gate, each element rounded once, nearest even (14 R281). -/
def rslvAdd (a : RAdd) (old x : BitVec 8192) : BitVec 8192 :=
  let g := FFmt.bf16.decode a.gate
  acmPack ((List.range 256).map (fun n =>
    let v : FVal := if a.isInt then .fin (DyVal.ofInt (intOf true 32 (acmElem x n))) else FFmt.f32.decode (acmElem x n)
    (arithResult .f32 0 (addNum 0 (FFmt.f32.decode (acmElem old n)) (mulNum g v).1)).code))
/-- RSLV_START: the adds in order, each counted (14 R281); the output rows as they stood are kept for ACMPK (12 R242). -/
def execRslvStart (r seq : Nat) (s : State) : Out :=
  .next (runEvent s (fun now m =>
    match m.findCmd r seq with
    | none => m
    | some c =>
      if m.startHeld now c then m.holdCmd now c
      else
      let cl := clusterOf r
      let olds := ((c.adds.map (·.out)).eraseDups).map (fun p => (p, (m.cluster cl).acmRow p))
      let m := m.acmErrors r (c.adds.flatMap (fun a => [a.row, a.out]))
      let m := c.adds.foldl (fun m a => m.modCluster cl (fun x =>
        Cluster.countCall { x with acm := x.acm.set a.out (rslvAdd a (m.acmSeen cl a.out) (m.acmSeen cl a.row)) } now c.ctx a.expert)) m
      ((m.putCmd cl { c with started := true, olds := olds }).post (c.startT + 6 + 2 * c.adds.length) (.accumCommandComplete r seq)).armCmds now cl))

end Sys2Proof.Machine
end

