-- ==== Sys2Proof/Machine/Fabric.lean ====
section
/-! DEFINITION. Far writes and reads, rows parked at the receiver, and collectives (15 R284 to R302): FWR, FRD, COLL, COLLQ, the
arrivals and answers of other devices, PARKRPL and PARKDIS. -/

namespace Sys2Proof.Machine

/-! ## FWR and FRD -/

/-- The cluster where the route of a far access ejects; none off the mesh (15 R285, 02 R33). -/
def farCluster (r : Nat) (w : AF) : Option Nat := (routeEnd (clusterOf r) (routeDirs w.route.toNat)).map (·.1)
/-- The address that a far access names (15 R285): for a slice, the offset in the cluster where the route ejects. -/
def farAddr (r : Nat) (w : AF) (x : W64) : W64 := if bit x 63 then x else winAddr ((farCluster r w).getD 0) (bits x 0 23).toNat
/-- The page that maps a virtual address for a far access, or the stop (04 R59, R60, 15 R285): peer windows are allowed. -/
def Mach.farPage (m : Mach) (r : Nat) (x : W64) (wr : Bool) : Except Stop Nat :=
  let h := m.hand r
  let u := h.ring == 0
  if !bit ((m.ctx h.ctx).reg 0x100) 0 then .error (.trap (xlRec x wr (8, 1, 3)))
  else if bits x 48 15 != 0 then .error (.trap (xlRec x wr (8, 3, 3)))
  else match (m.cluster (clusterOf r)).page h.ctx x with
    | some e => match m.usePage e x wr u none with
      | .ok k => .ok k
      | .error f => .error (.trap (xlRec x wr f))
    | none => match (m.cluster (clusterOf r)).failedWalk h.ctx x with
      | some f => .error (.trap (xlRec x wr f))
      | none => .error (.walk x)
/-- The key that a far access reaches: a slice key, or a physical address. -/
def Mach.farKey (m : Mach) (r : Nat) (w : AF) (x : W64) (wr : Bool) : Nat :=
  if bit x 63 then (match m.farPage r x wr with | .ok pa => pa | .error _ => 0) else m.keyOf r (farAddr r w x) 128 wr
/-- Does a far access reach a peer window (15 R286)? -/
def Mach.farPeer (m : Mach) (r : Nat) (x : W64) (wr : Bool) : Bool :=
  bit x 63 && (match m.farPage r x wr with
    | .ok pa => (match m.physKind pa with | .peer _ => true | _ => false)
    | .error _ => false)
/-- Checks 4 and 5 of a far access (15 R285). Bits 29 to 23 of a slice address name no cluster here; those above are zero (04 R55). -/
def Mach.farStop (m : Mach) (r : Nat) (w : AF) (x : W64) (wr : Bool) : Option Stop :=
  firstStop
    [ trapIf (x.toNat % 128 != 0) 6 0 [x],
      if !bit x 63 then match farCluster r w with
        | none => trapOf 7 0 [x, 128, 127]
        | some d => trapIf (bits x 30 33 != 0 || (m.resolve (m.hand r).ctx (winAddr d (bits x 0 23).toNat) 128 wr false).toOption.isNone)
            7 0 [x, 128, slotN d]
      else if w.route != 0 then trapOf 1 8
      else match m.farPage r x wr with
        | .error st => some st
        | .ok pa => (match m.physKind pa with
          | .peer k => trapIf (!m.peerValid (m.hand r).ctx k) 9 7 [x, ofBool 64 wr, 0]
          | _ => none) ]
/-- Is the target of a far access the issuing cluster, and does it meet the range table (15 R285, check 6)? -/
def farRange (m : Mach) (r : Nat) (a : W64) : Bool := !bit a 63 && !otherSlice r a && m.inRange r a 128
/-- FWR (15 R284 to R286): it enters the store queue, and a placed one goes along its route. -/
def execFwr (w : AF) (s : State) : Out :=
  .next (runWord s .a (.fwr w) w.hdr (fun x m =>
    let h := m.hand x.r
    let a := h.areg w.base.toNat
    let t := farAddr x.r w a
    let os : List Opnd := [⟨w.q.toNat, false, false, 4⟩]
    let peer := m.farPeer x.r a true
    { own := firstStop [queueOwn h x.e os [] [], h.needA w.base.toNat, m.farStop x.r w a true, trapIf (farRange m x.r t) 0x0B 0 [a],
        trapIf ((otherSlice x.r t || peer) && !m.phase x.r) 0x0A 0 [a], h.lsFull x.now false]
      eff := fun m' =>
        let f := pushFifo x.e w.hdr.push
        (m'.modHand x.r (fun h' => (takeOps h x.e os h').reserveTok f)).enqueue x.now x.r
          { id := 0, hand := x.r, isLoad := false, op := if peer then .peerW (bit (h.creg 0x070) 0) else .store128,
            keys := [m.farKey x.r w a true], rows := [], data := (opValues h x.e os).headD 0, push := f, route := routeDirs w.route.toNat } [t] }))
/-- FRD (15 R284 to R286): it enters the load queue. -/
def execFrd (w : AF) (s : State) : Out :=
  .next (runWord s .a (.frd w) w.hdr (fun x m =>
    let h := m.hand x.r
    let a := h.areg w.base.toNat
    let t := farAddr x.r w a
    { own := firstStop [queueOwn h x.e [] [w.q.toNat] [], h.needA w.base.toNat, m.farStop x.r w a false,
        trapIf (farRange m x.r t) 0x0B 0 [a], h.lsFull x.now true]
      eff := fun m' =>
        let m1 := m'.issueResult x.r [.queue w.q.toNat 0] 0 (pushFifo x.e w.hdr.push) 0 false false
        m1.enqueue x.now x.r
          { id := 0, hand := x.r, isLoad := true, op := if m.farPeer x.r a false then .peerR else .load128,
            keys := [m.farKey x.r w a false], rows := [], land := 4, res := m1.lastId, reg := w.q.toNat, route := routeDirs w.route.toNat } [t] }))

/-! ## Rows at the receiver -/

/-- The cluster that receives a row (15 R288). -/
def Mach.rowCluster (m : Mach) (row : RemoteRow) : Nat :=
  if !bit row.addr 63 then sliceCluster row.addr else ((List.range 72).find? (m.inPart row.ctx)).getD 0
/-- PARKCTL.CAP, at most 1,024 (15 R287, log 81). -/
def Part.parkCap (x : Part) : Nat := min 1024 (bits (x.reg 0x074) 16 11).toNat
/-- The park header and data addresses of a slot (15 R287). -/
def Part.parkAt (x : Part) (slot : Nat) : Nat × Nat := ((bits (x.reg 0x072) 6 46).toNat * 64 + 64 * slot, (bits (x.reg 0x073) 14 38).toNat * 16384 + 16384 * slot)
/-- The lowest free slot, while fewer slots are used than CAP (15 R288). -/
def Part.freeSlot (x : Part) : Option Nat :=
  if x.parked.length < x.parkCap then (List.range x.parkCap).find? (fun s => !x.parked.any (fun p => p.slot == s)) else none
/-- Are two rows of one sender to one receiver, in one collective or of one thread (15 R289)? -/
def Mach.sameSender (m : Mach) (a b : RemoteRow) : Bool :=
  a.kind == b.kind && a.device == b.device && a.cluster == b.cluster && a.ctx == b.ctx
    && m.rowCluster a == m.rowCluster b && (if a.kind = 2 then a.seq == b.seq else a.thread == b.thread)
/-- Does a parked row keep a later one of its sender behind it (15 R289): is it sent in order, or itself behind such a one? -/
def Mach.sameStream (m : Mach) (q : Parked) (row : RemoteRow) : Bool := (q.row.ordered || q.behind) && m.sameSender q.row row
/-- The rows parked behind the one in a slot, in order (15 R289, R290). -/
def Mach.rowsBehind (m : Mach) (p slot : Nat) (row : RemoteRow) : List Parked :=
  ((((m.part p).parked.filter (fun q => m.sameSender row q.row)).dropWhile (fun q => q.slot != slot)).drop 1).takeWhile (·.behind)
/-- The 64 bytes of a park header (15 R288). -/
def parkHeader (now : Nat) (row : RemoteRow) (f : FaultRec) : List Byte :=
  leBytes 8 now ++ leBytes 2 row.device ++ leBytes 1 row.cluster ++ leBytes 1 row.kind ++ leBytes 4 (if row.kind = 2 then row.seq else 0)
    ++ leBytes 4 row.index ++ leBytes 2 ((row.data.length + 127) / 128) ++ leBytes 1 1 ++ leBytes 1 f.cause ++ leBytes 8 row.addr.toNat
    ++ leBytes 8 f.reason ++ ((f.slots.drop 1 ++ List.replicate 3 (0 : W64)).take 3).flatMap (fun x => leBytes 8 x.toNat)
/-- Row-parked (15 R288): to the hand that holds the context on core 0 of the receiving cluster; where that hand is switched out the
hand that holds the core takes preempt; with no such hand it is kept with the context. In replay both wait for their records (21 R399). -/
def Mach.noteParked (m : Mach) (c k slot : Nat) : Mach :=
  let p := (m.ctx k).part
  let f : FaultRec := ⟨0x15, 0, [slotN slot, slotN (m.part p).refused]⟩
  let m := (m.modPart p (fun x => { x with refused := 0 })).homeFault k c f
  let a := 8 * c + KMap.get 0 m.active (4 * c)
  match m.holder0 k c with
  | none => m
  | some q => if a = q then m else m.outsideFault a ⟨0x1D, 0, [slotN (k + 65536 * (q % 2))]⟩
/-- A row put into the park area: in the lowest free slot, or refused. -/
def Mach.parkRow (m : Mach) (now : Nat) (row : RemoteRow) (f : FaultRec) (behind : Bool) : Mach × Nat :=
  let p := (m.ctx row.ctx).part
  let x := m.part p
  match x.freeSlot with
  | none => (if row.kind = 1 then m.modPart p (fun y => { y with refused := y.refused + 1 }) else m, 2)
  | some s =>
    let at_ := x.parkAt s
    let m := ((m.modPart p (fun y => { y with parked := y.parked ++ [⟨s, row, behind⟩] })).pokePhys at_.1 (parkHeader now row f)).pokePhys at_.2 row.data
    (if behind then m else m.noteParked (m.rowCluster row) row.ctx s, 1)

/-! ## Blocks of collectives -/

/-- A field of the block (15 R291). -/
def Coll.f (c : Coll) (lo n : Nat) : Nat := field c.block lo n
/-- OP, group, type, and bytes per element (15 R291). -/
def Coll.op (c : Coll) : Nat := c.f 0 1
/-- The group: 0 die, 1 package, 2 device group. -/
def Coll.grp (c : Coll) : Nat := c.f 1 1
/-- Bytes of one element. -/
def Coll.eb (c : Coll) : Nat := tw (c.f 2 1) / 8
/-- SRC. -/
def Coll.src (c : Coll) : W64 := BitVec.ofNat 64 (c.f 16 8)
/-- DST. -/
def Coll.dst (c : Coll) : W64 := BitVec.ofNat 64 (c.f 24 8)
/-- COUNT in bytes. -/
def Coll.bytes (c : Coll) : Nat := c.f 32 4 * c.eb
/-- A token-exchange row in bytes. -/
def Coll.rowLen (c : Coll) : Nat := 128 * c.f 42 2
/-- Bit `n` of byte 41: CSUM, RELAY. -/
def Coll.opt (c : Coll) (n : Nat) : Bool := (c.f 41 1).testBit n
/-- The clusters of the domain within the partition (15 R292). -/
def Mach.collClusters (m : Mach) (r : Nat) (c : Coll) : List Nat :=
  (List.range 72).filter (fun q => m.inPart (m.hand r).ctx q && (c.grp != 0 || dieOf q == dieOf (clusterOf r)))
/-- The peers that PMASK names. -/
def Coll.peers (c : Coll) : List Nat := (List.range 64).filter (fun k => (c.f 8 8).testBit k)
/-- The number of members. -/
def Mach.collSize (m : Mach) (r : Nat) (c : Coll) : Nat := if c.grp = 2 then c.peers.length + 1 else (m.collClusters r c).length
/-- The algorithm for P members (15 R294): 1 ring, 2 tree, 3 direct. -/
def Coll.algo (c : Coll) (p : Nat) : Nat :=
  if c.f 4 1 != 0 then c.f 4 1
  else if c.op = 3 then 2 else if c.op = 4 then 3 else if p ≤ 4 then 3 else 1
/-- The length of DST (15 R293). -/
def Coll.dstLen (c : Coll) (p : Nat) : Nat :=
  match c.op with | 1 => c.bytes / p | 2 => p * c.bytes | 4 => c.f 44 4 * c.rowLen | _ => c.bytes
/-- The rows that a token exchange sends. -/
def Coll.rowCount (c : Coll) : Nat := if c.rowLen = 0 then 0 else c.bytes / c.rowLen
/-- Does an address name the issuing cluster's slice, or a place outside the peer windows (15 R291)? -/
def Mach.collAddr (m : Mach) (r : Nat) (a : W64) : Bool :=
  a.toNat % 128 == 0 && (if bit a 63 then (match m.walk (m.hand r).ctx a with
      | .ok e => (match m.physKind e.ppage with | .peer _ => false | _ => true)
      | .error _ => true)
    else sliceCluster a == clusterOf r)
/-- Do two spans overlap? -/
def spansMeet (a : W64) (n : Nat) (b : W64) (k : Nat) : Bool := decide (a.toNat < b.toNat + k) && decide (b.toNat < a.toNat + n)
/-- Is a block malformed (15 R291, R293)? -/
def Mach.collBad (m : Mach) (r : Nat) (c : Coll) : Bool :=
  let p := m.collSize r c
  let red := c.op ≤ 1
  let n := c.f 32 4
  let ch := c.f 36 4
  let st := c.f 48 8
  decide (4 < c.op) || decide (2 < c.grp) || decide (8 < c.f 2 1) || (if red then decide (2 < c.f 3 1) || decide (c.f 2 1 < 4) else c.f 3 1 != 0)
    || decide (3 < c.f 4 1) || decide (6 < nbits (c.f 5 1) 4 3) || (c.op == 3 && decide (p ≤ c.f 6 2))
    || !m.collAddr r c.src || !m.collAddr r c.dst || (st != 0 && !m.collAddr r (BitVec.ofNat 64 st))
    || n == 0 || decide (2 ^ 28 < n) || ch % 4096 != 0 || ch == 0 || decide (1048576 < ch)
    || decide (64 ≤ c.f 40 1) || decide (4 ≤ c.f 41 1) || (c.op == 4 && (c.f 42 2 == 0 || decide (128 < c.f 42 2))) || c.f 64 64 != 0
    || (c.f 41 1 != 0 && (c.op != 3 || c.grp != 2 || c.f 4 1 != 1)) || (c.op == 1 && n % p != 0)
    || (spansMeet c.src c.bytes c.dst (c.dstLen p) && !(c.src == c.dst && (c.op == 0 || c.op == 3)))
    || (c.op == 4 && (match m.readAt (m.hand r).ctx (BitVec.ofNat 64 (c.f 56 8)) (8 * c.rowCount) c.u with
        | .ok bs => (List.range c.rowCount).any (fun i => field bs (8 * i + 6) 2 != 0 || decide (p ≤ field bs (8 * i) 2))
        | .error _ => false))

/-! ## Steps -/

/-- Elements of one ring segment, and of a segment as bytes (15 R294). -/
def Coll.segLen (c : Coll) (p : Nat) : Nat := (c.f 32 4 + p - 1) / p * c.eb
/-- Offset and length in SRC of segment `g`. -/
def Coll.seg (c : Coll) (p g : Nat) : Nat × Nat := (min (g * c.segLen p) c.bytes, min c.bytes ((g + 1) * c.segLen p) - min (g * c.segLen p) c.bytes)
/-- The bytes that one sender hands to one receiver in a round. -/
def Coll.payload (c : Coll) (p : Nat) : Nat :=
  match c.algo p, c.op with
  | 1, 0 => c.segLen p
  | 1, 1 => c.segLen p
  | 2, 2 => p * c.bytes
  | 3, 1 => c.bytes / p
  | _, _ => c.bytes
/-- Chunks of a round. -/
def Coll.chunks (c : Coll) (p : Nat) : Nat := (c.payload p + c.f 36 4 - 1) / c.f 36 4
/-- The rank counted from the root: of a broadcast, else from rank 0 (15 R294). -/
def Coll.rel (c : Coll) (p i : Nat) : Nat := if c.op = 3 then (i + p - c.f 6 2 % p) % p else i
/-- The rank with a place counted from the root. -/
def Coll.abs (c : Coll) (p v : Nat) : Nat := if c.op = 3 then (v + c.f 6 2) % p else v % p
/-- The rounds in which rank `i` receives: for a ring its steps; for a tree 0 and 1 from its children, 2 from its parent; direct, the
sender's rank (15 R294). -/
def Coll.rounds (c : Coll) (p i : Nat) : List Nat :=
  let v := c.rel p i
  if p ≤ 1 || c.op = 4 then []
  else match c.algo p with
    | 1 => (match c.op with | 0 => List.range (2 * (p - 1)) | 3 => if v = 0 then [] else [0] | _ => List.range (p - 1))
    | 2 => (if c.op = 3 then [] else (if 2 * v + 1 < p then [0] else []) ++ (if 2 * v + 2 < p then [1] else [])) ++ (if v = 0 then [] else [2])
    | _ => if c.op = 3 then (if v = 0 then [] else [c.f 6 2]) else (List.range p).filter (· != i)
/-- The rank that sends to rank `i` in a round. -/
def Coll.sender (c : Coll) (p i t : Nat) : Nat :=
  let v := c.rel p i
  match c.algo p with
  | 1 => (i + p - 1) % p
  | 2 => c.abs p (match t with | 0 => 2 * v + 1 | 1 => 2 * v + 2 | _ => (v - 1) / 2)
  | _ => t
/-- The segment that a ring step of rank `i` carries. -/
def Coll.ringSeg (c : Coll) (p i t : Nat) : Nat :=
  match c.op with
  | 0 => if t < p - 1 then (i + 2 * p - 2 - t) % p else (i + 2 * p - 1 - (t - (p - 1))) % p
  | 1 => (i + 2 * p - 2 - t) % p
  | _ => (i + 2 * p - 1 - t) % p
/-- Clip a chunk: its offset and length within `n` bytes. -/
def Coll.clip (c : Coll) (j n : Nat) : Nat × Nat := (min (j * c.f 36 4) n, min n ((j + 1) * c.f 36 4) - min (j * c.f 36 4) n)
/-- The part of a span that lies in segment `g` of a reduce-scatter, counted from the segment's start. -/
def inSeg (c : Coll) (p g : Nat) (s : Nat × Nat) : Nat × Nat :=
  let m := c.bytes / p
  let lo := max s.1 (g * m)
  (lo - g * m, min (s.1 + s.2) ((g + 1) * m) - lo)
/-- What a step writes at rank `i`: offset and length in DST; length 0 where it only passes on. -/
def Coll.writes (c : Coll) (p i t j : Nat) : Nat × Nat :=
  let s := c.clip j (c.payload p)
  match c.algo p with
  | 1 =>
    let g := c.ringSeg p i t
    (match c.op with
     | 0 => if t < p - 2 then (0, 0) else let q := c.clip j (c.seg p g).2; ((c.seg p g).1 + q.1, q.2)
     | 1 => if t < p - 2 then (0, 0) else c.clip j (c.seg p g).2
     | 2 => (g * c.bytes + s.1, s.2)
     | _ => s)
  | 2 =>
    if t = 2 || c.rel p i = 0 then (if c.op = 1 then inSeg c p i s else s) else (0, 0)
  | _ => if c.op = 2 then (t * c.bytes + s.1, s.2) else s
/-- Two elements combined (15 R294): integers wrap or take the extreme by type, floats round once to nearest even. -/
def combine1 (ty red a b : Nat) : Nat :=
  if isF ty then
    match red with
    | 0 => (fAdd (FFmt.ofType ty) 0 a b).code
    | 1 => (fMinMax (FFmt.ofType ty) true a b).code
    | _ => (fMinMax (FFmt.ofType ty) false a b).code
  else
    let x := intOf (tySigned ty) (tw ty) a
    let y := intOf (tySigned ty) (tw ty) b
    match red with | 0 => intCode (tw ty) (x + y) | 1 => intCode (tw ty) (max x y) | _ => intCode (tw ty) (min x y)
/-- Bytes combined element by element; those of an all-gather on a tree are laid together. -/
def Coll.combine (c : Coll) (a b : List Byte) : List Byte :=
  if c.op = 2 then (a.zip b).map (fun p => p.1 ||| p.2)
  else
    let w := 8 * c.eb
    let n := a.length / c.eb
    leBytes a.length (packElems w (((splitElems w n a).zip (splitElems w n b)).map (fun p => combine1 (c.f 2 1) (c.f 3 1) p.1 p.2)))
/-- A member's own contribution to a chunk of a tree's payload. -/
def Coll.own (c : Coll) (i : Nat) (src : List Byte) (s : Nat × Nat) : List Byte :=
  if c.op = 2 then (List.range s.2).map (fun b => if s.1 + b < i * c.bytes then 0 else src.getD (s.1 + b - i * c.bytes) 0)
  else (src.drop s.1).take s.2

/-! ## Ends and faults -/

/-- The collective that was issued in hand `r`, by its number. -/
def Mach.findColl (m : Mach) (r id : Nat) : Option Coll := (m.hand r).colls.find? (fun c => c.id == id)
/-- A collective replaced. -/
def Mach.putColl (m : Mach) (r : Nat) (c : Coll) : Mach :=
  m.modHand r (fun h => { h with colls := h.colls.map (fun d => if d.id == c.id then c else d) })
/-- The range entries of a collective released (15 R296). -/
def Mach.freeRanges (m : Mach) (r id : Nat) : Mach :=
  m.modCluster (clusterOf r) (fun x => { x with ranges := x.ranges.filter (fun e => e.coll != id) })
/-- The status record of a collective (15 R299). -/
def Mach.collStatus (m : Mach) (now r : Nat) (c : Coll) (st : Nat) : Mach :=
  let a := c.f 48 8
  if a = 0 then m
  else
    let ix := ((c.parked.map (leBytes 4 ·)) ++ List.replicate 8 (leBytes 4 0xFFFFFFFF)).take 8
    match m.writeAt c.ctx (BitVec.ofNat 64 a) (leBytes 8 now ++ leBytes 1 st ++ leBytes 1 c.reason ++ leBytes 2 c.discarded ++ leBytes 4 c.seq
        ++ leBytes 4 c.parked.length ++ ix.flatten ++ leBytes 12 0) c.u with
    | .ok m' => m'
    | .error f => m.ctxFault c.ctx r c.tid f
/-- A collective of one member faults (15 R300). -/
def Mach.collFault1 (m : Mach) (now r id reason : Nat) : Mach :=
  match m.findColl r id with
  | none => m
  | some c =>
    if 3 ≤ c.state then m
    else
      let c := { c with state := 3, reason := reason, sends := 0 }
      (((m.putColl r c).freeRanges r id).collStatus now r c 3).ctxFault c.ctx r c.tid ⟨0x14, reason, [slotN c.seq]⟩
/-- The other members in this device take reason 3 (15 R300). -/
def Mach.collOthers (m : Mach) (now id : Nat) (c : Coll) : Mach :=
  (c.members.filter (fun q => q.1 < 1024 && q.2 != id)).foldl (fun m q => m.collFault1 now q.1 q.2 3) m
/-- A collective faults with a reason that the other members see as reason 3. -/
def Mach.collFault (m : Mach) (now r id reason : Nat) : Mach :=
  match m.findColl r id with
  | none => m
  | some c => (m.collFault1 now r id reason).collOthers now id c
/-- The collectives of a killed context stop: STATUS 5 for each, no token, and members that are not killed fault (15 R302). -/
def Mach.killColls (m : Mach) (now k : Nat) : Mach :=
  let cs := m.hands.flatMap (fun p => (p.2.colls.filter (fun c => decide (c.state < 3) && c.ctx == k)).map (fun c => (p.1, c)))
  let m := cs.foldl (fun m (p : Nat × Coll) =>
    (((m.freeRanges p.1 p.2.id).collStatus now p.1 p.2 5).modHand p.1 (fun h =>
      { h with colls := h.colls.filter (fun d => d.id != p.2.id) })).modDev (fun d =>
      { d with peerOps := d.peerOps.filter (fun o => o.coll != p.2.id) })) m
  cs.foldl (fun m (p : Nat × Coll) => m.collOthers now p.2.id p.2) m
/-- A collective whose own sends and receives are all performed completes in the next cycle (15 R297). -/
def Mach.collTest (m : Mach) (now r id : Nat) : Mach :=
  match m.findColl r id with
  | none => m
  | some c =>
    if c.state = 1 && c.sends = 0 && decide (c.total ≤ c.done.length + c.rows) then m.post (now + 1) (.collComplete r id) else m
/-- A collective is complete (15 R297, R299). A token exchange stays as one that only passes rows on (state 4, R294, log 130). -/
def Mach.collEnds (m : Mach) (now r : Nat) (c : Coll) : Mach :=
  let st := if c.parked.isEmpty && c.discarded = 0 then 1 else 2
  (((m.collStatus now r c st).freeRanges r c.id).modHand r (fun h => { h with
    colls := if c.op = 4 then h.colls.map (fun d => if d.id == c.id then { d with state := 4 } else d) else h.colls.filter (fun d => d.id != c.id) })).tokenFor
      now c.ctx r c.tid c.push
/-- A send of a member counted as performed. -/
def Mach.collSent (m : Mach) (now r id : Nat) : Mach :=
  match m.findColl r id with
  | none => m
  | some c => (m.putColl r { c with sends := c.sends - 1 }).collTest now r id
/-- COLL_COMPLETE: status, range entries and token, once a bank takes the record (15 R297, R299, 06 R116). -/
def execCollComplete (r id : Nat) (s : State) : Out :=
  .next (runEvent s (fun now m =>
    match m.findColl r id with
    | none => m
    | some c =>
      if c.state != 1 then m
      else if c.f 48 8 = 0 then m.collEnds now r c
      else m.atBanks now (.collComplete r id) (m.rowKeys c.ctx 64 true c.u [BitVec.ofNat 64 (c.f 48 8)]) false (fun m => m.collEnds now r c)))
/-- The flag of a collective raised for its thread's team, by the context agent where that is switched out (15 R295, 19 R376). -/
def Mach.collFlag (m : Mach) (now r : Nat) (c : Coll) : Mach :=
  let q := (m.threadAt c.ctx r c.tid).getD r
  m.agentFinc now c.ctx (q % 2) (clusterOf q) (c.f 40 1 % 64) 1

/-! ## Rows landing -/

/-- The token exchange that a collective row belongs to, with DST over its address: at the cluster of a slice address, or at any cluster
of the partition for a translated one. -/
def Mach.rowColl (m : Mach) (row : RemoteRow) : Option (Nat × Coll) :=
  let cs := if bit row.addr 63 then (List.range 72).filter (m.inPart row.ctx) else [sliceCluster row.addr]
  (cs.flatMap (fun c => (List.range 8).map (8 * c + ·))).findSome? (fun r => ((m.hand r).colls.find? (fun d =>
    d.op == 4 && (d.state == 1 || d.state == 2) && d.ctx == row.ctx && decide (d.dst.toNat ≤ row.addr.toNat && row.addr.toNat < d.dst.toNat + d.dstLen 1))).map (fun d => (r, d)))
/-- A row counted at its collective: the flag rises with the EXPECTth (15 R295). -/
def Mach.countRow (m : Mach) (now : Nat) (row : RemoteRow) (lost : Bool) : Mach :=
  if row.kind != 2 then m
  else match m.rowColl row with
    | none => m
    | some (r, c) =>
      let c := { c with rows := c.rows + 1, discarded := c.discarded + lost.toNat }
      let m := m.putColl r c
      (if c.rows = c.f 44 4 then m.collFlag now r c else m).collTest now r c.id
/-- A row that could not be parked: a collective row fails its collective (15 R288, R300). -/
def Mach.rowRefused (m : Mach) (now : Nat) (row : RemoteRow) : Mach :=
  if row.kind != 2 then m
  else match m.rowColl row with
    | some (r, c) => m.collFault now r c.id 6
    | none => m
/-- Is a row that arrives parked behind an earlier one (15 R289)? -/
def Mach.rowBehind (m : Mach) (row : RemoteRow) : Bool := (m.part (m.ctx row.ctx).part).parked.any (fun q => m.sameStream q row)
/-- The keys at which a row that arrives is written: none where it is parked or refused (15 R288). -/
def Mach.landKeys (m : Mach) (row : RemoteRow) : List Nat :=
  if m.rowBehind row then [] else m.rowKeys row.ctx row.data.length true true [row.addr]
/-- A row translated and written, or parked, or refused: 0, 1, 2 (15 R288, R289). -/
def Mach.landRow (m : Mach) (now : Nat) (row : RemoteRow) (who iseq : Nat) : Mach × Nat :=
  let park := fun (f : FaultRec) (behind : Bool) =>
    let out := m.parkRow now row f behind
    if out.2 = 2 then (out.1.rowRefused now row, 2) else out
  if m.rowBehind row then park ⟨0, 0, []⟩ true
  else match m.span row.ctx row.addr row.data.length true true with
    | .ok l => (((m.noteArrivals now (arrivalsOf who iseq (l.map (·.1)))).writeSpan l row.data).countRow now row false, 0)
    | .error f => park f false
/-- Is the turn of a row in the log yet to come (21 R398, R399)? -/
def Mach.rowLate (m : Mach) (row : RemoteRow) (who iseq : Nat) : Bool := !m.mayArriveAll (arrivalsOf who iseq (m.landKeys row))
/-- REMOTE_ROW_ARRIVAL (15 R288): the row lands, or waits at its banks, in the mesh, until they can serve it (06 R116, R130, 21 R399). -/
def execRemoteRowArrival (row : RemoteRow) (s : State) : Out :=
  .next (runEvent s (fun now m =>
    if m.rowLate row 65535 0 || m.banksBusy now (banksOf (m.landKeys row)) then
      ({ m with rowsIn := m.rowsIn ++ [(m.nextId, row)] }.bump).waitAtBank now (.meshFlitAdvance m.nextId)
    else ((m.useBanks now (banksOf (m.landKeys row))).landRow now row 65535 0).1))
/-- MESH_FLIT_ADVANCE (06 R130): a flit goes on; one that carries a row of another device and waits at its banks enters them. -/
def execMeshFlitAdvance (id : Nat) (s : State) : Out :=
  .next (runEvent s (fun now m =>
    match m.rowsIn.find? (fun p => p.1 == id) with
    | none => m.advanceFlit now id
    | some p => m.atBanks now (.meshFlitAdvance id) (m.landKeys p.2) (m.rowLate p.2 65535 0) (fun m =>
        ({ m with rowsIn := m.rowsIn.filter (fun q => q.1 != id) }.landRow now p.2 65535 0).1)))

/-- A slot freed: its header says so. -/
def Mach.freePark (m : Mach) (p slot : Nat) : Mach :=
  let x := m.part p
  (m.modPart p (fun y => { y with parked := y.parked.filter (fun q => q.slot != slot) })).pokePhys ((x.parkAt slot).1 + 22) [0]
/-- Rows parked behind a freed one replayed in order, up to one that faults (15 R290). -/
def Mach.replayRows (m : Mach) (now p : Nat) : List Parked → Mach
  | [] => m
  | q :: t =>
    let data := m.bytes ((m.part p).parkAt q.slot).2 q.row.data.length
    match m.span q.row.ctx q.row.addr data.length true true with
    | .ok l => (((m.writeSpan l data).freePark p q.slot).countRow now q.row false).replayRows now p t
    | .error _ =>
      (m.modPart p (fun y => { y with parked := y.parked.map (fun (z : Parked) => if z.slot == q.slot then { z with behind := false } else z) })).noteParked
        (m.rowCluster q.row) q.row.ctx q.slot
/-- A write to PARKRPL (15 R290); a row behind an earlier one of its stream waits for that one. -/
def Mach.parkReplay (m : Mach) (now p slot : Nat) : Mach :=
  match (m.part p).parked.find? (fun q => q.slot == slot) with
  | none => m
  | some q =>
    if q.behind then m
    else
      let data := m.bytes ((m.part p).parkAt slot).2 q.row.data.length
      match m.span q.row.ctx q.row.addr data.length true true with
      | .ok l => (((m.writeSpan l data).freePark p slot).countRow now q.row false).replayRows now p (m.rowsBehind p slot q.row)
      | .error _ => m.noteParked (m.rowCluster q.row) q.row.ctx slot
/-- A write to PARKDIS (15 R290): behind a discarded head the next rows of its stream are replayed, behind another nothing is. -/
def Mach.parkDiscard (m : Mach) (now p slot : Nat) : Mach :=
  match (m.part p).parked.find? (fun q => q.slot == slot) with
  | none => m
  | some q =>
    let rows := if q.behind then [] else m.rowsBehind p slot q.row
    ((m.freePark p slot).countRow now q.row true).replayRows now p rows

/-! ## A collective runs -/

/-- Where an offset of a collective's own DST lies: in DST, and under RELAY in the slices of its DST cluster set too (15 R301, log 54). -/
def Mach.putAddrs (m : Mach) (c : Coll) (lo : Nat) : List W64 :=
  let more := if c.opt 1 && !bit c.dst 63 then
      ((List.range 72).filter (fun q => (Config.relaySet c.dst).testBit q && m.inPart c.ctx q && q != sliceCluster c.dst)).map
        (fun q => winAddr q (bits c.dst 0 23).toNat)
    else []
  (c.dst :: more).map (· + BitVec.ofNat 64 lo)
/-- The keys of `n` bytes there. -/
def Mach.putKeys (m : Mach) (c : Coll) (lo n : Nat) : List Nat := if n = 0 then [] else m.rowKeys c.ctx n true c.u (m.putAddrs c lo)
/-- Bytes written into a collective's own DST; a fault of it is reason 4 (15 R300). -/
def Mach.collPut (m : Mach) (now r : Nat) (c : Coll) (lo : Nat) (bs : List Byte) : Mach :=
  if bs.isEmpty then m
  else (m.putAddrs c lo).foldl (fun m a => match m.writeAt c.ctx a bs c.u with
    | .ok m' => m'
    | .error _ => m.collFault now r c.id 4) m
/-- What a member writes of its own part when its run begins: the offset in SRC, the offset in DST, and the length (15 R293, R294). -/
def Coll.ownPut (c : Coll) (p : Nat) : Nat × Nat × Nat :=
  let i := c.rank
  if c.op = 4 then (0, 0, 0)
  else if c.op = 3 then (0, 0, if c.rel p i = 0 then c.bytes else 0)
  else if p = 1 then (0, 0, c.bytes)
  else if c.op = 2 then (0, i * c.bytes, if c.algo p = 2 then 0 else c.bytes)
  else if c.algo p = 3 then (if c.op = 1 then (i * (c.bytes / p), 0, c.bytes / p) else (0, 0, c.bytes))
  else (0, 0, 0)
/-- The keys of what a member writes when its run begins. -/
def Mach.startKeys (m : Mach) (c : Coll) : List Nat := let o := c.ownPut c.members.length; m.putKeys c o.2.1 o.2.2
/-- A message of a collective to a peer: it waits for its acknowledgement (15 R300). -/
def Mach.collToPeer (m : Mach) (now r id : Nat) (p : PeerOp) : Mach := (m.sendPeer { p with sentT := now }).post (now + 52500) (.peerAckTimeout r id)
/-- A step sent to the member of rank `q`: it arrives over the mesh, or leaves to a peer, with CSUM behind its CRC (15 R292, R298,
R301). -/
def Mach.collSend (m : Mach) (now r id q k : Nat) (bs : List Byte) : Mach :=
  match m.findColl r id with
  | none => m
  | some c =>
    if c.state != 1 then m
    else
      let to_ := c.members.getD q (0, 0)
      let m := m.putColl r { c with sends := c.sends + 1 }
      if to_.1 < 1024 then
        m.post (now + 2 + hops (clusterOf r) (clusterOf to_.1) + (bs.length + 127) / 128) (.collStepArrival to_.1 to_.2 k bs)
      else
        m.collToPeer now r id { id := 0, hand := r, isRead := false, peer := to_.1 - 1024, addr := c.dst, coll := id, index := k,
                                bytes := if c.opt 0 then bs ++ leBytes 8 (crc64 bs).toNat else bs,
                                ord := (c.f 5 1).testBit 7 || bit ((m.hand r).creg 0x070) 0 }
/-- Chunks of a payload sent to a rank in a round. -/
def Mach.collSendAll (m : Mach) (now r : Nat) (c : Coll) (p q t : Nat) (bs : List Byte) : Mach :=
  (List.range (c.chunks p)).foldl (fun m j =>
    let s := c.clip j bs.length
    m.collSend (now + j) r c.id q (t * c.chunks p + j) ((bs.drop s.1).take s.2)) m
/-- The next rank on a row's way from rank `i` to rank `q`: along the ring, along the tree, or there (15 R294); on a tree `v` is the
ancestor of `q` that is a child of rank `i`, if there is one. -/
def Coll.rowHop (c : Coll) (p i q : Nat) : Nat :=
  match c.algo p with
  | 1 => (i + 1) % p
  | 2 => (((List.range 32).foldl (fun (a : Nat × Option Nat) _ => if a.1 = 0 || a.2.isSome then a
            else if (a.1 - 1) / 2 = i then (a.1, some a.1) else ((a.1 - 1) / 2, none)) (q, none)).2).getD ((i - 1) / 2)
  | _ => q
/-- The time of a row's way over the mesh, from rank to rank; `fuel` bounds the ranks. -/
def Coll.rowTime (c : Coll) (p q : Nat) : Nat → Nat → Nat
  | 0, _ => 0
  | n + 1, i =>
    if i = q then 0
    else
      let j := c.rowHop p i q
      2 + hops (clusterOf (c.members.getD i (0, 0)).1) (clusterOf (c.members.getD j (0, 0)).1) + c.rowLen / 128 + c.rowTime p q n j
/-- The device number of peer entry `k` (15 R292, 04 R63). -/
def Mach.peerNumber (m : Mach) (k j : Nat) : Nat :=
  match m.readAt k (((m.ctx k).reg 0x101 &&& ~~~15) + BitVec.ofNat 64 (16 * j)) 16 true with
  | .ok bs => field bs 0 2 | .error _ => 0
/-- What travels of a row: its index at the receiver, its sender's sequence number, ORD, and its bytes (15 R288, R293). -/
def Coll.rowBytes (c : Coll) (ix : Nat) (data : List Byte) : List Byte :=
  leBytes 4 ix ++ leBytes 4 c.seq ++ leBytes 1 ((c.f 5 1).testBit 7).toNat ++ data
/-- A row of the member `q` as it stands at its receiver in hand `r` (15 R288, R293). -/
def Mach.rowIn (m : Mach) (r : Nat) (c : Coll) (q : Nat × Nat) (e : Nat) (ext : List Byte) : RemoteRow :=
  { kind := 2, device := if q.1 < 1024 then (bits m.dev.fabid 0 16).toNat else m.peerNumber c.ctx (q.1 - 1024),
    cluster := clusterOf (if q.1 < 1024 then q.1 else r), thread := q.1, ctx := c.ctx,
    addr := c.dst + BitVec.ofNat 64 (field ext 0 4 * c.rowLen), data := ext.drop 9, seq := field ext 4 4, index := e,
    ordered := field ext 8 1 == 1 }
/-- A row that leaves to the peer on its way to its rank, of this member or passed on for another (15 R293, R294): the message names the
rank that it is for and its index there. -/
def Mach.rowToPeer (m : Mach) (now r : Nat) (c : Coll) (k : Nat) (ext : List Byte) (fwd : Bool) : Mach :=
  match m.findColl r c.id with
  | none => m
  | some d =>
    (m.putColl r { d with sends := d.sends + 1 }).collToPeer now r c.id
      { id := 0, hand := r, isRead := false, peer := (c.members.getD (c.rowHop c.members.length c.rank (k / 2 ^ 48)) (1024, 0)).1 - 1024, addr := 0,
        bytes := ext.drop 9, coll := c.id, index := k % 2 ^ 32, rank := k / 2 ^ 48, row := field ext 0 4, fwd := fwd,
        ord := field ext 8 1 == 1 || bit ((m.hand r).creg 0x070) 0 }
/-- A row that has reached its receiver (15 R288, R293): landed, parked or refused; its sender `q` learns which rows are parked. -/
def Mach.rowArrives (m : Mach) (now : Nat) (q : Nat × Nat) (row : RemoteRow) (who iseq : Nat) : Mach :=
  let out := m.landRow now row who iseq
  (if out.2 = 1 then (match out.1.findColl q.1 q.2 with
    | some d => out.1.putColl q.1 { d with parked := d.parked ++ [row.index] }
    | none => out.1) else out.1).collSent now q.1 q.2
/-- A row of a token exchange that has come to the member of hand `r`: passed on where it is for another rank (R294), else landed at its
banks. -/
def Mach.rowComes (m : Mach) (now r : Nat) (c : Coll) (k : Nat) (ext : List Byte) : Mach :=
  let src := k / 2 ^ 32 % 2 ^ 16
  let q := c.members.getD src (1024, 0)
  let who := if q.1 < 1024 then q.1 else 65535
  let iseq := (m.findColl q.1 q.2).elim 0 (·.iseq)
  let row := m.rowIn r c q (k % 2 ^ 32) ext
  if k / 2 ^ 48 != c.rank then m.rowToPeer now r c k ext true
  else if c.state = 3 then m
  else m.atBanks now (.collStepArrival r c.id k ext) (m.landKeys row) (m.rowLate row who iseq) (fun m => m.rowArrives now q row who iseq)
/-- One row of a token exchange sent (15 R288, R293): directly, or from rank to rank as a hint binds (R294). -/
def Mach.sendRow (m : Mach) (now r : Nat) (c : Coll) (e : Nat) (dl src : List Byte) : Mach :=
  let p := c.members.length
  let rank := field dl (8 * e) 2
  let q := c.members.getD rank (0, 0)
  let k := 2 ^ 48 * rank + 2 ^ 32 * c.rank + e
  let ext := c.rowBytes (field dl (8 * e + 2) 4) ((src.drop (e * c.rowLen)).take c.rowLen)
  match m.findColl r c.id with
  | none => m
  | some d =>
    if q.1 < 1024 then (m.putColl r { d with sends := d.sends + 1 }).post (now + c.rowTime p rank p c.rank) (.collStepArrival q.1 q.2 k ext)
    else m.rowToPeer now r c k ext false
/-- A member's run begins: what it writes of its own, and the steps it sends first (15 R293, R294); the rows that it reads are checked
for errors (19 R379). -/
def Mach.collStart (m : Mach) (now r id : Nat) : Mach :=
  match m.findColl r id with
  | none => m
  | some c =>
    let p := c.members.length
    let i := c.rank
    let v := c.rel p i
    let list := BitVec.ofNat 64 (c.f 56 8)
    let len := if c.op = 4 then 8 * c.rowCount else 0
    match m.readAt c.ctx c.src c.bytes c.u, m.readAt c.ctx list len c.u with
    | .error _, _ => m.collFault now r id 4
    | _, .error _ => m.collFault now r id 4
    | .ok src, .ok dl =>
      let others := (List.range p).filter (· != i)
      let o := c.ownPut p
      let m := ((m.noteRead r c.ctx c.src c.bytes c.u).noteRead r c.ctx list len c.u).collPut now r c o.2.1 ((src.drop o.1).take o.2.2)
      let m := match c.algo p, c.op with
        | _, 4 => (List.range c.rowCount).foldl (fun (m : Mach) e => m.sendRow now r c e dl src) m
        | 1, 2 => if p = 1 then m else m.collSendAll now r c p ((i + 1) % p) 0 src
        | 1, 3 => if v != 0 || p = 1 then m else m.collSendAll now r c p ((i + 1) % p) 0 src
        | 1, _ => if p = 1 then m else
            let g := c.seg p ((i + p - 1) % p)
            m.collSendAll now r c p ((i + 1) % p) 0 ((src.drop g.1).take g.2)
        | 2, 3 => if v != 0 then m else
            ([2 * v + 1, 2 * v + 2].filter (· < p)).foldl (fun m q => m.collSendAll now r c p (c.abs p q) 2 src) m
        | 2, _ => if p = 1 || 2 * v + 1 < p then m else
            m.collSendAll now r c p (c.abs p ((v - 1) / 2)) (if v % 2 = 1 then 0 else 1) (c.own i src (0, c.payload p))
        | _, 1 => others.foldl (fun m q => m.collSendAll now r c p q i ((src.drop (q * (c.bytes / p))).take (c.bytes / p))) m
        | _, 3 => if v != 0 then m else others.foldl (fun m q => m.collSendAll now r c p q i src) m
        | _, _ => others.foldl (fun m q => m.collSendAll now r c p q i src) m
      m.collTest now r id
/-- The fields in which the members' blocks must agree (15 R292). -/
def Coll.agreed (c : Coll) : List Nat := [c.op, c.grp, c.f 2 1, c.f 3 1, c.f 4 1, c.f 32 4, c.f 36 4, c.f 6 2, c.f 41 1, c.f 42 2]
/-- Is a collective yet to read: an acquire, or an access that its reads stand behind, has not been performed (18 R348, R350)? -/
def Mach.collHeld (m : Mach) (r : Nat) (c : Coll) : Bool := (m.hand r).tid == c.tid && (m.hand r).held c.id c.after
/-- The collectives of domains that wait in the hand of `r` in core `k` of a cluster. -/
def Mach.waitingColls (m : Mach) (r : Nat) (c : Coll) (q k : Nat) : List (Nat × Coll) :=
  let t := 8 * q + 2 * k + r % 2
  ((m.hand t).colls.filter (fun d => d.state == 0 && d.grp != 2 && d.ctx == c.ctx && !m.collHeld t d)).map (fun d => (t, d))
/-- The member of a cluster in an exchange (15 R292): the collective of the same group that waits in the hand, of the lowest core; with
none, one of the other domain that waits in the issuing core's place (log 130). A device group meets only its peers. -/
def Mach.exchanging (m : Mach) (r : Nat) (c : Coll) (q : Nat) : Option (Nat × Nat) :=
  ((((List.range 4).flatMap (m.waitingColls r c q)).find? (fun x => x.2.grp == c.grp)).or ((m.waitingColls r c q (r / 2 % 4)).head?)).map
    (fun x => (x.1, x.2.id))
/-- The clusters whose members meet in an exchange: those of the domain, and where one of them waits in the package domain those of the
whole partition, whose blocks are then compared too (15 R292). -/
def Mach.meeting (m : Mach) (r : Nat) (c : Coll) : List Nat :=
  let l := m.collClusters r c
  if l.any (fun q => (m.exchanging r c q).any (fun x => (m.findColl x.1 x.2).any (fun d => d.grp == 1))) then
    (List.range 72).filter (m.inPart (m.hand r).ctx)
  else l
/-- The peers' entries with their device numbers, and this device, in rank order (15 R292). -/
def Mach.deviceMembers (m : Mach) (r : Nat) (c : Coll) : List (Nat × Nat) :=
  (((c.peers.map (fun k => (m.peerNumber c.ctx k, 1024 + k, 0))) ++ [((bits m.dev.fabid 0 16).toNat, r, c.id)]).mergeSort (fun a b => decide (a.1 ≤ b.1))).map
    (fun (t : Nat × Nat × Nat) => (t.2.1, t.2.2))
/-- A member whose block agrees takes its rank and the number of steps that it receives; its run is about to begin (state 2). -/
def Coll.begin_ (c : Coll) (ms : List (Nat × Nat)) (r : Nat) : Coll :=
  let i := ms.findIdx (fun q => q.1 == r)
  { c with members := ms, rank := i, state := 2,
           total := if c.op = 4 then c.f 44 4 else (c.rounds ms.length i).length * c.chunks ms.length }
/-- COLL_BLOCK_EXCHANGE (15 R292): the members in this device once all of them wait; then each begins, once its banks take what it writes
of its own (06 R116). For a device group the answer of the peers, `peers`, comes from outside; false for one that has begun says that a
member of it was killed or has faulted (R300). -/
def execCollBlockExchange (r id : Nat) (peers : Option Bool) (s : State) : Out :=
  .next (runEvent s (fun now m =>
    match m.findColl r id with
    | none => m
    | some c =>
      if peers = some false && c.grp = 2 && c.state != 0 then m.collFault1 now r id 3
      else if c.state = 2 then
        m.atBanks now (.collBlockExchange r id peers) (m.startKeys c) false (fun m => (m.putColl r { c with state := 1 }).collStart now r id)
      else if c.state != 0 then m
      else if m.collHeld r c then m.post (now + 1) (.collBlockExchange r id peers)
      else if c.grp = 2 then
        match peers with
        | none => m
        | some false => m.collFault1 now r id 2
        | some true => (m.putColl r (c.begin_ (m.deviceMembers r c) r)).post now (.collBlockExchange r id none)
      else
        let ms := (m.meeting r c).map (m.exchanging r c)
        if ms.any (·.isNone) then m
        else
          let ms := ms.filterMap (fun q => q)
          let all := ms.filterMap (fun q => (m.findColl q.1 q.2).map (fun d => (q.1, d)))
          if all.all (fun d => d.2.agreed == c.agreed) then
            let m := all.foldl (fun m d => m.putColl d.1 (d.2.begin_ ms d.1)) m
            ms.foldl (fun m q => m.post now (.collBlockExchange q.1 q.2 none)) m
          else ms.foldl (fun m q => m.collFault1 now q.1 q.2 2) m))

/-- The steps of rank `i` that write into a 4 KiB tile of DST have all been performed (15 R295). -/
def Coll.tileDone (c : Coll) (p i tile : Nat) : Bool :=
  (c.rounds p i).all (fun t => (List.range (c.chunks p)).all (fun j =>
    let w := c.writes p i t j
    w.2 == 0 || decide (w.1 + w.2 ≤ 4096 * tile) || decide (4096 * (tile + 1) ≤ w.1) || c.done.contains (t * c.chunks p + j)))
/-- What a step of rank `i` makes of the bytes `ext` that arrive: the bytes it writes to DST and those it hands on, with rank and round.
`src` is the member's own part. -/
def Coll.stepOut (c : Coll) (p i t : Nat) (acc : List Byte) (j : Nat) : List Byte × List (Nat × Nat) :=
  let v := c.rel p i
  let s := c.clip j (c.payload p)
  match c.algo p with
  | 1 =>
    let next := [((i + 1) % p, t + 1)]
    (match c.op with
     | 0 => (if t < p - 2 then [] else acc, if t + 1 < 2 * (p - 1) then next else [])
     | 1 => (if t < p - 2 then [] else acc, if t + 1 < p - 1 then next else [])
     | 2 => (acc, if t + 1 < p - 1 then next else [])
     | _ => (acc, if v + 1 < p then [((i + 1) % p, 0)] else []))
  | 2 =>
    let down := (([2 * v + 1, 2 * v + 2].filter (· < p)).map (fun q => (c.abs p q, 2)))
    let mine := if c.op = 1 then
        let w := inSeg c p i s
        (acc.drop (w.1 + i * (c.bytes / p) - s.1)).take w.2
      else acc
    if t = 2 || v = 0 then (mine, down) else ([], [(c.abs p ((v - 1) / 2), if v % 2 = 1 then 0 else 1)])
  | _ => (acc, [])
/-- A step of a tree's payload on its way to the root (15 R294). -/
def Coll.isUp (c : Coll) (p t : Nat) : Bool := c.algo p == 2 && c.op != 3 && t < 2
/-- Does a chunk wait for the other child's, with which it is combined in the order of the children (15 R294)? -/
def Coll.kidWaits (c : Coll) (p t j : Nat) : Bool :=
  c.isUp p t && decide (((c.rounds p c.rank).filter (· < 2)).length = 2) && !c.done.contains ((1 - t) * c.chunks p + j)
/-- What a step reads of the member's own bytes, to combine them: the address and the length, and the zeros before it in the chunk (15
R294, R295). -/
def Coll.ownPart (c : Coll) (p t j : Nat) : W64 × Nat × Nat :=
  let s := c.clip j (c.payload p)
  let g := c.seg p (c.ringSeg p c.rank t)
  let q := c.clip j g.2
  let lo := max s.1 (c.rank * c.bytes)
  if c.algo p == 1 && c.op ≤ 1 && t ≤ p - 2 then (c.src + BitVec.ofNat 64 (g.1 + q.1), q.2, 0)
  else if c.isUp p t then
    (if c.op = 2 then (c.src + BitVec.ofNat 64 (lo - c.rank * c.bytes), min (s.1 + s.2) ((c.rank + 1) * c.bytes) - lo, lo - s.1)
     else (c.src + BitVec.ofNat 64 s.1, s.2, 0))
  else if c.algo p == 3 && c.op ≤ 1 then (c.dst + BitVec.ofNat 64 s.1, s.2, 0)
  else (c.dst, 0, 0)
/-- The keys that a step reads and writes at its receiver (06 R116). -/
def Mach.stepKeys (m : Mach) (c : Coll) (k : Nat) : List Nat × List Nat :=
  let p := c.members.length
  let t := k / c.chunks p
  let j := k % c.chunks p
  let o := c.ownPart p t j
  let w := c.writes p c.rank t j
  (if o.2.1 = 0 then [] else m.rowKeys c.ctx o.2.1 false c.u [o.1], if c.kidWaits p t j then [] else m.putKeys c w.1 w.2)
/-- A step performed at its receiver (15 R294, R295): `ext` the bytes that arrived. -/
def Mach.collStep (m : Mach) (now r : Nat) (c : Coll) (k : Nat) (ext : List Byte) : Mach :=
  let p := c.members.length
  let i := c.rank
  let n := c.chunks p
  let t := k / n
  let j := k % n
  let tree := c.isUp p t
  let o := c.ownPart p t j
  match m.readAt c.ctx o.1 o.2.1 c.u with
  | .error _ => m.collFault now r c.id 4
  | .ok read =>
    -- an all-gather on a tree lays the members' parts together, with zeros around this one's
    let mine := if tree then (List.replicate o.2.2 0 ++ read ++ List.replicate ext.length 0).take ext.length else read
    let both := tree && ((c.rounds p i).filter (· < 2)).length = 2
    let wait := c.kidWaits p t j
    let acc := if tree then
        (if both then (let a := KMap.get [] c.stash j; if t = 1 then c.combine (c.combine mine a) ext else c.combine (c.combine mine ext) a) else c.combine mine ext)
      else if mine.isEmpty then ext else c.combine ext mine
    let out := if wait then ([], []) else c.stepOut p i t acc j
    let w := c.writes p i t j
    let c1 := { c with done := c.done ++ [k], stash := if wait then c.stash.set j ext else c.stash }
    let m := (m.noteRead r c.ctx o.1 o.2.1 c.u).putColl r c1
    let m := m.collPut now r c w.1 out.1
    let m := out.2.foldl (fun m o => m.collSend now r c.id o.1 (o.2 * n + j) acc) m
    let tiles := (List.range ((c.dstLen p + 4095) / 4096)).filter (fun z => c1.tileDone p i z && !c.tileDone p i z)
    let ok := ((m.findColl r c.id).elim 0 (·.state)) == 1
    let m := if ok then tiles.foldl (fun m _ => m.collFlag now r c) m else m
    let from_ := c.members.getD (c.sender p i t) (1024, 0)
    (if from_.1 < 1024 then m.collSent now from_.1 from_.2 else m).collTest now r c.id
/-- A chunk that fails its check is fetched again from the rank that sent it (15 R301); a third failure of the chunk ends the collective
(R300). -/
def Mach.chunkFails (m : Mach) (now r : Nat) (c : Coll) (k : Nat) : Mach :=
  let n := KMap.get 0 c.fails k
  let p := c.members.length
  let from_ := c.members.getD (c.sender p c.rank (k / c.chunks p)) (1024, 0)
  if 2 ≤ n then m.collFault now r c.id 5
  else (m.putColl r { c with fails := c.fails.set k (n + 1) }).collToPeer now r c.id
    { id := 0, hand := r, isRead := true, peer := from_.1 - 1024, addr := c.dst, coll := c.id, index := k }
/-- COLL_STEP_ARRIVAL (15 R295, R301): with CSUM the last 8 bytes are the chunk's CRC. Of a row of a token exchange (R293, R294) `k` names
the rank that it is for, its sender's rank and its number, and its index, sequence number and ORD stand before its bytes. A step waits for
its banks and for its turn in a log, and at a member that is about to begin. -/
def execCollStepArrival (r id k : Nat) (ext : List Byte) (s : State) : Out :=
  .next (runEvent s (fun now m =>
    match m.findColl r id with
    | none => m
    | some c =>
      let p := c.members.length
      let body := if c.opt 0 then ext.take (ext.length - 8) else ext
      let q := c.members.getD (c.sender p c.rank (k / c.chunks p)) (1024, 0)
      let ks := m.stepKeys c k
      let as := arrivalsOf (if q.1 < 1024 then q.1 else 65535) ((m.findColl q.1 q.2).elim 0 (·.iseq)) ks.2
      if c.state = 2 then m.post (now + 1) (.collStepArrival r id k ext)
      else if c.op = 4 then m.rowComes now r c k ext
      else if c.state != 1 || c.done.contains k || !(c.rounds p c.rank).contains (k / c.chunks p) then m
      else if c.opt 0 && (crc64 body).toNat != field ext (ext.length - 8) 8 then m.chunkFails now r c k
      else m.atBanks now (.collStepArrival r id k ext) (ks.1 ++ ks.2) (!m.mayArriveAll as) (fun m => (m.noteArrivals now as).collStep now r c k body)))

/-! ## COLL and COLLQ -/

/-- A block as COLL captures it (15 R297): the word's token target, acquire and release stand over the block's. -/
def collOf (m : Mach) (x : At) (w : AC) : Coll :=
  let h := m.hand x.r
  let b := match (m.seen x.r).readAt h.ctx (h.areg w.desc.toNat) 128 (h.ring == 0) with | .ok bs => bs | .error _ => []
  { id := m.nextId, seq := (h.clseq + 1) % 2 ^ 32, iseq := h.ea.iseq + 1, block := b, u := h.ring == 0, ctx := h.ctx, tid := h.tid,
    after := if w.acq || (!w.rel && (field b 5 1).testBit 0) then m.nextId else h.relAt
    push := if w.tt = 0 then nbits (field b 5 1) 4 3 else acTok w }
/-- COLL (15 R297). -/
def execColl (w : AC) (s : State) : Out :=
  .next (runWord s .a (.coll w) w.hdr (fun x m =>
    let h := m.hand x.r
    let a := h.areg w.desc.toNat
    let c := collOf m x w
    let cl := clusterOf x.r
    let p := m.collSize x.r c
    { own := firstStop [h.needA w.desc.toNat, trapIf (a.toNat % 128 != 0) 6 0 [a], m.xlStop x.r a 128 false, h.acqStop,
        trapIf (m.collBad x.r c) 0x14 1 [slotN c.seq], m.spanStop x.r c.src c.bytes false, m.spanStop x.r c.dst (c.dstLen p) true,
        (if c.f 48 8 = 0 then none else m.spanStop x.r (BitVec.ofNat 64 (c.f 48 8)) 64 true),
        (if c.op = 4 then m.spanStop x.r (BitVec.ofNat 64 (c.f 56 8)) (8 * c.rowCount) false else none),
        trapIf (!m.phase x.r) 0x0A 0 [a], freezeIf (decide (4 ≤ (m.collsOf x.r).length) || decide (14 < (m.cluster cl).ranges.length)) 9]
      eff := fun m' =>
        let m1 := (m'.noteRead x.r h.ctx a 128 (h.ring == 0)).modHand x.r (fun h' => { h' with
          colls := h'.colls.filter (fun d => d.state != 3 && (d.state != 4 || decide (sub32 c.seq d.seq ≤ 4))) ++ [c]
          clseq := c.seq })
        let m2 := m1.modCluster cl (fun y => { y with ranges := y.ranges ++ [⟨x.r, h.ctx, c.id, c.src, c.bytes⟩, ⟨x.r, h.ctx, c.id, c.dst, c.dstLen p⟩] })
        m2.bump.post (x.now + 1) (.collBlockExchange x.r c.id none) }))
/-- COLLQ (15 R297). -/
def execCollq (w : AC) (s : State) : Out :=
  .next (runWord s .a (.collq w) w.hdr (fun x m =>
    { own := freezeIf (decide ((bits w.imm 0 2).toNat < (m.collsOf x.r).length)) 9 }))

/-! ## Answers of other devices -/

/-- Does an older far write of the stream stand before a far write under ROD (15 R286)? -/
def Mach.peerBehind (m : Mach) (p : PeerOp) : Bool :=
  (m.dev.peerOps.takeWhile (fun q => q.id != p.id)).any (fun q =>
    q.hand == p.hand && !q.isRead && !p.isRead && p.ord && q.ord && q.peer == p.peer)
/-- PEER_ACK (15 R285, R286, R289): an FWR or collective send is performed (0), parked (1) or refused (2) at the peer; an FRD's entry
lands, with zeros and a recorded fault where `status` is a cause; a chunk fetched again arrives. -/
def execPeerAck (id status reason : Nat) (data : List Byte) (s : State) : Out :=
  .next (runEvent s (fun now m =>
    match m.dev.peerOps.find? (fun p => p.id == id) with
    | none => m
    | some p =>
      if m.peerBehind p then m
      else
        let m := m.modDev (fun d => { d with peerOps := d.peerOps.filter (fun q => q.id != id) })
        if p.coll = 0 then
          let a := (((m.hand p.hand).accs.find? (fun a => a.id == p.acc)).map (fun a => a.rows.headD 0)).getD 0
          let m := (m.modHand p.hand (fun h => { h with accs := h.accs.filter (fun b => b.id != p.acc) })).wakeMoves now p.hand
          if p.isRead then
            let m := if status = 8 || status = 9 then m.recordFault p.hand ⟨status, reason, [a, 0, 0]⟩ else m
            m.supplyQueue now p.hand p.res (if status = 0 then entryOfBytes (data.take 128) else 0)
          else m.modHand p.hand (fun h => h.enterTok now p.push)
        else if p.isRead then m.post now (.collStepArrival p.hand p.coll p.index data)
        else
          let m := if status = 1 && !p.fwd then (match m.findColl p.hand p.coll with
            | some c => m.putColl p.hand { c with parked := c.parked ++ [p.index] } | none => m) else m
          if status = 2 then m.collFault now p.hand p.coll 3 else m.collSent now p.hand p.coll))
/-- PEER_ACK_TIMEOUT (15 R300): a send not acknowledged in 50 us is sent again, three times; then the collective fails. -/
def execPeerAckTimeout (r id : Nat) (s : State) : Out :=
  .next (runEvent s (fun now m =>
    let late := m.dev.peerOps.filter (fun p => p.coll == id && decide (p.sentT + 52500 ≤ now))
    if late.isEmpty then m
    else if late.any (fun p => decide (3 ≤ p.tries)) then
      (m.modDev (fun d => { d with peerOps := d.peerOps.filter (fun p => p.coll != id) })).collFault now r id 3
    else
      (m.modDev (fun d => { d with peerOps := d.peerOps.map (fun (p : PeerOp) =>
        if p.coll == id && decide (p.sentT + 52500 ≤ now) then { p with tries := p.tries + 1, sentT := now } else p) })).post
        (now + 52500) (.peerAckTimeout r id)))
/-- An answer or message that leaves the package (27 R414). -/
def Mach.answer (m : Mach) (a : Answer) : Mach := m.modDev (fun d => { d with answers := d.answers ++ [a] })
/-- PEER_READ_ARRIVAL (15 R286, 04 R72): a read of another device is translated with the peer context's tables and ring-0 permissions and
answered with the data and its CRC, or with the fault. -/
def execPeerReadArrival (ctx : Nat) (va : W64) (n : Nat) (s : State) : Out :=
  .next (runEvent s (fun _ m =>
    match m.readAt ctx va n true with
    | .ok bs => m.answer { source := 2, type := 256, ctx := ctx, seq := 0, status := 0, data := bs ++ leBytes 8 (crc64 bs).toNat }
    | .error f => m.answer { source := 2, type := 256, ctx := ctx, seq := 0, status := f.cause + 256 * f.reason, data := List.replicate n 0 }))

end Sys2Proof.Machine
end

