-- ==== Sys2Proof/Machine/Pbits.lean ====
section
/-! DEFINITION. The p-bit arrays (16 R303 to R315): cells, the sigmoid table, sweeps, PBLD, PBCLR, PBCLMP, PBSWP, PBRD, PBSEED, and the
events of the array. -/

namespace Sys2Proof.Machine

/-! ## Cells and sweeps -/

/-- The die of a hand. -/
def dieOfHand (r : Nat) : Nat := dieOf (clusterOf r)
/-- All cells of an array, cell 0 first. -/
def Die.cellList (d : Die) : List PCell := (List.range 16384).map (KMap.get {} d.cells)
/-- An array with its cells replaced, cell 0 first. -/
def Die.setCells (d : Die) (cs : List PCell) : Die := { d with cells := (cs.zipIdx).map (fun p => (p.2, p.1)) }
/-- PBSTAT (16 R306). -/
def Die.pbstat (d : Die) : W64 :=
  BitVec.ofNat 64 (2 ^ 48 * (d.owner.getD 0 % 65536) + 2 ^ 47 * d.owner.isSome.toNat + 2 ^ 46 * d.det.toNat + 2 ^ 45 * d.bad.toNat + d.nsw.toNat)
/-- SIG[i] (16 R308). -/
def sigEntry (i : Nat) : Nat :=
  match sigmReal ⟨decide (i < 2048), if i < 2048 then 2048 - i else i - 2048, -8⟩ with
  | .exact _ => 2048
  | .open_ _ lo _ e => min 4095 ((8192 * lo + 2 ^ (-e).toNat) / 2 ^ (1 - e).toNat)
/-- One advance of a generator (16 R310). -/
def xorshift (x : W32) : W32 :=
  let x := x ^^^ (x <<< 13)
  let x := x ^^^ (x >>> 17)
  x ^^^ (x <<< 5)
/-- The exact sum S of a cell (16 R307). -/
def PCell.sum (c : PCell) (st : Array PCell) : Int :=
  ((c.j.zip c.k).take c.n).foldl (fun a p => a + (if (st[p.2]?.getD {}).s then p.1 else -p.1)) c.h
/-- The index into the table (16 R307). -/
def sigIndex (s b : Int) : Nat := (max 0 (min 4095 (s * b + 2048))).toNat
/-- One cell in its cycle (16 R307, R310): the generator advances, and a free cell updates. -/
def PCell.step (c : PCell) (st : Array PCell) (b : Int) (det : Bool) (noise : W32) : PCell :=
  let x := xorshift c.x
  let u := (bits (if det then x else noise) 20 12).toNat
  if c.clamp != 0 then { c with x := x } else { c with x := x, s := decide (u < sigEntry (sigIndex (c.sum st) b)) }
/-- Cycle `t` of a sweep: the cells of colour `t` (16 R310). -/
def Die.cycle (d : Die) (b : Int) (n t : Nat) : Die :=
  let cs := d.cellList
  let st := cs.toArray
  d.setCells ((cs.zipIdx).map (fun p => if p.1.colour = t then p.1.step st b d.det (Config.entropy (n + p.2)) else p.1))
/-- A sweep (16 R310); `n` numbers its entropy draws. -/
def Die.sweep (d : Die) (b : Int) (n : Nat) : Die :=
  let d1 := (List.range 8).foldl (fun d t => d.cycle b n t) d
  let d2 := d1.setCells (d1.cellList.map (fun c => if c.s then { c with count := min 65535 (c.count + 1) } else c))
  { d2 with nsw := d2.nsw + 1 }
/-- An array reset (16 R303). -/
def Die.clearArray (d : Die) : Die := { d with cells := [], owner := none, det := false, bad := false, nsw := 0 }
/-- The lowest coupling of equal colours (16 R309). -/
def Die.clash (d : Die) : Option (Nat × Nat) :=
  let st := d.cellList.toArray
  (d.cells).findSome? (fun p => (((p.2.k.take p.2.n).zipIdx).find? (fun q => (st[q.1]?.getD {}).colour == p.2.colour)).map (fun q => (p.1, q.2)))
/-- A cell record; none where it is malformed (16 R312). -/
def cellOf (bs : List Byte) (x : W32) : Option PCell :=
  let n := field bs 194 1
  let ks := (List.range 64).map (fun j => field bs (64 + 2 * j) 2)
  let js := (List.range 64).map (fun j => field bs j 1)
  if 8 ≤ field bs 193 1 || 64 < n || ks.any (fun k => decide (16384 ≤ k)) || (js.drop n).any (· != 0) || (ks.drop n).any (· != 0)
      || field bs 195 61 != 0 then none
  else some { h := intOf true 8 (field bs 192 1), n := n, j := (js.take n).map (intOf true 8), k := ks.take n, colour := field bs 193 1, x := x }

/-! ## Acceptance -/

/-- Ownership (16 R304). -/
def Mach.pbOwn (m : Mach) (r : Nat) : Option Stop :=
  trapIf ((m.die (dieOfHand r)).owner.elim false (fun k => k != (m.hand r).ctx)) 9 8
/-- A core's fifth command freezes (16 R305). -/
def Mach.pbFull (m : Mach) (r : Nat) : Option Stop :=
  freezeIf (decide (4 ≤ ((m.die (dieOfHand r)).queue.filter (fun c => coreOf c.hand == coreOf r)).length)) 9
/-- The die's first waiting command starts at once where none runs. -/
def Mach.pbKick (m : Mach) (now d : Nat) : Mach :=
  match (m.die d).queue with
  | [] => m
  | c :: t => if c.started then m else (m.modDie d (fun x => { x with queue := { c with startT := now } :: t })).post now (.pbitCommandStart d)
/-- A command accepted (16 R304, R305); all but PBCLR take an array without an owner. -/
def Mach.pbAccept (m : Mach) (now r : Nat) (op : PbOp) (push : Nat) (take : Bool) : Mach :=
  let d := dieOfHand r
  let k := (m.hand r).ctx
  let idle := (m.die d).queue.isEmpty
  let c : PbCmd := { hand := r, ctx := k, op := op, push := push }
  let m := m.modDie d (fun x =>
    { x with owner := if take && x.owner.isNone then some k else x.owner, queue := x.queue ++ [c] })
  if idle then m.pbKick now d else m

/-- PBLD (16 R313): its checks on every record. -/
def execPbld (w : MC) (s : State) : Out :=
  .next (runWord s .m (.pbld w) (lateHdr w.hdr) (fun x m =>
    let h := m.hand x.r
    let st := h.streg w.stream.toNat
    let b0 := w.row0.toNat
    let nb := w.count.toNat
    let bad := ((List.range (16 * nb)).map (fun i => stRowAt st i)).find? (fun a => !m.ownSlice x.r a 256)
    { own := firstStop [m.pbOwn x.r, trapIf ((bits st 0 64).toNat % 128 != 0 || stField st 64 32 % 128 != 0) 6 0 [bits st 0 64],
        (match bad with | some a => trapOf 7 0 [a, 256, slotN (sliceCluster a)] | none => none), m.pbFull x.r]
      eff := fun m' => m'.pbAccept x.now x.r (.ld st b0 nb) (pushFifo x.e w.hdr.push) true }))
/-- PBCLR (16 R313). -/
def execPbclr (w : Z) (s : State) : Out :=
  .next (runWord s .m (.pbclr w) (lateHdr w.hdr) (fun x m =>
    { own := firstStop [m.pbOwn x.r, m.pbFull x.r]
      eff := fun m' => m'.pbAccept x.now x.r .clr (pushFifo x.e w.hdr.push) false }))
/-- A command with a queue operand: checks on its value, then acceptance. -/
def pbMeaning (x : At) (m : Mach) (hd : Hdr) (os : List Opnd) (own : List Entry → List (Option Stop)) (op : List Entry → PbOp) : Meaning :=
  let h := m.hand x.r
  let vs := opValues h x.e os
  { own := queueOwn h x.e os [] (m.pbOwn x.r :: own vs ++ [m.pbFull x.r])
    eff := fun m' => (m'.modHand x.r (takeOps h x.e os)).pbAccept x.now x.r (op vs) (pushFifo x.e hd.push) true }
/-- PBCLMP (16 R313). -/
def execPbclmp (w : VVV) (s : State) : Out :=
  .next (runWord s .m (.pbclmp w) (lateHdr w.hdr) (fun x m =>
    pbMeaning x m w.hdr [⟨w.a.toNat, w.ka, false, 4⟩]
      (fun vs => [trapIf ((List.range 32).any (fun j => bits (lane (vs.headD 0) j) 16 16 != 0)) 1 8]) (fun vs => .clmp (vs.headD 0))))
/-- PBSWP (16 R313). -/
def execPbswp (w : VVI) (s : State) : Out :=
  .next (runWord s .m (.pbswp w) (lateHdr w.hdr) (fun x m =>
    pbMeaning x m w.hdr [⟨w.a.toNat, w.ka, false, 4⟩]
      (fun vs => [trapIf (bits (vs.headD 0) 16 1008 != 0) 1 8, trapIf (m.die (dieOfHand x.r)).bad 0x18 2])
      (fun vs => .swp (elem (vs.headD 0) 16 0) (w.imm.toNat + 1))))
/-- PBRD (16 R313): its entry is reserved at issue. -/
def execPbrd (w : VVI) (s : State) : Out :=
  .next (runWord s .m (.pbrd w) (lateHdr w.hdr) (fun x m =>
    let h := m.hand x.r
    { own := queueOwn h x.e [] [w.d.toNat] [m.pbOwn x.r, m.pbFull x.r]
      eff := fun m' =>
        let m1 := m'.issueResult x.r [.queue w.d.toNat 0] 0 0 0 false false
        m1.pbAccept x.now x.r (.rd (bit w.imm 12) (bits w.imm 0 8).toNat m1.lastId) (pushFifo x.e w.hdr.push) true }))
/-- PBSEED (16 R313). -/
def execPbseed (w : VVI) (s : State) : Out :=
  .next (runWord s .m (.pbseed w) (lateHdr w.hdr) (fun x m =>
    let ent := bit w.imm 0
    pbMeaning x m w.hdr (if ent then [] else [⟨w.a.toNat, w.ka, false, 4⟩]) (fun _ => [])
      (fun vs => .seed ent (if ent then 0 else lane (vs.headD 0) 0))))

/-! ## The array's events -/

/-- The cycles of a command from its start (16 R314). -/
def PbCmd.time (c : PbCmd) : Nat :=
  match c.op with
  | .ld _ _ nb => 8 + 32 * nb + 1024
  | .clr => 64
  | .clmp _ | .rd _ _ _ => 4
  | .swp _ n => 4 + 8 * (if c.left = 0 then n else c.left)
  | .seed _ _ => 20
/-- The records of a PBLD written, up to a malformed one; which is named (16 R313). -/
def Mach.pbLoad (m : Mach) (c : PbCmd) (st : BitVec 256) (d c0 : Nat) : Nat → Nat → Mach × Option Nat
  | 0, _ => (m, none)
  | n + 1, i =>
    match m.sliceBytes c.hand (stRowAt st i) 256 with
    | .error f => (m.recordFault c.hand f, some (c0 + i))
    | .ok (bs, ks) =>
      let m := (m.countErrors (clusterOf c.hand) ks).noteUE c.hand ks
      match cellOf bs (KMap.get {} (m.die d).cells (c0 + i)).x with
      | none => ((m.modDie d (fun x => { x with bad := true })).recordFault c.hand ⟨0x18, 3, [slotN (c0 + i)]⟩, some (c0 + i))
      | some cell => (m.modDie d (fun x => { x with cells := x.cells.set (c0 + i) cell })).pbLoad c st d c0 n (i + 1)
/-- What a command does as it starts, and the entry that a PBRD reads (16 R313). -/
def Mach.pbBegin (m : Mach) (d : Nat) (c : PbCmd) : Mach × Entry :=
  match c.op with
  | .ld st b0 nb =>
    let out := m.pbLoad c st d (16 * b0) (16 * nb) 0
    if out.2.isSome then (out.1, 0)
    else match (out.1.die d).clash with
      | some (i, j) => ((out.1.modDie d (fun x => { x with bad := true })).recordFault c.hand ⟨0x18, 1, [slotN i, slotN j]⟩, 0)
      | none => (out.1.modDie d (fun x => { x with bad := false }), 0)
  | .clr => (m.modDie d Die.clearArray, 0)
  | .clmp v => (m.modDie d (fun x => { x with cells := (List.range 32).foldl (fun t j =>
      let code := (bits (lane v j) 14 2).toNat
      let i := (bits (lane v j) 0 14).toNat
      let c := KMap.get {} t i
      if code = 1 then t else t.set i (if code = 0 then { c with clamp := 0 } else { c with clamp := code, s := code == 3 })) x.cells }), 0)
  | .swp _ _ => (if c.left = 0 then m.modDie d (fun x => { x with cells := x.cells.map (fun (p : Nat × PCell) => (p.1, { p.2 with count := 0 })) }) else m, 0)
  | .rd cnt k _ =>
    let at_ := fun (i : Nat) => KMap.get {} (m.die d).cells i
    (m, if cnt then mkEntry 16 ((List.range 64).map (fun j => (at_ (64 * k + j)).count))
        else mkEntry 1 ((List.range 1024).map (fun j => (at_ (1024 * k + j)).s.toNat)))
  | .seed ent v =>
    (m.modDie d (fun x =>
      if ent then { x with det := false, nsw := 0 }
      else { x.setCells ((x.cellList.zipIdx).map (fun p =>
          let g := v ^^^ BitVec.ofNat 32 (p.2 * 0x9E3779B9)
          { p.1 with x := if g = 0 then 1 else g })) with det := true, nsw := 0 }), 0)
/-- PBIT_COMMAND_START (16 R305, R313). -/
def execPbitCommandStart (d : Nat) (s : State) : Out :=
  .next (runEvent s (fun _ m =>
    match (m.die d).queue with
    | [] => m
    | c :: t =>
      if c.started then m
      else
        let out := m.pbBegin d c
        let n := match c.op with | .swp _ n => if c.left = 0 then n else c.left | _ => 0
        let m := out.1.modDie d (fun x => { x with queue := { c with started := true, left := n, val := out.2 } :: t })
        match c.op with
        | .swp _ _ => m.post (c.startT + 8) (.pbitSweep d)
        | _ => m.post (c.startT + c.time) (.pbitCommandComplete d)))
/-- PBIT_SWEEP: one sweep; a command that pre-emption stops is saved with the sweeps left (16 R310, R315). -/
def execPbitSweep (d : Nat) (s : State) : Out :=
  .next (runEvent s (fun now m =>
    match (m.die d).queue with
    | [] => m
    | c :: t =>
      match c.op with
      | .swp b _ =>
        if !c.started || c.left = 0 then m
        else
          let det := (m.die d).det
          let m := { (m.modDie d (fun x => x.sweep (intOf true 16 b) m.freeN)) with freeN := if det then m.freeN else m.freeN + 16384 }
          let p := m.partOf c.hand
          let m := if !det && (m.part p).rpMode == 2 then m.diverge p (m.part p).rpr else m
          let c' := { c with left := c.left - 1 }
          if c'.left = 0 then (m.modDie d (fun x => { x with queue := c' :: t })).post (now + 4) (.pbitCommandComplete d)
          else if c.stop then
            ((m.modDie d (fun x => { x with queue := t })).modHand c.hand (fun h =>
              { h with pbSaved := { c' with started := false, stop := false } :: h.pbSaved })).pbKick now d
          else (m.modDie d (fun x => { x with queue := c' :: t })).post (now + 8) (.pbitSweep d)
      | _ => m))
/-- PBIT_COMMAND_COMPLETE (16 R314). -/
def execPbitCommandComplete (d : Nat) (s : State) : Out :=
  .next (runEvent s (fun now m =>
    match (m.die d).queue with
    | [] => m
    | c :: t =>
      if !c.started then m
      else
        let m := m.modDie d (fun x => { x with queue := t })
        let m := match c.op with | .rd _ _ res => m.supplyQueue now c.hand res c.val | _ => m
        (m.modHand c.hand (fun h => h.completeTok now c.push)).pbKick now d))

/-! ## Pre-emption and kill (16 R315) -/

/-- A hand's p-bit commands stop: unstarted ones are saved, a running PBSWP ends its sweep; another hand's command may come first then. -/
def Mach.stopPbits (m : Mach) (now r : Nat) : Mach :=
  let d := dieOfHand r
  let mine := (m.die d).queue.filter (fun c => c.hand == r && !c.started)
  ((m.modDie d (fun x => { x with queue := (x.queue.filter (fun c => !(c.hand == r && !c.started))).map (fun (c : PbCmd) =>
    if c.hand == r then { c with stop := true } else c) })).modHand r (fun h => { h with pbSaved := h.pbSaved ++ mine })).pbKick now d
/-- Has a hand no p-bit command at the array? -/
def Mach.pbQuiet (m : Mach) (r : Nat) : Bool := !(m.die (dieOfHand r)).queue.any (fun c => c.hand == r)
/-- The saved commands are accepted first on resumption, in their old order; the first that loads or uses an array without an owner takes
it. An array that another context owns by then refuses them: protection-fault is recorded, and they are gone (16 R304, log 108). -/
def Mach.resumePbits (m : Mach) (now r : Nat) : Mach :=
  let d := dieOfHand r
  let k := (m.hand r).ctx
  let cs := (m.hand r).pbSaved
  let m := m.modHand r (fun h => { h with pbSaved := [] })
  if cs.isEmpty then m
  else if (m.die d).owner.elim false (· != k) then
    (m.modHand r (fun h => cs.foldl (fun h c => match c.op with | .rd _ _ res => h.dropResult res | _ => h) h)).recordFault r ⟨9, 8, []⟩
  else
    let take := (m.die d).owner.isNone && cs.any (fun c => c.op != .clr)
    (m.modDie d (fun x => { x with owner := if take then some k else x.owner, queue := x.queue ++ cs })).pbKick now d
/-- Is an event one of die `d`'s p-bit array? -/
def pbEvent (d : Nat) : Instr → Bool
  | .pbitCommandStart e => e == d
  | .pbitSweep e => e == d
  | .pbitCommandComplete e => e == d
  | _ => false
/-- Kill of a context: its queued commands go, the one under way with what it had still to do, and an array it owns is reset. -/
def Mach.killPbits (m : Mach) (now d k : Nat) : Mach :=
  let ran := (m.die d).queue.head?.elim false (fun c => c.ctx == k)
  let m := m.modDie d (fun x => { (if x.owner == some k then x.clearArray else x) with queue := x.queue.filter (fun c => c.ctx != k) })
  if ran then { m with agenda := m.agenda.filter (fun p => !pbEvent d p.2) }.pbKick now d else m

end Sys2Proof.Machine
end

