-- ==== Sys2Proof/Machine/Power.lean ====
section
/-! DEFINITION. Power and coolant (20): grants and levels, boost leases, the switch point PSW, zones, sensors and
evacuation. -/

namespace Sys2Proof.Machine

/-! ## Zones and levels -/

/-- The zone of physical cluster `p` of a die, 0 to 18 (20 R424). -/
def zoneAt (die p : Nat) : Nat := 16 * die + (match p with | 12 | 13 => 12 | 14 | 18 => 13 | 15 => 14 | 16 | 17 => 15 | p => p)
/-- The physical cluster of its die that carries logical cluster `c`: the spare, 18, in place of a retired one (01 R11). -/
def Mach.physOf (m : Mach) (c : Nat) : Nat := if (KMap.get [] m.dev.retired (dieOf c)).contains (c % 18) then 18 else c % 18
/-- The zone of a logical cluster: that of the physical cluster that carries it (20 R424). -/
def Mach.zoneOf (m : Mach) (c : Nat) : Nat := zoneAt (dieOf c) (m.physOf c)
/-- The clusters of a zone, lowest first. -/
def Mach.zoneClusters (m : Mach) (z : Nat) : List Nat := (List.range 72).filter (fun c => m.zoneOf c == z)
/-- The partition of a zone: that of its clusters (20 R389); 15 is none. -/
def Mach.zonePart (m : Mach) (z : Nat) : Nat := (m.zoneClusters z).head?.elim 15 m.clPart
/-- The clusters of a partition (20 R423). -/
def Mach.partClusters (m : Mach) (p : Nat) : List Nat := (List.range 72).filter (fun c => m.clPart c == p)
/-- The zones of a partition. -/
def Mach.partZones (m : Mach) (p : Nat) : List Nat := (List.range 64).filter (fun z => m.zonePart z == p)
/-- ZCFG.OWNER, TCRIT, TTRAP, CEIL and FLOOR (20 R389). -/
def Zone.owner (x : Zone) : Nat := (bits x.cfg 60 4).toNat
/-- ZCFG.TCRIT. -/
def Zone.tcrit (x : Zone) : Nat := (bits x.cfg 50 10).toNat
/-- ZCFG.TTRAP. -/
def Zone.ttrap (x : Zone) : Nat := (bits x.cfg 40 10).toNat
/-- ZCFG.CEIL. -/
def Zone.ceil (x : Zone) : Nat := (bits x.cfg 16 8).toNat
/-- ZCFG.FLOOR. -/
def Zone.floor (x : Zone) : Nat := (bits x.cfg 8 8).toNat
/-- The highest level of an active lease among the hands of a partition; 0 none (20 R381). -/
def Mach.leaseLevel (m : Mach) (p : Nat) : Nat :=
  m.hands.foldl (fun l h => if h.2.boostSt = 2 && m.clPart (clusterOf h.1) == p then max l h.2.boostLvl else l) 0
/-- The effective level brought up to date, the level before this cycle kept (20 R381, R385). -/
def Mach.setLevel (m : Mach) (now p : Nat) : Mach :=
  let x := m.part p
  let e := max x.base (m.leaseLevel p)
  if e = x.eff then m
  else m.setPart p { x with effOld := if x.effT = now + 1 then x.effOld else x.eff, effT := now + 1, eff := e }
/-- PLVL.EFF as a PSW sees it: a change of this cycle is not seen (20 R385). -/
def Part.levelSeen (x : Part) (now : Nat) : Nat := if x.effT = now + 1 then x.effOld else x.eff
/-- An event of a zone, where its clusters are in a partition. -/
def Mach.zoneEvent (m : Mach) (now z ty old new : Nat) : Mach :=
  let p := m.zonePart z
  if p < 8 then m.powerEvent now p ty old new z none (m.zone z).temp else m

/-! ## Grants of coolant (20 R387, R390) -/

/-- A zone's floor and clamped grant; a zone that is not WET has 0. -/
def Mach.zoneWant (m : Mach) (z : Nat) : Nat × Nat :=
  let x := m.zone z
  let raised := m.leaseLevel (m.zonePart z) != 0
  if x.st != .wet then (0, 0)
  else (if raised then x.ceil else x.floor, min x.ceil (max x.floor (max x.req (if raised then x.ceil else 0))))
/-- The grants scaled by n / d above their floors. -/
def scaleGrants (fs : List (Nat × Nat)) (n d : Nat) : List Nat := fs.map (fun p => p.1 + (p.2 - p.1) * n / d)
/-- The largest scale, as a pair n, d, at which the openings sum to at most 8,160, the pumps' 3.0 L/min. -/
def bestScale (fs : List (Nat × Nat)) : Nat × Nat :=
  let ds := ((fs.map (fun p => p.2 - p.1)).filter (· != 0)).eraseDups
  (ds.flatMap (fun d => (List.range (d + 1)).map (fun n => (n, d)))).foldl
    (fun (b : Nat × Nat) (q : Nat × Nat) => if b.1 * q.2 < q.1 * b.2 && decide ((scaleGrants fs q.1 q.2).sum ≤ 8160) then q else b) (0, 1)
/-- Every zone's GRANT. -/
def Mach.regrant (m : Mach) : Mach :=
  let fs := (List.range 64).map m.zoneWant
  let gs := if (fs.map (·.2)).sum ≤ 8160 then fs.map (·.2) else let b := bestScale fs; scaleGrants fs b.1 b.2
  gs.zipIdx.foldl (fun m g => m.modZone g.2 (fun x => { x with grant := g.1 })) m

/-! ## The measurement window -/

/-- The cap of a cluster at a level, in tenths of a watt (20 R381). At 72 clusters level 6 sums to 2,196 W and level 7 to 2,592 W, so no base
grant and no lease passes the package's 2,200 W and 2,600 W. -/
def powerCap (level : Nat) : Nat :=
  match level with | 0 => 80 | 1 => 120 | 2 => 160 | 3 => 200 | 4 => 240 | 5 => 270 | 6 => 305 | _ => 360
/-- The cap of a partition at its effective level: that of each of its clusters (20 R381). -/
def Mach.partCap (m : Mach) (p : Nat) : Nat := (m.partClusters p).length * powerCap (m.part p).eff
/-- What a window does to a partition that has a cluster: its base grant, 6 when all its zones are WET (20 R383), with an
event of a change (R381), and its throttle, from a window whose draw exceeded the cap until one whose draw is below it (R382, log 8). -/
def Mach.windowPart (m : Mach) (now p : Nat) : Mach :=
  if (m.partClusters p).isEmpty then m
  else
    let m0 := m
    let n := m.freeN
    let x := m.part p
    let base := if (m.partZones p).all (fun z => (m.zone z).st == .wet) then 6 else min 6 (Config.baseGrant p n).toNat
    let m := ({ m with freeN := n + 1 }.setPart p { x with base := base }).setLevel now p
    let m := if base = x.base then m else m.powerEvent now p 1 x.base base 0xFF none 0
    let draw := Config.measuredDraw p n
    let cap := m0.partCap p
    let over_ := decide (cap < draw) || (x.throttle && !decide (draw < cap))
    if over_ == x.throttle then m
    else
      let m := (m.modPart p (fun y => { y with throttle := over_ })).powerEvent now p (if over_ then 8 else 9) x.throttle.toNat over_.toNat 0xFF none 0
      if over_ then m else (m.partClusters p).foldl (fun m c => m.armCmds now c) m
/-- POWER_WINDOW: every 10 microseconds, 10,500 c (20 R381). -/
def execPowerWindow (s : State) : Out :=
  .next (runEvent s (fun now m => (((List.range 8).foldl (fun m p => m.windowPart now p) m).regrant).post (now + 10500) .powerWindow))

/-! ## Boost leases -/

/-- BOOSTST (20 R383); LVL is that of the request, the lease or the denial, and REM the time of a lease, active, suspended, or asked for
anew after it was (R388). -/
def Hand.boostst (h : Hand) (now : Nat) : W64 :=
  let left := if h.boostSt = 2 then h.boostEnd - now else if h.boostSt = 3 || (h.boostSt = 1 && h.boostAgain) then h.boostLeft else 0
  slotN ((left + 1049) / 1050 % 2 ^ 24 * 2 ^ 16 + h.boostLvl * 256 + h.boostSt)
/-- An event about a hand's lease. -/
def Mach.leaseEvent (m : Mach) (now r ty old new left : Nat) : Mach :=
  m.powerEvent now (m.clPart (clusterOf r)) ty old new 0xFF (some r) ((left + 1049) / 1050)
/-- The controller asked for a lease of the hand: it answers within 100 microseconds, here in 10,500 c (20 R386, log 8). -/
def Mach.askBoost (m : Mach) (now r : Nat) : Mach :=
  let n := m.freeN
  ({ m with freeN := n + 1 }.modHand r (fun h => { h with boostSt := 1, boostEnd := now + 10500 })).post (now + 10500)
    (.boostAnswer r (Config.boostGranted r n))
/-- The values of BOOSTRQ that are refused (20 R386). -/
def Mach.boostStop (m : Mach) (r : Nat) (v : W64) : Option Stop :=
  let lvl := (bits v 0 3).toNat
  let ms := (bits v 16 9).toNat
  let st := (m.hand r).boostSt
  trapIf (lvl != 0 && (decide (lvl ≤ (m.part (m.clPart (clusterOf r))).base) || ms == 0 || decide (500 < ms) || st == 1 || st == 2 || st == 3)) 1 3
/-- The hand's lease is over. -/
def Mach.endBoost (m : Mach) (now r ty : Nat) : Mach :=
  let h := m.hand r
  let m := m.setHand r { h with boostSt := 0, boostLvl := 0, boostEnd := 0, boostLeft := 0, boostAgain := false }
  if h.boostSt = 2 || h.boostSt = 3 then ((m.setLevel now (m.clPart (clusterOf r))).leaseEvent now r ty h.boostLvl 0 0).regrant else m
/-- A write to BOOSTRQ that is not refused: a request, or with LVL 0 its withdrawal or the lease's end (20 R386). -/
def Mach.boostWrite (m : Mach) (now r : Nat) (v : W64) : Mach :=
  let lvl := (bits v 0 3).toNat
  if lvl = 0 then m.endBoost now r 4
  else (m.modHand r (fun h => { h with boostLvl := lvl, boostLeft := 1050000 * (bits v 16 9).toNat, boostAgain := false })).askBoost now r
/-- BOOST_REQUEST (20 R386): refused values change nothing. -/
def execBoostRequest (r : Nat) (v : W64) (s : State) : Out :=
  .next (runEvent s (fun now m => if (m.boostStop r v).isSome then m else m.boostWrite now r v))
/-- BOOST_WITHDRAW (20 R386). -/
def execBoostWithdraw (r : Nat) (s : State) : Out := .next (runEvent s (fun now m => m.boostWrite now r 0))
/-- The recorded answer of a BOOSTRQ (21 R399, kind 4). -/
def Mach.replayBoost (m : Mach) (p r : Nat) : Option (Nat × LogRec) :=
  (m.logLeft p).find? (fun x => x.2.kind == 4 && x.2.who == coreHand (some r) && decide (256 ≤ x.2.a.toNat))
/-- An answer takes effect: a lease granted to a hand that is set aside is suspended with its full time (20 R394). -/
def Mach.boostAnswer (m : Mach) (now r : Nat) (granted : Bool) : Mach :=
  let h := m.hand r
  let p := m.clPart (clusterOf r)
  let m :=
    if !granted then (m.setHand r { h with boostSt := 4 }).leaseEvent now r 3 0 h.boostLvl 0
    else if h.aside || h.draining then
      ((m.setHand r { h with boostSt := 3 }).leaseEvent now r 2 0 h.boostLvl h.boostLeft).leaseEvent now r 5 h.boostLvl 0 h.boostLeft
    else
      ((((m.setHand r { h with boostSt := 2, boostEnd := now + h.boostLeft }).setLevel now p).leaseEvent now r 2 0 h.boostLvl h.boostLeft).regrant).post
        (now + h.boostLeft) (.boostExpiry r)
  m.logInput now p 4 (some r) ((m.hand r).boostst now) 0
/-- BOOST_ANSWER: the controller answers a request that still stands; a replay gives the recorded answer (20 R386, 21 R399). -/
def execBoostAnswer (r : Nat) (granted : Bool) (s : State) : Out :=
  .next (runEvent s (fun now m =>
    let h := m.hand r
    let p := m.clPart (clusterOf r)
    if h.boostSt != 1 || decide (now < h.boostEnd) then m
    else if (m.part p).logFull then m.post (now + 1) (.boostAnswer r granted)
    else if (m.part p).rpMode != 2 then m.boostAnswer now r granted
    else match m.replayBoost p r with
      | some (k, x) => (m.useNext now p k).boostAnswer now r (x.a.toNat % 8 == 2 || x.a.toNat % 8 == 3)
      | none => (m.diverge p (m.part p).rpr).boostAnswer now r granted))
/-- BOOST_EXPIRY (20 R386). -/
def execBoostExpiry (r : Nat) (s : State) : Out :=
  .next (runEvent s (fun now m =>
    let h := m.hand r
    if h.boostSt != 2 || decide (now < h.boostEnd) then m else m.endBoost now r 4))
/-- The lease of a hand that leaves its core: counting stops (20 R388). -/
def Mach.suspendBoost (m : Mach) (now r : Nat) : Mach :=
  let h := m.hand r
  if h.boostSt != 2 then m
  else
    let left := h.boostEnd - now
    (((m.setHand r { h with boostSt := 3, boostLeft := left }).setLevel now (m.clPart (clusterOf r))).leaseEvent now r 5 h.boostLvl 0 left).regrant
/-- A request of a saved hand that still stands is asked for at its new place; a suspended lease anew with the saved time (20 R386, R388). -/
def Mach.askAgain (m : Mach) (now r : Nat) : Mach := if (m.hand r).boostSt = 1 then m.askBoost now r else m
/-- A suspended lease of a resumed hand is asked for anew with the saved time (20 R388). -/
def Mach.resumeBoost (m : Mach) (now r : Nat) : Mach :=
  if (m.hand r).boostSt = 3 then (m.modHand r (fun h => { h with boostAgain := true })).askBoost now r else m

/-! ## The switch point -/

/-- The recorded level of a PSW (21 R399, kind 4). -/
def Mach.replayLevel (m : Mach) (p r : Nat) : Option (Nat × LogRec) :=
  (m.logLeft p).find? (fun x => x.2.kind == 4 && x.2.who == coreHand (some r) && decide (x.2.a.toNat < 8))
/-- The level a PSW reads (20 R385, 21 R399). -/
def Mach.pswLevel (m : Mach) (now r : Nat) : Nat :=
  let p := m.partOf r
  if (m.part p).rpMode != 2 then (m.part p).levelSeen now
  else match m.replayLevel p r with
    | some x => x.2.a.toNat
    | none => (m.part p).levelSeen now
/-- The level a PSW read is recorded, or its record used (21 R398, R399). -/
def Mach.notePsw (m : Mach) (now r l n : Nat) : Mach :=
  let p := m.partOf r
  if (m.part p).rpMode != 2 then m.logInput now p 4 (some r) (slotN l) (slotN n)
  else match m.replayLevel p r with
    | some x => m.useNext now p x.1
    | none => m.diverge p (m.part p).rpr
/-- The address of a PSW's entry at a level (20 R384, R385). -/
def Mach.pswAt (m : Mach) (r n l : Nat) : W64 := (m.handCtx r).reg 0x0A1 + slotN (32 * n + 4 * l)
/-- The entry of a PSW read: its level recorded, its bytes fixed, and the cycle in which they land. -/
def Mach.pswRead (m : Mach) (now r n l : Nat) : Mach :=
  let key := m.keyOf r (m.pswAt r n l) 4 false
  let e := leNat ((m.seen r).readRow key 4)
  (((m.notePsw now r l n).noteUE r [key]).countErrors (clusterOf r) [key]).modHand r (fun h =>
    { h with stage := 1, stageT := now + m.pathTime (clusterOf r) key true + 4, stageV := slotN e })
/-- A PSW that waits for a walk or a full log before it can read its entry: at stage 2, with the level of its last arrival. -/
def Mach.pswBegin (m : Mach) (now r n l : Nat) : Mach :=
  match firstStop [m.xlStop r (m.pswAt r n l) 4 false, m.logStop r] with
  | none => m.pswRead now r n l
  | some (.walk va) => (m.startWalk now (clusterOf r) (m.hand r).ctx va).modHand r (fun h => { h with stage := 2, stageV := slotN l })
  | some _ => m.modHand r (fun h => { h with stage := 2, stageV := slotN l })
/-- PSW (20 R385): the level is that of its last arrival; it reads its entry, frozen with code 12, then sends all engines to the entry's
offset, or past the word. -/
def execPsw (w : N) (s : State) : Out :=
  .next (runRv s (.psw w) (fun x m =>
    let h := m.hand x.r
    let n := (bits w.imm 0 8).toNat
    let l := if h.stage = 0 then m.pswLevel x.now x.r else h.stageV.toNat
    let a := m.pswAt x.r n l
    { own := if h.stage = 0 then
        firstStop [trapIf (((m.handCtx x.r).reg 0x0A1).toNat % 32 != 0) 6 0 [(m.handCtx x.r).reg 0x0A1],
          (match m.xlStop x.r a 4 false with | some (.trap f) => some (.trap f) | _ => none), some (.start 12)]
        else if h.stage = 1 then
          firstStop [freezeIf (decide (x.now < h.stageT)) 12 0, trapIf (h.stageV != 0xFFFFFFFF && h.stageV.toNat % 8 != 0) 1 8]
        else firstStop [m.xlStop x.r a 4 false, m.logStop x.r, some (.start 12)]
      wait := fun m' => if h.stage = 0 then m'.pswBegin x.now x.r n l else m'.pswRead x.now x.r n l
      eff := fun m' => m'.modHand x.r (fun h' =>
        (if h.stageV = 0xFFFFFFFF then h' else h'.modEngines (fun y => { y with pc := h.stageV })).realign) }))

/-! ## Sensors and evacuation -/

/-- Thermal and machine-check of a zone go to the active hand of core 0 of its lowest cluster (20 R391). -/
def Mach.zoneHand (m : Mach) (z : Nat) : Nat :=
  let core := 4 * (m.zoneClusters z).headD 0
  2 * core + KMap.get 0 m.active core
/-- A fault of a zone noted against that hand; a zone that serves no cluster has none. -/
def Mach.zoneFault (m : Mach) (z : Nat) (f : FaultRec) : Mach :=
  if (m.zoneClusters z).isEmpty then m else m.noteFault (m.zoneHand z) f
/-- The bands of a zone forced (11 R219, R235). -/
def Mach.forceZone (m : Mach) (now z : Nat) : Mach :=
  (m.zoneClusters z).foldl (fun m c => (List.range 4).foldl (fun m b => m.forceBand now c b) m) m
/-- The bands of a zone released, unless it is CRIT, not WET, or about to drain. -/
def Mach.releaseZone (m : Mach) (now z : Nat) : Mach :=
  let x := m.zone z
  if x.crit || x.st != .wet || x.evac then m
  else (m.zoneClusters z).foldl (fun m c => (List.range 4).foldl (fun m b => m.releaseBand now c b) m) m
/-- The number of a channel state (20 R389). -/
def ZoneSt.no : ZoneSt → Nat
  | .wet => 0 | .draining => 1 | .purging => 2 | .dry => 3 | .refilling => 4
/-- A zone enters a state (20 R392): an event, and the 2 s limit of the states between WET and DRY. -/
def Mach.zoneTo (m : Mach) (now z : Nat) (st : ZoneSt) : Mach :=
  let x := m.zone z
  let m := ((m.modZone z (fun y => { y with st := st, since := now, fail := false, evac := false, nearAt := none })).zoneEvent now z 12 x.st.no st.no).regrant
  if st == .wet || st == .dry then m else m.post (now + 2100000000) (.evacStateAdvance z)
/-- One sample of a zone's sensors (20 R391, R392, log 7). -/
def Mach.sampleZone (m : Mach) (now n z : Nat) : Mach :=
  let x := m.zone z
  let t := (Config.sensorTemp z n).toNat
  let liq := Config.sensorLiquid z n
  let v := (Config.sensorValve z n).toNat
  let near := decide (v ≤ x.floor + 8) && decide (x.floor ≤ v + 8)
  let m := m.modZone z (fun y => { y with temp := t, liq := liq, valve := v,
                                          dryAt := if liq then none else some (y.dryAt.getD now),
                                          nearAt := if near then some (y.nearAt.getD now) else none })
  let m :=
    if !x.hot && decide (x.ttrap ≤ t) then
      ((m.modZone z (fun y => { y with hot := true })).zoneFault z ⟨0x17, 1, [slotN z, slotN t]⟩).zoneEvent now z 10 0 1
    else if x.hot && decide (t + 8 ≤ x.ttrap) then (m.modZone z (fun y => { y with hot := false })).zoneEvent now z 13 1 0
    else m
  let m :=
    if !x.crit && decide (x.tcrit ≤ t) then
      (((m.modZone z (fun y => { y with crit := true })).forceZone now z).zoneFault z ⟨0x17, 2, [slotN z, slotN t]⟩).zoneEvent now z 11 0 1
    else if x.crit && decide (t < x.ttrap) then ((m.modZone z (fun y => { y with crit := false })).zoneEvent now z 11 1 0).releaseZone now z
    else m
  if x.st == .wet || x.st == .dry then m else m.post now (.evacStateAdvance z)
/-- SENSOR_SAMPLE: every 1,050 c (20 R391). -/
def execSensorSample (s : State) : Out :=
  .next (runEvent s (fun now m =>
    (((List.range 64).foldl (fun (m' : Mach) z => m'.sampleZone now m.freeN z) { m with freeN := m.freeN + 1 }).regrant).post (now + 1050) .sensorSample))
/-- Does a command run on the bands of a zone? -/
def Mach.zoneRuns (m : Mach) (z : Nat) : Bool := (m.zoneClusters z).any (fun c => (m.cluster c).cmds.any (fun d => d.started && d.need != 0))
/-- A state between WET and DRY that has not been left in 2 s stays, and machine-check is raised, unit 6 (20 R392). -/
def Mach.zoneTimeout (m : Mach) (now z : Nat) : Mach :=
  let x := m.zone z
  if x.st == .wet || x.st == .dry || x.fail || decide (now < x.since + 2100000000) then m
  else (m.modZone z (fun y => { y with fail := true })).zoneFault z ⟨0x1F, 0, [slotN 6, slotN z]⟩
/-- EVAC_STATE_ADVANCE: a zone leaves its state once its conditions hold, or has not in 2 s (20 R392). -/
def execEvacStateAdvance (z : Nat) (s : State) : Out :=
  .next (runEvent s (fun now m =>
    let x := m.zone z
    if x.fail then m
    else match x.st with
      | .wet => if !x.evac then m else if m.zoneRuns z then m.post (now + 1) (.evacStateAdvance z) else m.zoneTo now z .draining
      | .draining => if x.since + 52500000 ≤ now && !x.liq then m.zoneTo now z .purging else m.zoneTimeout now z
      | .purging => if x.since + 105000000 ≤ now && x.dryAt.any (fun t => decide (t + 21000000 ≤ now)) then m.zoneTo now z .dry else m.zoneTimeout now z
      | .dry => m
      | .refilling =>
        if x.since + 210000000 ≤ now && x.liq && x.nearAt.any (fun t => decide (t + 10500000 ≤ now)) then (m.zoneTo now z .wet).releaseZone now z else m.zoneTimeout now z))
/-- EVAC_TIMEOUT (20 R392). -/
def execEvacTimeout (z : Nat) (s : State) : Out := .next (runEvent s (fun now m => m.zoneTimeout now z))
/-- The zone that a hand's ZIX shows (20 R389). -/
def Mach.zix (m : Mach) (r : Nat) : Nat := (bits ((m.hand r).creg 0x0A8) 0 6).toNat
/-- The values of ZCMD that are refused: 1 outside WET, 2 outside DRY (20 R392). -/
def Mach.zcmdStop (m : Mach) (z : Nat) (v : W64) : Option Stop :=
  let c := (bits v 0 2).toNat
  trapIf ((c == 1 && (m.zone z).st != .wet) || (c == 2 && (m.zone z).st != .dry)) 1 3
/-- A write to ZCMD: 1 forces the bands and drains once nothing runs on them, 2 refills (20 R392). -/
def Mach.zcmdWrite (m : Mach) (now z : Nat) (v : W64) : Mach :=
  match (bits v 0 2).toNat with
  | 1 => (if (m.zone z).crit then m else m.forceZone now z).modZone z (fun x => { x with evac := true }) |>.post now (.evacStateAdvance z)
  | 2 => m.zoneTo now z .refilling
  | _ => m
/-- ZCMD_EVACUATE (20 R392). -/
def execZcmdEvacuate (r : Nat) (s : State) : Out :=
  .next (runEvent s (fun now m => if (m.zcmdStop (m.zix r) 1).isSome then m else m.zcmdWrite now (m.zix r) 1))
/-- ZCMD_REFILL (20 R392). -/
def execZcmdRefill (r : Nat) (s : State) : Out :=
  .next (runEvent s (fun now m => if (m.zcmdStop (m.zix r) 2).isSome then m else m.zcmdWrite now (m.zix r) 2))

end Sys2Proof.Machine
end

