-- ==== Sys2Proof/Machine/Replay.lean ====
section
/-! DEFINITION. Recording and replay (21): the mode of a partition's log, the predictor snapshots it starts with,
divergence, and the fabric time. -/

namespace Sys2Proof.Machine

/-- The 16 bytes of a predictor entry in a snapshot: context, tag, V, confidences, ids (21 R398, kind 5; log 23). -/
def PredEntry.image (p : PredEntry) : List Byte :=
  leBytes 2 p.ctx ++ leBytes 2 p.tag ++ leBytes 1 p.v.toNat
    ++ leBytes 1 (p.conf.zipIdx.foldl (fun a c => a + c.1 % 4 * 4 ^ c.2) 0) ++ leBytes 2 0 ++ p.ids.flatMap (leBytes 1) ++ leBytes 4 0
/-- A predictor entry from its snapshot. -/
def predFrom (bs : List Byte) : PredEntry :=
  { v := field bs 4 1 % 2 == 1, ctx := field bs 0 2, tag := field bs 2 2,
    ids := (List.range 4).map (fun i => field bs (8 + i) 1), conf := (List.range 4).map (fun i => nbits (field bs 5 1) (2 * i) 2) }
/-- Where the snapshot of the n-th cluster of a partition lies: behind the log ring (log 23). -/
def Part.snapAt (x : Part) (n : Nat) : Nat := ((x.rpAddr 0 + 32 * x.rpCap + 65535) / 65536 + n) * 65536
/-- A recording starts with one record and snapshot per cluster (21 R398, kind 5). -/
def Mach.snapAll (m : Mach) (now p : Nat) : Mach :=
  (m.partClusters p).zipIdx.foldl (fun m c =>
    let a := (m.part p).snapAt c.2
    let bs := (List.range 4096).flatMap (fun i => ((m.cluster c.1).predAt i).image)
    (m.pokePhys a bs).logInput now p 5 none (slotN a) (slotN c.1)) m
/-- The snapshots that a replay's log names are loaded before the first thread is dealt (21 R399, kind 5). -/
def Mach.loadSnaps (m : Mach) (now p : Nat) : Mach :=
  ((m.logLeft p).filter (fun x => x.2.kind == 5)).foldl (fun m x =>
    let t := (List.range 4096).map (fun i => (i, predFrom (m.bytes (x.2.a.toNat + 16 * i) 16)))
    (m.modCluster x.2.b.toNat (fun c => { c with pred := t })).useNext now p x.1) m
/-- Has a partition any thread? -/
def Mach.anyThread (m : Mach) (p : Nat) : Bool := m.hands.any (fun h => h.2.thread && m.clPart (clusterOf h.1) == p)
/-- The values of RPCTL that are refused (21 R396). -/
def Mach.rpctlStop (m : Mach) (p : Nat) (v : W64) : Option Stop :=
  let mode := v.toNat % 4
  let cap := (bits ((m.part p).reg 0x0B4) 0 5).toNat
  trapIf (mode == 3 || (mode != 0 && (m.anyThread p || decide (cap < 10) || decide (24 < cap)))) 1 3
/-- A hand at the end of a replay: what came live and waited for its record is pending, but for preempt, which was suppressed (21 R399). -/
def Hand.endReplay (h : Hand) : Hand := { h with pending := h.pending ++ h.live.filter (fun f => f.cause != 0x1D), live := [], injected := [] }
/-- A partition enters a mode: RPW and RPR are cleared, and a recording takes its snapshots (21 R396, R398). -/
def Mach.setRpMode (m : Mach) (now p mode : Nat) : Mach :=
  let m := if (m.part p).rpMode = 2 then (m.hands.keys.filter (fun r => m.clPart (clusterOf r) == p)).foldl (fun m r => m.modHand r Hand.endReplay) m else m
  let m := m.modPart p (fun x => { x with cr := x.cr.set 0x0B3 (slotN mode), rpw := 0, rpr := 0, rpUsed := [], ords := [], rpStop := 0 })
  if mode = 1 then m.snapAll now p else m
/-- The index by which REPLAY_DIVERGENCE stands for the end of a recording that waits for room; no record has it (21 R402). -/
def stopIndex : Nat := 2 ^ 32
/-- A write to RPCTL.MODE (21 R396): a recording stops only once what waits for room in its ring has been written (R402). -/
def Mach.rpctlWrite (m : Mach) (now p : Nat) (v : W64) : Mach :=
  if v.toNat % 4 = 0 && (m.part p).logFull then (m.modPart p (fun x => { x with rpStop := 1 })).post (now + 1) (.replayDivergence p stopIndex)
  else m.setRpMode now p (v.toNat % 4)
/-- A recording that is to stop: after a whole cycle in which its ring had room nothing waits (21 R402). -/
def Mach.stopLog (m : Mach) (now p : Nat) : Mach :=
  let x := m.part p
  let again := fun (n : Nat) => (m.setPart p { x with rpStop := n }).post (now + 1) (.replayDivergence p stopIndex)
  if x.rpMode != 1 || x.rpStop = 0 then m
  else if x.logFull then again 1
  else if x.rpStop = 1 then again 2
  else m.setRpMode now p 0
/-- RPCTL_WRITE, by a hand for its context's partition (21 R396). -/
def execRpctlWrite (r : Nat) (v : W64) (s : State) : Out :=
  .next (runEvent s (fun now m =>
    let p := m.partOf r
    if (m.rpctlStop p v).isSome then m else m.rpctlWrite now p v))
/-- REPLAY_DIVERGENCE: a record whose input has not come in 2^24 c (21 R401); with `stopIndex`, a recording that is to stop (R402). -/
def execReplayDivergence (p index : Nat) (s : State) : Out :=
  .next (runEvent s (fun now m =>
    let x := m.part p
    if index = stopIndex then m.stopLog now p
    else if x.rpMode == 2 && x.rpr == index && x.rpw != x.rpr && decide (x.rpDue ≤ now) then m.diverge p index
    else m))
/-- PTP_MESSAGE: the security core steps TBOFF and notes what the exchange measured (21 R395, R396). -/
def execPtpMessage (offset : W64) (err : Bool) (s : State) : Out :=
  .next (runEvent s (fun _ m => m.modDev (fun d =>
    { d with tboff := offset, tbsync := if err then (d.tbsync &&& 1) ||| 2 else 1 })))

end Sys2Proof.Machine
end

