-- ==== Sys2Proof/Machine/Sacc.lean ====
section
/-! DEFINITION. The scatter-accumulate engine of a cluster (06 R127 to R129): its input, its merge window of 64 entries,
eviction through the bank ALU, and SACCF. -/

namespace Sys2Proof.Machine

/-- Two partial sums added (06 R128): i32 wraps, f32 as .fadd. -/
def saccAdd (isF : Bool) (a b : W32) : W32 := if isF then BitVec.ofNat 32 (addF32 a.toNat b.toNat) else a + b

/-- An entry evicted: its word takes the sum (06 R128); a row with an uncorrectable error is not written (06 R117). -/
def Mach.saccEvict (m : Mach) (e : SaccEntry) : Mach :=
  let m := m.countErrors ((e.key - 2 ^ 52) / 2 ^ 23) [e.key]
  if m.rowError e.key == some true then m.noteUE (e.hands.headD 0) [e.key]
  else m.poke e.key (leBytes 4 (saccAdd e.isF (m.readWord e.key) e.val).toNat)

/-- The hand noted with an entry of the window. -/
def SaccEntry.add (e : SaccEntry) (r : Nat) (v : W32) : SaccEntry :=
  { e with val := saccAdd e.isF e.val v, hands := if e.hands.contains r then e.hands else e.hands ++ [r] }

/-- The machine and the entries evicted so far. -/
abbrev SaccRun := Mach × List SaccEntry

/-- One pair merged into the window of cluster `c` (06 R128). -/
def saccPair (c : Nat) (i : SaccIn) (st : SaccRun) (key : Nat) (v : W32) : SaccRun :=
  let m := st.1
  let x := m.cluster c
  if x.sacc.any (fun e => e.key == key && e.isF == i.isF) then
    (m.setCluster c { x with sacc := x.sacc.map (fun e => if e.key == key && e.isF == i.isF then e.add i.hand v else e) }, st.2)
  else
    let new : SaccEntry := { key := key, isF := i.isF, val := v, hands := [i.hand], ctx := i.ctx }
    match x.sacc with
    | old :: rest =>
      if 64 ≤ x.sacc.length then ((m.setCluster c { x with sacc := rest ++ [new] }).saccEvict old, st.2 ++ [old])
      else (m.setCluster c { x with sacc := x.sacc ++ [new] }, st.2)
    | [] => (m.setCluster c { x with sacc := [new] }, st.2)

/-- One entry of 32 pairs accepted, lanes ascending; a dropped pair has no key (06 R127, R128). -/
def saccMerge (c : Nat) (i : SaccIn) (st : SaccRun) : SaccRun :=
  (List.zip i.keys i.vals).foldl (fun st p => match p.1 with | some k => saccPair c i st k p.2 | none => st) st

/-- Is a waiting entry behind an acquire that its hand issued before it (06 R124)? -/
def Mach.saccHeld (m : Mach) (i : SaccIn) : Bool := (m.hand i.hand).held i.id 0
/-- The next waiting entry that may be accepted: the four cores in turn from `saccNext` (06 R128). -/
def Mach.saccPick (m : Mach) (c : Nat) : Option SaccIn :=
  let x := m.cluster c
  (List.range 4).findSome? (fun j => x.saccIn.find? (fun i => i.hand / 2 % 4 == (x.saccNext + j) % 4 && !m.saccHeld i))
/-- One waiting entry accepted, if any. -/
def saccTake (c : Nat) (st : SaccRun) : SaccRun :=
  match st.1.saccPick c with
  | none => st
  | some i =>
    saccMerge c i (st.1.modCluster c (fun x => { x with saccIn := x.saccIn.erase i, saccNext := (i.hand / 2 % 4 + 1) % 4 }), st.2)
/-- May a flush go on: nothing that its hand issued before it is held back or still waits to be accepted (06 R124, R129)? -/
def Mach.flushReady (m : Mach) (c : Nat) (f : SaccFl) : Bool :=
  f.begun || !((m.hand f.hand).held f.id 0 || (m.cluster c).saccIn.any (fun i => i.hand == f.hand && decide (i.id < f.id)))
/-- The entries that a flush is to evict, oldest first: those that hold a pair of its hand when its turn comes (06 R129). -/
def Cluster.flushKeys (x : Cluster) (f : SaccFl) : List (Nat × Bool) :=
  if f.begun then f.left.filter (fun k => x.sacc.any (fun e => e.key == k.1 && e.isF == k.2))
  else (x.sacc.filter (fun e => e.hands.contains f.hand)).map (fun e => (e.key, e.isF))
/-- One entry evicted for the first flush that may go on; a flush with none left is done (06 R129, R135). -/
def saccFlushOne (c : Nat) (st : SaccRun) : SaccRun :=
  let m := st.1
  let x := m.cluster c
  match x.saccFl.find? (m.flushReady c) with
  | none => st
  | some f =>
    let drop := fun (l : List (Nat × Bool)) => x.saccFl.filterMap (fun g => if g.id == f.id then (if l.isEmpty then none else some { f with begun := true, left := l }) else some g)
    match x.flushKeys f with
    | [] => (m.setCluster c { x with saccFl := drop [] }, st.2)
    | k :: rest =>
      match x.sacc.find? (fun e => e.key == k.1 && e.isF == k.2) with
      | none => (m.setCluster c { x with saccFl := drop rest }, st.2)
      | some e => ((m.setCluster c { x with sacc := x.sacc.filter (fun d => !(d.key == k.1 && d.isF == k.2)), saccFl := drop rest }).saccEvict e, st.2 ++ [e])
/-- The arrivals of evicted entries, each from the first hand with a pair in it (21 R398). -/
def saccArrivals (m : Mach) (es : List SaccEntry) : List Arrival :=
  es.flatMap (fun e => arrivalsOf (e.hands.headD 0) (m.hand (e.hands.headD 0)).ea.iseq [e.key])
/-- One move of the SACC at its banks, unless one of them is taken in this cycle or a turn in a log has not come (06 R116, 21 R398, R399);
`none` where it has to wait. -/
def Mach.saccMove (m : Mach) (now : Nat) (f : SaccRun → SaccRun) : Option Mach :=
  let st := f (m, [])
  let as := saccArrivals m st.2
  let bs := (as.map (·.bank)).eraseDups
  if !m.mayArriveAll as || m.banksBusy now bs then none else some ((st.1.noteArrivals now as).useBanks now bs)
/-- SACC_ACCEPT: in each cycle one eviction of a flush and one waiting entry accepted (06 R128, R129), each held back while its banks are
busy. -/
def execSaccAccept (c : Nat) (s : State) : Out :=
  .next (runEvent s (fun now m =>
    let a := m.saccMove now (saccFlushOne c)
    let m1 := a.getD m
    let b := m1.saccMove now (saccTake c)
    let m2 := b.getD m1
    let i : Instr := .saccAccept c
    let x := m2.cluster c
    if a.isNone || b.isNone then m2.waitAtBank now i
    else
      let m3 := { m2 with bankQ := m2.bankQ.filter (fun p => p.1 != i) }
      if x.saccIn.isEmpty && x.saccFl.isEmpty then m3 else m3.post (now + 1) i))

/-- Does the SACC hold or await a pair of the hand, or evict for it (17 R334)? -/
def Mach.saccOpen (m : Mach) (r : Nat) : Bool :=
  let x := m.cluster (clusterOf r)
  x.sacc.any (fun e => e.hands.contains r) || x.saccIn.any (fun i => i.hand == r) || x.saccFl.any (fun f => f.hand == r)
/-- The SACC of a cluster at work in the next cycle: it is so already while something waits there. -/
def Mach.wakeSacc (m : Mach) (now c : Nat) (idle : Bool) : Mach := if idle then m.post (now + 1) (.saccAccept c) else m
/-- The eviction of every entry that holds a pair of a hand asked for, under a number (06 R129, R135). -/
def Mach.askFlush (m : Mach) (now r id : Nat) : Mach :=
  let c := clusterOf r
  let x := m.cluster c
  (m.setCluster c { x with saccFl := x.saccFl ++ [{ hand := r, ctx := (m.hand r).ctx, id := id }] }).wakeSacc now c (x.saccIn.isEmpty && x.saccFl.isEmpty)
/-- The same under a fresh number, unless one is asked for already. -/
def Mach.saccFlush (m : Mach) (now r : Nat) : Mach :=
  if (m.cluster (clusterOf r)).saccFl.any (fun f => f.hand == r) then m else (m.askFlush now r m.nextId).bump
/-- The entries that hold a pair of a hand. -/
def Mach.saccCount (m : Mach) (r : Nat) : Nat := ((m.cluster (clusterOf r)).sacc.filter (fun e => e.hands.contains r)).length
/-- SACC entries of a context discarded without writing, on kill (06 R135). -/
def Mach.saccKill (m : Mach) (c k : Nat) : Mach :=
  m.modCluster c (fun x =>
    { x with sacc := x.sacc.filter (fun e => e.ctx != k)
             saccIn := x.saccIn.filter (fun i => i.ctx != k)
             saccFl := x.saccFl.filter (fun f => f.ctx != k) })

/-- The key of a pair's word; none outside the window of the cluster (06 R127). -/
def Mach.saccKey (m : Mach) (r : Nat) (t : W64) (idx : W32) : Option Nat :=
  let x := t + (idx.signExtend 64 <<< 2)
  if bits x 30 34 != 0 || sliceCluster x != clusterOf r then none
  else match m.resolve (m.hand r).ctx x 4 true true with
    | .ok k => some k
    | .error _ => none

/-- A dropped pair's window-fault: the first between two SACCFs is recorded, naming lane and thread, the rest are
counted in it (06 R127). -/
def Mach.saccDrop (m : Mach) (r lane : Nat) : Mach :=
  let c := clusterOf r
  match (m.cluster c).saccFault with
  | none =>
    (m.modCluster c (fun x => { x with saccFault := some (r, 0) })).recordFault r ⟨7, 0, [slotN lane, slotN r, 0]⟩
  | some (r0, n) =>
    (m.modCluster c (fun x => { x with saccFault := some (r0, n + 1) })).modHand r0 (fun h =>
      { h with pending := h.pending.map (fun f => match f.slots with
          | [l, th, k] => if f.cause == 7 && k == slotN n then { f with slots := [l, th, slotN (n + 1)] } else f
          | _ => f) })

/-- SACC (06 R127). -/
def execSacc (w : VVV) (s : State) : Out :=
  .next (runWord s .a (.sacc w) w.hdr (fun x m =>
    let h := m.hand x.r
    let os : List Opnd := [⟨w.a.toNat, w.ka, false, 4⟩, ⟨w.b.toNat, w.kb, false, w.ty.toNat⟩]
    let t := h.areg w.d.toNat
    { own := firstStop [h.needA w.d.toNat, trapIf (t.toNat % 4 != 0) 6 0 [t],
        trapIf (bits t 30 34 != 0 || sliceCluster t != clusterOf x.r) 7 0 [t, 4, slotN (sliceCluster t)], queueOwn h x.e os [] []]
      eff := fun m' =>
        let vs := opValues h x.e os
        let lanes := List.range 32
        let keys := lanes.map (fun i => m.saccKey x.r t (lane (vs.headD 0) i))
        let c := clusterOf x.r
        let i : SaccIn := { hand := x.r, ctx := h.ctx, isF := w.ty == 8, keys := keys,
                            vals := lanes.map (fun i => lane (vs.getD 1 0) i), id := m'.nextId }
        let f := pushFifo x.e w.hdr.push
        let m1 := m'.modHand x.r (fun h' => ((takeOps h x.e os h').reserveTok f).enterTok x.now f)
        let m2 := lanes.foldl (fun m j => if (keys.getD j none).isNone then m.saccDrop x.r j else m) m1
        let y := m2.cluster c
        ((m2.setCluster c { y with saccIn := y.saccIn ++ [i] }).bump).wakeSacc x.now c (y.saccIn.isEmpty && y.saccFl.isEmpty) }))

/-- SACCF (06 R129): every entry that holds a pair of the thread is written; it completes 2 + n after issue, and with
.rel after the older accesses as FENCE does. Behind an acquire that is not complete the writes wait for it (06 R124). -/
def execSaccf (w : AC) (s : State) : Out :=
  .next (runWord s .a (.saccf w) w.hdr (fun x _ =>
    { eff := fun m' =>
        let h := m'.hand x.r
        let t0 := x.now + 2 + m'.saccCount x.r
        let t := if w.rel then max t0 (h.lastPerformed x.now + 1) else if w.acq then max t0 (h.lastLoaded x.now + 1) else t0
        let f : Fence := { snap := if w.acq || w.rel then m'.nextId else 0, rel := w.rel, fabric := w.scope == 3 }
        ((m'.askFlush x.now x.r m'.nextId).modCluster (clusterOf x.r) (fun y => { y with saccFault := none })).issueFence x.r t w.acq f (acTok w) }))

end Sys2Proof.Machine
end

