-- ==== Sys2Proof/Machine/Dealer.lean ====
section
/-! DEFINITION. Launches (17 R327 to R334): the record and its expressions, the order of iterations, the dealers, EXIT and
the completion of a launch; and the queues of the command processor (R335 to R339, R341). -/

namespace Sys2Proof.Machine

/-! ## Expressions -/

/-- A 64-bit signed value, wrapped (17 R329). -/
def wrap64 (x : Int) : Int := (BitVec.ofInt 64 x).toInt
/-- One op on the stack; none where it makes the expression malformed (17 R329). -/
def exprOp (sv : Nat → W32) (op : Nat) (st : List Int) : Option (List Int) :=
  let k := op % 4096
  let out : Option (List Int) :=
    match op / 4096, st with
    | 0, _ => some (sext 12 k :: st)
    | 1, _ => if k < 32 then some ((sv k).toInt :: st) else none
    | 2, x :: t => some (wrap64 (x * 4096 + k) :: t)
    | 3, y :: x :: t => some (wrap64 (x + y) :: t)
    | 4, y :: x :: t => some (wrap64 (x - y) :: t)
    | 5, y :: x :: t => some (wrap64 (x * y) :: t)
    | 6, y :: x :: t => if y ≤ 0 then none else some (-((-x) / y) :: t)
    | 7, y :: x :: t => some (min x y :: t)
    | 8, y :: x :: t => some (max x y :: t)
    | 9, x :: t => if k < 64 then some (wrap64 (x * 2 ^ k) :: t) else none
    | 10, x :: t => if k < 64 then some (x / 2 ^ k :: t) else none
    | _, _ => none
  out.filter (fun s => decide (s.length ≤ 8))
/-- The ops of an expression in order. -/
def exprRun (sv : Nat → W32) : List Nat → List Int → Option (List Int)
  | [], st => some st
  | o :: t, st => (exprOp sv o st).bind (exprRun sv t)
/-- The value of an expression over its pool of ops (17 R328, R329). -/
def evalExpr (sv : Nat → W32) (pool : List Nat) (e : Nat) : Option Int :=
  let n := e / 32 % 32 + 1
  if 1024 ≤ e || 32 < e % 32 + n then none
  else match exprRun sv ((pool.drop (e % 32)).take n) [] with
    | some [v] => if -(2 ^ 31 : Int) ≤ v && v < (2 ^ 31 : Int) then some v else none
    | _ => none

/-! ## The record and its iterations -/

/-- Does a record keep the zero bytes and the field limits of 17 R328? -/
def recordOk (bs : List Byte) : Bool :=
  let b := fun (i : Nat) => field bs i 1
  let nlev := nbits (b 5) 2 2 + 1
  bs.length == 128 && field bs 0 4 % 8 == 0 && b 4 % 4 == 0 && decide (b 4 < 128) && decide (b 5 < 16) && b 5 % 4 != 3 && decide (b 6 < 16) && b 6 != 0
    && (b 4 / 4 % 2 == 0 || b 6 == 15) && b 7 == 0 && field bs 8 9 != 0 && field bs 17 15 == 0 && field bs 52 12 == 0
    && (List.range 4).all (fun l => decide (l < nlev) || field bs (32 + 4 * l) 4 == 0)
    && (List.range 4).all (fun j => b (48 + j) / 8 % 16 == 0)
/-- The launch that a record asks for (17 R328 to R330); none where the record is malformed. -/
def launchOf (sv : Nat → W32) (k : Nat) (bs : List Byte) : Option Launch :=
  let b := fun (i : Nat) => field bs i 1
  let pool := (List.range 32).map (fun j => field bs (64 + 2 * j) 2)
  let ls := List.range (nbits (b 5) 2 2 + 1)
  if !recordOk bs then none
  else match ls.mapM (fun l => evalExpr sv pool (field bs (32 + 4 * l) 2)), ls.mapM (fun l => evalExpr sv pool (field bs (34 + 4 * l) 2)) with
    | some es, some ss =>
      if es.any (fun e => decide (e < 0)) then none
      else some { id := 0, ctx := k, entry := slotN (field bs 0 4), hand := nbits (b 4) 6 1, prio := nbits (b 4) 3 3, costart := (b 4).testBit 2,
                  cores := b 6, cset := field bs 8 9, order := b 5 % 4, extents := es.map Int.toNat, strides := ss,
                  preload := (List.range 4).map (fun j => b (48 + j)), total := (es.map Int.toNat).foldl (· * ·) 1 }
    | _, _ => none
/-- Mixed-radix digits, the first fastest. -/
def digits : List Nat → Nat → List Nat
  | [], _ => []
  | e :: t, n => n % e :: digits t (n / e)
/-- The n-th pair below the extents in Morton order, within a square of 2^k at (x, y) (17 R330). -/
def mortonPick (e0 e1 : Nat) : Nat → Nat → Nat → Nat → List Nat
  | 0, x, y, _ => [x, y]
  | k + 1, x, y, n =>
    let s := 2 ^ k
    let size := fun (x y : Nat) => min (e0 - x) s * min (e1 - y) s
    let a := size x y
    let b := size (x + s) y
    let c := size x (y + s)
    if n < a then mortonPick e0 e1 k x y n
    else if n < a + b then mortonPick e0 e1 k (x + s) y (n - a)
    else if n < a + b + c then mortonPick e0 e1 k x (y + s) (n - a - b)
    else mortonPick e0 e1 k (x + s) (y + s) (n - a - b - c)
/-- The indices i_0 up of iteration `n` in the sequence (17 R330). -/
def Launch.tuple (l : Launch) (n : Nat) : List Nat :=
  match l.order with
  | 0 => digits l.extents n
  | 1 => (digits l.extents.reverse n).reverse
  | _ =>
    let e0 := l.extents.getD 0 1
    let e1 := l.extents.getD 1 1
    (mortonPick e0 e1 31 0 0 (n % (e0 * e1)) ++ digits (l.extents.drop 2) (n / (e0 * e1))).take l.extents.length

/-! ## Dealing -/

/-- A launch replaced. -/
def Mach.putLaunch (m : Mach) (l : Launch) : Mach :=
  m.modDev (fun d => { d with launches := d.launches.map (fun k => if k.id == l.id then l else k) })
/-- DMEM as the dealer writes it (17 R317). -/
def Launch.dmem (l : Launch) (r : Nat) : W64 :=
  let cs := (List.range 72).filter (fun c => l.cset.testBit c)
  slotN (cs.length * 2 ^ 24 + (cs.filter (fun c => dieOf c == dieOf (clusterOf r))).length * 2 ^ 16 + clusterOf r * 256 + 0x20 + dieOf (clusterOf r))
/-- The value that a preload byte gives (17 R328). -/
def Launch.preloadVal (l : Launch) (ix : List Nat) (b : Nat) : W64 :=
  let i := ix.getD (b % 4) 0
  if b.testBit 2 then w64 (i * l.strides.getD (b % 4) 0) else slotN i
/-- A hand with a thread dealt to it (07 R138, 09 R187, 17 R331, 19 R359). -/
def Hand.deal (h : Hand) (now r tid : Nat) (l : Launch) (ix : List Nat) : Hand :=
  let e : EngineState := { pc := l.entry }
  let h := { (h.setCreg 0x07A (l.dmem r)) with
    thread := true, launch := l.id, tid := tid, ea := e, ex := e, em := e, v := [], pool := 2048, freed := 0, fifos := [], vclk := 0,
    frzRun := 0, blocked := none, holdTill := now + 1, barTill := 0, ring := 0, busy := 0, stage := 0, disps := 0, coWait := l.costart,
    dealtT := now + 1 }
  l.preload.zipIdx.foldl (fun h b => if 128 ≤ b.1 then h.putS (b.2 + 1) (l.preloadVal ix b.1) else h) h
/-- The other hand of a core. -/
def otherHand (r : Nat) : Nat := if r % 2 = 0 then r + 1 else r - 1
/-- The active hand of a core. -/
def Mach.activeHand (m : Mach) (core : Nat) : Nat := 2 * core + KMap.get 0 m.active core
/-- When a core whose active hand holds no thread makes the other hand active: 24 c after its EXIT, or 24 c after the other's thread was
dealt, whichever comes later (17 R422); `freeAt` is 8 c after the EXIT. -/
def Mach.switchAt (m : Mach) (core : Nat) : Nat :=
  let a := m.activeHand core
  max ((m.hand a).freeAt + 16) ((m.hand (otherHand a)).dealtT + 24)
/-- A core's change of hand by itself is looked at when it can come about (17 R422). -/
def Mach.postSwitch (m : Mach) (now core : Nat) : Mach := m.post (max (now + 1) (m.switchAt core)) (.autoHandSwitch core)
/-- One iteration placed at a hand: its first word issues in the next cycle, or, at a hand that is not active, 24 c later
(17 R331, R422). -/
def Mach.place (m : Mach) (now r : Nat) (l : Launch) (ix : List Nat) : Mach :=
  let m := ((m.modHand r (fun h => h.deal now r m.nextId l ix)).bump).putLaunch { l with dealt := l.dealt + 1, running := l.running + 1 }
  let m := if m.activeHand (coreOf r) = r then m else m.postSwitch now (coreOf r)
  m.examineAll now
/-- Is a hand kept for another launch, which is placing a co-started team on its cluster (17 R333)? -/
def Mach.reservedFrom (m : Mach) (r : Nat) (l : Launch) : Bool :=
  m.dev.launches.any (fun k => k.id != l.id && k.teams.any (fun p => p.1 == clusterOf r &&
    ((k.members.filter (fun q => clusterOf q == p.1 && !(m.hand q).thread)).take p.2.length).contains r))
/-- Is a hand free for a launch (17 R331)? -/
def Mach.freeFor (m : Mach) (now r : Nat) (l : Launch) : Bool :=
  let h := m.hand r
  !h.thread && h.ctx == l.ctx && !h.draining && decide (h.freeAt ≤ now + 1) && !m.reservedFrom r l
/-- The members of a launch on a die. -/
def Launch.onDie (l : Launch) (d : Nat) : List Nat := l.members.filter (fun r => dieOf (clusterOf r) == d)
/-- A co-started cluster goes on: its next thread is placed, and with the last of them all members may issue (17 R333); none while no
core of it can take a thread. -/
def Mach.placeTeam (m : Mach) (now : Nat) (l : Launch) (c : Nat) (its : List (List Nat)) : Option Mach :=
  match its, (l.members.filter (fun r => clusterOf r == c)).find? (fun r => m.freeFor now r l) with
  | ix :: rest, some r =>
    let l := { l with teams := if rest.isEmpty then l.teams.filter (fun p => p.1 != c) else l.teams.set c rest }
    let m := m.place now r l ix
    some (if rest.isEmpty then
        (l.members.filter (fun r => clusterOf r == c)).foldl (fun m r => m.modHand r (fun h =>
          if h.launch = l.id then { h with coWait := false, holdTill := now + 1 } else h)) m
      else m)
  | _, _ => none
/-- A launch's next iteration dealt on a die, if it can be (17 R331, R333). -/
def Mach.dealFrom (m : Mach) (now d : Nat) (l : Launch) : Option Mach :=
  if now < l.notBefore then none
  else match l.teams.find? (fun p => dieOf p.1 == d) with
    | some (c, its) => m.placeTeam now l c its
    | none =>
      if l.total ≤ l.next then none
      else if l.costart then
        match ((List.range 72).filter (fun c => l.cset.testBit c && dieOf c == d)).find? (fun c =>
            (l.members.filter (fun r => clusterOf r == c)).all (fun r => m.freeFor now r l)) with
        | none => none
        | some c =>
          let its := ((List.range 4).filter (fun j => decide (l.next + j < l.total))).map (fun j => l.tuple (l.next + j))
          m.placeTeam now { l with next := l.next + its.length } c its
      else match (l.onDie d).find? (fun r => m.freeFor now r l) with
        | none => none
        | some r => some (m.place now r { l with next := l.next + 1 } (l.tuple l.next))
/-- Has a launch an iteration that is not yet placed? -/
def Launch.left (l : Launch) : Bool := decide (l.next < l.total) || !l.teams.isEmpty
/-- The launches of highest priority first, at equal priority the one that started first (17 R332). -/
def Mach.dealOrder (m : Mach) : List Launch :=
  (List.range 8).reverse.flatMap (fun p => m.dev.launches.filter (fun l => l.prio == p))
/-- DEAL_ITERATION: one iteration dealt by a die in a cycle (17 R331); a replay's snapshots are loaded first (21 R399). -/
def execDealIteration (d : Nat) (s : State) : Out :=
  .next (runEvent s (fun now m =>
    if (m.die d).dealtAt = now + 1 then m
    else
      let m := m.dev.launches.foldl (fun m l => m.loadSnaps now (m.ctx l.ctx).part) m
      match m.dealOrder.findSome? (m.dealFrom now d) with
      | none => m
      | some m' =>
        let m1 := m'.modDie d (fun x => { x with dealtAt := now + 1 })
        let m2 := if m1.dev.launches.any Launch.left then m1.post (now + 1) (.dealIteration d) else m1
        m2.dev.launches.foldl (fun m l => if l.left then m else m.testBarriers now l.ctx) m2))

/-! ## The queues of the command processor -/

/-- A pass of the scheduler in the next cycle, unless one is due then. -/
def Mach.kick (m : Mach) (now : Nat) : Mach :=
  if m.agenda.any (fun p => p.1 == now + 1 && p.2 == .queueSchedulerPass) then m else m.post (now + 1) .queueSchedulerPass
/-- The address of a queue's descriptor (17 R335). -/
def Mach.descAt (m : Mach) (k q : Nat) : W64 := ((m.ctx k).reg 0x07B &&& ~~~(63 : W64)) + slotN (64 * q)
/-- A queue's descriptor, if it can be read with ring-1 permissions. -/
def Mach.desc (m : Mach) (k q : Nat) : Option (List Byte) := (m.readAt k (m.descAt k q) 64 false).toOption
/-- Bytes of a descriptor written. -/
def Mach.putDesc (m : Mach) (k q lo : Nat) (bs : List Byte) : Mach :=
  match m.writeAt k (m.descAt k q + slotN lo) bs false with
  | .ok m' => m'
  | .error _ => m
/-- A slot of the scheduler. -/
def Mach.slot? (m : Mach) (i : Nat) : Option QSlot := (m.dev.slots.find? (fun p => p.1 == i)).map (·.2)
/-- A slot replaced. -/
def Mach.putSlot (m : Mach) (i : Nat) (s : QSlot) : Mach := m.modDev (fun d => { d with slots := d.slots.set i s })
/-- A slot that maps no queue any more. -/
def Mach.dropSlot (m : Mach) (i : Nat) : Mach := m.modDev (fun d => { d with slots := d.slots.filter (fun p => p.1 != i) })
/-- The status record of an entry (17 R339). -/
def Mach.entryStatus (m : Mach) (now k : Nat) (a : W64) (code dealt : Nat) : Except FaultRec Mach :=
  if a = 0 then .ok m else m.writeAt k a (leBytes 8 now ++ leBytes 1 code ++ leBytes 3 0 ++ leBytes 4 dealt) false
/-- A queue faults: its status and RD, WR and FAULT are written and it is unmapped (17 R335, R337, R339). -/
def Mach.faultQueue (m : Mach) (now i : Nat) (s : QSlot) (status : W64) (kind : Nat) (info : W64) (cause reason : Nat) : Mach :=
  let m := match m.entryStatus now s.ctx status 2 0 with | .ok m' => m' | .error _ => m
  let b := (m.desc s.ctx s.q).elim 0 (fun d => field d 10 1)
  ((m.putDesc s.ctx s.q 10 (leBytes 1 (b ||| 4) ++ leBytes 1 0 ++ leBytes 4 s.rd ++ leBytes 4 s.wr ++ leBytes 1 kind ++ leBytes 1 cause
    ++ leBytes 1 reason ++ leBytes 1 0 ++ leBytes 8 info.toNat ++ leBytes 4 s.rd))).dropSlot i
/-- A queue faults on a translation or protection fault (17 R335, kinds 4 and 5); an address that is not virtual and lies outside the
slice window fails as one that cannot be translated, reason 3 (DEDUCED, log 131). -/
def Mach.faultXl (m : Mach) (now i : Nat) (s : QSlot) (status : W64) (f : FaultRec) : Mach :=
  if f.cause = 9 then m.faultQueue now i s status 5 (f.slots.headD 0) 9 f.reason
  else m.faultQueue now i s status 4 (f.slots.headD 0) 8 (if f.cause = 8 then f.reason else 3)
/-- An event raised by an amount; event 0 stands for none (17 R336). -/
def Mach.signal (m : Mach) (k ev : Nat) (v : W64) : Except FaultRec Mach :=
  if ev = 0 then .ok m
  else
    let a := (m.ctx k).reg 0x07C + slotN (8 * ev)
    match m.readAt k a 8 false with
    | .error f => .error f
    | .ok bs => m.writeAt k a (leBytes 8 (leNat bs + v.toNat)) false
/-- An entry has completed: its status and RD, and the next may start in the next cycle (17 R336, R339). -/
def Mach.entryDone (m : Mach) (now i : Nat) (s : QSlot) (status : W64) (dealt : Nat) : Mach :=
  match m.entryStatus now s.ctx status 1 dealt with
  | .error f => m.faultXl now i s 0 f
  | .ok m' =>
    let rd := (s.rd + 1) % 2 ^ 32
    ((m'.putDesc s.ctx s.q 12 (leBytes 4 rd)).putSlot i { s with rd := rd, st := if rd = s.wr then 0 else 1, since := now, ready := now + 1, asked := [] }).kick now
/-- An entry that signals has completed: a status that cannot be written faults it, and it then signals nothing (17 R336, R339). -/
def Mach.signalDone (m : Mach) (now i : Nat) (s : QSlot) (ev : Nat) (v status : W64) (dealt : Nat) : Mach :=
  match m.entryStatus now s.ctx status 1 dealt with
  | .error f => m.faultXl now i s 0 f
  | .ok _ => match m.signal s.ctx ev v with
    | .error f => m.faultXl now i s status f
    | .ok m' => m'.entryDone now i s status dealt
/-- The shape variables as a LAUNCH reads them: a write of this cycle is not seen (17 R330, R342). -/
def Ctx.svRead (x : Ctx) (now i : Nat) : W32 := KMap.get 0 (if x.svT = now + 1 then x.svOld else x.sv) i
/-- A context that was never saved is placed in an empty hand, with the per-hand registers of its creation state (17 R340,
R341). -/
def Hand.hold (h : Hand) (k : Nat) : Hand :=
  { h with ctx := k, cr := [], xflags := 0, cpseq := 0, clseq := 0, frzc := 0, vclk := 0, tcause := [], lost := 0, disps := 0, boostSt := 0,
           boostLvl := 0, boostEnd := 0, boostLeft := 0, live := [], injected := [] }
/-- Preempt raised in a hand that another launch needs, once for each context it holds (17 R341, 19 R373); in replay it waits for its record
(21 R399). -/
def Mach.askPreempt (m : Mach) (i r k hand : Nat) : Mach :=
  match m.slot? i with
  | none => m
  | some s =>
    let x := (r, (m.hand r).ctx)
    if s.asked.contains x then m
    else (m.putSlot i { s with asked := x :: s.asked }).outsideFault r ⟨0x1D, 0, [slotN (k + 65536 * hand)]⟩
/-- The hand of every member examined (17 R341); a hand that takes the context takes what was kept for it (04 R74, 15 R288). -/
def Mach.occupy (m : Mach) (i : Nat) (l : Launch) : Mach :=
  Mach.deliverKept (k := l.ctx) <| l.members.foldl (fun m r =>
    let h := m.hand r
    if h.ctx = l.ctx then m
    else if h.ctx = 0 then (if (m.ctx l.ctx).saved || h.draining then m else m.setHand r (h.hold l.ctx))
    else m.askPreempt i r l.ctx l.hand) m
/-- A LAUNCH entry starts, or its queue is BLOCKED or faults (17 R330, R339, R341); a record lies in a virtual address (R328). -/
def Mach.launchEntry (m : Mach) (now i : Nat) (s : QSlot) (ev : Nat) (va status : W64) : Mach :=
  if va.toNat % 128 != 0 || !bit va 63 then m.faultQueue now i s status 2 va 0 0
  else match m.readAt s.ctx va 128 false with
    | .error f => m.faultXl now i s status f
    | .ok bs =>
      match launchOf ((m.ctx s.ctx).svRead now) s.ctx bs with
      | none => m.faultQueue now i s status 2 va 0 0
      | some l =>
        match ((List.range 72).filter (fun c => l.cset.testBit c)).find? (fun c => !m.inPart s.ctx c) with
        | some c => m.faultQueue now i s status 3 (slotN c) 0 0
        | none =>
          let m := (m.putSlot i { s with st := 2 }).occupy i l
          if l.members.any (fun r => (m.hand r).ctx != s.ctx) then m
          else
            let l := { l with id := m.nextId, event := ev, status := status, slot := some i, notBefore := now + 41 }
            let m := ((m.putSlot i { s with st := 3 }).modDev (fun d => { d with launches := d.launches ++ [l] })).bump
            let m := (List.range 4).foldl (fun m d => if (l.onDie d).isEmpty then m else m.post (now + 41) (.dealIteration d)) m
            if l.total = 0 then m.post now (.launchComplete l.id) else m
/-- Is a queue entry malformed (17 R336)? -/
def entryBad (e : List Byte) : Bool :=
  let op := field e 0 1
  op == 0 || decide (4 < op) || field e 1 3 != 0 || decide (4095 < field e 4 4) || field e 32 32 != 0
/-- The entry of a slot starts, if it is READY or BLOCKED and, where `want` names an OP, has that OP (17 R336). A READY slot has then been
served, and a BLOCKED one that goes on (R337). -/
def Mach.startEntry (m : Mach) (now i : Nat) (want : Option Nat) : Mach :=
  match m.slot? i with
  | none => m
  | some s =>
    if s.st != 1 && s.st != 2 then m
    else match m.desc s.ctx s.q with
      | none => m.dropSlot i
      | some d =>
        let a := BitVec.ofNat 64 (field d 0 8) + slotN (64 * (s.rd % 2 ^ (field d 8 1 % 32)))
        match m.readAt s.ctx a 64 false with
        | .error f => m.faultXl now i s 0 f
        | .ok e =>
          let op := field e 0 1
          let ev := field e 4 4
          let v := BitVec.ofNat 64 (field e 8 8)
          let status := BitVec.ofNat 64 (field e 24 8)
          if want.any (· != op) then m
          else if entryBad e then m.faultQueue now i s status 1 a 0 0
          else
            let served := fun (m' : Mach) => if s.st == 1 || (m'.slot? i).all (fun x => x.st != 2) then m'.modDev (fun d => { d with lastSlot := i }) else m'
            served <| match op with
            | 1 => m.launchEntry now i s ev (BitVec.ofNat 64 (field e 16 8)) status
            | 2 =>
              if ev = 0 then m.entryDone now i s status 0
              else match m.readAt s.ctx ((m.ctx s.ctx).reg 0x07C + slotN (8 * ev)) 8 false with
                | .error f => m.faultXl now i s status f
                | .ok bs => if v.toNat ≤ leNat bs then m.entryDone now i s status 0 else m.putSlot i { s with st := 2 }
            | 3 => m.signalDone now i s ev v status 0
            | _ => m.entryDone now i s status 0
/-- QUEUE_LAUNCH_START (17 R330). -/
def execQueueLaunchStart (slot : Nat) (s : State) : Out := .next (runEvent s (fun now m => m.startEntry now slot (some 1)))
/-- QUEUE_WAIT (17 R336). -/
def execQueueWait (slot : Nat) (s : State) : Out := .next (runEvent s (fun now m => m.startEntry now slot (some 2)))
/-- QUEUE_SIGNAL (17 R336). -/
def execQueueSignal (slot : Nat) (s : State) : Out := .next (runEvent s (fun now m => m.startEntry now slot (some 3)))
/-- QUEUE_NOP (17 R336). -/
def execQueueNop (slot : Nat) (s : State) : Out := .next (runEvent s (fun now m => m.startEntry now slot (some 4)))

/-- The effective priority of a slot: one level for each 64 microseconds READY and not served, up to 7 (17 R337). -/
def QSlot.effPrio (s : QSlot) (now : Nat) : Nat := min 7 (s.prio + if s.st = 1 then (now - s.since) / 67200 else 0)
/-- Of some slots the one to serve next: of highest effective priority, and at equal priority the next after the one last served (17 R337). -/
def Mach.nextOf (m : Mach) (now : Nat) (ok : Nat × QSlot → Bool) : Option Nat :=
  let rs := m.dev.slots.filter ok
  let top := rs.foldl (fun a p => max a (p.2.effPrio now)) 0
  ((List.range 64).map (fun j => (m.dev.lastSlot + 1 + j) % 64)).find? (fun i => rs.any (fun p => p.1 == i && p.2.effPrio now == top))
/-- Is a slot READY, with an entry that may start now? -/
def QSlot.isReady (s : QSlot) (now : Nat) : Bool := s.st == 1 && decide (s.ready ≤ now)
/-- The READY slot to serve next. -/
def Mach.nextSlot (m : Mach) (now : Nat) : Option Nat := m.nextOf now (fun p => p.2.isReady now)
/-- READY slots served while there are any, and among them by their priority the BLOCKED ones in `tries`, each tried once: one whose
condition holds is READY (17 R337). -/
def Mach.serveSlots (m : Mach) (now : Nat) (tries : List Nat) : Nat → Mach
  | 0 => m
  | n + 1 =>
    match m.nextOf now (fun p => p.2.isReady now || (p.2.st == 2 && tries.contains p.1)) with
    | none => m
    | some i => (m.startEntry now i none).serveSlots now (tries.erase i) n
/-- The queues of the live contexts that are to be mapped, by priority and then descriptor index (17 R337). -/
def Mach.toMap (m : Mach) : List (Nat × Nat × List Byte) :=
  let qs := (m.ctxs.filter (fun x => x.2.live && !x.2.ended)).flatMap (fun x =>
    ((List.range (bits (x.2.reg 0x07D) 0 13).toNat).filterMap (fun q => (m.desc x.1 q).map (fun d => (x.1, q, d)))).filter (fun t =>
      let b := field t.2.2 10 1
      b % 2 == 1 && b / 4 % 2 == 0 && !m.dev.slots.any (fun p => p.2.ctx == t.1 && p.2.q == t.2.1)
        && (b / 2 % 2 == 1 || field t.2.2 12 4 != field t.2.2 16 4)))
  let qs := qs.insertionSort (fun a b => a.2.1 ≤ b.2.1)
  (List.range 8).reverse.flatMap (fun p => qs.filter (fun t => field t.2.2 9 1 % 8 == p))
/-- A queue unmapped: its final indices are written, with PEND where they differ (17 R337, R338). -/
def Mach.unmap (m : Mach) (i : Nat) (s : QSlot) : Mach :=
  let b := (m.desc s.ctx s.q).elim 0 (fun d => field d 10 1)
  ((m.putDesc s.ctx s.q 12 (leBytes 4 s.rd ++ leBytes 4 s.wr)).putDesc s.ctx s.q 10 (leBytes 1 (if s.rd = s.wr then b else b ||| 2))).dropSlot i
/-- A slot for a queue: a free one, else the one that has been EMPTY longest (17 R337). -/
def Mach.takeSlot (m : Mach) : Option (Nat × Mach) :=
  match (List.range 64).find? (fun i => (m.slot? i).isNone) with
  | some i => some (i, m)
  | none =>
    let es := m.dev.slots.filter (fun p => p.2.st == 0)
    (es.find? (fun p => es.all (fun q => decide (p.2.since ≤ q.2.since)))).map (fun p => (p.1, m.unmap p.1 p.2))
/-- One queue mapped, if a slot can be had. -/
def Mach.mapQueue (m : Mach) (now : Nat) (t : Nat × Nat × List Byte) : Mach :=
  match m.takeSlot with
  | none => m
  | some (i, m) =>
    let b := field t.2.2 10 1
    let rd := field t.2.2 12 4
    let wr := field t.2.2 16 4
    (m.putDesc t.1 t.2.1 10 (leBytes 1 (b - b / 2 % 2 * 2))).putSlot i
      { ctx := t.1, q := t.2.1, st := if rd = wr then 0 else 1, rd := rd, wr := wr, prio := field t.2.2 9 1 % 8, since := now, ready := now }
/-- A pass of the queue scheduler: queues are mapped, then READY slots served and BLOCKED ones tried, in order of priority (17 R337). -/
def Mach.queuePass (m : Mach) (now : Nat) : Mach :=
  let m := m.modDev (fun d => { d with passNo := d.passNo + 1 })
  let m := m.toMap.foldl (fun m t => m.mapQueue now t) m
  let m := m.serveSlots now ((m.dev.slots.filter (fun p => p.2.st == 2)).map (·.1)) 128
  if m.dev.slots.any (fun p => p.2.st == 1) then m.kick now else m
/-- A slot with a new write index: EMPTY where that is RD, and READY where it was EMPTY and that is not (17 R337, R338). -/
def QSlot.take (s : QSlot) (now idx : Nat) : QSlot :=
  if s.st = 3 then { s with wr := idx }
  else if s.rd = idx then { s with wr := idx, st := 0, since := if s.st = 0 then s.since else now }
  else if s.st = 0 then { s with wr := idx, st := 1, since := now, ready := now }
  else { s with wr := idx }
/-- A NOTIFY performed: the slot of a mapped queue takes the index, and starts at once; else the descriptor takes it with
PEND (17 R338). -/
def Mach.notify (m : Mach) (now k q idx : Nat) : Mach :=
  if (bits ((m.ctx k).reg 0x07D) 0 13).toNat ≤ q then m.modDev (fun d => { d with dropped := d.dropped + 1 })
  else match m.dev.slots.find? (fun p => p.2.ctx == k && p.2.q == q) with
    | some (i, s) => (m.putSlot i (s.take now idx)).serveSlots now [] 64
    | none =>
      match m.desc k q with
      | none => m
      | some d => ((m.putDesc k q 16 (leBytes 4 idx)).putDesc k q 10 (leBytes 1 (field d 10 1 ||| 2))).kick now

/-! ## EXIT and the end of a launch -/

/-- LAUNCH_COMPLETE: no iteration is left and every thread has performed EXIT: the event is signalled and the status written
(17 R334, R339). -/
def execLaunchComplete (l : Nat) (s : State) : Out :=
  .next (runEvent s (fun now m =>
    match m.launch? l with
    | none => m
    | some x =>
      if x.left || x.running != 0 then m
      else
        let m := m.modDev (fun d => { d with launches := d.launches.filter (fun y => y.id != l) })
        match x.slot.bind (fun i => (m.slot? i).map (fun q => (i, q))) with
        | none => match m.signal x.ctx x.event 1 with | .ok m' => m' | .error _ => m
        | some (i, q) => m.signalDone now i q x.event 1 x.status x.dealt))
/-- Has a hand's thread anything in flight for which EXIT waits (17 R334, R327)? -/
def Mach.threadOpen (m : Mach) (r : Nat) : Bool :=
  let h := m.hand r
  !h.results.isEmpty || !h.copiesOpen.isEmpty || !(m.collsOf r).isEmpty || !h.ttAdds.isEmpty || m.disps.any (fun d => d.hand == r)
    || !h.ttWait.isEmpty || (m.ctx h.ctx).moves.any (fun v => v.hand == r && v.tid == h.tid && !v.isRing && decide (v.state ≤ 2))
    || !(m.cmdsOf r).isEmpty || !m.pbQuiet r
    || m.agenda.any (fun p => match p.2 with | .shapeVariableWrite q _ _ _ => q == r | _ => false)
/-- The thread of a hand is gone: its pool and core are free, and from 8 c on the core can be dealt to (17 R331, R334). -/
def Hand.quit (h : Hand) (now : Nat) : Hand :=
  { h with thread := false, launch := 0, v := [], pool := 2048, freed := 0, freeAt := now + 8, blocked := none, stage := 0 }
/-- What EXIT does once nothing is in flight (17 R334, R422). -/
def Mach.exitThread (m : Mach) (now r : Nat) : Mach :=
  let h := m.hand r
  let m := (m.endRunOf r).modHand r (fun h => h.quit now)
  let m := match m.launch? h.launch with
    | none => m
    | some l => (m.putLaunch { l with running := l.running - 1 }).post now (.launchComplete l.id)
  let m := m.post (now + 7) (.dealIteration (dieOf (clusterOf r)))
  let m := if (m.hand (otherHand r)).thread then m.postSwitch now (coreOf r) else m
  (m.testBarriers now h.ctx).examineAll now
/-- EXIT (17 R334): frozen with code 12 until nothing of the thread is in flight; its SACC pairs are evicted first, and as a
release at package scope it waits for the thread's accesses. -/
def execExit (w : Z) (s : State) : Out :=
  .next (runRv s (.exit w) (fun x m =>
    { own := firstStop [freezeIf (m.threadOpen x.r) 12,
        (if !m.saccOpen x.r then none
         else if (m.cluster (clusterOf x.r)).saccFl.any (fun f => f.hand == x.r) then some (.freeze 12 0) else some (.start 12)),
        freezeIf (m.writesOpen x.r m.nextId) 12]
      wait := fun m' => m'.saccFlush x.now x.r
      eff := fun m' => m'.exitThread x.now x.r }))

end Sys2Proof.Machine
end

