-- ==== Sys2Proof/Machine/Context.lean ====
section
/-! DEFINITION. Pre-emption and contexts (19 R371 to R376, 17 R340, R341, R422): TLBI, HSWAP, CTXSV and CTXLD with the gang
image, the change of the active hand, and the kill of a context. -/

namespace Sys2Proof.Machine

/-! ## TLBI -/

/-- The clusters whose translation caches a TLBI of a hand reaches (19 R371). -/
def Mach.tlbiClusters (m : Mach) (r form : Nat) : List Nat := if form = 2 then List.range 72 else m.partClusters (m.partOf r)
/-- The translations that a TLBI removes, removed. -/
def Mach.tlbiDrop (m : Mach) (r form : Nat) (va : W64) : Mach :=
  let k := (m.hand r).ctx
  let gone := fun (e : TcEntry) => form == 2 || (e.ctx == k && (form == 0 || va.toNat % 2 ^ 48 / 2 ^ e.logSize == e.vpage))
  (m.tlbiClusters r form).foldl (fun m c => m.modCluster c (fun x => { x with tc := x.tc.filter (fun e => !gone e) })) m
/-- TLBI (19 R371): X's next word waits for the nominal 48 vc; the token comes with the completion. -/
def execTlbi (w : SSS) (s : State) : Out :=
  .next (runWord s .x (.tlbi w) w.hdr (fun x m =>
    let form := (bits w.imm 0 2).toNat
    let push := pushFifo x.e w.hdr.push
    { ring := if form = 2 then 2 else 1
      own := if form = 1 then (m.hand x.r).needS w.a.toNat else none
      eff := fun m' =>
        let va := (m.hand x.r).sreg w.a.toNat
        let id := m'.nextId
        (((m'.tlbiDrop x.r form va).modHand x.r (fun h =>
          ({ h with tlbi := some ⟨id, form, va, push⟩ }.reserveTok push).modEngine .x (fun e => { e with notBefore := h.vclk + 48 }))).bump).post
          (x.now + 48) (.tlbiComplete x.r id) }))
/-- TLBI_COMPLETE: the walks that had started before it have ended, and what they found is gone (19 R371). -/
def execTlbiComplete (r id : Nat) (s : State) : Out :=
  .next (runEvent s (fun now m =>
    match (m.hand r).tlbi with
    | none => m
    | some t =>
      if t.id != id then m
      else if (m.tlbiClusters r t.form).any (fun c => (m.cluster c).walks.any (fun w => w.failed.isNone && decide (w.id < id))) then
        m.post (now + 1) (.tlbiComplete r id)
      else (m.tlbiDrop r t.form t.va).modHand r (fun h => { h with tlbi := none }.enterTok now t.push)))

/-! ## The drain (19 R372) -/

/-- A hand stops issuing: its waits are taken back, copies and p-bit commands stop, the lease run ends, unstarted array commands are saved,
and its SACC pairs are evicted (19 R372, 06 R135, 11 R235, 17 R342). -/
def Mach.beginDrain (m : Mach) (now r : Nat) : Mach :=
  let h := m.hand r
  let rem := if h.askLease then h.savedRem else if m.holds r then (m.lease r).rem else 0
  let cs := (m.cmdsOf r).filter (fun c => !c.started)
  let m := ((m.withdraw now r).endRunOf r).modLease (clusterOf r) (fun l => l.unwait (reqOf r))
  let m := m.modCluster (clusterOf r) (fun x => { x with cmds := x.cmds.filter (fun c => !(c.hand == r && !c.started)) })
  let m := { m with agenda := m.agenda.filter (fun p => !cs.any (fun c => p.2 == c.startEvent)) }
  let m := m.modHand r (fun h => { h.stopCopies now with draining := true, stage := 0, blocked := none, savedRem := rem, cmdSaved := h.cmdSaved ++ cs, askLease := false })
  let m := if m.saccOpen r then (m.askFlush now r m.nextId).bump else m
  (m.stopPbits now r).armCmds now (clusterOf r)
/-- The results that a saved command will land. -/
def Hand.savedResults (h : Hand) : List Nat :=
  (h.cmdSaved.map (·.res)) ++ h.pbSaved.filterMap (fun c => match c.op with | .rd _ _ res => some res | _ => none)
/-- Does a command stopped for pre-emption stand before a number: a copy, or an ACMST that is saved? -/
def Hand.stoppedBefore (h : Hand) (snap : Nat) : Bool :=
  h.copies.any (fun c => c.state == 2 && decide (c.id < snap)) || h.cmdSaved.any (fun c => c.op == .acmst && decide (c.id < snap))
/-- The releasing FINCs of a hand that wait behind such commands, and are saved with them, with their numbers (17 R325, log 132). -/
def Mach.stoppedFincs (m : Mach) (r : Nat) : List (Nat × Instr) :=
  m.agenda.filterMap (fun p => match p.2 with
    | .remoteFincArrival _ _ _ _ _ who snap _ => if who == r && (m.hand r).stoppedBefore snap then some (snap, p.2) else none
    | _ => none)
/-- Is nothing of a draining hand left (06 R135, 05 R108, 13 R264)? -/
def Mach.quiet (m : Mach) (r : Nat) : Bool :=
  let h := m.hand r
  let fincs := m.stoppedFincs r
  h.accs.isEmpty && h.results.all (fun x => h.savedResults.contains x.id || fincs.any (fun f => f.1 == x.id)) && h.copiesQuiet && !m.saccOpen r && m.pbQuiet r && (m.cmdsOf r).isEmpty
    && !m.disps.any (fun d => d.hand == r) && h.tlbi.isNone
    && !m.dev.peerOps.any (fun p => p.hand == r && p.coll == 0)
    && !m.agenda.any (fun p => match p.2 with
      | .remoteFincArrival _ _ _ _ _ who snap _ => who == r && !h.stoppedBefore snap
      | .shapeVariableWrite q _ _ _ => q == r
      | _ => false)
/-- A drained hand is set aside. -/
def Mach.setAside (m : Mach) (now r : Nat) : Mach :=
  (m.modHand r (fun h => { h.modEngines (fun e => { e with latch := none }) with draining := false, aside := true })).suspendBoost now r

/-! ## Resumption -/

/-- Where a saved command stands among those of a cluster when it is accepted again (11 R228, R235): before the younger ones that were
accepted again, of whatever hand, and a WLD before the MMAs that rely on it; else last. -/
def reinsert (s : Cmd) (l : List Cmd) : List Cmd :=
  let i := l.findIdx (fun d => !d.started && ((d.again && decide (s.acc < d.acc)) || (s.op == .wld && d.isMma && d.wldAcc == s.acc)))
  l.take i ++ s :: l.drop i
/-- A saved command accepted again under its old numbers (11 R235). -/
def Mach.reaccept (m : Mach) (now r : Nat) (c : Cmd) : Mach :=
  let cl := clusterOf r
  let m := (List.range 4).foldl (fun m b => if c.need.testBit b then m.needBand now cl b else m) m
  let m := m.modCluster cl (fun x => { x with cmds := reinsert { c with hand := r, armed := false, again := true } x.cmds })
  if c.leased then m.modLease cl (fun l => if l.rem ≤ 1 then l.endRun else { l with rem := l.rem - 1 }) else m
/-- The saved commands of a hand accepted in their old order; one that needs a band that is FORCED by now is discarded with those behind
it (11 R235). -/
def Mach.reacceptAll (m : Mach) (now r : Nat) : Mach :=
  let c := clusterOf r
  let cs := (m.hand r).cmdSaved
  let m := m.modHand r (fun h => { h with cmdSaved := [], savedRem := 0, askLease := false })
  let m := cs.foldr (fun c m => m.reaccept now r c) m
  ((List.range 4).foldl (fun m b => if ((m.cluster c).band b).st == .forced then m.forceBand now c b else m) m).armCmds now c
/-- The run a resumed hand asks for: what rem was and its saved leased commands, at most 64 (11 R235). -/
def Hand.leaseWant (h : Hand) : Nat := min 64 (h.savedRem + (h.cmdSaved.filter (·.leased)).length)
/-- A hand becomes the active one of its core: a pre-empted thread goes on from its cut (19 R374, 05 R108, 16 R315, 20 R388,
11 R235). -/
def Mach.activate (m : Mach) (now r : Nat) : Mach :=
  let h := m.hand r
  let m := { m with active := m.active.set (coreOf r) (r % 2) }
  if !h.aside then m.modHand r (fun h => { h with vclk := max 1 h.vclk })
  else
    let m := (((m.modHand r (fun h => { h with aside := false, blocked := none, frzRun := 0, holdTill := now })).resumeCopies now r).resumePbits now r).resumeBoost now r
    if h.leaseWant = 0 then m.reacceptAll now r
    else
      ((m.modHand r (fun h => { h with askLease := true })).modLease (clusterOf r) (fun l =>
        { l with st := l.st.set (reqOf r) 1, want := l.want.set (reqOf r) h.leaseWant })).post now (.leaseGrant (clusterOf r))
/-- AUTO_HAND_SWITCH: the active hand of a core holds no thread and the other holds one (17 R422). -/
def execAutoHandSwitch (core : Nat) (s : State) : Out :=
  .next (runEvent s (fun now m =>
    let a := m.activeHand core
    let o := otherHand a
    if (m.hand a).thread || !(m.hand o).thread || m.swaps.any (fun p => p.2.hand / 2 == core || p.2.team.any (fun q => q / 2 == core)) then m
    else if now < m.switchAt core then m.postSwitch now core
    else (m.activate now o).post (now + 1) (.handSwapActivate core)))

/-! ## Kill (17 R341 and each chapter's rule) -/

/-- Addresses of the hands of a team: core k of its cluster. -/
def teamHands (t : Nat) : List Nat := (List.range 4).map (fun k => 8 * (t / 2) + 2 * k + t % 2)

/-- One hand of a killed context emptied: what had not landed is discarded, issued stores are still performed (06 R135); an image that a
command was to read is not (04 R87, 14 R283). -/
def Mach.killHand (m : Mach) (now r : Nat) : Mach :=
  let m := ((m.killCopies now r).endBoost now r 7).modLease (clusterOf r) (fun l => l.forget (reqOf r))
  m.modHand r (fun h =>
    let h := h.results.foldl (fun (h : Hand) x => h.dropResult x.id) h
    { h.modEngines (fun _ => {}) with
      ctx := 0, thread := false, launch := 0, tid := 0, v := [], pool := 2048, freed := 0, fifos := [], pending := [], lost := 0, frzRun := 0,
      blocked := none, stage := 0, barTill := 0, aside := false, draining := false, coWait := false, askLease := false, savedRem := 0,
      cmdSaved := [], pbSaved := [], copies := [], accs := h.accs.filter (fun a => match a.op with | .img _ => !a.isLoad | _ => true),
      aligns := [], live := [], injected := [], accHold := 0, alignAt := 0, relAt := 0, disps := 0, ttAdds := [], ttWait := [], tlbi := none, ring := 0, busy := 0, freeAt := now + 8 })
/-- What a cluster holds of a killed context goes (06 R135, 11 R235, 12 R249, 13 R264, 14 R283). -/
def Mach.killCluster (m : Mach) (now k c : Nat) : Mach :=
  let m := (m.saccKill c k).dropCmds c (fun d => d.ctx == k)
  (m.modCluster c (fun x => { x with
    wbuf := x.wbuf.filter (fun p => p.2.ctx != k), banks := x.banks.filter (fun p => !(p.2.used && p.2.ctx == k)),
    spt := x.spt.filter (fun p => !(p.2.open_ && p.2.ctx == k)), emap := x.emap.filter (fun p => p.1 != k),
    emapUpds := x.emapUpds.filter (fun u => u.ctx != k), sptcnt := x.sptcnt.filter (fun p => p.1 / 4 != k) })).armCmds now c
/-- The copies of teams saved in images end with status 5 (05 R109): all they had emitted has landed. Their suspended leases are revoked (20
R388). -/
def Mach.killSaved (m : Mach) (now k : Nat) : Mach :=
  let leases := (m.ctx k).images.flatMap (fun st => (List.zip (teamHands st.team) st.hands).filter (fun p => p.2.boostSt == 3))
  let m := leases.foldl (fun m p => m.leaseEvent now p.1 7 p.2.boostLvl 0 0) m
  ((m.ctx k).images.flatMap (fun st => st.hands.flatMap (fun h => h.copies.filter (fun c => c.state != 3)))).foldl (fun m c =>
    match m.copyStatus now c 5 with | .ok m' => m' | .error _ => m) m
/-- CONTEXT_KILL (17 R341, R342): every hand, cluster and die, its launches and queues; no event is signalled. Frames that have not been
sent are discarded (13 R264). -/
def Mach.killContext (m : Mach) (now k : Nat) : Mach :=
  let rs := m.hands.keys.filter (fun r => (m.hand r).ctx == k)
  let m := (rs.foldl (fun m r => m.withdraw now r) ((m.killColls now k).killSaved now k)).killMoves now k
  let m := m.modCtx k (fun x => { x with live := false, ended := true, barriers := [], flagWaits := [], agent := [], images := [], kept := [], out := [] })
  let m := { m with disps := m.disps.filter (fun d => d.ctx != k), frames := m.frames.filter (fun f => f.ctx != k || decide (f.sendT ≤ now)),
                    swaps := m.swaps.filter (fun p => !rs.contains p.2.hand),
                    agenda := m.agenda.filter (fun p => match p.2 with | .remoteFincArrival c _ _ _ _ _ _ _ => c != k | _ => true) }
  let m := m.modDev (fun d => { d with launches := d.launches.filter (fun l => l.ctx != k), slots := d.slots.filter (fun p => p.2.ctx != k) })
  let m := (List.range 4).foldl (fun m d => m.killPbits now d k) m
  let m := rs.foldl (fun m r => m.killHand now r) m
  let m := (List.range 72).foldl (fun m c => m.killCluster now k c) m
  let m := rs.foldl (fun m r => m.postSwitch now (coreOf r)) (m.examineAll now)
  let m := (List.range 72).foldl (fun m c => if (m.cluster c).heldFrames.isEmpty then m else m.post (now + 1) (.heldFrameResume c k)) m
  (m.testBarriers now k).kick now
/-- Does an event of the agenda name a context? -/
def namesCtx (k : Nat) : Instr → Bool
  | .remoteFincArrival c _ _ _ _ _ _ _ => c == k
  | .flagWaitServed c _ _ => c == k
  | .barrierComplete c lvl _ => c == k && lvl % 4 != 3
  | .ttRingReadReturn c _ => c == k
  | .ttEntryStart c _ => c == k
  | _ => false
/-- Has everything that a killed context had sent been filed, and have its started moves and emitted copy units come to their ends (13
R264, 04 R87, 05 R104)? -/
def Mach.gone (m : Mach) (k : Nat) : Bool :=
  !m.frames.any (fun f => f.ctx == k) && !(m.ctx k).moves.any (fun v => v.state == 2) && !m.hands.any (fun p => p.2.deadCopies.any (fun c => c.ctx == k))
/-- The number of a killed context becomes free (17 R341). -/
def Mach.freeNumber (m : Mach) (k : Nat) : Mach :=
  let m := (List.range 72).foldl (fun m c => m.modCluster c (fun x => { x with text := x.text.filter (fun p => p.1 != k), dctl := x.dctl.filter (fun p => p.1 != k) })) m
  { m with ctxs := m.ctxs.filter (fun p => p.1 != k), agenda := m.agenda.filter (fun p => !namesCtx k p.2) }

/-! ## The gang image (19 R376) -/

/-- LSTAT (11 R225). -/
def Mach.lstat (m : Mach) (r : Nat) : W64 :=
  let l := m.lease r
  let st := l.of (reqOf r)
  slotN ((st == 1).toNat * 2 ^ 16 + (st == 2).toNat * 2 ^ 15 + (if st = 2 then l.rem * 2 ^ 8 else 0) + l.holder.getD 0)
/-- WBST (11 R225): the state of the 16 slots of a hand's cluster as context `k` sees them. -/
def Mach.wbst (m : Mach) (k r : Nat) : W64 :=
  slotN ((List.range 16).foldl (fun a s =>
    let v := KMap.get {} (m.cluster (clusterOf r)).wbuf s
    a + (if v.st = 0 then 0 else if v.ctx != k then 3 else v.st) * 4 ^ s) 0)
/-- The per-hand control registers that are held raw. -/
def handCregs : List Nat :=
  (List.range 8).map (4 + ·) ++ [0x00E, 0x010, 0x011, 0x012, 0x013, 0x014, 0x021, 0x022, 0x023, 0x030, 0x032]
    ++ (List.range 8).map (0x038 + ·) ++ [0x040, 0x042, 0x043, 0x047, 0x048, 0x049, 0x04A, 0x064, 0x070, 0x07A, 0x0A8, 0x0AF]
/-- The per-context control registers that are held raw. -/
def ctxCregs : List Nat :=
  [0x050, 0x051, 0x052, 0x053, 0x054, 0x060, 0x061, 0x062, 0x063, 0x07B, 0x07C, 0x07D, 0x0A1, 0x100, 0x101, 0x108, 0x109, 0x10C, 0x110, 0x111]
/-- Depths of the return stacks as RSD gives them (09 R187). -/
def Hand.rsd (h : Hand) : Nat := h.ea.stack.length + 64 * h.ex.stack.length + 4096 * h.em.stack.length
/-- The 16 bytes of an unstarted command in an image (log 16). -/
def Cmd.image (c : Cmd) : List Byte :=
  let op := match c.op with
    | .mshape => 0 | .mmode => 1 | .wld => 2 | .wdrop => 3 | .mma => 4 | .mmat => 5 | .acmfr => 6 | .acmz => 7 | .acmad => 8 | .acmst => 9 | .rslv => 10
  leBytes 4 c.seq ++ leBytes 1 op ++ leBytes 1 c.slot ++ leBytes 2 c.count ++ leBytes 4 c.handle.toNat ++ leBytes 2 c.row0 ++ leBytes 2 c.flags
/-- The 16 bytes of an unstarted p-bit command in an image (log 16): operation, token target, argument, sweeps left, and the first 8 bytes
of its stream, entry or seed. -/
def PbCmd.image (c : PbCmd) : List Byte :=
  let f := fun (op arg left d : Nat) => leBytes 1 op ++ leBytes 1 c.push ++ leBytes 2 arg ++ leBytes 4 left ++ leBytes 8 d
  match c.op with
  | .ld st b0 nb => f 0 (b0 % 256 + 256 * (nb % 256)) 0 (st.toNat % 2 ^ 64)
  | .clr => f 1 0 0 0
  | .clmp v => f 2 0 0 (v.toNat % 2 ^ 64)
  | .swp b n => f 3 b (if c.left = 0 then n else c.left) 0
  | .rd cnt k _ => f 4 (k + 256 * cnt.toNat) 0 0
  | .seed ent v => f 5 ent.toNat 0 v.toNat
/-- The occupied pool entries of a hand in directory order: register, place, entry. -/
def Hand.poolList (h : Hand) : List (Nat × Nat × Entry) :=
  h.v.flatMap (fun p => p.2.zipIdx.map (fun s => (p.1, s.2, s.1.val)))
/-- DMEM (17 R317): the context's fabric fields, the thread's own, and the phase of its domain. -/
def Mach.dmemOf (m : Mach) (k r : Nat) : W64 :=
  ((m.ctx k).reg 0x07A &&& 0xFFFFFFFF00000000) ||| ((m.hand r).creg 0x07A &&& 0xFFFFFFF7) ||| (ofBool 64 (m.phase r) <<< 3)
/-- The pieces of a thread area of context `k`: offset and bytes (19 R376). -/
def Mach.threadArea (m : Mach) (now k r : Nat) : List (Nat × List Byte) :=
  let h := m.hand r
  let x := m.ctx k
  let here := h.thread && h.ctx == k
  let who := [(3488, leBytes 4 (k + 65536 * here.toNat + 131072 * (r % 2)))]
  if !here then who
  else
    let pl := h.poolList
    let stack := fun (e : EngineState) => (e.stack.reverse ++ List.replicate 32 (0 : W64)).take 32 |>.flatMap (fun a => leBytes 8 a.toNat)
    let outs := fun (e : EngineState) => leBytes 8 (e.outq.zipIdx.foldl (fun a b => a + b.1.toNat * 2 ^ b.2) 0) ++ leBytes 8 e.outq.length
    let cregs := (handCregs.map (fun n => (n, h.creg n))) ++ [(0, h.crValue), (0x00C, KMap.get 0 h.tcause h.ring), (0x020, slotN h.vclk), (0x024, slotN h.frzc),
        (0x026, slotN h.rsd), (0x031, h.xflags.zeroExtend 64), (0x10F, slotN (x.mkOf r)), (0x041, m.lstat r), (0x044, slotN (m.astrt r)),
        (0x045, slotN (m.adone r)), (0x046, m.wbst k r), (0x07A, m.dmemOf k r), (0x0A3, h.boostst now)]
      ++ [(0x001, KMap.get tringReset x.cr 1), (0x10A, slotN x.ttwr), (0x10B, slotN x.ttrd), (0x10D, slotN x.ttmiss), (0x10E, slotN x.ttlate)]
      ++ ctxCregs.map (fun n => (n, x.reg n)) ++ (List.range 32).map (fun i => (0x080 + i, (KMap.get 0 x.sv i).signExtend 64))
    who ++
    [ (0, m.recordBytes now r { f := ⟨0x1D, 0, []⟩, recorded := true, pcs := m.cutPcs r } h.ring h.ring (h.busy != 0)),
      (1024, (List.range 64).flatMap (fun n => leBytes 8 (KMap.get 0 h.s n).toNat)), (1536, (List.range 32).flatMap (fun n => leBytes 8 (KMap.get 0 h.a n).toNat)),
      (1792, (List.range 16).flatMap (fun n => leBytes 16 (h.preg n).toNat)), (2048, (List.range 16).flatMap (fun n => leBytes 32 (h.streg n).toNat)),
      (2560, (List.range 16).flatMap (fun n => leBytes 4 (h.hreg n).toNat)), (2624, stack h.ea ++ stack h.ex ++ stack h.em),
      (3392, (List.range 6).flatMap (fun i => leBytes 4 (h.fifo (i + 1)).count ++ leBytes 4 (h.fifo (i + 1)).pend)),
      (3440, outs h.ea ++ outs h.ex ++ outs h.em), (4096, (List.range 8).flatMap (fun i => (h.copies[i]?).elim (leBytes 128 0) (·.desc))),
      (5120, (h.cmdSaved.take 8).flatMap Cmd.image), (5248, ((m.threadColls r).take 4).flatMap (·.block)),
      (5760, (h.pbSaved.take 4).flatMap PbCmd.image), (5824, leBytes 8 h.boostLeft),
      (16384, (List.range 1536).flatMap (fun q =>
        let ix := (List.range pl.length).filter (fun i => (pl.getD i (0, 0, 0)).1 == q)
        leBytes 8 (ix.length + ix.zipIdx.foldl (fun a j => a + j.1 * 2 ^ (3 + 12 * j.2)) 0))) ]
    ++ cregs.map (fun p => (8192 + 8 * p.1, leBytes 8 p.2.toNat))
    ++ pl.zipIdx.map (fun e => (32768 + 128 * e.2, leBytes 128 e.1.2.2.toNat))
/-- Pieces written at an image address with ring-1 permissions; each was found writable before the drain. -/
def Mach.writePieces (m : Mach) (k : Nat) (a : W64) (ps : List (Nat × List Byte)) : Mach :=
  ps.foldl (fun m p => match m.writeAt k (a + slotN p.1) p.2 false with | .ok m' => m' | .error _ => m) m
/-- The pages of a gang image (19 R376). -/
def imagePages (a : W64) : List W64 := (List.range 19).map (fun i => a + slotN (65536 * i))
/-- The rows in error among those of a gang image (19 R379). -/
def Mach.imageErrors (m : Mach) (k : Nat) (a : W64) : List Nat :=
  (imagePages a).zipIdx.flatMap (fun p => match m.resolve k p.1 1 false false with
    | .error _ => []
    | .ok b => if m.cxlDown b then [b] else
        (m.dev.errors.map (·.1)).filter (fun e => decide (b ≤ e && e < b + min 65536 (1183744 - 65536 * p.2))))
/-- A hand emptied by the save of its thread; collectives run on (19 R372, 15 R302). -/
def Hand.vacate (h : Hand) (now : Nat) : Hand :=
  { h.modEngines (fun _ => {}) with
    ctx := 0, thread := false, launch := 0, tid := 0, v := [], pool := 2048, freed := 0, fifos := [], results := [], pending := [], lost := 0, copies := [],
    cmdSaved := [], pbSaved := [], savedRem := 0, ttAdds := [], aside := false, coWait := false, askLease := false, barTill := 0, accHold := 0,
    aligns := [], live := [], injected := [], boostAgain := false,
    alignAt := 0, relAt := 0, boostSt := 0, boostLvl := 0, boostEnd := 0, boostLeft := 0, ring := 0, busy := 0, freeAt := now + 8 }
/-- Bytes of an image read at an address of a context's space. -/
def Mach.imageBytes (m : Mach) (k : Nat) (a : W64) (off n : Nat) : List Byte :=
  match m.readAt k (a + slotN off) n false with | .ok bs => bs | .error _ => List.replicate n 0
/-- The bytes by which an image is known wherever software copies it (log 16): of each core the time of its cut, the word that names the
context, and DMEM. -/
def Mach.stampOf (m : Mach) (k : Nat) (a : W64) : List Byte :=
  (List.range 4).flatMap (fun j => let o := 294912 * j
    m.imageBytes k a o 8 ++ m.imageBytes k a (o + 3488) 4 ++ m.imageBytes k a (o + 8192 + 8 * 0x07A) 8)
/-- A drained team of context `k` saved at an address of its space, and registered with the context agent (19 R376); its requesters are
forgotten (11 R222). -/
def Mach.saveTeam (m : Mach) (now k t : Nat) (a : W64) : Mach :=
  let rs := teamHands t
  let mine := rs.filter (fun r => (m.hand r).ctx == k)
  let x := m.ctx k
  let m := rs.zipIdx.foldl (fun m q => m.writePieces k (a + slotN (294912 * q.2)) (m.threadArea now k q.1)) m
  let m := m.writePieces k a [(1179648, (List.range 64).flatMap (fun f => leBytes 4 (x.flag t f).toNat)), (1179904, leBytes 3840 1)]
  let hs := rs.map (fun r => if mine.contains r then m.hand r else {})
  let fincs := (mine.flatMap m.stoppedFincs).map (·.2)
  let st : SavedTeam := { at_ := a, stamp := m.stampOf k a, team := t, hands := hs, fincs := fincs }
  let m := { m with agenda := m.agenda.filter (fun p => !fincs.contains p.2) }
  let m := m.modCtx k (fun y => { y with saved := true, agent := (t, a) :: y.agent.filter (fun p => p.1 != t),
                                         images := st :: y.images.filter (fun i => i.team != t),
                                         out := y.out ++ mine.filter (fun r => (m.hand r).thread) })
  mine.foldl (fun m r => (m.modHand r (fun h => h.vacate now)).modLease (clusterOf r) (fun l => l.forget (reqOf r))) m

/-- The saved team that an image at an address of context `ke`'s space holds, by what its bytes say: the context named there, if it is one
with a team switched out, and what was kept of the team that the stamp tells. An image changed beyond its stamp is taken as it reads, for
the team of its first thread (log 16). -/
def Mach.imageAt (m : Mach) (ke : Nat) (a : W64) : Option (Nat × SavedTeam) :=
  let k := field (m.imageBytes ke a 3488 4) 0 2
  let x := m.ctx k
  if !x.live || x.agent.isEmpty then none
  else
    let stamp := m.stampOf ke a
    match x.images.find? (fun st => st.stamp == stamp) with
    | some st => some (k, st)
    | none =>
      let ts := (List.range 4).filterMap (fun j => let o := 294912 * j
        let w := field (m.imageBytes ke a (o + 3488) 4) 0 4
        if w / 65536 % 2 = 0 then none else some (2 * field (m.imageBytes ke a (o + 8192 + 8 * 0x07A) 8) 1 1 + w / 131072 % 2))
      match ts.find? (fun t => x.agent.any (fun p => p.1 == t)) with
      | some t => some (k, { at_ := a, team := t, hands := [] })
      | none => none
/-- An engine as a thread area gives it: PC, ISEQ, last vc, word counter, return stack, outcome queue (19 R366, R376). -/
def engineOf (bs : List Byte) (i : Nat) (old : EngineState) : EngineState :=
  let depth := min 32 (nbits (field bs (8192 + 8 * 0x026) 8) (6 * i) 6)
  { old with pc := BitVec.ofNat 64 (field bs (24 + 8 * i) 8), iseq := field bs (48 + 4 * i) 4, lastVc := field bs (72 + 8 * i) 8,
             words := field bs (120 + 2 * i) 2, arrived := false, issued := false, latch := none,
             stack := ((List.range depth).map (fun j => BitVec.ofNat 64 (field bs (2624 + 256 * i + 8 * j) 8))).reverse,
             outq := (List.range (field bs (3448 + 16 * i) 8)).map (fun j => (field bs (3440 + 16 * i) 8).testBit j) }
/-- The queue registers of a thread area; places that a saved command reserved stay reserved. -/
def queuesOf (bs : List Byte) (pool : Nat → Entry) (old : Hand) : KMap (List Slot) :=
  (List.range 1536).filterMap (fun q =>
    let d := field bs (16384 + 8 * q) 8
    let n := min 4 (d % 8)
    if n = 0 then none
    else some (q, (List.range n).map (fun j =>
      let x : Option Slot := (old.queue q)[j]?
      match x with
      | some (Slot.reserved id) => Slot.reserved id
      | _ => Slot.landed (pool (nbits d (3 + 12 * j) 12)))))
/-- A thread loaded into hand `r` from its area: what the image holds comes from it, the rest from what was kept (log 16). -/
def Hand.loadThread (h old : Hand) (now r k tid : Nat) (bs : List Byte) (pool : Nat → Entry) : Hand :=
  let v := queuesOf bs pool old
  let cr := BitVec.ofNat 64 (field bs 8192 8)
  { old with
    ctx := k, thread := true, tid := if old.thread then old.tid else tid, aside := true, draining := false,
    s := (h.s.filter (fun p => decide (64 ≤ p.1))).foldl (fun s p => s.set p.1 p.2) (((List.range 64).filter (· != 0)).map (fun n => (n, BitVec.ofNat 64 (field bs (1024 + 8 * n) 8)))),
    a := (h.a.filter (fun p => decide (32 ≤ p.1))).foldl (fun s p => s.set p.1 p.2) (((List.range 32).filter (· != 0)).map (fun n => (n, BitVec.ofNat 64 (field bs (1536 + 8 * n) 8)))),
    p := (List.range 16).map (fun n => (n, BitVec.ofNat 128 (field bs (1792 + 16 * n) 16))),
    st := (List.range 16).map (fun n => (n, BitVec.ofNat 256 (field bs (2048 + 32 * n) 32))),
    h := (List.range 16).map (fun n => (n, BitVec.ofNat 32 (field bs (2560 + 4 * n) 4))),
    ea := engineOf bs 0 old.ea, ex := engineOf bs 1 old.ex, em := engineOf bs 2 old.em,
    fifos := (List.range 6).map (fun i => (i + 1, { old.fifo (i + 1) with count := field bs (3392 + 8 * i) 4, pend := field bs (3396 + 8 * i) 4, lastN := 0 })),
    v := v, pool := 2048 - (v.map (fun p => p.2.length)).sum, freed := 0, vclk := field bs 64 8, cpseq := field bs 108 4, clseq := field bs 112 4,
    ring := (bits cr 0 2).toNat, busy := bits cr 4 4, xflags := BitVec.ofNat 6 (field bs (8192 + 8 * 0x031) 8),
    tcause := h.tcause.set (bits cr 0 2).toNat (BitVec.ofNat 64 (field bs (8192 + 8 * 0x00C) 8)), peeks := h.peeks,
    cr := handCregs.foldl (fun c n => c.set n (BitVec.ofNat 64 (field bs (8192 + 8 * n) 8))) [],
    copies := old.copies.zipIdx.map (fun c => { c.1 with desc := (bs.drop (4096 + 128 * c.2)).take 128, crc := BitVec.ofNat 64 (field bs (280 + 32 * c.2) 8),
                                                         idx := (List.range 6).map (fun i => nbits (field bs (264 + 32 * c.2) 15) (20 * i) 20) }),
    cmdSaved := old.cmdSaved.map (fun c => { c with hand := r }),
    pbSaved := old.pbSaved.zipIdx.map (fun c => { c.1 with hand := r, left := if c.2 = 0 && c.1.left != 0 then field bs 116 4 else c.1.left }),
    accs := h.accs, deadCopies := h.deadCopies, colls := h.colls, freeAt := h.freeAt, dealtT := now, boostLeft := field bs 5824 8 }
/-- One thread area of an image loaded into hand `r` for context `k`: `q` the hand and `old` the thread that were saved (19 R376, 20
R388). A core without a thread holds the context. `acc` moves the acceptance numbers of saved commands behind those of another cluster. -/
def Mach.loadCore (m : Mach) (now ke k : Nat) (a : W64) (o q r acc : Nat) (old : Hand) : Mach :=
  let bs := m.imageBytes ke a o 28672
  let here := m.hand r
  if here.ctx != 0 then m
  else if field bs 3490 1 % 2 = 0 then m.modHand r (fun h => h.hold k)
  else
    let tid := m.nextId
    let old := { old with cmdSaved := old.cmdSaved.map (fun c => { c with acc := c.acc + acc, wldAcc := if c.wldAcc = 0 then 0 else c.wldAcc + acc }) }
    let m := m.modCluster (clusterOf r) (fun x => { x with accNo := old.cmdSaved.foldl (fun n c => max n c.acc) x.accNo })
    let m := (m.setHand r (here.loadThread old now r k tid bs
      (fun i => BitVec.ofNat 1024 (leNat (m.imageBytes ke a (o + 32768 + 128 * i) 128))))).bump
    let m := if old.boostSt = 3 && clusterOf q != clusterOf r then
        (m.modHand r (fun h => { h with boostSt := 0, boostLvl := 0, boostLeft := 0 })).leaseEvent now r 6 old.boostLvl 0 0 else m.askAgain now r
    m.modCtx k (fun x => { x with mkcur := (x.mkcur.filter (fun p => p.1 != q)).set r (field bs (8192 + 8 * 0x10F) 8),
                                  moves := x.moves.map (fun v => if old.thread && v.tid == old.tid then { v with hand := r } else v) })
/-- An image loaded into the hands `rs`, core by core: threads, flag file and MKCURs; its registration with the context agent
ends, and faults kept for the context are delivered (19 R376, 04 R74, 15 R288). `ke` is the context in whose space the address lies. -/
def Mach.loadTeam (m : Mach) (now r ke : Nat) (a : W64) (rs : List Nat) : Mach :=
  match m.imageAt ke a with
  | none => m
  | some (k, st) =>
    let t := teamOf (rs.headD 0)
    let flags := m.imageBytes ke a 1179648 256
    let acc := if teamOf (rs.headD 0) / 2 = st.team / 2 then 0 else (m.cluster (clusterOf (rs.headD 0))).accNo
    let bad := m.imageErrors ke a
    let to_ := List.zip (teamHands st.team) rs
    let m := to_.zipIdx.foldl (fun m q => m.loadCore now ke k a (294912 * q.2) q.1.1 q.1.2 acc (st.hands.getD q.2 {})) m
    let m := (m.countErrors (clusterOf r) bad).noteUE r bad
    let m := st.fincs.foldl (fun m f => match f with
      | .remoteFincArrival x hand c f v who snap iseq =>
        m.post (now + 1) (.remoteFincArrival x hand c f v (((to_.find? (fun p => p.1 == who)).map (·.2)).getD who) snap iseq)
      | _ => m) m
    let m := m.modCtx k (fun x =>
      let x := { x with agent := x.agent.filter (fun p => p.1 != st.team), images := x.images.filter (fun i => i.team != st.team),
                        out := x.out.filter (fun r => !(teamHands st.team).contains r) }
      (List.range 64).foldl (fun y f => y.setFlag t f (BitVec.ofNat 32 (field flags (4 * f) 4))) x)
    ((((m.deliverKept k).resumeAdds now k).examineAll now).kick now).post (now + 1) (.dealIteration (dieOf (clusterOf (rs.headD 0))))

/-! ## HSWAP, CTXSV, CTXLD -/

/-- The checks of an image address: alignment, mapping, and write permission where it is saved to (19 R375). -/
def Mach.areaStop (m : Mach) (r : Nat) (a : W64) (wr : Bool) : Option Stop :=
  if a = 0 then none
  else firstStop (trapIf (a.toNat % 65536 != 0) 6 0 [a] :: (imagePages a).map (fun p => m.xlStop r p 1 wr))
/-- Do two windows, in 64 KiB units, overlap? -/
def winOverlap (b1 n1 b2 n2 : Nat) : Bool := n1 != 0 && n2 != 0 && decide (b1 < b2 + n2) && decide (b2 < b1 + n1)
/-- Does a window of a context overlap that of another context (06 R113)? -/
def Mach.winMeets (m : Mach) (v : W64) (k2 : Nat) : Bool :=
  let w := (m.ctx k2).reg 0x110
  winOverlap (bits v 0 7).toNat (bits v 32 8).toNat (bits w 0 7).toNat (bits w 32 8).toNat
/-- Is a window refused beside the contexts in the other hands of some cores (06 R113)? -/
def Mach.winBad (m : Mach) (k : Nat) (v : W64) (others : List Nat) : Bool :=
  others.any (fun o => (m.hand o).ctx != 0 && (m.hand o).ctx != k && m.winMeets v (m.hand o).ctx)
/-- The hands of a partition that are the other ones beside the hands `rs` (06 R113). -/
def Mach.handsBeside (m : Mach) (p : Nat) (rs : List Nat) : List Nat :=
  m.hands.keys.filter (fun q => m.clPart (clusterOf q) == p && !rs.contains q && rs.any (fun r => r % 2 != q % 2))
/-- The checks of an image to be loaded into the hands `rs` (19 R375, 06 R113). -/
def Mach.loadStop (m : Mach) (r : Nat) (a : W64) (rs : List Nat) : Option Stop :=
  if a = 0 then none
  else match m.imageAt (m.hand r).ctx a with
    | none => trapOf 1 8
    | some (k, _) => trapIf (m.winBad k ((m.ctx k).reg 0x110) (m.handsBeside (m.partOf r) rs)) 9 4 [a, 0, 0]
/-- A change of hand begins at the core of `r`. -/
def Mach.beginSwap (m : Mach) (now r : Nat) (s : Swap) : Mach :=
  ({ m with swaps := m.swaps.set (coreOf r) s }).post (max (now + 1) s.at_) (.handSwapActivate (coreOf r))
/-- HSWAP (19 R374): the hand drains, and the other becomes active 24 c later. -/
def execHswap (w : Z) (s : State) : Out :=
  .next (runWord s .x (.hswap w) w.hdr (fun x m =>
    { (instantMeaning x w.hdr [trapIf ((m.hand (otherHand x.r)).ctx == 0) 1 8]
        (fun m' => (m'.beginDrain x.now x.r).beginSwap x.now x.r { hand := x.r })) with ring := 1 }))
/-- CTXSV (19 R375): the team drains and is saved, or with S[a] = 0 the context is killed; then the image at S[b] is loaded. -/
def execCtxsv (w : SSS) (s : State) : Out :=
  .next (runWord s .x (.ctxsv w) w.hdr (fun x m =>
    let h := m.hand x.r
    let sa := h.sreg w.a.toNat
    let sb := h.sreg w.b.toNat
    let rs := teamHands (teamOf x.r)
    { (instantMeaning x w.hdr
        [h.needS w.a.toNat, h.needS w.b.toNat, m.areaStop x.r sa true, m.areaStop x.r sb false, m.loadStop x.r sb rs,
         trapIf (sa != 0 && decide (4096 ≤ (m.ctxs.map (fun p => p.2.agent.length)).sum)) 9 9 [sa, 1, 0]]
        (fun m' =>
          if sa = 0 then
            let m1 := m'.killContext x.now h.ctx
            let m2 := if sb = 0 then m1 else m1.loadTeam x.now x.r h.ctx sb rs
            ((m2.modDev (fun d => { d with ending := d.ending ++ [(none, h.ctx)] })).kick x.now).beginSwap x.now x.r
              { hand := x.r, team := rs, isSave := true, drained := true, at_ := x.now + 24 }
          else
            (rs.foldl (fun m q => if (m.hand q).ctx = h.ctx && !(m.hand q).aside then m.beginDrain x.now q else m) m').beginSwap x.now x.r
              { hand := x.r, team := rs, isSave := true, saveAt := sa, loadAt := sb })) with ring := 1 }))
/-- CTXLD (19 R375): the image goes into the inactive hand of every core of the cluster. -/
def execCtxld (w : SSS) (s : State) : Out :=
  .next (runWord s .x (.ctxld w) w.hdr (fun x m =>
    let h := m.hand x.r
    let sa := h.sreg w.a.toNat
    let act := (List.range 4).map (fun k => 8 * clusterOf x.r + 2 * k + KMap.get 0 m.active (4 * clusterOf x.r + k))
    let rs := act.map otherHand
    { (instantMeaning x w.hdr
        [h.needS w.a.toNat, trapIf (sa == 0) 1 8, m.areaStop x.r sa false, trapIf (rs.any (fun q => (m.hand q).ctx != 0)) 1 8, m.loadStop x.r sa rs]
        (fun m' =>
          let m1 := m'.loadTeam x.now x.r h.ctx sa rs
          act.foldl (fun m q => m.postSwitch x.now (coreOf q)) m1)) with ring := 1 }))
/-- A core after its team was saved: the loaded hand goes on where it was the active one, else the other hand, if it holds
a context (19 R375). -/
def Mach.afterSave (m : Mach) (now r : Nat) : Mach :=
  if KMap.get 0 m.active (coreOf r) != r % 2 then m
  else if (m.hand r).ctx != 0 then m.activate now r
  else if (m.hand (otherHand r)).ctx != 0 then m.activate now (otherHand r)
  else m
/-- The last step of a change of hand at the core of `r`: it waits until a resumed hand that asks for the lease holds it,
and then accepts the saved commands (11 R235). -/
def Mach.leaseBack (m : Mach) (now core : Nat) : Mach :=
  [2 * core, 2 * core + 1].foldl (fun m r =>
    let h := m.hand r
    if !h.askLease then m
    else if m.holds r then m.reacceptAll now r
    else (m.modLease (clusterOf r) Lease.grant).post (now + 1) (.handSwapActivate core)) m
/-- HAND_SWAP_ACTIVATE: the drain is tested until it has ended, the team is saved and the next image loaded; 24 c later the
next hand acts (19 R372 to R376). -/
def execHandSwapActivate (core : Nat) (s : State) : Out :=
  .next (runEvent s (fun now m =>
    match m.swaps.find? (fun p => p.1 == core) with
    | none => m.leaseBack now core
    | some (_, w) =>
      let all := if w.isSave then w.team.filter (fun q => (m.hand q).draining) else [w.hand]
      let ke := (m.hand w.hand).ctx
      if !w.drained then
        if !all.all m.quiet then m.post (now + 1) (.handSwapActivate core)
        else
          let m := all.foldl (fun m q => m.setAside now q) m
          let m := if w.isSave then
              let m := m.saveTeam now ke (teamOf w.hand) w.saveAt
              if w.loadAt = 0 then m else m.loadTeam now w.hand ke w.loadAt w.team
            else m
          ({ m with swaps := m.swaps.set core { w with drained := true, at_ := now + 24 } }).post (now + 24) (.handSwapActivate core)
      else if now < w.at_ then m
      else
        let m := { m with swaps := m.swaps.filter (fun p => p.1 != core) }
        let m := if w.isSave then w.team.foldl (fun m q => m.afterSave now q) m else m.activate now (otherHand w.hand)
        let m := (w.hand :: w.team).foldl (fun m q => m.postSwitch now (coreOf q)) m
        (w.hand :: w.team).foldl (fun m q => m.leaseBack now (coreOf q)) (m.kick now)))

end Sys2Proof.Machine
end

