-- ==== Sys2Proof/Machine/Cregs.lean ====
section
/-! DEFINITION. The control registers (00 R3, 19 R361, R369, R370, and each chapter's register table): how each one reads,
the ring that writes it, the values it refuses, and what a write does; MFC, MTC and TSR, and the rows of single registers. -/

namespace Sys2Proof.Machine

/-- Who reads or writes a control register: for which context, and through which hand. -/
structure Who where
  k : Nat
  r : Nat
  deriving DecidableEq, Repr

/-- A hand with the context that it holds. -/
def Mach.who (m : Mach) (r : Nat) : Who := ⟨(m.hand r).ctx, r⟩

/-! ## Reading -/

/-- TKN (07 R150): the tokens of each FIFO. -/
def Hand.tkn (h : Hand) : W64 := slotN ((List.range 6).foldl (fun a j => a + (h.fifo (j + 1)).count * 32 ^ j) 0)
/-- Are the bands of a zone FORCED (11 R219)? -/
def Zone.forced (z : Zone) : Bool := z.crit || z.evac || z.st != .wet
/-- ZSTAT (20 R389). -/
def Zone.stat (z : Zone) : W64 :=
  slotN (z.temp * 2 ^ 32 + z.grant * 2 ^ 24 + z.valve * 2 ^ 16 + z.st.no * 2 ^ 8 + z.liq.toNat * 8 + z.crit.toNat * 4 + z.hot.toNat * 2
    + z.forced.toNat)
/-- The cluster that a hand's CLPIX names (20 R423). -/
def Mach.clpix (m : Mach) (r : Nat) : Nat := (bits ((m.hand r).creg 0x0AF) 0 7).toNat
/-- SPTCNT of a context (14 R273). -/
def Cluster.sptcntOf (x : Cluster) (k : Nat) : W64 :=
  slotN ((List.range 4).foldl (fun a i => a * 65536 + KMap.get 0 x.sptcnt (4 * k + i)) 0)

/-- The registers that each hand holds raw. -/
def isHandReg (n : Nat) : Bool := handCregs.contains n && n != 0x07A
/-- The registers that each partition holds raw. -/
def partCregs : List Nat := [0x072, 0x073, 0x0A4, 0x0A6, 0x0B3, 0x0B4]

/-- A control register as it reads; WO fields read zero (00 R3). -/
def Mach.cregRead (m : Mach) (now : Nat) (w : Who) (n : Nat) : W64 :=
  let h := m.hand w.r
  let x := m.ctx w.k
  let c := m.cluster (clusterOf w.r)
  let d := m.dctl (clusterOf w.r) w.k
  let p := m.part x.part
  if isHandReg n then h.creg n
  else if ctxCregs.contains n then x.reg n
  else if partCregs.contains n then p.reg n
  else if 0x080 ≤ n && n ≤ 0x09F then (KMap.get 0 x.sv (n - 0x080)).signExtend 64
  else if 0x0C0 ≤ n && n ≤ 0x0C3 then KMap.get 0 m.dev.cxlst (n - 0x0C0)
  else match n with
    | 0x000 => h.crValue
    | 0x001 => KMap.get tringReset x.cr 1
    | 0x00C => KMap.get 0 h.tcause h.ring
    | 0x00D => slotN h.pending.length
    | 0x016 => KMap.get 0 c.cr 0x016
    | 0x020 => slotN h.vclk
    | 0x024 => slotN h.frzc
    | 0x025 => h.tkn
    | 0x026 => slotN h.rsd
    | 0x031 => h.xflags.zeroExtend 64
    | 0x041 => m.lstat w.r
    | 0x044 => slotN (m.astrt w.r)
    | 0x045 => slotN (m.adone w.r)
    | 0x046 => m.wbst w.k w.r
    | 0x055 => slotN d.drxw
    | 0x056 => slotN d.drxr
    | 0x057 => slotN d.drnd
    | 0x059 => KMap.get 0 c.cr 0x059
    | 0x05A => KMap.get 0 c.cr 0x05A
    | 0x065 => m.spteValue w.r
    | 0x066 => c.sptcntOf w.k
    | 0x071 => m.dev.fabid
    | 0x074 => (p.reg 0x074) ||| slotN p.parked.length
    | 0x078 => (m.die (dieOf (clusterOf w.r))).pbstat
    | 0x07A => m.dmemOf w.k w.r
    | 0x0A0 => slotN (256 * p.base + p.eff)
    | 0x0A3 => h.boostst now
    | 0x0A5 => slotN p.pevqw
    | 0x0A9 => (m.zone (m.zix w.r)).cfg
    | 0x0AA => slotN (m.zone (m.zix w.r)).req
    | 0x0AB => (m.zone (m.zix w.r)).stat
    | 0x0AD => slotN (m.zoneOf (clusterOf w.r))
    | 0x0AE => slotN (m.clPart (m.clpix w.r))
    | 0x0B0 => slotN now
    | 0x0B1 => m.dev.tboff
    | 0x0B2 => m.dev.tbsync
    | 0x0B5 => slotN p.rpw
    | 0x0B6 => slotN p.rpr
    | 0x0B7 => slotN p.rpstat
    | 0x0B8 => m.dev.bootst
    | 0x10A => slotN x.ttwr
    | 0x10B => slotN x.ttrd
    | 0x10D => slotN x.ttmiss
    | 0x10E => slotN x.ttlate
    | 0x10F => slotN (x.mkOf w.r)
    | _ => 0

/-- The value that a reader of a register gets: with a parity error in the hand's register the spec gives none, so it is free (19 R379, log
48). -/
def Mach.cregGet (m : Mach) (now : Nat) (w : Who) (n : Nat) : W64 :=
  if m.rowError (crKey w.r n) == some true then Config.freeValue (m.freeN + 1) else m.cregRead now w n
/-- A parity error that a read meets is counted and recorded (19 R379). -/
def Mach.cregCheck (m : Mach) (r n : Nat) : Mach :=
  if m.rowError (crKey r n) == some true then
    ({ m with freeN := m.freeN + 2 }.countErrors (clusterOf r) [crKey r n]).recordFault r (m.mcheck (crKey r n) r)
  else m
/-- The access of a read beyond its value: an RC register is cleared (00 R3). -/
def Mach.cregClear (m : Mach) (w : Who) (n : Nat) : Mach :=
  match n with
  | 0x016 | 0x059 => m.modCluster (clusterOf w.r) (fun c => { c with cr := c.cr.set n 0 })
  | 0x023 => m.modHand w.r (fun h => h.setCreg 0x023 0)
  | 0x066 => m.modCluster (clusterOf w.r) (fun c => { c with sptcnt := c.sptcnt.filter (fun p => p.1 / 4 != w.k) })
  | 0x10D => m.modCtx w.k (fun x => { x with ttmiss := 0 })
  | 0x10E => m.modCtx w.k (fun x => { x with ttlate := 0 })
  | _ => m

/-! ## Writing -/

/-- The ring that a write of a register needs; a register that ignores writes needs none. -/
def cregRing (n : Nat) : Nat :=
  if 0x004 ≤ n && n ≤ 0x007 then n - 0x004
  else if 0x008 ≤ n && n ≤ 0x00B then n - 0x008
  else if [0x00E, 0x010, 0x011, 0x012, 0x013, 0x014, 0x022, 0x040, 0x05A, 0x071, 0x072, 0x073, 0x074, 0x075, 0x076, 0x07A, 0x07B, 0x07C, 0x07D,
           0x0A4, 0x0A6, 0x0AA, 0x0B3, 0x0B4, 0x0B5, 0x0B6, 0x0B7, 0x100, 0x101, 0x110, 0x111].contains n then 1
  else if [0x001, 0x0A9, 0x0AC, 0x0AE, 0x0AF].contains n then 2
  else if n = 0x0B1 then 3
  else 0

/-- The RW bits of a register that is stored as written; none for every other register. -/
def cregMask (n : Nat) : Option W64 :=
  if 0x004 ≤ n && n ≤ 0x007 then some (~~~(7 : W64))
  else if 0x008 ≤ n && n ≤ 0x00B then some (~~~(0x3FF : W64))
  else if 0x010 ≤ n && n ≤ 0x013 then some (~~~(6 : W64))
  else if 0x038 ≤ n && n ≤ 0x03F then some 0x7FFFF
  else if 0x060 ≤ n && n ≤ 0x063 then some 0x3FFF3FFF3FFF3FFF
  else match n with
    | 0x00E => some 1
    | 0x014 => some (BitVec.allOnes 64)
    | 0x048 => some 0x00FFFF33
    | 0x049 => some (BitVec.allOnes 64)
    | 0x04A => some 0xFFFFFFFF
    | 0x050 => some 0x3FFF
    | 0x051 | 0x052 | 0x053 => some 0x0000FFFF007FFFFF
    | 0x054 => some 0x1FFFF
    | 0x064 => some 0xFF
    | 0x070 => some 1
    | 0x072 => some 0x000FFFFFFFFFFFC0
    | 0x073 => some 0x000FFFFFFFFFC000
    | 0x074 => some 0x07FF0000
    | 0x07B => some (~~~(63 : W64))
    | 0x07C => some (BitVec.allOnes 64)
    | 0x07D => some 0x1FFF
    | 0x0A1 => some (~~~(31 : W64))
    | 0x0A4 => some 0x000FFFFFFFFFFFFF
    | 0x0A8 => some 0x3F
    | 0x0AF => some 0x7F
    | 0x0B4 => some 0x000FFFFFFFFFFFFF
    | 0x100 => some 0x000FFFFFFFFFF001
    | 0x101 => some (~~~(15 : W64))
    | 0x108 => some (~~~(31 : W64))
    | 0x10C => some (~~~(15 : W64))
    | 0x110 => some 0x000000FF0000007F
    | 0x111 => some 0x3F
    | _ => none

/-- TRING as a write leaves it: no field below its default, fields 0 and 0x19 zero (19 R361). -/
def tringWrite (v : W64) : W64 :=
  slotN ((List.range 32).foldl (fun a c => if c = 0 || c = 0x19 then a else a + max (defaultRing c) (bits v (2 * c) 2).toNat * 4 ^ c) 0)
/-- A value clamped to a range. -/
def clampTo (lo hi v : Nat) : Nat := max lo (min hi v)
/-- TTCTL as a write leaves it: a CAP outside 6 to 16 reads back as 0 (04 R64). -/
def ttctlWrite (v : W64) : W64 :=
  let cap := (bits v 0 5).toNat
  (v &&& 0x100) ||| slotN (if 6 ≤ cap && cap ≤ 16 then cap else 0)
/-- The bytes that the arrival ring or a list region takes in the window (13 R257). -/
def ringTop (rcap rbase len : Nat) : Nat := rbase + frameLen len * rcap
/-- The end of 256 lists of a capacity. -/
def listEnd (cap base : Nat) : Nat := base + 4 * 256 * (cap + 1)
/-- The refusals of the dispatch registers (13 R256): a limit of the table broken, a region beyond the window, CAP above
LCAP. -/
def Ctx.dispBad (x : Ctx) (n : Nat) (v : W64) : Bool :=
  let cap := (bits v 32 16).toNat
  let base := (bits v 0 23).toNat
  match n with
  | 0x050 =>
    let l := (bits v 0 14).toNat
    l % 4 != 0 || decide (16348 < l) || ((x.region 0x051).1 != 0 && decide (x.winSize < ringTop (x.region 0x051).1 (x.region 0x051).2 l))
  | 0x051 => cap == 0 || base % 128 != 0 || decide (x.winSize < ringTop cap base x.dlen)
  | 0x052 => base % 4 != 0 || decide (x.winSize < listEnd cap base) || decide (cap < (bits (x.reg 0x054) 0 16).toNat)
  | 0x053 => base % 4 != 0 || decide (x.winSize < listEnd cap base)
  | 0x054 => (bits v 0 16).toNat == 0 || decide ((x.region 0x052).1 < (bits v 0 16).toNat)
  | _ => false
/-- Does a value lie between two counters, counted modulo 2^32 from the first? -/
def between32 (lo hi v : Nat) : Bool := decide (sub32 v lo ≤ sub32 hi lo)
/-- The refusals of ZCFG (20 R389). -/
def Mach.zcfgBad (m : Mach) (z : Nat) (v : W64) : Bool :=
  let n : Zone := { cfg := v }
  decide (n.ceil < n.floor) || decide (n.tcrit ≤ n.ttrap) || (n.owner != 15 && (m.zoneClusters z).any (fun c => m.clPart c != n.owner))

/-- The value that a write to a register refuses, and the trap that says so (19 R370, and each register's entry). -/
def Mach.cregStop (m : Mach) (w : Who) (n : Nat) (v : W64) : Option Stop :=
  let x := m.ctx w.k
  let p := m.part x.part
  let d := m.dctl (clusterOf w.r) w.k
  if 0x038 ≤ n && n ≤ 0x03F then trapIf (!(qWellFormed (bits v 0 19).toNat)) 1 3
  else match n with
    | 0x048 => trapIf (decide (8 < (bits v 8 4).toNat) || (bit v 15 && (bits v 8 4).toNat != 0)) 1 3
    | 0x050 | 0x051 | 0x052 | 0x053 | 0x054 => trapIf (x.dispBad n v) 1 3
    | 0x056 => trapIf (!between32 d.drxr d.drxw (bits v 0 32).toNat) 1 3
    | 0x065 => m.spteStop w.r v
    | 0x07D => trapIf (decide (4096 < (bits v 0 13).toNat)) 1 3
    | 0x0A2 => m.boostStop w.r v
    | 0x0A4 => let c := (bits v 0 5).toNat; trapIf (c != 0 && (decide (c < 4) || decide (16 < c))) 1 3
    | 0x0A6 => trapIf (!between32 (p.reg 0x0A6).toNat p.pevqw (bits v 0 32).toNat) 1 3
    | 0x0A9 => trapIf (m.zcfgBad (m.zix w.r) v) 1 3
    | 0x0AA => trapIf ((m.zone (m.zix w.r)).owner != x.part) 9 10
    | 0x0AC => m.zcmdStop (m.zix w.r) v
    | 0x0AE =>
      let q := (bits v 0 4).toNat
      trapIf ((decide (8 ≤ q) && q != 15) || m.hands.any (fun h => clusterOf h.1 == m.clpix w.r && h.2.ctx != 0)) 1 3
    | 0x0AF => trapIf (decide (71 < (bits v 0 7).toNat)) 1 3
    | 0x0B3 => m.rpctlStop x.part v
    | 0x110 =>
      trapIf (decide (128 < (bits v 0 7).toNat + (bits v 32 8).toNat)
        || m.winBad w.k v (m.hands.keys.filter (fun q => m.clPart (clusterOf q) == x.part && q % 2 != w.r % 2))) 9 4
    | _ => none

/-- A register that a hand, context or partition holds raw, stored. -/
def Mach.storeCreg (m : Mach) (w : Who) (n : Nat) (v : W64) : Mach :=
  if isHandReg n then m.modHand w.r (fun h => h.setCreg n v)
  else if partCregs.contains n || n = 0x074 then m.modPart (m.ctx w.k).part (fun p => { p with cr := p.cr.set n v })
  else m.modCtx w.k (fun x => { x with cr := x.cr.set n v })

/-- The count words of the 256 arrival and the 256 overflow lists cleared in every cluster of the partition (13 R256); a list without entries
has its word too (R257). -/
def Mach.clearLists (m : Mach) (w : Who) : Mach :=
  [0x052, 0x053].foldl (fun m n =>
    let g := (m.ctx w.k).region n
    (m.partClusters (m.ctx w.k).part).foldl (fun m c =>
      (List.range 256).foldl (fun m e => m.winWrite w.k c (g.2 + 4 * e * (g.1 + 1)) (leBytes 4 0)) m) m) m

/-- The dispatch registers of a context changed in every cluster that keeps them. -/
def Mach.eachDctl (m : Mach) (k : Nat) (f : DispCtl → DispCtl) : Mach :=
  (List.range 72).foldl (fun m c => if (KMap.keys (m.cluster c).dctl).contains k then m.modDctl c k f else m) m
/-- Frames held at the inputs are tried again. -/
def Mach.resumeHeld (m : Mach) (now k : Nat) : Mach :=
  (List.range 72).foldl (fun m c => if (m.cluster c).heldFrames.isEmpty then m else m.post (now + 1) (.heldFrameResume c k)) m
/-- A write to a register that no longer refuses it: RO and RC fields ignore it, W1C fields clear where it has ones, WO
fields act (00 R3). -/
def Mach.cregWrite (m : Mach) (now : Nat) (w : Who) (n : Nat) (v : W64) : Mach :=
  let x := m.ctx w.k
  let c := clusterOf w.r
  let put := fun (m : Mach) (u : W64) => m.storeCreg w n u
  let masked := v &&& (cregMask n).getD 0
  if 0x080 ≤ n && n ≤ 0x09F then
    m.modCtx w.k (fun x => { x with svOld := if x.svT = now + 1 then x.svOld else x.sv, svT := now + 1, sv := x.sv.set (n - 0x080) (bits v 0 32) })
  else match n with
    | 0x001 => put m (tringWrite v)
    | 0x021 => put m (slotN (clampTo 16 4096 (bits v 0 13).toNat))
    | 0x022 => let t := (bits v 0 32).toNat; put m (slotN (if 1 ≤ t && t ≤ 1023 then 1024 else t))
    | 0x030 =>
      let rm := if 5 ≤ (bits v 0 3).toNat then (m.hand w.r).xrm else (bits v 0 3).toNat
      put m (slotN ((bit v 3).toNat * 8 + rm))
    | 0x031 => m.modHand w.r (fun h => { h with xflags := h.xflags &&& ~~~(bits v 0 6) })
    | 0x040 => put m (slotN (clampTo 1 64 (bits v 0 7).toNat))
    | 0x051 => ((put m masked).eachDctl w.k (fun d => { d with drxw := 0, drxr := 0 })).resumeHeld now w.k
    | 0x052 | 0x053 => ((put m masked).clearLists w).resumeHeld now w.k
    | 0x054 => (put m masked).resumeHeld now w.k
    | 0x056 => (m.modDctl c w.k (fun d => { d with drxr := (bits v 0 32).toNat })).post (now + 1) (.heldFrameResume c w.k)
    | 0x058 => m.beginRound now c w.k
    | 0x05A => m.modCluster c (fun y => { y with cr := y.cr.set 0x05A (v &&& 0x1FFFF) })
    | 0x065 => m.spteWrite w.r v
    | 0x071 => m.modDev (fun d => { d with fabid := v &&& 0xFFFF })
    | 0x075 => m.parkReplay now x.part (bits v 0 10).toNat
    | 0x076 => m.parkDiscard now x.part (bits v 0 10).toNat
    | 0x07A => put m (v &&& 0xFFFFFFFF00000000)
    | 0x07D => (put m masked).kick now
    | 0x0A2 => m.boostWrite now w.r v
    | 0x0A6 => put m (v &&& 0xFFFFFFFF)
    | 0x0A9 => (m.modZone (m.zix w.r) (fun z => { z with cfg := v &&& 0xFFFFFF0000FFFF00 })).regrant
    | 0x0AA => (m.modZone (m.zix w.r) (fun z => { z with req := (bits v 0 8).toNat })).regrant
    | 0x0AC => m.zcmdWrite now (m.zix w.r) v
    | 0x0AE => m.modCluster (m.clpix w.r) (fun y => { y with cr := y.cr.set 0x0AE (v &&& 0xF) })
    | 0x0B1 => m.modDev (fun d => { d with tboff := v })
    | 0x0B3 => m.rpctlWrite now x.part v
    | 0x0B5 =>
      if (m.part x.part).rpMode = 2 then (m.modPart x.part (fun p => { p with rpw := (bits v 0 32).toNat })).expectRecord now x.part else m
    | 0x0B6 => if (m.part x.part).rpMode = 1 then m.modPart x.part (fun p => { p with rpr := (bits v 0 32).toNat }) else m
    | 0x0B7 => if bit v 0 then m.modPart x.part (fun p => { p with rpstat := 0 }) else m
    | 0x108 => ((put (if (masked != x.reg 0x108) && x.ttwr != x.ttrd then m.discardUnstarted now w.k else m) masked).resumeAdds now w.k).examineAll now
    | 0x109 =>
      let u := ttctlWrite v
      ((put (if bits u 0 5 != bits (x.reg 0x109) 0 5 && x.ttwr != x.ttrd then m.discardUnstarted now w.k else m) u).resumeAdds now w.k).examineAll now
    | 0x10F => (m.modCtx w.k (fun x => { x with mkcur := x.mkcur.set w.r (bits v 0 32).toNat })).examineAll now
    | _ => if (cregMask n).isSome then put m masked else m

/-! ## MFC, MTC, TSR -/

/-- The freezes of a read: a result that the register takes has not landed; the log of TB reads is full (07 R137, 21
R398). -/
def Mach.readStop (m : Mach) (r n : Nat) : Option Stop :=
  let h := m.hand r
  firstStop
    [ freezeIf (n == 0x031 && h.results.any (·.xres)) 3,
      freezeIf (h.results.any (fun x => x.lands.any (fun l => match l with | .creg k _ => k == n | _ => false))) 3,
      if n = 0x0B0 then m.logStop r else none ]
/-- The value of a register read by a hand: TB is recorded, or comes from the log (21 R398, R399). -/
def Mach.readCreg (m : Mach) (now r n : Nat) : W64 × Mach :=
  let v := m.cregGet now (m.who r) n
  let p := m.partOf r
  let m := m.cregCheck r n
  if n != 0x0B0 then (v, m.cregClear (m.who r) n)
  else if (m.part p).rpMode = 2 then
    match m.replayNext p 6 (some r) with
    | some (k, x) => (x.a, m.useNext now p k)
    | none => (v, m.diverge p (m.part p).rpr)
  else (v, m.logInput now p 6 (some r) v 0)
/-- The cycles after which an MFC lands: a shape variable comes from the command processor (17 R327). -/
def readLat (n : Nat) : Nat := if 0x080 ≤ n && n ≤ 0x09F then 24 else 2
/-- MFC (19 R369). -/
def execMfc (w : K) (s : State) : Out :=
  .next (runWord s .x (.mfc w) w.hdr (fun x m =>
    let h := m.hand x.r
    let n := w.creg.toNat
    { own := m.readStop x.r n
      eff := fun m' =>
        let q := m'.readCreg x.now x.r n
        q.2.issueResult x.r [.sreg (sKey h.ring w.s.toNat) q.1] 0 (pushFifo x.e w.hdr.push) (x.now + readLat n) true true }))
/-- A token that enters in its issue vc (07 R143). -/
def Hand.tokenNow (h : Hand) (now f : Nat) : Hand := if f = 0 then h else (h.reserveTok f).enterTok now f
/-- A write by a hand: at once, but a shape variable's goes to the command processor, and the write and its token come 24 c later, when the
instruction lands (17 R327, 08 R169). -/
def Mach.writeCreg (m : Mach) (x : At) (n : Nat) (v : W64) (push : BitVec 2) : Mach :=
  let f := pushFifo x.e push
  if 0x080 ≤ n && n ≤ 0x09F then
    ((m.modHand x.r (fun h => h.reserveTok f)).post (x.now + 24) (.shapeVariableWrite x.r (n - 0x080) (bits v 0 32) push)).issueResult
      x.r [] 0 0 (x.now + 24) true true
  else (m.cregWrite x.now (m.who x.r) n v).modHand x.r (fun h => h.tokenNow x.now f)
/-- MTC (19 R369, R370). -/
def execMtc (w : K) (s : State) : Out :=
  .next (runWord s .x (.mtc w) w.hdr (fun x m =>
    let h := m.hand x.r
    let n := w.creg.toNat
    let v := h.sreg w.s.toNat
    { ring := cregRing n
      own := firstStop [h.needS w.s.toNat, m.cregStop (m.who x.r) n v]
      eff := fun m' => m'.writeCreg x n v w.hdr.push }))
/-- The bits of a register whose access is W1C. -/
def w1cBits (n : Nat) : W64 :=
  match n with
  | 0x031 => 0x3F
  | 0x0B7 => 1
  | _ => 0
/-- The registers that hold an RW or W1C field, which alone a TSR writes. -/
def tsrWrites (n : Nat) : Bool :=
  (cregMask n).isSome || (decide (0x080 ≤ n) && decide (n ≤ 0x09F)) ||
    [0x001, 0x021, 0x022, 0x030, 0x031, 0x040, 0x056, 0x05A, 0x065, 0x071, 0x07A, 0x0A6, 0x0A9, 0x0AA, 0x0AE, 0x0B1, 0x0B3, 0x0B5, 0x0B6, 0x0B7, 0x109, 0x10F].contains n
/-- The value that a TSR writes: its RW bits set or cleared; of W1C bits, those that a .clr selects (19 R369). -/
def tsrValue (n : Nat) (clr : Bool) (old sel : W64) : W64 :=
  (if clr then old &&& ~~~sel else old ||| sel) &&& ~~~(w1cBits n) ||| (if clr then sel &&& w1cBits n else 0)
/-- TSR (19 R369, R370): one action at issue, on a shape variable too; it lands in 2, and its token enters in the issue vc (07 R143, log 83). -/
def execTsr (w : K) (s : State) : Out :=
  .next (runWord s .x (.tsr w) w.hdr (fun x m =>
    let h := m.hand x.r
    let n := w.creg.toNat
    let sel : W64 := (bits w.imm 0 21).zeroExtend 64
    let v := tsrValue n (bit w.imm 21) (m.cregGet x.now (m.who x.r) n) sel
    { ring := cregRing n
      own := firstStop [m.readStop x.r n, if tsrWrites n then m.cregStop (m.who x.r) n v else none]
      eff := fun m' =>
        let q := m'.readCreg x.now x.r n
        let m1 := if tsrWrites n then q.2.cregWrite x.now (m.who x.r) n v else q.2
        (m1.modHand x.r (fun h => h.tokenNow x.now (pushFifo x.e w.hdr.push))).issueResult
          x.r [.sreg (sKey h.ring w.s.toNat) q.1] 0 0 (x.now + 2) true true }))

/-! ## The rows of single registers -/

/-- A write of one register by a hand: a refused value changes nothing, and so does a ring below the register's (19 R370); one that is to
wait, an entry's free, does so in the entry (14 R274). -/
def Mach.regEvent (m : Mach) (now r n : Nat) (v : W64) : Mach :=
  if (m.hand r).ring < cregRing n then m
  else match m.cregStop (m.who r) n v with
    | none => m.cregWrite now (m.who r) n v
    | some (.freeze _ _) => m.spteFreeing r
    | some _ => m
/-- A read of one register by a hand: the value lands in S[sd] 2 c later (19 R369), and an RC field is cleared (00 R3). -/
def Mach.readEvent (m : Mach) (now r n : Nat) (sd : BitVec 6) : Mach :=
  let h := m.hand r
  ((m.cregCheck r n).cregClear (m.who r) n).issueResult r [.sreg (sKey h.ring sd.toNat) (m.cregGet now (m.who r) n)] 0 0 (now + 2) true true

/-- CONTROL_REGISTER_WRITE (19 R370): a register that no map defines is not written. -/
def execControlRegisterWrite (r creg : Nat) (v : W64) (s : State) : Out :=
  .next (runEvent s (fun now m => if cregDefined creg then m.regEvent now r creg v else m))
/-- PARKRPL (15 R290). -/
def execParkrpl (r : Nat) (v : W64) (s : State) : Out := .next (runEvent s (fun now m => m.regEvent now r 0x075 v))
/-- PARKDIS (15 R290). -/
def execParkdis (r : Nat) (v : W64) (s : State) : Out := .next (runEvent s (fun now m => m.regEvent now r 0x076 v))
/-- DNEXT (13 R260). -/
def execDnext (r : Nat) (v : W64) (s : State) : Out := .next (runEvent s (fun now m => m.regEvent now r 0x058 v))
/-- DRXR_WRITE (13 R256). -/
def execDrxrWrite (r : Nat) (v : W64) (s : State) : Out := .next (runEvent s (fun now m => m.regEvent now r 0x056 v))
/-- DRX_WRITE (13 R256). -/
def execDrxWrite (r : Nat) (v : W64) (s : State) : Out := .next (runEvent s (fun now m => m.regEvent now r 0x051 v))
/-- DLST_WRITE (13 R256). -/
def execDlstWrite (r : Nat) (v : W64) (s : State) : Out := .next (runEvent s (fun now m => m.regEvent now r 0x052 v))
/-- DOVF_WRITE (13 R256). -/
def execDovfWrite (r : Nat) (v : W64) (s : State) : Out := .next (runEvent s (fun now m => m.regEvent now r 0x053 v))
/-- SPTE_OPEN: a write of ST 1 (14 R274). -/
def execSpteOpen (r : Nat) (v : W64) (s : State) : Out :=
  .next (runEvent s (fun now m => m.regEvent now r 0x065 ((v &&& 0x3FFFFFFFFFFFFFFF) ||| 0x4000000000000000)))
/-- SPTE_FREE: a write of ST 0; it waits while an RSLV reads the entry's rows (14 R274). -/
def execSpteFree (r : Nat) (v : W64) (s : State) : Out :=
  .next (runEvent s (fun now m => m.regEvent now r 0x065 (v &&& 0x3FFFFFFFFFFFFFFF)))
/-- TTCTL_WRITE: a write of TTCTL or TTBASE (04 R65). -/
def execTtctlWrite (r creg : Nat) (v : W64) (s : State) : Out :=
  .next (runEvent s (fun now m => m.regEvent now r (if creg = 0x108 then 0x108 else 0x109) v))
/-- SWIN_WRITE (06 R113). -/
def execSwinWrite (r : Nat) (v : W64) (s : State) : Out := .next (runEvent s (fun now m => m.regEvent now r 0x110 v))
/-- Q_REGISTER_WRITE (08 R160). -/
def execQRegisterWrite (r i : Nat) (v : W64) (s : State) : Out := .next (runEvent s (fun now m => m.regEvent now r (0x038 + i % 8) v))
/-- CPQN_WRITE (17 R335). -/
def execCpqnWrite (r : Nat) (v : W64) (s : State) : Out := .next (runEvent s (fun now m => m.regEvent now r 0x07D v))
/-- PEVQR_WRITE (20 R383). -/
def execPevqrWrite (r : Nat) (v : W64) (s : State) : Out := .next (runEvent s (fun now m => m.regEvent now r 0x0A6 v))
/-- TTMISS_READ (04 R64). -/
def execTtmissRead (r : Nat) (sd : BitVec 6) (s : State) : Out := .next (runEvent s (fun now m => m.readEvent now r 0x10D sd))
/-- TTLATE_READ (04 R64). -/
def execTtlateRead (r : Nat) (sd : BitVec 6) (s : State) : Out := .next (runEvent s (fun now m => m.readEvent now r 0x10E sd))
/-- FRZN_READ (07 R149). -/
def execFrznRead (r : Nat) (sd : BitVec 6) (s : State) : Out := .next (runEvent s (fun now m => m.readEvent now r 0x023 sd))
/-- DCNT_READ (13 R256). -/
def execDcntRead (r : Nat) (sd : BitVec 6) (s : State) : Out := .next (runEvent s (fun now m => m.readEvent now r 0x059 sd))
/-- SPTCNT_READ (14 R273). -/
def execSptcntRead (r : Nat) (sd : BitVec 6) (s : State) : Out := .next (runEvent s (fun now m => m.readEvent now r 0x066 sd))
/-- ECNT_READ (19 R361). -/
def execEcntRead (r : Nat) (sd : BitVec 6) (s : State) : Out := .next (runEvent s (fun now m => m.readEvent now r 0x016 sd))

end Sys2Proof.Machine
end

