-- ==== Sys2Proof/Machine/HostLink.lean ====
section
/-! DEFINITION. The host link (27): the messages of the Jorade Command Transport and their order, contexts made and ended
(17 R340, R341), passes of the queue scheduler (R337), attestation, the halt log, boot, reset, and links. -/

namespace Sys2Proof.Machine

/-! ## Messages -/

/-- The type of a message (27 R414). -/
def JctBody.type : JctBody → Nat
  | .notify _ _ => 1 | .memwr _ _ => 2 | .memrd _ _ => 3 | .regwr _ _ _ => 4 | .regrd _ _ => 5 | .ctxnew _ => 8 | .ctxend => 9
/-- An answer to a message; status 0 is success (log 24). -/
def Mach.reply (m : Mach) (j : JctHdr) (type status : Nat) (data : List Byte := []) : Mach :=
  m.modDev (fun d => { d with answers := d.answers ++ [{ source := j.src, type := type, ctx := j.ctx, seq := j.seq, status := status, data := data }] })
/-- A message dropped and counted (27 R414). -/
def Mach.dropJct (m : Mach) : Mach := m.modDev (fun d => { d with dropped := d.dropped + 1 })
/-- The role of a source: 1 driver, 2 hypervisor; none outside the host table (27 R414). -/
def Mach.role (m : Mach) (src : Nat) : Option Nat := (m.dev.hosts.find? (fun p => p.1 == src)).map (·.2)
/-- The sequence number expected of a source for a context (27 R415). -/
def Ctx.expected (x : Ctx) (src : Nat) : Nat := KMap.get 0 x.jctSeq src
/-- Datum A of a command in the log: a NOTIFY's queue and write index (21 R398, kind 1). -/
def JctBody.datum : JctBody → W64
  | .notify q i => slotN (q % 65536 + 65536 * (i % 2 ^ 32))
  | _ => 0
/-- Is a context number in use? -/
def Mach.inUse (m : Mach) (k : Nat) : Bool := (m.ctx k).live || (m.ctx k).ended
/-- The partition that a message concerns. -/
def Mach.jctPart (m : Mach) (j : JctMsg) : Nat :=
  match j.body with
  | .ctxnew p => if m.inUse j.hdr.ctx then (m.ctx j.hdr.ctx).part else p
  | _ => (m.ctx j.hdr.ctx).part
/-- The records that come before a command in a replay's log; the snapshots are loaded later (21 R399). -/
def Mach.turnRecs (m : Mach) (p : Nat) : List (Nat × LogRec) := (m.logLeft p).filter (fun x => x.2.kind != 5)
/-- May a command be accepted now: in recording while the ring has room, in replay in its turn (21 R398, R399)? -/
def Mach.mayCommand (m : Mach) (p : Nat) (a : W64) : Bool :=
  let l := m.turnRecs p
  if (m.part p).rpMode == 1 then !(m.part p).logFull
  else if (m.part p).rpMode == 2 then
    l.head?.any (fun x => x.2.kind == 1 && x.2.a == a) || !l.any (fun x => x.2.kind == 1 && x.2.a == a)
  else true
/-- A command accepted: recorded, or its record used (21 R398, R399). -/
def Mach.noteCommand (m : Mach) (now p : Nat) (a : W64) : Mach :=
  if (m.part p).rpMode == 2 then
    match (m.turnRecs p).find? (fun x => x.2.kind == 1 && x.2.a == a) with
    | some (k, _) => m.useNext now p k
    | none => m.diverge p (m.part p).rpr
  else m.logInput now p 1 none a (slotN m.dev.passNo)

/-! ## Registers from the host -/

/-- The hand of a core that a message of a context reaches: the one that holds the context, else hand 0 (log 24). -/
def Mach.hostHand (m : Mach) (k core : Nat) : Nat := ([2 * core, 2 * core + 1].find? (fun r => (m.hand r).ctx == k)).getD (2 * core)
/-- Is a register one of a hand, which only a hand that holds the context has for it? -/
def ofHand (n : Nat) : Bool := isHandReg n || n == 0x031 || n == 0x0A2
/-- The status that refuses a register access of the host: no such register or core, or a hand that does not hold the
context (log 24). -/
def Mach.hostRefuses (m : Mach) (k n core : Nat) : Bool :=
  !cregDefined n || decide (288 ≤ core) || (ofHand n && (m.hand (m.hostHand k core)).ctx != k)
/-- A REGWR performed with ring-1 permissions; a fault is answered with its cause (27 R414). -/
def Mach.hostWrite (m : Mach) (now : Nat) (j : JctHdr) (n core : Nat) (v : W64) : Mach :=
  let w : Who := ⟨j.ctx, m.hostHand j.ctx core⟩
  if m.hostRefuses j.ctx n core then m.reply j 4 1
  else if 1 < cregRing n then m.reply j 4 2
  else match m.cregStop w n v with
    | some (.trap f) => m.reply j 4 f.cause
    | _ => (m.cregWrite now w n v).kick now
/-- A REGRD performed and answered (27 R414). -/
def Mach.hostRead (m : Mach) (now : Nat) (j : JctHdr) (n core : Nat) : Mach :=
  let w : Who := ⟨j.ctx, m.hostHand j.ctx core⟩
  if m.hostRefuses j.ctx n core then m.reply j 5 1
  else (m.cregClear w n).reply j 5 0 (leBytes 8 (m.cregRead now w n).toNat)

/-! ## Contexts -/

/-- The reason why a CTXNEW is refused, 0 for none (17 R340, log 24). -/
def Mach.ctxRefusal (m : Mach) (k p : Nat) : Nat :=
  if k = 0 || 65535 < k || m.inUse k then 0x101
  else if 8 ≤ p || (m.partClusters p).isEmpty then 0x102
  else if 4096 ≤ (m.ctxs.filter (fun x => x.2.live || x.2.ended)).length then 0x103
  else 0
/-- A context in its creation state (17 R340); the CTXNEW was number 0 of its source (27 R415). -/
def Mach.newContext (m : Mach) (now src k p : Nat) : Mach :=
  (m.noteCommand now p 0).setCtx k { live := true, part := p, jctSeq := [(src, 1)] }

/-! ## Performing and holding -/

/-- Would a register write of a message wait (14 R274)? -/
def Mach.jctWaits (m : Mach) (j : JctMsg) : Bool :=
  match j.body with
  | .regwr n core v =>
    !m.hostRefuses j.hdr.ctx n core && decide (cregRing n ≤ 1) &&
      (match m.cregStop ⟨j.hdr.ctx, m.hostHand j.hdr.ctx core⟩ n v with | some (.freeze _ _) => true | _ => false)
  | _ => false
/-- Is it the turn of a message: of its context and source by its number, and in the log (27 R415, 21 R399)? Number 0 to a context number
that is free is answered at once, a higher one held until the context is made and the missing numbers have come. -/
def Mach.jctReady (m : Mach) (j : JctMsg) : Bool :=
  let x := m.ctx j.hdr.ctx
  let turn := m.mayCommand (m.jctPart j) j.body.datum && !m.jctWaits j
  if !x.live then (match j.body with | .ctxnew p => m.ctxRefusal j.hdr.ctx p != 0 || (j.hdr.seq == 0 && turn) | _ => x.ended || j.hdr.seq == 0)
  else decide (j.hdr.seq < x.expected j.hdr.src) || (j.hdr.seq == x.expected j.hdr.src && turn)
/-- What a message of a live context does in its turn. A MEMWR of a length that 27 R414 does not allow is not performed,
and is answered with a status of the model's own (log 24). -/
def Mach.actJct (m : Mach) (now : Nat) (j : JctMsg) : Mach :=
  let k := j.hdr.ctx
  match j.body with
  | .notify q i => m.notify now k q i
  | .memwr va data =>
    if data.length % 128 != 0 || data.isEmpty || decide (4096 < data.length) then m.reply j.hdr 2 0x104
    else match m.writeAt k va data false with
    | .ok m' => m'.kick now
    | .error f => m.reply j.hdr 2 f.cause
  | .memrd va n =>
    match m.readAt k va n false with
    | .ok bs => m.reply j.hdr 3 0 bs
    | .error f => m.reply j.hdr 3 f.cause
  | .regwr n core v => m.hostWrite now j.hdr n core v
  | .regrd n core => m.hostRead now j.hdr n core
  | .ctxnew p => m.reply j.hdr 8 (m.ctxRefusal k p)
  | .ctxend => ((m.killContext now k).modDev (fun d => { d with ending := d.ending ++ [(some j.hdr, k)] })).kick now
/-- A message whose turn it is, performed; a duplicate is dropped and counted (27 R415). -/
def Mach.performJct (m : Mach) (now : Nat) (j : JctMsg) : Mach :=
  let k := j.hdr.ctx
  let x := m.ctx k
  if !x.live then
    match j.body with
    | .ctxnew p => if m.ctxRefusal k p = 0 then m.newContext now j.hdr.src k p else m.reply j.hdr 8 (m.ctxRefusal k p)
    | b => m.reply j.hdr b.type 0x100
  else if j.hdr.seq < x.expected j.hdr.src then m.dropJct
  else
    ((m.noteCommand now x.part j.body.datum).modCtx k (fun x => { x with jctSeq := x.jctSeq.set j.hdr.src (j.hdr.seq + 1) })).actJct now j
/-- Every held message whose turn has come, performed, the oldest first; each that is performed may be the turn of another. -/
def Mach.retryJct (m : Mach) (now : Nat) : Nat → Mach
  | 0 => m
  | n + 1 =>
    match m.dev.held.find? m.jctReady with
    | none => m
    | some j => ((m.modDev (fun d => { d with held := d.held.erase j })).performJct now j).retryJct now n
/-- A message arrives at the command processor: one from outside the host table, and a CTXNEW or CTXEND from a driver, is
dropped and counted (27 R414). -/
def Mach.jct (m : Mach) (now : Nat) (j : JctMsg) : Mach :=
  let hyp := match j.body with | .ctxnew _ => true | .ctxend => true | _ => false
  match m.role j.hdr.src with
  | none => m.dropJct
  | some role =>
    if hyp && role != 2 then m.dropJct
    else (m.modDev (fun d => { d with held := d.held ++ [j] })).retryJct now (m.dev.held.length + 1)
/-- NOTIFY (17 R338). -/
def execNotify (j : JctHdr) (queue index : Nat) (s : State) : Out := .next (runEvent s (fun now m => m.jct now ⟨j, .notify queue index⟩))
/-- MEMWR: 128 to 4,096 bytes, a multiple of 128 (27 R414); another length is refused in its turn. -/
def execMemwr (j : JctHdr) (va : W64) (data : List Byte) (s : State) : Out :=
  .next (runEvent s (fun now m => m.jct now ⟨j, .memwr va data⟩))
/-- MEMRD (27 R414). -/
def execMemrd (j : JctHdr) (va : W64) (n : Nat) (s : State) : Out := .next (runEvent s (fun now m => m.jct now ⟨j, .memrd va n⟩))
/-- REGWR (27 R414). -/
def execRegwr (j : JctHdr) (creg core : Nat) (v : W64) (s : State) : Out := .next (runEvent s (fun now m => m.jct now ⟨j, .regwr creg core v⟩))
/-- REGRD (27 R414). -/
def execRegrd (j : JctHdr) (creg core : Nat) (s : State) : Out := .next (runEvent s (fun now m => m.jct now ⟨j, .regrd creg core⟩))
/-- CTXNEW (17 R340). -/
def execCtxnew (j : JctHdr) (part : Nat) (s : State) : Out := .next (runEvent s (fun now m => m.jct now ⟨j, .ctxnew part⟩))
/-- CTXEND (17 R341). -/
def execCtxend (j : JctHdr) (s : State) : Out := .next (runEvent s (fun now m => m.jct now ⟨j, .ctxend⟩))

/-! ## A pass of the scheduler -/

/-- The kills that have completed: the number is free, and its CTXEND answered (17 R341). -/
def Mach.endKills (m : Mach) : Mach :=
  let done := m.dev.ending.filter (fun e => m.gone e.2)
  done.foldl (fun m e => let m' := m.freeNumber e.2; e.1.elim m' (fun j => m'.reply j 9 0))
    (m.modDev (fun d => { d with ending := d.ending.filter (fun e => !done.contains e) }))
/-- QUEUE_SCHEDULER_PASS: at least every 2 microseconds, 2,100 c (17 R337). -/
def execQueueSchedulerPass (s : State) : Out :=
  .next (runEvent s (fun now m =>
    let m := (m.endKills.retryJct now (m.dev.held.length + 1)).queuePass now
    if m.agenda.any (fun p => p.2 == .queueSchedulerPass) then m else m.post (now + 2100) .queueSchedulerPass))

/-! ## The security core -/

/-- The first 208 bytes of a report (27 R421). -/
def Mach.report (m : Mach) (now : Nat) (nonce : List Byte) (left : Nat) : List Byte :=
  (nonce ++ List.replicate 48 0).take 48 ++ leBytes 8 now
    ++ (List.range 3).flatMap (fun c => ((KMap.get [] m.dev.digests c) ++ List.replicate 48 0).take 48)
    ++ (List.range 3).flatMap (fun c => leBytes 1 (KMap.get 0 m.dev.svns c)) ++ leBytes 1 0 ++ leBytes 4 left
/-- A report asked for: the index of the signature is used up before it is formed (27 R420, R421). -/
def Mach.attest (m : Mach) (now : Nat) (j : JctHdr) (nonce : List Byte) : Mach :=
  match m.role j.src with
  | none => m.dropJct
  | some _ =>
    let n := m.dev.sigBudget
    let bs := m.report now nonce (n - 1)
    (m.modDev (fun d => { d with sigBudget := n - 1 })).reply j 6 0
      (bs ++ (Config.signReport bs ++ List.replicate 96 0).take 96 ++ (if n = 0 then [] else Config.hssSign (2 ^ 20 - n) bs))
/-- The halt log asked for: BOOTST, and of a halted package the record and every hand's CR (19 R362, 27 R419, log 24). -/
def Mach.haltlog (m : Mach) (j : JctHdr) : Mach :=
  match m.role j.src with
  | none => m.dropJct
  | some _ =>
    m.reply j 7 0 (leBytes 8 m.dev.bootst.toNat ++ m.halted.elim [] (fun h =>
      h.record ++ (List.range 576).flatMap (fun r => leBytes 8 (KMap.get 0 h.crs r).toNat)))
/-- ATTEST (27 R420, R421). -/
def execAttest (j : JctHdr) (nonce : List Byte) (s : State) : Out := .next (runEvent s (fun now m => m.attest now j nonce))
/-- HALTLOG (27 R419). -/
def execHaltlog (j : JctHdr) (s : State) : Out := .next (runEvent s (fun _ m => m.haltlog j))

/-! ## Messages as bytes -/

/-- A message of the Jorade Command Transport by what it asks for (27 R414). -/
inductive JctIn where
  | command (j : JctMsg)
  | attest (j : JctHdr) (nonce : List Byte)
  | haltlog (j : JctHdr)
  deriving DecidableEq, Repr
/-- A message read from its bytes, the 16-byte header first, at an endpoint: 0x0001 the command processor, which takes types 1 to 5, 8 and
9, and 0x0002 the security core, which takes types 6 and 7 (27 R414). None where the header breaks its layout. The value of a REGWR and the
length of a MEMRD stand behind the header (log 24). -/
def readJct (endpoint src : Nat) (bs : List Byte) : Option JctIn :=
  let h : JctHdr := ⟨src, field bs 2 2, field bs 4 4⟩
  let va : W64 := BitVec.ofNat 64 (field bs 8 8)
  let zero := fun (lo n : Nat) => field bs lo n == 0
  let command := fun (ok : Bool) (b : JctBody) => if ok then some (JctIn.command ⟨h, b⟩) else none
  if bs.length < 16 || !zero 1 1 then none
  else match endpoint, field bs 0 1 with
    | 1, 1 => command (zero 10 2) (.notify (field bs 8 2) (field bs 12 4))
    | 1, 2 => command true (.memwr va (bs.drop 16))
    | 1, 3 => command true (.memrd va (field bs 16 4))
    | 1, 4 => command (zero 10 2 && zero 14 2) (.regwr (field bs 8 2) (field bs 12 2) (BitVec.ofNat 64 (field bs 16 8)))
    | 1, 5 => command (zero 10 2 && zero 14 2) (.regrd (field bs 8 2) (field bs 12 2))
    | 1, 8 => command (zero 9 7) (.ctxnew (field bs 8 1))
    | 1, 9 => command (zero 8 8) .ctxend
    | 2, 6 => if zero 8 8 then some (.attest h ((bs.drop 16).take 48)) else none
    | 2, 7 => if zero 8 8 then some (.haltlog h) else none
    | _, _ => none
/-- A message that arrives at an endpoint as bytes; one that breaks the layout is dropped and counted (27 R414, log 24). -/
def Mach.message (m : Mach) (now endpoint src : Nat) (bs : List Byte) : Mach :=
  match readJct endpoint src bs with
  | none => m.dropJct
  | some (.command j) => m.jct now j
  | some (.attest j nonce) => m.attest now j nonce
  | some (.haltlog j) => m.haltlog j

/-! ## Reset and boot -/

/-- The zones after reset: LIQ is sensed, and a zone without liquid is DRY (20 R389, R392). -/
def Mach.zonesReset (m : Mach) : KMap Zone :=
  m.dev.zones.map (fun p => (p.1, { temp := p.2.temp, liq := p.2.liq, st := if p.2.liq then .wet else .dry }))
/-- The clusters after reset: new ones, their bands FORCED where their zone is not WET (20 R392, 11 R219). -/
def Mach.clustersReset (m : Mach) (now : Nat) : KMap Cluster :=
  (List.range 72).filterMap (fun c =>
    if (KMap.get {} m.zonesReset (m.zoneOf c)).st == .wet then none
    else some (c, { bands := (List.range 4).map (fun b => (b, { st := .forced, since := now })) }))
/-- Everything at its reset value but memory, what fuses and nonvolatile storage hold, what the accepted images are, and what
the sensors sense (log 14); the first events are due as after power-on. -/
def Mach.resetAt (m : Mach) (now : Nat) : Mach :=
  let z := State.reset.m
  { z with
    agenda := z.agenda.map (fun p => (now + p.1, p.2)), mem := m.mem, freeN := m.freeN, nextId := m.nextId,
    clusters := m.clustersReset now,
    dev := { z.dev with zones := m.zonesReset, fuses := m.dev.fuses, revoked := m.dev.revoked, sigBudget := m.dev.sigBudget,
                        digests := m.dev.digests, svns := m.dev.svns, errors := m.dev.errors, hosts := m.dev.hosts,
                        uePort := m.dev.uePort, retired := m.dev.retired } }
/-- What both signatures of an image cover: its header (27 R418). -/
def FwImage.header (im : FwImage) : List Byte := leBytes 1 im.cls ++ leBytes 1 im.svn ++ leBytes 8 im.body.length ++ im.digest
/-- Does the hash of a vendor key lie in a fuse slot that is not revoked (27 R418; the hash function is log 9)? -/
def Mach.keyTrusted (m : Mach) (key : List Byte) : Bool :=
  (List.range Config.keySlots).any (fun i => Config.keyHash i == Config.sha384 key && !m.dev.revoked.contains i)
/-- The code that the boot ROM gives an image, 0 where it accepts it (27 R418, R419): an ECDSA signature has 96 bytes, an LMS one 2,668, and an
SVN is at most 63 (log 133). -/
def Mach.bootCode (m : Mach) (im : FwImage) : Nat :=
  if im.ecdsa.length != 96 || !Config.verifies im.key im.ecdsa (Config.sha384 (FwImage.header im)) then 1
  else if im.lms.length != 2668 || !Config.verifies im.key im.lms (FwImage.header im) then 2
  else if 63 < im.svn || decide (im.svn < KMap.get 0 m.dev.fuses im.cls) then 3
  else if !m.keyTrusted im.key then 4
  else if Config.sha384 im.body != im.digest then 5
  else 0
/-- A die with more than one retired physical cluster (01 R11). -/
def Mach.brokenDie (m : Mach) : Option Nat := (List.range 4).find? (fun d => decide (1 < (KMap.get [] m.dev.retired d).length))
/-- DEVICE_RESET: every unit to its reset state (16 R303, 19 R362). TB counts from power-on and goes on (21 R395). A package whose boot has
failed, or with more than one retired cluster on a die, stays in reset (27 R419, 01 R11). -/
def execDeviceReset (s : State) : Out :=
  .next (runEvent s (fun now m =>
    let st := if bits m.dev.bootst 0 8 != 0 then m.dev.bootst else m.brokenDie.elim 0 (fun die => slotN (6 + 256 * die))
    (m.resetAt now).modDev (fun d => { d with bootst := st })))
/-- The first class of which a boot has no image: security core, command processor, power and coolant controller (27 R418). -/
def classLacking (images : List FwImage) : Option Nat := (List.range 3).find? (fun c => !images.any (fun im => im.cls == c))
/-- BOOT_VERIFICATION (27 R418, R419): the package leaves reset only when an image of every class is accepted and no die has more than one
retired cluster; the fuse counters advance only after every image has been accepted. A class without an image fails as one without a
signature (log 133). -/
def execBootVerification (images : List FwImage) (s : State) : Out :=
  .next (runEvent s (fun now m =>
    let m' := m.resetAt now
    match images.find? (fun im => m.bootCode im != 0) with
    | some im => m'.modDev (fun d => { d with bootst := slotN (m.bootCode im + 256 * (im.cls % 256)) })
    | none => match classLacking images with
     | some c => m'.modDev (fun d => { d with bootst := slotN (1 + 256 * c) })
     | none =>
      let m2 := m'.modDev (fun d => images.foldl (fun d im =>
        { d with fuses := d.fuses.set im.cls (max im.svn (KMap.get 0 d.fuses im.cls)), digests := d.digests.set im.cls im.digest,
                 svns := d.svns.set im.cls im.svn }) d)
      match m.brokenDie with
      | some die => m2.modDev (fun d => { d with bootst := slotN (6 + 256 * die) })
      | none => m2))

/-! ## Links -/

/-- CXL_LINK_CHANGE: CXLST of the port, and the memory that is mapped (27 R416, R417). -/
def execCxlLinkChange (p : Nat) (up : Bool) (wid rate capg : Nat) (s : State) : Out :=
  .next (runEvent s (fun _ m =>
    let q := p % 4
    m.modDev (fun d => { d with
      cxlst := d.cxlst.set q (slotN (min capg 2048 * 2 ^ 32 + wid % 16 * 16 + rate % 8 * 2 + up.toNat)), cxlGib := d.cxlGib.set q (min capg 2048) })))
/-- UE_PORT_LINK_CHANGE: a port trains up or goes down, and the other ports carry the traffic (27 R413). -/
def execUePortLinkChange (p : Nat) (up : Bool) (s : State) : Out :=
  .next (runEvent s (fun _ m => m.modDev (fun d => { d with uePort := d.uePort.set (p % 16) up })))

end Sys2Proof.Machine
end

