-- ==== Sys2Proof/Machine/Vector.lean ====
section
/-! DEFINITION. The vector words of the X engine (spec 10), with VTHR (13 R251) and VSIGN (14 R266). -/

namespace Sys2Proof.Machine

/-- The first operand value. -/
def v0 (vs : List Entry) : Entry := vs.headD 0
/-- The second operand value. -/
def v1 (vs : List Entry) : Entry := vs.getD 1 0
/-- The third operand value. -/
def v2 (vs : List Entry) : Entry := vs.getD 2 0

/-- Lane results as what lands in queue `d`. -/
def landLanes (d w : Nat) (rs : List FRes) : List Land × Flags :=
  ([.queue d (mkEntry w (rs.map FRes.code))], gatherFlags rs)

/-- The lanes of an entry of type `ty`, each mapped. -/
def lanes1 (w : Nat) (f : Nat → FRes) (a : Entry) : List FRes := (elems a w).map f
/-- The lanes of two entries, paired (10 R196). -/
def lanes2 (w : Nat) (f : Nat → Nat → FRes) (a b : Entry) : List FRes := List.zipWith f (elems a w) (elems b w)
/-- The lanes of three entries. -/
def lanes3 (w : Nat) (f : Nat → Nat → Nat → FRes) (a b c : Entry) : List FRes :=
  List.zipWith (fun g z => g z) (List.zipWith (fun x y => f x y) (elems a w) (elems b w)) (elems c w)

/-- Operand a of a two-source word, with its hold bit. -/
def opA (w : VVV) (ty : Nat) : Opnd := ⟨w.a.toNat, w.ka, w.h, ty⟩
/-- Operand b. -/
def opB (w : VVV) (ty : Nat) : Opnd := ⟨w.b.toNat, w.kb, false, ty⟩
/-- Operand d of a three-source word, kept by kd (03 R45). -/
def opD (w : VVV) : Opnd := ⟨w.d.toNat, w.h, false, 4⟩

/-- A two-source vector word: `f` takes type, mode and the lanes' codes (10 R199). -/
def vec2 (i : Instr) (w : VVV) (lat : Nat) (f : Nat → Nat → Nat → Nat → FRes) (s : State) : Out :=
  .next (runWord s .x i w.hdr (fun x m =>
    let ty := w.ty.toNat
    let rm := (m.hand x.r).xrm
    queueMeaning x m w.hdr [opA w ty, opB w ty] [w.d.toNat] lat [] (fun vs =>
      landLanes w.d.toNat (tw ty) (lanes2 (tw ty) (f ty rm) (v0 vs) (v1 vs)))))

/-- A one-source vector word. -/
def vec1 (i : Instr) (w : VVV) (lat : Nat) (f : Nat → Nat → Nat → FRes) (s : State) : Out :=
  .next (runWord s .x i w.hdr (fun x m =>
    let ty := w.ty.toNat
    let rm := (m.hand x.r).xrm
    queueMeaning x m w.hdr [⟨w.a.toNat, w.ka, false, ty⟩] [w.d.toNat] lat [] (fun vs =>
      landLanes w.d.toNat (tw ty) (lanes1 (tw ty) (f ty rm) (v0 vs)))))

/-- A three-source vector word: a, b, then the head of d. -/
def vec3 (i : Instr) (w : VVV) (lat : Nat) (f : Nat → Nat → Nat → Nat → Nat → FRes) (s : State) : Out :=
  .next (runWord s .x i w.hdr (fun x m =>
    let ty := w.ty.toNat
    let rm := (m.hand x.r).xrm
    queueMeaning x m w.hdr [⟨w.a.toNat, w.ka, false, ty⟩, opB w ty, opD w] [w.d.toNat] lat [] (fun vs =>
      landLanes w.d.toNat (tw ty) (lanes3 (tw ty) (f ty rm) (v0 vs) (v1 vs) (v2 vs)))))

/-- An integer lane operation on values, its result wrapped to the width. -/
def intLane (f : Int → Int → Int) (ty _rm a b : Nat) : FRes :=
  plain (intCode (tw ty) (f (intOf (tySigned ty) (tw ty) a) (intOf (tySigned ty) (tw ty) b)))
/-- An integer lane operation clamped to the type's range (10 R200). -/
def clampLane (f : Int → Int → Int) (ty _rm a b : Nat) : FRes :=
  plain (intCode (tw ty) (clampInt (tySigned ty) (tw ty)
    (f (intOf (tySigned ty) (tw ty) a) (intOf (tySigned ty) (tw ty) b))))
/-- A shift lane: the count is b mod w (10 R200). -/
def shiftLane (f : Nat → Nat → Nat → Nat) (ty _rm a b : Nat) : FRes :=
  plain (f (tw ty) a (b % tw ty) % 2 ^ tw ty)

/-! ## Integer and bitwise words -/

/-- VADD (10 R200). -/
def execVadd (w : VVV) (s : State) : Out := vec2 (.vadd w) w 2 (intLane (· + ·)) s

/-- VSUB (10 R200). -/
def execVsub (w : VVV) (s : State) : Out := vec2 (.vsub w) w 2 (intLane (· - ·)) s

/-- VMUL (10 R200). -/
def execVmul (w : VVV) (s : State) : Out := vec2 (.vmul w) w 2 (intLane (· * ·)) s

/-- VMULH (10 R200). -/
def execVmulh (w : VVV) (s : State) : Out := vec2 (.vmulh w) w 2 (fun ty rm a b => intLane (fun x y => x * y / (2 ^ tw ty : Nat)) ty rm a b) s

/-- VMIN (10 R200). -/
def execVmin (w : VVV) (s : State) : Out := vec2 (.vmin w) w 2 (intLane min) s

/-- VMAX (10 R200). -/
def execVmax (w : VVV) (s : State) : Out := vec2 (.vmax w) w 2 (intLane max) s

/-- VABS (10 R200). -/
def execVabs (w : VVV) (s : State) : Out := vec1 (.vabs w) w 2 (fun ty rm a => intLane (fun x _ => |x|) ty rm a 0) s

/-- VSADD (10 R200). -/
def execVsadd (w : VVV) (s : State) : Out := vec2 (.vsadd w) w 2 (clampLane (· + ·)) s

/-- VSSUB (10 R200). -/
def execVssub (w : VVV) (s : State) : Out := vec2 (.vssub w) w 2 (clampLane (· - ·)) s

/-- VAND (10 R200). -/
def execVand (w : VVV) (s : State) : Out := vec2 (.vand w) w 2 (fun _ _ a b => plain (a &&& b)) s

/-- VOR (10 R200). -/
def execVor (w : VVV) (s : State) : Out := vec2 (.vor w) w 2 (fun _ _ a b => plain (a ||| b)) s

/-- VXOR (10 R200). -/
def execVxor (w : VVV) (s : State) : Out := vec2 (.vxor w) w 2 (fun _ _ a b => plain (a ^^^ b)) s

/-- VANDN (10 R200). -/
def execVandn (w : VVV) (s : State) : Out := vec2 (.vandn w) w 2 (fun ty _ a b => plain (a &&& (2 ^ tw ty - 1 - b))) s

/-- VSHL (10 R200). -/
def execVshl (w : VVV) (s : State) : Out := vec2 (.vshl w) w 2 (shiftLane (fun _ a c => a * 2 ^ c)) s

/-- VSHR (10 R200). -/
def execVshr (w : VVV) (s : State) : Out := vec2 (.vshr w) w 2 (shiftLane (fun _ a c => a / 2 ^ c)) s

/-- VSRA (10 R200). -/
def execVsra (w : VVV) (s : State) : Out := vec2 (.vsra w) w 2 (shiftLane (fun w a c => intCode w (intOf true w a / (2 ^ c : Nat)))) s

/-- VPOPC (10 R200). -/
def execVpopc (w : VVV) (s : State) : Out := vec1 (.vpopc w) w 2 (fun ty _ a => plain (popCount a (tw ty))) s

/-- VCLZ (10 R200). -/
def execVclz (w : VVV) (s : State) : Out := vec1 (.vclz w) w 2 (fun ty _ a => plain (leadZeros a (tw ty))) s

/-! ## Floating words -/

/-- VFADD (10 R202). -/
def execVfadd (w : VVV) (s : State) : Out := vec2 (.vfadd w) w 4 (fun ty rm a b => fAdd (FFmt.ofType ty) rm a b) s

/-- VFSUB (10 R202). -/
def execVfsub (w : VVV) (s : State) : Out := vec2 (.vfsub w) w 4 (fun ty rm a b => fSub (FFmt.ofType ty) rm a b) s

/-- VFMUL (10 R202). -/
def execVfmul (w : VVV) (s : State) : Out := vec2 (.vfmul w) w 4 (fun ty rm a b => fMul (FFmt.ofType ty) rm a b) s

/-- VFMA (10 R202). -/
def execVfma (w : VVV) (s : State) : Out := vec3 (.vfma w) w 4 (fun ty rm a b c => fMulAdd (FFmt.ofType ty) rm a b c false) s

/-- VFMS (10 R202). -/
def execVfms (w : VVV) (s : State) : Out := vec3 (.vfms w) w 4 (fun ty rm a b c => fMulAdd (FFmt.ofType ty) rm a b c true) s

/-- VFMIN (10 R204). -/
def execVfmin (w : VVV) (s : State) : Out := vec2 (.vfmin w) w 2 (fun ty _ a b => fMinMax (FFmt.ofType ty) false a b) s

/-- VFMAX (10 R204). -/
def execVfmax (w : VVV) (s : State) : Out := vec2 (.vfmax w) w 2 (fun ty _ a b => fMinMax (FFmt.ofType ty) true a b) s

/-- VFABS (10 R204). -/
def execVfabs (w : VVV) (s : State) : Out := vec1 (.vfabs w) w 2 (fun ty _ a => fSign (FFmt.ofType ty) true a) s

/-- VFNEG (10 R204). -/
def execVfneg (w : VVV) (s : State) : Out := vec1 (.vfneg w) w 2 (fun ty _ a => fSign (FFmt.ofType ty) false a) s

/-- VRCP (10 R202, R203). -/
def execVrcp (w : VVV) (s : State) : Out := vec1 (.vrcp w) w 8 (fun ty rm a => transcendental 0 (FFmt.ofType ty) rm a) s

/-- VRSQ (10 R202, R203). -/
def execVrsq (w : VVV) (s : State) : Out := vec1 (.vrsq w) w 8 (fun ty rm a => transcendental 1 (FFmt.ofType ty) rm a) s

/-- VEXP2 (10 R202, R203). -/
def execVexp2 (w : VVV) (s : State) : Out := vec1 (.vexp2 w) w 8 (fun ty rm a => transcendental 2 (FFmt.ofType ty) rm a) s

/-- VLOG2 (10 R202, R203). -/
def execVlog2 (w : VVV) (s : State) : Out := vec1 (.vlog2 w) w 8 (fun ty rm a => transcendental 3 (FFmt.ofType ty) rm a) s

/-- VSIGM (10 R202, R203). -/
def execVsigm (w : VVV) (s : State) : Out := vec1 (.vsigm w) w 8 (fun ty rm a => transcendental 4 (FFmt.ofType ty) rm a) s

/-- VTANH (10 R202, R203). -/
def execVtanh (w : VVV) (s : State) : Out := vec1 (.vtanh w) w 8 (fun ty rm a => transcendental 5 (FFmt.ofType ty) rm a) s

/-- VSCALE (10 R202). -/
def execVscale (w : VVV) (s : State) : Out := vec2 (.vscale w) w 4 (fun ty rm a b => fScale (FFmt.ofType ty) rm a (intOf true (tw ty) b)) s

/-! ## Conversion and packing -/

/-- A side of VCVT: the narrow format of a Q register, or the type code's own (10 R205). -/
def vcvtSide (narrow : Bool) (q ty : Nat) : CvtSide :=
  if narrow then .flt (qFmt q) else if isF ty then .flt (FFmt.ofType ty) else .int (tySigned ty) (tw ty)

/-- VCVT (10 R205, R206). -/
def execVcvt (w : VVI) (s : State) : Out :=
  .next (runWord s .x (.vcvt w) w.hdr (fun x m =>
    let h := m.hand x.r
    let dt := w.ty.toNat
    let st := (bits w.imm 0 4).toNat
    let nq := (bits w.imm 8 2).toNat
    let part := (bits w.imm 10 3).toNat
    let q := (h.creg (0x038 + (bits w.imm 5 3).toNat)).toNat
    let n := 1024 / max (tw dt) (tw st)
    queueMeaning x m w.hdr [⟨w.a.toNat, w.ka, false, st⟩] [w.d.toNat] 4 [] (fun vs =>
      let rs := (List.range n).map (fun j =>
        convert h.xrm h.xsat (vcvtSide (nq == 1) q dt) (vcvtSide (nq == 2) q st)
          (elem (v0 vs) (tw st) (if tw dt < tw st then j else part * n + j)))
      let pad := List.replicate (if tw dt < tw st then part * n else 0) 0
      ([.queue w.d.toNat (mkEntry (tw dt) (pad ++ rs.map FRes.code))], gatherFlags rs))))

/-- The type of twice the width of a pack type, same signedness (10 R207). -/
def doubleType (ty : Nat) : Nat := match ty with | 9 => 0 | 10 => 1 | t => t + 2

/-- VPACK (10 R207). -/
def execVpack (w : VVV) (s : State) : Out :=
  .next (runWord s .x (.vpack w) w.hdr (fun x m =>
    let h := m.hand x.r
    let ty := w.ty.toNat
    let wd := tw ty
    queueMeaning x m w.hdr [opA w (doubleType ty), opB w (doubleType ty)] [w.d.toNat] 3 [] (fun vs =>
      let rs := (elems (v0 vs) (2 * wd) ++ elems (v1 vs) (2 * wd)).map
        (fun a => intToInt h.xsat (tySigned ty) wd (intOf (tySigned ty) (2 * wd) a))
      landLanes w.d.toNat wd rs)))

/-- VUNPK (10 R208). -/
def execVunpk (w : VVI) (s : State) : Out :=
  .next (runWord s .x (.vunpk w) w.hdr (fun x m =>
    let ty := w.ty.toNat
    let wd := tw ty
    let n := 512 / wd
    queueMeaning x m w.hdr [⟨w.a.toNat, w.ka, false, ty⟩] [w.d.toNat] 3 [] (fun vs =>
      ([.queue w.d.toNat (mkEntry (2 * wd) ((List.range n).map (fun j =>
        intCode (2 * wd) (intOf (tySigned ty) wd (elem (v0 vs) wd ((bits w.imm 0 1).toNat * n + j))))))], 0))))

/-! ## Compare, select and predicates -/

/-- A predicate from lane outcomes: bit j from lane j, the rest clear (10 R198). -/
def predOf (bs : List Bool) : BitVec 128 := BitVec.ofNat 128 (packElems 1 (bs.map Bool.toNat))
/-- The outcome of an integer comparison code (10 R209). -/
def iCompare (c : Nat) (a b : Int) : Bool :=
  match c with
  | 0 => a == b | 1 => a != b | 2 => a < b | 3 => a ≤ b | 4 => a > b | 5 => a ≥ b | _ => false

/-- VCMP (10 R209). -/
def execVcmp (w : VVV) (s : State) : Out :=
  .next (runWord s .x (.vcmp w) w.hdr (fun x m =>
    let ty := w.ty.toNat
    queueMeaning x m w.hdr [opA w ty, opB w ty] [] 2 [] (fun vs =>
      ([.preg (bits w.d 7 4).toNat (predOf (List.zipWith (fun a b =>
        iCompare (bits w.d 4 3).toNat (intOf (tySigned ty) (tw ty) a) (intOf (tySigned ty) (tw ty) b))
          (elems (v0 vs) (tw ty)) (elems (v1 vs) (tw ty))))], 0))))

/-- VFCMP (10 R209). -/
def execVfcmp (w : VVV) (s : State) : Out :=
  .next (runWord s .x (.vfcmp w) w.hdr (fun x m =>
    let ty := w.ty.toNat
    let f := FFmt.ofType ty
    queueMeaning x m w.hdr [opA w ty, opB w ty] [] 2 [] (fun vs =>
      let ps := List.zip (elems (v0 vs) (tw ty)) (elems (v1 vs) (tw ty))
      ([.preg (bits w.d 7 4).toNat (predOf (ps.map (fun p => fCompare (bits w.d 4 3).toNat (f.decode p.1) (f.decode p.2))))],
        ps.foldl (fun acc p => acc ||| compareFlags (f.decode p.1) (f.decode p.2)) 0))))

/-- VSEL (10 R210). -/
def execVsel (w : VVV) (s : State) : Out :=
  vec3 (.vsel w) w 2 (fun _ _ a b c => plain (if a != 0 then b else c)) s

/-- A predicate word: P[d] from the P registers its fields name (10 R211). -/
def predWord (i : Instr) (w : VVV) (srcs : List Nat) (f : Hand → BitVec 128) (s : State) : Out :=
  .next (runWord s .x i w.hdr (fun x m =>
    let h := m.hand x.r
    regMeaning x w.hdr 2 (srcs.map h.needP) [.preg (w.d.toNat - 1600) (f h)] 0))

/-- PAND (10 R211). -/
def execPand (w : VVV) (s : State) : Out :=
  predWord (.pand w) w [w.a.toNat - 1600, w.b.toNat - 1600]
    (fun h => h.preg (w.a.toNat - 1600) &&& h.preg (w.b.toNat - 1600)) s
/-- POR (10 R211). -/
def execPor (w : VVV) (s : State) : Out :=
  predWord (.por w) w [w.a.toNat - 1600, w.b.toNat - 1600]
    (fun h => h.preg (w.a.toNat - 1600) ||| h.preg (w.b.toNat - 1600)) s
/-- PNOT (10 R211). -/
def execPnot (w : VVV) (s : State) : Out :=
  predWord (.pnot w) w [w.a.toNat - 1600] (fun h => ~~~ h.preg (w.a.toNat - 1600)) s
/-- PCNT (10 R211). -/
def execPcnt (w : VVV) (s : State) : Out :=
  .next (runWord s .x (.pcnt w) w.hdr (fun x m =>
    let h := m.hand x.r
    regMeaning x w.hdr 2 [h.needP (w.a.toNat - 1600)]
      [.sreg (sKey h.ring (w.d.toNat - 1536))
        (BitVec.ofNat 64 (popCount (h.preg (w.a.toNat - 1600)).toNat (1024 / tw w.ty.toNat)))] 0))

/-! ## Reductions and scans -/

/-- The lanes of an entry cut into groups of `g`. -/
def groupsOf (g : Nat) : Nat → List Nat → List (List Nat)
  | 0, _ => []
  | k + 1, l => l.take g :: groupsOf g k (l.drop g)
/-- The group size of a reduction: 2^G lanes, the whole entry for 0 (10 R212). -/
def groupSize (w : VVI) : Nat :=
  let g := (bits w.imm 0 4).toNat
  if g = 0 then 1024 / tw w.ty.toNat else 2 ^ g
/-- A reduction: one result for each group, the rest zero (10 R212). -/
def reduceWord (i : Instr) (w : VVI) (f : Nat → List Nat → FRes) (s : State) : Out :=
  .next (runWord s .x i w.hdr (fun x m =>
    let ty := w.ty.toNat
    let g := groupSize w
    let rm := (m.hand x.r).xrm
    queueMeaning x m w.hdr [⟨w.a.toNat, w.ka, false, ty⟩] [w.d.toNat] 6 [] (fun vs =>
      landLanes w.d.toNat (tw ty) ((groupsOf g (1024 / tw ty / g) (elems (v0 vs) (tw ty))).map (f rm)))))

/-- VRADD (10 R212). -/
def execVradd (w : VVI) (s : State) : Out :=
  reduceWord (.vradd w) w (fun _ g => plain (g.foldl (· + ·) 0 % 2 ^ tw w.ty.toNat)) s
/-- The largest or smallest value of a group (10 R212, R204). -/
def extremeOf (ty : Nat) (isMax : Bool) (g : List Nat) : FRes :=
  if isF ty then
    let f := FFmt.ofType ty
    let r := g.tail.foldl (fun (acc : FRes) v => let y := fMinMax f isMax acc.code v; ⟨y.code, y.flags ||| acc.flags⟩)
      (fMinMax f isMax (g.headD 0) (g.headD 0))
    r
  else
    let v := fun c => intOf (tySigned ty) (tw ty) c
    plain (g.tail.foldl (fun acc c => if (decide (v c < v acc)) != isMax && v c != v acc then c else acc) (g.headD 0))
/-- VRMAX (10 R212). -/
def execVrmax (w : VVI) (s : State) : Out := reduceWord (.vrmax w) w (fun _ g => extremeOf w.ty.toNat true g) s
/-- VRMIN (10 R212). -/
def execVrmin (w : VVI) (s : State) : Out := reduceWord (.vrmin w) w (fun _ g => extremeOf w.ty.toNat false g) s

/-- One level of the pairwise sum in f32 (10 R213). -/
def pairSum (rm : Nat) : List Nat → List FRes
  | a :: b :: t => fAdd .f32 rm a b :: pairSum rm t
  | _ => []
/-- The levels of a group's sum, `k` of them: the f32 code and the flags gathered (10 R213). -/
def sumLevels (rm : Nat) : Nat → List Nat → Flags → Nat × Flags
  | 0, l, fl => (l.headD 0, fl)
  | k + 1, l, fl => let r := pairSum rm l; sumLevels rm k (r.map FRes.code) (fl ||| gatherFlags r)
/-- A group's floating sum in its fixed order (10 R213). -/
def rfaddGroup (ty rm : Nat) (g : List Nat) : FRes :=
  let f := FFmt.ofType ty
  -- into f32 every value is exact; a signalling NaN is an invalid input
  let wide := g.map (fun c => convertTo .f32 rm false (f.decode c))
  let r := sumLevels rm (Nat.log2 g.length) (wide.map FRes.code) (gatherFlags wide)
  let out := arithResult f rm (FFmt.f32.decode r.1, r.2)
  out
/-- VRFADD (10 R212, R213). -/
def execVrfadd (w : VVI) (s : State) : Out := reduceWord (.vrfadd w) w (fun rm g => rfaddGroup w.ty.toNat rm g) s

/-- One group of VSCAN: the running sum up to each lane, or up to and excluding it (10 R213). -/
def scanGroup (add : Nat → Nat → FRes) (excl : Bool) : Nat → List Nat → List FRes
  | _, [] => []
  | acc, v :: t =>
    let r := add acc v
    ⟨if excl then acc else r.code, r.flags⟩ :: scanGroup add excl r.code t
/-- VSCAN (10 R212, R213). -/
def execVscan (w : VVI) (s : State) : Out :=
  .next (runWord s .x (.vscan w) w.hdr (fun x m =>
    let ty := w.ty.toNat
    let g := groupSize w
    let rm := (m.hand x.r).xrm
    let add := fun a b => if isF ty then fAdd (FFmt.ofType ty) rm a b else plain ((a + b) % 2 ^ tw ty)
    queueMeaning x m w.hdr [⟨w.a.toNat, w.ka, false, ty⟩] [w.d.toNat] 6 [] (fun vs =>
      landLanes w.d.toNat (tw ty)
        ((groupsOf g (1024 / tw ty / g) (elems (v0 vs) (tw ty))).flatMap (scanGroup add (bit w.imm 4) 0)))))

/-- Is lane value `b` larger than `a`, a NaN counting as smaller than every number (10 R213)? -/
def argLess (ty a b : Nat) : Bool :=
  if isF ty then
    let f := FFmt.ofType ty
    let x := f.decode a
    let y := f.decode b
    if y.isNaN then false else if x.isNaN then true else cmpNumZ x y == .lt
  else intOf (tySigned ty) (tw ty) a < intOf (tySigned ty) (tw ty) b
/-- The position of a group's largest value, the lowest of equals (10 R212, R213). -/
def argMax (ty : Nat) (g : List Nat) : FRes :=
  let best := g.zipIdx.foldl (fun (acc : Nat × Nat) p => if argLess ty acc.1 p.1 then p else acc) (g.headD 0, 0)
  let fl := if isF ty then flagIf (g.any (fun c => ((FFmt.ofType ty).decode c).isSNaN)) flNV else 0
  ⟨best.2, fl⟩
/-- VARGMX (10 R212, R213). -/
def execVargmx (w : VVI) (s : State) : Out := reduceWord (.vargmx w) w (fun _ g => argMax w.ty.toNat g) s

/-! ## Permutes -/

/-- VPERM (10 R214). -/
def execVperm (w : VVV) (s : State) : Out :=
  .next (runWord s .x (.vperm w) w.hdr (fun x m =>
    let ty := w.ty.toNat
    let n := 1024 / tw ty
    queueMeaning x m w.hdr [opA w ty, opB w ty] [w.d.toNat] 3 [] (fun vs =>
      ([.queue w.d.toNat (mkEntry (tw ty) ((elems (v1 vs) (tw ty)).map (fun b =>
        if b % (2 * n) < n then elem (v0 vs) (tw ty) (b % (2 * n)) else 0)))], 0))))

/-- A one-source permute: element j of the result from the source's elements. -/
def permWord (i : Instr) (w : VVI) (f : (Nat → Nat) → Nat → Nat → Nat) (s : State) : Out :=
  .next (runWord s .x i w.hdr (fun x m =>
    let ty := w.ty.toNat
    let n := 1024 / tw ty
    queueMeaning x m w.hdr [⟨w.a.toNat, w.ka, false, ty⟩] [w.d.toNat] 3 [] (fun vs =>
      ([.queue w.d.toNat (mkEntry (tw ty) ((List.range n).map (f (elem (v0 vs) (tw ty)) n)))], 0))))

/-- VBCST (10 R214). -/
def execVbcst (w : VVI) (s : State) : Out := permWord (.vbcst w) w (fun a _ _ => a (bits w.imm 0 7).toNat) s
/-- VSLD (10 R214). -/
def execVsld (w : VVI) (s : State) : Out :=
  permWord (.vsld w) w (fun a n j =>
    let k := (bits w.imm 0 7).toNat
    if bit w.imm 7 then (if k ≤ j then a (j - k) else 0) else (if j + k < n then a (j + k) else 0)) s
/-- VIOTA (10 R214). -/
def execViota (w : VVI) (s : State) : Out :=
  permWord (.viota w) w (fun a _ j => ((List.range j).filter (fun i => a i != 0)).length) s

/-- A two-entry permute (10 R214): both entries are reserved at issue and land together, first before second. -/
def pairWord (i : Instr) (w : VVV) (f : Nat → List Nat → List Nat → List Nat × List Nat) (s : State) : Out :=
  .next (runWord s .x i w.hdr (fun x m =>
    let ty := w.ty.toNat
    queueMeaning x m w.hdr [opA w ty, opB w ty] [w.d.toNat, w.d.toNat] 3 [] (fun vs =>
      let r := f (1024 / tw ty) (elems (v0 vs) (tw ty)) (elems (v1 vs) (tw ty))
      ([.queue w.d.toNat (mkEntry (tw ty) r.1), .queue w.d.toNat (mkEntry (tw ty) r.2)], 0))))
/-- Two lists interleaved. -/
def interleave : List Nat → List Nat → List Nat
  | a :: s, b :: t => a :: b :: interleave s t
  | _, _ => []
/-- VZIP (10 R214). -/
def execVzip (w : VVV) (s : State) : Out :=
  pairWord (.vzip w) w (fun n a b =>
    (interleave (a.take (n / 2)) (b.take (n / 2)), interleave (a.drop (n / 2)) (b.drop (n / 2)))) s
/-- The elements at even positions, or at odd ones. -/
def everyOther (odd : Bool) (l : List Nat) : List Nat :=
  (l.zipIdx.filter (fun p => (p.2 % 2 == 1) == odd)).map (·.1)
/-- VUZP (10 R214). -/
def execVuzp (w : VVV) (s : State) : Out :=
  pairWord (.vuzp w) w (fun _ a b =>
    (everyOther false a ++ everyOther false b, everyOther true a ++ everyOther true b)) s

/-! ## VTHR and VSIGN -/

/-- The order key of a floating code (13 R250). -/
def orderKey (ty c : Nat) : Nat :=
  if ((FFmt.ofType ty).decode c).isNaN then 0
  else
    let h := if ty = 8 then c / 65536 else c
    if h / 32768 = 0 then h + 32768 else 65535 - h
/-- VTHR (13 R251). -/
def execVthr (w : VVV) (s : State) : Out :=
  vec3 (.vthr w) w 2 (fun ty _ a b c =>
    plain ((c + (if b % 65536 ≤ orderKey ty a then 1 else 0)) % 2 ^ tw ty)) s

/-- Feature `i` of the context's selection: SGSEL, register 0x060 + i / 4 (14 R265). -/
def Ctx.feature (x : Ctx) (i : Nat) : Nat := (bits (x.reg (0x060 + i / 4)) (16 * (i % 4)) 14).toNat
/-- The signature bits that one entry of the hidden row gives (14 R266). -/
def signBits (x : Ctx) (ty k : Nat) (a : Entry) (old : Nat) : Nat :=
  let w := tw ty
  let n := 1024 / w
  (List.range 16).foldl (fun acc i =>
    let f := x.feature i
    if f / n = k then
      let b := elem a w (f % n) / 2 ^ (w - 1) % 2
      if acc.testBit i then (if b = 1 then acc else acc - 2 ^ i) else acc + b * 2 ^ i
    else acc) old
/-- VSIGN (14 R266): Z starts from zero and does not pop d. -/
def execVsign (w : VVI) (s : State) : Out :=
  .next (runWord s .x (.vsign w) w.hdr (fun x m =>
    let ty := w.ty.toNat
    let z := bit w.imm 12
    let l := (bits w.imm 7 5).toNat
    queueMeaning x m w.hdr (⟨w.a.toNat, w.ka, false, ty⟩ :: if z then [] else [⟨w.d.toNat, false, false, 4⟩])
      [w.d.toNat] 2 [] (fun vs =>
        let y := if z then 0 else v1 vs
        ([.queue w.d.toNat (mkEntry 32 ((List.range 32).map (fun j =>
          if j = l then signBits (m.handCtx x.r) ty (bits w.imm 0 7).toNat (v0 vs) (elem y 32 j) else elem y 32 j)))], 0))))

end Sys2Proof.Machine
end

