-- ==== Sys2Proof/Machine/Dispatch.lean ====
section
/-! DEFINITION. The one dispatch: an arm for each constructor of Instr. -/

namespace Sys2Proof.Machine

/-- The meaning of every instruction and event. -/
def exec (i : Instr) (s : State) : Host.Outcome State Fault Refusal :=
  match i with
  | .nop w => Sys2Proof.Machine.execNop w s
  | .jmp w => Sys2Proof.Machine.execJmp w s
  | .call w => Sys2Proof.Machine.execCall w s
  | .ret w => Sys2Proof.Machine.execRet w s
  | .bra w => Sys2Proof.Machine.execBra w s
  | .brx w => Sys2Proof.Machine.execBrx w s
  | .loop w => Sys2Proof.Machine.execLoop w s
  | .align w => Sys2Proof.Machine.execAlign w s
  | .exit w => Sys2Proof.Machine.execExit w s
  | .bar w => Sys2Proof.Machine.execBar w s
  | .phase w => Sys2Proof.Machine.execPhase w s
  | .mark w => Sys2Proof.Machine.execMark w s
  | .trap w => Sys2Proof.Machine.execTrap w s
  | .sys w => Sys2Proof.Machine.execSys w s
  | .eret w => Sys2Proof.Machine.execEret w s
  | .psw w => Sys2Proof.Machine.execPsw w s
  | .aadd w => Sys2Proof.Machine.execAadd w s
  | .aaddi w => Sys2Proof.Machine.execAaddi w s
  | .asub w => Sys2Proof.Machine.execAsub w s
  | .amul w => Sys2Proof.Machine.execAmul w s
  | .amuli w => Sys2Proof.Machine.execAmuli w s
  | .ashl w => Sys2Proof.Machine.execAshl w s
  | .ashr w => Sys2Proof.Machine.execAshr w s
  | .aand w => Sys2Proof.Machine.execAand w s
  | .aor w => Sys2Proof.Machine.execAor w s
  | .axor w => Sys2Proof.Machine.execAxor w s
  | .amin w => Sys2Proof.Machine.execAmin w s
  | .amax w => Sys2Proof.Machine.execAmax w s
  | .ali w => Sys2Proof.Machine.execAli w s
  | .alih w => Sys2Proof.Machine.execAlih w s
  | .afv w => Sys2Proof.Machine.execAfv w s
  | .lda w => Sys2Proof.Machine.execLda w s
  | .sta w => Sys2Proof.Machine.execSta w s
  | .vld w => Sys2Proof.Machine.execVld w s
  | .vlds w => Sys2Proof.Machine.execVlds w s
  | .vldb w => Sys2Proof.Machine.execVldb w s
  | .vgth w => Sys2Proof.Machine.execVgth w s
  | .vst w => Sys2Proof.Machine.execVst w s
  | .vsts w => Sys2Proof.Machine.execVsts w s
  | .vsct w => Sys2Proof.Machine.execVsct w s
  | .lsalign w => Sys2Proof.Machine.execLsalign w s
  | .fence w => Sys2Proof.Machine.execFence w s
  | .atm w => Sys2Proof.Machine.execAtm w s
  | .vatm w => Sys2Proof.Machine.execVatm w s
  | .sacc w => Sys2Proof.Machine.execSacc w s
  | .saccf w => Sys2Proof.Machine.execSaccf w s
  | .finc w => Sys2Proof.Machine.execFinc w s
  | .fwt w => Sys2Proof.Machine.execFwt w s
  | .frdf w => Sys2Proof.Machine.execFrdf w s
  | .stset w => Sys2Proof.Machine.execStset w s
  | .stget w => Sys2Proof.Machine.execStget w s
  | .cpy w => Sys2Proof.Machine.execCpy w s
  | .cpyq w => Sys2Proof.Machine.execCpyq w s
  | .cpyk w => Sys2Proof.Machine.execCpyk w s
  | .ttadd w => Sys2Proof.Machine.execTtadd w s
  | .ttclr w => Sys2Proof.Machine.execTtclr w s
  | .tierq w => Sys2Proof.Machine.execTierq w s
  | .wpf w => Sys2Proof.Machine.execWpf w s
  | .wpfSpec w => Sys2Proof.Machine.execWpfSpec w s
  | .fwr w => Sys2Proof.Machine.execFwr w s
  | .frd w => Sys2Proof.Machine.execFrd w s
  | .coll w => Sys2Proof.Machine.execColl w s
  | .collq w => Sys2Proof.Machine.execCollq w s
  | .sadd w => Sys2Proof.Machine.execSadd w s
  | .saddi w => Sys2Proof.Machine.execSaddi w s
  | .ssub w => Sys2Proof.Machine.execSsub w s
  | .smul w => Sys2Proof.Machine.execSmul w s
  | .smulh w => Sys2Proof.Machine.execSmulh w s
  | .sdiv w => Sys2Proof.Machine.execSdiv w s
  | .srem w => Sys2Proof.Machine.execSrem w s
  | .sand w => Sys2Proof.Machine.execSand w s
  | .sor w => Sys2Proof.Machine.execSor w s
  | .sxor w => Sys2Proof.Machine.execSxor w s
  | .sshl w => Sys2Proof.Machine.execSshl w s
  | .sshr w => Sys2Proof.Machine.execSshr w s
  | .ssra w => Sys2Proof.Machine.execSsra w s
  | .smin w => Sys2Proof.Machine.execSmin w s
  | .smax w => Sys2Proof.Machine.execSmax w s
  | .sslt w => Sys2Proof.Machine.execSslt w s
  | .ssel w => Sys2Proof.Machine.execSsel w s
  | .sli w => Sys2Proof.Machine.execSli w s
  | .slih w => Sys2Proof.Machine.execSlih w s
  | .spopc w => Sys2Proof.Machine.execSpopc w s
  | .sclz w => Sys2Proof.Machine.execSclz w s
  | .sfadd w => Sys2Proof.Machine.execSfadd w s
  | .sfmul w => Sys2Proof.Machine.execSfmul w s
  | .sfma w => Sys2Proof.Machine.execSfma w s
  | .sfcvt w => Sys2Proof.Machine.execSfcvt w s
  | .sfcmp w => Sys2Proof.Machine.execSfcmp w s
  | .sfv w => Sys2Proof.Machine.execSfv w s
  | .svs w => Sys2Proof.Machine.execSvs w s
  | .vadd w => Sys2Proof.Machine.execVadd w s
  | .vsub w => Sys2Proof.Machine.execVsub w s
  | .vmul w => Sys2Proof.Machine.execVmul w s
  | .vmulh w => Sys2Proof.Machine.execVmulh w s
  | .vmin w => Sys2Proof.Machine.execVmin w s
  | .vmax w => Sys2Proof.Machine.execVmax w s
  | .vabs w => Sys2Proof.Machine.execVabs w s
  | .vsadd w => Sys2Proof.Machine.execVsadd w s
  | .vssub w => Sys2Proof.Machine.execVssub w s
  | .vand w => Sys2Proof.Machine.execVand w s
  | .vor w => Sys2Proof.Machine.execVor w s
  | .vxor w => Sys2Proof.Machine.execVxor w s
  | .vandn w => Sys2Proof.Machine.execVandn w s
  | .vshl w => Sys2Proof.Machine.execVshl w s
  | .vshr w => Sys2Proof.Machine.execVshr w s
  | .vsra w => Sys2Proof.Machine.execVsra w s
  | .vpopc w => Sys2Proof.Machine.execVpopc w s
  | .vclz w => Sys2Proof.Machine.execVclz w s
  | .vfadd w => Sys2Proof.Machine.execVfadd w s
  | .vfsub w => Sys2Proof.Machine.execVfsub w s
  | .vfmul w => Sys2Proof.Machine.execVfmul w s
  | .vfma w => Sys2Proof.Machine.execVfma w s
  | .vfms w => Sys2Proof.Machine.execVfms w s
  | .vfmin w => Sys2Proof.Machine.execVfmin w s
  | .vfmax w => Sys2Proof.Machine.execVfmax w s
  | .vfabs w => Sys2Proof.Machine.execVfabs w s
  | .vfneg w => Sys2Proof.Machine.execVfneg w s
  | .vrcp w => Sys2Proof.Machine.execVrcp w s
  | .vrsq w => Sys2Proof.Machine.execVrsq w s
  | .vexp2 w => Sys2Proof.Machine.execVexp2 w s
  | .vlog2 w => Sys2Proof.Machine.execVlog2 w s
  | .vsigm w => Sys2Proof.Machine.execVsigm w s
  | .vtanh w => Sys2Proof.Machine.execVtanh w s
  | .vscale w => Sys2Proof.Machine.execVscale w s
  | .vcvt w => Sys2Proof.Machine.execVcvt w s
  | .vpack w => Sys2Proof.Machine.execVpack w s
  | .vunpk w => Sys2Proof.Machine.execVunpk w s
  | .vcmp w => Sys2Proof.Machine.execVcmp w s
  | .vfcmp w => Sys2Proof.Machine.execVfcmp w s
  | .vsel w => Sys2Proof.Machine.execVsel w s
  | .pand w => Sys2Proof.Machine.execPand w s
  | .por w => Sys2Proof.Machine.execPor w s
  | .pnot w => Sys2Proof.Machine.execPnot w s
  | .pcnt w => Sys2Proof.Machine.execPcnt w s
  | .vradd w => Sys2Proof.Machine.execVradd w s
  | .vrmax w => Sys2Proof.Machine.execVrmax w s
  | .vrmin w => Sys2Proof.Machine.execVrmin w s
  | .vrfadd w => Sys2Proof.Machine.execVrfadd w s
  | .vscan w => Sys2Proof.Machine.execVscan w s
  | .vargmx w => Sys2Proof.Machine.execVargmx w s
  | .vperm w => Sys2Proof.Machine.execVperm w s
  | .vbcst w => Sys2Proof.Machine.execVbcst w s
  | .vsld w => Sys2Proof.Machine.execVsld w s
  | .vzip w => Sys2Proof.Machine.execVzip w s
  | .vuzp w => Sys2Proof.Machine.execVuzp w s
  | .viota w => Sys2Proof.Machine.execViota w s
  | .vclr w => Sys2Proof.Machine.execVclr w s
  | .vdep w => Sys2Proof.Machine.execVdep w s
  | .vmov w => Sys2Proof.Machine.execVmov w s
  | .vthr w => Sys2Proof.Machine.execVthr w s
  | .vsign w => Sys2Proof.Machine.execVsign w s
  | .mfc w => Sys2Proof.Machine.execMfc w s
  | .mtc w => Sys2Proof.Machine.execMtc w s
  | .tsr w => Sys2Proof.Machine.execTsr w s
  | .tlbi w => Sys2Proof.Machine.execTlbi w s
  | .hswap w => Sys2Proof.Machine.execHswap w s
  | .ctxsv w => Sys2Proof.Machine.execCtxsv w s
  | .ctxld w => Sys2Proof.Machine.execCtxld w s
  | .lease w => Sys2Proof.Machine.execLease w s
  | .unlse w => Sys2Proof.Machine.execUnlse w s
  | .mshape w => Sys2Proof.Machine.execMshape w s
  | .mmode w => Sys2Proof.Machine.execMmode w s
  | .wld w => Sys2Proof.Machine.execWld w s
  | .wdrop w => Sys2Proof.Machine.execWdrop w s
  | .mma w => Sys2Proof.Machine.execMma w s
  | .mmat w => Sys2Proof.Machine.execMmat w s
  | .acmal w => Sys2Proof.Machine.execAcmal w s
  | .acmfr w => Sys2Proof.Machine.execAcmfr w s
  | .acmz w => Sys2Proof.Machine.execAcmz w s
  | .acmown w => Sys2Proof.Machine.execAcmown w s
  | .acmv w => Sys2Proof.Machine.execAcmv w s
  | .acmpk w => Sys2Proof.Machine.execAcmpk w s
  | .acmst w => Sys2Proof.Machine.execAcmst w s
  | .acmad w => Sys2Proof.Machine.execAcmad w s
  | .pred w => Sys2Proof.Machine.execPred w s
  | .predup w => Sys2Proof.Machine.execPredup w s
  | .ptclr w => Sys2Proof.Machine.execPtclr w s
  | .disp w => Sys2Proof.Machine.execDisp w s
  | .rslv w => Sys2Proof.Machine.execRslv w s
  | .rsnap w => Sys2Proof.Machine.execRsnap w s
  | .emaps w => Sys2Proof.Machine.execEmaps w s
  | .pbld w => Sys2Proof.Machine.execPbld w s
  | .pbclr w => Sys2Proof.Machine.execPbclr w s
  | .pbclmp w => Sys2Proof.Machine.execPbclmp w s
  | .pbswp w => Sys2Proof.Machine.execPbswp w s
  | .pbrd w => Sys2Proof.Machine.execPbrd w s
  | .pbseed w => Sys2Proof.Machine.execPbseed w s
  | .hfv w => Sys2Proof.Machine.execHfv w s
  | .resultLanding r id => Sys2Proof.Machine.execResultLanding r id s
  | .pendingTokenEntry r f => Sys2Proof.Machine.execPendingTokenEntry r f s
  | .bankAccess id => Sys2Proof.Machine.execBankAccess id s
  | .meshFlitAdvance id => Sys2Proof.Machine.execMeshFlitAdvance id s
  | .translationWalk id => Sys2Proof.Machine.execTranslationWalk id s
  | .saccAccept c => Sys2Proof.Machine.execSaccAccept c s
  | .watchdogExpiry r => Sys2Proof.Machine.execWatchdogExpiry r s
  | .timerExpiry r => Sys2Proof.Machine.execTimerExpiry r s
  | .recordedFaultDelivery r => Sys2Proof.Machine.execRecordedFaultDelivery r s
  | .handSwapActivate core => Sys2Proof.Machine.execHandSwapActivate core s
  | .autoHandSwitch core => Sys2Proof.Machine.execAutoHandSwitch core s
  | .ttRingReadReturn ctx idx => Sys2Proof.Machine.execTtRingReadReturn ctx idx s
  | .ttEntryStart ctx idx => Sys2Proof.Machine.execTtEntryStart ctx idx s
  | .tierShardArrival mv peer crc => Sys2Proof.Machine.execTierShardArrival mv peer crc s
  | .tierShardTimeout mv => Sys2Proof.Machine.execTierShardTimeout mv s
  | .ttEntryEnd mv => Sys2Proof.Machine.execTtEntryEnd mv s
  | .tierRequestEnd mv => Sys2Proof.Machine.execTierRequestEnd mv s
  | .specFetchEnd mv => Sys2Proof.Machine.execSpecFetchEnd mv s
  | .stsetImageReturn r id => Sys2Proof.Machine.execStsetImageReturn r id s
  | .copyStart r => Sys2Proof.Machine.execCopyStart r s
  | .copyUnit r id => Sys2Proof.Machine.execCopyUnit r id s
  | .copyComplete r id => Sys2Proof.Machine.execCopyComplete r id s
  | .leaseGrant c => Sys2Proof.Machine.execLeaseGrant c s
  | .wldStart r seq => Sys2Proof.Machine.execWldStart r seq s
  | .wldComplete r seq => Sys2Proof.Machine.execWldComplete r seq s
  | .wdropAct r seq => Sys2Proof.Machine.execWdropAct r seq s
  | .mmaStart r seq => Sys2Proof.Machine.execMmaStart r seq s
  | .mmaComplete r seq => Sys2Proof.Machine.execMmaComplete r seq s
  | .modeCommandComplete r seq => Sys2Proof.Machine.execModeCommandComplete r seq s
  | .bandIdleOff c b => Sys2Proof.Machine.execBandIdleOff c b s
  | .bandWakeDone c b => Sys2Proof.Machine.execBandWakeDone c b s
  | .accumCommandStart r seq => Sys2Proof.Machine.execAccumCommandStart r seq s
  | .accumCommandComplete r seq => Sys2Proof.Machine.execAccumCommandComplete r seq s
  | .rslvStart r seq => Sys2Proof.Machine.execRslvStart r seq s
  | .emapUpdate id => Sys2Proof.Machine.execEmapUpdate id s
  | .frameArrival id => Sys2Proof.Machine.execFrameArrival id s
  | .heldFrameResume c ctx => Sys2Proof.Machine.execHeldFrameResume c ctx s
  | .dispComplete id => Sys2Proof.Machine.execDispComplete id s
  | .pbitCommandStart d => Sys2Proof.Machine.execPbitCommandStart d s
  | .pbitSweep d => Sys2Proof.Machine.execPbitSweep d s
  | .pbitCommandComplete d => Sys2Proof.Machine.execPbitCommandComplete d s
  | .dealIteration d => Sys2Proof.Machine.execDealIteration d s
  | .launchComplete l => Sys2Proof.Machine.execLaunchComplete l s
  | .barrierComplete ctx lvl inst => Sys2Proof.Machine.execBarrierComplete ctx lvl inst s
  | .flagWaitServed ctx team f => Sys2Proof.Machine.execFlagWaitServed ctx team f s
  | .remoteFincArrival ctx hand c f v who snap iseq => Sys2Proof.Machine.execRemoteFincArrival ctx hand c f v who snap iseq s
  | .contextAgentFinc ctx hand c f v => Sys2Proof.Machine.execContextAgentFinc ctx hand c f v s
  | .shapeVariableWrite r ix v push => Sys2Proof.Machine.execShapeVariableWrite r ix v push s
  | .queueSchedulerPass => Sys2Proof.Machine.execQueueSchedulerPass s
  | .queueLaunchStart slot => Sys2Proof.Machine.execQueueLaunchStart slot s
  | .queueWait slot => Sys2Proof.Machine.execQueueWait slot s
  | .queueSignal slot => Sys2Proof.Machine.execQueueSignal slot s
  | .queueNop slot => Sys2Proof.Machine.execQueueNop slot s
  | .notify j queue index => Sys2Proof.Machine.execNotify j queue index s
  | .memwr j va data => Sys2Proof.Machine.execMemwr j va data s
  | .memrd j va n => Sys2Proof.Machine.execMemrd j va n s
  | .regwr j creg core v => Sys2Proof.Machine.execRegwr j creg core v s
  | .regrd j creg core => Sys2Proof.Machine.execRegrd j creg core s
  | .attest j nonce => Sys2Proof.Machine.execAttest j nonce s
  | .haltlog j => Sys2Proof.Machine.execHaltlog j s
  | .ctxnew j part => Sys2Proof.Machine.execCtxnew j part s
  | .ctxend j => Sys2Proof.Machine.execCtxend j s
  | .remoteRowArrival row => Sys2Proof.Machine.execRemoteRowArrival row s
  | .peerAck id status reason data => Sys2Proof.Machine.execPeerAck id status reason data s
  | .peerAckTimeout r seq => Sys2Proof.Machine.execPeerAckTimeout r seq s
  | .collBlockExchange r seq peers => Sys2Proof.Machine.execCollBlockExchange r seq peers s
  | .collStepArrival r seq k ext => Sys2Proof.Machine.execCollStepArrival r seq k ext s
  | .collComplete r seq => Sys2Proof.Machine.execCollComplete r seq s
  | .parkrpl r v => Sys2Proof.Machine.execParkrpl r v s
  | .parkdis r v => Sys2Proof.Machine.execParkdis r v s
  | .dnext r v => Sys2Proof.Machine.execDnext r v s
  | .drxrWrite r v => Sys2Proof.Machine.execDrxrWrite r v s
  | .drxWrite r v => Sys2Proof.Machine.execDrxWrite r v s
  | .dlstWrite r v => Sys2Proof.Machine.execDlstWrite r v s
  | .dovfWrite r v => Sys2Proof.Machine.execDovfWrite r v s
  | .spteOpen r v => Sys2Proof.Machine.execSpteOpen r v s
  | .spteFree r v => Sys2Proof.Machine.execSpteFree r v s
  | .ttctlWrite r creg v => Sys2Proof.Machine.execTtctlWrite r creg v s
  | .swinWrite r v => Sys2Proof.Machine.execSwinWrite r v s
  | .qRegisterWrite r ix v => Sys2Proof.Machine.execQRegisterWrite r ix v s
  | .cpqnWrite r v => Sys2Proof.Machine.execCpqnWrite r v s
  | .boostRequest r v => Sys2Proof.Machine.execBoostRequest r v s
  | .boostWithdraw r => Sys2Proof.Machine.execBoostWithdraw r s
  | .boostAnswer r granted => Sys2Proof.Machine.execBoostAnswer r granted s
  | .boostExpiry r => Sys2Proof.Machine.execBoostExpiry r s
  | .powerWindow => Sys2Proof.Machine.execPowerWindow s
  | .sensorSample => Sys2Proof.Machine.execSensorSample s
  | .zcmdEvacuate r => Sys2Proof.Machine.execZcmdEvacuate r s
  | .zcmdRefill r => Sys2Proof.Machine.execZcmdRefill r s
  | .evacStateAdvance z => Sys2Proof.Machine.execEvacStateAdvance z s
  | .evacTimeout z => Sys2Proof.Machine.execEvacTimeout z s
  | .pevqrWrite r v => Sys2Proof.Machine.execPevqrWrite r v s
  | .rpctlWrite r v => Sys2Proof.Machine.execRpctlWrite r v s
  | .replayDivergence p index => Sys2Proof.Machine.execReplayDivergence p index s
  | .ptpMessage offset err => Sys2Proof.Machine.execPtpMessage offset err s
  | .ttmissRead r sd => Sys2Proof.Machine.execTtmissRead r sd s
  | .ttlateRead r sd => Sys2Proof.Machine.execTtlateRead r sd s
  | .frznRead r sd => Sys2Proof.Machine.execFrznRead r sd s
  | .dcntRead r sd => Sys2Proof.Machine.execDcntRead r sd s
  | .sptcntRead r sd => Sys2Proof.Machine.execSptcntRead r sd s
  | .ecntRead r sd => Sys2Proof.Machine.execEcntRead r sd s
  | .controlRegisterWrite r creg v => Sys2Proof.Machine.execControlRegisterWrite r creg v s
  | .deviceReset => Sys2Proof.Machine.execDeviceReset s
  | .bootVerification images => Sys2Proof.Machine.execBootVerification images s
  | .cxlLinkChange p up wid rate capg => Sys2Proof.Machine.execCxlLinkChange p up wid rate capg s
  | .uePortLinkChange p up => Sys2Proof.Machine.execUePortLinkChange p up s
  | .peerReadArrival ctx va n => Sys2Proof.Machine.execPeerReadArrival ctx va n s
  | .tlbiComplete r id => Sys2Proof.Machine.execTlbiComplete r id s

end Sys2Proof.Machine
end

