-- ==== Sys2Proof/Machine/Step.lean ====
section
/-! DEFINITION. One step of the machine: what `plan` says, by exec or without it; and the placing of one word where the
next step fetches. -/

namespace Sys2Proof.Machine

/-- One step: an instruction or event by exec, or a move of the machine (log 1). -/
def step (s : State) : Host.Outcome State Fault Refusal :=
  match plan s with
  | .run i s' => exec i s'
  | .quiet s' => .next s'
  | .stop f => .fault f

/-- `s` with the word of the low `nbits` bits of `w` as the text of context 1 on cluster 0, hand 0 of core 0 running it at
offset 0, and the turn at the engine that executes it: the tag's own; for an ALL word the last engine to arrive at a
rendezvous, the decider of a decided word, or A (log 12). -/
def State.withFetchWord (s : State) (nbits w : Nat) : State :=
  let wd : W64 := BitVec.ofNat 64 (w % 2 ^ nbits)
  let h0 := s.m.hand 0
  let wait := (wordHdr wd).wait.toNat
  let met := wordTag wd == 0 && meets h0 .m wd
  let e : Engine := match wordTag wd with
    | 1 => .a | 2 => .x | 3 => .m | _ => if met then .m else if wordOpcode wd = 5 then .x else .a
  let prep (a : Bool) (x : EngineState) : EngineState := { x with pc := 0, prev := 0, words := 0, notBefore := 0, bkOff := true, arrived := a }
  let h := { h0 with ctx := 1, thread := true, aside := false, draining := false, coWait := false, askLease := false,
                     tlbi := none, ttAdds := [], holdTill := 0, barTill := 0, blocked := none,
                     vclk := wait + 1, ea := prep met h0.ea, ex := prep met h0.ex, em := prep false h0.em }
  let m := (s.m.setHand 0 h).modCluster 0 (fun c => { c with text := c.text.set 1 [wd] })
  { s with turn := .attempt 0 e,
           m := { m with active := m.active.set 0 0, halted := none, bad := none, dev := { m.dev with bootst := 0 },
                         parts := m.parts.map (fun p => (p.1, { p.2 with throttle := false })) } }

end Sys2Proof.Machine
end

