-- ==== Sys2Proof/Safety.lean ====
section
/-! DEFINITION. What counts as a safe run, and the vocabulary that the claims are stated in: the hand whose turn it is,
when a word may issue, the machine with a word issued, and a result on its way. -/

namespace Sys2Proof.Machine

/-- The package has not halted (19 R362). -/
def State.running (s : State) : Bool := s.m.halted.isNone

/-- The memory is in its one canonical form (log 3). -/
def State.memWf (s : State) : Bool := s.m.mem.wf

/-- A step that goes on: neither a fault nor a refusal. -/
def State.goesOn (s : State) : Prop := ∃ t, step s = .next t

/-! ## The word that has the turn -/

/-- The hand whose turn it is. -/
abbrev State.hand (s : State) : Hand := s.m.hand s.cur
/-- The cluster of that hand. -/
abbrev State.cluster (s : State) : Cluster := s.m.cluster (clusterOf s.cur)
/-- The context that it holds. -/
abbrev State.ctx (s : State) : Ctx := s.m.ctx s.hand.ctx
/-- The next state with machine `m`. -/
abbrev State.goes (s : State) (m : Mach) : Host.Outcome State Fault Refusal := .next { s with m := m }

/-- A word may issue at engine `e` as far as its header says: it passes checks 1 to 5 of 03 R54, the FIFO that pop-from
names holds a token that can be popped, and the FIFO that push-to names has a place (07 R143). -/
abbrev MayIssue (s : State) (e : Engine) (i : Instr) (hd : Hdr) : Prop :=
  i.check = none
    ∧ (popFifo e hd.pop ≠ 0 → 0 < (s.hand.fifo (popFifo e hd.pop)).avail s.tb)
    ∧ (pushFifo e hd.push ≠ 0 →
        (s.hand.fifo (pushFifo e hd.push)).count + (s.hand.fifo (pushFifo e hd.push)).reserved
          + (s.hand.fifo (pushFifo e hd.push)).pend < 16)
/-- Every earlier write of A[n] has landed; A0 needs none (07 R137). -/
abbrev ReadyA (s : State) (n : BitVec 5) : Prop := n = 0 ∨ s.hand.pendA (aKey s.hand.ring n.toNat) = false
/-- Every earlier write of S[n] has landed; S0 needs none (07 R137). -/
abbrev ReadyS (s : State) (n : Nat) : Prop := n = 0 ∨ s.hand.pendS (sKey s.hand.ring n) = false
/-- The checks of 07 R140 on the sources `os` and the queues `pushes` pass: no source underflows, no pushed queue
overflows, the pool has an entry for each push, and every head, and every broadcast S or P source, has landed. -/
abbrev Sources (s : State) (e : Engine) (os : List Opnd) (pushes : List Nat) : Prop :=
  s.hand.queueStop (s.hand.opReads e os) pushes = none ∧ ∀ o ∈ os, s.hand.opStop o = none

/-- The machine with a word issued at engine `e`: its token popped, the PC past it, the engine's counters raised. -/
def State.issued (s : State) (e : Engine) (hd : Hdr) : Mach :=
  s.m.modHand s.cur (fun h => h.issueAt s.tb e (popFifo e hd.pop))
/-- The machine with a word issued and its source operands read (07 R139, R142). -/
def State.took (s : State) (e : Engine) (hd : Hdr) (os : List Opnd) : Mach :=
  (s.issued e hd).modHand s.cur (takeOps s.hand e os)
/-- Machine `m` with a result of the word on its way: what lands, the flags it sets, the token it pushes, and its landing
`lat` cycles after the issue. -/
abbrev State.lands (s : State) (e : Engine) (hd : Hdr) (m : Mach) (ls : List Land) (fl : Flags) (lat : Nat) :
    Host.Outcome State Fault Refusal :=
  s.goes (m.issueResult s.cur ls fl (pushFifo e hd.push) (s.tb + lat) true (e == .x))
/-- A[d] takes a value, `lat` cycles after the issue of a word that reads no queue. -/
abbrev State.setsA (s : State) (hd : Hdr) (d : BitVec 5) (lat : Nat) (v : W64) : Host.Outcome State Fault Refusal :=
  s.lands .a hd (s.issued .a hd) [.areg (aKey s.hand.ring d.toNat) v] 0 lat
/-- S[d] takes a value and XFLAGS the flags, `lat` cycles after the issue of a word that reads no queue. -/
abbrev State.setsS (s : State) (hd : Hdr) (d : BitVec 6) (lat : Nat) (v : W64) (fl : Flags) :
    Host.Outcome State Fault Refusal :=
  s.lands .x hd (s.issued .x hd) [.sreg (sKey s.hand.ring d.toNat) v] fl lat

end Sys2Proof.Machine
end

