-- ==== Sys2Proof/Certificates/Slice0/Obligations.lean ====
section
/-! DEFINITION. The statements for the provers: what the spec's rules say each instruction and event does, that each one
completes and where, what it leaves unchanged, and what every step keeps. A statement of a word's result is an equation
with the exact next state, so it says the frame as well: whatever the right side does not change is unchanged. -/

namespace Sys2Proof.Claims

open Sys2Proof.Machine

/-! ## Shapes shared by statements -/

/-- An AAA word that writes A[d]: with its sources landed it completes, and A[d] takes `f` of A[a] and A[b] `lat` cycles
later. -/
def AddressWord (i : AAA → Instr) (lat : Nat) (f : AAA → W64 → W64 → W64) : Prop :=
  ∀ (s : State) (w : AAA), ReadyA s w.a → ReadyA s w.b → MayIssue s .a (i w) w.hdr →
    exec (i w) s = s.setsA w.hdr w.d lat (f w (s.hand.areg w.a.toNat) (s.hand.areg w.b.toNat))

/-- An SSS word that writes S[d] and sets no flag: with its sources landed it completes, and S[d] takes `f` of S[a] and
S[b] `lat` cycles later. -/
def ScalarWord (i : SSS → Instr) (lat : Nat) (f : SSS → W64 → W64 → W64) : Prop :=
  ∀ (s : State) (w : SSS), ReadyS s w.a.toNat → ReadyS s w.b.toNat → MayIssue s .x (i w) w.hdr →
    exec (i w) s = s.setsS w.hdr w.d lat (f w (s.hand.sreg w.a.toNat) (s.hand.sreg w.b.toNat)) 0

/-- Does `a` come before `b`, unsigned or signed? -/
def before (unsigned : Bool) (a b : W64) : Bool := if unsigned then a.toNat < b.toNat else a.toInt < b.toInt

/-- The format of a scalar floating word (09 R182). -/
abbrev scalarFmt (w : SSS) : FFmt := FFmt.ofType (w.imm.toNat % 16)
/-- The code of S[n], in the low bits of the word's format (09 R181). -/
abbrev scalarCode (s : State) (w : SSS) (n : BitVec 6) : Nat := (s.hand.sreg n.toNat).toNat % 2 ^ (scalarFmt w).width
/-- The code of S[b] with its sign bit turned where NB is set (09 R182). -/
abbrev scalarCodeB (s : State) (w : SSS) : Nat :=
  if w.imm.getLsbD 4 then scalarCode s w w.b ^^^ (scalarFmt w).signBit else scalarCode s w w.b

/-- A value that is no NaN on the extended line; both zeros are 0. -/
def onLine : FVal → WithBot (WithTop ℚ)
  | .nan _ => ⊥
  | .inf n => if n then ⊥ else ⊤
  | .fin x => (((if x.neg then -1 else 1) * (x.mag : ℚ) * (2 : ℚ) ^ x.exp : ℚ) : WithBot (WithTop ℚ))
/-- Comparison code `c` (eq, ne, lt, le, gt, ge, un) of two values: with a NaN only ne and un hold (09 R184). -/
def compares (c : Nat) (a b : FVal) : Bool :=
  match c with
  | 0 => !(a.isNaN || b.isNaN) && decide (onLine a = onLine b)
  | 1 => a.isNaN || b.isNaN || decide (onLine a ≠ onLine b)
  | 2 => !(a.isNaN || b.isNaN) && decide (onLine a < onLine b)
  | 3 => !(a.isNaN || b.isNaN) && decide (onLine a ≤ onLine b)
  | 4 => !(a.isNaN || b.isNaN) && decide (onLine b < onLine a)
  | 5 => !(a.isNaN || b.isNaN) && decide (onLine b ≤ onLine a)
  | 6 => a.isNaN || b.isNaN
  | _ => false

/-- The value of a word's operand number `k`: the head its queue holds, the latch, or the entry a special source builds
(07 R139, R142, 10 R197). -/
abbrev operand (s : State) (e : Engine) (os : List Opnd) (k : Nat) : Entry := (opValues s.hand e os).getD k 0
/-- Element `j` of an entry of type `ty` as a value: signed for an i type, unsigned for any other (07 R153). -/
abbrev laneValue (ty : Nat) (x : Entry) (j : Nat) : Int := intOf (tySigned ty) (tw ty) (elem x (tw ty) j)
/-- The one source of a VVI word. -/
abbrev sourceOf (w : VVI) (ty : Nat) : List Opnd := [⟨w.a.toNat, w.ka, false, ty⟩]

/-- The sources of a two-source VVV word: a with its keep and hold bits, then b (03 R45, 07 R142). -/
abbrev sources2 (w : VVV) : List Opnd := [⟨w.a.toNat, w.ka, w.h, w.ty.toNat⟩, ⟨w.b.toNat, w.kb, false, w.ty.toNat⟩]
/-- The source of a one-source VVV word. -/
abbrev sources1 (w : VVV) : List Opnd := [⟨w.a.toNat, w.ka, false, w.ty.toNat⟩]
/-- The sources of a three-source VVV word: a, b, and the head of d, which the hold bit keeps (10 R199). -/
abbrev sources3 (w : VVV) : List Opnd :=
  [⟨w.a.toNat, w.ka, false, w.ty.toNat⟩, ⟨w.b.toNat, w.kb, false, w.ty.toNat⟩, ⟨w.d.toNat, w.h, false, 4⟩]

/-- A VVV word that pushes one entry: with its sources landed and a place for its push it completes; lane `j` of the
pushed entry, of the type's width, is `f` of type, lane number, hand and operands; it sets the flags `fl`, and lands
`lat` vc after its issue. -/
def LaneWord (i : VVV → Instr) (os : VVV → List Opnd) (lat : Nat)
    (f : Nat → Hand → (Nat → Entry) → Nat → Nat) (fl : Nat → Hand → (Nat → Entry) → Flags := fun _ _ _ => 0) : Prop :=
  ∀ (s : State) (w : VVV), Sources s .x (os w) [w.d.toNat] → MayIssue s .x (i w) w.hdr →
    ∃ r, exec (i w) s = s.lands .x w.hdr (s.took .x w.hdr (os w)) [.queue w.d.toNat r]
        (fl w.ty.toNat s.hand (operand s .x (os w))) lat ∧
      ∀ j, j < 1024 / tw w.ty.toNat →
        elem r (tw w.ty.toNat) j = f w.ty.toNat s.hand (operand s .x (os w)) j
/-- An integer word of two sources, its lane result a function of the two lane values, wrapped to the width. -/
def IntegerWord (i : VVV → Instr) (f : Nat → Int → Int → Int) : Prop :=
  LaneWord i sources2 2 (fun ty _ v j => (f ty (laneValue ty (v 0) j) (laneValue ty (v 1) j) % (2 : Int) ^ tw ty).toNat)
/-- A bitwise word: bit `k` of each lane from the same bits of the two lanes. -/
def BitWord (i : VVV → Instr) (f : Bool → Bool → Bool) : Prop :=
  ∀ (s : State) (w : VVV), Sources s .x (sources2 w) [w.d.toNat] → MayIssue s .x (i w) w.hdr →
    ∃ r, exec (i w) s = s.lands .x w.hdr (s.took .x w.hdr (sources2 w)) [.queue w.d.toNat r] 0 2 ∧
      ∀ k, k < 1024 → r.getLsbD k =
        f ((operand s .x (sources2 w) 0).getLsbD k) ((operand s .x (sources2 w) 1).getLsbD k)
/-- A floating word whose lanes are computed one by one in XMODE.RM, and whose flags gather over all lanes. -/
def FloatWord (i : VVV → Instr) (os : VVV → List Opnd) (lat : Nat) (f : FFmt → Nat → (Nat → Nat) → FRes) : Prop :=
  let res := fun ty (h : Hand) (v : Nat → Entry) j => f (FFmt.ofType ty) h.xrm (fun k => elem (v k) (tw ty) j)
  LaneWord i os lat (fun ty h v j => (res ty h v j).code)
    (fun ty h v => gatherFlags ((List.range (1024 / tw ty)).map (res ty h v)))

/-- A branch target: 8 bytes for each word of the signed offset, from the branching word (03 R39). -/
abbrev branchTo {n : Nat} (s : State) (e : Engine) (off : BitVec n) : W64 :=
  (s.hand.engine e).pc + BitVec.ofInt 64 (8 * off.toInt)
/-- The conditions of 09 R189. -/
def taken (c : BitVec 3) (x y : W64) : Bool :=
  match c.toNat with
  | 0 => decide (x = y)
  | 1 => decide (x ≠ y)
  | 2 => decide (x.toInt < y.toInt)
  | 3 => decide (y.toInt ≤ x.toInt)
  | 4 => decide (x.toNat < y.toNat)
  | _ => decide (y.toNat ≤ x.toNat)
/-- The machine after the decider `e` of a decided word: what the word does to the hand, the outcome told to both other
engines, and the decider's PC (09 R190). -/
def decided (s : State) (e : Engine) (hd : Hdr) (act : Hand → Hand) (dest : W64) (b : Bool) : Mach :=
  (s.issued e hd).modHand s.cur (fun h =>
    let h := act h
    let tell := fun (f : Engine) (y : EngineState) =>
      if f = e then { y with pc := if b then dest else y.pc } else { y with outq := y.outq ++ [b] }
    { h with ea := tell .a h.ea, ex := tell .x h.ex, em := tell .m h.em })
/-- The machine after a follower, whose outcome bit was `b` before `t` (09 R190). -/
def follows (s : State) (hd : Hdr) (dest : W64) (b : Bool) (t : List Bool) : Mach :=
  (s.issued s.eng hd).modHand s.cur (fun h =>
    h.modEngine s.eng (fun y => { y with outq := t, pc := if b then dest else y.pc }))

/-- The machine at the cut of a trap of hand `r`: its barrier arrivals and flag waits withdrawn, and the walks that failed
forgotten (17 R321, R342; log 20). -/
abbrev cutOf (m : Mach) (now r : Nat) : Mach := (m.withdraw now r).dropFailed (clusterOf r)

/-- The checks 4 to 7 of 06 R119 pass for accesses of `n` bytes at `lanes`: aligned, in the window or translated with the
permission, outside the cluster's range table, and for a store to another cluster's slice the phase is open. -/
def CanAccess (s : State) (lanes : List W64) (n : Nat) (wr store : Bool) : Prop :=
  ∀ a ∈ lanes, a.toNat % n = 0 ∧ (∃ k, s.m.xlate s.cur a n wr = .key k) ∧ s.m.inRange s.cur a n = false ∧
    (store = true → otherSlice s.cur a = true → s.m.phase s.cur = true)
/-- The LSALIGNs that stand in both queues (06 R123). -/
abbrev alignsIn (h : Hand) : List Nat := h.aligns.filter (fun n => h.accs.any (fun a => decide (a.id < n)))
/-- The places taken in a load or store queue (06 R118, R123). -/
abbrev placesUsed (s : State) (isLoad : Bool) : Nat :=
  ((s.hand.accs.filter (fun a => a.isLoad == isLoad)).filter (fun a => a.op != .img 0 || !a.keys.isEmpty)).length + (alignsIn s.hand).length
/-- The hand has a place in its load or store queue (06 R118), and no older access is beyond its nominal time before an LSALIGN (R123). -/
abbrev Room (s : State) (isLoad : Bool) : Prop :=
  placesUsed s isLoad < 16 ∧
    ∀ a ∈ s.hand.accs, a.id < s.hand.alignAt → s.tb ≤ a.doneAt
/-- The command queue of a hand takes one more (11 R233): it holds fewer than eight, or, for a word that has found it full before, the oldest
that was in it then has completed. -/
abbrev CmdRoom (s : State) : Prop :=
  if s.hand.stage = 0 then (s.m.cmdsOf s.cur).length < 8 else ∀ c ∈ s.m.cmdsOf s.cur, BitVec.ofNat 64 c.acc ≠ s.hand.stageV
/-- A hand with the token of a word whose effect is complete in its issue vc (07 R143). -/
abbrev tokenNow (s : State) (e : Engine) (hd : Hdr) (h : Hand) : Hand :=
  if hd.push = 0 then h else (h.reserveTok (pushFifo e hd.push)).enterTok s.tb (pushFifo e hd.push)
/-- The register of an AM word as a popped operand. -/
abbrev popped (w : AM) : Opnd := ⟨w.q.toNat, false, false, 4⟩
/-- A[base] + A[index] x scale + displacement (06 R120). -/
abbrev wordAddr (h : Hand) (w : AM) : W64 :=
  h.areg w.base.toNat + h.areg w.index.toNat * BitVec.ofNat 64 (2 ^ w.size.toNat) + w.disp.signExtend 64
/-- A[base] + displacement + i x A[index] x scale, for the 32 lanes (06 R120). -/
abbrev strideAddrs (h : Hand) (w : AM) : List W64 :=
  (List.range 32).map (fun i => h.areg w.base.toNat + w.disp.signExtend 64
    + BitVec.ofNat 64 i * (h.areg w.index.toNat * BitVec.ofNat 64 (2 ^ w.size.toNat)))
/-- A[base] + displacement + offset x scale, each lane's signed offset from an entry (06 R120). -/
abbrev indexAddrs (h : Hand) (w : AM) (off : Entry) : List W64 :=
  (List.range 32).map (fun i => h.areg w.base.toNat + w.disp.signExtend 64
    + BitVec.ofInt 64 (intOf true 32 (elem off 32 i)) * BitVec.ofNat 64 (2 ^ w.size.toNat))
/-- The address of an atomic, whose displacement has 12 bits (06 R126). -/
abbrev atomicAddr (h : Hand) (w : AM) : W64 :=
  h.areg w.base.toNat + h.areg w.index.toNat * BitVec.ofNat 64 (2 ^ w.size.toNat)
    + BitVec.ofInt 64 (intOf true 12 w.disp.toNat)
/-- A load or atomic that passes its checks issues, with its result on its way and its access in the load queue. -/
def LoadWord (i : AM → Instr) (os : AM → List Opnd) (pushes : AM → List Nat) (n : Nat)
    (lanes : Hand → AM → (Nat → Entry) → List W64) (land : State → AM → Land) (op : AM → AccOp) (reg : State → AM → Nat)
    (atomic : Bool := false) (data : (Nat → Entry) → Entry := fun _ => 0)
    (dataOf : AM → (Nat → Entry) → Entry := fun _ => data) (cmp : (Nat → Entry) → Entry := fun _ => 0) (lat : Nat := 4) : Prop :=
  ∀ (s : State) (w : AM), let v := operand s .a (os w)
    let ls := lanes s.hand w v
    Sources s .a (os w) (pushes w) → ReadyA s w.base → ReadyA s w.index → CanAccess s ls n atomic false →
    (atomic = true → ∀ a ∈ ls, a.getLsbD 63 = false) → Room s true →
    MayIssue s .a (i w) w.hdr →
    exec (i w) s = s.goes (((s.took .a w.hdr (os w)).issueResult s.cur [land s w] 0 (pushFifo .a w.hdr.push) 0 false false).enqueue
      s.tb s.cur { id := 0, hand := s.cur, isLoad := true, op := op w, keys := ls.map (fun a => s.m.keyOf s.cur a n atomic),
                   rows := [], data := dataOf w v, cmp := (if atomic then cmp v else 0), land := lat, res := s.m.nextId,
                   reg := reg s w } ls)
/-- A store that passes its checks issues, with its access and data in the store queue. -/
def StoreWord (i : AM → Instr) (os : AM → List Opnd) (n : Nat) (lanes : Hand → AM → (Nat → Entry) → List W64) (op : AccOp)
    (data : Hand → AM → (Nat → Entry) → Entry) (more : State → AM → Prop) : Prop :=
  ∀ (s : State) (w : AM), let v := operand s .a (os w)
    let ls := lanes s.hand w v
    Sources s .a (os w) [] → ReadyA s w.base → ReadyA s w.index → more s w → CanAccess s ls n true true →
    Room s false → MayIssue s .a (i w) w.hdr →
    exec (i w) s = s.goes (((s.took .a w.hdr (os w)).modHand s.cur (fun h => h.reserveTok (pushFifo .a w.hdr.push))).enqueue
      s.tb s.cur { id := 0, hand := s.cur, isLoad := false, op := op, keys := ls.map (fun a => s.m.keyOf s.cur a n true),
                   rows := [], data := data s.hand w v, push := pushFifo .a w.hdr.push } ls)
/-- What a load or atomic of rows with no error lands (06 R121, R126): the bytes at its keys. -/
def bankLands (m : Mach) (a : Access) : List Land :=
  let k := a.keys.headD 0
  let word := fun k => leNat (m.bytes k 4)
  match a.op with
  | .load8 => [.areg a.reg (BitVec.ofNat 64 (leNat (m.bytes k 8)))]
  | .load128 | .vatm _ => [.queue a.reg (BitVec.ofNat 1024 (leNat (m.bytes k 128)))]
  | .loadB => [.queue a.reg (mkEntry 32 (List.replicate 32 (word k)))]
  | .gather => [.queue a.reg (mkEntry 32 (a.keys.map word))]
  | .atm _ => [.queue a.reg (mkEntry 32 [word k])]
  | _ => []
/-- The new value of a word under a bank atomic (06 R125): the old value, the operand, the compare value. -/
def newValue (op old v c : Nat) : Nat :=
  match op with
  | 0 => (old + v) % 2 ^ 32
  | 1 => old &&& v
  | 2 => old ||| v
  | 3 => old ^^^ v
  | 4 => if intOf true 32 v < intOf true 32 old then v else old
  | 5 => if intOf true 32 old < intOf true 32 v then v else old
  | 6 => min old v
  | 7 => max old v
  | 8 => v
  | 9 => if old = c then v else old
  | _ => (fAdd .f32 0 old v).code

/-- The amount of a flag word: the low 32 bits of A[b], or 1 for A0 (17 R324). -/
abbrev amountOf (s : State) (w : AAA) : W32 := if w.b = 0 then 1 else BitVec.ofNat 32 (s.hand.areg w.b.toNat).toNat

/-- The number of the accesses that the reads of an engine command stand behind: with .acq all those issued before it, else those before
the latest FENCE .rel of the thread (18 R348, R350). -/
abbrev behind (s : State) (w : AC) : Nat := if w.acq then s.m.nextId else s.hand.relAt
/-- Machine `m` with `n` 32-byte images at A[desc] on their way through the load queue for command `kind` of the tier engine
(04 R81, R83, R84). -/
abbrev readsImages (s : State) (w : AC) (n kind reg res : Nat) (m : Mach) : Mach :=
  let a := s.hand.areg w.desc.toNat
  let ks := (List.range n).map (fun i => s.m.keyOf s.cur (a + BitVec.ofNat 64 (32 * i)) 32 false)
  m.enqueue s.tb s.cur { id := 0, hand := s.cur, isLoad := true, op := .img kind, keys := ks, rows := [], reg := reg,
                         push := w.tt.toNat, res := res, after := behind s w } (rowStarts a (32 * n))

/-- The event `i` is a write of `v` to register `n` by hand `r` (19 R370): it is performed with the ring of the register and a
value that the register takes; a free of a speculation entry that must wait is noted in the entry (14 R274); nothing changes otherwise. -/
abbrev WritesRegister (s : State) (r n : Nat) (v : W64) (i : Instr) : Prop :=
  exec i s = s.goes (if cregRing n ≤ (s.m.hand r).ring then
    match s.m.cregStop (s.m.who r) n v with
    | none => s.m.cregWrite s.tb (s.m.who r) n v
    | some (.freeze _ _) => s.m.spteFreeing r
    | some _ => s.m
    else s.m)

/-- The array of the hand's die takes a further p-bit command of it: no other context owns it, and the core has a place (16 R304,
R305). -/
abbrev PbitMay (s : State) : Prop :=
  let x := s.m.die (dieOf (clusterOf s.cur))
  (x.owner = none ∨ x.owner = some s.hand.ctx) ∧ (x.queue.filter (fun c => coreOf c.hand == coreOf s.cur)).length < 4
/-- A p-bit word issues, and its command joins the queue of its die's array; the hands are `hs`. -/
def PbitJoins (s : State) (i : Instr) (hs : KMap Hand) (op : PbOp) (push : Nat) (takes : Bool) : Prop :=
  let d := dieOf (clusterOf s.cur)
  let x := s.m.die d
  let key := fun (c : PbCmd) => (c.hand, c.ctx, c.op, c.push, c.started, c.left)
  ∃ m, exec i s = s.goes m ∧ m.hands = hs ∧ m.mem = s.m.mem ∧ (∀ e, e ≠ d → m.die e = s.m.die e) ∧
    (m.die d).cells = x.cells ∧ (m.die d).queue.map key = x.queue.map key ++ [(s.cur, s.hand.ctx, op, push, false, 0)] ∧
    (m.die d).owner = (if takes && x.owner.isNone then some s.hand.ctx else x.owner) ∧
    (x.queue = [] → ∃ c, (m.die d).queue = [c] ∧ c.startT = s.tb ∧ (s.tb, .pbitCommandStart d) ∈ m.agenda)

/-- Where the entry of index `rd` lies in the ring of a queue's descriptor `d` (17 R335, R336). -/
def entryAddr (d : List Byte) (rd : Nat) : W64 := BitVec.ofNat 64 (field d 0 8 + 64 * (rd % 2 ^ (field d 8 1 % 32)))
/-- Slot `i` maps queue `q`, which is READY or BLOCKED, and its next entry is `e` (17 R336, R337). -/
def QueueEntry (s : State) (i : Nat) (q : QSlot) (e : List Byte) : Prop :=
  s.m.slot? i = some q ∧ (q.st = 1 ∨ q.st = 2) ∧
    ∃ d, s.m.desc q.ctx q.q = some d ∧ s.m.readAt q.ctx (entryAddr d q.rd) 64 false = .ok e
/-- The Morton code of two 31-bit indices: bit k of x at bit 2k, bit k of y at 2k + 1 (17 R330). -/
def morton (x y : Nat) : Nat :=
  ((List.range 31).map (fun k => x / 2 ^ k % 2 * 2 ^ (2 * k) + y / 2 ^ k % 2 * 2 ^ (2 * k + 1))).sum
/-- It is the turn of a message of a known source to a live context, nothing is held and its partition neither records nor replays
(27 R415). -/
def HostTurn (s : State) (j : JctHdr) : Prop :=
  s.m.dev.held = [] ∧ (∃ x, s.m.role j.src = some x) ∧ (s.m.ctx j.ctx).live = true ∧
    j.seq = (s.m.ctx j.ctx).expected j.src ∧ (s.m.part (s.m.ctx j.ctx).part).rpMode = 0

/-- In machine `m` zone `z` has just entered state `st`; a state between WET and DRY is looked at again when its 2 s are over
(20 R392). -/
def Entered (s : State) (m : Mach) (z : Nat) (st : ZoneSt) : Prop :=
  (m.zone z).st = st ∧ (m.zone z).since = s.tb ∧ (m.zone z).fail = false ∧ (m.zone z).evac = false ∧
    (st ≠ .wet → st ≠ .dry → (s.tb + 2100000000, .evacStateAdvance z) ∈ m.agenda)

end Sys2Proof.Claims

open Sys2Proof Sys2Proof.Machine Sys2Proof.Claims

/-- Address arithmetic (09 R178): the value of every A-engine arithmetic word, its latency, and nothing else. -/
def Sys2Proof.Claims.AddressArithmeticResults : Prop :=
  AddressWord .aadd 1 (fun _ a b => a + b) ∧
  AddressWord .aaddi 1 (fun w a _ => a + w.imm.signExtend 64) ∧
  AddressWord .asub 1 (fun _ a b => a - b) ∧
  AddressWord .amul 2 (fun _ a b => BitVec.ofNat 64 (a.toNat * b.toNat)) ∧
  AddressWord .amuli 2 (fun w a _ => BitVec.ofNat 64 (a.toNat * (w.imm.signExtend 64).toNat)) ∧
  AddressWord .ashl 1 (fun w a b => a <<< ((b.toNat + w.imm.toNat % 64) % 64)) ∧
  AddressWord .ashr 1 (fun w a b =>
    if w.imm.getLsbD 6 then a >>> ((b.toNat + w.imm.toNat % 64) % 64) else a.sshiftRight ((b.toNat + w.imm.toNat % 64) % 64)) ∧
  AddressWord .aand 1 (fun _ a b => a &&& b) ∧
  AddressWord .aor 1 (fun _ a b => a ||| b) ∧
  AddressWord .axor 1 (fun _ a b => a ^^^ b) ∧
  AddressWord .amin 1 (fun w a b => if before (w.imm.getLsbD 6) b a then b else a) ∧
  AddressWord .amax 1 (fun w a b => if before (w.imm.getLsbD 6) a b then b else a) ∧
  (∀ (s : State) (w : AAI), MayIssue s .a (.ali w) w.hdr →
    exec (.ali w) s = s.setsA w.hdr w.d 1 (if w.part = 0 then w.imm.signExtend 64 else w.imm.zeroExtend 64)) ∧
  (∀ (s : State) (w : AAI), ReadyA s w.d → MayIssue s .a (.alih w) w.hdr →
    exec (.alih w) s = s.setsA w.hdr w.d 1
      (BitVec.ofNat 64 (w.imm.toNat * 2 ^ 32 + (s.hand.areg w.d.toNat).toNat % 2 ^ 32)))

/-- Scalar integers (09 R180): the value of every word, the latency of R185, and no flag. -/
def Sys2Proof.Claims.ScalarIntegerResults : Prop :=
  ScalarWord .sadd 2 (fun _ a b => a + b) ∧
  ScalarWord .saddi 2 (fun w a _ => a + w.imm.signExtend 64) ∧
  ScalarWord .ssub 2 (fun _ a b => a - b) ∧
  ScalarWord .smul 4 (fun _ a b => BitVec.ofNat 64 (a.toNat * b.toNat)) ∧
  ScalarWord .smulh 4 (fun w a b =>
    if w.imm.getLsbD 6 then BitVec.ofNat 64 (a.toNat * b.toNat / 2 ^ 64) else BitVec.ofInt 64 (a.toInt * b.toInt / 2 ^ 64)) ∧
  ScalarWord .sdiv 20 (fun w a b =>
    if b = 0 then BitVec.allOnes 64
    else if w.imm.getLsbD 6 then BitVec.ofNat 64 (a.toNat / b.toNat)
    else BitVec.ofInt 64 (a.toInt.tdiv b.toInt)) ∧
  ScalarWord .srem 20 (fun w a b =>
    if b = 0 then a
    else if w.imm.getLsbD 6 then BitVec.ofNat 64 (a.toNat % b.toNat)
    else BitVec.ofInt 64 (a.toInt.tmod b.toInt)) ∧
  ScalarWord .sand 2 (fun _ a b => a &&& b) ∧
  ScalarWord .sor 2 (fun _ a b => a ||| b) ∧
  ScalarWord .sxor 2 (fun _ a b => a ^^^ b) ∧
  ScalarWord .sshl 2 (fun w a b => a <<< ((b.toNat + w.imm.toNat % 64) % 64)) ∧
  ScalarWord .sshr 2 (fun w a b => a >>> ((b.toNat + w.imm.toNat % 64) % 64)) ∧
  ScalarWord .ssra 2 (fun w a b => a.sshiftRight ((b.toNat + w.imm.toNat % 64) % 64)) ∧
  ScalarWord .smin 2 (fun w a b => if before (w.imm.getLsbD 6) b a then b else a) ∧
  ScalarWord .smax 2 (fun w a b => if before (w.imm.getLsbD 6) a b then b else a) ∧
  ScalarWord .sslt 2 (fun w a b => if before (w.imm.getLsbD 6) a b then 1 else 0) ∧
  ScalarWord .spopc 2 (fun _ a _ => BitVec.ofNat 64 ((List.range 64).filter a.getLsbD).length) ∧
  ScalarWord .sclz 2 (fun _ a _ =>
    BitVec.ofNat 64 (((List.range 64).map (fun i => a.getLsbD (63 - i))).takeWhile (! ·)).length) ∧
  (∀ (s : State) (w : SSS), ReadyS s (w.imm.toNat % 64) → ReadyS s w.a.toNat → ReadyS s w.b.toNat →
    MayIssue s .x (.ssel w) w.hdr →
    exec (.ssel w) s = s.setsS w.hdr w.d 2
      (if s.hand.sreg (w.imm.toNat % 64) ≠ 0 then s.hand.sreg w.a.toNat else s.hand.sreg w.b.toNat) 0) ∧
  (∀ (s : State) (w : SSI), MayIssue s .x (.sli w) w.hdr →
    exec (.sli w) s = s.setsS w.hdr w.d 2 (w.imm.signExtend 64) 0) ∧
  (∀ (s : State) (w : SSI), ReadyS s w.d.toNat → MayIssue s .x (.slih w) w.hdr →
    exec (.slih w) s = s.setsS w.hdr w.d 2
      (BitVec.ofNat 64 (w.imm.toNat % 2 ^ 32 * 2 ^ 32 + (s.hand.sreg w.d.toNat).toNat % 2 ^ 32)) 0)

/-- Address and scalar integer arithmetic (09 R178, R180, R185): the value of every word, its latency, no flag, and nothing else. -/
def Obligations.AddressAndScalarIntegerResults : Prop :=
  Sys2Proof.Claims.AddressArithmeticResults ∧ Sys2Proof.Claims.ScalarIntegerResults

/-- Scalar floating arithmetic (09 R182, R183): each word rounds its exact result once in XMODE.RM as it stands at issue,
with NB's exact sign change on operand b, never saturates in SFADD, SFMUL and SFMA, and lands its value and flags in 4. -/
def Sys2Proof.Claims.ScalarFloatResults : Prop :=
  (∀ (s : State) (w : SSS), ReadyS s w.a.toNat → ReadyS s w.b.toNat → MayIssue s .x (.sfadd w) w.hdr →
    exec (.sfadd w) s =
      (let r := fAdd (scalarFmt w) s.hand.xrm (scalarCode s w w.a) (scalarCodeB s w)
       s.setsS w.hdr w.d 4 (BitVec.ofNat 64 r.code) r.flags)) ∧
  (∀ (s : State) (w : SSS), ReadyS s w.a.toNat → ReadyS s w.b.toNat → MayIssue s .x (.sfmul w) w.hdr →
    exec (.sfmul w) s =
      (let r := fMul (scalarFmt w) s.hand.xrm (scalarCode s w w.a) (scalarCodeB s w)
       s.setsS w.hdr w.d 4 (BitVec.ofNat 64 r.code) r.flags)) ∧
  (∀ (s : State) (w : SSS), ReadyS s w.a.toNat → ReadyS s w.b.toNat → ReadyS s w.d.toNat →
    MayIssue s .x (.sfma w) w.hdr →
    exec (.sfma w) s =
      (let r := fMulAdd (scalarFmt w) s.hand.xrm (scalarCode s w w.a) (scalarCodeB s w) (scalarCode s w w.d) false
       s.setsS w.hdr w.d 4 (BitVec.ofNat 64 r.code) r.flags)) ∧
  (∀ (s : State) (w : SSS), ReadyS s w.a.toNat → MayIssue s .x (.sfcvt w) w.hdr →
    exec (.sfcvt w) s =
      (let d := w.imm.toNat % 16
       let t := w.imm.toNat / 16 % 16
       let r := convert s.hand.xrm s.hand.xsat (cvtSide d) (cvtSide t) ((s.hand.sreg w.a.toNat).toNat % 2 ^ tw t)
       s.setsS w.hdr w.d 4 (cvtExtend d r.code) r.flags))

/-- SFCMP (09 R184): 1 or 0 into S[d], by the order of the two values, with -0 equal to +0, NaN unordered, and NV alone set,
by a signalling NaN only. -/
def Obligations.ScalarFloatCompare : Prop :=
  ∀ (s : State) (w : SSS), ReadyS s w.a.toNat → ReadyS s w.b.toNat → MayIssue s .x (.sfcmp w) w.hdr →
    let a := (scalarFmt w).decode (scalarCode s w w.a)
    let b := (scalarFmt w).decode (scalarCode s w w.b)
    exec (.sfcmp w) s = s.setsS w.hdr w.d 2 (if compares (w.imm.toNat / 16 % 8) a b then 1 else 0)
      (if a = .nan true ∨ b = .nan true then flNV else 0)

/-- Rounding to a multiple of 2^q (08 R165), of a magnitude that is finer: to nearest in modes RNE and RNA, with a tie going
to the even multiple in RNE and away from zero in RNA; toward zero in RTZ; down in RDN; up in RUP. -/
def Sys2Proof.Claims.RoundingToAMultiple : Prop :=
  ∀ (neg : Bool) (mag : Nat) (exp q : Int), exp < q →
    let u := 2 ^ (q - exp).toNat
    let n := fun rm => (roundMag rm neg mag exp q false).1
    (∀ rm, (roundMag rm neg mag exp q false).2 = true ↔ mag % u ≠ 0) ∧
    (2 * (n 0 * u) ≤ 2 * mag + u ∧ 2 * mag ≤ 2 * (n 0 * u) + u) ∧
    (2 * (mag % u) = u → n 0 % 2 = 0) ∧
    (2 * mag < 2 * (n 4 * u) + u ∧ 2 * (n 4 * u) ≤ 2 * mag + u) ∧
    n 1 = mag / u ∧
    (if neg then n 2 = (mag + u - 1) / u else n 2 = mag / u) ∧
    (if neg then n 3 = mag / u else n 3 = (mag + u - 1) / u)

/-- The rational that an exact value stands for. -/
def Sys2Proof.Claims.dyadic (x : DyVal) : ℚ := (if x.neg then -1 else 1) * (x.mag : ℚ) * (2 : ℚ) ^ x.exp

/-- `v` is mantissa `m` times `2^k` in the set F of a format, extended upward with the values of an unbounded exponent (08 R156,
R165): normalised, or at the exponent of the denormals. -/
def Sys2Proof.Claims.InFormat (f : FFmt) (v : ℚ) (m k : Int) : Prop :=
  v = (m : ℚ) * (2 : ℚ) ^ k ∧ m.natAbs < 2 ^ (f.mw + 1) ∧ f.qmin ≤ k ∧ (2 ^ f.mw ≤ m.natAbs ∨ k = f.qmin)

/-- `v`, of mantissa `m`, is the neighbour of `e` in that set that mode `rm` picks: the table of 08 R165. -/
def Sys2Proof.Claims.Picked (f : FFmt) (rm : Nat) (e v : ℚ) (m : Int) : Prop :=
  ∀ (u : ℚ) (n j : Int), Sys2Proof.Claims.InFormat f u n j →
    match rm with
    | 0 => |e - v| ≤ |e - u| ∧ (|e - v| = |e - u| → u ≠ v → m % 2 = 0)
    | 1 => |v| ≤ |e| ∧ 0 ≤ v * e ∧ (|u| ≤ |e| → 0 ≤ u * e → |u| ≤ |v|)
    | 2 => v ≤ e ∧ (u ≤ e → u ≤ v)
    | 3 => e ≤ v ∧ (e ≤ u → v ≤ u)
    | _ => |e - v| ≤ |e - u| ∧ (|e - v| = |e - u| → |u| ≤ |v|)

/-- Does an overflow of `e` in mode `rm` give an infinity (08 R166)? -/
def Sys2Proof.Claims.toInfinity (rm : Nat) (e : ℚ) : Bool :=
  rm == 0 || rm == 4 || (rm == 2 && decide (e < 0)) || (rm == 3 && decide (0 < e))

/-- `r` is the exact result `e` rounded once by an arithmetic word (08 R164, R165, R166): an exact zero takes the sign given and
no flag; any other is the neighbour that the mode picks, with the sign of `e` and NX just where it differs from `e`; where that
lies beyond the largest finite value, an infinity or that value, with OF and NX. -/
def Sys2Proof.Claims.RoundedOnce (f : FFmt) (rm : Nat) (e : ℚ) (zeroNeg : Bool) (r : FRes) : Prop :=
  (e = 0 → r = ⟨if zeroNeg then f.signBit else 0, 0⟩) ∧
  (e ≠ 0 → ∃ (v : ℚ) (m k : Int), Sys2Proof.Claims.InFormat f v m k ∧ Sys2Proof.Claims.Picked f rm e v m ∧
    if Sys2Proof.Claims.dyadic (f.magValue false f.maxMag) < |v| then
      r = ⟨if Sys2Proof.Claims.toInfinity rm e then f.infCode (decide (e < 0)) else f.maxCode (decide (e < 0)), flOF ||| flNX⟩
    else (∃ x, f.decode r.code = .fin x ∧ Sys2Proof.Claims.dyadic x = v ∧ x.neg = decide (e < 0)) ∧
      (r.flags &&& flNX ≠ 0 ↔ v ≠ e) ∧ r.flags &&& ~~~(flNX ||| flUF) = 0)

/-- The sign of an exact zero sum of two values (08 R165). -/
def Sys2Proof.Claims.zeroSumNeg (rm : Nat) (n1 n2 : Bool) (v1 v2 : ℚ) : Bool :=
  if v1 = 0 ∧ v2 = 0 ∧ n1 = n2 then n1 else rm == 2

/-- A sum, a product and a product plus an addend of finite operands are the exact results rounded once, the product of the
last as one addend (08 R164, R165). -/
def Sys2Proof.Claims.SumsAndProductsRoundOnce : Prop :=
  ∀ (f : FFmt) (rm a b c : Nat) (x y z : DyVal), f ∈ [FFmt.bf16, FFmt.f16, FFmt.f32] → rm ≤ 4 →
    f.decode a = .fin x → f.decode b = .fin y → f.decode c = .fin z →
    let X := Sys2Proof.Claims.dyadic x
    let Y := Sys2Proof.Claims.dyadic y
    let Z := Sys2Proof.Claims.dyadic z
    Sys2Proof.Claims.RoundedOnce f rm (X + Y) (Sys2Proof.Claims.zeroSumNeg rm x.neg y.neg X Y) (fAdd f rm a b) ∧
    Sys2Proof.Claims.RoundedOnce f rm (X * Y) (x.neg != y.neg) (fMul f rm a b) ∧
    Sys2Proof.Claims.RoundedOnce f rm (X * Y + Z) (Sys2Proof.Claims.zeroSumNeg rm (x.neg != y.neg) z.neg (X * Y) Z)
      (fMulAdd f rm a b c false)

/-- A finite value converted to a standard format (08 R164 to R166): the neighbour that the mode picks, with NX just where it
differs; past the largest finite value, and where the mode rounds down to it, that value with SAT and NX when saturating, and
otherwise the IEEE result with OF and NX. A finite value converted to an integer type (08 R165, R167): the integer that the mode
picks, NX just where it differs, or the end of the range with NV. -/
def Sys2Proof.Claims.ConversionsRoundOnce : Prop :=
  ∀ (f : FFmt) (rm : Nat) (sat : Bool) (x : DyVal), f ∈ [FFmt.bf16, FFmt.f16, FFmt.f32] → rm ≤ 4 →
    let e := Sys2Proof.Claims.dyadic x
    let top := Sys2Proof.Claims.dyadic (f.magValue false f.maxMag)
    let inf := Sys2Proof.Claims.toInfinity rm e
    let r := convertTo f rm sat (.fin x)
    (e = 0 → r = ⟨if x.neg then f.signBit else 0, 0⟩) ∧
    (e ≠ 0 → ∃ (v : ℚ) (m k : Int), Sys2Proof.Claims.InFormat f v m k ∧ Sys2Proof.Claims.Picked f rm e v m ∧
      if top < |v| ∨ (top < |e| ∧ inf = false) then
        r = (if sat then ⟨f.maxCode (decide (e < 0)), flSAT ||| flNX⟩
          else ⟨if inf then f.infCode (decide (e < 0)) else f.maxCode (decide (e < 0)), flOF ||| flNX⟩)
      else (∃ y, f.decode r.code = .fin y ∧ Sys2Proof.Claims.dyadic y = v ∧ y.neg = decide (e < 0)) ∧
        (r.flags &&& flNX ≠ 0 ↔ v ≠ e) ∧ r.flags &&& ~~~(flNX ||| flUF) = 0) ∧
    (∀ (sg : Bool) (w : Nat), w ∈ [8, 16, 32, 64] →
      ∃ i : Int, (∀ u : Int, match rm with
          | 0 => |e - i| ≤ |e - u| ∧ (|e - i| = |e - u| → u ≠ i → i % 2 = 0)
          | 1 => |(i : ℚ)| ≤ |e| ∧ 0 ≤ i * e ∧ (|(u : ℚ)| ≤ |e| → 0 ≤ u * e → |(u : ℚ)| ≤ |(i : ℚ)|)
          | 2 => (i : ℚ) ≤ e ∧ ((u : ℚ) ≤ e → u ≤ i)
          | 3 => e ≤ i ∧ (e ≤ u → i ≤ u)
          | _ => |e - i| ≤ |e - u| ∧ (|e - i| = |e - u| → |u| ≤ |i|)) ∧
        floatToInt rm sg w (.fin x) =
          (if i < intMin sg w then ⟨intCode w (intMin sg w), flNV⟩
           else if intMax sg w < i then ⟨intCode w (intMax sg w), flNV⟩
           else ⟨intCode w i, if (i : ℚ) = e then 0 else flNX⟩))

/-- Scalar floating arithmetic (09 R182, R183), the rounding it rests on (08 R165), and that its sums, products and conversions
are the exact result rounded once (08 R164). -/
def Obligations.ScalarFloatResultsAndRounding : Prop :=
  Sys2Proof.Claims.ScalarFloatResults ∧ Sys2Proof.Claims.RoundingToAMultiple ∧
  Sys2Proof.Claims.SumsAndProductsRoundOnce ∧ Sys2Proof.Claims.ConversionsRoundOnce

/-- A result is tiny when its rounded value, taken with an unbounded exponent, is nonzero and smaller than the smallest normal (08
R168): a tiny inexact result sets UF and NX, a tiny exact result no flag, and no other sets UF. -/
def Obligations.TinyResults : Prop :=
  ∀ (f : FFmt) (rm : Nat) (sat : Bool) (x : DyVal), f ∈ [FFmt.bf16, FFmt.f16, FFmt.f32] → rm ≤ 4 → x.mag ≠ 0 →
    let ulp : Int := Nat.log2 x.mag + x.exp - f.mw
    let rounded : ℚ := ((roundMag rm x.neg x.mag x.exp ulp false).1 : ℚ) * (2 : ℚ) ^ ulp
    let tiny : Prop := rounded ≠ 0 ∧ rounded < (2 : ℚ) ^ (1 - f.bias)
    let inexact : Prop := (roundMag rm x.neg x.mag x.exp (max ulp f.qmin) false).2 = true
    ∀ fl ∈ [(roundArith f rm x).flags, (convertTo f rm sat (.fin x)).flags],
      (tiny ∧ inexact → fl = flUF ||| flNX) ∧ (tiny ∧ ¬inexact → fl = 0) ∧ (¬tiny → fl &&& flUF = 0)

/-- The moves between the register files and the queues (07 R153): each takes its source as its keep bit says and lands in
the time the rule states, with no flag. VCLR acts in its issue vc: it waits for the reservations in its range, then frees
every entry of it and every latch on it, and leaves every other part of the state. -/
def Obligations.RegisterFileMoves : Prop :=
  (∀ (s : State) (w : VVI), Sources s .x (sourceOf w w.ty.toNat) [] → MayIssue s .x (.sfv w) w.hdr →
    exec (.sfv w) s = s.lands .x w.hdr (s.took .x w.hdr (sourceOf w w.ty.toNat))
      [.sreg (sKey s.hand.ring w.d.toNat) (BitVec.ofInt 64
        (laneValue w.ty.toNat (operand s .x (sourceOf w w.ty.toNat) 0) (w.imm.toNat % 128)))] 0 2) ∧
  (∀ (s : State) (w : VVI), Sources s .a (sourceOf w w.ty.toNat) [] →
    (w.imm.getLsbD 12 = true → ReadyA s (w.d.setWidth 5)) → MayIssue s .a (.afv w) w.hdr →
    exec (.afv w) s = s.lands .a w.hdr (s.took .a w.hdr (sourceOf w w.ty.toNat))
      [.areg (aKey s.hand.ring w.d.toNat)
        (let v : W64 := BitVec.ofInt 64 (laneValue w.ty.toNat (operand s .a (sourceOf w w.ty.toNat) 0) (w.imm.toNat % 128))
         if w.imm.getLsbD 12 then
           BitVec.ofNat 64 (v.toNat % 2 ^ 32 * 2 ^ 32 + (s.hand.areg w.d.toNat).toNat % 2 ^ 32)
         else v)] 0 2) ∧
  (∀ (s : State) (w : VVI), Sources s .m (sourceOf w 4) [] → MayIssue s .m (.hfv w) w.hdr →
    exec (.hfv w) s = s.lands .m w.hdr (s.took .m w.hdr (sourceOf w 4))
      [.hreg w.d.toNat (BitVec.ofNat 32 (elem (operand s .m (sourceOf w 4) 0) 32 (w.imm.toNat % 32)))] 0 2) ∧
  (∀ (s : State) (w : VVI), Sources s .x [] [w.d.toNat] → ReadyS s (w.a.toNat - 1536) → MayIssue s .x (.svs w) w.hdr →
    ∃ r, exec (.svs w) s = s.lands .x w.hdr (s.took .x w.hdr []) [.queue w.d.toNat r] 0 2 ∧
      ∀ j, j < 1024 / tw w.ty.toNat → elem r (tw w.ty.toNat) j =
        if j = w.imm.toNat % 128 then (s.hand.sreg (w.a.toNat - 1536)).toNat % 2 ^ tw w.ty.toNat else 0) ∧
  (∀ (s : State) (w : VVV), Sources s .x [⟨w.a.toNat, w.ka, false, 4⟩] [w.d.toNat] → MayIssue s .x (.vmov w) w.hdr →
    exec (.vmov w) s = s.lands .x w.hdr (s.took .x w.hdr [⟨w.a.toNat, w.ka, false, 4⟩])
      [.queue w.d.toNat (operand s .x [⟨w.a.toNat, w.ka, false, 4⟩] 0)] 0 1) ∧
  (∀ (s : State) (w : VVI), Sources s .x [] [w.d.toNat] → MayIssue s .x (.vdep w) w.hdr →
    ∃ r, exec (.vdep w) s = s.lands .x w.hdr (s.took .x w.hdr []) [.queue w.d.toNat r] 0 2 ∧
      ∀ j, j < 32 → elem r 32 j =
        (if j = 0 then ((s.hand.queue w.a.toNat).filter Slot.isLanded).length
        else if j = 1 then ((s.hand.queue w.a.toNat).filter (! Slot.isLanded ·)).length
        else if j = 2 then s.hand.pool - 1 else 0) % 2 ^ 32) ∧
  (∀ (s : State) (w : VVI),
    (∀ q, w.d.toNat ≤ q → q ≤ w.d.toNat + w.imm.toNat % 64 → ∀ x ∈ s.hand.queue q, x.isLanded = true) →
    MayIssue s .x (.vclr w) w.hdr →
    ∃ h : Hand, exec (.vclr w) s = s.goes (s.m.setHand s.cur { s.hand with
        ea := h.ea, ex := h.ex, em := h.em, v := h.v, freed := h.freed, fifos := h.fifos, blocked := none, stage := 0 }) ∧
      (∀ q, h.queue q =
        if w.d.toNat ≤ q ∧ q ≤ w.d.toNat + w.imm.toNat % 64 then [] else s.hand.queue q) ∧
      (∀ e q v, (h.engine e).latch = some (q, v) →
        ¬ (w.d.toNat ≤ q ∧ q ≤ w.d.toNat + w.imm.toNat % 64)))

/-- The integer lanes of 10 R200: sums, products and their high halves, extremes, absolute values, clamped sums, shifts by
the count mod w, and the counts of bits. None sets a flag. -/
def Sys2Proof.Claims.VectorIntegerLanes : Prop :=
  IntegerWord .vadd (fun _ a b => a + b) ∧
  IntegerWord .vsub (fun _ a b => a - b) ∧
  IntegerWord .vmul (fun _ a b => a * b) ∧
  IntegerWord .vmulh (fun ty a b => a * b / 2 ^ tw ty) ∧
  IntegerWord .vmin (fun _ a b => min a b) ∧
  IntegerWord .vmax (fun _ a b => max a b) ∧
  LaneWord .vabs sources1 2 (fun ty _ v j => (|laneValue ty (v 0) j| % (2 : Int) ^ tw ty).toNat) ∧
  IntegerWord .vsadd (fun ty a b => max (intMin (tySigned ty) (tw ty)) (min (intMax (tySigned ty) (tw ty)) (a + b))) ∧
  IntegerWord .vssub (fun ty a b => max (intMin (tySigned ty) (tw ty)) (min (intMax (tySigned ty) (tw ty)) (a - b))) ∧
  LaneWord .vshl sources2 2 (fun ty _ v j =>
    elem (v 0) (tw ty) j * 2 ^ (elem (v 1) (tw ty) j % tw ty) % 2 ^ tw ty) ∧
  LaneWord .vshr sources2 2 (fun ty _ v j => elem (v 0) (tw ty) j / 2 ^ (elem (v 1) (tw ty) j % tw ty)) ∧
  LaneWord .vsra sources2 2 (fun ty _ v j =>
    (intOf true (tw ty) (elem (v 0) (tw ty) j) / (2 : Int) ^ (elem (v 1) (tw ty) j % tw ty) % (2 : Int) ^ tw ty).toNat) ∧
  LaneWord .vpopc sources1 2 (fun ty _ v j =>
    ((List.range (tw ty)).filter (elem (v 0) (tw ty) j).testBit).length) ∧
  LaneWord .vclz sources1 2 (fun ty _ v j =>
    ((List.range (tw ty)).takeWhile (fun k => !(elem (v 0) (tw ty) j).testBit (tw ty - 1 - k))).length)

/-- The bitwise words of 10 R200: every bit of the pushed entry comes from the same bits of the two sources, whatever the
type. -/
def Sys2Proof.Claims.VectorBitwiseResults : Prop :=
  BitWord .vand (fun a b => a && b) ∧ BitWord .vor (fun a b => a || b) ∧ BitWord .vxor (fun a b => a != b) ∧
  BitWord .vandn (fun a b => a && !b)

/-- The integer and bitwise lanes of 10 R200. -/
def Obligations.VectorIntegerResults : Prop :=
  Sys2Proof.Claims.VectorIntegerLanes ∧ Sys2Proof.Claims.VectorBitwiseResults

/-- Floating lanes (10 R202): each result is the exact one rounded once in XMODE.RM, its flags gathered over the lanes. -/
def Sys2Proof.Claims.VectorFloatArithmetic : Prop :=
  FloatWord .vfadd sources2 4 (fun f rm v => fAdd f rm (v 0) (v 1)) ∧
  FloatWord .vfsub sources2 4 (fun f rm v => fSub f rm (v 0) (v 1)) ∧
  FloatWord .vfmul sources2 4 (fun f rm v => fMul f rm (v 0) (v 1)) ∧
  FloatWord .vfma sources3 4 (fun f rm v => fMulAdd f rm (v 0) (v 1) (v 2) false) ∧
  FloatWord .vfms sources3 4 (fun f rm v => fMulAdd f rm (v 0) (v 1) (v 2) true) ∧
  FloatWord .vscale sources2 4 (fun f rm v => fScale f rm (v 0) (intOf true f.width (v 1)))

/-- VFMIN, VFMAX, VFABS and VFNEG (10 R204): a NaN counts as missing, -0 lies below +0, the sign bit alone is cleared or
inverted, a NaN becomes the canonical one, and only a signalling NaN sets a flag, NV. -/
def Sys2Proof.Claims.VectorFloatExtremesAndSigns : Prop :=
  let extreme := fun (isMax : Bool) (f : FFmt) (_ : Nat) (v : Nat → Nat) =>
    let a := f.decode (v 0)
    let b := f.decode (v 1)
    let less := decide (onLine a < onLine b) ||
      (decide (onLine a = onLine b) && (v 0 / f.signBit % 2 == 1) && (v 1 / f.signBit % 2 == 0))
    (⟨if a.isNaN && b.isNaN then f.nanCode
      else if a.isNaN then v 1
      else if b.isNaN then v 0
      else if less != isMax then v 0 else v 1, if a = .nan true ∨ b = .nan true then flNV else 0⟩ : FRes)
  let sign := fun (abs : Bool) (f : FFmt) (_ : Nat) (v : Nat → Nat) =>
    let a := f.decode (v 0)
    (⟨if a.isNaN then f.nanCode
      else if abs then v 0 % f.signBit
      else (v 0 + f.signBit) % 2 ^ f.width, if a = .nan true then flNV else 0⟩ : FRes)
  FloatWord .vfmin sources2 2 (extreme false) ∧ FloatWord .vfmax sources2 2 (extreme true) ∧
  FloatWord .vfabs sources1 2 (sign true) ∧ FloatWord .vfneg sources1 2 (sign false)

/-- A difference, a product less an operand and a value times a power of two, of finite operands, are the exact results
rounded once (08 R164, R165, 10 R202); a subtraction counts as the sum with the opposite. -/
def Sys2Proof.Claims.DifferencesAndScalingsRoundOnce : Prop :=
  ∀ (f : FFmt) (rm a b c : Nat) (x y z : DyVal) (k : Int), f ∈ [FFmt.bf16, FFmt.f16, FFmt.f32] → rm ≤ 4 →
    f.decode a = .fin x → f.decode b = .fin y → f.decode c = .fin z →
    let X := Sys2Proof.Claims.dyadic x
    let Y := Sys2Proof.Claims.dyadic y
    let Z := Sys2Proof.Claims.dyadic z
    Sys2Proof.Claims.RoundedOnce f rm (X - Y) (Sys2Proof.Claims.zeroSumNeg rm x.neg (!y.neg) X Y) (fSub f rm a b) ∧
    Sys2Proof.Claims.RoundedOnce f rm (X * Y - Z) (Sys2Proof.Claims.zeroSumNeg rm (x.neg != y.neg) (!z.neg) (X * Y) Z)
      (fMulAdd f rm a b c true) ∧
    Sys2Proof.Claims.RoundedOnce f rm (X * (2 : ℚ) ^ k) x.neg (fScale f rm a k)

/-- The floating lanes of 10 R202 and R204. That the sums and products (fAdd, fMul, fMulAdd) are the exact results rounded once
is stated with the scalar words (ScalarFloatResultsAndRounding), and that the differences and scalings are, here (08 R164). -/
def Obligations.VectorFloatResults : Prop :=
  Sys2Proof.Claims.VectorFloatArithmetic ∧ Sys2Proof.Claims.VectorFloatExtremesAndSigns ∧
  Sys2Proof.Claims.DifferencesAndScalingsRoundOnce

/-- The transcendentals (10 R202, R203): each lane is the model's correctly rounded value of its function, landing in 8, and
the special inputs give what the rule's table says, for every format and mode. -/
def Obligations.VectorTranscendentals : Prop :=
  FloatWord .vrcp sources1 8 (fun f rm v => transcendental 0 f rm (v 0)) ∧
  FloatWord .vrsq sources1 8 (fun f rm v => transcendental 1 f rm (v 0)) ∧
  FloatWord .vexp2 sources1 8 (fun f rm v => transcendental 2 f rm (v 0)) ∧
  FloatWord .vlog2 sources1 8 (fun f rm v => transcendental 3 f rm (v 0)) ∧
  FloatWord .vsigm sources1 8 (fun f rm v => transcendental 4 f rm (v 0)) ∧
  FloatWord .vtanh sources1 8 (fun f rm v => transcendental 5 f rm (v 0)) ∧
  (∀ f ∈ [FFmt.bf16, FFmt.f16, FFmt.f32], ∀ rm, rm ≤ 4 →
    let one := (2 ^ (f.ew - 1) - 1) * 2 ^ f.mw
    let half := (2 ^ (f.ew - 1) - 2) * 2 ^ f.mw
    let pinf := f.infCode false
    let ninf := f.infCode true
    let nan := f.nanCode
    let z := 0
    let nz := f.signBit
    (∀ k ≤ 5, transcendental k f rm nan = ⟨nan, 0⟩ ∧ transcendental k f rm (nan + 1 - 2 ^ (f.mw - 1)) = ⟨nan, flNV⟩) ∧
    [z, nz, pinf, ninf].map (transcendental 0 f rm) = [⟨pinf, flDZ⟩, ⟨ninf, flDZ⟩, ⟨z, 0⟩, ⟨nz, 0⟩] ∧
    [z, nz, pinf, ninf].map (transcendental 1 f rm) = [⟨pinf, flDZ⟩, ⟨ninf, flDZ⟩, ⟨z, 0⟩, ⟨nan, flNV⟩] ∧
    [z, nz, pinf, ninf].map (transcendental 2 f rm) = [⟨one, 0⟩, ⟨one, 0⟩, ⟨pinf, 0⟩, ⟨z, 0⟩] ∧
    [z, nz, pinf, ninf].map (transcendental 3 f rm) = [⟨ninf, flDZ⟩, ⟨ninf, flDZ⟩, ⟨pinf, 0⟩, ⟨nan, flNV⟩] ∧
    [z, nz, pinf, ninf].map (transcendental 4 f rm) = [⟨half, 0⟩, ⟨half, 0⟩, ⟨one, 0⟩, ⟨z, 0⟩] ∧
    [z, nz, pinf, ninf].map (transcendental 5 f rm) = [⟨z, 0⟩, ⟨nz, 0⟩, ⟨one, 0⟩, ⟨one + nz, 0⟩])

/-- VCVT, VPACK and VUNPK (10 R206, R207): which element of the source each element of the pushed entry is converted from, the
elements that are zero, the gathered flags, and the latency. -/
def Obligations.VectorConversions : Prop :=
  (∀ (s : State) (w : VVI),
    let src := w.imm.toNat % 16
    let nq := w.imm.toNat / 2 ^ 8 % 4
    let part := w.imm.toNat / 2 ^ 10
    let q := (s.hand.creg (0x038 + w.imm.toNat / 2 ^ 5 % 8)).toNat
    let wd := tw w.ty.toNat
    let ws := tw src
    let n := 1024 / max wd ws
    let x := operand s .x (sourceOf w src) 0
    let side := fun (narrow : Bool) ty =>
      if narrow then CvtSide.flt (qFmt q) else if isF ty then .flt (FFmt.ofType ty) else .int (tySigned ty) (tw ty)
    let y := fun j => convert s.hand.xrm s.hand.xsat (side (nq == 1) w.ty.toNat) (side (nq == 2) src)
      (elem x ws (if wd < ws then j else part * n + j))
    Sources s .x (sourceOf w src) [w.d.toNat] → MayIssue s .x (.vcvt w) w.hdr →
    ∃ r, exec (.vcvt w) s = s.lands .x w.hdr (s.took .x w.hdr (sourceOf w src)) [.queue w.d.toNat r]
        (gatherFlags ((List.range n).map y)) 4 ∧
      ∀ p, p < 1024 / wd → elem r wd p =
        if wd < ws then (if part * n ≤ p ∧ p < part * n + n then (y (p - part * n)).code % 2 ^ wd else 0)
        else (y p).code % 2 ^ wd) ∧
  (∀ (s : State) (w : VVV),
    let wd := tw w.ty.toNat
    let m := 512 / wd
    let dbl := if w.ty.toNat = 9 then 0 else if w.ty.toNat = 10 then 1 else w.ty.toNat + 2
    let os : List Opnd := [⟨w.a.toNat, w.ka, w.h, dbl⟩, ⟨w.b.toNat, w.kb, false, dbl⟩]
    let v := fun j => intOf (tySigned w.ty.toNat) (2 * wd)
      (elem (operand s .x os (if j < m then 0 else 1)) (2 * wd) (if j < m then j else j - m))
    let lo := intMin (tySigned w.ty.toNat) wd
    let hi := intMax (tySigned w.ty.toNat) wd
    Sources s .x os [w.d.toNat] → MayIssue s .x (.vpack w) w.hdr →
    ∃ r, exec (.vpack w) s = s.lands .x w.hdr (s.took .x w.hdr os) [.queue w.d.toNat r]
        (if s.hand.xsat ∧ ∃ j < 2 * m, v j < lo ∨ hi < v j then flSAT else 0) 3 ∧
      ∀ j, j < 2 * m → elem r wd j =
        ((if s.hand.xsat then max lo (min hi (v j)) else v j) % (2 : Int) ^ wd).toNat)

/-- VUNPK (10 R208): a word of opcode 0x52 with T one of i4, n4, i8, n8, i16 and n16 and imm13[12:1] zero; element j of the
result, for j from 0 to m - 1, is element H m + j of the source, widened to twice the width, sign-extended for i types and
zero-extended for n types; it lands in 3 and sets no flag. -/
def Obligations.VectorUnpack : Prop :=
  (∀ (w : VVI), (Instr.vunpk w).check = none → w.imm.toNat < 2 ∧ w.ty.toNat ∈ [9, 10, 0, 1, 2, 3] ∧
    ∃ x : W64, encode (.vunpk w) = some x ∧ x.toNat / 2 ^ 40 % 2 ^ 8 = 0x52) ∧
  (∀ (s : State) (w : VVI),
    let wd := tw w.ty.toNat
    let m := 512 / wd
    let a := operand s .x (sourceOf w w.ty.toNat) 0
    Sources s .x (sourceOf w w.ty.toNat) [w.d.toNat] → MayIssue s .x (.vunpk w) w.hdr →
    ∃ r, exec (.vunpk w) s = s.lands .x w.hdr (s.took .x w.hdr (sourceOf w w.ty.toNat)) [.queue w.d.toNat r] 0 3 ∧
      ∀ j, j < m → elem r (2 * wd) j =
        (laneValue w.ty.toNat a (w.imm.toNat * m + j) % (2 : Int) ^ (2 * wd)).toNat)

/-- VCMP and VFCMP (10 R198, R209): bit j of P[d] is the outcome for lane j, the bits above the lanes are clear, the result
lands in 2, and only a signalling NaN sets a flag, NV. -/
def Sys2Proof.Claims.VectorCompares : Prop :=
  (∀ (s : State) (w : VVV), Sources s .x (sources2 w) [] → MayIssue s .x (.vcmp w) w.hdr →
    let v := fun k j => laneValue w.ty.toNat (operand s .x (sources2 w) k) j
    ∃ r, exec (.vcmp w) s = s.lands .x w.hdr (s.took .x w.hdr (sources2 w)) [.preg (w.d.toNat / 2 ^ 7) r] 0 2 ∧
      ∀ j, j < 128 → r.getLsbD j = (decide (j < 1024 / tw w.ty.toNat) &&
        match w.d.toNat / 16 % 8 with
        | 0 => decide (v 0 j = v 1 j) | 1 => decide (v 0 j ≠ v 1 j) | 2 => decide (v 0 j < v 1 j)
        | 3 => decide (v 0 j ≤ v 1 j) | 4 => decide (v 1 j < v 0 j) | _ => decide (v 1 j ≤ v 0 j))) ∧
  (∀ (s : State) (w : VVV), Sources s .x (sources2 w) [] → MayIssue s .x (.vfcmp w) w.hdr →
    let v := fun k j => (FFmt.ofType w.ty.toNat).decode (elem (operand s .x (sources2 w) k) (tw w.ty.toNat) j)
    let n := 1024 / tw w.ty.toNat
    ∃ r, exec (.vfcmp w) s = s.lands .x w.hdr (s.took .x w.hdr (sources2 w)) [.preg (w.d.toNat / 2 ^ 7) r]
        (if ∃ j < n, v 0 j = .nan true ∨ v 1 j = .nan true then flNV else 0) 2 ∧
      ∀ j, j < 128 → r.getLsbD j = (decide (j < n) && compares (w.d.toNat / 16 % 8) (v 0 j) (v 1 j)))

/-- VSEL and VTHR (10 R210, 13 R251), and the predicate words (10 R211): all their values, with no flag, in 2. -/
def Sys2Proof.Claims.SelectsAndPredicates : Prop :=
  LaneWord .vsel sources3 2 (fun ty _ v j =>
    if elem (v 0) (tw ty) j ≠ 0 then elem (v 1) (tw ty) j else elem (v 2) (tw ty) j) ∧
  LaneWord .vthr sources3 2 (fun ty _ v j =>
    let x := elem (v 0) (tw ty) j
    let h := if ty = 8 then x / 2 ^ 16 else x
    let key := if ((FFmt.ofType ty).decode x).isNaN then 0
      else if h < 0x8000 then h + 0x8000 else 0xFFFF - h
    (elem (v 2) (tw ty) j + if elem (v 1) (tw ty) j % 2 ^ 16 ≤ key then 1 else 0) % 2 ^ tw ty) ∧
  (∀ (s : State) (w : VVV), s.hand.pendP (w.a.toNat - 1600) = false → s.hand.pendP (w.b.toNat - 1600) = false →
    (MayIssue s .x (.pand w) w.hdr → exec (.pand w) s = s.lands .x w.hdr (s.issued .x w.hdr)
      [.preg (w.d.toNat - 1600) (s.hand.preg (w.a.toNat - 1600) &&& s.hand.preg (w.b.toNat - 1600))] 0 2) ∧
    (MayIssue s .x (.por w) w.hdr → exec (.por w) s = s.lands .x w.hdr (s.issued .x w.hdr)
      [.preg (w.d.toNat - 1600) (s.hand.preg (w.a.toNat - 1600) ||| s.hand.preg (w.b.toNat - 1600))] 0 2)) ∧
  (∀ (s : State) (w : VVV), s.hand.pendP (w.a.toNat - 1600) = false →
    (MayIssue s .x (.pnot w) w.hdr → exec (.pnot w) s = s.lands .x w.hdr (s.issued .x w.hdr)
      [.preg (w.d.toNat - 1600) (BitVec.allOnes 128 ^^^ s.hand.preg (w.a.toNat - 1600))] 0 2) ∧
    (MayIssue s .x (.pcnt w) w.hdr → exec (.pcnt w) s = s.lands .x w.hdr (s.issued .x w.hdr)
      [.sreg (sKey s.hand.ring (w.d.toNat - 1536)) (BitVec.ofNat 64
        ((List.range (1024 / tw w.ty.toNat)).filter (s.hand.preg (w.a.toNat - 1600)).getLsbD).length)] 0 2))

/-- Compares, selects, the threshold word and the predicate words (10 R198, R209 to R211, 13 R251). -/
def Obligations.ComparesSelectsAndPredicates : Prop :=
  Sys2Proof.Claims.VectorCompares ∧ Sys2Proof.Claims.SelectsAndPredicates

/-- The reductions and scans (10 R212, R213). Element k of a reduction is the result of group k and the elements above the
groups are zero; VSCAN keeps every lane. Sums wrap or follow the rule's fixed order; extremes and their positions are those
of the group; all land in 6. -/
def Sys2Proof.Claims.ReductionWords : Prop :=
  let groupOf := fun (w : VVI) =>
    if w.imm.toNat % 16 = 0 then 1024 / tw w.ty.toNat else 2 ^ (w.imm.toNat % 16)
  let Reduction := fun (i : VVI → Instr) (f : Nat → Nat → List Nat → FRes) =>
    ∀ (s : State) (w : VVI), Sources s .x (sourceOf w w.ty.toNat) [w.d.toNat] → MayIssue s .x (i w) w.hdr →
      let n := 1024 / tw w.ty.toNat
      let g := groupOf w
      let group := fun k => (List.range g).map (fun j =>
        elem (operand s .x (sourceOf w w.ty.toNat) 0) (tw w.ty.toNat) (k * g + j))
      ∃ r, exec (i w) s = s.lands .x w.hdr (s.took .x w.hdr (sourceOf w w.ty.toNat)) [.queue w.d.toNat r]
          (gatherFlags ((List.range (n / g)).map (fun k => f w.ty.toNat s.hand.xrm (group k)))) 6 ∧
        ∀ k, k < n → elem r (tw w.ty.toNat) k =
          if k < n / g then (f w.ty.toNat s.hand.xrm (group k)).code % 2 ^ tw w.ty.toNat else 0
  Reduction .vradd (fun _ _ l => ⟨l.sum, 0⟩) ∧
  Reduction .vrmax (fun ty _ l => extremeOf ty true l) ∧
  Reduction .vrmin (fun ty _ l => extremeOf ty false l) ∧
  Reduction .vrfadd (fun ty rm l => rfaddGroup ty rm l) ∧
  Reduction .vargmx (fun ty _ l => argMax ty l) ∧
  (∀ (s : State) (w : VVI), Sources s .x (sourceOf w w.ty.toNat) [w.d.toNat] → MayIssue s .x (.vscan w) w.hdr →
    let n := 1024 / tw w.ty.toNat
    let g := groupOf w
    let x := fun j => elem (operand s .x (sourceOf w w.ty.toNat) 0) (tw w.ty.toNat) j
    let add := fun a b => if isF w.ty.toNat then fAdd (FFmt.ofType w.ty.toNat) s.hand.xrm a b
      else ⟨(a + b) % 2 ^ tw w.ty.toNat, 0⟩
    -- the running sum over the first `k` lanes of the group that lane `j` is in
    let acc := fun j k => ((List.range k).map (fun i => x (j / g * g + i))).foldl (fun a b => (add a b).code) 0
    ∃ r, exec (.vscan w) s = s.lands .x w.hdr (s.took .x w.hdr (sourceOf w w.ty.toNat)) [.queue w.d.toNat r]
        (gatherFlags ((List.range n).map (fun j => add (acc j (j % g)) (x j)))) 6 ∧
      ∀ j, j < n → elem r (tw w.ty.toNat) j =
        acc j (if w.imm.getLsbD 4 then j % g else j % g + 1) % 2 ^ tw w.ty.toNat)

/-- What the extremes of an integer group are (10 R212): VRMAX's is in the group and no value of it is larger, VRMIN's no
value is smaller, and VARGMX gives the lowest position of a largest value. -/
def Sys2Proof.Claims.GroupExtremes : Prop :=
  ∀ (ty : Nat) (l : List Nat), ty < 6 → l ≠ [] → (∀ c ∈ l, c < 2 ^ tw ty) →
    let v := fun c => intOf (tySigned ty) (tw ty) c
    (extremeOf ty true l).code ∈ l ∧ (∀ c ∈ l, v c ≤ v (extremeOf ty true l).code) ∧
    (extremeOf ty false l).code ∈ l ∧ (∀ c ∈ l, v (extremeOf ty false l).code ≤ v c) ∧
    (let p := (argMax ty l).code
     p < l.length ∧ (∀ c ∈ l, v c ≤ v (l.getD p 0)) ∧ ∀ q, q < p → v (l.getD q 0) < v (l.getD p 0))

/-- The reductions and scans (10 R212, R213) and what the extremes of a group are. -/
def Obligations.ReductionsAndScans : Prop :=
  Sys2Proof.Claims.ReductionWords ∧ Sys2Proof.Claims.GroupExtremes

/-- The permutes (10 R214) and VSIGN (14 R266): where each element comes from; VZIP and VUZP push two entries; no flag. -/
def Obligations.Permutes : Prop :=
  let Permute := fun (i : VVI → Instr) (f : VVI → Nat → (Nat → Nat) → Nat → Nat) =>
    ∀ (s : State) (w : VVI), Sources s .x (sourceOf w w.ty.toNat) [w.d.toNat] → MayIssue s .x (i w) w.hdr →
      let n := 1024 / tw w.ty.toNat
      ∃ r, exec (i w) s = s.lands .x w.hdr (s.took .x w.hdr (sourceOf w w.ty.toNat)) [.queue w.d.toNat r] 0 3 ∧
        ∀ j, j < n → elem r (tw w.ty.toNat) j =
          f w n (elem (operand s .x (sourceOf w w.ty.toNat) 0) (tw w.ty.toNat)) j
  let Pair := fun (i : VVV → Instr) (f g : Nat → (Nat → Nat) → (Nat → Nat) → Nat → Nat) =>
    ∀ (s : State) (w : VVV), Sources s .x (sources2 w) [w.d.toNat, w.d.toNat] → MayIssue s .x (i w) w.hdr →
      let n := 1024 / tw w.ty.toNat
      let a := elem (operand s .x (sources2 w) 0) (tw w.ty.toNat)
      let b := elem (operand s .x (sources2 w) 1) (tw w.ty.toNat)
      ∃ r t, exec (i w) s = s.lands .x w.hdr (s.took .x w.hdr (sources2 w)) [.queue w.d.toNat r, .queue w.d.toNat t] 0 3 ∧
        ∀ j, j < n → elem r (tw w.ty.toNat) j = f n a b j ∧ elem t (tw w.ty.toNat) j = g n a b j
  LaneWord .vperm sources2 3 (fun ty _ v j =>
    let n := 1024 / tw ty
    let i := elem (v 1) (tw ty) j % (2 * n)
    if i < n then elem (v 0) (tw ty) i else 0) ∧
  Permute .vbcst (fun w _ a _ => a (w.imm.toNat % 128)) ∧
  Permute .vsld (fun w n a j =>
    let k := w.imm.toNat % 128
    if w.imm.getLsbD 7 then (if k ≤ j then a (j - k) else 0) else if j + k < n then a (j + k) else 0) ∧
  Permute .viota (fun _ _ a j => ((List.range j).filter (fun i => a i ≠ 0)).length) ∧
  Pair .vzip (fun _ a b j => if j % 2 = 0 then a (j / 2) else b (j / 2))
    (fun n a b j => if j % 2 = 0 then a (n / 2 + j / 2) else b (n / 2 + j / 2)) ∧
  Pair .vuzp (fun n a b j => if j < n / 2 then a (2 * j) else b (2 * (j - n / 2)))
    (fun n a b j => if j < n / 2 then a (2 * j + 1) else b (2 * (j - n / 2) + 1)) ∧
  (∀ (s : State) (w : VVI),
    let z := w.imm.getLsbD 12
    let os : List Opnd := sourceOf w w.ty.toNat ++ if z then [] else [⟨w.d.toNat, false, false, 4⟩]
    let y := if z then (0 : Entry) else operand s .x os 1
    let n := 1024 / tw w.ty.toNat
    let feature := fun i => (s.ctx.reg (0x060 + i / 4)).toNat / 2 ^ (16 * (i % 4)) % 2 ^ 14
    Sources s .x os [w.d.toNat] → MayIssue s .x (.vsign w) w.hdr →
    ∃ r, exec (.vsign w) s = s.lands .x w.hdr (s.took .x w.hdr os) [.queue w.d.toNat r] 0 2 ∧
      ∀ j i, j < 32 → i < 32 → (elem r 32 j).testBit i =
        if j = w.imm.toNat / 2 ^ 7 % 32 ∧ i < 16 ∧ feature i / n = w.imm.toNat % 128 then
          (elem (operand s .x os 0) (tw w.ty.toNat) (feature i % n)).testBit (tw w.ty.toNat - 1)
        else (elem y 32 j).testBit i)

/-- The queue reads of a word (07 R139, R142): a read pops the head and its pool entry is freed; a keeping read peeks; two
popping reads of one queue take two successive entries; a held read that misses peeks and fills the engine's latch, and one
that hits takes the latch and leaves the queue alone; a pop invalidates the engine's own latch on that register. -/
def Sys2Proof.Claims.QueueReads : Prop :=
  ∀ (h : Hand) (e : Engine) (q ty : Nat) (x y : Entry) (t : List Slot), q < 1536 →
    (h.queue q = .landed x :: t →
      (opValues h e [⟨q, false, false, ty⟩] = [x] ∧
        (takeOps h e [⟨q, false, false, ty⟩] h).queue q = t ∧
        (takeOps h e [⟨q, false, false, ty⟩] h).freed = h.freed + 1 ∧
        (∀ q', q' ≠ q → (takeOps h e [⟨q, false, false, ty⟩] h).queue q' = h.queue q') ∧
        ((takeOps h e [⟨q, false, false, ty⟩] h).engine e).latch.map Prod.fst ≠ some q) ∧
      (opValues h e [⟨q, true, false, ty⟩] = [x] ∧ takeOps h e [⟨q, true, false, ty⟩] h = h) ∧
      ((h.engine e).latch.map Prod.fst ≠ some q →
        opValues h e [⟨q, false, true, ty⟩] = [x] ∧
        (takeOps h e [⟨q, false, true, ty⟩] h).queue q = h.queue q ∧
        ((takeOps h e [⟨q, false, true, ty⟩] h).engine e).latch = some (q, x))) ∧
    (h.queue q = .landed x :: .landed y :: t →
      opValues h e [⟨q, false, false, ty⟩, ⟨q, false, false, ty⟩] = [x, y] ∧
      (takeOps h e [⟨q, false, false, ty⟩, ⟨q, false, false, ty⟩] h).queue q = t ∧
      opValues h e [⟨q, true, false, ty⟩, ⟨q, false, false, ty⟩] = [x, x]) ∧
    ((h.engine e).latch = some (q, y) →
      opValues h e [⟨q, false, true, ty⟩] = [y] ∧ (takeOps h e [⟨q, false, true, ty⟩] h).queue q = h.queue q)

/-- The entries that special sources build (10 R197): a broadcast S register, a P register as 0 and 1, the lane index, zero
and ones; for a floating type 1 and the lane index are that type's values. -/
def Sys2Proof.Claims.SpecialSources : Prop :=
  ∀ (h : Hand) (ty : BitVec 4) (n j : Nat), ty.toNat ≤ 8 → j < 1024 / tw ty.toNat →
    let w := tw ty.toNat
    let value := fun (k c : Nat) => if isF ty.toNat then
        onLine ((FFmt.ofType ty.toNat).decode c) = ((k : ℚ) : WithBot (WithTop ℚ)) ∧ (k = 0 → c = 0)
      else c = k
    (n < 64 → elem (h.special ty.toNat (1536 + n)) w j = (h.sreg n).toNat % 2 ^ w) ∧
    (n < 16 → value (if (h.preg n).getLsbD j then 1 else 0) (elem (h.special ty.toNat (1600 + n)) w j)) ∧
    value j (elem (h.special ty.toNat 1616) w j) ∧
    elem (h.special ty.toNat 1617) w j = 0 ∧
    elem (h.special ty.toNat 1618) w j = 2 ^ w - 1

/-- How a word reads its operands (07 R139, R142, 10 R197). -/
def Obligations.OperandReads : Prop :=
  Sys2Proof.Claims.QueueReads ∧ Sys2Proof.Claims.SpecialSources

/-- RESULT_LANDING and PENDING_TOKEN_ENTRY (07 R137, R139, R141, R143, 08 R169). A result that no earlier one holds back
lands: its register takes its value (S0 and A0 keep none), or its queue entry is filled where it was reserved (both entries of a
result with two), its flags are gathered into XFLAGS, and its push token enters with the landing, to be popped from the next cycle
on. A completion's token enters its FIFO, or waits for a place in a full one. No other hand changes. A result that a flush of the
SACC holds looks again in the next cycle (06 R129). A fence that still waits for an access looks again in the next cycle, one that has them all ends (06 R124); the
machine-check of the data that a result brings is noted with its landing (19 R379). -/
def Obligations.LandingsAndTokens : Prop :=
  (∀ (s : State) (r id : Nat) (x : Result) (l : Land), let h := s.m.hand r
    h.results.find? (fun y => y.id == id) = some x → x.lands = [l] → x.tok = 0 → x.fence = none → x.fault = none →
    s.m.flushing r id = false → (∀ y ∈ h.results.takeWhile (fun y => y.id != id), ∀ k ∈ y.lands, k.same l = false) →
    (∀ q, l.queueNo = some q → blockedBy id (h.queue q) = false) →
    ∃ m, exec (.resultLanding r id) s = s.goes m ∧ (∀ k, k ≠ r → m.hand k = s.m.hand k) ∧
      (m.hand r).xflags = h.xflags ||| x.flags ∧ (m.hand r).results = h.results.filter (fun y => y.id != id) ∧
      (match l with
        | .sreg n v => ∀ k, KMap.get 0 (m.hand r).s k = if k = n ∧ n ≠ 0 then v else KMap.get 0 h.s k
        | .areg n v => ∀ k, KMap.get 0 (m.hand r).a k = if k = n ∧ n ≠ 0 then v else KMap.get 0 h.a k
        | .hreg n v => ∀ k, (m.hand r).hreg k = if k = n then v else h.hreg k
        | .preg n v => ∀ k, (m.hand r).preg k = if k = n then v else h.preg k
        | .streg n v => ∀ k, (m.hand r).streg k = if k = n then v else h.streg k
        | .creg n v => (m.hand r).creg n = v
        | .queue n v => ∀ k, (m.hand r).queue k = if k = n then fillSlot id v (h.queue n) else h.queue k
        | .mem k bs => m.mem = s.m.mem.writeN k bs) ∧
      (let g := m.hand r
       ((∀ n v, l ≠ .sreg n v) → g.s = h.s) ∧ ((∀ n v, l ≠ .areg n v) → g.a = h.a) ∧ ((∀ n v, l ≠ .hreg n v) → g.h = h.h) ∧
       ((∀ n v, l ≠ .preg n v) → g.p = h.p) ∧ ((∀ n v, l ≠ .streg n v) → g.st = h.st) ∧ ((∀ n v, l ≠ .creg n v) → g.cr = h.cr) ∧
       ((∀ n v, l ≠ .queue n v) → g.v = h.v) ∧ ((∀ n v, l ≠ .mem n v) → m.mem = s.m.mem) ∧
       (x.push = 0 → g.fifos = h.fifos) ∧
       (x.push ≠ 0 → (∀ f, f ≠ x.push → g.fifo f = h.fifo f) ∧ (g.fifo x.push).count = (h.fifo x.push).count + 1 ∧
         (g.fifo x.push).reserved = (h.fifo x.push).reserved - 1 ∧ (g.fifo x.push).lastIn = s.tb) ∧
       g.ea = h.ea ∧ g.ex = h.ex ∧ g.em = h.em ∧ g.vclk = h.vclk ∧ g.ring = h.ring ∧ g.busy = h.busy)) ∧
  (∀ (s : State) (r id i j : Nat) (u v : Entry) (x : Result), let h := s.m.hand r
    h.results.find? (fun y => y.id == id) = some x → x.lands = [.queue i u, .queue j v] → i ≠ j → x.tok = 0 → x.fence = none →
    x.fault = none → s.m.flushing r id = false → blockedBy id (h.queue i) = false → blockedBy id (h.queue j) = false →
    ∃ m, exec (.resultLanding r id) s = s.goes m ∧ (∀ k, k ≠ r → m.hand k = s.m.hand k) ∧ m.mem = s.m.mem ∧
      (m.hand r).xflags = h.xflags ||| x.flags ∧ (m.hand r).results = h.results.filter (fun y => y.id != id) ∧
      (∀ k, (m.hand r).queue k =
        if k = i then fillSlot id u (h.queue i) else if k = j then fillSlot id v (h.queue j) else h.queue k) ∧
      (m.hand r).s = h.s ∧ (m.hand r).a = h.a ∧ (m.hand r).h = h.h ∧ (m.hand r).p = h.p ∧ (m.hand r).st = h.st ∧
      (m.hand r).cr = h.cr ∧ (x.push = 0 → (m.hand r).fifos = h.fifos) ∧
      (x.push ≠ 0 → ((m.hand r).fifo x.push).count = (h.fifo x.push).count + 1 ∧
        ((m.hand r).fifo x.push).reserved = (h.fifo x.push).reserved - 1)) ∧
  (∀ (s : State) (r id : Nat) (x : Result), let h := s.m.hand r
    h.results.find? (fun y => y.id == id) = some x → x.lands.filterMap Land.queueNo = [] → s.m.flushing r id = true →
    exec (.resultLanding r id) s = s.goes (s.m.post (s.tb + 1) (.resultLanding r id))) ∧
  (∀ (s : State) (r id f : Nat) (x : Result), let h := s.m.hand r
    h.results.find? (fun y => y.id == id) = some x → x.lands = [] → x.push = f → f ≠ 0 → x.tok = 0 → x.fence = none →
    x.fault = none → s.m.flushing r id = false → ∃ m, exec (.resultLanding r id) s = s.goes m ∧
      ((m.hand r).fifo f).count = (h.fifo f).count + 1 ∧ ((m.hand r).fifo f).reserved = (h.fifo f).reserved - 1) ∧
  (∀ (s : State) (r id : Nat) (x : Result) (f : Fence), let h := s.m.hand r
    h.results.find? (fun y => y.id == id) = some x → x.lands = [] → x.fence = some f → s.m.flushing r id = false →
    let met : Prop := ∀ a ∈ h.accs, a.id < f.snap → (f.rel = true ∨ a.isLoad = true) →
      (a.isLoad = false ∧ a.sent = true ∧ f.fabric = false)
    (¬met → exec (.resultLanding r id) s = s.goes (s.m.post (s.tb + 1) (.resultLanding r id))) ∧
    (met → ∃ m, exec (.resultLanding r id) s = s.goes m ∧ (m.hand r).results = h.results.filter (fun y => y.id != id) ∧
      (m.hand r).accs = h.accs ∧ m.mem = s.m.mem)) ∧
  (∀ (s : State) (r id : Nat) (x : Result) (f : FaultRec), let h := s.m.hand r
    h.results.find? (fun y => y.id == id) = some x → x.lands = [] → x.fence = none → x.fault = some f →
    s.m.flushing r id = false → h.pending.length < 8 →
    ∃ m, exec (.resultLanding r id) s = s.goes m ∧ (m.hand r).pending = h.pending ++ [f]) ∧
  (∀ (s : State) (r f : Nat), f ≠ 0 → let x := (s.m.hand r).fifo f
    ∃ m, exec (.pendingTokenEntry r f) s = s.goes m ∧ (∀ k, k ≠ r → m.hand k = s.m.hand k) ∧
      (∀ g, g ≠ f → (m.hand r).fifo g = (s.m.hand r).fifo g) ∧
      (if 16 ≤ x.count + x.reserved then (m.hand r).fifo f = { x with pend := x.pend + 1 }
       else ((m.hand r).fifo f).count = x.count + 1 ∧ ((m.hand r).fifo f).pend = x.pend)) ∧
  (∀ (x : Fifo) (t : Nat), (x.enter t).avail t = x.avail t ∧ ∀ u, t < u → (x.enter t).avail u = x.count + 1)

/-- The loads and atomics (06 R118 to R122, R126): with base and index landed, every lane aligned, in the window or
translated, outside the range table, and a place in the load queue, the word issues: its result is reserved in its
register, and its access, with the addresses that R120 gives, enters the load queue. -/
def Sys2Proof.Claims.LoadsAndAtomicsIssue : Prop :=
  LoadWord .lda (fun _ => []) (fun _ => []) 8 (fun h w _ => [wordAddr h w])
    (fun s w => .areg (aKey s.hand.ring w.q.toNat) 0) (fun _ => .load8) (fun s w => aKey s.hand.ring w.q.toNat) ∧
  LoadWord .vld (fun _ => []) (fun w => [w.q.toNat]) 128 (fun h w _ => [wordAddr h w])
    (fun _ w => .queue w.q.toNat 0) (fun _ => .load128) (fun _ w => w.q.toNat) ∧
  LoadWord .vldb (fun _ => []) (fun w => [w.q.toNat]) 4 (fun h w _ => [wordAddr h w])
    (fun _ w => .queue w.q.toNat 0) (fun _ => .loadB) (fun _ w => w.q.toNat) ∧
  LoadWord .vlds (fun _ => []) (fun w => [w.q.toNat]) 4 (fun h w _ => strideAddrs h w)
    (fun _ w => .queue w.q.toNat 0) (fun _ => .gather) (fun _ w => w.q.toNat) ∧
  LoadWord .vgth (fun w => [popped w]) (fun w => [w.q.toNat]) 4 (fun h w v => indexAddrs h w (v 0))
    (fun _ w => .queue w.q.toNat 0) (fun _ => .gather) (fun _ w => w.q.toNat) ∧
  LoadWord .atm (fun w => [popped w]) (fun w => [w.q.toNat]) 4 (fun h w _ => [atomicAddr h w])
    (fun _ w => .queue w.q.toNat 0) (fun w => .atm (w.disp.toNat / 2 ^ 12)) (fun _ w => w.q.toNat)
    (atomic := true) (data := fun v => v 0) (lat := 6) ∧
  LoadWord .vatm (fun w => if w.disp.toNat / 2 ^ 12 = 9 then [popped w, popped w] else [popped w]) (fun w => [w.q.toNat])
    128 (fun h w _ => [atomicAddr h w])
    (fun _ w => .queue w.q.toNat 0) (fun w => .vatm (w.disp.toNat / 2 ^ 12)) (fun _ w => w.q.toNat)
    (atomic := true) (dataOf := fun w v => if w.disp.toNat / 2 ^ 12 = 9 then v 1 else v 0) (cmp := fun v => v 0) (lat := 6)

/-- The stores (06 R118 to R122): with the same checks, the phase open for another cluster's slice, and a place in the store
queue, the word issues: its push reserves a place, and its access enters the store queue with the data it read. -/
def Sys2Proof.Claims.StoresIssue : Prop :=
  StoreWord .sta (fun _ => []) 8 (fun h w _ => [wordAddr h w]) .store8
    (fun h w _ => BitVec.setWidth 1024 (h.areg w.q.toNat)) (fun s w => ReadyA s (w.q.setWidth 5)) ∧
  StoreWord .vst (fun w => [popped w]) 128 (fun h w _ => [wordAddr h w]) .store128 (fun _ _ v => v 0) (fun _ _ => True) ∧
  StoreWord .vsts (fun w => [popped w]) 4 (fun h w _ => strideAddrs h w) .scatter (fun _ _ v => v 0) (fun _ _ => True) ∧
  StoreWord .vsct (fun w => [popped w, popped w]) 4 (fun h w v => indexAddrs h w (v 0)) .scatter (fun _ _ v => v 1)
    (fun _ _ => True)

/-- The loads, atomics and stores at issue (06 R118 to R122, R126). -/
def Obligations.AccessesIssue : Prop :=
  Sys2Proof.Claims.LoadsAndAtomicsIssue ∧ Sys2Proof.Claims.StoresIssue

/-- BANK_ACCESS of a store (06 R116, R121): its bytes take the data, the rest of memory is unchanged, the access leaves its
queue, and its token enters. A scatter's lanes are written in ascending order, so the highest lane of an address counts. An access
that must wait (held back by an acquire or LSALIGN, behind an older one of a row, its bank taken in this cycle) tries again in
the next cycle. Moves that waited for the access are looked at then, which changes neither memory nor a hand. -/
def Sys2Proof.Claims.StoresReachMemory : Prop :=
  ∀ (s : State) (id r : Nat) (a : Access), s.memWf = true → s.m.findAcc id = some (r, a) → a.sent = false →
    ((s.m.accessWaits s.tb r a || s.m.banksBusy s.tb a.banks) = true →
      exec (.bankAccess id) s = s.goes (s.m.post (s.tb + 1) (.bankAccess id))) ∧
    (s.m.accessWaits s.tb r a = false → s.m.banksBusy s.tb a.banks = false →
    (∀ p, (s.m.part p).rpMode = 0) → a.isLoad = false → a.op ∈ [.store8, .store128, .scatter] →
    (∀ (x : Mach) (t q : Nat), (x.wakeMoves t q).mem = x.mem ∧ (x.wakeMoves t q).hands = x.hands) ∧
    ∃ m : Mach, exec (.bankAccess id) s = s.goes (m.wakeMoves s.tb r) ∧
      (∀ k, k ≠ r → m.hand k = s.m.hand k) ∧
      (m.hand r).accs = (s.m.hand r).accs.filter (fun b => b.id != a.id) ∧
      (a.push ≠ 0 → ((m.hand r).fifo a.push).count = ((s.m.hand r).fifo a.push).count + 1) ∧
      (∀ k, a.keys = [k] →
        (a.op = .store8 → m.bytes k 8 = leBytes 8 a.data.toNat ∧ ∀ j, j < k ∨ k + 8 ≤ j → m.byte j = s.m.byte j) ∧
        (a.op = .store128 → m.bytes k 128 = leBytes 128 a.data.toNat ∧ ∀ j, j < k ∨ k + 128 ≤ j → m.byte j = s.m.byte j)) ∧
      (a.op = .scatter → (∀ k ∈ a.keys, 4 ∣ k) →
        (∀ i k, a.keys[i]? = some k → (∀ j, i < j → a.keys[j]? ≠ some k) →
          m.bytes k 4 = leBytes 4 (elem a.data 32 i)) ∧
        ∀ j, (∀ k ∈ a.keys, j < k ∨ k + 4 ≤ j) → m.byte j = s.m.byte j))

/-- BANK_ACCESS of a load or atomic in rows with no error (06 R116, R121, R125, R126): the result takes what memory held, a
load leaves memory unchanged, and an atomic writes the operation's new value to its word, or to the 32 words of its row. -/
def Sys2Proof.Claims.LoadsAndAtomicsAtTheBank : Prop :=
  ∀ (s : State) (id r : Nat) (a : Access), s.memWf = true → s.m.findAcc id = some (r, a) → a.sent = false →
    s.m.accessWaits s.tb r a = false → s.m.banksBusy s.tb a.banks = false →
    (∀ p, (s.m.part p).rpMode = 0) → a.isLoad = true →
    a.op ∉ [.peerR, .peerW true, .peerW false] → (∀ n, a.op ≠ .img n) →
    (∀ k, s.m.rowError k = none) →
    let word := fun k => leNat (s.m.bytes k 4)
    ∃ (m : Mach) (m' : Memory), exec (.bankAccess id) s =
        s.goes ((m.supply r a.res (bankLands s.m a) (s.tb + a.land)).wakeMoves s.tb r) ∧
      m = { s.m.useBanks s.tb a.banks with hands := m.hands, mem := m' } ∧
      (∀ k, k ≠ r → m.hand k = s.m.hand k) ∧
      m.hand r = { s.m.hand r with accs := (s.m.hand r).accs.filter (fun b => b.id != a.id) } ∧
      (a.op ∈ [.load8, .load128, .loadB, .gather] → m' = s.m.mem) ∧
      (∀ k, a.keys = [k] →
        (∀ op, a.op = .atm op → op ≤ 10 →
          m'.readN k 4 = leBytes 4 (newValue op (word k) (elem a.data 32 0) (elem a.data 32 1)) ∧
          ∀ j, j < k ∨ k + 4 ≤ j → m'.read j = s.m.byte j) ∧
        (∀ op, a.op = .vatm op → op ≤ 10 →
          (∀ i, i < 32 → m'.readN (k + 4 * i) 4 =
            leBytes 4 (newValue op (word (k + 4 * i)) (elem a.data 32 i) (elem a.cmp 32 i))) ∧
          ∀ j, j < k ∨ k + 128 ≤ j → m'.read j = s.m.byte j))

/-- BANK_ACCESS (06 R116, R121, R125, R126): what stores, loads and atomics do at their bank. -/
def Obligations.BankAccesses : Prop :=
  Sys2Proof.Claims.StoresReachMemory ∧ Sys2Proof.Claims.LoadsAndAtomicsAtTheBank

/-- MESH_FLIT_ADVANCE and TRANSLATION_WALK (06 R130, R131, 04 R57 to R60). A flit takes one link of the row-then-column
route, or of the route it was placed on (06 R132); the last flit of an access at its target sends the access to its bank. A level of a walk that returns a table starts
the next level, one that returns a page fills the translation cache, and one that fails keeps its fault. -/
def Sys2Proof.Claims.FlitsAndWalks : Prop :=
  (∀ (s : State) (id : Nat) (f : Flit), s.m.flits.find? (fun g => g.id == id) = some f → (∀ p ∈ s.m.rowsIn, p.1 ≠ id) →
    let next := fun (at_ : Nat) (route : List Nat) => if route = [] then plainNext at_ f.dst
      else (stepDir at_ (route.headD 0)).getD at_
    let here := next f.at_ f.route
    let left := f.route.drop 1
    (here ≠ f.dst ∨ left ≠ [] → exec (.meshFlitAdvance id) s = s.goes
      ({ s.m with flits := s.m.flits.map (fun (g : Flit) => if g.id == id then { g with at_ := here, route := left } else g) }.post
        (s.tb + linkCost here (next here left)) (.meshFlitAdvance id))) ∧
    (here = f.dst → left = [] → ∀ r a, s.m.hands.keys.find? (fun r => (s.m.hand r).accs.any (fun a => a.id == f.acc)) = some r →
      (s.m.hand r).accs = [a] → a.id = f.acc →
      ∃ m, exec (.meshFlitAdvance id) s = s.goes m ∧ m.flits = s.m.flits.filter (fun g => g.id != id) ∧
        (m.hand r).accs = [{ a with waits := a.waits - 1, port := inputOf f.at_ f.dst }] ∧
        m.agenda = if a.waits - 1 = 0 then agendaAdd (max (s.tb + 1) a.at_) (.bankAccess f.acc) s.m.agenda else s.m.agenda)) ∧
  (∀ (x y : Nat), x < 72 → y < 72 → x ≠ y → plainNext x y < 72 ∧
    (rowOf x - rowOf y) + (rowOf y - rowOf x) + (colOf x - colOf y) + (colOf y - colOf x) =
      (rowOf (plainNext x y) - rowOf y) + (rowOf y - rowOf (plainNext x y)) + (colOf (plainNext x y) - colOf y)
        + (colOf y - colOf (plainNext x y)) + 1) ∧
  (∀ (s : State) (id c : Nat) (w : Walk), c < 72 → s.m.walkCluster id = c →
    (s.m.cluster c).walks.find? (fun w => w.id == id) = some w →
    ∃ m, exec (.translationWalk id) s = s.goes m ∧ m.mem = s.m.mem ∧ m.hands = s.m.hands ∧
      (match s.m.walkLevel (w.va.toNat % 2 ^ 48) w.level w.table with
      | (.table t, wr, u) => m.agenda = agendaAdd (s.tb + 180) (.translationWalk id) s.m.agenda ∧
        { w with level := w.level - 1, table := t, w := w.w && wr, u := w.u && u } ∈ (m.cluster c).walks
      | (.page pa, wr, u) => (m.cluster c).walks = (s.m.cluster c).walks.filter (fun v => v.id != id) ∧
        (⟨w.ctx, w.va.toNat % 2 ^ 48 / 2 ^ pageLog w.level, pageLog w.level, pa, w.w && wr, w.u && u⟩ : TcEntry)
          ∈ (m.cluster c).tc
      | (.fault cs rs, _, _) => (m.cluster c).tc = (s.m.cluster c).tc ∧
        { w with failed := some (cs, rs, w.level) } ∈ (m.cluster c).walks))

/-- LSALIGN and FENCE (06 R123, R124): LSALIGN takes a place in both queues, frozen with code 8 while one is full (R118), and lets no later
access leave before every older one is performed; FENCE completes
one cycle after the older accesses it covers at the earliest, and as soon as they have been performed, an acquire holding later accesses
and commands until then, and its token enters at completion; what stands behind a release is numbered. -/
def Sys2Proof.Claims.LsalignAndFence : Prop :=
  (∀ (s : State) (w : Z), MayIssue s .a (.lsalign w) w.hdr →
    (placesUsed s true < 16 → placesUsed s false < 16 →
      exec (.lsalign w) s = s.goes ((s.issued .a w.hdr).modHand s.cur (fun h =>
        tokenNow s .a w.hdr { h with accHold := (h.accs.map Access.doneAt).foldl max (max s.tb h.accHold), alignAt := s.m.nextId,
                                     aligns := alignsIn h ++ [s.m.nextId] }))) ∧
    (16 ≤ placesUsed s true ∨ 16 ≤ placesUsed s false → exec (.lsalign w) s = s.goes (s.m.block ⟨s.tb, s.cur, .a⟩ 8 0))) ∧
  (∀ (s : State) (w : AC), MayIssue s .a (.fence w) w.hdr →
    let done := (((s.hand.accs.filter (fun a => w.rel || a.isLoad)).map Access.doneAt).foldl max s.tb) + 1
    ∃ m, exec (.fence w) s = s.goes m ∧ m.mem = s.m.mem ∧ (m.hand s.cur).accs = s.hand.accs ∧
      (m.hand s.cur).accHold = (if w.acq then max s.hand.accHold done else s.hand.accHold) ∧
      (m.hand s.cur).relAt = (if w.rel then s.m.nextId else s.hand.relAt) ∧
      (m.hand s.cur).results = s.hand.results ++ [⟨s.m.nextId, [], 0, 0, done, true, false, w.acq,
        some ⟨s.m.nextId, w.rel, w.scope == 3⟩, w.tt.toNat, none⟩] ∧
      m.agenda = agendaAdd done (.resultLanding s.cur s.m.nextId) s.m.agenda)

/-- LSALIGN, FENCE, flits and translation walks (06 R123, R124, R130, R131, 04 R57 to R60). -/
def Obligations.FencesFlitsAndWalks : Prop :=
  Sys2Proof.Claims.LsalignAndFence ∧ Sys2Proof.Claims.FlitsAndWalks

/-- SACC, SACC_ACCEPT and SACCF (06 R127 to R129): a word with an aligned base in its own slice hands the engine 32 pairs;
an entry's pairs of one word are summed in the merge window; SACCF asks for the eviction of every entry that holds a pair of the thread,
which goes on one entry in a cycle at the entry's bank (R116), and completes 2 + n after issue, not before the last of them is written. -/
def Obligations.ScatterAccumulate : Prop :=
  (∀ (s : State) (w : VVV),
    let os : List Opnd := [⟨w.a.toNat, w.ka, false, 4⟩, ⟨w.b.toNat, w.kb, false, w.ty.toNat⟩]
    let t := s.hand.areg w.d.toNat
    let keys := (List.range 32).map (fun i =>
      s.m.saccKey s.cur t (BitVec.ofNat 32 (elem (operand s .a os 0) 32 i)))
    Sources s .a os [] → ReadyA s (w.d.setWidth 5) → t.toNat % 4 = 0 → t.toNat < 2 ^ 30 →
    t.toNat / 2 ^ 23 = clusterOf s.cur → (∀ k ∈ keys, k ≠ none) → MayIssue s .a (.sacc w) w.hdr →
    ∃ m, exec (.sacc w) s = s.goes m ∧ m.mem = s.m.mem ∧
      (m.cluster (clusterOf s.cur)).saccIn = s.cluster.saccIn ++ [⟨s.cur, s.hand.ctx, w.ty == 8, keys,
        (List.range 32).map (fun i => BitVec.ofNat 32 (elem (operand s .a os 1) 32 i)), s.m.nextId⟩] ∧
      m.agenda = if s.cluster.saccIn = [] ∧ s.cluster.saccFl = [] then agendaAdd (s.tb + 1) (.saccAccept (clusterOf s.cur)) s.m.agenda
        else s.m.agenda) ∧
  (∀ (s : State) (c k : Nat) (i : SaccIn), (∀ p, (s.m.part p).rpMode = 0) → s.m.saccPick c = some i →
    (s.m.cluster c).sacc = [] → (s.m.cluster c).saccFl = [] → i.isF = false → i.keys = List.replicate 32 (some k) → i.vals.length = 32 →
    ∃ m, exec (.saccAccept c) s = s.goes m ∧ m.mem = s.m.mem ∧
      (m.cluster c).saccIn = (s.m.cluster c).saccIn.erase i ∧
      (m.cluster c).sacc = [⟨k, false, i.vals.foldl (· + ·) 0, [i.hand], i.ctx⟩]) ∧
  (∀ (s : State) (w : AC), MayIssue s .a (.saccf w) w.hdr →
    let n := (s.cluster.sacc.filter (fun e => e.hands.contains s.cur)).length
    ∃ m x f, exec (.saccf w) s = s.goes m ∧ m.mem = s.m.mem ∧ (m.cluster (clusterOf s.cur)).sacc = s.cluster.sacc ∧
      (m.cluster (clusterOf s.cur)).saccFl = s.cluster.saccFl ++ [⟨s.cur, s.hand.ctx, s.m.nextId, false, []⟩] ∧
      (m.cluster (clusterOf s.cur)).saccFault = none ∧
      (s.cluster.saccIn = [] → s.cluster.saccFl = [] → (s.tb + 1, .saccAccept (clusterOf s.cur)) ∈ m.agenda) ∧
      x ∈ (m.hand s.cur).results ∧ x.id = s.m.nextId ∧ x.lands = [] ∧ x.tok = w.tt.toNat ∧ x.acq = w.acq ∧ s.tb + 2 + n ≤ x.due ∧
      (w.acq = false → w.rel = false → x.due = s.tb + 2 + n) ∧ (x.due, .resultLanding s.cur x.id) ∈ m.agenda ∧
      x.fence = some f ∧ f.rel = w.rel ∧ f.fabric = (w.scope == 3) ∧
      (w.acq = true ∨ w.rel = true → ∀ a ∈ s.hand.accs,
        (w.rel = true ∨ a.isLoad = true → a.doneAt < x.due) ∧ (a.id < s.m.nextId → a.id < f.snap))) ∧
  (∀ (s : State) (c : Nat) (f : SaccFl) (e : SaccEntry) (rest : List SaccEntry), (∀ p, (s.m.part p).rpMode = 0) →
    (s.m.cluster c).saccIn = [] → (s.m.cluster c).saccFl = [f] → f.begun = false → s.m.flushReady c f = true →
    (s.m.cluster c).sacc = e :: rest → f.hand ∈ e.hands → (∀ d ∈ rest, d.key ≠ e.key ∨ d.isF ≠ e.isF) →
    (s.m.banksBusy s.tb (banksOf [e.key]) = true → e.key < 2 ^ 60 →
      exec (.saccAccept c) s = s.goes (s.m.waitAtBank s.tb (.saccAccept c))) ∧
    (s.m.banksBusy s.tb (banksOf [e.key]) = false →
      ∃ m, exec (.saccAccept c) s = s.goes m ∧ m.mem = (s.m.saccEvict e).mem ∧ (m.cluster c).sacc = rest ∧
        ((∀ d ∈ rest, f.hand ∉ d.hands) → (m.cluster c).saccFl = []) ∧
        (let left := (rest.filter (fun d => d.hands.contains f.hand)).map (fun d => (d.key, d.isF))
         (∃ d ∈ rest, f.hand ∈ d.hands) → (s.tb + 1, .saccAccept c) ∈ m.agenda ∧
          (m.cluster c).saccFl = [{ f with begun := true, left := left }]))) ∧
  (∀ (s : State) (r : Nat) (x : Result), (s.m.hand r).results.find? (fun y => y.id == x.id) = some x → x.lands = [] →
    s.m.flushing r x.id = true → exec (.resultLanding r x.id) s = s.goes (s.m.post (s.tb + 1) (.resultLanding r x.id))) ∧
  (∀ (m : Mach) (e : SaccEntry), m.rowError e.key = none → e.isF = false → m.mem.wf = true →
    (m.saccEvict e).bytes e.key 4 = leBytes 4 ((leNat (m.bytes e.key 4) + e.val.toNat) % 2 ^ 32) ∧
    ∀ j, j < e.key ∨ e.key + 4 ≤ j → (m.saccEvict e).byte j = m.byte j)

/-- The each-engine and decided words, and ALIGN (09 R186 to R190, 07 R150). Each engine applies a word to its own PC: NOP
goes past it, JMP and CALL to their targets, CALL keeping the return address on the engine's stack of at most 32, RET to
the address on top. The decider of a BRA, BRX or LOOP compares, tells both followers, and goes; a follower goes as it was
told. ALIGN sets VCLK and the word counters to 0 and leaves everything else. -/
def Obligations.ControlFlow : Prop :=
  (∀ (s : State) (w : Z), (Instr.nop w).check = none → exec (.nop w) s = s.goes (s.issued s.eng w.hdr)) ∧
  (∀ (s : State) (w : J), (Instr.jmp w).check = none →
    exec (.jmp w) s = s.goes ((s.issued s.eng w.hdr).goto s.cur s.eng (branchTo s s.eng w.offset))) ∧
  (∀ (s : State) (w : J), (Instr.call w).check = none → (s.hand.engine s.eng).stack.length < 32 →
    exec (.call w) s = s.goes (((s.issued s.eng w.hdr).modHand s.cur (fun h => h.modEngine s.eng (fun y =>
      { y with stack := ((s.hand.engine s.eng).pc + 8) :: y.stack }))).goto s.cur s.eng (branchTo s s.eng w.offset))) ∧
  (∀ (s : State) (w : Z) (a : W64) (t : List W64), (Instr.ret w).check = none → (s.hand.engine s.eng).stack = a :: t →
    exec (.ret w) s = s.goes (((s.issued s.eng w.hdr).modHand s.cur (fun h => h.modEngine s.eng (fun y =>
      { y with stack := t }))).goto s.cur s.eng a)) ∧
  (∀ (s : State) (w : BA), (Instr.bra w).check = none → s.eng = .a → ReadyA s w.a → ReadyA s w.b →
    s.hand.ex.outq.length < 16 → s.hand.em.outq.length < 16 →
    exec (.bra w) s = s.goes (decided s .a w.hdr id (branchTo s .a w.offset)
      (taken w.cond (s.hand.areg w.a.toNat) (s.hand.areg w.b.toNat)))) ∧
  (∀ (s : State) (w : BX), (Instr.brx w).check = none → s.eng = .x → ReadyS s w.a.toNat → ReadyS s w.b.toNat →
    s.hand.ea.outq.length < 16 → s.hand.em.outq.length < 16 →
    exec (.brx w) s = s.goes (decided s .x w.hdr id (branchTo s .x w.offset)
      (taken w.cond (s.hand.sreg w.a.toNat) (s.hand.sreg w.b.toNat)))) ∧
  (∀ (s : State) (w : BA), (Instr.loop w).check = none → s.eng = .a → ReadyA s w.a →
    s.hand.ex.outq.length < 16 → s.hand.em.outq.length < 16 →
    exec (.loop w) s = s.goes (decided s .a w.hdr
      (fun h => h.putA (aKey h.ring w.a.toNat) (s.hand.areg w.a.toNat - 1)) (branchTo s .a w.offset)
      (decide (0 < (s.hand.areg w.a.toNat - 1).toInt)))) ∧
  (∀ (s : State) (w : BA) (b : Bool) (t : List Bool), (s.hand.engine s.eng).outq = b :: t → s.eng ≠ .a →
    ((Instr.bra w).check = none → exec (.bra w) s = s.goes (follows s w.hdr (branchTo s s.eng w.offset) b t)) ∧
    ((Instr.loop w).check = none → exec (.loop w) s = s.goes (follows s w.hdr (branchTo s s.eng w.offset) b t))) ∧
  (∀ (s : State) (w : BX) (b : Bool) (t : List Bool), (s.hand.engine s.eng).outq = b :: t → s.eng ≠ .x →
    (Instr.brx w).check = none → exec (.brx w) s = s.goes (follows s w.hdr (branchTo s s.eng w.offset) b t)) ∧
  (∀ (s : State) (w : Z), (Instr.align w).check = none →
    ∃ f : Engine → EngineState, exec (.align w) s = s.goes (s.m.setHand s.cur { s.hand with
        ea := f .a, ex := f .x, em := f .m, vclk := 0, blocked := none, stage := 0 }) ∧
      ∀ e, (f e).words = 0 ∧ (f e).prev = 0 ∧ (f e).pc = (s.hand.engine e).pc + 8 ∧
        (f e).stack = (s.hand.engine e).stack ∧ (f e).latch = (s.hand.engine e).latch ∧
        (f e).outq = (s.hand.engine e).outq)

/-- Taking a trap (19 R362, R363): with the record area of the ring writable, the hand enters ring D, the larger of the
target ring and CR + B, with BUSY bit D set, TCAUSE of D written, every latch invalid, VCLK and the word counters 0, and every
engine at TVEC of D + 32 x cause with its next word due at 1, no sooner than 40 c after the cut; its record lies where TRREC of D
says. -/
def Sys2Proof.Claims.TrapEntry : Prop :=
  ∀ (m m' : Mach) (now r want : Nat) (c : Cut),
    let cut := cutOf m now r
    let h := cut.hand r
    let d := max want (h.ring + (if h.busy.getLsbD h.ring then 1 else 0))
    let f := if c.pcs = [] then { c with pcs := cut.cutPcs r } else c
    d < 4 → cut.writeRec r d (cut.recordBytes now r f d h.ring (h.busy != 0)) = .ok m' →
    let t := m.takeTrap now r c want
    let g := t.hand r
    g.ring = d ∧ g.busy = h.busy ||| (1 <<< d) ∧ (∀ k, KMap.get 0 g.tcause k =
        if k = d then BitVec.ofNat 64 (c.f.cause + 256 * c.f.reason) else KMap.get 0 h.tcause k) ∧
      g.vclk = 0 ∧ g.blocked = none ∧ g.holdTill = now + 40 ∧ g.barTill = 0 ∧
      (∀ e, (g.engine e).pc = (h.creg (0x004 + d) &&& ~~~(7 : W64)) + BitVec.ofNat 64 (32 * c.f.cause) ∧
        (g.engine e).latch = none ∧ (g.engine e).words = 0 ∧ (g.engine e).prev = 0 ∧ (g.engine e).anew = true ∧
        (g.engine e).stack = (h.engine e).stack ∧ (g.engine e).outq = (h.engine e).outq) ∧
      g.s = h.s ∧ g.a = h.a ∧ g.p = h.p ∧ g.st = h.st ∧ g.h = h.h ∧ g.v = h.v ∧ g.fifos = h.fifos ∧
      g.results = h.results ∧ t.mem = m'.mem ∧ (∀ k, k ≠ r → t.hand k = cut.hand k)

/-- What taking a trap leaves (19 R363): beside the hand and the bytes of the record, nothing of the state but what the cut takes
back; and where the hand waits in no barrier and on no flag and its cluster keeps no failed walk, the cut takes nothing back:
every hand, context, cluster and the memory are as they were. -/
def Sys2Proof.Claims.TrapLeavesTheRest : Prop :=
  (∀ (m m' : Mach) (now r want : Nat) (c : Cut),
    let cut := cutOf m now r
    let h := cut.hand r
    let d := max want (h.ring + (if h.busy.getLsbD h.ring then 1 else 0))
    let b := cut.recordBytes now r (if c.pcs = [] then { c with pcs := cut.cutPcs r } else c) d h.ring (h.busy != 0)
    let x := h.creg (0x008 + d)
    d < 4 → cut.writeRec r d b = .ok m' →
    let t := m.takeTrap now r c want
    t = { cut with mem := t.mem, hands := t.hands } ∧
    (2 ≤ d → t.mem = cut.mem.writeN x.toNat b) ∧
    (d ≤ 1 → ∃ l, cut.span h.ctx x b.length true (d == 0) = .ok l ∧ t.mem = (cut.writeSpan l b).mem)) ∧
  (∀ (m : Mach) (now r : Nat), let k := (m.hand r).ctx
    (∀ w ∈ (m.ctx k).flagWaits, w.hand ≠ r) → (∀ p ∈ (m.ctx k).barriers ++ m.dev.fabBars, r ∉ p.2.arrived) →
    (∀ w ∈ (m.cluster (clusterOf r)).walks, w.failed = none) →
    let cut := cutOf m now r
    cut = { m with ctxs := cut.ctxs, clusters := cut.clusters } ∧ (∀ j, cut.ctx j = m.ctx j) ∧
      ∀ j, cut.cluster j = m.cluster j)

/-- A trap that no ring may take, past ring 3, halts the package, and the halt log keeps its record with every hand's CR (19
R362), the first such record. -/
def Sys2Proof.Claims.TrapPastRingThreeHalts : Prop :=
  ∀ (m : Mach) (now r want : Nat) (c : Cut), let cut := cutOf m now r
    let h := cut.hand r
    3 < max want (h.ring + (if h.busy.getLsbD h.ring then 1 else 0)) → c.pcs ≠ [] →
    (m.takeTrap now r c want).halted = some (m.halted.getD ⟨cut.recordBytes now r c 3 h.ring (h.busy != 0),
      cut.hands.map (fun p => (p.1, p.2.crValue))⟩)

/-- The fields of a trap record (19 R366), and that the return (R367) restores from them what the trap saved: the ring, the
return PCs, VCLK and the word counters; every engine's next word is then due at VCLK + 1. -/
def Sys2Proof.Claims.TrapRecordAndReturn : Prop :=
  (∀ (m : Mach) (now r d ret : Nat) (c : Cut) (nested : Bool) (p q t : W64), c.pcs = [p, q, t] →
    let b := m.recordBytes now r c d ret nested
    let h := m.hand r
    b.length = 1024 ∧ (now < 2 ^ 64 → field b 0 8 = now) ∧ (c.f.cause < 256 → field b 8 1 = c.f.cause) ∧
      (c.f.reason < 256 → field b 9 1 = c.f.reason) ∧
      (c.eng ≤ 3 → field b 10 1 = c.eng + if c.recorded then 4 else 0) ∧
      (d ≤ 3 → ret ≤ 3 → field b 11 1 = d + 4 * ret + if nested then 16 else 0) ∧
      field b 12 2 = min h.lost 65535 ∧ field b 16 8 = c.word.toNat ∧
      field b 24 8 = p.toNat ∧ field b 32 8 = q.toNat ∧ field b 40 8 = t.toNat ∧
      (h.vclk < 2 ^ 64 → field b 64 8 = h.vclk) ∧
      (∀ j x, j < 16 → c.f.slots[j]? = some x → field b (128 + 8 * j) 8 = x.toNat)) ∧
  (∀ (m : Mach) (g : Hand) (now later t r d ret : Nat) (c : Cut) (nested : Bool) (p q u : W64), c.pcs = [p, q, u] →
    d ≤ 3 → ret ≤ 3 → (m.hand r).vclk < 2 ^ 64 →
    let b := g.returnFrom later t (m.recordBytes now r c d ret nested)
    b.ring = ret ∧ b.vclk = (m.hand r).vclk ∧ b.busy = g.busy &&& ~~~((1 : BitVec 4) <<< g.ring) ∧
      b.ea.pc = p &&& ~~~(7 : W64) ∧ b.ex.pc = q &&& ~~~(7 : W64) ∧ b.em.pc = u &&& ~~~(7 : W64) ∧
      b.ea.latch = none ∧ b.ex.latch = none ∧ b.em.latch = none ∧
      (∀ e, (b.engine e).prev = b.vclk ∧ (b.engine e).anew = true ∧ (b.engine e).notBefore = 0) ∧
      (let h := m.hand r
       let low := min h.ea.words (min h.ex.words h.em.words)
       b.ea.words = (h.ea.words - low) % 2 ^ 16 ∧ b.ex.words = (h.ex.words - low) % 2 ^ 16 ∧
       b.em.words = (h.em.words - low) % 2 ^ 16))

/-- Taking a trap, its record, and what a return restores from it (19 R362, R363, R366, R367). -/
def Obligations.TrapEntryAndRecord : Prop :=
  Sys2Proof.Claims.TrapEntry ∧ Sys2Proof.Claims.TrapLeavesTheRest ∧ Sys2Proof.Claims.TrapPastRingThreeHalts ∧ Sys2Proof.Claims.TrapRecordAndReturn

/-- TRAP, SYS and ERET (19 R367, R368): TRAP takes user-trap with its number and the calling ring in the record, SYS the
ring-call of the ring that it names above CR, both with the return PCs at the word after; ERET returns as the record of the
current ring says, and is illegal with no handler active at ring 0 or to a ring that it may not go to. -/
def Sys2Proof.Claims.SoftwareTrapsAndReturn : Prop :=
  (∀ (s : State) (w : N), (Instr.trap w).check = none →
    exec (.trap w) s = s.goes ((s.m.modHand s.cur Hand.passRv).trap s.tb s.cur
      { f := ⟨0x1A, 0, [BitVec.ofNat 64 (w.imm.toNat % 2 ^ 16 + 2 ^ 16 * s.hand.ring)]⟩, word := (encode (.trap w)).getD 0 })) ∧
  (∀ (s : State) (w : N), (Instr.sys w).check = none → s.hand.ring < w.mod.toNat % 4 →
    exec (.sys w) s = s.goes ((s.m.modHand s.cur Hand.passRv).takeTrap s.tb s.cur
      { f := ⟨0x19, 0, [BitVec.ofNat 64 (w.imm.toNat % 2 ^ 16 + 2 ^ 16 * s.hand.ring)]⟩, word := (encode (.sys w)).getD 0 }
      (w.mod.toNat % 4))) ∧
  (∀ (s : State) (w : N), (Instr.sys w).check = none → w.mod.toNat % 4 ≤ s.hand.ring →
    exec (.sys w) s = s.goes (s.m.trap s.tb s.cur { f := ⟨1, 8, []⟩, eng := 3, word := (encode (.sys w)).getD 0 })) ∧
  (∀ (s : State) (w : Z) (img : List Byte), (Instr.eret w).check = none →
    (s.m.seen s.cur).readRec s.cur s.hand.ring = .ok img → let dest := field img 11 1 / 4 % 4
    (s.hand.ring ≠ 0 ∧ dest < s.hand.ring ∨ s.hand.ring = 0 ∧ s.hand.busy.getLsbD 0 = true ∧ dest = 0) →
    ∃ m, exec (.eret w) s = s.goes m ∧ m.mem = s.m.mem ∧ (∀ k, k ≠ s.cur → m.hand k = s.m.hand k) ∧
      (let g := m.hand s.cur
       g.ring = dest ∧ g.busy = s.hand.busy &&& ~~~((1 : BitVec 4) <<< s.hand.ring) ∧ g.vclk = field img 64 8 ∧
       (∀ e, (g.engine e).latch = none) ∧ s.tb < g.holdTill ∧ g.s = s.hand.s ∧ g.a = s.hand.a ∧ g.v = s.hand.v ∧
       g.ea.pc = BitVec.ofNat 64 (field img 24 8) &&& ~~~(7 : W64) ∧
       g.ex.pc = BitVec.ofNat 64 (field img 32 8) &&& ~~~(7 : W64) ∧
       g.em.pc = BitVec.ofNat 64 (field img 40 8) &&& ~~~(7 : W64) ∧
       g.ea.words = field img 120 2 ∧ g.ex.words = field img 122 2 ∧ g.em.words = field img 124 2)) ∧
  (∀ (s : State) (w : Z), (Instr.eret w).check = none → s.hand.ring = 0 → s.hand.busy.getLsbD 0 = false →
    exec (.eret w) s = s.goes (s.m.trap s.tb s.cur { f := ⟨1, 8, []⟩, eng := 3, word := (encode (.eret w)).getD 0 }))

/-- The events that end a hand's wait (07 R148, 19 R361, R364): a freeze longer than WDOG raises deadlock at its engine with
the freeze's code and register and the blocked word; the timer's expiry is a recorded fault; and of the recorded faults the oldest that may be
delivered is taken, its place given up. -/
def Sys2Proof.Claims.DeadlockTimerAndRecordedFaults : Prop :=
  (∀ (s : State) (r : Nat) (b : Blocked), let h := s.m.hand r
    let wd := (h.creg 0x022).toNat % 2 ^ 32
    h.blocked = some b → 0 < wd → wd < h.frzRun →
    exec (.watchdogExpiry r) s = s.goes (s.m.trap s.tb r
      { f := ⟨0x16, 0, [BitVec.ofNat 64 b.code, BitVec.ofNat 64 (engNo b.eng), s.m.cutPc r b.eng, BitVec.ofNat 64 b.info]⟩,
        eng := engNo b.eng, word := s.m.wordAt r (s.m.cutPc r b.eng) })) ∧
  (∀ (s : State) (r : Nat), (s.m.hand r).creg 0x022 = 0 → exec (.watchdogExpiry r) s = s.goes s.m) ∧
  (∀ (s : State) (r : Nat), (s.m.part (s.m.partOf r)).rpMode ≠ 2 →
    ∃ m, exec (.timerExpiry r) s = s.goes m ∧
      (if (s.m.hand r).pending.length < 8 then (m.hand r).pending = (s.m.hand r).pending ++ [⟨0x1E, 0, []⟩]
       else (m.hand r).pending = (s.m.hand r).pending ∧ (m.hand r).lost = (s.m.hand r).lost + 1)) ∧
  (∀ (s : State) (r : Nat) (a b : List FaultRec) (f : FaultRec), let h := s.m.hand r
    h.pending = a ++ f :: b →
    (∀ g ∈ a, s.m.tring r g.cause < h.ring ∧ g.cause ∉ [0x1F, 0x16, 0x1D]) →
    (h.ring ≤ s.m.tring r f.cause ∨ f.cause ∈ [0x1F, 0x16, 0x1D]) → f ∉ a →
    (∃ m, s.m.writeRec r (h.deliverRing (s.m.tring r f.cause)) (List.replicate 1024 0) = .ok m) →
    (s.m.part (s.m.partOf r)).rpMode = 0 →
    exec (.recordedFaultDelivery r) s =
      s.goes (((s.m.modHand r (fun h => { h with pending := a ++ b })).modHand r (fun h => { h with vclk := (s.m.hand r).cutVclk })).trap
        s.tb r { f := f, recorded := true, pcs := s.m.cutPcs r }))

/-- TRAP, SYS, ERET, and the events that take a trap of a waiting hand (19 R361, R364, R367, R368, 07 R148). -/
def Obligations.SoftwareTrapsAndRecordedFaults : Prop :=
  Sys2Proof.Claims.SoftwareTrapsAndReturn ∧ Sys2Proof.Claims.DeadlockTimerAndRecordedFaults

/-- The team flags (17 R323 to R326). FINC sends its amount to the flag of its own or the named cluster's team, 2 + H after
its issue, or with .rel after the nominal end of what it releases, behind an acquire that is not complete after its nominal end; on arrival the flag rises by it, wrapping, or the context agent adds it in the image of a switched-out team; FRDF
reads a flag; FWT takes its amount from a flag that holds it, and otherwise waits in order; FLAG_WAIT_SERVED serves the
first waiter. -/
def Sys2Proof.Claims.TeamFlags : Prop :=
  (∀ (s : State) (w : AAA), let far := w.imm.getLsbD 6
    let c := if far then (s.hand.areg w.a.toNat).toNat % 128 else clusterOf s.cur
    (far = true → ReadyA s w.a) → ReadyA s w.b → (far = true → s.m.inPart s.hand.ctx c = true) →
    let rel := w.imm.getLsbD 7
    let acq := s.hand.results.any (fun x => x.acq)
    let t := s.hand.acqT (if rel then s.hand.releasedBy s.tb else s.tb) + 2 + hops (clusterOf s.cur) c
    let m1 := ((s.issued .a w.hdr).post t (.remoteFincArrival s.hand.ctx (s.cur % 2) c (w.imm.toNat % 64)
        (amountOf s w) s.cur (if rel || acq then s.m.nextId else 0) (s.hand.ea.iseq + 1))).issueResult
      s.cur [] 0 (pushFifo .a w.hdr.push) t (!(rel || acq)) false
    MayIssue s .a (.finc w) w.hdr →
    (rel = true ∨ acq = false → exec (.finc w) s = s.goes m1) ∧
    (rel = false → acq = true → exec (.finc w) s = s.goes (m1.modHand s.cur (fun h => { h with results := h.results.map (fun y =>
      if y.id == s.m.nextId then { y with fence := some ⟨0, false, false⟩ } else y) }))) ∧
    (acq = false → t = (if rel then s.hand.releasedBy s.tb else s.tb) + 2 + hops (clusterOf s.cur) c)) ∧
  (∀ (s : State) (k hand c f who iseq : Nat) (v : W32), (∀ p, (s.m.part p).rpMode = 0) →
    (s.m.ctx k).agentOf (2 * c + hand) = none →
    ∃ m, exec (.remoteFincArrival k hand c f v who 0 iseq) s = s.goes m ∧
      exec (.contextAgentFinc k hand c f v) s = s.goes m ∧
      (∀ t g, (m.ctx k).flag t g = if 64 * t + g = 64 * (2 * c + hand) + f then
        (s.m.ctx k).flag (2 * c + hand) f + v else (s.m.ctx k).flag t g) ∧
      (∀ j, j ≠ k → m.ctx j = s.m.ctx j) ∧ m.hands = s.m.hands ∧
      m.agenda = agendaAdd s.tb (.flagWaitServed k (2 * c + hand) f) s.m.agenda) ∧
  (∀ (s : State) (k hand c f : Nat) (v : W32) (img : W64) (m : Mach),
    (s.m.ctx k).agentOf (2 * c + hand) = some img → let a := img + BitVec.ofNat 64 (1179648 + 4 * f)
    ∀ l, s.m.span k a 4 false false = .ok l → s.m.writeAt k a (leBytes 4 (leNat (s.m.readSpan l) + v.toNat)) false = .ok m →
    exec (.contextAgentFinc k hand c f v) s = s.goes (m.countErrors c (l.map (·.1)))) ∧
  (∀ (s : State) (w : AAA), MayIssue s .a (.frdf w) w.hdr →
    exec (.frdf w) s = s.setsA w.hdr w.d 4 ((s.ctx.flag (teamOf s.cur) (w.imm.toNat % 64)).setWidth 64)) ∧
  (∀ (s : State) (w : AAA), ReadyA s w.b → let f := w.imm.toNat % 64
    let x := s.ctx.flag (teamOf s.cur) f
    (∀ u ∈ s.ctx.flagWaits, u.hand ≠ s.cur ∧ (u.team ≠ teamOf s.cur ∨ u.flag ≠ f ∨ u.served = true)) → MayIssue s .a (.fwt w) w.hdr →
    ((amountOf s w).toNat ≤ x.toNat →
      exec (.fwt w) s = s.goes ((((s.issued .a w.hdr).modCtx s.hand.ctx (fun z => z.setFlag (teamOf s.cur) f (x - amountOf s w))).modHand
          s.cur (fun h => if w.imm.getLsbD 7 then { h with accHold := max h.accHold (s.tb + 4) } else h)).issueResult
        s.cur [.areg (aKey s.hand.ring w.d.toNat) (x.setWidth 64)] 0 (pushFifo .a w.hdr.push) (s.tb + 4) true false)) ∧
    (x.toNat < (amountOf s w).toNat →
      ∃ m, exec (.fwt w) s = s.goes m ∧ m.mem = s.m.mem ∧ (m.hand s.cur).blocked = some ⟨11, .a, 0⟩ ∧
        (m.hand s.cur).ea = s.hand.ea ∧
        (m.ctx s.hand.ctx).flagWaits = s.ctx.flagWaits ++ [⟨teamOf s.cur, f, s.cur, (amountOf s w).toNat, false, 0⟩])) ∧
  (∀ (s : State) (k team f : Nat) (w : FlagWait) (a b : List FlagWait), let x := s.m.ctx k
    x.flagWaits = a ++ w :: b → (∀ u ∈ a, u.team ≠ team ∨ u.flag ≠ f ∨ u.served = true) →
    w.team = team → w.flag = f → w.served = false → w ∉ a → w ∉ b → w.amount ≤ (x.flag team f).toNat →
    ∃ m, exec (.flagWaitServed k team f) s = s.goes m ∧
      (m.ctx k).flag team f = x.flag team f - BitVec.ofNat 32 w.amount ∧
      (m.ctx k).flagWaits = a ++ { w with served := true, old := x.flag team f } :: b ∧
      m.agenda = agendaAdd s.tb (.flagWaitServed k team f) s.m.agenda)

/-- BAR, BARRIER_COMPLETE and PHASE (17 R316 to R322): a member's arrival is counted once and it waits with code 6; the last
arrival, a fabric group's other devices having arrived, fixes the completion R321's time later, counted in vc; a barrier whose members have
writes left to release by then is tested again in each cycle; at completion every member goes past its BAR and the phase bit is as the
action says. PHASE names the
domain that governs the thread. -/
def Sys2Proof.Claims.BarriersAndPhases : Prop :=
  (∀ (s : State) (w : N), (Instr.bar w).check = none →
    let lvl := w.mod.toNat / 4
    let act := w.mod.toNat % 4
    let k := s.hand.ctx
    let inst := s.m.barInst lvl s.cur
    let b := s.m.barrier k lvl inst
    (lvl = 0 → act = 0) → (lvl = 3 → s.ctx.fgrp ≠ 0) → s.cur ∉ b.arrived → (b.arrived ≠ [] → b.act = act) →
    (s.m.allArrived s.cur lvl (b.arrived ++ [s.cur]) = false → b.doneAt = none →
      ∃ m, exec (.bar w) s = s.goes m ∧ m.agenda = s.m.agenda ∧ (m.hand s.cur).blocked.map Blocked.code = some 6 ∧
        m.barrier k lvl inst = { b with act := act, arrived := b.arrived ++ [s.cur] } ∧
        ∀ e, (m.hand s.cur).engine e = s.hand.engine e) ∧
    (s.m.allArrived s.cur lvl [s.cur] = true → b.arrived = [] → b.doneAt = none →
      (lvl = 3 → s.ctx.farGroup = true → b.peers = true) →
      ∃ m : Mach, exec (.bar w) s = s.goes m ∧
        m.barrier k lvl inst = { b with act := act, arrived := [s.cur], doneAt := some (s.tb + barTime lvl) } ∧
        m.agenda = agendaAdd (s.tb + barTime lvl) (.barrierComplete k lvl inst) s.m.agenda ∧
        (m.hand s.cur).barTill = s.tb + barTime lvl ∧ (m.hand s.cur).blocked = none ∧
        (let s' : State := { s with tb := s.tb + barTime lvl, m := m }
         let waits : Bool := m.accessesOpen s.cur m.nextId || m.stepsOpen s.cur ||
           (act == 2 && KMap.get false (m.handCtx s.cur).phases (phaseKey lvl s.cur) && !(m.members s.cur lvl).all m.remoteDone)
         (waits = true → exec (.barrierComplete k lvl inst) s' = s'.goes (m.post (s'.tb + 1) (.barrierComplete k lvl inst))) ∧
         (waits = false → ∃ m' : Mach, exec (.barrierComplete k lvl inst) s' = s'.goes m' ∧ m'.barrier k lvl inst = {} ∧
          (act ≠ 0 → KMap.get false (m'.ctx k).phases (phaseKey lvl s.cur) = (act == 1)) ∧
          (act = 0 → (m'.ctx k).phases = s.ctx.phases) ∧
          ∀ e, ((m'.hand s.cur).engine e).pc = (s.hand.engine e).pc + 8 ∧ ((m'.hand s.cur).engine e).arrived = false)))) ∧
  (∀ (s : State) (w : N), (Instr.bar w).check = none →
    let lvl := w.mod.toNat / 4
    let act := w.mod.toNat % 4
    let b := s.m.barrier s.hand.ctx lvl (s.m.barInst lvl s.cur)
    (lvl = 0 ∧ act ≠ 0 ∨ lvl = 3 ∧ s.ctx.fgrp = 0 →
      exec (.bar w) s = s.goes (s.m.trap s.tb s.cur { f := ⟨1, 8, []⟩, eng := 3, word := (encode (.bar w)).getD 0 })) ∧
    (lvl ≠ 0 → (lvl = 3 → s.ctx.fgrp ≠ 0) → b.arrived ≠ [] → s.cur ∉ b.arrived → b.act ≠ act →
      exec (.bar w) s = s.goes (s.m.trap s.tb s.cur { f := ⟨1, 9, []⟩, eng := 3, word := (encode (.bar w)).getD 0 }))) ∧
  (∀ (s : State) (w : N), (Instr.phase w).check = none → (w.mod.toNat / 4 = 3 → s.ctx.fgrp ≠ 0) →
    ∃ v, exec (.phase w) s = s.goes ((s.m.modHand s.cur Hand.passRv).modHand s.cur (fun h => h.setCreg 0x07A v)) ∧
      ∀ i, i < 64 → v.getLsbD i = if i = 4 ∨ i = 5 then w.mod.getLsbD (i - 2) else (s.hand.creg 0x07A).getLsbD i)

/-- Team flags, barriers and phases (17 R317 to R326). -/
def Obligations.FlagsBarriersAndPhases : Prop :=
  Sys2Proof.Claims.TeamFlags ∧ Sys2Proof.Claims.BarriersAndPhases

/-- Stream registers (05 R88, R89): STSET reads 32 bytes at A[desc], aligned to 32, through the load queue; one cycle after
the path returns the register takes all 256 bits, or a malformed image records copy-fault and leaves it; STGET writes the
register's 32 bytes through the store queue. -/
def Obligations.StreamRegisters : Prop :=
  (∀ (s : State) (w : AC), let a := s.hand.areg w.desc.toNat
    ReadyA s w.desc → a.toNat % 32 = 0 →
    (Room s true → (∃ k, s.m.xlate s.cur a 32 false = .key k) →
      MayIssue s .a (.stset w) w.hdr →
      exec (.stset w) s = s.goes ((s.issued .a w.hdr).enqueue s.tb s.cur
        { id := 0, hand := s.cur, isLoad := true, op := .img 4, keys := [s.m.keyOf s.cur a 32 false], rows := [],
          reg := w.stream.toNat, push := w.tt.toNat, vas := [a] } [a])) ∧
    (Room s false → (∃ k, s.m.xlate s.cur a 32 true = .key k) →
      MayIssue s .a (.stget w) w.hdr →
      exec (.stget w) s = s.goes ((s.issued .a w.hdr).enqueue s.tb s.cur
        { id := 0, hand := s.cur, isLoad := false, op := .img 9, keys := [s.m.keyOf s.cur a 32 true], rows := [],
          data := BitVec.setWidth 1024 (s.hand.streg w.stream.toNat), push := w.tt.toNat, vas := [a] } [a]))) ∧
  (∀ (s : State) (id r : Nat) (a : Access), s.memWf = true → s.m.findAcc id = some (r, a) → a.sent = false →
    s.m.accessWaits s.tb r a = false → s.m.banksBusy s.tb a.banks = false → a.op = .img 9 → a.isLoad = false →
    ∃ m, exec (.bankAccess id) s = s.goes m ∧
      (m.hand r).accs = (s.m.hand r).accs.filter (fun b => b.id != a.id) ∧ m.bytes (a.keys.headD 0) 32 = leBytes 32 a.data.toNat ∧
      ∀ j, j < a.keys.headD 0 ∨ a.keys.headD 0 + 32 ≤ j → m.byte j = s.m.byte j) ∧
  (∀ (s : State) (r id : Nat) (a : Access), (s.m.hand r).accs.find? (fun b => b.id == id) = some a →
    let img : BitVec 256 := BitVec.ofNat 256 a.data.toNat
    ∃ m, exec (.stsetImageReturn r id) s = s.goes m ∧ m.mem = s.m.mem ∧
      (m.hand r).accs = (s.m.hand r).accs.filter (fun b => b.id != id) ∧
      (stBad img = false → ∀ k, (m.hand r).streg k = if k = a.reg then img else (s.m.hand r).streg k) ∧
      (stBad img = true → (m.hand r).st = (s.m.hand r).st ∧ (m.hand r).fifos = (s.m.hand r).fifos ∧
        ((s.m.hand r).pending.length < 8 → (m.hand r).pending = (s.m.hand r).pending ++
          [copyFault 1 0 [0, 0, 0, 0, 0, 0] (a.vas.headD 0) []])))

/-- The words of the copy engine (05 R101, R103, R104): CPY captures its descriptor, XMODE and Q, takes the next CPSEQ and
waits its turn, issuing behind an acquire only when that is complete (18 R348, frozen with code 8; the code is log 44's choice); CPYQ issues once at most n copies are in flight, and frozen with code 9 until then; CPYK cancels every copy
in flight, and its token comes when the last emitted unit has drained, at once with no copy in flight. -/
def Sys2Proof.Claims.CopyWords : Prop :=
  (∀ (s : State) (w : AC), let a := s.hand.areg w.desc.toNat
    let c := copyOf s.m ⟨s.tb, s.cur, .a⟩ w
    ReadyA s w.desc → a.toNat % 128 = 0 → (∃ k, s.m.xlate s.cur a 128 false = .key k) → MayIssue s .a (.cpy w) w.hdr →
    ((∃ x ∈ s.hand.results, x.acq = true) → exec (.cpy w) s = s.goes (s.m.block ⟨s.tb, s.cur, .a⟩ 8 0)) ∧
    ((∀ x ∈ s.hand.results, x.acq = false) → c.bad s.m s.hand.ctx = false →
    (s.m.phase s.cur = true ∨ ∀ d ∈ c.reach (2 ^ 23), otherSlice s.cur d = false) →
    (s.hand.copies.filter (fun c => c.state != 3)).length < 8 →
    ∃ m, exec (.cpy w) s = s.goes m ∧ m.mem = s.m.mem ∧ (m.hand s.cur).copies =
        (if 8 ≤ s.hand.copies.length then s.hand.copies.filter (fun c => c.state != 3) else s.hand.copies) ++ [c] ∧
      (m.hand s.cur).cpseq = (s.hand.cpseq + 1) % 2 ^ 32 ∧ c.seq = (s.hand.cpseq + 1) % 2 ^ 32 ∧ c.state = 0 ∧
      c.descAt = a ∧ c.xmode = (s.hand.creg 0x030).toNat % 16 ∧
      m.agenda = agendaAdd c.startT (.copyStart s.cur) s.m.agenda)) ∧
  (∀ (s : State) (w : AC), let n := (s.hand.copies.filter (fun c => c.state != 3)).length
    MayIssue s .a (.cpyq w) w.hdr →
    (n ≤ w.imm.toNat % 8 → exec (.cpyq w) s = s.goes (s.issued .a w.hdr)) ∧
    (w.imm.toNat % 8 < n → exec (.cpyq w) s = s.goes (s.m.block ⟨s.tb, s.cur, .a⟩ 9 0))) ∧
  (∀ (s : State) (w : AC), MayIssue s .a (.cpyk w) w.hdr →
    ∃ m, exec (.cpyk w) s = s.goes m ∧ (∀ c ∈ (m.hand s.cur).copies, c.state = 3 ∨ c.state = 5) ∧
      (s.hand.copies = [] → m.mem = s.m.mem ∧ m.agenda = if w.tt.toNat = 0 then s.m.agenda
        else agendaAdd s.tb (.pendingTokenEntry s.cur w.tt.toNat) s.m.agenda))

/-- The life of a copy (05 R91, R94, R101, R102, 18 R348): COPY_START starts the oldest that waits when none is emitting and nothing
that it stands behind is left; COPY_UNIT performs one unit at its banks, or waits for them (06 R116), and moves on to the next; COPY_COMPLETE of a copy that owes no mask, CRC
or status record drops it and pushes its token. -/
def Sys2Proof.Claims.CopyEvents : Prop :=
  (∀ (s : State) (r : Nat) (c : Copy), let h := s.m.hand r
    (∀ d ∈ h.copies, d.state = 1 → d.endT ≤ s.tb) → h.copies.find? (fun c => c.state == 0) = some c → c.startT ≤ s.tb →
    (h.held c.id c.id = true → exec (.copyStart r) s = s.goes (s.m.post (s.tb + 1) (.copyStart r))) ∧
    (h.held c.id c.id = false → let c' := { c with state := 1, startT := s.tb, first := c.unitNo,
                                                   endT := s.tb + (c.cycles - c.unitNo * c.unitCyc), stopT := none }
      exec (.copyStart r) s = s.goes (((s.m.setHand r (h.putCopy c')).post (s.tb + c'.lat) (.copyUnit r c'.id)).post c'.endT
        (.copyStart r)))) ∧
  (∀ (s : State) (r id : Nat) (c : Copy), (s.m.hand r).copy? id = some c → c.state = 1 → c.stopT = none →
    s.m.banksBusy s.tb (banksOf (s.m.unitKeys c)) = true →
    exec (.copyUnit r id) s = s.goes (s.m.waitAtBank s.tb (.copyUnit r id))) ∧
  (∀ (s : State) (r id : Nat) (c c' : Copy) (m : Mach), (s.m.hand r).copy? id = some c →
    c.state = 1 → c.stopT = none → s.m.banksBusy s.tb (banksOf (s.m.unitKeys c)) = false →
    (s.m.served s.tb (.copyUnit r id) (s.m.unitKeys c)).copyUnitAt r c = .ok (m, c') →
    exec (.copyUnit r id) s = s.goes (if c'.mask.length = c'.units then
        (m.modHand r (fun h => h.putCopy { c' with state := 4 })).post (max s.tb (c'.endT - 1 + c'.lat)) (.copyComplete r id)
      else (m.modHand r (fun h => h.putCopy c')).post (s.tb + c'.unitCyc) (.copyUnit r id))) ∧
  (∀ (s : State) (r id : Nat) (c : Copy), (s.m.hand r).copy? id = some c → c.state = 4 →
    c.maskLen = 0 → c.on 31 = false → c.stat = false →
    ∃ m : Mach, exec (.copyComplete r id) s = s.goes (m.pushToken s.tb r c.push) ∧ (∀ q, q ≠ r → m.hand q = s.m.hand q) ∧
      m.mem = s.m.mem ∧ ∀ d, d ∈ (m.hand r).copies ↔ d ∈ (s.m.hand r).copies ∧ d.id ≠ c.id)

/-- The words of the copy engine and the life of a copy (05 R91, R94, R101 to R104). -/
def Obligations.CopyWordsAndEvents : Prop :=
  Sys2Proof.Claims.CopyWords ∧ Sys2Proof.Claims.CopyEvents

/-- One unit of a copy with no stage and no padding (05 R90, R91): the bytes at SRC plus the source offset of its indices go to
DST plus the destination offset, and nothing else of memory changes where they are resolved as one row; a padded unit that
is not valid reads nothing and writes FILL. -/
def Sys2Proof.Claims.CopyUnitsMoveBytes : Prop :=
  ∀ (m : Mach) (r : Nat) (c : Copy) (l : List (Nat × Nat)) (m' : Mach), let k := c.ctx
    let at_ := fun (base : W64) (stride : Level → Int) =>
      base + BitVec.ofInt 64 ((List.zip c.levels c.idx).map (fun p => (p.2 : Int) * stride p.1)).sum
    let src := at_ c.src (·.sstr)
    let dst := at_ c.dst (·.dstr)
    dst.toNat % 4 = 0 → c.route = none →
    (c.mw = 0 → (∀ v ∈ c.levels, v.limit = 0) → src.toNat % 4 = 0 → (∀ k, m.rowError k = none) →
      m.span k src c.usz false c.u = .ok l → m.writeAt k dst (m.readSpan l) c.u = .ok m' →
      ∃ c', m.copyUnitAt r c = .ok (m', c') ∧ c'.idx = nextIdx c.levels c.idx ∧ c'.mask = c.mask ++ [true]) ∧
    (c.mw = 2 ^ 27 → (List.zip c.levels c.idx).any (fun p => p.1.limit != 0 && decide (p.1.limit ≤ p.2)) = true →
      m.writeAt k dst ((List.range c.usz).map (fun i => c.desc.getD (32 + i % 4) 0)) c.u = .ok m' →
      ∃ c', m.copyUnitAt r c = .ok (m', c') ∧ c'.idx = nextIdx c.levels c.idx ∧ c'.mask = c.mask ++ [false])

/-- The order of a copy's units (05 R90): the indices count through the nest with i0 fastest, each unit's number one more than
the one before, and back to 0 after the last. -/
def Sys2Proof.Claims.CopyNestOrder : Prop :=
  ∀ (c : Copy), c.idx.length = 6 → (∀ p ∈ List.zip c.levels c.idx, p.2 < p.1.cnt) →
    let c' := { c with idx := nextIdx c.levels c.idx }
    c'.idx.length = 6 ∧ (∀ p ∈ List.zip c'.levels c'.idx, p.2 < p.1.cnt) ∧ c.unitNo < c.units ∧
      c'.unitNo = (c.unitNo + 1) % c.units

/-- The units of a copy: the bytes each one moves and their order (05 R90, R91). -/
def Obligations.CopyUnits : Prop :=
  Sys2Proof.Claims.CopyUnitsMoveBytes ∧ Sys2Proof.Claims.CopyNestOrder

/-- MARK (04 R76): with nothing new due it returns; with every entry of E done it takes MKCUR to n, the entries that came in
its vc are looked at again, and the engine looks for what may start; strict, the first entry that failed or is incomplete
raises schedule-miss with MKCUR and the word unchanged; waiting, an incomplete entry freezes it with code 10 and counts
TTMISS. -/
def Sys2Proof.Claims.MarkOutcomes : Prop :=
  ∀ (s : State) (w : N), (Instr.mark w).check = none → s.hand.stage = 0 → (s.m.part (s.m.partOf s.cur)).rpMode = 0 →
    let cur := s.ctx.mkOf s.cur
    let n := w.imm.toNat % 2 ^ 32 + if w.mod.getLsbD 2 then cur else 0
    let es := s.m.markSet s.cur n s.tb
    let strict := !w.mod.getLsbD 3 && !(s.ctx.reg 0x109).getLsbD 8
    n < 2 ^ 32 →
    (n ≤ cur → exec (.mark w) s = s.goes (s.m.modHand s.cur Hand.passRv)) ∧
    (cur < n → (∀ v ∈ es, v.state = 3) → exec (.mark w) s = s.goes
      ((((s.m.modHand s.cur Hand.passRv).modCtx s.hand.ctx (fun z => { z with mkcur := z.mkcur.set s.cur n })).lateAfter
        s.hand.ctx s.tb).examineAll s.tb)) ∧
    (∀ a v b, cur < n → strict = true → es = a ++ v :: b → (∀ u ∈ a, u.state = 3) → v.state ≠ 3 →
      exec (.mark w) s = s.goes ((s.m.setHand s.cur s.hand).trap s.tb s.cur
        { f := ⟨0x11, v.missReason, v.missSlots v.missReason⟩, word := (encode (.mark w)).getD 0 })) ∧
    (cur < n → strict = false → (∀ v ∈ es, v.state ≠ 4) → (∃ v ∈ es, v.state ≠ 3) →
      ∃ m, exec (.mark w) s = s.goes m ∧ (m.hand s.cur).blocked = some ⟨10, s.eng, 0⟩ ∧
        (m.ctx s.hand.ctx).ttmiss = min (s.ctx.ttmiss + 1) (2 ^ 32 - 1) ∧ (m.ctx s.hand.ctx).mkcur = s.ctx.mkcur ∧
        (m.hand s.cur).ea = s.hand.ea ∧ m.mem = s.m.mem)

/-- A relative MARK whose bound passes 0xFFFFFFFF (04 R76), and a TTADD with no timetable (04 R81), take schedule-miss. -/
def Sys2Proof.Claims.MarkOverflowAndNoTimetable : Prop :=
  (∀ (s : State) (w : N), (Instr.mark w).check = none → w.mod.getLsbD 2 = true →
    0xFFFFFFFF < w.imm.toNat % 2 ^ 32 + s.ctx.mkOf s.cur →
    exec (.mark w) s = s.goes (s.m.trap s.tb s.cur
      { f := ⟨0x11, 6, [0xFFFFFFFF, 0xFFFFFFFF, 0, 0, 0, 0]⟩, eng := 3, word := (encode (.mark w)).getD 0 })) ∧
  (∀ (s : State) (w : AC), MayIssue s .a (.ttadd w) w.hdr → (s.ctx.reg 0x109).toNat % 32 = 0 →
    exec (.ttadd w) s = s.goes (s.m.trap s.tb s.cur
      { f := ⟨0x11, 7, [0xFFFFFFFF, 0xFFFFFFFF, 0, 0, 0, 0]⟩, eng := 0, word := (encode (.ttadd w)).getD 0 }))

/-- MARK and the schedule-misses of MARK and TTADD (04 R76, R81). That TTMISS stops at 2^32 - 1 is the model's choice (log 98). -/
def Obligations.MarkChecksTheTimetable : Prop :=
  Sys2Proof.Claims.MarkOutcomes ∧ Sys2Proof.Claims.MarkOverflowAndNoTimetable

/-- The words of the tier engine (04 R76, R81 to R85, 14 R276): TTADD and the requests TIERQ, WPF and WPF.spec pass their checks
and read their images through the load queue; a request is there from its issue; TTADD.pub takes the next indices at once where the
ring has room and nothing holds it back, its entries read from the ring 180 c later; WPF is due at MKCUR + d; WPF.spec raises its
entry's NPEND; TTCLR takes every entry of the ring and every WPF request out of the checks, discards the unstarted, and completes with
the last started. -/
def Obligations.TierWords : Prop :=
  (∀ (s : State) (w : AC), let n := w.imm.toNat % 2 ^ 13
    let a := s.hand.areg w.desc.toNat
    let x : At := ⟨s.tb, s.cur, .a⟩
    let t : TtAdd := { rel := if w.rel then max 1 (s.hand.releasedBy s.tb) else 0, fabric := w.scope == 3, tok := w.tt.toNat,
                       after := if w.rel then s.m.nextId else behind s w }
    let waits := fun (h : Hand) => h.accs.any (fun a => a.op == .img 0) || h.held s.m.nextId (behind s w) || decide (s.tb < h.accHold)
    s.ctx.ttCap ≠ 0 → ringStop s.m x n (!w.imm.getLsbD 23) = none → MayIssue s .a (.ttadd w) w.hdr →
    (w.imm.getLsbD 23 = false → Room s true → ReadyA s w.desc → a.toNat % 32 = 0 → s.m.spanStop s.cur a (32 * n) false = none →
      exec (.ttadd w) s = s.goes (readsImages s w n 0 n 0 ((s.issued .a w.hdr).modHand s.cur (fun h =>
        { h with ttWait := h.ttWait ++ [(s.m.nextId, t)] })))) ∧
    (w.imm.getLsbD 23 = true → waits s.hand = true →
      exec (.ttadd w) s = s.goes (((s.issued .a w.hdr).modHand s.cur (fun h =>
        { h with ttWait := h.ttWait ++ [(s.m.nextId, { t with pub := n, isPub := true })] })).enqueue s.tb s.cur
          { id := 0, hand := s.cur, isLoad := true, op := .img 0, keys := [], rows := [], after := behind s w } [])) ∧
    (w.imm.getLsbD 23 = true → waits s.hand = false → w.rel = false → s.hand.ttAdds = [] → s.ctx.ttwr < 2 ^ 32 →
      sub32 s.ctx.ttwr s.ctx.ttrd + n ≤ 2 ^ s.ctx.ttCap →
      ∃ m, exec (.ttadd w) s = s.goes m ∧ (m.ctx s.hand.ctx).ttwr = (s.ctx.ttwr + n) % 2 ^ 32 ∧
        (m.hand s.cur).ttAdds = [] ∧
        (∀ j, j < n → (s.tb, .ttRingReadReturn s.hand.ctx ((s.ctx.ttwr + j) % 2 ^ 32)) ∈ m.agenda) ∧
        (w.tt.toNat ≠ 0 → (s.tb, .pendingTokenEntry s.cur w.tt.toNat) ∈ m.agenda))) ∧
  (∀ (s : State) (w : AC), let a := s.hand.areg w.desc.toNat
    ReadyA s w.desc → a.toNat % 32 = 0 → s.m.spanStop s.cur a 32 false = none → s.m.requests s.cur < 8 → Room s true →
    let mk := s.ctx.mkOf s.cur + w.imm.toNat % 2 ^ 12
    let asks := fun (kind : MoveKind) (m : Mach) =>
      readsImages s w 1 1 0 s.m.nextId ((m.modCtx s.hand.ctx (fun y => { y with moves := y.moves ++
        [{ id := s.m.nextId, kind := kind, hand := s.cur, tid := s.hand.tid, cluster := clusterOf s.cur, img := [], push := w.tt.toNat,
           state := 0, apT := s.tb, after := if w.rel then s.m.nextId else behind s w }] })).bump)
    (MayIssue s .a (.tierq w) w.hdr → exec (.tierq w) s = s.goes (asks .tierq (s.issued .a w.hdr))) ∧
    (MayIssue s .a (.wpf w) w.hdr → exec (.wpf w) s = s.goes (asks (.wpf mk) (s.issued .a w.hdr))) ∧
    (let e := w.imm.toNat / 2 ^ 15 % 2 ^ 8
     let t := KMap.get {} s.cluster.spt e
     t.open_ = true → t.ctx = s.hand.ctx → MayIssue s .a (.wpfSpec w) w.hdr →
      let t' := { t with npend := t.npend + 1, fst := if t.fst = 3 then 3 else 1 }
      exec (.wpfSpec w) s = s.goes (asks (.spec mk e t.opening)
        ((s.issued .a w.hdr).modCluster (clusterOf s.cur) (fun y => { y with spt := y.spt.set e t' }))))) ∧
  (∀ (s : State) (w : AC), MayIssue s .a (.ttclr w) w.hdr →
    let k := s.hand.ctx
    let m1 := (s.issued .a w.hdr).clearMoves s.tb k
    let run := ((m1.ctx k).moves.filter (fun v => v.isRing && v.state == 2)).map (·.id)
    exec (.ttclr w) s = s.goes (((((if run = [] then m1.pushToken s.tb s.cur w.tt.toNat
        else m1.modCtx k (fun z => { z with clrWaits := z.clrWaits ++ [(s.cur, s.hand.tid, w.tt.toNat, run)] }))).resumeAdds
      s.tb k).pruneMoves k).examineAll s.tb))

/-- The events of the tier engine (04 R70 to R74, R81, R83, R84, 14 R276). The ring read of a published entry begins once what its TTADD
released has been performed, and returns 180 c later; the entry then reaches the engine; the next entry starts when it may; an entry or request of one local shard that its engine has read, from where its source was translated to at its start, is written
to its destination and ends as done; a peer's shard is written at its banks, or waits for them (06 R116), when its CRC holds, and is corrupt or missing otherwise, its
next slot tried. -/
def Obligations.TierEvents : Prop :=
  (∀ (s : State) (k i : Nat) (v : Move) (bs : List Byte),
    (s.m.ctx k).moves.find? (fun v => v.isRing && v.index == i && v.state == 0) = some v →
    (∀ a ∈ (s.m.hand v.hand).accs, v.after ≤ a.id) →
    (v.askT = 0 → exec (.ttRingReadReturn k i) s =
      s.goes ((s.m.putMove k { v with askT := s.tb + 180 }).post (s.tb + 180) (.ttRingReadReturn k i))) ∧
    (v.askT ≠ 0 → v.askT ≤ s.tb → s.m.readAt k ((s.m.ctx k).ttSlot i) 32 true = .ok bs →
      exec (.ttRingReadReturn k i) s = s.goes ((s.m.putMove k { v with img := bs }).arrive s.tb k { v with img := bs }))) ∧
  (∀ (s : State) (k i : Nat) (v : Move), (s.m.ctx k).nextEntry = some v → v.index = i → v.startT ≤ s.tb → s.tb ≤ v.startT + 1 →
    s.m.startable k v = true →
    exec (.ttEntryStart k i) s = s.goes ((s.m.startMove v.startT k v).examine v.startT k)) ∧
  (∀ (s : State) (id k : Nat) (v : Move) (l : List (Nat × Nat)) (m : Mach), s.m.findMove id = some (k, v) → v.state = 2 →
    v.endT ≤ s.tb → v.asked = false → v.reason = 0 → v.shard = 0 → v.slotNow = 0 → v.runSlot = 0 → v.slotSt = [1, 0, 0, 0] →
    0 < v.len → v.len ≤ 2 ^ 20 → (∀ k, s.m.rowError k = none) → v.src = l → v.killed = false → v.got = none →
    let keys := l.map Prod.fst ++ s.m.shardKeys k v
    s.m.banksBusy s.tb (banksOf keys) = false →
    (s.m.served s.tb v.endEvent keys).writeAll k (s.m.readSpan l) (s.m.shardDests k v) = .ok m →
    let t := (((m.endMove s.tb k { v with slotSt := [1, 0, 0, 0], slotUsed := 0, shard := 1 } 3).resumeAdds s.tb k).examineAll s.tb)
    exec (.ttEntryEnd id) s = s.goes t ∧ exec (.tierRequestEnd id) s = s.goes t ∧ exec (.specFetchEnd id) s = s.goes t) ∧
  (∀ (s : State) (id k : Nat) (v : Move) (bs : List Byte) (crc : W64), s.m.findMove id = some (k, v) → v.state = 2 →
    v.asked = true → v.reason = 0 →
    (crc64 bs = crc → bs.length = v.shardLen → exec (.tierShardArrival id bs crc) s =
      exec (.ttEntryEnd id) { s with m := s.m.putMove k { v with got := some bs, asked := false, endT := s.tb } }) ∧
    (crc64 bs ≠ crc → exec (.tierShardArrival id bs crc) s =
      s.goes (s.m.goMove s.tb k { v.slotFails v.slotNow 2 with asked := false })) ∧
    (v.askT + 52500 ≤ s.tb → exec (.tierShardTimeout id) s =
      s.goes (s.m.goMove s.tb k { v.slotFails v.slotNow 3 with asked := false })) ∧
    (s.tb < v.askT + 52500 → exec (.tierShardTimeout id) s = s.goes s.m)) ∧
  (∀ (s : State) (id k : Nat) (v : Move) (bs : List Byte), s.m.findMove id = some (k, v) → v.state = 2 → v.endT ≤ s.tb →
    v.asked = false → v.reason = 0 → v.got = some bs →
    (s.m.banksBusy s.tb (banksOf (s.m.shardKeys k v)) = true → exec (.ttEntryEnd id) s = s.goes (s.m.waitAtBank s.tb v.endEvent)) ∧
    (s.m.banksBusy s.tb (banksOf (s.m.shardKeys k v)) = false →
      ∀ m, (s.m.served s.tb v.endEvent (s.m.shardKeys k v)).writeAll k bs (s.m.shardDests k v) = .ok m →
      let v' := { v with got := none, slotSt := v.slotSt.set v.slotNow 1, slotUsed := v.slotNow, shard := v.shard + 1, slotNow := 0 }
      exec (.ttEntryEnd id) s = s.goes (m.goMove s.tb k v'))) ∧
  (∀ (m m' : Mach) (now k : Nat) (v : Move), (if v.firstBad = none then { m with freeN := m.freeN + 1 } else m).writeAt k ((m.ctx k).ttStat v.index) (leBytes 8 now
      ++ leBytes 1 (match v.state with | 3 => if v.late then 4 else 1 | 4 => 2 | 5 => 3 | _ => 5)
      ++ leBytes 1 v.reason ++ leBytes 1 v.slotUsed ++ leBytes 1 v.bad ++ leBytes 4 (v.firstBad.getD ((Config.freeValue m.freeN).toNat % 2 ^ 32))) true = .ok m' →
    m.writeStatus now k v = m')

/-- Far writes and reads (15 R284 to R286). A slice address is reached where the route of the word ejects, along that route; the
access enters the store or load queue for that cluster's row. A peer window's access enters its queue too, and leaves it for the
peer device, where it waits for its answer. -/
def Obligations.FarAccesses : Prop :=
  (∀ (s : State) (w : AF) (d : Nat), let a := s.hand.areg w.base.toNat
    let t := winAddr d (a.toNat % 2 ^ 23)
    let os : List Opnd := [⟨w.q.toNat, false, false, 4⟩]
    ReadyA s w.base → a.toNat < 2 ^ 30 → a.toNat % 128 = 0 →
    (routeEnd (clusterOf s.cur) (routeDirs w.route.toNat)).map Prod.fst = some d →
    (otherSlice s.cur t = false → s.m.inRange s.cur t 128 = false) →
    ((∃ k, s.m.xlate s.cur t 128 true = .key k) → Sources s .a os [] → (otherSlice s.cur t = true → s.m.phase s.cur = true) →
      Room s false → MayIssue s .a (.fwr w) w.hdr →
      exec (.fwr w) s = s.goes (((s.took .a w.hdr os).modHand s.cur (fun h => h.reserveTok (pushFifo .a w.hdr.push))).enqueue
        s.tb s.cur { id := 0, hand := s.cur, isLoad := false, op := .store128, keys := [s.m.keyOf s.cur t 128 true], rows := [],
                     data := operand s .a os 0, push := pushFifo .a w.hdr.push, route := routeDirs w.route.toNat } [t])) ∧
    ((∃ k, s.m.xlate s.cur t 128 false = .key k) → Sources s .a [] [w.q.toNat] → Room s true →
      MayIssue s .a (.frd w) w.hdr →
      exec (.frd w) s = s.goes (((s.issued .a w.hdr).issueResult s.cur [.queue w.q.toNat 0] 0 (pushFifo .a w.hdr.push) 0 false
        false).enqueue s.tb s.cur { id := 0, hand := s.cur, isLoad := true, op := .load128,
                                    keys := [s.m.keyOf s.cur t 128 false], rows := [], land := 4, res := s.m.nextId,
                                    reg := w.q.toNat, route := routeDirs w.route.toNat } [t]))) ∧
  (∀ (s : State) (w : AF) (pa k : Nat), let a := s.hand.areg w.base.toNat
    let os : List Opnd := [⟨w.q.toNat, false, false, 4⟩]
    ReadyA s w.base → a.getLsbD 63 = true → a.toNat % 128 = 0 → w.route = 0 → s.m.physKind pa = .peer k →
    s.m.peerValid s.hand.ctx k = true →
    (s.m.farPage s.cur a true = .ok pa → Sources s .a os [] → s.m.phase s.cur = true → Room s false →
      MayIssue s .a (.fwr w) w.hdr →
      exec (.fwr w) s = s.goes (((s.took .a w.hdr os).modHand s.cur (fun h => h.reserveTok (pushFifo .a w.hdr.push))).enqueue
        s.tb s.cur { id := 0, hand := s.cur, isLoad := false, op := .peerW ((s.hand.creg 0x070).getLsbD 0), keys := [pa], rows := [],
                     data := operand s .a os 0, push := pushFifo .a w.hdr.push, route := routeDirs 0 } [a])) ∧
    (s.m.farPage s.cur a false = .ok pa → Sources s .a [] [w.q.toNat] → Room s true → MayIssue s .a (.frd w) w.hdr →
      exec (.frd w) s = s.goes (((s.issued .a w.hdr).issueResult s.cur [.queue w.q.toNat 0] 0 (pushFifo .a w.hdr.push) 0 false
        false).enqueue s.tb s.cur { id := 0, hand := s.cur, isLoad := true, op := .peerR, keys := [pa], rows := [], land := 4,
                                    res := s.m.nextId, reg := w.q.toNat, route := routeDirs 0 } [a]))) ∧
  (∀ (s : State) (id r pa : Nat) (a : Access) (ord : Bool), s.m.findAcc id = some (r, a) → a.sent = false →
    s.m.accessWaits s.tb r a = false → s.m.banksBusy s.tb a.banks = false → a.keys = [pa] →
    (a.op = .peerR ∧ a.isLoad = true ∨ a.op = .peerW ord ∧ a.isLoad = false) →
    ∃ (m : Mach) (p : PeerOp), exec (.bankAccess id) s = s.goes m ∧ m.mem = s.m.mem ∧
      m.dev.peerOps = s.m.dev.peerOps ++ [p] ∧ p.hand = r ∧ p.isRead = a.isLoad ∧ p.peer = pa / 2 ^ 45 % 2 ^ 6 ∧
      p.addr = BitVec.ofNat 64 (pa % 2 ^ 45 + 2 ^ 63) ∧ p.acc = a.id ∧ p.res = a.res ∧ p.push = a.push ∧ p.coll = 0 ∧
      (a.isLoad = false → p.ord = ord ∧ p.bytes = leBytes 128 a.data.toNat) ∧
      (m.hand r).accs = (s.m.hand r).accs.map (fun b => if b.id == a.id then { b with sent := true } else b))

/-- Collectives (15 R291 to R300). COLL takes its block, its sequence number and two places in the range table, issuing behind an
acquire only when that is complete (18 R348; the code 8 is log 44's choice); COLLQ issues once
at most n collectives are in flight and is frozen with code 9 until then. Members whose blocks agree begin together, each once its banks take what it writes of its own (06
R116), what an acquire holds back waits; members whose blocks differ all take reason 2, and so does one whose peers refuse; one whose
peers fail afterwards takes reason 3. A chunk of a direct all-gather goes to its sender's place in DST, at its banks. A complete one with no status
record frees its range entries and leaves the hand, but for a token exchange, which stays to pass rows on (log 130); its token enters. Integer elements wrap or take the
extreme by type. -/
def Obligations.Collectives : Prop :=
  (∀ (s : State) (w : AC), let a := s.hand.areg w.desc.toNat
    let c := collOf s.m ⟨s.tb, s.cur, .a⟩ w
    let d := c.dstLen (s.m.collSize s.cur c)
    ReadyA s w.desc → a.toNat % 128 = 0 → (∃ k, s.m.xlate s.cur a 128 false = .key k) → MayIssue s .a (.coll w) w.hdr →
    ((∃ x ∈ s.hand.results, x.acq = true) → exec (.coll w) s = s.goes (s.m.block ⟨s.tb, s.cur, .a⟩ 8 0)) ∧
    ((∀ x ∈ s.hand.results, x.acq = false) → s.m.collBad s.cur c = false →
    s.m.spanStop s.cur c.src c.bytes false = none → s.m.spanStop s.cur c.dst d true = none →
    (c.f 48 8 ≠ 0 → s.m.spanStop s.cur (BitVec.ofNat 64 (c.f 48 8)) 64 true = none) →
    (c.op = 4 → s.m.spanStop s.cur (BitVec.ofNat 64 (c.f 56 8)) (8 * c.rowCount) false = none) →
    s.m.phase s.cur = true → (s.m.collsOf s.cur).length < 4 → s.cluster.ranges.length ≤ 14 →
    ∃ m, exec (.coll w) s = s.goes m ∧ m.mem = s.m.mem ∧ c.seq = (s.hand.clseq + 1) % 2 ^ 32 ∧ (m.hand s.cur).clseq = c.seq ∧
      (m.hand s.cur).colls = s.hand.colls.filter (fun d => d.state != 3 && (d.state != 4 || decide (sub32 c.seq d.seq ≤ 4))) ++ [c] ∧
      c.id = s.m.nextId ∧ (m.cluster (clusterOf s.cur)).ranges = s.cluster.ranges ++ 
        [⟨s.cur, s.hand.ctx, c.id, c.src, c.bytes⟩, ⟨s.cur, s.hand.ctx, c.id, c.dst, d⟩] ∧
      m.agenda = agendaAdd (s.tb + 1) (.collBlockExchange s.cur c.id none) s.m.agenda)) ∧
  (∀ (s : State) (w : AC), let n := (s.m.collsOf s.cur).length
    MayIssue s .a (.collq w) w.hdr →
    (n ≤ w.imm.toNat % 4 → exec (.collq w) s = s.goes (s.issued .a w.hdr)) ∧
    (w.imm.toNat % 4 < n → exec (.collq w) s = s.goes (s.m.block ⟨s.tb, s.cur, .a⟩ 9 0))) ∧
  (∀ (s : State) (r id : Nat) (c : Coll), s.m.findColl r id = some c → c.state = 0 →
    (s.m.collHeld r c = true → ∀ b, exec (.collBlockExchange r id b) s = s.goes (s.m.post (s.tb + 1) (.collBlockExchange r id b))) ∧
    (s.m.collHeld r c = false →
    (c.grp = 2 → exec (.collBlockExchange r id none) s = s.goes s.m ∧
      exec (.collBlockExchange r id (some false)) s = s.goes (s.m.collFault1 s.tb r id 2) ∧
      exec (.collBlockExchange r id (some true)) s =
        s.goes ((s.m.putColl r (c.begin_ (s.m.deviceMembers r c) r)).post s.tb (.collBlockExchange r id none))) ∧
    (c.grp ≠ 2 → ∀ ms : List (Nat × Nat), (s.m.meeting r c).map (s.m.exchanging r c) = ms.map some →
      ((∃ q ∈ ms, ∃ d, s.m.findColl q.1 q.2 = some d ∧ d.agreed ≠ c.agreed) →
        exec (.collBlockExchange r id none) s = s.goes (ms.foldl (fun m q => m.collFault1 s.tb q.1 q.2 2) s.m)) ∧
      ((∀ q ∈ ms, ∀ d, s.m.findColl q.1 q.2 = some d → d.agreed = c.agreed) →
        exec (.collBlockExchange r id none) s = s.goes (ms.foldl (fun m q => m.post s.tb (.collBlockExchange q.1 q.2 none))
          ((ms.filterMap (fun q => (s.m.findColl q.1 q.2).map (fun d => (q.1, d)))).foldl
            (fun m d => m.putColl d.1 (d.2.begin_ ms d.1)) s.m)))) ∧
    (c.grp ≠ 2 → none ∈ (s.m.meeting r c).map (s.m.exchanging r c) → exec (.collBlockExchange r id none) s = s.goes s.m))) ∧
  (∀ (s : State) (r id : Nat) (c : Coll) (b : Option Bool), s.m.findColl r id = some c →
    (c.grp = 2 → c.state ≠ 0 → exec (.collBlockExchange r id (some false)) s = s.goes (s.m.collFault1 s.tb r id 3)) ∧
    (c.state = 2 → (b = some false → c.grp ≠ 2) →
      (s.m.banksBusy s.tb (banksOf (s.m.startKeys c)) = true →
        exec (.collBlockExchange r id b) s = s.goes (s.m.waitAtBank s.tb (.collBlockExchange r id b))) ∧
      (s.m.banksBusy s.tb (banksOf (s.m.startKeys c)) = false → exec (.collBlockExchange r id b) s =
        s.goes (((s.m.served s.tb (.collBlockExchange r id b) (s.m.startKeys c)).putColl r { c with state := 1 }).collStart s.tb r id)))) ∧
  (∀ (s : State) (r id k : Nat) (c : Coll) (bs : List Byte) (mw : Mach), let p := c.members.length
    let t := k / c.chunks p
    let at_ := c.dst + BitVec.ofNat 64 (t * c.bytes + min (k % c.chunks p * c.f 36 4) c.bytes)
    s.m.findColl r id = some c → c.state = 1 → c.op = 2 → c.algo p = 3 → c.opt 0 = false → c.opt 1 = false →
    (∀ t, (s.m.ctx c.ctx).agentOf t = none) → c.done.contains k = false →
    t ∈ c.rounds p c.rank → (∀ q, (s.m.part q).rpMode = 0) → bs ≠ [] →
    bs.length = min c.bytes ((k % c.chunks p + 1) * c.f 36 4) - min (k % c.chunks p * c.f 36 4) c.bytes →
    let keys := (s.m.stepKeys c k).1 ++ (s.m.stepKeys c k).2
    (s.m.banksBusy s.tb (banksOf keys) = true →
      exec (.collStepArrival r id k bs) s = s.goes (s.m.waitAtBank s.tb (.collStepArrival r id k bs))) ∧
    (s.m.banksBusy s.tb (banksOf keys) = false → s.m.writeAt c.ctx at_ bs c.u = .ok mw →
      ∃ m, exec (.collStepArrival r id k bs) s = s.goes m ∧ m.mem = mw.mem)) ∧
  (∀ (s : State) (r id : Nat) (c : Coll), s.m.findColl r id = some c → c.state = 1 → c.f 48 8 = 0 →
    exec (.collComplete r id) s = s.goes ((((s.m.modCluster (clusterOf r) (fun x =>
      { x with ranges := x.ranges.filter (fun e => e.coll != id) })).modHand r (fun h =>
      { h with colls := if c.op = 4 then h.colls.map (fun d => if d.id == id then { d with state := 4 } else d)
                        else h.colls.filter (fun d => d.id != id) }))).tokenFor s.tb c.ctx r c.tid c.push)) ∧
  (∀ ty a b, ty ≤ 5 → let v := intOf (tySigned ty) (tw ty)
    ((combine1 ty 0 a b : Nat) : Int) = (v a + v b) % 2 ^ tw ty ∧
    ((combine1 ty 1 a b : Nat) : Int) = max (v a) (v b) % 2 ^ tw ty ∧ ((combine1 ty 2 a b : Nat) : Int) = min (v a) (v b) % 2 ^ tw ty)

/-- Rows at the receiver (15 R286 to R290) and what comes back from other devices (R285, R286, R298, R300). A row whose address
translates is written at its banks, or waits for them (06 R116); one that does not, or that follows a parked one of its stream, is parked in
the lowest free slot, or refused and counted with no slot free. PARKRPL
writes a parked row and frees its slot; PARKDIS frees it and writes nothing of it. A peer's read is answered with its bytes and
their CRC. An answer performs a far write or read, or a collective's send; a send past its time is sent again, and the
collective fails after three tries. -/
def Obligations.RowsAndPeers : Prop :=
  (∀ (s : State) (row : RemoteRow), let p := (s.m.ctx row.ctx).part
    let x := s.m.part p
    (∀ q, (s.m.part q).rpMode = 0) → row.kind = 1 →
    ((∃ q ∈ x.parked, s.m.sameStream q row = true) → ∀ n, x.freeSlot = some n →
      exec (.remoteRowArrival row) s = s.goes (((s.m.modPart p (fun y => { y with parked := y.parked ++ [⟨n, row, true⟩] })).pokePhys
        (x.parkAt n).1 (parkHeader s.tb row ⟨0, 0, []⟩)).pokePhys (x.parkAt n).2 row.data)) ∧
    ((∀ q ∈ x.parked, s.m.sameStream q row = false) →
    (∀ l, s.m.span row.ctx row.addr row.data.length true true = .ok l →
      (s.m.banksBusy s.tb (banksOf (l.map (·.1))) = false →
        exec (.remoteRowArrival row) s = s.goes ((s.m.useBanks s.tb (banksOf (l.map (·.1)))).writeSpan l row.data)) ∧
      (s.m.banksBusy s.tb (banksOf (l.map (·.1))) = true →
        exec (.remoteRowArrival row) s = s.goes (({ s.m with rowsIn := s.m.rowsIn ++ [(s.m.nextId, row)] }.bump).waitAtBank
          s.tb (.meshFlitAdvance s.m.nextId))) ∧
      ∀ id, s.m.rowsIn.find? (fun q => q.1 == id) = some (id, row) →
        (s.m.banksBusy s.tb (banksOf (l.map (·.1))) = true →
          exec (.meshFlitAdvance id) s = s.goes (s.m.waitAtBank s.tb (.meshFlitAdvance id))) ∧
        (s.m.banksBusy s.tb (banksOf (l.map (·.1))) = false → ∃ m, exec (.meshFlitAdvance id) s = s.goes m ∧
          m.mem = (s.m.writeSpan l row.data).mem ∧ m.rowsIn = s.m.rowsIn.filter (fun q => q.1 != id) ∧ m.hands = s.m.hands)) ∧
    (∀ f, s.m.span row.ctx row.addr row.data.length true true = .error f →
      (x.freeSlot = none → exec (.remoteRowArrival row) s = s.goes (s.m.modPart p (fun y => { y with refused := y.refused + 1 }))) ∧
      (∀ n, x.freeSlot = some n → ∃ m, exec (.remoteRowArrival row) s = s.goes m ∧
        (m.part p).parked = x.parked ++ [⟨n, row, false⟩] ∧ (m.part p).refused = 0 ∧
        m.mem = ((s.m.pokePhys (x.parkAt n).1 (parkHeader s.tb row f)).pokePhys (x.parkAt n).2 row.data).mem)))) ∧
  (∀ (s : State) (r : Nat) (v : W64) (q : Parked), let p := (s.m.ctx (s.m.hand r).ctx).part
    let x := s.m.part p
    1 ≤ (s.m.hand r).ring → x.parked = [q] → q.slot = v.toNat % 2 ^ 10 → q.behind = false → q.row.kind = 1 →
    let m1 := fun (m : Mach) => (m.modPart p (fun y => { y with parked := [] })).pokePhys ((x.parkAt q.slot).1 + 22) [0]
    (∀ l, s.m.span q.row.ctx q.row.addr q.row.data.length true true = .ok l →
      exec (.parkrpl r v) s = s.goes (m1 (s.m.writeSpan l (s.m.bytes (x.parkAt q.slot).2 q.row.data.length)))) ∧
    exec (.parkdis r v) s = s.goes (m1 s.m)) ∧
  (∀ (s : State) (k n : Nat) (va : W64),
    (∀ bs, s.m.readAt k va n true = .ok bs → exec (.peerReadArrival k va n) s = s.goes { s.m with dev := { s.m.dev with
      answers := s.m.dev.answers ++ [⟨2, 256, k, 0, 0, bs ++ leBytes 8 (crc64 bs).toNat⟩] } }) ∧
    (∀ f, s.m.readAt k va n true = .error f → exec (.peerReadArrival k va n) s = s.goes { s.m with dev := { s.m.dev with
      answers := s.m.dev.answers ++ [⟨2, 256, k, 0, f.cause + 256 * f.reason, List.replicate n 0⟩] } })) ∧
  (∀ (s : State) (id : Nat) (p : PeerOp) (data : List Byte), s.m.dev.peerOps.find? (fun p => p.id == id) = some p →
    s.m.peerBehind p = false →
    let m1 := { s.m with dev := { s.m.dev with peerOps := s.m.dev.peerOps.filter (fun q => q.id != id) } }
    let m2 := (m1.modHand p.hand (fun h => { h with accs := h.accs.filter (fun b => b.id != p.acc) })).wakeMoves s.tb p.hand
    (p.coll = 0 → p.isRead = false →
      exec (.peerAck id 0 0 data) s = s.goes (m2.modHand p.hand (fun h => h.enterTok s.tb p.push))) ∧
    (p.coll = 0 → p.isRead = true →
      exec (.peerAck id 0 0 data) s = s.goes (m2.supplyQueue s.tb p.hand p.res (entryOfBytes (data.take 128))) ∧
      ∀ n a, (s.m.hand p.hand).accs.find? (fun a => a.id == p.acc) = some a → exec (.peerAck id 8 n data) s =
        s.goes ((m2.recordFault p.hand ⟨8, n, [a.rows.headD 0, 0, 0]⟩).supplyQueue s.tb p.hand p.res 0)) ∧
    (p.coll ≠ 0 → p.isRead = true →
      exec (.peerAck id 0 0 data) s = s.goes (m1.post s.tb (.collStepArrival p.hand p.coll p.index data))) ∧
    (p.coll ≠ 0 → p.isRead = false → ∀ c, s.m.findColl p.hand p.coll = some c →
      exec (.peerAck id 0 0 data) s = s.goes ((m1.putColl p.hand { c with sends := c.sends - 1 }).collTest s.tb p.hand p.coll) ∧
      exec (.peerAck id 2 0 data) s = s.goes (m1.collFault s.tb p.hand p.coll 3))) ∧
  (∀ (s : State) (p : PeerOp), s.m.dev.peerOps = [p] →
    (s.tb < p.sentT + 52500 → exec (.peerAckTimeout p.hand p.coll) s = s.goes s.m) ∧
    (p.sentT + 52500 ≤ s.tb → p.tries < 3 → exec (.peerAckTimeout p.hand p.coll) s = s.goes
      ({ s.m with dev := { s.m.dev with peerOps := [{ p with tries := p.tries + 1, sentT := s.tb }] } }.post (s.tb + 52500)
        (.peerAckTimeout p.hand p.coll))) ∧
    (p.sentT + 52500 ≤ s.tb → 3 ≤ p.tries → exec (.peerAckTimeout p.hand p.coll) s = s.goes
      ({ s.m with dev := { s.m.dev with peerOps := [] } }.collFault s.tb p.hand p.coll 3)))

/-- MFC, MTC and TSR (19 R369, R370). MFC lands the register's value 2 vc after issue, 24 for a shape variable (17 R327), and clears an RC register; of TB it
is logged or replayed (21 R398, R399). MTC and TSR need the ring of
the register's table, and take privilege-fault below it; MTC writes S[s], to a shape variable 24 c later, when it lands and its token enters (R327);
TSR is one action in its issue vc, on a shape variable too: it sets or clears the selected bits, and the old value lands 2 vc after issue (log 83 for the
shape variables, where R327 speaks of MTC and MFC alone). A register without a parity error reads as it is, and nothing is counted (R379). -/
def Sys2Proof.Claims.ControlRegisterWords : Prop :=
  (∀ (s : State) (w : K), let n := w.creg.toNat
    let m1 := s.issued .x w.hdr
    let v := m1.cregGet s.tb (s.m.who s.cur) n
    let sets := fun (m : Mach) (lat : Nat) =>
      m.issueResult s.cur [.sreg (sKey s.hand.ring w.s.toNat) v] 0 (pushFifo .x w.hdr.push) (s.tb + lat) true true
    (∀ x ∈ s.hand.results, ∀ v, Land.creg n v ∉ x.lands) → MayIssue s .x (.mfc w) w.hdr →
    (n ≠ 0x0B0 → (n = 0x031 → ∀ x ∈ s.hand.results, x.xres = false) →
      exec (.mfc w) s = s.goes (sets ((m1.cregCheck s.cur n).cregClear (s.m.who s.cur) n) (if 0x080 ≤ n ∧ n ≤ 0x09F then 24 else 2))) ∧
    (n = 0x0B0 → let p := m1.partOf s.cur
      let m2 := m1.cregCheck s.cur n
      ((s.m.part (s.m.partOf s.cur)).rpMode = 0 → exec (.mfc w) s = s.goes (sets m2 2)) ∧
      ((m1.part p).rpMode = 1 → s.m.logStop s.cur = none →
        exec (.mfc w) s = s.goes (sets (m2.logInput s.tb p 6 (some s.cur) v 0) 2)) ∧
      ((m1.part p).rpMode = 2 → s.m.logStop s.cur = none → ∀ k x, m2.replayNext p 6 (some s.cur) = some (k, x) → exec (.mfc w) s =
        s.goes ((m2.useNext s.tb p k).issueResult s.cur [.sreg (sKey s.hand.ring w.s.toNat) x.a] 0 (pushFifo .x w.hdr.push)
          (s.tb + 2) true true)))) ∧
  (∀ (m : Mach) (now : Nat) (w : Who) (n : Nat), m.rowError (crKey w.r n) ≠ some true →
    m.cregGet now w n = m.cregRead now w n ∧ m.cregCheck w.r n = m) ∧
  (∀ (s : State) (w : K), let n := w.creg.toNat
    let v := s.hand.sreg w.s.toNat
    ReadyS s w.s.toNat → cregRing n ≤ s.hand.ring → s.m.cregStop (s.m.who s.cur) n v = none → MayIssue s .x (.mtc w) w.hdr →
    (¬(0x080 ≤ n ∧ n ≤ 0x09F) → exec (.mtc w) s =
      s.goes (((s.issued .x w.hdr).cregWrite s.tb (s.m.who s.cur) n v).modHand s.cur (tokenNow s .x w.hdr))) ∧
    (0x080 ≤ n → n ≤ 0x09F → exec (.mtc w) s =
      s.goes ((((s.issued .x w.hdr).modHand s.cur (fun h => h.reserveTok (pushFifo .x w.hdr.push))).post (s.tb + 24)
        (.shapeVariableWrite s.cur (n - 0x080) (v.setWidth 32) w.hdr.push)).issueResult s.cur [] 0 0 (s.tb + 24) true true))) ∧
  (∀ (s : State) (w : K) (i : Instr), i = .mtc w ∨ i = .tsr w → i.check = none → s.hand.ring < cregRing w.creg.toNat →
    exec i s = s.goes (s.m.trap s.tb s.cur { f := ⟨2, 0, []⟩, eng := 1, word := (encode i).getD 0 })) ∧
  ((∀ n ∈ [0x00E, 0x010, 0x014, 0x022, 0x040, 0x05A, 0x072, 0x07A, 0x0A4, 0x0AA, 0x0B3, 0x100, 0x101, 0x110, 0x111],
      cregRing n = 1) ∧ (∀ n ∈ [0x001, 0x0A9, 0x0AC, 0x0AE, 0x0AF], cregRing n = 2) ∧ cregRing 0x0B1 = 3 ∧
    ∀ k, k ≤ 3 → cregRing (0x004 + k) = k ∧ cregRing (0x008 + k) = k) ∧
  (∀ (s : State) (w : K), let n := w.creg.toNat
    let who := s.m.who s.cur
    let sel : W64 := BitVec.ofNat 64 (w.imm.toNat % 2 ^ 21)
    let old := s.m.cregGet s.tb who n
    let once : W64 := if n = 0x031 then 0x3F else if n = 0x0B7 then 1 else 0
    let v := if w.imm.getLsbD 21 then old &&& ~~~sel &&& ~~~once ||| sel &&& once else (old ||| sel) &&& ~~~once
    let m1 := ((s.issued .x w.hdr).cregCheck s.cur n).cregClear who n
    let lands := fun (m : Mach) => s.goes ((m.modHand s.cur (tokenNow s .x w.hdr)).issueResult s.cur
      [.sreg (sKey s.hand.ring w.s.toNat) ((s.issued .x w.hdr).cregGet s.tb who n)] 0 0 (s.tb + 2) true true)
    (n = 0x0B0 → (s.m.part (s.m.partOf s.cur)).rpMode = 0) → (n = 0x031 → ∀ x ∈ s.hand.results, x.xres = false) → (∀ x ∈ s.hand.results, ∀ v, Land.creg n v ∉ x.lands) →
    cregRing n ≤ s.hand.ring → MayIssue s .x (.tsr w) w.hdr →
    (tsrWrites n = false → exec (.tsr w) s = lands m1) ∧
    (tsrWrites n = true → s.m.cregStop who n v = none → exec (.tsr w) s = lands (m1.cregWrite s.tb who n v)) ∧
    (0x080 ≤ n → n ≤ 0x09F → exec (.tsr w) s = lands (m1.cregWrite s.tb who n v))) ∧
  (∀ (m : Mach) (now : Nat) (w : Who) (n : Nat) (v : W64), 0x080 ≤ n → n ≤ 0x09F →
    ((m.cregWrite now w n v).ctx w.k).sv = (m.ctx w.k).sv.set (n - 0x080) (v.setWidth 32)) ∧
  (∀ (s : State) (r i : Nat) (v : W32) (push : BitVec 2), ∃ m, exec (.shapeVariableWrite r i v push) s = s.goes m ∧
    (let k := (s.m.hand r).ctx
     (m.ctx k).sv = (s.m.ctx k).sv.set i v ∧ m.hand r = (s.m.hand r).enterTok s.tb (pushFifo .x push) ∧ m.mem = s.m.mem))

/-- What the control registers hold (19 R361 and each chapter's table). -/
def Sys2Proof.Claims.ControlRegisterValues : Prop :=
  (∀ (m : Mach) (now : Nat) (w : Who), let h := m.hand w.r
    let read := m.cregRead now w
    (h.ring ≤ 3 → (read 0x000).toNat = h.ring + 16 * h.busy.toNat) ∧ read 0x00D = BitVec.ofNat 64 h.pending.length ∧
      read 0x020 = BitVec.ofNat 64 h.vclk ∧ read 0x024 = BitVec.ofNat 64 h.frzc ∧ read 0x031 = h.xflags.setWidth 64 ∧
      read 0x071 = m.dev.fabid ∧ read 0x0B0 = BitVec.ofNat 64 now ∧ read 0x0B1 = m.dev.tboff ∧ read 0x0B8 = m.dev.bootst ∧
      read 0x10A = BitVec.ofNat 64 (m.ctx w.k).ttwr ∧ read 0x10B = BitVec.ofNat 64 (m.ctx w.k).ttrd ∧
      ∀ i, i < 32 → read (0x080 + i) = (KMap.get 0 (m.ctx w.k).sv i).signExtend 64) ∧
  (∀ (m : Mach) (now : Nat) (w : Who) (v : W64),
    let after := fun n => (m.cregWrite now w n v).cregRead now w n
    (∀ p ∈ ([(0x004, ~~~7), (0x005, ~~~7), (0x008, ~~~0x3FF), (0x00E, 1), (0x010, ~~~6), (0x014, ~~~0), (0x038, 0x7FFFF),
        (0x048, 0x00FFFF33), (0x049, ~~~0), (0x04A, 0xFFFFFFFF), (0x060, 0x3FFF3FFF3FFF3FFF), (0x064, 0xFF), (0x070, 1),
        (0x072, 0x000FFFFFFFFFFFC0), (0x07B, ~~~63), (0x0A1, ~~~31), (0x0A4, 0x000FFFFFFFFFFFFF), (0x100, 0x000FFFFFFFFFF001),
        (0x101, ~~~15), (0x10C, ~~~15), (0x110, 0x000000FF0000007F), (0x111, 0x3F)] : List (Nat × W64)),
      after p.1 = v &&& p.2) ∧
      (after 0x021).toNat = max 16 (min 4096 (v.toNat % 2 ^ 13)) ∧
      (after 0x022).toNat = (let t := v.toNat % 2 ^ 32; if 1 ≤ t ∧ t < 1024 then 1024 else t) ∧
      (after 0x040).toNat = max 1 (min 64 (v.toNat % 2 ^ 7)) ∧
      ((after 0x030).toNat % 8 = if v.toNat % 8 < 5 then v.toNat % 8 else (m.hand w.r).xrm) ∧
      (after 0x030).getLsbD 3 = v.getLsbD 3 ∧
      after 0x031 = (((m.hand w.r).xflags &&& ~~~(v.setWidth 6)) : BitVec 6).setWidth 64)

/-- The words of the control registers and what the registers hold (19 R361, R369, R370). -/
def Obligations.ControlRegisters : Prop :=
  Sys2Proof.Claims.ControlRegisterWords ∧ Sys2Proof.Claims.ControlRegisterValues

/-- The rows of single registers (00 R3, 19 R370): a write with the ring of the register and a value that it takes is
performed, any other changes nothing; a read lands the value 2 c later and clears an RC register. -/
def Obligations.SingleRegisterEvents : Prop :=
  (∀ p ∈ ([(0x056, .drxrWrite), (0x051, .drxWrite), (0x052, .dlstWrite), (0x053, .dovfWrite), (0x058, .dnext), (0x110, .swinWrite),
      (0x07D, .cpqnWrite), (0x0A6, .pevqrWrite), (0x075, .parkrpl), (0x076, .parkdis)] : List (Nat × (Nat → W64 → Instr))),
    ∀ (s : State) (r : Nat) (v : W64), WritesRegister s r p.1 v (p.2 r v)) ∧
  (∀ (s : State) (r i : Nat) (v : W64), WritesRegister s r (0x038 + i % 8) v (.qRegisterWrite r i v) ∧
    WritesRegister s r 0x108 v (.ttctlWrite r 0x108 v) ∧ WritesRegister s r 0x109 v (.ttctlWrite r 0x109 v) ∧
    WritesRegister s r 0x065 (v &&& 0x3FFFFFFFFFFFFFFF ||| 0x4000000000000000) (.spteOpen r v) ∧
    WritesRegister s r 0x065 (v &&& 0x3FFFFFFFFFFFFFFF) (.spteFree r v) ∧
    (cregDefined i = true → WritesRegister s r i v (.controlRegisterWrite r i v)) ∧
    (cregDefined i = false → exec (.controlRegisterWrite r i v) s = s.goes s.m) ∧
    (let p := s.m.partOf r
     exec (.rpctlWrite r v) s = s.goes (if (s.m.rpctlStop p v).isSome then s.m else s.m.rpctlWrite s.tb p v))) ∧
  (∀ p ∈ ([(0x10D, .ttmissRead), (0x10E, .ttlateRead), (0x023, .frznRead), (0x059, .dcntRead), (0x066, .sptcntRead),
      (0x016, .ecntRead)] : List (Nat × (Nat → BitVec 6 → Instr))),
    ∀ (s : State) (r : Nat) (d : BitVec 6), let m1 := (s.m.cregCheck r p.1).cregClear (s.m.who r) p.1
      exec (p.2 r d) s = s.goes (m1.issueResult r [.sreg (sKey (s.m.hand r).ring d.toNat) (s.m.cregGet s.tb (s.m.who r) p.1)]
        0 0 (s.tb + 2) true true) ∧ m1.cregRead s.tb (s.m.who r) p.1 = 0) ∧
  (∀ (m : Mach) (now : Nat) (w : Who) (v : W64), let c := clusterOf w.r
    (m.dctl c w.k).drnd < 2 ^ 32 - 1 → ((m.cregWrite now w 0x058 v).dctl c w.k).drnd = (m.dctl c w.k).drnd + 1) ∧
  (∀ (m : Mach) (now : Nat) (w : Who) (v : W64), let c := clusterOf w.r
    ((m.cregWrite now w 0x056 v).dctl c w.k).drxr = v.toNat % 2 ^ 32 ∧
    (c < 72 → ((m.cregWrite now w 0x051 v).dctl c w.k).drxw = 0 ∧ ((m.cregWrite now w 0x051 v).dctl c w.k).drxr = 0))

/-- EXIT (17 R334): frozen with code 12 while anything of its thread is in flight, its SACC pairs being evicted meanwhile (06 R129); then the hand holds no thread, its pool is
whole, its core can be dealt to from 8 c on, and the completion of its launch is looked at in this cycle. PSW (20 R385): in the
cycle of its last arrival it fixes its level and reads its entry, after the walk where that needs one, and is frozen with code 12 until the entry has come;
then every engine goes to the entry's offset, or past the word for 0xFFFFFFFF, with VCLK 0. -/
def Obligations.ExitAndSwitchPoint : Prop :=
  (∀ (s : State) (w : Z) (l : Launch), (Instr.exit w).check = none → s.m.threadOpen s.cur = false → s.m.saccOpen s.cur = false →
    s.m.writesOpen s.cur s.m.nextId = false → s.m.launch? s.hand.launch = some l →
    exec (.exit w) s = s.goes ((s.m.modHand s.cur Hand.passRv).exitThread s.tb s.cur)) ∧
  (∀ (s : State) (w : Z), (Instr.exit w).check = none → s.m.threadOpen s.cur = true →
    exec (.exit w) s = s.goes (s.m.block ⟨s.tb, s.cur, s.eng⟩ 12 0)) ∧
  (∀ (s : State) (w : Z), (Instr.exit w).check = none → s.m.threadOpen s.cur = false → s.m.saccOpen s.cur = true →
    ((∃ f ∈ s.cluster.saccFl, f.hand = s.cur) → exec (.exit w) s = s.goes (s.m.block ⟨s.tb, s.cur, s.eng⟩ 12 0)) ∧
    ((∀ f ∈ s.cluster.saccFl, f.hand ≠ s.cur) → ∃ m, exec (.exit w) s = s.goes m ∧ m.mem = s.m.mem ∧
      (m.hand s.cur).blocked = some ⟨12, s.eng, 0⟩ ∧ (∀ e, (m.hand s.cur).engine e = s.hand.engine e) ∧
      (m.cluster (clusterOf s.cur)).saccFl = s.cluster.saccFl ++ [⟨s.cur, s.hand.ctx, s.m.nextId, false, []⟩])) ∧
  (∀ (m : Mach) (now r : Nat) (l : Launch), m.launch? (m.hand r).launch = some l → (m.ctx (m.hand r).ctx).barriers = [] →
    m.dev.fabBars = [] → (∀ p ∈ m.ctxs, p.2.moves = []) → let t := m.exitThread now r
    t.mem = m.mem ∧ (t.hand r).thread = false ∧ (t.hand r).v = [] ∧ (t.hand r).pool = 2048 ∧ (t.hand r).freeAt = now + 8 ∧
      (t.hand r).ctx = (m.hand r).ctx ∧ (t.hand r).s = (m.hand r).s ∧ (now, .launchComplete l.id) ∈ t.agenda ∧
      (now + 7, .dealIteration (dieOf (clusterOf r))) ∈ t.agenda) ∧
  (∀ (s : State) (w : N), let base := s.ctx.reg 0x0A1
    let p := s.m.part (s.m.partOf s.cur)
    let level := if p.effT = s.tb + 1 then p.effOld else p.eff
    let a := base + BitVec.ofNat 64 (32 * (w.imm.toNat % 2 ^ 8) + 4 * level)
    let k := s.m.keyOf s.cur a 4 false
    (Instr.psw w).check = none → s.hand.stage = 0 → base.toNat % 32 = 0 → p.rpMode = 0 → (∀ k, s.m.rowError k = none) →
    (∀ va, s.m.xlStop s.cur a 4 false = some (.walk va) → ∃ m, exec (.psw w) s = s.goes m ∧ m.mem = s.m.mem ∧
      (m.hand s.cur).blocked = some ⟨12, s.eng, 0⟩ ∧ (m.hand s.cur).stage = 2 ∧ (m.hand s.cur).stageV = BitVec.ofNat 64 level) ∧
    ((∃ k, s.m.xlate s.cur a 4 false = .key k) →
    ∃ m, exec (.psw w) s = s.goes m ∧ m.mem = s.m.mem ∧ (m.hand s.cur).blocked = some ⟨12, s.eng, 0⟩ ∧
      (m.hand s.cur).stage = 1 ∧ (m.hand s.cur).stageT = s.tb + s.m.pathTime (clusterOf s.cur) k true + 4 ∧
      (m.hand s.cur).stageV = BitVec.ofNat 64 (leNat ((s.m.seen s.cur).bytes k 4)))) ∧
  (∀ (s : State) (w : N), let a := s.ctx.reg 0x0A1 + BitVec.ofNat 64 (32 * (w.imm.toNat % 2 ^ 8) + 4 * s.hand.stageV.toNat)
    let k := s.m.keyOf s.cur a 4 false
    (Instr.psw w).check = none → s.hand.stage = 2 → (s.m.part (s.m.partOf s.cur)).rpMode = 0 → (∀ k, s.m.rowError k = none) →
    (∃ k, s.m.xlate s.cur a 4 false = .key k) →
    ∃ m, exec (.psw w) s = s.goes m ∧ m.mem = s.m.mem ∧ (m.hand s.cur).blocked = some ⟨12, s.eng, 0⟩ ∧
      (m.hand s.cur).stage = 1 ∧ (m.hand s.cur).stageT = s.tb + s.m.pathTime (clusterOf s.cur) k true + 4 ∧
      (m.hand s.cur).stageV = BitVec.ofNat 64 (leNat ((s.m.seen s.cur).bytes k 4))) ∧
  (∀ (s : State) (w : N), (Instr.psw w).check = none → s.hand.stage = 1 →
    (s.tb < s.hand.stageT → exec (.psw w) s = s.goes (s.m.block ⟨s.tb, s.cur, s.eng⟩ 12 0)) ∧
    (s.hand.stageT ≤ s.tb → s.hand.stageV = 0xFFFFFFFF ∨ s.hand.stageV.toNat % 8 = 0 →
      ∃ m, exec (.psw w) s = s.goes m ∧ m.mem = s.m.mem ∧ (m.hand s.cur).vclk = 0 ∧
        (∀ e, ((m.hand s.cur).engine e).pc =
          if s.hand.stageV = 0xFFFFFFFF then (s.hand.engine e).pc + 8 else s.hand.stageV) ∧
        (∀ k, k ≠ s.cur → m.hand k = s.m.hand k)))

/-- TLBI (19 R371): ring 1, or 2 for the whole package; it removes the translations it names from every cluster it reaches, and
completes 48 c later once the walks that had started before it have ended. -/
def Sys2Proof.Claims.TranslationInvalidate : Prop :=
  (∀ (s : State) (w : SSS), let form := w.imm.toNat % 4
    let va := s.hand.sreg w.a.toNat
    let gone := fun (e : TcEntry) => form == 2 || (e.ctx == s.hand.ctx && (form == 0 || va.toNat % 2 ^ 48 / 2 ^ e.logSize == e.vpage))
    (if form = 2 then 2 else 1) ≤ s.hand.ring → (form = 1 → ReadyS s w.a.toNat) → MayIssue s .x (.tlbi w) w.hdr →
    ∃ m, exec (.tlbi w) s = s.goes m ∧ m.mem = s.m.mem ∧
      (∀ c, (m.cluster c).tc = if c < 72 ∧ (form = 2 ∨ s.m.clPart c = s.m.partOf s.cur)
        then (s.m.cluster c).tc.filter (fun e => !gone e) else (s.m.cluster c).tc) ∧
      (m.hand s.cur).tlbi = some ⟨s.m.nextId, form, va, pushFifo .x w.hdr.push⟩ ∧ (m.hand s.cur).ex.notBefore = s.hand.vclk + 48 ∧
      m.agenda = agendaAdd (s.tb + 48) (.tlbiComplete s.cur s.m.nextId) s.m.agenda) ∧
  (∀ (s : State) (w : SSS), (Instr.tlbi w).check = none → s.hand.ring = 0 →
    exec (.tlbi w) s = s.goes (s.m.trap s.tb s.cur { f := ⟨2, 0, []⟩, eng := 1, word := (encode (.tlbi w)).getD 0 })) ∧
  (∀ (s : State) (r : Nat) (t : Tlbi), (s.m.hand r).tlbi = some t →
    ((∀ c, ∀ w ∈ (s.m.cluster c).walks, w.failed.isSome = true ∨ t.id ≤ w.id) → ∃ m, exec (.tlbiComplete r t.id) s = s.goes m ∧
      m.mem = s.m.mem ∧ (m.hand r).tlbi = none ∧ (m.hand r).fifos = ((s.m.hand r).enterTok s.tb t.push).fifos ∧
      ∀ c ∈ s.m.tlbiClusters r t.form, ∀ e ∈ (m.cluster c).tc, t.form ≠ 2 ∧ (e.ctx = (s.m.hand r).ctx →
        t.form ≠ 0 ∧ t.va.toNat % 2 ^ 48 / 2 ^ e.logSize ≠ e.vpage)) ∧
    ((∃ c ∈ s.m.tlbiClusters r t.form, ∃ w ∈ (s.m.cluster c).walks, w.failed = none ∧ w.id < t.id) →
      exec (.tlbiComplete r t.id) s = s.goes (s.m.post (s.tb + 1) (.tlbiComplete r t.id))))

/-- HSWAP, CTXSV and CTXLD (19 R372 to R376), which ring 0 may not run: the hand drains, and the other hand acts 24 c after
the drain; CTXSV drains every hand of its team that holds its context, to save it at S[a] and load S[b]; CTXLD loads S[a] into
the inactive hands. CTXSV with S[a] = 0 ends the context.
A core whose active hand holds no thread and whose other hand does switches, 24 c after the later of the EXIT and the deal (17 R422). -/
def Sys2Proof.Claims.HandsAndContextsSwitch : Prop :=
  (∀ (s : State) (w : Z), 1 ≤ s.hand.ring → (s.m.hand (otherHand s.cur)).ctx ≠ 0 → MayIssue s .x (.hswap w) w.hdr →
    exec (.hswap w) s = s.goes ((((s.issued .x w.hdr).beginDrain s.tb s.cur).beginSwap s.tb s.cur { hand := s.cur }).modHand s.cur
      (tokenNow s .x w.hdr))) ∧
  (∀ (s : State) (w : SSS), let a := s.hand.sreg w.a.toNat
    let b := s.hand.sreg w.b.toNat
    let team := [0, 2, 4, 6].map (fun k => 8 * clusterOf s.cur + k + s.cur % 2)
    1 ≤ s.hand.ring → ReadyS s w.a.toNat → ReadyS s w.b.toNat → a ≠ 0 → s.m.areaStop s.cur a true = none →
    s.m.areaStop s.cur b false = none → s.m.loadStop s.cur b team = none →
    (s.m.ctxs.map (fun p => p.2.agent.length)).sum < 4096 → MayIssue s .x (.ctxsv w) w.hdr →
    exec (.ctxsv w) s = s.goes (((team.foldl (fun (m : Mach) q => if (m.hand q).ctx = s.hand.ctx && !(m.hand q).aside
        then m.beginDrain s.tb q else m) (s.issued .x w.hdr)).beginSwap s.tb s.cur
      { hand := s.cur, team := team, isSave := true, saveAt := a, loadAt := b }).modHand s.cur (tokenNow s .x w.hdr))) ∧
  (∀ (s : State) (w : SSS), let b := s.hand.sreg w.b.toNat
    let team := [0, 2, 4, 6].map (fun k => 8 * clusterOf s.cur + k + s.cur % 2)
    let m1 := (s.issued .x w.hdr).killContext s.tb s.hand.ctx
    let m2 := if b = 0 then m1 else m1.loadTeam s.tb s.cur s.hand.ctx b team
    1 ≤ s.hand.ring → ReadyS s w.a.toNat → ReadyS s w.b.toNat → s.hand.sreg w.a.toNat = 0 → s.m.areaStop s.cur b false = none →
    s.m.loadStop s.cur b team = none → MayIssue s .x (.ctxsv w) w.hdr →
    exec (.ctxsv w) s = s.goes ((((m2.modDev (fun d => { d with ending := d.ending ++ [(none, s.hand.ctx)] })).kick s.tb).beginSwap s.tb s.cur
      { hand := s.cur, team := team, isSave := true, drained := true, at_ := s.tb + 24 }).modHand s.cur (tokenNow s .x w.hdr))) ∧
  (∀ (s : State) (w : SSS), let a := s.hand.sreg w.a.toNat
    let act := (List.range 4).map (fun k => 8 * clusterOf s.cur + 2 * k + KMap.get 0 s.m.active (4 * clusterOf s.cur + k))
    1 ≤ s.hand.ring → ReadyS s w.a.toNat → a ≠ 0 → s.m.areaStop s.cur a false = none →
    let m1 := (s.issued .x w.hdr).loadTeam s.tb s.cur s.hand.ctx a (act.map otherHand)
    (∀ q ∈ act, (s.m.hand (otherHand q)).ctx = 0) → s.m.loadStop s.cur a (act.map otherHand) = none → MayIssue s .x (.ctxld w) w.hdr →
    exec (.ctxld w) s = s.goes ((act.foldl (fun (m : Mach) q => m.postSwitch s.tb (coreOf q)) m1).modHand s.cur (tokenNow s .x w.hdr))) ∧
  (∀ (s : State) (i : Instr), ((∃ w, i = .hswap w) ∨ (∃ w, i = .ctxsv w) ∨ ∃ w, i = .ctxld w) → i.check = none → s.hand.ring = 0 →
    exec i s = s.goes (s.m.trap s.tb s.cur { f := ⟨2, 0, []⟩, eng := 1, word := (encode i).getD 0 })) ∧
  (∀ (m : Mach) (now r : Nat), let t := m.beginDrain now r
    t.mem = m.mem ∧ (t.hand r).draining = true ∧ (t.hand r).blocked = none ∧ (t.hand r).pbSaved = (m.hand r).pbSaved
        ++ (m.die (dieOfHand r)).queue.filter (fun c => c.hand == r && !c.started) ∧
      (t.hand r).cmdSaved = (m.hand r).cmdSaved ++ (m.cmdsOf r).filter (fun c => !c.started) ∧
      (m.saccOpen r = true → ∃ f ∈ (t.cluster (clusterOf r)).saccFl, f.hand = r ∧ f.ctx = (m.hand r).ctx) ∧
      ∀ c ∈ (t.cluster (clusterOf r)).cmds, c.hand = r → c.started = true) ∧
  (∀ (s : State) (core : Nat) (w : Swap), s.m.swaps.find? (fun p => p.1 == core) = some (core, w) →
    (w.drained = false → w.isSave = false → s.m.quiet w.hand = false →
      exec (.handSwapActivate core) s = s.goes (s.m.post (s.tb + 1) (.handSwapActivate core))) ∧
    (w.drained = false → w.isSave = false → s.m.quiet w.hand = true →
      ∃ m, exec (.handSwapActivate core) s = s.goes m ∧ m.swaps = s.m.swaps.set core { w with drained := true, at_ := s.tb + 24 } ∧
        (m.hand w.hand).aside = true ∧ (m.hand w.hand).draining = false ∧ (s.tb + 24, .handSwapActivate core) ∈ m.agenda) ∧
    (w.drained = true → s.tb < w.at_ → exec (.handSwapActivate core) s = s.goes s.m)) ∧
  (∀ (s : State) (core : Nat), let a := 2 * core + KMap.get 0 s.m.active core
    let o := otherHand a
    ((s.m.hand a).thread = true → exec (.autoHandSwitch core) s = s.goes s.m) ∧
    let at_ := max ((s.m.hand a).freeAt + 16) ((s.m.hand o).dealtT + 24)
    ((s.m.hand a).thread = false → (s.m.hand o).thread = true → s.m.swaps = [] → s.tb < at_ →
      exec (.autoHandSwitch core) s = s.goes (s.m.post at_ (.autoHandSwitch core))) ∧
    ((s.m.hand a).thread = false → (s.m.hand o).thread = true → s.m.swaps = [] → at_ ≤ s.tb →
      exec (.autoHandSwitch core) s = s.goes ((s.m.activate s.tb o).post (s.tb + 1) (.handSwapActivate core)))) ∧
  (∀ (m : Mach) (now r : Nat), (m.hand r).aside = false → let t := m.activate now r
    KMap.get 0 t.active (coreOf r) = r % 2 ∧ t.hand r = { m.hand r with vclk := max 1 (m.hand r).vclk })

/-- TLBI, HSWAP, CTXSV, CTXLD and the switch of hands (19 R371 to R376, 17 R422). That CTXSV drains only the hands of the team that
hold its context is the model's reading (log 68). -/
def Obligations.TranslationInvalidateAndSwitches : Prop :=
  Sys2Proof.Claims.TranslationInvalidate ∧ Sys2Proof.Claims.HandsAndContextsSwitch

/-- The lease and the bands (11 R219, R222, R227). LEASE of at most LEASEMAX commands takes a free lease at once, with rem its
run, and waits frozen with code 7 behind a holder; a larger run is illegal. UNLSE ends the run. A free lease goes to the
first waiting requester after the last holder. A band idle for 1,050 c goes off, and one that has woken for 400 c is on. -/
def Sys2Proof.Claims.LeaseAndBands : Prop :=
  (∀ (s : State) (w : MC), let c := clusterOf s.cur
    let q := s.cur % 8
    let n := w.count.toNat
    let l := s.cluster.lease
    n ≤ (s.hand.creg 0x040).toNat % 2 ^ 7 → s.hand.stage = 0 → MayIssue s .m (.lease w) w.hdr →
    (l.holder = none → s.m.rival s.tb s.cur = false → exec (.lease w) s = s.goes (((s.issued .m w.hdr).modCluster c (fun x =>
      { x with lease := { x.lease with st := x.lease.st.set q 2, holder := some q, rem := n } })).issueResult s.cur [] 0
        (pushFifo .m w.hdr.push) s.tb true false)) ∧
    (∀ h, l.holder = some h → KMap.get 0 l.st q = 0 → ∃ m, exec (.lease w) s = s.goes m ∧ m.mem = s.m.mem ∧
      (m.hand s.cur).blocked = some ⟨7, .m, 0⟩ ∧ (m.hand s.cur).stage = 1 ∧ (m.hand s.cur).em = s.hand.em ∧
      (m.cluster c).lease = { l with st := l.st.set q 1, want := l.want.set q n } ∧
      m.agenda = agendaAdd (s.tb + 1) (.leaseGrant c) s.m.agenda)) ∧
  (∀ (s : State) (w : MC), (Instr.lease w).check = none → (s.hand.creg 0x040).toNat % 2 ^ 7 < w.count.toNat →
    exec (.lease w) s = s.goes (s.m.trap s.tb s.cur { f := ⟨1, 3, []⟩, eng := 2, word := (encode (.lease w)).getD 0 })) ∧
  (∀ (s : State) (w : MC), MayIssue s .m (.unlse w) w.hdr →
    exec (.unlse w) s = s.goes (((s.issued .m w.hdr).endRunOf s.cur).modHand s.cur (tokenNow s .m w.hdr))) ∧
  (∀ (s : State) (c : Nat), exec (.leaseGrant c) s = s.goes (s.m.modCluster c (fun x => { x with lease := x.lease.grant }))) ∧
  (∀ (l : Lease) (i : Nat), l.holder = none → i < 8 → l.of ((l.last + 1 + i) % 8) = 1 → (∀ j, j < i → l.of ((l.last + 1 + j) % 8) ≠ 1) →
    let q := (l.last + 1 + i) % 8
    l.grant = { l with st := l.st.set q 2, holder := some q, rem := KMap.get 0 l.want q }) ∧
  (∀ (l : Lease), l.holder ≠ none → l.grant = l) ∧
  (∀ (s : State) (c b : Nat), let v := (s.m.cluster c).band b
    (v.st = .on → v.lastNeed + 1050 ≤ s.tb →
      exec (.bandIdleOff c b) s = s.goes (s.m.setBand c b { v with st := .off, since := s.tb })) ∧
    (v.st ≠ .on ∨ s.tb < v.lastNeed + 1050 → exec (.bandIdleOff c b) s = s.goes s.m) ∧
    (v.st = .waking → v.since + 400 ≤ s.tb → s.tb < v.lastNeed + 1050 →
      exec (.bandWakeDone c b) s = s.goes (s.m.setBand c b { v with st := .on, since := s.tb })))

/-- The words of the array (11 R225, R227 to R230, R233): a word that finds eight commands in its hand's queue is frozen with code 9
until the oldest of them has completed; past their checks they are accepted into the hand's queue with what they
capture at issue, under the hand's next sequence number, one of the run used up; MSHAPE and MMODE set their register at
once. A hand without the lease takes lease-fault 1. -/
def Sys2Proof.Claims.ArrayWords : Prop :=
  (∀ (s : State) (w : MC), CmdRoom s →
    let mode := fun (n : Nat) (op : CmdOp) => s.goes (((s.issued .m w.hdr).modHand s.cur (fun h =>
      h.setCreg n (BitVec.ofNat 64 (w.flags.toNat % 16)))).acceptCmd s.tb s.cur
        { acc := 0, hand := s.cur, ctx := 0, seq := 0, op := op, push := pushFifo .m w.hdr.push })
    (MayIssue s .m (.mshape w) (lateHdr w.hdr) → exec (.mshape w) s = mode 0x042 .mshape) ∧
    (MayIssue s .m (.mmode w) (lateHdr w.hdr) → exec (.mmode w) s = mode 0x032 .mmode)) ∧
  (∀ (s : State) (w : MC), MayIssue s .m (.mshape w) (lateHdr w.hdr) →
    (s.hand.stage = 0 → ∀ c l, s.m.cmdsOf s.cur = c :: l → 8 ≤ (c :: l).length → ∃ m, exec (.mshape w) s = s.goes m ∧ m.mem = s.m.mem ∧
      (m.hand s.cur).blocked = some ⟨9, .m, 0⟩ ∧ (m.hand s.cur).em = s.hand.em ∧ (m.hand s.cur).stage = 1 ∧
      (m.hand s.cur).stageV = BitVec.ofNat 64 c.acc ∧ m.cmdsOf s.cur = c :: l) ∧
    (s.hand.stage ≠ 0 → (∃ c ∈ s.m.cmdsOf s.cur, BitVec.ofNat 64 c.acc = s.hand.stageV) →
      exec (.mshape w) s = s.goes (s.m.block ⟨s.tb, s.cur, .m⟩ 9 0))) ∧
  (∀ (s : State) (w : MC), let st := s.hand.streg w.stream.toNat
    let q := s.hand.stQ st
    let sp := w.flags.getLsbD 0
    let n := w.count.toNat
    let cls := stClass st q
    let k := stK st
    s.m.leaseStop s.cur w.slot.toNat = none → CmdRoom s →
    (MayIssue s .m (.wld w) (lateHdr w.hdr) → 0 < k → k ≤ kLimit cls sp → (stBlk st = 0 ∨ k % stBlk st = 0) →
      imageLen st q n sp ≤ 131072 → (sp = true → k % 8 = 0 ∧ cls ≠ 3 ∧ (st.getLsbD 119 = true → q % 16 = 8)) →
      s.m.streamIn s.cur st q n sp false = none →
      exec (.wld w) s = s.goes ((s.issued .m w.hdr).acceptCmd s.tb s.cur
        { acc := 0, hand := s.cur, ctx := 0, seq := 0, op := .wld, slot := w.slot.toNat, count := n, flags := w.flags.toNat,
          st := st, q := q, push := pushFifo .m w.hdr.push, leased := true })) ∧
    (MayIssue s .m (.wdrop w) (lateHdr w.hdr) → exec (.wdrop w) s = s.goes ((s.issued .m w.hdr).acceptCmd s.tb s.cur
        { acc := 0, hand := s.cur, ctx := 0, seq := 0, op := .wdrop, slot := w.slot.toNat, push := pushFifo .m w.hdr.push,
          leased := true }))) ∧
  (∀ (s : State) (w : MC), let st := s.hand.streg w.stream.toNat
    let q := s.hand.stQ st
    let v := s.cluster.slotView w.slot.toNat
    let hv := s.hand.hreg w.handle.toNat
    let n := w.count.toNat
    let k := stK st
    let band := (s.hand.creg 0x042).toNat % 2 ^ 4
    let need := bandsNeeded band (wbOf (stClass st q) v.sp) k
    let accepted := fun (op : CmdOp) => s.goes ((s.issued .m w.hdr).acceptCmd s.tb s.cur
      { acc := 0, hand := s.cur, ctx := 0, seq := 0, op := op, slot := w.slot.toNat, handle := hv, row0 := w.row0.toNat, count := n,
        flags := w.flags.toNat, st := st, q := q, band := band, rnd := (s.hand.creg 0x032).toNat, push := pushFifo .m w.hdr.push,
        leased := true, wldAcc := v.wld, need := need, deep := if v.packed then 3 else 0 })
    s.hand.pendH w.handle.toNat = false → s.m.leaseStop s.cur w.slot.toNat = none → v.ready = true → v.cls = stClass st q → v.k = k →
    0 < k → k ≤ kLimit v.cls v.sp → (stBlk st = 0 ∨ k % stBlk st = 0) →
    s.m.streamIn s.cur st q n false (w.flags.getLsbD 0) = none →
    (∀ b, b < 4 → need.testBit b = true → (s.cluster.band b).st ≠ .forced) → CmdRoom s →
    (s.m.hdlStop s.cur (hdlOf hv) (some (v.cls == 2)) (some false) w.row0.toNat n = none → MayIssue s .m (.mma w) (lateHdr w.hdr) →
      exec (.mma w) s = accepted .mma) ∧
    (s.m.hdlStop s.cur (hdlOf hv) (some (v.cls == 2)) (some true) w.row0.toNat n = none → MayIssue s .m (.mmat w) (lateHdr w.hdr) →
      exec (.mmat w) s = accepted .mmat)) ∧
  (∀ (s : State) (w : MC), s.m.holds s.cur = false → (s.hand.popStop s.tb (popFifo .m w.hdr.pop)) = none →
    (Instr.wdrop w).check = none →
    exec (.wdrop w) s = s.goes (s.m.trap s.tb s.cur { f := ⟨0x10, 1, []⟩, eng := 2, word := (encode (.wdrop w)).getD 0 })) ∧
  (∀ (m : Mach) (now r : Nat) (c : Cmd), c.need = 0 → c.leased = true → 1 < (m.lease r).rem →
    (∀ d ∈ (m.cluster (clusterOf r)).cmds, d.acc ≤ (m.cluster (clusterOf r)).accNo) →
    let t := m.acceptCmd now r c
    let seq := ((m.hand r).creg 0x043).toNat + 1
    t.mem = m.mem ∧ (t.lease r).rem = (m.lease r).rem - 1 ∧ (t.hand r).creg 0x043 = BitVec.ofNat 64 (seq % 2 ^ 32) ∧
      (t.cluster (clusterOf r)).accNo = (m.cluster (clusterOf r)).accNo + 1 ∧
      ∃ d ∈ (t.cluster (clusterOf r)).cmds, d = { c with id := m.nextId, acc := (m.cluster (clusterOf r)).accNo + 1, hand := r,
                                                         ctx := (m.hand r).ctx, seq := seq % 2 ^ 32, armed := d.armed,
                                                         startT := d.startT })

/-- The lease, the bands and the words of the array (11 R219, R222, R225, R227 to R230). -/
def Obligations.LeaseAndArrayWords : Prop :=
  Sys2Proof.Claims.LeaseAndBands ∧ Sys2Proof.Claims.ArrayWords

/-- The array commands at work (11 R219, R228 to R232, 08 R175, 20 R382). A command whose partition is throttled, or a band of which is waking
again, when its start comes does not start, and is looked at anew. WLD_START makes its slot LOADING and reads column after column; with
all read, WLD_COMPLETE makes it READY with the image; WDROP_ACT empties it. An MMA takes one A row in each cycle, and writes
what has left the array; its last row comes with MMA_COMPLETE. In the integer class column n of a valid row takes the exact sum
of the products in the active bands, wrapped, added to the old element or, with ZA, in its place; an element at or above N is
unchanged. A command that completes leaves its queue, and its token enters. That a load reads one column at its start and one in each
cycle after it is the model's reading (logs 89, 103). -/
def Obligations.ArrayCommandsRun : Prop :=
  (∀ (s : State) (r seq : Nat) (c : Cmd) (col : List Nat × List Nat) (ks : List Nat), s.m.findCmd r seq = some c →
    c.started = false → c.got = [] → c.hand = r → s.m.startHeld s.tb c = false → ((s.m.cluster (clusterOf r)).cmds.map (·.acc)).Nodup → (∀ k, s.m.rowError k = none) → s.m.wldColumn c 0 = .ok (col, ks) →
    ∃ m, exec (.wldStart r seq) s = s.goes m ∧ m.mem = s.m.mem ∧
      (KMap.get {} (m.cluster (clusterOf r)).wbuf c.slot).st = 1 ∧ (KMap.get {} (m.cluster (clusterOf r)).wbuf c.slot).ctx = c.ctx ∧
      (∃ d ∈ (m.cluster (clusterOf r)).cmds, d = { c with started := true, got := [some col], armed := d.armed, startT := d.startT }) ∧
      (c.startT + 6 + (imageLen c.st c.q c.count (c.flags.testBit 0) + 127) / 128, .wldComplete r seq) ∈ m.agenda) ∧
  (∀ (s : State) (r seq : Nat) (c : Cmd), s.m.findCmd r seq = some c →
    let slot := fun (v : WSlot) => s.m.modCluster (clusterOf r) (fun x => { x with wbuf := x.wbuf.set c.slot v })
    (c.got.length < c.count → exec (.wldComplete r seq) s = s.goes (s.m.post (s.tb + 1) (.wldComplete r seq))) ∧
    (c.count ≤ c.got.length → exec (.wldComplete r seq) s = s.goes ((slot
      { st := 2, ctx := c.ctx, cls := stClass c.st c.q, ty := stField c.st 112 4, nf := c.st.getLsbD 119, q := c.q, blk := stBlk c.st,
        sp := c.flags.testBit 0, k := stK c.st, n := c.count,
        cols := c.got.filterMap (fun g => g.map (fun p => ⟨p.1, p.2⟩)) }).finishCmd s.tb c)) ∧
    (s.m.startHeld s.tb c = false → exec (.wdropAct r seq) s = s.goes ((slot {}).finishCmd s.tb c) ∧
      exec (.modeCommandComplete r seq) s = s.goes (s.m.finishCmd s.tb c)) ∧
    (c.started = false → (s.m.part (s.m.clPart (clusterOf c.hand))).throttle = true ∨ s.tb < (s.m.cluster (clusterOf c.hand)).wakeEnd c.need →
      ∀ i ∈ [Instr.wldStart r seq, .wdropAct r seq, .modeCommandComplete r seq, .mmaStart r seq, .accumCommandStart r seq, .rslvStart r seq],
        exec i s = s.goes ((s.m.putCmd (clusterOf c.hand) { c with armed := false }).armCmds s.tb (clusterOf c.hand))) ∧
    exec (.mmaComplete r seq) s = s.goes ((s.m.mmaWrite c c.count).finishCmd s.tb c)) ∧
  (∀ (s : State) (r seq : Nat) (c : Cmd) (v : List Nat × List Nat) (ks : List Nat), s.m.findCmd r seq = some c →
    c.started = true → c.wrote = 0 → c.hand = r → c.flags.testBit 0 = false → c.got.length + 1 < c.count → (∀ k, s.m.rowError k = none) →
    s.tb = c.startT + c.got.length → c.got.length < 264 → s.m.streamRow r c.st c.q c.got.length = .ok (v, ks) →
    exec (.mmaStart r seq) s = s.goes ((s.m.putCmd (clusterOf r) { c with got := c.got ++ [some v] }).post (s.tb + 1) (.mmaStart r seq))) ∧
  (∀ (c : Cmd) (v : WSlot) (a : List Nat × List Nat) (old : BitVec 8192) (n : Nat), v.cls = 2 → n < 256 → v.cols.length ≤ 256 →
    let av := fun k => intOf (stField c.st 112 4 == 0) 8 (a.1.getD k 0)
    let bv := fun k => intOf (v.ty == 0) 8 ((v.cols.getD n ⟨[], []⟩).elems.getD k 0)
    let len := min a.1.length (v.cols.getD n ⟨[], []⟩).elems.length
    let sum := (((List.range len).filter (fun k => c.band.testBit (k / wbOf 2 v.sp))).map (fun k => av k * bv k)).sum
    acmElem (mmaRow c v a old) n = if v.cols.length ≤ n then acmElem old n
      else ((sum + if c.flags.testBit 1 then 0 else (acmElem old n : Int)) % 2 ^ 32).toNat) ∧
  (∀ (m : Mach) (now : Nat) (c : Cmd), let t := m.finishCmd now c
    t.mem = m.mem ∧ (t.hand c.hand).fifos = ((m.hand c.hand).completeTok now c.push).fifos ∧
      (∀ d ∈ (t.cluster (clusterOf c.hand)).cmds, d.acc ≠ c.acc) ∧ (t.cluster (clusterOf c.hand)).acm = (m.cluster (clusterOf c.hand)).acm)

/-- The words of the accumulator memory (12 R236 to R247). ACMAL takes the lowest range of free banks, zeroed and owned by the
core, and its handle lands in H after 2; with no such range it takes acm-handle 5. ACMOWN gives rows at issue. ACMV and ACMPK
push a column block of each row, one a cycle from 4 on, ACMPK from the row as the last command that has completed left it. ACMFR, ACMZ, ACMAD and ACMST are accepted with what they capture. -/
def Obligations.AccumulatorWords : Prop :=
  (∀ (s : State) (w : MA) (b : Nat), let nb := w.count.toNat
    let h : Hdl := ⟨true, w.op == 1, false, w.row0.toNat % 2 ^ 8, nb - 1, b, if s.cluster.acmgen = 511 then 1 else s.cluster.acmgen + 1⟩
    w.row0.getLsbD 9 = false → b + nb ≤ 64 → 1 ≤ nb → (∀ i, i < nb → (s.cluster.bank (b + i)).used = false) →
    (∀ a, a < b → ∃ i, i < nb ∧ (s.cluster.bank (a + i)).used = true) → MayIssue s .m (.acmal w) w.hdr →
    exec (.acmal w) s = s.goes (((s.issued .m w.hdr).modCluster (clusterOf s.cur) (fun x => x.allocate h s.hand.ctx s.cur)).issueResult
      s.cur [.hreg w.handle.toNat h.code] 0 (pushFifo .m w.hdr.push) (s.tb + 2) true false)) ∧
  (∀ (s : State) (w : MA), w.row0.getLsbD 9 = false → (∀ a, a + w.count.toNat ≤ 64 → ∃ i, i < w.count.toNat ∧ (s.cluster.bank (a + i)).used = true) →
    (Instr.acmal w).check = none → s.hand.popStop s.tb (popFifo .m w.hdr.pop) = none → w.count.toNat ≤ 64 →
    exec (.acmal w) s = s.goes (s.m.trap s.tb s.cur { f := ⟨0x0E, 5, []⟩, eng := 2, word := (encode (.acmal w)).getD 0 })) ∧
  (∀ (x : Cluster) (h : Hdl) (k r p : Nat), let y := x.allocate h k r
    let mine := decide (16 * h.base ≤ p) && decide (p < 16 * h.base + 16 * (h.nb + 1))
    y.acmRow p = (if mine then 0 else x.acmRow p) ∧ KMap.get 0 y.rowOwner p = (if mine then r / 2 % 4 else KMap.get 0 x.rowOwner p) ∧
      y.acmgen = h.gen ∧ y.bank (p / 16) = (if mine then ⟨true, k, r % 2, r / 2 % 4, h.isInt, h.sp, h.tag, h.gen, h.base, h.nb⟩ else x.bank (p / 16))) ∧
  (∀ (s : State) (w : MA), let hv := s.hand.hreg w.handle.toNat
    let n := w.count.toNat
    let base : Cmd := { acc := 0, hand := s.cur, ctx := 0, seq := 0, op := .acmz, handle := hv, row0 := w.row0.toNat, count := n,
                        push := pushFifo .m w.hdr.push }
    let accepted := fun (c : Cmd) (m : Mach) => s.goes (m.acceptCmd s.tb s.cur c)
    s.hand.pendH w.handle.toNat = false → CmdRoom s →
    (s.m.hdlStop s.cur (hdlOf hv) none none 0 0 = none → (s.cluster.bank (hdlOf hv).base).core = s.cur / 2 % 4 →
      MayIssue s .m (.acmfr w) (lateHdr w.hdr) → exec (.acmfr w) s = accepted { base with op := .acmfr } (s.issued .m w.hdr)) ∧
    (s.m.hdlStop s.cur (hdlOf hv) none none w.row0.toNat n = none → s.m.ownStop s.cur (hdlOf hv) w.row0.toNat n = none →
      MayIssue s .m (.acmz w) (lateHdr w.hdr) → exec (.acmz w) s = accepted base (s.issued .m w.hdr)) ∧
    (let os : List Opnd := List.replicate n ⟨w.q.toNat, false, false, 4⟩
     s.m.hdlStop s.cur (hdlOf hv) none (some false) w.row0.toNat n = none → s.m.ownStop s.cur (hdlOf hv) w.row0.toNat n = none →
      Sources s .m os [] → MayIssue s .m (.acmad w) (lateHdr w.hdr) →
      exec (.acmad w) s = accepted { base with op := .acmad, ents := opValues s.hand .m os, blk := w.op.toNat,
                                               rnd := (s.hand.creg 0x032).toNat % 16 } (s.took .m w.hdr os))) ∧
  (∀ (s : State) (w : MA), let h := hdlOf (s.hand.hreg w.handle.toNat)
    let st := s.hand.streg w.q.toNat
    let pp := s.hand.creg 0x048
    let q := (s.hand.creg (0x038 + pp.toNat / 2 ^ 12 % 2 ^ 3)).toNat % 2 ^ 19
    let bias := s.hand.creg 0x049
    let n := w.count.toNat
    s.hand.pendH w.handle.toNat = false → s.m.hdlStop s.cur h none (some false) w.row0.toNat n = none →
    s.m.ownStop s.cur h w.row0.toNat n = none → s.m.busyStop s.cur (16 * h.base + w.row0.toNat) n = none →
    (pp.getLsbD 5 = true → h.isInt = false) → ppCols pp * ppWidth pp q % 32 = 0 → st.toNat % 4 = 0 → stField st 64 32 % 4 = 0 →
    (pp.getLsbD 0 = true → bias.toNat % 4 = 0 ∧ s.m.ownSlice s.cur bias 1024 = true) →
    (∀ i, i < n → s.m.ownSlice s.cur (stRowAt st i) (ppLen pp q) = true) → CmdRoom s →
    MayIssue s .m (.acmst w) (lateHdr w.hdr) →
    exec (.acmst w) s = s.goes ((s.issued .m w.hdr).acceptCmd s.tb s.cur
      { acc := 0, hand := s.cur, ctx := 0, seq := 0, op := .acmst, handle := s.hand.hreg w.handle.toNat, row0 := w.row0.toNat,
        count := n, push := pushFifo .m w.hdr.push, st := st, q := q, pp := pp, ppBias := bias, ppScl := s.hand.creg 0x04A,
        rnd := (s.hand.creg 0x032).toNat % 16 })) ∧
  (∀ (s : State) (w : MA), let h := hdlOf (s.hand.hreg w.handle.toNat)
    let n := w.count.toNat
    let p0 := 16 * h.base + w.row0.toNat
    s.hand.pendH w.handle.toNat = false → s.m.hdlStop s.cur h none none w.row0.toNat n = none →
    s.m.ownStop s.cur h w.row0.toNat n = none →
    (MayIssue s .m (.acmown w) w.hdr → exec (.acmown w) s = s.goes (((s.issued .m w.hdr).modCluster (clusterOf s.cur) (fun x =>
      { x with rowOwner := (List.range n).foldl (fun t i => t.set (p0 + i) w.op.toNat) x.rowOwner })).modHand s.cur (tokenNow s .m w.hdr))) ∧
    (s.m.busyStop s.cur p0 n = none → s.hand.queueStop [] (List.replicate n w.q.toNat) = none → MayIssue s .m (.acmv w) w.hdr →
      exec (.acmv w) s = s.goes (((s.issued .m w.hdr).noteDrain s.tb (clusterOf s.cur) h.base (s.tb + 3 + n)).pushRows s.tb s.cur
        w.q.toNat (pushFifo .m w.hdr.push) ((List.range n).map (fun i =>
          (acmBlock (if s.m.rowError (acmKey (clusterOf s.cur) (p0 + i)) = some true then 0 else s.cluster.acmRow (p0 + i)) w.op.toNat,
            [acmKey (clusterOf s.cur) (p0 + i)]))) []))) ∧
  (∀ (s : State) (w : MA), let rows := (List.range w.count.toNat).map (w.row0.toNat + ·)
    let bank := fun (p : Nat) => s.cluster.bank (p / 16)
    let t := s.tb + 3 + w.count.toNat
    let kept := fun (p : Nat) =>
      ((s.cluster.cmds.findSome? (fun c => c.olds.find? (fun o => o.1 == p))).map (·.2)).getD (s.cluster.acmRow p)
    let key := acmKey (clusterOf s.cur)
    s.hand.queueStop [] (List.replicate w.count.toNat w.q.toNat) = none → MayIssue s .m (.acmpk w) w.hdr →
    exec (.acmpk w) s = s.goes (((rows.filter (fun p => (bank p).used)).foldl (fun (m : Mach) p =>
      m.noteDrain s.tb (clusterOf s.cur) (bank p).base t) (s.issued .m w.hdr)).pushRows
      s.tb s.cur w.q.toNat (pushFifo .m w.hdr.push)
      (rows.map (fun p => if (bank p).used && (bank p).ctx == s.hand.ctx
        then (if s.m.rowError (key p) = some true then 0 else acmBlock (kept p) w.op.toNat, [key p]) else (0, [])))
      [.creg 0x047 (BitVec.ofNat 64 ((if rows.any (fun p => !(bank p).used) then 1 else 0)
        + if rows.any (fun p => (bank p).used && (bank p).ctx != s.hand.ctx) then 2 else 0))])) ∧
  (∀ (m : Mach) (now r q push : Nat) (x y : Entry × List Nat) (l : List Land), (∀ k, m.rowError k ≠ some true) →
    (∀ k, m.rowError k ≠ some false) → m.pushRows now r q push [x, y] l =
    (m.issueResult r [.queue q x.1] 0 0 (now + 4) true false).issueResult r (.queue q y.1 :: l) 0 push (now + 5) true false)

/-- The events of the accumulator commands (12 R241, R245, R246, R249). At its start a command takes its time; a free first waits again
for what holds it back and for the drains of its handle; at completion ACMFR frees
its banks, ACMZ zeroes its rows, ACMAD adds an entry into one column block of each row, in an integer handle wrapping, and
ACMST writes each row through the post pipe, here with no stage on but the output's. -/
def Obligations.AccumulatorEvents : Prop :=
  (∀ (s : State) (r seq : Nat) (c : Cmd), let x := s.m.cluster (clusterOf r)
    let base := (hdlOf c.handle).base
    s.m.findCmd r seq = some c → s.m.startHeld s.tb c = false →
    (c.op = .acmz ∨ c.op = .acmad ∨ (c.op = .acmst ∧ c.pp.getLsbD 0 = false) ∨
      (c.op = .acmfr ∧ x.canStart c = true ∧ ∀ p ∈ x.drains, p.1 = base → p.2 ≤ s.tb)) → (x.cmds.map (·.acc)).Nodup →
    ∃ m, exec (.accumCommandStart r seq) s = s.goes m ∧ m.mem = s.m.mem ∧ m.hands = s.m.hands ∧
      (m.cluster (clusterOf r)).acm = x.acm ∧ (c.startT + c.acmTime, .accumCommandComplete r seq) ∈ m.agenda ∧
      ∃ d ∈ (m.cluster (clusterOf r)).cmds, d.acc = c.acc ∧ d.started = true ∧ d.op = c.op ∧ d.seq = c.seq) ∧
  (∀ (s : State) (r seq : Nat) (c : Cmd), let x := s.m.cluster (clusterOf r)
    s.m.findCmd r seq = some c → c.op = .acmfr → s.m.startHeld s.tb c = false →
    (x.canStart c = false → exec (.accumCommandStart r seq) s = s.goes (s.m.putCmd (clusterOf r) { c with armed := false }) ∧
      exec (.accumCommandComplete r seq) s = s.goes (s.m.post (s.tb + 1) (.accumCommandComplete r seq))) ∧
    (∀ p, x.canStart c = true → x.drains = [p] → p.1 = (hdlOf c.handle).base → s.tb < p.2 → exec (.accumCommandStart r seq) s =
      s.goes ((s.m.putCmd (clusterOf r) { c with startT := p.2 }).post p.2 (.accumCommandStart r seq)))) ∧
  (∀ (x : Cluster) (c : Cmd), c.op = .acmfr → x.canStart c = true → ∀ d ∈ x.cmds, d.acc < c.acc → overlap d.rows c.rows = false) ∧
  (∀ (c : Cmd), (c.op = .acmz → c.acmTime = 2 + c.count) ∧ (c.op = .acmad → c.acmTime = 4 + c.count) ∧ (c.op = .acmfr → c.acmTime = 2) ∧
    (c.op = .acmst → c.acmTime = 8 + c.count * ((ppCols c.pp * ppWidth c.pp c.q + 1023) / 1024))) ∧
  (∀ (s : State) (r seq : Nat) (c : Cmd), s.m.findCmd r seq = some c → c.hand = r → (∀ k, s.m.rowError k = none) →
    (c.op = .acmfr → (s.m.cluster (clusterOf r)).canStart c = true) →
    let h := hdlOf c.handle
    let p0 := 16 * h.base + c.row0
    let x := s.m.cluster (clusterOf r)
    ∃ m, exec (.accumCommandComplete r seq) s = s.goes m ∧ (∀ d ∈ (m.cluster (clusterOf r)).cmds, d.acc ≠ c.acc) ∧
      (let y := m.cluster (clusterOf r)
       (c.op = .acmfr → y.acm = x.acm ∧ ∀ b, (y.bank b).used = ((x.bank b).used && !(decide (h.base ≤ b) && decide (b ≤ h.base + h.nb)))) ∧
       (c.op = .acmz → ∀ p, y.acmRow p = if p0 ≤ p ∧ p < p0 + c.count then 0 else x.acmRow p) ∧
       (c.op = .acmad → h.isInt = true → c.ents.length = c.count → (∀ p, (p < p0 ∨ p0 + c.count ≤ p) → y.acmRow p = x.acmRow p) ∧
         ∀ i n, i < c.count → n < 256 → acmElem (y.acmRow (p0 + i)) n =
           if n / 32 = c.blk then (acmElem (x.acmRow (p0 + i)) n + elem (c.ents.getD i 0) 32 (n % 32)) % 2 ^ 32
           else acmElem (x.acmRow (p0 + i)) n) ∧
       (c.op = .acmst → c.count = 1 → y.acm = x.acm ∧ ∀ m',
         s.m.writeAt c.ctx (stRowAt c.st 0) (leBytes (ppLen c.pp c.q) (packElems (ppWidth c.pp c.q) ((List.range (ppCols c.pp)).map (fun n =>
           ppElem c h.isInt (acmElem (x.acmRow p0) n) ((((c.got.headD none).elim [] (·.1)).getD n 0)))))) false = .ok m' → m.mem = m'.mem))) ∧
  (∀ (c : Cmd) (x : Nat), x < 2 ^ 32 → c.pp = 0x400 → ppElem c true x 0 = x) ∧
  (∀ (c : Cmd) (x : Nat), x < 2 ^ 32 → c.pp.toNat % 2 ^ 16 = 0x410 → ppElem c true x 0 = if x < 2 ^ 31 then x else 0)

/-- The predictor (14 R267 to R272). PRED lands a bid of its cluster's entries for each record of its mask: of a matching entry the
ids of confidence CMIN or more, by falling confidence and then by slot, at most KMAX of them. PREDUP trains: in a matching entry
called ids rise and the others fall by one, an id that is missing takes a place; another entry is allocated with the call at
confidence 1. PTCLR drops the entries of the thread's context. -/
def Obligations.Predictor : Prop :=
  (∀ (s : State) (w : VVV), let os : List Opnd := [⟨w.a.toNat, w.ka, false, 4⟩, ⟨w.b.toNat, w.kb, false, 4⟩]
    let q := queryOf (operand s .m os 1)
    let cs := callsOf (operand s .m os 0)
    Sources s .m os [w.d.toNat] → predBad q cs = false → 1 ≤ q.kmax → q.kmax ≤ 4 → MayIssue s .m (.pred w) w.hdr →
    exec (.pred w) s = s.goes ((s.took .m w.hdr os).issueResult s.cur [.queue w.d.toNat (s.cluster.bids s.hand.ctx q cs)] 0
      (pushFifo .m w.hdr.push) (s.tb + 6) true false)) ∧
  (∀ (x : Cluster) (k : Nat) (q : Query) (e : Entry) (j : Nat), j < 4 → let c := callOf e j
    let ix := predHash q j c
    let p := x.predAt ix.1
    let b := callOf (x.bids k q (callsOf e)) j
    (q.mask.testBit j = false → b = callOf 0 j) ∧
    (q.mask.testBit j = true → b.tid = c.tid ∧ b.spec = true ∧ (q.tag < 256 → b.tag = q.tag) ∧
      (p.hits k ix.2 = false → b.n = 0) ∧
      (p.hits k ix.2 = true → (∀ i ∈ p.ids, i < 256) → p.ids.length = 4 → p.conf.length = 4 → b.experts = p.bid q.cmin q.kmax))) ∧
  (∀ (p : PredEntry) (cmin kmax : Nat), p.ids.length = 4 → p.conf.length = 4 → (∀ c ∈ p.conf, c ≤ 3) →
    ∃ js : List Nat, p.bid cmin kmax = js.map (p.ids.getD · 0) ∧
      js.Pairwise (fun i j => p.conf.getD j 0 < p.conf.getD i 0 ∨ p.conf.getD j 0 = p.conf.getD i 0 ∧ i < j) ∧
      (∀ i ∈ js, i < 4 ∧ p.ids.getD i 0 ≠ 0xFF ∧ cmin ≤ p.conf.getD i 0) ∧
      js.length = min kmax ((List.range 4).filter (fun i => p.ids.getD i 0 != 0xFF && decide (cmin ≤ p.conf.getD i 0))).length) ∧
  (∀ (s : State) (w : VVV),
    let os : List Opnd := [⟨w.a.toNat, w.ka, false, 4⟩, ⟨w.b.toNat, w.kb, false, 4⟩, ⟨w.d.toNat, w.h, false, 4⟩]
    let q := queryOf (operand s .m os 1)
    let prev := fun j => callOf (operand s .m os 0) j
    let call := fun j => callOf (operand s .m os 2) j
    let out := s.cluster.trainAll s.hand.ctx q ((List.range 4).map (fun j => (j, prev j, call j)))
    Sources s .m os [w.d.toNat] → predBad q (callsOf (operand s .m os 0)) = false →
    (∀ j, j < 4 → q.mask.testBit j = true → (call j).tid = (prev j).tid ∧ (call j).n ≤ 8 ∧
      (call j).experts.eraseDups.length = (call j).experts.length ∧ (call j).spec = false) → MayIssue s .m (.predup w) w.hdr →
    exec (.predup w) s = s.goes (((s.took .m w.hdr os).modCluster (clusterOf s.cur) (fun y => { y with pred := out.1.pred })).issueResult
      s.cur [.queue w.d.toNat (mkEntry 32 out.2)] 0 (pushFifo .m w.hdr.push) (s.tb + 4) true false)) ∧
  (∀ (p : PredEntry) (k tag : Nat) (c : List Nat), p.ids.length = 4 → p.conf.length = 4 → c.length ≤ 4 → c.Nodup → 0xFF ∉ c →
    (p.hits k tag = true → (∀ e ∈ c, e ∈ p.ids) → let t := (p.train k tag c).1
      t.ids = p.ids ∧ t.v = true ∧ ∀ i, i < 4 → t.conf.getD i 0 = if p.ids.getD i 0 = 0xFF then p.conf.getD i 0
        else if p.ids.getD i 0 ∈ c then min 3 (p.conf.getD i 0 + 1) else p.conf.getD i 0 - 1) ∧
    (p.hits k tag = false → let t := (p.train k tag c).1
      t.v = true ∧ t.ctx = k ∧ t.tag = tag ∧ ∀ i, i < 4 → t.ids.getD i 0 = c.getD i 0xFF ∧ t.conf.getD i 0 = if i < c.length then 1 else 0)) ∧
  (∀ (s : State) (w : Z), MayIssue s .m (.ptclr w) w.hdr → ∃ m, exec (.ptclr w) s = s.goes m ∧ m.mem = s.m.mem ∧
    m.hand s.cur = tokenNow s .m w.hdr ((s.issued .m w.hdr).hand s.cur) ∧
    ∀ i, let p := s.cluster.predAt i
      let p' := (m.cluster (clusterOf s.cur)).predAt i
      if p.ctx = s.hand.ctx then p'.v = false else p' = p)

/-- RSLV (14 R279 to R281): a pair whose token has a computed row in the OPEN entry of its round and expert is confirmed, its row
to be added times the gate to the token's output row; one whose row is not computed is squashed and listed for rerun, and so is
one with no row. The adds are performed in order at the command's start. -/
def Obligations.Resolve : Prop :=
  (∀ (s : State) (w : VVV), let os : List Opnd := [⟨w.a.toNat, w.ka, false, 4⟩, ⟨w.b.toNat, w.kb, false, 4⟩]
    let e := operand s .m os 1
    let round := e.toNat % 2 ^ 8
    let hv := lane e 1
    let h := hdlOf hv
    let tid0 := (lane e 2).toNat
    let orb := (lane e 3).toNat
    let c := callOf (operand s .m os 0) 0
    let out := orb + c.tid - tid0
    Sources s .m os [w.d.toNat] → (lane e 0).toNat < 2 ^ 8 → e.toNat < 2 ^ 128 →
    (∀ j, j < 4 → 0 < j → (callOf (operand s .m os 0) j).n = 0) → 0 < c.n → c.spec = false → c.tag = 0 → c.badIds = false →
    (∀ x ∈ c.experts, (s.cluster.expert s.hand.ctx x).getLsbD 15 = true) →
    (∀ p ∈ c.pairs, expertDest (s.cluster.expert s.hand.ctx p.1) c.tid = clusterOf s.cur →
      ∀ i t, s.cluster.sptOf s.hand.ctx round p.1 = some (i, t) → t.npend = 0 ∧ t.fst ≠ 3) →
    s.m.hdlStop s.cur h (some false) (some false) 0 0 = none → tid0 ≤ orb + c.tid → out < h.rows →
    s.m.ownStop s.cur h out 1 = none → CmdRoom s → MayIssue s .m (.rslv w) (lateHdr w.hdr) →
    let d := (Decided.mk s.cluster [] [] 0 0 0 0).record s.hand.ctx round (clusterOf s.cur) (16 * h.base + out) c
    exec (.rslv w) s = s.goes ((((s.took .m w.hdr os).modCluster (clusterOf s.cur) (fun z =>
        Cluster.sptCount { z with spt := d.1.x.spt } s.hand.ctx [d.1.conf, d.1.sq, d.1.nrerun, d.1.fdisc])).issueResult s.cur
          [.queue w.d.toNat 0] 0 0 0 false false).acceptCmd s.tb s.cur
        { acc := 0, hand := s.cur, ctx := 0, seq := 0, op := .rslv, handle := hv, adds := d.1.adds, res := s.m.nextId,
          ents := [entryOfBytes (d.2 ++ List.replicate 96 0)], push := pushFifo .m w.hdr.push })) ∧
  (∀ (d : Decided) (k round tid out e g : Nat), let t := d.pair k round tid out (e, g)
    (d.x.sptOf k round e = none → t.adds = d.adds ∧ t.rerun = d.rerun ++ [(e, g)] ∧ t.nrerun = d.nrerun + 1 ∧ t.x = d.x) ∧
    (∀ i y row, d.x.sptOf k round e = some (i, y) → y.rowOf tid = some (row, .mapped) → let h := hdlOf y.handle
      (d.x.tent y row = true → t.adds = d.adds ++ [⟨16 * h.base + row, h.isInt, out, g, e⟩] ∧ t.rerun = d.rerun ∧ t.conf = d.conf + 1 ∧
        KMap.get {} t.x.spt i = y.mark row .conf) ∧
      (d.x.tent y row = false → t.adds = d.adds ∧ t.rerun = d.rerun ++ [(e, g)] ∧ t.sq = d.sq + 1 ∧ t.nrerun = d.nrerun + 1 ∧
        KMap.get {} t.x.spt i = y.mark row .sq))) ∧
  (∀ (s : State) (r seq : Nat) (c : Cmd) (a : RAdd), s.m.findCmd r seq = some c → s.m.startHeld s.tb c = false → c.adds = [a] → (∀ k, s.m.rowError k = none) →
    let x := s.m.cluster (clusterOf r)
    ∃ m, exec (.rslvStart r seq) s = s.goes m ∧ m.mem = s.m.mem ∧ m.hands = s.m.hands ∧
      (∀ p, (m.cluster (clusterOf r)).acmRow p = if p = a.out then rslvAdd a (x.acmRow a.out) (x.acmRow a.row) else x.acmRow p) ∧
      (c.startT + 8, .accumCommandComplete r seq) ∈ m.agenda)

/-- Routing (13 R253 to R263). RSNAP writes the counters to its slice row by row and lands time and sum, clearing them; EMAPS lands
the old entries, and then every cluster of the partition takes the new ones. DISP sends a frame of each record to each
cluster that holds one of its experts, and its receipt lands when the last is filed. A frame with a wrong CRC is sent again,
a third time with a machine-check; a good one goes to the ring, and each pair of it to its expert's list, to the overflow list,
or is dropped. An EMAP's clusters take it in the cycle after its landing (log 49, R254), and the fields of the machine-check of a
third failure are the model's (logs 52, 38, R260). -/
def Obligations.Routing : Prop :=
  (∀ (s : State) (w : VVI), let os : List Opnd := [⟨w.a.toNat, w.ka, false, 4⟩]
    let a : W64 := BitVec.ofNat 64 ((operand s .m os 0).toNat % 2 ^ 64)
    let c := clusterOf s.cur
    let n := fun e => (KMap.get 0 s.cluster.counters e).toNat
    let rc := (KMap.get 0 s.cluster.cr 0x05A).toNat
    Sources s .m os [w.d.toNat] → a.toNat % 128 = 0 → s.m.ownSlice s.cur a 1024 = true → rc / 2 ^ 16 % 2 = 1 →
    rc % 2 ^ 16 = s.hand.ctx → s.cluster.cntT ≠ s.tb → MayIssue s .m (.rsnap w) w.hdr →
    exec (.rsnap w) s = s.goes (((s.took .m w.hdr os).modCluster c (fun z => { z with counters := [] })).issueResult s.cur
      (.queue w.d.toNat (BitVec.ofNat 1024 (s.tb % 2 ^ 64 + 2 ^ 64 * (((List.range 256).map n).sum % 2 ^ 32)))
        :: (List.range 8).map (fun i => Land.mem (s.ctx.sliceKey c (a.toNat % 2 ^ 23 + 128 * i))
            ((List.range 32).flatMap (fun j => leBytes 4 (n (32 * i + j)))))) 0 (pushFifo .m w.hdr.push) (s.tb + 10) true false)) ∧
  (∀ (s : State) (w : VVV), let os : List Opnd := [⟨w.a.toNat, w.ka, false, 4⟩]
    let v := operand s .m os 0
    Sources s .m os [w.d.toNat] → (∀ j, j < 32 → (lane v j).getLsbD 31 = true →
      (lane v j).toNat / 2 ^ 24 % 2 ^ 7 = 0 ∧ s.m.emapOk s.hand.ctx (BitVec.ofNat 16 (lane v j).toNat) = true) → MayIssue s .m (.emaps w) w.hdr →
    ∃ m, exec (.emaps w) s = s.goes m ∧ m.mem = s.m.mem ∧ (m.cluster (clusterOf s.cur)).emap = s.cluster.emap ∧
      (m.cluster (clusterOf s.cur)).emapUpds = s.cluster.emapUpds ++ [⟨s.m.nextId + 1, s.hand.ctx, v, s.cur, s.m.nextId, false⟩] ∧
      m.agenda = agendaAdd (s.tb + 25) (.emapUpdate (s.m.nextId + 1)) (agendaAdd (s.tb + 24) (.emapUpdate (s.m.nextId + 1)) s.m.agenda)) ∧
  (∀ (s : State) (id c : Nat) (u : EmapUpd),
    s.m.clusters.findSome? (fun p => (p.2.emapUpds.find? (fun u => u.id == id)).map (fun u => (p.1, u))) = some (c, u) →
    (u.landed = true → ∃ m : Mach, exec (.emapUpdate id) s = s.goes m ∧ m.mem = s.m.mem ∧ m.hands = s.m.hands ∧
      ∀ q, q < 72 → s.m.clPart q = (s.m.ctx u.ctx).part →
        KMap.get [] (m.cluster q).emap u.ctx = emapApply (KMap.get [] (s.m.cluster q).emap u.ctx) u.ents) ∧
    (u.landed = false → s.m.emapPending u.ctx = [] → ∃ m : Mach, exec (.emapUpdate id) s = s.goes (m.supplyQueue s.tb u.hand u.res
        (mkEntry 32 ((List.range 32).map (fun j => if (lane u.ents j).getLsbD 31
          then ((s.m.cluster c).expert u.ctx ((lane u.ents j).toNat / 2 ^ 16 % 2 ^ 8)).toNat else 0)))) ∧
      m.hands = s.m.hands ∧ ∀ q, (m.cluster q).emap = (s.m.cluster q).emap)) ∧
  (∀ (s : State) (w : VVV), let os : List Opnd := [⟨w.a.toNat, w.ka, false, 4⟩, ⟨w.b.toNat, w.kb, false, 4⟩]
    let c := clusterOf s.cur
    let e := operand s .m os 1
    let base : W64 := BitVec.ofNat 64 (e.toNat % 2 ^ 64)
    let recs := (callsOf (operand s .m os 0)).filter (fun c => c.n != 0)
    let len := s.ctx.dlen
    let row := fun (q : Call) => base + BitVec.ofInt 64 (((q.tid : Int) - (lane e 3).toNat) * (lane e 2).toInt)
    let fs := recs.flatMap (fun q => (s.cluster.framesFor s.hand.ctx q).map (fun f => (q, f)))
    Sources s .m os [w.d.toNat] → 0 < len → base.toNat / 2 ^ 23 % 2 ^ 7 = c → base.toNat < 2 ^ 63 → (lane e 2).toNat % 4 = 0 →
    e.toNat < 2 ^ 128 → (∀ q ∈ recs, q.zero = 0 ∧ q.flags < 2 ∧ (q.spec = false → q.tag = 0) ∧ q.badIds = false ∧
      (∀ x ∈ q.experts, (s.cluster.expert s.hand.ctx x).getLsbD 15 = true) ∧ (row q).toNat % 4 = 0 ∧
      s.m.spanStop s.cur (row q) len false = none) → s.m.phase s.cur = true → s.hand.disps < 8 → MayIssue s .m (.disp w) w.hdr →
    (∀ k, s.m.rowError k = none) →
    ∃ (m : Mach) (new : List Frame), exec (.disp w) s = s.goes m ∧ m.mem = s.m.mem ∧ m.frames = s.m.frames ++ new ∧
      new.length = fs.length ∧ (m.hand s.cur).disps = s.hand.disps + 1 ∧ m.disps.length = s.m.disps.length + 1 ∧
      (∀ i q f l, fs[i]? = some q → new[i]? = some f → s.m.span s.hand.ctx (row q.1) len false (s.hand.ring == 0) = .ok l →
        f.src = c ∧ f.dst = q.2.1 ∧ f.hdr = headerBytes q.1.tid c q.1.spec q.1.tag q.2.2 ∧
        f.bytes = frameBytes f.hdr (s.m.readSpan l) ∧
        (s.tb + 8 + hops c f.dst + frameLen len / 128 * (i + 1), .frameArrival f.id) ∈ m.agenda)) ∧
  (∀ (s : State) (id : Nat) (f : Frame), s.m.frames.find? (fun f => f.id == id) = some f → s.m.frames = [f] →
    (s.m.cluster f.dst).heldFrames = [] → (f.late = true ∨ s.m.willDnext s.tb f.dst f.ctx = false) →
    (f.good = true → (s.m.fileFrame s.tb f).2 = true → exec (.frameArrival id) s = s.goes (s.m.fileFrame s.tb f).1) ∧
    (f.good = false → 3 ≤ f.sent → exec (.frameArrival id) s = s.goes ((if (s.m.hand f.hand).ctx = f.ctx then s.m.recordFault f.hand
      ⟨0x1F, 0, [7, BitVec.ofNat 64 (field f.hdr 0 4 + 2 ^ 32 * f.dst), 0, BitVec.ofNat 64 f.hand]⟩ else s.m).frameDone s.tb f)) ∧
    (f.good = false → f.sent < 3 → ∀ hid, s.m.readAt f.ctx f.rowAt f.len false = .ok hid → ∃ m g, exec (.frameArrival id) s = s.goes m ∧
      m.frames = [g] ∧ g.sent = f.sent + 1 ∧ g.bytes = frameBytes f.hdr hid ∧ m.mem = s.m.mem ∧
      (s.tb + hops f.src f.dst + g.bytes.length / 128, .frameArrival id) ∈ m.agenda)) ∧
  (∀ (m : Mach) (f : Frame) (idx p : Nat), let x := m.ctx f.ctx
    let cap := (x.reg 0x054).toNat % 2 ^ 16
    let l := x.region 0x052
    let o := x.region 0x053
    let e := field f.hdr (8 + p) 1
    let la := l.2 + 4 * e * (l.1 + 1)
    let n := m.winWord f.ctx f.dst la
    let ref := leBytes 4 (idx % 2 ^ 16 + 2 ^ 16 * p)
    (n < cap → m.filePair f idx p = some ((((m.winWrite f.ctx f.dst (la + 4 * (n + 1)) ref).winWrite f.ctx f.dst la (leBytes 4 (n + 1))).entered
      f.dst f.ctx e f.hdr).modDisp f.disp (fun d => { d with placed := d.placed + 1 }))) ∧
    (cap ≤ n → (x.reg 0x054).getLsbD 16 = true → m.filePair f idx p = some ((m.modCluster f.dst (fun y => y.addDcnt 1 0)).modDisp f.disp
      (fun d => { d with dropped := d.dropped + 1 }))) ∧
    (cap ≤ n → (x.reg 0x054).getLsbD 16 = false → o.1 ≤ m.winWord f.ctx f.dst (o.2 + 4 * e * (o.1 + 1)) / 2 ^ 16 →
      m.filePair f idx p = none)) ∧
  (∀ (s : State) (c k : Nat), ((s.m.cluster c).heldFrames = [] → exec (.heldFrameResume c k) s = s.goes s.m) ∧
    (∀ f m, (s.m.cluster c).heldFrames = [f.id] → s.m.frames.find? (fun g => g.id == f.id) = some f → s.m.fileFrame s.tb f = (m, true) →
      exec (.heldFrameResume c k) s = s.goes (m.modCluster c (fun y => { y with heldFrames := y.heldFrames.erase f.id })))) ∧
  (∀ (s : State) (id : Nat) (d : DispRec), s.m.disps.find? (fun d => d.id == id) = some d →
    (d.left ≠ 0 → exec (.dispComplete id) s = s.goes s.m) ∧
    (d.left = 0 → exec (.dispComplete id) s = s.goes (({ s.m with disps := s.m.disps.filter (fun e => e.id != id) }.modHand d.hand (fun h =>
      { h with disps := h.disps - 1 })).supplyQueue s.tb d.hand d.res (mkEntry 32 [d.frames, d.pairs, d.placed, d.held, d.dropped, d.resends]))))

/-- The p-bit words (16 R304, R305, R313). With its checks passed a word joins the queue of its die's array with what it captured, behind
every command accepted before; an array with no owner becomes its context's, but not by PBCLR. A PBRD reserves its entry at issue. A
word of a context that is not the owner takes protection-fault 8, a PBSWP on an array marked BAD takes pbit-colour 2. -/
def Obligations.PbitWords : Prop :=
  (∀ (s : State) (w : MC), let st := s.hand.streg w.stream.toNat
    st.toNat % 128 = 0 → stField st 64 32 % 128 = 0 → (∀ i, i < 16 * w.count.toNat → s.m.ownSlice s.cur (stRowAt st i) 256 = true) →
    PbitMay s → MayIssue s .m (.pbld w) (lateHdr w.hdr) →
    PbitJoins s (.pbld w) (s.issued .m w.hdr).hands (.ld st w.row0.toNat w.count.toNat) (pushFifo .m w.hdr.push) true) ∧
  (∀ (s : State) (w : Z), PbitMay s → MayIssue s .m (.pbclr w) (lateHdr w.hdr) →
    PbitJoins s (.pbclr w) (s.issued .m w.hdr).hands .clr (pushFifo .m w.hdr.push) false) ∧
  (∀ (s : State) (w : VVV), let os : List Opnd := [⟨w.a.toNat, w.ka, false, 4⟩]
    let v := operand s .m os 0
    Sources s .m os [] → (∀ j, j < 32 → (lane v j).toNat < 2 ^ 16) → PbitMay s → MayIssue s .m (.pbclmp w) (lateHdr w.hdr) →
    PbitJoins s (.pbclmp w) (s.took .m w.hdr os).hands (.clmp v) (pushFifo .m w.hdr.push) true) ∧
  (∀ (s : State) (w : VVI), let os : List Opnd := [⟨w.a.toNat, w.ka, false, 4⟩]
    let v := operand s .m os 0
    Sources s .m os [] → v.toNat < 2 ^ 16 → PbitMay s → MayIssue s .m (.pbswp w) (lateHdr w.hdr) →
    ((s.m.die (dieOf (clusterOf s.cur))).bad = false →
      PbitJoins s (.pbswp w) (s.took .m w.hdr os).hands (.swp v.toNat (w.imm.toNat + 1)) (pushFifo .m w.hdr.push) true) ∧
    ((s.m.die (dieOf (clusterOf s.cur))).bad = true →
      exec (.pbswp w) s = s.goes (s.m.trap s.tb s.cur { f := ⟨0x18, 2, []⟩, eng := 2, word := (encode (.pbswp w)).getD 0 }))) ∧
  (∀ (s : State) (w : VVI), s.hand.queueStop [] [w.d.toNat] = none → PbitMay s → MayIssue s .m (.pbrd w) (lateHdr w.hdr) →
    PbitJoins s (.pbrd w) ((s.issued .m w.hdr).issueResult s.cur [.queue w.d.toNat 0] 0 0 0 false false).hands
      (.rd (w.imm.getLsbD 12) (w.imm.toNat % 256) s.m.nextId) (pushFifo .m w.hdr.push) true) ∧
  (∀ (s : State) (w : VVI), let os : List Opnd := [⟨w.a.toNat, w.ka, false, 4⟩]
    PbitMay s → MayIssue s .m (.pbseed w) (lateHdr w.hdr) →
    (w.imm.getLsbD 0 = false → Sources s .m os [] →
      PbitJoins s (.pbseed w) (s.took .m w.hdr os).hands (.seed false (lane (operand s .m os 0) 0)) (pushFifo .m w.hdr.push) true) ∧
    (w.imm.getLsbD 0 = true →
      PbitJoins s (.pbseed w) (s.issued .m w.hdr).hands (.seed true 0) (pushFifo .m w.hdr.push) true)) ∧
  (∀ (s : State) (w : Z) (k : Nat), (s.m.die (dieOf (clusterOf s.cur))).owner = some k → k ≠ s.hand.ctx →
    (Instr.pbclr w).check = none → s.hand.popStop s.tb (popFifo .m w.hdr.pop) = none →
    exec (.pbclr w) s = s.goes (s.m.trap s.tb s.cur { f := ⟨9, 8, []⟩, eng := 2, word := (encode (.pbclr w)).getD 0 }))

/-- The commands of a p-bit array (16 R307 to R314). A command's effect falls at its start: PBLD writes its cells and checks the
colouring, PBCLR resets the array, PBCLMP clamps, PBRD reads states or counts, PBSEED seeds. In cycle t of a sweep the cells of
colour t step, each from the states before that cycle, a free one to 1 just where its random number is below its table entry. The
token and the entry of a PBRD come at completion, and the next command starts. -/
def Obligations.PbitCommands : Prop :=
  (∀ (s : State) (d : Nat) (c : PbCmd) (t : List PbCmd), let x := s.m.die d
    x.queue = c :: t → c.started = false →
    ∃ m, exec (.pbitCommandStart d) s = s.goes m ∧ m.mem = s.m.mem ∧ let y := m.die d
      y.queue.tail = t ∧ y.queue.head?.all (·.started) = true ∧
      (∀ b n, c.op = .swp b n → y.bad = x.bad ∧ y.det = x.det ∧ y.nsw = x.nsw ∧ m.hands = s.m.hands ∧
        (c.startT + 8, .pbitSweep d) ∈ m.agenda ∧ (c.left = 0 → y.queue.head?.any (·.left == n) = true ∧
          ∀ p ∈ y.cells, p.2.count = 0)) ∧
      (c.op = .clr → y.cells = [] ∧ y.owner = none ∧ y.det = false ∧ y.bad = false ∧ y.nsw = 0 ∧ m.hands = s.m.hands ∧
        (c.startT + 64, .pbitCommandComplete d) ∈ m.agenda) ∧
      (∀ v, c.op = .clmp v → y.owner = x.owner ∧ m.hands = s.m.hands ∧ (c.startT + 4, .pbitCommandComplete d) ∈ m.agenda ∧
        (∀ i, (∀ j, j < 32 → (lane v j).toNat % 2 ^ 14 = i → (lane v j).toNat / 2 ^ 14 % 4 = 1) →
          KMap.get {} y.cells i = KMap.get {} x.cells i) ∧
        (∀ j, j < 32 → (∀ j', j < j' → j' < 32 → (lane v j').toNat % 2 ^ 14 ≠ (lane v j).toNat % 2 ^ 14) →
          let p := KMap.get {} y.cells ((lane v j).toNat % 2 ^ 14)
          match (lane v j).toNat / 2 ^ 14 % 4 with
          | 0 => p.clamp = 0
          | 2 => p.clamp = 2 ∧ p.s = false
          | 3 => p.clamp = 3 ∧ p.s = true
          | _ => True)) ∧
      (∀ cnt k res, c.op = .rd cnt k res → y.cells = x.cells ∧ m.hands = s.m.hands ∧ (c.startT + 4, .pbitCommandComplete d) ∈ m.agenda ∧
        ∃ e, y.queue.head?.map (·.val) = some e ∧
          (cnt = true → ∀ j, j < 64 → elem e 16 j = (KMap.get {} x.cells (64 * k + j)).count % 2 ^ 16) ∧
          (cnt = false → ∀ j, j < 1024 → e.getLsbD j = (KMap.get {} x.cells (1024 * k + j)).s)) ∧
      (∀ v, c.op = .seed true v → y.det = false ∧ y.nsw = 0 ∧ y.cells = x.cells ∧ (c.startT + 20, .pbitCommandComplete d) ∈ m.agenda) ∧
      (∀ v, c.op = .seed false v → y.det = true ∧ y.nsw = 0 ∧ (c.startT + 20, .pbitCommandComplete d) ∈ m.agenda ∧ ∀ i, i < 16384 →
        let g := v ^^^ BitVec.ofNat 32 (i * 0x9E3779B9)
        KMap.get {} y.cells i = { KMap.get {} x.cells i with x := if g = 0 then 1 else g }) ∧
      (∀ st b0 nb, c.op = .ld st b0 nb → (∀ k, s.m.rowError k = none) →
        (∀ i, i < 16 * nb → ∃ bs ks, s.m.sliceBytes c.hand (stRowAt st i) 256 = .ok (bs, ks) ∧
          (cellOf bs (KMap.get {} x.cells (16 * b0 + i)).x).isSome = true) →
        (c.startT + 8 + 32 * nb + 1024, .pbitCommandComplete d) ∈ m.agenda ∧
        (∀ i, i < 16 * b0 ∨ 16 * b0 + 16 * nb ≤ i → KMap.get {} y.cells i = KMap.get {} x.cells i) ∧
        (∀ i bs ks, i < 16 * nb → s.m.sliceBytes c.hand (stRowAt st i) 256 = .ok (bs, ks) →
          cellOf bs (KMap.get {} x.cells (16 * b0 + i)).x = some (KMap.get {} y.cells (16 * b0 + i))) ∧
        y.bad = y.clash.isSome)) ∧
  (∀ (d : Die) (b : Int) (n t i : Nat), i < 16384 → let old := KMap.get {} d.cells i
    KMap.get {} (d.cycle b n t).cells i = if old.colour = t then old.step d.cellList.toArray b d.det (Config.entropy (n + i)) else old) ∧
  (∀ (c : PCell) (st : Array PCell) (b : Int) (det : Bool) (noise : W32), let t := c.step st b det noise
    t.x = xorshift c.x ∧ (c.clamp ≠ 0 → t.s = c.s) ∧
    (c.clamp = 0 → t.s = decide ((if det then xorshift c.x else noise).toNat / 2 ^ 20 < sigEntry (sigIndex (c.sum st) b)))) ∧
  (∀ (d : Die) (b : Int) (n i : Nat), i < 16384 → let e := (List.range 8).foldl (fun d t => d.cycle b n t) d
    let old := KMap.get {} e.cells i
    (d.sweep b n).nsw = d.nsw + 1 ∧
    KMap.get {} (d.sweep b n).cells i = (if old.s then { old with count := min 65535 (old.count + 1) } else old)) ∧
  (∀ (s : State) (d : Nat) (c : PbCmd) (t : List PbCmd) (b n : Nat), let x := s.m.die d
    x.queue = c :: t → c.op = .swp b n → c.started = true → c.left ≠ 0 → x.det = true → c.stop = false →
    ∃ m, exec (.pbitSweep d) s = s.goes m ∧ m.mem = s.m.mem ∧ m.hands = s.m.hands ∧
      (m.die d).cells = (x.sweep (BitVec.ofNat 16 b).toInt s.m.freeN).cells ∧ (m.die d).nsw = x.nsw + 1 ∧
      (m.die d).queue = { c with left := c.left - 1 } :: t ∧
      (if c.left = 1 then (s.tb + 4, .pbitCommandComplete d) else (s.tb + 8, .pbitSweep d)) ∈ m.agenda) ∧
  (∀ (s : State) (d : Nat) (c c' : PbCmd) (t : List PbCmd), (s.m.die d).queue = c :: c' :: t → c.started = true → c'.started = false →
    ∃ m, exec (.pbitCommandComplete d) s = s.goes m ∧ m.mem = s.m.mem ∧
      (m.die d).queue = { c' with startT := s.tb } :: t ∧ (s.tb, .pbitCommandStart d) ∈ m.agenda ∧
      m.hand c.hand = ((match c.op with | .rd _ _ res => s.m.supplyQueue s.tb c.hand res c.val | _ => s.m).hand c.hand).completeTok
        s.tb c.push)

/-- The queues of the command processor (17 R336 to R339, R341). The entry of a READY or BLOCKED slot starts: a NOP is done, a SIGNAL
adds its value to its event, a WAIT is done once its event has reached the value and else BLOCKED, a LAUNCH whose hands hold the context
becomes a launch whose first iterations are dealt 41 c later, and is BLOCKED while they do not. An entry that is done moves RD on (at its
completion, log 77, modulo 2^32, log 59), and one whose status cannot be written faults and signals nothing; one
that is malformed faults its queue with kind 1, a malformed record, or one outside the virtual addresses (R328), with kind 2. A pass serves the READY slots by effective priority. -/
def Obligations.QueueEntries : Prop :=
  (∀ (s : State) (i : Nat) (q : QSlot) (e : List Byte), QueueEntry s i q e → entryBad e = false →
    let m := s.m
    let served := fun (t : Mach) => t.modDev (fun d => { d with lastSlot := i })
    let status : W64 := BitVec.ofNat 64 (field e 24 8)
    let ev := field e 4 4
    let at_ : W64 := (s.m.ctx q.ctx).reg 0x07C + BitVec.ofNat 64 (8 * ev)
    (field e 0 1 = 4 → exec (.queueNop i) s = s.goes (served (m.entryDone s.tb i q status 0))) ∧
    (field e 0 1 = 3 → ev = 0 → exec (.queueSignal i) s = s.goes (served (m.entryDone s.tb i q status 0))) ∧
    (field e 0 1 = 3 → ev ≠ 0 → ∀ bs m', m.readAt q.ctx at_ 8 false = .ok bs →
      m.writeAt q.ctx at_ (leBytes 8 (leNat bs + field e 8 8)) false = .ok m' →
      (∀ n, m.entryStatus s.tb q.ctx status 1 0 = .ok n →
        exec (.queueSignal i) s = s.goes (served (m'.entryDone s.tb i q status 0))) ∧
      ∀ f, m.entryStatus s.tb q.ctx status 1 0 = .error f → exec (.queueSignal i) s = s.goes (served (m.faultXl s.tb i q 0 f))) ∧
    (field e 0 1 = 2 → ev = 0 → exec (.queueWait i) s = s.goes (served (m.entryDone s.tb i q status 0))) ∧
    (field e 0 1 = 2 → ev ≠ 0 → ∀ bs, m.readAt q.ctx at_ 8 false = .ok bs → exec (.queueWait i) s =
      s.goes (if field e 8 8 ≤ leNat bs then served (m.entryDone s.tb i q status 0)
        else if q.st = 1 then served (m.putSlot i { q with st := 2 }) else m.putSlot i { q with st := 2 })) ∧
    (let va : W64 := BitVec.ofNat 64 (field e 16 8)
     (field e 0 1 = 1 → va.toNat % 128 ≠ 0 ∨ va.getLsbD 63 = false →
      exec (.queueLaunchStart i) s = s.goes (served (m.faultQueue s.tb i q status 2 va 0 0))) ∧
     (field e 0 1 = 1 → va.toNat % 128 = 0 → va.getLsbD 63 = true → ∀ rec_, m.readAt q.ctx va 128 false = .ok rec_ →
      (launchOf ((s.m.ctx q.ctx).svRead s.tb) q.ctx rec_ = none →
        exec (.queueLaunchStart i) s = s.goes (served (m.faultQueue s.tb i q status 2 va 0 0))) ∧
      (∀ l, launchOf ((s.m.ctx q.ctx).svRead s.tb) q.ctx rec_ = some l →
        (∀ c, c < 72 → l.cset.testBit c = true → s.m.inPart q.ctx c = true) → (∀ r ∈ l.members, (s.m.hand r).ctx = q.ctx) → 0 < l.total →
        (s.m.ctx q.ctx).kept = [] →
        ∃ m' : Mach, exec (.queueLaunchStart i) s = s.goes m' ∧ m'.mem = s.m.mem ∧ m'.hands = s.m.hands ∧ m'.slot? i = some { q with st := 3 } ∧
          m'.dev.lastSlot = i ∧
          m'.dev.launches = s.m.dev.launches ++
            [{ l with id := s.m.nextId, event := ev, status := status, slot := some i, notBefore := s.tb + 41 }] ∧
          ∀ d, d < 4 → l.onDie d ≠ [] → (s.tb + 41, .dealIteration d) ∈ m'.agenda) ∧
      (∀ l r, launchOf ((s.m.ctx q.ctx).svRead s.tb) q.ctx rec_ = some l →
        (∀ c, c < 72 → l.cset.testBit c = true → s.m.inPart q.ctx c = true) → l.members = [r] → (s.m.hand r).ctx ≠ 0 →
        (s.m.hand r).ctx ≠ q.ctx → (s.m.part (s.m.partOf r)).rpMode ≠ 2 → q.asked = [] → (s.m.ctx q.ctx).kept = [] →
        let t := (m.putSlot i { q with st := 2, asked := [(r, (s.m.hand r).ctx)] }).recordFault r
          ⟨0x1D, 0, [BitVec.ofNat 64 (q.ctx + 65536 * l.hand)]⟩
        exec (.queueLaunchStart i) s = s.goes (if q.st = 1 then served t else t))))) ∧
  (∀ (s : State) (i : Nat) (q : QSlot) (e : List Byte) (d : List Byte), QueueEntry s i q e → entryBad e = true → field e 0 1 = 4 →
    s.m.desc q.ctx q.q = some d →
    exec (.queueNop i) s = s.goes (s.m.faultQueue s.tb i q (BitVec.ofNat 64 (field e 24 8)) 1 (entryAddr d q.rd) 0 0)) ∧
  (∀ (m m' : Mach) (now i dealt : Nat) (q : QSlot) (status : W64), m.entryStatus now q.ctx status 1 dealt = .ok m' →
    let t := m.entryDone now i q status dealt
    let rd := (q.rd + 1) % 2 ^ 32
    t.slot? i = some { q with rd := rd, st := if rd = q.wr then 0 else 1, since := now, ready := now + 1, asked := [] } ∧
      (now + 1, .queueSchedulerPass) ∈ t.agenda) ∧
  (∀ (m : Mach) (now i : Nat) (q : QSlot), m.dev.slots = [(i, q)] → ∀ status kind info cause reason,
    (m.faultQueue now i q status kind info cause reason).dev.slots = []) ∧
  (∀ (m : Mach) (now i : Nat), (∀ p ∈ m.dev.slots, p.1 < 64) → m.nextSlot now = some i →
    ∃ q, (i, q) ∈ m.dev.slots ∧ q.st = 1 ∧ q.ready ≤ now ∧ (∀ p ∈ m.dev.slots, p.2.st = 1 → p.2.ready ≤ now →
      min 7 (p.2.prio + (now - p.2.since) / 67200) ≤ min 7 (q.prio + (now - q.since) / 67200))) ∧
  (∀ (s : State), s.m.dev.slots = [] → s.m.dev.ending = [] → s.m.dev.held = [] → s.m.toMap = [] →
    (∀ p ∈ s.m.agenda, p.2 ≠ .queueSchedulerPass) →
    exec .queueSchedulerPass s = s.goes ((s.m.modDev (fun d => { d with passNo := d.passNo + 1 })).post (s.tb + 2100) .queueSchedulerPass)) ∧
  (∀ (m : Mach) (now k q : Nat) (d : List Byte), m.slot? 0 = none →
    (m.mapQueue now (k, q, d)).slot? 0 = some
      ⟨k, q, if field d 12 4 = field d 16 4 then 0 else 1, field d 12 4, field d 16 4, field d 9 1 % 8, now, now, []⟩)

/-- Dealing (17 R330 to R334). A die deals one iteration in a cycle: the next one in sequence goes to its lowest free member, whose
thread stands at ENTRY in all engines with S1 to S4 as the record says; it issues from the next cycle on, or at a co-started launch
when the last of its team is placed. A launch that has no iteration left and no thread is complete: its event rises by 1 and its
queue entry is done. -/
def Sys2Proof.Claims.DealingThreads : Prop :=
  (∀ (s : State) (d r : Nat) (l : Launch), s.m.dev.launches = [l] → l.prio < 8 → l.teams = [] → l.notBefore ≤ s.tb → l.costart = false →
    l.next + 1 < l.total → (s.m.die d).dealtAt ≠ s.tb + 1 → (s.m.part (s.m.ctx l.ctx).part).rpMode ≠ 2 → (∀ p ∈ s.m.ctxs, p.2.moves = []) →
    r ∈ l.members → dieOf (clusterOf r) = d → s.m.freeFor s.tb r l = true →
    (∀ q ∈ l.members, dieOf (clusterOf q) = d → q < r → s.m.freeFor s.tb q l = false) → KMap.get 0 s.m.active (coreOf r) = r % 2 →
    ∃ m : Mach, exec (.dealIteration d) s = s.goes m ∧ m.mem = s.m.mem ∧
      m.hands = s.m.hands.set r ((s.m.hand r).deal s.tb r s.m.nextId l (l.tuple l.next)) ∧
      m.dev.launches = [{ l with next := l.next + 1, dealt := l.dealt + 1, running := l.running + 1 }] ∧
      (m.die d).dealtAt = s.tb + 1 ∧ (s.tb + 1, .dealIteration d) ∈ m.agenda) ∧
  (∀ (s : State) (d : Nat), (s.m.die d).dealtAt = s.tb + 1 → exec (.dealIteration d) s = s.goes s.m) ∧
  (∀ (h : Hand) (now r tid : Nat) (l : Launch) (ix : List Nat), l.preload.length = 4 → (∀ b ∈ l.preload, b < 256) → let t := h.deal now r tid l ix
    t.thread = true ∧ t.launch = l.id ∧ (∀ e, t.engine e = { pc := l.entry }) ∧ t.ring = 0 ∧ t.busy = 0 ∧ t.vclk = 0 ∧ t.pool = 2048 ∧
      (∀ n, t.queue n = []) ∧ (∀ f, t.fifo f = {}) ∧ t.holdTill = now + 1 ∧ t.dealtT = now + 1 ∧ t.tid = tid ∧ t.coWait = l.costart ∧ t.a = h.a ∧
      (∀ j, j < 4 → let b := l.preload.getD j 0
        let i := ix.getD (b % 4) 0
        KMap.get 0 t.s (j + 1) = if 128 ≤ b then BitVec.ofInt 64 (if b.testBit 2 then i * l.strides.getD (b % 4) 0 else i)
          else KMap.get 0 h.s (j + 1)) ∧
      (∀ n, n = 0 ∨ 5 ≤ n → KMap.get 0 t.s n = KMap.get 0 h.s n)) ∧
  (∀ (m : Mach) (now c r : Nat) (l : Launch) (ix : List Nat), (∀ p ∈ m.ctxs, p.2.moves = []) → l.members.filter (fun q => clusterOf q == c) = [r] →
    (m.freeFor now r l = true → ∃ t : Mach, m.placeTeam now l c [ix] = some t ∧ (t.hand r).thread = true ∧ (t.hand r).coWait = false ∧
      (t.hand r).holdTill = now + 1) ∧
    (m.freeFor now r l = false → m.placeTeam now l c [ix] = none)) ∧
  (∀ (s : State) (id : Nat) (l : Launch), s.m.launch? id = some l →
    (l.left = true ∨ l.running ≠ 0 → exec (.launchComplete id) s = s.goes s.m) ∧
    (l.left = false → l.running = 0 → let m := s.m.modDev (fun d => { d with launches := d.launches.filter (fun y => y.id != id) })
      ∀ i q, l.slot = some i → s.m.slot? i = some q →
        (∀ n m', m.entryStatus s.tb q.ctx l.status 1 l.dealt = .ok n → m.signal q.ctx l.event 1 = .ok m' →
          exec (.launchComplete id) s = s.goes (m'.entryDone s.tb i q l.status l.dealt)) ∧
        ∀ f, m.entryStatus s.tb q.ctx l.status 1 l.dealt = .error f → exec (.launchComplete id) s = s.goes (m.faultXl s.tb i q 0 f)))

/-- The order of iterations (17 R330): row-major with i_0 fastest, column-major with the last index fastest, and Z in ascending Morton
code of the first two indices, within the extents, the others outside them. -/
def Sys2Proof.Claims.IterationOrder : Prop :=
  (∀ (l : Launch) (a b c d n : Nat), l.extents = [a, b, c, d] →
    (l.order = 0 → l.tuple n = [n % a, n / a % b, n / a / b % c, n / a / b / c % d]) ∧
    (l.order = 1 → l.tuple n = [n / d / c / b % a, n / d / c % b, n / d % c, n % d])) ∧
  (∀ (l : Launch) (a b n k : Nat), l.order = 2 → l.extents = [a, b] → a ≤ 2 ^ 31 → b ≤ 2 ^ 31 → n < k → k < a * b →
    ∃ x y x' y', l.tuple n = [x, y] ∧ l.tuple k = [x', y'] ∧ x < a ∧ y < b ∧ x' < a ∧ y' < b ∧ morton x y < morton x' y')

/-- Dealing and the order of iterations (17 R330, R331, R333, R334, R422). -/
def Obligations.Dealing : Prop :=
  Sys2Proof.Claims.DealingThreads ∧ Sys2Proof.Claims.IterationOrder

/-- The messages of the command processor (27 R414, R415, 17 R338, R340, R341). One whose number is the next of its source and context is
performed: MEMWR writes, MEMRD and REGRD answer with what they read, REGWR writes a register with ring-1 permissions, NOTIFY gives a queue
its write index, CTXNEW makes a context in its creation state, CTXEND kills one. A duplicate and a message from outside the host table
are dropped and counted (a dropped one does not advance the count, log 71), one ahead of its number is held, also to a context that is yet
to be made, and a fault is answered with its cause. REGRD and REGWR act at their turn, with no wait (log 112). The header's bytes give the
message, one that breaks the layout is dropped (log 24). -/
def Obligations.HostMessages : Prop :=
  (∀ (s : State) (j : JctHdr), HostTurn s j → let k := j.ctx
    let m := s.m.modCtx k (fun x => { x with jctSeq := x.jctSeq.set j.src (j.seq + 1) })
    (∀ q ix, exec (.notify j q ix) s = s.goes (m.notify s.tb k q ix)) ∧
    (∀ va data, data.length % 128 = 0 → data ≠ [] → data.length ≤ 4096 →
      (∀ m', m.writeAt k va data false = .ok m' → exec (.memwr j va data) s = s.goes (m'.kick s.tb)) ∧
      (∀ f, m.writeAt k va data false = .error f → exec (.memwr j va data) s = s.goes (m.reply j 2 f.cause))) ∧
    (∀ va n, (∀ bs, m.readAt k va n false = .ok bs → exec (.memrd j va n) s = s.goes (m.reply j 3 0 bs)) ∧
      (∀ f, m.readAt k va n false = .error f → exec (.memrd j va n) s = s.goes (m.reply j 3 f.cause))) ∧
    (∀ n core v, let w : Who := ⟨k, s.m.hostHand k core⟩
      s.m.hostRefuses k n core = false → cregRing n ≤ 1 → s.m.cregStop w n v = none → m.cregStop w n v = none →
      exec (.regwr j n core v) s = s.goes ((m.cregWrite s.tb w n v).kick s.tb)) ∧
    (∀ n core, let w : Who := ⟨k, s.m.hostHand k core⟩
      s.m.hostRefuses k n core = false →
      exec (.regrd j n core) s = s.goes ((m.cregClear w n).reply j 5 0 (leBytes 8 (m.cregRead s.tb w n).toNat))) ∧
    (s.m.role j.src = some 2 → exec (.ctxend j) s =
      s.goes (((m.killContext s.tb k).modDev (fun d => { d with ending := d.ending ++ [(some j, k)] })).kick s.tb))) ∧
  (∀ (s : State) (j : JctHdr) (p : Nat), s.m.dev.held = [] → s.m.role j.src = some 2 → (s.m.ctx j.ctx).live = false →
    (j.seq = 0 → (s.m.part p).rpMode = 0 → 0 < j.ctx → j.ctx < 65536 → (s.m.ctx j.ctx).ended = false → p < 8 → (∃ c, c < 72 ∧ s.m.clPart c = p) →
      (s.m.ctxs.filter (fun x => x.2.live || x.2.ended)).length < 4096 →
      exec (.ctxnew j p) s = s.goes (s.m.setCtx j.ctx { live := true, part := p, jctSeq := [(j.src, 1)] })) ∧
    (j.ctx = 0 ∨ (s.m.ctx j.ctx).ended = true → exec (.ctxnew j p) s = s.goes (s.m.reply j 8 0x101)) ∧
    (0 < j.ctx → j.ctx < 65536 → (s.m.ctx j.ctx).ended = false → 8 ≤ p ∨ (∀ c, c < 72 → s.m.clPart c ≠ p) →
      exec (.ctxnew j p) s = s.goes (s.m.reply j 8 0x102))) ∧
  (∀ (s : State) (j : JctHdr) (p : Nat) (i : Instr), s.m.role j.src ≠ some 2 → i ∈ [.ctxnew j p, .ctxend j] →
    exec i s = s.goes (s.m.modDev (fun d => { d with dropped := d.dropped + 1 }))) ∧
  (∀ (s : State) (j : JctHdr) (q ix : Nat), s.m.dev.held = [] → (∃ x, s.m.role j.src = some x) → (s.m.ctx j.ctx).live = true →
    (j.seq < (s.m.ctx j.ctx).expected j.src → exec (.notify j q ix) s = s.goes (s.m.modDev (fun d => { d with dropped := d.dropped + 1 }))) ∧
    ((s.m.ctx j.ctx).expected j.src < j.seq →
      exec (.notify j q ix) s = s.goes (s.m.modDev (fun d => { d with held := [⟨j, .notify q ix⟩] })))) ∧
  (∀ (m : Mach) (now k q ix : Nat), let n := ((m.ctx k).reg 0x07D).toNat % 2 ^ 13
    (n ≤ q → m.notify now k q ix = m.modDev (fun d => { d with dropped := d.dropped + 1 })) ∧
    (q < n → ∀ i x, m.dev.slots = [(i, x)] → x.ctx = k → x.q = q →
      (x.st = 3 ∨ x.st = 2 ∧ x.rd ≠ ix → m.notify now k q ix = m.putSlot i { x with wr := ix }) ∧
      (x.st ≤ 2 → x.rd = ix → m.notify now k q ix = m.putSlot i { x with wr := ix, st := 0, since := if x.st = 0 then x.since else now }) ∧
      (x.st = 0 → x.rd ≠ ix → m.notify now k q ix =
        (m.putSlot i { x with wr := ix, st := 1, since := now, ready := now }).serveSlots now [] 64)) ∧
    (q < n → ∀ d, m.dev.slots = [] → m.desc k q = some d →
      m.notify now k q ix = ((m.putDesc k q 16 (leBytes 4 ix)).putDesc k q 10 (leBytes 1 (field d 10 1 ||| 2))).kick now)) ∧
  (∀ (s : State) (j : JctHdr) (q ix : Nat), s.m.dev.held = [] → (∃ x, s.m.role j.src = some x) → (s.m.ctx j.ctx).live = false →
    (s.m.ctx j.ctx).ended = false →
    (j.seq = 0 → exec (.notify j q ix) s = s.goes (s.m.reply j 1 0x100)) ∧
    (0 < j.seq → exec (.notify j q ix) s = s.goes (s.m.modDev (fun d => { d with held := [⟨j, .notify q ix⟩] })))) ∧
  (∀ (m : Mach) (now src : Nat) (bs : List Byte), let h : JctHdr := ⟨src, field bs 2 2, field bs 4 4⟩
    let va : W64 := BitVec.ofNat 64 (field bs 8 8)
    let reads := fun (end_ type : Nat) (m' : Mach) => 16 ≤ bs.length → field bs 0 1 = type → field bs 1 1 = 0 → m.message now end_ src bs = m'
    (field bs 10 2 = 0 → reads 1 1 (m.jct now ⟨h, .notify (field bs 8 2) (field bs 12 4)⟩)) ∧
    reads 1 2 (m.jct now ⟨h, .memwr va (bs.drop 16)⟩) ∧ reads 1 3 (m.jct now ⟨h, .memrd va (field bs 16 4)⟩) ∧
    (field bs 10 2 = 0 → field bs 14 2 = 0 →
      reads 1 4 (m.jct now ⟨h, .regwr (field bs 8 2) (field bs 12 2) (BitVec.ofNat 64 (field bs 16 8))⟩) ∧
      reads 1 5 (m.jct now ⟨h, .regrd (field bs 8 2) (field bs 12 2)⟩)) ∧
    (field bs 9 7 = 0 → reads 1 8 (m.jct now ⟨h, .ctxnew (field bs 8 1)⟩)) ∧
    (field bs 8 8 = 0 → reads 1 9 (m.jct now ⟨h, .ctxend⟩) ∧ reads 2 6 (m.attest now h ((bs.drop 16).take 48)) ∧ reads 2 7 (m.haltlog h)) ∧
    (bs.length < 16 ∨ field bs 1 1 ≠ 0 → ∀ e, m.message now e src bs = m.modDev (fun d => { d with dropped := d.dropped + 1 }))) ∧
  (readJct 1 7 [0x01, 0x00, 0x03, 0x00, 0x10, 0x00, 0x00, 0x00, 0x02, 0x00, 0x00, 0x00, 0x05, 0x00, 0x00, 0x00] =
    some (.command ⟨⟨7, 3, 0x10⟩, .notify 2 5⟩)) ∧
  (∀ (m : Mach) (k : Nat) (j : JctHdr), m.dev.ending = [(some j, k)] → m.gone k = true →
    m.endKills.ctx k = {} ∧ m.endKills.dev.ending = [] ∧ m.endKills.dev.answers = m.dev.answers ++ [⟨j.src, 9, j.ctx, j.seq, 0, []⟩])

/-- The security core (27 R418 to R421). A report holds the nonce, TB, the digests and versions of the accepted images and what is left of
the signatures, its index used up before it is formed; without one left it has no HSS signature. HALTLOG returns BOOTST, and of a
halted package the record. An image is accepted only where both signatures verify, its digest is right, its version is not below the fuse
counter and its key is not revoked; only when all are accepted do the counters advance. A die with more than one retired cluster keeps the
package in reset, with code 6 and the die, and so does a boot that has failed. The bytes that the signatures cover (log 9), the order
of the failure codes (log 93), the fuses that advance on a die then stopped and the kept code (log 107), the codes of a lacking class,
a length and a version out of range (log 133) and the layouts of the answers (logs 14, 24) are the model's. After a reset a zone without liquid is DRY, and the bands of
its clusters are FORCED (20 R392). -/
def Obligations.SecurityCore : Prop :=
  (∀ (s : State) (j : JctHdr) (nonce : List Byte) (x : Nat), s.m.role j.src = some x → nonce.length = 48 →
    ∃ bs ecdsa hss, exec (.attest j nonce) s = s.goes ((s.m.modDev (fun d => { d with sigBudget := d.sigBudget - 1 })).reply j 6 0
        (bs ++ ecdsa ++ hss)) ∧
      bs.length = 208 ∧ ecdsa.length = 96 ∧ bs.take 48 = nonce ∧ field bs 48 8 = s.tb % 2 ^ 64 ∧ field bs 203 1 = 0 ∧
      field bs 204 4 = (s.m.dev.sigBudget - 1) % 2 ^ 32 ∧ hss = (if s.m.dev.sigBudget = 0 then [] else Config.hssSign (2 ^ 20 - s.m.dev.sigBudget) bs) ∧
      (∀ c, c < 3 → (KMap.get [] s.m.dev.digests c).length = 48 → (bs.drop (56 + 48 * c)).take 48 = KMap.get [] s.m.dev.digests c) ∧
      (∀ c, c < 3 → KMap.get 0 s.m.dev.svns c < 64 → field bs (200 + c) 1 = KMap.get 0 s.m.dev.svns c)) ∧
  (∀ (s : State) (j : JctHdr) (x : Nat), s.m.role j.src = some x →
    (s.m.halted = none → exec (.haltlog j) s = s.goes (s.m.reply j 7 0 (leBytes 8 s.m.dev.bootst.toNat))) ∧
    (∀ h, s.m.halted = some h → ∃ crs, exec (.haltlog j) s = s.goes (s.m.reply j 7 0 (leBytes 8 s.m.dev.bootst.toNat ++ h.record ++ crs)) ∧
      ∀ r, r < 576 → (crs.drop (8 * r)).take 8 = leBytes 8 (KMap.get 0 h.crs r).toNat)) ∧
  (∀ (s : State) (j : JctHdr) (nonce : List Byte) (i : Instr), s.m.role j.src = none → i ∈ [.attest j nonce, .haltlog j] →
    exec i s = s.goes (s.m.modDev (fun d => { d with dropped := d.dropped + 1 }))) ∧
  (∀ (s : State) (ims : List FwImage), ∃ m : Mach, exec (.bootVerification ims) s = s.goes m ∧ m.mem = s.m.mem ∧ m.hands = [] ∧
    (∀ a im b, ims = a ++ im :: b → (∀ x ∈ a, s.m.bootCode x = 0) → s.m.bootCode im ≠ 0 → im.cls < 256 →
      m.dev.bootst = BitVec.ofNat 64 (s.m.bootCode im + 256 * im.cls) ∧ m.stopped = true ∧ m.dev.fuses = s.m.dev.fuses) ∧
    ((∀ im ∈ ims, s.m.bootCode im = 0) →
      (∀ c, c < 3 → (∀ im ∈ ims, im.cls ≠ c) → (∀ b, b < c → ∃ im ∈ ims, im.cls = b) →
        m.dev.bootst = BitVec.ofNat 64 (1 + 256 * c) ∧ m.stopped = true ∧ m.dev.fuses = s.m.dev.fuses) ∧
      ((∀ c, c < 3 → ∃ im ∈ ims, im.cls = c) →
        (s.m.brokenDie = none → m.dev.bootst = 0) ∧
        (∀ d, s.m.brokenDie = some d → m.dev.bootst = BitVec.ofNat 64 (6 + 256 * d) ∧ m.stopped = true) ∧
        (∀ c v, KMap.get 0 m.dev.fuses c ≤ v ↔ KMap.get 0 s.m.dev.fuses c ≤ v ∧ ∀ im ∈ ims, im.cls = c → im.svn ≤ v) ∧
        ∀ im ∈ ims, (∀ x ∈ ims, x.cls = im.cls → x = im) → KMap.get [] m.dev.digests im.cls = im.digest ∧ KMap.get 0 m.dev.svns im.cls = im.svn))) ∧
  (∀ (m : Mach) (im : FwImage), m.bootCode im = 0 ↔
    im.ecdsa.length = 96 ∧ Config.verifies im.key im.ecdsa (Config.sha384 (FwImage.header im)) = true ∧
    im.lms.length = 2668 ∧ Config.verifies im.key im.lms (FwImage.header im) = true ∧ KMap.get 0 m.dev.fuses im.cls ≤ im.svn ∧ im.svn ≤ 63 ∧
    (∃ i, i < Config.keySlots ∧ i ∉ m.dev.revoked ∧ Config.keyHash i = Config.sha384 im.key) ∧ Config.sha384 im.body = im.digest) ∧
  (∀ (m : Mach) (d : Nat), m.brokenDie = some d → 1 < (KMap.get [] m.dev.retired d).length) ∧
  (∀ (s : State), ∃ m : Mach, exec .deviceReset s = s.goes m ∧ m.mem = s.m.mem ∧ m.hands = [] ∧ m.dies = [] ∧ m.ctxs = [] ∧
    m.parts = [] ∧ m.halted = none ∧
    (∀ z, ((m.zone z).st = if (s.m.zone z).liq then .wet else .dry) ∧ (m.zone z).valve = 0) ∧
    (∀ c, c < 72 → m.cluster c = if (s.m.zone (s.m.zoneOf c)).liq then {}
      else { bands := (List.range 4).map (fun b => (b, { st := .forced, since := s.tb })) }) ∧
    m.dev.bootst = (if s.m.dev.bootst.toNat % 2 ^ 8 ≠ 0 then s.m.dev.bootst
      else match s.m.brokenDie with | none => 0 | some d => BitVec.ofNat 64 (6 + 256 * d)) ∧ m.dev.tboff = 0 ∧ m.dev.sigBudget = s.m.dev.sigBudget ∧ m.dev.fuses = s.m.dev.fuses)

/-- Boost leases (20 R381, R386). A request above the base grant and within its time is REQUESTED, and the controller's answer is due in 100
microseconds; any other changes nothing. A granted one is ACTIVE for 1,000 times its time and raises the level; a denied one is DENIED.
A withdrawal ends a request, and an expiry a lease. -/
def Obligations.BoostLeases : Prop :=
  (∀ (s : State) (r : Nat) (v : W64), let h := s.m.hand r
    let lvl := v.toNat % 2 ^ 3
    let ms := v.toNat / 2 ^ 16 % 2 ^ 9
    let base := (s.m.part (s.m.clPart (clusterOf r))).base
    lvl ≠ 0 →
    (lvl ≤ base ∨ ms = 0 ∨ 500 < ms ∨ h.boostSt = 1 ∨ h.boostSt = 2 ∨ h.boostSt = 3 → exec (.boostRequest r v) s = s.goes s.m) ∧
    (base < lvl → 1 ≤ ms → ms ≤ 500 → h.boostSt = 0 ∨ h.boostSt = 4 → ∃ m : Mach, exec (.boostRequest r v) s = s.goes m ∧ m.mem = s.m.mem ∧
      m.hands = s.m.hands.set r { h with boostSt := 1, boostLvl := lvl, boostLeft := 1050000 * ms, boostEnd := s.tb + 10500, boostAgain := false } ∧
      m.agenda = agendaAdd (s.tb + 10500) (.boostAnswer r (Config.boostGranted r s.m.freeN)) s.m.agenda)) ∧
  (∀ (s : State) (r : Nat), let h := s.m.hand r
    h.boostSt ≠ 2 → h.boostSt ≠ 3 →
    exec (.boostWithdraw r) s = s.goes (s.m.setHand r { h with boostSt := 0, boostLvl := 0, boostEnd := 0, boostLeft := 0, boostAgain := false })) ∧
  (∀ (s : State) (r : Nat) (i : Instr), let h := s.m.hand r
    let p := s.m.clPart (clusterOf r)
    h.boostSt = 2 → h.boostEnd ≤ s.tb → i ∈ [.boostWithdraw r, .boostExpiry r] →
    ∃ m : Mach, exec i s = s.goes m ∧ m.hands = s.m.hands.set r { h with boostSt := 0, boostLvl := 0, boostEnd := 0, boostLeft := 0, boostAgain := false } ∧
      (m.part p).eff = max (s.m.part p).base (m.leaseLevel p) ∧ (m.part p).base = (s.m.part p).base) ∧
  (∀ (s : State) (r : Nat), (s.m.hand r).boostSt ≠ 2 ∨ s.tb < (s.m.hand r).boostEnd → exec (.boostExpiry r) s = s.goes s.m) ∧
  (∀ (s : State) (r : Nat) (g : Bool), let h := s.m.hand r
    let p := s.m.clPart (clusterOf r)
    (h.boostSt ≠ 1 → exec (.boostAnswer r g) s = s.goes s.m) ∧
    (h.boostSt = 1 → h.boostEnd ≤ s.tb → (s.m.part p).rpMode = 0 →
      (∃ m : Mach, exec (.boostAnswer r false) s = s.goes m ∧ m.hands = s.m.hands.set r { h with boostSt := 4 }) ∧
      (h.aside = false → h.draining = false → ∃ m : Mach, exec (.boostAnswer r true) s = s.goes m ∧
        m.hands = s.m.hands.set r { h with boostSt := 2, boostEnd := s.tb + h.boostLeft } ∧
        (m.part p).eff = max (s.m.part p).base (m.leaseLevel p) ∧ (s.tb + h.boostLeft, .boostExpiry r) ∈ m.agenda)))

/-- The power and coolant controller (20 R381, R382, R387, R390, R391). A window gives a partition whose zones are all WET the base grant 6, brings
its level up to date, and starts or ends its throttle as its draw stands to its clusters' caps of that level (in tenths of a watt); the next window is due 10 microseconds later. A grant of
coolant is a zone's clamped request, within floor and ceiling; a zone that is not WET has none. A sample takes over what the sensors
say; at TTRAP a zone is HOT and a thermal fault with reason 1 is recorded for its hand; at TCRIT it is CRIT, every band of its
clusters is FORCED and one with reason 2 is recorded; CRIT then stands until the temperature is below TTRAP (log 65). -/
def Obligations.PowerAndSensors : Prop :=
  (∀ (s : State), ∃ m : Mach, exec .powerWindow s = s.goes m ∧ (s.tb + 10500, .powerWindow) ∈ m.agenda) ∧
  (∀ (m : Mach) (now p : Nat), (∃ c, c < 72 ∧ m.clPart c = p) → (∀ z, z < 64 → m.zonePart z = p → (m.zone z).st = .wet) →
    let t := m.windowPart now p
    (t.part p).base = 6 ∧ (t.part p).eff = max 6 (m.leaseLevel p) ∧ (t.part p).throttle =
      (decide (m.partCap p < Config.measuredDraw p m.freeN) || (m.part p).throttle && decide (m.partCap p ≤ Config.measuredDraw p m.freeN))) ∧
  (∀ (m : Mach) (p : Nat), (m.part p).eff ≤ 7 → m.partCap p = ((List.range 72).filter (fun c => m.clPart c == p)).length *
    [80, 120, 160, 200, 240, 270, 305, 360].getD (m.part p).eff 0) ∧
  (∀ (m : Mach) (now p : Nat), (∀ c, c < 72 → m.clPart c ≠ p) → m.windowPart now p = m) ∧
  (∀ (m : Mach) (z : Nat), z < 64 → let x := m.zone z
    let g := (m.regrant.zone z).grant
    let floor := x.cfg.toNat / 2 ^ 8 % 2 ^ 8
    let ceil := x.cfg.toNat / 2 ^ 16 % 2 ^ 8
    (x.st ≠ .wet → g = 0) ∧ (x.st = .wet → floor ≤ ceil → floor ≤ g ∧ g ≤ ceil ∧ (m.leaseLevel (m.zonePart z) ≠ 0 → g = ceil)) ∧
    (((List.range 64).map (fun z => (m.zoneWant z).2)).sum ≤ 8160 → x.st = .wet → m.leaseLevel (m.zonePart z) = 0 →
      g = min ceil (max floor x.req))) ∧
  (∀ (s : State), ∃ m : Mach, exec .sensorSample s = s.goes m ∧ m.freeN = s.m.freeN + 1 ∧ (s.tb + 1050, .sensorSample) ∈ m.agenda ∧
    ∀ z, z < 64 → (m.zone z).temp = (Config.sensorTemp z s.m.freeN).toNat ∧ (m.zone z).liq = Config.sensorLiquid z s.m.freeN ∧
      (m.zone z).valve = (Config.sensorValve z s.m.freeN).toNat) ∧
  (∀ (m : Mach) (now n z : Nat), let x := m.zone z
    let t := (Config.sensorTemp z n).toNat
    let ttrap := x.cfg.toNat / 2 ^ 40 % 2 ^ 10
    let tcrit := x.cfg.toNat / 2 ^ 50 % 2 ^ 10
    let y := m.sampleZone now n z
    ((y.zone z).hot = if x.hot then decide (ttrap < t + 8) else decide (ttrap ≤ t)) ∧
    ((y.zone z).crit = if x.crit then decide (ttrap ≤ t) else decide (tcrit ≤ t)) ∧
    (x.crit = false → tcrit ≤ t → ∀ c b, c < 72 → m.zoneOf c = z → b < 4 → ((y.cluster c).band b).st = .forced) ∧
    ((∃ c, c < 72 ∧ m.zoneOf c = z) → x.hot = false → x.crit = false → (m.part (m.partOf (m.zoneHand z))).rpMode ≠ 2 →
      (tcrit ≤ t → (∀ c, c < 72 → (m.cluster c).cmds = []) ∧ ∀ p ∈ m.hands, p.2.cmdSaved = []) →
      (m.hand (m.zoneHand z)).pending.length < 7 →
      (y.hand (m.zoneHand z)).pending = (m.hand (m.zoneHand z)).pending ++
        (if ttrap ≤ t then [⟨0x17, 1, [BitVec.ofNat 64 z, BitVec.ofNat 64 t]⟩] else []) ++
        (if tcrit ≤ t then [⟨0x17, 2, [BitVec.ofNat 64 z, BitVec.ofNat 64 t]⟩] else [])))

/-- Evacuation of a coolant zone (20 R389, R392). ZCMD 1 on a WET zone forces its bands, and it drains once no command runs on them; each state
is left when its least time is over and its conditions hold, and one that is not left in 2 s stays with a machine-check, unit 6. ZCMD 2
on a DRY zone refills it. Elsewhere ZCMD changes nothing. -/
def Obligations.Evacuation : Prop :=
  (∀ (s : State) (r : Nat), let z := ((s.m.hand r).creg 0x0A8).toNat % 2 ^ 6
    ((s.m.zone z).st ≠ .wet → exec (.zcmdEvacuate r) s = s.goes s.m) ∧
    ((s.m.zone z).st = .wet → ∃ m : Mach, exec (.zcmdEvacuate r) s = s.goes m ∧ m.mem = s.m.mem ∧
      (m.zone z).evac = true ∧ (m.zone z).st = .wet ∧ (s.tb, .evacStateAdvance z) ∈ m.agenda ∧
      ((s.m.zone z).crit = false → (∀ c, c < 72 → (s.m.cluster c).cmds = []) →
        ∀ c b, c < 72 → s.m.zoneOf c = z → b < 4 → ((m.cluster c).band b).st = .forced)) ∧
    ((s.m.zone z).st ≠ .dry → exec (.zcmdRefill r) s = s.goes s.m) ∧
    ((s.m.zone z).st = .dry → ∃ m : Mach, exec (.zcmdRefill r) s = s.goes m ∧ Entered s m z .refilling)) ∧
  (∀ (s : State) (z : Nat), let x := s.m.zone z
    let go := exec (.evacStateAdvance z) s
    let late : Prop := x.since + 2100000000 ≤ s.tb
    let stuck : Mach := (s.m.modZone z (fun y => { y with fail := true })).zoneFault z ⟨0x1F, 0, [6, BitVec.ofNat 64 z]⟩
    let leaves := fun (st : ZoneSt) (since : Nat) (ready : Prop) (to_ : ZoneSt) =>
      x.st = st → (x.since + since ≤ s.tb ∧ ready → ∃ m : Mach, go = s.goes m ∧ Entered s m z to_) ∧
        (¬(x.since + since ≤ s.tb ∧ ready) → (¬late → go = s.goes s.m) ∧ (late → go = s.goes stuck))
    x.fail = false →
    (x.st = .dry → go = s.goes s.m) ∧
    (x.st = .wet → x.evac = false → go = s.goes s.m) ∧
    (x.st = .wet → x.evac = true → s.m.zoneRuns z = true → go = s.goes (s.m.post (s.tb + 1) (.evacStateAdvance z))) ∧
    (x.st = .wet → x.evac = true → s.m.zoneRuns z = false → ∃ m : Mach, go = s.goes m ∧ Entered s m z .draining) ∧
    leaves .draining 52500000 (x.liq = false) .purging ∧
    leaves .purging 105000000 (∃ t, x.dryAt = some t ∧ t + 21000000 ≤ s.tb) .dry ∧
    leaves .refilling 210000000 (x.liq = true ∧ ∃ t, x.nearAt = some t ∧ t + 10500000 ≤ s.tb) .wet ∧
    (x.st ≠ .wet → x.st ≠ .dry → (¬late → exec (.evacTimeout z) s = s.goes s.m) ∧ (late → exec (.evacTimeout z) s = s.goes stuck))) ∧
  (∀ (s : State) (z : Nat), (s.m.zone z).fail = true → exec (.evacStateAdvance z) s = s.goes s.m ∧ exec (.evacTimeout z) s = s.goes s.m)

/-- Replay, time and links (21 R395, R401, 27 R413, R416). A record that is still the next one when its time is over makes the replay diverge:
RPSTAT.DIV is set and every thread of the partition has a machine-check of unit 8 with the index recorded. A recording that is to stop with
a full ring stops once what waits for room has been written (R402). A PTP exchange steps TBOFF; a link
change sets what its port shows (27 R417), a size above 2,048 GiB cut to it (log 106). -/
def Obligations.ReplayTimeAndLinks : Prop :=
  (∀ (s : State) (p ix : Nat), let x := s.m.part p
    (ix ≠ stopIndex → x.rpMode = 2 → x.rpr = ix → x.rpw ≠ x.rpr → x.rpDue ≤ s.tb → x.rpstat ≠ 1 → ∃ m : Mach, exec (.replayDivergence p ix) s = s.goes m ∧ m.mem = s.m.mem ∧
      (m.part p).rpstat = 1 ∧ ∀ r, (∃ h, (r, h) ∈ s.m.hands) → (s.m.hands.map (·.1)).Nodup → (s.m.hand r).pending.length < 8 →
        (m.hand r).pending = (s.m.hand r).pending ++
          (if (s.m.hand r).thread = true ∧ s.m.partOf r = p then [⟨0x1F, 0, [8, BitVec.ofNat 64 ix]⟩] else [])) ∧
    (ix ≠ stopIndex → x.rpMode ≠ 2 ∨ x.rpr ≠ ix ∨ x.rpw = x.rpr ∨ s.tb < x.rpDue → exec (.replayDivergence p ix) s = s.goes s.m) ∧
    let again := fun (n : Nat) => s.goes ((s.m.setPart p { x with rpStop := n }).post (s.tb + 1) (.replayDivergence p stopIndex))
    (x.rpMode ≠ 1 ∨ x.rpStop = 0 → exec (.replayDivergence p stopIndex) s = s.goes s.m) ∧
    (x.rpMode = 1 → x.rpStop ≠ 0 → x.logFull = true → exec (.replayDivergence p stopIndex) s = again 1) ∧
    (x.rpMode = 1 → x.rpStop = 1 → x.logFull = false → exec (.replayDivergence p stopIndex) s = again 2) ∧
    (x.rpMode = 1 → 2 ≤ x.rpStop → x.logFull = false → ∃ m, exec (.replayDivergence p stopIndex) s = s.goes m ∧ m.mem = s.m.mem ∧
      m.hands = s.m.hands ∧ (m.part p).rpMode = 0 ∧ (m.part p).rpw = 0 ∧ (m.part p).rpr = 0)) ∧
  (∀ (m : Mach) (now p : Nat) (v : W64), v.toNat % 4 = 0 → (m.part p).logFull = true → m.rpctlWrite now p v =
    (m.modPart p (fun x => { x with rpStop := 1 })).post (now + 1) (.replayDivergence p stopIndex)) ∧
  (∀ (s : State) (o : W64), exec (.ptpMessage o false) s = s.goes (s.m.modDev (fun d => { d with tboff := o, tbsync := 1 })) ∧
    exec (.ptpMessage o true) s = s.goes (s.m.modDev (fun d => { d with tboff := o, tbsync := (d.tbsync &&& 1) ||| 2 }))) ∧
  (∀ (s : State) (p wid rate g : Nat) (up : Bool), p < 4 → wid ≤ 16 → rate < 8 → exec (.cxlLinkChange p up wid rate g) s =
    s.goes (s.m.modDev (fun d => { d with
      cxlst := d.cxlst.set p (BitVec.ofNat 64 (min g 2048 * 2 ^ 32 + wid % 16 * 16 + rate * 2 + up.toNat)), cxlGib := d.cxlGib.set p (min g 2048) }))) ∧
  (∀ (s : State) (p : Nat) (up : Bool), p < 16 →
    exec (.uePortLinkChange p up) s = s.goes (s.m.modDev (fun d => { d with uePort := d.uePort.set p up })))

/-- A step runs the decoded word (03 R39, R52, R54, 07 R145, 19 R364, log 1). When an engine of a running hand has its turn, the next word that it
decodes stands at its PC or behind words of other tags, is due and neither held back nor compared by a breakpoint, and the other
engines have arrived where the word is a rendezvous, the step is exec of the decoded instruction, with the PC and the word counter past
the other words and the turn passed on; a word that decodes to nothing takes illegal-instruction with its reason instead. An event that
is due runs the same way, of two the one whose turn at the banks comes first (06 R116); a stopped package serves only what still acts. -/
def Obligations.StepRunsTheDecodedWord : Prop :=
  (∀ (s : State) (r : Nat) (e : Engine) (k : Nat) (w : W64), let h := s.m.hand r
    let x := h.engine e
    let pc := x.pc + BitVec.ofNat 64 (8 * k)
    let passed := s.m.modHand r (fun h => h.modEngine e (fun x => { x with pc := pc, words := x.words + k }))
    let s' : State := { s with turn := s.m.turnAfter r e, cur := r, eng := e, m := passed }
    s.m.bad = none → s.m.stopped = false → s.turn = .attempt r e → h.holdTill ≤ s.tb → h.barTill ≤ s.tb → h.blocked = none → s.m.live r = true → x.arrived = false →
    scanWords e ((s.m.textOf r).drop (x.pc.toNat / 8)) = (k, some w) →
    x.prev + 1 + (if x.anew then 0 else waitOf e (some w)) ≤ h.vclk → x.notBefore ≤ h.vclk →
    s.m.heldCode s.tb r e = none → (∀ f, f ≠ e → x.words + k + 1 ≤ (h.engine f).words + (h.creg 0x021).toNat % 2 ^ 13) →
    h.breaks e pc = false → (wordTag w = 0 → meets h e w = true → othersArrived h e = true) →
    (∀ i, decode w = .ok i → step s = exec i s') ∧
    (∀ f, decode w = .error f → step s = s'.goes (s'.m.trap s.tb r
      { f := ⟨1, f.reason, []⟩, eng := (if wordTag w = 0 then 3 else engNo e), word := w }))) ∧
  (∀ (s : State) (j : Nat) (i : Instr), s.m.bad = none → s.turn = .serve ∨ s.turn = .tick →
    s.m.nextDue s.tb (s.turn == .serve) = some (j, i) → let s' : State := { s with m := { s.m with agenda := s.m.agenda.eraseIdx j } }
    (s.m.stopped = false ∨ actsHalted i = true → step s = exec i s') ∧
    (s.m.stopped = true → actsHalted i = false → step s = .next s')) ∧
  (∀ (m : Mach) (now : Nat) (early : Bool) (t : Nat) (i : Instr) (l : List (Nat × Instr)), m.agenda = (t, i) :: l → t ≤ now →
    (early = true → m.lateFrame i = false) → (∀ p ∈ l, now < p.1) → m.nextDue now early = some (0, i)) ∧
  (∀ (m : Mach) (now : Nat) (early : Bool) (t u : Nat) (i j : Instr), m.agenda = [(t, i), (u, j)] → t ≤ now → u ≤ now →
    m.lateFrame i = false → m.lateFrame j = false →
    m.nextDue now early = if m.bankTurn now j < m.bankTurn now i then some (1, j) else some (0, i))

/-- Every instruction and event runs, in every state, to a next state that keeps TB and the turn; a step stops only where a ring
that a register names was written at an address without memory. TB advances by 1, at the end of a cycle with nothing due
(21 R395; the order of turns is the model's, log 1, and so is the stop at absent memory, log 91). -/
def Obligations.EveryStepGoesOn : Prop :=
  (∀ (i : Instr) (s : State), ∃ m, exec i s = .next { s with m := m }) ∧
  (∀ (s : State), (s.m.bad = none → ∃ t, step s = .next t) ∧ (∀ a, s.m.bad = some a → step s = .fault (.absentMemory a))) ∧
  (∀ (s t : State), step s = .next t → t.tb = s.tb ∨ t.tb = s.tb + 1 ∧ s.turn = .tick ∧ t.turn = .serve ∧
    ∀ p, s.m.agenda.head? = some p → s.tb < p.1)

/-- Words printed by the spec decode to the instructions they stand for (03 R45, 09 R185, 10 R199). -/
def Obligations.PrintedWordsDecode : Prop :=
  decode 0x8037_4001_802B_01C6 = .ok (.vfadd ⟨⟨3, 1, 3⟩, 12, 10, 1539, true, false, false, 6⟩) ∧
  decode 0x4000_1201_8537_0040 = .ok (.vld ⟨⟨0, 0, 0⟩, 12, 5, 6, 7, 64⟩) ∧
  decode 0x4000_3800_E300_08F1 = .ok (.fwr ⟨⟨0, 0, 0⟩, 7, 3, 0x0008F1⟩) ∧
  decode 0x8000_5834_0004_0104 = .ok (.vcmp ⟨⟨0, 0, 0⟩, 416, 1, 2, false, false, false, 4⟩) ∧
  decode 0x0000_0541_0600_0005 = .ok (.brx ⟨⟨0, 0, 0⟩, 2, 2, 3, 5⟩) ∧
  decode 0xC000_0632_1000_3001 = .ok (.mma ⟨⟨0, 0, 0⟩, 3, 2, 1, 0, 96, 1⟩) ∧
  decode 0xC000_1410_0002_0140 = .ok (.acmv ⟨⟨0, 0, 0⟩, 1, 0, 4, 20, 0⟩) ∧
  decode 0x8000_7A00_4240_0100 = .ok (.tsr ⟨⟨0, 0, 0⟩, 0, 0x109, 0x100⟩) ∧
  decode 0x0000_0D10_0000_0004 = .ok (.sys ⟨⟨0, 0, 0⟩, 1, 4⟩) ∧
  decode 0x001C_0000_0000_0000 = .error .tokenField

/-- Decode and encode agree: the word of every well-formed instruction, with every operand at every value its fields hold, decodes to that
instruction (03 R38, R45, R48 to R51). -/
def Obligations.DecodeOfEncode : Prop :=
  ∀ (i : Instr) (w : W64), encode i = some w → i.check = none → decode w = .ok i

/-- A byte of memory reads as it was last written, and a write leaves every other byte alone; wide reads and writes hold the least
significant byte at the lowest address (00 R1). Every write keeps the one canonical form of memory (log 3). -/
def Obligations.MemoryReadAfterWrite : Prop :=
  (∀ (mem : Memory) (k j : Nat) (v : Byte), mem.wf = true → (mem.write k v).wf = true ∧
    (mem.write k v).read j = if j = k then v else mem.read j) ∧
  (∀ (mem : Memory) (k j : Nat) (bs : List Byte), mem.wf = true → (mem.writeN k bs).wf = true ∧
    (mem.writeN k bs).read j = if k ≤ j ∧ j < k + bs.length then bs.getD (j - k) 0 else mem.read j) ∧
  (∀ (mem : Memory) (k n v : Nat), mem.wf = true → leNat ((mem.writeN k (leBytes n v)).readN k n) = v % 2 ^ (8 * n)) ∧
  (∀ (a b : Memory), a.wf = true → b.wf = true → (∀ k, a.read k = b.read k) → a = b)

/-- Every step keeps memory in its canonical form, whatever the instruction or event (log 3). -/
def Obligations.MemoryStaysCanonical : Prop :=
  ∀ (s t : State), s.memWf = true → step s = .next t → t.memWf = true

/-- The machine right after reset (19 R361, 07 R149, 08 R162, 11 R225, 12 R244, 17 R317, 20 R389, R423, 21 R395): TB is 0, no hand holds a thread
or a context, every register that the maps give a value has it, the array bands are ON, every cluster is in partition 0, and memory
is in its canonical form. That every queue is empty and the pool holds its 2,048 entries before the first deal is the model's choice (log 4). -/
def Obligations.ResetState : Prop :=
  State.reset.tb = 0 ∧ State.reset.memWf = true ∧ State.reset.m.halted = none ∧ State.reset.m.bad = none ∧
  ∀ r, r < 576 → let m := State.reset.m
    let h := m.hand r
    let reads := fun (n : Nat) (v : W64) => m.cregRead 0 ⟨0, r⟩ n = v
    h.thread = false ∧ h.ctx = 0 ∧ h.ring = 0 ∧ h.busy = 0 ∧ h.pool = 2048 ∧ h.vclk = 0 ∧ h.xflags = 0 ∧ (∀ n, h.queue n = []) ∧
    (∀ f, h.fifo f = {}) ∧ reads 0x000 0 ∧ reads 0x001 tringReset ∧ reads 0x021 512 ∧ reads 0x022 0x01000000 ∧ reads 0x030 0 ∧
    reads 0x031 0 ∧ reads 0x038 0x20E98 ∧ reads 0x039 0x41EB8 ∧ reads 0x03A 0x676 ∧ reads 0x03B 0x256 ∧ reads 0x03C 0x254 ∧
    reads 0x040 32 ∧ reads 0x042 15 ∧ reads 0x048 0x00FF0800 ∧ reads 0x04A 0x3F800000 ∧ reads 0x0A0 0 ∧ reads 0x0B0 0 ∧ reads 0x0B8 0 ∧
    (∀ b, ((m.cluster (clusterOf r)).band b).st = .on) ∧ m.clPart (clusterOf r) = 0 ∧ (∀ z, (m.zone z).cfg = 0xF5A1400000FF2000)
end

