-- ==== Sys2Proof/Laws/Issue.lean ====
section
/-! SUPPORT. The frame of a word said once: when its checks pass it issues and has its effect, and otherwise it stops
and nothing of its effect happens. -/

namespace Sys2Proof.Machine

@[simp] theorem firstStop_nil : firstStop [] = none := rfl
@[simp] theorem firstStop_none (l : List (Option Stop)) : firstStop (none :: l) = firstStop l := rfl
@[simp] theorem firstStop_some (x : Stop) (l : List (Option Stop)) : firstStop (some x :: l) = some x := rfl

/-- No stop is found exactly where no check gives one. -/
theorem firstStop_eq_none {l : List (Option Stop)} : firstStop l = none ↔ ∀ o ∈ l, o = none := by
  induction l with
  | nil => simp
  | cons o t ih => cases o <;> simp [ih]

@[simp] theorem freezeIf_eq_none {b : Bool} {c i : Nat} : freezeIf b c i = none ↔ b = false := by
  cases b <;> simp [freezeIf]
@[simp] theorem trapIf_eq_none {b : Bool} {c r : Nat} {l : List W64} : trapIf b c r l = none ↔ b = false := by
  cases b <;> simp [trapIf, trapOf]
@[simp] theorem freezeIf_false {c i : Nat} : freezeIf false c i = none := rfl
@[simp] theorem trapIf_false {c r : Nat} {l : List W64} : trapIf false c r l = none := rfl

theorem Hand.popStop_eq_none {h : Hand} {now f : Nat} :
    h.popStop now f = none ↔ (f ≠ 0 → 0 < (h.fifo f).avail now) := by
  simp only [Hand.popStop, freezeIf_eq_none, Bool.and_eq_false_iff, bne_eq_false_iff_eq, beq_eq_false_iff_ne]
  omega
theorem Hand.pushStop_eq_none {h : Hand} {f : Nat} :
    h.pushStop f = none ↔ (f ≠ 0 → (h.fifo f).count + (h.fifo f).reserved + (h.fifo f).pend < 16) := by
  simp only [Hand.pushStop, freezeIf_eq_none, Bool.and_eq_false_iff, bne_eq_false_iff_eq, decide_eq_false_iff_not]
  omega
theorem needA_eq_none {s : State} {n : BitVec 5} (h : ReadyA s n) : (s.m.hand s.cur).needA n.toNat = none := by
  rcases h with rfl | h
  · rfl
  · simpa [Hand.needA] using fun _ => h
theorem needS_eq_none {s : State} {n : Nat} (h : ReadyS s n) : (s.m.hand s.cur).needS n = none := by
  rcases h with rfl | h
  · rfl
  · simpa [Hand.needS] using fun _ => h

/-- Every check of a word passes. -/
theorem guardWord_eq_none {s : State} {e : Engine} {i : Instr} {hd : Hdr} {mn : Meaning} (h : MayIssue s e i hd)
    (hp : mn.pre = none) (hr : mn.ring ≤ s.hand.ring) (ho : mn.own = none) :
    guardWord s.m ⟨s.tb, s.cur, e⟩ i (popFifo e hd.pop) (pushFifo e hd.push) mn = none := by
  obtain ⟨hc, ht, hq⟩ := h
  have h1 : (s.m.hand s.cur).popStop s.tb (popFifo e hd.pop) = none := Hand.popStop_eq_none.2 ht
  have h2 : (s.m.hand s.cur).pushStop (pushFifo e hd.push) = none := Hand.pushStop_eq_none.2 hq
  have h3 : decide ((s.m.hand s.cur).ring < mn.ring) = false := decide_eq_false (Nat.not_lt.2 hr)
  simp [guardWord, hc, hp, ho, h1, h2, h3]

/-- A word whose checks pass issues, and its effect follows, whatever engine number a trap of it would name. -/
theorem runWordAt_issues {s : State} {e : Engine} {te : Nat} {i : Instr} {hd : Hdr} {mn : At → Mach → Meaning}
    (h : MayIssue s e i hd) (hp : (mn ⟨s.tb, s.cur, e⟩ s.m).pre = none)
    (hr : (mn ⟨s.tb, s.cur, e⟩ s.m).ring ≤ s.hand.ring) (ho : (mn ⟨s.tb, s.cur, e⟩ s.m).own = none) :
    runWordAt s e te i hd mn = { s with m := (mn ⟨s.tb, s.cur, e⟩ s.m).eff (s.issued e hd) } := by
  simp only [runWordAt, guardWord_eq_none h hp hr ho]
  rfl

/-- A word of one engine whose checks pass issues, and its effect follows. -/
theorem runWord_issues {s : State} {e : Engine} {i : Instr} {hd : Hdr} {mn : At → Mach → Meaning} (h : MayIssue s e i hd)
    (hp : (mn ⟨s.tb, s.cur, e⟩ s.m).pre = none) (hr : (mn ⟨s.tb, s.cur, e⟩ s.m).ring ≤ s.hand.ring)
    (ho : (mn ⟨s.tb, s.cur, e⟩ s.m).own = none) :
    runWord s e i hd mn = { s with m := (mn ⟨s.tb, s.cur, e⟩ s.m).eff (s.issued e hd) } :=
  runWordAt_issues h hp hr ho

/-- An ALL-tagged word that an engine executes for itself issues where its checks pass. -/
theorem runEach_issues {s : State} {i : Instr} {hd : Hdr} {mn : At → Mach → Meaning} (h : MayIssue s s.eng i hd)
    (hp : (mn ⟨s.tb, s.cur, s.eng⟩ s.m).pre = none) (hr : (mn ⟨s.tb, s.cur, s.eng⟩ s.m).ring ≤ s.hand.ring)
    (ho : (mn ⟨s.tb, s.cur, s.eng⟩ s.m).own = none) :
    runEach s i hd mn = { s with m := (mn ⟨s.tb, s.cur, s.eng⟩ s.m).eff (s.issued s.eng hd) } :=
  runWordAt_issues h hp hr ho

/-- A rendezvous whose checks pass is passed by the three engines, and its effect follows. -/
theorem runRv_issues {s : State} {i : Instr} {mn : At → Mach → Meaning} (hc : i.check = none)
    (hp : (mn ⟨s.tb, s.cur, s.eng⟩ s.m).pre = none) (hr : (mn ⟨s.tb, s.cur, s.eng⟩ s.m).ring ≤ s.hand.ring)
    (ho : (mn ⟨s.tb, s.cur, s.eng⟩ s.m).own = none) :
    runRv s i mn = { s with m := (mn ⟨s.tb, s.cur, s.eng⟩ s.m).eff (s.m.modHand s.cur Hand.passRv) } := by
  have h3 : decide ((s.m.hand s.cur).ring < (mn ⟨s.tb, s.cur, s.eng⟩ s.m).ring) = false := decide_eq_false (Nat.not_lt.2 hr)
  simp [runRv, guardWord, hc, hp, ho, h3, Hand.popStop, Hand.pushStop]

/-- A word that stops traps or blocks its hand, and has none of its effect. -/
theorem runWord_stops {s : State} {e : Engine} {i : Instr} {hd : Hdr} {mn : At → Mach → Meaning} {st : Stop}
    (h : guardWord s.m ⟨s.tb, s.cur, e⟩ i (popFifo e hd.pop) (pushFifo e hd.push) (mn ⟨s.tb, s.cur, e⟩ s.m) = some st) :
    runWord s e i hd mn
      = { s with m := s.m.stopWord ⟨s.tb, s.cur, e⟩ (engNo e) i (mn ⟨s.tb, s.cur, e⟩ s.m).wait st } := by
  simp only [runWord, runWordAt, h]

end Sys2Proof.Machine
end

