-- ==== Sys2Proof/Laws/KMap.lean ====
section
/-! SUPPORT. The laws of a map: a read after a write of its key gives what was written, a write leaves every other key
alone, and a second write of a key replaces the first. They hold of every list, so no premise about the map is needed. -/

namespace Sys2Proof.Machine

@[simp] theorem KMap.get_set_same {α : Type} (d : α) (m : KMap α) (k : Nat) (v : α) :
    KMap.get d (KMap.set m k v) k = v := by
  induction m with
  | nil => simp [KMap.set, KMap.get]
  | cons p t ih =>
    obtain ⟨k', v'⟩ := p
    simp only [KMap.set]
    split
    · simp [KMap.get]
    · split
      · simp [KMap.get]
      · simp [KMap.get, *]

theorem KMap.get_set_ne {α : Type} (d : α) (m : KMap α) (k j : Nat) (v : α) (h : j ≠ k) :
    KMap.get d (KMap.set m k v) j = KMap.get d m j := by
  induction m with
  | nil => simp [KMap.set, KMap.get, Ne.symm h]
  | cons p t ih =>
    obtain ⟨k', v'⟩ := p
    simp only [KMap.set]
    split
    · next he => subst he; simp [KMap.get, Ne.symm h]
    · split
      · simp [KMap.get, Ne.symm h]
      · simp [KMap.get, ih]

/-- A second write of one key replaces the first. -/
@[simp] theorem KMap.set_set {α : Type} (m : KMap α) (k : Nat) (v u : α) : (m.set k v).set k u = m.set k u := by
  induction m with
  | nil => simp [KMap.set]
  | cons p t ih =>
    obtain ⟨k', v'⟩ := p
    simp only [KMap.set]
    split
    · simp [KMap.set]
    · split
      · simp [KMap.set]
      · simp [KMap.set, *]

theorem KMap.get_set {α : Type} (d : α) (m : KMap α) (k j : Nat) (v : α) :
    KMap.get d (KMap.set m k v) j = if j = k then v else KMap.get d m j := by
  split
  · next h => subst h; simp
  · next h => exact KMap.get_set_ne d m k j v h

end Sys2Proof.Machine
end

