-- ==== Sys2Proof/Laws/Lanes.lean ====
section
/-! SUPPORT. Elements of an entry: reading back what an entry was built from. -/

namespace Sys2Proof.Machine

theorem packElems_elem (w : Nat) (l : List Nat) (j : Nat) :
    packElems w l / 2 ^ (w * j) % 2 ^ w = l.getD j 0 % 2 ^ w := by
  induction l generalizing j with
  | nil => simp [packElems]
  | cons v t ih =>
    have hp : 0 < 2 ^ w := Nat.two_pow_pos w
    cases j with
    | zero => simp [packElems, Nat.add_mul_mod_self_left]
    | succ j =>
      have : packElems w (v :: t) / 2 ^ w = packElems w t := by
        simp only [packElems]
        rw [Nat.add_mul_div_left _ _ hp, Nat.div_eq_of_lt (Nat.mod_lt _ hp), Nat.zero_add]
      rw [Nat.mul_succ, Nat.add_comm, pow_add, ← Nat.div_div_eq_div_mul, this, ih]
      rfl

/-- Element `j` of an entry built from `w`-bit elements is the element it was built from. -/
theorem elem_mkEntry {w j : Nat} (l : List Nat) (h : w * j + w ≤ 1024) :
    elem (mkEntry w l) w j = l.getD j 0 % 2 ^ w := by
  rw [← packElems_elem, elem, mkEntry, BitVec.toNat_ofNat]
  have e : 2 ^ 1024 = 2 ^ (w * j) * (2 ^ w * 2 ^ (1024 - (w * j + w))) := by
    rw [← pow_add, ← pow_add]; congr 1; omega
  rw [e, Nat.mod_mul_right_div_self, Nat.mod_mul_right_mod]

theorem elem_lt (x : Entry) (w j : Nat) : elem x w j < 2 ^ w := Nat.mod_lt _ (Nat.two_pow_pos w)

@[simp] theorem elems_length (x : Entry) (w : Nat) : (elems x w).length = 1024 / w := by simp [elems]
theorem elems_getD {x : Entry} {w j : Nat} (h : j < 1024 / w) : (elems x w).getD j 0 = elem x w j := by
  simp [elems, List.getD, h]

end Sys2Proof.Machine
end

