-- ==== Sys2Proof/Laws/State.lean ====
section
/-! SUPPORT. The small laws of the machine's updates: what each leaves of every field, and what its own record then reads as, so that no
proof unfolds a record update; and the laws of memory: every operation keeps the one canonical form (log 3), and reset has it. -/

namespace Sys2Proof.Machine

/-! ## Every field after every update -/

@[simp] theorem Mach.setHand_agenda (m : Mach) (r : Nat) (h : Hand) : (m.setHand r h).agenda = m.agenda := rfl
@[simp] theorem Mach.setHand_nextId (m : Mach) (r : Nat) (h : Hand) : (m.setHand r h).nextId = m.nextId := rfl
@[simp] theorem Mach.setHand_freeN (m : Mach) (r : Nat) (h : Hand) : (m.setHand r h).freeN = m.freeN := rfl
@[simp] theorem Mach.setHand_mem (m : Mach) (r : Nat) (h : Hand) : (m.setHand r h).mem = m.mem := rfl
@[simp] theorem Mach.setHand_active (m : Mach) (r : Nat) (h : Hand) : (m.setHand r h).active = m.active := rfl
@[simp] theorem Mach.setHand_swaps (m : Mach) (r : Nat) (h : Hand) : (m.setHand r h).swaps = m.swaps := rfl
@[simp] theorem Mach.setHand_clusters (m : Mach) (r : Nat) (h : Hand) : (m.setHand r h).clusters = m.clusters := rfl
@[simp] theorem Mach.setHand_dies (m : Mach) (r : Nat) (h : Hand) : (m.setHand r h).dies = m.dies := rfl
@[simp] theorem Mach.setHand_ctxs (m : Mach) (r : Nat) (h : Hand) : (m.setHand r h).ctxs = m.ctxs := rfl
@[simp] theorem Mach.setHand_parts (m : Mach) (r : Nat) (h : Hand) : (m.setHand r h).parts = m.parts := rfl
@[simp] theorem Mach.setHand_dev (m : Mach) (r : Nat) (h : Hand) : (m.setHand r h).dev = m.dev := rfl
@[simp] theorem Mach.setHand_disps (m : Mach) (r : Nat) (h : Hand) : (m.setHand r h).disps = m.disps := rfl
@[simp] theorem Mach.setHand_frames (m : Mach) (r : Nat) (h : Hand) : (m.setHand r h).frames = m.frames := rfl
@[simp] theorem Mach.setHand_flits (m : Mach) (r : Nat) (h : Hand) : (m.setHand r h).flits = m.flits := rfl
@[simp] theorem Mach.setHand_bankT (m : Mach) (r : Nat) (h : Hand) : (m.setHand r h).bankT = m.bankT := rfl
@[simp] theorem Mach.setHand_bankUse (m : Mach) (r : Nat) (h : Hand) : (m.setHand r h).bankUse = m.bankUse := rfl
@[simp] theorem Mach.setHand_bankQ (m : Mach) (r : Nat) (h : Hand) : (m.setHand r h).bankQ = m.bankQ := rfl
@[simp] theorem Mach.setHand_rowsIn (m : Mach) (r : Nat) (h : Hand) : (m.setHand r h).rowsIn = m.rowsIn := rfl
@[simp] theorem Mach.setHand_halted (m : Mach) (r : Nat) (h : Hand) : (m.setHand r h).halted = m.halted := rfl
@[simp] theorem Mach.setHand_bad (m : Mach) (r : Nat) (h : Hand) : (m.setHand r h).bad = m.bad := rfl

@[simp] theorem Mach.modHand_agenda (m : Mach) (r : Nat) (f : Hand → Hand) : (m.modHand r f).agenda = m.agenda := rfl
@[simp] theorem Mach.modHand_nextId (m : Mach) (r : Nat) (f : Hand → Hand) : (m.modHand r f).nextId = m.nextId := rfl
@[simp] theorem Mach.modHand_freeN (m : Mach) (r : Nat) (f : Hand → Hand) : (m.modHand r f).freeN = m.freeN := rfl
@[simp] theorem Mach.modHand_mem (m : Mach) (r : Nat) (f : Hand → Hand) : (m.modHand r f).mem = m.mem := rfl
@[simp] theorem Mach.modHand_active (m : Mach) (r : Nat) (f : Hand → Hand) : (m.modHand r f).active = m.active := rfl
@[simp] theorem Mach.modHand_swaps (m : Mach) (r : Nat) (f : Hand → Hand) : (m.modHand r f).swaps = m.swaps := rfl
@[simp] theorem Mach.modHand_clusters (m : Mach) (r : Nat) (f : Hand → Hand) : (m.modHand r f).clusters = m.clusters := rfl
@[simp] theorem Mach.modHand_dies (m : Mach) (r : Nat) (f : Hand → Hand) : (m.modHand r f).dies = m.dies := rfl
@[simp] theorem Mach.modHand_ctxs (m : Mach) (r : Nat) (f : Hand → Hand) : (m.modHand r f).ctxs = m.ctxs := rfl
@[simp] theorem Mach.modHand_parts (m : Mach) (r : Nat) (f : Hand → Hand) : (m.modHand r f).parts = m.parts := rfl
@[simp] theorem Mach.modHand_dev (m : Mach) (r : Nat) (f : Hand → Hand) : (m.modHand r f).dev = m.dev := rfl
@[simp] theorem Mach.modHand_disps (m : Mach) (r : Nat) (f : Hand → Hand) : (m.modHand r f).disps = m.disps := rfl
@[simp] theorem Mach.modHand_frames (m : Mach) (r : Nat) (f : Hand → Hand) : (m.modHand r f).frames = m.frames := rfl
@[simp] theorem Mach.modHand_flits (m : Mach) (r : Nat) (f : Hand → Hand) : (m.modHand r f).flits = m.flits := rfl
@[simp] theorem Mach.modHand_bankT (m : Mach) (r : Nat) (f : Hand → Hand) : (m.modHand r f).bankT = m.bankT := rfl
@[simp] theorem Mach.modHand_bankUse (m : Mach) (r : Nat) (f : Hand → Hand) : (m.modHand r f).bankUse = m.bankUse := rfl
@[simp] theorem Mach.modHand_bankQ (m : Mach) (r : Nat) (f : Hand → Hand) : (m.modHand r f).bankQ = m.bankQ := rfl
@[simp] theorem Mach.modHand_rowsIn (m : Mach) (r : Nat) (f : Hand → Hand) : (m.modHand r f).rowsIn = m.rowsIn := rfl
@[simp] theorem Mach.modHand_halted (m : Mach) (r : Nat) (f : Hand → Hand) : (m.modHand r f).halted = m.halted := rfl
@[simp] theorem Mach.modHand_bad (m : Mach) (r : Nat) (f : Hand → Hand) : (m.modHand r f).bad = m.bad := rfl

@[simp] theorem Mach.setCluster_agenda (m : Mach) (c : Nat) (x : Cluster) : (m.setCluster c x).agenda = m.agenda := rfl
@[simp] theorem Mach.setCluster_nextId (m : Mach) (c : Nat) (x : Cluster) : (m.setCluster c x).nextId = m.nextId := rfl
@[simp] theorem Mach.setCluster_freeN (m : Mach) (c : Nat) (x : Cluster) : (m.setCluster c x).freeN = m.freeN := rfl
@[simp] theorem Mach.setCluster_mem (m : Mach) (c : Nat) (x : Cluster) : (m.setCluster c x).mem = m.mem := rfl
@[simp] theorem Mach.setCluster_hands (m : Mach) (c : Nat) (x : Cluster) : (m.setCluster c x).hands = m.hands := rfl
@[simp] theorem Mach.setCluster_active (m : Mach) (c : Nat) (x : Cluster) : (m.setCluster c x).active = m.active := rfl
@[simp] theorem Mach.setCluster_swaps (m : Mach) (c : Nat) (x : Cluster) : (m.setCluster c x).swaps = m.swaps := rfl
@[simp] theorem Mach.setCluster_dies (m : Mach) (c : Nat) (x : Cluster) : (m.setCluster c x).dies = m.dies := rfl
@[simp] theorem Mach.setCluster_ctxs (m : Mach) (c : Nat) (x : Cluster) : (m.setCluster c x).ctxs = m.ctxs := rfl
@[simp] theorem Mach.setCluster_parts (m : Mach) (c : Nat) (x : Cluster) : (m.setCluster c x).parts = m.parts := rfl
@[simp] theorem Mach.setCluster_dev (m : Mach) (c : Nat) (x : Cluster) : (m.setCluster c x).dev = m.dev := rfl
@[simp] theorem Mach.setCluster_disps (m : Mach) (c : Nat) (x : Cluster) : (m.setCluster c x).disps = m.disps := rfl
@[simp] theorem Mach.setCluster_frames (m : Mach) (c : Nat) (x : Cluster) : (m.setCluster c x).frames = m.frames := rfl
@[simp] theorem Mach.setCluster_flits (m : Mach) (c : Nat) (x : Cluster) : (m.setCluster c x).flits = m.flits := rfl
@[simp] theorem Mach.setCluster_bankT (m : Mach) (c : Nat) (x : Cluster) : (m.setCluster c x).bankT = m.bankT := rfl
@[simp] theorem Mach.setCluster_bankUse (m : Mach) (c : Nat) (x : Cluster) : (m.setCluster c x).bankUse = m.bankUse := rfl
@[simp] theorem Mach.setCluster_bankQ (m : Mach) (c : Nat) (x : Cluster) : (m.setCluster c x).bankQ = m.bankQ := rfl
@[simp] theorem Mach.setCluster_rowsIn (m : Mach) (c : Nat) (x : Cluster) : (m.setCluster c x).rowsIn = m.rowsIn := rfl
@[simp] theorem Mach.setCluster_halted (m : Mach) (c : Nat) (x : Cluster) : (m.setCluster c x).halted = m.halted := rfl
@[simp] theorem Mach.setCluster_bad (m : Mach) (c : Nat) (x : Cluster) : (m.setCluster c x).bad = m.bad := rfl

@[simp] theorem Mach.modCluster_agenda (m : Mach) (c : Nat) (f : Cluster → Cluster) : (m.modCluster c f).agenda = m.agenda := rfl
@[simp] theorem Mach.modCluster_nextId (m : Mach) (c : Nat) (f : Cluster → Cluster) : (m.modCluster c f).nextId = m.nextId := rfl
@[simp] theorem Mach.modCluster_freeN (m : Mach) (c : Nat) (f : Cluster → Cluster) : (m.modCluster c f).freeN = m.freeN := rfl
@[simp] theorem Mach.modCluster_mem (m : Mach) (c : Nat) (f : Cluster → Cluster) : (m.modCluster c f).mem = m.mem := rfl
@[simp] theorem Mach.modCluster_hands (m : Mach) (c : Nat) (f : Cluster → Cluster) : (m.modCluster c f).hands = m.hands := rfl
@[simp] theorem Mach.modCluster_active (m : Mach) (c : Nat) (f : Cluster → Cluster) : (m.modCluster c f).active = m.active := rfl
@[simp] theorem Mach.modCluster_swaps (m : Mach) (c : Nat) (f : Cluster → Cluster) : (m.modCluster c f).swaps = m.swaps := rfl
@[simp] theorem Mach.modCluster_dies (m : Mach) (c : Nat) (f : Cluster → Cluster) : (m.modCluster c f).dies = m.dies := rfl
@[simp] theorem Mach.modCluster_ctxs (m : Mach) (c : Nat) (f : Cluster → Cluster) : (m.modCluster c f).ctxs = m.ctxs := rfl
@[simp] theorem Mach.modCluster_parts (m : Mach) (c : Nat) (f : Cluster → Cluster) : (m.modCluster c f).parts = m.parts := rfl
@[simp] theorem Mach.modCluster_dev (m : Mach) (c : Nat) (f : Cluster → Cluster) : (m.modCluster c f).dev = m.dev := rfl
@[simp] theorem Mach.modCluster_disps (m : Mach) (c : Nat) (f : Cluster → Cluster) : (m.modCluster c f).disps = m.disps := rfl
@[simp] theorem Mach.modCluster_frames (m : Mach) (c : Nat) (f : Cluster → Cluster) : (m.modCluster c f).frames = m.frames := rfl
@[simp] theorem Mach.modCluster_flits (m : Mach) (c : Nat) (f : Cluster → Cluster) : (m.modCluster c f).flits = m.flits := rfl
@[simp] theorem Mach.modCluster_bankT (m : Mach) (c : Nat) (f : Cluster → Cluster) : (m.modCluster c f).bankT = m.bankT := rfl
@[simp] theorem Mach.modCluster_bankUse (m : Mach) (c : Nat) (f : Cluster → Cluster) : (m.modCluster c f).bankUse = m.bankUse := rfl
@[simp] theorem Mach.modCluster_bankQ (m : Mach) (c : Nat) (f : Cluster → Cluster) : (m.modCluster c f).bankQ = m.bankQ := rfl
@[simp] theorem Mach.modCluster_rowsIn (m : Mach) (c : Nat) (f : Cluster → Cluster) : (m.modCluster c f).rowsIn = m.rowsIn := rfl
@[simp] theorem Mach.modCluster_halted (m : Mach) (c : Nat) (f : Cluster → Cluster) : (m.modCluster c f).halted = m.halted := rfl
@[simp] theorem Mach.modCluster_bad (m : Mach) (c : Nat) (f : Cluster → Cluster) : (m.modCluster c f).bad = m.bad := rfl

@[simp] theorem Mach.setDie_agenda (m : Mach) (d : Nat) (x : Die) : (m.setDie d x).agenda = m.agenda := rfl
@[simp] theorem Mach.setDie_nextId (m : Mach) (d : Nat) (x : Die) : (m.setDie d x).nextId = m.nextId := rfl
@[simp] theorem Mach.setDie_freeN (m : Mach) (d : Nat) (x : Die) : (m.setDie d x).freeN = m.freeN := rfl
@[simp] theorem Mach.setDie_mem (m : Mach) (d : Nat) (x : Die) : (m.setDie d x).mem = m.mem := rfl
@[simp] theorem Mach.setDie_hands (m : Mach) (d : Nat) (x : Die) : (m.setDie d x).hands = m.hands := rfl
@[simp] theorem Mach.setDie_active (m : Mach) (d : Nat) (x : Die) : (m.setDie d x).active = m.active := rfl
@[simp] theorem Mach.setDie_swaps (m : Mach) (d : Nat) (x : Die) : (m.setDie d x).swaps = m.swaps := rfl
@[simp] theorem Mach.setDie_clusters (m : Mach) (d : Nat) (x : Die) : (m.setDie d x).clusters = m.clusters := rfl
@[simp] theorem Mach.setDie_ctxs (m : Mach) (d : Nat) (x : Die) : (m.setDie d x).ctxs = m.ctxs := rfl
@[simp] theorem Mach.setDie_parts (m : Mach) (d : Nat) (x : Die) : (m.setDie d x).parts = m.parts := rfl
@[simp] theorem Mach.setDie_dev (m : Mach) (d : Nat) (x : Die) : (m.setDie d x).dev = m.dev := rfl
@[simp] theorem Mach.setDie_disps (m : Mach) (d : Nat) (x : Die) : (m.setDie d x).disps = m.disps := rfl
@[simp] theorem Mach.setDie_frames (m : Mach) (d : Nat) (x : Die) : (m.setDie d x).frames = m.frames := rfl
@[simp] theorem Mach.setDie_flits (m : Mach) (d : Nat) (x : Die) : (m.setDie d x).flits = m.flits := rfl
@[simp] theorem Mach.setDie_bankT (m : Mach) (d : Nat) (x : Die) : (m.setDie d x).bankT = m.bankT := rfl
@[simp] theorem Mach.setDie_bankUse (m : Mach) (d : Nat) (x : Die) : (m.setDie d x).bankUse = m.bankUse := rfl
@[simp] theorem Mach.setDie_bankQ (m : Mach) (d : Nat) (x : Die) : (m.setDie d x).bankQ = m.bankQ := rfl
@[simp] theorem Mach.setDie_rowsIn (m : Mach) (d : Nat) (x : Die) : (m.setDie d x).rowsIn = m.rowsIn := rfl
@[simp] theorem Mach.setDie_halted (m : Mach) (d : Nat) (x : Die) : (m.setDie d x).halted = m.halted := rfl
@[simp] theorem Mach.setDie_bad (m : Mach) (d : Nat) (x : Die) : (m.setDie d x).bad = m.bad := rfl

@[simp] theorem Mach.modDie_agenda (m : Mach) (d : Nat) (f : Die → Die) : (m.modDie d f).agenda = m.agenda := rfl
@[simp] theorem Mach.modDie_nextId (m : Mach) (d : Nat) (f : Die → Die) : (m.modDie d f).nextId = m.nextId := rfl
@[simp] theorem Mach.modDie_freeN (m : Mach) (d : Nat) (f : Die → Die) : (m.modDie d f).freeN = m.freeN := rfl
@[simp] theorem Mach.modDie_mem (m : Mach) (d : Nat) (f : Die → Die) : (m.modDie d f).mem = m.mem := rfl
@[simp] theorem Mach.modDie_hands (m : Mach) (d : Nat) (f : Die → Die) : (m.modDie d f).hands = m.hands := rfl
@[simp] theorem Mach.modDie_active (m : Mach) (d : Nat) (f : Die → Die) : (m.modDie d f).active = m.active := rfl
@[simp] theorem Mach.modDie_swaps (m : Mach) (d : Nat) (f : Die → Die) : (m.modDie d f).swaps = m.swaps := rfl
@[simp] theorem Mach.modDie_clusters (m : Mach) (d : Nat) (f : Die → Die) : (m.modDie d f).clusters = m.clusters := rfl
@[simp] theorem Mach.modDie_ctxs (m : Mach) (d : Nat) (f : Die → Die) : (m.modDie d f).ctxs = m.ctxs := rfl
@[simp] theorem Mach.modDie_parts (m : Mach) (d : Nat) (f : Die → Die) : (m.modDie d f).parts = m.parts := rfl
@[simp] theorem Mach.modDie_dev (m : Mach) (d : Nat) (f : Die → Die) : (m.modDie d f).dev = m.dev := rfl
@[simp] theorem Mach.modDie_disps (m : Mach) (d : Nat) (f : Die → Die) : (m.modDie d f).disps = m.disps := rfl
@[simp] theorem Mach.modDie_frames (m : Mach) (d : Nat) (f : Die → Die) : (m.modDie d f).frames = m.frames := rfl
@[simp] theorem Mach.modDie_flits (m : Mach) (d : Nat) (f : Die → Die) : (m.modDie d f).flits = m.flits := rfl
@[simp] theorem Mach.modDie_bankT (m : Mach) (d : Nat) (f : Die → Die) : (m.modDie d f).bankT = m.bankT := rfl
@[simp] theorem Mach.modDie_bankUse (m : Mach) (d : Nat) (f : Die → Die) : (m.modDie d f).bankUse = m.bankUse := rfl
@[simp] theorem Mach.modDie_bankQ (m : Mach) (d : Nat) (f : Die → Die) : (m.modDie d f).bankQ = m.bankQ := rfl
@[simp] theorem Mach.modDie_rowsIn (m : Mach) (d : Nat) (f : Die → Die) : (m.modDie d f).rowsIn = m.rowsIn := rfl
@[simp] theorem Mach.modDie_halted (m : Mach) (d : Nat) (f : Die → Die) : (m.modDie d f).halted = m.halted := rfl
@[simp] theorem Mach.modDie_bad (m : Mach) (d : Nat) (f : Die → Die) : (m.modDie d f).bad = m.bad := rfl

@[simp] theorem Mach.setCtx_agenda (m : Mach) (k : Nat) (x : Ctx) : (m.setCtx k x).agenda = m.agenda := rfl
@[simp] theorem Mach.setCtx_nextId (m : Mach) (k : Nat) (x : Ctx) : (m.setCtx k x).nextId = m.nextId := rfl
@[simp] theorem Mach.setCtx_freeN (m : Mach) (k : Nat) (x : Ctx) : (m.setCtx k x).freeN = m.freeN := rfl
@[simp] theorem Mach.setCtx_mem (m : Mach) (k : Nat) (x : Ctx) : (m.setCtx k x).mem = m.mem := rfl
@[simp] theorem Mach.setCtx_hands (m : Mach) (k : Nat) (x : Ctx) : (m.setCtx k x).hands = m.hands := rfl
@[simp] theorem Mach.setCtx_active (m : Mach) (k : Nat) (x : Ctx) : (m.setCtx k x).active = m.active := rfl
@[simp] theorem Mach.setCtx_swaps (m : Mach) (k : Nat) (x : Ctx) : (m.setCtx k x).swaps = m.swaps := rfl
@[simp] theorem Mach.setCtx_clusters (m : Mach) (k : Nat) (x : Ctx) : (m.setCtx k x).clusters = m.clusters := rfl
@[simp] theorem Mach.setCtx_dies (m : Mach) (k : Nat) (x : Ctx) : (m.setCtx k x).dies = m.dies := rfl
@[simp] theorem Mach.setCtx_parts (m : Mach) (k : Nat) (x : Ctx) : (m.setCtx k x).parts = m.parts := rfl
@[simp] theorem Mach.setCtx_dev (m : Mach) (k : Nat) (x : Ctx) : (m.setCtx k x).dev = m.dev := rfl
@[simp] theorem Mach.setCtx_disps (m : Mach) (k : Nat) (x : Ctx) : (m.setCtx k x).disps = m.disps := rfl
@[simp] theorem Mach.setCtx_frames (m : Mach) (k : Nat) (x : Ctx) : (m.setCtx k x).frames = m.frames := rfl
@[simp] theorem Mach.setCtx_flits (m : Mach) (k : Nat) (x : Ctx) : (m.setCtx k x).flits = m.flits := rfl
@[simp] theorem Mach.setCtx_bankT (m : Mach) (k : Nat) (x : Ctx) : (m.setCtx k x).bankT = m.bankT := rfl
@[simp] theorem Mach.setCtx_bankUse (m : Mach) (k : Nat) (x : Ctx) : (m.setCtx k x).bankUse = m.bankUse := rfl
@[simp] theorem Mach.setCtx_bankQ (m : Mach) (k : Nat) (x : Ctx) : (m.setCtx k x).bankQ = m.bankQ := rfl
@[simp] theorem Mach.setCtx_rowsIn (m : Mach) (k : Nat) (x : Ctx) : (m.setCtx k x).rowsIn = m.rowsIn := rfl
@[simp] theorem Mach.setCtx_halted (m : Mach) (k : Nat) (x : Ctx) : (m.setCtx k x).halted = m.halted := rfl
@[simp] theorem Mach.setCtx_bad (m : Mach) (k : Nat) (x : Ctx) : (m.setCtx k x).bad = m.bad := rfl

@[simp] theorem Mach.modCtx_agenda (m : Mach) (k : Nat) (f : Ctx → Ctx) : (m.modCtx k f).agenda = m.agenda := rfl
@[simp] theorem Mach.modCtx_nextId (m : Mach) (k : Nat) (f : Ctx → Ctx) : (m.modCtx k f).nextId = m.nextId := rfl
@[simp] theorem Mach.modCtx_freeN (m : Mach) (k : Nat) (f : Ctx → Ctx) : (m.modCtx k f).freeN = m.freeN := rfl
@[simp] theorem Mach.modCtx_mem (m : Mach) (k : Nat) (f : Ctx → Ctx) : (m.modCtx k f).mem = m.mem := rfl
@[simp] theorem Mach.modCtx_hands (m : Mach) (k : Nat) (f : Ctx → Ctx) : (m.modCtx k f).hands = m.hands := rfl
@[simp] theorem Mach.modCtx_active (m : Mach) (k : Nat) (f : Ctx → Ctx) : (m.modCtx k f).active = m.active := rfl
@[simp] theorem Mach.modCtx_swaps (m : Mach) (k : Nat) (f : Ctx → Ctx) : (m.modCtx k f).swaps = m.swaps := rfl
@[simp] theorem Mach.modCtx_clusters (m : Mach) (k : Nat) (f : Ctx → Ctx) : (m.modCtx k f).clusters = m.clusters := rfl
@[simp] theorem Mach.modCtx_dies (m : Mach) (k : Nat) (f : Ctx → Ctx) : (m.modCtx k f).dies = m.dies := rfl
@[simp] theorem Mach.modCtx_parts (m : Mach) (k : Nat) (f : Ctx → Ctx) : (m.modCtx k f).parts = m.parts := rfl
@[simp] theorem Mach.modCtx_dev (m : Mach) (k : Nat) (f : Ctx → Ctx) : (m.modCtx k f).dev = m.dev := rfl
@[simp] theorem Mach.modCtx_disps (m : Mach) (k : Nat) (f : Ctx → Ctx) : (m.modCtx k f).disps = m.disps := rfl
@[simp] theorem Mach.modCtx_frames (m : Mach) (k : Nat) (f : Ctx → Ctx) : (m.modCtx k f).frames = m.frames := rfl
@[simp] theorem Mach.modCtx_flits (m : Mach) (k : Nat) (f : Ctx → Ctx) : (m.modCtx k f).flits = m.flits := rfl
@[simp] theorem Mach.modCtx_bankT (m : Mach) (k : Nat) (f : Ctx → Ctx) : (m.modCtx k f).bankT = m.bankT := rfl
@[simp] theorem Mach.modCtx_bankUse (m : Mach) (k : Nat) (f : Ctx → Ctx) : (m.modCtx k f).bankUse = m.bankUse := rfl
@[simp] theorem Mach.modCtx_bankQ (m : Mach) (k : Nat) (f : Ctx → Ctx) : (m.modCtx k f).bankQ = m.bankQ := rfl
@[simp] theorem Mach.modCtx_rowsIn (m : Mach) (k : Nat) (f : Ctx → Ctx) : (m.modCtx k f).rowsIn = m.rowsIn := rfl
@[simp] theorem Mach.modCtx_halted (m : Mach) (k : Nat) (f : Ctx → Ctx) : (m.modCtx k f).halted = m.halted := rfl
@[simp] theorem Mach.modCtx_bad (m : Mach) (k : Nat) (f : Ctx → Ctx) : (m.modCtx k f).bad = m.bad := rfl

@[simp] theorem Mach.setPart_agenda (m : Mach) (p : Nat) (x : Part) : (m.setPart p x).agenda = m.agenda := rfl
@[simp] theorem Mach.setPart_nextId (m : Mach) (p : Nat) (x : Part) : (m.setPart p x).nextId = m.nextId := rfl
@[simp] theorem Mach.setPart_freeN (m : Mach) (p : Nat) (x : Part) : (m.setPart p x).freeN = m.freeN := rfl
@[simp] theorem Mach.setPart_mem (m : Mach) (p : Nat) (x : Part) : (m.setPart p x).mem = m.mem := rfl
@[simp] theorem Mach.setPart_hands (m : Mach) (p : Nat) (x : Part) : (m.setPart p x).hands = m.hands := rfl
@[simp] theorem Mach.setPart_active (m : Mach) (p : Nat) (x : Part) : (m.setPart p x).active = m.active := rfl
@[simp] theorem Mach.setPart_swaps (m : Mach) (p : Nat) (x : Part) : (m.setPart p x).swaps = m.swaps := rfl
@[simp] theorem Mach.setPart_clusters (m : Mach) (p : Nat) (x : Part) : (m.setPart p x).clusters = m.clusters := rfl
@[simp] theorem Mach.setPart_dies (m : Mach) (p : Nat) (x : Part) : (m.setPart p x).dies = m.dies := rfl
@[simp] theorem Mach.setPart_ctxs (m : Mach) (p : Nat) (x : Part) : (m.setPart p x).ctxs = m.ctxs := rfl
@[simp] theorem Mach.setPart_dev (m : Mach) (p : Nat) (x : Part) : (m.setPart p x).dev = m.dev := rfl
@[simp] theorem Mach.setPart_disps (m : Mach) (p : Nat) (x : Part) : (m.setPart p x).disps = m.disps := rfl
@[simp] theorem Mach.setPart_frames (m : Mach) (p : Nat) (x : Part) : (m.setPart p x).frames = m.frames := rfl
@[simp] theorem Mach.setPart_flits (m : Mach) (p : Nat) (x : Part) : (m.setPart p x).flits = m.flits := rfl
@[simp] theorem Mach.setPart_bankT (m : Mach) (p : Nat) (x : Part) : (m.setPart p x).bankT = m.bankT := rfl
@[simp] theorem Mach.setPart_bankUse (m : Mach) (p : Nat) (x : Part) : (m.setPart p x).bankUse = m.bankUse := rfl
@[simp] theorem Mach.setPart_bankQ (m : Mach) (p : Nat) (x : Part) : (m.setPart p x).bankQ = m.bankQ := rfl
@[simp] theorem Mach.setPart_rowsIn (m : Mach) (p : Nat) (x : Part) : (m.setPart p x).rowsIn = m.rowsIn := rfl
@[simp] theorem Mach.setPart_halted (m : Mach) (p : Nat) (x : Part) : (m.setPart p x).halted = m.halted := rfl
@[simp] theorem Mach.setPart_bad (m : Mach) (p : Nat) (x : Part) : (m.setPart p x).bad = m.bad := rfl

@[simp] theorem Mach.modPart_agenda (m : Mach) (p : Nat) (f : Part → Part) : (m.modPart p f).agenda = m.agenda := rfl
@[simp] theorem Mach.modPart_nextId (m : Mach) (p : Nat) (f : Part → Part) : (m.modPart p f).nextId = m.nextId := rfl
@[simp] theorem Mach.modPart_freeN (m : Mach) (p : Nat) (f : Part → Part) : (m.modPart p f).freeN = m.freeN := rfl
@[simp] theorem Mach.modPart_mem (m : Mach) (p : Nat) (f : Part → Part) : (m.modPart p f).mem = m.mem := rfl
@[simp] theorem Mach.modPart_hands (m : Mach) (p : Nat) (f : Part → Part) : (m.modPart p f).hands = m.hands := rfl
@[simp] theorem Mach.modPart_active (m : Mach) (p : Nat) (f : Part → Part) : (m.modPart p f).active = m.active := rfl
@[simp] theorem Mach.modPart_swaps (m : Mach) (p : Nat) (f : Part → Part) : (m.modPart p f).swaps = m.swaps := rfl
@[simp] theorem Mach.modPart_clusters (m : Mach) (p : Nat) (f : Part → Part) : (m.modPart p f).clusters = m.clusters := rfl
@[simp] theorem Mach.modPart_dies (m : Mach) (p : Nat) (f : Part → Part) : (m.modPart p f).dies = m.dies := rfl
@[simp] theorem Mach.modPart_ctxs (m : Mach) (p : Nat) (f : Part → Part) : (m.modPart p f).ctxs = m.ctxs := rfl
@[simp] theorem Mach.modPart_dev (m : Mach) (p : Nat) (f : Part → Part) : (m.modPart p f).dev = m.dev := rfl
@[simp] theorem Mach.modPart_disps (m : Mach) (p : Nat) (f : Part → Part) : (m.modPart p f).disps = m.disps := rfl
@[simp] theorem Mach.modPart_frames (m : Mach) (p : Nat) (f : Part → Part) : (m.modPart p f).frames = m.frames := rfl
@[simp] theorem Mach.modPart_flits (m : Mach) (p : Nat) (f : Part → Part) : (m.modPart p f).flits = m.flits := rfl
@[simp] theorem Mach.modPart_bankT (m : Mach) (p : Nat) (f : Part → Part) : (m.modPart p f).bankT = m.bankT := rfl
@[simp] theorem Mach.modPart_bankUse (m : Mach) (p : Nat) (f : Part → Part) : (m.modPart p f).bankUse = m.bankUse := rfl
@[simp] theorem Mach.modPart_bankQ (m : Mach) (p : Nat) (f : Part → Part) : (m.modPart p f).bankQ = m.bankQ := rfl
@[simp] theorem Mach.modPart_rowsIn (m : Mach) (p : Nat) (f : Part → Part) : (m.modPart p f).rowsIn = m.rowsIn := rfl
@[simp] theorem Mach.modPart_halted (m : Mach) (p : Nat) (f : Part → Part) : (m.modPart p f).halted = m.halted := rfl
@[simp] theorem Mach.modPart_bad (m : Mach) (p : Nat) (f : Part → Part) : (m.modPart p f).bad = m.bad := rfl

@[simp] theorem Mach.modDev_agenda (m : Mach) (f : Dev → Dev) : (m.modDev f).agenda = m.agenda := rfl
@[simp] theorem Mach.modDev_nextId (m : Mach) (f : Dev → Dev) : (m.modDev f).nextId = m.nextId := rfl
@[simp] theorem Mach.modDev_freeN (m : Mach) (f : Dev → Dev) : (m.modDev f).freeN = m.freeN := rfl
@[simp] theorem Mach.modDev_mem (m : Mach) (f : Dev → Dev) : (m.modDev f).mem = m.mem := rfl
@[simp] theorem Mach.modDev_hands (m : Mach) (f : Dev → Dev) : (m.modDev f).hands = m.hands := rfl
@[simp] theorem Mach.modDev_active (m : Mach) (f : Dev → Dev) : (m.modDev f).active = m.active := rfl
@[simp] theorem Mach.modDev_swaps (m : Mach) (f : Dev → Dev) : (m.modDev f).swaps = m.swaps := rfl
@[simp] theorem Mach.modDev_clusters (m : Mach) (f : Dev → Dev) : (m.modDev f).clusters = m.clusters := rfl
@[simp] theorem Mach.modDev_dies (m : Mach) (f : Dev → Dev) : (m.modDev f).dies = m.dies := rfl
@[simp] theorem Mach.modDev_ctxs (m : Mach) (f : Dev → Dev) : (m.modDev f).ctxs = m.ctxs := rfl
@[simp] theorem Mach.modDev_parts (m : Mach) (f : Dev → Dev) : (m.modDev f).parts = m.parts := rfl
@[simp] theorem Mach.modDev_disps (m : Mach) (f : Dev → Dev) : (m.modDev f).disps = m.disps := rfl
@[simp] theorem Mach.modDev_frames (m : Mach) (f : Dev → Dev) : (m.modDev f).frames = m.frames := rfl
@[simp] theorem Mach.modDev_flits (m : Mach) (f : Dev → Dev) : (m.modDev f).flits = m.flits := rfl
@[simp] theorem Mach.modDev_bankT (m : Mach) (f : Dev → Dev) : (m.modDev f).bankT = m.bankT := rfl
@[simp] theorem Mach.modDev_bankUse (m : Mach) (f : Dev → Dev) : (m.modDev f).bankUse = m.bankUse := rfl
@[simp] theorem Mach.modDev_bankQ (m : Mach) (f : Dev → Dev) : (m.modDev f).bankQ = m.bankQ := rfl
@[simp] theorem Mach.modDev_rowsIn (m : Mach) (f : Dev → Dev) : (m.modDev f).rowsIn = m.rowsIn := rfl
@[simp] theorem Mach.modDev_halted (m : Mach) (f : Dev → Dev) : (m.modDev f).halted = m.halted := rfl
@[simp] theorem Mach.modDev_bad (m : Mach) (f : Dev → Dev) : (m.modDev f).bad = m.bad := rfl

@[simp] theorem Mach.modZone_agenda (m : Mach) (z : Nat) (f : Zone → Zone) : (m.modZone z f).agenda = m.agenda := rfl
@[simp] theorem Mach.modZone_nextId (m : Mach) (z : Nat) (f : Zone → Zone) : (m.modZone z f).nextId = m.nextId := rfl
@[simp] theorem Mach.modZone_freeN (m : Mach) (z : Nat) (f : Zone → Zone) : (m.modZone z f).freeN = m.freeN := rfl
@[simp] theorem Mach.modZone_mem (m : Mach) (z : Nat) (f : Zone → Zone) : (m.modZone z f).mem = m.mem := rfl
@[simp] theorem Mach.modZone_hands (m : Mach) (z : Nat) (f : Zone → Zone) : (m.modZone z f).hands = m.hands := rfl
@[simp] theorem Mach.modZone_active (m : Mach) (z : Nat) (f : Zone → Zone) : (m.modZone z f).active = m.active := rfl
@[simp] theorem Mach.modZone_swaps (m : Mach) (z : Nat) (f : Zone → Zone) : (m.modZone z f).swaps = m.swaps := rfl
@[simp] theorem Mach.modZone_clusters (m : Mach) (z : Nat) (f : Zone → Zone) : (m.modZone z f).clusters = m.clusters := rfl
@[simp] theorem Mach.modZone_dies (m : Mach) (z : Nat) (f : Zone → Zone) : (m.modZone z f).dies = m.dies := rfl
@[simp] theorem Mach.modZone_ctxs (m : Mach) (z : Nat) (f : Zone → Zone) : (m.modZone z f).ctxs = m.ctxs := rfl
@[simp] theorem Mach.modZone_parts (m : Mach) (z : Nat) (f : Zone → Zone) : (m.modZone z f).parts = m.parts := rfl
@[simp] theorem Mach.modZone_disps (m : Mach) (z : Nat) (f : Zone → Zone) : (m.modZone z f).disps = m.disps := rfl
@[simp] theorem Mach.modZone_frames (m : Mach) (z : Nat) (f : Zone → Zone) : (m.modZone z f).frames = m.frames := rfl
@[simp] theorem Mach.modZone_flits (m : Mach) (z : Nat) (f : Zone → Zone) : (m.modZone z f).flits = m.flits := rfl
@[simp] theorem Mach.modZone_bankT (m : Mach) (z : Nat) (f : Zone → Zone) : (m.modZone z f).bankT = m.bankT := rfl
@[simp] theorem Mach.modZone_bankUse (m : Mach) (z : Nat) (f : Zone → Zone) : (m.modZone z f).bankUse = m.bankUse := rfl
@[simp] theorem Mach.modZone_bankQ (m : Mach) (z : Nat) (f : Zone → Zone) : (m.modZone z f).bankQ = m.bankQ := rfl
@[simp] theorem Mach.modZone_rowsIn (m : Mach) (z : Nat) (f : Zone → Zone) : (m.modZone z f).rowsIn = m.rowsIn := rfl
@[simp] theorem Mach.modZone_halted (m : Mach) (z : Nat) (f : Zone → Zone) : (m.modZone z f).halted = m.halted := rfl
@[simp] theorem Mach.modZone_bad (m : Mach) (z : Nat) (f : Zone → Zone) : (m.modZone z f).bad = m.bad := rfl

@[simp] theorem Mach.post_nextId (m : Mach) (t : Nat) (i : Instr) : (m.post t i).nextId = m.nextId := rfl
@[simp] theorem Mach.post_freeN (m : Mach) (t : Nat) (i : Instr) : (m.post t i).freeN = m.freeN := rfl
@[simp] theorem Mach.post_mem (m : Mach) (t : Nat) (i : Instr) : (m.post t i).mem = m.mem := rfl
@[simp] theorem Mach.post_hands (m : Mach) (t : Nat) (i : Instr) : (m.post t i).hands = m.hands := rfl
@[simp] theorem Mach.post_active (m : Mach) (t : Nat) (i : Instr) : (m.post t i).active = m.active := rfl
@[simp] theorem Mach.post_swaps (m : Mach) (t : Nat) (i : Instr) : (m.post t i).swaps = m.swaps := rfl
@[simp] theorem Mach.post_clusters (m : Mach) (t : Nat) (i : Instr) : (m.post t i).clusters = m.clusters := rfl
@[simp] theorem Mach.post_dies (m : Mach) (t : Nat) (i : Instr) : (m.post t i).dies = m.dies := rfl
@[simp] theorem Mach.post_ctxs (m : Mach) (t : Nat) (i : Instr) : (m.post t i).ctxs = m.ctxs := rfl
@[simp] theorem Mach.post_parts (m : Mach) (t : Nat) (i : Instr) : (m.post t i).parts = m.parts := rfl
@[simp] theorem Mach.post_dev (m : Mach) (t : Nat) (i : Instr) : (m.post t i).dev = m.dev := rfl
@[simp] theorem Mach.post_disps (m : Mach) (t : Nat) (i : Instr) : (m.post t i).disps = m.disps := rfl
@[simp] theorem Mach.post_frames (m : Mach) (t : Nat) (i : Instr) : (m.post t i).frames = m.frames := rfl
@[simp] theorem Mach.post_flits (m : Mach) (t : Nat) (i : Instr) : (m.post t i).flits = m.flits := rfl
@[simp] theorem Mach.post_bankT (m : Mach) (t : Nat) (i : Instr) : (m.post t i).bankT = m.bankT := rfl
@[simp] theorem Mach.post_bankUse (m : Mach) (t : Nat) (i : Instr) : (m.post t i).bankUse = m.bankUse := rfl
@[simp] theorem Mach.post_bankQ (m : Mach) (t : Nat) (i : Instr) : (m.post t i).bankQ = m.bankQ := rfl
@[simp] theorem Mach.post_rowsIn (m : Mach) (t : Nat) (i : Instr) : (m.post t i).rowsIn = m.rowsIn := rfl
@[simp] theorem Mach.post_halted (m : Mach) (t : Nat) (i : Instr) : (m.post t i).halted = m.halted := rfl
@[simp] theorem Mach.post_bad (m : Mach) (t : Nat) (i : Instr) : (m.post t i).bad = m.bad := rfl

@[simp] theorem Mach.bump_agenda (m : Mach) : (m.bump).agenda = m.agenda := rfl
@[simp] theorem Mach.bump_freeN (m : Mach) : (m.bump).freeN = m.freeN := rfl
@[simp] theorem Mach.bump_mem (m : Mach) : (m.bump).mem = m.mem := rfl
@[simp] theorem Mach.bump_hands (m : Mach) : (m.bump).hands = m.hands := rfl
@[simp] theorem Mach.bump_active (m : Mach) : (m.bump).active = m.active := rfl
@[simp] theorem Mach.bump_swaps (m : Mach) : (m.bump).swaps = m.swaps := rfl
@[simp] theorem Mach.bump_clusters (m : Mach) : (m.bump).clusters = m.clusters := rfl
@[simp] theorem Mach.bump_dies (m : Mach) : (m.bump).dies = m.dies := rfl
@[simp] theorem Mach.bump_ctxs (m : Mach) : (m.bump).ctxs = m.ctxs := rfl
@[simp] theorem Mach.bump_parts (m : Mach) : (m.bump).parts = m.parts := rfl
@[simp] theorem Mach.bump_dev (m : Mach) : (m.bump).dev = m.dev := rfl
@[simp] theorem Mach.bump_disps (m : Mach) : (m.bump).disps = m.disps := rfl
@[simp] theorem Mach.bump_frames (m : Mach) : (m.bump).frames = m.frames := rfl
@[simp] theorem Mach.bump_flits (m : Mach) : (m.bump).flits = m.flits := rfl
@[simp] theorem Mach.bump_bankT (m : Mach) : (m.bump).bankT = m.bankT := rfl
@[simp] theorem Mach.bump_bankUse (m : Mach) : (m.bump).bankUse = m.bankUse := rfl
@[simp] theorem Mach.bump_bankQ (m : Mach) : (m.bump).bankQ = m.bankQ := rfl
@[simp] theorem Mach.bump_rowsIn (m : Mach) : (m.bump).rowsIn = m.rowsIn := rfl
@[simp] theorem Mach.bump_halted (m : Mach) : (m.bump).halted = m.halted := rfl
@[simp] theorem Mach.bump_bad (m : Mach) : (m.bump).bad = m.bad := rfl

@[simp] theorem Mach.poke_agenda (m : Mach) (k : Nat) (bs : List Byte) : (m.poke k bs).agenda = m.agenda := rfl
@[simp] theorem Mach.poke_nextId (m : Mach) (k : Nat) (bs : List Byte) : (m.poke k bs).nextId = m.nextId := rfl
@[simp] theorem Mach.poke_freeN (m : Mach) (k : Nat) (bs : List Byte) : (m.poke k bs).freeN = m.freeN := rfl
@[simp] theorem Mach.poke_hands (m : Mach) (k : Nat) (bs : List Byte) : (m.poke k bs).hands = m.hands := rfl
@[simp] theorem Mach.poke_active (m : Mach) (k : Nat) (bs : List Byte) : (m.poke k bs).active = m.active := rfl
@[simp] theorem Mach.poke_swaps (m : Mach) (k : Nat) (bs : List Byte) : (m.poke k bs).swaps = m.swaps := rfl
@[simp] theorem Mach.poke_clusters (m : Mach) (k : Nat) (bs : List Byte) : (m.poke k bs).clusters = m.clusters := rfl
@[simp] theorem Mach.poke_dies (m : Mach) (k : Nat) (bs : List Byte) : (m.poke k bs).dies = m.dies := rfl
@[simp] theorem Mach.poke_ctxs (m : Mach) (k : Nat) (bs : List Byte) : (m.poke k bs).ctxs = m.ctxs := rfl
@[simp] theorem Mach.poke_parts (m : Mach) (k : Nat) (bs : List Byte) : (m.poke k bs).parts = m.parts := rfl
@[simp] theorem Mach.poke_dev (m : Mach) (k : Nat) (bs : List Byte) : (m.poke k bs).dev = m.dev := rfl
@[simp] theorem Mach.poke_disps (m : Mach) (k : Nat) (bs : List Byte) : (m.poke k bs).disps = m.disps := rfl
@[simp] theorem Mach.poke_frames (m : Mach) (k : Nat) (bs : List Byte) : (m.poke k bs).frames = m.frames := rfl
@[simp] theorem Mach.poke_flits (m : Mach) (k : Nat) (bs : List Byte) : (m.poke k bs).flits = m.flits := rfl
@[simp] theorem Mach.poke_bankT (m : Mach) (k : Nat) (bs : List Byte) : (m.poke k bs).bankT = m.bankT := rfl
@[simp] theorem Mach.poke_bankUse (m : Mach) (k : Nat) (bs : List Byte) : (m.poke k bs).bankUse = m.bankUse := rfl
@[simp] theorem Mach.poke_bankQ (m : Mach) (k : Nat) (bs : List Byte) : (m.poke k bs).bankQ = m.bankQ := rfl
@[simp] theorem Mach.poke_rowsIn (m : Mach) (k : Nat) (bs : List Byte) : (m.poke k bs).rowsIn = m.rowsIn := rfl
@[simp] theorem Mach.poke_halted (m : Mach) (k : Nat) (bs : List Byte) : (m.poke k bs).halted = m.halted := rfl
@[simp] theorem Mach.poke_bad (m : Mach) (k : Nat) (bs : List Byte) : (m.poke k bs).bad = m.bad := rfl

/-! ## The field that an update writes -/

@[simp] theorem Mach.setHand_hands (m : Mach) (r : Nat) (h : Hand) : (m.setHand r h).hands = m.hands.set r h := rfl
@[simp] theorem Mach.modHand_hands (m : Mach) (r : Nat) (f : Hand → Hand) : (m.modHand r f).hands = m.hands.set r (f (m.hand r)) := rfl
@[simp] theorem Mach.setCluster_clusters (m : Mach) (c : Nat) (x : Cluster) : (m.setCluster c x).clusters = m.clusters.set c x := rfl
@[simp] theorem Mach.modCluster_clusters (m : Mach) (c : Nat) (f : Cluster → Cluster) : (m.modCluster c f).clusters = m.clusters.set c (f (m.cluster c)) := rfl
@[simp] theorem Mach.setDie_dies (m : Mach) (d : Nat) (x : Die) : (m.setDie d x).dies = m.dies.set d x := rfl
@[simp] theorem Mach.modDie_dies (m : Mach) (d : Nat) (f : Die → Die) : (m.modDie d f).dies = m.dies.set d (f (m.die d)) := rfl
@[simp] theorem Mach.setCtx_ctxs (m : Mach) (k : Nat) (x : Ctx) : (m.setCtx k x).ctxs = m.ctxs.set k x := rfl
@[simp] theorem Mach.modCtx_ctxs (m : Mach) (k : Nat) (f : Ctx → Ctx) : (m.modCtx k f).ctxs = m.ctxs.set k (f (m.ctx k)) := rfl
@[simp] theorem Mach.setPart_parts (m : Mach) (p : Nat) (x : Part) : (m.setPart p x).parts = m.parts.set p x := rfl
@[simp] theorem Mach.modPart_parts (m : Mach) (p : Nat) (f : Part → Part) : (m.modPart p f).parts = m.parts.set p (f (m.part p)) := rfl
@[simp] theorem Mach.modDev_dev (m : Mach) (f : Dev → Dev) : (m.modDev f).dev = f m.dev := rfl
@[simp] theorem Mach.modZone_dev (m : Mach) (z : Nat) (f : Zone → Zone) : (m.modZone z f).dev = { m.dev with zones := m.dev.zones.set z (f (m.zone z)) } := rfl
@[simp] theorem Mach.post_agenda (m : Mach) (t : Nat) (i : Instr) : (m.post t i).agenda = agendaAdd t i m.agenda := rfl
@[simp] theorem Mach.bump_nextId (m : Mach) : (m.bump).nextId = m.nextId + 1 := rfl
@[simp] theorem Mach.poke_mem (m : Mach) (k : Nat) (bs : List Byte) : (m.poke k bs).mem = m.mem.writeN k bs := rfl

/-! ## The records read after every update -/

@[simp] theorem Mach.setHand_hand_get (m : Mach) (r : Nat) (h : Hand) (j : Nat) :
    (m.setHand r h).hand j = if j = r then h else m.hand j := KMap.get_set _ _ _ _ _
@[simp] theorem Mach.modHand_hand_get (m : Mach) (r : Nat) (f : Hand → Hand) (j : Nat) :
    (m.modHand r f).hand j = if j = r then f (m.hand r) else m.hand j := KMap.get_set _ _ _ _ _
@[simp] theorem Mach.setCluster_hand_get (m : Mach) (c : Nat) (x : Cluster) (j : Nat) : (m.setCluster c x).hand j = m.hand j := rfl
@[simp] theorem Mach.modCluster_hand_get (m : Mach) (c : Nat) (f : Cluster → Cluster) (j : Nat) : (m.modCluster c f).hand j = m.hand j := rfl
@[simp] theorem Mach.setDie_hand_get (m : Mach) (d : Nat) (x : Die) (j : Nat) : (m.setDie d x).hand j = m.hand j := rfl
@[simp] theorem Mach.modDie_hand_get (m : Mach) (d : Nat) (f : Die → Die) (j : Nat) : (m.modDie d f).hand j = m.hand j := rfl
@[simp] theorem Mach.setCtx_hand_get (m : Mach) (k : Nat) (x : Ctx) (j : Nat) : (m.setCtx k x).hand j = m.hand j := rfl
@[simp] theorem Mach.modCtx_hand_get (m : Mach) (k : Nat) (f : Ctx → Ctx) (j : Nat) : (m.modCtx k f).hand j = m.hand j := rfl
@[simp] theorem Mach.setPart_hand_get (m : Mach) (p : Nat) (x : Part) (j : Nat) : (m.setPart p x).hand j = m.hand j := rfl
@[simp] theorem Mach.modPart_hand_get (m : Mach) (p : Nat) (f : Part → Part) (j : Nat) : (m.modPart p f).hand j = m.hand j := rfl
@[simp] theorem Mach.modDev_hand_get (m : Mach) (f : Dev → Dev) (j : Nat) : (m.modDev f).hand j = m.hand j := rfl
@[simp] theorem Mach.modZone_hand_get (m : Mach) (z : Nat) (f : Zone → Zone) (j : Nat) : (m.modZone z f).hand j = m.hand j := rfl
@[simp] theorem Mach.post_hand_get (m : Mach) (t : Nat) (i : Instr) (j : Nat) : (m.post t i).hand j = m.hand j := rfl
@[simp] theorem Mach.bump_hand_get (m : Mach) (j : Nat) : (m.bump).hand j = m.hand j := rfl
@[simp] theorem Mach.poke_hand_get (m : Mach) (k : Nat) (bs : List Byte) (j : Nat) : (m.poke k bs).hand j = m.hand j := rfl

@[simp] theorem Mach.setHand_cluster_get (m : Mach) (r : Nat) (h : Hand) (j : Nat) : (m.setHand r h).cluster j = m.cluster j := rfl
@[simp] theorem Mach.modHand_cluster_get (m : Mach) (r : Nat) (f : Hand → Hand) (j : Nat) : (m.modHand r f).cluster j = m.cluster j := rfl
@[simp] theorem Mach.setCluster_cluster_get (m : Mach) (c : Nat) (x : Cluster) (j : Nat) :
    (m.setCluster c x).cluster j = if j = c then x else m.cluster j := KMap.get_set _ _ _ _ _
@[simp] theorem Mach.modCluster_cluster_get (m : Mach) (c : Nat) (f : Cluster → Cluster) (j : Nat) :
    (m.modCluster c f).cluster j = if j = c then f (m.cluster c) else m.cluster j := KMap.get_set _ _ _ _ _
@[simp] theorem Mach.setDie_cluster_get (m : Mach) (d : Nat) (x : Die) (j : Nat) : (m.setDie d x).cluster j = m.cluster j := rfl
@[simp] theorem Mach.modDie_cluster_get (m : Mach) (d : Nat) (f : Die → Die) (j : Nat) : (m.modDie d f).cluster j = m.cluster j := rfl
@[simp] theorem Mach.setCtx_cluster_get (m : Mach) (k : Nat) (x : Ctx) (j : Nat) : (m.setCtx k x).cluster j = m.cluster j := rfl
@[simp] theorem Mach.modCtx_cluster_get (m : Mach) (k : Nat) (f : Ctx → Ctx) (j : Nat) : (m.modCtx k f).cluster j = m.cluster j := rfl
@[simp] theorem Mach.setPart_cluster_get (m : Mach) (p : Nat) (x : Part) (j : Nat) : (m.setPart p x).cluster j = m.cluster j := rfl
@[simp] theorem Mach.modPart_cluster_get (m : Mach) (p : Nat) (f : Part → Part) (j : Nat) : (m.modPart p f).cluster j = m.cluster j := rfl
@[simp] theorem Mach.modDev_cluster_get (m : Mach) (f : Dev → Dev) (j : Nat) : (m.modDev f).cluster j = m.cluster j := rfl
@[simp] theorem Mach.modZone_cluster_get (m : Mach) (z : Nat) (f : Zone → Zone) (j : Nat) : (m.modZone z f).cluster j = m.cluster j := rfl
@[simp] theorem Mach.post_cluster_get (m : Mach) (t : Nat) (i : Instr) (j : Nat) : (m.post t i).cluster j = m.cluster j := rfl
@[simp] theorem Mach.bump_cluster_get (m : Mach) (j : Nat) : (m.bump).cluster j = m.cluster j := rfl
@[simp] theorem Mach.poke_cluster_get (m : Mach) (k : Nat) (bs : List Byte) (j : Nat) : (m.poke k bs).cluster j = m.cluster j := rfl

@[simp] theorem Mach.setHand_die_get (m : Mach) (r : Nat) (h : Hand) (j : Nat) : (m.setHand r h).die j = m.die j := rfl
@[simp] theorem Mach.modHand_die_get (m : Mach) (r : Nat) (f : Hand → Hand) (j : Nat) : (m.modHand r f).die j = m.die j := rfl
@[simp] theorem Mach.setCluster_die_get (m : Mach) (c : Nat) (x : Cluster) (j : Nat) : (m.setCluster c x).die j = m.die j := rfl
@[simp] theorem Mach.modCluster_die_get (m : Mach) (c : Nat) (f : Cluster → Cluster) (j : Nat) : (m.modCluster c f).die j = m.die j := rfl
@[simp] theorem Mach.setDie_die_get (m : Mach) (d : Nat) (x : Die) (j : Nat) :
    (m.setDie d x).die j = if j = d then x else m.die j := KMap.get_set _ _ _ _ _
@[simp] theorem Mach.modDie_die_get (m : Mach) (d : Nat) (f : Die → Die) (j : Nat) :
    (m.modDie d f).die j = if j = d then f (m.die d) else m.die j := KMap.get_set _ _ _ _ _
@[simp] theorem Mach.setCtx_die_get (m : Mach) (k : Nat) (x : Ctx) (j : Nat) : (m.setCtx k x).die j = m.die j := rfl
@[simp] theorem Mach.modCtx_die_get (m : Mach) (k : Nat) (f : Ctx → Ctx) (j : Nat) : (m.modCtx k f).die j = m.die j := rfl
@[simp] theorem Mach.setPart_die_get (m : Mach) (p : Nat) (x : Part) (j : Nat) : (m.setPart p x).die j = m.die j := rfl
@[simp] theorem Mach.modPart_die_get (m : Mach) (p : Nat) (f : Part → Part) (j : Nat) : (m.modPart p f).die j = m.die j := rfl
@[simp] theorem Mach.modDev_die_get (m : Mach) (f : Dev → Dev) (j : Nat) : (m.modDev f).die j = m.die j := rfl
@[simp] theorem Mach.modZone_die_get (m : Mach) (z : Nat) (f : Zone → Zone) (j : Nat) : (m.modZone z f).die j = m.die j := rfl
@[simp] theorem Mach.post_die_get (m : Mach) (t : Nat) (i : Instr) (j : Nat) : (m.post t i).die j = m.die j := rfl
@[simp] theorem Mach.bump_die_get (m : Mach) (j : Nat) : (m.bump).die j = m.die j := rfl
@[simp] theorem Mach.poke_die_get (m : Mach) (k : Nat) (bs : List Byte) (j : Nat) : (m.poke k bs).die j = m.die j := rfl

@[simp] theorem Mach.setHand_ctx_get (m : Mach) (r : Nat) (h : Hand) (j : Nat) : (m.setHand r h).ctx j = m.ctx j := rfl
@[simp] theorem Mach.modHand_ctx_get (m : Mach) (r : Nat) (f : Hand → Hand) (j : Nat) : (m.modHand r f).ctx j = m.ctx j := rfl
@[simp] theorem Mach.setCluster_ctx_get (m : Mach) (c : Nat) (x : Cluster) (j : Nat) : (m.setCluster c x).ctx j = m.ctx j := rfl
@[simp] theorem Mach.modCluster_ctx_get (m : Mach) (c : Nat) (f : Cluster → Cluster) (j : Nat) : (m.modCluster c f).ctx j = m.ctx j := rfl
@[simp] theorem Mach.setDie_ctx_get (m : Mach) (d : Nat) (x : Die) (j : Nat) : (m.setDie d x).ctx j = m.ctx j := rfl
@[simp] theorem Mach.modDie_ctx_get (m : Mach) (d : Nat) (f : Die → Die) (j : Nat) : (m.modDie d f).ctx j = m.ctx j := rfl
@[simp] theorem Mach.setCtx_ctx_get (m : Mach) (k : Nat) (x : Ctx) (j : Nat) :
    (m.setCtx k x).ctx j = if j = k then x else m.ctx j := KMap.get_set _ _ _ _ _
@[simp] theorem Mach.modCtx_ctx_get (m : Mach) (k : Nat) (f : Ctx → Ctx) (j : Nat) :
    (m.modCtx k f).ctx j = if j = k then f (m.ctx k) else m.ctx j := KMap.get_set _ _ _ _ _
@[simp] theorem Mach.setPart_ctx_get (m : Mach) (p : Nat) (x : Part) (j : Nat) : (m.setPart p x).ctx j = m.ctx j := rfl
@[simp] theorem Mach.modPart_ctx_get (m : Mach) (p : Nat) (f : Part → Part) (j : Nat) : (m.modPart p f).ctx j = m.ctx j := rfl
@[simp] theorem Mach.modDev_ctx_get (m : Mach) (f : Dev → Dev) (j : Nat) : (m.modDev f).ctx j = m.ctx j := rfl
@[simp] theorem Mach.modZone_ctx_get (m : Mach) (z : Nat) (f : Zone → Zone) (j : Nat) : (m.modZone z f).ctx j = m.ctx j := rfl
@[simp] theorem Mach.post_ctx_get (m : Mach) (t : Nat) (i : Instr) (j : Nat) : (m.post t i).ctx j = m.ctx j := rfl
@[simp] theorem Mach.bump_ctx_get (m : Mach) (j : Nat) : (m.bump).ctx j = m.ctx j := rfl
@[simp] theorem Mach.poke_ctx_get (m : Mach) (k : Nat) (bs : List Byte) (j : Nat) : (m.poke k bs).ctx j = m.ctx j := rfl

@[simp] theorem Mach.setHand_part_get (m : Mach) (r : Nat) (h : Hand) (j : Nat) : (m.setHand r h).part j = m.part j := rfl
@[simp] theorem Mach.modHand_part_get (m : Mach) (r : Nat) (f : Hand → Hand) (j : Nat) : (m.modHand r f).part j = m.part j := rfl
@[simp] theorem Mach.setCluster_part_get (m : Mach) (c : Nat) (x : Cluster) (j : Nat) : (m.setCluster c x).part j = m.part j := rfl
@[simp] theorem Mach.modCluster_part_get (m : Mach) (c : Nat) (f : Cluster → Cluster) (j : Nat) : (m.modCluster c f).part j = m.part j := rfl
@[simp] theorem Mach.setDie_part_get (m : Mach) (d : Nat) (x : Die) (j : Nat) : (m.setDie d x).part j = m.part j := rfl
@[simp] theorem Mach.modDie_part_get (m : Mach) (d : Nat) (f : Die → Die) (j : Nat) : (m.modDie d f).part j = m.part j := rfl
@[simp] theorem Mach.setCtx_part_get (m : Mach) (k : Nat) (x : Ctx) (j : Nat) : (m.setCtx k x).part j = m.part j := rfl
@[simp] theorem Mach.modCtx_part_get (m : Mach) (k : Nat) (f : Ctx → Ctx) (j : Nat) : (m.modCtx k f).part j = m.part j := rfl
@[simp] theorem Mach.setPart_part_get (m : Mach) (p : Nat) (x : Part) (j : Nat) :
    (m.setPart p x).part j = if j = p then x else m.part j := KMap.get_set _ _ _ _ _
@[simp] theorem Mach.modPart_part_get (m : Mach) (p : Nat) (f : Part → Part) (j : Nat) :
    (m.modPart p f).part j = if j = p then f (m.part p) else m.part j := KMap.get_set _ _ _ _ _
@[simp] theorem Mach.modDev_part_get (m : Mach) (f : Dev → Dev) (j : Nat) : (m.modDev f).part j = m.part j := rfl
@[simp] theorem Mach.modZone_part_get (m : Mach) (z : Nat) (f : Zone → Zone) (j : Nat) : (m.modZone z f).part j = m.part j := rfl
@[simp] theorem Mach.post_part_get (m : Mach) (t : Nat) (i : Instr) (j : Nat) : (m.post t i).part j = m.part j := rfl
@[simp] theorem Mach.bump_part_get (m : Mach) (j : Nat) : (m.bump).part j = m.part j := rfl
@[simp] theorem Mach.poke_part_get (m : Mach) (k : Nat) (bs : List Byte) (j : Nat) : (m.poke k bs).part j = m.part j := rfl

@[simp] theorem Mach.modZone_zone_get (m : Mach) (z : Nat) (f : Zone → Zone) (j : Nat) :
    (m.modZone z f).zone j = if j = z then f (m.zone z) else m.zone j := KMap.get_set _ _ _ _ _

/-! ## A hand after the updates of an engine, a control register and a token FIFO -/

@[simp] theorem Hand.setCreg_ctx (h : Hand) (n : Nat) (v : W64) : (h.setCreg n v).ctx = h.ctx := rfl
@[simp] theorem Hand.setCreg_thread (h : Hand) (n : Nat) (v : W64) : (h.setCreg n v).thread = h.thread := rfl
@[simp] theorem Hand.setCreg_launch (h : Hand) (n : Nat) (v : W64) : (h.setCreg n v).launch = h.launch := rfl
@[simp] theorem Hand.setCreg_tid (h : Hand) (n : Nat) (v : W64) : (h.setCreg n v).tid = h.tid := rfl
@[simp] theorem Hand.setCreg_ea (h : Hand) (n : Nat) (v : W64) : (h.setCreg n v).ea = h.ea := rfl
@[simp] theorem Hand.setCreg_ex (h : Hand) (n : Nat) (v : W64) : (h.setCreg n v).ex = h.ex := rfl
@[simp] theorem Hand.setCreg_em (h : Hand) (n : Nat) (v : W64) : (h.setCreg n v).em = h.em := rfl
@[simp] theorem Hand.setCreg_s (h : Hand) (n : Nat) (v : W64) : (h.setCreg n v).s = h.s := rfl
@[simp] theorem Hand.setCreg_a (h : Hand) (n : Nat) (v : W64) : (h.setCreg n v).a = h.a := rfl
@[simp] theorem Hand.setCreg_p (h : Hand) (n : Nat) (v : W64) : (h.setCreg n v).p = h.p := rfl
@[simp] theorem Hand.setCreg_st (h : Hand) (n : Nat) (v : W64) : (h.setCreg n v).st = h.st := rfl
@[simp] theorem Hand.setCreg_h (h : Hand) (n : Nat) (v : W64) : (h.setCreg n v).h = h.h := rfl
@[simp] theorem Hand.setCreg_v (h : Hand) (n : Nat) (v : W64) : (h.setCreg n v).v = h.v := rfl
@[simp] theorem Hand.setCreg_pool (h : Hand) (n : Nat) (v : W64) : (h.setCreg n v).pool = h.pool := rfl
@[simp] theorem Hand.setCreg_freed (h : Hand) (n : Nat) (v : W64) : (h.setCreg n v).freed = h.freed := rfl
@[simp] theorem Hand.setCreg_peeks (h : Hand) (n : Nat) (v : W64) : (h.setCreg n v).peeks = h.peeks := rfl
@[simp] theorem Hand.setCreg_fifos (h : Hand) (n : Nat) (v : W64) : (h.setCreg n v).fifos = h.fifos := rfl
@[simp] theorem Hand.setCreg_results (h : Hand) (n : Nat) (v : W64) : (h.setCreg n v).results = h.results := rfl
@[simp] theorem Hand.setCreg_vclk (h : Hand) (n : Nat) (v : W64) : (h.setCreg n v).vclk = h.vclk := rfl
@[simp] theorem Hand.setCreg_frzc (h : Hand) (n : Nat) (v : W64) : (h.setCreg n v).frzc = h.frzc := rfl
@[simp] theorem Hand.setCreg_frzRun (h : Hand) (n : Nat) (v : W64) : (h.setCreg n v).frzRun = h.frzRun := rfl
@[simp] theorem Hand.setCreg_blocked (h : Hand) (n : Nat) (v : W64) : (h.setCreg n v).blocked = h.blocked := rfl
@[simp] theorem Hand.setCreg_holdTill (h : Hand) (n : Nat) (v : W64) : (h.setCreg n v).holdTill = h.holdTill := rfl
@[simp] theorem Hand.setCreg_ring (h : Hand) (n : Nat) (v : W64) : (h.setCreg n v).ring = h.ring := rfl
@[simp] theorem Hand.setCreg_busy (h : Hand) (n : Nat) (v : W64) : (h.setCreg n v).busy = h.busy := rfl
@[simp] theorem Hand.setCreg_pending (h : Hand) (n : Nat) (v : W64) : (h.setCreg n v).pending = h.pending := rfl
@[simp] theorem Hand.setCreg_lost (h : Hand) (n : Nat) (v : W64) : (h.setCreg n v).lost = h.lost := rfl
@[simp] theorem Hand.setCreg_live (h : Hand) (n : Nat) (v : W64) : (h.setCreg n v).live = h.live := rfl
@[simp] theorem Hand.setCreg_injected (h : Hand) (n : Nat) (v : W64) : (h.setCreg n v).injected = h.injected := rfl
@[simp] theorem Hand.setCreg_tcause (h : Hand) (n : Nat) (v : W64) : (h.setCreg n v).tcause = h.tcause := rfl
@[simp] theorem Hand.setCreg_xflags (h : Hand) (n : Nat) (v : W64) : (h.setCreg n v).xflags = h.xflags := rfl
@[simp] theorem Hand.setCreg_accs (h : Hand) (n : Nat) (v : W64) : (h.setCreg n v).accs = h.accs := rfl
@[simp] theorem Hand.setCreg_accHold (h : Hand) (n : Nat) (v : W64) : (h.setCreg n v).accHold = h.accHold := rfl
@[simp] theorem Hand.setCreg_alignAt (h : Hand) (n : Nat) (v : W64) : (h.setCreg n v).alignAt = h.alignAt := rfl
@[simp] theorem Hand.setCreg_relAt (h : Hand) (n : Nat) (v : W64) : (h.setCreg n v).relAt = h.relAt := rfl
@[simp] theorem Hand.setCreg_aligns (h : Hand) (n : Nat) (v : W64) : (h.setCreg n v).aligns = h.aligns := rfl
@[simp] theorem Hand.setCreg_copies (h : Hand) (n : Nat) (v : W64) : (h.setCreg n v).copies = h.copies := rfl
@[simp] theorem Hand.setCreg_deadCopies (h : Hand) (n : Nat) (v : W64) : (h.setCreg n v).deadCopies = h.deadCopies := rfl
@[simp] theorem Hand.setCreg_cpseq (h : Hand) (n : Nat) (v : W64) : (h.setCreg n v).cpseq = h.cpseq := rfl
@[simp] theorem Hand.setCreg_colls (h : Hand) (n : Nat) (v : W64) : (h.setCreg n v).colls = h.colls := rfl
@[simp] theorem Hand.setCreg_clseq (h : Hand) (n : Nat) (v : W64) : (h.setCreg n v).clseq = h.clseq := rfl
@[simp] theorem Hand.setCreg_disps (h : Hand) (n : Nat) (v : W64) : (h.setCreg n v).disps = h.disps := rfl
@[simp] theorem Hand.setCreg_pbSaved (h : Hand) (n : Nat) (v : W64) : (h.setCreg n v).pbSaved = h.pbSaved := rfl
@[simp] theorem Hand.setCreg_boostSt (h : Hand) (n : Nat) (v : W64) : (h.setCreg n v).boostSt = h.boostSt := rfl
@[simp] theorem Hand.setCreg_boostLvl (h : Hand) (n : Nat) (v : W64) : (h.setCreg n v).boostLvl = h.boostLvl := rfl
@[simp] theorem Hand.setCreg_boostEnd (h : Hand) (n : Nat) (v : W64) : (h.setCreg n v).boostEnd = h.boostEnd := rfl
@[simp] theorem Hand.setCreg_boostLeft (h : Hand) (n : Nat) (v : W64) : (h.setCreg n v).boostLeft = h.boostLeft := rfl
@[simp] theorem Hand.setCreg_boostAgain (h : Hand) (n : Nat) (v : W64) : (h.setCreg n v).boostAgain = h.boostAgain := rfl
@[simp] theorem Hand.setCreg_aside (h : Hand) (n : Nat) (v : W64) : (h.setCreg n v).aside = h.aside := rfl
@[simp] theorem Hand.setCreg_savedRem (h : Hand) (n : Nat) (v : W64) : (h.setCreg n v).savedRem = h.savedRem := rfl
@[simp] theorem Hand.setCreg_ttAdds (h : Hand) (n : Nat) (v : W64) : (h.setCreg n v).ttAdds = h.ttAdds := rfl
@[simp] theorem Hand.setCreg_ttWait (h : Hand) (n : Nat) (v : W64) : (h.setCreg n v).ttWait = h.ttWait := rfl
@[simp] theorem Hand.setCreg_stage (h : Hand) (n : Nat) (v : W64) : (h.setCreg n v).stage = h.stage := rfl
@[simp] theorem Hand.setCreg_stageT (h : Hand) (n : Nat) (v : W64) : (h.setCreg n v).stageT = h.stageT := rfl
@[simp] theorem Hand.setCreg_stageV (h : Hand) (n : Nat) (v : W64) : (h.setCreg n v).stageV = h.stageV := rfl
@[simp] theorem Hand.setCreg_coWait (h : Hand) (n : Nat) (v : W64) : (h.setCreg n v).coWait = h.coWait := rfl
@[simp] theorem Hand.setCreg_freeAt (h : Hand) (n : Nat) (v : W64) : (h.setCreg n v).freeAt = h.freeAt := rfl
@[simp] theorem Hand.setCreg_dealtT (h : Hand) (n : Nat) (v : W64) : (h.setCreg n v).dealtT = h.dealtT := rfl
@[simp] theorem Hand.setCreg_barTill (h : Hand) (n : Nat) (v : W64) : (h.setCreg n v).barTill = h.barTill := rfl
@[simp] theorem Hand.setCreg_draining (h : Hand) (n : Nat) (v : W64) : (h.setCreg n v).draining = h.draining := rfl
@[simp] theorem Hand.setCreg_cmdSaved (h : Hand) (n : Nat) (v : W64) : (h.setCreg n v).cmdSaved = h.cmdSaved := rfl
@[simp] theorem Hand.setCreg_askLease (h : Hand) (n : Nat) (v : W64) : (h.setCreg n v).askLease = h.askLease := rfl
@[simp] theorem Hand.setCreg_tlbi (h : Hand) (n : Nat) (v : W64) : (h.setCreg n v).tlbi = h.tlbi := rfl

@[simp] theorem Hand.setFifo_ctx (h : Hand) (g : Nat) (x : Fifo) : (h.setFifo g x).ctx = h.ctx := rfl
@[simp] theorem Hand.setFifo_thread (h : Hand) (g : Nat) (x : Fifo) : (h.setFifo g x).thread = h.thread := rfl
@[simp] theorem Hand.setFifo_launch (h : Hand) (g : Nat) (x : Fifo) : (h.setFifo g x).launch = h.launch := rfl
@[simp] theorem Hand.setFifo_tid (h : Hand) (g : Nat) (x : Fifo) : (h.setFifo g x).tid = h.tid := rfl
@[simp] theorem Hand.setFifo_ea (h : Hand) (g : Nat) (x : Fifo) : (h.setFifo g x).ea = h.ea := rfl
@[simp] theorem Hand.setFifo_ex (h : Hand) (g : Nat) (x : Fifo) : (h.setFifo g x).ex = h.ex := rfl
@[simp] theorem Hand.setFifo_em (h : Hand) (g : Nat) (x : Fifo) : (h.setFifo g x).em = h.em := rfl
@[simp] theorem Hand.setFifo_s (h : Hand) (g : Nat) (x : Fifo) : (h.setFifo g x).s = h.s := rfl
@[simp] theorem Hand.setFifo_a (h : Hand) (g : Nat) (x : Fifo) : (h.setFifo g x).a = h.a := rfl
@[simp] theorem Hand.setFifo_p (h : Hand) (g : Nat) (x : Fifo) : (h.setFifo g x).p = h.p := rfl
@[simp] theorem Hand.setFifo_st (h : Hand) (g : Nat) (x : Fifo) : (h.setFifo g x).st = h.st := rfl
@[simp] theorem Hand.setFifo_h (h : Hand) (g : Nat) (x : Fifo) : (h.setFifo g x).h = h.h := rfl
@[simp] theorem Hand.setFifo_v (h : Hand) (g : Nat) (x : Fifo) : (h.setFifo g x).v = h.v := rfl
@[simp] theorem Hand.setFifo_pool (h : Hand) (g : Nat) (x : Fifo) : (h.setFifo g x).pool = h.pool := rfl
@[simp] theorem Hand.setFifo_freed (h : Hand) (g : Nat) (x : Fifo) : (h.setFifo g x).freed = h.freed := rfl
@[simp] theorem Hand.setFifo_peeks (h : Hand) (g : Nat) (x : Fifo) : (h.setFifo g x).peeks = h.peeks := rfl
@[simp] theorem Hand.setFifo_results (h : Hand) (g : Nat) (x : Fifo) : (h.setFifo g x).results = h.results := rfl
@[simp] theorem Hand.setFifo_vclk (h : Hand) (g : Nat) (x : Fifo) : (h.setFifo g x).vclk = h.vclk := rfl
@[simp] theorem Hand.setFifo_frzc (h : Hand) (g : Nat) (x : Fifo) : (h.setFifo g x).frzc = h.frzc := rfl
@[simp] theorem Hand.setFifo_frzRun (h : Hand) (g : Nat) (x : Fifo) : (h.setFifo g x).frzRun = h.frzRun := rfl
@[simp] theorem Hand.setFifo_blocked (h : Hand) (g : Nat) (x : Fifo) : (h.setFifo g x).blocked = h.blocked := rfl
@[simp] theorem Hand.setFifo_holdTill (h : Hand) (g : Nat) (x : Fifo) : (h.setFifo g x).holdTill = h.holdTill := rfl
@[simp] theorem Hand.setFifo_ring (h : Hand) (g : Nat) (x : Fifo) : (h.setFifo g x).ring = h.ring := rfl
@[simp] theorem Hand.setFifo_busy (h : Hand) (g : Nat) (x : Fifo) : (h.setFifo g x).busy = h.busy := rfl
@[simp] theorem Hand.setFifo_pending (h : Hand) (g : Nat) (x : Fifo) : (h.setFifo g x).pending = h.pending := rfl
@[simp] theorem Hand.setFifo_lost (h : Hand) (g : Nat) (x : Fifo) : (h.setFifo g x).lost = h.lost := rfl
@[simp] theorem Hand.setFifo_live (h : Hand) (g : Nat) (x : Fifo) : (h.setFifo g x).live = h.live := rfl
@[simp] theorem Hand.setFifo_injected (h : Hand) (g : Nat) (x : Fifo) : (h.setFifo g x).injected = h.injected := rfl
@[simp] theorem Hand.setFifo_tcause (h : Hand) (g : Nat) (x : Fifo) : (h.setFifo g x).tcause = h.tcause := rfl
@[simp] theorem Hand.setFifo_cr (h : Hand) (g : Nat) (x : Fifo) : (h.setFifo g x).cr = h.cr := rfl
@[simp] theorem Hand.setFifo_xflags (h : Hand) (g : Nat) (x : Fifo) : (h.setFifo g x).xflags = h.xflags := rfl
@[simp] theorem Hand.setFifo_accs (h : Hand) (g : Nat) (x : Fifo) : (h.setFifo g x).accs = h.accs := rfl
@[simp] theorem Hand.setFifo_accHold (h : Hand) (g : Nat) (x : Fifo) : (h.setFifo g x).accHold = h.accHold := rfl
@[simp] theorem Hand.setFifo_alignAt (h : Hand) (g : Nat) (x : Fifo) : (h.setFifo g x).alignAt = h.alignAt := rfl
@[simp] theorem Hand.setFifo_relAt (h : Hand) (g : Nat) (x : Fifo) : (h.setFifo g x).relAt = h.relAt := rfl
@[simp] theorem Hand.setFifo_aligns (h : Hand) (g : Nat) (x : Fifo) : (h.setFifo g x).aligns = h.aligns := rfl
@[simp] theorem Hand.setFifo_copies (h : Hand) (g : Nat) (x : Fifo) : (h.setFifo g x).copies = h.copies := rfl
@[simp] theorem Hand.setFifo_deadCopies (h : Hand) (g : Nat) (x : Fifo) : (h.setFifo g x).deadCopies = h.deadCopies := rfl
@[simp] theorem Hand.setFifo_cpseq (h : Hand) (g : Nat) (x : Fifo) : (h.setFifo g x).cpseq = h.cpseq := rfl
@[simp] theorem Hand.setFifo_colls (h : Hand) (g : Nat) (x : Fifo) : (h.setFifo g x).colls = h.colls := rfl
@[simp] theorem Hand.setFifo_clseq (h : Hand) (g : Nat) (x : Fifo) : (h.setFifo g x).clseq = h.clseq := rfl
@[simp] theorem Hand.setFifo_disps (h : Hand) (g : Nat) (x : Fifo) : (h.setFifo g x).disps = h.disps := rfl
@[simp] theorem Hand.setFifo_pbSaved (h : Hand) (g : Nat) (x : Fifo) : (h.setFifo g x).pbSaved = h.pbSaved := rfl
@[simp] theorem Hand.setFifo_boostSt (h : Hand) (g : Nat) (x : Fifo) : (h.setFifo g x).boostSt = h.boostSt := rfl
@[simp] theorem Hand.setFifo_boostLvl (h : Hand) (g : Nat) (x : Fifo) : (h.setFifo g x).boostLvl = h.boostLvl := rfl
@[simp] theorem Hand.setFifo_boostEnd (h : Hand) (g : Nat) (x : Fifo) : (h.setFifo g x).boostEnd = h.boostEnd := rfl
@[simp] theorem Hand.setFifo_boostLeft (h : Hand) (g : Nat) (x : Fifo) : (h.setFifo g x).boostLeft = h.boostLeft := rfl
@[simp] theorem Hand.setFifo_boostAgain (h : Hand) (g : Nat) (x : Fifo) : (h.setFifo g x).boostAgain = h.boostAgain := rfl
@[simp] theorem Hand.setFifo_aside (h : Hand) (g : Nat) (x : Fifo) : (h.setFifo g x).aside = h.aside := rfl
@[simp] theorem Hand.setFifo_savedRem (h : Hand) (g : Nat) (x : Fifo) : (h.setFifo g x).savedRem = h.savedRem := rfl
@[simp] theorem Hand.setFifo_ttAdds (h : Hand) (g : Nat) (x : Fifo) : (h.setFifo g x).ttAdds = h.ttAdds := rfl
@[simp] theorem Hand.setFifo_ttWait (h : Hand) (g : Nat) (x : Fifo) : (h.setFifo g x).ttWait = h.ttWait := rfl
@[simp] theorem Hand.setFifo_stage (h : Hand) (g : Nat) (x : Fifo) : (h.setFifo g x).stage = h.stage := rfl
@[simp] theorem Hand.setFifo_stageT (h : Hand) (g : Nat) (x : Fifo) : (h.setFifo g x).stageT = h.stageT := rfl
@[simp] theorem Hand.setFifo_stageV (h : Hand) (g : Nat) (x : Fifo) : (h.setFifo g x).stageV = h.stageV := rfl
@[simp] theorem Hand.setFifo_coWait (h : Hand) (g : Nat) (x : Fifo) : (h.setFifo g x).coWait = h.coWait := rfl
@[simp] theorem Hand.setFifo_freeAt (h : Hand) (g : Nat) (x : Fifo) : (h.setFifo g x).freeAt = h.freeAt := rfl
@[simp] theorem Hand.setFifo_dealtT (h : Hand) (g : Nat) (x : Fifo) : (h.setFifo g x).dealtT = h.dealtT := rfl
@[simp] theorem Hand.setFifo_barTill (h : Hand) (g : Nat) (x : Fifo) : (h.setFifo g x).barTill = h.barTill := rfl
@[simp] theorem Hand.setFifo_draining (h : Hand) (g : Nat) (x : Fifo) : (h.setFifo g x).draining = h.draining := rfl
@[simp] theorem Hand.setFifo_cmdSaved (h : Hand) (g : Nat) (x : Fifo) : (h.setFifo g x).cmdSaved = h.cmdSaved := rfl
@[simp] theorem Hand.setFifo_askLease (h : Hand) (g : Nat) (x : Fifo) : (h.setFifo g x).askLease = h.askLease := rfl
@[simp] theorem Hand.setFifo_tlbi (h : Hand) (g : Nat) (x : Fifo) : (h.setFifo g x).tlbi = h.tlbi := rfl

@[simp] theorem Hand.setEngine_ctx (h : Hand) (e : Engine) (x : EngineState) : (h.setEngine e x).ctx = h.ctx := by cases e <;> rfl
@[simp] theorem Hand.setEngine_thread (h : Hand) (e : Engine) (x : EngineState) : (h.setEngine e x).thread = h.thread := by cases e <;> rfl
@[simp] theorem Hand.setEngine_launch (h : Hand) (e : Engine) (x : EngineState) : (h.setEngine e x).launch = h.launch := by cases e <;> rfl
@[simp] theorem Hand.setEngine_tid (h : Hand) (e : Engine) (x : EngineState) : (h.setEngine e x).tid = h.tid := by cases e <;> rfl
@[simp] theorem Hand.setEngine_s (h : Hand) (e : Engine) (x : EngineState) : (h.setEngine e x).s = h.s := by cases e <;> rfl
@[simp] theorem Hand.setEngine_a (h : Hand) (e : Engine) (x : EngineState) : (h.setEngine e x).a = h.a := by cases e <;> rfl
@[simp] theorem Hand.setEngine_p (h : Hand) (e : Engine) (x : EngineState) : (h.setEngine e x).p = h.p := by cases e <;> rfl
@[simp] theorem Hand.setEngine_st (h : Hand) (e : Engine) (x : EngineState) : (h.setEngine e x).st = h.st := by cases e <;> rfl
@[simp] theorem Hand.setEngine_h (h : Hand) (e : Engine) (x : EngineState) : (h.setEngine e x).h = h.h := by cases e <;> rfl
@[simp] theorem Hand.setEngine_v (h : Hand) (e : Engine) (x : EngineState) : (h.setEngine e x).v = h.v := by cases e <;> rfl
@[simp] theorem Hand.setEngine_pool (h : Hand) (e : Engine) (x : EngineState) : (h.setEngine e x).pool = h.pool := by cases e <;> rfl
@[simp] theorem Hand.setEngine_freed (h : Hand) (e : Engine) (x : EngineState) : (h.setEngine e x).freed = h.freed := by cases e <;> rfl
@[simp] theorem Hand.setEngine_peeks (h : Hand) (e : Engine) (x : EngineState) : (h.setEngine e x).peeks = h.peeks := by cases e <;> rfl
@[simp] theorem Hand.setEngine_fifos (h : Hand) (e : Engine) (x : EngineState) : (h.setEngine e x).fifos = h.fifos := by cases e <;> rfl
@[simp] theorem Hand.setEngine_results (h : Hand) (e : Engine) (x : EngineState) : (h.setEngine e x).results = h.results := by cases e <;> rfl
@[simp] theorem Hand.setEngine_vclk (h : Hand) (e : Engine) (x : EngineState) : (h.setEngine e x).vclk = h.vclk := by cases e <;> rfl
@[simp] theorem Hand.setEngine_frzc (h : Hand) (e : Engine) (x : EngineState) : (h.setEngine e x).frzc = h.frzc := by cases e <;> rfl
@[simp] theorem Hand.setEngine_frzRun (h : Hand) (e : Engine) (x : EngineState) : (h.setEngine e x).frzRun = h.frzRun := by cases e <;> rfl
@[simp] theorem Hand.setEngine_blocked (h : Hand) (e : Engine) (x : EngineState) : (h.setEngine e x).blocked = h.blocked := by cases e <;> rfl
@[simp] theorem Hand.setEngine_holdTill (h : Hand) (e : Engine) (x : EngineState) : (h.setEngine e x).holdTill = h.holdTill := by cases e <;> rfl
@[simp] theorem Hand.setEngine_ring (h : Hand) (e : Engine) (x : EngineState) : (h.setEngine e x).ring = h.ring := by cases e <;> rfl
@[simp] theorem Hand.setEngine_busy (h : Hand) (e : Engine) (x : EngineState) : (h.setEngine e x).busy = h.busy := by cases e <;> rfl
@[simp] theorem Hand.setEngine_pending (h : Hand) (e : Engine) (x : EngineState) : (h.setEngine e x).pending = h.pending := by cases e <;> rfl
@[simp] theorem Hand.setEngine_lost (h : Hand) (e : Engine) (x : EngineState) : (h.setEngine e x).lost = h.lost := by cases e <;> rfl
@[simp] theorem Hand.setEngine_live (h : Hand) (e : Engine) (x : EngineState) : (h.setEngine e x).live = h.live := by cases e <;> rfl
@[simp] theorem Hand.setEngine_injected (h : Hand) (e : Engine) (x : EngineState) : (h.setEngine e x).injected = h.injected := by cases e <;> rfl
@[simp] theorem Hand.setEngine_tcause (h : Hand) (e : Engine) (x : EngineState) : (h.setEngine e x).tcause = h.tcause := by cases e <;> rfl
@[simp] theorem Hand.setEngine_cr (h : Hand) (e : Engine) (x : EngineState) : (h.setEngine e x).cr = h.cr := by cases e <;> rfl
@[simp] theorem Hand.setEngine_xflags (h : Hand) (e : Engine) (x : EngineState) : (h.setEngine e x).xflags = h.xflags := by cases e <;> rfl
@[simp] theorem Hand.setEngine_accs (h : Hand) (e : Engine) (x : EngineState) : (h.setEngine e x).accs = h.accs := by cases e <;> rfl
@[simp] theorem Hand.setEngine_accHold (h : Hand) (e : Engine) (x : EngineState) : (h.setEngine e x).accHold = h.accHold := by cases e <;> rfl
@[simp] theorem Hand.setEngine_alignAt (h : Hand) (e : Engine) (x : EngineState) : (h.setEngine e x).alignAt = h.alignAt := by cases e <;> rfl
@[simp] theorem Hand.setEngine_relAt (h : Hand) (e : Engine) (x : EngineState) : (h.setEngine e x).relAt = h.relAt := by cases e <;> rfl
@[simp] theorem Hand.setEngine_aligns (h : Hand) (e : Engine) (x : EngineState) : (h.setEngine e x).aligns = h.aligns := by cases e <;> rfl
@[simp] theorem Hand.setEngine_copies (h : Hand) (e : Engine) (x : EngineState) : (h.setEngine e x).copies = h.copies := by cases e <;> rfl
@[simp] theorem Hand.setEngine_deadCopies (h : Hand) (e : Engine) (x : EngineState) : (h.setEngine e x).deadCopies = h.deadCopies := by cases e <;> rfl
@[simp] theorem Hand.setEngine_cpseq (h : Hand) (e : Engine) (x : EngineState) : (h.setEngine e x).cpseq = h.cpseq := by cases e <;> rfl
@[simp] theorem Hand.setEngine_colls (h : Hand) (e : Engine) (x : EngineState) : (h.setEngine e x).colls = h.colls := by cases e <;> rfl
@[simp] theorem Hand.setEngine_clseq (h : Hand) (e : Engine) (x : EngineState) : (h.setEngine e x).clseq = h.clseq := by cases e <;> rfl
@[simp] theorem Hand.setEngine_disps (h : Hand) (e : Engine) (x : EngineState) : (h.setEngine e x).disps = h.disps := by cases e <;> rfl
@[simp] theorem Hand.setEngine_pbSaved (h : Hand) (e : Engine) (x : EngineState) : (h.setEngine e x).pbSaved = h.pbSaved := by cases e <;> rfl
@[simp] theorem Hand.setEngine_boostSt (h : Hand) (e : Engine) (x : EngineState) : (h.setEngine e x).boostSt = h.boostSt := by cases e <;> rfl
@[simp] theorem Hand.setEngine_boostLvl (h : Hand) (e : Engine) (x : EngineState) : (h.setEngine e x).boostLvl = h.boostLvl := by cases e <;> rfl
@[simp] theorem Hand.setEngine_boostEnd (h : Hand) (e : Engine) (x : EngineState) : (h.setEngine e x).boostEnd = h.boostEnd := by cases e <;> rfl
@[simp] theorem Hand.setEngine_boostLeft (h : Hand) (e : Engine) (x : EngineState) : (h.setEngine e x).boostLeft = h.boostLeft := by cases e <;> rfl
@[simp] theorem Hand.setEngine_boostAgain (h : Hand) (e : Engine) (x : EngineState) : (h.setEngine e x).boostAgain = h.boostAgain := by cases e <;> rfl
@[simp] theorem Hand.setEngine_aside (h : Hand) (e : Engine) (x : EngineState) : (h.setEngine e x).aside = h.aside := by cases e <;> rfl
@[simp] theorem Hand.setEngine_savedRem (h : Hand) (e : Engine) (x : EngineState) : (h.setEngine e x).savedRem = h.savedRem := by cases e <;> rfl
@[simp] theorem Hand.setEngine_ttAdds (h : Hand) (e : Engine) (x : EngineState) : (h.setEngine e x).ttAdds = h.ttAdds := by cases e <;> rfl
@[simp] theorem Hand.setEngine_ttWait (h : Hand) (e : Engine) (x : EngineState) : (h.setEngine e x).ttWait = h.ttWait := by cases e <;> rfl
@[simp] theorem Hand.setEngine_stage (h : Hand) (e : Engine) (x : EngineState) : (h.setEngine e x).stage = h.stage := by cases e <;> rfl
@[simp] theorem Hand.setEngine_stageT (h : Hand) (e : Engine) (x : EngineState) : (h.setEngine e x).stageT = h.stageT := by cases e <;> rfl
@[simp] theorem Hand.setEngine_stageV (h : Hand) (e : Engine) (x : EngineState) : (h.setEngine e x).stageV = h.stageV := by cases e <;> rfl
@[simp] theorem Hand.setEngine_coWait (h : Hand) (e : Engine) (x : EngineState) : (h.setEngine e x).coWait = h.coWait := by cases e <;> rfl
@[simp] theorem Hand.setEngine_freeAt (h : Hand) (e : Engine) (x : EngineState) : (h.setEngine e x).freeAt = h.freeAt := by cases e <;> rfl
@[simp] theorem Hand.setEngine_dealtT (h : Hand) (e : Engine) (x : EngineState) : (h.setEngine e x).dealtT = h.dealtT := by cases e <;> rfl
@[simp] theorem Hand.setEngine_barTill (h : Hand) (e : Engine) (x : EngineState) : (h.setEngine e x).barTill = h.barTill := by cases e <;> rfl
@[simp] theorem Hand.setEngine_draining (h : Hand) (e : Engine) (x : EngineState) : (h.setEngine e x).draining = h.draining := by cases e <;> rfl
@[simp] theorem Hand.setEngine_cmdSaved (h : Hand) (e : Engine) (x : EngineState) : (h.setEngine e x).cmdSaved = h.cmdSaved := by cases e <;> rfl
@[simp] theorem Hand.setEngine_askLease (h : Hand) (e : Engine) (x : EngineState) : (h.setEngine e x).askLease = h.askLease := by cases e <;> rfl
@[simp] theorem Hand.setEngine_tlbi (h : Hand) (e : Engine) (x : EngineState) : (h.setEngine e x).tlbi = h.tlbi := by cases e <;> rfl

@[simp] theorem Hand.setCreg_creg (h : Hand) (n k : Nat) (v : W64) : (h.setCreg n v).creg k = if k = n then v else h.creg k := KMap.get_set _ _ _ _ _
@[simp] theorem Hand.setFifo_fifo (h : Hand) (g k : Nat) (x : Fifo) : (h.setFifo g x).fifo k = if k = g then x else h.fifo k := KMap.get_set _ _ _ _ _
@[simp] theorem Hand.setEngine_engine (h : Hand) (e f : Engine) (x : EngineState) :
    (h.setEngine e x).engine f = if f = e then x else h.engine f := by cases e <;> cases f <;> rfl
@[simp] theorem Hand.modEngine_engine (h : Hand) (e f : Engine) (g : EngineState → EngineState) :
    (h.modEngine e g).engine f = if f = e then g (h.engine e) else h.engine f := Hand.setEngine_engine ..
@[simp] theorem Hand.reserveTok_zero (h : Hand) : h.reserveTok 0 = h := rfl
@[simp] theorem Hand.enterTok_zero (h : Hand) (now : Nat) : h.enterTok now 0 = h := rfl
@[simp] theorem Hand.completeTok_zero (h : Hand) (now : Nat) : h.completeTok now 0 = h := rfl

/-! ## Memory keeps its canonical form (log 3) -/

/-- The head of a memory after a write is the written address or the head before, or a later one of it. -/
theorem Memory.above_write {a k : Nat} {v : Byte} {t : Memory} (h : t.head?.all (fun p => decide (a < p.1)) = true) (hk : a < k)
    (ht : Memory.wf t = true) : (Memory.write t k v).head?.all (fun p => decide (a < p.1)) = true := by
  cases t with
  | nil =>
    unfold Memory.write
    split <;> simp [hk]
  | cons p t =>
    obtain ⟨b, x⟩ := p
    simp only [List.head?_cons, Option.all_some, decide_eq_true_eq] at h
    unfold Memory.write
    split
    · split <;> simp [h, hk]
    · split
      · split
        · simp only [Memory.wf, Bool.and_eq_true] at ht
          have ht := ht.1.2
          cases t with
          | nil => rfl
          | cons q t =>
            simp only [List.head?_cons, Option.all_some, decide_eq_true_eq] at ht ⊢
            omega
        · simp [hk]
      · simp [h]
/-- One byte written keeps the form. -/
theorem Memory.wf_of_write (mem : Memory) (k : Nat) (v : Byte) (h : mem.wf = true) : (mem.write k v).wf = true := by
  induction mem with
  | nil =>
    unfold Memory.write
    split
    · rfl
    · next hv => simp [Memory.wf, show v ≠ 0#8 from hv]
  | cons p t ih =>
    obtain ⟨a, x⟩ := p
    have h' := h
    simp only [Memory.wf, Bool.and_eq_true, bne_iff_ne, ne_eq] at h'
    unfold Memory.write
    split
    · split
      · exact h
      · next hk hv => simp [Memory.wf, show v ≠ 0#8 from hv, show x ≠ 0#8 from h'.1.1, hk, h'.1.2, h'.2]
    · split
      · split
        · exact h'.2
        · next hk hv =>
          subst hk
          simp [Memory.wf, show v ≠ 0#8 from hv, h'.1.2, h'.2]
      · next h1 h2 =>
        have hk : a < k := by omega
        simp [Memory.wf, show x ≠ 0#8 from h'.1.1, ih h'.2, Memory.above_write h'.1.2 hk h'.2]
/-- Bytes written keep the form. -/
theorem Memory.wf_of_writeN (mem : Memory) (k : Nat) (bs : List Byte) (h : mem.wf = true) : (mem.writeN k bs).wf = true := by
  induction bs generalizing mem k with
  | nil => exact h
  | cons b t ih => exact ih _ _ (Memory.wf_of_write _ _ _ h)
/-- The machine's one operation that writes memory keeps the form. -/
theorem Mach.wf_of_poke (m : Mach) (k : Nat) (bs : List Byte) (h : m.mem.wf = true) : (m.poke k bs).mem.wf = true :=
  Memory.wf_of_writeN _ _ _ h
/-- Memory at reset lists nothing. -/
theorem State.reset_mem : State.reset.m.mem = [] := rfl
theorem State.reset_memWf : State.reset.memWf = true := rfl

end Sys2Proof.Machine
end

