-- ==== Sys2Proof/Tests/Slice0.lean ====
section
/-! SUPPORT. Tests: ill-formed terms that the checks refuse; words printed by the spec, or written out from its encoding tables, with
the instructions they stand for; single steps whose results come from the spec; and for every statement with hypotheses a state and
operands that meet them. -/

namespace Sys2Proof.Tests

set_option Elab.async false
set_option maxRecDepth 100000

open Sys2Proof Sys2Proof.Machine Sys2Proof.Claims

/-! ## Words with every field 0 -/

/-- A header with no wait and no token. -/
def z : Hdr := ⟨0, 0, 0⟩
def vvv : VVV := ⟨z, 0, 0, 0, false, false, false, 0⟩
def vvi : VVI := ⟨z, 0, 0, 0, false, 0⟩
def sss : SSS := ⟨z, 0, 0, 0, 0⟩
def aaa : AAA := ⟨z, 0, 0, 0, 0⟩
def am : AM := ⟨z, 0, 0, 0, 0, 0⟩
def ac : AC := ⟨z, 0, 0, 0, false, false, 0, 0⟩
def mc : MC := ⟨z, 0, 0, 0, 0, 0, 0⟩
def ma : MA := ⟨z, 0, 0, 0, 0, 0⟩
def nn : N := ⟨z, 0, 0⟩
def zz : Z := ⟨z, 0⟩

/-! ## Ill-formed terms (03 R54) -/

/-- The words of `l` fail with fault `f`. -/
abbrev Fails (f : WordFault) (l : List Instr) : Prop := ∀ i ∈ l, i.check = some f

/-- Check 2 (03 R40, R54): an ALL word that names an engine, and a tagged word that names its own. -/
theorem smoke_token_all : Fails .tokenField
    [.nop ⟨⟨0, 1, 0⟩, 0⟩, .jmp ⟨⟨0, 0, 2⟩, 4⟩, .call ⟨⟨0, 3, 0⟩, 4⟩, .ret ⟨⟨0, 0, 1⟩, 0⟩, .bra ⟨⟨0, 1, 0⟩, 0, 1, 2, 3⟩,
     .brx ⟨⟨0, 1, 0⟩, 0, 1, 2, 3⟩, .loop ⟨⟨0, 0, 3⟩, 0, 1, 0, 3⟩, .align ⟨⟨0, 2, 0⟩, 0⟩, .exit ⟨⟨0, 0, 2⟩, 0⟩, .bar ⟨⟨0, 1, 0⟩, 0, 0⟩,
     .phase ⟨⟨0, 1, 0⟩, 4, 0⟩, .mark ⟨⟨0, 1, 0⟩, 0, 1⟩, .trap ⟨⟨0, 0, 1⟩, 0, 7⟩, .sys ⟨⟨0, 0, 1⟩, 1, 4⟩, .eret ⟨⟨0, 3, 0⟩, 0⟩,
     .psw ⟨⟨0, 0, 3⟩, 0, 3⟩] := by decide
theorem smoke_token_own : Fails .tokenField
    [.aadd { aaa with hdr := ⟨0, 1, 0⟩ }, .vld { am with hdr := ⟨0, 0, 1⟩ }, .fence { ac with hdr := ⟨0, 1, 0⟩, acq := true },
     .fence { ac with hdr := ⟨0, 0, 2⟩, acq := true }, .fwr ⟨⟨0, 1, 0⟩, 0, 0, 0⟩, .ali ⟨⟨0, 1, 0⟩, 0, 0, 0⟩, .sadd { sss with hdr := ⟨0, 2, 0⟩ },
     .sli ⟨⟨0, 0, 2⟩, 1, 1⟩, .vadd { vvv with hdr := ⟨0, 2, 0⟩ }, .vcvt { vvi with hdr := ⟨0, 0, 2⟩ }, .mfc ⟨⟨0, 2, 0⟩, 1, 0, 0⟩,
     .hswap ⟨⟨0, 2, 0⟩, 0⟩, .lease { mc with hdr := ⟨0, 3, 0⟩, count := 4 }, .acmal { ma with hdr := ⟨0, 0, 3⟩, count := 6 },
     .pred { vvv with hdr := ⟨0, 3, 0⟩ }, .ptclr ⟨⟨0, 0, 3⟩, 0⟩] := by decide

/-- Check 3: reserved fields and selectors that are not zero or not allowed, the ALL words (09 R187, R189, 17 R319, R320, 04 R76,
19 R368, 20 R385). -/
theorem smoke_reserved_all : Fails .reservedField
    [.nop ⟨z, 1⟩, .ret ⟨z, 1⟩, .align ⟨z, 1⟩, .exit ⟨z, 1⟩, .eret ⟨z, 1⟩, .bra ⟨z, 6, 1, 2, 3⟩, .brx ⟨z, 7, 1, 2, 3⟩,
     .loop ⟨z, 1, 1, 0, 3⟩, .loop ⟨z, 0, 1, 2, 3⟩, .bar ⟨z, 3, 0⟩, .bar ⟨z, 0, 1⟩, .phase ⟨z, 0, 0⟩, .phase ⟨z, 5, 0⟩, .phase ⟨z, 4, 1⟩,
     .mark ⟨z, 1, 1⟩, .mark ⟨z, 0, 0x100000000⟩, .trap ⟨z, 1, 7⟩, .trap ⟨z, 0, 0x10000⟩, .sys ⟨z, 0, 4⟩, .sys ⟨z, 4, 4⟩,
     .sys ⟨z, 1, 0x10000⟩, .psw ⟨z, 1, 3⟩, .psw ⟨z, 0, 256⟩] := by decide
/-- Check 3, address arithmetic and memory (09 R177, 06 R120, R123, R124, R126 to R129, 17 R324). -/
theorem smoke_reserved_a : Fails .reservedField
    [.aadd { aaa with imm := 1 }, .aaddi { aaa with b := 1 }, .ashl { aaa with imm := 0x40 }, .ashr { aaa with imm := 0x80 },
     .amin { aaa with imm := 1 }, .ali ⟨z, 0, 2, 0⟩, .alih ⟨z, 0, 1, 0⟩, .afv { vvi with imm := 0x80, ty := 4 },
     .afv { vvi with imm := 0x1000, ty := 3 }, .afv { vvi with imm := 32, ty := 4 }, .vgth { am with index := 1 },
     .vsct { am with index := 1 }, .lsalign ⟨z, 1⟩, .fence ac, .fence { ac with acq := true, desc := 1 },
     .fence { ac with rel := true, imm := 1 }, .atm { am with disp := 0xB000 }, .vatm { am with disp := 0xF000 },
     .sacc { vvv with ty := 8, h := true }, .saccf { ac with stream := 1 }, .finc { aaa with d := 1 }, .finc { aaa with a := 1 },
     .finc { aaa with imm := 0x100 }, .fwt { aaa with a := 1 }, .fwt { aaa with imm := 0x40 }, .frdf { aaa with b := 1 },
     .frdf { aaa with imm := 0x80 }] := by decide
/-- Check 3, the AC words: token target 7, orders and immediates (03 R45, 04 R80 to R84, 05 R89, R101 to R104, 14 R276, 15 R297). -/
theorem smoke_reserved_ac : Fails .reservedField
    [.saccf { ac with tt := 7 }, .stset { ac with acq := true }, .stget { ac with imm := 1 }, .cpy { ac with stream := 1 },
     .cpy { ac with scope := 1 }, .cpyq { ac with tt := 1 }, .cpyq { ac with imm := 8 }, .cpyk { ac with imm := 1 },
     .ttadd { ac with imm := 0 }, .ttadd { ac with imm := 4097 }, .ttadd { ac with imm := 0x800001, desc := 1 }, .ttclr { ac with desc := 1 },
     .tierq { ac with imm := 1 }, .wpf ac, .wpf { ac with imm := 0x801001 }, .wpfSpec { ac with imm := 0x800000 },
     .wpfSpec { ac with imm := 0x803001 }, .coll { ac with imm := 1 }, .coll { ac with scope := 2 }, .collq { ac with imm := 4 }] := by decide
/-- Check 3, scalar words (09 R179, R181, R182, R184). -/
theorem smoke_reserved_s : Fails .reservedField
    [.sadd { sss with imm := 1 }, .saddi { sss with b := 1 }, .smulh { sss with imm := 0x80 }, .sshl { sss with imm := 0x40 },
     .smin { sss with imm := 1 }, .ssel { sss with imm := 0x40 }, .spopc { sss with b := 1 }, .slih ⟨z, 1, 0x100000000⟩,
     .sfadd { sss with imm := 0x28 }, .sfcvt { sss with imm := 0x108 }, .sfcvt { sss with b := 1 }, .sfcmp { sss with imm := 0x78 },
     .sfcmp { sss with imm := 0x88 }, .sfv { vvi with imm := 0x80, ty := 4 }, .sfv { vvi with imm := 64, ty := 2 },
     .svs { vvi with imm := 0x80, ty := 4, a := 1536 }, .svs { vvi with imm := 32, ty := 4, a := 1536 }, .mfc ⟨z, 1, 0, 1⟩,
     .mfc ⟨z, 1, 0x002, 0⟩, .mtc ⟨z, 1, 0x0FF, 0⟩, .tsr ⟨z, 1, 0x003, 1⟩, .tlbi { sss with d := 1 }, .tlbi { sss with imm := 3 },
     .tlbi { sss with a := 1 }, .hswap ⟨z, 1⟩, .ctxsv { sss with d := 1 }, .ctxld { sss with b := 1 }] := by decide
/-- Check 3, vector words (10 R199, R205, R208, R209, R211, R212, R214, 07 R153). -/
theorem smoke_reserved_v : Fails .reservedField
    [.vabs { vvv with b := 1 }, .vabs { vvv with h := true }, .vrcp { vvv with kb := true, ty := 8 }, .vcvt { vvi with imm := 0x308 },
     .vcvt { vvi with imm := 0x028 }, .vcvt { vvi with imm := 0x018 }, .vcvt { vvi with imm := 0x100, ty := 4 },
     .vcvt { vvi with imm := 0x208, ty := 8 }, .vcvt { vvi with imm := 0x404, ty := 8 }, .vcvt { vvi with ty := 15, imm := 8 }, .vcvt { vvi with imm := 0x0B, ty := 8 }, .vunpk { vvi with imm := 2 },
     .vcmp { vvv with d := 1 }, .vcmp { vvv with d := 0x60 }, .vfcmp { vvv with d := 0x70, ty := 8 }, .pand { vvv with ty := 1 },
     .pnot { vvv with kb := true }, .pcnt { vvv with b := 1 }, .vradd { vvi with imm := 0x10 }, .vrmax { vvi with imm := 8 },
     .vscan { vvi with imm := 0x20 }, .vbcst { vvi with imm := 0x80 }, .vbcst { vvi with imm := 32, ty := 4 },
     .vsld { vvi with imm := 0x100 }, .viota { vvi with imm := 1 }, .vclr { vvi with a := 1 }, .vclr { vvi with imm := 0x40 },
     .vdep { vvi with imm := 1 }, .vmov { vvv with ty := 1 }] := by decide
/-- Check 3, matrix, accumulator, expert and p-bit words (11 R226, 12 R240, 13 R254, R263, 14 R268, 16 R304, 07 R153). -/
theorem smoke_reserved_m : Fails .reservedField
    [.acmv { ma with count := 1, q := 1536 }, .acmst { ma with count := 1, q := 16 }, .lease mc, .lease { mc with count := 4, slot := 1 }, .unlse { mc with count := 1 }, .mshape mc, .mshape { mc with flags := 0x11 },
     .mmode { mc with flags := 5 }, .mmode { mc with flags := 0x10 }, .wld mc, .wld { mc with count := 257 }, .wld { mc with count := 1, flags := 2 },
     .wdrop { mc with count := 1 }, .mma mc, .mma { mc with count := 1, flags := 4 }, .mmat { mc with count := 1025 }, .acmal ma,
     .acmal { ma with count := 65 }, .acmal { ma with count := 1, op := 2 }, .acmal { ma with count := 1, row0 := 0x100 },
     .acmal { ma with count := 1, row0 := 1 }, .acmfr { ma with count := 1 }, .acmz ma, .acmown { ma with count := 1, op := 4 },
     .acmv { ma with count := 5 }, .acmv { ma with count := 1, op := 8 }, .acmpk { ma with count := 1, handle := 1 },
     .acmpk { ma with count := 2, row0 := 1023 }, .acmst { ma with count := 1, op := 1 }, .acmad { ma with count := 5 },
     .pred { vvv with ty := 1 }, .predup { vvv with ty := 1 }, .ptclr ⟨z, 1⟩, .disp { vvv with h := true }, .rslv { vvv with h := true },
     .rsnap { vvi with imm := 1 }, .emaps { vvv with b := 1 }, .pbld mc, .pbld { mc with count := 2, row0 := 1023 }, .pbclr ⟨z, 1⟩,
     .pbclmp { vvv with d := 1 }, .pbswp { vvi with d := 1 }, .pbrd { vvi with a := 1 }, .pbrd { vvi with imm := 16 },
     .pbseed { vvi with imm := 2 }, .pbseed { vvi with imm := 1, a := 1 }, .hfv { vvi with imm := 32 }] := by decide
/-- Check 4: type codes (03 R44). -/
theorem smoke_type : Fails .typeCode
    [.vadd { vvv with ty := 6 }, .vfadd { vvv with ty := 4 }, .vand { vvv with ty := 9 }, .vabs { vvv with ty := 1 }, .vpack { vvv with ty := 4 },
     .vunpk { vvi with ty := 8 }, .vcmp { vvv with ty := 8 }, .vfcmp vvv, .vsel { vvv with ty := 11 },
     .pcnt { vvv with ty := 9, d := 1536, a := 1600 }, .vradd { vvi with ty := 8 }, .vrfadd vvi, .vscan { vvi with ty := 9 }, .viota { vvi with ty := 8 },
     .vbcst { vvi with ty := 9 }, .vthr vvv, .vsign { vvi with ty := 1 }, .sfadd sss, .sfcvt { sss with imm := 0x98 }, .sfcmp sss,
     .sfv { vvi with ty := 12 }, .svs { vvi with ty := 9, a := 1536 }, .afv { vvi with ty := 8 }] := by decide
/-- SACC of a type other than i32 and f32 (06 R127). -/
theorem smoke_type_sacc : (Instr.sacc { vvv with ty := 6 }).check = some .typeCode := by decide
/-- Check 5: register fields (03 R41). -/
theorem smoke_register : Fails .registerField
    [.loop ⟨z, 0, 0, 0, 3⟩, .afv { vvi with d := 32, ty := 4 }, .lda { am with q := 32 }, .sta { am with q := 32 }, .vld { am with q := 1536 },
     .vst { am with q := 1536 }, .vsct { am with q := 1616 }, .atm { am with q := 1617 }, .sacc { vvv with d := 32, ty := 8 },
     .fwr ⟨z, 1600, 0, 0⟩, .frd ⟨z, 1616, 0, 0⟩, .sfv { vvi with d := 64, ty := 4 }, .svs { vvi with a := 1600, ty := 4 }, .vadd { vvv with d := 1536 },
     .vadd { vvv with a := 1619 }, .vadd { vvv with b := 2047 }, .vrcp { vvv with ty := 8, a := 1619 }, .vcmp { vvv with a := 1619 },
     .pand { vvv with d := 1600, a := 1600, b := 1599 }, .pnot { vvv with d := 1600, a := 0 }, .pcnt { vvv with d := 0, a := 1600 },
     .vclr { vvi with d := 1500, imm := 40 }, .vdep { vvi with a := 1536 }, .vmov { vvv with a := 1536 },
     .pred { vvv with a := 1536 }, .rsnap { vvi with d := 1616 }, .pbclmp { vvv with a := 1600 },
     .pbrd { vvi with d := 1618 }, .hfv { vvi with d := 16 }] := by decide
/-- The order of the checks: a word that fails several is refused for the first (03 R54). -/
theorem smoke_order : (Instr.vadd { vvv with hdr := ⟨0, 2, 0⟩, d := 1536, ty := 6 }).check = some .tokenField ∧
    (Instr.vabs { vvv with b := 1, d := 1536, ty := 6 }).check = some .reservedField ∧
    (Instr.vadd { vvv with d := 1536, ty := 6 }).check = some .typeCode := by decide

/-! ## Words that the spec prints (their text beside them), and what they decode to -/

theorem decode_control :
    decode 0x0000_0200_0000_000C = .ok (.call ⟨z, 12⟩) ∧                    -- call f, 12 words ahead (09)
    decode 0x0000_0300_0000_0000 = .ok (.ret ⟨z, 0⟩) ∧                      -- ret (09)
    decode 0x0000_0541_0600_0005 = .ok (.brx ⟨z, 2, 2, 3, 5⟩) ∧             -- brx.lt s2, s3, 5 words ahead (09)
    decode 0x0000_0B40_0000_0001 = .ok (.mark ⟨z, 4, 1⟩) ∧                  -- mark.strict.rel 1 (04)
    decode 0x0000_0B80_0000_000C = .ok (.mark ⟨z, 8, 12⟩) ∧                 -- mark.wait 12 (04)
    decode 0x0000_0A40_0000_0000 = .ok (.phase ⟨z, 4, 0⟩) ∧                 -- phase.die (17)
    decode 0x0000_0A80_0000_0000 = .ok (.phase ⟨z, 8, 0⟩) ∧                 -- phase.package (17)
    decode 0x0000_0950_0000_0000 = .ok (.bar ⟨z, 5, 0⟩) ∧                   -- bar.die.comm (17)
    decode 0x0000_09A0_0000_0000 = .ok (.bar ⟨z, 10, 0⟩) ∧                  -- bar.package.comp (17)
    decode 0x0000_0900_0000_0000 = .ok (.bar ⟨z, 0, 0⟩) ∧                   -- bar.team (17)
    decode 0x0000_0C00_0000_0007 = .ok (.trap ⟨z, 0, 7⟩) ∧                  -- trap 7 (19)
    decode 0x0000_0D10_0000_0004 = .ok (.sys ⟨z, 1, 4⟩) ∧                   -- sys.1 4 (19)
    decode 0x0000_0F00_0000_0003 = .ok (.psw ⟨z, 0, 3⟩) := by decide        -- psw 3 (20)

theorem decode_address :
    decode 0x4000_0C29_2000_0000 = .ok (.ali ⟨z, 5, 1, 0x20000000⟩) ∧       -- ali.u a5, 0x2000_0000 (09)
    decode 0x4000_0D28_8000_0000 = .ok (.alih ⟨z, 5, 0, 0x80000000⟩) ∧      -- alih a5, 0x8000_0000 (09)
    decode 0x4000_0E00_60A1_401F = .ok (.afv ⟨z, 3, 40, 5, false, 31⟩) ∧    -- afv.n32 a3, v40, 31 (07)
    decode 0x4000_1201_8537_0040 = .ok (.vld ⟨z, 12, 5, 6, 7, 64⟩) ∧        -- vld v12, [a5 + a6*128 + 64] (06)
    decode 0x4000_1A00_0500_0000 = .ok (.fence ⟨z, 0, 0, 0, false, true, 1, 0⟩) ∧  -- fence.rel.die (06)
    decode 0x4000_2000_8500_9008 = .ok (.atm ⟨z, 4, 5, 0, 0, 0x9008⟩) ∧     -- atm.cas v4, [a5 + 8] (06)
    decode 0x4000_2200_E050_0A88 = .ok (.sacc ⟨z, 7, 20, 21, false, false, false, 8⟩) ∧  -- sacc.f32 a7, v20, v21 (06)
    decode 0x4000_2400_0000_0009 = .ok (.finc ⟨z, 0, 0, 0, 9⟩) ∧            -- finc 9 (17)
    decode 0x4000_2400_C800_0049 = .ok (.finc ⟨z, 0, 3, 4, 0x49⟩) ∧         -- finc.far 9, a3, a4 (17)
    decode 0x4000_2530_0000_0089 = .ok (.fwt ⟨z, 6, 0, 0, 0x89⟩) ∧          -- fwt.acq a6, 9 (17)
    decode 0x4000_2638_0000_0009 = .ok (.frdf ⟨z, 7, 0, 0, 9⟩) := by decide  -- frdf a7, 9 (17)

/-- The commands of the A engine; token targets and scopes as 04 R80 numbers them. -/
theorem decode_commands :
    decode 0x4000_2821_B000_0000 = .ok (.stset ⟨z, 4, 3, 3, false, false, 0, 0⟩) ∧     -- stset.am st3, a4 (05)
    decode 0x4000_2A30_1400_0000 = .ok (.cpy ⟨z, 6, 0, 1, false, true, 0, 0⟩) ∧       -- cpy.rel.ax a6 (05)
    decode 0x4000_3020_0600_0001 = .ok (.ttadd ⟨z, 4, 0, 0, false, true, 2, 1⟩) ∧      -- ttadd.rel.package a4, 1 (04)
    decode 0x4000_3328_0083_8002 = .ok (.wpfSpec ⟨z, 5, 0, 0, false, false, 0, 0x838002⟩) ∧  -- wpf.spec a5, 2, 7 (14)
    decode 0x4000_3A40_3600_0000 = .ok (.coll ⟨z, 8, 0, 3, false, true, 2, 0⟩) := by decide  -- coll.rel.package.am a8 (15)

/-- Far accesses; the route word is 02 R33's. -/
theorem decode_far :
    decode 0x4000_3901_2200_0000 = .ok (.frd ⟨z, 9, 2, 0⟩) ∧
    decode 0x4000_3800_E300_0000 = .ok (.fwr ⟨z, 7, 3, 0⟩) := by decide

theorem decode_scalar :
    decode 0x8000_1A00_E050_8003 = .ok (.sfv ⟨z, 7, 20, 2, false, 3⟩) ∧     -- sfv.i16 s7, v20, 3 (07)
    decode 0x8000_1B03_D815_0000 = .ok (.svs ⟨z, 30, 1541, 4, false, 0⟩) ∧  -- svs.i32 v30, s5, 0 (07)
    decode 0x8000_780C_0800_0000 = .ok (.mfc ⟨z, 3, 0x020, 0⟩) ∧            -- mfc s3, 0x020 (19)
    decode 0x8000_7914_0C00_0000 = .ok (.mtc ⟨z, 5, 0x030, 0⟩) ∧            -- mtc 0x030, s5 (19)
    decode 0x8000_7914_2880_0000 = .ok (.mtc ⟨z, 5, 0x0A2, 0⟩) ∧            -- mtc 0x0A2, s5 (20)
    decode 0x8000_7924_2040_0000 = .ok (.mtc ⟨z, 9, 0x081, 0⟩) ∧            -- svset 1, s9 (17)
    decode 0x8000_7A00_4240_0100 = .ok (.tsr ⟨z, 0, 0x109, 0x100⟩) ∧        -- tsr.set s0, 0x109, 0x100 (19)
    decode 0x8000_7B00_0000_0000 = .ok (.tlbi ⟨z, 0, 0, 0, 0⟩) ∧            -- tlbi.ctx (19)
    decode 0x8000_7B00_4000_0001 = .ok (.tlbi ⟨z, 0, 4, 0, 1⟩) ∧            -- tlbi.va s4 (19)
    decode 0x8000_7D00_4140_0000 = .ok (.ctxsv ⟨z, 0, 4, 5, 0⟩) ∧           -- ctxsv s4, s5 (19)
    decode 0x8000_7E00_6000_0000 = .ok (.ctxld ⟨z, 0, 6, 0, 0⟩) := by decide -- ctxld s6 (19)

theorem decode_vector :
    decode 0x8000_2000_6004_0104 = .ok (.vadd ⟨z, 3, 1, 2, false, false, false, 4⟩) ∧      -- vadd.i32 v3, v1, v2 (10)
    decode 0x8000_4302_8010_02C8 = .ok (.vfma ⟨z, 20, 4, 5, true, false, false, 8⟩) ∧      -- vfma.f32 v20, v4.k, v5 (10)
    decode 0x8000_5000_C015_8408 = .ok (.vcvt ⟨z, 6, 5, 6, false, 0x408⟩) ∧                -- vcvt.bf16.f32 v6, v5, 1 (10)
    decode 0x8000_5834_0004_0104 = .ok (.vcmp ⟨z, 0x1A0, 1, 2, false, false, false, 4⟩) ∧  -- vcmp.lt.i32 p3, v1, v2 (10)
    decode 0x8000_6301_2022_0003 = .ok (.vrfadd ⟨z, 9, 8, 8, false, 3⟩) ∧                  -- vrfadd.f32 v9, v8, 3 (10)
    decode 0x8000_6B05_00A4_1502 = .ok (.vzip ⟨z, 40, 41, 42, false, false, false, 2⟩) ∧   -- vzip.i16 v40, v41, v42 (10)
    decode 0x8000_700C_8000_0003 = .ok (.vclr ⟨z, 100, 0, 0, false, 3⟩) ∧                  -- vclr v100, 4 (07)
    decode 0x8000_7106_4030_0000 = .ok (.vdep ⟨z, 50, 12, 0, false, 0⟩) ∧                  -- vdep v50, v12 (07)
    decode 0x8000_7200_A024_0040 = .ok (.vmov ⟨z, 5, 9, 0, true, false, false, 0⟩) ∧       -- vmov v5, v9.k (07)
    decode 0x8000_7305_0078_0F88 = .ok (.vthr ⟨z, 40, 30, 31, false, false, false, 8⟩) ∧   -- vthr.f32 v40, v30, v31 (13)
    decode 0x8000_7408_C0C9_9100 = .ok (.vsign ⟨z, 70, 50, 6, false, 0x1100⟩) := by decide -- vsign.bf16.z v70, v50, 0, 2 (14)

theorem decode_matrix :
    decode 0xC000_0000_0000_0200 = .ok (.lease ⟨z, 0, 0, 0, 0, 4, 0⟩) ∧     -- lease 4 (11)
    decode 0xC000_0200_0000_0001 = .ok (.mshape ⟨z, 0, 0, 0, 0, 0, 1⟩) ∧    -- mshape 0b0001 (11)
    decode 0xC000_0300_0000_0009 = .ok (.mmode ⟨z, 0, 0, 0, 0, 0, 9⟩) ∧     -- mmode.rz.sat (11)
    decode 0xC000_0442_0000_1800 = .ok (.wld ⟨z, 4, 2, 0, 0, 48, 0⟩) ∧      -- wld 2, st4, 48 (11)
    decode 0xC000_0502_0000_0000 = .ok (.wdrop ⟨z, 0, 2, 0, 0, 0, 0⟩) ∧     -- wdrop 2 (11)
    decode 0xC000_0632_1000_3001 = .ok (.mma ⟨z, 3, 2, 1, 0, 96, 1⟩) ∧      -- mma.vm h1, st3, 2, 0, 96 (11)
    decode 0xC000_0707_5080_0800 = .ok (.mmat ⟨z, 0, 7, 5, 32, 16, 0⟩) ∧    -- mmat h5, st0, 7, 32, 16 (11)
    decode 0xC000_3800_40A4_2000 = .ok (.hfv ⟨z, 2, 41, 0, true, 0⟩) := by decide  -- hfv h2, v41.k, 0 (07)

theorem decode_accumulator :
    decode 0xC000_1010_0003_0000 = .ok (.acmal ⟨z, 1, 0, 6, 0, 0⟩) ∧        -- acmal.f32 h1, 6 (12)
    decode 0xC000_1058_2402_0000 = .ok (.acmal ⟨z, 5, 0x209, 4, 0, 0⟩) ∧    -- acmal.f32.spec h5, 4, 9 (12)
    decode 0xC000_1110_0000_0000 = .ok (.acmfr ⟨z, 1, 0, 0, 0, 0⟩) ∧        -- acmfr h1 (12)
    decode 0xC000_1210_0030_0000 = .ok (.acmz ⟨z, 1, 0, 96, 0, 0⟩) ∧        -- acmz h1, 0, 96 (12)
    decode 0xC000_1310_8010_0002 = .ok (.acmown ⟨z, 1, 32, 32, 0, 2⟩) ∧     -- acmown h1, 32, 32, 2 (12)
    decode 0xC000_1410_0002_0140 = .ok (.acmv ⟨z, 1, 0, 4, 20, 0⟩) ∧        -- acmv v20, h1, 0, 4, 0 (12)
    decode 0xC000_1501_8000_81E0 = .ok (.acmpk ⟨z, 0, 96, 1, 30, 0⟩) ∧      -- acmpk v30, 96, 1, 0 (12)
    decode 0xC000_1610_0010_0060 = .ok (.acmst ⟨z, 1, 0, 32, 6, 0⟩) ∧       -- acmst h1, st6, 0, 32 (12)
    decode 0xC000_1720_1400_8083 = .ok (.acmad ⟨z, 2, 5, 1, 8, 3⟩) := by decide  -- acmad h2, v8, 5, 1, 3 (12)

theorem decode_experts :
    decode 0xC000_200A_0144_2920 = .ok (.pred ⟨z, 80, 81, 82, false, true, false, 0⟩) ∧    -- pred v80, v81, v82.k (14)
    decode 0xC000_210A_6144_2900 = .ok (.predup ⟨z, 83, 81, 82, false, false, false, 0⟩) ∧ -- predup v83, v81, v82 (14)
    decode 0xC000_2307_80F4_1F20 = .ok (.disp ⟨z, 60, 61, 62, false, true, false, 0⟩) ∧    -- disp v60, v61, v62.k (13)
    decode 0xC000_240B_416C_2E20 = .ok (.rslv ⟨z, 90, 91, 92, false, true, false, 0⟩) ∧    -- rslv v90, v91, v92.k (14)
    decode 0xC000_2500_A010_0000 = .ok (.rsnap ⟨z, 5, 4, 0, false, 0⟩) ∧                   -- rsnap v5, v4 (13)
    decode 0xC000_2601_2020_0000 = .ok (.emaps ⟨z, 9, 8, 0, false, false, false, 0⟩) := by decide  -- emaps v9, v8 (13)

theorem decode_pbits :
    decode 0xC000_3020_0000_0080 = .ok (.pbld ⟨z, 2, 0, 0, 0, 1, 0⟩) ∧      -- pbld st2, 0, 1 (16)
    decode 0xC000_3200_0030_0000 = .ok (.pbclmp ⟨z, 0, 12, 0, false, false, false, 0⟩) ∧  -- pbclmp v12 (16)
    decode 0xC000_3300_0038_0063 = .ok (.pbswp ⟨z, 0, 14, 0, false, 99⟩) ∧  -- pbswp v14, 100 (16)
    decode 0xC000_3403_C000_1000 = .ok (.pbrd ⟨z, 30, 0, 0, false, 0x1000⟩) ∧  -- pbrd.cnt v30, 0 (16)
    decode 0xC000_3500_0040_0000 = .ok (.pbseed ⟨z, 0, 16, 0, false, 0⟩) ∧  -- pbseed v16 (16)
    decode 0xC000_3500_0000_0001 = .ok (.pbseed ⟨z, 0, 0, 0, false, 1⟩) := by decide  -- pbseed.ent (16)

/-- Words that are none: a hole, a token field, a reserved field, a type code, a register field (03 R54). -/
theorem decode_refuses :
    decode 0x8000_FF00_0000_0000 = .error .hole ∧ decode 0x4000_0F00_0000_0000 = .error .hole ∧
    decode 0x0004_0000_0000_0000 = .error .tokenField ∧ decode 0x0000_0000_0000_0001 = .error .reservedField ∧
    decode 0x8000_2000_6004_0106 = .error .typeCode ∧ decode 0x8000_20C0_0004_0104 = .error .registerField := by decide

/-! ## Every other opcode: a word with tag and opcode as 03 R48 to R51 list them, and fields chosen to be well-formed -/

/-- With tag `tag` and header word `hd` (wait 9:0 at bits 61:52, pop-from 51:50, push-to 49:48), the opcode and body of each entry give
its instruction (03 R38, R45). -/
abbrev Decodes (tag : BitVec 64) (hd : BitVec 64) (l : List (BitVec 64 × BitVec 64 × Instr)) : Prop :=
  ∀ p ∈ l, decode (tag <<< 62 ||| hd <<< 48 ||| p.1 <<< 40 ||| p.2.1) = .ok p.2.2

theorem opcodes_all : Decodes 0 0x3FF0
    [(0x00, 0x0000000000, .nop ⟨⟨1023, 0, 0⟩, 0⟩),
     (0x01, 0xFFFFFFFFFE, .jmp ⟨⟨1023, 0, 0⟩, 0xfffffffffe⟩),
     (0x02, 0x0000000003, .call ⟨⟨1023, 0, 0⟩, 3⟩),
     (0x03, 0x0000000000, .ret ⟨⟨1023, 0, 0⟩, 0⟩),
     (0x04, 0x642FFFFFFF, .bra ⟨⟨1023, 0, 0⟩, 3, 4, 5, 0x7ffffff⟩),
     (0x05, 0xB452000009, .brx ⟨⟨1023, 0, 0⟩, 5, 0x28, 0x29, 9⟩),
     (0x06, 0x0607FFFFF8, .loop ⟨⟨1023, 0, 0⟩, 0, 6, 0, 0x7fffff8⟩),
     (0x07, 0x0000000000, .align ⟨⟨1023, 0, 0⟩, 0⟩),
     (0x08, 0x0000000000, .exit ⟨⟨1023, 0, 0⟩, 0⟩),
     (0x09, 0x6000000000, .bar ⟨⟨1023, 0, 0⟩, 6, 0⟩),
     (0x0A, 0xC000000000, .phase ⟨⟨1023, 0, 0⟩, 0xc, 0⟩),
     (0x0B, 0x80FFFFFFFF, .mark ⟨⟨1023, 0, 0⟩, 8, 0xffffffff⟩),
     (0x0C, 0x000000FFFF, .trap ⟨⟨1023, 0, 0⟩, 0, 0xffff⟩),
     (0x0D, 0x3000000001, .sys ⟨⟨1023, 0, 0⟩, 3, 1⟩),
     (0x0E, 0x0000000000, .eret ⟨⟨1023, 0, 0⟩, 0⟩),
     (0x0F, 0x00000000FF, .psw ⟨⟨1023, 0, 0⟩, 0, 0xff⟩)] := by decide

theorem opcodes_a : Decodes 1 0x005B
    [(0x00, 0x08BE000000, .aadd ⟨⟨5, 2, 3⟩, 1, 2, 0x1f, 0⟩),
     (0x01, 0x0881FFFFFF, .aaddi ⟨⟨5, 2, 3⟩, 1, 2, 0, 0x1ffffff⟩),
     (0x02, 0x08BE000000, .asub ⟨⟨5, 2, 3⟩, 1, 2, 0x1f, 0⟩),
     (0x03, 0x08BE000000, .amul ⟨⟨5, 2, 3⟩, 1, 2, 0x1f, 0⟩),
     (0x04, 0x0880000005, .amuli ⟨⟨5, 2, 3⟩, 1, 2, 0, 5⟩),
     (0x05, 0x08BE00003F, .ashl ⟨⟨5, 2, 3⟩, 1, 2, 0x1f, 0x3f⟩),
     (0x06, 0x08BE00007F, .ashr ⟨⟨5, 2, 3⟩, 1, 2, 0x1f, 0x7f⟩),
     (0x07, 0x08BE000000, .aand ⟨⟨5, 2, 3⟩, 1, 2, 0x1f, 0⟩),
     (0x08, 0x08BE000000, .aor ⟨⟨5, 2, 3⟩, 1, 2, 0x1f, 0⟩),
     (0x09, 0x08BE000000, .axor ⟨⟨5, 2, 3⟩, 1, 2, 0x1f, 0⟩),
     (0x0A, 0x08BE000040, .amin ⟨⟨5, 2, 3⟩, 1, 2, 0x1f, 0x40⟩),
     (0x0B, 0x08BE000000, .amax ⟨⟨5, 2, 3⟩, 1, 2, 0x1f, 0⟩),
     (0x0C, 0x49DEADBEEF, .ali ⟨⟨5, 2, 3⟩, 9, 1, 0xdeadbeef⟩),
     (0x0D, 0x4880000000, .alih ⟨⟨5, 2, 3⟩, 9, 0, 0x80000000⟩),
     (0x0E, 0x03F7FD301F, .afv ⟨⟨5, 2, 3⟩, 0x1f, 0x5ff, 4, true, 0x101f⟩),
     (0x10, 0x03E117FFF8, .lda ⟨⟨5, 2, 3⟩, 0x1f, 1, 2, 7, 0xfff8⟩),
     (0x11, 0x0061000000, .sta ⟨⟨5, 2, 3⟩, 3, 1, 0, 0, 0⟩),
     (0x12, 0xBFFEEB7FFF, .vld ⟨⟨5, 2, 3⟩, 0x5ff, 0x1e, 0x1d, 3, 0x7fff⟩),
     (0x13, 0x00E21A0000, .vlds ⟨⟨5, 2, 3⟩, 7, 2, 3, 2, 0⟩),
     (0x14, 0x0102000000, .vldb ⟨⟨5, 2, 3⟩, 8, 2, 0, 0, 0⟩),
     (0x15, 0x0122020000, .vgth ⟨⟨5, 2, 3⟩, 9, 2, 0, 2, 0⟩),
     (0x16, 0xCA22000000, .vst ⟨⟨5, 2, 3⟩, 0x651, 2, 0, 0, 0⟩),
     (0x17, 0x0142180000, .vsts ⟨⟨5, 2, 3⟩, 0xa, 2, 3, 0, 0⟩),
     (0x18, 0x0162000000, .vsct ⟨⟨5, 2, 3⟩, 0xb, 2, 0, 0, 0⟩),
     (0x19, 0x0000000000, .lsalign ⟨⟨5, 2, 3⟩, 0⟩),
     (0x20, 0x008500A010, .atm ⟨⟨5, 2, 3⟩, 4, 5, 0, 0, 0xa010⟩),
     (0x21, 0x0085009010, .vatm ⟨⟨5, 2, 3⟩, 4, 5, 0, 0, 0x9010⟩),
     (0x22, 0x00E0500AE4, .sacc ⟨⟨5, 2, 3⟩, 7, 0x14, 0x15, true, true, false, 4⟩),
     (0x24, 0x00C80000FF, .finc ⟨⟨5, 2, 3⟩, 0, 3, 4, 0xff⟩),
     (0x25, 0x30040000BF, .fwt ⟨⟨5, 2, 3⟩, 6, 0, 2, 0xbf⟩),
     (0x26, 0x380000003F, .frdf ⟨⟨5, 2, 3⟩, 7, 0, 0, 0x3f⟩),
     (0x38, 0xCA430008F1, .fwr ⟨⟨5, 2, 3⟩, 0x652, 3, 0x8f1⟩),
     (0x39, 0x00A3FFFFFF, .frd ⟨⟨5, 2, 3⟩, 5, 3, 0xffffff⟩)] := by decide

theorem opcodes_ac : Decodes 1 0x005C
    [(0x1A, 0x004F000000, .fence ⟨⟨5, 3, 0⟩, 0, 0, 4, true, true, 3, 0⟩),
     (0x23, 0x0056000000, .saccf ⟨⟨5, 3, 0⟩, 0, 0, 5, false, true, 2, 0⟩),
     (0x28, 0x2790000000, .stset ⟨⟨5, 3, 0⟩, 4, 0xf, 1, false, false, 0, 0⟩),
     (0x29, 0x2920000000, .stget ⟨⟨5, 3, 0⟩, 5, 2, 2, false, false, 0, 0⟩),
     (0x2A, 0x3014ABCDEF, .cpy ⟨⟨5, 3, 0⟩, 6, 0, 1, false, true, 0, 0xabcdef⟩),
     (0x2B, 0x0000000007, .cpyq ⟨⟨5, 3, 0⟩, 0, 0, 0, false, false, 0, 7⟩),
     (0x2C, 0x0060000000, .cpyk ⟨⟨5, 3, 0⟩, 0, 0, 6, false, false, 0, 0⟩),
     (0x30, 0x0006801000, .ttadd ⟨⟨5, 3, 0⟩, 0, 0, 0, false, true, 2, 0x801000⟩),
     (0x31, 0x0010000000, .ttclr ⟨⟨5, 3, 0⟩, 0, 0, 1, false, false, 0, 0⟩),
     (0x32, 0x4830000000, .tierq ⟨⟨5, 3, 0⟩, 9, 0, 3, false, false, 0, 0⟩),
     (0x33, 0x4800000FFF, .wpf ⟨⟨5, 3, 0⟩, 9, 0, 0, false, false, 0, 0xfff⟩),
     (0x3A, 0x400B000000, .coll ⟨⟨5, 3, 0⟩, 8, 0, 0, true, false, 3, 0⟩),
     (0x3B, 0x0000000003, .collq ⟨⟨5, 3, 0⟩, 0, 0, 0, false, false, 0, 3⟩),
     (0x33, 0x2810FF8001, .wpfSpec ⟨⟨5, 3, 0⟩, 5, 0, 1, false, false, 0, 0xff8001⟩)] := by decide

theorem opcodes_x_scalar : Decodes 2 0x0007
    [(0x00, 0x07EFC00000, .sadd ⟨⟨0, 1, 3⟩, 1, 0x3e, 0x3f, 0⟩),
     (0x01, 0x07E03FFFFF, .saddi ⟨⟨0, 1, 3⟩, 1, 0x3e, 0, 0x3fffff⟩),
     (0x02, 0x07EFC00000, .ssub ⟨⟨0, 1, 3⟩, 1, 0x3e, 0x3f, 0⟩),
     (0x03, 0x07EFC00000, .smul ⟨⟨0, 1, 3⟩, 1, 0x3e, 0x3f, 0⟩),
     (0x04, 0x07EFC00040, .smulh ⟨⟨0, 1, 3⟩, 1, 0x3e, 0x3f, 0x40⟩),
     (0x05, 0x07EFC00040, .sdiv ⟨⟨0, 1, 3⟩, 1, 0x3e, 0x3f, 0x40⟩),
     (0x06, 0x07EFC00040, .srem ⟨⟨0, 1, 3⟩, 1, 0x3e, 0x3f, 0x40⟩),
     (0x07, 0x07EFC00000, .sand ⟨⟨0, 1, 3⟩, 1, 0x3e, 0x3f, 0⟩),
     (0x08, 0x07EFC00000, .sor ⟨⟨0, 1, 3⟩, 1, 0x3e, 0x3f, 0⟩),
     (0x09, 0x07EFC00000, .sxor ⟨⟨0, 1, 3⟩, 1, 0x3e, 0x3f, 0⟩),
     (0x0A, 0x07EFC0003F, .sshl ⟨⟨0, 1, 3⟩, 1, 0x3e, 0x3f, 0x3f⟩),
     (0x0B, 0x07EFC0003F, .sshr ⟨⟨0, 1, 3⟩, 1, 0x3e, 0x3f, 0x3f⟩),
     (0x0C, 0x07EFC0003F, .ssra ⟨⟨0, 1, 3⟩, 1, 0x3e, 0x3f, 0x3f⟩),
     (0x0D, 0x07EFC00040, .smin ⟨⟨0, 1, 3⟩, 1, 0x3e, 0x3f, 0x40⟩),
     (0x0E, 0x07EFC00040, .smax ⟨⟨0, 1, 3⟩, 1, 0x3e, 0x3f, 0x40⟩),
     (0x0F, 0x07EFC00040, .sslt ⟨⟨0, 1, 3⟩, 1, 0x3e, 0x3f, 0x40⟩),
     (0x10, 0x07EFC00005, .ssel ⟨⟨0, 1, 3⟩, 1, 0x3e, 0x3f, 5⟩),
     (0x11, 0xFFFFFFFFFF, .sli ⟨⟨0, 1, 3⟩, 0x3f, 0x3ffffffff⟩),
     (0x12, 0x08FFFFFFFF, .slih ⟨⟨0, 1, 3⟩, 2, 0xffffffff⟩),
     (0x13, 0x0420000000, .spopc ⟨⟨0, 1, 3⟩, 1, 2, 0, 0⟩),
     (0x14, 0x0420000000, .sclz ⟨⟨0, 1, 3⟩, 1, 2, 0, 0⟩),
     (0x15, 0x07EFC00018, .sfadd ⟨⟨0, 1, 3⟩, 1, 0x3e, 0x3f, 0x18⟩),
     (0x16, 0x07EFC00007, .sfmul ⟨⟨0, 1, 3⟩, 1, 0x3e, 0x3f, 7⟩),
     (0x17, 0x07EFC00006, .sfma ⟨⟨0, 1, 3⟩, 1, 0x3e, 0x3f, 6⟩),
     (0x18, 0x0420000084, .sfcvt ⟨⟨0, 1, 3⟩, 1, 2, 0, 0x84⟩),
     (0x19, 0x07EFC00068, .sfcmp ⟨⟨0, 1, 3⟩, 1, 0x3e, 0x3f, 0x68⟩),
     (0x1A, 0x07E024207F, .sfv ⟨⟨0, 1, 3⟩, 0x3f, 9, 0, true, 0x7f⟩),
     (0x1B, 0x0138FE001F, .svs ⟨⟨0, 1, 3⟩, 9, 0x63f, 8, false, 0x1f⟩)] := by decide

theorem opcodes_x_lanes : Decodes 2 0x0007
    [(0x20, 0x00394801F4, .vadd ⟨⟨0, 1, 3⟩, 1, 0x652, 3, true, true, true, 4⟩),
     (0x21, 0x00394801F4, .vsub ⟨⟨0, 1, 3⟩, 1, 0x652, 3, true, true, true, 4⟩),
     (0x22, 0x00394801F4, .vmul ⟨⟨0, 1, 3⟩, 1, 0x652, 3, true, true, true, 4⟩),
     (0x23, 0x00394801F4, .vmulh ⟨⟨0, 1, 3⟩, 1, 0x652, 3, true, true, true, 4⟩),
     (0x24, 0x00394801F4, .vmin ⟨⟨0, 1, 3⟩, 1, 0x652, 3, true, true, true, 4⟩),
     (0x25, 0x00394801F4, .vmax ⟨⟨0, 1, 3⟩, 1, 0x652, 3, true, true, true, 4⟩),
     (0x26, 0x0038000044, .vabs ⟨⟨0, 1, 3⟩, 1, 0x600, 0, true, false, false, 4⟩),
     (0x27, 0x00394801F4, .vsadd ⟨⟨0, 1, 3⟩, 1, 0x652, 3, true, true, true, 4⟩),
     (0x28, 0x00394801F4, .vssub ⟨⟨0, 1, 3⟩, 1, 0x652, 3, true, true, true, 4⟩),
     (0x29, 0x00394801F4, .vand ⟨⟨0, 1, 3⟩, 1, 0x652, 3, true, true, true, 4⟩),
     (0x2A, 0x00394801F4, .vor ⟨⟨0, 1, 3⟩, 1, 0x652, 3, true, true, true, 4⟩),
     (0x2B, 0x00394801F4, .vxor ⟨⟨0, 1, 3⟩, 1, 0x652, 3, true, true, true, 4⟩),
     (0x2C, 0x00394801F4, .vandn ⟨⟨0, 1, 3⟩, 1, 0x652, 3, true, true, true, 4⟩),
     (0x2D, 0x00394801F4, .vshl ⟨⟨0, 1, 3⟩, 1, 0x652, 3, true, true, true, 4⟩),
     (0x2E, 0x00394801F4, .vshr ⟨⟨0, 1, 3⟩, 1, 0x652, 3, true, true, true, 4⟩),
     (0x2F, 0x00394801F4, .vsra ⟨⟨0, 1, 3⟩, 1, 0x652, 3, true, true, true, 4⟩),
     (0x30, 0x0038000044, .vpopc ⟨⟨0, 1, 3⟩, 1, 0x600, 0, true, false, false, 4⟩),
     (0x31, 0x0038000044, .vclz ⟨⟨0, 1, 3⟩, 1, 0x600, 0, true, false, false, 4⟩)] := by decide

theorem opcodes_x_floating : Decodes 2 0x0007
    [(0x40, 0x00394801F6, .vfadd ⟨⟨0, 1, 3⟩, 1, 0x652, 3, true, true, true, 6⟩),
     (0x41, 0x00394801F7, .vfsub ⟨⟨0, 1, 3⟩, 1, 0x652, 3, true, true, true, 7⟩),
     (0x42, 0x00394801F8, .vfmul ⟨⟨0, 1, 3⟩, 1, 0x652, 3, true, true, true, 8⟩),
     (0x43, 0x00394801F6, .vfma ⟨⟨0, 1, 3⟩, 1, 0x652, 3, true, true, true, 6⟩),
     (0x44, 0x00394801F7, .vfms ⟨⟨0, 1, 3⟩, 1, 0x652, 3, true, true, true, 7⟩),
     (0x45, 0x00394801F8, .vfmin ⟨⟨0, 1, 3⟩, 1, 0x652, 3, true, true, true, 8⟩),
     (0x46, 0x00394801F6, .vfmax ⟨⟨0, 1, 3⟩, 1, 0x652, 3, true, true, true, 6⟩),
     (0x47, 0x0038000047, .vfabs ⟨⟨0, 1, 3⟩, 1, 0x600, 0, true, false, false, 7⟩),
     (0x48, 0x0038000048, .vfneg ⟨⟨0, 1, 3⟩, 1, 0x600, 0, true, false, false, 8⟩),
     (0x49, 0x0038000046, .vrcp ⟨⟨0, 1, 3⟩, 1, 0x600, 0, true, false, false, 6⟩),
     (0x4A, 0x0038000047, .vrsq ⟨⟨0, 1, 3⟩, 1, 0x600, 0, true, false, false, 7⟩),
     (0x4B, 0x0038000048, .vexp2 ⟨⟨0, 1, 3⟩, 1, 0x600, 0, true, false, false, 8⟩),
     (0x4C, 0x0038000046, .vlog2 ⟨⟨0, 1, 3⟩, 1, 0x600, 0, true, false, false, 6⟩),
     (0x4D, 0x0038000047, .vsigm ⟨⟨0, 1, 3⟩, 1, 0x600, 0, true, false, false, 7⟩),
     (0x4E, 0x0038000048, .vtanh ⟨⟨0, 1, 3⟩, 1, 0x600, 0, true, false, false, 8⟩),
     (0x4F, 0x00394801F6, .vscale ⟨⟨0, 1, 3⟩, 1, 0x652, 3, true, true, true, 6⟩)] := by decide

theorem opcodes_x_convert : Decodes 2 0x0007
    [(0x50, 0x00394061E8, .vcvt ⟨⟨0, 1, 3⟩, 1, 0x650, 1, true, 0x1e8⟩),
     (0x51, 0x00394801FA, .vpack ⟨⟨0, 1, 3⟩, 1, 0x652, 3, true, true, true, 0xa⟩),
     (0x52, 0x0039426001, .vunpk ⟨⟨0, 1, 3⟩, 1, 0x650, 9, true, 1⟩),
     (0x58, 0xFA194801F4, .vcmp ⟨⟨0, 1, 3⟩, 0x7d0, 0x652, 3, true, true, true, 4⟩),
     (0x59, 0x0C194801F6, .vfcmp ⟨⟨0, 1, 3⟩, 0x60, 0x652, 3, true, true, true, 6⟩),
     (0x5A, 0x00394801F8, .vsel ⟨⟨0, 1, 3⟩, 1, 0x652, 3, true, true, true, 8⟩),
     (0x5B, 0xC819072780, .pand ⟨⟨0, 1, 3⟩, 0x640, 0x641, 0x64f, false, false, false, 0⟩),
     (0x5C, 0xC819072780, .por ⟨⟨0, 1, 3⟩, 0x640, 0x641, 0x64f, false, false, false, 0⟩),
     (0x5D, 0xC819040000, .pnot ⟨⟨0, 1, 3⟩, 0x640, 0x641, 0, false, false, false, 0⟩),
     (0x5E, 0xC7F9000002, .pcnt ⟨⟨0, 1, 3⟩, 0x63f, 0x640, 0, false, false, false, 2⟩),
     (0x60, 0x0039416005, .vradd ⟨⟨0, 1, 3⟩, 1, 0x650, 5, true, 5⟩),
     (0x61, 0x0039422000, .vrmax ⟨⟨0, 1, 3⟩, 1, 0x650, 8, true, 0⟩),
     (0x62, 0x003940A006, .vrmin ⟨⟨0, 1, 3⟩, 1, 0x650, 2, true, 6⟩),
     (0x63, 0x003941E002, .vrfadd ⟨⟨0, 1, 3⟩, 1, 0x650, 7, true, 2⟩),
     (0x64, 0x0039402017, .vscan ⟨⟨0, 1, 3⟩, 1, 0x650, 0, true, 0x17⟩),
     (0x65, 0x003941A004, .vargmx ⟨⟨0, 1, 3⟩, 1, 0x650, 6, true, 4⟩),
     (0x68, 0x00394801F4, .vperm ⟨⟨0, 1, 3⟩, 1, 0x652, 3, true, true, true, 4⟩),
     (0x69, 0x003940A03F, .vbcst ⟨⟨0, 1, 3⟩, 1, 0x650, 2, true, 0x3f⟩),
     (0x6A, 0x003941209F, .vsld ⟨⟨0, 1, 3⟩, 1, 0x650, 4, true, 0x9f⟩),
     (0x6B, 0x00394801F4, .vzip ⟨⟨0, 1, 3⟩, 1, 0x652, 3, true, true, true, 4⟩),
     (0x6C, 0x00394801F4, .vuzp ⟨⟨0, 1, 3⟩, 1, 0x652, 3, true, true, true, 4⟩),
     (0x6D, 0x0039406000, .viota ⟨⟨0, 1, 3⟩, 1, 0x650, 1, true, 0⟩)] := by decide

theorem opcodes_x_system : Decodes 2 0x0007
    [(0x70, 0xB80000003F, .vclr ⟨⟨0, 1, 3⟩, 0x5c0, 0, 0, false, 0x3f⟩),
     (0x71, 0x0037FC0000, .vdep ⟨⟨0, 1, 3⟩, 1, 0x5ff, 0, false, 0⟩),
     (0x72, 0x0039480040, .vmov ⟨⟨0, 1, 3⟩, 1, 0x652, 0, true, false, false, 0⟩),
     (0x73, 0x00394801F8, .vthr ⟨⟨0, 1, 3⟩, 1, 0x652, 3, true, true, true, 8⟩),
     (0x74, 0x003941BFFF, .vsign ⟨⟨0, 1, 3⟩, 1, 0x650, 6, true, 0x1fff⟩),
     (0x78, 0x0C44400000, .mfc ⟨⟨0, 1, 3⟩, 3, 0x111, 0⟩),
     (0x79, 0x1430C00000, .mtc ⟨⟨0, 1, 3⟩, 5, 0xc3, 0⟩),
     (0x7A, 0x140C7FFFFF, .tsr ⟨⟨0, 1, 3⟩, 5, 0x31, 0x3fffff⟩),
     (0x7B, 0x0000000002, .tlbi ⟨⟨0, 1, 3⟩, 0, 0, 0, 2⟩),
     (0x7C, 0x0000000000, .hswap ⟨⟨0, 1, 3⟩, 0⟩),
     (0x7D, 0x0041400000, .ctxsv ⟨⟨0, 1, 3⟩, 0, 4, 5, 0⟩),
     (0x7E, 0x0060000000, .ctxld ⟨⟨0, 1, 3⟩, 0, 6, 0, 0⟩)] := by decide

theorem opcodes_m : Decodes 3 0x2BC6
    [(0x00, 0x0000002000, .lease ⟨⟨700, 1, 2⟩, 0, 0, 0, 0, 0x40, 0⟩),
     (0x01, 0x0000000000, .unlse ⟨⟨700, 1, 2⟩, 0, 0, 0, 0, 0, 0⟩),
     (0x02, 0x000000000F, .mshape ⟨⟨700, 1, 2⟩, 0, 0, 0, 0, 0, 0xf⟩),
     (0x03, 0x000000000C, .mmode ⟨⟨700, 1, 2⟩, 0, 0, 0, 0, 0, 0xc⟩),
     (0x04, 0x4F00008001, .wld ⟨⟨700, 1, 2⟩, 4, 0xf, 0, 0, 0x100, 1⟩),
     (0x05, 0x0300000000, .wdrop ⟨⟨700, 1, 2⟩, 0, 3, 0, 0, 0, 0⟩),
     (0x06, 0x321FFE0003, .mma ⟨⟨700, 1, 2⟩, 3, 2, 1, 0x3ff, 0x400, 3⟩),
     (0x07, 0x00F0000080, .mmat ⟨⟨700, 1, 2⟩, 0, 0, 0xf, 0, 1, 0⟩),
     (0x10, 0x1BFC200001, .acmal ⟨⟨700, 1, 2⟩, 1, 0x2ff, 0x40, 0, 1⟩),
     (0x11, 0x2000000000, .acmfr ⟨⟨700, 1, 2⟩, 2, 0, 0, 0, 0⟩),
     (0x12, 0x1016000000, .acmz ⟨⟨700, 1, 2⟩, 1, 5, 0x400, 0, 0⟩),
     (0x13, 0x1004010003, .acmown ⟨⟨700, 1, 2⟩, 1, 1, 2, 0, 3⟩),
     (0x14, 0x101C025FF7, .acmv ⟨⟨700, 1, 2⟩, 1, 7, 4, 0x5ff, 7⟩),
     (0x15, 0x0FF0020037, .acmpk ⟨⟨700, 1, 2⟩, 0, 0x3fc, 4, 3, 7⟩),
     (0x16, 0x10000480F0, .acmst ⟨⟨700, 1, 2⟩, 1, 0, 9, 0xf, 0⟩),
     (0x17, 0x1000020082, .acmad ⟨⟨700, 1, 2⟩, 1, 0, 4, 8, 2⟩),
     (0x20, 0x00200801E0, .pred ⟨⟨700, 1, 2⟩, 1, 2, 3, true, true, false, 0⟩),
     (0x21, 0x0020080190, .predup ⟨⟨700, 1, 2⟩, 1, 2, 3, false, false, true, 0⟩),
     (0x22, 0x0000000000, .ptclr ⟨⟨700, 1, 2⟩, 0⟩),
     (0x23, 0x0020080180, .disp ⟨⟨700, 1, 2⟩, 1, 2, 3, false, false, false, 0⟩),
     (0x24, 0x0020080180, .rslv ⟨⟨700, 1, 2⟩, 1, 2, 3, false, false, false, 0⟩),
     (0x25, 0x0020082000, .rsnap ⟨⟨700, 1, 2⟩, 1, 2, 0, true, 0⟩),
     (0x26, 0x0020080040, .emaps ⟨⟨700, 1, 2⟩, 1, 2, 0, true, false, false, 0⟩),
     (0x30, 0x200FFC0080, .pbld ⟨⟨700, 1, 2⟩, 2, 0, 0, 0x3ff, 1, 0⟩),
     (0x31, 0x0000000000, .pbclr ⟨⟨700, 1, 2⟩, 0⟩),
     (0x32, 0x0000080040, .pbclmp ⟨⟨700, 1, 2⟩, 0, 2, 0, true, false, false, 0⟩),
     (0x33, 0x0000081FFF, .pbswp ⟨⟨700, 1, 2⟩, 0, 2, 0, false, 0x1fff⟩),
     (0x34, 0x00200010FF, .pbrd ⟨⟨700, 1, 2⟩, 1, 0, 0, false, 0x10ff⟩),
     (0x35, 0x0000000001, .pbseed ⟨⟨700, 1, 2⟩, 0, 0, 0, false, 1⟩),
     (0x38, 0x01E008201F, .hfv ⟨⟨700, 1, 2⟩, 0xf, 2, 0, true, 0x1f⟩)] := by decide


/-! ## Single steps; the expected results are worked out by hand from the rule named -/

/-- A hand of context 1 with queues 1 to 8 filled: an entry of ones in 1 and 2, small numbers elsewhere. -/
def hand1 : Hand :=
  { ctx := 1, thread := true, pool := 2038,
    v := [(1, [.landed (BitVec.allOnes 1024), .landed 3]), (2, [.landed (BitVec.allOnes 1024)]), (3, [.landed 0x7F]), (4, [.landed 1]), (5, [.landed 0x3F800000]),
          (6, [.landed 0x40000000]), (7, [.landed 7])] }
/-- Hand 0 at its attempt, in a context with a window of 1 MiB. -/
def st (h : Hand) (e : Engine := .a) : State :=
  { tb := 100, turn := .attempt 0 e, eng := e, m := { hands := [(0, h)], ctxs := [(1, { live := true, cr := [(0x110, 0x1000000000)] })] } }
/-- The results on their way in hand 0 after an instruction. -/
def results (i : Instr) (s : State) : Option (List (List Land × Flags × Nat)) :=
  match exec i s with
  | .next t => some ((t.m.hand 0).results.map (fun x => (x.lands, x.flags, x.due)))
  | _ => none
/-- What an observation of the next state gives. -/
def after {α : Type} (i : Instr) (s : State) (f : Mach → α) : Option α :=
  match exec i s with
  | .next t => some (f t.m)
  | _ => none

/-- AADD wraps, 1 c (09 R178). -/
theorem test_aadd : results (.aadd { aaa with d := 3, a := 1, b := 2 }) (st { hand1 with a := [(1, -1), (2, 2)] }) =
    some [([.areg 3 1], 0, 101)] := by decide +kernel
/-- ASHR: arithmetic with bit 6 clear, logical with it set (09 R178). -/
theorem test_ashr : results (.ashr { aaa with d := 3, a := 1, imm := 4 }) (st { hand1 with a := [(1, 0x8000000000000000)] }) =
      some [([.areg 3 0xF800000000000000], 0, 101)] ∧
    results (.ashr { aaa with d := 3, a := 1, imm := 0x44 }) (st { hand1 with a := [(1, 0x8000000000000000)] }) =
      some [([.areg 3 0x0800000000000000], 0, 101)] := by decide +kernel
/-- SDIV by 0 gives ones, and truncates (09 R180). -/
theorem test_sdiv : results (.sdiv { sss with d := 3, a := 1 }) (st { hand1 with s := [(1, 5)] } .x) = some [([.sreg 3 (-1)], 0, 120)] ∧
    results (.sdiv { sss with d := 3, a := 1, b := 2 }) (st { hand1 with s := [(1, -7), (2, 2)] } .x) = some [([.sreg 3 (-3)], 0, 120)] := by decide +kernel
/-- SREM takes the sign of the dividend; by 0 it gives the dividend (09 R180). -/
theorem test_srem : results (.srem { sss with d := 3, a := 1, b := 2 }) (st { hand1 with s := [(1, -7), (2, 2)] } .x) = some [([.sreg 3 (-1)], 0, 120)] ∧
    results (.srem { sss with d := 3, a := 1 }) (st { hand1 with s := [(1, -7)] } .x) = some [([.sreg 3 (-7)], 0, 120)] := by decide +kernel
/-- 1.0 + 2.0 = 3.0 in f32; the largest plus itself overflows with OF and NX (09 R182, 08 R169). -/
theorem test_sfadd : results (.sfadd { sss with d := 3, a := 1, b := 2, imm := 8 }) (st { hand1 with s := [(1, 0x3F800000), (2, 0x40000000)] } .x) =
      some [([.sreg 3 0x40400000], 0, 104)] ∧
    results (.sfadd { sss with d := 3, a := 1, b := 1, imm := 8 }) (st { hand1 with s := [(1, 0x7F7FFFFF)] } .x) =
      some [([.sreg 3 0x7F800000], flOF ||| flNX, 104)] := by decide +kernel
/-- -0 equals +0; a quiet NaN is unordered with itself and sets nothing (09 R184). -/
theorem test_sfcmp : results (.sfcmp { sss with d := 3, a := 1, imm := 8 }) (st { hand1 with s := [(1, 0x80000000)] } .x) =
      some [([.sreg 3 1], 0, 102)] ∧
    results (.sfcmp { sss with d := 3, a := 1, b := 1, imm := 8 }) (st { hand1 with s := [(1, 0x7FC00000)] } .x) = some [([.sreg 3 0], 0, 102)] := by decide +kernel
/-- VADD in bytes: 0xFF + 0xFF wraps to 0xFE in every lane; both heads are popped (10 R200, 07 R139). -/
theorem test_vadd : results (.vadd { vvv with d := 9, a := 1, b := 2 }) (st hand1 .x) =
      some [([.queue 9 (mkEntry 8 (List.replicate 128 0xFE))], 0, 102)] ∧
    after (.vadd { vvv with d := 9, a := 1, b := 2 }) (st hand1 .x) (fun m => (m.hand 0).queue 1) = some [.landed 3] := by decide +kernel
/-- VSADD clamps 127 + 1 to 127 in i8 (10 R200). -/
theorem test_vsadd : results (.vsadd { vvv with d := 9, a := 3, b := 4 }) (st hand1 .x) = some [([.queue 9 0x7F], 0, 102)] := by decide +kernel
/-- VFADD lane 0: 1.0 + 2.0 = 3.0 (10 R202). -/
theorem test_vfadd : results (.vfadd { vvv with d := 9, a := 5, b := 6, ty := 8 }) (st hand1 .x) = some [([.queue 9 0x40400000], 0, 104)] := by decide +kernel
/-- VCVT of f32 1.0 to bf16 is 0x3F80 (10 R205, R206). -/
theorem test_vcvt : results (.vcvt { vvi with d := 9, a := 5, ty := 6, imm := 8 }) (st hand1 .x) = some [([.queue 9 0x3F80], 0, 104)] := by decide +kernel
/-- VPOPC of ones in i32 is 32 in each lane (10 R200). -/
theorem test_vpopc : results (.vpopc { vvv with d := 9, a := 1, ty := 4 }) (st hand1 .x) =
    some [([.queue 9 (mkEntry 32 (List.replicate 32 32))], 0, 102)] := by decide +kernel
/-- VRADD over all of 128 lanes of -1 in i8 is -128 (10 R212). -/
theorem test_vradd : results (.vradd { vvi with d := 9, a := 1 }) (st hand1 .x) = some [([.queue 9 0x80], 0, 106)] := by decide +kernel
/-- A source queue that holds nothing freezes no word: it is an underflow, which traps (07 R140); the word does not issue. -/
theorem test_underflow : after (.vmov { vvv with d := 9, a := 100 }) (st hand1 .x) (fun m => ((m.hand 0).results, (m.hand 0).ex.iseq)) =
    some ([], 0) := by decide +kernel
/-- JMP back by one word, CALL keeps the word after (09 R186, R187). -/
theorem test_jmp_call : after (.jmp ⟨z, 0xFFFFFFFFFF⟩) (st { hand1 with ea := { pc := 64 } }) (fun m => (m.hand 0).ea.pc) = some 56 ∧
    after (.call ⟨z, 12⟩) (st { hand1 with ea := { pc := 64 } }) (fun m => ((m.hand 0).ea.pc, (m.hand 0).ea.stack)) = some (160, [72]) := by decide +kernel
/-- LOOP counts down: taken while the new count is above 0 (09 R189). -/
theorem test_loop : after (.loop ⟨z, 0, 6, 0, 0x7FFFFFE⟩) (st { hand1 with a := [(6, 2)], ea := { pc := 64 } })
      (fun m => ((m.hand 0).ea.pc, (m.hand 0).areg 6, (m.hand 0).ex.outq)) = some (48, 1, [true]) ∧
    after (.loop ⟨z, 0, 6, 0, 0x7FFFFFE⟩) (st { hand1 with a := [(6, 1)], ea := { pc := 64 } }) (fun m => ((m.hand 0).ea.pc, (m.hand 0).areg 6)) =
      some (72, 0) := by decide +kernel
/-- A flag increment wraps modulo 2^32 (17 R325). -/
theorem test_finc : after (.remoteFincArrival 1 0 0 9 2 0 0 1) (st hand1) (fun m => (m.ctx 1).flag 0 9) = some 2 ∧
    after (.remoteFincArrival 1 0 0 9 2 0 0 1)
      { st hand1 with m := (st hand1).m.modCtx 1 (fun x => { x with flags := [(9, 0xFFFFFFFF)] }) } (fun m => (m.ctx 1).flag 0 9) = some 1 := by decide +kernel
/-- The worked drain of 12: with banks 0 to 5 free and ACMGEN 0, acmal.f32 h1, 6 makes H1 0x8002_8001 2 c later. -/
theorem test_acmal : results (.acmal { ma with handle := 1, count := 6 }) (st hand1 .m) = some [([.hreg 1 0x80028001], 0, 102)] := by decide +kernel
/-- LEASE of 4 takes a free lease at once; one of 33 is above LEASEMAX 32 and traps (11 R222, R225). -/
theorem test_lease : after (.lease { mc with count := 4 }) (st hand1 .m) (fun m => ((m.cluster 0).lease.holder, (m.cluster 0).lease.rem)) =
      some (some 0, 4) ∧
    after (.lease { mc with count := 33 }) (st hand1 .m) (fun m => (m.cluster 0).lease.holder) = some none := by decide +kernel
/-- MFC of TB (21 R395), and of a preset Q1 (08 R162). -/
theorem test_mfc : results (.mfc ⟨z, 3, 0x0B0, 0⟩) (st hand1 .x) = some [([.sreg 3 100], 0, 102)] ∧
    results (.mfc ⟨z, 3, 0x039, 0⟩) (st hand1 .x) = some [([.sreg 3 0x41EB8], 0, 102)] := by decide +kernel
/-- TSR sets a bit of SLIP and lands the old 512 (19 R370, 07 R149). -/
theorem test_tsr : results (.tsr ⟨z, 3, 0x021, 1⟩) (st { hand1 with ring := 1 } .x) = some [([.sreg 3 512], 0, 102)] ∧
    after (.tsr ⟨z, 3, 0x021, 1⟩) (st { hand1 with ring := 1 } .x) (fun m => (m.hand 0).creg 0x021) = some 513 := by decide +kernel
/-- The little-endian order of 00 R1, in a load of 8 bytes at its bank (06 R121). -/
theorem test_memory : leNat [0x78, 0x56, 0x34, 0x12] = 0x12345678 ∧ leBytes 4 0x12345678 = [0x78, 0x56, 0x34, 0x12] ∧
    (Memory.writeN [] 16 [1, 0, 2]).readN 15 5 = [0, 1, 0, 2, 0] ∧ Memory.writeN [] 16 [1, 0, 2] = [(16, 1), (18, 2)] ∧
    Memory.write [(16, 1)] 16 0 = [] := by decide +kernel
/-- The check values of the two codes over the characters 1 to 9: CRC-64/XZ (04 R72) and CRC-32C (13 R255). -/
theorem test_crc : crc64 ((List.range 9).map (fun i => BitVec.ofNat 8 (49 + i))) = 0x995DC9BBDF1939FA ∧
    crc32c ((List.range 9).map (fun i => BitVec.ofNat 8 (49 + i))) = 0xE3069283 := by decide +kernel
/-- The mesh of 01 R10: cluster 0 stands at (0, 0), 71 at (11, 5); 16 links between them, of which two cross dies, 6 c each more. -/
theorem test_mesh : (colOf 0, rowOf 0) = (0, 0) ∧ (colOf 71, rowOf 71) = (11, 5) ∧ hops 0 71 = 28 ∧ hops 5 5 = 0 := by decide +kernel
/-- The first step after a fetch runs the word: sli s5, 7 (03 R39, 09 R180). -/
theorem test_step : (match step (State.reset.withFetchWord 64 0x8000111400000007) with
    | .next t => (t.m.hand 0).results.map (fun x => x.lands) | _ => []) = [[.sreg 5 7]] ∧
    decodeTableWord 64 0x8000111400000007 = some (.sli ⟨z, 5, 7⟩) := by decide +kernel
/-- A zone without liquid is DRY after a reset and the bands of its cluster FORCED; another cluster's are ON (20 R392). -/
theorem test_reset_dry_zone : after .deviceReset
      { st hand1 with m := (st hand1).m.modDev (fun d => { d with zones := [(5, { liq := false })] }) }
      (fun m => ((m.zone 5).st, ((m.cluster 5).band 2).st, ((m.cluster 4).band 2).st)) = some (.dry, .forced, .on) := by decide +kernel

/-! ## Witnesses: for every statement with hypotheses, concrete states and operands that meet them, clause by clause -/

/-- The words issue at engine `e` of state `s`. -/
abbrev May (s : State) (e : Engine) (hd : Hdr) (l : List Instr) : Prop := ∀ i ∈ l, MayIssue s e i hd
/-- A header that pops a token of the X engine and pushes one to it, and one that does so for the A engine. -/
def hx : Hdr := ⟨7, 2, 2⟩
def ha : Hdr := ⟨7, 1, 1⟩
/-- A hand with tokens in every FIFO. -/
def hand2 : Hand := { hand1 with fifos := [(1, { count := 3 }), (2, { count := 3 }), (3, { count := 3 }), (4, { count := 3 }), (5, { count := 3 }), (6, { count := 3 })] }
def sa : State := st { hand2 with a := [(1, 0x8000000000000000), (2, 0xFFFFFFFFFFFFFFFF), (31, 1)] }
def sx : State := st { hand2 with s := [(1, 0x3F800000), (2, 0x7FC00000), (63, 0)] } .x
def sm : State := st hand2 .m

theorem witness_AddressAndScalarIntegerResults :
    (ReadyA sa 1 ∧ ReadyA sa 31 ∧ ReadyA sa 0 ∧
      May sa .a hx [.aadd ⟨hx, 31, 1, 31, 0⟩, .asub ⟨hx, 31, 1, 31, 0⟩, .amul ⟨hx, 31, 1, 31, 0⟩, .ashl ⟨hx, 31, 1, 31, 63⟩, .ashr ⟨hx, 31, 1, 31, 127⟩,
        .aand ⟨hx, 0, 1, 31, 0⟩, .aor ⟨hx, 0, 1, 31, 0⟩, .axor ⟨hx, 0, 1, 31, 0⟩, .amin ⟨hx, 0, 1, 31, 64⟩, .amax ⟨hx, 0, 1, 31, 64⟩,
        .aaddi ⟨hx, 1, 1, 0, 0x1FFFFFF⟩, .amuli ⟨hx, 1, 1, 0, 0x1FFFFFF⟩, .ali ⟨hx, 31, 1, 0xFFFFFFFF⟩, .alih ⟨hx, 31, 0, 0xFFFFFFFF⟩]) ∧
    (ReadyS sx 1 ∧ ReadyS sx 63 ∧ ReadyS sx 0 ∧
      May sx .x ha [.sadd ⟨ha, 63, 1, 63, 0⟩, .ssub ⟨ha, 63, 1, 63, 0⟩, .smul ⟨ha, 63, 1, 63, 0⟩, .smulh ⟨ha, 0, 1, 63, 64⟩, .sdiv ⟨ha, 1, 1, 63, 64⟩,
        .srem ⟨ha, 1, 1, 63, 0⟩, .sand ⟨ha, 1, 1, 63, 0⟩, .sor ⟨ha, 1, 1, 63, 0⟩, .sxor ⟨ha, 1, 1, 63, 0⟩, .sshl ⟨ha, 1, 1, 63, 63⟩, .sshr ⟨ha, 1, 1, 63, 63⟩,
        .ssra ⟨ha, 1, 1, 63, 63⟩, .smin ⟨ha, 1, 1, 63, 64⟩, .smax ⟨ha, 1, 1, 63, 64⟩, .sslt ⟨ha, 1, 1, 63, 64⟩, .saddi ⟨ha, 1, 1, 0, 0x3FFFFF⟩,
        .spopc ⟨ha, 1, 1, 0, 0⟩, .sclz ⟨ha, 1, 1, 0, 0⟩, .ssel ⟨ha, 1, 1, 63, 63⟩, .sli ⟨ha, 63, 0x3FFFFFFFF⟩, .slih ⟨ha, 63, 0xFFFFFFFF⟩]) := by
  decide +kernel

theorem witness_ScalarFloatResultsAndRounding :
    (ReadyS sx 1 ∧ ReadyS sx 2 ∧ May sx .x ha [.sfadd ⟨ha, 3, 1, 2, 0x18⟩, .sfmul ⟨ha, 3, 1, 2, 6⟩, .sfma ⟨ha, 3, 1, 2, 7⟩, .sfcvt ⟨ha, 3, 1, 0, 0x88⟩]) ∧
    (-1 : Int) < 0 ∧ (FFmt.f32 ∈ [FFmt.bf16, FFmt.f16, FFmt.f32] ∧ FFmt.bf16 ∈ [FFmt.bf16, FFmt.f16, FFmt.f32]) ∧
    FFmt.f32.decode 0x80000000 = .fin ⟨true, 0, -149⟩ ∧ FFmt.f32.decode 0x7F7FFFFF = .fin ⟨false, 0xFFFFFF, 104⟩ ∧
    FFmt.bf16.decode 0x8001 = .fin ⟨true, 1, -133⟩ ∧ (8 ∈ [8, 16, 32, 64] ∧ 64 ∈ [8, 16, 32, 64]) := by decide +kernel
/-- An exact zero, and values that are none: the cases of the exact results. -/
theorem witness_ExactResults : Sys2Proof.Claims.dyadic ⟨true, 0, -149⟩ = 0 ∧ Sys2Proof.Claims.dyadic ⟨false, 0xFFFFFF, 104⟩ ≠ 0 ∧
    Sys2Proof.Claims.dyadic ⟨true, 1, -133⟩ ≠ 0 := by
  refine ⟨by simp [Sys2Proof.Claims.dyadic], ?_, ?_⟩ <;> simp [Sys2Proof.Claims.dyadic]
theorem witness_ScalarFloatCompare : ReadyS sx 1 ∧ ReadyS sx 2 ∧ MayIssue sx .x (.sfcmp ⟨ha, 3, 1, 2, 0x68⟩) ha := by decide +kernel
/-- A tiny inexact value of f32 (2^-150 x 3), and one that is not tiny. -/
theorem witness_TinyResults : FFmt.f32 ∈ [FFmt.bf16, FFmt.f16, FFmt.f32] ∧ (⟨false, 3, -150⟩ : DyVal).mag ≠ 0 ∧ (⟨true, 1, 0⟩ : DyVal).mag ≠ 0 := by decide +kernel

theorem witness_RegisterFileMoves :
    (Sources sx .x (sourceOf ⟨ha, 63, 1, 0, true, 127⟩ 0) [] ∧ MayIssue sx .x (.sfv ⟨ha, 63, 1, 0, true, 127⟩) ha) ∧
    (Sources sa .a (sourceOf ⟨hx, 31, 1, 5, false, 0x101F⟩ 5) [] ∧ ReadyA sa 31 ∧ MayIssue sa .a (.afv ⟨hx, 31, 1, 5, false, 0x101F⟩) hx) ∧
    (Sources sm .m (sourceOf ⟨hx, 15, 1, 0, false, 31⟩ 4) [] ∧ MayIssue sm .m (.hfv ⟨hx, 15, 1, 0, false, 31⟩) hx) ∧
    (Sources sx .x [] [1535] ∧ ReadyS sx 63 ∧ MayIssue sx .x (.svs ⟨ha, 1535, 1599, 0, false, 127⟩) ha) ∧
    (Sources sx .x [⟨1, true, false, 4⟩] [9] ∧ MayIssue sx .x (.vmov ⟨ha, 9, 1, 0, true, false, false, 0⟩) ha) ∧
    (Sources sx .x [] [9] ∧ MayIssue sx .x (.vdep ⟨ha, 9, 1535, 0, false, 0⟩) ha) ∧
    MayIssue sx .x (.vclr ⟨ha, 0, 0, 0, false, 63⟩) ha ∧ (∀ q ∈ List.range 64, ∀ x ∈ sx.hand.queue q, x.isLanded = true) := by
  and_intros <;> decide +kernel

/-- Words of two, one and three sources, from queues, from a kept and a held queue, from broadcast registers and constants. -/
def w2 (ty : BitVec 4) : VVV := ⟨ha, 9, 1, 2, true, false, true, ty⟩
def w1 (ty : BitVec 4) : VVV := ⟨ha, 9, 1599, 0, false, false, false, ty⟩
def w3 (ty : BitVec 4) : VVV := ⟨ha, 7, 1616, 1618, false, false, true, ty⟩
theorem witness_VectorIntegerResults : Sources sx .x (sources2 (w2 5)) [9] ∧ Sources sx .x (sources1 (w1 0)) [9] ∧
    May sx .x ha [.vadd (w2 5), .vsub (w2 0), .vmul (w2 1), .vmulh (w2 2), .vmin (w2 3), .vmax (w2 4), .vsadd (w2 0), .vssub (w2 1), .vshl (w2 2), .vshr (w2 3),
      .vsra (w2 4), .vand (w2 8), .vor (w2 6), .vxor (w2 0), .vandn (w2 7), .vabs (w1 0), .vpopc (w1 1), .vclz (w1 5)] := by decide +kernel
theorem witness_VectorFloatResults : Sources sx .x (sources2 (w2 8)) [9] ∧ Sources sx .x (sources1 (w1 6)) [9] ∧ Sources sx .x (sources3 (w3 7)) [7] ∧
    May sx .x ha [.vfadd (w2 8), .vfsub (w2 6), .vfmul (w2 7), .vscale (w2 8), .vfmin (w2 8), .vfmax (w2 6), .vfma (w3 7), .vfms (w3 8), .vfabs (w1 6),
      .vfneg (w1 8)] := by decide +kernel
theorem witness_VectorTranscendentals : Sources sx .x (sources1 (w1 8)) [9] ∧
    May sx .x ha [.vrcp (w1 8), .vrsq (w1 6), .vexp2 (w1 7), .vlog2 (w1 8), .vsigm (w1 8), .vtanh (w1 8)] := by decide +kernel
theorem witness_VectorConversions :
    (Sources sx .x (sourceOf ⟨ha, 9, 5, 6, false, 0x408⟩ 8) [9] ∧ MayIssue sx .x (.vcvt ⟨ha, 9, 5, 6, false, 0x408⟩) ha) ∧
    (Sources sx .x [⟨1, true, true, 2⟩, ⟨2, false, false, 2⟩] [9] ∧ MayIssue sx .x (.vpack (w2 0)) ha) ∧ MayIssue sx .x (.vpack (w2 10)) ha := by
  decide +kernel
theorem witness_VectorUnpack : (Instr.vunpk ⟨ha, 9, 1, 10, false, 1⟩).check = none ∧ Sources sx .x (sourceOf ⟨ha, 9, 1, 10, false, 1⟩ 10) [9] ∧
    MayIssue sx .x (.vunpk ⟨ha, 9, 1, 10, false, 1⟩) ha := by decide +kernel
theorem witness_ComparesSelectsAndPredicates :
    (Sources sx .x (sources2 { w2 0 with d := 0x7D0 }) [] ∧ MayIssue sx .x (.vcmp { w2 0 with d := 0x7D0 }) ha ∧
      MayIssue sx .x (.vfcmp { w2 8 with d := 0x060 }) ha) ∧
    (Sources sx .x (sources3 (w3 8)) [7] ∧ May sx .x ha [.vsel (w3 0), .vthr (w3 8)]) ∧
    (sx.hand.pendP 0 = false ∧ sx.hand.pendP 15 = false ∧ May sx .x ha [.pand ⟨ha, 1600, 1600, 1615, false, false, false, 0⟩,
      .por ⟨ha, 1615, 1600, 1615, false, false, false, 0⟩, .pnot ⟨ha, 1615, 1600, 0, false, false, false, 0⟩,
      .pcnt ⟨ha, 1599, 1615, 0, false, false, false, 8⟩]) := by decide +kernel
theorem witness_ReductionsAndScans :
    (Sources sx .x (sourceOf ⟨ha, 9, 1, 0, false, 7⟩ 0) [9] ∧ May sx .x ha [.vradd ⟨ha, 9, 1, 0, false, 7⟩, .vrmax ⟨ha, 9, 1, 0, false, 0⟩,
      .vrmin ⟨ha, 9, 1, 0, false, 1⟩, .vargmx ⟨ha, 9, 1, 0, false, 7⟩, .vscan ⟨ha, 9, 1, 0, false, 0x17⟩, .vrfadd ⟨ha, 9, 1, 8, false, 5⟩]) ∧
    (5 < 6 ∧ [0xFFFFFFFF, 0] ≠ [] ∧ ∀ c ∈ [0xFFFFFFFF, 0], c < 2 ^ tw 5) := by decide +kernel
theorem witness_Permutes : Sources sx .x (sourceOf ⟨ha, 9, 1, 0, false, 127⟩ 0) [9] ∧ Sources sx .x (sources2 (w2 0)) [9, 9] ∧ Sources sx .x (sources2 (w2 0)) [9] ∧
    Sources sx .x [⟨1, false, false, 6⟩, ⟨7, false, false, 4⟩] [7] ∧ Sources sx .x (sourceOf ⟨ha, 7, 1, 6, false, 0x1FFF⟩ 6) [7] ∧
    May sx .x ha [.vperm (w2 0), .vzip (w2 0), .vuzp (w2 0), .vbcst ⟨ha, 9, 1, 0, false, 127⟩, .vsld ⟨ha, 9, 1, 0, false, 255⟩, .viota ⟨ha, 9, 1, 0, false, 0⟩,
      .vsign ⟨ha, 7, 1, 6, false, 0x0FFF⟩, .vsign ⟨ha, 7, 1, 6, false, 0x1FFF⟩] := by decide +kernel
theorem witness_OperandReads :
    (hand1.queue 1 = [.landed (BitVec.allOnes 1024), .landed 3] ∧ (hand1.engine .x).latch.map Prod.fst ≠ some 1 ∧
      ({ hand1 with ex := { latch := some (1, 5) } }.engine .x).latch = some (1, (5 : Entry))) ∧
    ((8 : BitVec 4).toNat ≤ 8 ∧ 31 < 1024 / tw 8 ∧ 127 < 1024 / tw 0 ∧ 63 < 64 ∧ 15 < 16) := by decide +kernel

/-- The lanes of an access pass the checks of CanAccess. -/
def okAccess (s : State) (lanes : List W64) (n : Nat) (wr store : Bool) : Bool :=
  lanes.all (fun a => a.toNat % n == 0 && (match s.m.xlate s.cur a n wr with | .key _ => true | _ => false) && !s.m.inRange s.cur a n &&
    (!store || !otherSlice s.cur a || s.m.phase s.cur))
theorem canAccess {s : State} {lanes : List W64} {n : Nat} {wr store : Bool} (h : okAccess s lanes n wr store = true) :
    CanAccess s lanes n wr store := by
  intro a ha
  have h1 := List.all_eq_true.mp h a ha
  simp only [Bool.and_eq_true, beq_iff_eq] at h1
  obtain ⟨⟨⟨h1, h2⟩, h3⟩, h4⟩ := h1
  refine ⟨h1, ?_, by simpa using h3, fun hs ho => by simpa [hs, ho] using h4⟩
  split at h2
  · exact ⟨_, by assumption⟩
  · cases h2
/-- An address has a key. -/
theorem hasKey {s : State} {a : W64} {n : Nat} {wr : Bool} (h : (match s.m.xlate s.cur a n wr with | .key _ => true | _ => false) = true) :
    ∃ k, s.m.xlate s.cur a n wr = .key k := by
  split at h
  · exact ⟨_, by assumption⟩
  · cases h

/-- A header of a word whose completion pushes its token. -/
def hc : Hdr := ⟨7, 2, 0⟩
/-- No error stands in any row where the device lists none and no CXL memory. -/
theorem noErrors {m : Mach} (h1 : m.dev.cxlGib = []) (h2 : m.dev.errors = []) (k : Nat) : m.rowError k = none := by
  have h : m.cxlDown k = false := by
    unfold Mach.cxlDown
    split
    · rename_i p h
      simp only [Mach.physKind, h1, KMap.get] at h
      split at h <;> (try split at h) <;> simp at h
      split at h <;> cases h
    · rfl
  simp [Mach.rowError, h, h2]

/-- Results on their way, one for each kind of landing, none held back. -/
def landing (l : Land) (f : Nat := 0) : State :=
  st { hand2 with v := [(9, [.landed 1, .reserved 3]), (10, [.reserved 3])], results := [{ id := 2, lands := [.sreg 7 1] }, { id := 3, lands := [l], flags := flNX, push := f }] }
/-- A fence result, of a release met by nothing or not met while a store of number 1 stands; and a result whose data brings a fault. -/
def acc0 : Access := { id := 1, hand := 0, isLoad := false, op := .store8, keys := [0x100], rows := [], data := 0 }
def fenceRes : Result := { id := 3, lands := [], fence := some ⟨3, true, false⟩, tok := 1, acq := true }
def stFence (accs : List Access) : State := st { hand2 with accs := accs, results := [fenceRes] }
def stFault : State := st { hand2 with pending := List.replicate 7 ⟨1, 0, []⟩, results := [{ id := 3, lands := [], fault := some ⟨0x14, 1, [5]⟩ }] }
/-- A result with two landings, as VZIP has. -/
def twoLands (f : Nat) : State :=
  st { hand2 with v := [(9, [.landed 1, .reserved 3]), (10, [.reserved 3])], results := [{ id := 3, lands := [.queue 9 5, .queue 10 6], push := f }] }
/-- A result that waits for a flush of two entries of the SACC of cluster 0, whose banks may have served in this cycle. -/
def flushOf (busy : Bool) (also : Bool := true) : State :=
  let s := st { hand2 with results := [{ id := 60, lands := [] }] }
  { s with m := { s.m with clusters := [(0, { sacc := [⟨2 ^ 52 + 0x100, false, 7, [0], 1⟩, ⟨2 ^ 52 + 0x180, false, 7, if also then [0, 2] else [2], 1⟩], saccFl := [⟨0, 1, 60, false, []⟩] })],
                           bankT := if busy then 101 else 0, bankUse := if busy then [0] else [] } }
def flushWait : State := flushOf false
theorem witness_LandingsAndTokens :
    (∀ f ∈ [0, 5], ∀ l ∈ [Land.sreg 0 1, .sreg 71 7, .areg 0 1, .areg 31 7, .hreg 15 1, .preg 0 1, .streg 15 1, .creg 0x030 1, .queue 9 5, .mem 0x100 [1, 2]],
      (landing l f).m.flushing 0 3 = false ∧ (((landing l f).m.hand 0).results.find? (fun y => y.id == 3) |>.any (fun x => x.lands = [l] ∧ x.push = f ∧ x.tok = 0 ∧ x.fence = none ∧ x.fault = none ∧
        (∀ y ∈ ((landing l f).m.hand 0).results.takeWhile (fun y => y.id != 3), ∀ k ∈ y.lands, k.same l = false) ∧
        ∀ q ∈ l.queueNo, blockedBy 3 (((landing l f).m.hand 0).queue q) = false))) ∧
    (∀ f ∈ [0, 5], (twoLands f).m.flushing 0 3 = false ∧ ((twoLands f).m.hand 0).results.find? (fun y => y.id == 3) =
        some { id := 3, lands := [.queue 9 5, .queue 10 6], push := f } ∧
      blockedBy 3 (((twoLands f).m.hand 0).queue 9) = false ∧ blockedBy 3 (((twoLands f).m.hand 0).queue 10) = false) ∧
    ((flushWait.m.hand 0).results.find? (fun y => y.id == 60) = some { id := 60, lands := [] } ∧ flushWait.m.flushing 0 60 = true) ∧
    ((stFence []).m.flushing 0 3 = false ∧ stFault.m.flushing 0 3 = false) ∧
    ((st { hand2 with results := [{ id := 3, lands := [], push := 6 }] }).m.hand 0).results.find? (fun y => y.id == 3) =
      some { id := 3, lands := [], push := 6 } ∧
    ((stFence []).m.hand 0).results.find? (fun y => y.id == 3) = some fenceRes ∧ fenceRes.lands = [] ∧ fenceRes.fence = some ⟨3, true, false⟩ ∧
    (∃ a ∈ ((stFence [acc0]).m.hand 0).accs, a.id < 3 ∧ ¬(a.isLoad = false ∧ a.sent = true ∧ false = false)) ∧
    (stFault.m.hand 0).results.find? (fun y => y.id == 3) = some { id := 3, lands := [], fault := some ⟨0x14, 1, [5]⟩ } ∧ (stFault.m.hand 0).pending.length < 8 ∧
    (let x := ((st { hand2 with fifos := [(1, { count := 15, reserved := 1 })] }).m.hand 0).fifo 1; 16 ≤ x.count + x.reserved) ∧
    ¬ 16 ≤ ((sa.m.hand 0).fifo 2).count := by decide +kernel

/-- Words of the AM layout: register 9 or 1 (filled), base A1, index A2, with a token popped and one pushed. -/
def amw (q : BitVec 11) (disp : BitVec 16 := 0) : AM := ⟨hx, q, 1, 2, 2, disp⟩
/-- A hand whose A1 is in the slice of cluster 0, or, `far`, in a virtual page that the translation cache holds; its offsets in queue 5
are multiples of 4. -/
def sacc1 (far : Bool) : State :=
  let s := st { hand2 with a := [(1, if far then 0x8000000000021000 else 0x1000), (2, 128), (7, 9)], v := [(5, [.landed 8, .landed 9]), (1, [.landed 3, .landed 4])] }
  { s with m := { s.m with clusters := [(0, { tc := [⟨1, 2, 16, 0x30000, true, true⟩] })], ctxs := [(1, { live := true, cr := [(0x100, 1), (0x110, 0x1000000000)] })] } }
theorem witness_AccessesIssue : ∀ far ∈ [true, false], let s := sacc1 far
    May s .a hx [.lda (amw 9), .vld (amw 9), .vldb (amw 9), .vlds (amw 9), .vgth { amw 5 with index := 0 }, .atm (amw 1 0x9000), .vatm (amw 1 0x9000), .vatm (amw 1 0xA000),
      .sta (amw 7), .vst (amw 1), .vsts (amw 1), .vsct { amw 5 with index := 0 }] ∧
    ReadyA s 1 ∧ ReadyA s 2 ∧ ReadyA s 0 ∧ ReadyA s 7 ∧ Room s true ∧ Room s false ∧
    Sources s .a [] [] ∧ Sources s .a [] [9] ∧ Sources s .a [popped (amw 5)] [5] ∧ Sources s .a [popped (amw 1)] [1] ∧
    Sources s .a [popped (amw 1), popped (amw 1)] [1] ∧ Sources s .a [popped (amw 1)] [] ∧ Sources s .a [popped (amw 5), popped (amw 5)] [] ∧
    okAccess s [wordAddr s.hand (amw 9)] 8 false false ∧ okAccess s [wordAddr s.hand (amw 9)] 128 false false ∧
    okAccess s (strideAddrs s.hand (amw 9)) 4 false false ∧ okAccess s (indexAddrs s.hand (amw 5) 8) 4 false false ∧
    okAccess s [wordAddr s.hand (amw 9)] 8 true true ∧ okAccess s [wordAddr s.hand (amw 9)] 128 true true ∧
    okAccess s (strideAddrs s.hand (amw 9)) 4 true true ∧
    (far = false → okAccess s [atomicAddr s.hand (amw 1 0x9000)] 128 true false ∧ (atomicAddr s.hand (amw 1 0x9000)).getLsbD 63 = false) := by decide +kernel
/-- The Bool check means the hypothesis of the statement. -/
theorem witness_AccessesIssue_lanes : CanAccess (sacc1 true) [wordAddr (sacc1 true).hand (amw 9)] 128 false false ∧
    CanAccess (sacc1 false) [atomicAddr (sacc1 false).hand (amw 1 0x9000)] 128 true false ∧
    CanAccess (sacc1 false) (strideAddrs (sacc1 false).hand (amw 9)) 4 true true :=
  ⟨canAccess (by decide +kernel), canAccess (by decide +kernel), canAccess (by decide +kernel)⟩

/-- An access of hand 0 alone in its queue. -/
def bank (a : Access) : State := { st { hand1 with accs := [a] } with m := { (st { hand1 with accs := [a] }).m with mem := [(0x100, 7), (0x181, 1)] } }
def acc (isLoad : Bool) (op : AccOp) (keys : List Nat) : Access := { id := 5, hand := 0, isLoad := isLoad, op := op, keys := keys, rows := [], data := 0x0000000100000005, cmp := 7, push := 1, reg := 9 }
/-- A load of a slice, whose bank another access has taken in this cycle. -/
def accSlice : Access := acc true .load8 [2 ^ 52 + 0x100]
def bankBusy : State := { bank accSlice with m := { (bank accSlice).m with bankT := 101, bankUse := [bankOf (2 ^ 52 + 0x100)] } }
theorem witness_BankAccesses :
    (∀ a ∈ [acc false .store8 [0x100], acc false .store128 [0x180], acc false .scatter ((List.range 32).map (fun i => 0x100 + 4 * (i % 9))),
        acc true .load8 [0x100], acc true .load128 [0x100], acc true .loadB [0x104], acc true .gather [0x100, 0x180], acc true (.atm 0) [0x100], acc true (.atm 10) [0x100],
        acc true (.vatm 0) [0x180], acc true (.vatm 9) [0x100]],
      (bank a).memWf = true ∧ (bank a).m.findAcc 5 = some (0, a) ∧ a.sent = false ∧ (bank a).m.accessWaits (bank a).tb 0 a = false ∧ (bank a).m.banksBusy (bank a).tb a.banks = false ∧
        a.push ≠ 0) ∧
    (bankBusy.memWf = true ∧ bankBusy.m.findAcc 5 = some (0, accSlice) ∧ accSlice.sent = false ∧ bankBusy.m.banksBusy bankBusy.tb accSlice.banks = true) ∧
    (∀ a p, ((bank a).m.part p).rpMode = 0) ∧ (∀ a k, (bank a).m.rowError k = none) ∧
    (∀ n, (acc true .gather []).op ≠ .img n) ∧ (∀ n, (acc true (.vatm 9) []).op ≠ .img n) := by
  refine ⟨by decide +kernel, by decide +kernel, fun _ _ => rfl, fun _ => noErrors rfl rfl, ?_, ?_⟩ <;> (intro n h; cases h)

/-- A flit two links from cluster 1 on its way to 3, and one a link away, with the access that it carries. -/
def sf (at_ : Nat) : State :=
  { st { hand1 with accs := [{ acc true .load8 [0x100] with waits := 1, at_ := 102 }] } with
      m := { (st { hand1 with accs := [{ acc true .load8 [0x100] with waits := 1, at_ := 102 }] }).m with flits := [⟨8, 1, at_, 3, 5, []⟩] } }
/-- A walk of context 1 at level 2 of an empty table. -/
def wk : Walk := { id := 4, ctx := 1, va := 0x123456789000, level := 2, table := 0x40000000 }
def sw : State := { st hand1 with m := { (st hand1).m with clusters := [(5, { walks := [wk] })] } }
theorem witness_FencesFlitsAndWalks :
    (May sa .a hx [.lsalign ⟨hx, 0⟩] ∧ May sa .a hc [.fence ⟨hc, 0, 0, 1, true, true, 3, 0⟩, .fence ⟨hc, 0, 0, 0, true, false, 0, 0⟩]) ∧
    ((sf 1).m.flits.find? (fun g => g.id == 8) = some ⟨8, 1, 1, 3, 5, []⟩ ∧ plainNext 1 3 ≠ 3) ∧
    ((sf 2).m.flits.find? (fun g => g.id == 8) = some ⟨8, 1, 2, 3, 5, []⟩ ∧ plainNext 2 3 = 3 ∧
      (sf 2).m.hands.keys.find? (fun r => ((sf 2).m.hand r).accs.any (fun a => a.id == 5)) = some 0 ∧
      ((sf 2).m.hand 0).accs = [{ acc true .load8 [0x100] with waits := 1, at_ := 102 }]) ∧
    ((0 : Nat) < 72 ∧ (71 : Nat) < 72 ∧ (0 : Nat) ≠ 71) ∧
    (5 < 72 ∧ sw.m.walkCluster 4 = 5 ∧ (sw.m.cluster 5).walks.find? (fun w => w.id == 4) = some wk) := by decide +kernel

/-- A hand with a table base in A1 in its own slice and word indices in queue 1; an entry of one word; an entry to write out. -/
def ss : State := st { hand2 with a := [(1, 0x1000)] }
def sin : SaccIn := ⟨0, 1, false, List.replicate 32 (some 0x100), List.replicate 32 3, 5⟩
def ssin : State := { ss with m := { ss.m with clusters := [(0, { saccIn := [sin] })] } }
theorem witness_ScatterAccumulate :
    (let w : VVV := ⟨hx, 1, 4, 3, false, true, false, 4⟩
      let os : List Opnd := [⟨4, false, false, 4⟩, ⟨3, true, false, 4⟩]
      Sources ss .a os [] ∧ ReadyA ss (w.d.setWidth 5) ∧ (0x1000 : Nat) % 4 = 0 ∧ 0x1000 / 2 ^ 23 = clusterOf ss.cur ∧
      (∀ k ∈ (List.range 32).map (fun i => ss.m.saccKey ss.cur 0x1000 (BitVec.ofNat 32 (elem (operand ss .a os 0) 32 i))), k ≠ none) ∧ MayIssue ss .a (.sacc w) hx) ∧
    (ssin.m.saccPick 0 = some sin ∧ (ssin.m.cluster 0).sacc = [] ∧ (ssin.m.cluster 0).saccFl = [] ∧ sin.isF = false ∧ sin.keys = List.replicate 32 (some 0x100) ∧ sin.vals.length = 32) ∧
    MayIssue ssin .a (.saccf ⟨hc, 0, 0, 2, false, false, 0, 0⟩) hc ∧ May ssin .a hc [.saccf ⟨hc, 0, 0, 2, true, true, 3, 0⟩] ∧
    Memory.wf [(0x100, 7)] = true := by decide +kernel
theorem witness_ScatterAccumulate_flush : ∀ b ∈ [true, false], ∀ also ∈ [true, false],
    ((flushOf b also).m.cluster 0).saccIn = [] ∧ ((flushOf b also).m.cluster 0).saccFl = [⟨0, 1, 60, false, []⟩] ∧
    (flushOf b also).m.flushReady 0 ⟨0, 1, 60, false, []⟩ = true ∧
    ((flushOf b also).m.cluster 0).sacc = ⟨2 ^ 52 + 0x100, false, 7, [0], 1⟩ :: [⟨2 ^ 52 + 0x180, false, 7, if also then [0, 2] else [2], 1⟩] ∧
    (flushOf b also).m.banksBusy (flushOf b also).tb (banksOf [2 ^ 52 + 0x100]) = b := by decide +kernel
theorem witness_ScatterAccumulate_parts : (∀ p, (ssin.m.part p).rpMode = 0) ∧ (∀ k, ssin.m.rowError k = none) ∧
    ∀ b also p, ((flushOf b also).m.part p).rpMode = 0 := ⟨fun _ => rfl, noErrors rfl rfl, fun _ _ _ => rfl⟩

/-- Engines at their words: a return address, a decider's sources, followers told taken and not taken. -/
def sc (e : Engine) (b : Bool := true) : State :=
  { st { hand2 with a := [(5, 1)], s := [(5, -1)], ea := { pc := 64, stack := [72, 8], outq := [b] }, ex := { pc := 64, stack := [72], outq := [b, true] }, em := { pc := 64, outq := [b] } } e with eng := e }
theorem witness_ControlFlow :
    (∀ i ∈ [Instr.nop ⟨⟨1023, 0, 0⟩, 0⟩, .jmp ⟨z, 0x8000000000⟩, .call ⟨z, 0x7FFFFFFFFF⟩, .ret ⟨z, 0⟩, .bra ⟨z, 0, 5, 0, 0x4000000⟩, .bra ⟨z, 5, 5, 6, 1⟩, .brx ⟨z, 2, 5, 63, 0x1000000⟩,
        .loop ⟨z, 0, 5, 0, 0x7FFFFFF⟩, .align ⟨z, 0⟩], i.check = none) ∧
    (∀ e ∈ [Engine.a, .x, .m], (((sc e).hand.engine e).stack.length < 32)) ∧ ((sc .a).hand.engine .a).stack = 72 :: [8] ∧
    (ReadyA (sc .a) 5 ∧ ReadyA (sc .a) 0 ∧ ReadyS (sc .x) 5 ∧ ReadyS (sc .x) 63 ∧ (sc .a).eng = .a ∧ (sc .x).eng = .x ∧
      (sc .a).hand.ea.outq.length < 16 ∧ (sc .a).hand.ex.outq.length < 16 ∧ (sc .a).hand.em.outq.length < 16) ∧
    (∀ b ∈ [true, false], ((sc .x b).hand.engine (sc .x b).eng).outq = b :: [true] ∧ (sc .x b).eng ≠ .a ∧ ((sc .m b).hand.engine (sc .m b).eng).outq = b :: [] ∧
      (sc .m b).eng ≠ .a ∧ (sc .m b).eng ≠ .x ∧ ((sc .a b).hand.engine (sc .a b).eng).outq = b :: [] ∧ (sc .a b).eng ≠ .x) := by decide +kernel

/-- A hand whose trap records lie in its slice, and whose handlers stand at 0x8000 (1 + ring). -/
def handT : Hand :=
  { hand2 with vclk := 9, ea := { pc := 64, words := 3, latch := some (1, 5) }, ex := { pc := 72, words := 2 }, em := { pc := 80, words := 4 }, cr := [(0x004, 0x8000), (0x005, 0x10000), (0x008, 0x4000), (0x009, 0x5000)] }
def tcut : Cut := { f := ⟨0x1A, 0, [5, 6]⟩, eng := 1, word := 7, pcs := [64, 72, 80] }
def tr (h : Hand) (e : Engine := .a) : State := { st h e with eng := e }
/-- The record of `tcut` taken to ring 0 from ring `ret`, and the machine of hand `h` with it in the record area. -/
def trec (h : Hand) (ret : Nat := 0) : List Byte := (tr h).m.recordBytes 100 0 tcut 0 ret false
def withRec (h : Hand) (bs : List Byte) : Mach := ((tr h).m.writeRec 0 h.ring bs).toOption.getD {}
/-- Memory of a machine with bytes at a key. -/
def withMem (s : State) (k : Nat) (bs : List Byte) : State := { s with m := s.m.poke k bs }
/-- A descriptor of a plain copy of two units of 64 bytes from 0x2000 to 0x3000, with mode word `mw`. -/
def cpDesc (mw : Nat := 0) (limit : Nat := 0) : List Byte :=
  leBytes 8 0x2000 ++ leBytes 8 0x3000 ++ leBytes 8 mw ++ leBytes 16 0 ++ leBytes 2 63 ++ leBytes 2 0 ++ leBytes 14 (1 + 2 ^ 20 * limit + 2 ^ 46 + 2 ^ 82) ++ leBytes 70 0
def hcp : Hdr := ⟨7, 2, 0⟩
def wcp : AC := ⟨hcp, 1, 0, 3, false, false, 0, 0⟩
def scp (cs : List Copy := []) (mw : Nat := 0) : State := withMem (st { hand2 with a := [(1, 0x1000)], copies := cs }) (st hand2 |>.m.keyOf 0 0x1000 8 false) (cpDesc mw)
def cpy (state : Nat) (id : Nat := 7) : Copy := { id := id, seq := 4, ctx := 1, descAt := 0x1000, desc := cpDesc, xmode := 0, qreg := 0, state := state, startT := 90, push := 3, lat := 20 }
/-- The image of an entry due at marker `mk` that brings 128 bytes from `src` (a slot) to 0x2000 of cluster 0. -/
def ttImg (mk : Nat) (slot : Byte := 0x40) : List Byte :=
  leBytes 4 mk ++ leBytes 4 0 ++ leBytes 8 0x2000 ++ leBytes 8 0x3000 ++ [slot, 0, 0, 0] ++ leBytes 4 128
/-- A context with a timetable of 16 places in the slice of cluster 0, its ring holding the moves `l`. -/
def ttCtx (l : List Move) (mk : Nat := 0) (cr : KMap W64 := []) : Ctx :=
  { live := true, cr := [(0x110, 0x1000000000), (0x108, 0x4000), (0x109, 4), (0x10C, 0x5000)] ++ cr, moves := l, ttwr := l.length, mkcur := [(0, mk)] }
def mv (i : Nat) (state : Nat) (slot : Byte := 0x40) : Move := { id := 20 + i, kind := .ring i, hand := 0, cluster := 0, img := ttImg 5 slot, state := state }
def stt (l : List Move) (mk : Nat := 0) (cr : KMap W64 := []) (h : Hand := hand2) (e : Engine := .a) : State :=
  { st h e with eng := e, m := { (st { h with a := [(1, 0x1000)] }).m with ctxs := [(1, ttCtx l mk cr)] } }
/-- A launch of two threads on cores 0 and 1 (hands 0 and 2), one dealt and running. -/
def lex : Launch := { id := 4, ctx := 1, entry := 0x40, hand := 0, prio := 0, costart := false, cores := 3, cset := 1, extents := [2], next := 1, total := 2, dealt := 1, running := 1 }
def sex : State :=
  { st { hand2 with launch := 4, results := [], accs := [] } .x with eng := .x, m := { (st { hand2 with launch := 4 }).m with dev := { launches := [lex] }, agenda := [] } }
/-- A hand at ring `ring` with three pages of two contexts in the caches of its cluster and of another, and a walk numbered 4. -/
def tcs : List TcEntry := [⟨1, 2, 16, 0x30000, true, true⟩, ⟨1, 3, 16, 0x30000, true, true⟩, ⟨2, 2, 16, 0x30000, true, true⟩]
def stl (ring : Nat) (t : Option Tlbi := none) (walk : Nat := 10) : State :=
  let h := { hand2 with s := [(1, 0x20000)], ring := ring, tlbi := t }
  { st h .x with m := { (st h).m with clusters := [(0, { tc := tcs, walks := [⟨walk, 1, 0, 3, 0, true, true, none⟩] }), (9, { tc := tcs })], nextId := 11 } }
/-- A hand at ring `ring` with two contexts on its core; S1 and S2 hold the areas `a` and `b`. -/
def ssh : Hand := { hand2 with ea := { pc := 64 }, v := [] }
def ssw (ring other : Nat) (a b : W64 := 0) (h : Hand := ssh) : State :=
  { st { h with ring := ring, s := [(1, a), (2, b)] } .x with m := { (st { h with ring := ring, s := [(1, a), (2, b)] }).m with hands := [(0, { h with ring := ring, s := [(1, a), (2, b)] }), (1, { ctx := other })], ctxs := [(1, { live := true, cr := [(0x110, 0x8000000000)] })] } }
/-- The same hand with an image of its context's team at 0x100000. -/
def sld : State :=
  let s := ssw 1 0 0x100000 0
  { s with m := { (s.m.poke (s.m.keyOf 0 (0x100000 + 3488) 4 false) [1, 0, 1, 0]) with ctxs := [(1, { live := true, cr := [(0x110, 0x8000000000)], agent := [(0, 0x100000)] })] } }
/-- A core whose active hand is free since cycle 60 and whose other hand was dealt a thread in cycle `d`. -/
def sau (thr : Bool) (d : Nat) : State :=
  { st { hand2 with thread := thr, freeAt := 60 } with m := { (st hand2).m with hands := [(0, { hand2 with thread := thr, freeAt := 60 }), (1, { hand2 with dealtT := d })] } }
/-- A hand whose A1 is a slice address, or one of the peer window 3, with phase `ph`; the entry of device 3 in the peer table is valid. -/
def sfr (a : W64) (ph : Bool := true) : State :=
  let s := st { hand2 with a := [(1, a)] }
  { s with m := { (s.m.poke (s.m.keyOf 0 0x4034 1 false) [1]) with clusters := [(0, { tc := [⟨1, 2, 16, 0x8000000000000 + 3 * 2 ^ 45 + 0x30000, true, true⟩] })], ctxs := [(1, { live := true, phases := [(4, ph)], cr := [(0x100, 1), (0x101, 0x4000), (0x110, 0x1000000000)] })] } }
def accPeer (isLoad : Bool) : Access := { acc isLoad (if isLoad then .peerR else .peerW true) [0x8000000000000 + 3 * 2 ^ 45 + 0x31000] with res := 9, land := 4 }
def peer0 : PeerOp := { id := 0, hand := 0, isRead := true, peer := 0, addr := 0 }
/-- The block of a collective on 32 elements of type i32 from 0x2000 to 0x3000, in chunks of 4 KiB, with token target 3. -/
def cblk (op grp alg : Nat) (status : Nat := 0) : List Byte :=
  [BitVec.ofNat 8 op, BitVec.ofNat 8 grp, 4, 0, BitVec.ofNat 8 alg, 0x30, 0, 0] ++ leBytes 8 0 ++ leBytes 8 0x2000 ++ leBytes 8 0x3000 ++ leBytes 4 32 ++ leBytes 4 4096 ++ leBytes 8 0 ++ leBytes 8 status ++ leBytes 72 0
def cl (id : Nat) (blk : List Byte) (state : Nat := 0) (ms : List (Nat × Nat) := []) : Coll := { id := id, seq := 4, block := blk, ctx := 1, push := 3, state := state, members := ms }
/-- Hands 0 and 8 of a partition of the clusters of `cs`, with their collectives, the block at 0x1000. -/
def scl (c0 c1 : List Coll := []) (cs : List Nat := [0, 1]) (blk : List Byte := cblk 2 0 3) : State :=
  let h := { hand2 with a := [(1, 0x1000)] }
  let s := st h
  { s with m := { (s.m.poke (s.m.keyOf 0 0x1000 8 false) blk) with nextId := 50, hands := [(0, { h with colls := c0 }), (8, { h with colls := c1 })], clusters := cs.map (fun c => (c, { cr := [(0x0AE, 1)] })), ctxs := [(1, { live := true, part := 1, phases := [(4, true)], cr := [(0x110, 0x1000000000)] })] } }
/-- A machine whose context 1 has parked rows `l` of at most `cap`; and rows from another device, at an address it has or not. -/
def spk (l : List Parked) (cap : Nat := 4) : State :=
  { st { hand2 with ring := 1 } with m := { (st { hand2 with ring := 1 }).m with parts := [(0, { parked := l, cr := [(0x072, 0x40000), (0x073, 0x80000), (0x074, BitVec.ofNat 64 (cap * 65536))] })] } }
def row (addr : W64) : RemoteRow := ⟨1, 2, 0, 5, 1, addr, List.replicate 128 9, 3, 0, true⟩
def pk (addr : W64) : Parked := ⟨2, row addr, false⟩
/-- An operation of a peer waiting for its answer. -/
def sop (p : PeerOp) (cs : List Coll := []) : State :=
  { st { hand2 with accs := [{ acc p.isRead .peerR [0] with res := 9, land := 4 }], colls := cs, results := [{ id := 9, lands := [.queue 9 6] }], v := [(9, [.reserved 6])] } with m := { (st { hand2 with accs := [{ acc p.isRead .peerR [0] with res := 9, land := 4 }], colls := cs, results := [{ id := 9, lands := [.queue 9 6] }], v := [(9, [.reserved 6])] }).m with dev := { peerOps := [p] } } }
def pop (rd : Bool) (coll : Nat) : PeerOp := { peer0 with id := 6, isRead := rd, peer := 3, acc := 5, res := 9, push := 2, coll := coll, sentT := 10 }
/-- A handle of banks 2 and 3, of type i32 or f32, owned by core 0 of cluster 0, with commands `cs` and rows holding numbers. -/
def hdl2 (int : Bool) : Hdl := ⟨true, int, false, 1, 1, 2, 5⟩
def xac (int : Bool) (cs : List Cmd := []) (dr : List (Nat × Nat) := []) : Cluster :=
  { (({} : Cluster).allocate (hdl2 int) 1 0) with cmds := cs, drains := dr, acm := [(32, 7), (33, 9 + 2 ^ 32 * 3)] }
def sac (int : Bool := true) (cs : List Cmd := []) (dr : List (Nat × Nat) := []) (v : KMap (List Slot) := hand1.v) : State :=
  let h := { hand2 with h := [(1, (hdl2 int).code)], v := v, st := [(3, BitVec.ofNat 256 (0x2000 + 2 ^ 64 * 64))], cr := [(0x048, 0x70400), (0x049, 0x4000)] }
  { st h .m with m := { (st h).m with clusters := [(0, xac int cs dr)], nextId := 50 } }
def acw (count : Nat) (row0 : Nat := 0) (q : Nat := 9) (op : Nat := 0) : MA := ⟨hc, 1, BitVec.ofNat 10 row0, BitVec.ofNat 11 count, BitVec.ofNat 11 q, BitVec.ofNat 4 op⟩
def cmd (op : CmdOp) (count : Nat := 2) (row0 : Nat := 0) : Cmd := { acc := 4, hand := 0, ctx := 1, seq := 3, op := op, handle := (hdl2 true).code, row0 := row0, count := count, startT := 99, push := 2, pp := 0x70400, st := BitVec.ofNat 256 (0x2000 + 2 ^ 64 * 64) }
/-! Routing and speculation: queue 20 holds one call of token 6 for experts 3 and 4, queue 21 a query for slot 0, queue 22 a call of experts 4 and 9,
queue 23 a RSLV's entry, queue 24 an address, queue 25 an EMAPS entry, queue 26 a DISP's entry. -/
def recOf (tid : Nat) (sp : Bool) (tag : Nat) (ps : List (Nat × Nat)) : Entry := entryOfBytes (headerBytes tid 0 sp tag ps)
def qry (mask : Nat := 1) : Entry := mkEntry 32 [7, 0, 0, 0, 2 * 2 ^ 16 + 1 * 2 ^ 20 + 5 * 2 ^ 24, mask]
def call6 : Entry := recOf 6 false 0 [(3, 0x3C00), (4, 0x3800)]
def vrt : KMap (List Slot) :=
  [(9, []), (20, [.landed call6]), (21, [.landed (qry 1)]), (22, [.landed (recOf 6 false 0 [(4, 0), (9, 0)])]), (23, [.landed (mkEntry 32 [9, (hdl2 false).code.toNat, 4, 8])]), (24, [.landed 0x4000]),
   (25, [.landed (mkEntry 32 [0x80000000 + 5 * 2 ^ 16 + 0x8000, 0x80000000 + 6 * 2 ^ 16 + 0xC081])]), (26, [.landed (mkEntry 32 [0x2000, 0, 64, 6])])]
def spte (rows : List (Nat × RowSt)) (comp : List Nat) (e : Nat := 3) : Spte :=
  { open_ := true, ctx := 1, round := 9, exp := e, hb := true, handle := (⟨true, false, true, 3, 0, 8, 7⟩ : Hdl).code, rows := rows, computed := comp, opening := 2 }
def pred0 : PredEntry := { v := true, ctx := 1, tag := (predHash (queryOf (qry 1)) 0 (callOf call6 0)).2, ids := [3, 255, 9, 4], conf := [1, 0, 3, 1] }
def xrt (rows : List (Nat × RowSt)) (comp : List Nat) (p : PredEntry := pred0) : Cluster :=
  { xac false with emap := [(1, [(3, 0x8000), (4, 0x8080)])], cr := [(0x05A, 0x10001)], counters := [(3, 5)], spt := [(3, spte rows comp)], pred := [((predHash (queryOf (qry 1)) 0 (callOf call6 0)).1, p)] }
def crt : KMap W64 := [(0x050, 64), (0x051, 2 ^ 32 * 4 + 0x20000), (0x052, 2 ^ 32 * 15 + 0x30000), (0x053, 2 ^ 32 * 15 + 0x40000), (0x054, 8), (0x110, 0x1000000000)]
def srt (rows : List (Nat × RowSt) := [(6, .mapped)]) (comp : List Nat := [0]) (p : PredEntry := pred0) (cr : KMap W64 := crt) : State :=
  let h := { hand2 with h := [(1, (hdl2 false).code)], v := vrt }
  { st h .m with m := { (st h).m with clusters := [(0, xrt rows comp p)], nextId := 50, ctxs := [(1, { live := true, phases := [(4, true)], cr := cr })] } }
def wrt (d a b : Nat) (h : Bool := false) : VVV := ⟨hx, BitVec.ofNat 11 d, BitVec.ofNat 11 a, BitVec.ofNat 11 b, false, false, h, 0⟩
def wrtc (d a b : Nat) (h : Bool := false) : VVV := ⟨hc, BitVec.ofNat 11 d, BitVec.ofNat 11 a, BitVec.ofNat 11 b, false, false, h, 0⟩
def dec (rows : List (Nat × RowSt)) (comp : List Nat) : Decided := ⟨xrt rows comp, [], [], 0, 0, 0, 0⟩
def upd (l : Bool) : EmapUpd := ⟨60, 1, mkEntry 32 [0x80000000 + 3 * 2 ^ 16 + 0x8100], 0, 9, l⟩
def sup (l : Bool) : State :=
  let h := { hand2 with results := [{ id := 9, lands := [.queue 9 6] }], v := [(9, [.reserved 6])] }
  { st h .m with m := { (st h).m with clusters := [(0, { xrt [] [] with emapUpds := [upd l] })], nextId := 70 } }
def frm (bad : Bool) (sent : Nat) : Frame :=
  let hdr := headerBytes 6 0 false 0 [(3, 0x3C00)]
  { id := 61, hand := 0, disp := 62, src := 0, dst := 0, ctx := 1, hdr := hdr, len := 64, bytes := frameBytes hdr (List.replicate 64 (if bad then 1 else 2)) |>.set 40 2, rowAt := 0x2000, sent := sent }
def sfm (f : Frame) (held : List Nat := []) (d : DispRec := { id := 62, hand := 0, ctx := 1, frames := 1, left := 1, res := 9 }) (cr : KMap W64 := crt) : State :=
  let h := { hand2 with results := [{ id := 9, lands := [.queue 9 6] }], v := [(9, [.reserved 6])], disps := 1 }
  { st h .m with m := { (st h).m with clusters := [(0, { heldFrames := held })], nextId := 70, frames := [f], disps := [d], ctxs := [(1, { live := true, phases := [(4, true)], cr := cr })] } }
/-! p-bits: stream 3 walks cells of 256 bytes from 0x2000; queue 20 clamps cells 3 and 5, queue 21 holds a factor, queue 22 a seed. -/
def vpb : KMap (List Slot) := [(9, []), (20, [.landed (mkEntry 16 [3 + 2 ^ 14 * 3, 0, 5 + 2 ^ 14 * 2, 0, 3 + 2 ^ 14 * 2] )]), (21, [.landed 0x1234]), (22, [.landed 0x55])]
def cellBs (col : Nat) : List Byte := leBytes 64 3 ++ leBytes 128 7 ++ [5, BitVec.ofNat 8 col, 1] ++ List.replicate 61 0
def ldSt : BitVec 256 := BitVec.ofNat 256 0x2000
def clmpV : Entry := mkEntry 16 [3 + 2 ^ 14 * 3, 0, 5 + 2 ^ 14 * 2, 0, 3 + 2 ^ 14 * 2]
def pcs : KMap PCell := [(3, { h := 20, n := 1, j := [-4], k := [7], colour := 0, x := 99, s := true, count := 5 }), (7, { colour := 1, clamp := 3, s := true, x := 4 })]
def spb (q : List PbCmd := []) (own : Option Nat := none) (bad : Bool := false) (det : Bool := true) : State :=
  let h := { hand2 with v := vpb ++ [(30, [.reserved 6])], st := [(3, BitVec.ofNat 256 (0x2000 + 2 ^ 64 * 256))], results := [{ id := 9, lands := [.queue 30 6] }] }
  let s := st h .m
  { s with m := { ((s.m.writeAt 1 0x2000 (cellBs 2) true).toOption.getD s.m) with nextId := 50, dies := [(0, { cells := pcs, owner := own, det := det, bad := bad, nsw := 3, queue := q })] } }
def pcmd (op : PbOp) (started : Bool := false) (left : Nat := 0) : PbCmd := { hand := 0, ctx := 1, op := op, push := 3, started := started, startT := 99, left := left, val := 77 }
def mcw (row0 count flags : Nat := 0) : MC := ⟨hc, 3, 0, 0, BitVec.ofNat 10 row0, BitVec.ofNat 11 count, BitVec.ofNat 7 flags⟩
def vviw (d a imm : Nat) : VVI := ⟨hc, BitVec.ofNat 11 d, BitVec.ofNat 11 a, 0, false, BitVec.ofNat 13 imm⟩
/-! Queue 2 of context 1, at index 9 of a ring of 8 entries: its descriptor stands at 0x10080, entry 9 at 0x12040, event 5 at 0x14028, a launch record at the virtual
address 0x15000, in a page of 1 GiB of the tables at 0x20000. -/
def qdesc : List Byte := leBytes 8 0x12000 ++ [3, 5, 3, 0] ++ leBytes 4 9 ++ leBytes 4 20 ++ leBytes 44 0
def qent (op ev : Nat) (val : Nat := 7) (va : Nat := 0x8000000000015000) : List Byte := [BitVec.ofNat 8 op, 0, 0, 0] ++ leBytes 4 ev ++ leBytes 8 val ++ leBytes 8 va ++ leBytes 8 0x16000 ++ leBytes 32 0
def lrec (h : Nat) (z47 : Nat := 0) : List Byte := leBytes 4 0x40 ++ [BitVec.ofNat 8 (64 * h), 0, 1, 0] ++ leBytes 9 1 ++ leBytes 47 z47 ++ leBytes 2 1 ++ leBytes 62 0
def qsl (st : Nat := 1) (asked : List (Nat × Nat) := []) : QSlot := { ctx := 1, q := 2, st := st, rd := 9, wr := 20, prio := 3, asked := asked }
def wr1 (m : Mach) (a : W64) (bs : List Byte) : Mach := (m.writeAt 1 a bs false).toOption.getD m
def st_ (hs : KMap Hand) : State := { st hand1 with m := { hands := hs, nextId := 50, ctxs := [(1, { live := true, cr := [(0x07B, 0x10000), (0x07C, 0x14000), (0x100, 0x20001), (0x110, 0x1000000000)] })] } }
def tables (m : Mach) : Mach := (m.poke 0x20000 (leBytes 8 0x2100D)).poke 0x21000 (leBytes 8 0xF)
def sqe (e : List Byte) (st : Nat := 1) (rc : List Byte := []) (hs : KMap Hand := [(0, { ctx := 1 })]) : State :=
  let s := st_ hs
  { s with m := wr1 (wr1 (wr1 (tables { s.m with dev := { slots := [(6, qsl st)] } }) 0x10080 qdesc) 0x12040 e) 0x8000000000015000 rc }
/-- A launch of 5 iterations on hand 0 of cores 0 and 1 of cluster 0, its first thread dealt to core 0. -/
def ldl : Launch := { lex with next := 1, total := 5, extents := [5], dealt := 1, preload := [0x80, 0x85, 0, 0], strides := [3, 7, 1, 1], slot := some 6, event := 5, status := 0x16000 }
def sdl (l : Launch) (t0 t1 : Bool) (dealtAt : Nat := 0) : State :=
  let h := fun (b : Bool) => { ctx := 1, thread := b, launch := if b then 4 else 0 : Hand }
  let s := sqe (qent 1 5) 3 (lrec 0) [(0, h t0), (2, h t1)]
  { s with m := { s.m with dev := { s.m.dev with launches := [l] }, dies := [(0, { dealtAt := dealtAt })] } }
def shm (seq : Nat := 4) : State :=
  { st hand1 with m := { (st hand1).m with ctxs := [(1, { live := true, jctSeq := [(2, seq)], cr := [(0x07B, 0x10000), (0x07C, 0x14000), (0x07D, 4), (0x110, 0x1000000000)] })] } }
def jh : JctHdr := ⟨2, 1, 4⟩
def shq (l : List (Nat × QSlot)) : State := { shm with m := wr1 { shm.m with dev := { slots := l } } 0x10080 qdesc }
def sen : State := { shm with m := { shm.m with hands := [], dev := { ending := [(some jh, 1)] } } }
/-- A firmware image whose version is below the fuse counter of its class, and a die with two retired clusters. -/
def fwi : FwImage := { cls := 1, svn := 3, key := [], digest := [], ecdsa := [], lms := [], body := [] }
def sfw (ret : KMap (List Nat) := []) : State := { st hand1 with m := { (st hand1).m with dev := { fuses := [(1, 5)], retired := ret, digests := [(0, List.replicate 48 7)], svns := [(0, 9)] } } }
def shl : State := { st hand1 with m := { (st hand1).m with halted := some ⟨[1, 2, 3], [(5, 0x99)]⟩ } }
/-- Hand 0 with a boost lease in state `b`, its partition at base grant 3. -/
def sbo (b : Nat) (fin : Nat := 90) (aside : Bool := false) : State :=
  let h := { hand2 with boostSt := b, boostLvl := 5, boostEnd := fin, boostLeft := 4000, aside := aside }
  { st h with m := { (st h).m with parts := [(0, { base := 3, eff := 3 })] } }
/-- A zone of cluster 0 in a state. -/
def zn (z : Zone) (h : Hand := hand2) : State := { st h with m := { (st h).m with dev := { zones := [(0, z)] } } }
def szn (z : Zone) (tb : Nat := 100) : State := { zn z with tb := tb }
def srp (mode stat rd wr : Nat) : State := { st hand2 with m := { (st hand2).m with parts := [(0, { cr := [(0x0B3, BitVec.ofNat 64 mode)], rpr := rd, rpw := wr, rpstat := stat })] } }
/-! The array: stream 3 walks rows of 8 i8 elements from 0x2000, 8 bytes apart; slot 2 holds an image of two columns of the same kind. -/
def stm : BitVec 256 := BitVec.ofNat 256 (0x2000 + 2 ^ 64 * 8 + 2 ^ 96 * 8)
def wsl : WSlot := { st := 2, ctx := 1, cls := 2, k := 8, n := 2, cols := [⟨[1, 2, 3, 4, 5, 6, 7, 8], []⟩, ⟨[255, 0, 0, 0, 0, 0, 0, 1], []⟩] }
def lsh (n : Nat := 4) : Lease := { st := [(0, 2)], holder := some 0, rem := n }
def sma (l : Lease := lsh) (cs : List Cmd := []) (sp : Bool := false) (sl : Nat := 2) (bands : KMap Band := []) : State :=
  let hd : Hdl := ⟨true, true, sp, 1, 1, 2, 5⟩
  let h := { hand2 with h := [(1, hd.code)], st := [(3, stm)] }
  let s := st h .m
  { s with m := { wr1 s.m 0x2000 ((List.range 32).map (BitVec.ofNat 8)) with nextId := 50, clusters := [(0, { (({} : Cluster).allocate hd 1 0) with lease := l, cmds := cs, accNo := 4, bands := bands, wbuf := [(sl, wsl)], acm := [(32, 7)] })] } }
def mw (slot row0 count flags : Nat) : MC := ⟨hc, 3, BitVec.ofNat 4 slot, 1, BitVec.ofNat 10 row0, BitVec.ofNat 11 count, BitVec.ofNat 7 flags⟩
def mz (slot count flags : Nat := 0) (stream : Nat := 0) : MC := ⟨hc, BitVec.ofNat 4 stream, BitVec.ofNat 4 slot, 0, 0, BitVec.ofNat 11 count, BitVec.ofNat 7 flags⟩
def mcd (op : CmdOp) (count : Nat := 2) : Cmd := { acc := 4, hand := 0, ctx := 1, seq := 3, op := op, slot := 2, handle := (⟨true, true, false, 1, 1, 2, 5⟩ : Hdl).code, count := count, st := stm, startT := 99, push := 3, leased := true, band := 15 }
/-- A hand whose team's image stands at 0x100000, its flags outside the machine; a barrier of the die at which hand 2 has arrived with another action. -/
def saf : State := { tr handT with m := { (tr handT).m with ctxs := [(1, { live := true, agent := [(0, 0x100000)], cr := [(0x110, 0x8000000000)] })] } }
def sba : State := { tr handT with m := { (tr handT).m with ctxs := [(1, { live := true, barriers := [(barKey 1 ((tr handT).m.barInst 1 0), { act := 2, arrived := [2] })] })] } }
/-- Hand 0 at the head of a copy, or in a collective, while an acquire that it issued before is open. -/
def scpH : State := { scp [cpy 0] with m := { (scp [cpy 0]).m with hands := [(0, { hand2 with copies := [cpy 0], results := [{ id := 3, lands := [], acq := true }] })] } }
def sclH : State := { scl [cl 7 (cblk 2 0 3)] with m := { (scl [cl 7 (cblk 2 0 3)]).m with hands := [(0, { hand2 with colls := [cl 7 (cblk 2 0 3)], results := [{ id := 3, lands := [], acq := true }] })] } }
def cmz3 : Cmd := { cmd .acmz with acc := 3, seq := 2, handle := (⟨true, true, false, 1, 1, 5, 5⟩ : Hdl).code }
def sznR : State := { szn { evac := true } with m := { (szn { evac := true }).m with clusters := [(0, { cmds := [{ mcd .mma with started := true, need := 1 }] })] } }
def scpP (cs : List Copy := []) : State := { scp cs with m := { (scp cs).m with ctxs := [(1, { live := true, phases := [(4, true)], cr := [(0x110, 0x1000000000)] })] } }

/-- What holds of the default and of every value that a map lists holds of the value at any key. -/
theorem of_get {V : Type} {d : V} {l : KMap V} {P : V → Prop} (h0 : P d) (h : ∀ p ∈ l, P p.2) (k : Nat) : P (KMap.get d l k) := by
  induction l with
  | nil => exact h0
  | cons p t ih =>
    unfold KMap.get
    split
    · exact h p (.head _)
    · exact ih (fun q hq => h q (.tail _ hq))
/-- A check of the first part of an answer with no fault, and what it means. -/
def okP {α β γ : Type} (x : Except γ (α × β)) (f : α → Bool) : Bool := match x with | .ok p => f p.1 | .error _ => false
theorem okPair {α β γ : Type} {x : Except γ (α × β)} {f : α → Bool} (h : okP x f = true) : ∃ a b, x = .ok (a, b) ∧ f a = true := by
  unfold okP at h
  split at h
  · exact ⟨_, _, rfl, h⟩
  · cases h

abbrev trapEntryAndRecord1 : Mach := (match (cutOf (tr handT).m 100 0).writeRec 0 0 ((cutOf (tr handT).m 100 0).recordBytes 100 0 tcut 0 0 false) with | .ok m => m | _ => {})
abbrev trapEntryAndRecord2 : Mach := (tr {handT with ring := 3, busy := 8}).m
theorem witness_TrapEntryAndRecord :
    ((max 0 (((cutOf (tr handT).m 100 0).hand 0).ring + if ((cutOf (tr handT).m 100 0).hand 0).busy.getLsbD ((cutOf (tr handT).m 100 0).hand 0).ring = true then 1 else 0) < 4) ∧ ((cutOf (tr handT).m 100 0).writeRec 0 (max 0 (((cutOf (tr handT).m 100 0).hand 0).ring + if ((cutOf (tr handT).m 100 0).hand 0).busy.getLsbD ((cutOf (tr handT).m 100 0).hand 0).ring = true then 1 else 0)) ((cutOf (tr handT).m 100 0).recordBytes 100 0 (if tcut.pcs = [] then { f := tcut.f, eng := tcut.eng, recorded := tcut.recorded, word := tcut.word, pcs := (cutOf (tr handT).m 100 0).cutPcs 0 : Cut } else tcut) (max 0 (((cutOf (tr handT).m 100 0).hand 0).ring + if ((cutOf (tr handT).m 100 0).hand 0).busy.getLsbD ((cutOf (tr handT).m 100 0).hand 0).ring = true then 1 else 0)) ((cutOf (tr handT).m 100 0).hand 0).ring (((cutOf (tr handT).m 100 0).hand 0).busy != 0)) = Except.ok trapEntryAndRecord1)) ∧
    (tcut.pcs = [64, 72, 80] ∧ tcut.f.cause < 256 ∧ tcut.f.reason < 256 ∧ tcut.eng ≤ 3 ∧ ((tr handT).m.hand 0).vclk < 2 ^ 64) ∧
    ((3 < max 0 (((cutOf trapEntryAndRecord2 100 0).hand 0).ring + if ((cutOf trapEntryAndRecord2 100 0).hand 0).busy.getLsbD ((cutOf trapEntryAndRecord2 100 0).hand 0).ring = true then 1 else 0)) ∧ tcut.pcs ≠ []) := by
  refine ⟨?_, ?_, ?_⟩ <;> decide +kernel

abbrev softwareTrapsAndRecordedFaults1 : State := {tr handT with m := withRec {handT with busy := 1} (trec handT)}
abbrev softwareTrapsAndRecordedFaults2 : Z := ⟨z, 0⟩
abbrev softwareTrapsAndRecordedFaults5 : State := tr {handT with cr:= [(0x22,0)]}
abbrev softwareTrapsAndRecordedFaults6 : N := ⟨z, 0, 5⟩
abbrev softwareTrapsAndRecordedFaults7 : N := ⟨z, 2, 5⟩
abbrev softwareTrapsAndRecordedFaults8 : State := tr {handT with ring := 1}
abbrev softwareTrapsAndRecordedFaults9 : N := ⟨z, 1, 5⟩
abbrev softwareTrapsAndRecordedFaults10 : State := tr {handT with blocked := some ⟨3, .a, 0⟩, frzRun := 2000, cr := [(0x022, 1024)]}
abbrev softwareTrapsAndRecordedFaults11 : Blocked := ⟨3, .a, 0⟩
abbrev softwareTrapsAndRecordedFaults13 : State := tr {handT with ring := 1, pending := [⟨0x19, 0, []⟩, ⟨0x1F, 2, [5]⟩, ⟨0x1E, 0, []⟩]}
abbrev softwareTrapsAndRecordedFaults14 : List FaultRec := [⟨0x19, 0, []⟩]
abbrev softwareTrapsAndRecordedFaults15 : List FaultRec := [⟨0x1E, 0, []⟩]
abbrev softwareTrapsAndRecordedFaults16 : FaultRec := ⟨0x1F, 2, [5]⟩
theorem witness_SoftwareTrapsAndRecordedFaults :
    ((Instr.eret softwareTrapsAndRecordedFaults2).check = none ∧ (softwareTrapsAndRecordedFaults1.m.seen softwareTrapsAndRecordedFaults1.cur).readRec softwareTrapsAndRecordedFaults1.cur softwareTrapsAndRecordedFaults1.hand.ring = Except.ok (trec handT) ∧ (softwareTrapsAndRecordedFaults1.hand.ring ≠ 0 ∧ field (trec handT) 11 1 / 4 % 4 < softwareTrapsAndRecordedFaults1.hand.ring ∨ softwareTrapsAndRecordedFaults1.hand.ring = 0 ∧ softwareTrapsAndRecordedFaults1.hand.busy.getLsbD 0 = true ∧ field (trec handT) 11 1 / 4 % 4 = 0) ∧ 1 ≠ softwareTrapsAndRecordedFaults1.cur) ∧
    (softwareTrapsAndRecordedFaults5.m.hand 0).creg 34 = 0 ∧
    (Instr.trap softwareTrapsAndRecordedFaults6).check = none ∧
    ((Instr.sys softwareTrapsAndRecordedFaults7).check = none ∧ (tr handT).hand.ring < softwareTrapsAndRecordedFaults7.mod.toNat % 4) ∧
    ((Instr.sys softwareTrapsAndRecordedFaults9).check = none ∧ softwareTrapsAndRecordedFaults9.mod.toNat % 4 ≤ softwareTrapsAndRecordedFaults8.hand.ring) ∧
    ((Instr.eret softwareTrapsAndRecordedFaults2).check = none ∧ (tr handT).hand.ring = 0 ∧ (tr handT).hand.busy.getLsbD 0 = false) ∧
    ((softwareTrapsAndRecordedFaults10.m.hand 0).blocked = some softwareTrapsAndRecordedFaults11 ∧ 0 < BitVec.toNat ((softwareTrapsAndRecordedFaults10.m.hand 0).creg 34) % 2 ^ 32 ∧ BitVec.toNat ((softwareTrapsAndRecordedFaults10.m.hand 0).creg 34) % 2 ^ 32 < (softwareTrapsAndRecordedFaults10.m.hand 0).frzRun) ∧
    ((tr handT).m.part ((tr handT).m.partOf 0)).rpMode ≠ 2 ∧
    ((softwareTrapsAndRecordedFaults13.m.hand 0).pending = softwareTrapsAndRecordedFaults14 ++ softwareTrapsAndRecordedFaults16 :: softwareTrapsAndRecordedFaults15 ∧ (∀ g ∈ softwareTrapsAndRecordedFaults14, softwareTrapsAndRecordedFaults13.m.tring 0 g.cause < (softwareTrapsAndRecordedFaults13.m.hand 0).ring ∧ g.cause ∉ [31, 22, 29]) ∧ ((softwareTrapsAndRecordedFaults13.m.hand 0).ring ≤ softwareTrapsAndRecordedFaults13.m.tring 0 softwareTrapsAndRecordedFaults16.cause ∨ softwareTrapsAndRecordedFaults16.cause ∈ [31, 22, 29]) ∧ softwareTrapsAndRecordedFaults16 ∉ softwareTrapsAndRecordedFaults14 ∧ (softwareTrapsAndRecordedFaults13.m.part (softwareTrapsAndRecordedFaults13.m.partOf 0)).rpMode = 0) := by
  refine ⟨?_, ?_, ?_, ?_, ?_, ?_, ?_, ?_, ?_⟩ <;> decide +kernel
theorem witness_SoftwareTrapsAndRecordedFaults_parts : ∃ (m : Mach), softwareTrapsAndRecordedFaults13.m.writeRec 0 ((softwareTrapsAndRecordedFaults13.m.hand 0).deliverRing (softwareTrapsAndRecordedFaults13.m.tring 0 softwareTrapsAndRecordedFaults16.cause)) (List.replicate 1024 0) = Except.ok m := ⟨_, rfl⟩

abbrev flagsBarriersAndPhases1 : State := tr {handT with a := [(1,3),(2,5)]}
abbrev flagsBarriersAndPhases2 : AAA := ⟨hx, 0, 1, 2, 0xC5⟩
abbrev flagsBarriersAndPhases4 : AAA := ⟨hx, 5, 0, 0, 9⟩
abbrev flagsBarriersAndPhases5 : State := {tr {handT with a := [(2,5)]} with m := {(tr {handT with a := [(2,5)]}).m with ctxs := [(1,{live := true, flags := [(0+9, 7)]})]}}
abbrev flagsBarriersAndPhases6 : AAA := ⟨hx, 3, 0, 2, 0x89⟩
abbrev flagsBarriersAndPhases7 : State := {tr {handT with a := [(2,5)]} with m := {(tr {handT with a := [(2,5)]}).m with ctxs := [(1,{live := true, flags := [(0+9, 4)]})]}}
abbrev flagsBarriersAndPhases8 : State := {tr handT with m := {(tr handT).m with ctxs := [(1,{live := true, flags := [(0+9, 7)], flagWaits := [⟨0,9,0,5,false,0⟩]})]}}
abbrev flagsBarriersAndPhases9 : FlagWait := ⟨0,9,0,5,false,0⟩
abbrev flagsBarriersAndPhases10 : List FlagWait := []
abbrev flagsBarriersAndPhases11 : N := ⟨z, 0, 0⟩
abbrev flagsBarriersAndPhases14 : State := {tr handT with m := {(tr handT).m with hands := [(0,{handT with launch := 4}),(2,{handT with launch := 4})], dev := { launches := [⟨4,1,0,0,0,false,3,1,0,[],[],[],1,2,[],2,2,0,0,none,0⟩]}}}
abbrev flagsBarriersAndPhases15 : N := ⟨z, 1, 0⟩
abbrev flagsBarriersAndPhases17 : N := ⟨z, 4, 0⟩
abbrev flagsBarriersAndPhases19 : N := ⟨z, 5, 0⟩
abbrev flagsBarriersAndPhases21 : Mach := ((saf.m.writeAt 1 (0x100000 + 1179684) (leBytes 4 7) false).toOption.getD {})
theorem witness_FlagsBarriersAndPhases :
    ((flagsBarriersAndPhases2.imm.getLsbD 6 = true → ReadyA flagsBarriersAndPhases1 flagsBarriersAndPhases2.a) ∧ ReadyA flagsBarriersAndPhases1 flagsBarriersAndPhases2.b ∧ (flagsBarriersAndPhases2.imm.getLsbD 6 = true → flagsBarriersAndPhases1.m.inPart flagsBarriersAndPhases1.hand.ctx (if flagsBarriersAndPhases2.imm.getLsbD 6 = true then BitVec.toNat (flagsBarriersAndPhases1.hand.areg flagsBarriersAndPhases2.a.toNat) % 128 else clusterOf flagsBarriersAndPhases1.cur) = true) ∧ MayIssue flagsBarriersAndPhases1 Engine.a (Instr.finc flagsBarriersAndPhases2) flagsBarriersAndPhases2.hdr) ∧
    ((tr handT).m.ctx 1).agentOf (2 * 3 + 0) = none ∧
    MayIssue (tr handT) Engine.a (Instr.frdf flagsBarriersAndPhases4) flagsBarriersAndPhases4.hdr ∧
    (ReadyA flagsBarriersAndPhases5 flagsBarriersAndPhases6.b ∧ (∀ u ∈ flagsBarriersAndPhases5.ctx.flagWaits, u.hand ≠ flagsBarriersAndPhases5.cur ∧ (u.team ≠ teamOf flagsBarriersAndPhases5.cur ∨ u.flag ≠ flagsBarriersAndPhases6.imm.toNat % 64 ∨ u.served = true)) ∧ MayIssue flagsBarriersAndPhases5 Engine.a (Instr.fwt flagsBarriersAndPhases6) flagsBarriersAndPhases6.hdr ∧ BitVec.toNat (amountOf flagsBarriersAndPhases5 flagsBarriersAndPhases6) ≤ BitVec.toNat (flagsBarriersAndPhases5.ctx.flag (teamOf flagsBarriersAndPhases5.cur) (flagsBarriersAndPhases6.imm.toNat % 64))) ∧
    (ReadyA flagsBarriersAndPhases7 flagsBarriersAndPhases6.b ∧ (∀ u ∈ flagsBarriersAndPhases7.ctx.flagWaits, u.hand ≠ flagsBarriersAndPhases7.cur ∧ (u.team ≠ teamOf flagsBarriersAndPhases7.cur ∨ u.flag ≠ flagsBarriersAndPhases6.imm.toNat % 64 ∨ u.served = true)) ∧ MayIssue flagsBarriersAndPhases7 Engine.a (Instr.fwt flagsBarriersAndPhases6) flagsBarriersAndPhases6.hdr ∧ BitVec.toNat (flagsBarriersAndPhases7.ctx.flag (teamOf flagsBarriersAndPhases7.cur) (flagsBarriersAndPhases6.imm.toNat % 64)) < BitVec.toNat (amountOf flagsBarriersAndPhases7 flagsBarriersAndPhases6)) ∧
    ((flagsBarriersAndPhases8.m.ctx 1).flagWaits = flagsBarriersAndPhases10 ++ flagsBarriersAndPhases9 :: flagsBarriersAndPhases10 ∧ (∀ u ∈ flagsBarriersAndPhases10, u.team ≠ 0 ∨ u.flag ≠ 9 ∨ u.served = true) ∧ flagsBarriersAndPhases9.team = 0 ∧ flagsBarriersAndPhases9.flag = 9 ∧ flagsBarriersAndPhases9.served = false ∧ flagsBarriersAndPhases9 ∉ flagsBarriersAndPhases10 ∧ flagsBarriersAndPhases9.amount ≤ BitVec.toNat ((flagsBarriersAndPhases8.m.ctx 1).flag 0 9)) ∧
    ((Instr.bar flagsBarriersAndPhases11).check = none ∧ (flagsBarriersAndPhases11.mod.toNat / 4 = 0 → flagsBarriersAndPhases11.mod.toNat % 4 = 0) ∧ (flagsBarriersAndPhases11.mod.toNat / 4 = 3 → (tr handT).ctx.fgrp ≠ 0) ∧ (tr handT).cur ∉ ((tr handT).m.barrier (tr handT).hand.ctx (flagsBarriersAndPhases11.mod.toNat / 4) ((tr handT).m.barInst (flagsBarriersAndPhases11.mod.toNat / 4) (tr handT).cur)).arrived ∧ (((tr handT).m.barrier (tr handT).hand.ctx (flagsBarriersAndPhases11.mod.toNat / 4) ((tr handT).m.barInst (flagsBarriersAndPhases11.mod.toNat / 4) (tr handT).cur)).arrived ≠ [] → ((tr handT).m.barrier (tr handT).hand.ctx (flagsBarriersAndPhases11.mod.toNat / 4) ((tr handT).m.barInst (flagsBarriersAndPhases11.mod.toNat / 4) (tr handT).cur)).act = flagsBarriersAndPhases11.mod.toNat % 4) ∧ (tr handT).m.allArrived (tr handT).cur (flagsBarriersAndPhases11.mod.toNat / 4) [(tr handT).cur] = true ∧ ((tr handT).m.barrier (tr handT).hand.ctx (flagsBarriersAndPhases11.mod.toNat / 4) ((tr handT).m.barInst (flagsBarriersAndPhases11.mod.toNat / 4) (tr handT).cur)).arrived = [] ∧ ((tr handT).m.barrier (tr handT).hand.ctx (flagsBarriersAndPhases11.mod.toNat / 4) ((tr handT).m.barInst (flagsBarriersAndPhases11.mod.toNat / 4) (tr handT).cur)).doneAt = none ∧ (flagsBarriersAndPhases11.mod.toNat / 4 = 3 → (tr handT).ctx.farGroup = true → ((tr handT).m.barrier (tr handT).hand.ctx (flagsBarriersAndPhases11.mod.toNat / 4) ((tr handT).m.barInst (flagsBarriersAndPhases11.mod.toNat / 4) (tr handT).cur)).peers = true) ∧ (tr handT).m.accessesOpen (tr handT).cur (tr handT).m.nextId = false ∧ (tr handT).m.stepsOpen (tr handT).cur = false ∧ (flagsBarriersAndPhases11.mod.toNat % 4 = 2 → KMap.get false (tr handT).ctx.phases (phaseKey (flagsBarriersAndPhases11.mod.toNat / 4) (tr handT).cur) = true → ∀ q ∈ (tr handT).m.members (tr handT).cur (flagsBarriersAndPhases11.mod.toNat / 4), (tr handT).m.remoteDone q = true) ∧ flagsBarriersAndPhases11.mod.toNat % 4 = 0) ∧
    ((Instr.bar flagsBarriersAndPhases11).check = none ∧ (flagsBarriersAndPhases11.mod.toNat / 4 = 0 → flagsBarriersAndPhases11.mod.toNat % 4 = 0) ∧ (flagsBarriersAndPhases11.mod.toNat / 4 = 3 → flagsBarriersAndPhases14.ctx.fgrp ≠ 0) ∧ flagsBarriersAndPhases14.cur ∉ (flagsBarriersAndPhases14.m.barrier flagsBarriersAndPhases14.hand.ctx (flagsBarriersAndPhases11.mod.toNat / 4) (flagsBarriersAndPhases14.m.barInst (flagsBarriersAndPhases11.mod.toNat / 4) flagsBarriersAndPhases14.cur)).arrived ∧ ((flagsBarriersAndPhases14.m.barrier flagsBarriersAndPhases14.hand.ctx (flagsBarriersAndPhases11.mod.toNat / 4) (flagsBarriersAndPhases14.m.barInst (flagsBarriersAndPhases11.mod.toNat / 4) flagsBarriersAndPhases14.cur)).arrived ≠ [] → (flagsBarriersAndPhases14.m.barrier flagsBarriersAndPhases14.hand.ctx (flagsBarriersAndPhases11.mod.toNat / 4) (flagsBarriersAndPhases14.m.barInst (flagsBarriersAndPhases11.mod.toNat / 4) flagsBarriersAndPhases14.cur)).act = flagsBarriersAndPhases11.mod.toNat % 4) ∧ flagsBarriersAndPhases14.m.allArrived flagsBarriersAndPhases14.cur (flagsBarriersAndPhases11.mod.toNat / 4) ((flagsBarriersAndPhases14.m.barrier flagsBarriersAndPhases14.hand.ctx (flagsBarriersAndPhases11.mod.toNat / 4) (flagsBarriersAndPhases14.m.barInst (flagsBarriersAndPhases11.mod.toNat / 4) flagsBarriersAndPhases14.cur)).arrived ++ [flagsBarriersAndPhases14.cur]) = false ∧ (flagsBarriersAndPhases14.m.barrier flagsBarriersAndPhases14.hand.ctx (flagsBarriersAndPhases11.mod.toNat / 4) (flagsBarriersAndPhases14.m.barInst (flagsBarriersAndPhases11.mod.toNat / 4) flagsBarriersAndPhases14.cur)).doneAt = none) ∧
    ((Instr.bar flagsBarriersAndPhases15).check = none ∧ (flagsBarriersAndPhases15.mod.toNat / 4 = 0 ∧ flagsBarriersAndPhases15.mod.toNat % 4 ≠ 0 ∨ flagsBarriersAndPhases15.mod.toNat / 4 = 3 ∧ (tr handT).ctx.fgrp = 0)) ∧
    ((Instr.phase flagsBarriersAndPhases17).check = none ∧ (flagsBarriersAndPhases17.mod.toNat / 4 = 3 → (tr handT).ctx.fgrp ≠ 0)) ∧
    ((Instr.bar flagsBarriersAndPhases19).check = none ∧ (flagsBarriersAndPhases19.mod.toNat / 4 = 0 → flagsBarriersAndPhases19.mod.toNat % 4 = 0) ∧ (flagsBarriersAndPhases19.mod.toNat / 4 = 3 → (tr handT).ctx.fgrp ≠ 0) ∧ (tr handT).cur ∉ ((tr handT).m.barrier (tr handT).hand.ctx (flagsBarriersAndPhases19.mod.toNat / 4) ((tr handT).m.barInst (flagsBarriersAndPhases19.mod.toNat / 4) (tr handT).cur)).arrived ∧ (((tr handT).m.barrier (tr handT).hand.ctx (flagsBarriersAndPhases19.mod.toNat / 4) ((tr handT).m.barInst (flagsBarriersAndPhases19.mod.toNat / 4) (tr handT).cur)).arrived ≠ [] → ((tr handT).m.barrier (tr handT).hand.ctx (flagsBarriersAndPhases19.mod.toNat / 4) ((tr handT).m.barInst (flagsBarriersAndPhases19.mod.toNat / 4) (tr handT).cur)).act = flagsBarriersAndPhases19.mod.toNat % 4) ∧ (tr handT).m.allArrived (tr handT).cur (flagsBarriersAndPhases19.mod.toNat / 4) [(tr handT).cur] = true ∧ ((tr handT).m.barrier (tr handT).hand.ctx (flagsBarriersAndPhases19.mod.toNat / 4) ((tr handT).m.barInst (flagsBarriersAndPhases19.mod.toNat / 4) (tr handT).cur)).arrived = [] ∧ ((tr handT).m.barrier (tr handT).hand.ctx (flagsBarriersAndPhases19.mod.toNat / 4) ((tr handT).m.barInst (flagsBarriersAndPhases19.mod.toNat / 4) (tr handT).cur)).doneAt = none ∧ (flagsBarriersAndPhases19.mod.toNat / 4 = 3 → (tr handT).ctx.farGroup = true → ((tr handT).m.barrier (tr handT).hand.ctx (flagsBarriersAndPhases19.mod.toNat / 4) ((tr handT).m.barInst (flagsBarriersAndPhases19.mod.toNat / 4) (tr handT).cur)).peers = true) ∧ (tr handT).m.accessesOpen (tr handT).cur (tr handT).m.nextId = false ∧ (tr handT).m.stepsOpen (tr handT).cur = false ∧ (flagsBarriersAndPhases19.mod.toNat % 4 = 2 → KMap.get false (tr handT).ctx.phases (phaseKey (flagsBarriersAndPhases19.mod.toNat / 4) (tr handT).cur) = true → ∀ q ∈ (tr handT).m.members (tr handT).cur (flagsBarriersAndPhases19.mod.toNat / 4), (tr handT).m.remoteDone q = true) ∧ flagsBarriersAndPhases19.mod.toNat % 4 ≠ 0) ∧
    ((saf.m.ctx 1).agentOf (2 * 0 + 0) = some 1048576 ∧ saf.m.readAt 1 (1048576 + BitVec.ofNat 64 (1179648 + 4 * 9)) 4 false = Except.ok (leBytes 4 0) ∧ saf.m.writeAt 1 (1048576 + BitVec.ofNat 64 (1179648 + 4 * 9)) (leBytes 4 (leNat (leBytes 4 0) + BitVec.toNat (7 : W32))) false = Except.ok flagsBarriersAndPhases21) ∧
    ((Instr.bar flagsBarriersAndPhases19).check = none ∧ flagsBarriersAndPhases19.mod.toNat / 4 ≠ 0 ∧ (flagsBarriersAndPhases19.mod.toNat / 4 = 3 → sba.ctx.fgrp ≠ 0) ∧ (sba.m.barrier sba.hand.ctx (flagsBarriersAndPhases19.mod.toNat / 4) (sba.m.barInst (flagsBarriersAndPhases19.mod.toNat / 4) sba.cur)).arrived ≠ [] ∧ sba.cur ∉ (sba.m.barrier sba.hand.ctx (flagsBarriersAndPhases19.mod.toNat / 4) (sba.m.barInst (flagsBarriersAndPhases19.mod.toNat / 4) sba.cur)).arrived ∧ (sba.m.barrier sba.hand.ctx (flagsBarriersAndPhases19.mod.toNat / 4) (sba.m.barInst (flagsBarriersAndPhases19.mod.toNat / 4) sba.cur)).act ≠ flagsBarriersAndPhases19.mod.toNat % 4) := by
  refine ⟨?_, ?_, ?_, ?_, ?_, ?_, ?_, ?_, ?_, ?_, ?_, ?_, ?_⟩ <;> decide +kernel
theorem witness_FlagsBarriersAndPhases_parts : ∀ (p : ℕ), ((tr handT).m.part p).rpMode = 0 := fun q => by cases q <;> rfl

abbrev copyWordsAndEvents2 : AC := ⟨hcp, 0, 0, 0, false, false, 0, 0⟩
abbrev copyWordsAndEvents3 : State := scp [cpy 1]
abbrev copyWordsAndEvents4 : AC := ⟨hcp, 0, 0, 3, false, false, 0, 0⟩
abbrev copyWordsAndEvents6 : State := scp [cpy 0]
/-- The machine after the banks of a unit have served it; and one whose bank 1 has served in this cycle. -/
abbrev copyWordsAndEvents7 : Mach := (scp [cpy 1]).m.served 100 (.copyUnit 0 7) ((scp [cpy 1]).m.unitKeys (cpy 1))
def scpB : State := { scp [cpy 1] with m := { (scp [cpy 1]).m with bankT := 101, bankUse := [1] } }
abbrev copyWordsAndEvents9 : Copy := (match copyWordsAndEvents7.copyUnitAt 0 (cpy 1) with | .ok p => p.2 | _ => cpy 0)
abbrev copyWordsAndEvents10 : Mach := (match copyWordsAndEvents7.copyUnitAt 0 (cpy 1) with | .ok p => p.1 | _ => {})
abbrev copyWordsAndEvents11 : State := scp [cpy 4]
/-- The state of a CPY with an acquire that is not complete. -/
def scpA : State := { scpP with m := scpP.m.modHand 0 (fun h => { h with results := [{ id := 3, lands := [], acq := true }] }) }
theorem witness_CopyWordsAndEvents :
    (ReadyA scpP wcp.desc ∧ BitVec.toNat (scpP.hand.areg wcp.desc.toNat) % 128 = 0 ∧ (∀ x ∈ scpP.hand.results, x.acq = false) ∧ Copy.bad scpP.m scpP.hand.ctx (copyOf scpP.m { now := scpP.tb, r := scpP.cur, e := Engine.a : At } wcp) = false ∧ (List.filter (fun (c : Copy) => c.state != 3) scpP.hand.copies).length < 8 ∧ MayIssue scpP Engine.a (Instr.cpy wcp) wcp.hdr) ∧
    (ReadyA scpA wcp.desc ∧ BitVec.toNat (scpA.hand.areg wcp.desc.toNat) % 128 = 0 ∧ (∃ x ∈ scpA.hand.results, x.acq = true) ∧ MayIssue scpA Engine.a (Instr.cpy wcp) wcp.hdr) ∧
    (MayIssue scp Engine.a (Instr.cpyq copyWordsAndEvents2) copyWordsAndEvents2.hdr ∧ (List.filter (fun (c : Copy) => c.state != 3) scp.hand.copies).length ≤ copyWordsAndEvents2.imm.toNat % 8) ∧
    (MayIssue copyWordsAndEvents3 Engine.a (Instr.cpyq copyWordsAndEvents2) copyWordsAndEvents2.hdr ∧ copyWordsAndEvents2.imm.toNat % 8 < (List.filter (fun (c : Copy) => c.state != 3) copyWordsAndEvents3.hand.copies).length) ∧
    (MayIssue scp Engine.a (Instr.cpyk copyWordsAndEvents4) copyWordsAndEvents4.hdr ∧ scp.hand.copies = []) ∧
    ((∀ d ∈ (copyWordsAndEvents6.m.hand 0).copies, d.state = 1 → d.endT ≤ copyWordsAndEvents6.tb) ∧ List.find? (fun (c : Copy) => c.state == 0) (copyWordsAndEvents6.m.hand 0).copies = some (cpy 0) ∧ (cpy 0).startT ≤ copyWordsAndEvents6.tb ∧ (copyWordsAndEvents6.m.hand 0).held (cpy 0).id (cpy 0).id = false) ∧
    ((copyWordsAndEvents3.m.hand 0).copy? 7 = some (cpy 1) ∧ (cpy 1).state = 1 ∧ (cpy 1).stopT = none ∧ copyWordsAndEvents3.m.banksBusy copyWordsAndEvents3.tb (banksOf (copyWordsAndEvents3.m.unitKeys (cpy 1))) = false ∧ copyWordsAndEvents7.copyUnitAt 0 (cpy 1) = Except.ok (copyWordsAndEvents10, copyWordsAndEvents9)) ∧
    ((scpB.m.hand 0).copy? 7 = some (cpy 1) ∧ scpB.m.banksBusy scpB.tb (banksOf (scpB.m.unitKeys (cpy 1))) = true) ∧
    ((copyWordsAndEvents11.m.hand 0).copy? 7 = some (cpy 4) ∧ (cpy 4).state = 4 ∧ (cpy 4).maskLen = 0 ∧ (cpy 4).on 31 = false ∧ (cpy 4).stat = false) ∧
    ((∀ d ∈ (scpH.m.hand 0).copies, d.state = 1 → d.endT ≤ scpH.tb) ∧ List.find? (fun (c : Copy) => c.state == 0) (scpH.m.hand 0).copies = some (cpy 0) ∧ (cpy 0).startT ≤ scpH.tb ∧ (scpH.m.hand 0).held (cpy 0).id (cpy 0).id = true) := by
  refine ⟨?_, ?_, ?_, ?_, ?_, ?_, ?_, ?_, ?_, ?_⟩ <;> decide +kernel
theorem witness_CopyWordsAndEvents_parts :
    (∃ (k : ℕ), scpP.m.xlate scpP.cur (scpP.hand.areg wcp.desc.toNat) 128 false = Xl.key k) ∧
    (∃ (k : ℕ), scpA.m.xlate scpA.cur (scpA.hand.areg wcp.desc.toNat) 128 false = Xl.key k) ∧
    (scpP.m.phase scpP.cur = true ∨ ∀ d ∈ (copyOf scpP.m { now := scpP.tb, r := scpP.cur, e := Engine.a : At } wcp).reach (2 ^ 23), otherSlice scpP.cur d = false) :=
  ⟨hasKey (by decide +kernel), hasKey (by decide +kernel), Or.inl (by decide +kernel)⟩

abbrev copyUnits1 : List (ℕ × ℕ) := (match scp.m.span 1 0x2000 64 false true with | .ok l => l | _ => [])
abbrev copyUnits2 : Mach := (match scp.m.writeAt 1 0x3000 (scp.m.readSpan (match scp.m.span 1 0x2000 64 false true with | .ok l => l | _ => [])) true with | .ok l => l | _ => {})
abbrev copyUnits4 : Copy := {cpy 1 with desc := cpDesc (2^27) 1, idx := [1,0,0,0,0,0]}
abbrev copyUnits6 : Mach := (match scp.m.writeAt 1 0x3040 (List.replicate 64 0) true with | .ok l => l | _ => {})
theorem witness_CopyUnits :
    ((BitVec.toNat ((fun (base : W64) (stride : Level → ℤ) => base + BitVec.ofInt 64 (List.map (fun (p : Level × ℕ) => ↑p.2 * stride p.1) ((cpy 1).levels.zip (cpy 1).idx)).sum) (cpy 1).dst fun (x : Level) => x.dstr) % 4 = 0) ∧ (cpy 1).route = none ∧ (cpy 1).mw = 0 ∧ (∀ v ∈ (cpy 1).levels, v.limit = 0) ∧ (BitVec.toNat ((fun (base : W64) (stride : Level → ℤ) => base + BitVec.ofInt 64 (List.map (fun (p : Level × ℕ) => ↑p.2 * stride p.1) ((cpy 1).levels.zip (cpy 1).idx)).sum) (cpy 1).src fun (x : Level) => x.sstr) % 4 = 0) ∧ (scp.m.span (cpy 1).ctx ((fun (base : W64) (stride : Level → ℤ) => base + BitVec.ofInt 64 (List.map (fun (p : Level × ℕ) => ↑p.2 * stride p.1) ((cpy 1).levels.zip (cpy 1).idx)).sum) (cpy 1).src fun (x : Level) => x.sstr) (cpy 1).usz false (cpy 1).u = Except.ok copyUnits1) ∧ (scp.m.writeAt (cpy 1).ctx ((fun (base : W64) (stride : Level → ℤ) => base + BitVec.ofInt 64 (List.map (fun (p : Level × ℕ) => ↑p.2 * stride p.1) ((cpy 1).levels.zip (cpy 1).idx)).sum) (cpy 1).dst fun (x : Level) => x.dstr) (scp.m.readSpan copyUnits1) (cpy 1).u = Except.ok copyUnits2)) ∧
    ((BitVec.toNat ((fun (base : W64) (stride : Level → ℤ) => base + BitVec.ofInt 64 (List.map (fun (p : Level × ℕ) => ↑p.2 * stride p.1) (copyUnits4.levels.zip copyUnits4.idx)).sum) copyUnits4.dst fun (x : Level) => x.dstr) % 4 = 0) ∧ copyUnits4.route = none ∧ copyUnits4.mw = 2 ^ 27 ∧ ((copyUnits4.levels.zip copyUnits4.idx).any fun (p : Level × ℕ) => p.1.limit != 0 && decide (p.1.limit ≤ p.2)) = true ∧ (scp.m.writeAt copyUnits4.ctx ((fun (base : W64) (stride : Level → ℤ) => base + BitVec.ofInt 64 (List.map (fun (p : Level × ℕ) => ↑p.2 * stride p.1) (copyUnits4.levels.zip copyUnits4.idx)).sum) copyUnits4.dst fun (x : Level) => x.dstr) (List.map (fun (i : ℕ) => copyUnits4.desc.getD (32 + i % 4) 0) (List.range copyUnits4.usz)) copyUnits4.u = Except.ok copyUnits6)) ∧
    ((cpy 1).idx.length = 6 ∧ (∀ p ∈ (cpy 1).levels.zip (cpy 1).idx, p.2 < p.1.cnt)) := by
  refine ⟨?_, ?_, ?_⟩ <;> decide +kernel
theorem witness_CopyUnits_parts : ∀ (k : ℕ), scp.m.rowError k = none := noErrors rfl rfl

abbrev markChecksTheTimetable1 : State := stt [] 3
abbrev markChecksTheTimetable2 : N := ⟨z, 0, 2⟩
abbrev markChecksTheTimetable3 : State := stt [mv 0 3] 3
abbrev markChecksTheTimetable4 : N := ⟨z, 0, 7⟩
abbrev markChecksTheTimetable5 : State := stt [mv 0 3, mv 1 1] 3
abbrev markChecksTheTimetable7 : List Move := [mv 0 3]
abbrev markChecksTheTimetable8 : List Move := []
abbrev markChecksTheTimetable9 : N := ⟨z, 8, 7⟩
abbrev markChecksTheTimetable10 : N := ⟨z, 4, 0xFFFFFFFF⟩
abbrev markChecksTheTimetable11 : AC := ⟨hcp, 1, 0, 0, false, false, 0, 1⟩
theorem witness_MarkChecksTheTimetable :
    ((Instr.mark markChecksTheTimetable2).check = none ∧ markChecksTheTimetable1.hand.stage = 0 ∧ (markChecksTheTimetable1.m.part (markChecksTheTimetable1.m.partOf markChecksTheTimetable1.cur)).rpMode = 0 ∧ ((markChecksTheTimetable2.imm.toNat % 2 ^ 32 + if markChecksTheTimetable2.mod.getLsbD 2 = true then markChecksTheTimetable1.ctx.mkOf markChecksTheTimetable1.cur else 0) < 2 ^ 32) ∧ ((markChecksTheTimetable2.imm.toNat % 2 ^ 32 + if markChecksTheTimetable2.mod.getLsbD 2 = true then markChecksTheTimetable1.ctx.mkOf markChecksTheTimetable1.cur else 0) ≤ markChecksTheTimetable1.ctx.mkOf markChecksTheTimetable1.cur)) ∧
    ((Instr.mark markChecksTheTimetable4).check = none ∧ markChecksTheTimetable3.hand.stage = 0 ∧ (markChecksTheTimetable3.m.part (markChecksTheTimetable3.m.partOf markChecksTheTimetable3.cur)).rpMode = 0 ∧ ((markChecksTheTimetable4.imm.toNat % 2 ^ 32 + if markChecksTheTimetable4.mod.getLsbD 2 = true then markChecksTheTimetable3.ctx.mkOf markChecksTheTimetable3.cur else 0) < 2 ^ 32) ∧ (markChecksTheTimetable3.ctx.mkOf markChecksTheTimetable3.cur < markChecksTheTimetable4.imm.toNat % 2 ^ 32 + if markChecksTheTimetable4.mod.getLsbD 2 = true then markChecksTheTimetable3.ctx.mkOf markChecksTheTimetable3.cur else 0) ∧ (∀ v ∈ markChecksTheTimetable3.m.markSet markChecksTheTimetable3.cur (markChecksTheTimetable4.imm.toNat % 2 ^ 32 + if markChecksTheTimetable4.mod.getLsbD 2 = true then markChecksTheTimetable3.ctx.mkOf markChecksTheTimetable3.cur else 0) markChecksTheTimetable3.tb, v.state = 3)) ∧
    ((Instr.mark markChecksTheTimetable4).check = none ∧ markChecksTheTimetable5.hand.stage = 0 ∧ (markChecksTheTimetable5.m.part (markChecksTheTimetable5.m.partOf markChecksTheTimetable5.cur)).rpMode = 0 ∧ ((markChecksTheTimetable4.imm.toNat % 2 ^ 32 + if markChecksTheTimetable4.mod.getLsbD 2 = true then markChecksTheTimetable5.ctx.mkOf markChecksTheTimetable5.cur else 0) < 2 ^ 32) ∧ (markChecksTheTimetable5.ctx.mkOf markChecksTheTimetable5.cur < markChecksTheTimetable4.imm.toNat % 2 ^ 32 + if markChecksTheTimetable4.mod.getLsbD 2 = true then markChecksTheTimetable5.ctx.mkOf markChecksTheTimetable5.cur else 0) ∧ (!markChecksTheTimetable4.mod.getLsbD 3 && !BitVec.getLsbD (markChecksTheTimetable5.ctx.reg 265) 8) = true ∧ (markChecksTheTimetable5.m.markSet markChecksTheTimetable5.cur (markChecksTheTimetable4.imm.toNat % 2 ^ 32 + if markChecksTheTimetable4.mod.getLsbD 2 = true then markChecksTheTimetable5.ctx.mkOf markChecksTheTimetable5.cur else 0) markChecksTheTimetable5.tb = markChecksTheTimetable7 ++ mv 1 1 :: markChecksTheTimetable8) ∧ (∀ u ∈ markChecksTheTimetable7, u.state = 3) ∧ (mv 1 1).state ≠ 3) ∧
    ((Instr.mark markChecksTheTimetable9).check = none ∧ markChecksTheTimetable5.hand.stage = 0 ∧ (markChecksTheTimetable5.m.part (markChecksTheTimetable5.m.partOf markChecksTheTimetable5.cur)).rpMode = 0 ∧ ((markChecksTheTimetable9.imm.toNat % 2 ^ 32 + if markChecksTheTimetable9.mod.getLsbD 2 = true then markChecksTheTimetable5.ctx.mkOf markChecksTheTimetable5.cur else 0) < 2 ^ 32) ∧ (markChecksTheTimetable5.ctx.mkOf markChecksTheTimetable5.cur < markChecksTheTimetable9.imm.toNat % 2 ^ 32 + if markChecksTheTimetable9.mod.getLsbD 2 = true then markChecksTheTimetable5.ctx.mkOf markChecksTheTimetable5.cur else 0) ∧ (!markChecksTheTimetable9.mod.getLsbD 3 && !BitVec.getLsbD (markChecksTheTimetable5.ctx.reg 265) 8) = false ∧ (∀ v ∈ markChecksTheTimetable5.m.markSet markChecksTheTimetable5.cur (markChecksTheTimetable9.imm.toNat % 2 ^ 32 + if markChecksTheTimetable9.mod.getLsbD 2 = true then markChecksTheTimetable5.ctx.mkOf markChecksTheTimetable5.cur else 0) markChecksTheTimetable5.tb, v.state ≠ 4) ∧ (∃ v ∈ markChecksTheTimetable5.m.markSet markChecksTheTimetable5.cur (markChecksTheTimetable9.imm.toNat % 2 ^ 32 + if markChecksTheTimetable9.mod.getLsbD 2 = true then markChecksTheTimetable5.ctx.mkOf markChecksTheTimetable5.cur else 0) markChecksTheTimetable5.tb, v.state ≠ 3)) ∧
    ((Instr.mark markChecksTheTimetable10).check = none ∧ markChecksTheTimetable10.mod.getLsbD 2 = true ∧ 4294967295 < markChecksTheTimetable10.imm.toNat % 2 ^ 32 + markChecksTheTimetable1.ctx.mkOf markChecksTheTimetable1.cur) ∧
    (MayIssue scp Engine.a (Instr.ttadd markChecksTheTimetable11) markChecksTheTimetable11.hdr ∧ BitVec.toNat (scp.ctx.reg 265) % 32 = 0) := by
  refine ⟨?_, ?_, ?_, ?_, ?_, ?_⟩ <;> decide +kernel

abbrev tierWords1 : State := stt [mv 0 1]
abbrev tierWords2 : AC := ⟨hcp, 1, 0, 3, false, true, 1, 2⟩
abbrev tierWords4 : State := stt [mv 0 1] 0 [] {hand2 with accs := [{acc0 with op := .img 0, isLoad := true}]}
abbrev tierWords5 : AC := ⟨hcp, 0, 0, 3, true, false, 1, 0x800003⟩
abbrev tierWords6 : AC := ⟨hcp, 0, 0, 3, false, false, 0, 0x800003⟩
abbrev tierWords7 : AC := ⟨hcp, 1, 0, 3, false, true, 1, 0⟩
abbrev tierWords8 : AC := ⟨hcp, 1, 0, 3, true, false, 2, 0x00F⟩
abbrev tierWords9 : State := {stt [mv 0 1] with m := {(stt [mv 0 1]).m with clusters := [(0,{spt := [(3,{open_ := true, ctx := 1, opening := 5})]})]}}
abbrev tierWords11 : State := stt [mv 0 2, mv 1 1]
abbrev tierWords12 : AC := ⟨hcp, 0, 0, 3, false, false, 0, 0⟩
abbrev tierWords15 : AC := ⟨hcp, 1, 0, 3, true, false, 2, 0x818005⟩
theorem witness_TierWords :
    (tierWords1.ctx.ttCap ≠ 0 ∧ (ringStop tierWords1.m { now := tierWords1.tb, r := tierWords1.cur, e := Engine.a : At } (tierWords2.imm.toNat % 2 ^ 13) !tierWords2.imm.getLsbD 23) = none ∧ MayIssue tierWords1 Engine.a (Instr.ttadd tierWords2) tierWords2.hdr ∧ tierWords2.imm.getLsbD 23 = false ∧ placesUsed tierWords1 true < 16 ∧ (∀ a ∈ tierWords1.hand.accs, a.id < tierWords1.hand.alignAt → tierWords1.tb ≤ a.doneAt) ∧ ReadyA tierWords1 tierWords2.desc ∧ BitVec.toNat (tierWords1.hand.areg tierWords2.desc.toNat) % 32 = 0 ∧ tierWords1.m.spanStop tierWords1.cur (tierWords1.hand.areg tierWords2.desc.toNat) (32 * (tierWords2.imm.toNat % 2 ^ 13)) false = none) ∧
    (tierWords4.ctx.ttCap ≠ 0 ∧ (ringStop tierWords4.m { now := tierWords4.tb, r := tierWords4.cur, e := Engine.a : At } (tierWords5.imm.toNat % 2 ^ 13) !tierWords5.imm.getLsbD 23) = none ∧ MayIssue tierWords4 Engine.a (Instr.ttadd tierWords5) tierWords5.hdr ∧ tierWords5.imm.getLsbD 23 = true ∧ (fun (h : Hand) => (h.accs.any fun (a : Access) => a.op == AccOp.img 0) || h.held tierWords4.m.nextId (behind tierWords4 tierWords5) || decide (tierWords4.tb < h.accHold)) tierWords4.hand = true) ∧
    (tierWords1.ctx.ttCap ≠ 0 ∧ (ringStop tierWords1.m { now := tierWords1.tb, r := tierWords1.cur, e := Engine.a : At } (tierWords6.imm.toNat % 2 ^ 13) !tierWords6.imm.getLsbD 23) = none ∧ MayIssue tierWords1 Engine.a (Instr.ttadd tierWords6) tierWords6.hdr ∧ tierWords6.imm.getLsbD 23 = true ∧ (fun (h : Hand) => (h.accs.any fun (a : Access) => a.op == AccOp.img 0) || h.held tierWords1.m.nextId (behind tierWords1 tierWords6) || decide (tierWords1.tb < h.accHold)) tierWords1.hand = false ∧ tierWords6.rel = false ∧ tierWords1.hand.ttAdds = [] ∧ tierWords1.ctx.ttwr < 2 ^ 32 ∧ sub32 tierWords1.ctx.ttwr tierWords1.ctx.ttrd + tierWords6.imm.toNat % 2 ^ 13 ≤ 2 ^ tierWords1.ctx.ttCap ∧ 0 < tierWords6.imm.toNat % 2 ^ 13 ∧ tierWords6.tt.toNat ≠ 0) ∧
    (ReadyA tierWords1 tierWords7.desc ∧ BitVec.toNat (tierWords1.hand.areg tierWords7.desc.toNat) % 32 = 0 ∧ tierWords1.m.spanStop tierWords1.cur (tierWords1.hand.areg tierWords7.desc.toNat) 32 false = none ∧ tierWords1.m.requests tierWords1.cur < 8 ∧ placesUsed tierWords1 true < 16 ∧ (∀ a ∈ tierWords1.hand.accs, a.id < tierWords1.hand.alignAt → tierWords1.tb ≤ a.doneAt) ∧ MayIssue tierWords1 Engine.a (Instr.tierq tierWords7) tierWords7.hdr) ∧
    (ReadyA tierWords1 tierWords8.desc ∧ BitVec.toNat (tierWords1.hand.areg tierWords8.desc.toNat) % 32 = 0 ∧ tierWords1.m.spanStop tierWords1.cur (tierWords1.hand.areg tierWords8.desc.toNat) 32 false = none ∧ tierWords1.m.requests tierWords1.cur < 8 ∧ placesUsed tierWords1 true < 16 ∧ (∀ a ∈ tierWords1.hand.accs, a.id < tierWords1.hand.alignAt → tierWords1.tb ≤ a.doneAt) ∧ MayIssue tierWords1 Engine.a (Instr.wpf tierWords8) tierWords8.hdr) ∧
    MayIssue tierWords11 Engine.a (Instr.ttclr tierWords12) tierWords12.hdr ∧
    (ReadyA tierWords9 tierWords15.desc ∧ BitVec.toNat (tierWords9.hand.areg tierWords15.desc.toNat) % 32 = 0 ∧ tierWords9.m.spanStop tierWords9.cur (tierWords9.hand.areg tierWords15.desc.toNat) 32 false = none ∧ tierWords9.m.requests tierWords9.cur < 8 ∧ placesUsed tierWords9 true < 16 ∧ (∀ a ∈ tierWords9.hand.accs, a.id < tierWords9.hand.alignAt → tierWords9.tb ≤ a.doneAt) ∧ (KMap.get { : Spte } tierWords9.cluster.spt (tierWords15.imm.toNat / 2 ^ 15 % 2 ^ 8)).open_ = true ∧ (KMap.get { : Spte } tierWords9.cluster.spt (tierWords15.imm.toNat / 2 ^ 15 % 2 ^ 8)).ctx = tierWords9.hand.ctx ∧ MayIssue tierWords9 Engine.a (Instr.wpfSpec tierWords15) tierWords15.hdr) := by
  refine ⟨?_, ?_, ?_, ?_, ?_, ?_, ?_⟩ <;> decide +kernel

abbrev tierEvents1 : State := stt [{mv 0 0 with img := []}]
abbrev tierEvents2 : Move := {mv 0 0 with img := []}
abbrev tierEvents3 : List Byte := ((stt [{mv 0 0 with img := []}]).m.readAt 1 0x4000 32 true).toOption.getD []
abbrev tierEvents4 : State := stt [{mv 0 1 with startT := 100}]
abbrev tierEvents5 : Move := {mv 0 1 with startT := 100}
abbrev tierEvents8 : List (ℕ × ℕ) := ((stt []).m.span 1 0x3000 128 false true).toOption.getD []
/-- A running entry whose one local shard its engine has read. -/
abbrev tierEvents7 : Move := {mv 0 2 with endT := 99, runSlot := 0, slotSt := [1, 0, 0, 0], src := tierEvents8}
abbrev tierEvents6 : State := stt [tierEvents7]
abbrev tierEvents9 : Mach := ((tierEvents6.m.served 100 tierEvents7.endEvent (tierEvents8.map Prod.fst ++ tierEvents6.m.shardKeys 1 tierEvents7)).writeAll 1 (List.replicate 128 0) [0x2000]).toOption.getD {}
abbrev tierEvents11 : Move := {mv 0 2 0x80 with asked := true, askT := 50}
abbrev tierEvents10 : State := stt [tierEvents11]
abbrev tierEvents12 : List Byte := List.replicate 128 7
abbrev tierEvents13 : W64 := crc64 (List.replicate 128 7)
abbrev tierEvents15 : State := {stt [{mv 0 2 0x80 with asked := true, askT := 50}] with tb := 60000}
/-- An entry whose shard has come from a peer and waits for its banks, which have served in this cycle or not. -/
abbrev tierEvents16 : Move := {mv 0 2 0x80 with endT := 99, got := some tierEvents12}
def tierEvents17 (busy : Bool) : State :=
  let s := stt [tierEvents16]
  { s with m := { s.m with bankT := if busy then 101 else 0, bankUse := banksOf (s.m.shardKeys 1 tierEvents16) } }
abbrev tierEvents18 : Mach := (((tierEvents17 false).m.served 100 tierEvents16.endEvent ((tierEvents17 false).m.shardKeys 1 tierEvents16)).writeAll 1 tierEvents12 ((tierEvents17 false).m.shardDests 1 tierEvents16)).toOption.getD {}
theorem witness_TierEvents :
    (List.find? (fun (v : Move) => v.isRing && v.index == 0 && v.state == 0) (tierEvents1.m.ctx 1).moves = some tierEvents2 ∧ (∀ a ∈ (tierEvents1.m.hand tierEvents2.hand).accs, tierEvents2.after ≤ a.id) ∧ tierEvents2.askT = 0) ∧
    (List.find? (fun (v : Move) => v.isRing && v.index == 0 && v.state == 0) ((stt [{ tierEvents2 with askT := 100 }]).m.ctx 1).moves = some { tierEvents2 with askT := 100 } ∧ (stt [{ tierEvents2 with askT := 100 }]).m.readAt 1 (((stt [{ tierEvents2 with askT := 100 }]).m.ctx 1).ttSlot 0) 32 true = Except.ok tierEvents3) ∧
    ((tierEvents4.m.ctx 1).nextEntry = some tierEvents5 ∧ tierEvents5.index = 0 ∧ tierEvents5.startT ≤ tierEvents4.tb ∧ tierEvents4.tb ≤ tierEvents5.startT + 1 ∧ tierEvents4.m.startable 1 tierEvents5 = true) ∧
    (tierEvents6.m.findMove 20 = some (1, tierEvents7) ∧ tierEvents7.state = 2 ∧ tierEvents7.endT ≤ tierEvents6.tb ∧ tierEvents7.asked = false ∧ tierEvents7.reason = 0 ∧ tierEvents7.shard = 0 ∧ tierEvents7.slotNow = 0 ∧ tierEvents7.runSlot = 0 ∧ tierEvents7.slotSt = [1, 0, 0, 0] ∧ 0 < tierEvents7.len ∧ tierEvents7.len ≤ 2 ^ 20 ∧ tierEvents7.src = tierEvents8 ∧ tierEvents7.killed = false ∧ tierEvents7.got = none ∧ tierEvents6.m.banksBusy tierEvents6.tb (banksOf (tierEvents8.map Prod.fst ++ tierEvents6.m.shardKeys 1 tierEvents7)) = false ∧
      (tierEvents6.m.served tierEvents6.tb tierEvents7.endEvent (tierEvents8.map Prod.fst ++ tierEvents6.m.shardKeys 1 tierEvents7)).writeAll 1 (tierEvents6.m.readSpan tierEvents8) (tierEvents6.m.shardDests 1 tierEvents7) = Except.ok tierEvents9) ∧
    (tierEvents10.m.findMove 20 = some (1, tierEvents11) ∧ tierEvents11.state = 2 ∧ tierEvents11.asked = true ∧ tierEvents11.reason = 0 ∧ crc64 tierEvents12 ≠ 99 ∧ tierEvents10.tb < tierEvents11.askT + 52500) ∧
    (crc64 tierEvents12 = tierEvents13 ∧ tierEvents12.length = tierEvents11.shardLen) ∧
    (tierEvents15.m.findMove 20 = some (1, tierEvents11) ∧ tierEvents11.state = 2 ∧ tierEvents11.asked = true ∧ tierEvents11.reason = 0 ∧ tierEvents11.askT + 52500 ≤ tierEvents15.tb) ∧
    (∀ b ∈ [true, false], (tierEvents17 b).m.findMove 20 = some (1, tierEvents16) ∧ tierEvents16.state = 2 ∧ tierEvents16.endT ≤ (tierEvents17 b).tb ∧ tierEvents16.asked = false ∧ tierEvents16.reason = 0 ∧ tierEvents16.got = some tierEvents12 ∧
      (tierEvents17 b).m.banksBusy (tierEvents17 b).tb (banksOf ((tierEvents17 b).m.shardKeys 1 tierEvents16)) = b) ∧
    ((tierEvents17 false).m.served (tierEvents17 false).tb tierEvents16.endEvent ((tierEvents17 false).m.shardKeys 1 tierEvents16)).writeAll 1 tierEvents12 ((tierEvents17 false).m.shardDests 1 tierEvents16) = Except.ok tierEvents18 := by
  refine ⟨?_, ?_, ?_, ?_, ?_, ?_, ?_, ?_, ?_⟩ <;> decide +kernel
theorem witness_TierEvents_parts : ∀ (k : ℕ), tierEvents6.m.rowError k = none := noErrors rfl rfl

abbrev farAccesses1 : AF := ⟨hx, 7, 1, 0⟩
abbrev farAccesses4 : State := sfr 0x8000000000021000
abbrev farAccesses5 : ℕ := 0x8000000000000 + 3 * 2 ^ 45 + 0x31000
abbrev farAccesses6 : AF := ⟨hx, 9, 1, 0⟩
abbrev farAccesses7 : State := bank (accPeer true)
abbrev farAccesses9 : State := bank (accPeer false)
theorem witness_FarAccesses :
    (ReadyA (sfr 4096) farAccesses1.base ∧ BitVec.toNat ((sfr 4096).hand.areg farAccesses1.base.toNat) < 2 ^ 30 ∧ BitVec.toNat ((sfr 4096).hand.areg farAccesses1.base.toNat) % 128 = 0 ∧ Option.map Prod.fst (routeEnd (clusterOf (sfr 4096).cur) (routeDirs farAccesses1.route.toNat)) = some 0 ∧ (otherSlice (sfr 4096).cur (winAddr 0 (BitVec.toNat ((sfr 4096).hand.areg farAccesses1.base.toNat) % 2 ^ 23)) = false → (sfr 4096).m.inRange (sfr 4096).cur (winAddr 0 (BitVec.toNat ((sfr 4096).hand.areg farAccesses1.base.toNat) % 2 ^ 23)) 128 = false) ∧ Sources (sfr 4096) Engine.a [{ reg := farAccesses1.q.toNat : Opnd }] [] ∧ (otherSlice (sfr 4096).cur (winAddr 0 (BitVec.toNat ((sfr 4096).hand.areg farAccesses1.base.toNat) % 2 ^ 23)) = true → (sfr 4096).m.phase (sfr 4096).cur = true) ∧ placesUsed (sfr 4096) false < 16 ∧ (∀ a ∈ (sfr 4096).hand.accs, a.id < (sfr 4096).hand.alignAt → (sfr 4096).tb ≤ a.doneAt) ∧ MayIssue (sfr 4096) Engine.a (Instr.fwr farAccesses1) farAccesses1.hdr ∧ Sources (sfr 4096) Engine.a [] [farAccesses1.q.toNat] ∧ placesUsed (sfr 4096) true < 16 ∧ MayIssue (sfr 4096) Engine.a (Instr.frd farAccesses1) farAccesses1.hdr) ∧
    (ReadyA farAccesses4 farAccesses1.base ∧ BitVec.getLsbD (farAccesses4.hand.areg farAccesses1.base.toNat) 63 = true ∧ BitVec.toNat (farAccesses4.hand.areg farAccesses1.base.toNat) % 128 = 0 ∧ farAccesses1.route = 0 ∧ farAccesses4.m.physKind farAccesses5 = PhysKind.peer 3 ∧ farAccesses4.m.peerValid farAccesses4.hand.ctx 3 = true ∧ farAccesses4.m.farPage farAccesses4.cur (farAccesses4.hand.areg farAccesses1.base.toNat) true = Except.ok farAccesses5 ∧ Sources farAccesses4 Engine.a [{ reg := farAccesses1.q.toNat : Opnd }] [] ∧ farAccesses4.m.phase farAccesses4.cur = true ∧ placesUsed farAccesses4 false < 16 ∧ (∀ a ∈ farAccesses4.hand.accs, a.id < farAccesses4.hand.alignAt → farAccesses4.tb ≤ a.doneAt) ∧ MayIssue farAccesses4 Engine.a (Instr.fwr farAccesses1) farAccesses1.hdr) ∧
    (ReadyA farAccesses4 farAccesses6.base ∧ BitVec.getLsbD (farAccesses4.hand.areg farAccesses6.base.toNat) 63 = true ∧ BitVec.toNat (farAccesses4.hand.areg farAccesses6.base.toNat) % 128 = 0 ∧ farAccesses6.route = 0 ∧ farAccesses4.m.physKind farAccesses5 = PhysKind.peer 3 ∧ farAccesses4.m.peerValid farAccesses4.hand.ctx 3 = true ∧ farAccesses4.m.farPage farAccesses4.cur (farAccesses4.hand.areg farAccesses6.base.toNat) false = Except.ok farAccesses5 ∧ Sources farAccesses4 Engine.a [] [farAccesses6.q.toNat] ∧ placesUsed farAccesses4 true < 16 ∧ (∀ a ∈ farAccesses4.hand.accs, a.id < farAccesses4.hand.alignAt → farAccesses4.tb ≤ a.doneAt) ∧ MayIssue farAccesses4 Engine.a (Instr.frd farAccesses6) farAccesses6.hdr) ∧
    (farAccesses7.m.findAcc 5 = some (0, accPeer true) ∧ (accPeer true).sent = false ∧ farAccesses7.m.accessWaits farAccesses7.tb 0 (accPeer true) = false ∧ farAccesses7.m.banksBusy farAccesses7.tb (accPeer true).banks = false ∧ (accPeer true).keys = [farAccesses5] ∧ ((accPeer true).op = AccOp.peerR ∧ (accPeer true).isLoad = true ∨ (accPeer true).op = AccOp.peerW true ∧ (accPeer true).isLoad = false)) ∧
    (farAccesses9.m.findAcc 5 = some (0, accPeer false) ∧ (accPeer false).sent = false ∧ farAccesses9.m.accessWaits farAccesses9.tb 0 (accPeer false) = false ∧ farAccesses9.m.banksBusy farAccesses9.tb (accPeer false).banks = false ∧ (accPeer false).keys = [farAccesses5] ∧ ((accPeer false).op = AccOp.peerR ∧ (accPeer false).isLoad = true ∨ (accPeer false).op = AccOp.peerW true ∧ (accPeer false).isLoad = false) ∧ (accPeer false).isLoad = false) := by
  refine ⟨?_, ?_, ?_, ?_, ?_⟩ <;> decide +kernel
theorem witness_FarAccesses_parts :
    (∃ (k : ℕ), (sfr 4096).m.xlate (sfr 4096).cur (winAddr 0 (BitVec.toNat ((sfr 4096).hand.areg farAccesses1.base.toNat) % 2 ^ 23)) 128 true = Xl.key k) ∧
    (∃ (k : ℕ), (sfr 4096).m.xlate (sfr 4096).cur (winAddr 0 (BitVec.toNat ((sfr 4096).hand.areg farAccesses1.base.toNat) % 2 ^ 23)) 128 false = Xl.key k) :=
  ⟨hasKey (by decide +kernel), hasKey (by decide +kernel)⟩

abbrev collectives1 : State := scl [cl 7 (cblk 2 0 3) 1]
abbrev collectives2 : AC := ⟨hcp, 0, 0, 0, false, false, 0, 0⟩
abbrev collectives4 : State := scl [cl 7 (cblk 2 0 3)] [] [0]
abbrev collectives5 : Coll := cl 7 (cblk 2 0 3)
abbrev collectives6 : State := scl [cl 7 (cblk 2 2 3)] [] [0]
abbrev collectives7 : Coll := cl 7 (cblk 2 2 3)
abbrev collectives8 : State := scl [cl 7 (cblk 2 0 3)] [cl 8 (cblk 2 0 1)]
abbrev collectives9 : List (ℕ × ℕ) := [(0,7),(8,8)]
abbrev collectives10 : State := scl [cl 7 (cblk 2 0 3) 1 [(0,7),(8,8)]]
abbrev collectives11 : Coll := cl 7 (cblk 2 0 3) 1 [(0,7),(8,8)]
abbrev collectives12 : List Byte := List.replicate 128 5
/-- COLL behind an acquire; members that have agreed and wait for their banks, which bank 1 has served or not in this cycle. -/
def sclA : State := { (scl) with m := (scl).m.modHand 0 (fun h => { h with results := [{ id := 3, lands := [], acq := true }] }) }
abbrev collectives14 : Coll := cl 7 (cblk 2 0 3) 2 [(0,7),(8,8)]
def sclB (c : Coll) (keys : State → List Nat) (busy : Bool) : State :=
  let s := scl [c]
  { s with m := { s.m with bankT := if busy then 101 else 0, bankUse := banksOf (keys s) } }
abbrev collectives15 (busy : Bool) : State := sclB collectives14 (fun s => s.m.startKeys collectives14) busy
abbrev collectives16 (busy : Bool) : State := sclB collectives11 (fun s => (s.m.stepKeys collectives11 1).1 ++ (s.m.stepKeys collectives11 1).2) busy
abbrev collectives13 : Mach := ((scl [cl 7 (cblk 2 0 3) 1 [(0,7),(8,8)]]).m.writeAt 1 0x3080 (List.replicate 128 5) true).toOption.getD {}
theorem witness_Collectives :
    (ReadyA scl wcp.desc ∧ BitVec.toNat (scl.hand.areg wcp.desc.toNat) % 128 = 0 ∧ (∀ x ∈ scl.hand.results, x.acq = false) ∧ scl.m.collBad scl.cur (collOf scl.m { now := scl.tb, r := scl.cur, e := Engine.a : At } wcp) = false ∧ scl.m.spanStop scl.cur (collOf scl.m { now := scl.tb, r := scl.cur, e := Engine.a : At } wcp).src (collOf scl.m { now := scl.tb, r := scl.cur, e := Engine.a : At } wcp).bytes false = none ∧ scl.m.spanStop scl.cur (collOf scl.m { now := scl.tb, r := scl.cur, e := Engine.a : At } wcp).dst ((collOf scl.m { now := scl.tb, r := scl.cur, e := Engine.a : At } wcp).dstLen (scl.m.collSize scl.cur (collOf scl.m { now := scl.tb, r := scl.cur, e := Engine.a : At } wcp))) true = none ∧ (collOf scl.m { now := scl.tb, r := scl.cur, e := Engine.a : At } wcp).f 48 8 = 0 ∧ (collOf scl.m { now := scl.tb, r := scl.cur, e := Engine.a : At } wcp).op ≠ 4 ∧ scl.m.phase scl.cur = true ∧ (scl.m.collsOf scl.cur).length < 4 ∧ scl.cluster.ranges.length ≤ 14 ∧ MayIssue scl Engine.a (Instr.coll wcp) wcp.hdr) ∧
    (MayIssue scl Engine.a (Instr.collq collectives2) collectives2.hdr ∧ (scl.m.collsOf scl.cur).length ≤ collectives2.imm.toNat % 4) ∧
    (MayIssue collectives1 Engine.a (Instr.collq collectives2) collectives2.hdr ∧ collectives2.imm.toNat % 4 < (collectives1.m.collsOf collectives1.cur).length) ∧
    (collectives4.m.findColl 0 7 = some collectives5 ∧ collectives5.state = 0 ∧ collectives4.m.collHeld 0 collectives5 = false ∧ collectives5.grp ≠ 2 ∧ List.map (collectives4.m.exchanging 0 collectives5) (collectives4.m.meeting 0 collectives5) = List.map some [(0, 7)] ∧ (∀ q ∈ [(0, 7)], (collectives4.m.findColl q.1 q.2).map Coll.agreed = some collectives5.agreed)) ∧
    (collectives6.m.findColl 0 7 = some collectives7 ∧ collectives7.state = 0 ∧ collectives6.m.collHeld 0 collectives7 = false ∧ collectives7.grp = 2) ∧
    (collectives8.m.findColl 0 7 = some collectives5 ∧ collectives5.state = 0 ∧ collectives8.m.collHeld 0 collectives5 = false ∧ collectives5.grp ≠ 2 ∧ List.map (collectives8.m.exchanging 0 collectives5) (collectives8.m.meeting 0 collectives5) = List.map some collectives9 ∧ (∃ q ∈ collectives9, ∃ (d : Coll), collectives8.m.findColl q.1 q.2 = some d ∧ d.agreed ≠ collectives5.agreed)) ∧
    (collectives10.m.findColl 0 7 = some collectives11 ∧ collectives11.state = 1 ∧ collectives11.op = 2 ∧ collectives11.algo collectives11.members.length = 3 ∧ collectives11.opt 0 = false ∧ collectives11.opt 1 = false ∧ collectives11.done.contains 1 = false ∧ 1 / collectives11.chunks collectives11.members.length ∈ collectives11.rounds collectives11.members.length collectives11.rank ∧ collectives12 ≠ [] ∧ collectives12.length = min collectives11.bytes ((1 % collectives11.chunks collectives11.members.length + 1) * collectives11.f 36 4) - min (1 % collectives11.chunks collectives11.members.length * collectives11.f 36 4) collectives11.bytes ∧ collectives10.m.writeAt collectives11.ctx (collectives11.dst + BitVec.ofNat 64 (1 / collectives11.chunks collectives11.members.length * collectives11.bytes + min (1 % collectives11.chunks collectives11.members.length * collectives11.f 36 4) collectives11.bytes)) collectives12 collectives11.u = Except.ok collectives13) ∧
    (collectives10.m.findColl 0 7 = some collectives11 ∧ collectives11.state = 1 ∧ collectives11.f 48 8 = 0) ∧
    (sclH.m.findColl 0 7 = some collectives5 ∧ collectives5.state = 0 ∧ sclH.m.collHeld 0 collectives5 = true) ∧
    (ReadyA sclA wcp.desc ∧ BitVec.toNat (sclA.hand.areg wcp.desc.toNat) % 128 = 0 ∧ (∃ x ∈ sclA.hand.results, x.acq = true) ∧ MayIssue sclA Engine.a (Instr.coll wcp) wcp.hdr) ∧
    ((scl [collectives5]).m.findColl 0 7 = some collectives5 ∧ (scl [collectives5]).m.collHeld 0 collectives5 = false ∧ none ∈ List.map ((scl [collectives5]).m.exchanging 0 collectives5) ((scl [collectives5]).m.meeting 0 collectives5)) ∧
    ((scl [cl 7 (cblk 2 2 3) 1]).m.findColl 0 7 = some (cl 7 (cblk 2 2 3) 1) ∧ (cl 7 (cblk 2 2 3) 1).grp = 2) ∧
    (∀ b ∈ [true, false], (collectives15 b).m.findColl 0 7 = some collectives14 ∧ collectives14.state = 2 ∧ collectives14.grp ≠ 2 ∧ (collectives15 b).m.banksBusy (collectives15 b).tb (banksOf ((collectives15 b).m.startKeys collectives14)) = b) ∧
    (∀ b ∈ [true, false], (collectives16 b).m.findColl 0 7 = some collectives11 ∧ (collectives16 b).m.banksBusy (collectives16 b).tb (banksOf (((collectives16 b).m.stepKeys collectives11 1).1 ++ ((collectives16 b).m.stepKeys collectives11 1).2)) = b) ∧
    ((scl [cl 7 (cblk 4 0 3) 1]).m.findColl 0 7 = some (cl 7 (cblk 4 0 3) 1) ∧ (cl 7 (cblk 4 0 3) 1).op = 4 ∧ (cl 7 (cblk 4 0 3) 1).f 48 8 = 0) := by
  refine ⟨?_, ?_, ?_, ?_, ?_, ?_, ?_, ?_, ?_, ?_, ?_, ?_, ?_, ?_, ?_⟩ <;> decide +kernel
theorem witness_Collectives_parts :
    (∃ (k : ℕ), scl.m.xlate scl.cur (scl.hand.areg wcp.desc.toNat) 128 false = Xl.key k) ∧
    (∃ (k : ℕ), sclA.m.xlate sclA.cur (sclA.hand.areg wcp.desc.toNat) 128 false = Xl.key k) ∧
    (∀ (t : ℕ), (collectives10.m.ctx collectives11.ctx).agentOf t = none) ∧
    (∀ (q : ℕ), (collectives10.m.part q).rpMode = 0) :=
  ⟨hasKey (by decide +kernel), hasKey (by decide +kernel), fun _ => rfl, fun q => by cases q <;> rfl⟩

abbrev rowsAndPeers1 : State := spk []
abbrev rowsAndPeers2 : List (ℕ × ℕ) := ((spk []).m.span 1 0x2000 128 true true).toOption.getD []
abbrev rowsAndPeers3 : RemoteRow := row 0x8000000000021000
abbrev rowsAndPeers5 : FaultRec := (match (spk []).m.span 1 0x8000000000021000 128 true true with | .error f => f | _ => ⟨0,0,[]⟩)
abbrev rowsAndPeers6 : State := spk [] 0
abbrev rowsAndPeers7 : State := spk [pk 0x2000]
abbrev rowsAndPeers8 : List Byte := List.replicate 64 0
abbrev rowsAndPeers9 : FaultRec := (match (spk []).m.readAt 1 0x8000000000021000 64 true with | .error f => f | _ => ⟨0,0,[]⟩)
abbrev rowsAndPeers10 : State := sop (pop false 0)
abbrev rowsAndPeers12 : State := sop (pop true 0)
abbrev rowsAndPeers14 : Access := {acc true .peerR [0] with res := 9, land := 4}
abbrev rowsAndPeers15 : State := sop (pop true 7) [cl 7 (cblk 2 2 1) 1]
abbrev rowsAndPeers16 : State := sop (pop false 7) [{cl 7 (cblk 2 2 1) 1 with sends := 1}]
abbrev rowsAndPeers17 : Coll := {cl 7 (cblk 2 2 1) 1 with sends := 1}
abbrev rowsAndPeers18 : State := {sop (pop false 7) [{cl 7 (cblk 2 2 1) 1 with sends := 1}] with tb := 60000}
abbrev rowsAndPeers19 : State := {sop {pop false 7 with tries := 3} [{cl 7 (cblk 2 2 1) 1 with sends := 1}] with tb := 60000}
abbrev rowsAndPeers20 : PeerOp := {pop false 7 with tries := 3}
/-- The banks of a row's bytes taken in this cycle or not; a row that waits for them as number 7; a row of the stream of a parked one. -/
def rowsAndPeers21 (busy : Bool) : State :=
  { spk [] with m := { (spk []).m with bankT := if busy then 101 else 0, bankUse := banksOf (rowsAndPeers2.map (·.1)), rowsIn := [(7, row 8192)] } }
theorem witness_RowsAndPeers_banks :
    (∀ b ∈ [true, false], (rowsAndPeers21 b).m.rowsIn.find? (fun q => q.1 == 7) = some (7, row 8192) ∧
      (∀ q ∈ ((rowsAndPeers21 b).m.part ((rowsAndPeers21 b).m.ctx 1).part).parked, (rowsAndPeers21 b).m.sameStream q (row 8192) = false) ∧
      (rowsAndPeers21 b).m.span 1 8192 128 true true = Except.ok rowsAndPeers2 ∧
      (rowsAndPeers21 b).m.banksBusy (rowsAndPeers21 b).tb (banksOf (rowsAndPeers2.map (·.1))) = b) ∧
    ((row 4096).kind = 1 ∧ (∃ q ∈ (rowsAndPeers7.m.part (rowsAndPeers7.m.ctx (row 4096).ctx).part).parked, rowsAndPeers7.m.sameStream q (row 4096) = true) ∧
      (rowsAndPeers7.m.part (rowsAndPeers7.m.ctx (row 4096).ctx).part).freeSlot = some 0) := by
  refine ⟨?_, ?_⟩ <;> decide +kernel
theorem witness_RowsAndPeers :
    ((row 8192).kind = 1 ∧ (∀ q ∈ (rowsAndPeers1.m.part (rowsAndPeers1.m.ctx (row 8192).ctx).part).parked, rowsAndPeers1.m.sameStream q (row 8192) = false) ∧ rowsAndPeers1.m.span (row 8192).ctx (row 8192).addr (row 8192).data.length true true = Except.ok rowsAndPeers2) ∧
    (rowsAndPeers3.kind = 1 ∧ (∀ q ∈ (rowsAndPeers1.m.part (rowsAndPeers1.m.ctx rowsAndPeers3.ctx).part).parked, rowsAndPeers1.m.sameStream q rowsAndPeers3 = false) ∧ rowsAndPeers1.m.span rowsAndPeers3.ctx rowsAndPeers3.addr rowsAndPeers3.data.length true true = Except.error rowsAndPeers5 ∧ (rowsAndPeers1.m.part (rowsAndPeers1.m.ctx rowsAndPeers3.ctx).part).freeSlot = some 0) ∧
    (rowsAndPeers3.kind = 1 ∧ (∀ q ∈ (rowsAndPeers6.m.part (rowsAndPeers6.m.ctx rowsAndPeers3.ctx).part).parked, rowsAndPeers6.m.sameStream q rowsAndPeers3 = false) ∧ rowsAndPeers6.m.span rowsAndPeers3.ctx rowsAndPeers3.addr rowsAndPeers3.data.length true true = Except.error rowsAndPeers5 ∧ (rowsAndPeers6.m.part (rowsAndPeers6.m.ctx rowsAndPeers3.ctx).part).freeSlot = none) ∧
    (1 ≤ (rowsAndPeers7.m.hand 0).ring ∧ (rowsAndPeers7.m.part (rowsAndPeers7.m.ctx (rowsAndPeers7.m.hand 0).ctx).part).parked = [pk 8192] ∧ (pk 8192).slot = BitVec.toNat (2 : W64) % 2 ^ 10 ∧ (pk 8192).behind = false ∧ (pk 8192).row.kind = 1 ∧ rowsAndPeers7.m.span (pk 8192).row.ctx (pk 8192).row.addr (pk 8192).row.data.length true true = Except.ok rowsAndPeers2) ∧
    rowsAndPeers1.m.readAt 1 8192 64 true = Except.ok rowsAndPeers8 ∧
    rowsAndPeers1.m.readAt 1 9223372036854910976 64 true = Except.error rowsAndPeers9 ∧
    (List.find? (fun (p : PeerOp) => p.id == 6) rowsAndPeers10.m.dev.peerOps = some (pop false 0) ∧ rowsAndPeers10.m.peerBehind (pop false 0) = false ∧ (pop false 0).coll = 0 ∧ (pop false 0).isRead = false) ∧
    (List.find? (fun (p : PeerOp) => p.id == 6) rowsAndPeers12.m.dev.peerOps = some (pop true 0) ∧ rowsAndPeers12.m.peerBehind (pop true 0) = false ∧ (pop true 0).coll = 0 ∧ (pop true 0).isRead = true ∧ List.find? (fun (a : Access) => a.id == (pop true 0).acc) (rowsAndPeers12.m.hand (pop true 0).hand).accs = some rowsAndPeers14) ∧
    (List.find? (fun (p : PeerOp) => p.id == 6) rowsAndPeers15.m.dev.peerOps = some (pop true 7) ∧ rowsAndPeers15.m.peerBehind (pop true 7) = false ∧ (pop true 7).coll ≠ 0 ∧ (pop true 7).isRead = true) ∧
    (List.find? (fun (p : PeerOp) => p.id == 6) rowsAndPeers16.m.dev.peerOps = some (pop false 7) ∧ rowsAndPeers16.m.peerBehind (pop false 7) = false ∧ (pop false 7).coll ≠ 0 ∧ (pop false 7).isRead = false ∧ rowsAndPeers16.m.findColl (pop false 7).hand (pop false 7).coll = some rowsAndPeers17) ∧
    (rowsAndPeers16.m.dev.peerOps = [pop false 7] ∧ rowsAndPeers16.tb < (pop false 7).sentT + 52500) ∧
    (rowsAndPeers18.m.dev.peerOps = [pop false 7] ∧ (pop false 7).sentT + 52500 ≤ rowsAndPeers18.tb ∧ (pop false 7).tries < 3) ∧
    (rowsAndPeers19.m.dev.peerOps = [rowsAndPeers20] ∧ rowsAndPeers20.sentT + 52500 ≤ rowsAndPeers19.tb ∧ 3 ≤ rowsAndPeers20.tries) := by
  refine ⟨?_, ?_, ?_, ?_, ?_, ?_, ?_, ?_, ?_, ?_, ?_, ?_, ?_⟩ <;> decide +kernel
theorem witness_RowsAndPeers_parts :
    (∀ (q : ℕ), (rowsAndPeers1.m.part q).rpMode = 0) ∧
    (∀ (q : ℕ), (rowsAndPeers6.m.part q).rpMode = 0) ∧ (∀ (b : Bool) (q : ℕ), ((rowsAndPeers21 b).m.part q).rpMode = 0) ∧
    (∀ (q : ℕ), (rowsAndPeers7.m.part q).rpMode = 0) :=
  ⟨fun q => by cases q <;> rfl, fun q => by cases q <;> rfl, fun _ q => by cases q <;> rfl, fun q => by cases q <;> rfl⟩

abbrev controlRegisters1 : K := ⟨ha, 3, 0x0A0, 0⟩
abbrev controlRegisters3 : K := ⟨ha, 3, 0x0B0, 0⟩
abbrev controlRegisters7 : K := ⟨ha, 1, 0x021, 0⟩
abbrev controlRegisters8 : K := ⟨ha, 1, 0x080, 0⟩
abbrev controlRegisters9 : K := ⟨ha, 1, 0x100, 0⟩
abbrev controlRegisters13 : K := ⟨ha, 1, 0x030, 0x008⟩
abbrev controlRegisters15 : K := ⟨ha, 1, 0x024, 0⟩
abbrev controlRegisters16 : K := ⟨ha, 1, 0x085, 0x20000F⟩
/-- A partition that records (mode 1), and one that replays the record of that read of TB (mode 2). -/
def sxPart (mode rd wr : Nat) : KMap Part := [(0, { cr := [(0x0B3, BitVec.ofNat 64 mode), (0x0B4, 0x40004)], rpr := rd, rpw := wr })]
def sxRec : State := { sx with m := { sx.m with parts := sxPart 1 0 0 } }
def sxRep : State := { sx with m := { (sxRec.m.logInput 90 0 6 (some 0) 77 0) with parts := sxPart 2 0 1 } }
theorem witness_ControlRegisters_time :
    (MayIssue sxRec Engine.x (Instr.mfc controlRegisters3) controlRegisters3.hdr ∧
      (((sxRec.issued .x controlRegisters3.hdr).part ((sxRec.issued .x controlRegisters3.hdr).partOf sxRec.cur))).rpMode = 1 ∧ sxRec.m.logStop sxRec.cur = none) ∧
    (MayIssue sxRep Engine.x (Instr.mfc controlRegisters3) controlRegisters3.hdr ∧
      (((sxRep.issued .x controlRegisters3.hdr).part ((sxRep.issued .x controlRegisters3.hdr).partOf sxRep.cur))).rpMode = 2 ∧ sxRep.m.logStop sxRep.cur = none ∧
      ((((sxRep.issued .x controlRegisters3.hdr).cregCheck 0 0x0B0).replayNext 0 6 (some 0)).map (fun (x : Nat × LogRec) => (x.1, x.2.a)) = some (0, 77))) ∧
    (MayIssue sx Engine.x (Instr.mfc ⟨ha, 3, 0x085, 0⟩) ha ∧ MayIssue sx Engine.x (Instr.mfc ⟨ha, 3, 0x024, 0⟩) ha ∧ MayIssue sx Engine.x (Instr.mfc ⟨ha, 3, 0x031, 0⟩) ha) := by
  refine ⟨?_, ?_, ?_⟩ <;> decide +kernel
theorem witness_ControlRegisters :
    (MayIssue sx Engine.x (Instr.mfc controlRegisters1) controlRegisters1.hdr ∧ controlRegisters1.creg.toNat ≠ 176 ∧ (controlRegisters1.creg.toNat = 49 → ∀ x ∈ sx.hand.results, x.xres = false)) ∧
    (MayIssue sx Engine.x (Instr.mfc controlRegisters3) controlRegisters3.hdr ∧ controlRegisters3.creg.toNat = 176 ∧ (sx.m.part (sx.m.partOf sx.cur)).rpMode = 0) ∧
    sx.m.rowError (crKey (sx.m.who 0).r 160) ≠ some true ∧
    (ReadyS sx controlRegisters7.s.toNat ∧ cregRing controlRegisters7.creg.toNat ≤ sx.hand.ring ∧ sx.m.cregStop (sx.m.who sx.cur) controlRegisters7.creg.toNat (sx.hand.sreg controlRegisters7.s.toNat) = none ∧ MayIssue sx Engine.x (Instr.mtc controlRegisters7) controlRegisters7.hdr ∧ (¬(128 ≤ controlRegisters7.creg.toNat ∧ controlRegisters7.creg.toNat ≤ 159))) ∧
    (ReadyS sx controlRegisters8.s.toNat ∧ cregRing controlRegisters8.creg.toNat ≤ sx.hand.ring ∧ sx.m.cregStop (sx.m.who sx.cur) controlRegisters8.creg.toNat (sx.hand.sreg controlRegisters8.s.toNat) = none ∧ MayIssue sx Engine.x (Instr.mtc controlRegisters8) controlRegisters8.hdr ∧ 128 ≤ controlRegisters8.creg.toNat ∧ controlRegisters8.creg.toNat ≤ 159) ∧
    (((Instr.mtc ⟨ha, 1, 0x100, 0⟩) = Instr.mtc controlRegisters9 ∨ (Instr.mtc ⟨ha, 1, 0x100, 0⟩) = Instr.tsr controlRegisters9) ∧ (Instr.mtc ⟨ha, 1, 0x100, 0⟩).check = none ∧ sx.hand.ring < cregRing controlRegisters9.creg.toNat) ∧
    (controlRegisters13.creg.toNat ≠ 176 ∧ (controlRegisters13.creg.toNat = 49 → ∀ x ∈ sx.hand.results, x.xres = false) ∧ cregRing controlRegisters13.creg.toNat ≤ sx.hand.ring ∧ MayIssue sx Engine.x (Instr.tsr controlRegisters13) controlRegisters13.hdr ∧ tsrWrites controlRegisters13.creg.toNat = true ∧ (sx.m.cregStop (sx.m.who sx.cur) controlRegisters13.creg.toNat (if controlRegisters13.imm.getLsbD 21 = true then (sx.m.cregGet sx.tb (sx.m.who sx.cur) controlRegisters13.creg.toNat &&& ~~~BitVec.ofNat 64 (controlRegisters13.imm.toNat % 2 ^ 21) &&& ~~~if controlRegisters13.creg.toNat = 49 then 63 else if controlRegisters13.creg.toNat = 183 then 1 else 0) ||| BitVec.ofNat 64 (controlRegisters13.imm.toNat % 2 ^ 21) &&& if controlRegisters13.creg.toNat = 49 then 63 else if controlRegisters13.creg.toNat = 183 then 1 else 0 else (sx.m.cregGet sx.tb (sx.m.who sx.cur) controlRegisters13.creg.toNat ||| BitVec.ofNat 64 (controlRegisters13.imm.toNat % 2 ^ 21)) &&& ~~~if controlRegisters13.creg.toNat = 49 then 63 else if controlRegisters13.creg.toNat = 183 then 1 else 0) = none) ∧ (¬(128 ≤ controlRegisters13.creg.toNat ∧ controlRegisters13.creg.toNat ≤ 159))) ∧
    (controlRegisters15.creg.toNat ≠ 176 ∧ (controlRegisters15.creg.toNat = 49 → ∀ x ∈ sx.hand.results, x.xres = false) ∧ cregRing controlRegisters15.creg.toNat ≤ sx.hand.ring ∧ MayIssue sx Engine.x (Instr.tsr controlRegisters15) controlRegisters15.hdr ∧ tsrWrites controlRegisters15.creg.toNat = false) ∧
    (controlRegisters16.creg.toNat ≠ 176 ∧ (controlRegisters16.creg.toNat = 49 → ∀ x ∈ sx.hand.results, x.xres = false) ∧ cregRing controlRegisters16.creg.toNat ≤ sx.hand.ring ∧ MayIssue sx Engine.x (Instr.tsr controlRegisters16) controlRegisters16.hdr ∧ 128 ≤ controlRegisters16.creg.toNat ∧ controlRegisters16.creg.toNat ≤ 159) ∧
    (sx.m.hand (sx.m.who 0).r).ring ≤ 3 := by
  refine ⟨?_, ?_, ?_, ?_, ?_, ?_, ?_, ?_, ?_, ?_⟩ <;> decide +kernel
theorem witness_ControlRegisters_parts :
    (∀ x ∈ sx.hand.results, ∀ (v : W64), Land.creg controlRegisters1.creg.toNat v ∉ x.lands) ∧
    (∀ x ∈ sx.hand.results, ∀ (v : W64), Land.creg controlRegisters3.creg.toNat v ∉ x.lands) ∧
    (∀ x ∈ sx.hand.results, ∀ (v : W64), Land.creg controlRegisters13.creg.toNat v ∉ x.lands) ∧
    (∀ x ∈ sx.hand.results, ∀ (v : W64), Land.creg controlRegisters15.creg.toNat v ∉ x.lands) ∧
    (∀ x ∈ sx.hand.results, ∀ (v : W64), Land.creg controlRegisters16.creg.toNat v ∉ x.lands) :=
  ⟨by decide +kernel, by decide +kernel, by decide +kernel, by decide +kernel, by decide +kernel⟩


theorem witness_SingleRegisterEvents :
    cregDefined 5 = true ∧
    (sx.m.dctl (clusterOf (sx.m.who 0).r) (sx.m.who 0).k).drnd < 2 ^ 32 - 1 ∧
    clusterOf (sx.m.who 0).r < 72 ∧
    cregDefined 3 = false := by
  refine ⟨?_, ?_, ?_, ?_⟩ <;> decide +kernel

abbrev exitAndSwitchPoint1 : Z := ⟨z, 0⟩
abbrev exitAndSwitchPoint2 : State := {st {hand2 with results := [{id := 3, lands := []}]} .x with eng := .x}
abbrev exitAndSwitchPoint3 : State := tr {hand2 with cr := []}
abbrev exitAndSwitchPoint4 : N := ⟨z, 0, 9⟩
abbrev exitAndSwitchPoint5 : State := tr {hand2 with stage := 1, stageT := 101}
abbrev exitAndSwitchPoint6 : State := tr {hand2 with stage := 1, stageT := 100, stageV := 0x40}
/-- EXIT with pairs in the SACC, asked to be evicted or not yet; PSW whose entry lies in a page to be walked, and after the walk. -/
def exitAndSwitchPoint7 (asked : Bool) : State :=
  { sex with m := { sex.m with clusters := [(0, { sacc := [⟨2 ^ 52, false, 1, [0], 1⟩], saccFl := if asked then [⟨0, 1, 9, false, []⟩] else [] })] } }
def pswAt (base : W64) (h : Hand := hand2) (tc : List TcEntry := []) : State :=
  { tr { h with cr := [] } with m := { (tr { h with cr := [] }).m with clusters := [(0, { tc := tc })], ctxs := [(1, { live := true, cr := [(0x0A1, base), (0x100, 1), (0x110, 0x1000000000)] })] } }
abbrev exitAndSwitchPoint8 : State := pswAt 0x8000000000020000
abbrev exitAndSwitchPoint9 : State := pswAt 0x8000000000020000 { hand2 with stage := 2, stageV := 3 } [⟨1, 2, 16, 0x30000, true, true⟩]
theorem witness_ExitAndSwitchPoint_waits :
    (∀ b ∈ [true, false], (exitAndSwitchPoint7 b).m.threadOpen (exitAndSwitchPoint7 b).cur = false ∧ (exitAndSwitchPoint7 b).m.saccOpen (exitAndSwitchPoint7 b).cur = true ∧
      ((∃ f ∈ (exitAndSwitchPoint7 b).cluster.saccFl, f.hand = (exitAndSwitchPoint7 b).cur) ↔ b = true)) ∧
    (exitAndSwitchPoint8.hand.stage = 0 ∧ (exitAndSwitchPoint8.m.part (exitAndSwitchPoint8.m.partOf exitAndSwitchPoint8.cur)).rpMode = 0 ∧
      exitAndSwitchPoint8.m.xlStop exitAndSwitchPoint8.cur (0x8000000000020000 + BitVec.ofNat 64 (32 * 9)) 4 false = some (.walk (0x8000000000020000 + BitVec.ofNat 64 (32 * 9)))) ∧
    (exitAndSwitchPoint9.hand.stage = 2 ∧ (exitAndSwitchPoint9.m.part (exitAndSwitchPoint9.m.partOf exitAndSwitchPoint9.cur)).rpMode = 0) := by
  refine ⟨?_, ?_, ?_⟩ <;> decide +kernel
theorem witness_ExitAndSwitchPoint_walked :
    (∃ (k : ℕ), exitAndSwitchPoint9.m.xlate exitAndSwitchPoint9.cur (exitAndSwitchPoint9.ctx.reg 161 + BitVec.ofNat 64 (32 * (exitAndSwitchPoint4.imm.toNat % 2 ^ 8) + 4 * exitAndSwitchPoint9.hand.stageV.toNat)) 4 false = Xl.key k) ∧
    (∀ (k : ℕ), exitAndSwitchPoint9.m.rowError k = none) ∧ (∀ (k : ℕ), exitAndSwitchPoint8.m.rowError k = none) :=
  ⟨hasKey (by decide +kernel), noErrors rfl rfl, noErrors rfl rfl⟩
theorem witness_ExitAndSwitchPoint :
    ((Instr.exit exitAndSwitchPoint1).check = none ∧ sex.m.threadOpen sex.cur = false ∧ sex.m.saccOpen sex.cur = false ∧ sex.m.writesOpen sex.cur sex.m.nextId = false ∧ sex.m.launch? sex.hand.launch = some lex) ∧
    ((Instr.exit exitAndSwitchPoint1).check = none ∧ exitAndSwitchPoint2.m.threadOpen exitAndSwitchPoint2.cur = true) ∧
    (sex.m.launch? (sex.m.hand 0).launch = some lex ∧ (sex.m.ctx (sex.m.hand 0).ctx).barriers = [] ∧ sex.m.dev.fabBars = [] ∧ (∀ p ∈ sex.m.ctxs, p.2.moves = [])) ∧
    ((Instr.psw exitAndSwitchPoint4).check = none ∧ exitAndSwitchPoint3.hand.stage = 0 ∧ BitVec.toNat (exitAndSwitchPoint3.ctx.reg 161) % 32 = 0 ∧ (exitAndSwitchPoint3.m.part (exitAndSwitchPoint3.m.partOf exitAndSwitchPoint3.cur)).rpMode = 0) ∧
    ((Instr.psw exitAndSwitchPoint4).check = none ∧ exitAndSwitchPoint5.hand.stage = 1 ∧ exitAndSwitchPoint5.tb < exitAndSwitchPoint5.hand.stageT) ∧
    ((Instr.psw exitAndSwitchPoint4).check = none ∧ exitAndSwitchPoint6.hand.stage = 1 ∧ exitAndSwitchPoint6.hand.stageT ≤ exitAndSwitchPoint6.tb ∧ (exitAndSwitchPoint6.hand.stageV = 4294967295 ∨ BitVec.toNat exitAndSwitchPoint6.hand.stageV % 8 = 0) ∧ 1 ≠ exitAndSwitchPoint6.cur) := by
  refine ⟨?_, ?_, ?_, ?_, ?_, ?_⟩ <;> decide +kernel
theorem witness_ExitAndSwitchPoint_parts :
    (∃ (k : ℕ), exitAndSwitchPoint3.m.xlate exitAndSwitchPoint3.cur (exitAndSwitchPoint3.ctx.reg 161 + BitVec.ofNat 64 (32 * (exitAndSwitchPoint4.imm.toNat % 2 ^ 8) + 4 * if (exitAndSwitchPoint3.m.part (exitAndSwitchPoint3.m.partOf exitAndSwitchPoint3.cur)).effT = exitAndSwitchPoint3.tb + 1 then (exitAndSwitchPoint3.m.part (exitAndSwitchPoint3.m.partOf exitAndSwitchPoint3.cur)).effOld else (exitAndSwitchPoint3.m.part (exitAndSwitchPoint3.m.partOf exitAndSwitchPoint3.cur)).eff)) 4 false = Xl.key k) ∧
    (∀ (k : ℕ), exitAndSwitchPoint3.m.rowError k = none) :=
  ⟨hasKey (by decide +kernel), noErrors rfl rfl⟩

abbrev translationInvalidateAndSwitches1 : SSS := ⟨ha, 0, 1, 0, 1⟩
abbrev translationInvalidateAndSwitches2 : SSS := ⟨ha, 0, 0, 0, 2⟩
abbrev translationInvalidateAndSwitches3 : State := stl 1 (some ⟨9, 1, 0x20000, 2⟩)
abbrev translationInvalidateAndSwitches4 : Tlbi := ⟨9, 1, 0x20000, 2⟩
abbrev translationInvalidateAndSwitches5 : State := stl 1 (some ⟨9, 1, 0x20000, 2⟩) 3
abbrev translationInvalidateAndSwitches6 : Z := ⟨ha, 0⟩
abbrev translationInvalidateAndSwitches8 : SSS := ⟨ha, 0, 1, 2, 0⟩
abbrev translationInvalidateAndSwitches10 : SSS := ⟨ha, 0, 1, 0, 0⟩
abbrev translationInvalidateAndSwitches12 : State := {ssw 1 1 with m := {(ssw 1 1).m with swaps := [(0, {hand := 0})]}}
abbrev translationInvalidateAndSwitches13 : Swap := {hand := 0}
abbrev translationInvalidateAndSwitches14 : State := {ssw 1 1 with m := {(ssw 1 1).m with swaps := [(0, {hand := 0, drained := true, at_ := 120})]}}
abbrev translationInvalidateAndSwitches15 : Swap := {hand := 0, drained := true, at_ := 120}
abbrev translationInvalidateAndSwitches16 : State := {(ssw 1 1 0 0 {ssh with results := [{id:=3,lands:=[]}], draining := true}) with m := {(ssw 1 1 0 0 {ssh with results := [{id:=3,lands:=[]}], draining := true}).m with swaps := [(0, {hand := 0})]}}
abbrev translationInvalidateAndSwitches17 : Mach := (sau false 10).m
theorem witness_TranslationInvalidateAndSwitches :
    ((if translationInvalidateAndSwitches1.imm.toNat % 4 = 2 then 2 else 1) ≤ (stl 1).hand.ring ∧ (translationInvalidateAndSwitches1.imm.toNat % 4 = 1 → ReadyS (stl 1) translationInvalidateAndSwitches1.a.toNat) ∧ MayIssue (stl 1) Engine.x (Instr.tlbi translationInvalidateAndSwitches1) translationInvalidateAndSwitches1.hdr) ∧
    ((Instr.tlbi translationInvalidateAndSwitches2).check = none ∧ (stl 0).hand.ring = 0) ∧
    (translationInvalidateAndSwitches3.m.hand 0).tlbi = some translationInvalidateAndSwitches4 ∧
    ((translationInvalidateAndSwitches5.m.hand 0).tlbi = some translationInvalidateAndSwitches4 ∧ (∃ c ∈ translationInvalidateAndSwitches5.m.tlbiClusters 0 translationInvalidateAndSwitches4.form, ∃ w ∈ (translationInvalidateAndSwitches5.m.cluster c).walks, w.failed = none ∧ w.id < translationInvalidateAndSwitches4.id)) ∧
    (1 ≤ (ssw 1 1).hand.ring ∧ ((ssw 1 1).m.hand (otherHand (ssw 1 1).cur)).ctx ≠ 0 ∧ MayIssue (ssw 1 1) Engine.x (Instr.hswap translationInvalidateAndSwitches6) translationInvalidateAndSwitches6.hdr) ∧
    (1 ≤ (ssw 1 0).hand.ring ∧ ReadyS (ssw 1 0) translationInvalidateAndSwitches8.a.toNat ∧ ReadyS (ssw 1 0) translationInvalidateAndSwitches8.b.toNat ∧ (ssw 1 0).hand.sreg translationInvalidateAndSwitches8.a.toNat = 0 ∧ (ssw 1 0).m.areaStop (ssw 1 0).cur ((ssw 1 0).hand.sreg translationInvalidateAndSwitches8.b.toNat) false = none ∧ (ssw 1 0).m.loadStop (ssw 1 0).cur ((ssw 1 0).hand.sreg translationInvalidateAndSwitches8.b.toNat) (List.map (fun (k : ℕ) => 8 * clusterOf (ssw 1 0).cur + k + (ssw 1 0).cur % 2) [0, 2, 4, 6]) = none ∧ MayIssue (ssw 1 0) Engine.x (Instr.ctxsv translationInvalidateAndSwitches8) translationInvalidateAndSwitches8.hdr) ∧
    ((Instr.hswap ⟨ha, 0⟩).check = none ∧ (ssw 0 1).hand.ring = 0) ∧
    (List.find? (fun (p : ℕ × Swap) => p.1 == 0) translationInvalidateAndSwitches12.m.swaps = some (0, translationInvalidateAndSwitches13) ∧ translationInvalidateAndSwitches13.drained = false ∧ translationInvalidateAndSwitches13.isSave = false ∧ translationInvalidateAndSwitches12.m.quiet translationInvalidateAndSwitches13.hand = true) ∧
    (List.find? (fun (p : ℕ × Swap) => p.1 == 0) translationInvalidateAndSwitches14.m.swaps = some (0, translationInvalidateAndSwitches15) ∧ translationInvalidateAndSwitches15.drained = true ∧ translationInvalidateAndSwitches14.tb < translationInvalidateAndSwitches15.at_) ∧
    (List.find? (fun (p : ℕ × Swap) => p.1 == 0) translationInvalidateAndSwitches16.m.swaps = some (0, translationInvalidateAndSwitches13) ∧ translationInvalidateAndSwitches13.drained = false ∧ translationInvalidateAndSwitches13.isSave = false ∧ translationInvalidateAndSwitches16.m.quiet translationInvalidateAndSwitches13.hand = false) ∧
    (((sau false 90).m.hand (2 * 0 + KMap.get 0 (sau false 90).m.active 0)).thread = false ∧ ((sau false 90).m.hand (otherHand (2 * 0 + KMap.get 0 (sau false 90).m.active 0))).thread = true ∧ (sau false 90).m.swaps = [] ∧ (sau false 90).tb < max (((sau false 90).m.hand (2 * 0 + KMap.get 0 (sau false 90).m.active 0)).freeAt + 16) (((sau false 90).m.hand (otherHand (2 * 0 + KMap.get 0 (sau false 90).m.active 0))).dealtT + 24)) ∧
    (((sau false 10).m.hand (2 * 0 + KMap.get 0 (sau false 10).m.active 0)).thread = false ∧ ((sau false 10).m.hand (otherHand (2 * 0 + KMap.get 0 (sau false 10).m.active 0))).thread = true ∧ (sau false 10).m.swaps = [] ∧ max (((sau false 10).m.hand (2 * 0 + KMap.get 0 (sau false 10).m.active 0)).freeAt + 16) (((sau false 10).m.hand (otherHand (2 * 0 + KMap.get 0 (sau false 10).m.active 0))).dealtT + 24) ≤ (sau false 10).tb) ∧
    ((sau true 10).m.hand (2 * 0 + KMap.get 0 (sau true 10).m.active 0)).thread = true ∧
    (translationInvalidateAndSwitches17.hand 1).aside = false ∧
    (1 ≤ sld.hand.ring ∧ ReadyS sld translationInvalidateAndSwitches8.a.toNat ∧ ReadyS sld translationInvalidateAndSwitches8.b.toNat ∧ sld.hand.sreg translationInvalidateAndSwitches8.a.toNat ≠ 0 ∧ sld.m.areaStop sld.cur (sld.hand.sreg translationInvalidateAndSwitches8.a.toNat) true = none ∧ sld.m.areaStop sld.cur (sld.hand.sreg translationInvalidateAndSwitches8.b.toNat) false = none ∧ sld.m.loadStop sld.cur (sld.hand.sreg translationInvalidateAndSwitches8.b.toNat) (List.map (fun (k : ℕ) => 8 * clusterOf sld.cur + k + sld.cur % 2) [0, 2, 4, 6]) = none ∧ (List.map (fun (p : ℕ × Ctx) => p.2.agent.length) sld.m.ctxs).sum < 4096 ∧ MayIssue sld Engine.x (Instr.ctxsv translationInvalidateAndSwitches8) translationInvalidateAndSwitches8.hdr) ∧
    (1 ≤ sld.hand.ring ∧ ReadyS sld translationInvalidateAndSwitches10.a.toNat ∧ sld.hand.sreg translationInvalidateAndSwitches10.a.toNat ≠ 0 ∧ sld.m.areaStop sld.cur (sld.hand.sreg translationInvalidateAndSwitches10.a.toNat) false = none ∧ (∀ q ∈ List.map (fun (k : ℕ) => 8 * clusterOf sld.cur + 2 * k + KMap.get 0 sld.m.active (4 * clusterOf sld.cur + k)) (List.range 4), (sld.m.hand (otherHand q)).ctx = 0) ∧ sld.m.loadStop sld.cur (sld.hand.sreg translationInvalidateAndSwitches10.a.toNat) (List.map otherHand (List.map (fun (k : ℕ) => 8 * clusterOf sld.cur + 2 * k + KMap.get 0 sld.m.active (4 * clusterOf sld.cur + k)) (List.range 4))) = none ∧ MayIssue sld Engine.x (Instr.ctxld translationInvalidateAndSwitches10) translationInvalidateAndSwitches10.hdr) := by
  refine ⟨?_, ?_, ?_, ?_, ?_, ?_, ?_, ?_, ?_, ?_, ?_, ?_, ?_, ?_, ?_, ?_⟩ <;> decide +kernel
theorem witness_TranslationInvalidateAndSwitches_parts :
    (∀ (c : ℕ), ∀ w ∈ (translationInvalidateAndSwitches3.m.cluster c).walks, w.failed.isSome = true ∨ translationInvalidateAndSwitches4.id ≤ w.id) ∧
    ((∃ (w : Z), (Instr.hswap ⟨ha, 0⟩) = Instr.hswap w) ∨ (∃ (w : SSS), (Instr.hswap ⟨ha, 0⟩) = Instr.ctxsv w) ∨ ∃ (w : SSS), (Instr.hswap ⟨ha, 0⟩) = Instr.ctxld w) :=
  ⟨fun c w hw => (of_get (P := fun (x : Cluster) => ∀ w ∈ x.walks, w.failed.isSome = true ∨ 9 ≤ w.id) (by decide +kernel) (by decide +kernel) c) w hw, .inl ⟨_, rfl⟩⟩

abbrev leaseAndArrayWords1 : State := sma {}
abbrev leaseAndArrayWords2 : State := sma {st := [(3, 2)], holder := some 3, rem := 2}
abbrev leaseAndArrayWords3 : Lease := {st := [(3, 1), (1, 1)], want := [(1, 5)], last := 7}
abbrev leaseAndArrayWords4 : State := {sma with tb := 1100}
abbrev leaseAndArrayWords5 : State := {sma lsh [] false 2 [(2, {st := .waking, lastNeed := 100})] with tb := 1100}
abbrev leaseAndArrayWords6 : State := sma lsh [] true
theorem witness_LeaseAndArrayWords :
    ((mz 0 4).count.toNat ≤ BitVec.toNat (leaseAndArrayWords1.hand.creg 64) % 2 ^ 7 ∧ leaseAndArrayWords1.hand.stage = 0 ∧ MayIssue leaseAndArrayWords1 Engine.m (Instr.lease (mz 0 4)) (mz 0 4).hdr ∧ leaseAndArrayWords1.cluster.lease.holder = none ∧ leaseAndArrayWords1.m.rival leaseAndArrayWords1.tb leaseAndArrayWords1.cur = false) ∧
    ((mz 0 32).count.toNat ≤ BitVec.toNat (leaseAndArrayWords2.hand.creg 64) % 2 ^ 7 ∧ leaseAndArrayWords2.hand.stage = 0 ∧ MayIssue leaseAndArrayWords2 Engine.m (Instr.lease (mz 0 32)) (mz 0 32).hdr ∧ leaseAndArrayWords2.cluster.lease.holder = some 3 ∧ KMap.get 0 leaseAndArrayWords2.cluster.lease.st (leaseAndArrayWords2.cur % 8) = 0) ∧
    ((Instr.lease (mz 0 33)).check = none ∧ BitVec.toNat (leaseAndArrayWords1.hand.creg 64) % 2 ^ 7 < (mz 0 33).count.toNat) ∧
    MayIssue sma Engine.m (Instr.unlse mz) mz.hdr ∧
    (leaseAndArrayWords3.holder = none ∧ leaseAndArrayWords3.of ((leaseAndArrayWords3.last + 1 + 1) % 8) = 1 ∧ (∀ j < 1, leaseAndArrayWords3.of ((leaseAndArrayWords3.last + 1 + j) % 8) ≠ 1)) ∧
    lsh.holder ≠ none ∧
    (((leaseAndArrayWords4.m.cluster 0).band 2).st = BandSt.on ∧ ((leaseAndArrayWords4.m.cluster 0).band 2).lastNeed + 1050 ≤ leaseAndArrayWords4.tb) ∧
    ((((leaseAndArrayWords5.m.cluster 0).band 2).st ≠ BandSt.on ∨ leaseAndArrayWords5.tb < ((leaseAndArrayWords5.m.cluster 0).band 2).lastNeed + 1050) ∧ ((leaseAndArrayWords5.m.cluster 0).band 2).st = BandSt.waking ∧ ((leaseAndArrayWords5.m.cluster 0).band 2).since + 400 ≤ leaseAndArrayWords5.tb ∧ leaseAndArrayWords5.tb < ((leaseAndArrayWords5.m.cluster 0).band 2).lastNeed + 1050) ∧
    (CmdRoom sma ∧ MayIssue sma Engine.m (Instr.mshape (mz 0 0 15)) (lateHdr (mz 0 0 15).hdr)) ∧
    (sma.m.leaseStop sma.cur (mz 5 3 0 3).slot.toNat = none ∧ CmdRoom sma ∧ MayIssue sma Engine.m (Instr.wld (mz 5 3 0 3)) (lateHdr (mz 5 3 0 3).hdr) ∧ 0 < stK (sma.hand.streg (mz 5 3 0 3).stream.toNat) ∧ stK (sma.hand.streg (mz 5 3 0 3).stream.toNat) ≤ kLimit (stClass (sma.hand.streg (mz 5 3 0 3).stream.toNat) (sma.hand.stQ (sma.hand.streg (mz 5 3 0 3).stream.toNat))) ((mz 5 3 0 3).flags.getLsbD 0) ∧ (stBlk (sma.hand.streg (mz 5 3 0 3).stream.toNat) = 0 ∨ stK (sma.hand.streg (mz 5 3 0 3).stream.toNat) % stBlk (sma.hand.streg (mz 5 3 0 3).stream.toNat) = 0) ∧ imageLen (sma.hand.streg (mz 5 3 0 3).stream.toNat) (sma.hand.stQ (sma.hand.streg (mz 5 3 0 3).stream.toNat)) (mz 5 3 0 3).count.toNat ((mz 5 3 0 3).flags.getLsbD 0) ≤ 131072 ∧ ((mz 5 3 0 3).flags.getLsbD 0 = true → stK (sma.hand.streg (mz 5 3 0 3).stream.toNat) % 8 = 0 ∧ stClass (sma.hand.streg (mz 5 3 0 3).stream.toNat) (sma.hand.stQ (sma.hand.streg (mz 5 3 0 3).stream.toNat)) ≠ 3 ∧ ((sma.hand.streg (mz 5 3 0 3).stream.toNat).getLsbD 119 = true → sma.hand.stQ (sma.hand.streg (mz 5 3 0 3).stream.toNat) % 16 = 8)) ∧ sma.m.streamIn sma.cur (sma.hand.streg (mz 5 3 0 3).stream.toNat) (sma.hand.stQ (sma.hand.streg (mz 5 3 0 3).stream.toNat)) (mz 5 3 0 3).count.toNat ((mz 5 3 0 3).flags.getLsbD 0) false = none) ∧
    (sma.m.leaseStop sma.cur (mz 15).slot.toNat = none ∧ CmdRoom sma ∧ MayIssue sma Engine.m (Instr.wdrop (mz 15)) (lateHdr (mz 15).hdr)) ∧
    (sma.hand.pendH (mw 2 30 2 3).handle.toNat = false ∧ sma.m.leaseStop sma.cur (mw 2 30 2 3).slot.toNat = none ∧ (sma.cluster.slotView (mw 2 30 2 3).slot.toNat).ready = true ∧ (sma.cluster.slotView (mw 2 30 2 3).slot.toNat).cls = stClass (sma.hand.streg (mw 2 30 2 3).stream.toNat) (sma.hand.stQ (sma.hand.streg (mw 2 30 2 3).stream.toNat)) ∧ (sma.cluster.slotView (mw 2 30 2 3).slot.toNat).k = stK (sma.hand.streg (mw 2 30 2 3).stream.toNat) ∧ 0 < stK (sma.hand.streg (mw 2 30 2 3).stream.toNat) ∧ stK (sma.hand.streg (mw 2 30 2 3).stream.toNat) ≤ kLimit (sma.cluster.slotView (mw 2 30 2 3).slot.toNat).cls (sma.cluster.slotView (mw 2 30 2 3).slot.toNat).sp ∧ (stBlk (sma.hand.streg (mw 2 30 2 3).stream.toNat) = 0 ∨ stK (sma.hand.streg (mw 2 30 2 3).stream.toNat) % stBlk (sma.hand.streg (mw 2 30 2 3).stream.toNat) = 0) ∧ sma.m.streamIn sma.cur (sma.hand.streg (mw 2 30 2 3).stream.toNat) (sma.hand.stQ (sma.hand.streg (mw 2 30 2 3).stream.toNat)) (mw 2 30 2 3).count.toNat false ((mw 2 30 2 3).flags.getLsbD 0) = none ∧ (∀ b < 4, (bandsNeeded (BitVec.toNat (sma.hand.creg 66) % 2 ^ 4) (wbOf (stClass (sma.hand.streg (mw 2 30 2 3).stream.toNat) (sma.hand.stQ (sma.hand.streg (mw 2 30 2 3).stream.toNat))) (sma.cluster.slotView (mw 2 30 2 3).slot.toNat).sp) (stK (sma.hand.streg (mw 2 30 2 3).stream.toNat))).testBit b = true → (sma.cluster.band b).st ≠ BandSt.forced) ∧ CmdRoom sma ∧ sma.m.hdlStop sma.cur (hdlOf (sma.hand.hreg (mw 2 30 2 3).handle.toNat)) (some ((sma.cluster.slotView (mw 2 30 2 3).slot.toNat).cls == 2)) (some false) (mw 2 30 2 3).row0.toNat (mw 2 30 2 3).count.toNat = none ∧ MayIssue sma Engine.m (Instr.mma (mw 2 30 2 3)) (lateHdr (mw 2 30 2 3).hdr)) ∧
    (leaseAndArrayWords6.hand.pendH (mw 2 0 32 0).handle.toNat = false ∧ leaseAndArrayWords6.m.leaseStop leaseAndArrayWords6.cur (mw 2 0 32 0).slot.toNat = none ∧ (leaseAndArrayWords6.cluster.slotView (mw 2 0 32 0).slot.toNat).ready = true ∧ (leaseAndArrayWords6.cluster.slotView (mw 2 0 32 0).slot.toNat).cls = stClass (leaseAndArrayWords6.hand.streg (mw 2 0 32 0).stream.toNat) (leaseAndArrayWords6.hand.stQ (leaseAndArrayWords6.hand.streg (mw 2 0 32 0).stream.toNat)) ∧ (leaseAndArrayWords6.cluster.slotView (mw 2 0 32 0).slot.toNat).k = stK (leaseAndArrayWords6.hand.streg (mw 2 0 32 0).stream.toNat) ∧ 0 < stK (leaseAndArrayWords6.hand.streg (mw 2 0 32 0).stream.toNat) ∧ stK (leaseAndArrayWords6.hand.streg (mw 2 0 32 0).stream.toNat) ≤ kLimit (leaseAndArrayWords6.cluster.slotView (mw 2 0 32 0).slot.toNat).cls (leaseAndArrayWords6.cluster.slotView (mw 2 0 32 0).slot.toNat).sp ∧ (stBlk (leaseAndArrayWords6.hand.streg (mw 2 0 32 0).stream.toNat) = 0 ∨ stK (leaseAndArrayWords6.hand.streg (mw 2 0 32 0).stream.toNat) % stBlk (leaseAndArrayWords6.hand.streg (mw 2 0 32 0).stream.toNat) = 0) ∧ leaseAndArrayWords6.m.streamIn leaseAndArrayWords6.cur (leaseAndArrayWords6.hand.streg (mw 2 0 32 0).stream.toNat) (leaseAndArrayWords6.hand.stQ (leaseAndArrayWords6.hand.streg (mw 2 0 32 0).stream.toNat)) (mw 2 0 32 0).count.toNat false ((mw 2 0 32 0).flags.getLsbD 0) = none ∧ (∀ b < 4, (bandsNeeded (BitVec.toNat (leaseAndArrayWords6.hand.creg 66) % 2 ^ 4) (wbOf (stClass (leaseAndArrayWords6.hand.streg (mw 2 0 32 0).stream.toNat) (leaseAndArrayWords6.hand.stQ (leaseAndArrayWords6.hand.streg (mw 2 0 32 0).stream.toNat))) (leaseAndArrayWords6.cluster.slotView (mw 2 0 32 0).slot.toNat).sp) (stK (leaseAndArrayWords6.hand.streg (mw 2 0 32 0).stream.toNat))).testBit b = true → (leaseAndArrayWords6.cluster.band b).st ≠ BandSt.forced) ∧ CmdRoom leaseAndArrayWords6 ∧ leaseAndArrayWords6.m.hdlStop leaseAndArrayWords6.cur (hdlOf (leaseAndArrayWords6.hand.hreg (mw 2 0 32 0).handle.toNat)) (some ((leaseAndArrayWords6.cluster.slotView (mw 2 0 32 0).slot.toNat).cls == 2)) (some true) (mw 2 0 32 0).row0.toNat (mw 2 0 32 0).count.toNat = none ∧ MayIssue leaseAndArrayWords6 Engine.m (Instr.mmat (mw 2 0 32 0)) (lateHdr (mw 2 0 32 0).hdr)) ∧
    (leaseAndArrayWords1.m.holds leaseAndArrayWords1.cur = false ∧ leaseAndArrayWords1.hand.popStop leaseAndArrayWords1.tb (popFifo Engine.m (mz 15).hdr.pop) = none ∧ (Instr.wdrop (mz 15)).check = none) ∧
    ((mcd CmdOp.wld).need = 0 ∧ (mcd CmdOp.wld).leased = true ∧ 1 < (sma.m.lease 0).rem ∧ (∀ d ∈ (sma.m.cluster (clusterOf 0)).cmds, d.acc ≤ (sma.m.cluster (clusterOf 0)).accNo)) ∧
    (CmdRoom sma ∧ MayIssue sma Engine.m (Instr.mmode mz) (lateHdr mz.hdr)) := by
  refine ⟨?_, ?_, ?_, ?_, ?_, ?_, ?_, ?_, ?_, ?_, ?_, ?_, ?_, ?_, ?_, ?_⟩ <;> decide +kernel

abbrev arrayCommandsRun1 : State := sma lsh [mcd .wld]
abbrev arrayCommandsRun2 : List ℕ × List ℕ := ([0,1,2,3,4,5,6,7],[])
abbrev arrayCommandsRun3 : List ℕ := (match sma.m.wldColumn (mcd .wld) 0 with | .ok p => p.2 | _ => [])
abbrev arrayCommandsRun4 : State := sma lsh [{mcd .wld with got := [some ([1],[]),some ([2],[])]}]
abbrev arrayCommandsRun5 : Cmd := {mcd .wld with got := [some ([1],[]),some ([2],[])]}
abbrev arrayCommandsRun6 : State := sma lsh [{mcd .mma with started := true, got := [some ([1],[])], count := 3}]
abbrev arrayCommandsRun7 : Cmd := {mcd .mma with started := true, got := [some ([1],[])], count := 3}
abbrev arrayCommandsRun8 : List ℕ × List ℕ := ((match sma.m.streamRow 0 stm 0 1 with | .ok p => p.1 | _ => ([],[])))
abbrev arrayCommandsRun9 : List ℕ := ((match sma.m.streamRow 0 stm 0 1 with | .ok p => p.2 | _ => []))
theorem witness_ArrayCommandsRun :
    (arrayCommandsRun1.m.findCmd 0 3 = some (mcd CmdOp.wld) ∧ (mcd CmdOp.wld).started = false ∧ (mcd CmdOp.wld).got = [] ∧ (mcd CmdOp.wld).hand = 0 ∧ (List.map (fun (x : Cmd) => x.acc) (arrayCommandsRun1.m.cluster (clusterOf 0)).cmds).Nodup ∧ arrayCommandsRun1.m.wldColumn (mcd CmdOp.wld) 0 = Except.ok (arrayCommandsRun2, arrayCommandsRun3)) ∧
    (arrayCommandsRun1.m.findCmd 0 3 = some (mcd CmdOp.wld) ∧ (mcd CmdOp.wld).got.length < (mcd CmdOp.wld).count) ∧
    (arrayCommandsRun4.m.findCmd 0 3 = some arrayCommandsRun5 ∧ arrayCommandsRun5.count ≤ arrayCommandsRun5.got.length) ∧
    (arrayCommandsRun6.m.findCmd 0 3 = some arrayCommandsRun7 ∧ arrayCommandsRun7.started = true ∧ arrayCommandsRun7.wrote = 0 ∧ arrayCommandsRun7.hand = 0 ∧ arrayCommandsRun7.flags.testBit 0 = false ∧ arrayCommandsRun7.got.length + 1 < arrayCommandsRun7.count ∧ arrayCommandsRun6.tb = arrayCommandsRun7.startT + arrayCommandsRun7.got.length ∧ arrayCommandsRun7.got.length < 264 ∧ arrayCommandsRun6.m.streamRow 0 arrayCommandsRun7.st arrayCommandsRun7.q arrayCommandsRun7.got.length = Except.ok (arrayCommandsRun8, arrayCommandsRun9)) ∧
    (wsl.cls = 2 ∧ wsl.cols.length ≤ 256) := by
  refine ⟨?_, ?_, ?_, ?_, ?_⟩ <;> decide +kernel
theorem witness_ArrayCommandsRun_parts :
    (∀ (k : ℕ), arrayCommandsRun1.m.rowError k = none) ∧
    (∀ (k : ℕ), arrayCommandsRun6.m.rowError k = none) :=
  ⟨noErrors rfl rfl, noErrors rfl rfl⟩

abbrev accumulatorWords5 : MA := {acw 2 31 9 1 with handle := 0}
theorem witness_AccumulatorWords :
    (sac.hand.pendH (acw 1 31 1 7).handle.toNat = false ∧ CmdRoom sac ∧ sac.m.hdlStop sac.cur (hdlOf (sac.hand.hreg (acw 1 31 1 7).handle.toNat)) none (some false) (acw 1 31 1 7).row0.toNat (acw 1 31 1 7).count.toNat = none ∧ sac.m.ownStop sac.cur (hdlOf (sac.hand.hreg (acw 1 31 1 7).handle.toNat)) (acw 1 31 1 7).row0.toNat (acw 1 31 1 7).count.toNat = none ∧ Sources sac Engine.m (List.replicate (acw 1 31 1 7).count.toNat { reg := (acw 1 31 1 7).q.toNat : Opnd }) [] ∧ MayIssue sac Engine.m (Instr.acmad (acw 1 31 1 7)) (lateHdr (acw 1 31 1 7).hdr)) ∧
    (sac.hand.pendH (acw 2 30 3).handle.toNat = false ∧ sac.m.hdlStop sac.cur (hdlOf (sac.hand.hreg (acw 2 30 3).handle.toNat)) none (some false) (acw 2 30 3).row0.toNat (acw 2 30 3).count.toNat = none ∧ sac.m.ownStop sac.cur (hdlOf (sac.hand.hreg (acw 2 30 3).handle.toNat)) (acw 2 30 3).row0.toNat (acw 2 30 3).count.toNat = none ∧ sac.m.busyStop sac.cur (16 * (hdlOf (sac.hand.hreg (acw 2 30 3).handle.toNat)).base + (acw 2 30 3).row0.toNat) (acw 2 30 3).count.toNat = none ∧ (BitVec.getLsbD (sac.hand.creg 72) 5 = true → (hdlOf (sac.hand.hreg (acw 2 30 3).handle.toNat)).isInt = false) ∧ ppCols (sac.hand.creg 72) * ppWidth (sac.hand.creg 72) (BitVec.toNat (sac.hand.creg (56 + BitVec.toNat (sac.hand.creg 72) / 2 ^ 12 % 2 ^ 3)) % 2 ^ 19) % 32 = 0 ∧ (sac.hand.streg (acw 2 30 3).q.toNat).toNat % 4 = 0 ∧ stField (sac.hand.streg (acw 2 30 3).q.toNat) 64 32 % 4 = 0 ∧ (BitVec.getLsbD (sac.hand.creg 72) 0 = true → BitVec.toNat (sac.hand.creg 73) % 4 = 0 ∧ sac.m.ownSlice sac.cur (sac.hand.creg 73) 1024 = true) ∧ (∀ i < (acw 2 30 3).count.toNat, sac.m.ownSlice sac.cur (stRowAt (sac.hand.streg (acw 2 30 3).q.toNat) i) (ppLen (sac.hand.creg 72) (BitVec.toNat (sac.hand.creg (56 + BitVec.toNat (sac.hand.creg 72) / 2 ^ 12 % 2 ^ 3)) % 2 ^ 19)) = true) ∧ CmdRoom sac ∧ MayIssue sac Engine.m (Instr.acmst (acw 2 30 3)) (lateHdr (acw 2 30 3).hdr)) ∧
    (sac.hand.pendH (acw 2 0 9 7).handle.toNat = false ∧ sac.m.hdlStop sac.cur (hdlOf (sac.hand.hreg (acw 2 0 9 7).handle.toNat)) none none (acw 2 0 9 7).row0.toNat (acw 2 0 9 7).count.toNat = none ∧ sac.m.ownStop sac.cur (hdlOf (sac.hand.hreg (acw 2 0 9 7).handle.toNat)) (acw 2 0 9 7).row0.toNat (acw 2 0 9 7).count.toNat = none ∧ sac.m.busyStop sac.cur (16 * (hdlOf (sac.hand.hreg (acw 2 0 9 7).handle.toNat)).base + (acw 2 0 9 7).row0.toNat) (acw 2 0 9 7).count.toNat = none ∧ sac.hand.queueStop [] (List.replicate (acw 2 0 9 7).count.toNat (acw 2 0 9 7).q.toNat) = none ∧ MayIssue sac Engine.m (Instr.acmv (acw 2 0 9 7)) (acw 2 0 9 7).hdr) ∧
    ((acw 6 0 0).row0.getLsbD 9 = false ∧ 4 + (acw 6 0 0).count.toNat ≤ 64 ∧ 1 ≤ (acw 6 0 0).count.toNat ∧ (∀ i < (acw 6 0 0).count.toNat, (sac.cluster.bank (4 + i)).used = false) ∧ (∀ a < 4, ∃ i < (acw 6 0 0).count.toNat, (sac.cluster.bank (a + i)).used = true) ∧ MayIssue sac Engine.m (Instr.acmal (acw 6 0 0)) (acw 6 0 0).hdr) ∧
    ((acw 63 0 0).row0.getLsbD 9 = false ∧ (Instr.acmal (acw 63 0 0)).check = none ∧ sac.hand.popStop sac.tb (popFifo Engine.m (acw 63 0 0).hdr.pop) = none ∧ (acw 63 0 0).count.toNat ≤ 64) ∧
    (sac.hand.pendH (acw 0 0 0).handle.toNat = false ∧ CmdRoom sac ∧ sac.m.hdlStop sac.cur (hdlOf (sac.hand.hreg (acw 0 0 0).handle.toNat)) none none 0 0 = none ∧ (sac.cluster.bank (hdlOf (sac.hand.hreg (acw 0 0 0).handle.toNat)).base).core = sac.cur / 2 % 4 ∧ MayIssue sac Engine.m (Instr.acmfr (acw 0 0 0)) (lateHdr (acw 0 0 0).hdr)) ∧
    (sac.hand.pendH (acw 32 0 0).handle.toNat = false ∧ CmdRoom sac ∧ sac.m.hdlStop sac.cur (hdlOf (sac.hand.hreg (acw 32 0 0).handle.toNat)) none none (acw 32 0 0).row0.toNat (acw 32 0 0).count.toNat = none ∧ sac.m.ownStop sac.cur (hdlOf (sac.hand.hreg (acw 32 0 0).handle.toNat)) (acw 32 0 0).row0.toNat (acw 32 0 0).count.toNat = none ∧ MayIssue sac Engine.m (Instr.acmz (acw 32 0 0)) (lateHdr (acw 32 0 0).hdr)) ∧
    (sac.hand.pendH (acw 32 0 0 3).handle.toNat = false ∧ sac.m.hdlStop sac.cur (hdlOf (sac.hand.hreg (acw 32 0 0 3).handle.toNat)) none none (acw 32 0 0 3).row0.toNat (acw 32 0 0 3).count.toNat = none ∧ sac.m.ownStop sac.cur (hdlOf (sac.hand.hreg (acw 32 0 0 3).handle.toNat)) (acw 32 0 0 3).row0.toNat (acw 32 0 0 3).count.toNat = none ∧ MayIssue sac Engine.m (Instr.acmown (acw 32 0 0 3)) (acw 32 0 0 3).hdr) ∧
    (sac.hand.queueStop [] (List.replicate accumulatorWords5.count.toNat accumulatorWords5.q.toNat) = none ∧ MayIssue sac Engine.m (Instr.acmpk accumulatorWords5) accumulatorWords5.hdr) := by
  refine ⟨?_, ?_, ?_, ?_, ?_, ?_, ?_, ?_, ?_⟩ <;> decide +kernel
theorem witness_AccumulatorWords_parts :
    (∀ (k : ℕ), sac.m.rowError k ≠ some true) ∧
    (∀ (k : ℕ), sac.m.rowError k ≠ some false) ∧
    (∀ (a : ℕ), a + (acw 63 0 0).count.toNat ≤ 64 → ∃ i < (acw 63 0 0).count.toNat, (sac.cluster.bank (a + i)).used = true) :=
  ⟨fun k => by rw [noErrors rfl rfl]; decide, fun k => by rw [noErrors rfl rfl]; decide, fun a ha => by
    have h : (acw 63 0 0).count.toNat = 63 := rfl
    have : a ≤ 1 := by omega
    interval_cases a <;> decide +kernel⟩

abbrev accumulatorEvents1 : State := sac true [cmd .acmz]
abbrev accumulatorEvents5 : State := sac true [{cmd .acmz with acc := 3, seq := 2},cmd .acmfr] []
abbrev accumulatorEvents6 : State := sac true [cmd .acmfr] [(2,120)]
abbrev accumulatorEvents8 : State := sac true [cmd .acmfr]
abbrev accumulatorEvents9 : State := sac true [{cmd .acmad with ents := [5, 2 ^ 32 - 1], blk := 1}]
abbrev accumulatorEvents10 : Cmd := {cmd .acmad with ents := [5, 2 ^ 32 - 1], blk := 1}
abbrev accumulatorEvents11 : State := sac true [cmd .acmst 1]
abbrev accumulatorEvents12 : Cmd := {cmd .acmst with pp := 0x400}
abbrev accumulatorEvents13 : Cmd := {cmd .acmst with pp := 0x70410}
abbrev accumulatorEvents15 : Cluster := xac true [cmz3, cmd .acmfr] []
theorem witness_AccumulatorEvents :
    (accumulatorEvents1.m.findCmd 0 3 = some (cmd CmdOp.acmz) ∧ ((cmd CmdOp.acmz).op = CmdOp.acmz ∨ (cmd CmdOp.acmz).op = CmdOp.acmad ∨ (cmd CmdOp.acmz).op = CmdOp.acmst ∧ BitVec.getLsbD (cmd CmdOp.acmz).pp 0 = false ∨ (cmd CmdOp.acmz).op = CmdOp.acmfr ∧ (accumulatorEvents1.m.cluster (clusterOf 0)).canStart (cmd CmdOp.acmz) = true ∧ ∀ p ∈ (accumulatorEvents1.m.cluster (clusterOf 0)).drains, p.1 = (hdlOf (cmd CmdOp.acmz).handle).base → p.2 ≤ accumulatorEvents1.tb) ∧ (List.map (fun (x : Cmd) => x.acc) (accumulatorEvents1.m.cluster (clusterOf 0)).cmds).Nodup) ∧
    (accumulatorEvents5.m.findCmd 0 3 = some (cmd CmdOp.acmfr) ∧ (cmd CmdOp.acmfr).op = CmdOp.acmfr ∧ (accumulatorEvents5.m.cluster (clusterOf 0)).canStart (cmd CmdOp.acmfr) = false) ∧
    (accumulatorEvents6.m.findCmd 0 3 = some (cmd CmdOp.acmfr) ∧ (cmd CmdOp.acmfr).op = CmdOp.acmfr ∧ (accumulatorEvents6.m.cluster (clusterOf 0)).canStart (cmd CmdOp.acmfr) = true ∧ (accumulatorEvents6.m.cluster (clusterOf 0)).drains = [(2, 120)] ∧ (2, 120).1 = (hdlOf (cmd CmdOp.acmfr).handle).base ∧ accumulatorEvents6.tb < (2, 120).2) ∧
    (cmd CmdOp.acmst).op = CmdOp.acmst ∧
    (accumulatorEvents1.m.findCmd 0 3 = some (cmd CmdOp.acmz) ∧ (cmd CmdOp.acmz).hand = 0 ∧ ((cmd CmdOp.acmz).op = CmdOp.acmfr → (accumulatorEvents1.m.cluster (clusterOf 0)).canStart (cmd CmdOp.acmz) = true) ∧ (cmd CmdOp.acmz).op = CmdOp.acmz) ∧
    (accumulatorEvents8.m.findCmd 0 3 = some (cmd CmdOp.acmfr) ∧ (cmd CmdOp.acmfr).hand = 0 ∧ ((cmd CmdOp.acmfr).op = CmdOp.acmfr → (accumulatorEvents8.m.cluster (clusterOf 0)).canStart (cmd CmdOp.acmfr) = true) ∧ (cmd CmdOp.acmfr).op = CmdOp.acmfr) ∧
    (accumulatorEvents9.m.findCmd 0 3 = some accumulatorEvents10 ∧ accumulatorEvents10.hand = 0 ∧ (accumulatorEvents10.op = CmdOp.acmfr → (accumulatorEvents9.m.cluster (clusterOf 0)).canStart accumulatorEvents10 = true) ∧ accumulatorEvents10.op = CmdOp.acmad ∧ (hdlOf accumulatorEvents10.handle).isInt = true ∧ accumulatorEvents10.ents.length = accumulatorEvents10.count ∧ (0 < 16 * (hdlOf accumulatorEvents10.handle).base + accumulatorEvents10.row0 ∨ 16 * (hdlOf accumulatorEvents10.handle).base + accumulatorEvents10.row0 + accumulatorEvents10.count ≤ 0) ∧ 0 < accumulatorEvents10.count) ∧
    (accumulatorEvents11.m.findCmd 0 3 = some (cmd CmdOp.acmst 1) ∧ (cmd CmdOp.acmst 1).hand = 0 ∧ ((cmd CmdOp.acmst 1).op = CmdOp.acmfr → (accumulatorEvents11.m.cluster (clusterOf 0)).canStart (cmd CmdOp.acmst 1) = true) ∧ (cmd CmdOp.acmst 1).op = CmdOp.acmst ∧ (cmd CmdOp.acmst 1).count = 1) ∧
    accumulatorEvents12.pp = 1024 ∧
    BitVec.toNat accumulatorEvents13.pp % 2 ^ 16 = 1040 ∧
    ((cmd CmdOp.acmfr).op = CmdOp.acmfr ∧ accumulatorEvents15.canStart (cmd CmdOp.acmfr) = true ∧ cmz3 ∈ accumulatorEvents15.cmds ∧ cmz3.acc < (cmd CmdOp.acmfr).acc) ∧
    (cmd CmdOp.acmad).op = CmdOp.acmad := by
  refine ⟨?_, ?_, ?_, ?_, ?_, ?_, ?_, ?_, ?_, ?_, ?_, ?_⟩ <;> decide +kernel
theorem witness_AccumulatorEvents_parts :
    (∀ (k : ℕ), accumulatorEvents1.m.rowError k = none) ∧
    (∀ (k : ℕ), accumulatorEvents8.m.rowError k = none) ∧
    (∀ (k : ℕ), accumulatorEvents9.m.rowError k = none) ∧
    (∀ (k : ℕ), accumulatorEvents11.m.rowError k = none) :=
  ⟨noErrors rfl rfl, noErrors rfl rfl, noErrors rfl rfl, noErrors rfl rfl⟩

abbrev predictor1 : Cluster := xrt [] []
abbrev predictor2 : Query := queryOf (qry 1)
abbrev predictor3 : List ℕ := [2, 0]
abbrev predictor4 : List ℕ := [4, 9]
abbrev predictor5 : List ℕ := [4, 9, 0]
abbrev predictor6 : Z := ⟨hx, 0⟩
theorem witness_Predictor :
    (Sources srt Engine.m [{ reg := (wrt 9 20 21).a.toNat, keep := (wrt 9 20 21).ka : Opnd }, { reg := (wrt 9 20 21).b.toNat, keep := (wrt 9 20 21).kb : Opnd }] [(wrt 9 20 21).d.toNat] ∧ predBad (queryOf (operand srt Engine.m [{ reg := (wrt 9 20 21).a.toNat, keep := (wrt 9 20 21).ka : Opnd }, { reg := (wrt 9 20 21).b.toNat, keep := (wrt 9 20 21).kb : Opnd }] 1)) (callsOf (operand srt Engine.m [{ reg := (wrt 9 20 21).a.toNat, keep := (wrt 9 20 21).ka : Opnd }, { reg := (wrt 9 20 21).b.toNat, keep := (wrt 9 20 21).kb : Opnd }] 0)) = false ∧ 1 ≤ (queryOf (operand srt Engine.m [{ reg := (wrt 9 20 21).a.toNat, keep := (wrt 9 20 21).ka : Opnd }, { reg := (wrt 9 20 21).b.toNat, keep := (wrt 9 20 21).kb : Opnd }] 1)).kmax ∧ (queryOf (operand srt Engine.m [{ reg := (wrt 9 20 21).a.toNat, keep := (wrt 9 20 21).ka : Opnd }, { reg := (wrt 9 20 21).b.toNat, keep := (wrt 9 20 21).kb : Opnd }] 1)).kmax ≤ 4 ∧ MayIssue srt Engine.m (Instr.pred (wrt 9 20 21)) (wrt 9 20 21).hdr) ∧
    (predictor2.mask.testBit 0 = true ∧ predictor2.tag < 256 ∧ (predictor1.predAt (predHash predictor2 0 (callOf call6 0)).1).hits 1 (predHash predictor2 0 (callOf call6 0)).2 = true ∧ (∀ i ∈ (predictor1.predAt (predHash predictor2 0 (callOf call6 0)).1).ids, i < 256) ∧ (predictor1.predAt (predHash predictor2 0 (callOf call6 0)).1).ids.length = 4 ∧ (predictor1.predAt (predHash predictor2 0 (callOf call6 0)).1).conf.length = 4) ∧
    (predictor2.mask.testBit 0 = true ∧ (predictor1.predAt (predHash predictor2 0 (callOf call6 0)).1).hits 2 (predHash predictor2 0 (callOf call6 0)).2 = false) ∧
    predictor2.mask.testBit 1 = false ∧
    (pred0.ids.length = 4 ∧ pred0.conf.length = 4 ∧ (∀ c ∈ pred0.conf, c ≤ 3) ∧ 0 ∈ predictor3) ∧
    (Sources srt Engine.m [{ reg := (wrt 22 20 21).a.toNat, keep := (wrt 22 20 21).ka : Opnd }, { reg := (wrt 22 20 21).b.toNat, keep := (wrt 22 20 21).kb : Opnd }, { reg := (wrt 22 20 21).d.toNat, keep := (wrt 22 20 21).h : Opnd }] [(wrt 22 20 21).d.toNat] ∧ predBad (queryOf (operand srt Engine.m [{ reg := (wrt 22 20 21).a.toNat, keep := (wrt 22 20 21).ka : Opnd }, { reg := (wrt 22 20 21).b.toNat, keep := (wrt 22 20 21).kb : Opnd }, { reg := (wrt 22 20 21).d.toNat, keep := (wrt 22 20 21).h : Opnd }] 1)) (callsOf (operand srt Engine.m [{ reg := (wrt 22 20 21).a.toNat, keep := (wrt 22 20 21).ka : Opnd }, { reg := (wrt 22 20 21).b.toNat, keep := (wrt 22 20 21).kb : Opnd }, { reg := (wrt 22 20 21).d.toNat, keep := (wrt 22 20 21).h : Opnd }] 0)) = false ∧ (∀ j < 4, (queryOf (operand srt Engine.m [{ reg := (wrt 22 20 21).a.toNat, keep := (wrt 22 20 21).ka : Opnd }, { reg := (wrt 22 20 21).b.toNat, keep := (wrt 22 20 21).kb : Opnd }, { reg := (wrt 22 20 21).d.toNat, keep := (wrt 22 20 21).h : Opnd }] 1)).mask.testBit j = true → ((fun (j : ℕ) => callOf (operand srt Engine.m [{ reg := (wrt 22 20 21).a.toNat, keep := (wrt 22 20 21).ka : Opnd }, { reg := (wrt 22 20 21).b.toNat, keep := (wrt 22 20 21).kb : Opnd }, { reg := (wrt 22 20 21).d.toNat, keep := (wrt 22 20 21).h : Opnd }] 2) j) j).tid = ((fun (j : ℕ) => callOf (operand srt Engine.m [{ reg := (wrt 22 20 21).a.toNat, keep := (wrt 22 20 21).ka : Opnd }, { reg := (wrt 22 20 21).b.toNat, keep := (wrt 22 20 21).kb : Opnd }, { reg := (wrt 22 20 21).d.toNat, keep := (wrt 22 20 21).h : Opnd }] 0) j) j).tid ∧ ((fun (j : ℕ) => callOf (operand srt Engine.m [{ reg := (wrt 22 20 21).a.toNat, keep := (wrt 22 20 21).ka : Opnd }, { reg := (wrt 22 20 21).b.toNat, keep := (wrt 22 20 21).kb : Opnd }, { reg := (wrt 22 20 21).d.toNat, keep := (wrt 22 20 21).h : Opnd }] 2) j) j).n ≤ 8 ∧ ((fun (j : ℕ) => callOf (operand srt Engine.m [{ reg := (wrt 22 20 21).a.toNat, keep := (wrt 22 20 21).ka : Opnd }, { reg := (wrt 22 20 21).b.toNat, keep := (wrt 22 20 21).kb : Opnd }, { reg := (wrt 22 20 21).d.toNat, keep := (wrt 22 20 21).h : Opnd }] 2) j) j).experts.eraseDups.length = ((fun (j : ℕ) => callOf (operand srt Engine.m [{ reg := (wrt 22 20 21).a.toNat, keep := (wrt 22 20 21).ka : Opnd }, { reg := (wrt 22 20 21).b.toNat, keep := (wrt 22 20 21).kb : Opnd }, { reg := (wrt 22 20 21).d.toNat, keep := (wrt 22 20 21).h : Opnd }] 2) j) j).experts.length ∧ ((fun (j : ℕ) => callOf (operand srt Engine.m [{ reg := (wrt 22 20 21).a.toNat, keep := (wrt 22 20 21).ka : Opnd }, { reg := (wrt 22 20 21).b.toNat, keep := (wrt 22 20 21).kb : Opnd }, { reg := (wrt 22 20 21).d.toNat, keep := (wrt 22 20 21).h : Opnd }] 2) j) j).spec = false) ∧ MayIssue srt Engine.m (Instr.predup (wrt 22 20 21)) (wrt 22 20 21).hdr) ∧
    (pred0.ids.length = 4 ∧ pred0.conf.length = 4 ∧ predictor4.length ≤ 4 ∧ predictor4.Nodup ∧ 255 ∉ predictor4 ∧ pred0.hits 1 pred0.tag = true ∧ (∀ e ∈ predictor4, e ∈ pred0.ids)) ∧
    (pred0.ids.length = 4 ∧ pred0.conf.length = 4 ∧ predictor5.length ≤ 4 ∧ predictor5.Nodup ∧ 255 ∉ predictor5 ∧ pred0.hits 1 7 = false) ∧
    MayIssue srt Engine.m (Instr.ptclr predictor6) predictor6.hdr := by
  refine ⟨?_, ?_, ?_, ?_, ?_, ?_, ?_, ?_, ?_⟩ <;> decide +kernel

abbrev rsOs : List Opnd := [{ reg := (wrtc 9 20 23).a.toNat, keep := (wrtc 9 20 23).ka }, { reg := (wrtc 9 20 23).b.toNat, keep := (wrtc 9 20 23).kb }]
abbrev resolve1 : Decided := dec [(6, .mapped)] [0]
abbrev resolve2 : Spte := spte [(6, .mapped)] [0]
abbrev resolve3 : Decided := dec [(6, .mapped)] []
abbrev resolve4 : Spte := spte [(6, .mapped)] []
abbrev resolve5 : State := sac false [{cmd .rslv with adds := [⟨32, false, 33, 0x3C00, 3⟩]}]
abbrev resolve6 : Cmd := {cmd .rslv with adds := [⟨32, false, 33, 0x3C00, 3⟩]}
abbrev resolve7 : RAdd := ⟨32, false, 33, 0x3C00, 3⟩
theorem witness_Resolve :
    (Sources srt Engine.m rsOs [(wrtc 9 20 23).d.toNat] ∧ BitVec.toNat (lane (operand srt Engine.m rsOs 1) 0) < 2 ^ 8 ∧ BitVec.toNat (operand srt Engine.m rsOs 1) < 2 ^ 128 ∧ (∀ j < 4, 0 < j → (callOf (operand srt Engine.m rsOs 0) j).n = 0) ∧ 0 < (callOf (operand srt Engine.m rsOs 0) 0).n ∧ (callOf (operand srt Engine.m rsOs 0) 0).spec = false ∧ (callOf (operand srt Engine.m rsOs 0) 0).tag = 0 ∧ (callOf (operand srt Engine.m rsOs 0) 0).badIds = false ∧ (∀ x ∈ (callOf (operand srt Engine.m rsOs 0) 0).experts, (srt.cluster.expert srt.hand.ctx x).getLsbD 15 = true) ∧ srt.m.hdlStop srt.cur (hdlOf (lane (operand srt Engine.m rsOs 1) 1)) (some false) (some false) 0 0 = none ∧ BitVec.toNat (lane (operand srt Engine.m rsOs 1) 2) ≤ BitVec.toNat (lane (operand srt Engine.m rsOs 1) 3) + (callOf (operand srt Engine.m rsOs 0) 0).tid ∧ BitVec.toNat (lane (operand srt Engine.m rsOs 1) 3) + (callOf (operand srt Engine.m rsOs 0) 0).tid - BitVec.toNat (lane (operand srt Engine.m rsOs 1) 2) < (hdlOf (lane (operand srt Engine.m rsOs 1) 1)).rows ∧ srt.m.ownStop srt.cur (hdlOf (lane (operand srt Engine.m rsOs 1) 1)) (BitVec.toNat (lane (operand srt Engine.m rsOs 1) 3) + (callOf (operand srt Engine.m rsOs 0) 0).tid - BitVec.toNat (lane (operand srt Engine.m rsOs 1) 2)) 1 = none ∧ CmdRoom srt ∧ MayIssue srt Engine.m (Instr.rslv (wrtc 9 20 23)) (lateHdr (wrtc 9 20 23).hdr)) ∧
    resolve1.x.sptOf 1 9 5 = none ∧
    (resolve1.x.sptOf 1 9 3 = some (3, resolve2) ∧ resolve2.rowOf 6 = some (0, RowSt.mapped) ∧ resolve1.x.tent resolve2 0 = true) ∧
    (resolve3.x.sptOf 1 9 3 = some (3, resolve4) ∧ resolve4.rowOf 6 = some (0, RowSt.mapped) ∧ resolve3.x.tent resolve4 0 = false) ∧
    (resolve5.m.findCmd 0 3 = some resolve6 ∧ resolve6.adds = [resolve7]) := by
  refine ⟨?_, ?_, ?_, ?_, ?_⟩ <;> decide +kernel
theorem witness_Resolve_parts :
    (∀ p ∈ (callOf (operand srt Engine.m rsOs 0) 0).pairs, expertDest (srt.cluster.expert srt.hand.ctx p.1) (callOf (operand srt Engine.m rsOs 0) 0).tid = clusterOf srt.cur → ∀ (i : ℕ) (t : Spte), srt.cluster.sptOf srt.hand.ctx (BitVec.toNat (operand srt Engine.m rsOs 1) % 2 ^ 8) p.1 = some (i, t) → t.npend = 0 ∧ t.fst ≠ 3) ∧
    (∀ (k : ℕ), resolve5.m.rowError k = none) :=
  ⟨fun p hp _ i t h => by
    have w := (by decide +kernel : ∀ p ∈ (callOf (operand srt Engine.m rsOs 0) 0).pairs,
      ((srt.cluster.sptOf srt.hand.ctx (BitVec.toNat (operand srt Engine.m rsOs 1) % 2 ^ 8) p.1).all (fun q => q.2.npend == 0 && q.2.fst != 3)) = true) p hp
    rw [h] at w
    simpa using w, noErrors rfl rfl⟩

abbrev routing1 : VVI := ⟨hx, 9, 24, 0, false, 0⟩
abbrev routing2 : State := sfm (frm false 1)
abbrev routing3 : State := sfm (frm true 3)
abbrev routing4 : State := sfm (frm true 2)
abbrev routing5 : List Byte := List.replicate 64 0
abbrev routing6 : Mach := (sfm (frm false 1)).m
abbrev routing7 : Mach := (sfm (frm false 1) [] {id := 62, hand := 0, ctx := 1} ([(0x054, 0x10000)] ++ crt)).m
abbrev routing8 : Mach := (sfm (frm false 1) [] {id := 62, hand := 0, ctx := 1} ([(0x054, 0), (0x053, 0)] ++ crt)).m
abbrev routing9 : State := sfm (frm false 1) [61]
abbrev routing10 : Mach := ((sfm (frm false 1) [61]).m.fileFrame 100 (frm false 1)).1
abbrev routing11 : DispRec := { id := 62, hand := 0, ctx := 1, frames := 1, left := 1, res := 9 }
abbrev routing12 : State := sfm (frm false 1) [] {id := 62, hand := 0, ctx := 1, res := 9}
abbrev routing13 : DispRec := {id := 62, hand := 0, ctx := 1, res := 9}
theorem witness_Routing :
    (Sources srt Engine.m [{ reg := routing1.a.toNat, keep := routing1.ka : Opnd }] [routing1.d.toNat] ∧ (BitVec.ofNat 64 (BitVec.toNat (operand srt Engine.m [{ reg := routing1.a.toNat, keep := routing1.ka : Opnd }] 0) % 2 ^ 64)).toNat % 128 = 0 ∧ srt.m.ownSlice srt.cur (BitVec.ofNat 64 (BitVec.toNat (operand srt Engine.m [{ reg := routing1.a.toNat, keep := routing1.ka : Opnd }] 0) % 2 ^ 64)) 1024 = true ∧ BitVec.toNat (KMap.get 0 srt.cluster.cr 90) / 2 ^ 16 % 2 = 1 ∧ BitVec.toNat (KMap.get 0 srt.cluster.cr 90) % 2 ^ 16 = srt.hand.ctx ∧ srt.cluster.cntT ≠ srt.tb ∧ MayIssue srt Engine.m (Instr.rsnap routing1) routing1.hdr) ∧
    (Sources srt Engine.m [{ reg := (wrt 9 25 0).a.toNat, keep := (wrt 9 25 0).ka : Opnd }] [(wrt 9 25 0).d.toNat] ∧ (∀ j < 32, BitVec.getLsbD (lane (operand srt Engine.m [{ reg := (wrt 9 25 0).a.toNat, keep := (wrt 9 25 0).ka : Opnd }] 0) j) 31 = true → BitVec.toNat (lane (operand srt Engine.m [{ reg := (wrt 9 25 0).a.toNat, keep := (wrt 9 25 0).ka : Opnd }] 0) j) / 2 ^ 24 % 2 ^ 7 = 0 ∧ srt.m.emapOk srt.hand.ctx (BitVec.ofNat 16 (BitVec.toNat (lane (operand srt Engine.m [{ reg := (wrt 9 25 0).a.toNat, keep := (wrt 9 25 0).ka : Opnd }] 0) j))) = true) ∧ MayIssue srt Engine.m (Instr.emaps (wrt 9 25 0)) (wrt 9 25 0).hdr) ∧
    (List.findSome? (fun (p : ℕ × Cluster) => Option.map (fun (u : EmapUpd) => (p.1, u)) (List.find? (fun (u : EmapUpd) => u.id == 60) p.2.emapUpds)) (sup true).m.clusters = some (0, upd true) ∧ (upd true).landed = true ∧ (sup true).m.clPart 0 = ((sup true).m.ctx (upd true).ctx).part) ∧
    (List.findSome? (fun (p : ℕ × Cluster) => Option.map (fun (u : EmapUpd) => (p.1, u)) (List.find? (fun (u : EmapUpd) => u.id == 60) p.2.emapUpds)) (sup false).m.clusters = some (0, upd false) ∧ (upd false).landed = false ∧ (sup false).m.emapPending (upd false).ctx = []) ∧
    (Sources srt Engine.m [{ reg := (wrt 9 20 26).a.toNat, keep := (wrt 9 20 26).ka : Opnd }, { reg := (wrt 9 20 26).b.toNat, keep := (wrt 9 20 26).kb : Opnd }] [(wrt 9 20 26).d.toNat] ∧ 0 < srt.ctx.dlen ∧ (BitVec.ofNat 64 (BitVec.toNat (operand srt Engine.m [{ reg := (wrt 9 20 26).a.toNat, keep := (wrt 9 20 26).ka : Opnd }, { reg := (wrt 9 20 26).b.toNat, keep := (wrt 9 20 26).kb : Opnd }] 1) % 2 ^ 64)).toNat / 2 ^ 23 % 2 ^ 7 = clusterOf srt.cur ∧ (BitVec.ofNat 64 (BitVec.toNat (operand srt Engine.m [{ reg := (wrt 9 20 26).a.toNat, keep := (wrt 9 20 26).ka : Opnd }, { reg := (wrt 9 20 26).b.toNat, keep := (wrt 9 20 26).kb : Opnd }] 1) % 2 ^ 64)).toNat < 2 ^ 63 ∧ BitVec.toNat (lane (operand srt Engine.m [{ reg := (wrt 9 20 26).a.toNat, keep := (wrt 9 20 26).ka : Opnd }, { reg := (wrt 9 20 26).b.toNat, keep := (wrt 9 20 26).kb : Opnd }] 1) 2) % 4 = 0 ∧ BitVec.toNat (operand srt Engine.m [{ reg := (wrt 9 20 26).a.toNat, keep := (wrt 9 20 26).ka : Opnd }, { reg := (wrt 9 20 26).b.toNat, keep := (wrt 9 20 26).kb : Opnd }] 1) < 2 ^ 128 ∧ (∀ q ∈ List.filter (fun (c : Call) => c.n != 0) (callsOf (operand srt Engine.m [{ reg := (wrt 9 20 26).a.toNat, keep := (wrt 9 20 26).ka : Opnd }, { reg := (wrt 9 20 26).b.toNat, keep := (wrt 9 20 26).kb : Opnd }] 0)), q.zero = 0 ∧ q.flags < 2 ∧ (q.spec = false → q.tag = 0) ∧ q.badIds = false ∧ (∀ x ∈ q.experts, (srt.cluster.expert srt.hand.ctx x).getLsbD 15 = true) ∧ BitVec.toNat ((fun (q : Call) => BitVec.ofNat 64 (BitVec.toNat (operand srt Engine.m [{ reg := (wrt 9 20 26).a.toNat, keep := (wrt 9 20 26).ka : Opnd }, { reg := (wrt 9 20 26).b.toNat, keep := (wrt 9 20 26).kb : Opnd }] 1) % 2 ^ 64) + BitVec.ofInt 64 ((↑q.tid - ↑(BitVec.toNat (lane (operand srt Engine.m [{ reg := (wrt 9 20 26).a.toNat, keep := (wrt 9 20 26).ka : Opnd }, { reg := (wrt 9 20 26).b.toNat, keep := (wrt 9 20 26).kb : Opnd }] 1) 3))) * BitVec.toInt (lane (operand srt Engine.m [{ reg := (wrt 9 20 26).a.toNat, keep := (wrt 9 20 26).ka : Opnd }, { reg := (wrt 9 20 26).b.toNat, keep := (wrt 9 20 26).kb : Opnd }] 1) 2))) q) % 4 = 0 ∧ srt.m.spanStop srt.cur ((fun (q : Call) => BitVec.ofNat 64 (BitVec.toNat (operand srt Engine.m [{ reg := (wrt 9 20 26).a.toNat, keep := (wrt 9 20 26).ka : Opnd }, { reg := (wrt 9 20 26).b.toNat, keep := (wrt 9 20 26).kb : Opnd }] 1) % 2 ^ 64) + BitVec.ofInt 64 ((↑q.tid - ↑(BitVec.toNat (lane (operand srt Engine.m [{ reg := (wrt 9 20 26).a.toNat, keep := (wrt 9 20 26).ka : Opnd }, { reg := (wrt 9 20 26).b.toNat, keep := (wrt 9 20 26).kb : Opnd }] 1) 3))) * BitVec.toInt (lane (operand srt Engine.m [{ reg := (wrt 9 20 26).a.toNat, keep := (wrt 9 20 26).ka : Opnd }, { reg := (wrt 9 20 26).b.toNat, keep := (wrt 9 20 26).kb : Opnd }] 1) 2))) q) srt.ctx.dlen false = none) ∧ srt.m.phase srt.cur = true ∧ srt.hand.disps < 8 ∧ MayIssue srt Engine.m (Instr.disp (wrt 9 20 26)) (wrt 9 20 26).hdr) ∧
    (List.find? (fun (f : Frame) => f.id == 61) routing2.m.frames = some (frm false 1) ∧ routing2.m.frames = [frm false 1] ∧ (routing2.m.cluster (frm false 1).dst).heldFrames = [] ∧ ((frm false 1).late = true ∨ routing2.m.willDnext routing2.tb (frm false 1).dst (frm false 1).ctx = false) ∧ (frm false 1).good = true ∧ (routing2.m.fileFrame routing2.tb (frm false 1)).2 = true) ∧
    (List.find? (fun (f : Frame) => f.id == 61) routing3.m.frames = some (frm true 3) ∧ routing3.m.frames = [frm true 3] ∧ (routing3.m.cluster (frm true 3).dst).heldFrames = [] ∧ ((frm true 3).late = true ∨ routing3.m.willDnext routing3.tb (frm true 3).dst (frm true 3).ctx = false) ∧ (frm true 3).good = false ∧ 3 ≤ (frm true 3).sent) ∧
    (List.find? (fun (f : Frame) => f.id == 61) routing4.m.frames = some (frm true 2) ∧ routing4.m.frames = [frm true 2] ∧ (routing4.m.cluster (frm true 2).dst).heldFrames = [] ∧ ((frm true 2).late = true ∨ routing4.m.willDnext routing4.tb (frm true 2).dst (frm true 2).ctx = false) ∧ (frm true 2).good = false ∧ (frm true 2).sent < 3 ∧ routing4.m.readAt (frm true 2).ctx (frm true 2).rowAt (frm true 2).len false = Except.ok routing5) ∧
    routing6.winWord (frm false 1).ctx (frm false 1).dst (((routing6.ctx (frm false 1).ctx).region 82).2 + 4 * field (frm false 1).hdr (8 + 0) 1 * (((routing6.ctx (frm false 1).ctx).region 82).1 + 1)) < BitVec.toNat ((routing6.ctx (frm false 1).ctx).reg 84) % 2 ^ 16 ∧
    (BitVec.toNat ((routing7.ctx (frm false 1).ctx).reg 84) % 2 ^ 16 ≤ routing7.winWord (frm false 1).ctx (frm false 1).dst (((routing7.ctx (frm false 1).ctx).region 82).2 + 4 * field (frm false 1).hdr (8 + 0) 1 * (((routing7.ctx (frm false 1).ctx).region 82).1 + 1)) ∧ BitVec.getLsbD ((routing7.ctx (frm false 1).ctx).reg 84) 16 = true) ∧
    (BitVec.toNat ((routing8.ctx (frm false 1).ctx).reg 84) % 2 ^ 16 ≤ routing8.winWord (frm false 1).ctx (frm false 1).dst (((routing8.ctx (frm false 1).ctx).region 82).2 + 4 * field (frm false 1).hdr (8 + 0) 1 * (((routing8.ctx (frm false 1).ctx).region 82).1 + 1)) ∧ BitVec.getLsbD ((routing8.ctx (frm false 1).ctx).reg 84) 16 = false ∧ ((routing8.ctx (frm false 1).ctx).region 83).1 ≤ routing8.winWord (frm false 1).ctx (frm false 1).dst (((routing8.ctx (frm false 1).ctx).region 83).2 + 4 * field (frm false 1).hdr (8 + 0) 1 * (((routing8.ctx (frm false 1).ctx).region 83).1 + 1)) / 2 ^ 16) ∧
    (routing2.m.cluster 0).heldFrames = [] ∧
    ((routing9.m.cluster 0).heldFrames = [(frm false 1).id] ∧ List.find? (fun (g : Frame) => g.id == (frm false 1).id) routing9.m.frames = some (frm false 1) ∧ routing9.m.fileFrame routing9.tb (frm false 1) = (routing10, true)) ∧
    (List.find? (fun (d : DispRec) => d.id == 62) routing2.m.disps = some routing11 ∧ routing11.left ≠ 0) ∧
    (List.find? (fun (d : DispRec) => d.id == 62) routing12.m.disps = some routing13 ∧ routing13.left = 0) := by
  refine ⟨?_, ?_, ?_, ?_, ?_, ?_, ?_, ?_, ?_, ?_, ?_, ?_, ?_, ?_, ?_⟩ <;> decide +kernel
theorem witness_Routing_parts : ∀ (k : ℕ), srt.m.rowError k = none := noErrors rfl rfl

abbrev pbitWords1 : State := spb [] (some 1)
abbrev pbitWords2 : Z := ⟨hc, 0⟩
abbrev pbitWords4 : VVV := ⟨hc, 0, 20, 0, false, false, false, 0⟩
abbrev pbitWords5 : VVI := vviw 0 21 0x1FFF
abbrev pbitWords6 : State := spb [] (some 1) true
abbrev pbitWords7 : VVI := vviw 9 0 0x10FF
abbrev pbitWords8 : State := spb [] (some 2)
theorem witness_PbitWords :
    ((spb.hand.streg (mcw 1023 1).stream.toNat).toNat % 128 = 0 ∧ stField (spb.hand.streg (mcw 1023 1).stream.toNat) 64 32 % 128 = 0 ∧ (∀ i < 16 * (mcw 1023 1).count.toNat, spb.m.ownSlice spb.cur (stRowAt (spb.hand.streg (mcw 1023 1).stream.toNat) i) 256 = true) ∧ PbitMay spb ∧ MayIssue spb Engine.m (Instr.pbld (mcw 1023 1)) (lateHdr (mcw 1023 1).hdr) ∧ 1 ≠ dieOf (clusterOf spb.cur) ∧ (spb.m.die (dieOf (clusterOf spb.cur))).queue = []) ∧
    (PbitMay pbitWords1 ∧ MayIssue pbitWords1 Engine.m (Instr.pbclr pbitWords2) (lateHdr pbitWords2.hdr) ∧ 1 ≠ dieOf (clusterOf pbitWords1.cur) ∧ (pbitWords1.m.die (dieOf (clusterOf pbitWords1.cur))).queue = []) ∧
    (Sources spb Engine.m [{ reg := pbitWords4.a.toNat, keep := pbitWords4.ka : Opnd }] [] ∧ (∀ j < 32, BitVec.toNat (lane (operand spb Engine.m [{ reg := pbitWords4.a.toNat, keep := pbitWords4.ka : Opnd }] 0) j) < 2 ^ 16) ∧ PbitMay spb ∧ MayIssue spb Engine.m (Instr.pbclmp pbitWords4) (lateHdr pbitWords4.hdr) ∧ 1 ≠ dieOf (clusterOf spb.cur) ∧ (spb.m.die (dieOf (clusterOf spb.cur))).queue = []) ∧
    (Sources spb Engine.m [{ reg := pbitWords5.a.toNat, keep := pbitWords5.ka : Opnd }] [] ∧ BitVec.toNat (operand spb Engine.m [{ reg := pbitWords5.a.toNat, keep := pbitWords5.ka : Opnd }] 0) < 2 ^ 16 ∧ PbitMay spb ∧ MayIssue spb Engine.m (Instr.pbswp pbitWords5) (lateHdr pbitWords5.hdr) ∧ (spb.m.die (dieOf (clusterOf spb.cur))).bad = false ∧ 1 ≠ dieOf (clusterOf spb.cur) ∧ (spb.m.die (dieOf (clusterOf spb.cur))).queue = []) ∧
    (Sources pbitWords6 Engine.m [{ reg := (vviw 0 21 3).a.toNat, keep := (vviw 0 21 3).ka : Opnd }] [] ∧ BitVec.toNat (operand pbitWords6 Engine.m [{ reg := (vviw 0 21 3).a.toNat, keep := (vviw 0 21 3).ka : Opnd }] 0) < 2 ^ 16 ∧ PbitMay pbitWords6 ∧ MayIssue pbitWords6 Engine.m (Instr.pbswp (vviw 0 21 3)) (lateHdr (vviw 0 21 3).hdr) ∧ (pbitWords6.m.die (dieOf (clusterOf pbitWords6.cur))).bad = true) ∧
    (spb.hand.queueStop [] [pbitWords7.d.toNat] = none ∧ PbitMay spb ∧ MayIssue spb Engine.m (Instr.pbrd pbitWords7) (lateHdr pbitWords7.hdr) ∧ 1 ≠ dieOf (clusterOf spb.cur) ∧ (spb.m.die (dieOf (clusterOf spb.cur))).queue = []) ∧
    (PbitMay spb ∧ MayIssue spb Engine.m (Instr.pbseed (vviw 0 22 0)) (lateHdr (vviw 0 22 0).hdr) ∧ (vviw 0 22 0).imm.getLsbD 0 = false ∧ Sources spb Engine.m [{ reg := (vviw 0 22 0).a.toNat, keep := (vviw 0 22 0).ka : Opnd }] [] ∧ 1 ≠ dieOf (clusterOf spb.cur) ∧ (spb.m.die (dieOf (clusterOf spb.cur))).queue = []) ∧
    (PbitMay spb ∧ MayIssue spb Engine.m (Instr.pbseed (vviw 0 0 1)) (lateHdr (vviw 0 0 1).hdr) ∧ (vviw 0 0 1).imm.getLsbD 0 = true ∧ 1 ≠ dieOf (clusterOf spb.cur) ∧ (spb.m.die (dieOf (clusterOf spb.cur))).queue = []) ∧
    ((pbitWords8.m.die (dieOf (clusterOf pbitWords8.cur))).owner = some 2 ∧ 2 ≠ pbitWords8.hand.ctx ∧ (Instr.pbclr pbitWords2).check = none ∧ pbitWords8.hand.popStop pbitWords8.tb (popFifo Engine.m pbitWords2.hdr.pop) = none) := by
  refine ⟨?_, ?_, ?_, ?_, ?_, ?_, ?_, ?_, ?_⟩ <;> decide +kernel

abbrev pbitCommands1 : State := spb [pcmd (.swp 0xFFF0 4)]
abbrev pbitCommands2 : PbCmd := pcmd (.swp 0xFFF0 4)
abbrev pbitCommands3 : List PbCmd := []
abbrev pbitCommands4 : State := spb [pcmd .clr, pcmd .clr]
abbrev pbitCommands5 : List PbCmd := [pcmd .clr]
abbrev pbitCommands8 : State := spb [pcmd (.rd true 0 9)]
abbrev pbitCommands9 : PbCmd := pcmd (.rd true 0 9)
abbrev pbitCommands12 : State := spb [pcmd (.seed true 0)]
abbrev pbitCommands13 : PbCmd := pcmd (.seed true 0)
abbrev pbitCommands14 : State := spb [pcmd (.seed false 5)]
abbrev pbitCommands15 : PbCmd := pcmd (.seed false 5)
abbrev pbitCommands18 : PCell := KMap.get {} pcs 3
abbrev pbitCommands20 : State := spb [pcmd (.swp 0xFFF0 4) true 1]
abbrev pbitCommands21 : PbCmd := pcmd (.swp 0xFFF0 4) true 1
abbrev pbitCommands24 : State := spb [pcmd (.rd true 0 9) true, pcmd .clr]
abbrev pbitCommands25 : PbCmd := pcmd (.rd true 0 9) true
abbrev pbitCommands26 : PbCmd := pcmd .clr
abbrev pbitCommands27 : State := spb [pcmd (.clmp clmpV)]
abbrev pbitCommands28 : PbCmd := pcmd (.clmp clmpV)
abbrev pbitCommands29 : State := spb [pcmd (.ld ldSt 1 1)]
abbrev pbitCommands30 : PbCmd := pcmd (.ld ldSt 1 1)
abbrev pbitCommands31 : List ℕ := (match spb.m.sliceBytes 0 0x2000 256 with | .ok p => p.2 | _ => [])
theorem witness_PbitCommands :
    ((pbitCommands4.m.die 0).queue = pcmd PbOp.clr :: pbitCommands5 ∧ (pcmd PbOp.clr).started = false ∧ (pcmd PbOp.clr).op = PbOp.clr) ∧
    ((pbitCommands8.m.die 0).queue = pbitCommands9 :: pbitCommands3 ∧ pbitCommands9.started = false ∧ pbitCommands9.op = PbOp.rd true 0 9) ∧
    pbitCommands18.clamp = 0 ∧
    ((pbitCommands20.m.die 0).queue = pbitCommands21 :: pbitCommands3 ∧ pbitCommands21.op = PbOp.swp 65520 4 ∧ pbitCommands21.started = true ∧ pbitCommands21.left ≠ 0 ∧ (pbitCommands20.m.die 0).det = true ∧ pbitCommands21.stop = false) ∧
    ((pbitCommands24.m.die 0).queue = pbitCommands25 :: pbitCommands26 :: pbitCommands3 ∧ pbitCommands25.started = true ∧ pbitCommands26.started = false) ∧
    ((pbitCommands27.m.die 0).queue = pbitCommands28 :: pbitCommands3 ∧ pbitCommands28.started = false ∧ pbitCommands28.op = PbOp.clmp clmpV ∧ (∀ j < 32, BitVec.toNat (lane clmpV j) % 2 ^ 14 = 1 → BitVec.toNat (lane clmpV j) / 2 ^ 14 % 4 = 1)) ∧
    ((pbitCommands29.m.die 0).queue = pbitCommands30 :: pbitCommands3 ∧ pbitCommands30.started = false ∧ pbitCommands30.op = PbOp.ld ldSt 1 1 ∧ pbitCommands29.m.sliceBytes pbitCommands30.hand (stRowAt ldSt 3) 256 = Except.ok (cellBs 2, pbitCommands31)) ∧
    ((pbitCommands1.m.die 0).queue = pbitCommands2 :: pbitCommands3 ∧ pbitCommands2.started = false ∧ pbitCommands2.op = PbOp.swp 65520 4 ∧ pbitCommands2.left = 0) ∧
    ((pbitCommands12.m.die 0).queue = pbitCommands13 :: pbitCommands3 ∧ pbitCommands13.started = false ∧ pbitCommands13.op = PbOp.seed true 0) ∧
    ((pbitCommands14.m.die 0).queue = pbitCommands15 :: pbitCommands3 ∧ pbitCommands15.started = false ∧ pbitCommands15.op = PbOp.seed false 5) := by
  refine ⟨?_, ?_, ?_, ?_, ?_, ?_, ?_, ?_, ?_, ?_⟩ <;> decide +kernel
theorem witness_PbitCommands_parts :
    (∀ (j' : ℕ), 1 < j' → j' < 32 → BitVec.toNat (lane clmpV j') % 2 ^ 14 ≠ BitVec.toNat (lane clmpV 1) % 2 ^ 14) ∧
    (∀ (k : ℕ), pbitCommands29.m.rowError k = none) ∧
    (∀ i < 16 * 1, ∃ (bs : List Byte) (ks : List ℕ), pbitCommands29.m.sliceBytes pbitCommands30.hand (stRowAt ldSt i) 256 = Except.ok (bs, ks) ∧ (cellOf bs (KMap.get { : PCell } (pbitCommands29.m.die 0).cells (16 * 1 + i)).x).isSome = true) :=
  ⟨fun j h1 h2 => (by decide +kernel : ∀ j < 32, 1 < j → (lane clmpV j).toNat % 2 ^ 14 ≠ (lane clmpV 1).toNat % 2 ^ 14) j h2 h1, noErrors rfl rfl, fun i hi => okPair ((by decide +kernel : ∀ i < 16 * 1, okP (pbitCommands29.m.sliceBytes pbitCommands30.hand (stRowAt ldSt i) 256) (fun bs => (cellOf bs (KMap.get {} (pbitCommands29.m.die 0).cells (16 * 1 + i)).x).isSome) = true) i hi)⟩

abbrev queueEntries1 : State := sqe (qent 3 0) 2
abbrev queueEntries2 : Mach := wr1 (sqe (qent 3 5)).m 0x14028 (leBytes 8 7)
abbrev queueEntries5 : State := sqe (qent 1 5) 1 (lrec 0 1)
abbrev queueEntries6 : State := sqe (qent 1 5) 1 (lrec 0)
abbrev queueEntries7 : Launch := (launchOf (fun _ => 0) 1 (lrec 0)).getD lex
abbrev queueEntries8 : State := sqe (qent 1 5) 1 (lrec 0) [(0, {ctx := 2})]
abbrev queueEntries10 : State := sqe ((qent 4 0).set 1 1)
abbrev queueEntries11 : List Byte := (qent 4 0).set 1 1
abbrev queueEntries12 : Mach := (sqe (qent 4 0)).m
abbrev queueEntries13 : Mach := ((sqe (qent 4 0)).m.entryStatus 100 1 0x16000 1 0).toOption.getD {}
abbrev queueEntries14 : State := st_ []
abbrev queueEntries15 : Mach := (st_ []).m
/-- A SIGNAL whose status address has no page; a LAUNCH whose record is no virtual address, and one that is not aligned. -/
abbrev queueEntries16 : List Byte := [3, 0, 0, 0] ++ leBytes 4 5 ++ leBytes 8 7 ++ leBytes 8 0 ++ leBytes 8 0x8000008000000000 ++ leBytes 32 0
abbrev queueEntries17 : State := sqe queueEntries16
theorem witness_QueueEntries_faults :
    (queueEntries17.m.slot? 6 = some qsl ∧ entryBad queueEntries16 = false ∧ field queueEntries16 0 1 = 3 ∧ field queueEntries16 4 4 ≠ 0 ∧
      (queueEntries17.m.readAt 1 (0x14000 + 40) 8 false).isOk = true ∧ (queueEntries17.m.writeAt 1 (0x14000 + 40) (leBytes 8 7) false).isOk = true ∧
      (queueEntries17.m.entryStatus 100 1 0x8000008000000000 1 0).isOk = false) ∧
    ((sqe (qent 3 5)).m.entryStatus 100 1 0x16000 1 0).isOk = true ∧
    (∀ va ∈ [0x15000, 0x8000000000015004], (sqe (qent 1 5 7 va)).m.slot? 6 = some qsl ∧ entryBad (qent 1 5 7 va) = false ∧ field (qent 1 5 7 va) 0 1 = 1 ∧
      ((BitVec.ofNat 64 (field (qent 1 5 7 va) 16 8)).toNat % 128 ≠ 0 ∨ (BitVec.ofNat 64 (field (qent 1 5 7 va) 16 8)).getLsbD 63 = false)) := by
  refine ⟨?_, ?_, ?_⟩ <;> decide +kernel
theorem witness_QueueEntries :
    ((sqe (qent 4 0)).m.slot? 6 = some qsl ∧ (qsl.st = 1 ∨ qsl.st = 2) ∧ (∃ (d : List Byte), (sqe (qent 4 0)).m.desc qsl.ctx qsl.q = some d ∧ (sqe (qent 4 0)).m.readAt qsl.ctx (entryAddr d qsl.rd) 64 false = Except.ok (qent 4 0)) ∧ entryBad (qent 4 0) = false ∧ field (qent 4 0) 0 1 = 4) ∧
    (queueEntries1.m.slot? 6 = some (qsl 2) ∧ ((qsl 2).st = 1 ∨ (qsl 2).st = 2) ∧ (∃ (d : List Byte), queueEntries1.m.desc (qsl 2).ctx (qsl 2).q = some d ∧ queueEntries1.m.readAt (qsl 2).ctx (entryAddr d (qsl 2).rd) 64 false = Except.ok (qent 3 0)) ∧ entryBad (qent 3 0) = false ∧ field (qent 3 0) 0 1 = 3 ∧ field (qent 3 0) 4 4 = 0) ∧
    ((sqe (qent 3 5)).m.slot? 6 = some qsl ∧ (qsl.st = 1 ∨ qsl.st = 2) ∧ (∃ (d : List Byte), (sqe (qent 3 5)).m.desc qsl.ctx qsl.q = some d ∧ (sqe (qent 3 5)).m.readAt qsl.ctx (entryAddr d qsl.rd) 64 false = Except.ok (qent 3 5)) ∧ entryBad (qent 3 5) = false ∧ field (qent 3 5) 0 1 = 3 ∧ field (qent 3 5) 4 4 ≠ 0 ∧ (sqe (qent 3 5)).m.readAt qsl.ctx (((sqe (qent 3 5)).m.ctx qsl.ctx).reg 124 + BitVec.ofNat 64 (8 * field (qent 3 5) 4 4)) 8 false = Except.ok (leBytes 8 0) ∧ (sqe (qent 3 5)).m.writeAt qsl.ctx (((sqe (qent 3 5)).m.ctx qsl.ctx).reg 124 + BitVec.ofNat 64 (8 * field (qent 3 5) 4 4)) (leBytes 8 (leNat (leBytes 8 0) + field (qent 3 5) 8 8)) false = Except.ok queueEntries2) ∧
    ((sqe (qent 2 0)).m.slot? 6 = some qsl ∧ (qsl.st = 1 ∨ qsl.st = 2) ∧ (∃ (d : List Byte), (sqe (qent 2 0)).m.desc qsl.ctx qsl.q = some d ∧ (sqe (qent 2 0)).m.readAt qsl.ctx (entryAddr d qsl.rd) 64 false = Except.ok (qent 2 0)) ∧ entryBad (qent 2 0) = false ∧ field (qent 2 0) 0 1 = 2 ∧ field (qent 2 0) 4 4 = 0) ∧
    ((sqe (qent 2 5)).m.slot? 6 = some qsl ∧ (qsl.st = 1 ∨ qsl.st = 2) ∧ (∃ (d : List Byte), (sqe (qent 2 5)).m.desc qsl.ctx qsl.q = some d ∧ (sqe (qent 2 5)).m.readAt qsl.ctx (entryAddr d qsl.rd) 64 false = Except.ok (qent 2 5)) ∧ entryBad (qent 2 5) = false ∧ field (qent 2 5) 0 1 = 2 ∧ field (qent 2 5) 4 4 ≠ 0 ∧ (sqe (qent 2 5)).m.readAt qsl.ctx (((sqe (qent 2 5)).m.ctx qsl.ctx).reg 124 + BitVec.ofNat 64 (8 * field (qent 2 5) 4 4)) 8 false = Except.ok (leBytes 8 0)) ∧
    (queueEntries5.m.slot? 6 = some qsl ∧ (qsl.st = 1 ∨ qsl.st = 2) ∧ (∃ (d : List Byte), queueEntries5.m.desc qsl.ctx qsl.q = some d ∧ queueEntries5.m.readAt qsl.ctx (entryAddr d qsl.rd) 64 false = Except.ok (qent 1 5)) ∧ entryBad (qent 1 5) = false ∧ field (qent 1 5) 0 1 = 1 ∧ (BitVec.ofNat 64 (field (qent 1 5) 16 8)).toNat % 128 = 0 ∧ (BitVec.ofNat 64 (field (qent 1 5) 16 8)).getLsbD 63 = true ∧ queueEntries5.m.readAt qsl.ctx (BitVec.ofNat 64 (field (qent 1 5) 16 8)) 128 false = Except.ok (lrec 0 1) ∧ launchOf ((queueEntries5.m.ctx qsl.ctx).svRead queueEntries5.tb) qsl.ctx (lrec 0 1) = none) ∧
    (queueEntries6.m.slot? 6 = some qsl ∧ (qsl.st = 1 ∨ qsl.st = 2) ∧ (∃ (d : List Byte), queueEntries6.m.desc qsl.ctx qsl.q = some d ∧ queueEntries6.m.readAt qsl.ctx (entryAddr d qsl.rd) 64 false = Except.ok (qent 1 5)) ∧ entryBad (qent 1 5) = false ∧ field (qent 1 5) 0 1 = 1 ∧ (BitVec.ofNat 64 (field (qent 1 5) 16 8)).toNat % 128 = 0 ∧ (BitVec.ofNat 64 (field (qent 1 5) 16 8)).getLsbD 63 = true ∧ queueEntries6.m.readAt qsl.ctx (BitVec.ofNat 64 (field (qent 1 5) 16 8)) 128 false = Except.ok (lrec 0) ∧ launchOf ((queueEntries6.m.ctx qsl.ctx).svRead queueEntries6.tb) qsl.ctx (lrec 0) = some queueEntries7 ∧ (∀ c < 72, queueEntries7.cset.testBit c = true → queueEntries6.m.inPart qsl.ctx c = true) ∧ (∀ r ∈ queueEntries7.members, (queueEntries6.m.hand r).ctx = qsl.ctx) ∧ 0 < queueEntries7.total ∧ (queueEntries6.m.ctx qsl.ctx).kept = [] ∧ queueEntries7.onDie 0 ≠ []) ∧
    (queueEntries8.m.slot? 6 = some qsl ∧ (qsl.st = 1 ∨ qsl.st = 2) ∧ (∃ (d : List Byte), queueEntries8.m.desc qsl.ctx qsl.q = some d ∧ queueEntries8.m.readAt qsl.ctx (entryAddr d qsl.rd) 64 false = Except.ok (qent 1 5)) ∧ entryBad (qent 1 5) = false ∧ field (qent 1 5) 0 1 = 1 ∧ (BitVec.ofNat 64 (field (qent 1 5) 16 8)).toNat % 128 = 0 ∧ (BitVec.ofNat 64 (field (qent 1 5) 16 8)).getLsbD 63 = true ∧ queueEntries8.m.readAt qsl.ctx (BitVec.ofNat 64 (field (qent 1 5) 16 8)) 128 false = Except.ok (lrec 0) ∧ launchOf ((queueEntries8.m.ctx qsl.ctx).svRead queueEntries8.tb) qsl.ctx (lrec 0) = some queueEntries7 ∧ (∀ c < 72, queueEntries7.cset.testBit c = true → queueEntries8.m.inPart qsl.ctx c = true) ∧ queueEntries7.members = [0] ∧ (queueEntries8.m.hand 0).ctx ≠ 0 ∧ (queueEntries8.m.hand 0).ctx ≠ qsl.ctx ∧ (queueEntries8.m.part (queueEntries8.m.partOf 0)).rpMode ≠ 2 ∧ qsl.asked = [] ∧ (queueEntries8.m.ctx qsl.ctx).kept = []) ∧
    (queueEntries10.m.slot? 6 = some qsl ∧ (qsl.st = 1 ∨ qsl.st = 2) ∧ (∃ (d : List Byte), queueEntries10.m.desc qsl.ctx qsl.q = some d ∧ queueEntries10.m.readAt qsl.ctx (entryAddr d qsl.rd) 64 false = Except.ok queueEntries11) ∧ entryBad queueEntries11 = true ∧ field queueEntries11 0 1 = 4 ∧ queueEntries10.m.desc qsl.ctx qsl.q = some qdesc) ∧
    queueEntries12.entryStatus 100 qsl.ctx 90112 1 0 = Except.ok queueEntries13 ∧
    queueEntries12.dev.slots = [(6, qsl)] ∧
    ((∀ p ∈ queueEntries12.dev.slots, p.1 < 64) ∧ queueEntries12.nextSlot 100 = some 6) ∧
    (queueEntries14.m.dev.slots = [] ∧ queueEntries14.m.dev.ending = [] ∧ queueEntries14.m.dev.held = [] ∧ queueEntries14.m.toMap = [] ∧ (∀ p ∈ queueEntries14.m.agenda, p.2 ≠ Instr.queueSchedulerPass)) ∧
    queueEntries15.slot? 0 = none ∧
    ((∀ p ∈ queueEntries12.dev.slots, p.1 < 64) ∧ queueEntries12.nextSlot 200 = some 6) := by
  refine ⟨?_, ?_, ?_, ?_, ?_, ?_, ?_, ?_, ?_, ?_, ?_, ?_, ?_, ?_, ?_⟩ <;> decide +kernel

abbrev dealing1 : State := sdl ldl true false
abbrev dealing2 : State := sdl ldl true false 101
abbrev dealing4 : Mach := (sdl {ldl with cores := 1} false false).m
abbrev dealing5 : Launch := {ldl with cores := 1}
abbrev dealing6 : Mach := (sdl {ldl with cores := 1} true false).m
abbrev dealing7 : State := sdl {ldl with next := 5, running := 0} false false
abbrev dealing8 : Launch := {ldl with next := 5, running := 0}
abbrev dealing9 : Mach := (((sdl {ldl with next := 5, running := 0} false false).m.modDev (fun d => { d with launches := [] })).signal 1 5 1).toOption.getD {}
abbrev dealing10 : Launch := {ldl with extents := [2,3,4,5]}
abbrev dealing11 : Launch := {ldl with extents := [2,3,4,5], order := 1}
abbrev dealing12 : Launch := {ldl with extents := [5,3], order := 2}
theorem witness_Dealing :
    (dealing1.m.dev.launches = [ldl] ∧ ldl.prio < 8 ∧ ldl.teams = [] ∧ ldl.notBefore ≤ dealing1.tb ∧ ldl.costart = false ∧ ldl.next + 1 < ldl.total ∧ (dealing1.m.die 0).dealtAt ≠ dealing1.tb + 1 ∧ (dealing1.m.part (dealing1.m.ctx ldl.ctx).part).rpMode ≠ 2 ∧ (∀ p ∈ dealing1.m.ctxs, p.2.moves = []) ∧ 2 ∈ ldl.members ∧ dieOf (clusterOf 2) = 0 ∧ dealing1.m.freeFor dealing1.tb 2 ldl = true ∧ (∀ q ∈ ldl.members, dieOf (clusterOf q) = 0 → q < 2 → dealing1.m.freeFor dealing1.tb q ldl = false) ∧ KMap.get 0 dealing1.m.active (coreOf 2) = 2 % 2) ∧
    (dealing2.m.die 0).dealtAt = dealing2.tb + 1 ∧
    (ldl.preload.length = 4 ∧ (∀ b ∈ ldl.preload, b < 256)) ∧
    ((∀ p ∈ dealing4.ctxs, p.2.moves = []) ∧ List.filter (fun (q : ℕ) => clusterOf q == 0) dealing5.members = [0] ∧ dealing4.freeFor 100 0 dealing5 = true) ∧
    ((∀ p ∈ dealing6.ctxs, p.2.moves = []) ∧ List.filter (fun (q : ℕ) => clusterOf q == 0) dealing5.members = [0] ∧ dealing6.freeFor 100 0 dealing5 = false) ∧
    (dealing1.m.launch? 4 = some ldl ∧ (ldl.left = true ∨ ldl.running ≠ 0)) ∧
    (dealing7.m.launch? 4 = some dealing8 ∧ dealing8.left = false ∧ dealing8.running = 0 ∧ dealing8.slot = some 6 ∧ dealing7.m.slot? 6 = some (qsl 3) ∧ (dealing7.m.modDev fun (d : Dev) => { tboff := d.tboff, tbsync := d.tbsync, bootst := d.bootst, fabid := d.fabid, cxlst := d.cxlst, cxlGib := d.cxlGib, uePort := d.uePort, retired := d.retired, zones := d.zones, launches := List.filter (fun (y : Launch) => y.id != 4) d.launches, slots := d.slots, lastSlot := d.lastSlot, passNo := d.passNo, hosts := d.hosts, dropped := d.dropped, held := d.held, ending := d.ending, answers := d.answers, fuses := d.fuses, revoked := d.revoked, sigBudget := d.sigBudget, digests := d.digests, svns := d.svns, errors := d.errors, peerOps := d.peerOps, fabBars := d.fabBars : Dev }).signal dealing8.ctx dealing8.event 1 = Except.ok dealing9) ∧
    (dealing10.extents = [2, 3, 4, 5] ∧ dealing10.order = 0) ∧
    (dealing11.extents = [2, 3, 4, 5] ∧ dealing11.order = 1) ∧
    (dealing12.order = 2 ∧ dealing12.extents = [5, 3]) := by
  refine ⟨?_, ?_, ?_, ?_, ?_, ?_, ?_, ?_, ?_, ?_⟩ <;> decide +kernel

abbrev hostMessages1 : List Byte := List.replicate 128 5
abbrev hostMessages2 : Mach := wr1 (shm.m.modCtx 1 (fun x => {x with jctSeq := x.jctSeq.set 2 5})) 0x2000 (List.replicate 128 5)
abbrev hostMessages3 : FaultRec := (match shm.m.writeAt 1 0x8000000000002000 (List.replicate 128 5) false with | .error f => f | _ => ⟨0,0,[]⟩)
abbrev hostMessages4 : List Byte := List.replicate 8 0
abbrev hostMessages5 : FaultRec := (match shm.m.readAt 1 0x8000000000002000 8 false with | .error f => f | _ => ⟨0,0,[]⟩)
abbrev hostMessages6 : JctHdr := ⟨2, 5, 0⟩
abbrev hostMessages7 : JctHdr := ⟨2, 0, 0⟩
abbrev hostMessages8 : JctHdr := ⟨1, 5, 0⟩
abbrev hostMessages10 : JctHdr := ⟨2, 1, 3⟩
abbrev hostMessages11 : JctHdr := ⟨2, 1, 6⟩
abbrev hostMessages12 : Mach := (shq []).m
abbrev hostMessages13 : Mach := (shq [(6, qsl 0)]).m
theorem witness_HostMessages :
    (shm.m.dev.held = [] ∧ (shm.m.ctx jh.ctx).live = true ∧ jh.seq = (shm.m.ctx jh.ctx).expected jh.src ∧ (shm.m.part (shm.m.ctx jh.ctx).part).rpMode = 0 ∧ shm.m.hostRefuses jh.ctx 0 0 = false ∧ shm.m.role jh.src = some 2) ∧
    (shm.m.dev.held = [] ∧ (shm.m.ctx jh.ctx).live = true ∧ jh.seq = (shm.m.ctx jh.ctx).expected jh.src ∧ (shm.m.part (shm.m.ctx jh.ctx).part).rpMode = 0 ∧ hostMessages1.length % 128 = 0 ∧ hostMessages1 ≠ [] ∧ hostMessages1.length ≤ 4096 ∧ (shm.m.modCtx jh.ctx fun (x : Ctx) => { live := x.live, part := x.part, saved := x.saved, ended := x.ended, cr := x.cr, sv := x.sv, svOld := x.svOld, svT := x.svT, mkcur := x.mkcur, ttwr := x.ttwr, ttrd := x.ttrd, ttmiss := x.ttmiss, ttlate := x.ttlate, ttMks := x.ttMks, moves := x.moves, flags := x.flags, flagWaits := x.flagWaits, phases := x.phases, barriers := x.barriers, kept := x.kept, out := x.out, agent := x.agent, images := x.images, clrWaits := x.clrWaits, jctSeq := x.jctSeq.set jh.src (jh.seq + 1) : Ctx }).writeAt jh.ctx 8192 hostMessages1 false = Except.ok hostMessages2) ∧
    (shm.m.dev.held = [] ∧ (shm.m.ctx jh.ctx).live = true ∧ jh.seq = (shm.m.ctx jh.ctx).expected jh.src ∧ (shm.m.part (shm.m.ctx jh.ctx).part).rpMode = 0 ∧ hostMessages1.length % 128 = 0 ∧ hostMessages1 ≠ [] ∧ hostMessages1.length ≤ 4096 ∧ (shm.m.modCtx jh.ctx fun (x : Ctx) => { live := x.live, part := x.part, saved := x.saved, ended := x.ended, cr := x.cr, sv := x.sv, svOld := x.svOld, svT := x.svT, mkcur := x.mkcur, ttwr := x.ttwr, ttrd := x.ttrd, ttmiss := x.ttmiss, ttlate := x.ttlate, ttMks := x.ttMks, moves := x.moves, flags := x.flags, flagWaits := x.flagWaits, phases := x.phases, barriers := x.barriers, kept := x.kept, out := x.out, agent := x.agent, images := x.images, clrWaits := x.clrWaits, jctSeq := x.jctSeq.set jh.src (jh.seq + 1) : Ctx }).writeAt jh.ctx 9223372036854784000 hostMessages1 false = Except.error hostMessages3) ∧
    (shm.m.dev.held = [] ∧ (shm.m.ctx jh.ctx).live = true ∧ jh.seq = (shm.m.ctx jh.ctx).expected jh.src ∧ (shm.m.part (shm.m.ctx jh.ctx).part).rpMode = 0 ∧ (shm.m.modCtx jh.ctx fun (x : Ctx) => { live := x.live, part := x.part, saved := x.saved, ended := x.ended, cr := x.cr, sv := x.sv, svOld := x.svOld, svT := x.svT, mkcur := x.mkcur, ttwr := x.ttwr, ttrd := x.ttrd, ttmiss := x.ttmiss, ttlate := x.ttlate, ttMks := x.ttMks, moves := x.moves, flags := x.flags, flagWaits := x.flagWaits, phases := x.phases, barriers := x.barriers, kept := x.kept, out := x.out, agent := x.agent, images := x.images, clrWaits := x.clrWaits, jctSeq := x.jctSeq.set jh.src (jh.seq + 1) : Ctx }).readAt jh.ctx 8192 8 false = Except.ok hostMessages4) ∧
    (shm.m.dev.held = [] ∧ (shm.m.ctx jh.ctx).live = true ∧ jh.seq = (shm.m.ctx jh.ctx).expected jh.src ∧ (shm.m.part (shm.m.ctx jh.ctx).part).rpMode = 0 ∧ (shm.m.modCtx jh.ctx fun (x : Ctx) => { live := x.live, part := x.part, saved := x.saved, ended := x.ended, cr := x.cr, sv := x.sv, svOld := x.svOld, svT := x.svT, mkcur := x.mkcur, ttwr := x.ttwr, ttrd := x.ttrd, ttmiss := x.ttmiss, ttlate := x.ttlate, ttMks := x.ttMks, moves := x.moves, flags := x.flags, flagWaits := x.flagWaits, phases := x.phases, barriers := x.barriers, kept := x.kept, out := x.out, agent := x.agent, images := x.images, clrWaits := x.clrWaits, jctSeq := x.jctSeq.set jh.src (jh.seq + 1) : Ctx }).readAt jh.ctx 9223372036854784000 8 false = Except.error hostMessages5) ∧
    (shm.m.dev.held = [] ∧ (shm.m.ctx jh.ctx).live = true ∧ jh.seq = (shm.m.ctx jh.ctx).expected jh.src ∧ (shm.m.part (shm.m.ctx jh.ctx).part).rpMode = 0 ∧ shm.m.hostRefuses jh.ctx 33 0 = false ∧ cregRing 33 ≤ 1 ∧ shm.m.cregStop { k := jh.ctx, r := shm.m.hostHand jh.ctx 0 : Who } 33 77 = none ∧ (shm.m.modCtx jh.ctx fun (x : Ctx) => { live := x.live, part := x.part, saved := x.saved, ended := x.ended, cr := x.cr, sv := x.sv, svOld := x.svOld, svT := x.svT, mkcur := x.mkcur, ttwr := x.ttwr, ttrd := x.ttrd, ttmiss := x.ttmiss, ttlate := x.ttlate, ttMks := x.ttMks, moves := x.moves, flags := x.flags, flagWaits := x.flagWaits, phases := x.phases, barriers := x.barriers, kept := x.kept, out := x.out, agent := x.agent, images := x.images, clrWaits := x.clrWaits, jctSeq := x.jctSeq.set jh.src (jh.seq + 1) : Ctx }).cregStop { k := jh.ctx, r := shm.m.hostHand jh.ctx 0 : Who } 33 77 = none) ∧
    (shm.m.dev.held = [] ∧ shm.m.role hostMessages6.src = some 2 ∧ (shm.m.ctx hostMessages6.ctx).live = false ∧ hostMessages6.seq = 0 ∧ (shm.m.part 0).rpMode = 0 ∧ 0 < hostMessages6.ctx ∧ hostMessages6.ctx < 65536 ∧ (shm.m.ctx hostMessages6.ctx).ended = false ∧ (∃ c < 72, shm.m.clPart c = 0) ∧ (List.filter (fun (x : ℕ × Ctx) => x.2.live || x.2.ended) shm.m.ctxs).length < 4096) ∧
    (shm.m.dev.held = [] ∧ shm.m.role hostMessages7.src = some 2 ∧ (shm.m.ctx hostMessages7.ctx).live = false ∧ (hostMessages7.ctx = 0 ∨ (shm.m.ctx hostMessages7.ctx).ended = true)) ∧
    (shm.m.dev.held = [] ∧ shm.m.role hostMessages6.src = some 2 ∧ (shm.m.ctx hostMessages6.ctx).live = false ∧ 0 < hostMessages6.ctx ∧ hostMessages6.ctx < 65536 ∧ (shm.m.ctx hostMessages6.ctx).ended = false ∧ (8 ≤ 3 ∨ ∀ c < 72, shm.m.clPart c ≠ 3)) ∧
    shm.m.role hostMessages8.src ≠ some 2 ∧
    (shm.m.dev.held = [] ∧ (shm.m.ctx hostMessages10.ctx).live = true ∧ hostMessages10.seq < (shm.m.ctx hostMessages10.ctx).expected hostMessages10.src) ∧
    (shm.m.dev.held = [] ∧ (shm.m.ctx hostMessages11.ctx).live = true ∧ (shm.m.ctx hostMessages11.ctx).expected hostMessages11.src < hostMessages11.seq) ∧
    BitVec.toNat ((hostMessages12.ctx 1).reg 125) % 2 ^ 13 ≤ 7 ∧
    (2 < BitVec.toNat ((hostMessages13.ctx 1).reg 125) % 2 ^ 13 ∧ hostMessages13.dev.slots = [(6, qsl 0)] ∧ (qsl 0).ctx = 1 ∧ (qsl 0).q = 2 ∧ ((qsl 0).st ≠ 0 ∨ (qsl 0).rd = 9) ∧ (qsl 0).st ≠ 1) ∧
    (2 < BitVec.toNat ((hostMessages12.ctx 1).reg 125) % 2 ^ 13 ∧ hostMessages12.dev.slots = [] ∧ hostMessages12.desc 1 2 = some qdesc) ∧
    (sen.m.dev.ending = [(some jh, 1)] ∧ sen.m.gone 1 = true) := by
  refine ⟨?_, ?_, ?_, ?_, ?_, ?_, ?_, ?_, ?_, ?_, ?_, ?_, ?_, ?_, ?_, ?_⟩ <;> decide +kernel
theorem witness_HostMessages_parts :
    (∃ (x : ℕ), shm.m.role jh.src = some x) ∧
    ((Instr.ctxend ⟨1,5,0⟩) ∈ [Instr.ctxnew hostMessages8 3, Instr.ctxend hostMessages8]) ∧
    (∃ (x : ℕ), shm.m.role hostMessages10.src = some x) ∧
    (∃ (x : ℕ), shm.m.role hostMessages11.src = some x) :=
  ⟨⟨_, rfl⟩, .tail _ (.head _), ⟨_, rfl⟩, ⟨_, rfl⟩⟩

abbrev nonce48 : List Byte := List.replicate 48 3
theorem witness_SecurityCore :
    (sfw.m.role jh.src = some 2 ∧ nonce48.length = 48 ∧ (KMap.get [] sfw.m.dev.digests 0).length = 48 ∧ KMap.get 0 sfw.m.dev.svns 0 < 64) ∧
    (sfw.m.role jh.src = some 2 ∧ sfw.m.halted = none) ∧
    (shl.m.role jh.src = some 2 ∧ shl.m.halted = some ⟨[1, 2, 3], [(5, 0x99)]⟩) ∧
    sfw.m.role 9 = none ∧
    (∀ j ∈ ([⟨9, 1, 0⟩] : List JctHdr), ∀ n : List Byte, Instr.haltlog j ∈ [Instr.attest j n, Instr.haltlog j]) ∧
    ((∀ im ∈ ([] : List FwImage), sfw.m.bootCode im = 0) ∧ sfw.m.brokenDie = none ∧ (∀ im ∈ ([] : List FwImage), im.cls ≠ 0)) ∧
    (sfw [(2, [3, 4])]).m.brokenDie = some 2 := by
  refine ⟨by decide +kernel, by decide +kernel, by decide +kernel, by decide +kernel, fun _ _ _ => .tail _ (.head _), ⟨?_, by decide +kernel, ?_⟩, by decide +kernel⟩ <;>
    (intro im h; cases h)
/-- An image whose version is below its fuse counter is refused, whatever its signatures. -/
theorem witness_SecurityCore_refused : sfw.m.bootCode fwi ≠ 0 ∧ fwi.cls < 256 := by
  refine ⟨?_, by decide⟩
  unfold Mach.bootCode
  split
  · decide
  · split
    · decide
    · rw [if_pos (by decide +kernel)]
      decide


theorem witness_BoostLeases :
    (BitVec.toNat (65538 : W64) % 2 ^ 3 ≠ 0 ∧ (BitVec.toNat (65538 : W64) % 2 ^ 3 ≤ ((sbo 0).m.part ((sbo 0).m.clPart (clusterOf 0))).base ∨ BitVec.toNat (65538 : W64) / 2 ^ 16 % 2 ^ 9 = 0 ∨ 500 < BitVec.toNat (65538 : W64) / 2 ^ 16 % 2 ^ 9 ∨ ((sbo 0).m.hand 0).boostSt = 1 ∨ ((sbo 0).m.hand 0).boostSt = 2 ∨ ((sbo 0).m.hand 0).boostSt = 3)) ∧
    (BitVec.toNat (32768007 : W64) % 2 ^ 3 ≠ 0 ∧ ((sbo 0).m.part ((sbo 0).m.clPart (clusterOf 0))).base < BitVec.toNat (32768007 : W64) % 2 ^ 3 ∧ 1 ≤ BitVec.toNat (32768007 : W64) / 2 ^ 16 % 2 ^ 9 ∧ BitVec.toNat (32768007 : W64) / 2 ^ 16 % 2 ^ 9 ≤ 500 ∧ (((sbo 0).m.hand 0).boostSt = 0 ∨ ((sbo 0).m.hand 0).boostSt = 4)) ∧
    (((sbo 1).m.hand 0).boostSt ≠ 2 ∧ ((sbo 1).m.hand 0).boostSt ≠ 3) ∧
    (((sbo 2).m.hand 0).boostSt = 2 ∧ ((sbo 2).m.hand 0).boostEnd ≤ (sbo 2).tb ∧ Instr.boostExpiry 0 ∈ [Instr.boostWithdraw 0, Instr.boostExpiry 0]) ∧
    (((sbo 2 200).m.hand 0).boostSt ≠ 2 ∨ (sbo 2 200).tb < ((sbo 2 200).m.hand 0).boostEnd) ∧
    ((sbo 0).m.hand 0).boostSt ≠ 1 ∧
    (((sbo 1).m.hand 0).boostSt = 1 ∧ ((sbo 1).m.hand 0).boostEnd ≤ (sbo 1).tb ∧ ((sbo 1).m.part ((sbo 1).m.clPart (clusterOf 0))).rpMode = 0 ∧ ((sbo 1).m.hand 0).aside = false ∧ ((sbo 1).m.hand 0).draining = false) := by
  refine ⟨?_, ?_, ?_, ?_, ?_, ?_, ?_⟩ <;> decide +kernel

abbrev powerAndSensors2 : Mach := (szn {}).m
abbrev powerAndSensors4 : Mach := (szn {st := .dry}).m
abbrev powerAndSensors6 : Mach := (szn {cfg := BitVec.ofNat 64 (2 ^ 50 * 900)}).m
theorem witness_PowerAndSensors :
    ((∃ c < 72, powerAndSensors2.clPart c = 0) ∧ (∀ z < 64, powerAndSensors2.zonePart z = 0 → (powerAndSensors2.zone z).st = ZoneSt.wet)) ∧
    (∀ c < 72, powerAndSensors2.clPart c ≠ 3) ∧
    ((powerAndSensors2.zone 0).st = ZoneSt.wet ∧ BitVec.toNat (powerAndSensors2.zone 0).cfg / 2 ^ 8 % 2 ^ 8 ≤ BitVec.toNat (powerAndSensors2.zone 0).cfg / 2 ^ 16 % 2 ^ 8 ∧ (List.map (fun (z : ℕ) => (powerAndSensors2.zoneWant z).2) (List.range 64)).sum ≤ 8160 ∧ powerAndSensors2.leaseLevel (powerAndSensors2.zonePart 0) = 0) ∧
    (powerAndSensors4.zone 0).st ≠ ZoneSt.wet ∧
    ((∃ c < 72, powerAndSensors6.zoneOf c = 0) ∧ (powerAndSensors6.zone 0).hot = false ∧ (powerAndSensors6.zone 0).crit = false ∧ (powerAndSensors6.hand (powerAndSensors6.zoneHand 0)).pending.length < 8) ∧
    (((sbo 2).m.zone 0).st = ZoneSt.wet ∧ BitVec.toNat ((sbo 2).m.zone 0).cfg / 2 ^ 8 % 2 ^ 8 ≤ BitVec.toNat ((sbo 2).m.zone 0).cfg / 2 ^ 16 % 2 ^ 8 ∧ (sbo 2).m.leaseLevel ((sbo 2).m.zonePart 0) ≠ 0) := by
  refine ⟨?_, ?_, ?_, ?_, ?_, ?_⟩ <;> decide +kernel

abbrev evacuation1 : State := szn {}
abbrev evacuation2 : State := szn {st := .dry}
abbrev evacuation3 : State := szn {evac := true}
abbrev evacuation4 : State := szn {st := .draining, liq := false} 52500000
abbrev evacuation5 : State := szn {st := .draining, liq := true} 52500000
abbrev evacuation6 : State := szn {st := .draining, liq := true} 2100000000
abbrev evacuation7 : State := szn {st := .purging, dryAt := some 84000000} 105000000
abbrev evacuation8 : State := szn {st := .purging, dryAt := some 84000001} 105000000
abbrev evacuation9 : State := szn {st := .refilling, nearAt := some 84000001} 210000000
abbrev evacuation10 : State := szn {st := .refilling, fail := true} 210000000
abbrev evacuation12 : State := szn {st := .refilling} 2099999999
abbrev evacuation13 : State := szn {st := .refilling} 2100000000
abbrev evacuation15 : State := szn {st := .purging} 2100000000
theorem witness_Evacuation :
    ((evacuation1.m.zone (BitVec.toNat ((evacuation1.m.hand 0).creg 168) % 2 ^ 6)).st = ZoneSt.wet ∧ (evacuation1.m.zone (BitVec.toNat ((evacuation1.m.hand 0).creg 168) % 2 ^ 6)).crit = false ∧ (∀ c < 72, (evacuation1.m.cluster c).cmds = []) ∧ evacuation1.m.zoneOf 0 = BitVec.toNat ((evacuation1.m.hand 0).creg 168) % 2 ^ 6 ∧ (evacuation1.m.zone (BitVec.toNat ((evacuation1.m.hand 0).creg 168) % 2 ^ 6)).st ≠ ZoneSt.dry) ∧
    ((evacuation2.m.zone (BitVec.toNat ((evacuation2.m.hand 0).creg 168) % 2 ^ 6)).st ≠ ZoneSt.wet ∧ (evacuation2.m.zone (BitVec.toNat ((evacuation2.m.hand 0).creg 168) % 2 ^ 6)).st = ZoneSt.dry ∧ ZoneSt.refilling ≠ ZoneSt.wet ∧ ZoneSt.refilling ≠ ZoneSt.dry) ∧
    ((evacuation2.m.zone 0).fail = false ∧ (evacuation2.m.zone 0).st = ZoneSt.dry) ∧
    ((evacuation3.m.zone 0).fail = false ∧ (evacuation3.m.zone 0).st = ZoneSt.wet ∧ (evacuation3.m.zone 0).evac = true ∧ evacuation3.m.zoneRuns 0 = false ∧ ZoneSt.draining ≠ ZoneSt.wet ∧ ZoneSt.draining ≠ ZoneSt.dry) ∧
    ((evacuation4.m.zone 0).fail = false ∧ (evacuation4.m.zone 0).st = ZoneSt.draining ∧ (evacuation4.m.zone 0).since + 52500000 ≤ evacuation4.tb ∧ (evacuation4.m.zone 0).liq = false ∧ ZoneSt.purging ≠ ZoneSt.wet ∧ ZoneSt.purging ≠ ZoneSt.dry ∧ (evacuation4.m.zone 0).st ≠ ZoneSt.wet ∧ (evacuation4.m.zone 0).st ≠ ZoneSt.dry ∧ ¬(evacuation4.m.zone 0).since + 2100000000 ≤ evacuation4.tb) ∧
    ((evacuation5.m.zone 0).fail = false ∧ (evacuation5.m.zone 0).st = ZoneSt.draining ∧ (¬((evacuation5.m.zone 0).since + 52500000 ≤ evacuation5.tb ∧ (evacuation5.m.zone 0).liq = false)) ∧ ¬(evacuation5.m.zone 0).since + 2100000000 ≤ evacuation5.tb) ∧
    ((evacuation6.m.zone 0).fail = false ∧ (evacuation6.m.zone 0).st = ZoneSt.draining ∧ (¬((evacuation6.m.zone 0).since + 52500000 ≤ evacuation6.tb ∧ (evacuation6.m.zone 0).liq = false)) ∧ (evacuation6.m.zone 0).since + 2100000000 ≤ evacuation6.tb ∧ (evacuation6.m.zone 0).st ≠ ZoneSt.wet ∧ (evacuation6.m.zone 0).st ≠ ZoneSt.dry) ∧
    ((evacuation7.m.zone 0).fail = false ∧ (evacuation7.m.zone 0).st = ZoneSt.purging ∧ (evacuation7.m.zone 0).since + 105000000 ≤ evacuation7.tb ∧ (∃ (t : ℕ), (evacuation7.m.zone 0).dryAt = some t ∧ t + 21000000 ≤ evacuation7.tb)) ∧
    ((evacuation8.m.zone 0).fail = false ∧ (evacuation8.m.zone 0).st = ZoneSt.purging ∧ (¬((evacuation8.m.zone 0).since + 105000000 ≤ evacuation8.tb ∧ ∃ (t : ℕ), (evacuation8.m.zone 0).dryAt = some t ∧ t + 21000000 ≤ evacuation8.tb)) ∧ ¬(evacuation8.m.zone 0).since + 2100000000 ≤ evacuation8.tb) ∧
    ((evacuation9.m.zone 0).fail = false ∧ (evacuation9.m.zone 0).st = ZoneSt.refilling ∧ (evacuation9.m.zone 0).since + 210000000 ≤ evacuation9.tb ∧ (evacuation9.m.zone 0).liq = true ∧ (∃ (t : ℕ), (evacuation9.m.zone 0).nearAt = some t ∧ t + 10500000 ≤ evacuation9.tb)) ∧
    (evacuation10.m.zone 0).fail = true ∧
    ((evacuation1.m.zone 0).fail = false ∧ (evacuation1.m.zone 0).st = ZoneSt.wet ∧ (evacuation1.m.zone 0).evac = false) ∧
    ((sznR.m.zone 0).fail = false ∧ (sznR.m.zone 0).st = ZoneSt.wet ∧ (sznR.m.zone 0).evac = true ∧ sznR.m.zoneRuns 0 = true) ∧
    ((evacuation12.m.zone 0).fail = false ∧ (evacuation12.m.zone 0).st = ZoneSt.refilling ∧ (¬((evacuation12.m.zone 0).since + 210000000 ≤ evacuation12.tb ∧ (evacuation12.m.zone 0).liq = true ∧ ∃ (t : ℕ), (evacuation12.m.zone 0).nearAt = some t ∧ t + 10500000 ≤ evacuation12.tb)) ∧ ¬(evacuation12.m.zone 0).since + 2100000000 ≤ evacuation12.tb) ∧
    ((evacuation13.m.zone 0).fail = false ∧ (evacuation13.m.zone 0).st = ZoneSt.refilling ∧ (¬((evacuation13.m.zone 0).since + 210000000 ≤ evacuation13.tb ∧ (evacuation13.m.zone 0).liq = true ∧ ∃ (t : ℕ), (evacuation13.m.zone 0).nearAt = some t ∧ t + 10500000 ≤ evacuation13.tb)) ∧ (evacuation13.m.zone 0).since + 2100000000 ≤ evacuation13.tb) ∧
    ((evacuation15.m.zone 0).fail = false ∧ (evacuation15.m.zone 0).st = ZoneSt.purging ∧ (¬((evacuation15.m.zone 0).since + 105000000 ≤ evacuation15.tb ∧ ∃ (t : ℕ), (evacuation15.m.zone 0).dryAt = some t ∧ t + 21000000 ≤ evacuation15.tb)) ∧ (evacuation15.m.zone 0).since + 2100000000 ≤ evacuation15.tb) := by
  refine ⟨?_, ?_, ?_, ?_, ?_, ?_, ?_, ?_, ?_, ?_, ?_, ?_, ?_, ?_, ?_, ?_⟩ <;> decide +kernel


theorem witness_ReplayTimeAndLinks :
    (((srp 2 0 3 7).m.part 0).rpMode = 2 ∧ ((srp 2 0 3 7).m.part 0).rpr = 3 ∧ ((srp 2 0 3 7).m.part 0).rpw ≠ ((srp 2 0 3 7).m.part 0).rpr ∧ ((srp 2 0 3 7).m.part 0).rpstat ≠ 1 ∧ (List.map (fun (x : ℕ × Hand) => x.1) (srp 2 0 3 7).m.hands).Nodup ∧ ((srp 2 0 3 7).m.hand 0).pending.length < 8) ∧
    (((srp 2 0 7 7).m.part 0).rpMode ≠ 2 ∨ ((srp 2 0 7 7).m.part 0).rpr ≠ 7 ∨ ((srp 2 0 7 7).m.part 0).rpw = ((srp 2 0 7 7).m.part 0).rpr) := by
  refine ⟨?_, ?_⟩ <;> decide +kernel
theorem witness_ReplayTimeAndLinks_parts : ∃ (h : Hand), (0, h) ∈ (srp 2 0 3 7).m.hands := ⟨_, .head _⟩

/-- The store of a stored accumulator row lands; a schedule's status is written; the pending store of a trap record is. -/
theorem witness_StoresLand :
    (∃ m', (sac true [cmd .acmst 1]).m.writeAt 1 (stRowAt (cmd .acmst 1).st 0) (leBytes (ppLen 0x70400 9) (packElems (ppWidth 0x70400 9) ((List.range (ppCols 0x70400)).map (fun _ => 0)))) false = .ok m') ∧
    (∃ m', (stt [mv 0 4]).m.writeAt 1 ((stt [mv 0 4]).m.ctx 1 |>.ttStat (mv 0 4).index) (leBytes 8 100 ++ List.replicate 8 0) true = .ok m') := ⟨⟨_, rfl⟩, ⟨_, rfl⟩⟩

/-- The first word of a thread: SADDI at the PC of hand 0, which all engines have reached. -/
def stp : State := State.reset.withFetchWord 64 0x8000111400000007
theorem witness_StepRunsTheDecodedWord :
    (let h := stp.m.hand 0
     let x := h.engine .x
     stp.m.bad = none ∧ stp.m.stopped = false ∧ stp.turn = .attempt 0 .x ∧ h.holdTill ≤ stp.tb ∧ h.barTill ≤ stp.tb ∧ h.blocked = none ∧ stp.m.live 0 = true ∧
      x.arrived = false ∧ scanWords .x ((stp.m.textOf 0).drop (x.pc.toNat / 8)) = (0, some 0x8000111400000007) ∧
      x.prev + 1 + (if x.anew then 0 else waitOf .x (some 0x8000111400000007)) ≤ h.vclk ∧ x.notBefore ≤ h.vclk ∧ stp.m.heldCode stp.tb 0 .x = none ∧
      (∀ f ∈ [Engine.a, .m], x.words + 0 + 1 ≤ (h.engine f).words + (h.creg 0x021).toNat % 2 ^ 13) ∧ h.breaks .x x.pc = false ∧
      wordTag 0x8000111400000007 ≠ 0 ∧ (decode 0x8000111400000007).toOption.isSome = true) ∧
    (let s : State := { State.reset with turn := .serve, m := { State.reset.m with agenda := [(0, .powerWindow), (5, .sensorSample)] } }
     s.m.bad = none ∧ s.m.nextDue s.tb (s.turn == .serve) = some (0, .powerWindow) ∧ s.m.stopped = false) ∧
    (State.reset.m.lateFrame .powerWindow = false ∧ State.reset.m.lateFrame .sensorSample = false) := by
  refine ⟨?_, ?_, ?_⟩ <;> (and_intros <;> decide +kernel)
theorem witness_EveryStepGoesOn : State.reset.m.bad = none ∧ ({ State.reset.m with bad := some 5 } : Mach).bad = some 5 ∧
    (∃ t, step stp = .next t) := ⟨rfl, rfl, ⟨_, rfl⟩⟩
theorem witness_DecodeOfEncode : encode (.aaddi ⟨⟨5, 2, 3⟩, 1, 2, 0, 0x1ffffff⟩) = some 0x405B010881FFFFFF ∧
    (Instr.aaddi ⟨⟨5, 2, 3⟩, 1, 2, 0, 0x1ffffff⟩).check = none := by decide +kernel
theorem witness_MemoryReadAfterWrite : Memory.wf [] = true ∧ Memory.wf [(5, 7), (9, 1)] = true ∧ (∀ k, Memory.read [] k = Memory.read [] k) := ⟨rfl, rfl, fun _ => rfl⟩
theorem witness_MemoryStaysCanonical : stp.memWf = true ∧ ∃ t, step stp = .next t := ⟨by decide +kernel, ⟨_, rfl⟩⟩

/-! Further clauses of the statements. -/

/-- Is the record of `tcut` written, with the ring that takes it? -/
def recOk (m : Mach) (want : Nat) : Option Nat :=
  let cut := cutOf m 100 0
  let h := cut.hand 0
  let d := max want (h.ring + (if h.busy.getLsbD h.ring then 1 else 0))
  let b := cut.recordBytes 100 0 (if tcut.pcs = [] then { tcut with pcs := cut.cutPcs 0 } else tcut) d h.ring (h.busy != 0)
  if d < 4 && (cut.writeRec 0 d b).toOption.isSome then some d else none
/-- The traps that leave the rest: taken to rings 0, 1 and 2, with nothing to withdraw (19 R363). -/
theorem witness_TrapEntryAndRecord_rest :
    recOk (tr handT).m 0 = some 0 ∧ recOk (tr handT).m 1 = some 1 ∧ recOk (tr { handT with cr := [(0x00A, 0x4000)] }).m 2 = some 2 ∧
    (let m := (tr handT).m
     (∀ w ∈ (m.ctx (m.hand 0).ctx).flagWaits, w.hand ≠ 0) ∧ (∀ p ∈ (m.ctx (m.hand 0).ctx).barriers ++ m.dev.fabBars, 0 ∉ p.2.arrived) ∧
      ∀ w ∈ (m.cluster (clusterOf 0)).walks, w.failed = none) := by decide +kernel

/-- A FINC behind an acquire whose data has not come. -/
def acqT : State := tr { handT with a := [(1, 3), (2, 5)], results := [{ id := 2, lands := [], acq := true, due := 200 }] }
/-- What the barrier of hand 0 still waits for after the word of its last arrival (17 R322). -/
def barOpen (s : State) (lvl act : Nat) (m : Mach) : Bool :=
  m.accessesOpen s.cur m.nextId || m.stepsOpen s.cur ||
    (act == 2 && KMap.get false (m.handCtx s.cur).phases (phaseKey lvl s.cur) && !(m.members s.cur lvl).all m.remoteDone)
def acqW (i : Nat) : AAA := ⟨hx, 0, if i / 64 % 2 = 1 then 1 else 0, 2, BitVec.ofNat 25 i⟩
theorem witness_FlagsBarriersAndPhases_waits :
    (∀ i ∈ [0x45, 0xC5, 0x05, 0x85],
      ((acqW i).imm.getLsbD 6 = true → ReadyA acqT (acqW i).a) ∧ ReadyA acqT (acqW i).b ∧ acqT.hand.results.any (fun x => x.acq) = true ∧
      ((acqW i).imm.getLsbD 6 = true → acqT.m.inPart acqT.hand.ctx ((acqT.hand.areg (acqW i).a.toNat).toNat % 128) = true) ∧
      MayIssue acqT .a (.finc (acqW i)) (acqW i).hdr) ∧
    ((saf.m.ctx 1).agentOf (2 * 0 + 0) = some 1048576 ∧
      (saf.m.span 1 (1048576 + BitVec.ofNat 64 (1179648 + 4 * 9)) 4 false false).toOption.any (fun l =>
        (saf.m.writeAt 1 (1048576 + BitVec.ofNat 64 (1179648 + 4 * 9)) (leBytes 4 (leNat (saf.m.readSpan l) + (7 : W32).toNat)) false).toOption.isSome) = true) ∧
    after (.bar ⟨z, 0, 0⟩) (tr handT) (barOpen (tr handT) 0 0) = some false ∧
    after (.bar ⟨z, 0, 0⟩) (tr { handT with accs := [{ acc0 with id := 0 }] }) (barOpen (tr handT) 0 0) = some true := by
  refine ⟨?_, ?_, ?_, ?_⟩ <;> decide +kernel

/-- A hand with a full load or store queue, as LSALIGN finds it. -/
def fullLs (isLoad : Bool) : State := st { hand2 with accs := (List.range 16).map (fun i => { acc0 with id := i, isLoad := isLoad }) }
theorem witness_FencesFlitsAndWalks_full :
    (placesUsed sa true < 16 ∧ placesUsed sa false < 16) ∧ (∀ b ∈ [true, false], 16 ≤ placesUsed (fullLs b) b ∧ May (fullLs b) .a hx [.lsalign ⟨hx, 0⟩]) := by
  decide +kernel

/-- The array's hand with eight commands in its queue, its word tried before (`t`) behind the oldest, of number `v`. -/
def fullCmds (t : Nat) (v : W64) : State :=
  let s := sma lsh (List.replicate 8 (mcd .mma))
  { s with m := s.m.modHand 0 (fun h => { h with stage := t, stageV := v }) }
theorem witness_LeaseAndArrayWords_full :
    (∃ l, (fullCmds 0 0).m.cmdsOf 0 = mcd .mma :: l ∧ 8 ≤ (mcd .mma :: l).length) ∧ (fullCmds 0 0).hand.stage = 0 ∧
    ((fullCmds 1 4).hand.stage ≠ 0 ∧ ∃ c ∈ (fullCmds 1 4).m.cmdsOf 0, BitVec.ofNat 64 c.acc = (fullCmds 1 4).hand.stageV) ∧
    CmdRoom (fullCmds 1 3) ∧
    (∀ s ∈ [fullCmds 0 0, fullCmds 1 4, fullCmds 1 3], May s .m (lateHdr hc) [.mshape (mz 0 0 15)]) :=
  ⟨⟨List.replicate 7 (mcd .mma), by decide +kernel⟩, by decide +kernel, by decide +kernel, by decide +kernel, by decide +kernel⟩

/-- A command that may not start: its partition is throttled, or a band that it needs is still waking. -/
def heldThrottle : State := { sma lsh [mcd .mma] with m := { (sma lsh [mcd .mma]).m with parts := [(0, { throttle := true })] } }
def heldWake : State := sma lsh [{ mcd .mma with need := 4 }] false 2 [(2, { st := .waking, since := 90 })]
theorem witness_ArrayCommandsRun_start :
    (arrayCommandsRun1.m.startHeld arrayCommandsRun1.tb (mcd .wld) = false) ∧
    (heldThrottle.m.findCmd 0 3 = some (mcd .mma) ∧ (mcd .mma).started = false ∧ (heldThrottle.m.part (heldThrottle.m.clPart (clusterOf (mcd .mma).hand))).throttle = true) ∧
    (heldWake.m.findCmd 0 3 = some { mcd .mma with need := 4 } ∧ heldWake.tb < (heldWake.m.cluster 0).wakeEnd 4) := by decide +kernel
theorem witness_AccumulatorEvents_start :
    (∀ s ∈ [accumulatorEvents1, accumulatorEvents5, accumulatorEvents6, accumulatorEvents8, accumulatorEvents9, accumulatorEvents11, resolve5],
      (s.m.findCmd 0 3).all (fun c => s.m.startHeld s.tb c) = false ∧ (s.m.findCmd 0 3).isSome = true) := by decide +kernel

/-- The header of a message of a type, all else zero. -/
def typed (t : Nat) : List Byte := leBytes 1 t ++ leBytes 15 0
theorem witness_HostMessages_layout :
    (∀ t ∈ [1, 2, 3, 4, 5, 6, 7, 8, 9], 16 ≤ (typed t).length ∧ field (typed t) 0 1 = t ∧ field (typed t) 1 1 = 0 ∧ field (typed t) 10 2 = 0 ∧
      field (typed t) 14 2 = 0 ∧ field (typed t) 9 7 = 0 ∧ field (typed t) 8 8 = 0) ∧
    ((typed 1).tail.length < 16 ∧ field (leBytes 16 0x101) 1 1 ≠ 0) := by decide +kernel
theorem witness_HostMessages_notify :
    (∀ t ∈ [0, 1, 2, 3], let m := (shq [(6, qsl t)]).m
      2 < ((m.ctx 1).reg 0x07D).toNat % 2 ^ 13 ∧ m.dev.slots = [(6, qsl t)] ∧ (qsl t).ctx = 1 ∧ (qsl t).q = 2 ∧ (qsl t).st = t ∧ (qsl t).rd = 9) ∧
    (∀ n ∈ [0, 2], shm.m.dev.held = [] ∧ shm.m.role 2 = some 2 ∧ (shm.m.ctx 5).live = false ∧ (shm.m.ctx 5).ended = false ∧
      ((⟨2, 5, n⟩ : JctHdr).seq = 0 ∨ 0 < (⟨2, 5, n⟩ : JctHdr).seq)) := by decide +kernel

/-- Every class has an image that is accepted, where the key verifies and its hash stands in a fuse slot: those are constants without a body. -/
def fwOk (key : List Byte) (c : Nat) : FwImage :=
  { cls := c, svn := 63, key := key, digest := Config.sha384 [], ecdsa := List.replicate 96 0, lms := List.replicate 2668 0, body := [] }
theorem witness_SecurityCore_accepted (key : List Byte) (h : ∀ b c, Config.verifies key b c = true) (i : Nat) (hi : i < Config.keySlots)
    (hk : Config.keyHash i = Config.sha384 key) :
    (∀ im ∈ [fwOk key 0, fwOk key 1, fwOk key 2], sfw.m.bootCode im = 0) ∧ (∀ c, c < 3 → ∃ im ∈ [fwOk key 0, fwOk key 1, fwOk key 2], im.cls = c) ∧
    (∀ im ∈ [fwOk key 0, fwOk key 2], sfw.m.bootCode im = 0) ∧ (∀ im ∈ [fwOk key 0, fwOk key 2], im.cls ≠ 1) ∧ ∃ im ∈ [fwOk key 0, fwOk key 2], im.cls = 0 := by
  have ht : sfw.m.keyTrusted key = true := by
    simp only [Mach.keyTrusted, List.any_eq_true, List.mem_range]
    exact ⟨i, hi, by simp [hk, sfw]⟩
  have hb : ∀ c, KMap.get 0 sfw.m.dev.fuses c ≤ 63 → sfw.m.bootCode (fwOk key c) = 0 := by
    intro c hc
    have h1 : ¬ 63 < KMap.get 0 sfw.m.dev.fuses c := by omega
    simp [Mach.bootCode, fwOk, h, ht, h1]
  refine ⟨?_, ?_, ?_, ?_, _, .head _, rfl⟩
  · rintro im (_ | ⟨_, _ | ⟨_, _ | ⟨_, h⟩⟩⟩)
    · exact hb 0 (by decide)
    · exact hb 1 (by decide)
    · exact hb 2 (by decide)
    · cases h
  · intro c hc
    interval_cases c
    · exact ⟨_, .head _, rfl⟩
    · exact ⟨_, .tail _ (.head _), rfl⟩
    · exact ⟨_, .tail _ (.tail _ (.head _)), rfl⟩
  · rintro im (_ | ⟨_, _ | ⟨_, h⟩⟩)
    · exact hb 0 (by decide)
    · exact hb 2 (by decide)
    · cases h
  · rintro im (_ | ⟨_, _ | ⟨_, h⟩⟩)
    · exact (by decide : (0 : Nat) ≠ 1)
    · exact (by decide : (2 : Nat) ≠ 1)
    · cases h
/-- A list without an image fails as one that lacks class 0. -/
theorem witness_SecurityCore_lacking :
    (∀ im ∈ ([] : List FwImage), sfw.m.bootCode im = 0) ∧ (∀ im ∈ ([] : List FwImage), im.cls ≠ 0) ∧ (∀ b, b < 0 → ∃ im ∈ ([] : List FwImage), im.cls = b) ∧
    sfw.m.brokenDie = none :=
  ⟨nofun, nofun, nofun, by decide +kernel⟩

/-- A zone whose critical temperature is 0, so that every sample meets it. -/
def hotZone : Mach := (szn { cfg := 0 }).m
theorem witness_PowerAndSensors_critical :
    ((∃ c < 72, hotZone.zoneOf c = 0) ∧ (hotZone.zone 0).hot = false ∧ (hotZone.zone 0).crit = false ∧
      (hotZone.part (hotZone.partOf (hotZone.zoneHand 0))).rpMode ≠ 2 ∧ (∀ c < 72, (hotZone.cluster c).cmds = []) ∧ (∀ p ∈ hotZone.hands, p.2.cmdSaved = []) ∧
      (hotZone.hand (hotZone.zoneHand 0)).pending.length < 7) ∧
    (hotZone.zone 0).cfg.toNat / 2 ^ 50 % 2 ^ 10 = 0 ∧ (∀ n : Nat, 0 ≤ (Config.sensorTemp 0 n).toNat) ∧ (hotZone.part 0).eff ≤ 7 := by
  refine ⟨by decide +kernel, by decide +kernel, fun _ => Nat.zero_le _, by decide +kernel⟩

/-- A partition whose recording is to stop in stage `n`, its ring of 2^10 records full or not; and a replay whose next record is due at cycle `d`. -/
def srpStop (n : Nat) (full : Bool) : State :=
  { st hand2 with m := { (st hand2).m with parts := [(0, { cr := [(0x0B3, 1), (0x0B4, 10)], rpw := if full then 1024 else 5, rpStop := n })] } }
def srpDue (d : Nat) : State := { srp 2 0 3 7 with m := { (srp 2 0 3 7).m with parts := [(0, { (srp 2 0 3 7).m.part 0 with rpDue := d })] } }
theorem witness_ReplayTimeAndLinks_stop :
    (3 ≠ stopIndex ∧ ((srpDue 100).m.part 0).rpMode = 2 ∧ ((srpDue 100).m.part 0).rpr = 3 ∧ ((srpDue 100).m.part 0).rpw ≠ 3 ∧
      ((srpDue 100).m.part 0).rpDue ≤ (srpDue 100).tb ∧ ((srpDue 100).m.part 0).rpstat ≠ 1) ∧
    (srpDue 101).tb < ((srpDue 101).m.part 0).rpDue ∧
    (((srp 2 0 3 7).m.part 0).rpMode ≠ 1 ∧ ((srpStop 0 true).m.part 0).rpStop = 0) ∧
    (∀ n ∈ [1, 2], ∀ b ∈ [true, false], ((srpStop n b).m.part 0).rpMode = 1 ∧ ((srpStop n b).m.part 0).rpStop = n ∧ ((srpStop n b).m.part 0).logFull = b) ∧
    ((0 : W64).toNat % 4 = 0 ∧ ((16 : Nat) ≤ 16 ∧ (3 : Nat) < 4 ∧ (7 : Nat) < 8 ∧ (15 : Nat) < 16)) := by decide +kernel

end Sys2Proof.Tests
end

section
/-! PROOFS. Decoding and encoding (03 R38 to R54): the fields of a word that the encoder packs read back one by one, format by format,
so that the decoder finds the instruction it was packed from. -/

namespace Sys2Proof

/-! ## Fields of a concatenation -/

@[simp] theorem bits_append_low {v w : Nat} (x : BitVec v) (y : BitVec w) {lo n : Nat} (h : lo + n ≤ w) :
    bits (no_index (x ++ y)) lo n = bits y lo n := BitVec.extractLsb'_append_eq_of_add_le h
@[simp] theorem bits_append_high {v w : Nat} (x : BitVec v) (y : BitVec w) {lo n : Nat} (h : w ≤ lo) :
    bits (no_index (x ++ y)) lo n = bits x (lo - w) n := BitVec.extractLsb'_append_eq_of_le h
@[simp] theorem bits_all {w : Nat} (x : BitVec w) : bits x 0 w = x := BitVec.extractLsb'_eq_self
@[simp] theorem bit_append {v w : Nat} (x : BitVec v) (y : BitVec w) (n : Nat) :
    bit (no_index (x ++ y)) n = if n < w then bit y n else bit x (n - w) := BitVec.getLsbD_append
@[simp] theorem bit_ofBool (b : Bool) : bit (ofBool 1 b) 0 = b := by cases b <;> rfl
theorem bits_zero_toNat {w : Nat} (x : BitVec w) (n : Nat) : (bits x 0 n).toNat = x.toNat % 2 ^ n := by simp [bits]

/-! ## Fields of a packed word (03 R38, R45) -/

section
variable (t : BitVec 2) (h : Hdr) (op : BitVec 8) (b : BitVec 40)

@[simp] theorem wordTag_packWord : wordTag (packWord t h op b) = t.toNat := by simp [wordTag, packWord]
@[simp] theorem wordOpcode_packWord : wordOpcode (packWord t h op b) = op.toNat := by simp [wordOpcode, packWord]
@[simp] theorem wordHdr_packWord : wordHdr (packWord t h op b) = h := by simp [wordHdr, packWord]
theorem bits_packWord {lo n : Nat} (hn : lo + n ≤ 40) : bits (packWord t h op b) lo n = bits b lo n := by
  simp [packWord, hn]
theorem bit_packWord {n : Nat} (hn : n < 40) : bit (packWord t h op b) n = bit b n := by
  simp [packWord, hn]

end

section
variable (t : BitVec 2) (op : BitVec 8)

@[simp] theorem unpackVVV_packWord (x : VVV) : unpackVVV (packWord t x.hdr op (bodyVVV x)) = x := by
  simp [unpackVVV, bodyVVV, bits_packWord, bit_packWord]
@[simp] theorem unpackVVI_packWord (x : VVI) : unpackVVI (packWord t x.hdr op (bodyVVI x)) = x := by
  simp [unpackVVI, bodyVVI, bits_packWord, bit_packWord]
@[simp] theorem unpackSSS_packWord (x : SSS) : unpackSSS (packWord t x.hdr op (bodySSS x)) = x := by
  simp [unpackSSS, bodySSS, bits_packWord]
@[simp] theorem unpackSSI_packWord (x : SSI) : unpackSSI (packWord t x.hdr op (bodySSI x)) = x := by
  simp [unpackSSI, bodySSI, bits_packWord]
@[simp] theorem unpackAAA_packWord (x : AAA) : unpackAAA (packWord t x.hdr op (bodyAAA x)) = x := by
  simp [unpackAAA, bodyAAA, bits_packWord]
@[simp] theorem unpackAAI_packWord (x : AAI) : unpackAAI (packWord t x.hdr op (bodyAAI x)) = x := by
  simp [unpackAAI, bodyAAI, bits_packWord]
@[simp] theorem unpackAM_packWord (x : AM) : unpackAM (packWord t x.hdr op (bodyAM x)) = x := by
  simp [unpackAM, bodyAM, bits_packWord]
@[simp] theorem unpackAF_packWord (x : AF) : unpackAF (packWord t x.hdr op (bodyAF x)) = x := by
  simp [unpackAF, bodyAF, bits_packWord]
@[simp] theorem unpackAC_packWord (x : AC) : unpackAC (packWord t x.hdr op (bodyAC x)) = x := by
  simp [unpackAC, bodyAC, bits_packWord, bit_packWord]
@[simp] theorem unpackMC_packWord (x : MC) : unpackMC (packWord t x.hdr op (bodyMC x)) = x := by
  simp [unpackMC, bodyMC, bits_packWord]
@[simp] theorem unpackMA_packWord (x : MA) : unpackMA (packWord t x.hdr op (bodyMA x)) = x := by
  simp [unpackMA, bodyMA, bits_packWord]
@[simp] theorem unpackBA_packWord (x : BA) : unpackBA (packWord t x.hdr op (bodyBA x)) = x := by
  simp [unpackBA, bodyBA, bits_packWord]
@[simp] theorem unpackBX_packWord (x : BX) : unpackBX (packWord t x.hdr op (bodyBX x)) = x := by
  simp [unpackBX, bodyBX, bits_packWord]
@[simp] theorem unpackJ_packWord (x : J) : unpackJ (packWord t x.hdr op (bodyJ x)) = x := by
  simp [unpackJ, bodyJ, bits_packWord]
@[simp] theorem unpackN_packWord (x : N) : unpackN (packWord t x.hdr op (bodyN x)) = x := by
  simp [unpackN, bodyN, bits_packWord]
@[simp] theorem unpackK_packWord (x : K) : unpackK (packWord t x.hdr op (bodyK x)) = x := by
  simp [unpackK, bodyK, bits_packWord]
@[simp] theorem unpackZ_packWord (x : Z) : unpackZ (packWord t x.hdr op (bodyZ x)) = x := by
  simp [unpackZ, bodyZ, bits_packWord]

end

theorem bit_bodyAC_imm (x : AC) {n : Nat} (hn : n < 24) : bit (bodyAC x) n = bit x.imm n := by
  simp [bodyAC, hn]

/-! ## Checks that tell two instructions of one opcode apart -/

theorem wordCheck_eq_none {tok res typ reg : Bool} :
    wordCheck tok res typ reg = none ↔ tok = true ∧ res = true ∧ typ = true ∧ reg = true := by
  cases tok <;> cases res <;> cases typ <;> cases reg <;> simp [wordCheck]
theorem chkAC_eq_none {x : AC} {res : Bool} :
    chkAC x res = none ↔ tokAC x.hdr = true ∧ x.tt ≠ 7 ∧ res = true := by
  simp [chkAC, wordCheck_eq_none]

theorem bit23_of_check_wpf {x : AC} (hc : (Instr.wpf x).check = none) : bit x.imm 23 = false := by
  obtain ⟨-, -, hres⟩ := chkAC_eq_none.1 hc
  simp only [Bool.and_eq_true, Bool.not_eq_true'] at hres
  obtain ⟨⟨⟨-, h23⟩, -⟩, -⟩ := hres
  exact h23
theorem bit23_of_check_wpfSpec {x : AC} (hc : (Instr.wpfSpec x).check = none) : bit x.imm 23 = true := by
  obtain ⟨-, -, hres⟩ := chkAC_eq_none.1 hc
  simp only [Bool.and_eq_true] at hres
  obtain ⟨⟨⟨-, h23⟩, -⟩, -⟩ := hres
  exact h23

/-- Bit 23 of the body tells WPF from WPF.spec, which share opcode 0x33 (04 R84, 14 R276). -/
theorem opcodeLookup_packWord_wpf (x : AC) :
    opcodeLookup (packWord 1 x.hdr 0x33 (bodyAC x)) = if bit x.imm 23 then some (.wpfSpec x) else some (.wpf x) := by
  rw [opcodeLookup, wordTag_packWord, wordOpcode_packWord]
  change (if bit _ 23 then some _ else some _) = _
  simp [bit_packWord, bit_bodyAC_imm]

/-! ## Decode of encode -/

/-- The opcode maps of R48 to R51 find, at the tag and opcode that the encoder writes, the constructor it wrote them for. -/
theorem opcodeLookup_of_encode {i : Instr} {w : W64} (he : encode i = some w) (hc : i.check = none) :
    opcodeLookup w = some i := by
  cases i with
  | wpf x =>
    cases he
    simpa [bit23_of_check_wpf hc] using opcodeLookup_packWord_wpf x
  | wpfSpec x =>
    cases he
    simpa [bit23_of_check_wpfSpec hc] using opcodeLookup_packWord_wpf x
  | _ =>
    -- an event has no word, and every other opcode selects one constructor
    cases he <;>
      (rw [opcodeLookup, wordTag_packWord, wordOpcode_packWord]
       change some _ = some _
       simp)

theorem decode_of_opcodeLookup {i : Instr} {w : W64} (hl : opcodeLookup w = some i) (hc : i.check = none) :
    decode w = .ok i := by
  simp [decode, hl, hc]

/-- Settles O57: the word's map entry is the instruction, and its checks pass. -/
theorem decodeOfEncode : Obligations.DecodeOfEncode := fun _ _ he hc =>
  decode_of_opcodeLookup (opcodeLookup_of_encode he hc) hc

/-- Settles O56: ten closed words, each decoded by evaluation. -/
theorem printedWordsDecode : Obligations.PrintedWordsDecode := by
  unfold Obligations.PrintedWordsDecode
  decide

end Sys2Proof
end

section
/-! PROOFS. The step at the word of a live engine and at an event that is due (03 R39, R52 to R54, 07 R145, 19 R364). -/

namespace Sys2Proof.Machine

/-! ## A word that reaches its engine -/

theorem meets_of_decode_error {h : Hand} {e : Engine} {w : W64} {f : WordFault} (hw : decode w = .error f) :
    meets h e w = true := by
  simp [meets, hw]

theorem issueWord_of_decode_ok {s : State} {r te : Nat} {w : W64} {i : Instr} (hw : decode w = .ok i) :
    issueWord s r te w false = .run i s := by
  simp [issueWord, hw]

theorem issueWord_of_decode_error {s : State} {r te : Nat} {w : W64} {f : WordFault} (hw : decode w = .error f) :
    issueWord s r te w false =
      .quiet { s with m := s.m.trap s.tb r { f := ⟨1, f.reason, []⟩, eng := te, word := w } } := by
  simp [issueWord, hw]

/-- The state with engine `e` of hand `r` past the `k` words of other tags that stand before its own (03 R39). -/
def State.passWords (s : State) (r : Nat) (e : Engine) (k : Nat) : State :=
  let pc := ((s.m.hand r).engine e).pc + BitVec.ofNat 64 (8 * k)
  { s with m := s.m.modHand r (fun h => h.modEngine e (fun x => { x with pc := pc, words := x.words + k })) }

/-- The engine number that a trap of the word names: 3 where the engines meet at it (03 R53). -/
def trapEngine (h : Hand) (e : Engine) (w : W64) : Nat :=
  if wordTag w = 0 ∧ meets h e w = true then 3 else engNo e

theorem trapEngine_of_decode_error {h : Hand} {e : Engine} {w : W64} {f : WordFault} (hw : decode w = .error f) :
    trapEngine h e w = if wordTag w = 0 then 3 else engNo e := by
  simp [trapEngine, meets_of_decode_error hw]

/-- An engine inside the slip window, at no breakpoint and not waiting at a rendezvous takes its word (03 R52, 07 R147). -/
theorem attemptWord_issues {s : State} {r : Nat} {e : Engine} {k : Nat} {w : W64}
    (hslip : ∀ f, f ≠ e → ((s.m.hand r).engine e).words + k + 1 ≤
      ((s.m.hand r).engine f).words + ((s.m.hand r).creg 0x021).toNat % 2 ^ 13)
    (hbrk : (s.m.hand r).breaks e (((s.m.hand r).engine e).pc + BitVec.ofNat 64 (8 * k)) = false)
    (hmeet : wordTag w = 0 → meets (s.m.hand r) e w = true → othersArrived (s.m.hand r) e = true) :
    attemptWord s r e k (some w) = issueWord (s.passWords r e k) r (trapEngine (s.m.hand r) e w) w false := by
  simp only [attemptWord, hbrk, Bool.false_or]
  split_ifs with hlead hrv harr
  · refine absurd hlead (Nat.not_lt.2 ?_)
    rw [bits_zero_toNat]
    cases e with
    | a =>
      have hX := hslip .x nofun
      have hM := hslip .m nofun
      simp only [Hand.engine] at *
      omega
    | x =>
      have hA := hslip .a nofun
      have hM := hslip .m nofun
      simp only [Hand.engine] at *
      omega
    | m =>
      have hA := hslip .a nofun
      have hX := hslip .x nofun
      simp only [Hand.engine] at *
      omega
  · rw [trapEngine, if_pos (by simpa using hrv)]; rfl
  · obtain ⟨ht, hm⟩ : wordTag w = 0 ∧ meets (s.m.hand r) e w = true := by simpa using hrv
    exact absurd (hmeet ht hm) harr
  · rw [trapEngine, if_neg (by simpa using hrv)]; rfl

/-- A live engine whose word is due and not held attempts it (07 R145). -/
theorem attemptTurn_of_due {s : State} {r : Nat} {e : Engine} {k : Nat} {w : Option W64}
    (hrun : s.m.stopped = false) (hhold : (s.m.hand r).holdTill ≤ s.tb) (hbar : (s.m.hand r).barTill ≤ s.tb)
    (hblk : (s.m.hand r).blocked = none) (hlive : s.m.live r = true)
    (harr : ((s.m.hand r).engine e).arrived = false)
    (hscan : scanWords e ((s.m.textOf r).drop (((s.m.hand r).engine e).pc.toNat / 8)) = (k, w))
    (hdue : dueNow (s.m.hand r) e w = true) (hheld : s.m.heldCode s.tb r e = none) :
    attemptTurn s r e = attemptWord { s with turn := s.m.turnAfter r e, cur := r, eng := e } r e k w := by
  simp [attemptTurn, hrun, Nat.not_lt.2 hhold, Nat.not_lt.2 hbar, hblk, hlive, harr, hscan, hdue, hheld]

/-! ## What a step plans -/

theorem plan_attempt {s : State} {r : Nat} {e : Engine} (hb : s.m.bad = none) (ht : s.turn = .attempt r e) :
    plan s = attemptTurn s r e := by
  simp [plan, hb, ht]

theorem plan_due {s : State} {j : Nat} {i : Instr} (hb : s.m.bad = none) (ht : s.turn = .serve ∨ s.turn = .tick)
    (hd : s.m.nextDue s.tb (s.turn == .serve) = some (j, i)) :
    plan s = if s.m.stopped && !actsHalted i then .quiet { s with m := { s.m with agenda := s.m.agenda.eraseIdx j } }
      else .run i { s with m := { s.m with agenda := s.m.agenda.eraseIdx j } } := by
  rcases ht with ht | ht
  · have hearly : s.m.nextDue s.tb true = some (j, i) := by rwa [ht] at hd
    simp [plan, hb, ht, serveTurn, serveOr, hearly]
  · have hlate : s.m.nextDue s.tb false = some (j, i) := by rwa [ht] at hd
    simp [plan, hb, ht, tickTurn, serveOr, hlate]

theorem step_of_plan_run {s s' : State} {i : Instr} (h : plan s = .run i s') : step s = exec i s' := by
  simp [step, h]
theorem step_of_plan_quiet {s s' : State} (h : plan s = .quiet s') : step s = .next s' := by
  simp [step, h]

/-! ## The event served next (06 R116) -/

theorem nextDue_of_one_due {m : Mach} {now : Nat} {early : Bool} {t : Nat} {i : Instr} {l : List (Nat × Instr)}
    (ha : m.agenda = (t, i) :: l) (ht : t ≤ now) (hi : early = true → m.lateFrame i = false) (hl : ∀ p ∈ l, now < p.1) :
    m.nextDue now early = some (0, i) := by
  have hlater : l.takeWhile (fun p => decide (p.1 ≤ now)) = [] := by
    cases l with
    | nil => rfl
    | cons p l => simpa using hl p
  simpa [Mach.nextDue, ha, ht, hlater] using hi

theorem nextDue_of_two_due {m : Mach} {now : Nat} {early : Bool} {t u : Nat} {i j : Instr}
    (ha : m.agenda = [(t, i), (u, j)]) (ht : t ≤ now) (hu : u ≤ now) (hi : m.lateFrame i = false) (hj : m.lateFrame j = false) :
    m.nextDue now early = if m.bankTurn now j < m.bankTurn now i then some (1, j) else some (0, i) := by
  simp only [Mach.nextDue, ha]
  split_ifs with hk <;> simp [ht, hu, hi, hj, hk]

/-! ## The step -/

/-- Settles O54: the turn's plan is the attempt, the attempt is the word's issue, and the issue is what the word decodes to; a due event
is served from the place that the agenda's order gives. -/
theorem stepRunsTheDecodedWord : Obligations.StepRunsTheDecodedWord := by
  refine ⟨?_, ?_, ?_, ?_⟩
  · intro s r e k w h x pc passed s' hbad hrun hturn hhold hbar hblk hlive harr hscan hdue hnb hheld hslip hbrk hmeet
    have hdueNow : dueNow h e (some w) = true := by simp [dueNow, hdue, hnb, h, x]
    have hplan : plan s = issueWord s' r (trapEngine h e w) w false :=
      calc plan s
        _ = attemptTurn s r e := plan_attempt hbad hturn
        _ = attemptWord { s with turn := s.m.turnAfter r e, cur := r, eng := e } r e k (some w) :=
          attemptTurn_of_due hrun hhold hbar hblk hlive harr hscan hdueNow hheld
        _ = issueWord s' r (trapEngine h e w) w false := attemptWord_issues hslip hbrk hmeet
    refine ⟨fun i hi => ?_, fun f hf => ?_⟩
    · exact step_of_plan_run (hplan.trans (issueWord_of_decode_ok hi))
    · rw [trapEngine_of_decode_error hf, issueWord_of_decode_error hf] at hplan
      exact step_of_plan_quiet hplan
  · intro s j i hbad hturn hdue s'
    have hplan := plan_due hbad hturn hdue
    refine ⟨fun h => ?_, fun hst hi => ?_⟩
    · refine step_of_plan_run (hplan.trans (if_neg ?_))
      simpa using h.resolve_left
    · exact step_of_plan_quiet (hplan.trans (if_pos (by simp [hst, hi])))
  · exact fun m now early t i l ha ht hi hl => nextDue_of_one_due ha ht hi hl
  · exact fun m now early t u i j ha ht hu hi hj => nextDue_of_two_due ha ht hu hi hj

end Sys2Proof.Machine
end

section
/-! PROOFS. Rules of the frame and of shared operations: a word that stops on a check of its own, a hand past a word, events on the agenda,
banks that serve an event (03 R52 to R54, 06 R116). -/

namespace Sys2Proof.Machine

theorem bits_toNat {w : Nat} (x : BitVec w) (lo len : Nat) : (bits x lo len).toNat = x.toNat / 2 ^ lo % 2 ^ len := by
  simp [bits, Nat.shiftRight_eq_div_pow]

/-! ## Words that stop on a check of their own (03 R54) -/

theorem trapIf_of_true {b : Bool} (h : b = true) (c r : Nat) (l : List W64) : trapIf b c r l = some (.trap ⟨c, r, l⟩) := by
  rw [h]; rfl

/-- A word whose frame passes stops on its own check (03 R54). -/
theorem guardWord_eq_own {s : State} {e : Engine} {i : Instr} {hd : Hdr} {mn : Meaning} {st : Stop} (h : MayIssue s e i hd)
    (hp : mn.pre = none) (hr : mn.ring ≤ s.hand.ring) (ho : mn.own = some st) :
    guardWord s.m ⟨s.tb, s.cur, e⟩ i (popFifo e hd.pop) (pushFifo e hd.push) mn = some st := by
  obtain ⟨hc, ht, -⟩ := h
  have hpop : (s.m.hand s.cur).popStop s.tb (popFifo e hd.pop) = none := Hand.popStop_eq_none.2 ht
  have hring : decide ((s.m.hand s.cur).ring < mn.ring) = false := decide_eq_false (Nat.not_lt.2 hr)
  simp [guardWord, hc, hp, ho, hpop, hring]

/-- A rendezvous that stops on its own check traps or blocks its hand at engine number 3, and has none of its effect. -/
theorem runRv_stops {s : State} {i : Instr} {mn : At → Mach → Meaning} {st : Stop} (hc : i.check = none)
    (hp : (mn ⟨s.tb, s.cur, s.eng⟩ s.m).pre = none) (hr : (mn ⟨s.tb, s.cur, s.eng⟩ s.m).ring ≤ s.hand.ring)
    (ho : (mn ⟨s.tb, s.cur, s.eng⟩ s.m).own = some st) :
    runRv s i mn = { s with m := s.m.stopWord ⟨s.tb, s.cur, s.eng⟩ 3 i (mn ⟨s.tb, s.cur, s.eng⟩ s.m).wait st } := by
  have hring : decide ((s.m.hand s.cur).ring < (mn ⟨s.tb, s.cur, s.eng⟩ s.m).ring) = false := decide_eq_false (Nat.not_lt.2 hr)
  simp [runRv, guardWord, hc, hp, ho, hring, Hand.popStop]

/-- A trap that is no machine-check counts no error and keeps its own fields. -/
theorem stopWord_trap {m : Mach} {x : At} {te : Nat} {i : Instr} {wait : Mach → Mach} {f : FaultRec} (hf : f.cause ≠ 0x1F) :
    m.stopWord x te i wait (.trap f) = m.trap x.now x.r { f := f, eng := te, word := (encode i).getD 0 } := by
  simp [Mach.stopWord, Mach.addErrors, FaultRec.by, hf]

/-! ## A hand past a word -/

@[simp] theorem Hand.passRv_ctx (h : Hand) : h.passRv.ctx = h.ctx := rfl
@[simp] theorem Mach.setHand_modHand (m : Mach) (r : Nat) (f : Hand → Hand) (h : Hand) :
    (m.modHand r f).setHand r h = m.setHand r h := by
  simp [Mach.modHand, Mach.setHand]

@[simp] theorem Hand.issueAt_ctx (h : Hand) (now : Nat) (e : Engine) (pop : Nat) : (h.issueAt now e pop).ctx = h.ctx := by
  simp only [Hand.issueAt, Hand.modEngine, Hand.setEngine_ctx, Hand.popTok]
  split <;> rfl
@[simp] theorem Hand.issueAt_ttAdds (h : Hand) (now : Nat) (e : Engine) (pop : Nat) : (h.issueAt now e pop).ttAdds = h.ttAdds := by
  simp only [Hand.issueAt, Hand.modEngine, Hand.setEngine_ttAdds, Hand.popTok]
  split <;> rfl
theorem State.issued_handCtx (s : State) (e : Engine) (hd : Hdr) : (s.issued e hd).handCtx s.cur = s.ctx := by
  simp [State.issued, Mach.handCtx]

/-! ## The agenda -/

theorem mem_agendaAdd {t : Nat} {i : Instr} {p : Nat × Instr} {l : List (Nat × Instr)} :
    p ∈ agendaAdd t i l ↔ p = (t, i) ∨ p ∈ l := by
  induction l with
  | nil => simp [agendaAdd]
  | cons q l ih =>
    obtain ⟨u, j⟩ := q
    simp only [agendaAdd]
    split
    · simp
    · simp only [List.mem_cons, ih]
      tauto

theorem mem_foldl_agendaAdd {t : Nat} {f : Nat → Instr} {p : Nat × Instr} {is : List Nat} {l : List (Nat × Instr)} :
    p ∈ is.foldl (fun l i => agendaAdd t (f i) l) l ↔ p ∈ l ∨ ∃ i ∈ is, p = (t, f i) := by
  induction is generalizing l with
  | nil => simp
  | cons i is ih =>
    simp only [List.foldl_cons, ih, mem_agendaAdd, List.mem_cons, exists_eq_or_imp]
    tauto

@[simp] theorem Mach.tokenAt_hand_get (m : Mach) (t r f j : Nat) : (m.tokenAt t r f).hand j = m.hand j := by
  unfold Mach.tokenAt
  split <;> rfl
@[simp] theorem Mach.tokenAt_ctx_get (m : Mach) (t r f j : Nat) : (m.tokenAt t r f).ctx j = m.ctx j := by
  unfold Mach.tokenAt
  split <;> rfl
theorem Mach.mem_tokenAt {m : Mach} {t r f : Nat} (hf : f ≠ 0) : (t, .pendingTokenEntry r f) ∈ (m.tokenAt t r f).agenda := by
  simp [Mach.tokenAt, hf, mem_agendaAdd]

/-! ## Banks that serve an event (06 R116) -/

section
variable (m : Mach) (now : Nat) (i : Instr) (keys : List Nat)

theorem Mach.served_eq : ∃ t us q, m.served now i keys = { m with bankT := t, bankUse := us, bankQ := q } := by
  unfold Mach.served Mach.useBanks
  split <;> exact ⟨_, _, _, rfl⟩

@[simp] theorem Mach.served_rowError (k : Nat) : (m.served now i keys).rowError k = m.rowError k := by
  obtain ⟨t, us, q, h⟩ := Mach.served_eq m now i keys
  rw [h]; rfl
@[simp] theorem Mach.served_readSpan (l : List (Nat × Nat)) : (m.served now i keys).readSpan l = m.readSpan l := by
  obtain ⟨t, us, q, h⟩ := Mach.served_eq m now i keys
  rw [h]; rfl
@[simp] theorem Mach.served_shardDests (k : Nat) (v : Move) : (m.served now i keys).shardDests k v = m.shardDests k v := by
  obtain ⟨t, us, q, h⟩ := Mach.served_eq m now i keys
  rw [h]; rfl
end

theorem Mach.atBanks_of_busy {m : Mach} {now : Nat} {i : Instr} {keys : List Nat} {f : Mach → Mach}
    (h : m.banksBusy now (banksOf keys) = true) : m.atBanks now i keys false f = m.waitAtBank now i := by
  simp [Mach.atBanks, h]
theorem Mach.atBanks_of_free {m : Mach} {now : Nat} {i : Instr} {keys : List Nat} {f : Mach → Mach}
    (h : m.banksBusy now (banksOf keys) = false) : m.atBanks now i keys false f = f (m.served now i keys) := by
  simp [Mach.atBanks, h]

end Sys2Proof.Machine
end

section
/-! PROOFS. MARK against the movement timetable, and the schedule-misses of MARK and TTADD (04 R76, R77, R81). -/

namespace Sys2Proof.Machine

/-! ## A partition that neither records nor replays (21 R396) -/

theorem markFull_of_mode_zero {m : Mach} {r n : Nat} (h : (m.part (m.partOf r)).rpMode = 0) : m.markFull r n = false := by
  simp [Mach.markFull, Part.noRoom, h]
theorem noteMark_of_mode_zero {m : Mach} {now r : Nat} {es : List Move} (h : (m.part (m.partOf r)).rpMode = 0) :
    m.noteMark now r es = m := by
  simp [Mach.noteMark, h]
/-- Passing a rendezvous leaves the partition of the hand's context as it was. -/
theorem mode_passRv (m : Mach) (r : Nat) : ((m.modHand r Hand.passRv).part ((m.modHand r Hand.passRv).partOf r)).rpMode
    = (m.part (m.partOf r)).rpMode := by
  simp [Mach.partOf, Mach.handCtx]

/-! ## The tests of E (04 R76) -/

/-- The strict test passes done entries and stops at the first other one. -/
theorem strictStop_append_of_done {a es : List Move} (ha : ∀ u ∈ a, u.state = 3) : strictStop (a ++ es) = strictStop es := by
  induction a with
  | nil => rfl
  | cons u a ih =>
    rw [List.forall_mem_cons] at ha
    simp [strictStop, ha.1, ih ha.2]
theorem strictStop_of_done {es : List Move} (h : ∀ u ∈ es, u.state = 3) : strictStop es = none := by
  simpa [strictStop] using strictStop_append_of_done (es := []) h
theorem strictStop_of_first_not_done {a b : List Move} {v : Move} (ha : ∀ u ∈ a, u.state = 3) (hv : v.state ≠ 3) :
    strictStop (a ++ v :: b) = v.miss v.missReason := by
  rw [strictStop_append_of_done ha, strictStop, if_neg hv]

theorem waitStop_of_none_failed {b : Bool} {es : List Move} (h : ∀ v ∈ es, v.state ≠ 4) :
    waitStop b es = if es.all (fun v => v.state == 3) then none else if b then some (.freeze 10 0) else some (.start 10) := by
  have hfind : es.find? (fun v => v.state == 4) = none := by simpa using h
  simp [waitStop, hfind]
theorem waitStop_of_done {b : Bool} {es : List Move} (h : ∀ v ∈ es, v.state = 3) : waitStop b es = none := by
  rw [waitStop_of_none_failed (fun v hv => by simp [h v hv]), if_pos (by simpa using h)]
theorem waitStop_of_incomplete {es : List Move} (h : ∀ v ∈ es, v.state ≠ 4) (hx : ∃ v ∈ es, v.state ≠ 3) :
    waitStop false es = some (.start 10) := by
  rw [waitStop_of_none_failed h, if_neg (by simpa using hx)]
  rfl

/-! ## MARK -/

theorem markBound_eq (w : N) (cur : Nat) :
    markBound w cur = w.imm.toNat % 2 ^ 32 + if w.mod.getLsbD 2 then cur else 0 := by
  rw [markBound, bits_zero_toNat, bit]

/-- The stop that E gives a MARK (04 R76): none with nothing newly due, else that of its test, in replay by the records (21 R399). -/
def markStop (s : State) (w : N) : Option Stop :=
  let cur := s.ctx.mkOf s.cur
  let n := markBound w cur
  let es := s.m.markSet s.cur n (if s.hand.stage = 0 then s.tb else s.hand.stageT)
  if !decide (cur < n) then none
  else if !bit w.mod 3 && !bit (s.ctx.reg 0x109) 8 then
    if (s.m.part (s.m.partOf s.cur)).rpMode == 2 then replayStop es (s.m.markRecs s.cur) else strictStop es
  else waitStop (s.hand.stage != 0) es

/-- A stop that is no trap holds a MARK back; a trap is its effect, past the rendezvous of its engines. -/
def holdsBack : Option Stop → Option Stop
  | some (.trap _) => none
  | o => o

/-- What a MARK does to machine `m` past the rendezvous: it misses where E says so, and otherwise moves MKCUR to its bound and has every
engine look again, where something is newly due (04 R76, R86). -/
def markEffect (s : State) (w : N) (m : Mach) : Mach :=
  let cur := s.ctx.mkOf s.cur
  let n := markBound w cur
  match markStop s w with
  | some (.trap f) => (m.setHand s.cur s.hand).trap s.tb s.cur { f := f, word := (encode (.mark w)).getD 0 }
  | _ =>
    if !decide (cur < n) then m
    else ((m.modCtx s.hand.ctx (fun z => { z with mkcur := z.mkcur.set s.cur n })).lateAfter s.hand.ctx
      (if s.hand.stage = 0 then s.tb else s.hand.stageT)).examineAll s.tb

section
variable {s : State} {w : N}

theorem markStop_of_nothing_due (h : markBound w (s.ctx.mkOf s.cur) ≤ s.ctx.mkOf s.cur) : markStop s w = none := by
  simp [markStop, Nat.not_lt.2 h]
/-- A MARK with something newly due, at its first attempt and outside replay, makes the strict or the waiting test of E. -/
theorem markStop_of_due (hst : s.hand.stage = 0) (hm : (s.m.part (s.m.partOf s.cur)).rpMode = 0)
    (h : s.ctx.mkOf s.cur < markBound w (s.ctx.mkOf s.cur)) :
    markStop s w = (let es := s.m.markSet s.cur (markBound w (s.ctx.mkOf s.cur)) s.tb
      if !w.mod.getLsbD 3 && !(s.ctx.reg 0x109).getLsbD 8 then strictStop es else waitStop false es) := by
  simp [markStop, h, hst, hm, bit]

/-- With its bound in range and the log neither written nor read, a MARK is held back by the stop of E alone. -/
theorem firstStop_mark (hm : (s.m.part (s.m.partOf s.cur)).rpMode = 0) {n : Nat} (hn : n < 2 ^ 32) (rel go : Bool) (l : List W64)
    (k : Nat) (o : Option Stop) :
    firstStop [trapIf (rel && decide (0xFFFFFFFF < n)) 0x11 6 l, freezeIf (go && s.m.markFull s.cur k) 12, o] = o := by
  cases o <;> simp [markFull_of_mode_zero hm, decide_eq_false (Nat.not_lt.2 (Nat.le_of_lt_succ hn))]

variable (hc : (Instr.mark w).check = none) (hm : (s.m.part (s.m.partOf s.cur)).rpMode = 0)
  (hn : markBound w (s.ctx.mkOf s.cur) < 2 ^ 32)
include hc hm hn

/-- A MARK that is not held back is passed by the three engines, and has its effect. -/
theorem exec_mark_of_not_held (h : holdsBack (markStop s w) = none) :
    exec (.mark w) s = s.goes (markEffect s w (s.m.modHand s.cur Hand.passRv)) := by
  have hnote : ∀ (b : Bool) (es : List Move),
      (if b then (s.m.modHand s.cur Hand.passRv).noteMark s.tb s.cur es else s.m.modHand s.cur Hand.passRv)
        = s.m.modHand s.cur Hand.passRv := fun b es => by
    rw [noteMark_of_mode_zero ((mode_passRv s.m s.cur).trans hm), ite_self]
  refine congrArg Host.Outcome.next ((runRv_issues hc rfl (Nat.zero_le _) ?_).trans ?_)
  · exact (firstStop_mark hm hn _ _ _ _ (holdsBack (markStop s w))).trans h
  · exact congrArg (fun m => ({ s with m := markEffect s w m } : State)) (hnote _ _)

/-- A MARK that is held back stops there, and one that begins to wait counts in TTMISS. -/
theorem exec_mark_of_held {st : Stop} (h : holdsBack (markStop s w) = some st) :
    exec (.mark w) s = s.goes (s.m.stopWord ⟨s.tb, s.cur, s.eng⟩ 3 (.mark w)
      (fun m => m.modCtx s.hand.ctx (fun z => { z with ttmiss := min (z.ttmiss + 1) (2 ^ 32 - 1) })) st) :=
  congrArg Host.Outcome.next (runRv_stops hc rfl (Nat.zero_le _)
    ((firstStop_mark hm hn _ _ _ _ (holdsBack (markStop s w))).trans h))
end

theorem markOutcomes : Claims.MarkOutcomes := by
  intro s w hc hst hm cur n es strict hn
  have hb : markBound w cur = n := markBound_eq w cur
  have hdue (h : cur < n) : markStop s w = if strict then strictStop es else waitStop false es := by
    rw [← hb] at h
    rw [markStop_of_due hst hm h, hb]
  rw [← hb] at hn
  refine ⟨fun h => ?_, fun h hes => ?_, fun a v b h hstrict hes ha hv => ?_, fun h hstrict hfail hopen => ?_⟩
  · have hs : markStop s w = none := markStop_of_nothing_due (hb.trans_le h)
    rw [exec_mark_of_not_held hc hm hn (by rw [hs]; rfl), markEffect, hs]
    simp [cur, hb, Nat.not_lt.2 h]
  · have hs : markStop s w = none := by
      rw [hdue h, strictStop_of_done hes, waitStop_of_done hes, ite_self]
    rw [exec_mark_of_not_held hc hm hn (by rw [hs]; rfl), markEffect, hs]
    simp [cur, hb, h, hst]
  · have hs : markStop s w = v.miss v.missReason := by
      rw [hdue h, if_pos hstrict, hes, strictStop_of_first_not_done ha hv]
    rw [exec_mark_of_not_held hc hm hn (by rw [hs]; rfl), markEffect, hs]
    simp [Move.miss, trapOf]
  · have hs : markStop s w = some (.start 10) := by
      rw [hdue h, if_neg (by simp [hstrict]), waitStop_of_incomplete hfail hopen]
    refine ⟨_, exec_mark_of_held hc hm hn (by rw [hs]; rfl), ?_⟩
    simp [Mach.stopWord, Mach.block]

/-! ## Schedule-misses of a word before its entries are looked at (04 R76, R81) -/

/-- The fields of a schedule-miss that names no entry (04 R77). -/
abbrev noEntrySlots : List W64 := [0xFFFFFFFF, 0xFFFFFFFF, 0, 0, 0, 0]

theorem exec_mark_of_overflow {s : State} {w : N} (hc : (Instr.mark w).check = none) (hrel : w.mod.getLsbD 2 = true)
    (hn : 0xFFFFFFFF < markBound w (s.ctx.mkOf s.cur)) :
    exec (.mark w) s = s.goes (s.m.trap s.tb s.cur
      { f := ⟨0x11, 6, noEntrySlots⟩, eng := 3, word := (encode (.mark w)).getD 0 }) := by
  have hover : (bit w.mod 2 && decide (0xFFFFFFFF < markBound w (s.ctx.mkOf s.cur))) = true := by simp [bit, hrel, hn]
  refine congrArg Host.Outcome.next ((runRv_stops hc rfl (Nat.zero_le _) (st := .trap ⟨0x11, 6, noEntrySlots⟩) ?_).trans ?_)
  · exact congrArg (fun o => firstStop (o :: _)) (trapIf_of_true hover _ _ _)
  · rw [stopWord_trap (by simp)]

theorem exec_ttadd_of_no_timetable {s : State} {w : AC} (h : MayIssue s .a (.ttadd w) w.hdr) (hcap : s.ctx.ttCap = 0) :
    exec (.ttadd w) s = s.goes (s.m.trap s.tb s.cur
      { f := ⟨0x11, 7, noEntrySlots⟩, eng := 0, word := (encode (.ttadd w)).getD 0 }) := by
  refine congrArg Host.Outcome.next ((runWord_stops (st := .trap ⟨0x11, 7, noEntrySlots⟩) ?_).trans ?_)
  · refine guardWord_eq_own h rfl (Nat.zero_le _) ?_
    exact congrArg (fun o => firstStop (o :: _)) (trapIf_of_true (beq_iff_eq.2 hcap) _ _ _)
  · rw [stopWord_trap (by simp)]; rfl

theorem ttCap_eq (x : Ctx) : x.ttCap = (x.reg 0x109).toNat % 32 := bits_zero_toNat _ _

theorem markOverflowAndNoTimetable : Claims.MarkOverflowAndNoTimetable :=
  ⟨fun _ _ hc hrel hn => exec_mark_of_overflow hc hrel (by rw [markBound_eq, if_pos hrel]; exact hn),
   fun _ _ h hcap => exec_ttadd_of_no_timetable h ((ttCap_eq _).trans hcap)⟩

/-- Settles O27: outside record and replay the stop of a MARK is that of its test of E, which the lists of done, failed and incomplete
entries decide; a bound past 32 bits and a missing timetable stop the word before. -/
theorem markChecksTheTimetable : Obligations.MarkChecksTheTimetable := ⟨markOutcomes, markOverflowAndNoTimetable⟩

end Sys2Proof.Machine
end

section
/-! PROOFS. The words of the tier engine: TTADD, TIERQ, WPF, WPF.spec and TTCLR (04 R81 to R85, 14 R276). -/

namespace Sys2Proof.Machine

/-! ## The checks of words that read images through the load queue -/

theorem lsFull_eq_none {s : State} {isLoad : Bool} (h : Claims.Room s isLoad) : s.hand.lsFull s.tb isLoad = none := by
  obtain ⟨hplaces, hnom⟩ := h
  have hlate : s.hand.accs.any (fun a => decide (a.id < s.hand.alignAt) && decide (a.doneAt < s.tb)) = false := by
    simpa using hnom
  have hused : decide (16 ≤ s.hand.lsUsed isLoad) = false := decide_eq_false (Nat.not_le.2 hplaces)
  simp [Hand.lsFull, hlate, hused]

theorem imageStop_eq_none {s : State} {e : Engine} {w : AC} {n : Nat} (ha : (s.hand.areg w.desc.toNat).toNat % 32 = 0)
    (hspan : s.m.spanStop s.cur (s.hand.areg w.desc.toNat) (32 * n) false = none) :
    imageStop s.m ⟨s.tb, s.cur, e⟩ w n = none := by
  simp [imageStop, ha, hspan]

/-! ## The requests TIERQ, WPF and WPF.spec (04 R83 to R85) -/

/-- A request that passes its checks stops for nothing. -/
theorem requestStop_eq_none {s : State} {w : AC} {e : Engine} (hready : ReadyA s w.desc)
    (ha : (s.hand.areg w.desc.toNat).toNat % 32 = 0) (hspan : s.m.spanStop s.cur (s.hand.areg w.desc.toNat) 32 false = none)
    (hreq : s.m.requests s.cur < 8) (hroom : Claims.Room s true) : requestStop s.m ⟨s.tb, s.cur, e⟩ w none = none := by
  have himg : imageStop s.m ⟨s.tb, s.cur, e⟩ w 1 = none := imageStop_eq_none ha hspan
  simp [requestStop, needA_eq_none hready, himg, Nat.not_le.2 hreq, lsFull_eq_none hroom]

/-- The marker of a WPF or WPF.spec: MKCUR + d (04 R84; log 122). -/
abbrev wpfMarker (s : State) (w : AC) : Nat := s.ctx.mkOf s.cur + (bits w.imm 0 12).toNat
/-- The entry of the speculation table that a WPF.spec names (14 R276). -/
abbrev specEntry (s : State) (w : AC) : Spte := KMap.get {} s.cluster.spt (bits w.imm 15 8).toNat

section
variable {s : State} {w : AC} (hstop : requestStop s.m ⟨s.tb, s.cur, .a⟩ w none = none)
include hstop

theorem exec_tierq_issues (h : MayIssue s .a (.tierq w) w.hdr) :
    exec (.tierq w) s = s.goes (makeRequest s.m ⟨s.tb, s.cur, .a⟩ w .tierq (s.issued .a w.hdr)) :=
  congrArg Host.Outcome.next (runWord_issues h rfl (Nat.zero_le _) hstop)

theorem exec_wpf_issues (h : MayIssue s .a (.wpf w) w.hdr) :
    exec (.wpf w) s = s.goes (makeRequest s.m ⟨s.tb, s.cur, .a⟩ w (.wpf (wpfMarker s w)) (s.issued .a w.hdr)) :=
  congrArg Host.Outcome.next (runWord_issues h rfl (Nat.zero_le _) hstop)

/-- WPF.spec for an entry that is OPEN for its context counts itself there at its issue. -/
theorem exec_wpfSpec_issues (h : MayIssue s .a (.wpfSpec w) w.hdr) (hopen : (specEntry s w).open_ = true)
    (hctx : (specEntry s w).ctx = s.hand.ctx) :
    exec (.wpfSpec w) s = s.goes (makeRequest s.m ⟨s.tb, s.cur, .a⟩ w
      (.spec (wpfMarker s w) (bits w.imm 15 8).toNat (specEntry s w).opening)
      ((s.issued .a w.hdr).modCluster (clusterOf s.cur) (fun y =>
        { y with spt := y.spt.set (bits w.imm 15 8).toNat (specEntry s w).fetching }))) := by
  have hmine : trapIf (!(specEntry s w).open_ || (specEntry s w).ctx != s.hand.ctx) 1 8 = none := by simp [hopen, hctx]
  refine congrArg Host.Outcome.next (runWord_issues h rfl (Nat.zero_le _) ?_)
  exact (congrArg (requestStop s.m ⟨s.tb, s.cur, .a⟩ w) hmine).trans hstop
end

/-! ## TTCLR (04 R82) -/

/-- What TTCLR does once its entries are out of the checks in machine `m1`: its token with the last started entry of the ring, the hands
that wait for room, and the engines, looked at again. -/
def cleared (s : State) (w : AC) (m1 : Mach) : Mach :=
  let k := s.hand.ctx
  let run := ((m1.ctx k).moves.filter (fun v => v.isRing && v.state == 2)).map (·.id)
  (((if run.isEmpty then m1.pushToken s.tb s.cur (acTok w)
    else m1.modCtx k (fun z => { z with clrWaits := z.clrWaits ++ [(s.cur, s.hand.tid, acTok w, run)] })).resumeAdds
      s.tb k).pruneMoves k).examineAll s.tb

theorem exec_ttclr_issues {s : State} {w : AC} (h : MayIssue s .a (.ttclr w) w.hdr) :
    exec (.ttclr w) s = s.goes (cleared s w ((s.issued .a w.hdr).clearMoves s.tb s.hand.ctx)) := by
  refine congrArg Host.Outcome.next ((runWord_issues h rfl (Nat.zero_le _) rfl).trans ?_)
  dsimp only [cleared]

/-! ## TTADD issues (04 R81) -/

/-- The entries that a TTADD names. -/
abbrev addCount (w : AC) : Nat := (bits w.imm 0 13).toNat

/-- Must a TTADD that publishes wait: behind an earlier TTADD whose images are on their way, or held back by an acquire or an access? -/
def publishWaits (s : State) (w : AC) : Bool :=
  s.hand.accs.any (fun a => a.op == .img 0) || s.hand.held s.m.nextId (Claims.behind s w) || decide (s.tb < s.hand.accHold)

theorem not_publishWaits (s : State) (w : AC) :
    (!publishWaits s w) = (s.hand.addsAhead.isEmpty && !s.hand.held s.m.nextId (Claims.behind s w) && decide (s.hand.accHold ≤ s.tb)) := by
  have hahead : s.hand.addsAhead.isEmpty = !s.hand.accs.any (fun a => a.op == .img 0) := by
    rw [Bool.eq_iff_iff]
    simp [Hand.addsAhead]
  have hhold : decide (s.hand.accHold ≤ s.tb) = !decide (s.tb < s.hand.accHold) := by rw [← decide_not, decide_eq_decide, Nat.not_lt]
  rw [hahead, hhold, publishWaits, Bool.not_or, Bool.not_or]

section
variable {s : State} {w : AC} (h : MayIssue s .a (.ttadd w) w.hdr) (hcap : s.ctx.ttCap ≠ 0)
include h hcap

/-- A TTADD with a timetable, an aligned and readable block of images, its slots of the ring and a place reads its images. -/
theorem exec_ttadd_reads (hring : ringStop s.m ⟨s.tb, s.cur, .a⟩ (addCount w) true = none) (hpub : bit w.imm 23 = false)
    (hready : ReadyA s w.desc) (himg : imageStop s.m ⟨s.tb, s.cur, .a⟩ w (addCount w) = none) (hroom : Claims.Room s true) :
    exec (.ttadd w) s = s.goes (readImages s.m ⟨s.tb, s.cur, .a⟩ w (addCount w) 0 (addCount w) 0
      ((s.issued .a w.hdr).modHand s.cur (fun h =>
        { h with ttWait := h.ttWait ++ [(s.m.nextId, addOf s.m ⟨s.tb, s.cur, .a⟩ w)] }))) := by
  have hpass : firstStop [trapIf (s.ctx.ttCap == 0) 0x11 7 noEntrySlots,
      firstStop [s.hand.needA w.desc.toNat, imageStop s.m ⟨s.tb, s.cur, .a⟩ w (addCount w)],
      ringStop s.m ⟨s.tb, s.cur, .a⟩ (addCount w) true, s.hand.lsFull s.tb true] = none := by
    rw [beq_eq_false_iff_ne.2 hcap, needA_eq_none hready, himg, hring, lsFull_eq_none hroom]; rfl
  refine congrArg Host.Outcome.next ((runWord_issues h rfl (Nat.zero_le _) ?_).trans ?_)
  · rw [hpub]; exact hpass
  · simp only [hpub]; rfl

/-- A TTADD that publishes begins at once, or stands in the load queue as an access that reads nothing. -/
theorem exec_ttadd_publishes (hring : ringStop s.m ⟨s.tb, s.cur, .a⟩ (addCount w) false = none) (hpub : bit w.imm 23 = true) :
    exec (.ttadd w) s = s.goes (
      let t : TtAdd := { addOf s.m ⟨s.tb, s.cur, .a⟩ w with images := [], pub := addCount w, isPub := true }
      if !publishWaits s w then (s.issued .a w.hdr).beginAdd s.tb s.cur t
      else ((s.issued .a w.hdr).modHand s.cur (fun h => { h with ttWait := h.ttWait ++ [(s.m.nextId, t)] })).enqueue s.tb s.cur
        { id := 0, hand := s.cur, isLoad := true, op := .img 0, keys := [], rows := [], after := Claims.behind s w } []) := by
  have hpass : firstStop [trapIf (s.ctx.ttCap == 0) 0x11 7 noEntrySlots, none,
      ringStop s.m ⟨s.tb, s.cur, .a⟩ (addCount w) false, none] = none := by
    rw [beq_eq_false_iff_ne.2 hcap, hring]; rfl
  refine congrArg Host.Outcome.next ((runWord_issues h rfl (Nat.zero_le _) ?_).trans ?_)
  · rw [hpub]; exact hpass
  · rw [not_publishWaits]
    simp only [hpub]
    rfl
end

/-! ## Publishing entries (04 R81) -/

/-- The reads of some ring entries of context `k` put on the agenda at `t`. -/
def postReads (m : Mach) (t k : Nat) (is : List Nat) : Mach :=
  { m with agenda := is.foldl (fun l i => agendaAdd t (.ttRingReadReturn k i) l) m.agenda }

@[simp] theorem postReads_hand (m : Mach) (t k : Nat) (is : List Nat) (r : Nat) : (postReads m t k is).hand r = m.hand r := by
  simp only [postReads, Mach.hand]
@[simp] theorem postReads_ctx (m : Mach) (t k : Nat) (is : List Nat) (j : Nat) : (postReads m t k is).ctx j = m.ctx j := by
  simp only [postReads, Mach.ctx]
theorem mem_postReads {m : Mach} {t k : Nat} {is : List Nat} {p : Nat × Instr} :
    p ∈ (postReads m t k is).agenda ↔ p ∈ m.agenda ∨ ∃ i ∈ is, p = (t, .ttRingReadReturn k i) := mem_foldl_agendaAdd

/-- Reads posted one after the other for the context of a hand are those of one context: posting leaves every hand as it was. -/
theorem foldl_post_ringReads (m : Mach) (t r : Nat) (is : List Nat) :
    is.foldl (fun m i => m.post t (.ttRingReadReturn (m.hand r).ctx i)) m = postReads m t (m.hand r).ctx is := by
  induction is generalizing m with
  | nil => rfl
  | cons i is ih => exact ih _

theorem ttCap_lt (x : Ctx) : x.ttCap < 32 := (bits (x.reg 0x109) 0 5).isLt
theorem ttRoom_eq {x : Ctx} (h : x.ttCap ≠ 0) : x.ttRoom = 2 ^ x.ttCap := if_neg h
theorem sub32_succ {a b : Nat} (h : sub32 a b < 2 ^ 31) : sub32 ((a + 1) % 2 ^ 32) b = sub32 a b + 1 := by
  simp only [sub32] at *
  omega
theorem sub32_add {a n : Nat} (ha : a < 2 ^ 32) (hn : n < 2 ^ 32) : sub32 ((a + n) % 2 ^ 32) a = n := by
  simp only [sub32]
  omega

/-- The machine with one entry of the TTADD `t` of hand `r` published. -/
def publishOne (m : Mach) (now r : Nat) (t : TtAdd) : Mach :=
  (m.modHand r (fun h => { h with ttAdds := [{ t with pub := t.pub - 1 }] })).appendOne now r t.after none

theorem publishOne_hand (m : Mach) (now r : Nat) (t : TtAdd) :
    (publishOne m now r t).hand r = { m.hand r with ttAdds := [{ t with pub := t.pub - 1 }] } := by
  simp [publishOne, Mach.appendOne, Mach.pruneMoves]
/-- An entry that is published takes the next index; of its context only TTWR and the list of moves change. -/
theorem publishOne_ctx (m : Mach) (now r : Nat) (t : TtAdd) : ∃ ms, (publishOne m now r t).handCtx r =
    { m.handCtx r with ttwr := ((m.handCtx r).ttwr + 1) % 2 ^ 32, moves := ms } := by
  simp [publishOne, Mach.appendOne, Mach.pruneMoves, Mach.handCtx]

/-- The machine in which the TTADD `t` of hand `r`, the only one, with nothing to release, has published its entries and completed: its token
and the reads of its entries are due. -/
def completeAdd (m : Mach) (now r : Nat) (t : TtAdd) : Mach :=
  postReads ((m.modHand r (fun h => { h with ttAdds := [] })).tokenAt now r t.tok) now (m.hand r).ctx
    ((List.range (sub32 (m.handCtx r).ttwr t.first)).map (fun j => (t.first + j) % 2 ^ 32))

/-- The TTADD `t` of hand `r` has completed in machine `m`, with TTWR of its context `k` at `wr`: the reads of its entries and its token are
due. -/
structure Published (now r k wr : Nat) (t : TtAdd) (m : Mach) : Prop where
  ttwr : (m.ctx k).ttwr = wr
  adds : (m.hand r).ttAdds = []
  reads : ∀ j, j < sub32 wr t.first → (now, .ttRingReadReturn k ((t.first + j) % 2 ^ 32)) ∈ m.agenda
  token : t.tok ≠ 0 → (now, .pendingTokenEntry r t.tok) ∈ m.agenda

theorem completeAdd_published (m : Mach) (now r : Nat) (t : TtAdd) :
    Published now r (m.hand r).ctx (m.handCtx r).ttwr t (completeAdd m now r t) where
  ttwr := by simp [completeAdd, Mach.handCtx]
  adds := by simp [completeAdd]
  reads j hj := mem_postReads.2 (.inr ⟨_, List.mem_map.2 ⟨j, List.mem_range.2 hj, rfl⟩, rfl⟩)
  token h := mem_postReads.2 (.inl (Mach.mem_tokenAt h))

/-- The TTADD `t` is the only one of hand `r`, publishes with nothing to release, and the ring has room for what it has left. -/
structure Publishes (m : Mach) (r : Nat) (t : TtAdd) : Prop where
  adds : (m.hand r).ttAdds = [t]
  isPub : t.isPub = true
  rel : t.rel = 0
  cap : (m.handCtx r).ttCap ≠ 0
  ttwr : (m.handCtx r).ttwr < 2 ^ 32
  room : sub32 (m.handCtx r).ttwr (m.handCtx r).ttrd + t.pub ≤ 2 ^ (m.handCtx r).ttCap

/-- A hand with no TTADD has nothing to append. -/
theorem appendSome_of_no_add {m : Mach} {now r fuel : Nat} (h : (m.hand r).ttAdds = []) : m.appendSome now r fuel = m := by
  cases fuel with
  | zero => rfl
  | succ fuel => simp [Mach.appendSome, h]

section
variable {m : Mach} {now r fuel : Nat} {t : TtAdd} (h : Publishes m r t)
include h

theorem Publishes.appendSome_completes (hleft : t.pub = 0) : m.appendSome now r (fuel + 1) = completeAdd m now r t := by
  have hend : m.appendSome now r (fuel + 1) = (completeAdd m now r t).appendSome now r fuel := by
    simp only [Mach.appendSome, h.adds, h.isPub, h.rel, hleft, foldl_post_ringReads, if_true, Nat.max_zero, Mach.tokenAt_hand_get,
      Mach.modHand_hand_get]
    rw [completeAdd]
  rw [hend, appendSome_of_no_add (completeAdd_published m now r t).adds]

theorem Publishes.appendSome_publishes (hleft : t.pub ≠ 0) :
    m.appendSome now r (fuel + 1) = (publishOne m now r t).appendSome now r fuel := by
  have hroom : sub32 (m.handCtx r).ttwr (m.handCtx r).ttrd < (m.handCtx r).ttRoom := by
    have hfits := h.room
    rw [ttRoom_eq h.cap]
    omega
  simp [publishOne, Mach.appendSome, h.adds, h.isPub, hleft, Nat.not_le.2 hroom]

/-- An entry that is published leaves room for the rest. -/
theorem Publishes.publishOne (hleft : t.pub ≠ 0) : Publishes (publishOne m now r t) r { t with pub := t.pub - 1 } := by
  obtain ⟨ms, hctx⟩ := publishOne_ctx m now r t
  have hfits := h.room
  have hcap : 2 ^ (m.handCtx r).ttCap ≤ 2 ^ 31 := Nat.pow_le_pow_right (by decide) (Nat.le_of_lt_succ (ttCap_lt _))
  have hsub : sub32 (((m.handCtx r).ttwr + 1) % 2 ^ 32) (m.handCtx r).ttrd = sub32 (m.handCtx r).ttwr (m.handCtx r).ttrd + 1 :=
    sub32_succ (by omega)
  refine ⟨by rw [publishOne_hand], h.isPub, h.rel, ?_, ?_, ?_⟩ <;> rw [hctx]
  · exact h.cap
  · exact Nat.mod_lt _ (by decide)
  · have hleft' : sub32 (m.handCtx r).ttwr (m.handCtx r).ttrd + 1 + (t.pub - 1) ≤ 2 ^ (m.handCtx r).ttCap := by omega
    exact hsub.symm ▸ hleft'
end

/-- A TTADD that publishes into a ring with room for its `p` entries completes in the cycle in which it begins. -/
theorem appendSome_published {now r : Nat} (p : Nat) : ∀ {m : Mach} {fuel : Nat} {t : TtAdd}, t.pub = p → Publishes m r t → p < fuel →
    Published now r (m.hand r).ctx (((m.handCtx r).ttwr + p) % 2 ^ 32) t (m.appendSome now r fuel) := by
  induction p with
  | zero =>
    intro m fuel t hp h hfuel
    obtain ⟨fuel, rfl⟩ : ∃ f, fuel = f + 1 := ⟨fuel - 1, by omega⟩
    rw [h.appendSome_completes hp, Nat.add_zero, Nat.mod_eq_of_lt h.ttwr]
    exact completeAdd_published m now r t
  | succ p ih =>
    intro m fuel t hp h hfuel
    obtain ⟨fuel, rfl⟩ : ∃ f, fuel = f + 1 := ⟨fuel - 1, by omega⟩
    have hleft : t.pub ≠ 0 := by omega
    obtain ⟨ms, hctx⟩ := publishOne_ctx m now r t
    have hrest := ih (fuel := fuel) (by simp [hp]) (h.publishOne (now := now) hleft) (by omega)
    have hwr : (((m.handCtx r).ttwr + 1) % 2 ^ 32 + p) % 2 ^ 32 = ((m.handCtx r).ttwr + (p + 1)) % 2 ^ 32 := by omega
    rw [publishOne_hand, hctx] at hrest
    rw [h.appendSome_publishes hleft, ← hwr]
    exact ⟨hrest.ttwr, hrest.adds, hrest.reads, hrest.token⟩

/-- A TTADD that begins with no other before it, nothing to release and room for its entries completes in its cycle (04 R81). -/
theorem beginAdd_published {m : Mach} {now r : Nat} {t : TtAdd} (hadds : (m.hand r).ttAdds = []) (hpub : t.isPub = true) (hrel : t.rel = 0)
    (hfuel : t.pub < 8194) (hcap : (m.handCtx r).ttCap ≠ 0) (hwr : (m.handCtx r).ttwr < 2 ^ 32)
    (hroom : sub32 (m.handCtx r).ttwr (m.handCtx r).ttrd + t.pub ≤ 2 ^ (m.handCtx r).ttCap) :
    Published now r (m.hand r).ctx (((m.handCtx r).ttwr + t.pub) % 2 ^ 32) { t with first := (m.handCtx r).ttwr }
      (m.beginAdd now r t) := by
  let t' : TtAdd := { t with first := (m.handCtx r).ttwr }
  let m' := m.modHand r (fun h => { h with ttAdds := h.ttAdds ++ [t'] })
  have hk : (m'.hand r).ctx = (m.hand r).ctx := by simp [m']
  have hctx : m'.handCtx r = m.handCtx r := congrArg m.ctx hk
  have hbegun : Publishes m' r t' := ⟨by simp [m', hadds], hpub, hrel, by rwa [hctx], by rwa [hctx], by rwa [hctx]⟩
  have hdone := appendSome_published (now := now) (t := t') t.pub rfl hbegun hfuel
  rwa [hk, hctx] at hdone

/-- Settles O28: each word issues with its effect, the checks of its descriptor passed; a TTADD that publishes goes round its loop once for
each entry. -/
theorem tierWords : Obligations.TierWords := by
  refine ⟨?_, ?_, ?_⟩
  · intro s w n a x t waits hcap hring hissue
    have hn : addCount w = n := bits_zero_toNat _ _
    rw [← hn] at hring
    refine ⟨fun hpub hroom hready ha hspan => ?_, fun hpub hwaits => ?_, fun hpub hwaits hrel hadds hwr hroom => ?_⟩
    · rw [← hn] at hspan ⊢
      rw [hpub] at hring
      exact exec_ttadd_reads hissue hcap hring hpub hready (imageStop_eq_none ha hspan) hroom
    · rw [hpub] at hring
      have hw : publishWaits s w = true := hwaits
      rw [exec_ttadd_publishes hissue hcap hring hpub, hw, ← hn]
      rfl
    · rw [hpub] at hring
      have hw : publishWaits s w = false := hwaits
      have hhand : (s.issued .a w.hdr).hand s.cur = s.hand.issueAt s.tb .a (popFifo .a w.hdr.pop) := by simp [State.issued]
      have hctx := State.issued_handCtx s .a w.hdr
      have hcount : sub32 ((s.ctx.ttwr + n) % 2 ^ 32) s.ctx.ttwr = n := sub32_add hwr (hn ▸ (bits w.imm 0 13).isLt.trans (by decide))
      have hdone := beginAdd_published (m := s.issued .a w.hdr) (now := s.tb) (r := s.cur)
        (t := { addOf s.m ⟨s.tb, s.cur, .a⟩ w with images := [], pub := addCount w, isPub := true })
        (by rw [hhand, Hand.issueAt_ttAdds, hadds]) rfl (by simp [addOf, hrel]) ((bits w.imm 0 13).isLt.trans (by decide))
        (by rwa [hctx]) (by rwa [hctx]) (by rw [hctx, hn]; exact hroom)
      rw [hctx, hhand, Hand.issueAt_ctx] at hdone
      refine ⟨_, exec_ttadd_publishes hissue hcap hring hpub, ?_⟩
      rw [hw]
      refine ⟨hn ▸ hdone.ttwr, hdone.adds, fun j hj => hdone.reads j ?_, hdone.token⟩
      exact (hj.trans_eq hcount.symm).trans_eq (by rw [← hn])
  · intro s w a hready ha hspan hreq hroom mk asks
    have hstop {e : Engine} := requestStop_eq_none (e := e) hready ha hspan hreq hroom
    have hmk : wpfMarker s w = mk := by rw [wpfMarker, bits_zero_toNat]
    have hasks (kind : MoveKind) (m : Mach) (hm : m.nextId = s.m.nextId) :
        makeRequest s.m ⟨s.tb, s.cur, .a⟩ w kind m = asks kind m := by
      simp only [makeRequest, readImages, readAfter, acTok, hm, asks]
    refine ⟨fun h => ?_, fun h => ?_, fun hopen hctx h => ?_⟩
    · rw [exec_tierq_issues hstop h, hasks _ (s.issued .a w.hdr) rfl]
    · rw [exec_wpf_issues hstop h, hasks _ (s.issued .a w.hdr) rfl, hmk]
    · rw [← bits_toNat w.imm 15 8] at hopen hctx ⊢
      rw [exec_wpfSpec_issues hstop h hopen hctx, hasks, hmk]
      · rfl
      · rfl
  · intro s w h k m1 run
    rw [exec_ttclr_issues h, cleared]
    simp only [List.isEmpty_iff]
    rfl

end Sys2Proof.Machine
end

section
/-! PROOFS. The events of the tier engine: ring reads, starts, ends, shards of peers, status records (04 R70 to R74, R81 to R84). -/

namespace Sys2Proof.Machine

/-! ## The ring (04 R70, R81) -/

section
variable {s : State} {k i : Nat} {v : Move}
  (hv : (s.m.ctx k).moves.find? (fun v => v.isRing && v.index == i && v.state == 0) = some v)
  (hacc : ∀ a ∈ (s.m.hand v.hand).accs, v.after ≤ a.id)
include hv hacc

/-- The ring read of a published entry, once nothing that its TTADD waits for is left, begins and takes 180 c. -/
theorem exec_ttRingReadReturn_begins (hask : v.askT = 0) :
    exec (.ttRingReadReturn k i) s =
      s.goes ((s.m.putMove k { v with askT := s.tb + 180 }).post (s.tb + 180) (.ttRingReadReturn k i)) := by
  have hleft : (s.m.hand v.hand).accs.any (fun a => decide (a.id < v.after)) = false := by simpa using hacc
  show execTtRingReadReturn k i s = _
  simp [execTtRingReadReturn, runEvent, hv, hleft, hask]

/-- The ring read of a published entry that is over brings its image to the engine. -/
theorem exec_ttRingReadReturn_returns {bs : List Byte} (hask : v.askT ≠ 0) (hdue : v.askT ≤ s.tb)
    (hread : s.m.readAt k ((s.m.ctx k).ttSlot i) 32 true = .ok bs) :
    exec (.ttRingReadReturn k i) s = s.goes ((s.m.putMove k { v with img := bs }).arrive s.tb k { v with img := bs }) := by
  have hleft : (s.m.hand v.hand).accs.any (fun a => decide (a.id < v.after)) = false := by simpa using hacc
  show execTtRingReadReturn k i s = _
  simp [execTtRingReadReturn, runEvent, hv, hleft, hask, Nat.not_lt.2 hdue, hread]
end

/-- The first entry that has not started starts at the cycle that was fixed for it, and the engine looks at the next one. -/
theorem exec_ttEntryStart_starts {s : State} {k i : Nat} {v : Move} (hv : (s.m.ctx k).nextEntry = some v) (hi : v.index = i)
    (hnow : s.tb ≤ v.startT + 1) (hstart : s.m.startable k v = true) :
    exec (.ttEntryStart k i) s = s.goes ((s.m.startMove v.startT k v).examine v.startT k) := by
  show execTtEntryStart k i s = _
  simp [execTtEntryStart, runEvent, hv, hi, hnow, hstart]

/-! ## The end of a shard (04 R72, R73) -/

/-- The three end events are one. -/
theorem exec_ttEntryEnd (id : Nat) (s : State) : exec (.ttEntryEnd id) s = s.goes (s.m.moveEnd s.tb id) := rfl
theorem exec_tierRequestEnd (id : Nat) (s : State) : exec (.tierRequestEnd id) s = s.goes (s.m.moveEnd s.tb id) := rfl
theorem exec_specFetchEnd (id : Nat) (s : State) : exec (.specFetchEnd id) s = s.goes (s.m.moveEnd s.tb id) := rfl

/-- A shard whose bytes can be written at every destination is landed, and the next one is due from the first slot on. -/
theorem landShard_of_written {m m' : Mach} {k j : Nat} {v : Move} {bs : List Byte}
    (h : m.writeAll k bs (m.shardDests k v) = .ok m') :
    m.landShard k v j bs = (m', { v with slotSt := v.slotSt.set j 1, slotUsed := j, shard := v.shard + 1, slotNow := 0, asked := false }) := by
  simp [Mach.landShard, h]

/-- A local shard of rows without an error lands the bytes of where it was translated to. -/
theorem localShard_of_no_error {m : Mach} {k j : Nat} {v : Move} (h : ∀ k, m.rowError k = none) :
    m.localShard k v j = m.landShard k v j (m.readSpan v.src) := by
  simp [Mach.localShard, Mach.anyUE, h]

section
variable {m : Mach} {now id k : Nat} {v : Move} (hv : m.findMove id = some (k, v)) (hst : v.state = 2) (hend : v.endT ≤ now)
  (hask : v.asked = false) (hr : v.reason = 0)
include hv hst hend hask hr

/-- The end event of a running move whose peer's shard has come goes to the shard's banks. -/
theorem moveEnd_of_got {bs : List Byte} (hgot : v.got = some bs) :
    m.moveEnd now id = m.atBanks now v.endEvent (m.shardKeys k v) false (fun m =>
      let r := m.landShard k { v with got := none } v.slotNow bs
      if r.2.reason != 0 then r.1.endAt k r.2 now else r.1.goMove now k r.2) := by
  simp [Mach.moveEnd, hv, Move.isOpen, hst, Nat.not_lt.2 hend, hask, hr, hgot]

/-- The end event of a running move that reads a local shard goes to the banks of its source and of its destination. -/
theorem moveEnd_of_local (hgot : v.got = none) (hlen : v.shardLen ≠ 0) (hslot : v.runSlot ≠ 4) :
    m.moveEnd now id = m.atBanks now v.endEvent (v.src.map Prod.fst ++ m.shardKeys k v) false (fun m =>
      let r := m.localShard k v v.runSlot
      if r.2.killed then (r.1.endMove now k r.2 6).afterEnd now k
      else if r.2.reason != 0 then (r.1.endMove now k r.2 4).afterEnd now k
      else if r.2.len ≤ 1048576 * r.2.shard then (r.1.endMove now k r.2 3).afterEnd now k
      else r.1.goMove now k r.2) := by
  simp [Mach.moveEnd, hv, Move.isOpen, hst, Nat.not_lt.2 hend, hask, hr, hgot, hlen, hslot]
end

/-- The only shard of a move from its first slot, local and without an error, is written and ends the move as done (04 R72, R73). -/
theorem moveEnd_of_only_shard {m m' : Mach} {now id k : Nat} {v : Move} (hv : m.findMove id = some (k, v)) (hst : v.state = 2)
    (hend : v.endT ≤ now) (hask : v.asked = false) (hr : v.reason = 0) (hshard : v.shard = 0) (hnow : v.slotNow = 0) (hslot : v.runSlot = 0)
    (hsl : v.slotSt = [1, 0, 0, 0]) (hlen : 0 < v.len) (hmax : v.len ≤ 2 ^ 20) (herr : ∀ k, m.rowError k = none)
    (hkill : v.killed = false) (hgot : v.got = none)
    (hbusy : m.banksBusy now (banksOf (v.src.map Prod.fst ++ m.shardKeys k v)) = false)
    (hw : (m.served now v.endEvent (v.src.map Prod.fst ++ m.shardKeys k v)).writeAll k (m.readSpan v.src) (m.shardDests k v) = .ok m') :
    m.moveEnd now id = (m'.endMove now k { v with slotSt := [1, 0, 0, 0], slotUsed := 0, shard := 1 } 3).afterEnd now k := by
  have hbytes : v.shardLen ≠ 0 := by
    simp only [Move.shardLen, hshard]
    omega
  rw [moveEnd_of_local hv hst hend hask hr hgot hbytes (by rw [hslot]; decide), Mach.atBanks_of_free hbusy,
    localShard_of_no_error (by simpa using herr)]
  simp only [Mach.served_readSpan]
  rw [landShard_of_written ((Mach.served_shardDests m now _ _ k v).symm ▸ hw)]
  have hlast : field v.img 28 4 ≤ 1048576 := hmax
  simp [hkill, hr, hslot, hsl, hshard, hask, hnow, Move.len, hlast]

/-! ## Shards of peers (04 R72) -/

section
variable {s : State} {id k : Nat} {v : Move} (hv : s.m.findMove id = some (k, v)) (hst : v.state = 2) (hask : v.asked = true)
include hv hst hask

/-- A shard of a peer whose CRC and length hold goes to its banks. -/
theorem exec_tierShardArrival_holds {bs : List Byte} {crc : W64} (hcrc : crc64 bs = crc) (hlen : bs.length = v.shardLen) :
    exec (.tierShardArrival id bs crc) s =
      exec (.ttEntryEnd id) { s with m := s.m.putMove k { v with got := some bs, asked := false, endT := s.tb } } := by
  show execTierShardArrival id bs crc s = execTtEntryEnd id _
  simp [execTierShardArrival, execTtEntryEnd, runEvent, hv, hst, hask, hcrc, hlen]

/-- A shard of a peer whose CRC does not hold is corrupt: its next slot is tried. -/
theorem exec_tierShardArrival_corrupt {bs : List Byte} {crc : W64} (hcrc : crc64 bs ≠ crc) :
    exec (.tierShardArrival id bs crc) s = s.goes (s.m.goMove s.tb k { v.slotFails v.slotNow 2 with asked := false }) := by
  show execTierShardArrival id bs crc s = _
  simp [execTierShardArrival, runEvent, hv, hst, hask, hcrc]

/-- A shard of a peer that has not come within 52,500 c is missing: its next slot is tried. -/
theorem exec_tierShardTimeout_missing (hdue : v.askT + 52500 ≤ s.tb) :
    exec (.tierShardTimeout id) s = s.goes (s.m.goMove s.tb k { v.slotFails v.slotNow 3 with asked := false }) := by
  show execTierShardTimeout id s = _
  simp [execTierShardTimeout, runEvent, hv, hst, hask, Nat.not_lt.2 hdue]

theorem exec_tierShardTimeout_early (hdue : s.tb < v.askT + 52500) : exec (.tierShardTimeout id) s = s.goes s.m := by
  show execTierShardTimeout id s = _
  simp [execTierShardTimeout, runEvent, hv, hst, hask, hdue]
end

/-- A shard of a peer written at its banks: the next one is due. -/
theorem moveEnd_of_got_written {m m' : Mach} {now id k : Nat} {v : Move} {bs : List Byte} (hv : m.findMove id = some (k, v))
    (hst : v.state = 2) (hend : v.endT ≤ now) (hask : v.asked = false) (hr : v.reason = 0) (hgot : v.got = some bs)
    (hbusy : m.banksBusy now (banksOf (m.shardKeys k v)) = false)
    (hw : (m.served now v.endEvent (m.shardKeys k v)).writeAll k bs (m.shardDests k v) = .ok m') :
    m.moveEnd now id = m'.goMove now k
      { v with got := none, slotSt := v.slotSt.set v.slotNow 1, slotUsed := v.slotNow, shard := v.shard + 1, slotNow := 0 } := by
  rw [moveEnd_of_got hv hst hend hask hr hgot, Mach.atBanks_of_free hbusy,
    landShard_of_written (v := { v with got := none }) ((Mach.served_shardDests m now _ _ k _).symm ▸ hw)]
  simp [hr, hask]

/-! ## The status record (04 R74) -/

theorem writeStatus_of_written {m m' : Mach} {now k : Nat} {v : Move}
    (h : (if v.firstBad = none then { m with freeN := m.freeN + 1 } else m).writeAt k ((m.ctx k).ttStat v.index) (leBytes 8 now
      ++ leBytes 1 (match v.state with | 3 => if v.late then 4 else 1 | 4 => 2 | 5 => 3 | _ => 5)
      ++ leBytes 1 v.reason ++ leBytes 1 v.slotUsed ++ leBytes 1 v.bad
      ++ leBytes 4 (v.firstBad.getD ((Config.freeValue m.freeN).toNat % 2 ^ 32))) true = .ok m') :
    m.writeStatus now k v = m' := by
  have hfree : (bits (Config.freeValue m.freeN) 0 32).toNat = (Config.freeValue m.freeN).toNat % 2 ^ 32 := bits_zero_toNat _ _
  simp only [Mach.writeStatus, hfree, Option.isNone_iff_eq_none]
  split
  next m1 hok => exact Except.ok.inj (hok.symm.trans h)
  next f herr => exact absurd (herr.symm.trans h) nofun

/-- Settles O29: each event finds its move, and what it does is read off the lemma of its case. -/
theorem tierEvents : Obligations.TierEvents := by
  refine ⟨?_, ?_, ?_, ?_, ?_, ?_⟩
  · exact fun s k i v bs hv hacc => ⟨exec_ttRingReadReturn_begins hv hacc, exec_ttRingReadReturn_returns hv hacc⟩
  · exact fun s k i v hv hi _ hnow hstart => exec_ttEntryStart_starts hv hi hnow hstart
  · intro s id k v l m hv hst hend hask hr hshard hnow hslot hsl hlen hmax herr hl hkill hgot keys hbusy hw t
    subst hl
    have h : s.m.moveEnd s.tb id = t :=
      moveEnd_of_only_shard hv hst hend hask hr hshard hnow hslot hsl hlen hmax herr hkill hgot hbusy hw
    rw [exec_ttEntryEnd, exec_tierRequestEnd, exec_specFetchEnd, h]
    exact ⟨rfl, rfl, rfl⟩
  · exact fun s id k v bs crc hv hst hask hr => ⟨exec_tierShardArrival_holds hv hst hask, exec_tierShardArrival_corrupt hv hst hask,
      exec_tierShardTimeout_missing hv hst hask, exec_tierShardTimeout_early hv hst hask⟩
  · refine fun s id k v bs hv hst hend hask hr hgot => ⟨fun hbusy => ?_, fun hbusy m hw => ?_⟩
    · rw [exec_ttEntryEnd, moveEnd_of_got hv hst hend hask hr hgot, Mach.atBanks_of_busy hbusy]
    · rw [exec_ttEntryEnd, moveEnd_of_got_written hv hst hend hask hr hgot hbusy hw]
  · exact fun m m' now k v h => writeStatus_of_written h

end Sys2Proof.Machine
end

section
/-! PROOFS. Rules of memory and of shared operations that stream registers and copies use: bytes after a write, what leaves hands and
memory alone, tokens, errors of rows, recorded faults (log 3, 06 R116, 07 R143, 19 R364, R379). -/

namespace Sys2Proof.Machine

/-! ## Bytes of memory after a write (log 3) -/

theorem Memory.read_eq_zero_of_below {t : Memory} {a j : Nat} (h : t.head?.all (fun p => decide (a < p.1)) = true) (hj : j ≤ a) :
    Memory.read t j = 0 := by
  cases t with
  | nil => rfl
  | cons p t =>
    have ha : a < p.1 := by simpa using h
    rw [Memory.read, if_neg (by omega), if_pos (by omega)]

theorem Memory.read_write {mem : Memory} (h : mem.wf = true) (k : Nat) (v : Byte) (j : Nat) :
    (mem.write k v).read j = if j = k then v else mem.read j := by
  induction mem with
  | nil => grind [Memory.write, Memory.read]
  | cons p t ih =>
    obtain ⟨a, x⟩ := p
    simp only [Memory.wf, Bool.and_eq_true] at h
    obtain ⟨⟨-, habove⟩, ht⟩ := h
    -- where the byte at `a` is taken out, what lies up to `a` reads 0
    have hlow : j ≤ a → Memory.read t j = 0 := Memory.read_eq_zero_of_below habove
    rcases lt_trichotomy k a with hk | rfl | hk
    · grind [Memory.write, Memory.read]
    · grind [Memory.write, Memory.read]
    · have hrest := ih ht
      grind [Memory.write, Memory.read]

theorem Memory.read_writeN_of_outside {mem : Memory} {k j : Nat} {bs : List Byte} (h : mem.wf = true) (hj : j < k ∨ k + bs.length ≤ j) :
    (mem.writeN k bs).read j = mem.read j := by
  induction bs generalizing mem k with
  | nil => rfl
  | cons b bs ih =>
    rw [List.length_cons] at hj
    rw [Memory.writeN, ih (Memory.wf_of_write _ _ _ h) (by omega), Memory.read_write h, if_neg (by omega)]

theorem Memory.readN_succ (mem : Memory) (k n : Nat) : mem.readN k (n + 1) = mem.read k :: mem.readN (k + 1) n := by
  simp [Memory.readN, List.range_succ_eq_map, Nat.add_assoc, Nat.add_comm 1]

theorem Memory.readN_writeN {mem : Memory} {k : Nat} {bs : List Byte} (h : mem.wf = true) :
    (mem.writeN k bs).readN k bs.length = bs := by
  induction bs generalizing mem k with
  | nil => rfl
  | cons b bs ih =>
    have hwf := Memory.wf_of_write mem k b h
    have hhead : (Memory.writeN (mem.write k b) (k + 1) bs).read k = b := by
      rw [Memory.read_writeN_of_outside hwf (.inl (Nat.lt_succ_self k)), Memory.read_write h, if_pos rfl]
    rw [Memory.writeN, List.length_cons, Memory.readN_succ, hhead, ih hwf]

@[simp] theorem leBytes_length (n v : Nat) : (leBytes n v).length = n := by simp [leBytes]

/-! ## Writes at addresses change memory alone -/

theorem Mach.writeSpan_eq (m : Mach) (l : List (Nat × Nat)) (bs : List Byte) : ∃ mem, m.writeSpan l bs = { m with mem := mem } := by
  induction l generalizing m bs with
  | nil => exact ⟨m.mem, rfl⟩
  | cons p l ih =>
    obtain ⟨mem, h⟩ := ih (m.poke p.1 (bs.take p.2)) (bs.drop p.2)
    exact ⟨mem, h⟩

theorem Mach.writeAt_eq {m m' : Mach} {k : Nat} {x : W64} {bs : List Byte} {u : Bool} (h : m.writeAt k x bs u = .ok m') :
    ∃ mem, m' = { m with mem := mem } := by
  rw [Mach.writeAt] at h
  cases hspan : m.span k x bs.length true u with
  | error f => simp [hspan, Except.map] at h
  | ok l =>
    simp only [hspan, Except.map, Except.ok.injEq] at h
    rw [← h]
    exact m.writeSpan_eq l bs

theorem Mach.writeAt_rowError {m m' : Mach} {k : Nat} {x : W64} {bs : List Byte} {u : Bool} (h : m.writeAt k x bs u = .ok m')
    (j : Nat) : m'.rowError j = m.rowError j := by
  obtain ⟨mem, rfl⟩ := Mach.writeAt_eq h
  rfl

/-! ## Looking at the moves leaves hands and memory -/

/-- Two machines have the same hands and the same memory. -/
structure SameThreads (m m' : Mach) : Prop where
  hands : m'.hands = m.hands
  mem : m'.mem = m.mem

theorem SameThreads.refl (m : Mach) : SameThreads m m := ⟨rfl, rfl⟩
theorem SameThreads.trans {m m1 m2 : Mach} (h1 : SameThreads m m1) (h2 : SameThreads m1 m2) : SameThreads m m2 :=
  ⟨h2.hands.trans h1.hands, h2.mem.trans h1.mem⟩
theorem SameThreads.hand {m m' : Mach} (h : SameThreads m m') (r : Nat) : m'.hand r = m.hand r := by
  rw [Mach.hand, h.hands, Mach.hand]
theorem SameThreads.foldl {α : Type} {f : Mach → α → Mach} (hf : ∀ m x, SameThreads m (f m x)) (l : List α) (m : Mach) :
    SameThreads m (l.foldl f m) := by
  induction l generalizing m with
  | nil => exact .refl m
  | cons x l ih => exact (hf m x).trans (ih _)

section
variable (m : Mach) (now k : Nat)

theorem Mach.endAt_sameThreads (v : Move) (t : Nat) : SameThreads m (m.endAt k v t) := ⟨rfl, rfl⟩
theorem Mach.goMove_sameThreads (v : Move) : SameThreads m (m.goMove now k v) := by
  rw [Mach.goMove]
  split
  · exact m.endAt_sameThreads k _ _
  split
  · exact m.endAt_sameThreads k _ _
  split
  · exact m.endAt_sameThreads k _ _
  dsimp only
  split
  · exact m.endAt_sameThreads k _ _
  · exact ⟨rfl, rfl⟩
theorem Mach.startMove_sameThreads (v : Move) : SameThreads m (m.startMove now k v) := by
  rw [Mach.startMove]
  refine SameThreads.trans ?_ (Mach.goMove_sameThreads _ now k _)
  refine SameThreads.foldl ?_ _ m
  exact fun m d => ⟨rfl, rfl⟩
theorem Mach.examine_sameThreads : SameThreads m (m.examine now k) := by
  have hrequests : SameThreads m (((m.ctx k).moves.filter (fun v => !v.isRing)).foldl
      (fun m v => if m.startable k v then m.startMove now k v else m) m) := by
    refine SameThreads.foldl (fun m v => ?_) _ m
    split
    · exact m.startMove_sameThreads now k v
    · exact .refl m
  refine hrequests.trans ?_
  rw [Mach.examine]
  split
  · exact .refl _
  split
  · exact ⟨rfl, rfl⟩
  · exact .refl _
theorem Mach.wakeMoves_sameThreads (r : Nat) : SameThreads m (m.wakeMoves now r) := by
  rw [Mach.wakeMoves]
  refine SameThreads.foldl ?_ _ m
  exact fun m p => m.examine_sameThreads now p.1
end

/-! ## Banks that serve an event (06 R116) -/

theorem Mach.useBanks_sameThreads (m : Mach) (now : Nat) (bs : List Nat) : SameThreads m (m.useBanks now bs) := by
  rw [Mach.useBanks]
  split
  · exact .refl m
  · exact ⟨rfl, rfl⟩

theorem Mach.served_sameThreads (m : Mach) (now : Nat) (i : Instr) (keys : List Nat) : SameThreads m (m.served now i keys) := by
  obtain ⟨t, us, q, h⟩ := m.served_eq now i keys
  rw [h]
  exact ⟨rfl, rfl⟩

/-! ## Tokens, translation, and a hand past a word -/

theorem bits_zero_eq_ofNat {w : Nat} (x : BitVec w) (n : Nat) : bits x 0 n = BitVec.ofNat n x.toNat := by
  apply BitVec.eq_of_toNat_eq
  rw [bits_zero_toNat, BitVec.toNat_ofNat]

theorem Hand.completeTok_eq (h : Hand) (now f : Nat) : ∃ fifos, h.completeTok now f = { h with fifos := fifos } := by
  rw [Hand.completeTok]
  split
  · exact ⟨_, rfl⟩
  split <;> exact ⟨_, rfl⟩
@[simp] theorem Hand.completeTok_accs (h : Hand) (now f : Nat) : (h.completeTok now f).accs = h.accs := by
  obtain ⟨fifos, hf⟩ := h.completeTok_eq now f
  rw [hf]
@[simp] theorem Hand.completeTok_st (h : Hand) (now f : Nat) : (h.completeTok now f).st = h.st := by
  obtain ⟨fifos, hf⟩ := h.completeTok_eq now f
  rw [hf]

theorem xlStop_eq_none {m : Mach} {r n : Nat} {x : W64} {wr : Bool} (h : ∃ k, m.xlate r x n wr = .key k) : m.xlStop r x n wr = none := by
  obtain ⟨k, hk⟩ := h
  simp [Mach.xlStop, hk]

@[simp] theorem Hand.issueAt_copies (h : Hand) (now : Nat) (e : Engine) (pop : Nat) : (h.issueAt now e pop).copies = h.copies := by
  simp only [Hand.issueAt, Hand.modEngine, Hand.setEngine_copies, Hand.popTok]
  split <;> rfl
theorem State.issued_copies (s : State) (e : Engine) (hd : Hdr) : ((s.issued e hd).hand s.cur).copies = s.hand.copies := by
  simp [State.issued]

/-! ## Errors of rows and recorded faults (19 R364, R379) -/

/-- A fault recorded against a hand is noted or counted as lost: nothing else of the hand changes (19 R364). -/
theorem Mach.recordFault_hand (m : Mach) (r : Nat) (f : FaultRec) : ∃ p n,
    (m.recordFault r f).hand r = { m.hand r with pending := p, lost := n } ∧
      ((m.hand r).pending.length < 8 → p = (m.hand r).pending ++ [f]) := by
  rw [Mach.recordFault, Mach.modHand_hand_get, if_pos rfl]
  split
  · next hfull => exact ⟨_, _, rfl, fun h => absurd h (Nat.not_lt.2 hfull)⟩
  · exact ⟨_, _, rfl, fun _ => rfl⟩

/-- Rows without an error count none. -/
theorem Mach.countErrors_of_no_error {m : Mach} (h : ∀ k, m.rowError k = none) (q : Nat) (keys : List Nat) :
    m.countErrors q keys = m := by
  simp [Mach.countErrors, Mach.addErrors, h]

theorem Mach.countErrors_eq (m : Mach) (q : Nat) (keys : List Nat) : ∃ cs, m.countErrors q keys = { m with clusters := cs } := by
  simp only [Mach.countErrors, Mach.addErrors]
  split
  · exact ⟨m.clusters, rfl⟩
  · exact ⟨_, rfl⟩

/-- An uncorrectable error of some rows is recorded against a hand: memory, agenda and the hand's copies stay (19 R379). -/
theorem Mach.noteUE_frame (m : Mach) (r : Nat) (keys : List Nat) :
    (m.noteUE r keys).mem = m.mem ∧ (m.noteUE r keys).agenda = m.agenda ∧ ((m.noteUE r keys).hand r).copies = (m.hand r).copies := by
  rw [Mach.noteUE, Mach.checkOf]
  cases m.anyUE keys with
  | none => exact ⟨rfl, rfl, rfl⟩
  | some k =>
    obtain ⟨p, n, hhand, -⟩ := Mach.recordFault_hand { m with freeN := m.freeN + 1 } r (m.mcheck k r)
    have hcopies := congrArg Hand.copies hhand
    exact ⟨rfl, rfl, hcopies⟩

theorem Mach.noteRead_frame (m : Mach) (r k : Nat) (x : W64) (n : Nat) (u : Bool) :
    (m.noteRead r k x n u).mem = m.mem ∧ (m.noteRead r k x n u).agenda = m.agenda ∧
      ((m.noteRead r k x n u).hand r).copies = (m.hand r).copies := by
  rw [Mach.noteRead]
  split
  · next l _ =>
    obtain ⟨cs, hcs⟩ := m.countErrors_eq (clusterOf r) (l.map (·.1))
    rw [hcs]
    exact Mach.noteUE_frame { m with clusters := cs } r (l.map (·.1))
  · exact ⟨rfl, rfl, rfl⟩

end Sys2Proof.Machine
end

section
/-! PROOFS. Stream registers: the words STSET and STGET, the store of an image at its bank, the return of an image (05 R88, R89). -/

namespace Sys2Proof.Machine

theorem streamStop_eq_none {s : State} {e : Engine} {w : AC} {wr : Bool} (hready : ReadyA s w.desc)
    (ha : (s.hand.areg w.desc.toNat).toNat % 32 = 0) (hroom : Claims.Room s (!wr))
    (hkey : ∃ k, s.m.xlate s.cur (s.hand.areg w.desc.toNat) 32 wr = .key k) : streamStop s.m ⟨s.tb, s.cur, e⟩ w wr = none := by
  simp [streamStop, needA_eq_none hready, ha, xlStop_eq_none hkey, lsFull_eq_none hroom]

/-- The store of an image: its bytes stand at its key, every other byte stays, and the access has left its queue (05 R89). -/
theorem Mach.imageStore_spec {m : Mach} {now r : Nat} {a : Access} (hop : a.op = .img 9) (hload : a.isLoad = false) :
    ((m.imageAccess now r a 9).hand r).accs = (m.hand r).accs.filter (fun b => b.id != a.id) ∧
      (m.imageAccess now r a 9).mem = m.mem.writeN (a.keys.headD 0) (leBytes 32 a.data.toNat) := by
  simp [Mach.imageAccess, Mach.pushToken, Mach.doStore, hop, hload]

theorem exec_bankAccess_of_image {s : State} {id r k : Nat} {a : Access} (hacc : s.m.findAcc id = some (r, a)) (hsent : a.sent = false)
    (hwait : s.m.accessWaits s.tb r a = false) (hbusy : s.m.banksBusy s.tb a.banks = false) (hop : a.op = .img k) :
    exec (.bankAccess id) s = s.goes (((s.m.useBanks s.tb a.banks).imageAccess s.tb r a k).wakeMoves s.tb r) := by
  show execBankAccess id s = _
  simp [execBankAccess, runEvent, hacc, hsent, hwait, hbusy, hop]

/-- The machine with access `id` of hand `r` out of its queue. -/
abbrev Mach.dropAcc (m : Mach) (r id : Nat) : Mach :=
  m.modHand r (fun h => { h with accs := h.accs.filter (fun b => b.id != id) })

section
variable {s : State} {r id : Nat} {a : Access} (hacc : (s.m.hand r).accs.find? (fun b => b.id == id) = some a)
include hacc

theorem exec_stsetImageReturn_of_malformed (h : stBad (bits a.data 0 256) = true) :
    exec (.stsetImageReturn r id) s =
      s.goes ((s.m.dropAcc r id).recordFault r (copyFault 1 0 [0, 0, 0, 0, 0, 0] (a.vas.headD 0) [])) := by
  show execStsetImageReturn r id s = _
  simp [execStsetImageReturn, runEvent, hacc, h]

theorem exec_stsetImageReturn_of_wellFormed (h : stBad (bits a.data 0 256) = false) :
    exec (.stsetImageReturn r id) s = s.goes (((s.m.dropAcc r id).modHand r (fun h =>
      { h with st := h.st.set a.reg (bits a.data 0 256) })).pushToken s.tb r a.push) := by
  show execStsetImageReturn r id s = _
  simp [execStsetImageReturn, runEvent, hacc, h]
end

/-- Settles O24: the words issue past their checks; the bank of an STGET writes the image, and what the return of an STSET does is one of
two. -/
theorem streamRegisters : Obligations.StreamRegisters := by
  refine ⟨?_, ?_, ?_⟩
  · intro s w a hready ha
    refine ⟨fun hroom hkey h => ?_, fun hroom hkey h => ?_⟩
    · exact congrArg Host.Outcome.next (runWord_issues h rfl (Nat.zero_le _) (streamStop_eq_none hready ha hroom hkey))
    · exact congrArg Host.Outcome.next (runWord_issues h rfl (Nat.zero_le _) (streamStop_eq_none hready ha hroom hkey))
  · intro s id r a hwf hacc hsent hwait hbusy hop hload
    have hbanks := s.m.useBanks_sameThreads s.tb a.banks
    have hwake := Mach.wakeMoves_sameThreads ((s.m.useBanks s.tb a.banks).imageAccess s.tb r a 9) s.tb r
    obtain ⟨haccs, hmem⟩ := Mach.imageStore_spec (m := s.m.useBanks s.tb a.banks) (now := s.tb) (r := r) hop hload
    rw [hbanks.mem] at hmem
    refine ⟨_, exec_bankAccess_of_image hacc hsent hwait hbusy hop, ?_, ?_, fun j hj => ?_⟩
    · rw [hwake.hand, haccs, hbanks.hand]
    · rw [Mach.bytes, hwake.mem, hmem]
      simpa using Memory.readN_writeN (bs := leBytes 32 a.data.toNat) hwf
    · rw [Mach.byte, hwake.mem, hmem]
      exact Memory.read_writeN_of_outside hwf (by simpa using hj)
  · intro s r id a hacc
    rw [← bits_zero_eq_ofNat a.data 256]
    intro img
    cases hbad : stBad img with
    | false =>
      refine ⟨_, exec_stsetImageReturn_of_wellFormed hacc hbad, rfl, ?_, fun _ k => ?_, nofun⟩
      · simp [Mach.pushToken]
      · simp [Mach.pushToken, Hand.streg, KMap.get_set, img]
    | true =>
      obtain ⟨p, n, hhand, hp⟩ := Mach.recordFault_hand (s.m.dropAcc r id) r (copyFault 1 0 [0, 0, 0, 0, 0, 0] (a.vas.headD 0) [])
      have hdrop : (s.m.dropAcc r id).hand r = { s.m.hand r with accs := (s.m.hand r).accs.filter (fun b => b.id != id) } := by simp
      rw [hdrop] at hhand hp
      refine ⟨_, exec_stsetImageReturn_of_malformed hacc hbad, rfl, ?_, nofun, fun _ => ⟨?_, ?_, fun h => ?_⟩⟩ <;> rw [hhand]
      exact hp h

end Sys2Proof.Machine
end

section
/-! PROOFS. The units of a copy: their order in the loop nest, and the bytes that one moves (05 R90 to R92). -/

namespace Sys2Proof.Machine

/-! ## The loop nest (05 R90) -/

/-- The number of a place in a nest of levels, i0 fastest. -/
def nestNo : List Level → List Nat → Nat
  | l :: ls, i :: is => i + l.cnt * nestNo ls is
  | _, _ => 0

/-- The places of a nest. -/
def nestSize : List Level → Nat
  | [] => 1
  | l :: ls => l.cnt * nestSize ls

/-- Every index lies below the count of its level. -/
abbrev InNest : List Level → List Nat → Prop := List.Forall₂ (fun l i => i < l.cnt)

theorem Copy.levels_length (c : Copy) : c.levels.length = 6 := by simp [Copy.levels]

theorem Copy.unitNo_eq_nestNo (c : Copy) : c.unitNo = nestNo c.levels c.idx := by
  rw [Copy.unitNo, List.foldl_reverse]
  generalize c.levels = ls, c.idx = is
  induction ls generalizing is with
  | nil => rfl
  | cons l ls ih =>
    cases is with
    | nil => rfl
    | cons i is => rw [List.zip_cons_cons, List.foldr_cons, ih, nestNo, Nat.add_comm, Nat.mul_comm]

theorem foldl_cnt_eq_mul_nestSize (ls : List Level) (a : Nat) : ls.foldl (fun a l => a * l.cnt) a = a * nestSize ls := by
  induction ls generalizing a with
  | nil => simp [nestSize]
  | cons l ls ih => rw [List.foldl_cons, ih, nestSize, Nat.mul_assoc]

theorem Copy.units_eq_nestSize (c : Copy) : c.units = nestSize c.levels := by
  rw [Copy.units, foldl_cnt_eq_mul_nestSize, Nat.one_mul]

theorem InNest.nestNo_lt {ls : List Level} {is : List Nat} (h : InNest ls is) : nestNo ls is < nestSize ls := by
  induction h with
  | nil => exact Nat.one_pos
  | @cons l i ls is hi _ ih =>
    calc i + l.cnt * nestNo ls is
      _ < l.cnt + l.cnt * nestNo ls is := Nat.add_lt_add_right hi _
      _ = l.cnt * (nestNo ls is + 1) := by rw [Nat.mul_succ, Nat.add_comm]
      _ ≤ l.cnt * nestSize ls := Nat.mul_le_mul_left _ ih

theorem InNest.nextIdx {ls : List Level} {is : List Nat} (h : InNest ls is) : InNest ls (nextIdx ls is) := by
  induction h with
  | nil => exact .nil
  | @cons l i ls is hi his ih =>
    rw [Machine.nextIdx]
    split
    · next hlt => exact .cons hlt his
    · exact .cons (Nat.zero_lt_of_lt hi) ih

/-- The next place of a nest has the next number; after the last comes the first. -/
theorem InNest.nestNo_nextIdx {ls : List Level} {is : List Nat} (h : InNest ls is) :
    nestNo ls (Machine.nextIdx ls is) = (nestNo ls is + 1) % nestSize ls := by
  induction h with
  | nil => rfl
  | @cons l i ls is hi his ih =>
    rw [Machine.nextIdx]
    split
    · next hlt =>
      have hnext : nestNo (l :: ls) ((i + 1) :: is) < nestSize (l :: ls) := InNest.nestNo_lt (.cons hlt his)
      have hsucc : nestNo (l :: ls) (i :: is) + 1 = nestNo (l :: ls) ((i + 1) :: is) := Nat.add_right_comm _ _ _
      rw [hsucc, Nat.mod_eq_of_lt hnext]
    · next hlast =>
      have hsucc : nestNo (l :: ls) (i :: is) + 1 = l.cnt * (nestNo ls is + 1) := by
        have hcnt : l.cnt = i + 1 := by omega
        rw [nestNo, Nat.mul_succ, Nat.add_right_comm, ← hcnt, Nat.add_comm]
      rw [hsucc, nestSize, Nat.mul_mod_mul_left, ← ih, nestNo, Nat.zero_add]

theorem copyNestOrder : Claims.CopyNestOrder := by
  intro c hlen hin c'
  have hnest : InNest c.levels c.idx := List.forall₂_iff_zip.2 ⟨c.levels_length.trans hlen.symm, fun h => hin _ h⟩
  obtain ⟨hlen', hin'⟩ := List.forall₂_iff_zip.1 hnest.nextIdx
  refine ⟨hlen'.symm.trans c.levels_length, fun p hp => hin' hp, ?_, ?_⟩
  · rw [c.unitNo_eq_nestNo, c.units_eq_nestSize]
    exact hnest.nestNo_lt
  · rw [c'.unitNo_eq_nestNo, c.unitNo_eq_nestNo, c.units_eq_nestSize]
    exact hnest.nestNo_nextIdx

/-! ## One unit (05 R91, R92) -/

theorem Copy.offset_eq_sum (c : Copy) (stride : Level → Int) :
    c.offset stride = ((List.zip c.levels c.idx).map (fun p => (p.2 : Int) * stride p.1)).sum := by
  rw [Copy.offset, List.sum_eq_foldl, List.foldl_map]

section
variable {c : Copy}

theorem Copy.on_eq_false_of_no_stage (h : c.mw = 0) (b : Nat) : c.on b = false := by simp [Copy.on, h]
/-- PAD is bit 27 of the microword (05 R93). -/
theorem Copy.on_of_pad_only (h : c.mw = 2 ^ 27) {b : Nat} (hb : b ≠ 27) : c.on b = false := by
  rw [Copy.on, h, Nat.testBit_two_pow]
  exact decide_eq_false hb.symm

theorem Copy.valid_of_no_limit (h : ∀ v ∈ c.levels, v.limit = 0) : c.valid = true := by
  simp only [Copy.valid, List.all_eq_true, Prod.forall]
  intro l i hmem
  simp [h l (List.of_mem_zip hmem).1]
theorem Copy.not_valid_of_past_limit
    (h : (List.zip c.levels c.idx).any (fun p => p.1.limit != 0 && decide (p.1.limit ≤ p.2)) = true) : c.valid = false := by
  rw [List.any_eq_true] at h
  obtain ⟨p, hp, hpast⟩ := h
  rw [Copy.valid, List.all_eq_false]
  exact ⟨p, hp, by simpa using hpast⟩

theorem Copy.inLen_of_no_conv (h : c.on 15 = false) : c.inLen = c.usz := by simp [Copy.inLen, h]
theorem Copy.fill_of_pad_only (h : c.mw = 2 ^ 27) : c.fill = (List.range c.usz).map (fun i => c.desc.getD (32 + i % 4) 0) := by
  have hlen : c.outLen = c.usz := by simp [Copy.outLen, Copy.on_of_pad_only h]
  rw [Copy.fill, hlen]
theorem Copy.stages_of_no_stage (h : ∀ b, c.on b = false) (bs : List Byte) : c.stages bs = some bs := by
  simp [Copy.stages, h]

/-- A unit that is not transposed, broadcast or placed is written whole, at DST plus its offset. -/
theorem Mach.copyPieces_of_whole {m m' : Mach} {bs : List Byte} (htrans : c.on 23 = false) (hbcast : c.on 47 = false)
    (hroute : c.route = none) (hw : m.writeAt c.ctx (c.dst + w64 (c.offset (·.dstr))) bs c.u = .ok m') :
    m.copyPieces c.ctx c (c.pieces bs) = .ok m' := by
  simp [Copy.pieces, htrans, Mach.copyPieces, Copy.dests, hbcast, hroute, Mach.copyWrite, hw]
end

theorem Mach.ueOffset_of_no_error {m : Mach} (h : ∀ k, m.rowError k = none) (l : List (Nat × Nat)) : m.ueOffset l = none := by
  induction l with
  | nil => rfl
  | cons p l ih => simp [Mach.ueOffset, h, ih]

section
variable {m m' : Mach} {r : Nat} {c : Copy} (hdst : (c.dst + w64 (c.offset (·.dstr))).toNat % 4 = 0) (hroute : c.route = none)
include hdst hroute

/-- A unit that no stage changes writes the bytes that it reads. -/
theorem Mach.copyUnitAt_of_no_stage {l : List (Nat × Nat)} (hmw : c.mw = 0) (hvalid : c.valid = true)
    (hsrc : (c.src + w64 (c.offset (·.sstr))).toNat % 4 = 0) (herr : ∀ k, m.rowError k = none)
    (hread : m.span c.ctx (c.src + w64 (c.offset (·.sstr))) c.usz false c.u = .ok l)
    (hw : m.writeAt c.ctx (c.dst + w64 (c.offset (·.dstr))) (m.readSpan l) c.u = .ok m') :
    m.copyUnitAt r c = .ok (m', { c with idx := nextIdx c.levels c.idx, mask := c.mask ++ [true] }) := by
  have hoff := Copy.on_eq_false_of_no_stage hmw
  have hpieces := Mach.copyPieces_of_whole (hoff 23) (hoff 47) hroute hw
  have hcount := Mach.countErrors_of_no_error (fun k => (Mach.writeAt_rowError hw k).trans (herr k))
  simp [-BitVec.toNat_add, Mach.copyUnitAt, hdst, hsrc, hvalid, Copy.inLen_of_no_conv (hoff 15), hread, Mach.ueOffset_of_no_error herr,
    Copy.stages_of_no_stage hoff, hpieces, hcount, hoff, Except.map]

/-- A padded unit outside its limits reads nothing and writes FILL. -/
theorem Mach.copyUnitAt_of_pad_only (hmw : c.mw = 2 ^ 27) (hvalid : c.valid = false)
    (hw : m.writeAt c.ctx (c.dst + w64 (c.offset (·.dstr))) c.fill c.u = .ok m') :
    m.copyUnitAt r c = .ok (m', { c with idx := nextIdx c.levels c.idx, mask := c.mask ++ [false] }) := by
  have hpieces := Mach.copyPieces_of_whole (Copy.on_of_pad_only hmw (by decide)) (Copy.on_of_pad_only hmw (by decide)) hroute hw
  simp [-BitVec.toNat_add, Mach.copyUnitAt, hdst, hvalid, hpieces, Except.map]
end

theorem copyUnitsMoveBytes : Claims.CopyUnitsMoveBytes := by
  intro m r c l m' k at_ src dst hdst hroute
  have haddr (base : W64) (stride : Level → Int) : at_ base stride = base + w64 (c.offset stride) := by
    rw [Copy.offset_eq_sum]; rfl
  rw [show dst = _ from haddr _ _] at hdst ⊢
  rw [show src = _ from haddr _ _]
  refine ⟨fun hmw hlimit hsrc herr hread hw => ?_, fun hmw hpast hw => ?_⟩
  · exact ⟨_, Mach.copyUnitAt_of_no_stage hdst hroute hmw (Copy.valid_of_no_limit hlimit) hsrc herr hread hw, rfl, rfl⟩
  · rw [← Copy.fill_of_pad_only hmw] at hw
    exact ⟨_, Mach.copyUnitAt_of_pad_only hdst hroute hmw (Copy.not_valid_of_past_limit hpast) hw, rfl, rfl⟩

/-- Settles O26: a place of the nest is a number in mixed radix, and the next place is the next number; a unit of no stage, or one that is
padded, is written as one piece. -/
theorem copyUnits : Obligations.CopyUnits := ⟨copyUnitsMoveBytes, copyNestOrder⟩

end Sys2Proof.Machine
end

section
/-! PROOFS. The words of the copy engine and the life of a copy: CPY, CPYQ, CPYK, COPY_START, COPY_UNIT, COPY_COMPLETE (05 R91,
R94, R101 to R104). -/

namespace Sys2Proof.Machine

/-! ## Writes of the copy engine change memory alone -/

theorem Mach.copyWrite_eq {k : Nat} {u : Bool} {bs : List Byte} {as : List W64} : ∀ {m m' : Mach}, m.copyWrite k u bs as = .ok m' →
    ∃ mem, m' = { m with mem := mem } := by
  induction as with
  | nil => exact fun h => ⟨_, (Except.ok.inj h).symm⟩
  | cons a as ih =>
    intro m m' h
    rw [Mach.copyWrite] at h
    split at h
    · cases h
    · next m1 hw =>
      obtain ⟨mem1, rfl⟩ := Mach.writeAt_eq hw
      obtain ⟨mem, rfl⟩ := ih h
      exact ⟨mem, rfl⟩

/-- The status record of a copy, where it can be written, changes memory alone (05 R106). -/
theorem Mach.copyStatus_eq {m m' : Mach} {now st : Nat} {c : Copy} (h : m.copyStatus now c st = .ok m') :
    ∃ mem, m' = { m with mem := mem } := by
  rw [Mach.copyStatus] at h
  split at h
  · exact Mach.copyWrite_eq h
  · exact ⟨_, (Except.ok.inj h).symm⟩

/-! ## CPY (05 R101) -/

/-- The copy that a CPY describes. -/
abbrev cpyCopy (s : State) (w : AC) : Copy := copyOf s.m ⟨s.tb, s.cur, .a⟩ w

/-- The checks of a CPY (05 R101). -/
def cpyStop (s : State) (w : AC) : Option Stop :=
  let a := s.hand.areg w.desc.toNat
  let c := cpyCopy s w
  firstStop [s.hand.needA w.desc.toNat, trapIf (a.toNat % 128 != 0) 6 0 [a], s.m.xlStop s.cur a 128 false, s.hand.acqStop,
    (if c.bad s.m s.hand.ctx then some (.trap (copyFault 1 c.seq [0, 0, 0, 0, 0, 0] a [])) else none),
    trapIf ((c.reach (2 ^ 23)).any (otherSlice s.cur) && !s.m.phase s.cur) 0x0A 0 [((c.reach (2 ^ 23)).find? (otherSlice s.cur)).getD 0],
    freezeIf (decide (8 ≤ s.hand.copiesOpen.length)) 9]

/-- What a CPY does to machine `m` past its issue: the errors of its descriptor's rows are counted, and its copy waits for its turn. -/
def cpyEffect (s : State) (w : AC) (m : Mach) : Mach :=
  ((m.noteRead s.cur s.hand.ctx (s.hand.areg w.desc.toNat) 128 (s.hand.ring == 0)).modHand s.cur (fun h =>
    { h with copies := (if 8 ≤ h.copies.length then h.copiesOpen else h.copies) ++ [cpyCopy s w], cpseq := (cpyCopy s w).seq })).bump.post
      (cpyCopy s w).startT (.copyStart s.cur)

section
variable (s : State) (w : AC)

@[simp] theorem cpyEffect_mem (m : Mach) : (cpyEffect s w m).mem = m.mem := by
  obtain ⟨hmem, -, -⟩ := m.noteRead_frame s.cur s.hand.ctx (s.hand.areg w.desc.toNat) 128 (s.hand.ring == 0)
  simp [cpyEffect, hmem]
@[simp] theorem cpyEffect_agenda (m : Mach) :
    (cpyEffect s w m).agenda = agendaAdd (cpyCopy s w).startT (.copyStart s.cur) m.agenda := by
  obtain ⟨-, hagenda, -⟩ := m.noteRead_frame s.cur s.hand.ctx (s.hand.areg w.desc.toNat) 128 (s.hand.ring == 0)
  simp [cpyEffect, hagenda]
theorem cpyEffect_copies (m : Mach) : ((cpyEffect s w m).hand s.cur).copies =
    (if 8 ≤ (m.hand s.cur).copies.length then (m.hand s.cur).copiesOpen else (m.hand s.cur).copies) ++ [cpyCopy s w] := by
  obtain ⟨-, -, hcopies⟩ := m.noteRead_frame s.cur s.hand.ctx (s.hand.areg w.desc.toNat) 128 (s.hand.ring == 0)
  simp [cpyEffect, Hand.copiesOpen, hcopies]
theorem cpyEffect_cpseq (m : Mach) : ((cpyEffect s w m).hand s.cur).cpseq = (cpyCopy s w).seq := by simp [cpyEffect]
end

theorem exec_cpy_of_freeze {s : State} {w : AC} {c i : Nat} (h : MayIssue s .a (.cpy w) w.hdr) (hstop : cpyStop s w = some (.freeze c i)) :
    exec (.cpy w) s = s.goes (s.m.block ⟨s.tb, s.cur, .a⟩ c i) :=
  congrArg Host.Outcome.next ((runWord_stops (guardWord_eq_own h rfl (Nat.zero_le _) hstop)).trans rfl)
theorem exec_cpy_of_no_stop {s : State} {w : AC} (h : MayIssue s .a (.cpy w) w.hdr) (hstop : cpyStop s w = none) :
    exec (.cpy w) s = s.goes (cpyEffect s w (s.issued .a w.hdr)) :=
  congrArg Host.Outcome.next (runWord_issues h rfl (Nat.zero_le _) hstop)

section
variable {s : State} {w : AC} (hready : ReadyA s w.desc) (ha : (s.hand.areg w.desc.toNat).toNat % 128 = 0)
  (hkey : ∃ k, s.m.xlate s.cur (s.hand.areg w.desc.toNat) 128 false = .key k)
include hready ha hkey

theorem cpyStop_of_acquire (hacq : ∃ x ∈ s.hand.results, x.acq = true) : cpyStop s w = some (.freeze 8 0) := by
  have hany : s.hand.results.any (·.acq) = true := by simpa using hacq
  simp [cpyStop, needA_eq_none hready, ha, xlStop_eq_none hkey, Hand.acqStop, hany, freezeIf]

theorem cpyStop_eq_none (hacq : ∀ x ∈ s.hand.results, x.acq = false) (hbad : (cpyCopy s w).bad s.m s.hand.ctx = false)
    (hphase : s.m.phase s.cur = true ∨ ∀ d ∈ (cpyCopy s w).reach (2 ^ 23), otherSlice s.cur d = false)
    (hopen : s.hand.copiesOpen.length < 8) : cpyStop s w = none := by
  have hany : s.hand.acqStop = none := by simpa [Hand.acqStop] using hacq
  have hphase' : (((cpyCopy s w).reach (2 ^ 23)).any (otherSlice s.cur) && !s.m.phase s.cur) = false := by
    rcases hphase with hphase | hown
    · simp [hphase]
    · rw [List.any_eq_false.2 (fun d hd => by simp [hown d hd]), Bool.false_and]
  simp only [cpyStop, hphase']
  simp [needA_eq_none hready, ha, xlStop_eq_none hkey, hany, hbad, Nat.not_le.2 hopen]
end

/-! ## CPYK (05 R104) -/

/-- A copy that ends as cancelled or killed is taken out, whether or not its status record could be written. -/
theorem Mach.copyCancelled_copies (m : Mach) (now r : Nat) (c : Copy) (st : Nat) :
    ((m.copyCancelled now r c st).hand r).copies = (m.hand r).copies.filter (fun d => d.id != c.id) := by
  have hdrop : ((m.modHand r (fun h => h.dropCopy c.id)).hand r).copies = (m.hand r).copies.filter (fun d => d.id != c.id) := by
    simp [Hand.dropCopy]
  rw [Mach.copyCancelled]
  split
  · next m' hst =>
    obtain ⟨mem, rfl⟩ := Mach.copyStatus_eq hst
    exact hdrop
  · exact hdrop

/-- A copy of the hand after one was cancelled drains, or is another one. -/
theorem Mach.mem_copies_of_cancelCopy {m : Mach} {now r : Nat} {c d : Copy} (hd : d ∈ ((m.cancelCopy now r c).hand r).copies) :
    d.state = 5 ∨ d ∈ (m.hand r).copies ∧ d.id ≠ c.id := by
  rw [Mach.cancelCopy] at hd
  split at hd
  · simp only [Mach.post_hand_get, Mach.modHand_hand_get, if_true, Hand.putCopy, List.mem_map] at hd
    obtain ⟨x, hx, rfl⟩ := hd
    by_cases hid : x.id = c.id
    · exact .inl (by simp [hid])
    · exact .inr (by simpa [hid] using hx)
  · rw [Mach.copyCancelled_copies, List.mem_filter] at hd
    exact .inr ⟨hd.1, by simpa using hd.2⟩

theorem mem_copies_of_foldl_cancelCopy {now r : Nat} {cs : List Copy} {d : Copy} : ∀ {m : Mach},
    d ∈ ((cs.foldl (fun m c => m.cancelCopy now r c) m).hand r).copies →
    d.state = 5 ∨ d ∈ (m.hand r).copies ∧ ∀ c ∈ cs, d.id ≠ c.id := by
  induction cs with
  | nil => exact fun hd => .inr ⟨hd, nofun⟩
  | cons c cs ih =>
    intro m hd
    rcases ih hd with h5 | ⟨hmem, hrest⟩
    · exact .inl h5
    rcases Mach.mem_copies_of_cancelCopy hmem with h5 | ⟨hmem, hid⟩
    · exact .inl h5
    · exact .inr ⟨hmem, List.forall_mem_cons.2 ⟨hid, hrest⟩⟩

/-- The copies of a hand that a CPYK cancels. -/
def Hand.cancellable (h : Hand) : List Copy := h.copiesOpen.filter (fun c => c.state != 5)

/-- The machine with every copy in flight of hand `r` cancelled. -/
def Mach.cancelAll (m : Mach) (now r : Nat) (h : Hand) : Mach := h.cancellable.foldl (fun m c => m.cancelCopy now r c) m

/-- When the last emitted unit of a hand has drained (05 R104). -/
def Hand.drainedAt (h : Hand) (now : Nat) : Nat :=
  h.copiesOpen.foldl (fun t c => max t (if c.state = 5 then c.endT else c.drainAt now)) now

theorem exec_cpyk_issues {s : State} {w : AC} (h : MayIssue s .a (.cpyk w) w.hdr) :
    exec (.cpyk w) s =
      s.goes (((s.issued .a w.hdr).cancelAll s.tb s.cur s.hand).tokenAt (s.hand.drainedAt s.tb) s.cur w.tt.toNat) :=
  congrArg Host.Outcome.next (runWord_issues h rfl (Nat.zero_le _) rfl)

/-- With every copy in flight cancelled, each copy left has faulted before or drains. -/
theorem Mach.cancelAll_copies {m : Mach} {now r : Nat} {h : Hand} (hm : (m.hand r).copies = h.copies) {c : Copy}
    (hc : c ∈ ((m.cancelAll now r h).hand r).copies) : c.state = 3 ∨ c.state = 5 := by
  rcases mem_copies_of_foldl_cancelCopy hc with h5 | ⟨hmem, hrest⟩
  · exact .inr h5
  rw [hm] at hmem
  by_contra hopen
  rw [not_or] at hopen
  have hcancel : c ∈ h.cancellable := by simpa [Hand.cancellable, Hand.copiesOpen, hopen] using hmem
  exact hrest c hcancel rfl

theorem copyWords : Claims.CopyWords := by
  refine ⟨?_, ?_, ?_⟩
  · intro s w a c hready ha hkey h
    refine ⟨fun hacq => exec_cpy_of_freeze h (cpyStop_of_acquire hready ha hkey hacq), fun hacq hbad hphase hopen => ?_⟩
    have hseq : c.seq = (s.hand.cpseq + 1) % 2 ^ 32 := rfl
    refine ⟨_, exec_cpy_of_no_stop h (cpyStop_eq_none hready ha hkey hacq hbad hphase hopen), ?_, ?_, ?_, hseq, rfl, rfl, rfl, ?_⟩
    · exact cpyEffect_mem s w _
    · rw [cpyEffect_copies, Hand.copiesOpen, s.issued_copies]
    · exact (cpyEffect_cpseq s w _).trans hseq
    · exact cpyEffect_agenda s w _
  · intro s w n h
    have hn : (bits w.imm 0 3).toNat = w.imm.toNat % 8 := bits_zero_toNat _ _
    rw [← hn]
    refine ⟨fun hle => ?_, fun hlt => ?_⟩
    · exact congrArg Host.Outcome.next (runWord_issues h rfl (Nat.zero_le _) (freezeIf_eq_none.2 (decide_eq_false (Nat.not_lt.2 hle))))
    · exact congrArg Host.Outcome.next
        ((runWord_stops (guardWord_eq_own h rfl (Nat.zero_le _) (if_pos (decide_eq_true hlt)))).trans rfl)
  · intro s w h
    refine ⟨_, exec_cpyk_issues h, fun c hc => ?_, fun hnone => ?_⟩
    · rw [Mach.tokenAt_hand_get] at hc
      exact Mach.cancelAll_copies (s.issued_copies .a w.hdr) hc
    · have hcancel : (s.issued .a w.hdr).cancelAll s.tb s.cur s.hand = s.issued .a w.hdr := by
        simp [Mach.cancelAll, Hand.cancellable, Hand.copiesOpen, hnone]
      have hdrained : s.hand.drainedAt s.tb = s.tb := by simp [Hand.drainedAt, Hand.copiesOpen, hnone]
      rw [hcancel, hdrained, Mach.tokenAt]
      split <;> exact ⟨rfl, rfl⟩

/-! ## The life of a copy (05 R91, R94, R102) -/

section
variable {s : State} {r : Nat} {c : Copy} (hemit : ∀ d ∈ (s.m.hand r).copies, d.state = 1 → d.endT ≤ s.tb)
  (hfirst : (s.m.hand r).copies.find? (fun c => c.state == 0) = some c) (hdue : c.startT ≤ s.tb)
include hemit hfirst hdue

/-- The oldest copy that waits, its time having come, starts unless it stands behind something that is left. -/
theorem exec_copyStart_of_due : exec (.copyStart r) s = s.goes (
    if (s.m.hand r).held c.id c.id then s.m.post (s.tb + 1) (.copyStart r)
    else
      let c' := { c with state := 1, startT := s.tb, first := c.unitNo, endT := s.tb + (c.cycles - c.unitNo * c.unitCyc), stopT := none }
      ((s.m.setHand r ((s.m.hand r).putCopy c')).post (s.tb + c'.lat) (.copyUnit r c'.id)).post c'.endT (.copyStart r)) := by
  have hnone : (s.m.hand r).copies.any (fun c => c.state == 1 && decide (s.tb < c.endT)) = false := by
    rw [List.any_eq_false]
    intro d hd
    simpa using hemit d hd
  show execCopyStart r s = _
  simp [execCopyStart, runEvent, hnone, hfirst, Nat.not_lt.2 hdue]
end

theorem Copy.stopsNow_of_no_stop {c : Copy} (h : c.stopT = none) : c.stopsNow = false := by simp [Copy.stopsNow, h]

theorem exists_of_map_eq_ok {ε α β : Type} {x : Except ε α} {f : α → β} {b : β} (h : x.map f = .ok b) : ∃ a, x = .ok a ∧ f a = b := by
  cases x with
  | error e => cases h
  | ok a => exact ⟨a, rfl, Except.ok.inj h⟩

/-- A unit moves a copy on without changing its state. -/
theorem Mach.copyUnitAt_state {m m' : Mach} {r : Nat} {c c' : Copy} (h : m.copyUnitAt r c = .ok (m', c')) : c'.state = c.state := by
  simp only [Mach.copyUnitAt] at h
  split at h
  · cases h
  split at h
  · -- not valid: FILL is written
    obtain ⟨m1, -, hc⟩ := exists_of_map_eq_ok h
    cases hc
    rfl
  split at h
  · cases h
  split at h
  · cases h
  split at h
  · cases h
  split at h
  · cases h
  · -- valid: read, taken through the stages, written
    obtain ⟨m1, -, hc⟩ := exists_of_map_eq_ok h
    cases hc
    rfl

section
variable {s : State} {r id : Nat} {c : Copy} (hcopy : (s.m.hand r).copy? id = some c)
include hcopy

theorem exec_copyUnit_of_busy (hst : c.state = 1) (hstop : c.stopT = none)
    (hbusy : s.m.banksBusy s.tb (banksOf (s.m.unitKeys c)) = true) :
    exec (.copyUnit r id) s = s.goes (s.m.waitAtBank s.tb (.copyUnit r id)) := by
  show execCopyUnit r id s = _
  simp [execCopyUnit, runEvent, hcopy, hst, Copy.stopsNow_of_no_stop hstop, Mach.atBanks_of_busy hbusy]

/-- A unit that its banks serve moves its copy on, to the next unit or to its completion. -/
theorem exec_copyUnit_of_moved {m : Mach} {c' : Copy} (hst : c.state = 1) (hstop : c.stopT = none)
    (hfree : s.m.banksBusy s.tb (banksOf (s.m.unitKeys c)) = false)
    (hunit : (s.m.served s.tb (.copyUnit r id) (s.m.unitKeys c)).copyUnitAt r c = .ok (m, c')) :
    exec (.copyUnit r id) s = s.goes (if c'.mask.length = c'.units then
        (m.modHand r (fun h => h.putCopy { c' with state := 4 })).post (max s.tb (c'.endT - 1 + c'.lat)) (.copyComplete r id)
      else (m.modHand r (fun h => h.putCopy c')).post (s.tb + c'.unitCyc) (.copyUnit r id)) := by
  have hst' : c'.state = 1 := (Mach.copyUnitAt_state hunit).trans hst
  show execCopyUnit r id s = _
  simp [execCopyUnit, runEvent, hcopy, hst, Copy.stopsNow_of_no_stop hstop, Mach.atBanks_of_free hfree, hunit, hst']

section
variable (hst : c.state = 4) (hmask : c.maskLen = 0) (hcrc : c.on 31 = false) (hstat : c.stat = false)
include hst hmask hcrc hstat

/-- A copy that owes nothing is dropped, and its token is pushed. -/
theorem exec_copyComplete_of_nothing_owed : exec (.copyComplete r id) s = s.goes
    (((s.m.served s.tb (.copyComplete r id) []).modHand r (fun h => h.dropCopy c.id)).pushToken s.tb r c.push) := by
  have hkeys : s.m.endKeys c = [] := by simp [Mach.endKeys, hmask, hcrc, hstat, Mach.rowKeys]
  have hfree : s.m.banksBusy s.tb (banksOf []) = false := by simp [Mach.banksBusy, banksOf]
  show execCopyComplete r id s = _
  simp [execCopyComplete, runEvent, hcopy, hst, hkeys, Mach.atBanks_of_free hfree, Mach.copyEnds, Mach.writeMask, hmask, hcrc,
    Mach.copyStatus, hstat, Except.bind]
end
end

theorem copyEvents : Claims.CopyEvents := by
  refine ⟨?_, ?_, ?_, ?_⟩
  · intro s r c h hemit hfirst hdue
    have hexec := exec_copyStart_of_due hemit hfirst hdue
    refine ⟨fun hheld => ?_, fun hheld => ?_⟩
    · rw [hexec, if_pos hheld]
    · rw [hexec, if_neg (Bool.eq_false_iff.1 hheld)]
  · exact fun s r id c hcopy hst hstop hbusy => exec_copyUnit_of_busy hcopy hst hstop hbusy
  · exact fun s r id c c' m hcopy hst hstop hfree hunit => exec_copyUnit_of_moved hcopy hst hstop hfree hunit
  · intro s r id c hcopy hst hmask hcrc hstat
    have hserved := s.m.served_sameThreads s.tb (.copyComplete r id) []
    refine ⟨_, exec_copyComplete_of_nothing_owed hcopy hst hmask hcrc hstat, fun q hq => ?_, hserved.mem, fun d => ?_⟩
    · rw [Mach.modHand_hand_get, if_neg hq, hserved.hand]
    · rw [Mach.modHand_hand_get, if_pos rfl, hserved.hand]
      simp [Hand.dropCopy]

/-- Settles O25: each word and each event of a copy does what the lemma of its case says; after a CPYK a copy that is neither cancelled nor
dropped has faulted before. -/
theorem copyWordsAndEvents : Obligations.CopyWordsAndEvents := ⟨copyWords, copyEvents⟩

end Sys2Proof.Machine
end

section
/-! PROOFS. How a word reads its operands: the entries that it pops, keeps and holds, and those that the special sources build (07
R139, R142, 10 R197). -/

namespace Sys2Proof.Machine

/-! ## One entry popped (07 R139, R142) -/

/-- A hand with one entry popped by engine `e`: what `Hand.popReads` does at a read that does not keep. -/
def Hand.popQueue (h : Hand) (e : Engine) (q : Nat) : Hand :=
  Hand.modEngine { h with v := h.v.set q ((h.queue q).drop 1), freed := h.freed + 1 } e
    (fun x => if (x.latch.map (·.1)) == some q then { x with latch := none } else x)

@[simp] theorem Hand.popReads_nil (h : Hand) (e : Engine) : h.popReads e [] = h := rfl
@[simp] theorem Hand.popReads_keep (h : Hand) (e : Engine) (q : Nat) (rs : Reads) :
    h.popReads e ((q, true) :: rs) = h.popReads e rs := rfl
@[simp] theorem Hand.popReads_pop (h : Hand) (e : Engine) (q : Nat) (rs : Reads) :
    h.popReads e ((q, false) :: rs) = (h.popQueue e q).popReads e rs := rfl

@[simp] theorem Hand.queue_setEngine (h : Hand) (e : Engine) (x : EngineState) (k : Nat) : (h.setEngine e x).queue k = h.queue k := by
  simp [Hand.queue]
@[simp] theorem Hand.queue_modEngine (h : Hand) (e : Engine) (f : EngineState → EngineState) (k : Nat) :
    (h.modEngine e f).queue k = h.queue k := by simp [Hand.modEngine]

@[simp] theorem Hand.popQueue_queue (h : Hand) (e : Engine) (q k : Nat) :
    (h.popQueue e q).queue k = if k = q then (h.queue q).drop 1 else h.queue k := by
  simp only [Hand.popQueue, Hand.queue_modEngine]
  exact KMap.get_set _ _ _ _ _
@[simp] theorem Hand.popQueue_freed (h : Hand) (e : Engine) (q : Nat) : (h.popQueue e q).freed = h.freed + 1 := by
  simp [Hand.popQueue, Hand.modEngine]
theorem Hand.popQueue_latch (h : Hand) (e : Engine) (q : Nat) : ((h.popQueue e q).engine e).latch.map Prod.fst ≠ some q := by
  simp only [Hand.popQueue, Hand.modEngine_engine, if_pos]
  split
  · simp
  · next hne => simpa using hne

/-! ## Operands that come from a queue or from the latch (07 R139, R142) -/

section
variable {h : Hand} {e : Engine} {o : Opnd} {x : Entry} {t : List Slot} (hq : o.reg < 1536) (hhit : h.latchHit e o = false)
include hq hhit

theorem Hand.opRead_of_no_hit : h.opRead e o = some (o.reg, o.keep || o.hold) := by
  simp [Hand.opRead, hhit, Nat.not_le.2 hq]

/-- One operand that the latch does not answer takes the head of its queue. -/
theorem opValues_head (hx : h.queue o.reg = .landed x :: t) : opValues h e [o] = [x] := by
  simp [opValues, Hand.opReads, Hand.opRead_of_no_hit hq hhit, Hand.opVals, hhit, Nat.not_le.2 hq, Hand.readVal, readPos, popsOf, hx,
    Slot.val]
theorem takeOps_head (hx : h.queue o.reg = .landed x :: t) :
    takeOps h e [o] h = (h.fillLatch e [o] [x]).popReads e [(o.reg, o.keep || o.hold)] := by
  simp [takeOps, Hand.opReads, Hand.opRead_of_no_hit hq hhit, opValues_head hq hhit hx, Hand.beyond, readPos, popsOf, hx]
end

section
variable {h : Hand} {e : Engine} {q ty : Nat} {x y : Entry} {t : List Slot} (hq : q < 1536)
include hq

/-- A second read behind a pop takes the next entry, and behind a kept read the same one. -/
theorem opValues_two (keep : Bool) (hx : h.queue q = .landed x :: .landed y :: t) :
    opValues h e [⟨q, keep, false, ty⟩, ⟨q, false, false, ty⟩] = [x, if keep then x else y] := by
  have hread (keep : Bool) : h.opRead e ⟨q, keep, false, ty⟩ = some (q, keep || false) := Hand.opRead_of_no_hit hq rfl
  cases keep <;>
    simp [opValues, Hand.opReads, hread, Hand.opVals, Hand.latchHit, Nat.not_le.2 hq, Hand.readVal, readPos, popsOf, hx, Slot.val]
theorem takeOps_pop_pop (hx : h.queue q = .landed x :: .landed y :: t) :
    takeOps h e [⟨q, false, false, ty⟩, ⟨q, false, false, ty⟩] h = (h.popQueue e q).popQueue e q := by
  have hread : h.opRead e ⟨q, false, false, ty⟩ = some (q, false) := Hand.opRead_of_no_hit hq rfl
  simp [takeOps, Hand.opReads, hread, Hand.fillLatch, opValues_two hq false hx, Hand.beyond, readPos, popsOf, hx, List.range_succ]

/-- A held operand that hits takes the latch and reads no queue. -/
theorem opValues_hit (hhit : (h.engine e).latch = some (q, y)) : opValues h e [⟨q, false, true, ty⟩] = [y] := by
  simp [opValues, Hand.opVals, Hand.latchHit, hhit, Nat.not_le.2 hq]
theorem takeOps_hit (hhit : (h.engine e).latch = some (q, y)) :
    takeOps h e [⟨q, false, true, ty⟩] h = h.modEngine e (fun z => { z with latch := some (q, y) }) := by
  simp [takeOps, Hand.opReads, Hand.opRead, Hand.latchHit, hhit, Hand.fillLatch, opValues_hit hq hhit, hq]
end

theorem queueReads : Claims.QueueReads := by
  intro h e q ty x y t hq
  refine ⟨fun hx => ⟨?_, ⟨opValues_head hq rfl hx, takeOps_head hq rfl hx⟩, fun hmiss => ?_⟩, fun hxy => ?_, fun hhit => ?_⟩
  · have hpop : takeOps h e [⟨q, false, false, ty⟩] h = h.popQueue e q := takeOps_head hq rfl hx
    rw [hpop]
    exact ⟨opValues_head hq rfl hx, by simp [hx], Hand.popQueue_freed h e q, fun k hk => by simp [hk], h.popQueue_latch e q⟩
  · have hno : h.latchHit e ⟨q, false, true, ty⟩ = false := by simpa [Hand.latchHit] using hmiss
    rw [takeOps_head hq hno hx]
    exact ⟨opValues_head hq hno hx, by simp [Hand.fillLatch, hq], by simp [Hand.fillLatch, hq]⟩
  · rw [takeOps_pop_pop hq hxy]
    exact ⟨opValues_two hq false hxy, by simp [hxy], opValues_two hq true hxy⟩
  · rw [takeOps_hit hq hhit]
    exact ⟨opValues_hit hq hhit, by simp⟩

/-! ## Elements of an entry (10 R196) -/

theorem elem_mem_entry {w j : Nat} (hj : j < 1024 / w) : w * j + w ≤ 1024 := by
  have hle : (j + 1) * w ≤ 1024 := le_trans (Nat.mul_le_mul_right w hj) (Nat.div_mul_le_self 1024 w)
  rwa [Nat.mul_comm, Nat.mul_succ] at hle

/-- An element of an entry built lane by lane. -/
theorem elem_mkEntry_map {w j : Nat} (f : Nat → Nat) (hj : j < 1024 / w) :
    elem (mkEntry w ((List.range (1024 / w)).map f)) w j = f j % 2 ^ w := by
  rw [elem_mkEntry _ (elem_mem_entry hj)]
  simp [List.getD, hj]

@[simp] theorem elem_zero (w j : Nat) : elem 0 w j = 0 := by
  simp only [elem, BitVec.ofNat_eq_ofNat, BitVec.toNat_ofNat, Nat.zero_mod, Nat.zero_div]

theorem elem_allOnes {w j : Nat} (hj : j < 1024 / w) : elem (BitVec.allOnes 1024) w j = 2 ^ w - 1 := by
  have hin := elem_mem_entry hj
  apply Nat.eq_of_testBit_eq
  intro i
  simp only [elem, BitVec.toNat_allOnes, Nat.testBit_mod_two_pow, Nat.testBit_div_two_pow, Nat.testBit_two_pow_sub_one]
  by_cases hi : i < w
  · simp [hi, show w * j + i < 1024 by omega, Nat.add_comm i]
  · simp [hi]

/-! ## Numbers as values of a type (10 R197) -/

/-- The code of a small number in a type: as an integer, or as a floating value. -/
def numCode (ty k : Nat) : Nat := if isF ty then (convertTo (FFmt.ofType ty) 0 false (.fin ⟨false, k, 0⟩)).code else k

@[simp] theorem numCode_zero (ty : Nat) : numCode ty 0 = 0 := by simp [numCode, convertTo, FFmt.signed]

/-- Does a code of a floating type stand for the number `k`? -/
def FVal.isNum (k : Nat) : FVal → Bool
  | .fin x => !x.neg && decide (x.exp ≤ 0) && x.mag == k * 2 ^ (-x.exp).toNat
  | _ => false

theorem onLine_of_isNum {v : FVal} {k : Nat} (h : v.isNum k = true) : Claims.onLine v = ((k : ℚ) : WithBot (WithTop ℚ)) := by
  cases v with
  | nan s => cases h
  | inf n => cases h
  | fin x =>
    simp only [FVal.isNum, Bool.and_eq_true, Bool.not_eq_true', decide_eq_true_eq, beq_iff_eq] at h
    obtain ⟨⟨hneg, hexp⟩, hmag⟩ := h
    have hpow : (2 : ℚ) ^ (-x.exp).toNat * 2 ^ x.exp = 1 := by
      rw [← zpow_natCast, Int.toNat_of_nonneg (by omega), ← zpow_add₀ two_ne_zero, neg_add_cancel, zpow_zero]
    simp [Claims.onLine, hneg, hmag, mul_assoc, hpow]

/-- The lane numbers of the three floating types are exact: 64 lanes of bf16 and of f16, 32 of f32. -/
theorem numCode_isNum : ∀ ty ∈ [6, 7, 8], ∀ k < 1024 / tw ty,
    ((FFmt.ofType ty).decode (numCode ty k)).isNum k = true ∧ numCode ty k < 2 ^ tw ty := by decide +kernel

theorem lanes_le_two_pow {ty : Nat} (hty : ty ≤ 8) : 1024 / tw ty ≤ 2 ^ tw ty := by
  interval_cases ty <;> decide

theorem mem_floats_of_isF {ty : Nat} (h : isF ty = true) : ty ∈ [6, 7, 8] := by
  simp only [isF, Bool.and_eq_true, decide_eq_true_eq] at h
  simp only [List.mem_cons, List.not_mem_nil, or_false]
  omega

theorem numCode_lt {ty k : Nat} (hty : ty ≤ 8) (hk : k < 1024 / tw ty) : numCode ty k < 2 ^ tw ty := by
  by_cases hf : isF ty = true
  · exact (numCode_isNum ty (mem_floats_of_isF hf) k hk).2
  · rw [numCode, if_neg hf]
    exact lt_of_lt_of_le hk (lanes_le_two_pow hty)

/-- The code of a number stands for it, and 0 has the code 0. -/
theorem numCode_value {ty k : Nat} (hk : k < 1024 / tw ty) :
    if isF ty then Claims.onLine ((FFmt.ofType ty).decode (numCode ty k)) = ((k : ℚ) : WithBot (WithTop ℚ)) ∧ (k = 0 → numCode ty k = 0)
    else numCode ty k = k := by
  split
  · next hf =>
    refine ⟨onLine_of_isNum (numCode_isNum ty (mem_floats_of_isF hf) k hk).1, ?_⟩
    rintro rfl
    exact numCode_zero ty
  · next hf => rw [numCode, if_neg hf]

/-! ## The special sources (10 R197) -/

section
variable (h : Hand) (ty : Nat)

theorem Hand.special_sreg {n : Nat} (hn : n < 64) :
    h.special ty (1536 + n) = mkEntry (tw ty) ((List.range (1024 / tw ty)).map (fun _ => (h.sreg n).toNat % 2 ^ tw ty)) := by
  simp [Hand.special, show 1536 + n < 1600 by omega, List.map_const']
theorem Hand.special_preg {n : Nat} (hn : n < 16) :
    h.special ty (1600 + n) =
      mkEntry (tw ty) ((List.range (1024 / tw ty)).map (fun j => numCode ty (if (h.preg n).getLsbD j then 1 else 0))) := by
  simp only [Hand.special, show ¬ 1600 + n < 1600 by omega, show 1600 + n < 1616 by omega, if_false, if_true, Nat.add_sub_cancel_left,
    apply_ite (numCode ty), numCode_zero]
  rfl
theorem Hand.special_lane : h.special ty 1616 = mkEntry (tw ty) ((List.range (1024 / tw ty)).map (numCode ty)) := rfl
theorem Hand.special_zero : h.special ty 1617 = 0 := rfl
theorem Hand.special_ones : h.special ty 1618 = BitVec.allOnes 1024 := rfl
end

theorem specialSources : Claims.SpecialSources := by
  intro h ty n j hty hj
  have hsmall (b : Bool) : (if b then 1 else 0) < 1024 / tw ty.toNat := by
    generalize ty.toNat = t at hty
    interval_cases t <;> cases b <;> decide
  refine ⟨fun hn => ?_, fun hn => ?_, ?_, ?_, ?_⟩
  · rw [h.special_sreg _ hn, elem_mkEntry_map _ hj, Nat.mod_mod]
  · rw [h.special_preg _ hn, elem_mkEntry_map _ hj, Nat.mod_eq_of_lt (numCode_lt hty (hsmall _))]
    exact numCode_value (hsmall _)
  · rw [h.special_lane, elem_mkEntry_map _ hj, Nat.mod_eq_of_lt (numCode_lt hty hj)]
    exact numCode_value hj
  · rw [h.special_zero, elem_zero]
  · rw [h.special_ones, elem_allOnes hj]

/-- Settles O14: each read of a queue is one of five shapes, and each special source is built lane by lane. -/
theorem operandReads : Obligations.OperandReads := ⟨queueReads, specialSources⟩

end Sys2Proof.Machine
end

section
/-! PROOFS. The moves between the register files and the queues (07 R153). -/

namespace Sys2Proof.Machine

open Claims

/-! ## Words that read queues (07 R140, 10 R199) -/

/-- A word that reads operands, its sources landed and its own checks passed, issues, and what it computes is on its way. -/
theorem runWord_of_queueMeaning {s : State} {e : Engine} {i : Instr} {hd : Hdr} {mn : At → Mach → Meaning} {os : List Opnd}
    {pushes : List Nat} {lat : Nat} {more : List (Option Stop)} {f : QFun}
    (hmn : mn ⟨s.tb, s.cur, e⟩ s.m = queueMeaning ⟨s.tb, s.cur, e⟩ s.m hd os pushes lat more f)
    (hsrc : Sources s e os pushes) (hmore : firstStop more = none) (h : MayIssue s e i hd) :
    .next (runWord s e i hd mn) =
      s.lands e hd (s.took e hd os) (f (opValues s.hand e os)).1 (f (opValues s.hand e os)).2 lat := by
  obtain ⟨hqueues, hregs⟩ := hsrc
  have hown : queueOwn s.hand e os pushes more = none := by
    rw [queueOwn, firstStop_eq_none]
    rw [firstStop_eq_none] at hmore
    simpa [or_imp, forall_and, hqueues] using ⟨hregs, hmore⟩
  rw [runWord_issues h (by rw [hmn]; rfl) (by rw [hmn]; exact Nat.zero_le _) (by rw [hmn]; exact hown), hmn]
  rfl

theorem opValues_headD (s : State) (e : Engine) (os : List Opnd) : (opValues s.hand e os).headD 0 = operand s e os 0 := by
  rw [operand]
  cases opValues s.hand e os <;> rfl

/-! ## Values of elements (07 R153) -/

/-- An element extended to 64 bits is its value: signed for an i type, unsigned for any other. -/
theorem extendElem_elem (ty : Nat) (x : Entry) (j : Nat) :
    extendElem ty (elem x (tw ty) j) = BitVec.ofInt 64 (laneValue ty x j) := by
  have hlt := Nat.mod_eq_of_lt (elem_lt x (tw ty) j)
  simp only [extendElem, laneValue, intOf, hlt]
  cases tySigned ty
  · simp
  · simp only [if_true, Bool.true_and, decide_eq_true_eq, w64, sext, hlt]

theorem joinHigh_bits_eq_ofNat (v a : W64) : joinHigh (bits v 0 32) a = BitVec.ofNat 64 (v.toNat % 2 ^ 32 * 2 ^ 32 + a.toNat % 2 ^ 32) := by
  apply BitVec.eq_of_toNat_eq
  have hlow : a.toNat % 2 ^ 32 < 2 ^ 32 := Nat.mod_lt _ (by decide)
  rw [joinHigh, BitVec.toNat_append, bits_zero_toNat, bits_zero_toNat, ← Nat.shiftLeft_add_eq_or_of_lt hlow, Nat.shiftLeft_eq,
    BitVec.toNat_ofNat, Nat.mod_eq_of_lt (a := _ + _) (by omega)]

theorem packElems_replicate_zero_append (w k v : Nat) : packElems w (List.replicate k 0 ++ [v]) = v % 2 ^ w * 2 ^ (w * k) := by
  induction k with
  | zero => simp [packElems]
  | succ k ih =>
    rw [List.replicate_succ, List.cons_append, packElems, ih, Nat.zero_mod, Nat.zero_add, Nat.mul_succ, pow_add]
    ac_rfl

/-- An entry with one element set, the rest zero. -/
theorem elem_ofNat_mul_two_pow {w k j v : Nat} (hj : j < 1024 / w) :
    elem (BitVec.ofNat 1024 (v % 2 ^ w * 2 ^ (w * k))) w j = if j = k then v % 2 ^ w else 0 := by
  rw [← packElems_replicate_zero_append, ← mkEntry, elem_mkEntry _ (elem_mem_entry hj)]
  rcases lt_trichotomy j k with hlt | rfl | hgt
  · simp [List.getD, List.getElem?_append, hlt, hlt.ne]
  · simp [List.getD]
  · obtain ⟨d, rfl⟩ := Nat.exists_eq_add_of_lt hgt
    simp [List.getD, Nat.add_assoc]

/-! ## SFV, AFV, HFV, SVS, VMOV, VDEP -/

section
variable {s : State} {w : VVI}

theorem exec_sfv_issues (hsrc : Sources s .x (sourceOf w w.ty.toNat) []) (h : MayIssue s .x (.sfv w) w.hdr) :
    exec (.sfv w) s = s.lands .x w.hdr (s.took .x w.hdr (sourceOf w w.ty.toNat))
      [.sreg (sKey s.hand.ring w.d.toNat) (BitVec.ofInt 64
        (laneValue w.ty.toNat (operand s .x (sourceOf w w.ty.toNat) 0) (w.imm.toNat % 128)))] 0 2 := by
  refine (runWord_of_queueMeaning rfl hsrc rfl h).trans ?_
  rw [opValues_headD, extendElem_elem, bits_zero_toNat]
  rfl

theorem exec_afv_issues (hsrc : Sources s .a (sourceOf w w.ty.toNat) [])
    (hlow : w.imm.getLsbD 12 = true → ReadyA s (w.d.setWidth 5)) (h : MayIssue s .a (.afv w) w.hdr) :
    exec (.afv w) s = s.lands .a w.hdr (s.took .a w.hdr (sourceOf w w.ty.toNat)) [.areg (aKey s.hand.ring w.d.toNat)
      (let v : W64 := BitVec.ofInt 64
         (laneValue w.ty.toNat (operand s .a (sourceOf w w.ty.toNat) 0) (w.imm.toNat % 128))
       if w.imm.getLsbD 12 then BitVec.ofNat 64 (v.toNat % 2 ^ 32 * 2 ^ 32 + (s.hand.areg w.d.toNat).toNat % 2 ^ 32) else v)] 0 2 := by
  obtain ⟨-, -, -, hreg⟩ := wordCheck_eq_none.1 h.1
  have hd : w.d.toNat < 32 := of_decide_eq_true (Bool.and_eq_true_iff.1 hreg).1
  have hd5 : (w.d.setWidth 5).toNat = w.d.toNat := by rw [BitVec.toNat_setWidth, Nat.mod_eq_of_lt hd]
  have hown : firstStop [if bit w.imm 12 then s.hand.needA w.d.toNat else none] = none := by
    split
    · next hhi => rw [← hd5, needA_eq_none (hlow hhi), firstStop_none, firstStop_nil]
    · rfl
  refine (runWord_of_queueMeaning rfl hsrc hown h).trans ?_
  simp only [opValues_headD, extendElem_elem, bits_zero_toNat, joinHigh_bits_eq_ofNat]
  rfl

theorem exec_hfv_issues (hsrc : Sources s .m (sourceOf w 4) []) (h : MayIssue s .m (.hfv w) w.hdr) :
    exec (.hfv w) s = s.lands .m w.hdr (s.took .m w.hdr (sourceOf w 4)) [.hreg w.d.toNat
      (BitVec.ofNat 32 (elem (operand s .m (sourceOf w 4) 0) 32 (w.imm.toNat % 32)))] 0 2 := by
  refine (runWord_of_queueMeaning rfl hsrc rfl h).trans ?_
  rw [opValues_headD, lane, bits_zero_toNat]
  rfl

theorem exec_svs_issues (hsrc : Sources s .x [] [w.d.toNat]) (hreg : ReadyS s (w.a.toNat - 1536))
    (h : MayIssue s .x (.svs w) w.hdr) :
    exec (.svs w) s = s.lands .x w.hdr (s.took .x w.hdr []) [.queue w.d.toNat (BitVec.ofNat 1024
      ((s.hand.sreg (w.a.toNat - 1536)).toNat % 2 ^ tw w.ty.toNat * 2 ^ (tw w.ty.toNat * (w.imm.toNat % 128))))] 0 2 := by
  have hown : firstStop [s.hand.needS (w.a.toNat - 1536)] = none := by rw [needS_eq_none hreg, firstStop_none, firstStop_nil]
  refine (runWord_of_queueMeaning rfl hsrc hown h).trans ?_
  rw [bits_zero_toNat]
  rfl

theorem exec_vmov_issues {w : VVV} (hsrc : Sources s .x [⟨w.a.toNat, w.ka, false, 4⟩] [w.d.toNat])
    (h : MayIssue s .x (.vmov w) w.hdr) :
    exec (.vmov w) s = s.lands .x w.hdr (s.took .x w.hdr [⟨w.a.toNat, w.ka, false, 4⟩])
      [.queue w.d.toNat (operand s .x [⟨w.a.toNat, w.ka, false, 4⟩] 0)] 0 1 := by
  refine (runWord_of_queueMeaning rfl hsrc rfl h).trans ?_
  rw [opValues_headD]

/-- What VDEP pushes: the landed and the reserved entries of a queue, and the free entries of the pool. -/
def depthEntry (h : Hand) (q : Nat) : Entry :=
  mkEntry 32 [((h.queue q).filter Slot.isLanded).length, (h.queue q).length - ((h.queue q).filter Slot.isLanded).length, h.pool - 1]

theorem exec_vdep_issues (hsrc : Sources s .x [] [w.d.toNat]) (h : MayIssue s .x (.vdep w) w.hdr) :
    exec (.vdep w) s = s.lands .x w.hdr (s.took .x w.hdr []) [.queue w.d.toNat (depthEntry s.hand w.a.toNat)] 0 2 := by
  refine (runWord_of_queueMeaning rfl hsrc rfl h).trans ?_
  rfl
end

theorem elem_depthEntry (h : Hand) (q : Nat) {j : Nat} (hj : j < 32) :
    elem (depthEntry h q) 32 j =
      (if j = 0 then ((h.queue q).filter Slot.isLanded).length
      else if j = 1 then ((h.queue q).filter (! Slot.isLanded ·)).length
      else if j = 2 then h.pool - 1 else 0) % 2 ^ 32 := by
  have hreserved : (h.queue q).length - ((h.queue q).filter Slot.isLanded).length = ((h.queue q).filter (! Slot.isLanded ·)).length := by
    have := List.length_eq_length_filter_add (l := h.queue q) Slot.isLanded
    omega
  rw [depthEntry, elem_mkEntry _ (by omega), hreserved]
  match j with
  | 0 | 1 | 2 => rfl
  | j + 3 => simp

/-! ## VCLR -/

@[simp] theorem Mach.setHand_setHand (m : Mach) (r : Nat) (h h' : Hand) : (m.setHand r h).setHand r h' = m.setHand r h' := by
  simp [Mach.setHand]

theorem mem_vclrRange {w : VVI} {q : Nat} : q ∈ vclrRange w ↔ w.d.toNat ≤ q ∧ q ≤ w.d.toNat + w.imm.toNat % 64 := by
  simp only [vclrRange, List.mem_map, List.mem_range, bits_zero_toNat]
  constructor
  · rintro ⟨i, hi, rfl⟩
    omega
  · intro h
    exact ⟨q - w.d.toNat, by omega, by omega⟩

theorem Hand.clearQueue_queue (h : Hand) (q k : Nat) : (h.clearQueue q).queue k = if k = q then [] else h.queue k :=
  KMap.get_set _ _ _ _ _
theorem Hand.clearQueue_engine (h : Hand) (q : Nat) (e : Engine) : (h.clearQueue q).engine e =
    if (h.engine e).latch.map Prod.fst == some q then { h.engine e with latch := none } else h.engine e := by cases e <;> rfl

theorem foldl_clearQueue_queue (l : List Nat) (h : Hand) (k : Nat) :
    (l.foldl Hand.clearQueue h).queue k = if k ∈ l then [] else h.queue k := by
  induction l generalizing h with
  | nil => rfl
  | cons q l ih =>
    rw [List.foldl_cons, ih, Hand.clearQueue_queue]
    by_cases hk : k = q <;> simp [hk]

/-- No engine keeps a latch on a cleared queue. -/
theorem not_mem_of_foldl_clearQueue_latch {l : List Nat} {h : Hand} {e : Engine} {p : Nat × Entry}
    (hp : ((l.foldl Hand.clearQueue h).engine e).latch = some p) : (h.engine e).latch = some p ∧ p.1 ∉ l := by
  induction l generalizing h with
  | nil => exact ⟨hp, List.not_mem_nil⟩
  | cons q l ih =>
    obtain ⟨hlatch, hl⟩ := ih hp
    rw [Hand.clearQueue_engine] at hlatch
    split at hlatch
    · cases hlatch
    · next hq =>
      rw [hlatch] at hq
      exact ⟨hlatch, by simpa [hl] using hq⟩

theorem foldl_clearQueue_eq (l : List Nat) (h : Hand) : ∃ ea ex em v freed,
    l.foldl Hand.clearQueue h = { h with ea := ea, ex := ex, em := em, v := v, freed := freed } := by
  induction l generalizing h with
  | nil => exact ⟨_, _, _, _, _, rfl⟩
  | cons q l ih =>
    obtain ⟨ea, ex, em, v, freed, hl⟩ := ih (h.clearQueue q)
    exact ⟨ea, ex, em, v, freed, hl⟩

theorem Hand.issueAt_eq (h : Hand) (now : Nat) (e : Engine) (pop : Nat) : ∃ ea ex em fifos,
    h.issueAt now e pop = { h with ea := ea, ex := ex, em := em, fifos := fifos, blocked := none, stage := 0 } := by
  rw [Hand.issueAt, Hand.popTok]
  split <;> cases e <;> exact ⟨_, _, _, _, rfl⟩

theorem tokenNow_eq (s : State) (e : Engine) (hd : Hdr) (h : Hand) : ∃ fifos, tokenNow s e hd h = { h with fifos := fifos } := by
  rw [tokenNow]
  split
  · exact ⟨_, rfl⟩
  rw [Hand.reserveTok, Hand.enterTok]
  split <;> exact ⟨_, rfl⟩

/-- The hand past a VCLR, before its token enters. -/
def queuesCleared (s : State) (w : VVI) : Hand :=
  (vclrRange w).foldl Hand.clearQueue (s.hand.issueAt s.tb .x (popFifo .x w.hdr.pop))
/-- The hand past a VCLR. -/
def clearedHand (s : State) (w : VVI) : Hand := tokenNow s .x w.hdr (queuesCleared s w)

theorem clearedHand_frame (s : State) (w : VVI) : clearedHand s w =
    { s.hand with
      ea := (clearedHand s w).ea, ex := (clearedHand s w).ex, em := (clearedHand s w).em, v := (clearedHand s w).v,
      freed := (clearedHand s w).freed, fifos := (clearedHand s w).fifos, blocked := none, stage := 0 } := by
  obtain ⟨ea, ex, em, fifos, hissue⟩ := s.hand.issueAt_eq s.tb .x (popFifo .x w.hdr.pop)
  obtain ⟨ea', ex', em', v, freed, hclear⟩ := foldl_clearQueue_eq (vclrRange w) (s.hand.issueAt s.tb .x (popFifo .x w.hdr.pop))
  obtain ⟨fifos', htok⟩ := tokenNow_eq s .x w.hdr (queuesCleared s w)
  rw [clearedHand, htok, queuesCleared, hclear, hissue]

theorem clearedHand_queue (s : State) (w : VVI) (q : Nat) :
    (clearedHand s w).queue q = if q ∈ vclrRange w then [] else s.hand.queue q := by
  obtain ⟨fifos, htok⟩ := tokenNow_eq s .x w.hdr (queuesCleared s w)
  obtain ⟨ea, ex, em, fifos', hissue⟩ := s.hand.issueAt_eq s.tb .x (popFifo .x w.hdr.pop)
  rw [clearedHand, htok]
  refine (foldl_clearQueue_queue _ _ q).trans ?_
  rw [hissue]
  rfl

theorem not_mem_of_clearedHand_latch {s : State} {w : VVI} {e : Engine} {q : Nat} {v : Entry}
    (h : ((clearedHand s w).engine e).latch = some (q, v)) : q ∉ vclrRange w := by
  obtain ⟨fifos, htok⟩ := tokenNow_eq s .x w.hdr (queuesCleared s w)
  rw [clearedHand, htok] at h
  have hlatch : ((queuesCleared s w).engine e).latch = some (q, v) := by
    cases e <;> exact h
  exact (not_mem_of_foldl_clearQueue_latch hlatch).2

theorem exec_vclr_issues {s : State} {w : VVI}
    (hlanded : ∀ q, w.d.toNat ≤ q → q ≤ w.d.toNat + w.imm.toNat % 64 → ∀ x ∈ s.hand.queue q, x.isLanded = true)
    (h : MayIssue s .x (.vclr w) w.hdr) : exec (.vclr w) s = s.goes (s.m.setHand s.cur (clearedHand s w)) := by
  have hfree : (vclrRange w).any (fun q => (s.hand.queue q).any (fun e => !e.isLanded)) = false := by
    simp only [List.any_eq_false, mem_vclrRange, Bool.not_eq_true, Bool.not_eq_false']
    exact fun q hq => hlanded q hq.1 hq.2
  refine congrArg Host.Outcome.next (runWord_issues h rfl (Nat.zero_le _) ?_) |>.trans ?_
  · exact firstStop_eq_none.2 (by simpa using hfree)
  · simp only [instantMeaning, State.issued, Mach.modHand, Mach.setHand_hand_get, if_pos, Mach.setHand_setHand]
    rfl

/-- Settles O5: the words that read or fill queues issue with what they compute on its way; VCLR clears its range queue by queue. -/
theorem registerFileMoves : Obligations.RegisterFileMoves := by
  refine ⟨fun s w => exec_sfv_issues, fun s w => exec_afv_issues, fun s w => exec_hfv_issues, fun s w hsrc hreg h => ?_,
    fun s w => exec_vmov_issues, fun s w hsrc h => ?_, fun s w hlanded h => ?_⟩
  · exact ⟨_, exec_svs_issues hsrc hreg h, fun j hj => elem_ofNat_mul_two_pow hj⟩
  · exact ⟨_, exec_vdep_issues hsrc h, fun j hj => elem_depthEntry s.hand w.a.toNat hj⟩
  · refine ⟨clearedHand s w, (exec_vclr_issues hlanded h).trans ?_, fun q => ?_, fun e q v hlatch => ?_⟩
    · rw [← clearedHand_frame]
    · simp only [clearedHand_queue, mem_vclrRange]
    · rw [← mem_vclrRange]
      exact not_mem_of_clearedHand_latch hlatch

end Sys2Proof.Machine
end

section
/-! PROOFS. Landings of results and entries of tokens (07 R137, R139, R141, R143, 08 R169). -/

namespace Sys2Proof.Machine

open Claims

/-! ## What landings and tokens leave of a hand -/

/-- The parts of a hand that neither a landing nor a token changes. -/
structure Hand.Keeps (h g : Hand) : Prop where
  results : g.results = h.results
  xflags : g.xflags = h.xflags
  accs : g.accs = h.accs
  pending : g.pending = h.pending
  ea : g.ea = h.ea
  ex : g.ex = h.ex
  em : g.em = h.em
  vclk : g.vclk = h.vclk
  ring : g.ring = h.ring
  busy : g.busy = h.busy

/-- Two hands have the same register files and queues. -/
structure Hand.SameFiles (g g' : Hand) : Prop where
  s : g'.s = g.s
  a : g'.a = g.a
  h : g'.h = g.h
  p : g'.p = g.p
  st : g'.st = g.st
  cr : g'.cr = g.cr
  v : g'.v = g.v

theorem Hand.Keeps.refl (h : Hand) : h.Keeps h := by constructor <;> rfl
theorem Hand.Keeps.trans {h g k : Hand} (h1 : h.Keeps g) (h2 : g.Keeps k) : h.Keeps k where
  results := h2.results.trans h1.results
  xflags := h2.xflags.trans h1.xflags
  accs := h2.accs.trans h1.accs
  pending := h2.pending.trans h1.pending
  ea := h2.ea.trans h1.ea
  ex := h2.ex.trans h1.ex
  em := h2.em.trans h1.em
  vclk := h2.vclk.trans h1.vclk
  ring := h2.ring.trans h1.ring
  busy := h2.busy.trans h1.busy

/-! ## Tokens (07 R143) -/

section
variable (h : Hand) (now f : Nat)

theorem Hand.enterTok_keeps : h.Keeps (h.enterTok now f) := by
  rw [Hand.enterTok]
  split <;> constructor <;> rfl
theorem Hand.enterTok_sameFiles : h.SameFiles (h.enterTok now f) := by
  rw [Hand.enterTok]
  split <;> constructor <;> rfl
theorem Hand.completeTok_keeps : h.Keeps (h.completeTok now f) := by
  obtain ⟨fifos, hf⟩ := h.completeTok_eq now f
  rw [hf]
  constructor <;> rfl
end

theorem Hand.enterTok_fifo (h : Hand) (now : Nat) {f : Nat} (hf : f ≠ 0) (k : Nat) : (h.enterTok now f).fifo k =
    if k = f then Fifo.enter { h.fifo f with reserved := (h.fifo f).reserved - 1 } now else h.fifo k := by
  rw [Hand.enterTok, if_neg hf, Hand.setFifo_fifo]

/-- A completion's token enters, or waits for a place where 16 are taken; every other FIFO stays. -/
theorem Hand.completeTok_fifo (h : Hand) (now : Nat) {f : Nat} (hf : f ≠ 0) (k : Nat) : (h.completeTok now f).fifo k =
    if k = f then
      if 16 ≤ (h.fifo f).count + (h.fifo f).reserved then { h.fifo f with pend := (h.fifo f).pend + 1 } else (h.fifo f).enter now
    else h.fifo k := by
  rw [Hand.completeTok, if_neg hf]
  split <;> rw [Hand.setFifo_fifo]

/-- A token that enters can be popped from the next cycle on. -/
theorem Fifo.enter_avail (x : Fifo) (t : Nat) : (x.enter t).avail t = x.avail t ∧ ∀ u, t < u → (x.enter t).avail u = x.count + 1 := by
  refine ⟨?_, fun u hu => ?_⟩
  · by_cases hlast : x.lastIn = t <;> simp [Fifo.enter, Fifo.avail, hlast]
  · simp [Fifo.enter, Fifo.avail, hu.ne]

theorem exec_pendingTokenEntry (s : State) (r f : Nat) :
    exec (.pendingTokenEntry r f) s = s.goes (s.m.modHand r (fun h => h.completeTok s.tb f)) := rfl

/-! ## One landing (07 R136, R137, R139) -/

section
variable (h : Hand) (id : Nat)

theorem Hand.putS_eq (k : Nat) (v : W64) : ∃ s, h.putS k v = { h with s := s } := by
  rw [Hand.putS]
  split <;> exact ⟨_, rfl⟩
theorem Hand.putA_eq (k : Nat) (v : W64) : ∃ a, h.putA k v = { h with a := a } := by
  rw [Hand.putA]
  split <;> exact ⟨_, rfl⟩

/-- A landing leaves the tokens, and every register file and the queues but for its own kind. -/
theorem Hand.land_frame (l : Land) : h.Keeps (h.land id l) ∧ (h.land id l).fifos = h.fifos ∧
    ((∀ n v, l ≠ .sreg n v) → (h.land id l).s = h.s) ∧ ((∀ n v, l ≠ .areg n v) → (h.land id l).a = h.a) ∧
    ((∀ n v, l ≠ .hreg n v) → (h.land id l).h = h.h) ∧ ((∀ n v, l ≠ .preg n v) → (h.land id l).p = h.p) ∧
    ((∀ n v, l ≠ .streg n v) → (h.land id l).st = h.st) ∧ ((∀ n v, l ≠ .creg n v) → (h.land id l).cr = h.cr) ∧
    ((∀ n v, l ≠ .queue n v) → (h.land id l).v = h.v) := by
  cases l with
  | sreg n v =>
    obtain ⟨s, hs⟩ := h.putS_eq n v
    rw [Hand.land, hs]
    exact ⟨by constructor <;> rfl, by simp⟩
  | areg n v =>
    obtain ⟨a, ha⟩ := h.putA_eq n v
    rw [Hand.land, ha]
    exact ⟨by constructor <;> rfl, by simp⟩
  | _ => exact ⟨by constructor <;> rfl, by simp [Hand.land, Hand.setCreg]⟩

theorem Hand.land_sreg (n k : Nat) (v : W64) :
    KMap.get 0 (h.land id (.sreg n v)).s k = if k = n ∧ n ≠ 0 then v else KMap.get 0 h.s k := by
  by_cases hn : n = 0 <;> simp [Hand.land, Hand.putS, hn, KMap.get_set]
theorem Hand.land_areg (n k : Nat) (v : W64) :
    KMap.get 0 (h.land id (.areg n v)).a k = if k = n ∧ n ≠ 0 then v else KMap.get 0 h.a k := by
  by_cases hn : n = 0 <;> simp [Hand.land, Hand.putA, hn, KMap.get_set]
theorem Hand.land_queue (n k : Nat) (v : Entry) :
    (h.land id (.queue n v)).queue k = if k = n then fillSlot id v (h.queue n) else h.queue k := KMap.get_set _ _ _ _ _
end

/-! ## A result lands, or looks again in the next cycle (07 R137, R141, 06 R124, R129) -/

/-- A hand with a result out of its list and its flags gathered (08 R169). -/
def Hand.finish (h : Hand) (id : Nat) (x : Result) : Hand :=
  { h with results := h.results.filter (fun y => y.id != id), xflags := h.xflags ||| x.flags }
/-- A hand with a result out of its list, its flags gathered and its values landed. -/
def Hand.written (h : Hand) (id : Nat) (x : Result) : Hand := x.lands.foldl (fun h l => h.land id l) (h.finish id x)
/-- The machine with a result landed and its tokens entered; the machine-check of its data is noted. -/
def Mach.landed (m : Mach) (now r id : Nat) (x : Result) : Mach :=
  let m1 := x.lands.foldl Mach.landMem
    (m.setHand r ((((m.hand r).written id x).enterTok now x.push).completeTok now x.tok))
  x.fault.elim m1 (m1.recordFault r)

section
variable (h : Hand) (now id : Nat) {x : Result}

theorem Hand.written_one {l : Land} (hl : x.lands = [l]) : h.written id x = (h.finish id x).land id l := by
  rw [Hand.written, hl, List.foldl_cons, List.foldl_nil]
theorem Hand.written_two {l k : Land} (hl : x.lands = [l, k]) : h.written id x = ((h.finish id x).land id l).land id k := by
  rw [Hand.written, hl, List.foldl_cons, List.foldl_cons, List.foldl_nil]

theorem Hand.foldl_land_keeps (ls : List Land) :
    h.Keeps (ls.foldl (fun h l => h.land id l) h) ∧ (ls.foldl (fun h l => h.land id l) h).fifos = h.fifos := by
  induction ls generalizing h with
  | nil => exact ⟨.refl h, rfl⟩
  | cons l ls ih =>
    obtain ⟨hkeeps, hfifos, -⟩ := h.land_frame id l
    obtain ⟨hkeeps', hfifos'⟩ := ih (h.land id l)
    exact ⟨hkeeps.trans hkeeps', hfifos'.trans hfifos⟩
end

section
variable {s : State} {r id : Nat} {x : Result} (hx : (s.m.hand r).results.find? (fun y => y.id == id) = some x)
include hx

theorem exec_resultLanding_lands (hqueues : ∀ l ∈ x.lands, ∀ q, l.queueNo = some q → blockedBy id ((s.m.hand r).queue q) = false)
    (hearlier : ∀ y ∈ (s.m.hand r).results.takeWhile (fun y => y.id != id), ∀ k ∈ y.lands, ∀ l ∈ x.lands, k.same l = false)
    (hfence : ∀ f, x.fence = some f → (s.m.hand r).fenceMet f = true) (hflush : s.m.flushing r id = false) :
    exec (.resultLanding r id) s = s.goes (s.m.landed s.tb r id x) := by
  have hq : (x.lands.filterMap Land.queueNo).any (fun q => blockedBy id ((s.m.hand r).queue q)) = false := by
    rw [List.any_eq_false]
    intro q hq
    obtain ⟨l, hl, hlq⟩ := List.mem_filterMap.1 hq
    simp [hqueues l hl q hlq]
  have he : ((s.m.hand r).results.takeWhile (fun y => y.id != id)).any (fun y => y.lands.any (fun l => x.lands.any l.same)) = false := by
    simpa using hearlier
  have hf : x.fence.any (fun f => !(s.m.hand r).fenceMet f) = false := by
    simpa [Option.any_eq_false] using hfence
  have hland : s.m.landResult s.tb r id = s.m.landed s.tb r id x := by
    simp only [Mach.landResult, hx, hq, he, hf, hflush, Bool.or_false, Bool.false_eq_true, if_false]
    rfl
  exact congrArg s.goes hland

theorem exec_resultLanding_waits (hqueues : x.lands.filterMap Land.queueNo = [])
    (hwait : x.fence.any (fun f => !(s.m.hand r).fenceMet f) = true ∨ s.m.flushing r id = true) :
    exec (.resultLanding r id) s = s.goes (s.m.post (s.tb + 1) (.resultLanding r id)) := by
  have hwait' := (Bool.or_eq_true _ _).mpr hwait
  have hland : s.m.landResult s.tb r id = s.m.post (s.tb + 1) (.resultLanding r id) := by
    simp [Mach.landResult, hx, hqueues, hwait']
  exact congrArg s.goes hland
end

theorem Hand.fenceMet_iff (h : Hand) (f : Fence) : h.fenceMet f = true ↔
    ∀ a ∈ h.accs, a.id < f.snap → (f.rel = true ∨ a.isLoad = true) → (a.isLoad = false ∧ a.sent = true ∧ f.fabric = false) := by
  rw [Hand.fenceMet, List.all_eq_true]
  refine forall₂_congr fun a _ => ?_
  cases f.rel <;> cases a.isLoad <;> simp [or_iff_not_imp_left]

/-! ## The machine with a result landed -/

section
variable (m : Mach)

@[simp] theorem Mach.landMem_hand_get (l : Land) (k : Nat) : (m.landMem l).hand k = m.hand k := by cases l <;> rfl
theorem Mach.landMem_mem {l : Land} (hl : ∀ n v, l ≠ .mem n v) : (m.landMem l).mem = m.mem := by
  cases l with
  | mem n v => exact absurd rfl (hl n v)
  | _ => rfl
@[simp] theorem Mach.foldl_landMem_hand_get (ls : List Land) (k : Nat) : (ls.foldl Mach.landMem m).hand k = m.hand k := by
  induction ls generalizing m with
  | nil => rfl
  | cons l ls ih => rw [List.foldl_cons, ih, Mach.landMem_hand_get]

variable (now r id : Nat) {x : Result}

section
variable (htok : x.tok = 0) (hfault : x.fault = none)
include htok hfault

theorem Mach.landed_hand (k : Nat) : (m.landed now r id x).hand k =
    if k = r then ((m.hand r).written id x).enterTok now x.push else m.hand k := by
  simp [Mach.landed, htok, hfault]

/-- A result whose data brings no fault and whose token has its place: the hand holds what was landed, the token enters its FIFO, and
the rest stays. -/
theorem Mach.landed_hand_frame : ((m.hand r).finish id x).Keeps ((m.landed now r id x).hand r) ∧
    ((m.hand r).written id x).SameFiles ((m.landed now r id x).hand r) ∧
    (x.push = 0 → ((m.landed now r id x).hand r).fifos = (m.hand r).fifos) ∧
    (x.push ≠ 0 → ∀ k, ((m.landed now r id x).hand r).fifo k = if k = x.push then
      Fifo.enter { (m.hand r).fifo x.push with reserved := ((m.hand r).fifo x.push).reserved - 1 } now else (m.hand r).fifo k) := by
  obtain ⟨hkeeps, hfifos⟩ := ((m.hand r).finish id x).foldl_land_keeps id x.lands
  have hfifo (k : Nat) : ((m.hand r).written id x).fifo k = (m.hand r).fifo k := congrArg (KMap.get ({} : Fifo) · k) hfifos
  rw [m.landed_hand now r id htok hfault, if_pos rfl]
  refine ⟨hkeeps.trans (Hand.enterTok_keeps _ now x.push), Hand.enterTok_sameFiles _ now x.push, fun hp => ?_, fun hp k => ?_⟩
  · rw [hp, Hand.enterTok_zero]
    exact hfifos
  · rw [Hand.enterTok_fifo _ now hp, hfifo, hfifo]
end

/-- A result that lands nothing leaves memory, whatever its data brings. -/
theorem Mach.landed_mem_of_no_lands (hl : x.lands = []) : (m.landed now r id x).mem = m.mem := by
  rw [Mach.landed, hl]
  cases x.fault <;> rfl

/-- A result that lands nothing leaves the list, and of its hand the accesses stay; the machine-check of its data is noted where there
is room. -/
theorem Mach.landed_hand_of_no_lands (hl : x.lands = []) :
    ((m.landed now r id x).hand r).results = (m.hand r).results.filter (fun y => y.id != id) ∧
    ((m.landed now r id x).hand r).accs = (m.hand r).accs ∧
    ∀ f, x.fault = some f → (m.hand r).pending.length < 8 → ((m.landed now r id x).hand r).pending = (m.hand r).pending ++ [f] := by
  have hkeeps : ((m.hand r).finish id x).Keeps ((((m.hand r).finish id x).enterTok now x.push).completeTok now x.tok) :=
    (Hand.enterTok_keeps _ now x.push).trans (Hand.completeTok_keeps _ now x.tok)
  rw [Mach.landed, Hand.written, hl, List.foldl_nil, List.foldl_nil]
  cases x.fault with
  | none =>
    rw [Option.elim_none, Mach.setHand_hand_get, if_pos rfl]
    exact ⟨hkeeps.results, hkeeps.accs, nofun⟩
  | some f =>
    obtain ⟨p, n, hrec, hp⟩ := Mach.recordFault_hand (m.setHand r
      ((((m.hand r).finish id x).enterTok now x.push).completeTok now x.tok)) r f
    rw [Mach.setHand_hand_get, if_pos rfl] at hrec hp
    rw [Option.elim_some, hrec]
    refine ⟨hkeeps.results, hkeeps.accs, fun g hg hroom => ?_⟩
    rw [← Option.some.inj hg]
    rw [hkeeps.pending] at hp
    exact hp hroom
end

/-! ## The statement -/

/-- Settles O15: a result that nothing holds back lands value by value and its token enters; one that is held is put off by a cycle. -/
theorem landingsAndTokens : Obligations.LandingsAndTokens := by
  refine ⟨?_, ?_, ?_, ?_, ?_, ?_, ?_, Fifo.enter_avail⟩
  · intro s r id x l h hx hl htok hfence hfault hflush hearlier hqueue
    have hexec := exec_resultLanding_lands hx (by simpa [hl] using hqueue) (by simpa [hl] using hearlier) (by simp [hfence]) hflush
    have hmem : (s.m.landed s.tb r id x).mem = (s.m.landMem l).mem := by
      rw [Mach.landed, hl, hfault]
      cases l <;> rfl
    obtain ⟨hkeeps, hfiles, hfifos, hfifo⟩ := s.m.landed_hand_frame s.tb r id htok hfault
    rw [Hand.written_one _ id hl] at hfiles
    obtain ⟨-, -, hs, ha, hh, hp, hst, hcr, hv⟩ := (h.finish id x).land_frame id l
    refine ⟨_, hexec, fun k hk => by rw [s.m.landed_hand s.tb r id htok hfault, if_neg hk], hkeeps.xflags, hkeeps.results, ?_,
      fun hn => hfiles.s.trans (hs hn), fun hn => hfiles.a.trans (ha hn),
      fun hn => hfiles.h.trans (hh hn), fun hn => hfiles.p.trans (hp hn), fun hn => hfiles.st.trans (hst hn),
      fun hn => hfiles.cr.trans (hcr hn), fun hn => hfiles.v.trans (hv hn), fun hn => hmem.trans (s.m.landMem_mem hn), hfifos,
      fun hpush => ⟨fun f hf => by rw [hfifo hpush, if_neg hf], ?_⟩, hkeeps.ea, hkeeps.ex, hkeeps.em, hkeeps.vclk, hkeeps.ring,
      hkeeps.busy⟩
    · cases l with
      | sreg n v => exact fun k => hfiles.s ▸ (h.finish id x).land_sreg id n k v
      | areg n v => exact fun k => hfiles.a ▸ (h.finish id x).land_areg id n k v
      | hreg n v => exact fun k => (congrArg (KMap.get 0 · k) hfiles.h).trans (KMap.get_set ..)
      | preg n v => exact fun k => (congrArg (KMap.get 0 · k) hfiles.p).trans (KMap.get_set ..)
      | streg n v => exact fun k => (congrArg (KMap.get 0 · k) hfiles.st).trans (KMap.get_set ..)
      | creg n v => exact (congrArg (KMap.get (crReset n) · n) hfiles.cr).trans (KMap.get_set_same ..)
      | queue n v => exact fun k => (congrArg (KMap.get [] · k) hfiles.v).trans ((h.finish id x).land_queue id n k v)
      | mem k bs => exact hmem
    · rw [hfifo hpush, if_pos rfl]
      exact ⟨rfl, rfl, rfl⟩
  · intro s r id i j u v x h hx hl hij htok hfence hfault hflush hi hj
    have hexec := exec_resultLanding_lands hx (by simpa [hl, Land.queueNo] using ⟨hi, hj⟩) (by simp [hl, Land.same])
      (by simp [hfence]) hflush
    obtain ⟨hkeeps, hfiles, hfifos, hfifo⟩ := s.m.landed_hand_frame s.tb r id htok hfault
    rw [Hand.written_two _ id hl] at hfiles
    refine ⟨_, hexec, fun k hk => by rw [s.m.landed_hand s.tb r id htok hfault, if_neg hk], by rw [Mach.landed, hl, hfault]; rfl,
      hkeeps.xflags, hkeeps.results, fun k => ?_, hfiles.s, hfiles.a, hfiles.h, hfiles.p, hfiles.st, hfiles.cr, hfifos,
      fun hpush => ?_⟩
    · have hqueue : ((s.m.landed s.tb r id x).hand r).queue k = (((h.finish id x).land id (.queue i u)).land id (.queue j v)).queue k :=
        congrArg (KMap.get [] · k) hfiles.v
      rw [hqueue, Hand.land_queue, Hand.land_queue, Hand.land_queue, if_neg hij.symm]
      split
      · next hk => rw [hk, if_neg hij.symm]; rfl
      · rfl
    · rw [hfifo hpush, if_pos rfl]
      exact ⟨rfl, rfl⟩
  · intro s r id x h hx hl hflush
    exact exec_resultLanding_waits hx hl (.inr hflush)
  · intro s r id f x h hx hl hpush hf htok hfence hfault hflush
    subst hpush
    have hexec := exec_resultLanding_lands hx (by simp [hl]) (by simp [hl]) (by simp [hfence]) hflush
    obtain ⟨-, -, -, hfifo⟩ := s.m.landed_hand_frame s.tb r id htok hfault
    refine ⟨_, hexec, ?_⟩
    rw [hfifo hf, if_pos rfl]
    exact ⟨rfl, rfl⟩
  · intro s r id x f h hx hl hfence hflush met
    have hmet : h.fenceMet f = true ↔ met := h.fenceMet_iff f
    constructor
    · intro hnot
      exact exec_resultLanding_waits hx (by simp [hl]) (.inl (by simpa [hfence, ← hmet] using hnot))
    · intro hyes
      have hexec := exec_resultLanding_lands hx (by simp [hl]) (by simp [hl]) (by simpa [hfence] using hmet.2 hyes) hflush
      obtain ⟨hresults, haccs, -⟩ := s.m.landed_hand_of_no_lands s.tb r id hl
      exact ⟨_, hexec, hresults, haccs, s.m.landed_mem_of_no_lands s.tb r id hl⟩
  · intro s r id x f h hx hl hfence hfault hflush hroom
    have hexec := exec_resultLanding_lands hx (by simp [hl]) (by simp [hl]) (by simp [hfence]) hflush
    obtain ⟨-, -, hpending⟩ := s.m.landed_hand_of_no_lands s.tb r id hl
    exact ⟨_, hexec, hpending f hfault hroom⟩
  · intro s r f hf x
    have htok := (s.m.hand r).completeTok_fifo s.tb hf
    refine ⟨_, exec_pendingTokenEntry s r f, fun k hk => by rw [Mach.modHand_hand_get, if_neg hk], fun g hg => ?_, ?_⟩
    · rw [Mach.modHand_hand_get, if_pos rfl, htok, if_neg hg]
    · rw [Mach.modHand_hand_get, if_pos rfl, htok, if_pos rfl]
      split
      · rfl
      · exact ⟨rfl, rfl⟩

end Sys2Proof.Machine
end

section
/-! PROOFS. Tiny results and their flags (08 R168). -/

namespace Sys2Proof.Machine

/-! ## How large a rounded magnitude is (08 R165) -/

/-- Rounding to a multiple of `2^q` never goes below a power of two that the value reaches. -/
theorem two_pow_le_roundMag {rm : Nat} {neg : Bool} {mag k : Nat} {exp q : Int} (hmag : mag ≠ 0)
    (hk : q + k ≤ Nat.log2 mag + exp) : 2 ^ k ≤ (roundMag rm neg mag exp q false).1 := by
  have hlog : 2 ^ Nat.log2 mag ≤ mag := Nat.log2_self_le hmag
  rw [roundMag]
  split
  · calc 2 ^ k ≤ 2 ^ (Nat.log2 mag + (exp - q).toNat) := Nat.pow_le_pow_right two_pos (by omega)
      _ = 2 ^ Nat.log2 mag * 2 ^ (exp - q).toNat := pow_add ..
      _ ≤ mag * 2 ^ (exp - q).toNat := Nat.mul_le_mul_right _ hlog
  · have hquot : 2 ^ k ≤ mag / 2 ^ (q - exp).toNat := by
      rw [Nat.le_div_iff_mul_le (by positivity), ← pow_add]
      exact (Nat.pow_le_pow_right two_pos (by omega)).trans hlog
    exact hquot.trans (Nat.le_add_right ..)

/-- Rounding to a multiple of `2^q` never goes above a power of two that the value stays below. -/
theorem roundMag_le_two_pow {rm : Nat} {neg : Bool} {mag k : Nat} {exp q : Int}
    (hk : Nat.log2 mag + exp < q + k) : (roundMag rm neg mag exp q false).1 ≤ 2 ^ k := by
  have hlog : mag < 2 ^ (Nat.log2 mag + 1) := Nat.lt_log2_self
  rw [roundMag]
  split
  · calc mag * 2 ^ (exp - q).toNat ≤ 2 ^ (Nat.log2 mag + 1) * 2 ^ (exp - q).toNat := Nat.mul_le_mul_right _ hlog.le
      _ = 2 ^ (Nat.log2 mag + 1 + (exp - q).toNat) := (pow_add ..).symm
      _ ≤ 2 ^ k := Nat.pow_le_pow_right two_pos (by omega)
  · have hquot : mag / 2 ^ (q - exp).toNat < 2 ^ k := by
      rw [Nat.div_lt_iff_lt_mul (by positivity), ← pow_add]
      exact hlog.trans_le (Nat.pow_le_pow_right two_pos (by omega))
    exact (Nat.add_le_add_left (ite_le_sup 1 0 _) _).trans hquot

/-! ## What the model calls tiny (08 R168) -/

/-- The unit in the last place of a value in a format whose exponent is unbounded. -/
def FFmt.ulp (f : FFmt) (x : DyVal) : Int := Nat.log2 x.mag + x.exp - f.mw

/-- The magnitude of a value rounded to the precision of a format whose exponent is unbounded. -/
def FFmt.roundedUnbounded (f : FFmt) (rm : Nat) (x : DyVal) : ℚ :=
  ((roundMag rm x.neg x.mag x.exp (f.ulp x) false).1 : ℚ) * (2 : ℚ) ^ f.ulp x

/-- A multiple of `2^q` lies below `2^e` just where its leading bit does. -/
theorem mul_zpow_lt_zpow_iff {u : Nat} (hu : u ≠ 0) (q e : Int) :
    (u : ℚ) * 2 ^ q < 2 ^ e ↔ Nat.log2 u + q < e := by
  have hlog := Int.lt_zpow_iff_log_lt (R := ℚ) one_lt_two (x := e - q) (Nat.cast_pos.2 (Nat.pos_of_ne_zero hu))
  rw [Int.log_natCast, ← Nat.log2_eq_log_two, Nat.cast_ofNat, zpow_sub₀ two_ne_zero, lt_div_iff₀ (by positivity)] at hlog
  rw [hlog]
  omega

/-- A value at or above the smallest normal is not rounded below it. -/
theorem smallestNormal_le_roundedUnbounded {f : FFmt} {rm : Nat} {x : DyVal} (hx : x.mag ≠ 0) (h : f.qmin ≤ f.ulp x) :
    (2 : ℚ) ^ (1 - f.bias) ≤ f.roundedUnbounded rm x := by
  have hround : 2 ^ f.mw ≤ (roundMag rm x.neg x.mag x.exp (f.ulp x) false).1 :=
    two_pow_le_roundMag hx (by rw [FFmt.ulp]; omega)
  calc (2 : ℚ) ^ (1 - f.bias) ≤ 2 ^ (f.mw + f.ulp x) :=
        zpow_le_zpow_right₀ one_le_two (by rw [FFmt.qmin] at h; omega)
    _ = (2 ^ f.mw : Nat) * (2 : ℚ) ^ f.ulp x := by rw [zpow_add₀ two_ne_zero, zpow_natCast, Nat.cast_pow, Nat.cast_ofNat]
    _ ≤ f.roundedUnbounded rm x := mul_le_mul_of_nonneg_right (Nat.cast_le.2 hround) (by positivity)

/-- The model calls a result tiny just where R168 does. -/
theorem roundCode_tiny_iff {f : FFmt} {rm : Nat} {x : DyVal} (hx : x.mag ≠ 0) :
    (roundCode f rm x false).2.2 = true ↔
      f.roundedUnbounded rm x ≠ 0 ∧ f.roundedUnbounded rm x < (2 : ℚ) ^ (1 - f.bias) := by
  by_cases h : f.qmin ≤ f.ulp x
  · have hmodel : (roundCode f rm x false).2.2 = false := if_pos h
    simp [hmodel, smallestNormal_le_roundedUnbounded hx h]
  · have hmodel : (roundCode f rm x false).2.2 =
        ((roundMag rm x.neg x.mag x.exp (f.ulp x) false).1 != 0 &&
          decide (Nat.log2 (roundMag rm x.neg x.mag x.exp (f.ulp x) false).1 + f.ulp x < f.qmin + f.mw)) := if_neg h
    have hnormal : f.qmin + f.mw = 1 - f.bias := by rw [FFmt.qmin]; omega
    rw [hmodel, hnormal, FFmt.roundedUnbounded]
    by_cases hu : (roundMag rm x.neg x.mag x.exp (f.ulp x) false).1 = 0
    · simp [hu]
    · simp [hu, mul_zpow_lt_zpow_iff hu, zpow_ne_zero]

/-- A tiny result takes at most the magnitude code of the smallest normal. -/
theorem roundCode_le_of_tiny {f : FFmt} {rm : Nat} {x : DyVal} (h : (roundCode f rm x false).2.2 = true) :
    (roundCode f rm x false).1 ≤ 2 ^ f.mw := by
  have hulp : ¬ f.qmin ≤ f.ulp x := fun hle => Bool.false_ne_true ((if_pos hle).symm.trans h)
  rw [FFmt.ulp] at hulp
  simp only [roundCode, max_eq_right (le_of_not_ge hulp), sub_self, Int.toNat_zero, zero_mul, zero_add]
  exact roundMag_le_two_pow (by omega)

/-! ## The flags of a rounded value (08 R166, R168) -/

/-- The flags of a value rounded once: those of R168, or, from the largest finite value on, flags without UF. -/
def RoundedFlags (f : FFmt) (rm : Nat) (x : DyVal) (fl : Flags) : Prop :=
  let c := roundCode f rm x false
  fl = flagIf (c.2.2 && c.2.1) flUF ||| flagIf c.2.1 flNX ∨ (f.maxMag ≤ c.1 ∧ fl &&& flUF = 0)

theorem flOF_flNX_without_flUF : (flOF ||| flNX) &&& flUF = 0 := by decide

theorem flSAT_flNX_without_flUF : (flSAT ||| flNX) &&& flUF = 0 := by decide

/-- An arithmetic result leaves the flags of R168 only past the largest finite value. -/
theorem roundArith_roundedFlags {f : FFmt} {rm : Nat} {x : DyVal} (hx : x.mag ≠ 0) :
    RoundedFlags f rm x (roundArith f rm x).flags := by
  rw [RoundedFlags, roundArith, if_neg (by simpa using hx)]
  dsimp only
  split
  · next hover => exact .inr ⟨hover.le, flOF_flNX_without_flUF⟩
  · exact .inl rfl

/-- A conversion leaves them also where it stays at the largest finite value that the exact value has passed (log 28). -/
theorem convertTo_roundedFlags {f : FFmt} {rm : Nat} {sat : Bool} {x : DyVal} (hsgn : f.sgn = true) (hx : x.mag ≠ 0) :
    RoundedFlags f rm x (convertTo f rm sat (.fin x)).flags := by
  rw [RoundedFlags, convertTo, if_neg (by simpa using hx), if_neg (by simp [hsgn])]
  dsimp only
  -- the code rounded away from zero only decides whether the value passed the largest finite one
  generalize (roundCode f (if x.neg then 2 else 3) x false).1 = away
  split
  · next hover =>
    refine .inr ⟨hover.le, ?_⟩
    split
    · exact flSAT_flNX_without_flUF
    · split
      · exact flOF_flNX_without_flUF
      · split <;> exact flOF_flNX_without_flUF
  · split
    · next hpast =>
      simp only [Bool.and_eq_true, beq_iff_eq] at hpast
      obtain ⟨⟨⟨-, hcode⟩, -⟩, -⟩ := hpast
      refine .inr ⟨hcode.ge, ?_⟩
      cases sat
      · exact flOF_flNX_without_flUF
      · exact flSAT_flNX_without_flUF
    · exact .inl rfl

/-- What R168 says of the flags of a result that is or is not tiny, and is or is not inexact. -/
def TinyRule (tiny inexact : Prop) (fl : Flags) : Prop :=
  (tiny ∧ inexact → fl = flUF ||| flNX) ∧ (tiny ∧ ¬inexact → fl = 0) ∧ (¬tiny → fl &&& flUF = 0)

theorem tinyRule_flagIf (tiny ix : Bool) : TinyRule (tiny = true) (ix = true) (flagIf (tiny && ix) flUF ||| flagIf ix flNX) := by
  revert tiny ix
  unfold TinyRule
  decide

theorem tinyRule_of_not_tiny {tiny inexact : Prop} {fl : Flags} (htiny : ¬tiny) (hUF : fl &&& flUF = 0) :
    TinyRule tiny inexact fl :=
  ⟨fun h => absurd h.1 htiny, fun h => absurd h.1 htiny, fun _ => hUF⟩

/-- A tiny result is not at the largest finite value, where the smallest normal lies below that one. -/
theorem RoundedFlags.tinyRule {f : FFmt} {rm : Nat} {x : DyVal} {fl : Flags} (h : RoundedFlags f rm x fl)
    (hmax : 2 ^ f.mw < f.maxMag) :
    TinyRule ((roundCode f rm x false).2.2 = true) ((roundCode f rm x false).2.1 = true) fl := by
  obtain rfl | ⟨hcode, hUF⟩ := h
  · exact tinyRule_flagIf ..
  · exact tinyRule_of_not_tiny (fun htiny => absurd (roundCode_le_of_tiny htiny) (hmax.trans_le hcode).not_ge) hUF

/-- The standard formats have a sign, and their smallest normal lies below their largest finite value (08 R156). -/
theorem sgn_and_two_pow_lt_maxMag_of_standard {f : FFmt} (hf : f ∈ [FFmt.bf16, FFmt.f16, FFmt.f32]) :
    f.sgn = true ∧ 2 ^ f.mw < f.maxMag := by
  revert f
  decide

/-- Settles O4: the model's test of tiny is R168's, and a tiny result lies too far below the largest finite value to overflow. -/
theorem tinyResults : Obligations.TinyResults := by
  intro f rm sat x hf _ hx ulp rounded tiny inexact fl hfl
  obtain ⟨hsgn, hmax⟩ := sgn_and_two_pow_lt_maxMag_of_standard hf
  have hflags : RoundedFlags f rm x fl := by
    simp only [List.mem_cons, List.not_mem_nil, or_false] at hfl
    obtain rfl | rfl := hfl
    · exact roundArith_roundedFlags hx
    · exact convertTo_roundedFlags hsgn hx
  have htiny : (roundCode f rm x false).2.2 = true ↔ tiny := roundCode_tiny_iff hx
  rw [← htiny]
  exact hflags.tinyRule hmax

end Sys2Proof.Machine
end

section
/-! PROOFS. Address and scalar integer words (09 R178, R180, R185): the frame of a word that reads registers, and the values. -/

namespace Sys2Proof.Machine

open Claims

/-! ## Words that read registers and write one (09 R178, R185) -/

section
variable {s : State} {i : Instr} {hd : Hdr} {srcs : List Nat} {lat : Nat}

theorem addrWord_issues {d : BitVec 5} {f : Hand → W64} (hsrcs : ∀ n ∈ srcs, s.hand.needA n = none) (h : MayIssue s .a i hd) :
    addrWord i hd d.toNat srcs lat f s = s.setsA hd d lat (f s.hand) := by
  have hown : firstStop (srcs.map s.hand.needA) = none := firstStop_eq_none.2 (by simpa using hsrcs)
  exact congrArg Host.Outcome.next (runWord_issues h rfl (Nat.zero_le _) hown)

theorem scalarWord_issues {d : BitVec 6} {f : Hand → W64 × Flags} (hsrcs : ∀ n ∈ srcs, s.hand.needS n = none)
    (h : MayIssue s .x i hd) :
    scalarWord i hd d.toNat srcs lat f s = s.setsS hd d lat (f s.hand).1 (f s.hand).2 := by
  have hown : firstStop (srcs.map s.hand.needS) = none := firstStop_eq_none.2 (by simpa using hsrcs)
  exact congrArg Host.Outcome.next (runWord_issues h rfl (Nat.zero_le _) hown)
end

/-- An address word that reads A[a], or A[a] and A[b], has its claim when its value is the one claimed. -/
theorem addressWord_of_exec (word : AAA → State → Out) {i : AAA → Instr} {lat : Nat} {f : AAA → W64 → W64 → W64} {srcs : AAA → List Nat} {g : AAA → Hand → W64}
    (hexec : ∀ s w, exec (i w) s = word w s)
    (hword : ∀ s w, word w s = addrWord (i w) w.hdr w.d.toNat (srcs w) lat (g w) s)
    (hsrcs : ∀ w, srcs w ⊆ [w.a.toNat, w.b.toNat])
    (hvalue : ∀ w h, g w h = f w (h.areg w.a.toNat) (h.areg w.b.toNat)) : AddressWord i lat f := by
  intro s w ha hb h
  have hready : ∀ n ∈ [w.a.toNat, w.b.toNat], s.hand.needA n = none := by simp [needA_eq_none ha, needA_eq_none hb]
  rw [hexec, hword, addrWord_issues (fun n hn => hready n (hsrcs w hn)) h, hvalue]

/-- A scalar word that reads S[a], or S[a] and S[b], has its claim when its value is the one claimed. -/
theorem scalarWord_of_exec (word : SSS → State → Out) {i : SSS → Instr} {lat : Nat} {f : SSS → W64 → W64 → W64} {srcs : SSS → List Nat} {g : SSS → Hand → W64}
    (hexec : ∀ s w, exec (i w) s = word w s)
    (hword : ∀ s w, word w s = scalarWord (i w) w.hdr w.d.toNat (srcs w) lat (fun h => (g w h, 0)) s)
    (hsrcs : ∀ w, srcs w ⊆ [w.a.toNat, w.b.toNat])
    (hvalue : ∀ w h, g w h = f w (h.sreg w.a.toNat) (h.sreg w.b.toNat)) : ScalarWord i lat f := by
  intro s w ha hb h
  have hready : ∀ n ∈ [w.a.toNat, w.b.toNat], s.hand.needS n = none := by simp [needS_eq_none ha, needS_eq_none hb]
  rw [hexec, hword, scalarWord_issues (fun n hn => hready n (hsrcs w hn)) h, hvalue]

/-! ## Values (09 R178, R180) -/

section
variable (a b : W64)

theorem mul_eq_ofNat : a * b = BitVec.ofNat 64 (a.toNat * b.toNat) := by
  rw [BitVec.ofNat_mul, BitVec.ofNat_toNat, BitVec.ofNat_toNat, BitVec.setWidth_eq, BitVec.setWidth_eq]

theorem shiftCount_bits {n : Nat} (x : BitVec n) : shiftCount b (bits x 0 6).toNat = (b.toNat + x.toNat % 64) % 64 := by
  rw [shiftCount, bits_zero_toNat]
  rfl

theorem before_eq (u : Bool) : before u a b = if u then a.ult b else a.slt b := by
  cases u <;> rfl

theorem not_before_iff {u : Bool} : before u a b = false ↔ before u b a = true ∨ a = b := by
  cases u
  · simp only [before, Bool.false_eq_true, if_false, decide_eq_false_iff_not, decide_eq_true_eq, ← BitVec.toInt_inj]
    omega
  · simp only [before, if_true, decide_eq_false_iff_not, decide_eq_true_eq, ← BitVec.toNat_inj]
    omega

theorem pickMin_min (u : Bool) : pickMin u false a b = if before u b a then b else a := by
  rw [pickMin, ← before_eq, Bool.bne_false]
  cases hab : before u a b with
  | true =>
    have hba : before u b a = false := (not_before_iff b a).2 (.inl hab)
    simp [hba]
  | false =>
    obtain hba | rfl := (not_before_iff a b).1 hab
    · simp [hba]
    · simp

theorem pickMin_max (u : Bool) : pickMin u true a b = if before u a b then b else a := by
  rw [pickMin, ← before_eq]
  cases before u a b <;> rfl

theorem joinHigh_eq_ofNat (hi : W32) : joinHigh hi a = BitVec.ofNat 64 (hi.toNat * 2 ^ 32 + a.toNat % 2 ^ 32) := by
  have h := joinHigh_bits_eq_ofNat (hi.setWidth 64) a
  have hhi : bits (hi.setWidth 64) 0 32 = hi := by
    simp [← BitVec.toNat_inj, bits_zero_toNat, Nat.mod_eq_of_lt hi.isLt]
  rw [hhi] at h
  rw [h, BitVec.toNat_setWidth, Nat.mod_eq_of_lt (a := hi.toNat) (b := 2 ^ 64) (by omega), Nat.mod_eq_of_lt hi.isLt]

/-- The remainder is what the truncated quotient leaves. -/
theorem divR_eq (u : Bool) : divR u a b = if b = 0 then a else if u then BitVec.ofNat 64 (a.toNat % b.toNat)
    else BitVec.ofInt 64 (a.toInt.tmod b.toInt) := by
  by_cases hb : b = 0
  · rw [divR, if_pos hb, if_pos hb]
  rw [divR, if_neg hb, if_neg hb, divQ, if_neg hb, sub_eq_iff_eq_add]
  cases u
  · calc a = BitVec.ofInt 64 (a.toInt.tmod b.toInt + a.toInt.tdiv b.toInt * b.toInt) := by
          rw [mul_comm, Int.tmod_add_mul_tdiv, BitVec.ofInt_toInt]
      _ = _ := by rw [BitVec.ofInt_add, BitVec.ofInt_mul, BitVec.ofInt_toInt]; rfl
  · calc a = BitVec.ofNat 64 (a.toNat % b.toNat + a.toNat / b.toNat * b.toNat) := by
          rw [mul_comm, Nat.mod_add_div, BitVec.ofNat_toNat, BitVec.setWidth_eq]
      _ = _ := by rw [BitVec.ofNat_add, BitVec.ofNat_mul, BitVec.ofNat_toNat, BitVec.setWidth_eq]; rfl

theorem ofBool_eq (w : Nat) (c : Bool) : ofBool w c = if c then 1 else 0 := by cases c <;> rfl
end

/-- Leading zeros are counted from the top bit down. -/
theorem length_takeWhile_not_testBit {n x : Nat} (hx : x < 2 ^ n) :
    (((List.range n).map (fun i => x.testBit (n - 1 - i))).takeWhile (! ·)).length = leadZeros x n := by
  induction n with
  | zero => simp [leadZeros, show x = 0 by simpa using hx]
  | succ n ih =>
    have hrest : (List.range n).map ((fun i => x.testBit (n + 1 - 1 - i)) ∘ Nat.succ) = (List.range n).map (fun i => x.testBit (n - 1 - i)) :=
      List.map_congr_left fun i _ => by simp [Nat.sub_sub, Nat.add_comm]
    rw [List.range_succ_eq_map, List.map_cons, List.map_map, hrest, List.takeWhile_cons]
    by_cases hlt : x < 2 ^ n
    · rw [show n + 1 - 1 - 0 = n from rfl, Nat.testBit_lt_two_pow hlt]
      have hlog : x ≠ 0 → Nat.log2 x < n := fun h0 => (Nat.log2_lt h0).2 hlt
      simp only [Bool.not_false, if_true, List.length_cons, ih hlt, leadZeros]
      split <;> omega
    · have hx0 : x ≠ 0 := fun h0 => hlt (h0 ▸ Nat.two_pow_pos n)
      have hlog : Nat.log2 x = n := (Nat.log2_eq_iff hx0).2 ⟨not_lt.1 hlt, hx⟩
      have htop : x.testBit n = true := hlog ▸ Nat.testBit_log2 hx0
      simp [leadZeros, hx0, hlog, htop]

/-! ## The statement -/

theorem addressArithmeticResults : AddressArithmeticResults := by
  have hboth (w : AAA) : [w.a.toNat, w.b.toNat] ⊆ [w.a.toNat, w.b.toNat] := List.Subset.refl _
  have hfirst (w : AAA) : [w.a.toNat] ⊆ [w.a.toNat, w.b.toNat] := by simp
  refine ⟨addressWord_of_exec execAadd (fun _ _ => rfl) (fun _ _ => rfl) hboth fun w h => rfl,
    addressWord_of_exec execAaddi (fun _ _ => rfl) (fun _ _ => rfl) hfirst fun w h => rfl,
    addressWord_of_exec execAsub (fun _ _ => rfl) (fun _ _ => rfl) hboth fun w h => rfl,
    addressWord_of_exec execAmul (fun _ _ => rfl) (fun _ _ => rfl) hboth fun w h => mul_eq_ofNat _ _,
    addressWord_of_exec execAmuli (fun _ _ => rfl) (fun _ _ => rfl) hfirst fun w h => mul_eq_ofNat _ _,
    addressWord_of_exec execAshl (fun _ _ => rfl) (fun _ _ => rfl) hboth fun w h => by rw [shiftCount_bits],
    addressWord_of_exec execAshr (fun _ _ => rfl) (fun _ _ => rfl) hboth fun w h => by rw [shiftCount_bits]; rfl,
    addressWord_of_exec execAand (fun _ _ => rfl) (fun _ _ => rfl) hboth fun w h => rfl,
    addressWord_of_exec execAor (fun _ _ => rfl) (fun _ _ => rfl) hboth fun w h => rfl,
    addressWord_of_exec execAxor (fun _ _ => rfl) (fun _ _ => rfl) hboth fun w h => rfl,
    addressWord_of_exec execAmin (fun _ _ => rfl) (fun _ _ => rfl) hboth fun w h => pickMin_min _ _ _,
    addressWord_of_exec execAmax (fun _ _ => rfl) (fun _ _ => rfl) hboth fun w h => pickMin_max _ _ _, fun s w h => ?_, fun s w hd h => ?_⟩
  · have hexec : exec (.ali w) s = execAli w s := rfl
    rw [hexec, execAli, addrWord_issues (by simp) h]
  · have hexec : exec (.alih w) s = execAlih w s := rfl
    rw [hexec, execAlih, addrWord_issues (by simpa using needA_eq_none hd) h, joinHigh_eq_ofNat]

theorem scalarIntegerResults : ScalarIntegerResults := by
  have hboth (w : SSS) : [w.a.toNat, w.b.toNat] ⊆ [w.a.toNat, w.b.toNat] := List.Subset.refl _
  have hfirst (w : SSS) : [w.a.toNat] ⊆ [w.a.toNat, w.b.toNat] := by simp
  refine ⟨scalarWord_of_exec execSadd (fun _ _ => rfl) (fun _ _ => rfl) hboth fun w h => rfl,
    scalarWord_of_exec execSaddi (fun _ _ => rfl) (fun _ _ => rfl) hfirst fun w h => rfl,
    scalarWord_of_exec execSsub (fun _ _ => rfl) (fun _ _ => rfl) hboth fun w h => rfl,
    scalarWord_of_exec execSmul (fun _ _ => rfl) (fun _ _ => rfl) hboth fun w h => mul_eq_ofNat _ _,
    scalarWord_of_exec execSmulh (fun _ _ => rfl) (fun _ _ => rfl) hboth fun w h => rfl,
    scalarWord_of_exec execSdiv (fun _ _ => rfl) (fun _ _ => rfl) hboth fun w h => rfl,
    scalarWord_of_exec execSrem (fun _ _ => rfl) (fun _ _ => rfl) hboth fun w h => divR_eq _ _ _,
    scalarWord_of_exec execSand (fun _ _ => rfl) (fun _ _ => rfl) hboth fun w h => rfl,
    scalarWord_of_exec execSor (fun _ _ => rfl) (fun _ _ => rfl) hboth fun w h => rfl,
    scalarWord_of_exec execSxor (fun _ _ => rfl) (fun _ _ => rfl) hboth fun w h => rfl,
    scalarWord_of_exec execSshl (fun _ _ => rfl) (fun _ _ => rfl) hboth fun w h => by rw [shiftCount_bits],
    scalarWord_of_exec execSshr (fun _ _ => rfl) (fun _ _ => rfl) hboth fun w h => by rw [shiftCount_bits],
    scalarWord_of_exec execSsra (fun _ _ => rfl) (fun _ _ => rfl) hboth fun w h => by rw [shiftCount_bits],
    scalarWord_of_exec execSmin (fun _ _ => rfl) (fun _ _ => rfl) hboth fun w h => pickMin_min _ _ _,
    scalarWord_of_exec execSmax (fun _ _ => rfl) (fun _ _ => rfl) hboth fun w h => pickMin_max _ _ _,
    scalarWord_of_exec execSslt (fun _ _ => rfl) (fun _ _ => rfl) hboth fun w h => (ofBool_eq _ _).trans (by rw [before_eq]; rfl),
    scalarWord_of_exec execSpopc (fun _ _ => rfl) (fun _ _ => rfl) hfirst fun w h => rfl,
    scalarWord_of_exec execSclz (fun _ _ => rfl) (fun _ _ => rfl) hfirst fun w h =>
      congrArg (BitVec.ofNat 64) (length_takeWhile_not_testBit (h.sreg w.a.toNat).isLt).symm,
    fun s w hn ha hb h => ?_, fun s w h => ?_, fun s w hd h => ?_⟩
  · have hexec : exec (.ssel w) s = execSsel w s := rfl
    have hsel : (bits w.imm 0 6).toNat = w.imm.toNat % 64 := bits_zero_toNat w.imm 6
    rw [hexec, execSsel, hsel, scalarWord_issues ?_ h]
    · simp
    · simpa using ⟨needS_eq_none hn, needS_eq_none ha, needS_eq_none hb⟩
  · have hexec : exec (.sli w) s = execSli w s := rfl
    rw [hexec, execSli, scalarWord_issues (by simp) h]
  · have hexec : exec (.slih w) s = execSlih w s := rfl
    rw [hexec, execSlih, scalarWord_issues (by simpa using needS_eq_none hd) h, joinHigh_eq_ofNat, bits_zero_toNat]

/-- Settles O1: each word reads its registers, issues, and its value, which the lemmas above compare with R178 and R180, is on its way. -/
theorem addressAndScalarIntegerResults : Obligations.AddressAndScalarIntegerResults :=
  ⟨addressArithmeticResults, scalarIntegerResults⟩

end Sys2Proof.Machine
end

section
/-! PROOFS. Exact values as rationals: signs, sums and products (08 R164, R165). -/

namespace Sys2Proof.Machine

open Claims

/-- The sign of an exact value as a factor. -/
def DyVal.sign (x : DyVal) : ℚ := if x.neg then -1 else 1

section
variable (x y : DyVal)

theorem dyadic_eq_sign_mul : dyadic x = x.sign * x.mag * (2 : ℚ) ^ x.exp := rfl

theorem DyVal.sign_ne_zero : x.sign ≠ 0 := by
  rw [DyVal.sign]
  split <;> norm_num

theorem dyadic_eq_zero_iff : dyadic x = 0 ↔ x.mag = 0 := by
  rw [dyadic_eq_sign_mul, mul_eq_zero, mul_eq_zero, Nat.cast_eq_zero]
  simp [x.sign_ne_zero, zpow_ne_zero]

theorem DyVal.abs_sign : |x.sign| = 1 := by
  rw [DyVal.sign]
  split <;> simp

theorem DyVal.sign_mul_sign : x.sign * x.sign = 1 := by
  rw [← abs_mul_abs_self, x.abs_sign, one_mul]

theorem abs_dyadic : |dyadic x| = x.mag * (2 : ℚ) ^ x.exp := by
  rw [dyadic_eq_sign_mul, abs_mul, abs_mul, x.abs_sign, one_mul, Nat.abs_cast, abs_of_pos (by positivity)]

theorem dyadic_eq_sign_mul_abs : dyadic x = x.sign * |dyadic x| := by
  rw [abs_dyadic, dyadic_eq_sign_mul, mul_assoc]

/-- A value that is no zero has the sign that its rational has. -/
theorem DyVal.neg_eq_decide (hx : dyadic x ≠ 0) : x.neg = decide (dyadic x < 0) := by
  have hpos : 0 < |dyadic x| := abs_pos.2 hx
  rw [dyadic_eq_sign_mul_abs, DyVal.sign]
  cases x.neg
  · simp
  · simpa using hx

theorem dyadic_negate : dyadic { x with neg := !x.neg } = -dyadic x := by
  simp only [dyadic]
  cases x.neg <;> simp

/-- An exact value counted in units of `2^e`, where it is a multiple of that. -/
theorem dyadic_eq_int_mul {e : Int} (he : e ≤ x.exp) :
    dyadic x = ((if x.neg then -1 else 1) * (x.mag * 2 ^ (x.exp - e).toNat : Nat) : Int) * (2 : ℚ) ^ e := by
  have hexp : (2 : ℚ) ^ x.exp = 2 ^ (x.exp - e).toNat * 2 ^ e := by
    rw [← zpow_natCast, ← zpow_add₀ two_ne_zero]
    congr 1
    omega
  rw [dyadic, hexp]
  push_cast
  ring

theorem dyadic_mulDy : dyadic (mulDy x y) = dyadic x * dyadic y := by
  rw [dyadic, dyadic, dyadic, mulDy, zpow_add₀ two_ne_zero]
  cases x.neg <;> cases y.neg <;> simp <;> ring

/-- The sum of two exact values, counted in units of the smaller exponent. -/
def sumUnits : Int :=
  (if x.neg then -1 else 1) * (x.mag * 2 ^ (x.exp - min x.exp y.exp).toNat : Nat)
    + (if y.neg then -1 else 1) * (y.mag * 2 ^ (y.exp - min x.exp y.exp).toNat : Nat)

theorem dyadic_add_eq_sumUnits : dyadic x + dyadic y = sumUnits x y * (2 : ℚ) ^ min x.exp y.exp := by
  rw [dyadic_eq_int_mul x (min_le_left x.exp y.exp), dyadic_eq_int_mul y (min_le_right x.exp y.exp), sumUnits]
  push_cast
  ring

theorem addDy_of_ne_zero (rm : Nat) (h : sumUnits x y ≠ 0) :
    addDy rm x y = ⟨decide (sumUnits x y < 0), (sumUnits x y).natAbs, min x.exp y.exp⟩ :=
  if_neg (by simpa [sumUnits] using h)

theorem addDy_of_eq_zero (rm : Nat) (h : sumUnits x y = 0) :
    addDy rm x y = ⟨if x.mag == 0 && y.mag == 0 && x.neg == y.neg then x.neg else rm == 2, 0, min x.exp y.exp⟩ := by
  refine (if_pos (by simpa [sumUnits] using h)).trans ?_
  split <;> rfl

theorem dyadic_addDy (rm : Nat) : dyadic (addDy rm x y) = dyadic x + dyadic y := by
  rw [dyadic_add_eq_sumUnits]
  by_cases h : sumUnits x y = 0
  · simp [addDy_of_eq_zero x y rm h, dyadic, h]
  · have hsigned : ((if decide (sumUnits x y < 0) then -1 else 1) * ((sumUnits x y).natAbs : ℚ)) = sumUnits x y := by
      rw [← Int.cast_natCast (R := ℚ), Int.natCast_natAbs]
      obtain hneg | hpos := lt_or_gt_of_ne h
      · simp [hneg, abs_of_neg hneg]
      · simp [hpos.not_gt, abs_of_pos hpos]
    rw [addDy_of_ne_zero x y rm h, dyadic, hsigned]

/-- The sign of an exact zero sum (08 R165). -/
theorem addDy_neg_of_zero (rm : Nat) (h : (addDy rm x y).mag = 0) :
    (addDy rm x y).neg = zeroSumNeg rm x.neg y.neg (dyadic x) (dyadic y) := by
  have hzero : sumUnits x y = 0 := by
    have hsum := (dyadic_eq_zero_iff _).2 h
    rw [dyadic_addDy, dyadic_add_eq_sumUnits] at hsum
    simpa [zpow_ne_zero] using hsum
  rw [addDy_of_eq_zero x y rm hzero, zeroSumNeg]
  simp [dyadic_eq_zero_iff, and_assoc]
end

end Sys2Proof.Machine
end

section
/-! PROOFS. The comparison of two floating values (09 R184). -/

namespace Sys2Proof.Machine

open Claims

/-- Two exact values compare as the model finds from the sign of their difference. -/
theorem cmpNum_fin_compares (x y : DyVal) : (cmpNum (.fin x) (.fin y)).Compares (dyadic x) (dyadic y) := by
  have hdiff : dyadic (addDy 0 x { y with neg := !y.neg }) = dyadic x - dyadic y := by
    rw [dyadic_addDy, dyadic_negate, sub_eq_add_neg]
  simp only [cmpNum, beq_iff_eq, ← dyadic_eq_zero_iff]
  split
  · next hzero => exact sub_eq_zero.1 (hdiff.symm.trans hzero)
  · next hzero =>
    rw [DyVal.neg_eq_decide _ hzero]
    rw [hdiff] at hzero ⊢
    split
    · next hneg => exact sub_neg.1 (of_decide_eq_true hneg)
    · next hneg => exact sub_pos.1 (lt_of_le_of_ne (not_lt.1 (by simpa using hneg)) (Ne.symm hzero))

theorem onLine_fin (x : DyVal) : onLine (.fin x) = WithBotTop.coe (dyadic x) := rfl

/-- A finite value lies between the infinities. -/
theorem onLine_fin_bounds (x : DyVal) : ⊥ < onLine (.fin x) ∧ onLine (.fin x) < ⊤ :=
  ⟨bot_lt_iff_ne_bot.2 (WithBotTop.coe_ne_bot _), lt_top_iff_ne_top.2 (WithBotTop.coe_ne_top _)⟩

/-- Two values that are no NaN compare as on the extended line. -/
theorem cmpNum_compares {x y : FVal} (hx : x.isNaN = false) (hy : y.isNaN = false) :
    (cmpNum x y).Compares (onLine x) (onLine y) := by
  cases x with
  | nan s => cases hx
  | inf a =>
    cases y with
    | nan s => cases hy
    | inf b => cases a <;> cases b <;> simp [cmpNum, onLine]
    | fin y =>
      obtain ⟨hbot, htop⟩ := onLine_fin_bounds y
      cases a
      · exact htop
      · exact hbot
  | fin x =>
    cases y with
    | nan s => cases hy
    | inf b =>
      obtain ⟨hbot, htop⟩ := onLine_fin_bounds x
      cases b
      · exact htop
      · exact hbot
    | fin y =>
      have hfin := cmpNum_fin_compares x y
      rw [onLine_fin, onLine_fin]
      cases hcmp : cmpNum (.fin x) (.fin y) <;> rw [hcmp] at hfin
      · exact WithBotTop.coe_lt_coe.2 hfin
      · exact congrArg WithBotTop.coe hfin
      · exact WithBotTop.coe_lt_coe.2 hfin

/-- The comparison codes say what R184 says of them. -/
theorem fCompare_eq_compares (c : Nat) (x y : FVal) : fCompare c x y = compares c x y := by
  rw [fCompare]
  cases hnan : x.isNaN || y.isNaN with
  | true =>
    match c with
    | 0 | 1 | 2 | 3 | 4 | 5 | 6 | _ + 7 => simp [compares, hnan]
  | false =>
    obtain ⟨hx, hy⟩ := Bool.or_eq_false_iff.1 hnan
    have h := cmpNum_compares hx hy
    rw [Bool.eq_iff_iff]
    match c with
    | 0 => simp [compares, hx, hy, h.eq_eq]
    | 1 => simp [compares, hx, hy, h.eq_eq]
    | 2 => simp [compares, hx, hy, h.eq_lt]
    | 3 => simp [compares, hx, hy, ← h.ne_gt]
    | 4 => simp [compares, hx, hy, h.eq_gt]
    | 5 => simp [compares, hx, hy, ← h.ne_lt]
    | 6 | _ + 7 => simp [compares, hx, hy]

/-- A signalling NaN, and nothing else, sets NV. -/
theorem compareFlags_eq (x y : FVal) : compareFlags x y = if x = .nan true ∨ y = .nan true then flNV else 0 := by
  have hsnan (z : FVal) : z.isSNaN = true ↔ z = .nan true := by
    cases z <;> simp [FVal.isSNaN]
  simp [compareFlags, flagIf, hsnan]

/-- Settles O2: the order that the model finds is that of the extended line, and it looks for signalling NaNs only. -/
theorem scalarFloatCompare : Obligations.ScalarFloatCompare := by
  intro s w ha hb h a b
  have hexec : exec (.sfcmp w) s = execSfcmp w s := rfl
  have hfmt : (bits w.imm 0 4).toNat = w.imm.toNat % 16 := bits_zero_toNat w.imm 4
  have hcode : (bits w.imm 4 3).toNat = w.imm.toNat / 16 % 8 := bits_toNat w.imm 4 3
  rw [hexec, execSfcmp, scalarWord_issues (by simpa using ⟨needS_eq_none ha, needS_eq_none hb⟩) h, hfmt, hcode]
  dsimp only
  rw [fCompare_eq_compares, compareFlags_eq, ofBool_eq]
  rfl

end Sys2Proof.Machine
end

section
/-! PROOFS. Control flow and ALIGN (09 R186 to R190, 07 R150). -/

namespace Sys2Proof.Machine

open Claims

/-! ## Words of every engine, and what they change of its hand -/

/-- A word that names no token issues as soon as its checks pass (03 R40, 07 R143). -/
theorem mayIssue_of_tokNone {s : State} {e : Engine} {i : Instr} {hd : Hdr} (hc : i.check = none) (htok : tokNone hd = true) :
    MayIssue s e i hd := by
  simp only [tokNone, Bool.and_eq_true, beq_iff_eq] at htok
  obtain ⟨hpop, hpush⟩ := htok
  exact ⟨hc, fun h => absurd (by rw [hpop]; rfl) h, fun h => absurd (by rw [hpush]; rfl) h⟩

/-- An ALL-tagged word that each engine applies to itself issues where its own check passes, and its effect follows. -/
theorem runEach_of_check {s : State} {i : Instr} {hd : Hdr} {mn : At → Mach → Meaning} (hc : i.check = none)
    (htok : tokNone hd = true) (hp : (mn ⟨s.tb, s.cur, s.eng⟩ s.m).pre = none)
    (hr : (mn ⟨s.tb, s.cur, s.eng⟩ s.m).ring = 0) (ho : (mn ⟨s.tb, s.cur, s.eng⟩ s.m).own = none) :
    .next (runEach s i hd mn) = s.goes ((mn ⟨s.tb, s.cur, s.eng⟩ s.m).eff (s.issued s.eng hd)) :=
  congrArg Host.Outcome.next (runEach_issues (mayIssue_of_tokNone hc htok) hp (hr ▸ Nat.zero_le _) ho)

theorem Mach.modHand_modHand (m : Mach) (r : Nat) (f g : Hand → Hand) :
    (m.modHand r f).modHand r g = m.modHand r (g ∘ f) := by
  simp [Mach.modHand]

theorem Mach.modHand_congr {m : Mach} {r : Nat} {f g : Hand → Hand} (h : f (m.hand r) = g (m.hand r)) :
    m.modHand r f = m.modHand r g :=
  congrArg (m.setHand r) h

theorem Hand.modEngine_modEngine (h : Hand) (e : Engine) (f g : EngineState → EngineState) :
    (h.modEngine e f).modEngine e g = h.modEngine e (g ∘ f) := by cases e <;> rfl

theorem Hand.modEngine_congr {h : Hand} {e : Engine} {f g : EngineState → EngineState} (hfg : f (h.engine e) = g (h.engine e)) :
    h.modEngine e f = h.modEngine e g :=
  congrArg (h.setEngine e) hfg

theorem Hand.popTok_engine (h : Hand) (now f : Nat) (e : Engine) : (h.popTok now f).engine e = h.engine e := by
  rw [Hand.popTok]
  split
  · rfl
  · cases e <;> rfl

/-- The issue of a word leaves the return stack and the outcome queue of its engine. -/
theorem issued_engine (s : State) (e : Engine) (hd : Hdr) :
    (((s.issued e hd).hand s.cur).engine e).stack = (s.hand.engine e).stack ∧
    (((s.issued e hd).hand s.cur).engine e).outq = (s.hand.engine e).outq := by
  have hpop := s.hand.popTok_engine s.tb (popFifo e hd.pop) e
  rw [State.issued, Mach.modHand_hand_get, if_pos rfl]
  cases e <;> dsimp only [Hand.issueAt, Hand.modEngine, Hand.setEngine, Hand.engine] at hpop ⊢ <;> exact ⟨by rw [hpop], by rw [hpop]⟩

/-- An engine of the hand past a word changed, where its return stack and outcome queue are known. -/
theorem issued_modEngine_congr {s : State} {e : Engine} {hd : Hdr} {f g : EngineState → EngineState}
    (h : ∀ y, y.stack = (s.hand.engine e).stack → y.outq = (s.hand.engine e).outq → f y = g y) :
    (s.issued e hd).modHand s.cur (fun h => h.modEngine e f) = (s.issued e hd).modHand s.cur (fun h => h.modEngine e g) := by
  obtain ⟨hstack, houtq⟩ := issued_engine s e hd
  exact Mach.modHand_congr (Hand.modEngine_congr (h _ hstack houtq))

/-! ## Targets and conditions (03 R39, 09 R189) -/

/-- A word offset, shifted by three, is eight bytes a word. -/
theorem target_eq_branchTo {n : Nat} (s : State) (e : Engine) (off : BitVec n) : target (s.hand.engine e).pc off = branchTo s e off := by
  have hshift : off.signExtend 64 <<< 3 = BitVec.ofInt 64 (8 * off.toInt) := by
    rw [BitVec.shiftLeft_eq_mul_twoPow, BitVec.ofInt_mul, mul_comm]
    rfl
  rw [target, hshift]

theorem condHolds_eq_taken (c : BitVec 3) (x y : W64) : condHolds c.toNat x y = taken c x y := by
  unfold condHolds taken
  generalize c.toNat = n
  match n with
  | 0 => rfl
  | 1 => exact decide_not.symm
  | 2 | 4 => rfl
  | 3 => simp [BitVec.slt, ← decide_not]
  | _ + 5 => simp [BitVec.ult, ← decide_not]

/-! ## JMP, CALL, RET (09 R186) -/

section
variable {s : State}

theorem exec_nop_issues {w : Z} (hc : (Instr.nop w).check = none) : exec (.nop w) s = s.goes (s.issued s.eng w.hdr) := by
  have hexec : exec (.nop w) s = execNop w s := rfl
  obtain ⟨htok, -⟩ := wordCheck_eq_none.1 hc
  rw [hexec, execNop, runEach_of_check hc htok rfl rfl rfl]
  rfl

theorem exec_jmp_issues {w : J} (hc : (Instr.jmp w).check = none) :
    exec (.jmp w) s = s.goes ((s.issued s.eng w.hdr).goto s.cur s.eng (branchTo s s.eng w.offset)) := by
  have hexec : exec (.jmp w) s = execJmp w s := rfl
  obtain ⟨htok, -⟩ := wordCheck_eq_none.1 hc
  rw [hexec, execJmp, runEach_of_check hc htok rfl rfl rfl, ← target_eq_branchTo]
  rfl

theorem exec_call_issues {w : J} (hc : (Instr.call w).check = none) (hroom : (s.hand.engine s.eng).stack.length < 32) :
    exec (.call w) s = s.goes (((s.issued s.eng w.hdr).modHand s.cur (fun h => h.modEngine s.eng (fun y =>
      { y with stack := ((s.hand.engine s.eng).pc + 8) :: y.stack }))).goto s.cur s.eng (branchTo s s.eng w.offset)) := by
  have hexec : exec (.call w) s = execCall w s := rfl
  obtain ⟨htok, -⟩ := wordCheck_eq_none.1 hc
  have hown : trapIf (decide (32 ≤ (s.hand.engine s.eng).stack.length)) 1 6 = none := by simpa using hroom
  rw [hexec, execCall, runEach_of_check hc htok rfl rfl hown, ← target_eq_branchTo]
  rfl

theorem exec_ret_issues {w : Z} {a : W64} {t : List W64} (hc : (Instr.ret w).check = none)
    (hstack : (s.hand.engine s.eng).stack = a :: t) :
    exec (.ret w) s = s.goes (((s.issued s.eng w.hdr).modHand s.cur (fun h => h.modEngine s.eng (fun y =>
      { y with stack := t }))).goto s.cur s.eng a) := by
  have hexec : exec (.ret w) s = execRet w s := rfl
  obtain ⟨htok, -⟩ := wordCheck_eq_none.1 hc
  have hown : trapIf (s.hand.engine s.eng).stack.isEmpty 1 7 = none := by simp [hstack]
  rw [hexec, execRet, runEach_of_check hc htok rfl rfl hown]
  dsimp only
  rw [issued_modEngine_congr (g := fun y => { y with stack := t }) fun y hy _ => by rw [hy, hstack]; rfl, hstack]
  rfl

/-! ## BRA, BRX, LOOP (09 R189, R190) -/

section
variable {i : Instr} {hd : Hdr} {d : Engine} {dest : W64} {reads : List (Option Stop)} {b : Bool} {act : Hand → Hand}
  {mn : At → Mach → Meaning} (hmn : mn ⟨s.tb, s.cur, s.eng⟩ s.m = decidedMeaning ⟨s.tb, s.cur, s.eng⟩ s.m d dest reads b act)
  (hc : i.check = none) (htok : tokNone hd = true)
include hmn hc htok

/-- The decider of a word, its sources landed and a place in both outcome queues, acts, tells its followers and goes. -/
theorem runEach_decides (hd' : s.eng = d) (hreads : firstStop reads = none)
    (hroom : ∀ f ∈ followers d, (s.hand.engine f).outq.length < 16) :
    .next (runEach s i hd mn) = s.goes (decided s d hd act dest b) := by
  subst hd'
  have hown : (mn ⟨s.tb, s.cur, s.eng⟩ s.m).own = none := by
    have hfull : (followers s.eng).any (fun f => decide (16 ≤ (s.hand.engine f).outq.length)) = false := by
      simpa using hroom
    rw [hmn, decidedMeaning, if_pos rfl]
    dsimp only
    rw [firstStop_eq_none] at hreads ⊢
    simpa [or_imp, forall_and, hfull] using hreads
  rw [runEach_of_check hc htok (by rw [hmn, decidedMeaning, if_pos rfl]) (by rw [hmn, decidedMeaning, if_pos rfl]) hown, hmn,
    decidedMeaning, if_pos rfl, decided]
  cases b
  · cases s.eng <;> rfl
  · dsimp only
    rw [if_pos rfl, Mach.goto, Mach.modHand_modHand]
    cases s.eng <;> rfl

/-- A follower takes the outcome it was told. -/
theorem runEach_follows {c : Bool} {t : List Bool} (hd' : s.eng ≠ d) (houtq : (s.hand.engine s.eng).outq = c :: t) :
    .next (runEach s i hd mn) = s.goes (follows s hd dest c t) := by
  have hown : (mn ⟨s.tb, s.cur, s.eng⟩ s.m).own = none := by
    rw [hmn, decidedMeaning, if_neg hd']
    simp [houtq]
  rw [runEach_of_check hc htok (by rw [hmn, decidedMeaning, if_neg hd']) (by rw [hmn, decidedMeaning, if_neg hd']) hown, hmn,
    decidedMeaning, if_neg hd']
  have htold : (s.issued s.eng hd).modHand s.cur (fun h => h.modEngine s.eng (fun y => { y with outq := y.outq.drop 1 })) =
      (s.issued s.eng hd).modHand s.cur (fun h => h.modEngine s.eng (fun y => { y with outq := t })) :=
    issued_modEngine_congr fun y _ hy => by rw [hy, houtq]; rfl
  dsimp only
  rw [htold, houtq, List.headD_cons, follows, Mach.goto, Mach.modHand_modHand]
  cases c
  · rfl
  · have hgoes := Hand.modEngine_modEngine ((s.issued s.eng hd).hand s.cur) s.eng (fun y => { y with outq := t })
      (fun y => { y with pc := dest })
    exact congrArg s.goes (Mach.modHand_congr hgoes)
end

theorem exec_bra_decides {w : BA} (hc : (Instr.bra w).check = none) (he : s.eng = .a) (ha : ReadyA s w.a) (hb : ReadyA s w.b)
    (hx : s.hand.ex.outq.length < 16) (hm : s.hand.em.outq.length < 16) :
    exec (.bra w) s = s.goes (decided s .a w.hdr id (branchTo s .a w.offset)
      (taken w.cond (s.hand.areg w.a.toNat) (s.hand.areg w.b.toNat))) := by
  have hexec : exec (.bra w) s = execBra w s := rfl
  obtain ⟨htok, -⟩ := wordCheck_eq_none.1 hc
  have hreads : firstStop [s.hand.needA w.a.toNat, s.hand.needA w.b.toNat] = none := by
    rw [needA_eq_none ha, needA_eq_none hb]; rfl
  rw [hexec, execBra, runEach_decides rfl hc htok he hreads (by simpa [followers] using ⟨hx, hm⟩), condHolds_eq_taken,
    ← target_eq_branchTo, ← he]
  rfl

theorem exec_brx_decides {w : BX} (hc : (Instr.brx w).check = none) (he : s.eng = .x) (ha : ReadyS s w.a.toNat)
    (hb : ReadyS s w.b.toNat) (hx : s.hand.ea.outq.length < 16) (hm : s.hand.em.outq.length < 16) :
    exec (.brx w) s = s.goes (decided s .x w.hdr id (branchTo s .x w.offset)
      (taken w.cond (s.hand.sreg w.a.toNat) (s.hand.sreg w.b.toNat))) := by
  have hexec : exec (.brx w) s = execBrx w s := rfl
  obtain ⟨htok, -⟩ := wordCheck_eq_none.1 hc
  have hreads : firstStop [s.hand.needS w.a.toNat, s.hand.needS w.b.toNat] = none := by
    rw [needS_eq_none ha, needS_eq_none hb]; rfl
  rw [hexec, execBrx, runEach_decides rfl hc htok he hreads (by simpa [followers] using ⟨hx, hm⟩), condHolds_eq_taken,
    ← target_eq_branchTo, ← he]
  rfl

theorem exec_loop_decides {w : BA} (hc : (Instr.loop w).check = none) (he : s.eng = .a) (ha : ReadyA s w.a)
    (hx : s.hand.ex.outq.length < 16) (hm : s.hand.em.outq.length < 16) :
    exec (.loop w) s = s.goes (decided s .a w.hdr
      (fun h => h.putA (aKey h.ring w.a.toNat) (s.hand.areg w.a.toNat - 1)) (branchTo s .a w.offset)
      (decide (0 < (s.hand.areg w.a.toNat - 1).toInt))) := by
  have hexec : exec (.loop w) s = execLoop w s := rfl
  obtain ⟨htok, -⟩ := wordCheck_eq_none.1 hc
  have hreads : firstStop [s.hand.needA w.a.toNat] = none := by
    rw [needA_eq_none ha]; rfl
  rw [hexec, execLoop, runEach_decides rfl hc htok he hreads (by simpa [followers] using ⟨hx, hm⟩), ← target_eq_branchTo, ← he]
  rfl

section
variable {b : Bool} {t : List Bool} (houtq : (s.hand.engine s.eng).outq = b :: t)
include houtq

theorem exec_bra_follows {w : BA} (he : s.eng ≠ .a) (hc : (Instr.bra w).check = none) :
    exec (.bra w) s = s.goes (follows s w.hdr (branchTo s s.eng w.offset) b t) := by
  have hexec : exec (.bra w) s = execBra w s := rfl
  obtain ⟨htok, -⟩ := wordCheck_eq_none.1 hc
  rw [hexec, execBra, runEach_follows rfl hc htok he houtq, ← target_eq_branchTo]
  rfl

theorem exec_loop_follows {w : BA} (he : s.eng ≠ .a) (hc : (Instr.loop w).check = none) :
    exec (.loop w) s = s.goes (follows s w.hdr (branchTo s s.eng w.offset) b t) := by
  have hexec : exec (.loop w) s = execLoop w s := rfl
  obtain ⟨htok, -⟩ := wordCheck_eq_none.1 hc
  rw [hexec, execLoop, runEach_follows rfl hc htok he houtq, ← target_eq_branchTo]
  rfl

theorem exec_brx_follows {w : BX} (he : s.eng ≠ .x) (hc : (Instr.brx w).check = none) :
    exec (.brx w) s = s.goes (follows s w.hdr (branchTo s s.eng w.offset) b t) := by
  have hexec : exec (.brx w) s = execBrx w s := rfl
  obtain ⟨htok, -⟩ := wordCheck_eq_none.1 hc
  rw [hexec, execBrx, runEach_follows rfl hc htok he houtq, ← target_eq_branchTo]
  rfl
end

/-! ## ALIGN (07 R150) -/

/-- An engine that has passed an ALIGN. -/
def EngineState.aligned (y : EngineState) : EngineState :=
  { y with pc := y.pc + 8, prev := 0, issued := false, arrived := false, anew := false, words := 0, iseq := y.iseq + 1, lastVc := 0,
           bkOff := false, notBefore := 0 }

theorem Hand.realign_passRv (h : Hand) : h.passRv.realign =
    { h with ea := h.ea.aligned, ex := h.ex.aligned, em := h.em.aligned, vclk := 0, blocked := none, stage := 0 } := by
  simp only [Hand.realign, Hand.passRv, Hand.modEngines, EngineState.aligned]

theorem exec_align_passes {w : Z} (hc : (Instr.align w).check = none) :
    exec (.align w) s = s.goes (s.m.setHand s.cur { s.hand with
      ea := s.hand.ea.aligned, ex := s.hand.ex.aligned, em := s.hand.em.aligned, vclk := 0, blocked := none, stage := 0 }) := by
  have hexec : exec (.align w) s = execAlign w s := rfl
  rw [hexec, execAlign, runRv_issues hc rfl (Nat.zero_le _) rfl]
  dsimp only
  rw [Mach.modHand_modHand, Mach.modHand, Function.comp_apply, Hand.realign_passRv]
end

/-- Settles O20: an engine applies a word to itself as soon as its own check passes; the decider and the followers of a decided word
change the hand engine by engine; ALIGN realigns the three engines past it. -/
theorem controlFlow : Obligations.ControlFlow :=
  ⟨fun _ _ => exec_nop_issues, fun _ _ => exec_jmp_issues, fun _ _ => exec_call_issues, fun _ _ _ _ => exec_ret_issues,
    fun _ _ => exec_bra_decides, fun _ _ => exec_brx_decides, fun _ _ => exec_loop_decides,
    fun _ _ _ _ houtq he => ⟨exec_bra_follows houtq he, exec_loop_follows houtq he⟩,
    fun _ _ _ _ houtq he => exec_brx_follows houtq he,
    fun s _ hc => ⟨fun e => (s.hand.engine e).aligned, exec_align_passes hc, fun _ => ⟨rfl, rfl, rfl, rfl, rfl, rfl⟩⟩⟩

end Sys2Proof.Machine
end

section
/-! PROOFS. Rounding once: the magnitude that a mode picks between two neighbours (08 R165). -/

namespace Sys2Proof.Machine

open Claims

/-! ## What it means that a mode picks a value (08 R165) -/

/-- Value `v` is no worse than `u` as what mode `rm` makes of `e`; `even` says that the mantissa of `v` is even. -/
def Picks (rm : Nat) (e v u : ℚ) (even : Prop) : Prop :=
  match rm with
  | 0 => |e - v| ≤ |e - u| ∧ (|e - v| = |e - u| → u ≠ v → even)
  | 1 => |v| ≤ |e| ∧ 0 ≤ v * e ∧ (|u| ≤ |e| → 0 ≤ u * e → |u| ≤ |v|)
  | 2 => v ≤ e ∧ (u ≤ e → u ≤ v)
  | 3 => e ≤ v ∧ (e ≤ u → v ≤ u)
  | _ => |e - v| ≤ |e - u| ∧ (|e - v| = |e - u| → |u| ≤ |v|)

/-- The mode that does to a positive value what `rm` does to its opposite. -/
def mirror (neg : Bool) (rm : Nat) : Nat :=
  match neg, rm with
  | true, 2 => 3
  | true, 3 => 2
  | _, rm => rm

section
variable {rm : Nat} {e v u : ℚ} {even : Prop}

theorem picks_self : Picks rm e e u even := by
  unfold Picks
  split
  · exact ⟨by simp, fun h hne => absurd (by simpa [sub_eq_zero, eq_comm] using h) hne⟩
  · exact ⟨le_rfl, mul_self_nonneg e, fun h _ => h⟩
  · exact ⟨le_rfl, id⟩
  · exact ⟨le_rfl, id⟩
  · exact ⟨by simp, fun h => (by simpa [sub_eq_zero, eq_comm] using h : u = e) ▸ le_rfl⟩

theorem Picks.imp {even' : Prop} (h : Picks rm e v u even) (himp : even → even') : Picks rm e v u even' := by
  unfold Picks at h ⊢
  split at h
  · exact ⟨h.1, fun heq hne => himp (h.2 heq hne)⟩
  all_goals exact h

theorem Picks.mul {c : ℚ} (h : Picks rm e v u even) (hc : 0 < c) : Picks rm (e * c) (v * c) (u * c) even := by
  have habs (x : ℚ) : |x * c| = |x| * c := by rw [abs_mul, abs_of_pos hc]
  have hsign (x : ℚ) : 0 ≤ x * c * (e * c) ↔ 0 ≤ x * e := by
    rw [mul_mul_mul_comm, mul_nonneg_iff_of_pos_right (mul_pos hc hc)]
  unfold Picks at h ⊢
  simpa only [← sub_mul, habs, hsign, mul_le_mul_iff_left₀ hc, mul_left_inj' hc.ne', ne_eq] using h

theorem Picks.neg (h : Picks (mirror true rm) e v u even) : Picks rm (-e) (-v) (-u) even := by
  have hdist (x : ℚ) : |-e - -x| = |e - x| := by rw [neg_sub_neg, abs_sub_comm]
  match rm with
  | 0 => simpa only [Picks, mirror, hdist, ne_eq, neg_inj] using h
  | 1 => simpa only [Picks, mirror, abs_neg, neg_mul_neg] using h
  | 2 => simpa only [Picks, mirror, neg_le_neg_iff] using h
  | 3 => simpa only [Picks, mirror, neg_le_neg_iff] using h
  | _ + 4 => simpa only [Picks, mirror, hdist, abs_neg] using h
end

theorem roundsUp_mirror (rm : Nat) (neg : Bool) (n : Nat) (half : Ordering) (rest : Bool) :
    roundsUp rm neg n half rest = roundsUp (mirror neg rm) false n half rest := by
  cases neg
  · rfl
  · match rm with
    | 0 | 1 | 2 | 3 | _ + 4 => simp [roundsUp, mirror]

/-! ## A quotient rounded (08 R165) -/

/-- The quotient `m / u` rounded to an integer. -/
def roundQuot (rm : Nat) (neg : Bool) (m u : Nat) : Nat :=
  m / u + if roundsUp rm neg (m / u) (compare (2 * (m % u)) u) (m % u != 0) then 1 else 0

/-- Nothing discarded rounds nothing up. -/
theorem roundsUp_exact (rm : Nat) (neg : Bool) (n : Nat) : roundsUp rm neg n .lt false = false := by
  match rm with
  | 0 | 1 | 2 | 3 | _ + 4 => simp [roundsUp]

theorem compare_two_mul (r h : Nat) :
    (if r < h then Ordering.lt else if r == h then Ordering.eq else Ordering.gt) = compare (2 * r) (2 * h) := by
  obtain hlt | rfl | hgt := lt_trichotomy r h
  · rw [if_pos hlt, eq_comm, compare_lt_iff_lt]
    omega
  · simp
  · rw [if_neg hgt.not_gt, if_neg (by simpa using hgt.ne'), eq_comm, compare_gt_iff_gt]
    omega

/-- A magnitude as a quotient of integers when it is counted in units of `2^q`. -/
theorem roundMag_eq_roundQuot (rm : Nat) (neg : Bool) (mag : Nat) (exp q : Int) :
    roundMag rm neg mag exp q false =
      (roundQuot rm neg (mag * 2 ^ (exp - q).toNat) (2 ^ (q - exp).toNat),
        mag * 2 ^ (exp - q).toNat % 2 ^ (q - exp).toNat != 0) := by
  rw [roundMag, roundQuot]
  split
  · next hle =>
    have hq : (q - exp).toNat = 0 := by omega
    simp [hq, Nat.mod_one, roundsUp_exact, compare_lt_iff_lt.2 Nat.zero_lt_one]
  · next hlt =>
    have hexp : (exp - q).toNat = 0 := by omega
    have hhalf : 2 ^ (q - exp).toNat = 2 * 2 ^ ((q - exp).toNat - 1) := by
      rw [← pow_succ', Nat.sub_add_cancel (by omega)]
    have hcompare := compare_two_mul (mag % 2 ^ (q - exp).toNat) (2 ^ ((q - exp).toNat - 1))
    rw [← hhalf] at hcompare
    simp only [hexp, pow_zero, mul_one, Bool.or_false, Bool.false_eq_true, if_false, hcompare]

/-- An exact quotient is not rounded. -/
theorem roundQuot_of_mod_eq_zero {rm : Nat} {neg : Bool} {m u : Nat} (hu : 0 < u) (h : m % u = 0) :
    roundQuot rm neg m u = m / u := by
  simp [roundQuot, h, compare_lt_iff_lt.2 hu, roundsUp_exact]

/-- Which of the two neighbours of an inexact quotient a mode takes. -/
theorem roundQuot_of_mod_ne_zero (rm : Nat) (neg : Bool) {m u : Nat} (h : m % u ≠ 0) :
    roundQuot rm neg m u = m / u + if roundsUp rm neg (m / u) (compare (2 * (m % u)) u) true then 1 else 0 := by
  rw [roundQuot, bne_iff_ne.2 h]

/-- A value that lies between the integers `n` and `n + 1`, and the distances of all others from it. -/
theorem dist_of_gap {n d w : ℚ} (hd : 0 ≤ d) (hd' : d ≤ 1) (hw : w ≤ n ∨ n + 1 ≤ w) :
    |n + d - n| = d ∧ |n + d - (n + 1)| = 1 - d ∧ (|n + d - w| = d + (n - w) ∧ w ≤ n ∨ |n + d - w| = 1 - d + (w - (n + 1)) ∧ n + 1 ≤ w) := by
  refine ⟨by rw [add_sub_cancel_left, abs_of_nonneg hd], ?_, hw.imp (fun h => ⟨?_, h⟩) fun h => ⟨?_, h⟩⟩
  · rw [abs_of_nonpos (by linarith)]
    ring
  · rw [abs_of_nonneg (by linarith)]
    ring
  · rw [abs_of_nonpos (by linarith)]
    ring

/-- What mode `rm` makes of a value between `n` and `n + 1`, when the discarded part compares with one half as `half` says. -/
def roundBetween (rm n : Nat) (half : Ordering) : Nat := n + if roundsUp rm false n half true then 1 else 0

section
variable {n : Nat} {d w : ℚ} {half : Ordering} (hd : 0 < d) (hd' : d < 1) (hw : w ≤ n ∨ (n : ℚ) + 1 ≤ w)
include hd hd' hw

theorem picks_nearest_even (hhalf : half.Compares (2 * d) 1) :
    Picks 0 (n + d) (roundBetween 0 n half) w (roundBetween 0 n half % 2 = 0) := by
  obtain ⟨hlow, hhigh, hgap⟩ := dist_of_gap hd.le hd'.le hw
  have down (h : 2 * d ≤ 1) (heven : 2 * d = 1 → n % 2 = 0) : Picks 0 (n + d) (n : Nat) w (n % 2 = 0) := by
    rw [Picks, hlow]
    obtain ⟨hdist, hle⟩ | ⟨hdist, hle⟩ := hgap <;> rw [hdist]
    · exact ⟨by linarith, fun heq hne => absurd (by linarith) hne⟩
    · exact ⟨by linarith, fun heq _ => heven (by linarith)⟩
  have up (h : 1 ≤ 2 * d) (heven : 2 * d = 1 → (n + 1) % 2 = 0) : Picks 0 (n + d) (n + 1 : Nat) w ((n + 1) % 2 = 0) := by
    rw [Picks, Nat.cast_succ, hhigh]
    obtain ⟨hdist, hle⟩ | ⟨hdist, hle⟩ := hgap <;> rw [hdist]
    · exact ⟨by linarith, fun heq _ => heven (by linarith)⟩
    · exact ⟨by linarith, fun heq hne => absurd (by linarith) hne⟩
  cases half with
  | lt => exact down hhalf.le fun h => absurd h hhalf.ne
  | gt => exact up hhalf.le fun h => absurd h hhalf.ne'
  | eq =>
    by_cases hn : n % 2 = 1
    · have hround : roundBetween 0 n .eq = n + 1 := by simp [roundBetween, roundsUp, hn]
      rw [hround]
      exact up hhalf.ge fun _ => by omega
    · have hround : roundBetween 0 n .eq = n := by simp [roundBetween, roundsUp, hn]
      rw [hround]
      exact down hhalf.le fun _ => by omega

theorem picks_nearest_away (rm : Nat) (hhalf : half.Compares (2 * d) 1) {even : Prop} :
    Picks (rm + 4) (n + d) (roundBetween (rm + 4) n half) w even := by
  obtain ⟨hlow, hhigh, hgap⟩ := dist_of_gap hd.le hd'.le hw
  have hn : (0 : ℚ) ≤ n := Nat.cast_nonneg n
  have up (h : 1 ≤ 2 * d) : Picks (rm + 4) (n + d) (n + 1 : Nat) w even := by
    rw [Picks, Nat.cast_succ, hhigh]
    · obtain ⟨hdist, hle⟩ | ⟨hdist, hle⟩ := hgap <;> rw [hdist]
      · refine ⟨by linarith, fun heq => ?_⟩
        rw [show w = n by linarith, abs_of_nonneg hn, abs_of_nonneg (by linarith)]
        linarith
      · refine ⟨by linarith, fun heq => ?_⟩
        rw [show w = n + 1 by linarith]
    all_goals omega
  cases half with
  | lt =>
    change 2 * d < 1 at hhalf
    have hround : roundBetween (rm + 4) n .lt = n := by simp [roundBetween, roundsUp]
    rw [hround, Picks, hlow]
    · obtain ⟨hdist, hle⟩ | ⟨hdist, hle⟩ := hgap <;> rw [hdist]
      · exact ⟨by linarith, fun heq => by rw [show w = n by linarith]⟩
      · exact ⟨by linarith, fun heq => by linarith⟩
    all_goals omega
  | gt => exact up hhalf.le
  | eq => exact up hhalf.ge

theorem picks_towardZero {even : Prop} : Picks 1 (n + d) (roundBetween 1 n half) w even := by
  have hn : (0 : ℚ) ≤ n := Nat.cast_nonneg n
  change |(n : ℚ)| ≤ |n + d| ∧ 0 ≤ (n : ℚ) * (n + d) ∧ (|w| ≤ |n + d| → 0 ≤ w * (n + d) → |w| ≤ |(n : ℚ)|)
  have hpos : 0 < n + d := by linarith
  rw [abs_of_nonneg hn, abs_of_pos hpos]
  refine ⟨by linarith, mul_nonneg hn hpos.le, fun hle hsign => ?_⟩
  rw [abs_of_nonneg (nonneg_of_mul_nonneg_left hsign hpos)] at hle ⊢
  exact hw.resolve_right fun h => by linarith

theorem picks_down {even : Prop} : Picks 2 (n + d) (roundBetween 2 n half) w even := by
  change (n : ℚ) ≤ n + d ∧ (w ≤ n + d → w ≤ n)
  exact ⟨by linarith, fun hle => hw.resolve_right fun h => by linarith⟩

theorem picks_up {even : Prop} : Picks 3 (n + d) (roundBetween 3 n half) w even := by
  change (n : ℚ) + d ≤ (n + 1 : Nat) ∧ (n + d ≤ w → (n + 1 : Nat) ≤ w)
  rw [Nat.cast_succ]
  exact ⟨by linarith, fun hle => hw.resolve_left fun h => by linarith⟩
end

/-- Between two neighbouring integers a mode picks the rounded quotient. -/
theorem picks_roundQuot {m u rm : Nat} {w : ℚ} (hu : 0 < u) (hw : w ≤ (m / u : Nat) ∨ ((m / u : Nat) : ℚ) + 1 ≤ w) :
    Picks rm ((m : ℚ) / u) (roundQuot rm false m u) w (roundQuot rm false m u % 2 = 0) := by
  have hu' : (0 : ℚ) < u := Nat.cast_pos.2 hu
  have hm : (m : ℚ) / u = (m / u : Nat) + ((m % u : Nat) : ℚ) / u := by
    rw [div_eq_iff hu'.ne', add_mul, div_mul_cancel₀ _ hu'.ne']
    exact_mod_cast (Nat.div_add_mod' m u).symm
  by_cases hr : m % u = 0
  · rw [roundQuot_of_mod_eq_zero hu hr, hm, hr, Nat.cast_zero, zero_div, add_zero]
    exact picks_self
  rw [roundQuot_of_mod_ne_zero rm false hr, hm, ← roundBetween]
  have hd : 0 < ((m % u : Nat) : ℚ) / u := div_pos (Nat.cast_pos.2 (Nat.pos_of_ne_zero hr)) hu'
  have hd' : ((m % u : Nat) : ℚ) / u < 1 := (div_lt_one hu').2 (Nat.cast_lt.2 (Nat.mod_lt m hu))
  have hhalf : (compare (2 * (m % u)) u).Compares (2 * (((m % u : Nat) : ℚ) / u)) 1 := by
    rw [← mul_div_assoc]
    cases h : compare (2 * (m % u)) u
    · exact (div_lt_one hu').2 (by exact_mod_cast compare_lt_iff_lt.1 h)
    · exact (div_eq_one_iff_eq hu'.ne').2 (by exact_mod_cast compare_eq_iff_eq.1 h)
    · exact (one_lt_div hu').2 (by exact_mod_cast compare_gt_iff_gt.1 h)
  match rm with
  | 0 => exact picks_nearest_even hd hd' hw hhalf
  | 1 => exact picks_towardZero hd hd' hw
  | 2 => exact picks_down hd hd' hw
  | 3 => exact picks_up hd hd' hw
  | rm + 4 => exact picks_nearest_away hd hd' hw rm hhalf

/-- The quotient rounded to the next integer above. -/
theorem add_sub_one_div {m u : Nat} (hu : 0 < u) : (m + u - 1) / u = m / u + if m % u != 0 then 1 else 0 := by
  have hdiv := Nat.div_add_mod' m u
  have hlt := Nat.mod_lt m hu
  by_cases h : m % u = 0
  · rw [h, bne_self_eq_false, if_neg Bool.false_ne_true, add_zero]
    refine Nat.div_eq_of_lt_le ?_ ?_
    · omega
    · rw [add_mul, one_mul]
      omega
  · rw [if_pos (bne_iff_ne.2 h)]
    refine Nat.div_eq_of_lt_le ?_ ?_ <;> simp only [add_mul, one_mul] <;> omega

section
variable (neg : Bool) (m u : Nat)

theorem roundQuot_nearest_even : roundQuot 0 neg m u =
    m / u + if u < 2 * (m % u) ∨ 2 * (m % u) = u ∧ m / u % 2 = 1 then 1 else 0 := by
  simp [roundQuot, roundsUp, compare_gt_iff_gt]

theorem roundQuot_nearest_away : roundQuot 4 neg m u = m / u + if u ≤ 2 * (m % u) then 1 else 0 := by
  simp [roundQuot, roundsUp, compare_gt_iff_gt, le_iff_lt_or_eq, eq_comm (a := u)]

theorem roundQuot_towardZero : roundQuot 1 neg m u = m / u := rfl
end

/-- The rounding rule for a magnitude finer than the unit, mode by mode. -/
theorem roundingToAMultiple : RoundingToAMultiple := by
  intro neg mag exp q hq u n
  have hexp : (exp - q).toNat = 0 := by omega
  have hn (rm : Nat) : roundMag rm neg mag exp q false = (roundQuot rm neg mag u, mag % u != 0) := by
    rw [roundMag_eq_roundQuot, hexp, pow_zero, mul_one]
  have hu : 0 < u := Nat.two_pow_pos _
  have hdiv : mag / u * u + mag % u = mag := Nat.div_add_mod' mag u
  have hlt : mag % u < u := Nat.mod_lt mag hu
  simp only [n, hn, add_sub_one_div hu, roundQuot_nearest_even, roundQuot_nearest_away]
  refine ⟨fun _ => bne_iff_ne, ?_, fun htie => ?_, ?_, roundQuot_towardZero neg mag u, ?_, ?_⟩
  · split <;> simp only [add_mul, one_mul] <;> omega
  · split <;> omega
  · split <;> simp only [add_mul, one_mul] <;> omega
  · cases neg <;> simp [roundQuot, roundsUp]
  · cases neg <;> simp [roundQuot, roundsUp]

end Sys2Proof.Machine
end

section
/-! PROOFS. Exact values rounded into a format or to an integer (08 R156, R165). -/

namespace Sys2Proof.Machine

open Claims

/-! ## An exact value in units of a power of two -/

/-- The magnitude of `x`, counted in units of `2^q`, is the quotient of these two. -/
def DyVal.unitsNum (x : DyVal) (q : Int) : Nat := x.mag * 2 ^ (x.exp - q).toNat
/-- The denominator of that quotient. -/
def DyVal.unitsDen (x : DyVal) (q : Int) : Nat := 2 ^ (q - x.exp).toNat
/-- The magnitude of `x` rounded to a multiple of `2^q`. -/
def DyVal.rounded (x : DyVal) (rm : Nat) (q : Int) : Nat := (roundMag rm x.neg x.mag x.exp q false).1

section
variable (x : DyVal) (rm : Nat) (q : Int)

theorem DyVal.unitsDen_pos : 0 < x.unitsDen q := Nat.two_pow_pos _

theorem abs_dyadic_eq_units : |dyadic x| = (x.unitsNum q : ℚ) / x.unitsDen q * (2 : ℚ) ^ q := by
  have hexp : (2 : ℚ) ^ x.exp = 2 ^ (x.exp - q).toNat / 2 ^ (q - x.exp).toNat * 2 ^ q := by
    rw [← zpow_natCast, ← zpow_natCast, ← zpow_sub₀ two_ne_zero, ← zpow_add₀ two_ne_zero]
    congr 1
    omega
  rw [abs_dyadic, hexp, DyVal.unitsNum, DyVal.unitsDen]
  push_cast
  ring

theorem rounded_eq_roundQuot : x.rounded rm q = roundQuot (mirror x.neg rm) false (x.unitsNum q) (x.unitsDen q) := by
  rw [DyVal.rounded, roundMag_eq_roundQuot, roundQuot, roundsUp_mirror]
  rfl

/-- A value is rounded to itself just where nothing is discarded. -/
theorem rounded_inexact_iff : (roundMag rm x.neg x.mag x.exp q false).2 = true ↔
    x.sign * x.rounded rm q * (2 : ℚ) ^ q ≠ dyadic x := by
  have hden : (x.unitsDen q : ℚ) ≠ 0 := Nat.cast_ne_zero.2 (x.unitsDen_pos q).ne'
  have hvalue : x.sign * x.rounded rm q * (2 : ℚ) ^ q = dyadic x ↔ x.rounded rm q * x.unitsDen q = x.unitsNum q := by
    rw [dyadic_eq_sign_mul_abs, abs_dyadic_eq_units x q, mul_assoc, mul_right_inj' x.sign_ne_zero,
      mul_left_inj' (zpow_ne_zero q two_ne_zero), eq_div_iff hden]
    norm_cast
  rw [roundMag_eq_roundQuot, bne_iff_ne, ne_eq, ne_eq, not_iff_not, hvalue]
  constructor
  · intro hr
    change x.unitsNum q % x.unitsDen q = 0 at hr
    rw [rounded_eq_roundQuot, roundQuot_of_mod_eq_zero (x.unitsDen_pos q) hr, Nat.div_mul_cancel (Nat.dvd_of_mod_eq_zero hr)]
  · intro hexact
    exact Nat.mod_eq_zero_of_dvd (Dvd.intro_left _ hexact)

/-- The mode picks the rounded value over every value that does not lie between the two neighbours. -/
theorem picks_rounded {w : ℚ} (hw : w ≤ (x.unitsNum q / x.unitsDen q : Nat) ∨ ((x.unitsNum q / x.unitsDen q : Nat) : ℚ) + 1 ≤ w) :
    Picks rm (dyadic x) (x.sign * x.rounded rm q * (2 : ℚ) ^ q) (x.sign * w * (2 : ℚ) ^ q) (x.rounded rm q % 2 = 0) := by
  have h := (picks_roundQuot (rm := mirror x.neg rm) (x.unitsDen_pos q) hw).mul (zpow_pos two_pos q)
  rw [← rounded_eq_roundQuot, ← abs_dyadic_eq_units] at h
  rw [dyadic_eq_sign_mul_abs, DyVal.sign]
  cases hneg : x.neg
  · simpa [hneg, mirror] using h
  · rw [hneg] at h
    simpa using h.neg
end

theorem int_gap (n z : Int) : (z : ℚ) ≤ n ∨ (n : ℚ) + 1 ≤ z := by
  norm_cast
  omega

/-! ## Magnitude codes (08 R156) -/

/-- The value of a magnitude code. -/
def FFmt.magQ (f : FFmt) (mc : Nat) : ℚ := dyadic (f.magValue false mc)

section
variable (f : FFmt)

theorem magValue_neg (neg : Bool) (mc : Nat) : (f.magValue neg mc).neg = neg := by
  rw [FFmt.magValue]
  split <;> rfl

theorem dyadic_magValue (neg : Bool) (mc : Nat) : dyadic (f.magValue neg mc) = (if neg then -1 else 1) * f.magQ mc := by
  have hneg : f.magValue neg mc = { f.magValue false mc with neg := neg } := by
    rw [FFmt.magValue, FFmt.magValue]
    split <;> rfl
  simp [hneg, magValue_neg, FFmt.magQ, dyadic]

theorem magQ_of_parts {e m : Nat} (hm : m < 2 ^ f.mw) : f.magQ (e * 2 ^ f.mw + m) =
    if e = 0 then m * (2 : ℚ) ^ f.qmin else (2 ^ f.mw + m : Nat) * (2 : ℚ) ^ (f.qmin + (e - 1 : Nat)) := by
  have hdiv : (e * 2 ^ f.mw + m) / 2 ^ f.mw = e := by
    rw [mul_comm, Nat.mul_add_div (by positivity), Nat.div_eq_of_lt hm, add_zero]
  have hmod : (e * 2 ^ f.mw + m) % 2 ^ f.mw = m := by
    rw [mul_comm, Nat.mul_add_mod, Nat.mod_eq_of_lt hm]
  rw [FFmt.magQ, FFmt.magValue, hdiv, hmod]
  by_cases he : e = 0 <;> simp [he, dyadic]

/-- A multiple of a unit in the last place, as the code that stands for it; the next power of two is one of them. -/
theorem magQ_eq {c n : Nat} (hn : n ≤ 2 ^ (f.mw + 1)) (hc : c = 0 ∨ 2 ^ f.mw ≤ n) :
    f.magQ (c * 2 ^ f.mw + n) = n * (2 : ℚ) ^ (f.qmin + c) := by
  have hpow : 2 ^ (f.mw + 1) = 2 * 2 ^ f.mw := pow_succ' 2 f.mw
  have hpos : 0 < 2 ^ f.mw := Nat.two_pow_pos _
  obtain hsub | ⟨m, rfl⟩ : n < 2 ^ f.mw ∨ ∃ m, n = 2 ^ f.mw + m :=
    (lt_or_ge n (2 ^ f.mw)).imp id Nat.exists_eq_add_of_le
  · obtain rfl : c = 0 := hc.resolve_right hsub.not_ge
    rw [magQ_of_parts f hsub, if_pos rfl, Nat.cast_zero, add_zero]
  have hcode : c * 2 ^ f.mw + (2 ^ f.mw + m) = (c + 1) * 2 ^ f.mw + m := by ring
  obtain hm | rfl : m < 2 ^ f.mw ∨ m = 2 ^ f.mw := lt_or_eq_of_le (by omega)
  · rw [hcode, magQ_of_parts f hm, if_neg c.succ_ne_zero, Nat.add_sub_cancel]
  · have hcode' : (c + 1) * 2 ^ f.mw + 2 ^ f.mw = (c + 2) * 2 ^ f.mw + 0 := by ring
    rw [hcode, hcode', magQ_of_parts f hpos, if_neg (by omega), Nat.add_zero, Nat.add_sub_assoc (by omega), Nat.cast_add c,
      ← add_assoc, zpow_add₀ two_ne_zero]
    push_cast
    ring

/-- Every magnitude code stands for a multiple of a unit in the last place, with a mantissa that the format holds. -/
theorem exists_magCode (mc : Nat) : ∃ c n, mc = c * 2 ^ f.mw + n ∧ n < 2 ^ (f.mw + 1) ∧ (c = 0 ∨ 2 ^ f.mw ≤ n) := by
  have hpow : 2 ^ (f.mw + 1) = 2 * 2 ^ f.mw := pow_succ' 2 f.mw
  have hmod : mc % 2 ^ f.mw < 2 ^ f.mw := Nat.mod_lt _ (by positivity)
  have hdiv : mc / 2 ^ f.mw * 2 ^ f.mw + mc % 2 ^ f.mw = mc := Nat.div_add_mod' ..
  cases he : mc / 2 ^ f.mw with
  | zero => exact ⟨0, mc % 2 ^ f.mw, by rw [← he, hdiv], by omega, .inl rfl⟩
  | succ c =>
    refine ⟨c, 2 ^ f.mw + mc % 2 ^ f.mw, ?_, by omega, .inr (by omega)⟩
    rw [← hdiv, he]
    simp [add_mul, add_assoc]

theorem magQ_lt_succ (mc : Nat) : f.magQ mc < f.magQ (mc + 1) := by
  obtain ⟨c, n, rfl, hn, hc⟩ := exists_magCode f mc
  have hunit : (0 : ℚ) < 2 ^ (f.qmin + c) := by positivity
  rw [add_assoc, magQ_eq f hn.le hc, magQ_eq f hn (hc.imp id (by omega))]
  push_cast
  linarith

theorem magQ_strictMono : StrictMono f.magQ := strictMono_nat_of_lt_succ (magQ_lt_succ f)
end

/-! ## Neighbours in a format (08 R165) -/

/-- The unit in the last place to which a value is rounded in a format. -/
def FFmt.unit (f : FFmt) (x : DyVal) : Int := max (f.ulp x) f.qmin

theorem rounded_bounds {f : FFmt} {x : DyVal} (rm : Nat) (hx : x.mag ≠ 0) : x.rounded rm (f.unit x) ≤ 2 ^ (f.mw + 1) ∧
    (f.unit x = f.qmin ∨ 2 ^ f.mw ≤ x.rounded rm (f.unit x)) := by
  have hunit : f.unit x = max (f.ulp x) f.qmin := rfl
  rw [FFmt.ulp] at hunit
  constructor
  · exact roundMag_le_two_pow (by push_cast; omega)
  · obtain h | h := max_choice (f.ulp x) f.qmin
    · exact .inr (two_pow_le_roundMag hx (by rw [FFmt.ulp] at h; omega))
    · exact .inl h

/-- The sign as an integer factor. -/
def DyVal.unitSign (x : DyVal) : Int := if x.neg then -1 else 1

theorem DyVal.sign_eq_unitSign (x : DyVal) : x.sign = x.unitSign := by
  rw [DyVal.sign, DyVal.unitSign]
  split <;> simp

theorem DyVal.natAbs_unitSign_mul (x : DyVal) (n : Int) : (x.unitSign * n).natAbs = n.natAbs := by
  rw [DyVal.unitSign]
  split <;> simp

/-- No value of the format lies between the two multiples of the unit beside a value. -/
theorem inFormat_gap {f : FFmt} {x : DyVal} (hx : x.mag ≠ 0) {v : ℚ} {m k : Int} (hv : InFormat f v m k) :
    x.sign * v / 2 ^ f.unit x ≤ (x.unitsNum (f.unit x) / x.unitsDen (f.unit x) : Nat) ∨
    ((x.unitsNum (f.unit x) / x.unitsDen (f.unit x) : Nat) : ℚ) + 1 ≤ x.sign * v / 2 ^ f.unit x := by
  obtain ⟨rfl, hm, hk, -⟩ := hv
  have hquot : x.sign * (m * 2 ^ k) / 2 ^ f.unit x = x.sign * m * (2 : ℚ) ^ (k - f.unit x) := by
    rw [zpow_sub₀ two_ne_zero]
    ring
  rw [hquot]
  by_cases hle : f.unit x ≤ k
  · -- a multiple of the unit
    obtain ⟨d, hd⟩ := Int.eq_ofNat_of_zero_le (sub_nonneg.2 hle)
    have hint : x.sign * m * (2 : ℚ) ^ (k - f.unit x) = (x.unitSign * m * 2 ^ d : Int) := by
      rw [hd, zpow_natCast, x.sign_eq_unitSign]
      push_cast
      rfl
    rw [hint]
    exact int_gap (x.unitsNum (f.unit x) / x.unitsDen (f.unit x) : Nat) _
  · -- finer than the unit, so below the power of two at which the value's binade begins
    obtain ⟨-, hunit | hbinade⟩ := rounded_bounds (f := f) 1 hx
    · exact absurd (hunit.trans_le hk) hle
    have hn : x.rounded 1 (f.unit x) = x.unitsNum (f.unit x) / x.unitsDen (f.unit x) := by
      rw [rounded_eq_roundQuot]
      cases x.neg <;> rfl
    rw [hn] at hbinade
    refine .inl ?_
    calc x.sign * m * (2 : ℚ) ^ (k - f.unit x) ≤ |x.sign * m * (2 : ℚ) ^ (k - f.unit x)| := le_abs_self _
      _ = m.natAbs * (2 : ℚ) ^ (k - f.unit x) := by
          rw [abs_mul, abs_mul, x.abs_sign, one_mul, abs_of_pos (by positivity : (0 : ℚ) < 2 ^ (k - f.unit x)), Nat.cast_natAbs, Int.cast_abs]
      _ ≤ 2 ^ (f.mw + 1) * (2 : ℚ) ^ (-1 : Int) := by
          gcongr
          · exact_mod_cast hm.le
          · norm_num
          · omega
      _ = (2 ^ f.mw : Nat) := by
          rw [zpow_neg_one, pow_succ, mul_inv_cancel_right₀ two_ne_zero]
          norm_cast
      _ ≤ (x.unitsNum (f.unit x) / x.unitsDen (f.unit x) : Nat) := Nat.cast_le.2 hbinade

/-- A magnitude rounded to the unit has a mantissa of the format. -/
theorem inFormat_rounded {f : FFmt} {x : DyVal} (rm : Nat) (hmw : f.mw ≠ 0) (hx : x.mag ≠ 0) :
    ∃ m k, InFormat f (x.sign * x.rounded rm (f.unit x) * (2 : ℚ) ^ f.unit x) m k ∧ (x.rounded rm (f.unit x) % 2 = 0 → m % 2 = 0) := by
  obtain ⟨hle, hge⟩ := rounded_bounds (f := f) rm hx
  have hunit : f.qmin ≤ f.unit x := le_max_right ..
  rw [x.sign_eq_unitSign]
  generalize x.rounded rm (f.unit x) = n at *
  obtain hlt | rfl := lt_or_eq_of_le hle
  · refine ⟨x.unitSign * n, f.unit x, ⟨by push_cast; rfl, ?_, hunit, ?_⟩, fun heven => ?_⟩
    · rwa [x.natAbs_unitSign_mul]
    · rw [x.natAbs_unitSign_mul]
      exact hge.symm
    · exact Int.emod_eq_zero_of_dvd (Dvd.dvd.mul_left (by omega) _)
  · refine ⟨x.unitSign * 2 ^ f.mw, f.unit x + 1, ⟨?_, ?_, by omega, .inl ?_⟩, fun _ => ?_⟩
    · rw [zpow_add₀ two_ne_zero, pow_succ]
      push_cast
      ring
    · rw [x.natAbs_unitSign_mul]
      rw [Int.natAbs_pow]
      exact Nat.pow_lt_pow_right one_lt_two (Nat.lt_succ_self _)
    · rw [x.natAbs_unitSign_mul]
      simp [Int.natAbs_pow]
    · exact Int.emod_eq_zero_of_dvd (Dvd.dvd.mul_left (dvd_pow_self 2 hmw) _)

/-- The code of a rounded value stands for it. -/
theorem magQ_roundCode {f : FFmt} {x : DyVal} (rm : Nat) (hx : x.mag ≠ 0) :
    f.magQ (roundCode f rm x false).1 = x.rounded rm (f.unit x) * (2 : ℚ) ^ f.unit x := by
  obtain ⟨hle, hge⟩ := rounded_bounds (f := f) rm hx
  have hcode : (roundCode f rm x false).1 = (f.unit x - f.qmin).toNat * 2 ^ f.mw + x.rounded rm (f.unit x) := rfl
  have hunit : f.qmin ≤ f.unit x := le_max_right ..
  rw [hcode, magQ_eq f hle (hge.imp (by omega) id)]
  congr 2
  omega

end Sys2Proof.Machine
end

section
/-! PROOFS. Results and conversions are the exact value rounded once (08 R164 to R167, 09 R182, R183). -/

namespace Sys2Proof.Machine

open Claims

/-! ## The value that a rounded code stands for -/

/-- A value rounded into a format whose exponent reaches upward without end. -/
def FFmt.roundQ (f : FFmt) (rm : Nat) (x : DyVal) : ℚ := x.sign * f.magQ (roundCode f rm x false).1

section
variable {f : FFmt} {x : DyVal} (rm : Nat)

theorem magQ_nonneg (f : FFmt) (mc : Nat) : 0 ≤ f.magQ mc := by
  simp only [FFmt.magQ, dyadic, magValue_neg, Bool.false_eq_true, if_false, one_mul]
  positivity

theorem abs_roundQ : |f.roundQ rm x| = f.magQ (roundCode f rm x false).1 := by
  rw [FFmt.roundQ, abs_mul, x.abs_sign, one_mul, abs_of_nonneg (magQ_nonneg f _)]

variable (hx : x.mag ≠ 0)
include hx

theorem roundQ_eq_rounded : f.roundQ rm x = x.sign * x.rounded rm (f.unit x) * (2 : ℚ) ^ f.unit x := by
  rw [FFmt.roundQ, magQ_roundCode rm hx, mul_assoc]

theorem roundCode_inexact_iff : (roundCode f rm x false).2.1 = true ↔ f.roundQ rm x ≠ dyadic x := by
  rw [roundQ_eq_rounded rm hx, ← rounded_inexact_iff]
  rfl

/-- A value rounded once is the neighbour in the format that the mode picks. -/
theorem picked_roundQ (hmw : f.mw ≠ 0) : ∃ m k, InFormat f (f.roundQ rm x) m k ∧ Picked f rm (dyadic x) (f.roundQ rm x) m := by
  obtain ⟨m, k, hm, heven⟩ := inFormat_rounded (f := f) rm hmw hx
  rw [← roundQ_eq_rounded rm hx] at hm
  refine ⟨m, k, hm, fun u n j hu => ?_⟩
  have hpicks := (picks_rounded x rm (f.unit x) (inFormat_gap hx hu)).imp heven
  have hcancel : x.sign * (x.sign * u / 2 ^ f.unit x) * (2 : ℚ) ^ f.unit x = u := by
    rw [mul_div_assoc', div_mul_cancel₀ _ (zpow_ne_zero _ two_ne_zero), ← mul_assoc, x.sign_mul_sign, one_mul]
  rw [← roundQ_eq_rounded rm hx, hcancel] at hpicks
  exact hpicks
end

/-! ## Codes of the standard formats (08 R156) -/

/-- The formats whose results are rounded in this way: with a sign, infinities, and a mantissa and an exponent of at least one bit. -/
structure FFmt.Standard (f : FFmt) : Prop where
  sgn : f.sgn = true
  pol : f.pol = .ieee
  mw : f.mw ≠ 0
  ew : f.ew ≠ 0

theorem standard_of_mem {f : FFmt} (hf : f ∈ [FFmt.bf16, FFmt.f16, FFmt.f32]) : f.Standard := by
  simp only [List.mem_cons, List.not_mem_nil, or_false] at hf
  obtain rfl | rfl | rfl := hf <;> exact ⟨rfl, rfl, by decide, by decide⟩

section
variable {f : FFmt} (hf : f.Standard)
include hf

theorem FFmt.Standard.signed_eq (neg : Bool) (mc : Nat) : f.signed neg mc = mc + if neg then f.signBit else 0 := by
  rw [FFmt.signed, hf.sgn, Bool.and_true]

theorem FFmt.Standard.maxMag_lt : f.maxMag < (2 ^ f.ew - 1) * 2 ^ f.mw := by
  have hew : 1 < 2 ^ f.ew := Nat.one_lt_two_pow hf.ew
  have hpos : 0 < (2 ^ f.ew - 1) * 2 ^ f.mw := by
    have := Nat.two_pow_pos f.mw
    exact Nat.mul_pos (by omega) this
  rw [FFmt.maxMag, hf.pol]
  exact Nat.sub_lt hpos one_pos

/-- A magnitude code up to the largest finite value, with a sign, decodes to its value. -/
theorem FFmt.Standard.decode_signed {neg : Bool} {mc : Nat} (hmc : mc ≤ f.maxMag) :
    f.decode (f.signed neg mc) = .fin (f.magValue neg mc) := by
  have htop := hmc.trans_lt hf.maxMag_lt
  have hexp : mc / 2 ^ f.mw ≠ 2 ^ f.ew - 1 := ((Nat.div_lt_iff_lt_mul (by positivity)).2 htop).ne
  have hsign : mc < f.signBit := by
    rw [FFmt.signBit, pow_add]
    exact htop.trans_le (Nat.mul_le_mul_right _ (Nat.sub_le ..))
  have hwidth : 2 ^ f.width = 2 * f.signBit := by
    rw [FFmt.width, hf.sgn, FFmt.signBit]
    exact pow_succ' ..
  have hcode : f.signed neg mc % 2 ^ f.width = f.signed neg mc := by
    rw [hwidth, hf.signed_eq]
    refine Nat.mod_eq_of_lt ?_
    split <;> omega
  have hmag : f.signed neg mc % f.signBit = mc := by
    rw [hf.signed_eq]
    split <;> simp [Nat.mod_eq_of_lt hsign]
  have hneg : (f.signed neg mc / f.signBit % 2 == 1) = neg := by
    have hpos : 0 < f.signBit := Nat.two_pow_pos _
    rw [hf.signed_eq]
    cases neg <;> simp [Nat.div_eq_of_lt hsign, Nat.add_div_right _ hpos]
  simp only [FFmt.decode, hf.pol, hf.sgn, hcode, hmag, hneg, Bool.true_and, beq_iff_eq, hexp, if_false]
end

/-! ## Results of arithmetic (08 R164 to R166) -/

theorem toInfinity_eq_overflowsToInf {rm : Nat} {x : DyVal} (hrm : rm ≤ 4) (hx : dyadic x ≠ 0) :
    toInfinity rm (dyadic x) = overflowsToInf rm x.neg := by
  have hpos : decide (0 < dyadic x) = !x.neg := by
    rw [x.neg_eq_decide hx, ← decide_not, decide_eq_decide, not_lt, hx.symm.le_iff_lt]
  rw [toInfinity, ← x.neg_eq_decide hx, hpos]
  match rm with
  | 0 | 1 | 2 | 3 | 4 => simp [overflowsToInf]
  | rm + 5 => omega

/-- `r` holds the finite value `v`, rounded from `e`, and the flags say whether that is exact. -/
def FiniteResult (f : FFmt) (e v : ℚ) (r : FRes) : Prop :=
  (∃ y, f.decode r.code = .fin y ∧ dyadic y = v ∧ y.neg = decide (e < 0)) ∧
    (r.flags &&& flNX ≠ 0 ↔ v ≠ e) ∧ r.flags &&& ~~~(flNX ||| flUF) = 0

theorem flags_of_rounded (tiny ix : Bool) :
    ((flagIf (tiny && ix) flUF ||| flagIf ix flNX) &&& flNX ≠ 0 ↔ ix = true) ∧
    (flagIf (tiny && ix) flUF ||| flagIf ix flNX) &&& ~~~(flNX ||| flUF) = 0 := by
  revert tiny ix
  decide

section
variable {f : FFmt} (hf : f.Standard) {rm : Nat} {x : DyVal} (hx : x.mag ≠ 0)
include hf hx

/-- The code of a rounded value up to the largest finite one, with the flags of R168. -/
theorem finiteResult_of_roundCode (hfin : (roundCode f rm x false).1 ≤ f.maxMag) :
    FiniteResult f (dyadic x) (f.roundQ rm x) ⟨f.signed x.neg (roundCode f rm x false).1,
      flagIf ((roundCode f rm x false).2.2 && (roundCode f rm x false).2.1) flUF ||| flagIf (roundCode f rm x false).2.1 flNX⟩ := by
  have hx' : dyadic x ≠ 0 := mt (dyadic_eq_zero_iff x).1 hx
  obtain ⟨hNX, hothers⟩ := flags_of_rounded (roundCode f rm x false).2.2 (roundCode f rm x false).2.1
  refine ⟨⟨_, hf.decode_signed hfin, dyadic_magValue f _ _, ?_⟩, hNX.trans (roundCode_inexact_iff rm hx), hothers⟩
  rw [← x.neg_eq_decide hx', magValue_neg]

omit hf hx in
theorem maxMag_lt_roundCode_iff :
    dyadic (f.magValue false f.maxMag) < |f.roundQ rm x| ↔ f.maxMag < (roundCode f rm x false).1 := by
  rw [abs_roundQ]
  exact (magQ_strictMono f).lt_iff_lt
end

section
variable {f : FFmt} {rm : Nat} {x : DyVal}

theorem roundArith_of_mag_eq_zero (hx : x.mag = 0) : roundArith f rm x = ⟨f.signed x.neg 0, 0⟩ :=
  if_pos (by simpa using hx)

theorem roundArith_of_overflow (hx : x.mag ≠ 0) (hover : f.maxMag < (roundCode f rm x false).1) :
    roundArith f rm x = ⟨if overflowsToInf rm x.neg then f.infCode x.neg else f.maxCode x.neg, flOF ||| flNX⟩ :=
  (if_neg (by simpa using hx)).trans (if_pos hover)

theorem roundArith_of_fits (hx : x.mag ≠ 0) (hfits : (roundCode f rm x false).1 ≤ f.maxMag) :
    roundArith f rm x = ⟨f.signed x.neg (roundCode f rm x false).1,
      flagIf ((roundCode f rm x false).2.2 && (roundCode f rm x false).2.1) flUF ||| flagIf (roundCode f rm x false).2.1 flNX⟩ :=
  (if_neg (by simpa using hx)).trans (if_neg hfits.not_gt)
end

/-- What an arithmetic word makes of an exact value is that value rounded once. -/
theorem roundArith_roundedOnce {f : FFmt} (hf : f.Standard) {rm : Nat} (hrm : rm ≤ 4) {x : DyVal} {zeroNeg : Bool}
    (hzero : x.mag = 0 → x.neg = zeroNeg) : RoundedOnce f rm (dyadic x) zeroNeg (roundArith f rm x) := by
  constructor
  · intro he
    have hx := (dyadic_eq_zero_iff x).1 he
    rw [roundArith_of_mag_eq_zero hx, hf.signed_eq, zero_add, hzero hx]
  · intro he
    have hx : x.mag ≠ 0 := mt (dyadic_eq_zero_iff x).2 he
    obtain ⟨m, k, hm, hpicked⟩ := picked_roundQ (f := f) rm hx hf.mw
    refine ⟨f.roundQ rm x, m, k, hm, hpicked, ?_⟩
    split
    · next hover =>
      rw [roundArith_of_overflow hx (maxMag_lt_roundCode_iff.1 hover), toInfinity_eq_overflowsToInf hrm he, ← x.neg_eq_decide he]
    · next hfits =>
      have hfits' := not_lt.1 (mt maxMag_lt_roundCode_iff.2 hfits)
      rw [roundArith_of_fits hx hfits']
      exact finiteResult_of_roundCode hf hx hfits'

theorem sumsAndProductsRoundOnce : SumsAndProductsRoundOnce := by
  intro f rm a b c x y z hmem hrm ha hb hc X Y Z
  have hf := standard_of_mem hmem
  have hadd : fAdd f rm a b = roundArith f rm (addDy rm x y) := by
    simp [fAdd, ha, hb, addNum, arithResult]
  have hmul : fMul f rm a b = roundArith f rm (mulDy x y) := by
    simp [fMul, ha, hb, mulNum, arithResult]
  have hfma : fMulAdd f rm a b c false = roundArith f rm (addDy rm (mulDy x y) z) := by
    simp [fMulAdd, ha, hb, hc, mulNum, addNum, arithResult]
  rw [hadd, hmul, hfma, ← dyadic_addDy x y rm, ← dyadic_mulDy, ← dyadic_addDy _ z rm]
  exact ⟨roundArith_roundedOnce hf hrm (addDy_neg_of_zero x y rm), roundArith_roundedOnce hf hrm fun _ => rfl,
    roundArith_roundedOnce hf hrm (addDy_neg_of_zero (mulDy x y) z rm)⟩

end Sys2Proof.Machine
end

section
/-! PROOFS. Conversions of a finite value (08 R164 to R167, 09 R183) and the scalar floating words (09 R182, R183). -/

namespace Sys2Proof.Machine

open Claims

/-! ## Past the largest finite value (08 R166, log 28) -/

section
variable {rm : Nat} {x : DyVal} {q : Int}

/-- A mode that stays at the largest finite value rounds toward zero. -/
theorem rounded_of_not_overflowsToInf (h : overflowsToInf rm x.neg = false) :
    x.rounded rm q = x.unitsNum q / x.unitsDen q := by
  rw [rounded_eq_roundQuot]
  match rm with
  | 0 | _ + 4 => simp [overflowsToInf] at h
  | 1 => cases x.neg <;> rfl
  | 2 =>
    have hneg : x.neg = false := h
    simp [hneg, mirror, roundQuot, roundsUp]
  | 3 =>
    have hneg : x.neg = true := by simpa [overflowsToInf] using h
    simp [hneg, mirror, roundQuot, roundsUp]

/-- The mode that takes a value away from zero. -/
def DyVal.awayMode (x : DyVal) : Nat := if x.neg then 2 else 3

theorem rounded_awayMode : x.rounded x.awayMode q =
    x.unitsNum q / x.unitsDen q + if x.unitsNum q % x.unitsDen q != 0 then 1 else 0 := by
  rw [rounded_eq_roundQuot, DyVal.awayMode, roundQuot]
  cases x.neg <;> simp [mirror, roundsUp]
end

section
variable {f : FFmt} {rm : Nat} {x : DyVal} (hx : x.mag ≠ 0) (h : overflowsToInf rm x.neg = false)
include h

/-- Where the mode rounds toward zero and something is discarded, rounding away from zero gives the next code. -/
theorem roundCode_awayMode (hix : (roundCode f rm x false).2.1 = true) :
    (roundCode f x.awayMode x false).1 = (roundCode f rm x false).1 + 1 := by
  have hdiscarded : (x.unitsNum (f.unit x) % x.unitsDen (f.unit x) != 0) = true := by
    have hsnd := congrArg Prod.snd (roundMag_eq_roundQuot rm x.neg x.mag x.exp (f.unit x))
    exact hsnd.symm.trans hix
  have hcode (rm' : Nat) : (roundCode f rm' x false).1 = (f.unit x - f.qmin).toNat * 2 ^ f.mw + x.rounded rm' (f.unit x) := rfl
  rw [hcode, hcode, rounded_awayMode, rounded_of_not_overflowsToInf h, hdiscarded, if_pos rfl, add_assoc]

include hx

theorem magQ_roundCode_le_abs : f.magQ (roundCode f rm x false).1 ≤ |dyadic x| := by
  rw [magQ_roundCode rm hx, rounded_of_not_overflowsToInf h, abs_dyadic_eq_units x (f.unit x)]
  have hdiv : ((x.unitsNum (f.unit x) / x.unitsDen (f.unit x) : Nat) : ℚ) ≤ x.unitsNum (f.unit x) / x.unitsDen (f.unit x) :=
    Nat.cast_div_le
  gcongr

omit h in
/-- A value is at most the one to which it is rounded away from zero. -/
theorem abs_le_magQ_awayMode : |dyadic x| ≤ f.magQ (roundCode f x.awayMode x false).1 := by
  rw [magQ_roundCode x.awayMode hx, rounded_awayMode, abs_dyadic_eq_units x (f.unit x)]
  have hden := x.unitsDen_pos (f.unit x)
  generalize x.unitsNum (f.unit x) = m, x.unitsDen (f.unit x) = u at *
  gcongr
  rw [div_le_iff₀ (Nat.cast_pos.2 hden)]
  norm_cast
  have hdiv := Nat.div_add_mod' m u
  have hlt := Nat.mod_lt m hden
  rw [add_mul]
  split
  · omega
  · next hr =>
    have hr' : m % u = 0 := by simpa using hr
    omega

/-- The model's test for a value past the largest finite one that is rounded back to it. -/
theorem past_iff (hfits : (roundCode f rm x false).1 ≤ f.maxMag) :
    ((roundCode f rm x false).2.1 = true ∧ (roundCode f rm x false).1 = f.maxMag) ↔ f.magQ f.maxMag < |dyadic x| := by
  have hexact (habs : |dyadic x| = f.magQ (roundCode f rm x false).1) : f.roundQ rm x = dyadic x := by
    rw [FFmt.roundQ, ← habs, ← dyadic_eq_sign_mul_abs]
  constructor
  · rintro ⟨hix, hcode⟩
    rw [← hcode]
    exact lt_of_le_of_ne (magQ_roundCode_le_abs hx h) fun habs => (roundCode_inexact_iff rm hx).1 hix (hexact habs.symm)
  · intro hpast
    have hix : (roundCode f rm x false).2.1 = true := by
      rw [roundCode_inexact_iff rm hx]
      intro heq
      rw [← heq, abs_roundQ] at hpast
      exact hpast.not_ge ((magQ_strictMono f).monotone hfits)
    have hnext := hpast.trans_le (abs_le_magQ_awayMode (f := f) hx)
    rw [roundCode_awayMode h hix, (magQ_strictMono f).lt_iff_lt] at hnext
    exact ⟨hix, by omega⟩
end

/-! ## Conversions to a standard format (08 R164 to R166) -/

/-- What a conversion makes of a value past the largest finite one. -/
def overflowResult (f : FFmt) (rm : Nat) (sat neg : Bool) : FRes :=
  if sat then ⟨f.maxCode neg, flSAT ||| flNX⟩
  else ⟨if overflowsToInf rm neg then f.infCode neg else f.maxCode neg, flOF ||| flNX⟩

section
variable {f : FFmt} (hf : f.Standard) {rm : Nat} {sat : Bool} {x : DyVal}
include hf

theorem convertTo_of_mag_eq_zero (hx : x.mag = 0) : convertTo f rm sat (.fin x) = ⟨if x.neg then f.signBit else 0, 0⟩ := by
  rw [convertTo, if_pos (by simpa using hx), hf.signed_eq, zero_add]

variable (hx : x.mag ≠ 0)
include hx

theorem convertTo_of_overflow (hover : f.maxMag < (roundCode f rm x false).1) :
    convertTo f rm sat (.fin x) = overflowResult f rm sat x.neg := by
  rw [convertTo, if_neg (by simpa using hx), if_neg (by simp [hf.sgn])]
  dsimp only
  rw [if_pos hover, hf.pol, overflowResult]
  cases sat <;> cases overflowsToInf rm x.neg <;> rfl

theorem convertTo_of_past (hfits : (roundCode f rm x false).1 ≤ f.maxMag) (h : overflowsToInf rm x.neg = false)
    (hpast : f.magQ f.maxMag < |dyadic x|) : convertTo f rm sat (.fin x) = overflowResult f rm sat x.neg := by
  obtain ⟨hix, hcode⟩ := (past_iff hx h hfits).2 hpast
  have haway : f.maxMag < (roundCode f (if x.neg then 2 else 3) x false).1 := by
    rw [← DyVal.awayMode, roundCode_awayMode h hix, hcode]
    exact Nat.lt_succ_self _
  rw [convertTo, if_neg (by simpa using hx), if_neg (by simp [hf.sgn])]
  dsimp only
  rw [if_neg hfits.not_gt, if_pos (by simp [hix, hcode, h, haway]), overflowResult, h]
  cases sat <;> rfl

theorem convertTo_of_fits (hfits : (roundCode f rm x false).1 ≤ f.maxMag)
    (hnot : ¬ (f.magQ f.maxMag < |dyadic x| ∧ overflowsToInf rm x.neg = false)) :
    convertTo f rm sat (.fin x) = ⟨f.signed x.neg (roundCode f rm x false).1,
      flagIf ((roundCode f rm x false).2.2 && (roundCode f rm x false).2.1) flUF ||| flagIf (roundCode f rm x false).2.1 flNX⟩ := by
  rw [convertTo, if_neg (by simpa using hx), if_neg (by simp [hf.sgn])]
  dsimp only
  rw [if_neg hfits.not_gt, if_neg]
  simp only [Bool.and_eq_true, beq_iff_eq, Bool.not_eq_true']
  rintro ⟨⟨⟨hix, hcode⟩, h⟩, -⟩
  exact hnot ⟨(past_iff hx h hfits).1 ⟨hix, hcode⟩, h⟩
end

theorem convertTo_roundsOnce {f : FFmt} (hf : f.Standard) {rm : Nat} (hrm : rm ≤ 4) (sat : Bool) {x : DyVal} (he : dyadic x ≠ 0) :
    if dyadic (f.magValue false f.maxMag) < |f.roundQ rm x| ∨
        (dyadic (f.magValue false f.maxMag) < |dyadic x| ∧ toInfinity rm (dyadic x) = false) then
      convertTo f rm sat (.fin x) = overflowResult f rm sat x.neg
    else FiniteResult f (dyadic x) (f.roundQ rm x) (convertTo f rm sat (.fin x)) := by
  have hx : x.mag ≠ 0 := mt (dyadic_eq_zero_iff x).2 he
  rw [toInfinity_eq_overflowsToInf hrm he]
  by_cases hover : f.maxMag < (roundCode f rm x false).1
  · rw [if_pos (.inl (maxMag_lt_roundCode_iff.2 hover)), convertTo_of_overflow hf hx hover]
  · have hfits := not_lt.1 hover
    split
    · next hpast =>
      obtain ⟨habs, hinf⟩ := hpast.resolve_left (mt maxMag_lt_roundCode_iff.1 hover)
      exact convertTo_of_past hf hx hfits hinf habs
    · next hnot =>
      rw [convertTo_of_fits hf hx hfits fun h => hnot (.inr h)]
      exact finiteResult_of_roundCode hf hx hfits

/-! ## Conversions to an integer type (08 R165, R167) -/

section
variable (rm : Nat) (x : DyVal)

theorem roundInt_eq : roundInt rm x = (x.unitSign * x.rounded rm 0, (roundMag rm x.neg x.mag x.exp 0 false).2) := by
  rw [roundInt, DyVal.unitSign, DyVal.rounded]
  cases x.neg <;> simp

/-- The mode picks the rounded integer over every other. -/
theorem picks_roundInt (u : Int) : Picks rm (dyadic x) (roundInt rm x).1 u ((roundInt rm x).1 % 2 = 0) := by
  have hgap := int_gap (x.unitsNum 0 / x.unitsDen 0 : Nat) (x.unitSign * u)
  have hpicks := picks_rounded x rm 0 hgap
  have hcancel : x.sign * (x.unitSign * u : Int) = u := by
    rw [Int.cast_mul, ← x.sign_eq_unitSign, ← mul_assoc, x.sign_mul_sign, one_mul]
  rw [zpow_zero, mul_one, mul_one, hcancel] at hpicks
  have hvalue : ((roundInt rm x).1 : ℚ) = x.sign * x.rounded rm 0 := by
    rw [roundInt_eq, x.sign_eq_unitSign]
    push_cast
    rfl
  rw [hvalue]
  refine hpicks.imp fun heven => ?_
  rw [roundInt_eq]
  exact Int.emod_eq_zero_of_dvd (Dvd.dvd.mul_left (by omega) _)

theorem roundInt_inexact_iff : (roundInt rm x).2 = true ↔ ((roundInt rm x).1 : ℚ) ≠ dyadic x := by
  have hinexact := rounded_inexact_iff x rm 0
  rw [zpow_zero, mul_one, x.sign_eq_unitSign] at hinexact
  rw [roundInt_eq, hinexact]
  push_cast
  rfl

theorem intMin_le_intMax (sg : Bool) (w : Nat) : intMin sg w ≤ intMax sg w := by
  have hhalf := Nat.two_pow_pos (w - 1)
  have hfull := Nat.two_pow_pos w
  cases sg
  · rw [intMin, intMax, if_neg Bool.false_ne_true, if_neg Bool.false_ne_true]
    omega
  · rw [intMin, intMax, if_pos rfl, if_pos rfl]
    omega

theorem clampInt_of_lt {sg : Bool} {w : Nat} {v : Int} (h : v < intMin sg w) : clampInt sg w v = intMin sg w :=
  max_eq_left ((min_le_right ..).trans h.le)

theorem clampInt_of_gt {sg : Bool} {w : Nat} {v : Int} (h : intMax sg w < v) : clampInt sg w v = intMax sg w := by
  rw [clampInt, min_eq_left h.le, max_eq_right (intMin_le_intMax sg w)]

theorem floatToInt_eq (sg : Bool) (w : Nat) : floatToInt rm sg w (.fin x) =
    if (roundInt rm x).1 < intMin sg w then ⟨intCode w (intMin sg w), flNV⟩
    else if intMax sg w < (roundInt rm x).1 then ⟨intCode w (intMax sg w), flNV⟩
    else ⟨intCode w (roundInt rm x).1, if ((roundInt rm x).1 : ℚ) = dyadic x then 0 else flNX⟩ := by
  have hflag : flagIf (roundInt rm x).2 flNX = if ((roundInt rm x).1 : ℚ) = dyadic x then 0 else flNX := by
    rw [flagIf, ← ite_not]
    exact if_congr (by rw [roundInt_inexact_iff, ne_eq, not_not]) rfl rfl
  simp only [floatToInt, Bool.or_eq_true, decide_eq_true_eq, hflag]
  by_cases hlow : (roundInt rm x).1 < intMin sg w
  · rw [if_pos (.inl hlow), if_pos hlow, clampInt_of_lt hlow]
  by_cases hhigh : intMax sg w < (roundInt rm x).1
  · rw [if_pos (.inr hhigh), if_neg hlow, if_pos hhigh, clampInt_of_gt hhigh]
  · rw [if_neg (not_or.2 ⟨hlow, hhigh⟩), if_neg hlow, if_neg hhigh]
end

theorem conversionsRoundOnce : ConversionsRoundOnce := by
  intro f rm sat x hmem hrm e top inf r
  have hf := standard_of_mem hmem
  refine ⟨fun he => convertTo_of_mag_eq_zero hf ((dyadic_eq_zero_iff x).1 he), fun he => ?_, fun sg w hw => ?_⟩
  · have hx : x.mag ≠ 0 := mt (dyadic_eq_zero_iff x).2 he
    obtain ⟨m, k, hm, hpicked⟩ := picked_roundQ (f := f) rm hx hf.mw
    refine ⟨f.roundQ rm x, m, k, hm, hpicked, ?_⟩
    have hresult := convertTo_roundsOnce hf hrm sat he
    rw [overflowResult, ← toInfinity_eq_overflowsToInf hrm he, x.neg_eq_decide he] at hresult
    exact hresult
  · refine ⟨(roundInt rm x).1, fun u => ?_, floatToInt_eq rm x sg w⟩
    have hpicks := picks_roundInt rm x u
    unfold Picks at hpicks
    match rm with
    | 1 => exact hpicks
    | 0 | 2 | 3 | rm + 4 => exact_mod_cast hpicks

/-- The scalar floating words compute what the model's operations give, in XMODE.RM as it stands at issue (09 R182, R183). -/
theorem scalarFloatResults : ScalarFloatResults := by
  have hfmt (w : SSS) : (bits w.imm 0 4).toNat = w.imm.toNat % 16 := bits_zero_toNat w.imm 4
  have htype (w : SSS) : (bits w.imm 4 4).toNat = w.imm.toNat / 16 % 16 := bits_toNat w.imm 4 4
  refine ⟨fun s w ha hb h => ?_, fun s w ha hb h => ?_, fun s w ha hb hd h => ?_, fun s w ha h => ?_⟩
  · have hexec : exec (.sfadd w) s = execSfadd w s := rfl
    rw [hexec, execSfadd, sfWord, scalarWord_issues (by simpa using ⟨needS_eq_none ha, needS_eq_none hb⟩) h, hfmt]
    rfl
  · have hexec : exec (.sfmul w) s = execSfmul w s := rfl
    rw [hexec, execSfmul, sfWord, scalarWord_issues (by simpa using ⟨needS_eq_none ha, needS_eq_none hb⟩) h, hfmt]
    rfl
  · have hexec : exec (.sfma w) s = execSfma w s := rfl
    rw [hexec, execSfma, sfWord,
      scalarWord_issues (by simpa using ⟨needS_eq_none ha, needS_eq_none hb, needS_eq_none hd⟩) h, hfmt]
    rfl
  · have hexec : exec (.sfcvt w) s = execSfcvt w s := rfl
    rw [hexec, execSfcvt, hfmt, htype, scalarWord_issues (by simpa using needS_eq_none ha) h]

/-- Settles O3: the words hand their operands to the model's operations, and those round the exact result once. -/
theorem scalarFloatResultsAndRounding : Obligations.ScalarFloatResultsAndRounding :=
  ⟨scalarFloatResults, roundingToAMultiple, sumsAndProductsRoundOnce, conversionsRoundOnce⟩

end Sys2Proof.Machine
end

section
/-! PROOFS. Vector words that compute lane by lane (10 R196, R199): what one of them lands, and the shapes of its claim. -/

namespace Sys2Proof.Machine

open Claims

/-! ## The lanes of one, two and three entries (10 R196) -/

theorem lanes1_eq (w : Nat) (f : Nat → FRes) (a : Entry) :
    lanes1 w f a = (List.range (1024 / w)).map (fun j => f (elem a w j)) := by
  rw [lanes1, elems, List.map_map]
  rfl

theorem lanes2_eq (w : Nat) (f : Nat → Nat → FRes) (a b : Entry) :
    lanes2 w f a b = (List.range (1024 / w)).map (fun j => f (elem a w j) (elem b w j)) := by
  rw [lanes2, elems, elems, List.zipWith_map, List.zipWith_self]

theorem lanes3_eq (w : Nat) (f : Nat → Nat → Nat → FRes) (a b c : Entry) :
    lanes3 w f a b c = (List.range (1024 / w)).map (fun j => f (elem a w j) (elem b w j) (elem c w j)) := by
  rw [lanes3, elems, elems, elems, List.zipWith_map, List.zipWith_self, List.zipWith_map, List.zipWith_self]

/-! ## Flags gathered over lanes (08 R169) -/

@[simp] theorem gatherFlags_nil : gatherFlags [] = 0 := rfl

@[simp] theorem gatherFlags_cons (r : FRes) (rs : List FRes) : gatherFlags (r :: rs) = r.flags ||| gatherFlags rs := by
  have hzero (a : Flags) : 0 ||| a = a := BitVec.zero_or
  have hfrom (a : Flags) : rs.foldl (fun acc r => acc ||| r.flags) a = a ||| gatherFlags rs := by
    unfold gatherFlags
    induction rs generalizing a with
    | nil => simp
    | cons r' t ih => rw [List.foldl_cons, List.foldl_cons, ih, ih (0 ||| r'.flags), hzero, BitVec.or_assoc]
  rw [gatherFlags, List.foldl_cons, hfrom, hzero]

theorem gatherFlags_of_no_flag {rs : List FRes} (h : ∀ r ∈ rs, r.flags = 0) : gatherFlags rs = 0 := by
  induction rs with
  | nil => rfl
  | cons r t ih =>
    rw [gatherFlags_cons, h r List.mem_cons_self, ih fun r' hr' => h r' (List.mem_cons_of_mem r hr')]
    rfl

theorem gatherFlags_congr {α : Type} {l : List α} {f g : α → FRes} (h : ∀ a, (f a).flags = (g a).flags) :
    gatherFlags (l.map f) = gatherFlags (l.map g) := by
  simp only [gatherFlags, List.foldl_map, h]

/-- Lanes that can set one flag only set it together when one of them does. -/
theorem gatherFlags_map_flagIf {α : Type} {l : List α} {g : α → FRes} {p : α → Bool} {fl : Flags}
    (h : ∀ a, (g a).flags = flagIf (p a) fl) :
    gatherFlags (l.map g) = flagIf (l.any p) fl := by
  induction l with
  | nil => rfl
  | cons a t ih =>
    rw [List.map_cons, gatherFlags_cons, ih, h, List.any_cons]
    cases p a <;> cases t.any p <;> simp [flagIf]

/-! ## Words of a lane operation -/

/-- The lanes of a result that `res` makes of type, mode and the lanes of the operands `v`. -/
def laneResults (res : Nat → Nat → (Nat → Nat) → FRes) (ty : Nat) (h : Hand) (v : Nat → Entry) : List FRes :=
  (List.range (1024 / tw ty)).map (fun j => res ty h.xrm (fun k => elem (v k) (tw ty) j))

/-- A VVV word that makes each lane of the entry it pushes by the lane operation `res`. -/
def ComputesLanes (i : VVV → Instr) (os : VVV → List Opnd) (lat : Nat) (res : Nat → Nat → (Nat → Nat) → FRes) : Prop :=
  ∀ (s : State) (w : VVV), Sources s .x (os w) [w.d.toNat] → MayIssue s .x (i w) w.hdr →
    exec (i w) s = s.lands .x w.hdr (s.took .x w.hdr (os w))
      [.queue w.d.toNat (mkEntry (tw w.ty.toNat) ((laneResults res w.ty.toNat s.hand (operand s .x (os w))).map FRes.code))]
      (gatherFlags (laneResults res w.ty.toNat s.hand (operand s .x (os w)))) lat

section
variable {i : VVV → Instr} {lat : Nat}

theorem computesLanes_of_vec1 (word : VVV → State → Out) {g : Nat → Nat → Nat → FRes}
    (hexec : ∀ w s, exec (i w) s = word w s) (hword : ∀ w s, word w s = vec1 (i w) w lat g s) :
    ComputesLanes i sources1 lat (fun ty rm v => g ty rm (v 0)) := by
  intro s w hsrc h
  refine (hexec w s).trans ((hword w s).trans ((runWord_of_queueMeaning rfl hsrc rfl h).trans ?_))
  rw [v0, opValues_headD, lanes1_eq]
  rfl

theorem computesLanes_of_vec2 (word : VVV → State → Out) {g : Nat → Nat → Nat → Nat → FRes}
    (hexec : ∀ w s, exec (i w) s = word w s) (hword : ∀ w s, word w s = vec2 (i w) w lat g s) :
    ComputesLanes i sources2 lat (fun ty rm v => g ty rm (v 0) (v 1)) := by
  intro s w hsrc h
  refine (hexec w s).trans ((hword w s).trans ((runWord_of_queueMeaning rfl hsrc rfl h).trans ?_))
  rw [v0, opValues_headD, lanes2_eq]
  rfl

theorem computesLanes_of_vec3 (word : VVV → State → Out) {g : Nat → Nat → Nat → Nat → Nat → FRes}
    (hexec : ∀ w s, exec (i w) s = word w s) (hword : ∀ w s, word w s = vec3 (i w) w lat g s) :
    ComputesLanes i sources3 lat (fun ty rm v => g ty rm (v 0) (v 1) (v 2)) := by
  intro s w hsrc h
  refine (hexec w s).trans ((hword w s).trans ((runWord_of_queueMeaning rfl hsrc rfl h).trans ?_))
  rw [v0, opValues_headD, lanes3_eq]
  rfl

variable {os : VVV → List Opnd} {res : Nat → Nat → (Nat → Nat) → FRes} (h : ComputesLanes i os lat res)
include h

/-- A word has its claim when its lane operation gives, for each operand lane, the lane claimed, and the flags claimed. -/
theorem ComputesLanes.laneWord_of_flags {f : Nat → Hand → (Nat → Entry) → Nat → Nat}
    {fl : Nat → Hand → (Nat → Entry) → Flags}
    (hflags : ∀ w hand v, (i w).check = none → gatherFlags (laneResults res w.ty.toNat hand v) = fl w.ty.toNat hand v)
    (hlane : ∀ w (hand : Hand) v j, (i w).check = none →
      (res w.ty.toNat hand.xrm (fun k => elem (v k) (tw w.ty.toNat) j)).code % 2 ^ tw w.ty.toNat = f w.ty.toNat hand v j) :
    LaneWord i os lat f fl := by
  intro s w hsrc hmay
  have hlands := h s w hsrc hmay
  rw [hflags w _ _ hmay.1] at hlands
  refine ⟨_, hlands, fun j hj => ?_⟩
  rw [laneResults, List.map_map, elem_mkEntry_map _ hj]
  exact hlane w _ _ j hmay.1

/-- A word whose lane operation sets no flag has its claim when each lane, cut to its width, is the one claimed. -/
theorem ComputesLanes.laneWord {f : Nat → Hand → (Nat → Entry) → Nat → Nat} (hflags : ∀ ty rm v, (res ty rm v).flags = 0)
    (hlane : ∀ ty (hand : Hand) v j, (res ty hand.xrm (fun k => elem (v k) (tw ty) j)).code % 2 ^ tw ty = f ty hand v j) :
    LaneWord i os lat f :=
  h.laneWord_of_flags (fun w hand v _ => gatherFlags_of_no_flag (by simp [laneResults, hflags])) fun w hand v j _ => hlane ..

/-- A floating word has its claim when its lane operation is the one claimed, and gives codes of the type's width. -/
theorem ComputesLanes.floatWord {f : FFmt → Nat → (Nat → Nat) → FRes} (htype : ∀ w, (i w).check = none → isF w.ty.toNat = true)
    (hres : ∀ ty rm v, isF ty = true → (∀ k, v k < 2 ^ tw ty) →
      res ty rm v = f (FFmt.ofType ty) rm v ∧ (f (FFmt.ofType ty) rm v).code < 2 ^ tw ty) :
    FloatWord i os lat f := by
  have hlane (w : VVV) (hand : Hand) (v : Nat → Entry) (j : Nat) (hc : (i w).check = none) :=
    hres w.ty.toNat hand.xrm (fun k => elem (v k) (tw w.ty.toNat) j) (htype w hc) fun k => elem_lt ..
  unfold FloatWord
  refine h.laneWord_of_flags (fun w hand v hc => ?_) fun w hand v j hc => ?_
  · exact congrArg gatherFlags (List.map_congr_left fun j _ => (hlane w hand v j hc).1)
  · obtain ⟨heq, hlt⟩ := hlane w hand v j hc
    rw [heq, Nat.mod_eq_of_lt hlt]
end

end Sys2Proof.Machine
end

section
/-! PROOFS. The integer and bitwise vector words (10 R200). -/

namespace Sys2Proof.Machine

open Claims

/-! ## Codes of integers (08 R158) -/

theorem intCode_eq (w : Nat) (v : Int) : intCode w v = (v % (2 : Int) ^ w).toNat := by
  rw [intCode, Nat.cast_pow, Nat.cast_two]

theorem intCode_lt (w : Nat) (v : Int) : intCode w v < 2 ^ w := by
  have hpos : 0 < (2 : Int) ^ w := by positivity
  have hlt := Int.emod_lt_of_pos v hpos
  have hnonneg := Int.emod_nonneg v hpos.ne'
  rw [intCode_eq, Int.toNat_lt hnonneg]
  exact_mod_cast hlt

/-- The code of a value, cut to its width once more, is the value wrapped. -/
theorem intCode_mod (w : Nat) (v : Int) : intCode w v % 2 ^ w = (v % (2 : Int) ^ w).toNat := by
  rw [Nat.mod_eq_of_lt (intCode_lt w v), intCode_eq]

/-! ## Counts of bits (10 R200) -/

theorem popCount_lt (x n : Nat) : popCount x n < 2 ^ n := by
  refine lt_of_le_of_lt ?_ n.lt_two_pow_self
  simpa [popCount] using List.length_filter_le (fun i => x.testBit i) (List.range n)

theorem leadZeros_lt (x n : Nat) : leadZeros x n < 2 ^ n := by
  refine lt_of_le_of_lt ?_ n.lt_two_pow_self
  rw [leadZeros]
  split <;> omega

theorem leadZeros_eq_takeWhile {x n : Nat} (hx : x < 2 ^ n) :
    leadZeros x n = ((List.range n).takeWhile (fun k => !x.testBit (n - 1 - k))).length := by
  rw [← length_takeWhile_not_testBit hx, List.takeWhile_map, List.length_map]
  rfl

/-! ## Integer words -/

theorem integerWord_of_intLane (word : VVV → State → Out) {i : VVV → Instr} {f : Int → Int → Int}
    (hexec : ∀ w s, exec (i w) s = word w s) (hword : ∀ w s, word w s = vec2 (i w) w 2 (intLane f) s) :
    IntegerWord i (fun _ => f) :=
  (computesLanes_of_vec2 word hexec hword).laneWord (fun _ _ _ => rfl) fun ty _ _ _ => intCode_mod (tw ty) _

theorem integerWord_of_clampLane (word : VVV → State → Out) {i : VVV → Instr} {f : Int → Int → Int}
    (hexec : ∀ w s, exec (i w) s = word w s) (hword : ∀ w s, word w s = vec2 (i w) w 2 (clampLane f) s) :
    IntegerWord i (fun ty a b => max (intMin (tySigned ty) (tw ty)) (min (intMax (tySigned ty) (tw ty)) (f a b))) :=
  (computesLanes_of_vec2 word hexec hword).laneWord (fun _ _ _ => rfl) fun ty _ _ _ => intCode_mod (tw ty) _

/-- A shift makes of each lane and its count, taken modulo the width, what `f` gives, cut to the width. -/
theorem laneWord_of_shiftLane (word : VVV → State → Out) {i : VVV → Instr} {f : Nat → Nat → Nat → Nat}
    (hexec : ∀ w s, exec (i w) s = word w s) (hword : ∀ w s, word w s = vec2 (i w) w 2 (shiftLane f) s) :
    LaneWord i sources2 2 (fun ty _ v j => f (tw ty) (elem (v 0) (tw ty) j) (elem (v 1) (tw ty) j % tw ty) % 2 ^ tw ty) :=
  (computesLanes_of_vec2 word hexec hword).laneWord (fun _ _ _ => rfl) fun _ _ _ _ => Nat.mod_mod _ _

/-- A claim of lanes may be said by any function that agrees with them. -/
theorem laneWord_congr {i : VVV → Instr} {os : VVV → List Opnd} {lat : Nat} {f g : Nat → Hand → (Nat → Entry) → Nat → Nat}
    (h : LaneWord i os lat f) (hfg : ∀ ty hand v j, f ty hand v j = g ty hand v j) : LaneWord i os lat g := by
  obtain rfl : f = g := by
    funext ty hand v j
    exact hfg ty hand v j
  exact h

theorem vectorIntegerLanes : VectorIntegerLanes := by
  refine ⟨integerWord_of_intLane execVadd (fun _ _ => rfl) fun _ _ => rfl,
    integerWord_of_intLane execVsub (fun _ _ => rfl) fun _ _ => rfl, integerWord_of_intLane execVmul (fun _ _ => rfl) fun _ _ => rfl,
    ?vmulh, integerWord_of_intLane execVmin (fun _ _ => rfl) fun _ _ => rfl,
    integerWord_of_intLane execVmax (fun _ _ => rfl) fun _ _ => rfl, ?vabs,
    integerWord_of_clampLane execVsadd (fun _ _ => rfl) fun _ _ => rfl,
    integerWord_of_clampLane execVssub (fun _ _ => rfl) fun _ _ => rfl, ?vshl, ?vshr, ?vsra, ?vpopc, ?vclz⟩
  case vmulh =>
    refine (computesLanes_of_vec2 execVmulh (fun _ _ => rfl) fun _ _ => rfl).laneWord (fun _ _ _ => rfl) fun ty _ _ _ => ?_
    refine (intCode_mod (tw ty) _).trans ?_
    rw [Nat.cast_pow, Nat.cast_two]
  case vabs =>
    exact (computesLanes_of_vec1 execVabs (fun _ _ => rfl) fun _ _ => rfl).laneWord (fun _ _ _ => rfl)
      fun ty _ _ _ => intCode_mod (tw ty) _
  case vshl => exact laneWord_of_shiftLane execVshl (fun _ _ => rfl) fun _ _ => rfl
  case vshr =>
    refine laneWord_congr (laneWord_of_shiftLane execVshr (fun _ _ => rfl) fun _ _ => rfl) fun ty _ v j => ?_
    exact Nat.mod_eq_of_lt ((Nat.div_le_self _ _).trans_lt (elem_lt _ _ _))
  case vsra =>
    refine laneWord_congr (laneWord_of_shiftLane execVsra (fun _ _ => rfl) fun _ _ => rfl) fun ty _ v j => ?_
    refine (intCode_mod (tw ty) _).trans ?_
    rw [Nat.cast_pow, Nat.cast_two]
  case vpopc =>
    exact (computesLanes_of_vec1 execVpopc (fun _ _ => rfl) fun _ _ => rfl).laneWord (fun _ _ _ => rfl)
      fun ty _ v j => Nat.mod_eq_of_lt (popCount_lt _ _)
  case vclz =>
    refine (computesLanes_of_vec1 execVclz (fun _ _ => rfl) fun _ _ => rfl).laneWord (fun _ _ _ => rfl) fun ty _ v j => ?_
    exact (Nat.mod_eq_of_lt (leadZeros_lt _ _)).trans (leadZeros_eq_takeWhile (elem_lt _ _ _))

/-! ## Bitwise words -/

/-- A bit of an entry is a bit of one of its lanes. -/
theorem getLsbD_eq_testBit_elem (x : Entry) {w k : Nat} (hw : 0 < w) : x.getLsbD k = (elem x w (k / w)).testBit (k % w) := by
  rw [elem, Nat.testBit_mod_two_pow, Nat.testBit_div_two_pow, Nat.mod_add_div, decide_eq_true (Nat.mod_lt k hw), Bool.true_and,
    BitVec.getLsbD]

theorem tw_pos (ty : Nat) : 0 < tw ty := Nat.two_pow_pos _

/-- Every width divides 32, the widest. -/
theorem tw_dvd_32 (ty : Nat) : tw ty ∣ 32 := by
  refine pow_dvd_pow 2 (m := tyLogWidth (BitVec.ofNat 4 ty)) (n := 5) ?_
  rw [tyLogWidth]
  split <;> decide

/-- A bitwise word has its claim when its lane operation computes each bit of a lane from the same bits of the two lanes. -/
theorem bitWord_of_vec2 (word : VVV → State → Out) (g : Nat → Nat → Nat → Nat) {i : VVV → Instr} {f : Bool → Bool → Bool}
    (hexec : ∀ w s, exec (i w) s = word w s) (hword : ∀ w s, word w s = vec2 (i w) w 2 (fun ty _ a b => plain (g (tw ty) a b)) s)
    (hbit : ∀ w a b k, k < w → b < 2 ^ w → (g w a b).testBit k = f (a.testBit k) (b.testBit k)) : BitWord i f := by
  intro s w hsrc hmay
  obtain ⟨r, hr, hlane⟩ := (computesLanes_of_vec2 word hexec hword).laneWord (fun _ _ _ => rfl) (fun _ _ _ _ => rfl) s w hsrc hmay
  refine ⟨r, hr, fun k hk => ?_⟩
  have hw := tw_pos w.ty.toNat
  have hj : k / tw w.ty.toNat < 1024 / tw w.ty.toNat := Nat.div_lt_div_of_lt_of_dvd ((tw_dvd_32 _).trans (by decide)) hk
  simp only [fun x => getLsbD_eq_testBit_elem x (k := k) hw, hlane _ hj]
  rw [Nat.testBit_mod_two_pow]
  simp [Nat.mod_lt, hw, plain, hbit, elem_lt]

theorem vectorBitwiseResults : VectorBitwiseResults := by
  refine ⟨bitWord_of_vec2 execVand (fun _ a b => a &&& b) (fun _ _ => rfl) (fun _ _ => rfl) ?_,
    bitWord_of_vec2 execVor (fun _ a b => a ||| b) (fun _ _ => rfl) (fun _ _ => rfl) ?_,
    bitWord_of_vec2 execVxor (fun _ a b => a ^^^ b) (fun _ _ => rfl) (fun _ _ => rfl) ?_,
    bitWord_of_vec2 execVandn (fun w a b => a &&& (2 ^ w - 1 - b)) (fun _ _ => rfl) (fun _ _ => rfl) ?_⟩
  · exact fun w a b k _ _ => Nat.testBit_and ..
  · exact fun w a b k _ _ => Nat.testBit_or ..
  · exact fun w a b k _ _ => Nat.testBit_xor ..
  · intro w a b k hk hb
    have hnot : (2 ^ w - 1 - b).testBit k = !b.testBit k := by
      rw [Nat.sub_sub, Nat.add_comm, Nat.testBit_two_pow_sub_succ hb]
      simp [hk]
    rw [Nat.testBit_and, hnot]

/-- Settles O6: a word lands its lanes, none of them with a flag; a bit of an entry is a bit of the lane that it lies in. -/
theorem vectorIntegerResults : Obligations.VectorIntegerResults := ⟨vectorIntegerLanes, vectorBitwiseResults⟩

end Sys2Proof.Machine
end

section
/-! PROOFS. Codes of the standard formats: that results have the format's width, and their signs (08 R156, R161). -/

namespace Sys2Proof.Machine

open Claims

/-! ## Results have the format's width -/

/-- A magnitude of an exponent field that is all ones, or below, lies under the sign bit. -/
theorem FFmt.magnitude_lt_signBit {f : FFmt} {m : Nat} (hm : m < 2 ^ f.mw) : (2 ^ f.ew - 1) * 2 ^ f.mw + m < f.signBit := by
  have hpos := Nat.two_pow_pos f.ew
  calc (2 ^ f.ew - 1) * 2 ^ f.mw + m < (2 ^ f.ew - 1 + 1) * 2 ^ f.mw := by rw [Nat.succ_mul]; omega
    _ = f.signBit := by rw [Nat.sub_add_cancel hpos, FFmt.signBit, pow_add]

section
variable {f : FFmt} (hf : f.Standard)
include hf

theorem FFmt.Standard.two_pow_width : 2 ^ f.width = 2 * f.signBit := by
  rw [FFmt.width, hf.sgn, FFmt.signBit]
  exact pow_succ' ..

theorem FFmt.Standard.maxMag_lt_signBit : f.maxMag < f.signBit :=
  hf.maxMag_lt.trans (FFmt.magnitude_lt_signBit (Nat.two_pow_pos _))

theorem FFmt.Standard.signed_lt {neg : Bool} {mc : Nat} (hmc : mc < f.signBit) : f.signed neg mc < 2 ^ f.width := by
  rw [hf.signed_eq, hf.two_pow_width]
  split <;> omega

theorem FFmt.Standard.infCode_lt (neg : Bool) : f.infCode neg < 2 ^ f.width := by
  have hlt := FFmt.magnitude_lt_signBit (Nat.two_pow_pos f.mw)
  rw [FFmt.infCode, hf.two_pow_width]
  split <;> omega

theorem FFmt.Standard.nanCode_lt : f.nanCode < 2 ^ f.width := by
  have hlt := FFmt.magnitude_lt_signBit (Nat.pow_lt_pow_right one_lt_two (Nat.sub_lt (Nat.pos_of_ne_zero hf.mw) one_pos))
  rw [FFmt.nanCode, hf.pol, hf.two_pow_width]
  dsimp only
  omega

theorem roundArith_code_lt (rm : Nat) (x : DyVal) (sticky : Bool) : (roundArith f rm x sticky).code < 2 ^ f.width := by
  rw [roundArith]
  split
  · exact hf.signed_lt (Nat.two_pow_pos _)
  dsimp only
  split
  · dsimp only
    split
    · exact hf.infCode_lt _
    · exact hf.signed_lt hf.maxMag_lt_signBit
  · next hfits => exact hf.signed_lt ((not_lt.1 hfits).trans_lt hf.maxMag_lt_signBit)

theorem arithResult_code_lt (rm : Nat) (r : FVal × Flags) : (arithResult f rm r).code < 2 ^ f.width := by
  rw [arithResult]
  split
  · exact hf.nanCode_lt
  · exact hf.infCode_lt _
  · exact roundArith_code_lt hf rm _ false

theorem fScale_code_lt (rm a : Nat) (k : Int) : (fScale f rm a k).code < 2 ^ f.width := by
  rw [fScale]
  split
  · exact hf.nanCode_lt
  · exact hf.infCode_lt _
  · exact roundArith_code_lt hf rm _ false

/-! ## What a code decodes to, by its sign -/

/-- A code that is no NaN has the sign of its sign bit. -/
theorem FFmt.Standard.isNeg_decode {a : Nat} (ha : a < 2 ^ f.width) (hnan : (f.decode a).isNaN = false) :
    (f.decode a).isNeg = (a / f.signBit % 2 == 1) := by
  have hcode : a % 2 ^ f.width = a := Nat.mod_eq_of_lt ha
  revert hnan
  simp only [FFmt.decode, hf.pol, hf.sgn, Bool.true_and, hcode]
  split
  · split
    · exact fun _ => rfl
    · exact fun hnan => Bool.noConfusion hnan
  · exact fun _ => magValue_neg f _ _

end

theorem FVal.isSNaN_iff {x : FVal} : x.isSNaN = true ↔ x = .nan true := by
  cases x <;> simp [FVal.isSNaN]

theorem standard_of_isF {ty : Nat} (h : isF ty = true) : (FFmt.ofType ty).Standard := by
  have hty := mem_floats_of_isF h
  fin_cases hty <;> exact ⟨rfl, rfl, by decide, by decide⟩

theorem width_ofType {ty : Nat} (h : isF ty = true) : (FFmt.ofType ty).width = tw ty := by
  have hty := mem_floats_of_isF h
  fin_cases hty <;> rfl

/-- A floating word of two or three sources, and one of a single source, passes its checks with a floating type only. -/
theorem isF_of_chk2 {w : VVV} (h : chk2 w (tyFloat w.ty) = none) : isF w.ty.toNat = true := by
  obtain ⟨-, -, hty, -⟩ := wordCheck_eq_none.1 h
  exact hty

theorem isF_of_chk1 {w : VVV} (h : chk1 w (tyFloat w.ty) = none) : isF w.ty.toNat = true := by
  obtain ⟨-, -, hty, -⟩ := wordCheck_eq_none.1 h
  exact hty

end Sys2Proof.Machine
end

section
/-! PROOFS. The floating vector words (10 R202, R204). -/

namespace Sys2Proof.Machine

open Claims

/-! ## Sums, products and scalings (10 R202) -/

/-- A floating word has its claim when its lane operation is the one claimed, at the format of the type, and that gives codes of the
format's width. -/
theorem ComputesLanes.floatWord_of_lt {i : VVV → Instr} {os : VVV → List Opnd} {lat : Nat} {f : FFmt → Nat → (Nat → Nat) → FRes}
    {res : Nat → Nat → (Nat → Nat) → FRes} (h : ComputesLanes i os lat res) (htype : ∀ w, (i w).check = none → isF w.ty.toNat = true)
    (hres : ∀ ty rm v, res ty rm v = f (FFmt.ofType ty) rm v) (hlt : ∀ g : FFmt, g.Standard → ∀ rm v, (f g rm v).code < 2 ^ g.width) :
    FloatWord i os lat f := by
  refine h.floatWord htype fun ty rm v hty _ => ⟨hres ty rm v, ?_⟩
  rw [← width_ofType hty]
  exact hlt _ (standard_of_isF hty) rm v

theorem vectorFloatArithmetic : VectorFloatArithmetic := by
  refine ⟨
    (computesLanes_of_vec2 execVfadd (fun _ _ => rfl) fun _ _ => rfl).floatWord_of_lt
      (fun _ => isF_of_chk2) (fun _ _ _ => rfl) fun _ hg _ _ => arithResult_code_lt hg _ _,
    (computesLanes_of_vec2 execVfsub (fun _ _ => rfl) fun _ _ => rfl).floatWord_of_lt
      (fun _ => isF_of_chk2) (fun _ _ _ => rfl) fun _ hg _ _ => arithResult_code_lt hg _ _,
    (computesLanes_of_vec2 execVfmul (fun _ _ => rfl) fun _ _ => rfl).floatWord_of_lt
      (fun _ => isF_of_chk2) (fun _ _ _ => rfl) fun _ hg _ _ => arithResult_code_lt hg _ _,
    (computesLanes_of_vec3 execVfma (fun _ _ => rfl) fun _ _ => rfl).floatWord_of_lt
      (fun _ => isF_of_chk2) (fun _ _ _ => rfl) fun _ hg _ _ => arithResult_code_lt hg _ _,
    (computesLanes_of_vec3 execVfms (fun _ _ => rfl) fun _ _ => rfl).floatWord_of_lt
      (fun _ => isF_of_chk2) (fun _ _ _ => rfl) fun _ hg _ _ => arithResult_code_lt hg _ _,
    (computesLanes_of_vec2 execVscale (fun _ _ => rfl) fun _ _ => rfl).floatWord (fun _ => isF_of_chk2) fun ty rm v hty _ => ?_⟩
  rw [← width_ofType hty]
  exact ⟨rfl, fScale_code_lt (standard_of_isF hty) _ _ _⟩

/-! ## Extremes and signs (10 R204) -/

/-- Two values of one place on the line and of different signs are zeros. -/
theorem isZero_of_onLine_eq {x y : FVal} (hx : x.isNaN = false) (hy : y.isNaN = false) (heq : onLine x = onLine y)
    (hsign : x.isNeg ≠ y.isNeg) : x.isZero = true ∧ y.isZero = true := by
  cases x with
  | nan s => cases hx
  | inf a =>
    cases y with
    | nan s => cases hy
    | inf b => cases a <;> cases b <;> simp [onLine, FVal.isNeg] at heq hsign
    | fin y =>
      obtain ⟨hbot, htop⟩ := onLine_fin_bounds y
      cases a
      · exact absurd heq.symm htop.ne
      · exact absurd heq hbot.ne
  | fin x =>
    cases y with
    | nan s => cases hy
    | inf b =>
      obtain ⟨hbot, htop⟩ := onLine_fin_bounds x
      cases b
      · exact absurd heq htop.ne
      · exact absurd heq.symm hbot.ne
    | fin y =>
      have hxy : dyadic x = dyadic y := WithBotTop.coe_injective heq
      have hzero : dyadic y = 0 := by
        by_contra hne
        refine hsign ?_
        show x.neg = y.neg
        rw [x.neg_eq_decide (hxy ▸ hne), y.neg_eq_decide hne, hxy]
      exact ⟨by simpa [FVal.isZero] using (dyadic_eq_zero_iff x).1 (hxy.trans hzero),
        by simpa [FVal.isZero] using (dyadic_eq_zero_iff y).1 hzero⟩

/-- The model's order of two values that are no NaN: that of the line, and -0 below +0. -/
theorem cmpNumZ_lt_eq {x y : FVal} (hx : x.isNaN = false) (hy : y.isNaN = false) :
    (cmpNumZ x y == .lt) = (decide (onLine x < onLine y) || (decide (onLine x = onLine y) && x.isNeg && !y.isNeg)) := by
  have h := cmpNum_compares hx hy
  cases hcmp : cmpNum x y <;> rw [hcmp] at h <;> simp only [cmpNumZ, hcmp]
  · simp [show onLine x < onLine y from h]
  · have heq : onLine x = onLine y := h
    have hzero := isZero_of_onLine_eq hx hy heq
    cases hxn : x.isNeg <;> cases hyn : y.isNeg <;> simp_all
  · have hgt : onLine y < onLine x := h
    simp [hgt.not_gt, hgt.ne']

theorem xor_two_pow {a n : Nat} (ha : a < 2 ^ (n + 1)) : a ^^^ 2 ^ n = (a + 2 ^ n) % 2 ^ (n + 1) := by
  have hpos := Nat.two_pow_pos n
  refine Nat.ext_div_mod (n := 2 ^ n) ?_ ?_
  · have hhigh : a / 2 ^ n < 2 := by rw [Nat.div_lt_iff_lt_mul hpos, ← pow_succ']; exact ha
    rw [Nat.xor_div_two_pow, Nat.div_self hpos, pow_succ, Nat.mod_mul_right_div_self, Nat.add_div_right _ hpos]
    interval_cases a / 2 ^ n <;> rfl
  · rw [Nat.xor_mod_two_pow, Nat.mod_self, Nat.xor_zero, pow_succ, Nat.mod_mul_right_mod, Nat.add_mod_right]

section
variable {f : FFmt} (hf : f.Standard)
include hf

theorem fMinMax_eq (isMax : Bool) {a b : Nat} (ha : a < 2 ^ f.width) (hb : b < 2 ^ f.width) :
    fMinMax f isMax a b =
      ⟨if (f.decode a).isNaN && (f.decode b).isNaN then f.nanCode
        else if (f.decode a).isNaN then b
        else if (f.decode b).isNaN then a
        else if (decide (onLine (f.decode a) < onLine (f.decode b)) ||
          (decide (onLine (f.decode a) = onLine (f.decode b)) && (a / f.signBit % 2 == 1) && (b / f.signBit % 2 == 0))) != isMax
        then a else b, if f.decode a = .nan true ∨ f.decode b = .nan true then flNV else 0⟩ := by
  have hflag : flagIf ((f.decode a).isSNaN || (f.decode b).isSNaN) flNV =
      if f.decode a = .nan true ∨ f.decode b = .nan true then flNV else 0 := compareFlags_eq _ _
  rw [fMinMax, hflag]
  cases hnanA : (f.decode a).isNaN
  · cases hnanB : (f.decode b).isNaN
    · have hpos : (b / f.signBit % 2 == 0) = !(b / f.signBit % 2 == 1) := by
        obtain h | h := Nat.mod_two_eq_zero_or_one (b / f.signBit) <;> rw [h] <;> rfl
      simp only [cmpNumZ_lt_eq hnanA hnanB, hf.isNeg_decode ha hnanA, hf.isNeg_decode hb hnanB, hpos, Bool.and_false, Bool.false_eq_true,
        if_false]
      split <;> rfl
    · rfl
  · cases (f.decode b).isNaN <;> rfl

theorem fMinMax_code_lt (isMax : Bool) {a b : Nat} (ha : a < 2 ^ f.width) (hb : b < 2 ^ f.width) :
    (fMinMax f isMax a b).code < 2 ^ f.width := by
  simp only [fMinMax, apply_ite FRes.code]
  split_ifs
  · exact hf.nanCode_lt
  · exact hb
  · exact ha
  · exact ha
  · exact hb

theorem fSign_eq (abs : Bool) {a : Nat} (ha : a < 2 ^ f.width) :
    fSign f abs a =
      ⟨if (f.decode a).isNaN then f.nanCode else if abs then a % f.signBit else (a + f.signBit) % 2 ^ f.width,
        if f.decode a = .nan true then flNV else 0⟩ := by
  have hxor : a ^^^ f.signBit = (a + f.signBit) % 2 ^ f.width := by
    rw [hf.two_pow_width, FFmt.signBit, ← pow_succ'] at ha ⊢
    exact xor_two_pow ha
  rw [fSign]
  cases f.decode a with
  | nan s => cases s <;> rfl
  | inf n => simp [FVal.isNaN, hxor]
  | fin x => simp [FVal.isNaN, hxor]

theorem fSign_code_lt (abs : Bool) {a : Nat} (ha : a < 2 ^ f.width) : (fSign f abs a).code < 2 ^ f.width := by
  rw [fSign_eq hf abs ha]
  dsimp only
  split_ifs
  · exact hf.nanCode_lt
  · exact (Nat.mod_le _ _).trans_lt ha
  · exact Nat.mod_lt _ (Nat.two_pow_pos _)
end

/-- The clause of O7 on VFMIN, VFMAX, VFABS and VFNEG, from the orders of the codes and of the line (`fMinMax_eq`). -/
theorem vectorFloatExtremesAndSigns : VectorFloatExtremesAndSigns := by
  unfold VectorFloatExtremesAndSigns
  intro extreme sign
  have hextreme (isMax : Bool) (ty rm : Nat) (v : Nat → Nat) (hty : isF ty = true) (hv : ∀ k, v k < 2 ^ tw ty) :
      fMinMax (FFmt.ofType ty) isMax (v 0) (v 1) = extreme isMax (FFmt.ofType ty) rm v ∧
        (extreme isMax (FFmt.ofType ty) rm v).code < 2 ^ tw ty := by
    have hf := standard_of_isF hty
    rw [← width_ofType hty] at hv ⊢
    have heq : fMinMax (FFmt.ofType ty) isMax (v 0) (v 1) = extreme isMax (FFmt.ofType ty) rm v := fMinMax_eq hf isMax (hv 0) (hv 1)
    exact ⟨heq, heq ▸ fMinMax_code_lt hf isMax (hv 0) (hv 1)⟩
  have hsign (abs : Bool) (ty rm : Nat) (v : Nat → Nat) (hty : isF ty = true) (hv : ∀ k, v k < 2 ^ tw ty) :
      fSign (FFmt.ofType ty) abs (v 0) = sign abs (FFmt.ofType ty) rm v ∧ (sign abs (FFmt.ofType ty) rm v).code < 2 ^ tw ty := by
    have hf := standard_of_isF hty
    rw [← width_ofType hty] at hv ⊢
    have heq : fSign (FFmt.ofType ty) abs (v 0) = sign abs (FFmt.ofType ty) rm v := fSign_eq hf abs (hv 0)
    exact ⟨heq, heq ▸ fSign_code_lt hf abs (hv 0)⟩
  exact ⟨(computesLanes_of_vec2 execVfmin (fun _ _ => rfl) fun _ _ => rfl).floatWord (fun _ => isF_of_chk2) (hextreme false),
    (computesLanes_of_vec2 execVfmax (fun _ _ => rfl) fun _ _ => rfl).floatWord (fun _ => isF_of_chk2) (hextreme true),
    (computesLanes_of_vec1 execVfabs (fun _ _ => rfl) fun _ _ => rfl).floatWord (fun _ => isF_of_chk1) (hsign true),
    (computesLanes_of_vec1 execVfneg (fun _ _ => rfl) fun _ _ => rfl).floatWord (fun _ => isF_of_chk1) (hsign false)⟩

/-! ## Differences and scalings are rounded once (08 R164, R165) -/

theorem dyadic_scale (x : DyVal) (k : Int) : dyadic { x with exp := x.exp + k } = dyadic x * (2 : ℚ) ^ k := by
  rw [dyadic, dyadic, zpow_add₀ two_ne_zero, ← mul_assoc]

theorem zeroSumNeg_neg (rm : Nat) (n1 n2 : Bool) (v1 v2 : ℚ) : zeroSumNeg rm n1 n2 v1 (-v2) = zeroSumNeg rm n1 n2 v1 v2 := by
  simp only [zeroSumNeg, neg_eq_zero]

/-- A difference of exact values is their sum with the opposite, rounded once. -/
theorem roundArith_sub_roundedOnce {f : FFmt} (hf : f.Standard) {rm : Nat} (hrm : rm ≤ 4) (x y : DyVal) :
    RoundedOnce f rm (dyadic x - dyadic y) (zeroSumNeg rm x.neg (!y.neg) (dyadic x) (dyadic y))
      (roundArith f rm (addDy rm x { y with neg := !y.neg })) := by
  rw [sub_eq_add_neg, ← zeroSumNeg_neg, ← dyadic_negate, ← dyadic_addDy x _ rm]
  exact roundArith_roundedOnce hf hrm (addDy_neg_of_zero x { y with neg := !y.neg } rm)

theorem differencesAndScalingsRoundOnce : DifferencesAndScalingsRoundOnce := by
  intro f rm a b c x y z k hmem hrm ha hb hc X Y Z
  have hf := standard_of_mem hmem
  have hsub : fSub f rm a b = roundArith f rm (addDy rm x { y with neg := !y.neg }) := by
    simp [fSub, ha, hb, addNum, arithResult, FVal.negate]
  have hfms : fMulAdd f rm a b c true = roundArith f rm (addDy rm (mulDy x y) { z with neg := !z.neg }) := by
    simp [fMulAdd, ha, hb, hc, mulNum, addNum, arithResult, FVal.negate]
  have hscale : fScale f rm a k = roundArith f rm { x with exp := x.exp + k } := by
    simp [fScale, ha]
  rw [hsub, hfms, hscale, ← dyadic_scale, ← dyadic_mulDy]
  exact ⟨roundArith_sub_roundedOnce hf hrm x y, roundArith_sub_roundedOnce hf hrm (mulDy x y) z,
    roundArith_roundedOnce hf hrm fun _ => rfl⟩

/-- Settles O7: the lanes are the model's operations, whose codes fit the width; the extremes follow the line, and a difference is a
sum with the opposite. -/
theorem vectorFloatResults : Obligations.VectorFloatResults :=
  ⟨vectorFloatArithmetic, vectorFloatExtremesAndSigns, differencesAndScalingsRoundOnce⟩

end Sys2Proof.Machine
end

section
/-! PROOFS. The transcendental vector words: their codes and their special inputs (10 R202, R203). -/

namespace Sys2Proof.Machine

open Claims

/-! ## Results have the format's width -/

section
variable {f : FFmt} (hf : f.Standard) {rm : Nat} {x : DyVal} {r : FRes}
include hf

theorem code_lt_of_some_roundArith {y : DyVal} {sticky : Bool} (h : some (roundArith f rm y sticky) = some r) :
    r.code < 2 ^ f.width := by
  obtain rfl := Option.some.inj h
  exact roundArith_code_lt hf _ _ _

theorem roundBracket_code_lt {neg : Bool} {lo hi : Nat} {exp : Int} (h : roundBracket f rm neg lo hi exp = some r) :
    r.code < 2 ^ f.width := by
  rw [roundBracket] at h
  obtain ⟨-, hr⟩ := Option.ite_none_right_eq_some.1 h
  exact code_lt_of_some_roundArith hf hr

theorem exp2Fin_code_lt (h : exp2Fin f rm x = some r) : r.code < 2 ^ f.width := by
  rw [exp2Fin] at h
  split at h
  · exact code_lt_of_some_roundArith hf h
  dsimp only at h
  split at h
  · exact code_lt_of_some_roundArith hf h
  · exact roundBracket_code_lt hf h

theorem log2Fin_code_lt (h : log2Fin f rm x = some r) : r.code < 2 ^ f.width := by
  rw [log2Fin] at h
  dsimp only at h
  split at h
  · exact code_lt_of_some_roundArith hf h
  · exact roundBracket_code_lt hf h

theorem sigmFin_code_lt (h : sigmFin f rm x = some r) : r.code < 2 ^ f.width := by
  have hfar {a b : DyVal} (h : (if x.neg then some (roundArith f rm a true) else some (roundArith f rm b true)) = some r) :
      r.code < 2 ^ f.width := by
    split at h <;> exact code_lt_of_some_roundArith hf h
  rw [sigmFin] at h
  split at h
  · exact hfar h
  dsimp only at h
  split at h
  · exact hfar h
  · exact roundBracket_code_lt hf h

theorem tanhFin_code_lt (h : tanhFin f rm x = some r) : r.code < 2 ^ f.width := by
  rw [tanhFin] at h
  split at h
  · exact code_lt_of_some_roundArith hf h
  split at h
  · exact code_lt_of_some_roundArith hf h
  · exact roundBracket_code_lt hf h

/-- A value that is not negative rounds to a code without the sign bit. -/
theorem roundArith_code_lt_signBit (hx : x.neg = false) : (roundArith f rm x).code < f.signBit := by
  rw [roundArith]
  split
  · rw [hf.signed_eq, hx]
    exact Nat.two_pow_pos _
  dsimp only
  rw [hx]
  split
  · dsimp only
    split
    · exact FFmt.magnitude_lt_signBit (Nat.two_pow_pos _)
    · rw [FFmt.maxCode, hf.signed_eq]
      exact hf.maxMag_lt_signBit
  · next hfits =>
    rw [hf.signed_eq]
    exact (not_lt.1 hfits).trans_lt hf.maxMag_lt_signBit

omit hf in
theorem code_getD_lt {o : Option FRes} {n : Nat} (ho : ∀ r', o = some r' → r'.code < n) (hr : r.code < n) : (o.getD r).code < n := by
  cases o with
  | none => exact hr
  | some r' => exact ho r' rfl

theorem transcendental_code_lt (fn rm a : Nat) : (transcendental fn f rm a).code < 2 ^ f.width := by
  have hpos : 0 < 2 ^ f.width := Nat.two_pow_pos _
  have hsigned (neg : Bool) : f.signed neg 0 < 2 ^ f.width := hf.signed_lt (Nat.two_pow_pos _)
  have hround (y : DyVal) : (roundArith f rm y).code < 2 ^ f.width := roundArith_code_lt hf rm y false
  unfold transcendental
  dsimp only
  split
  · exact hf.nanCode_lt
  · next n _ =>
    match fn with
    | 0 => exact hsigned n
    | 1 => cases n; exacts [hpos, hf.nanCode_lt]
    | 2 => cases n; exacts [hf.infCode_lt _, hpos]
    | 3 => cases n; exacts [hf.infCode_lt _, hf.nanCode_lt]
    | 4 => cases n; exacts [hround _, hpos]
    | _ + 5 => exact hf.signed_lt (roundArith_code_lt_signBit hf rfl)
  · next x _ =>
    split
    · match fn with
      | 0 | 1 | 3 => exact hf.infCode_lt _
      | 2 | 4 => exact hround _
      | _ + 5 => exact Nat.mod_lt _ hpos
    split
    · exact hf.nanCode_lt
    refine code_getD_lt (fun r hr => ?_) (Nat.mod_lt _ hpos)
    match fn with
    | 0 | 1 => exact code_lt_of_some_roundArith hf hr
    | 2 => exact exp2Fin_code_lt hf hr
    | 3 => exact log2Fin_code_lt hf hr
    | 4 => exact sigmFin_code_lt hf hr
    | _ + 5 => exact tanhFin_code_lt hf hr
end

/-! ## Special inputs (10 R203) -/

section
variable {f : FFmt} (hmem : f ∈ [FFmt.bf16, FFmt.f16, FFmt.f32])
include hmem

/-- The codes of the zeros, the infinities and the NaNs. -/
theorem decode_special_codes :
    f.decode 0 = .fin ⟨false, 0, f.qmin⟩ ∧ f.decode f.signBit = .fin ⟨true, 0, f.qmin⟩ ∧
    (∀ neg, f.decode (f.infCode neg) = .inf neg) ∧
    f.decode f.nanCode = .nan false ∧ f.decode (f.nanCode + 1 - 2 ^ (f.mw - 1)) = .nan true := by
  simp only [List.mem_cons, List.not_mem_nil, or_false] at hmem
  obtain rfl | rfl | rfl := hmem <;> decide

/-- One and one half are exact in every mode. -/
theorem roundArith_one_half {rm : Nat} (hrm : rm ≤ 4) :
    roundArith f rm ⟨false, 1, 0⟩ = ⟨(2 ^ (f.ew - 1) - 1) * 2 ^ f.mw, 0⟩ ∧
    roundArith f rm ⟨false, 1, -1⟩ = ⟨(2 ^ (f.ew - 1) - 2) * 2 ^ f.mw, 0⟩ := by
  revert hmem f rm
  decide +kernel
end

/-! ## The statement -/

theorem floatWord_of_transcendental (word : VVV → State → Out) {i : VVV → Instr} {k : Nat} (hexec : ∀ w s, exec (i w) s = word w s)
    (hword : ∀ w s, word w s = vec1 (i w) w 8 (fun ty rm a => transcendental k (FFmt.ofType ty) rm a) s)
    (hcheck : ∀ w, (i w).check = chk1 w (tyFloat w.ty)) : FloatWord i sources1 8 (fun f rm v => transcendental k f rm (v 0)) :=
  (computesLanes_of_vec1 word hexec hword).floatWord_of_lt (fun w hc => isF_of_chk1 ((hcheck w).symm.trans hc)) (fun _ _ _ => rfl)
    fun _ hg _ _ => transcendental_code_lt hg _ _ _

/-- Settles O8: the codes of all six functions fit the width, and the special inputs are read off the model's table. -/
theorem vectorTranscendentals : Obligations.VectorTranscendentals := by
  refine ⟨floatWord_of_transcendental execVrcp (fun _ _ => rfl) (fun _ _ => rfl) fun _ => rfl,
    floatWord_of_transcendental execVrsq (fun _ _ => rfl) (fun _ _ => rfl) fun _ => rfl,
    floatWord_of_transcendental execVexp2 (fun _ _ => rfl) (fun _ _ => rfl) fun _ => rfl,
    floatWord_of_transcendental execVlog2 (fun _ _ => rfl) (fun _ _ => rfl) fun _ => rfl,
    floatWord_of_transcendental execVsigm (fun _ _ => rfl) (fun _ _ => rfl) fun _ => rfl,
    floatWord_of_transcendental execVtanh (fun _ _ => rfl) (fun _ _ => rfl) fun _ => rfl, fun f hmem rm hrm => ?_⟩
  intro one half pinf ninf nan z nz
  have hf := standard_of_mem hmem
  obtain ⟨hz, hnz, hinf, hquiet, hsignal⟩ := decode_special_codes hmem
  obtain ⟨hone, hhalf⟩ := roundArith_one_half hmem hrm
  have hkeep : f.signBit % 2 ^ f.width = f.signBit := by
    have hpos : 0 < f.signBit := Nat.two_pow_pos _
    rw [hf.two_pow_width]
    exact Nat.mod_eq_of_lt (by omega)
  refine ⟨fun k _ => ⟨?_, ?_⟩, ?_, ?_, ?_, ?_, ?_, ?_⟩
  iterate 2 simp [transcendental, nan, hquiet, hsignal, flagIf]
  iterate 6 simp [transcendental, one, half, pinf, ninf, nan, z, nz, hz, hnz, hinf, hone, hhalf, hf.signed_eq, hkeep]

end Sys2Proof.Machine
end

section
/-! PROOFS. Conversion, packing and unpacking (10 R205 to R208). -/

namespace Sys2Proof.Machine

open Claims

/-! ## VCVT (10 R205, R206) -/

/-- An entry built from a stretch of elements that begins at element `k`, the rest zero. -/
theorem elem_mkEntry_pad {w k n p : Nat} (f : Nat → Nat) (hp : p < 1024 / w) :
    elem (mkEntry w (List.replicate k 0 ++ (List.range n).map f)) w p = if k ≤ p ∧ p < k + n then f (p - k) % 2 ^ w else 0 := by
  rw [elem_mkEntry _ (elem_mem_entry hp), List.getD_eq_getElem?_getD, List.getElem?_append, List.length_replicate]
  by_cases hk : p < k
  · simp [hk, hk.not_ge]
  · by_cases hn : p < k + n
    · have hlt : p - k < n := by omega
      simp [hk, hn, hlt, not_lt.1 hk]
    · have hge : n ≤ p - k := by omega
      simp [hk, hn, hge]

/-- An entry built from its first elements, the rest zero. -/
theorem elem_mkEntry_prefix {w n p : Nat} (f : Nat → Nat) (hp : p < 1024 / w) :
    elem (mkEntry w ((List.range n).map f)) w p = if p < n then f p % 2 ^ w else 0 := by
  simpa using elem_mkEntry_pad (k := 0) (n := n) f hp

/-- The number of elements that VCVT converts: as many as the wider of its two types has lanes. -/
def cvtCount (w : VVI) : Nat := 1024 / max (tw w.ty.toNat) (tw (bits w.imm 0 4).toNat)

/-- The element that VCVT makes of element `j` of its part of the source. -/
def cvtElement (w : VVI) (h : Hand) (x : Entry) (j : Nat) : FRes :=
  let st := (bits w.imm 0 4).toNat
  let q := (h.creg (0x038 + (bits w.imm 5 3).toNat)).toNat
  convert h.xrm h.xsat (vcvtSide ((bits w.imm 8 2).toNat == 1) q w.ty.toNat) (vcvtSide ((bits w.imm 8 2).toNat == 2) q st)
    (elem x (tw st) (if tw w.ty.toNat < tw st then j else (bits w.imm 10 3).toNat * cvtCount w + j))

/-- How many elements of zero VCVT puts below what it converts, where it narrows. -/
def cvtPad (w : VVI) : Nat := if tw w.ty.toNat < tw (bits w.imm 0 4).toNat then (bits w.imm 10 3).toNat * cvtCount w else 0

theorem exec_vcvt_issues {s : State} {w : VVI} (hsrc : Sources s .x (sourceOf w (bits w.imm 0 4).toNat) [w.d.toNat])
    (h : MayIssue s .x (.vcvt w) w.hdr) :
    let rs := (List.range (cvtCount w)).map (cvtElement w s.hand (operand s .x (sourceOf w (bits w.imm 0 4).toNat) 0))
    exec (.vcvt w) s = s.lands .x w.hdr (s.took .x w.hdr (sourceOf w (bits w.imm 0 4).toNat))
      [.queue w.d.toNat (mkEntry (tw w.ty.toNat) (List.replicate (cvtPad w) 0 ++ rs.map FRes.code))] (gatherFlags rs) 4 := by
  refine (runWord_of_queueMeaning rfl hsrc rfl h).trans ?_
  rw [v0, opValues_headD]
  rfl

/-- What VCVT pushes: the converted elements in their part of the entry where it narrows, and throughout it where it does not. -/
theorem elem_vcvt {w : VVI} (f : Nat → Nat) {p : Nat} (hp : p < 1024 / tw w.ty.toNat) :
    elem (mkEntry (tw w.ty.toNat) (List.replicate (cvtPad w) 0 ++ (List.range (cvtCount w)).map f)) (tw w.ty.toNat) p =
      if tw w.ty.toNat < tw (bits w.imm 0 4).toNat then
        if (bits w.imm 10 3).toNat * cvtCount w ≤ p ∧ p < (bits w.imm 10 3).toNat * cvtCount w + cvtCount w then
          f (p - (bits w.imm 10 3).toNat * cvtCount w) % 2 ^ tw w.ty.toNat else 0
      else f p % 2 ^ tw w.ty.toNat := by
  rw [elem_mkEntry_pad f hp, cvtPad]
  split
  · rfl
  · next hwide =>
    have hfull : p < cvtCount w := by rwa [cvtCount, max_eq_left (not_lt.1 hwide)]
    simp [hfull]

/-! ## VPACK (10 R207) -/

theorem doubleType_eq (ty : Nat) : doubleType ty = if ty = 9 then 0 else if ty = 10 then 1 else ty + 2 := by
  unfold doubleType
  split <;> simp_all

theorem lanes_of_double (w : Nat) : 1024 / (2 * w) = 512 / w := (Nat.div_div_eq_div_mul 1024 2 w).symm

/-- An entry has twice as many elements as one of twice the width. -/
theorem lanes_eq_two_mul (ty : Nat) : 1024 / tw ty = 2 * (512 / tw ty) :=
  Nat.mul_div_assoc 2 ((tw_dvd_32 ty).trans (by decide : 32 ∣ 512))

/-- Two stretches of equal length, one after the other. -/
theorem map_range_append {α : Type} (m : Nat) (f g : Nat → α) :
    (List.range m).map f ++ (List.range m).map g = (List.range (2 * m)).map (fun j => if j < m then f j else g (j - m)) := by
  rw [two_mul, List.range_add, List.map_append, List.map_map]
  refine congrArg₂ _ (List.map_congr_left fun j hj => ?_) (List.map_congr_left fun j _ => ?_)
  · rw [if_pos (List.mem_range.1 hj)]
  · simp

/-- The elements of two entries, one after the other. -/
theorem elems_append_elems (x : Nat → Entry) (w : Nat) :
    elems (x 0) w ++ elems (x 1) w = (List.range (2 * (1024 / w))).map (fun j =>
      elem (x (if j < 1024 / w then 0 else 1)) w (if j < 1024 / w then j else j - 1024 / w)) := by
  rw [elems, elems, map_range_append]
  refine List.map_congr_left fun j _ => ?_
  split <;> rfl

/-- The value of element `j` of the two sources of VPACK, taken one after the other. -/
def packValue (ty : Nat) (x : Nat → Entry) (j : Nat) : Int :=
  intOf (tySigned ty) (2 * tw ty)
    (elem (x (if j < 512 / tw ty then 0 else 1)) (2 * tw ty) (if j < 512 / tw ty then j else j - 512 / tw ty))

/-- What VPACK makes of the elements of its sources. -/
def packResults (h : Hand) (ty : Nat) (x : Nat → Entry) : List FRes :=
  (List.range (2 * (512 / tw ty))).map (fun j => intToInt h.xsat (tySigned ty) (tw ty) (packValue ty x j))

theorem exec_vpack_issues {s : State} {w : VVV} {dbl : Nat} (hdbl : doubleType w.ty.toNat = dbl)
    (hsrc : Sources s .x [opA w dbl, opB w dbl] [w.d.toNat]) (h : MayIssue s .x (.vpack w) w.hdr) :
    let rs := packResults s.hand w.ty.toNat (operand s .x [opA w dbl, opB w dbl])
    exec (.vpack w) s = s.lands .x w.hdr (s.took .x w.hdr [opA w dbl, opB w dbl])
      [.queue w.d.toNat (mkEntry (tw w.ty.toNat) (rs.map FRes.code))] (gatherFlags rs) 3 := by
  subst hdbl
  have helems := elems_append_elems (operand s .x [opA w (doubleType w.ty.toNat), opB w (doubleType w.ty.toNat)]) (2 * tw w.ty.toNat)
  rw [lanes_of_double, ← opValues_headD] at helems
  refine (runWord_of_queueMeaning rfl hsrc rfl h).trans ?_
  dsimp only [v0, v1]
  rw [helems, List.map_map]
  rfl

/-- An integer converted to an integer type is clamped where it saturates, and wrapped where it does not. -/
theorem intToInt_code (sat sg : Bool) (w : Nat) (v : Int) :
    (intToInt sat sg w v).code = intCode w (if sat then max (intMin sg w) (min (intMax sg w) v) else v) := by
  cases sat <;> rfl

theorem intToInt_flags (sat sg : Bool) (w : Nat) (v : Int) :
    (intToInt sat sg w v).flags = flagIf (sat && decide (v < intMin sg w ∨ intMax sg w < v)) flSAT := by
  have hclamp : (clampInt sg w v != v) = decide (v < intMin sg w ∨ intMax sg w < v) := by
    have hle := intMin_le_intMax sg w
    rw [Bool.eq_iff_iff, bne_iff_ne, decide_eq_true_iff, clampInt]
    omega
  cases sat
  · rfl
  · rw [Bool.true_and, ← hclamp]
    rfl

theorem packResults_flags (h : Hand) (ty : Nat) (x : Nat → Entry) :
    gatherFlags (packResults h ty x) =
      if h.xsat ∧ ∃ j < 2 * (512 / tw ty),
          packValue ty x j < intMin (tySigned ty) (tw ty) ∨ intMax (tySigned ty) (tw ty) < packValue ty x j
      then flSAT else 0 := by
  rw [packResults, gatherFlags_map_flagIf fun j => intToInt_flags _ _ _ _, flagIf]
  refine if_congr ?_ rfl rfl
  cases h.xsat <;> simp

theorem packResults_elem (h : Hand) (ty : Nat) (x : Nat → Entry) {j : Nat} (hj : j < 2 * (512 / tw ty)) :
    elem (mkEntry (tw ty) ((packResults h ty x).map FRes.code)) (tw ty) j =
      ((if h.xsat then max (intMin (tySigned ty) (tw ty)) (min (intMax (tySigned ty) (tw ty)) (packValue ty x j))
        else packValue ty x j) % (2 : Int) ^ tw ty).toNat := by
  rw [packResults, List.map_map, ← lanes_eq_two_mul, elem_mkEntry_map _ (hj.trans_eq (lanes_eq_two_mul ty).symm), ← intCode_mod]
  exact congrArg (· % 2 ^ tw ty) (intToInt_code _ _ _ _)

/-! ## VUNPK (10 R208) -/

theorem exec_vunpk_issues {s : State} {w : VVI} (hsrc : Sources s .x (sourceOf w w.ty.toNat) [w.d.toNat])
    (h : MayIssue s .x (.vunpk w) w.hdr) :
    exec (.vunpk w) s = s.lands .x w.hdr (s.took .x w.hdr (sourceOf w w.ty.toNat))
      [.queue w.d.toNat (mkEntry (2 * tw w.ty.toNat) ((List.range (512 / tw w.ty.toNat)).map (fun j =>
        intCode (2 * tw w.ty.toNat) (laneValue w.ty.toNat (operand s .x (sourceOf w w.ty.toNat) 0)
          ((bits w.imm 0 1).toNat * (512 / tw w.ty.toNat) + j)))))] 0 3 := by
  refine (runWord_of_queueMeaning rfl hsrc rfl h).trans ?_
  rw [v0, opValues_headD]

theorem vunpk_wellFormed {w : VVI} (hc : (Instr.vunpk w).check = none) : w.imm.toNat < 2 ∧ w.ty.toNat ∈ [9, 10, 0, 1, 2, 3] := by
  obtain ⟨-, hzero, hty, -⟩ := wordCheck_eq_none.1 hc
  have himm : (bits w.imm 1 12).toNat = 0 := by rw [beq_iff_eq.1 hzero]; rfl
  rw [bits_toNat] at himm
  refine ⟨by have := w.imm.isLt; omega, ?_⟩
  simp only [tyPack, Bool.or_eq_true, decide_eq_true_eq, beq_iff_eq, ← BitVec.toNat_inj] at hty
  simp only [List.mem_cons, List.not_mem_nil, or_false]
  change (w.ty.toNat ≤ 3 ∨ w.ty.toNat = 9) ∨ w.ty.toNat = 10 at hty
  omega

/-- Settles O10: the imm of a word that passes its checks is its H; each element of the result is one of the source, extended. -/
theorem vectorUnpack : Obligations.VectorUnpack := by
  refine ⟨fun w hc => ?_, fun s w => ?_⟩
  · obtain ⟨himm, hty⟩ := vunpk_wellFormed hc
    refine ⟨himm, hty, _, rfl, ?_⟩
    have hop := wordOpcode_packWord (t := 2) (h := w.hdr) (op := 0x52) (b := bodyVVI w)
    rwa [wordOpcode, bits_toNat] at hop
  · intro wd m a hsrc h
    refine ⟨_, exec_vunpk_issues hsrc h, fun j hj => ?_⟩
    obtain ⟨himm, -⟩ := vunpk_wellFormed h.1
    have hH : (bits w.imm 0 1).toNat = w.imm.toNat := (bits_zero_toNat w.imm 1).trans (Nat.mod_eq_of_lt himm)
    rw [hH, ← lanes_of_double, elem_mkEntry_map _ (hj.trans_eq (lanes_of_double _).symm), intCode_mod, lanes_of_double]

/-- Settles O9: VCVT converts a stretch of elements and pads below it; VPACK takes the elements of its sources one after the other and
wraps or clamps each. -/
theorem vectorConversions : Obligations.VectorConversions := by
  refine ⟨fun s w => ?_, fun s w => ?_⟩
  · have hst : (bits w.imm 0 4).toNat = w.imm.toNat % 16 := bits_zero_toNat w.imm 4
    have hnq : (bits w.imm 8 2).toNat = w.imm.toNat / 2 ^ 8 % 4 := bits_toNat w.imm 8 2
    have hq : (bits w.imm 5 3).toNat = w.imm.toNat / 2 ^ 5 % 8 := bits_toNat w.imm 5 3
    have hpart : (bits w.imm 10 3).toNat = w.imm.toNat / 2 ^ 10 := by
      rw [bits_toNat, Nat.mod_eq_of_lt]
      have := w.imm.isLt
      omega
    rw [← hpart, ← hst, ← hnq, ← hq]
    intro src nq part q wd ws n x side y hsrc h
    refine ⟨_, exec_vcvt_issues hsrc h, fun p hp => ?_⟩
    rw [List.map_map]
    exact elem_vcvt _ hp
  · intro wd m dbl os v lo hi hsrc h
    have hissues := exec_vpack_issues (doubleType_eq w.ty.toNat) hsrc h
    dsimp only at hissues
    rw [packResults_flags] at hissues
    exact ⟨_, hissues, fun j hj => packResults_elem _ _ _ hj⟩

end Sys2Proof.Machine
end

section
/-! PROOFS. Compares, selects, the threshold word and the predicate words (10 R198, R209 to R211, 13 R251). -/

namespace Sys2Proof.Machine

open Claims

/-! ## Predicates from lanes (10 R198) -/

/-- Bit `j` of a predicate built from lane outcomes is that of lane `j`, and clear above the lanes. -/
theorem predOf_getLsbD (g : Nat → Bool) (n : Nat) {j : Nat} (hj : j < 128) :
    (predOf ((List.range n).map g)).getLsbD j = (decide (j < n) && g j) := by
  have hbit := packElems_elem 1 (((List.range n).map g).map Bool.toNat) j
  rw [one_mul, pow_one] at hbit
  rw [predOf, BitVec.getLsbD_ofNat, decide_eq_true hj, Bool.true_and, Nat.testBit_eq_decide_div_mod_eq, hbit]
  by_cases hn : j < n
  · cases hg : g j <;> simp [List.getD, hn, hg]
  · simp [List.getD, hn]

theorem zip_elems (a b : Entry) (w : Nat) :
    List.zip (elems a w) (elems b w) = (List.range (1024 / w)).map (fun j => (elem a w j, elem b w j)) := by
  rw [elems, elems, List.zip_map']

/-! ## VCMP and VFCMP (10 R209) -/

/-- The values that VFCMP compares in lane `j`. -/
def comparedAt (s : State) (w : VVV) (k j : Nat) : FVal :=
  (FFmt.ofType w.ty.toNat).decode (elem (operand s .x (sources2 w) k) (tw w.ty.toNat) j)

section
variable {s : State} {w : VVV} (hsrc : Sources s .x (sources2 w) [])
include hsrc

theorem exec_vcmp_issues (h : MayIssue s .x (.vcmp w) w.hdr) :
    exec (.vcmp w) s = s.lands .x w.hdr (s.took .x w.hdr (sources2 w)) [.preg (bits w.d 7 4).toNat
      (predOf ((List.range (1024 / tw w.ty.toNat)).map (fun j => iCompare (bits w.d 4 3).toNat
        (laneValue w.ty.toNat (operand s .x (sources2 w) 0) j) (laneValue w.ty.toNat (operand s .x (sources2 w) 1) j))))] 0 2 := by
  refine (runWord_of_queueMeaning rfl hsrc rfl h).trans ?_
  rw [v0, opValues_headD, elems, elems, List.zipWith_map, List.zipWith_self]
  rfl

theorem exec_vfcmp_issues (h : MayIssue s .x (.vfcmp w) w.hdr) :
    exec (.vfcmp w) s = s.lands .x w.hdr (s.took .x w.hdr (sources2 w)) [.preg (bits w.d 7 4).toNat
      (predOf ((List.range (1024 / tw w.ty.toNat)).map (fun j =>
        fCompare (bits w.d 4 3).toNat (comparedAt s w 0 j) (comparedAt s w 1 j))))]
      (gatherFlags ((List.range (1024 / tw w.ty.toNat)).map (fun j => ⟨0, compareFlags (comparedAt s w 0 j) (comparedAt s w 1 j)⟩))) 2 := by
  refine (runWord_of_queueMeaning rfl hsrc rfl h).trans ?_
  dsimp only
  rw [v0, opValues_headD, zip_elems, List.map_map, List.foldl_map, gatherFlags, List.foldl_map]
  rfl
end

theorem compareFlags_gathered (x y : Nat → FVal) (n : Nat) :
    gatherFlags ((List.range n).map (fun j => ⟨0, compareFlags (x j) (y j)⟩)) =
      if ∃ j < n, x j = .nan true ∨ y j = .nan true then flNV else 0 := by
  rw [gatherFlags_map_flagIf fun j => rfl, flagIf]
  refine if_congr ?_ rfl rfl
  simp [FVal.isSNaN_iff]

theorem vectorCompares : VectorCompares := by
  have hreg (w : VVV) : (bits w.d 7 4).toNat = w.d.toNat / 2 ^ 7 := by
    rw [bits_toNat, Nat.mod_eq_of_lt]
    have := w.d.isLt
    omega
  have hcode (w : VVV) : (bits w.d 4 3).toNat = w.d.toNat / 16 % 8 := bits_toNat w.d 4 3
  refine ⟨fun s w hsrc h => ?_, fun s w hsrc h => ?_⟩
  · intro v
    obtain ⟨-, hres, -, -⟩ := wordCheck_eq_none.1 h.1
    have hc : w.d.toNat / 16 % 8 ≤ 5 := by
      rw [← hcode]
      exact of_decide_eq_true (Bool.and_eq_true_iff.1 hres).2
    refine ⟨_, hreg w ▸ exec_vcmp_issues hsrc h, fun j hj => ?_⟩
    rw [predOf_getLsbD _ _ hj, hcode]
    generalize w.d.toNat / 16 % 8 = c at hc
    congr 1
    rw [Bool.eq_iff_iff]
    match c with
    | 0 | 1 | 2 | 3 | 4 | 5 => simp [iCompare, v]
    | c + 6 => omega
  · intro v n
    have hissues := exec_vfcmp_issues hsrc h
    rw [compareFlags_gathered, hreg] at hissues
    refine ⟨_, hissues, fun j hj => ?_⟩
    rw [predOf_getLsbD _ _ hj, fCompare_eq_compares, hcode]
    rfl

/-! ## VSEL and VTHR (10 R210, 13 R251) -/

/-- The order key rises with the value: the sign bit turned where it is clear, every bit where it is set. -/
theorem orderKey_eq (ty c : Nat) : orderKey ty c =
    (let h := if ty = 8 then c / 2 ^ 16 else c
     if ((FFmt.ofType ty).decode c).isNaN then 0 else if h < 0x8000 then h + 0x8000 else 0xFFFF - h) := by
  have hsmall (h : Nat) : h / 32768 = 0 ↔ h < 0x8000 := Nat.div_eq_zero_iff_lt (by decide)
  simp only [orderKey, hsmall]
  rfl

theorem laneWord_vsel : LaneWord .vsel sources3 2 (fun ty _ v j =>
    if elem (v 0) (tw ty) j ≠ 0 then elem (v 1) (tw ty) j else elem (v 2) (tw ty) j) := by
  refine (computesLanes_of_vec3 execVsel (fun _ _ => rfl) fun _ _ => rfl).laneWord (fun _ _ _ => rfl) fun ty _ v j => ?_
  simp only [plain, bne_iff_ne]
  split <;> exact Nat.mod_eq_of_lt (elem_lt _ _ _)

/-! ## Predicate words (10 R211) -/

/-- A word that reads registers, their writes landed, issues, and what it computes is on its way. -/
theorem runWord_of_regMeaning {s : State} {e : Engine} {i : Instr} {hd : Hdr} {mn : At → Mach → Meaning} {lat : Nat}
    {stops : List (Option Stop)} {ls : List Land} {fl : Flags}
    (hmn : mn ⟨s.tb, s.cur, e⟩ s.m = regMeaning ⟨s.tb, s.cur, e⟩ hd lat stops ls fl) (hstops : firstStop stops = none)
    (h : MayIssue s e i hd) : .next (runWord s e i hd mn) = s.lands e hd (s.issued e hd) ls fl lat := by
  rw [runWord_issues h (by rw [hmn]; rfl) (by rw [hmn]; exact Nat.zero_le _) (by rw [hmn]; exact hstops), hmn]
  rfl

theorem needP_eq_none {h : Hand} {n : Nat} (hn : h.pendP n = false) : h.needP n = none := by
  rw [Hand.needP, hn, freezeIf_false]

theorem predWord_issues {s : State} {i : Instr} {w : VVV} {srcs : List Nat} {f : Hand → BitVec 128}
    (hsrcs : ∀ n ∈ srcs, s.hand.pendP n = false) (h : MayIssue s .x i w.hdr) :
    predWord i w srcs f s = s.lands .x w.hdr (s.issued .x w.hdr) [.preg (w.d.toNat - 1600) (f s.hand)] 0 2 := by
  refine runWord_of_regMeaning rfl (firstStop_eq_none.2 ?_) h
  simpa using fun n hn => needP_eq_none (hsrcs n hn)

theorem selectsAndPredicates : SelectsAndPredicates := by
  refine ⟨laneWord_vsel, ?_, fun s w ha hb => ⟨fun h => ?_, fun h => ?_⟩, fun s w ha => ⟨fun h => ?_, fun h => ?_⟩⟩
  · refine (computesLanes_of_vec3 execVthr (fun _ _ => rfl) fun _ _ => rfl).laneWord (fun _ _ _ => rfl) fun ty _ v j => ?_
    exact (Nat.mod_mod _ _).trans (by rw [orderKey_eq]; rfl)
  · have hexec : exec (.pand w) s = execPand w s := rfl
    rw [hexec, execPand, predWord_issues (by simp [ha, hb]) h]
  · have hexec : exec (.por w) s = execPor w s := rfl
    rw [hexec, execPor, predWord_issues (by simp [ha, hb]) h]
  · have hexec : exec (.pnot w) s = execPnot w s := rfl
    rw [hexec, execPnot, predWord_issues (by simp [ha]) h]
    rfl
  · refine (runWord_of_regMeaning rfl (firstStop_eq_none.2 ?_) h).trans rfl
    simpa using needP_eq_none ha

/-- Settles O11: a compare lands the outcomes of its lanes as bits, and NV where a lane holds a signalling NaN; a predicate word
lands what it computes of the registers that it reads. -/
theorem comparesSelectsAndPredicates : Obligations.ComparesSelectsAndPredicates := ⟨vectorCompares, selectsAndPredicates⟩

end Sys2Proof.Machine
end

section
/-! PROOFS. Reductions and scans (10 R212, R213). -/

namespace Sys2Proof.Machine

open Claims

/-! ## Groups of lanes (10 R212) -/

theorem groupsOf_eq (g k : Nat) (l : List Nat) : groupsOf g k l = (List.range k).map (fun i => (l.drop (i * g)).take g) := by
  induction k generalizing l with
  | zero => rfl
  | succ k ih =>
    rw [groupsOf, ih, List.range_succ_eq_map, List.map_cons, List.map_map, Nat.zero_mul, List.drop_zero]
    refine congrArg _ (List.map_congr_left fun i _ => ?_)
    rw [List.drop_drop, Function.comp, Nat.succ_mul, Nat.add_comm]

/-- The lanes of group `k`, where groups have `g` lanes. -/
def groupAt (x : Entry) (w g k : Nat) : List Nat := (List.range g).map (fun j => elem x w (k * g + j))

theorem take_drop_elems (x : Entry) {w g k : Nat} (hk : k * g + g ≤ 1024 / w) :
    ((elems x w).drop (k * g)).take g = groupAt x w g k := by
  apply List.ext_getElem
  · simp [groupAt]
    omega
  · intro j hj hj'
    simp [elems, groupAt]

/-- The groups of an entry, as many as fit. -/
theorem groupsOf_elems (x : Entry) (w g : Nat) :
    groupsOf g (1024 / w / g) (elems x w) = (List.range (1024 / w / g)).map (groupAt x w g) := by
  rw [groupsOf_eq]
  refine List.map_congr_left fun k hk => take_drop_elems x ?_
  rw [← Nat.succ_mul]
  exact (Nat.mul_le_mul_right g (List.mem_range.1 hk)).trans (Nat.div_mul_le_self _ g)

theorem groupSize_eq (w : VVI) :
    groupSize w = if w.imm.toNat % 16 = 0 then 1024 / tw w.ty.toNat else 2 ^ (w.imm.toNat % 16) := by
  have hG : (bits w.imm 0 4).toNat = w.imm.toNat % 16 := bits_zero_toNat w.imm 4
  simp only [groupSize, hG]

/-! ## Reductions (10 R212) -/

/-- A reduction, as far as its groups go: one result for each, and zero elements above. -/
theorem reduction_of_reduceWord (word : VVI → State → Out) {i : VVI → Instr} {g : VVI → Nat → List Nat → FRes}
    {f : Nat → Nat → List Nat → FRes} (hexec : ∀ w s, exec (i w) s = word w s) (hword : ∀ w s, word w s = reduceWord (i w) w (g w) s)
    (hcode : ∀ w rm l, (g w rm l).code % 2 ^ tw w.ty.toNat = (f w.ty.toNat rm l).code % 2 ^ tw w.ty.toNat)
    (hflags : ∀ w rm l, (g w rm l).flags = (f w.ty.toNat rm l).flags) (s : State) (w : VVI)
    (hsrc : Sources s .x (sourceOf w w.ty.toNat) [w.d.toNat]) (h : MayIssue s .x (i w) w.hdr) :
    let n := 1024 / tw w.ty.toNat
    let group := groupAt (operand s .x (sourceOf w w.ty.toNat) 0) (tw w.ty.toNat) (groupSize w)
    ∃ r, exec (i w) s = s.lands .x w.hdr (s.took .x w.hdr (sourceOf w w.ty.toNat)) [.queue w.d.toNat r]
        (gatherFlags ((List.range (n / groupSize w)).map (fun k => f w.ty.toNat s.hand.xrm (group k)))) 6 ∧
      ∀ k, k < n → elem r (tw w.ty.toNat) k =
        if k < n / groupSize w then (f w.ty.toNat s.hand.xrm (group k)).code % 2 ^ tw w.ty.toNat else 0 := by
  intro n group
  have hissues : exec (i w) s = s.lands .x w.hdr (s.took .x w.hdr (sourceOf w w.ty.toNat))
      [.queue w.d.toNat (mkEntry (tw w.ty.toNat) (((List.range (n / groupSize w)).map (fun k => g w s.hand.xrm (group k))).map FRes.code))]
      (gatherFlags ((List.range (n / groupSize w)).map (fun k => g w s.hand.xrm (group k)))) 6 := by
    refine (hexec w s).trans ((hword w s).trans ((runWord_of_queueMeaning rfl hsrc rfl h).trans ?_))
    rw [v0, opValues_headD, groupsOf_elems, List.map_map]
    rfl
  rw [gatherFlags_congr fun k => hflags w s.hand.xrm (group k)] at hissues
  refine ⟨_, hissues, fun k hk => ?_⟩
  rw [List.map_map, elem_mkEntry_prefix _ hk]
  exact if_congr Iff.rfl (hcode ..) rfl

/-! ## VSCAN (10 R213) -/

/-- Each lane of a scan is the sum of the lanes below it, or that with its own, and sets the flags of its own sum. -/
theorem scanGroup_eq (add : Nat → Nat → FRes) (excl : Bool) (a : Nat) (l : List Nat) :
    scanGroup add excl a l = (List.range l.length).map (fun i =>
      ⟨(l.take (if excl then i else i + 1)).foldl (fun a b => (add a b).code) a,
        (add ((l.take i).foldl (fun a b => (add a b).code) a) (l.getD i 0)).flags⟩) := by
  induction l generalizing a with
  | nil => rfl
  | cons v t ih =>
    rw [scanGroup, ih, List.length_cons, List.range_succ_eq_map, List.map_cons, List.map_map]
    refine congrArg₂ _ ?_ (List.map_congr_left fun i _ => ?_)
    · cases excl <;> rfl
    · cases excl <;> rfl

/-- Stretches of equal length, one after the other, are counted by quotient and remainder. -/
theorem flatMap_range_map {α : Type} (k g : Nat) (f : Nat → Nat → α) :
    (List.range k).flatMap (fun i => (List.range g).map (f i)) = (List.range (k * g)).map (fun j => f (j / g) (j % g)) := by
  induction k with
  | zero => simp
  | succ k ih =>
    rw [List.range_succ, List.flatMap_append, ih, Nat.succ_mul, List.range_add, List.map_append, List.map_map, List.flatMap_singleton]
    refine congrArg _ (List.map_congr_left fun j hj => ?_)
    have hj' := List.mem_range.1 hj
    have hg : 0 < g := Nat.zero_lt_of_lt hj'
    simp [Nat.mul_add_div, Nat.mod_eq_of_lt hj', Nat.div_eq_of_lt hj', Nat.mul_comm k, hg]

theorem lanes_eq_two_pow (ty : BitVec 4) : 1024 / tw ty.toNat = 2 ^ tyLogLanes ty := by
  have hle : tyLogWidth ty ≤ 10 := by
    rw [tyLogWidth]
    split <;> decide
  rw [tw, BitVec.ofNat_toNat, BitVec.setWidth_eq, tyWidth, tyLogLanes]
  exact Nat.pow_div hle two_pos

/-- The groups of a well-formed reduction or scan fill the entry. -/
theorem groupSize_dvd {w : VVI} {scan typ : Bool} (hty : tyCode w.ty = true) (hc : chkRed w scan typ = none) :
    groupSize w ∣ 1024 / tw w.ty.toNat := by
  obtain ⟨-, hres, -, -⟩ := wordCheck_eq_none.1 hc
  have hG : (bits w.imm 0 4).toNat ≤ tyLogLanes w.ty := by simpa [hty] using (Bool.and_eq_true_iff.1 hres).2
  unfold groupSize
  dsimp only
  split
  · exact dvd_rfl
  · rw [lanes_eq_two_pow]
    exact pow_dvd_pow 2 hG

/-- The running sum over the first `k` lanes of group `i`. -/
def scanSum (add : Nat → Nat → FRes) (x : Entry) (w g i k : Nat) : Nat :=
  ((List.range k).map (fun j => elem x w (i * g + j))).foldl (fun a b => (add a b).code) 0

/-- The result of a scan in lane `j` of group `i`. -/
def scanResult (add : Nat → Nat → FRes) (excl : Bool) (x : Entry) (w g i j : Nat) : FRes :=
  ⟨scanSum add x w g i (if excl then j else j + 1), (add (scanSum add x w g i j) (elem x w (i * g + j))).flags⟩

theorem scanResult_flags (add : Nat → Nat → FRes) (excl : Bool) (x : Entry) (w g j : Nat) :
    (scanResult add excl x w g (j / g) (j % g)).flags = (add (scanSum add x w g (j / g) (j % g)) (elem x w j)).flags := by
  rw [scanResult, Nat.div_add_mod']

theorem scanGroup_groupAt (add : Nat → Nat → FRes) (excl : Bool) (x : Entry) (w g i : Nat) :
    scanGroup add excl 0 (groupAt x w g i) = (List.range g).map (scanResult add excl x w g i) := by
  have htake {k : Nat} (hk : k ≤ g) : (groupAt x w g i).take k = (List.range k).map (fun j => elem x w (i * g + j)) := by
    rw [groupAt, ← List.map_take, List.take_range, Nat.min_eq_left hk]
  have hlen : (groupAt x w g i).length = g := by rw [groupAt, List.length_map, List.length_range]
  rw [scanGroup_eq, hlen]
  refine List.map_congr_left fun j hj => ?_
  have hj' := List.mem_range.1 hj
  have hlane : (groupAt x w g i).getD j 0 = elem x w (i * g + j) := by simp [groupAt, List.getD, hj']
  rw [htake (by split <;> omega), htake hj'.le, hlane]
  rfl

/-- The scans of the groups of an entry, one after the other, are counted lane by lane. -/
theorem flatMap_scanGroup (add : Nat → Nat → FRes) (excl : Bool) (x : Entry) {w g : Nat} (hg : g ∣ 1024 / w) :
    ((List.range (1024 / w / g)).map (groupAt x w g)).flatMap (scanGroup add excl 0) =
      (List.range (1024 / w)).map (fun j => scanResult add excl x w g (j / g) (j % g)) := by
  rw [List.flatMap_map, funext (scanGroup_groupAt add excl x w g), flatMap_range_map, Nat.div_mul_cancel hg]

/-- The addition of a scan: of the type's floating values, or wrapped. -/
def scanAdd (ty rm a b : Nat) : FRes := if isF ty then fAdd (FFmt.ofType ty) rm a b else ⟨(a + b) % 2 ^ tw ty, 0⟩

theorem exec_vscan_issues {s : State} {w : VVI} (hsrc : Sources s .x (sourceOf w w.ty.toNat) [w.d.toNat])
    (h : MayIssue s .x (.vscan w) w.hdr) :
    let rs := (List.range (1024 / tw w.ty.toNat)).map (fun j =>
      scanResult (scanAdd w.ty.toNat s.hand.xrm) (bit w.imm 4) (operand s .x (sourceOf w w.ty.toNat) 0) (tw w.ty.toNat) (groupSize w)
        (j / groupSize w) (j % groupSize w))
    exec (.vscan w) s = s.lands .x w.hdr (s.took .x w.hdr (sourceOf w w.ty.toNat))
      [.queue w.d.toNat (mkEntry (tw w.ty.toNat) (rs.map FRes.code))] (gatherFlags rs) 6 := by
  obtain ⟨-, -, hany, -⟩ := wordCheck_eq_none.1 h.1
  have hty : tyCode w.ty = true := decide_eq_true ((of_decide_eq_true hany).trans (by decide))
  refine (runWord_of_queueMeaning rfl hsrc rfl h).trans ?_
  dsimp only
  rw [v0, opValues_headD, groupsOf_elems, flatMap_scanGroup _ _ _ (groupSize_dvd hty h.1)]
  rfl

theorem reductionWords : ReductionWords := by
  have hsize : (fun w : VVI => if w.imm.toNat % 16 = 0 then 1024 / tw w.ty.toNat else 2 ^ (w.imm.toNat % 16)) = groupSize :=
    funext fun w => (groupSize_eq w).symm
  unfold ReductionWords
  rw [hsize]
  intro groupOf Reduction
  refine ⟨?vradd, ?vrmax, ?vrmin, ?vrfadd, ?vargmx, ?vscan⟩
  case vradd =>
    refine reduction_of_reduceWord (f := fun _ _ l => ⟨l.sum, 0⟩) execVradd
      (fun _ _ => rfl) (fun _ _ => rfl) (fun w _ l => ?_) fun _ _ _ => rfl
    rw [List.sum_eq_foldl]
    exact Nat.mod_mod _ _
  case vrmax =>
    exact reduction_of_reduceWord (f := fun ty _ l => extremeOf ty true l) execVrmax
      (fun _ _ => rfl) (fun _ _ => rfl) (fun _ _ _ => rfl) fun _ _ _ => rfl
  case vrmin =>
    exact reduction_of_reduceWord (f := fun ty _ l => extremeOf ty false l) execVrmin
      (fun _ _ => rfl) (fun _ _ => rfl) (fun _ _ _ => rfl) fun _ _ _ => rfl
  case vrfadd =>
    exact reduction_of_reduceWord (f := rfaddGroup) execVrfadd
      (fun _ _ => rfl) (fun _ _ => rfl) (fun _ _ _ => rfl) fun _ _ _ => rfl
  case vargmx =>
    exact reduction_of_reduceWord (f := fun ty _ l => argMax ty l) execVargmx
      (fun _ _ => rfl) (fun _ _ => rfl) (fun _ _ _ => rfl) fun _ _ _ => rfl
  case vscan =>
    intro s w hsrc h n g x add acc
    have hissues := exec_vscan_issues hsrc h
    dsimp only at hissues
    rw [gatherFlags_congr fun j => scanResult_flags ..] at hissues
    refine ⟨_, hissues, fun j hj => ?_⟩
    rw [List.map_map, elem_mkEntry_map _ hj]
    rfl

/-! ## The extremes of a group (10 R212) -/

/-- The first of the largest elements by `u` of a list that begins with `a`. -/
def largest {α : Type} (u : α → Int) (a : α) (t : List α) : α := t.foldl (fun acc c => if u acc < u c then c else acc) a

theorem le_of_split {α : Type} {u : α → Int} {before after : List α} {x c : α} (hbefore : ∀ c ∈ before, u c < u x)
    (hafter : ∀ c ∈ after, u c ≤ u x) (hc : c ∈ before ++ x :: after) : u c ≤ u x := by
  obtain hc | hc := List.mem_append.1 hc
  · exact (hbefore c hc).le
  · obtain rfl | hc := List.mem_cons.1 hc
    · exact le_rfl
    · exact hafter c hc

/-- It divides the list: what stands before it is smaller, and what stands behind it is no larger. -/
theorem largest_splits {α : Type} (u : α → Int) (a : α) (t : List α) : ∃ before after, a :: t = before ++ largest u a t :: after ∧
    (∀ c ∈ before, u c < u (largest u a t)) ∧ ∀ c ∈ after, u c ≤ u (largest u a t) := by
  induction t generalizing a with
  | nil => exact ⟨[], [], rfl, by simp, by simp⟩
  | cons c t ih =>
    have hstep : largest u a (c :: t) = largest u (if u a < u c then c else a) t := rfl
    rw [hstep]
    split
    · next hlt =>
      obtain ⟨before, after, heq, hbefore, hafter⟩ := ih c
      refine ⟨a :: before, after, congrArg (a :: ·) heq, ?_, hafter⟩
      have hle : u c ≤ u (largest u c t) := le_of_split hbefore hafter (heq ▸ List.mem_cons_self)
      intro b hb
      obtain rfl | hb := List.mem_cons.1 hb
      · exact hlt.trans_le hle
      · exact hbefore b hb
    · next hge =>
      obtain ⟨before, after, heq, hbefore, hafter⟩ := ih a
      cases before with
      | nil =>
        obtain ⟨ha, ht⟩ := List.cons.inj heq
        refine ⟨[], c :: t, by rw [← ha]; rfl, by simp, fun b hb => ?_⟩
        obtain rfl | hb := List.mem_cons.1 hb
        · rw [← ha]; exact not_lt.1 hge
        · exact hafter b (ht ▸ hb)
      | cons a' before =>
        obtain ⟨rfl, ht⟩ := List.cons.inj heq
        refine ⟨a :: c :: before, after, congrArg (a :: c :: ·) ht, ?_, hafter⟩
        have ha := hbefore a List.mem_cons_self
        intro b hb
        simp only [List.mem_cons] at hb
        obtain rfl | rfl | hb := hb
        · exact ha
        · exact (not_lt.1 hge).trans_lt ha
        · exact hbefore b (List.mem_cons_of_mem _ hb)

theorem largest_mem_and_le {α : Type} (u : α → Int) (a : α) (t : List α) :
    largest u a t ∈ a :: t ∧ ∀ c ∈ a :: t, u c ≤ u (largest u a t) := by
  obtain ⟨before, after, heq, hbefore, hafter⟩ := largest_splits u a t
  rw [heq]
  exact ⟨by simp, fun c hc => le_of_split hbefore hafter hc⟩

section
variable {ty : Nat} (hty : isF ty = false) (a : Nat) (t : List Nat)
include hty

theorem extremeOf_max : (extremeOf ty true (a :: t)).code = largest (intOf (tySigned ty) (tw ty)) a t := by
  simp only [extremeOf, hty, Bool.false_eq_true, if_false, plain, List.tail_cons, List.headD_cons, largest]
  congr 1
  funext acc c
  refine if_congr ?_ rfl rfl
  simp only [Bool.and_eq_true, bne_iff_ne, ne_eq, decide_eq_true_eq]
  omega

theorem extremeOf_min : (extremeOf ty false (a :: t)).code = largest (fun c => -intOf (tySigned ty) (tw ty) c) a t := by
  simp only [extremeOf, hty, Bool.false_eq_true, if_false, plain, List.tail_cons, List.headD_cons, largest]
  congr 1
  funext acc c
  refine if_congr ?_ rfl rfl
  simp only [Bool.and_eq_true, bne_iff_ne, ne_eq, Bool.bne_false, decide_eq_true_eq]
  omega

/-- The position that VARGMX finds divides the group: what stands before it is smaller, and what stands behind it is no larger. -/
theorem argMax_splits : ∃ before x after, a :: t = before ++ x :: after ∧ (argMax ty (a :: t)).code = before.length ∧
    (∀ c ∈ before, intOf (tySigned ty) (tw ty) c < intOf (tySigned ty) (tw ty) x) ∧
    ∀ c ∈ after, intOf (tySigned ty) (tw ty) c ≤ intOf (tySigned ty) (tw ty) x := by
  have hless (x y : Nat) : argLess ty x y = true ↔ intOf (tySigned ty) (tw ty) x < intOf (tySigned ty) (tw ty) y := by
    simp [argLess, hty]
  have hcode : (argMax ty (a :: t)).code = (largest (fun p : Nat × Nat => intOf (tySigned ty) (tw ty) p.1) (a, 0) (t.zipIdx 1)).2 := by
    simp only [argMax, List.headD_cons, List.zipIdx_cons, List.foldl_cons, hless, lt_irrefl, if_false]
    rfl
  obtain ⟨before, after, hsplit, hbefore, hafter⟩ :=
    largest_splits (fun p : Nat × Nat => intOf (tySigned ty) (tw ty) p.1) (a, 0) (t.zipIdx 1)
  rw [hcode]
  generalize largest _ _ _ = r at *
  have hzip : (a :: t).zipIdx = before ++ r :: after := hsplit
  have hlist : (a :: t) = before.map Prod.fst ++ r.1 :: after.map Prod.fst := by
    rw [← List.zipIdx_map_fst 0 (a :: t), hzip, List.map_append, List.map_cons]
  have hpos : (a :: t).zipIdx[before.length]? = some r := by rw [hzip]; simp
  rw [List.getElem?_zipIdx, Option.map_eq_some_iff] at hpos
  obtain ⟨x, -, rfl⟩ := hpos
  refine ⟨_, _, _, hlist, by simp, ?_, ?_⟩
  · simpa using fun c k hc => hbefore (c, k) hc
  · simpa using fun c k hc => hafter (c, k) hc
end

theorem groupExtremes : GroupExtremes := by
  intro ty l hlt hne _ v
  have hty : isF ty = false := by simp [isF, hlt]
  obtain ⟨a, t, rfl⟩ := List.exists_cons_of_ne_nil hne
  obtain ⟨hmax, hmaxLe⟩ := largest_mem_and_le v a t
  obtain ⟨hmin, hminLe⟩ := largest_mem_and_le (fun c => -v c) a t
  obtain ⟨before, x, after, hsplit, hcode, hbefore, hafter⟩ := argMax_splits hty a t
  rw [extremeOf_max hty, extremeOf_min hty, hcode]
  refine ⟨hmax, hmaxLe, hmin, fun c hc => neg_le_neg_iff.1 (hminLe c hc), ?_⟩
  intro p
  have hx : (before ++ x :: after).getD p 0 = x := by simp [p]
  rw [hsplit, hx]
  refine ⟨by simp [p], fun c hc => le_of_split hbefore hafter hc, fun q (hq : q < before.length) => ?_⟩
  have hq' : (before ++ x :: after).getD q 0 = before[q] := by simp [List.getD, List.getElem?_append, hq]
  rw [hq']
  exact hbefore _ (List.getElem_mem hq)

/-- Settles O12: the groups of an entry are stretches of its lanes; a scan's lane is a running sum of its group; the fold of a group keeps
the first of the largest. -/
theorem reductionsAndScans : Obligations.ReductionsAndScans := ⟨reductionWords, groupExtremes⟩

end Sys2Proof.Machine
end

section
/-! PROOFS. The permutes (10 R214). -/

namespace Sys2Proof.Machine

open Claims

/-! ## Words that push one entry -/

theorem exec_vperm_issues {s : State} {w : VVV} (hsrc : Sources s .x (sources2 w) [w.d.toNat]) (h : MayIssue s .x (.vperm w) w.hdr) :
    exec (.vperm w) s = s.lands .x w.hdr (s.took .x w.hdr (sources2 w)) [.queue w.d.toNat (mkEntry (tw w.ty.toNat)
      ((List.range (1024 / tw w.ty.toNat)).map (fun j =>
        let i := elem (operand s .x (sources2 w) 1) (tw w.ty.toNat) j % (2 * (1024 / tw w.ty.toNat))
        if i < 1024 / tw w.ty.toNat then elem (operand s .x (sources2 w) 0) (tw w.ty.toNat) i else 0)))] 0 3 := by
  refine (runWord_of_queueMeaning rfl hsrc rfl h).trans ?_
  rw [v0, opValues_headD, elems, List.map_map]
  rfl

theorem laneWord_vperm : LaneWord .vperm sources2 3 (fun ty _ v j =>
    let n := 1024 / tw ty
    let i := elem (v 1) (tw ty) j % (2 * n)
    if i < n then elem (v 0) (tw ty) i else 0) := by
  intro s w hsrc h
  refine ⟨_, exec_vperm_issues hsrc h, fun j hj => ?_⟩
  rw [elem_mkEntry_map _ hj]
  dsimp only
  split
  · exact Nat.mod_eq_of_lt (elem_lt _ _ _)
  · exact Nat.zero_mod _

/-- A one-source permute puts in each place what `f` finds there, when that fits the width. -/
theorem permute_of_permWord (word : VVI → State → Out) {i : VVI → Instr} (f : VVI → Nat → (Nat → Nat) → Nat → Nat)
    {g : VVI → (Nat → Nat) → Nat → Nat → Nat} (hexec : ∀ w s, exec (i w) s = word w s)
    (hword : ∀ w s, word w s = permWord (i w) w (g w) s)
    (hval : ∀ w a j, (i w).check = none → (∀ k, a k < 2 ^ tw w.ty.toNat) → j < 1024 / tw w.ty.toNat →
      g w a (1024 / tw w.ty.toNat) j = f w (1024 / tw w.ty.toNat) a j ∧ f w (1024 / tw w.ty.toNat) a j < 2 ^ tw w.ty.toNat)
    (s : State) (w : VVI) (hsrc : Sources s .x (sourceOf w w.ty.toNat) [w.d.toNat]) (h : MayIssue s .x (i w) w.hdr) :
    ∃ r, exec (i w) s = s.lands .x w.hdr (s.took .x w.hdr (sourceOf w w.ty.toNat)) [.queue w.d.toNat r] 0 3 ∧
      ∀ j, j < 1024 / tw w.ty.toNat → elem r (tw w.ty.toNat) j =
        f w (1024 / tw w.ty.toNat) (elem (operand s .x (sourceOf w w.ty.toNat) 0) (tw w.ty.toNat)) j := by
  have hissues : exec (i w) s = s.lands .x w.hdr (s.took .x w.hdr (sourceOf w w.ty.toNat))
      [.queue w.d.toNat (mkEntry (tw w.ty.toNat) ((List.range (1024 / tw w.ty.toNat)).map
        (g w (elem (operand s .x (sourceOf w w.ty.toNat) 0) (tw w.ty.toNat)) (1024 / tw w.ty.toNat))))] 0 3 := by
    refine (hexec w s).trans ((hword w s).trans ((runWord_of_queueMeaning rfl hsrc rfl h).trans ?_))
    rw [v0, opValues_headD]
  refine ⟨_, hissues, fun j hj => ?_⟩
  rw [elem_mkEntry_map _ hj]
  obtain ⟨heq, hlt⟩ := hval w (elem (operand s .x (sourceOf w w.ty.toNat) 0) (tw w.ty.toNat)) j h.1 (fun k => elem_lt _ _ _) hj
  rw [heq, Nat.mod_eq_of_lt hlt]

/-! ## Words that push two entries -/

theorem take_elems {w m : Nat} (x : Entry) (hn : 1024 / w = 2 * m) : (elems x w).take m = (List.range m).map (elem x w) := by
  rw [elems, hn, ← List.map_take, List.take_range, Nat.min_eq_left (by omega)]

theorem drop_elems {w m : Nat} (x : Entry) (hn : 1024 / w = 2 * m) :
    (elems x w).drop m = (List.range m).map (fun j => elem x w (m + j)) := by
  rw [elems, hn, two_mul, List.range_add, List.map_append, List.map_map]
  exact List.drop_left' (by simp)

theorem interleave_map_range (m : Nat) (f g : Nat → Nat) :
    interleave ((List.range m).map f) ((List.range m).map g) =
      (List.range (2 * m)).map (fun j => if j % 2 = 0 then f (j / 2) else g (j / 2)) := by
  induction m generalizing f g with
  | zero => rfl
  | succ m ih =>
    rw [List.range_succ_eq_map, List.map_cons, List.map_cons, List.map_map, List.map_map, interleave, ih, Nat.mul_succ,
      List.range_succ_eq_map, List.range_succ_eq_map, List.map_cons, List.map_map, List.map_cons, List.map_map]
    refine congrArg (_ :: _ :: ·) (List.map_congr_left fun j _ => ?_)
    simp only [Function.comp, Nat.succ_eq_add_one, Nat.add_assoc, Nat.reduceAdd, Nat.add_mod_right, Nat.add_div_right _ two_pos]

theorem everyOther_map_range (odd : Bool) (m : Nat) (f : Nat → Nat) :
    everyOther odd ((List.range (2 * m)).map f) = (List.range m).map (fun j => f (2 * j + odd.toNat)) := by
  unfold everyOther
  induction m with
  | zero => rfl
  | succ m ih =>
    rw [Nat.mul_succ, List.range_succ, List.range_succ, List.map_append, List.map_append, List.zipIdx_append, List.zipIdx_append,
      List.filter_append, List.filter_append, List.map_append, List.map_append, ih, List.range_succ, List.map_append]
    cases odd <;> simp

/-- A two-source permute pushes what `f` and `g` find in each place. -/
theorem pair_of_pairWord (word : VVV → State → Out) {i : VVV → Instr} {p : Nat → List Nat → List Nat → List Nat × List Nat}
    (f g : Nat → (Nat → Nat) → (Nat → Nat) → Nat → Nat) (hexec : ∀ w s, exec (i w) s = word w s)
    (hword : ∀ w s, word w s = pairWord (i w) w p s)
    (hp : ∀ w x y m, 1024 / w = 2 * m → p (1024 / w) (elems x w) (elems y w) =
      ((List.range (1024 / w)).map (f (1024 / w) (elem x w) (elem y w)), (List.range (1024 / w)).map (g (1024 / w) (elem x w) (elem y w))))
    (hlt : ∀ n a b j m, (∀ k, a k < m) → (∀ k, b k < m) → f n a b j < m ∧ g n a b j < m)
    (s : State) (w : VVV) (hsrc : Sources s .x (sources2 w) [w.d.toNat, w.d.toNat]) (h : MayIssue s .x (i w) w.hdr) :
    let n := 1024 / tw w.ty.toNat
    let a := elem (operand s .x (sources2 w) 0) (tw w.ty.toNat)
    let b := elem (operand s .x (sources2 w) 1) (tw w.ty.toNat)
    ∃ r t, exec (i w) s = s.lands .x w.hdr (s.took .x w.hdr (sources2 w)) [.queue w.d.toNat r, .queue w.d.toNat t] 0 3 ∧
      ∀ j, j < n → elem r (tw w.ty.toNat) j = f n a b j ∧ elem t (tw w.ty.toNat) j = g n a b j := by
  intro n a b
  have hissues : exec (i w) s = s.lands .x w.hdr (s.took .x w.hdr (sources2 w))
      [.queue w.d.toNat (mkEntry (tw w.ty.toNat) ((List.range n).map (f n a b))),
       .queue w.d.toNat (mkEntry (tw w.ty.toNat) ((List.range n).map (g n a b)))] 0 3 := by
    refine (hexec w s).trans ((hword w s).trans ((runWord_of_queueMeaning rfl hsrc rfl h).trans ?_))
    dsimp only [v0, v1]
    rw [opValues_headD, hp _ _ _ _ (lanes_eq_two_mul _)]
  refine ⟨_, _, hissues, fun j hj => ?_⟩
  obtain ⟨hf, hg⟩ := hlt n a b j (2 ^ tw w.ty.toNat) (fun k => elem_lt _ _ _) fun k => elem_lt _ _ _
  rw [elem_mkEntry_map _ hj, elem_mkEntry_map _ hj, Nat.mod_eq_of_lt hf, Nat.mod_eq_of_lt hg]
  exact ⟨rfl, rfl⟩

end Sys2Proof.Machine
end

section
/-! PROOFS. VSIGN (14 R265, R266) and the statement of the permutes. -/

namespace Sys2Proof.Machine

open Claims

/-! ## One bit replaced -/

theorem add_two_pow_eq_xor {x m : Nat} (h : x.testBit m = false) : x + 2 ^ m = x ^^^ 2 ^ m := by
  have hpos := Nat.two_pow_pos m
  refine Nat.ext_div_mod (n := 2 ^ m) ?_ ?_
  · have heven : Even (x / 2 ^ m) := by
      rw [Nat.testBit_eq_decide_div_mod_eq, decide_eq_false_iff_not] at h
      rw [Nat.even_iff]
      omega
    rw [Nat.xor_div_two_pow, Nat.div_self hpos, Nat.xor_one_of_even heven, Nat.add_div_right _ hpos]
  · rw [Nat.xor_mod_two_pow, Nat.mod_self, Nat.xor_zero, Nat.add_mod_right]

theorem sub_two_pow_eq_xor {x m : Nat} (h : x.testBit m = true) : x - 2 ^ m = x ^^^ 2 ^ m := by
  have hclear : (x ^^^ 2 ^ m).testBit m = false := by rw [Nat.testBit_xor, h, Nat.testBit_two_pow_self]; rfl
  have hback := add_two_pow_eq_xor hclear
  rw [Nat.xor_assoc, Nat.xor_self, Nat.xor_zero] at hback
  omega

/-- Bit `m` made 1 or 0, as `b` is, by an addition or a subtraction where it must turn. -/
theorem testBit_replaced (x m b i : Nat) (hb : b < 2) :
    (if x.testBit m then (if b = 1 then x else x - 2 ^ m) else x + b * 2 ^ m).testBit i =
      if i = m then decide (b = 1) else x.testBit i := by
  have hxor : (x ^^^ 2 ^ m).testBit i = if i = m then !x.testBit i else x.testBit i := by
    rw [Nat.testBit_xor, Nat.testBit_two_pow]
    by_cases him : i = m
    · simp [him]
    · simp [him, Ne.symm him]
  have hkeep (c : Bool) (hx : x.testBit m = c) : x.testBit i = if i = m then c else x.testBit i := by
    split
    · next him => rw [him, hx]
    · rfl
  have hturn (c : Bool) (hx : x.testBit m = !c) : (x ^^^ 2 ^ m).testBit i = if i = m then c else x.testBit i := by
    rw [hxor]
    refine ite_congr rfl (fun him => ?_) fun _ => rfl
    rw [him, hx, Bool.not_not]
  cases hx : x.testBit m <;> interval_cases b
  · simpa using hkeep false hx
  · simpa [add_two_pow_eq_xor hx] using hturn true hx
  · simpa [sub_two_pow_eq_xor hx] using hturn false hx
  · simpa using hkeep true hx

/-! ## VSIGN -/

/-- The signature bits that an entry gives: those whose feature lies in it take the sign of that element, the others stay. -/
theorem signBits_testBit (x : Ctx) (ty k : Nat) (a : Entry) (old i : Nat) :
    (signBits x ty k a old).testBit i =
      if i < 16 ∧ x.feature i / (1024 / tw ty) = k then (elem a (tw ty) (x.feature i % (1024 / tw ty))).testBit (tw ty - 1)
      else old.testBit i := by
  unfold signBits
  dsimp only
  generalize 16 = m
  induction m with
  | zero => simp
  | succ m ih =>
    rw [List.range_succ, List.foldl_append, List.foldl_cons, List.foldl_nil]
    have hlt (him : i ≠ m) : i < m + 1 ↔ i < m := by omega
    split
    · next hk =>
      rw [testBit_replaced _ _ _ _ (Nat.mod_lt _ two_pos), ih]
      by_cases him : i = m
      · rw [if_pos him, him, if_pos ⟨m.lt_succ_self, hk⟩, Nat.testBit_eq_decide_div_mod_eq]
      · rw [if_neg him]
        simp only [hlt him]
    · next hk =>
      rw [ih]
      by_cases him : i = m
      · rw [him, if_neg (by simp), if_neg (by simp [hk])]
      · simp only [hlt him]

theorem feature_eq (x : Ctx) (i : Nat) : x.feature i = (x.reg (0x060 + i / 4)).toNat / 2 ^ (16 * (i % 4)) % 2 ^ 14 := bits_toNat ..

/-- The operands of VSIGN: the entry of the hidden row, and the entry it adds to unless Z is set. -/
def signSources (w : VVI) : List Opnd := sourceOf w w.ty.toNat ++ if bit w.imm 12 then [] else [⟨w.d.toNat, false, false, 4⟩]

theorem exec_vsign_issues {s : State} {w : VVI} (hsrc : Sources s .x (signSources w) [w.d.toNat])
    (h : MayIssue s .x (.vsign w) w.hdr) :
    let y := if bit w.imm 12 then 0 else operand s .x (signSources w) 1
    exec (.vsign w) s = s.lands .x w.hdr (s.took .x w.hdr (signSources w)) [.queue w.d.toNat (mkEntry 32 ((List.range 32).map (fun j =>
      if j = (bits w.imm 7 5).toNat then
        signBits s.ctx w.ty.toNat (bits w.imm 0 7).toNat (operand s .x (signSources w) 0) (elem y 32 j)
      else elem y 32 j)))] 0 2 := by
  refine (runWord_of_queueMeaning (os := signSources w) rfl hsrc rfl h).trans ?_
  rw [v0, opValues_headD]
  rfl

theorem vsign_replaces (s : State) (w : VVI) (hsrc : Sources s .x (signSources w) [w.d.toNat]) (h : MayIssue s .x (.vsign w) w.hdr) :
    let y := if bit w.imm 12 then 0 else operand s .x (signSources w) 1
    let n := 1024 / tw w.ty.toNat
    ∃ r, exec (.vsign w) s = s.lands .x w.hdr (s.took .x w.hdr (signSources w)) [.queue w.d.toNat r] 0 2 ∧
      ∀ j i, j < 32 → i < 32 → (elem r 32 j).testBit i =
        if j = w.imm.toNat / 2 ^ 7 % 32 ∧ i < 16 ∧ s.ctx.feature i / n = w.imm.toNat % 128 then
          (elem (operand s .x (signSources w) 0) (tw w.ty.toNat) (s.ctx.feature i % n)).testBit (tw w.ty.toNat - 1)
        else (elem y 32 j).testBit i := by
  have hl : (bits w.imm 7 5).toNat = w.imm.toNat / 2 ^ 7 % 32 := bits_toNat w.imm 7 5
  have hk : (bits w.imm 0 7).toNat = w.imm.toNat % 128 := bits_zero_toNat w.imm 7
  intro y n
  refine ⟨_, exec_vsign_issues hsrc h, fun j i hj hi => ?_⟩
  rw [elem_mkEntry_prefix _ hj, if_pos hj, Nat.testBit_mod_two_pow, decide_eq_true hi, Bool.true_and, hl, hk]
  by_cases hjl : j = w.imm.toNat / 2 ^ 7 % 32
  · rw [if_pos hjl, signBits_testBit]
    simp only [hjl, true_and]
    rfl
  · rw [if_neg hjl]
    exact (if_neg fun hall => hjl hall.1).symm

/-! ## The statement -/

theorem filter_length_lt {ty j : Nat} (hty : ty ≤ 8) (p : Nat → Bool) (hj : j < 1024 / tw ty) :
    ((List.range j).filter p).length < 2 ^ tw ty := by
  have hle : ((List.range j).filter p).length ≤ j := by simpa using List.length_filter_le p (List.range j)
  exact hle.trans_lt (hj.trans_le (lanes_le_two_pow hty))

/-- Settles O13: a permute puts in each place an element of its sources, or a count that fits the width; VSIGN replaces bits one by one. -/
theorem permutes : Obligations.Permutes := by
  unfold Obligations.Permutes
  intro Permute Pair
  refine ⟨laneWord_vperm, ?vbcst, ?vsld, ?viota, ?vzip, ?vuzp, ?vsign⟩
  case vbcst =>
    refine permute_of_permWord execVbcst (fun w _ a _ => a (w.imm.toNat % 128)) (fun _ _ => rfl) (fun _ _ => rfl)
      fun w a j _ ha _ => ⟨congrArg a (bits_zero_toNat w.imm 7), ha _⟩
  case vsld =>
    refine permute_of_permWord execVsld (fun w n a j =>
      let k := w.imm.toNat % 128
      if w.imm.getLsbD 7 then (if k ≤ j then a (j - k) else 0) else if j + k < n then a (j + k) else 0) (fun _ _ => rfl) (fun _ _ => rfl)
      fun w a j _ ha _ => ⟨?_, ?_⟩
    · rw [bits_zero_toNat]
      rfl
    · have hpos := Nat.two_pow_pos (tw w.ty.toNat)
      dsimp only
      split_ifs <;> simp [ha]
  case viota =>
    refine permute_of_permWord execViota (fun _ _ a j => ((List.range j).filter (fun i => a i ≠ 0)).length) (fun _ _ => rfl)
      (fun _ _ => rfl) fun w a j hc _ hj => ⟨?_, ?_⟩
    · exact congrArg List.length (List.filter_congr fun i _ => by rw [Bool.eq_iff_iff]; simp)
    · obtain ⟨-, -, hty, -⟩ := wordCheck_eq_none.1 hc
      exact filter_length_lt ((of_decide_eq_true hty).trans (by decide)) _ hj
  case vzip =>
    refine pair_of_pairWord execVzip (fun _ a b j => if j % 2 = 0 then a (j / 2) else b (j / 2))
      (fun n a b j => if j % 2 = 0 then a (n / 2 + j / 2) else b (n / 2 + j / 2)) (fun _ _ => rfl) (fun _ _ => rfl)
      (fun w x y m hn => ?_) fun n a b j m ha hb => ⟨?_, ?_⟩
    · rw [hn, Nat.mul_div_cancel_left m two_pos, take_elems x hn, take_elems y hn, drop_elems x hn, drop_elems y hn,
        interleave_map_range, interleave_map_range]
    all_goals split
    exacts [ha _, hb _, ha _, hb _]
  case vuzp =>
    refine pair_of_pairWord execVuzp (fun n a b j => if j < n / 2 then a (2 * j) else b (2 * (j - n / 2)))
      (fun n a b j => if j < n / 2 then a (2 * j + 1) else b (2 * (j - n / 2) + 1)) (fun _ _ => rfl) (fun _ _ => rfl)
      (fun w x y m hn => ?_) fun n a b j m ha hb => ⟨?_, ?_⟩
    · rw [elems, elems, hn, Nat.mul_div_cancel_left m two_pos, everyOther_map_range, everyOther_map_range, everyOther_map_range,
        everyOther_map_range, map_range_append, map_range_append]
      rfl
    all_goals split
    exacts [ha _, hb _, ha _, hb _]
  case vsign =>
    intro s w z os y n feature hsrc h
    have hfeature : s.ctx.feature = feature := funext (feature_eq s.ctx)
    have hreplaces := vsign_replaces s w hsrc h
    rw [hfeature] at hreplaces
    exact hreplaces

end Sys2Proof.Machine
end

section
/-! PROOFS. Rules of the array command queue (11 R225, R229, R233, 12 R241): what arming, acceptance and completion of commands change. -/

namespace Sys2Proof.Machine

/-! ## A command replaced -/

section
variable (m : Mach) (k : Nat) (d : Cmd)

theorem Mach.putCmd_cluster : (m.putCmd k d).cluster k =
    { m.cluster k with cmds := (m.cluster k).cmds.map (fun e => if e.acc == d.acc then d else e) } := by
  simp [Mach.putCmd]
/-- A command is replaced by one of its own number, so the numbers stay. -/
theorem Mach.putCmd_accs : ((m.putCmd k d).cluster k).cmds.map (·.acc) = (m.cluster k).cmds.map (·.acc) := by
  rw [Mach.putCmd_cluster, List.map_map]
  refine List.map_congr_left fun e _ => ?_
  by_cases he : e.acc = d.acc <;> simp [he]
end

/-- The command that replaces another of its number is in the queue. -/
theorem Mach.mem_putCmd {m : Mach} {k : Nat} {c d : Cmd} (hc : c ∈ (m.cluster k).cmds) (hacc : c.acc = d.acc) :
    d ∈ ((m.putCmd k d).cluster k).cmds := by
  rw [Mach.putCmd_cluster]
  exact List.mem_map.2 ⟨c, hc, by simp [hacc]⟩
/-- A command of another number stays. -/
theorem Mach.mem_putCmd_of_ne {m : Mach} {k : Nat} {c d : Cmd} (hc : c ∈ (m.cluster k).cmds) (hacc : c.acc ≠ d.acc) :
    c ∈ ((m.putCmd k d).cluster k).cmds := by
  rw [Mach.putCmd_cluster]
  exact List.mem_map.2 ⟨c, hc, by simp [hacc]⟩

theorem Mach.mem_cmds_of_findCmd {m : Mach} {r seq : Nat} {c : Cmd} (h : m.findCmd r seq = some c) :
    c ∈ (m.cluster (clusterOf r)).cmds :=
  (List.mem_filter.1 (List.mem_of_find?_eq_some h)).1

/-! ## Commands that can start get their start event (11 R223) -/

/-- Arming replaces commands of the queue by themselves, armed, and posts events: what both steps keep, it keeps. -/
theorem Mach.armCmds_induct {P : Mach → Prop} {m : Mach} (now k : Nat) (hm : P m)
    (hstep : ∀ m' d t i, d ∈ (m.cluster k).cmds → P m' → P ((m'.putCmd k { d with armed := true, startT := t }).post t i)) :
    P (m.armCmds now k) := by
  unfold Mach.armCmds
  dsimp only
  split
  · exact hm
  · exact List.foldlRecOn _ _ hm fun m' hm' d hd => hstep _ _ _ _ (List.mem_filter.1 hd).1 hm'

section
variable (m : Mach) (now k : Nat)

@[simp] theorem Mach.armCmds_mem : (m.armCmds now k).mem = m.mem :=
  Mach.armCmds_induct (P := fun t => t.mem = m.mem) now k rfl fun _ _ _ _ _ h => h
@[simp] theorem Mach.armCmds_hands : (m.armCmds now k).hands = m.hands :=
  Mach.armCmds_induct (P := fun t => t.hands = m.hands) now k rfl fun _ _ _ _ _ h => h
@[simp] theorem Mach.armCmds_hand_get (r : Nat) : (m.armCmds now k).hand r = m.hand r := by
  rw [Mach.hand, Mach.armCmds_hands, Mach.hand]
/-- Of the cluster, only the commands change. -/
theorem Mach.armCmds_cluster : ∃ cs, (m.armCmds now k).cluster k = { m.cluster k with cmds := cs } :=
  Mach.armCmds_induct (P := fun t => ∃ cs, t.cluster k = { m.cluster k with cmds := cs }) now k ⟨_, rfl⟩
    fun t d _ _ _ ⟨_, h⟩ => ⟨_, by rw [Mach.post_cluster_get, Mach.putCmd_cluster, h]⟩
theorem Mach.armCmds_accs : ((m.armCmds now k).cluster k).cmds.map (·.acc) = (m.cluster k).cmds.map (·.acc) :=
  Mach.armCmds_induct (P := fun t => (t.cluster k).cmds.map (·.acc) = (m.cluster k).cmds.map (·.acc)) now k rfl
    fun _ _ _ _ _ h => (Mach.putCmd_accs _ _ _).trans h
end

theorem Mach.mem_armCmds_agenda {m : Mach} {p : Nat × Instr} (now k : Nat) (h : p ∈ m.agenda) : p ∈ (m.armCmds now k).agenda :=
  Mach.armCmds_induct (P := fun t => p ∈ t.agenda) now k h fun _ _ _ _ _ h => mem_agendaAdd.2 (.inr h)
/-- A command whose number is its own stays, but for its start event and start time. -/
theorem Mach.mem_armCmds {m : Mach} {k : Nat} {c : Cmd} (now : Nat) (hc : c ∈ (m.cluster k).cmds)
    (hown : ∀ e ∈ (m.cluster k).cmds, e.acc = c.acc → e = c) :
    ∃ d ∈ ((m.armCmds now k).cluster k).cmds, d = { c with armed := d.armed, startT := d.startT } := by
  refine Mach.armCmds_induct (P := fun t => ∃ d ∈ (t.cluster k).cmds, d = { c with armed := d.armed, startT := d.startT }) now k
    ⟨c, hc, rfl⟩ ?_
  rintro t e time i he ⟨d, hd, hdc⟩
  have hacc : d.acc = c.acc := by rw [hdc]
  by_cases heq : e.acc = c.acc
  · obtain rfl := hown e he heq
    exact ⟨_, Mach.mem_putCmd hd hacc, rfl⟩
  · exact ⟨d, Mach.mem_putCmd_of_ne hd fun h => heq (h.symm.trans hacc), hdc⟩

/-! ## A command completes (11 R225, R229) -/

theorem Cluster.spteFree_eq (x : Cluster) (i : Nat) : ∃ t n, x.spteFree i = { x with spt := t, sptcnt := n } := by
  unfold Cluster.spteFree
  dsimp only
  split <;> exact ⟨_, _, rfl⟩
/-- Entries of the speculation table freed: memory, hands, commands and accumulators stay. -/
theorem Mach.freeSptes_frame (m : Mach) (k : Nat) : (m.freeSptes k).mem = m.mem ∧ (m.freeSptes k).hands = m.hands ∧
    ((m.freeSptes k).cluster k).cmds = (m.cluster k).cmds ∧ ((m.freeSptes k).cluster k).acm = (m.cluster k).acm := by
  refine List.foldlRecOn (motive := fun t : Mach => t.mem = m.mem ∧ t.hands = m.hands ∧ (t.cluster k).cmds = (m.cluster k).cmds ∧
    (t.cluster k).acm = (m.cluster k).acm) _ _ ⟨rfl, rfl, rfl, rfl⟩ ?_
  rintro t ⟨hmem, hhands, hcmds, hacm⟩ p -
  obtain ⟨spt, n, hfree⟩ := (t.cluster k).spteFree_eq p.1
  refine ⟨hmem, hhands, ?_, ?_⟩
  · rw [Mach.modCluster_cluster_get, if_pos rfl, hfree]; exact hcmds
  · rw [Mach.modCluster_cluster_get, if_pos rfl, hfree]; exact hacm

/-- A command that completes leaves its queue and its token enters; memory and accumulators stay. -/
theorem Mach.finishCmd_frame (m : Mach) (now : Nat) (c : Cmd) : let t := m.finishCmd now c
    t.mem = m.mem ∧ (t.hand c.hand).fifos = ((m.hand c.hand).completeTok now c.push).fifos ∧
      (∀ d ∈ (t.cluster (clusterOf c.hand)).cmds, d.acc ≠ c.acc) ∧
      (t.cluster (clusterOf c.hand)).acm = (m.cluster (clusterOf c.hand)).acm := by
  set k := clusterOf c.hand with hk
  set left := m.modCluster k (fun x => { x with cmds := x.cmds.filter (fun d => d.acc != c.acc) }) with hleft
  set finished := (left.freeSptes k).modHand c.hand (fun h => h.completeTok now c.push) with hfinished
  have hfinish : m.finishCmd now c = finished.armCmds now k := rfl
  obtain ⟨hmem, hhands, hcmds, hacm⟩ := left.freeSptes_frame k
  have hcluster : left.cluster k = { m.cluster k with cmds := (m.cluster k).cmds.filter (fun d => d.acc != c.acc) } := by simp [hleft]
  have hhand : (left.freeSptes k).hand c.hand = m.hand c.hand := by rw [Mach.hand, hhands]; rfl
  rw [hfinish]
  refine ⟨?_, ?_, fun d hd => ?_, ?_⟩
  · rw [Mach.armCmds_mem, hfinished, Mach.modHand_mem, hmem]; rfl
  · rw [Mach.armCmds_hand_get, hfinished, Mach.modHand_hand_get, if_pos rfl, hhand]
  · have hacc : d.acc ∈ (left.cluster k).cmds.map (·.acc) := by
      rw [← hcmds, ← Mach.modHand_cluster_get, ← hfinished, ← Mach.armCmds_accs]
      exact List.mem_map_of_mem hd
    rw [hcluster] at hacc
    obtain ⟨e, he, hed⟩ := List.mem_map.1 hacc
    rw [← hed]
    simpa using (List.mem_filter.1 he).2
  · obtain ⟨cs, harm⟩ := finished.armCmds_cluster now k
    rw [harm, hfinished, Mach.modHand_cluster_get]
    exact hacm.trans (by rw [hcluster])

/-! ## A command is accepted (11 R225, R229) -/

/-- A command as its queue takes it: under the next numbers of the cluster and of the hand (11 R225). -/
def Mach.numberedCmd (m : Mach) (r : Nat) (c : Cmd) : Cmd :=
  { c with id := m.nextId, acc := (m.cluster (clusterOf r)).accNo + 1, hand := r, ctx := (m.hand r).ctx,
           seq := (((m.hand r).creg 0x043).toNat + 1) % 2 ^ 32 }
/-- The machine with a command of a run in its queue: the numbers taken, and one of the run used up (11 R222, R225). -/
def Mach.queueCmd (m : Mach) (r : Nat) (c : Cmd) : Mach :=
  let k := clusterOf r
  let x := m.cluster k
  ((((m.setHand r ((m.hand r).setCreg 0x043 (BitVec.ofNat 64 ((((m.hand r).creg 0x043).toNat + 1) % 2 ^ 32)))).setCluster k
    { x with accNo := x.accNo + 1 }).modCluster k (fun x => { x with cmds := x.cmds ++ [m.numberedCmd r c] })).bump).modLease k
    (fun l => if l.rem ≤ 1 then l.endRun else { l with rem := l.rem - 1 })

section
variable {m : Mach} {r : Nat} {c : Cmd}

/-- A command of a run that needs no band is queued, and commands that can start are armed. -/
theorem Mach.acceptCmd_eq (now : Nat) (hneed : c.need = 0) (hleased : c.leased = true) :
    m.acceptCmd now r c = (m.queueCmd r c).armCmds now (clusterOf r) := by
  have hbands : ∀ t : Mach, (List.range 4).foldl (fun t b => if c.need.testBit b then t.needBand now (clusterOf r) b else t) t = t := by
    simp [hneed]
  unfold Mach.acceptCmd
  dsimp only
  rw [hbands, if_pos hleased]
  rfl
/-- Inside its run, a queued command is the last of its cluster's queue, which holds nothing else of its number. -/
theorem Mach.queueCmd_cluster (hrem : 1 < (m.lease r).rem) : (m.queueCmd r c).cluster (clusterOf r) =
    { m.cluster (clusterOf r) with accNo := (m.cluster (clusterOf r)).accNo + 1,
                                   cmds := (m.cluster (clusterOf r)).cmds ++ [m.numberedCmd r c],
                                   lease := { m.lease r with rem := (m.lease r).rem - 1 } } := by
  have hgoes : ¬(m.cluster (clusterOf r)).lease.rem ≤ 1 := Nat.not_le.2 hrem
  simp [Mach.queueCmd, Mach.modLease, Mach.lease, hgoes]

/-- A command that needs no band, inside a run, is accepted under the next numbers of its cluster and its hand, and uses up one of the run. -/
theorem Mach.acceptCmd_frame (now : Nat) (hneed : c.need = 0) (hleased : c.leased = true) (hrem : 1 < (m.lease r).rem)
    (hfresh : ∀ d ∈ (m.cluster (clusterOf r)).cmds, d.acc ≤ (m.cluster (clusterOf r)).accNo) :
    let t := m.acceptCmd now r c
    t.mem = m.mem ∧ (t.lease r).rem = (m.lease r).rem - 1 ∧
      (t.hand r).creg 0x043 = BitVec.ofNat 64 ((((m.hand r).creg 0x043).toNat + 1) % 2 ^ 32) ∧
      (t.cluster (clusterOf r)).accNo = (m.cluster (clusterOf r)).accNo + 1 ∧
      ∃ d ∈ (t.cluster (clusterOf r)).cmds, d = { m.numberedCmd r c with armed := d.armed, startT := d.startT } := by
  have hcluster := Mach.queueCmd_cluster (c := c) hrem
  have hown : ∀ e ∈ ((m.queueCmd r c).cluster (clusterOf r)).cmds, e.acc = (m.numberedCmd r c).acc → e = m.numberedCmd r c := by
    intro e he hacc
    rw [hcluster] at he
    rcases List.mem_append.1 he with hold | hnew
    · have hle := hfresh e hold
      rw [hacc] at hle
      exact absurd hle (Nat.not_succ_le_self _)
    · exact List.mem_singleton.1 hnew
  have hmine : m.numberedCmd r c ∈ ((m.queueCmd r c).cluster (clusterOf r)).cmds := by rw [hcluster]; simp
  obtain ⟨cs, harm⟩ := (m.queueCmd r c).armCmds_cluster now (clusterOf r)
  rw [Mach.acceptCmd_eq now hneed hleased]
  refine ⟨?_, ?_, ?_, ?_, Mach.mem_armCmds now hmine hown⟩
  · rw [Mach.armCmds_mem]; rfl
  · rw [Mach.lease, harm, hcluster]
  · rw [Mach.armCmds_hand_get]; simp [Mach.queueCmd, Mach.modLease]
  · rw [harm, hcluster]
end

end Sys2Proof.Machine
end

section
/-! PROOFS. The lease, the bands, and the words of the array as they are accepted (11 R219, R222, R225, R227 to R230, R233). -/

namespace Sys2Proof.Machine

open Claims

/-! ## The lease (11 R222) -/

/-- The next requester is the first waiting one after the last holder. -/
theorem Lease.next_of_first {l : Lease} {i : Nat} (hi : i < 8) (hwaits : l.of ((l.last + 1 + i) % 8) = 1)
    (hfirst : ∀ j, j < i → l.of ((l.last + 1 + j) % 8) ≠ 1) : l.next = some ((l.last + 1 + i) % 8) := by
  have hfind : (List.range 8).find? (fun j => l.of ((l.last + 1 + j) % 8) == 1) = some i := by
    rw [List.find?_range_eq_some]
    exact ⟨by simpa using hwaits, List.mem_range.2 hi, by simpa using hfirst⟩
  rw [Lease.next, List.find?_map]
  exact congrArg (Option.map _) hfind
theorem Lease.grant_of_first {l : Lease} {i : Nat} (hfree : l.holder = none) (hi : i < 8) (hwaits : l.of ((l.last + 1 + i) % 8) = 1)
    (hfirst : ∀ j, j < i → l.of ((l.last + 1 + j) % 8) ≠ 1) : l.grant =
      { l with st := l.st.set ((l.last + 1 + i) % 8) 2, holder := some ((l.last + 1 + i) % 8),
               rem := KMap.get 0 l.want ((l.last + 1 + i) % 8) } := by
  rw [Lease.grant, hfree, Lease.next_of_first hi hwaits hfirst]
theorem Lease.grant_of_held {l : Lease} (h : l.holder ≠ none) : l.grant = l := by
  obtain ⟨q, hq⟩ := Option.ne_none_iff_exists'.1 h
  rw [Lease.grant, hq]

theorem Lease.endRun_of_free {l : Lease} (h : l.holder = none) : l.endRun = l := by rw [Lease.endRun, h]
theorem Mach.endRunOf_of_not_holds {m : Mach} {r : Nat} (h : m.holds r = false) : m.endRunOf r = m := by simp [Mach.endRunOf, h]
/-- Ending the run of a lease that nobody holds leaves a change of the lease as it is. -/
theorem Mach.modLease_endRunOf_of_free {m : Mach} {r : Nat} (f : Lease → Lease) (h : (m.lease r).holder = none) :
    (m.endRunOf r).modLease (clusterOf r) f = m.modLease (clusterOf r) f := by
  rw [Mach.endRunOf]
  split
  · have hend : (m.cluster (clusterOf r)).lease.endRun = (m.cluster (clusterOf r)).lease := Lease.endRun_of_free h
    have hsame : (m.modLease (clusterOf r) Lease.endRun).cluster (clusterOf r) = m.cluster (clusterOf r) := by
      simp [Mach.modLease, hend]
    rw [Mach.modLease, Mach.modCluster, hsame]
    simp [Mach.modLease, Mach.modCluster, Mach.setCluster]
  · rfl

section
variable {s : State} {w : MC}

/-- A LEASE of a run that is not too long, at its first attempt, takes a free lease that no other requester comes before. -/
theorem exec_lease_of_free (hrun : w.count.toNat ≤ (s.hand.creg 0x040).toNat % 2 ^ 7) (hstage : s.hand.stage = 0)
    (h : MayIssue s .m (.lease w) w.hdr) (hfree : s.cluster.lease.holder = none) (hrival : s.m.rival s.tb s.cur = false) :
    exec (.lease w) s = s.goes (((s.issued .m w.hdr).modLease (clusterOf s.cur) (fun l =>
      { l with st := l.st.set (s.cur % 8) 2, holder := some (s.cur % 8), rem := w.count.toNat })).issueResult s.cur [] 0
        (pushFifo .m w.hdr.push) s.tb true false) := by
  have hpre : decide ((bits (s.hand.creg 0x040) 0 7).toNat < w.count.toNat) = false := by
    rw [bits_zero_toNat]; exact decide_eq_false (Nat.not_lt.2 hrun)
  have hexec : exec (.lease w) s = execLease w s := rfl
  rw [hexec, execLease, runWord_issues h (by simp [hpre]) (Nat.zero_le _) (by simp [hstage, hfree, hrival, Mach.lease])]
  have hheld : ((s.issued .m w.hdr).lease s.cur).holder = none := hfree
  simp only [hstage, bne_self_eq_false, Bool.false_and, Bool.false_eq_true, if_false, Mach.modLease_endRunOf_of_free _ hheld]
  rfl

/-- Machine `m` where the hand of a LEASE waits for the lease, which is looked at again in the next cycle. -/
def asksLease (s : State) (w : MC) (m : Mach) : Mach :=
  (m.modLease (clusterOf s.cur) (fun l => { l with st := l.st.set (s.cur % 8) 1, want := l.want.set (s.cur % 8) w.count.toNat })).post
    (s.tb + 1) (.leaseGrant (clusterOf s.cur))

/-- A LEASE of a hand that neither waits nor holds starts to wait behind a holder. -/
theorem exec_lease_of_held {q : Nat} (hrun : w.count.toNat ≤ (s.hand.creg 0x040).toNat % 2 ^ 7) (hstage : s.hand.stage = 0)
    (h : MayIssue s .m (.lease w) w.hdr) (hheld : s.cluster.lease.holder = some q) (hidle : s.cluster.lease.of (s.cur % 8) = 0) :
    exec (.lease w) s = s.goes (asksLease s w ((s.m.block ⟨s.tb, s.cur, .m⟩ 7 0).modHand s.cur
      (fun h => { h with stage := h.stage + 1, stageT := s.tb }))) := by
  have hpre : decide ((bits (s.hand.creg 0x040) 0 7).toNat < w.count.toNat) = false := by
    rw [bits_zero_toNat]; exact decide_eq_false (Nat.not_lt.2 hrun)
  have hholds : s.m.holds s.cur = false := by
    have hof : (s.m.lease s.cur).of (reqOf s.cur) = 0 := hidle
    rw [Mach.holds, hof]; rfl
  have hexec : exec (.lease w) s = execLease w s := rfl
  rw [hexec, execLease, runWord_stops (guardWord_eq_own h (by simp [hpre]) (Nat.zero_le _) (st := .start 7)
    (by simp [hstage, hheld, hholds, Mach.lease]))]
  exact congrArg (fun m => s.goes (asksLease s w m)) (Mach.endRunOf_of_not_holds hholds)

theorem exec_lease_of_long_run (hc : (Instr.lease w).check = none) (hrun : (s.hand.creg 0x040).toNat % 2 ^ 7 < w.count.toNat) :
    exec (.lease w) s = s.goes (s.m.trap s.tb s.cur { f := ⟨1, 3, []⟩, eng := 2, word := (encode (.lease w)).getD 0 }) := by
  have hpre : decide ((bits (s.hand.creg 0x040) 0 7).toNat < w.count.toNat) = true := by
    rw [bits_zero_toNat]; exact decide_eq_true hrun
  have hexec : exec (.lease w) s = execLease w s := rfl
  rw [hexec, execLease, runWord_stops (st := .trap ⟨1, 3, []⟩) (by simp [guardWord, hc, hpre, trapIf_of_true]), stopWord_trap (by decide)]
  rfl

theorem exec_unlse_issues (h : MayIssue s .m (.unlse w) w.hdr) :
    exec (.unlse w) s = s.goes (((s.issued .m w.hdr).endRunOf s.cur).modHand s.cur (tokenNow s .m w.hdr)) :=
  congrArg Host.Outcome.next (runWord_issues h rfl (Nat.zero_le _) rfl)
end

/-! ## The bands (11 R219) -/

section
variable (s : State) (k b : Nat)

theorem exec_bandIdleOff_of_idle (hon : ((s.m.cluster k).band b).st = .on) (hidle : ((s.m.cluster k).band b).lastNeed + 1050 ≤ s.tb) :
    exec (.bandIdleOff k b) s = s.goes (s.m.setBand k b { (s.m.cluster k).band b with st := .off, since := s.tb }) := by
  have hexec : exec (.bandIdleOff k b) s = execBandIdleOff k b s := rfl
  simp [hexec, execBandIdleOff, runEvent, hon, hidle]
theorem exec_bandIdleOff_of_needed (h : ((s.m.cluster k).band b).st ≠ .on ∨ s.tb < ((s.m.cluster k).band b).lastNeed + 1050) :
    exec (.bandIdleOff k b) s = s.goes s.m := by
  have hexec : exec (.bandIdleOff k b) s = execBandIdleOff k b s := rfl
  have hstays : ¬(((s.m.cluster k).band b).st = .on ∧ ((s.m.cluster k).band b).lastNeed + 1050 ≤ s.tb) := fun ⟨hon, hidle⟩ =>
    h.elim (absurd hon) (Nat.not_lt.2 hidle)
  simp [hexec, execBandIdleOff, runEvent, hstays]
theorem exec_bandWakeDone_of_due (hwaking : ((s.m.cluster k).band b).st = .waking) (hdue : ((s.m.cluster k).band b).since + 400 ≤ s.tb)
    (hneeded : s.tb < ((s.m.cluster k).band b).lastNeed + 1050) :
    exec (.bandWakeDone k b) s = s.goes (s.m.setBand k b { (s.m.cluster k).band b with st := .on, since := s.tb }) := by
  have hexec : exec (.bandWakeDone k b) s = execBandWakeDone k b s := rfl
  simp [hexec, execBandWakeDone, runEvent, hwaking, hdue, Nat.not_le.2 hneeded]
end

theorem leaseAndBands : LeaseAndBands := by
  refine ⟨?lease, fun s w => exec_lease_of_long_run, fun s w => exec_unlse_issues, fun s c => rfl, fun l i => Lease.grant_of_first,
    fun l => Lease.grant_of_held, fun s k b => ⟨exec_bandIdleOff_of_idle s k b, exec_bandIdleOff_of_needed s k b,
      exec_bandWakeDone_of_due s k b⟩⟩
  case lease =>
    intro s w c q n l hrun hstage hissue
    refine ⟨exec_lease_of_free hrun hstage hissue, fun h hheld hidle =>
      ⟨_, exec_lease_of_held hrun hstage hissue hheld hidle, rfl, ?_, ?_, ?_, ?_, rfl⟩⟩
    all_goals simp [asksLease, Mach.block, Mach.modLease, hstage, c, l, q, n]

/-! ## The queue of array commands (11 R233) -/

section
variable {s : State}

@[simp] theorem Mach.modHand_cmdsOf (m : Mach) (r : Nat) (f : Hand → Hand) (q : Nat) : (m.modHand r f).cmdsOf q = m.cmdsOf q := rfl

theorem queueFull_eq_none (h : CmdRoom s) : s.m.queueFull s.cur = none := by
  rw [Mach.queueFull]
  by_cases hstage : s.hand.stage = 0
  · rw [CmdRoom, if_pos hstage] at h
    simp [hstage, h]
  · rw [CmdRoom, if_neg hstage] at h
    simpa [hstage, slotN] using h
theorem queueFull_starts (hstage : s.hand.stage = 0) (hfull : 8 ≤ (s.m.cmdsOf s.cur).length) :
    s.m.queueFull s.cur = some (.start 9) := by
  simp [Mach.queueFull, hstage, hfull]
theorem queueFull_waits (hstage : s.hand.stage ≠ 0) (hold : ∃ c ∈ s.m.cmdsOf s.cur, BitVec.ofNat 64 c.acc = s.hand.stageV) :
    s.m.queueFull s.cur = some (.freeze 9 0) := by
  have hany : (s.m.cmdsOf s.cur).any (fun c => slotN c.acc == s.hand.stageV) = true := by simpa [slotN] using hold
  simp [Mach.queueFull, hstage, hany, freezeIf]
end

/-! ## MSHAPE and MMODE (11 R227) -/

section
variable {s : State} {w : MC}

/-- A word that sets a mode is accepted where the queue has a place. -/
theorem runWord_of_modeMeaning {i : Instr} {op : CmdOp} {n : Nat} (hroom : CmdRoom s) (h : MayIssue s .m i (lateHdr w.hdr)) :
    .next (runWord s .m i (lateHdr w.hdr) (fun x m => modeMeaning x m w op n)) = s.goes (((s.issued .m w.hdr).modHand s.cur (fun h =>
      h.setCreg n (BitVec.ofNat 64 (w.flags.toNat % 16)))).acceptCmd s.tb s.cur
        { acc := 0, hand := s.cur, ctx := 0, seq := 0, op := op, push := pushFifo .m w.hdr.push }) :=
  congrArg Host.Outcome.next (runWord_issues h rfl (Nat.zero_le _) (queueFull_eq_none hroom))
theorem exec_mshape_starts (hstage : s.hand.stage = 0) (hfull : 8 ≤ (s.m.cmdsOf s.cur).length)
    (h : MayIssue s .m (.mshape w) (lateHdr w.hdr)) : exec (.mshape w) s = s.goes (((s.m.block ⟨s.tb, s.cur, .m⟩ 9 0).modHand s.cur
      (fun h => { h with stage := h.stage + 1, stageT := s.tb })).waitOldest s.cur) :=
  congrArg Host.Outcome.next (runWord_stops (st := .start 9) (guardWord_eq_own h rfl (Nat.zero_le _) (queueFull_starts hstage hfull)))
theorem exec_mshape_waits (hstage : s.hand.stage ≠ 0) (hold : ∃ c ∈ s.m.cmdsOf s.cur, BitVec.ofNat 64 c.acc = s.hand.stageV)
    (h : MayIssue s .m (.mshape w) (lateHdr w.hdr)) : exec (.mshape w) s = s.goes (s.m.block ⟨s.tb, s.cur, .m⟩ 9 0) :=
  congrArg Host.Outcome.next (runWord_stops (st := .freeze 9 0) (guardWord_eq_own h rfl (Nat.zero_le _) (queueFull_waits hstage hold)))

end

/-! ## WLD and WDROP (11 R228, R229) -/

section
variable {s : State} {w : MC}

theorem exec_wdrop_issues (hlease : s.m.leaseStop s.cur w.slot.toNat = none) (hroom : CmdRoom s)
    (h : MayIssue s .m (.wdrop w) (lateHdr w.hdr)) : exec (.wdrop w) s = s.goes ((s.issued .m w.hdr).acceptCmd s.tb s.cur
      { acc := 0, hand := s.cur, ctx := 0, seq := 0, op := .wdrop, slot := w.slot.toNat, push := pushFifo .m w.hdr.push,
        leased := true }) :=
  congrArg Host.Outcome.next (runWord_issues h rfl (Nat.zero_le _) (by simp [hlease, queueFull_eq_none hroom]))

theorem exec_wdrop_without_lease (hholds : s.m.holds s.cur = false) (hpop : s.hand.popStop s.tb (popFifo .m w.hdr.pop) = none)
    (hc : (Instr.wdrop w).check = none) : exec (.wdrop w) s =
      s.goes (s.m.trap s.tb s.cur { f := ⟨0x10, 1, []⟩, eng := 2, word := (encode (.wdrop w)).getD 0 }) := by
  have h : MayIssue s .m (.wdrop w) (lateHdr w.hdr) := ⟨hc, Hand.popStop_eq_none.1 hpop, fun hpush => absurd rfl hpush⟩
  have hlease : s.m.leaseStop s.cur w.slot.toNat = some (.trap ⟨0x10, 1, []⟩) := by
    simp [Mach.leaseStop, hholds, trapIf_of_true]
  have hexec : exec (.wdrop w) s = execWdrop w s := rfl
  rw [hexec, execWdrop, runWord_stops (guardWord_eq_own h rfl (Nat.zero_le _) (st := .trap ⟨0x10, 1, []⟩) (by simp [hlease])),
    stopWord_trap (by decide)]
  rfl

theorem exec_wld_issues (hlease : s.m.leaseStop s.cur w.slot.toNat = none) (hroom : CmdRoom s)
    (h : MayIssue s .m (.wld w) (lateHdr w.hdr)) : let st := s.hand.streg w.stream.toNat
    let q := s.hand.stQ st
    let sp := w.flags.getLsbD 0
    let n := w.count.toNat
    let cls := stClass st q
    let k := stK st
    0 < k → k ≤ kLimit cls sp → (stBlk st = 0 ∨ k % stBlk st = 0) →
      imageLen st q n sp ≤ 131072 → (sp = true → k % 8 = 0 ∧ cls ≠ 3 ∧ (st.getLsbD 119 = true → q % 16 = 8)) →
      s.m.streamIn s.cur st q n sp false = none →
    exec (.wld w) s = s.goes ((s.issued .m w.hdr).acceptCmd s.tb s.cur
      { acc := 0, hand := s.cur, ctx := 0, seq := 0, op := .wld, slot := w.slot.toNat, count := n, flags := w.flags.toNat,
        st := st, q := q, push := pushFifo .m w.hdr.push, leased := true }) := by
  intro st q sp n cls k hk hlimit hblk himage hsparse hstream
  have hfits : (k != 0 && decide (k ≤ kLimit cls sp) && (stBlk st == 0 || k % stBlk st == 0) && decide (imageLen st q n sp ≤ 131072)
      && (!sp || (k % 8 == 0 && cls != 3 && (!bit st 119 || q % 16 == 8)))) = true := by
    simp only [Bool.and_eq_true, Bool.or_eq_true, Bool.not_eq_true', bne_iff_ne, beq_iff_eq, decide_eq_true_eq]
    refine ⟨⟨⟨⟨hk.ne', hlimit⟩, hblk⟩, himage⟩, ?_⟩
    by_cases hsp : sp = true
    · obtain ⟨hk8, hcls, hnarrow⟩ := hsparse hsp
      refine .inr ⟨⟨hk8, hcls⟩, ?_⟩
      by_cases hnf : bit st 119 = true
      · exact .inr (hnarrow hnf)
      · exact .inl (Bool.not_eq_true _ ▸ hnf)
    · exact .inl (Bool.not_eq_true _ ▸ hsp)
  refine congrArg Host.Outcome.next (runWord_issues h rfl (Nat.zero_le _) (firstStop_eq_none.2 ?_))
  simp only [List.forall_mem_cons, List.not_mem_nil, false_imp_iff, implies_true, and_true]
  exact ⟨hlease, trapIf_eq_none.2 (congrArg Bool.not hfits), hstream, queueFull_eq_none hroom⟩
end

/-! ## MMA and MMAT (11 R229, R230) -/

/-- The bands that an MMA or MMAT needs: the active ones of its class that hold some k below K (11 R219). -/
abbrev mmaNeed (s : State) (w : MC) : Nat :=
  bandsNeeded ((s.hand.creg 0x042).toNat % 2 ^ 4) (wbOf (stClass (s.hand.streg w.stream.toNat) (s.hand.stQ (s.hand.streg w.stream.toNat)))
    (s.cluster.slotView w.slot.toNat).sp) (stK (s.hand.streg w.stream.toNat))
/-- The command that an MMA or MMAT word makes of what it captures at its issue (11 R229, R230). -/
abbrev mmaCmd (s : State) (w : MC) (op : CmdOp) : Cmd :=
  let st := s.hand.streg w.stream.toNat
  let v := s.cluster.slotView w.slot.toNat
  { acc := 0, hand := s.cur, ctx := 0, seq := 0, op := op, slot := w.slot.toNat, handle := s.hand.hreg w.handle.toNat,
    row0 := w.row0.toNat, count := w.count.toNat, flags := w.flags.toNat, st := st, q := s.hand.stQ st,
    band := (s.hand.creg 0x042).toNat % 2 ^ 4, rnd := (s.hand.creg 0x032).toNat, push := pushFifo .m w.hdr.push,
    leased := true, wldAcc := v.wld, need := mmaNeed s w, deep := if v.packed then 3 else 0 }

/-- An MMA or MMAT whose slot, handle, shape, rows and bands pass its checks is accepted where the queue has a place. -/
theorem runWord_of_mmaMeaning {s : State} {w : MC} {i : Instr} {op : CmdOp} (hpend : s.hand.pendH w.handle.toNat = false)
    (hlease : s.m.leaseStop s.cur w.slot.toNat = none) (hroom : CmdRoom s) (h : MayIssue s .m i (lateHdr w.hdr)) :
    let st := s.hand.streg w.stream.toNat
    let q := s.hand.stQ st
    let v := s.cluster.slotView w.slot.toNat
    let hv := s.hand.hreg w.handle.toNat
    let n := w.count.toNat
    let k := stK st
    v.ready = true → v.cls = stClass st q → v.k = k → 0 < k → k ≤ kLimit v.cls v.sp → (stBlk st = 0 ∨ k % stBlk st = 0) →
    s.m.streamIn s.cur st q n false (w.flags.getLsbD 0) = none →
    (∀ b, b < 4 → (mmaNeed s w).testBit b = true → (s.cluster.band b).st ≠ .forced) →
    s.m.hdlStop s.cur (hdlOf hv) (some (v.cls == 2)) (some (op == .mmat)) w.row0.toNat n = none →
    .next (runWord s .m i (lateHdr w.hdr) (fun x m => mmaMeaning x m w op)) =
      s.goes ((s.issued .m w.hdr).acceptCmd s.tb s.cur (mmaCmd s w op)) := by
  intro st q v hv n k hready hcls hvk hk hlimit hblk hstream hforced hhandle
  have hfits : (k != 0 && decide (k ≤ kLimit (stClass st q) v.sp) && (stBlk st == 0 || k % stBlk st == 0) && stClass st q == v.cls
      && k == v.k) = true := by
    rw [hcls] at hlimit ⊢
    simp only [Bool.and_eq_true, Bool.or_eq_true, bne_iff_ne, beq_iff_eq, decide_eq_true_eq]
    exact ⟨⟨⟨⟨hk.ne', hlimit⟩, hblk⟩, trivial⟩, hvk.symm⟩
  have hnotForced : (List.range 4).any (fun b => (mmaNeed s w).testBit b && (s.cluster.band b).st == .forced) = false := by
    simp only [List.any_eq_false, List.mem_range, Bool.and_eq_true, beq_iff_eq, not_and]
    exact hforced
  have hbands : (bits (s.hand.creg 0x042) 0 4).toNat = (s.hand.creg 0x042).toNat % 2 ^ 4 := bits_zero_toNat _ _
  have hcmd : (mmaMeaning ⟨s.tb, s.cur, .m⟩ s.m w op).eff (s.issued .m w.hdr) = (s.issued .m w.hdr).acceptCmd s.tb s.cur (mmaCmd s w op) := by
    simp only [mmaMeaning, hbands]
  rw [← hcmd]
  refine congrArg Host.Outcome.next (runWord_issues h rfl (Nat.zero_le _) (firstStop_eq_none.2 ?_))
  simp only [hbands, List.forall_mem_cons, List.not_mem_nil, false_imp_iff, implies_true, and_true]
  rw [hcls] at hhandle
  refine ⟨?_, hlease, trapIf_eq_none.2 (congrArg Bool.not hready), hhandle, trapIf_eq_none.2 (congrArg Bool.not hfits), hstream,
    trapIf_eq_none.2 hnotForced, queueFull_eq_none hroom⟩
  exact freezeIf_eq_none.2 hpend

theorem arrayWords : ArrayWords := by
  refine ⟨fun s w hroom => ⟨runWord_of_modeMeaning hroom, runWord_of_modeMeaning hroom⟩, ?full, ?wld, ?mma,
    fun s w => exec_wdrop_without_lease, fun m now r c => Mach.acceptCmd_frame now⟩
  case full =>
    intro s w hissue
    refine ⟨fun hstage c l hcmds hfull => ⟨_, exec_mshape_starts hstage (by rw [hcmds]; exact hfull) hissue, rfl, ?_, ?_, ?_, ?_, hcmds⟩,
      fun hstage hold => exec_mshape_waits hstage hold hissue⟩
    all_goals simp [Mach.waitOldest, Mach.block, hstage, hcmds, slotN]
  case wld =>
    intro s w st q sp n cls k hlease hroom
    exact ⟨exec_wld_issues hlease hroom, exec_wdrop_issues hlease hroom⟩
  case mma =>
    intro s w st q v hv n k band need accepted hpend hlease hready hcls hvk hk hlimit hblk hstream hforced hroom
    exact ⟨fun hhandle hissue => runWord_of_mmaMeaning hpend hlease hroom hissue hready hcls hvk hk hlimit hblk hstream hforced hhandle,
      fun hhandle hissue => runWord_of_mmaMeaning hpend hlease hroom hissue hready hcls hvk hk hlimit hblk hstream hforced hhandle⟩

/-- Settles O37: the grant is the first waiting requester found from the last holder on, and a word of the array whose checks pass is its
acceptance, which takes the next numbers and one of the run. -/
theorem leaseAndArrayWords : Obligations.LeaseAndArrayWords := ⟨leaseAndBands, arrayWords⟩

end Sys2Proof.Machine
end

section
/-! PROOFS. Reading streams: a machine that agrees with another on memory, contexts, hands, devices and partitions reads the same bytes
(04 R55 to R59, 05 R88, 06 R114). -/

namespace Sys2Proof.Machine

/-- Two machines agree on all that a read of a stream looks at. -/
structure Mach.SameReads (m m' : Mach) : Prop where
  mem : m.mem = m'.mem
  hands : m.hands = m'.hands
  ctxs : m.ctxs = m'.ctxs
  dev : m.dev = m'.dev
  clPart : m.clPart = m'.clPart

/-- An event on the agenda and a change of a cluster that keeps its partition leave reads as they are. -/
theorem Mach.sameReads_post_modCluster (m : Mach) (k t : Nat) (i : Instr) (f : Cluster → Cluster) (hcr : ∀ x, (f x).cr = x.cr) :
    ((m.modCluster k f).post t i).SameReads m where
  mem := rfl
  hands := rfl
  ctxs := rfl
  dev := rfl
  clPart := by
    funext j
    simp only [Mach.clPart, Mach.post_cluster_get, Mach.modCluster_cluster_get]
    split
    · next h => rw [hcr, h]
    · rfl

namespace Mach.SameReads
variable {m m' : Mach} (h : m.SameReads m')
include h

theorem ctx (k : Nat) : m.ctx k = m'.ctx k := by rw [Mach.ctx, h.ctxs, Mach.ctx]
theorem hand (r : Nat) : m.hand r = m'.hand r := by rw [Mach.hand, h.hands, Mach.hand]
theorem physKind (pa : Nat) : m.physKind pa = m'.physKind pa := by unfold Mach.physKind; rw [h.dev]
theorem rowError (k : Nat) : m.rowError k = m'.rowError k := by
  unfold Mach.rowError Mach.cxlDown; rw [h.physKind, h.dev]
theorem readRow (k n : Nat) : m.readRow k n = m'.readRow k n := by
  unfold Mach.readRow Mach.bytes; rw [h.rowError, h.mem]
theorem walkLevel (va level table : Nat) : m.walkLevel va level table = m'.walkLevel va level table := by
  unfold Mach.walkLevel; rw [h.physKind, h.readRow]
theorem walkFrom (va n : Nat) : ∀ table w u, m.walkFrom va n table w u = m'.walkFrom va n table w u := by
  induction n with
  | zero => exact fun _ _ _ => rfl
  | succ n ih =>
    intro table w u
    unfold Mach.walkFrom
    rw [h.walkLevel]
    simp only [ih]
theorem walk (k : Nat) (va : W64) : m.walk k va = m'.walk k va := by
  unfold Mach.walk; simp only [h.ctx, h.walkFrom]
theorem usePage (e : TcEntry) (va : W64) (wr ring0 : Bool) (peer : Option (Nat × Nat)) :
    m.usePage e va wr ring0 peer = m'.usePage e va wr ring0 peer := by
  unfold Mach.usePage; simp only [h.physKind]
theorem resolve (k : Nat) (x : W64) (n : Nat) (wr ring0 : Bool) : m.resolve k x n wr ring0 = m'.resolve k x n wr ring0 := by
  unfold Mach.resolve Mach.inPart; simp only [h.walk, h.usePage, h.ctx, h.clPart]
theorem spanAux (k : Nat) (wr ring0 : Bool) (f : Nat) : ∀ x n, m.spanAux k wr ring0 f x n = m'.spanAux k wr ring0 f x n := by
  induction f with
  | zero => exact fun _ _ => rfl
  | succ f ih =>
    intro x n
    unfold Mach.spanAux
    simp only [h.resolve, ih]
theorem sliceBytes (r : Nat) (a : W64) (n : Nat) : m.sliceBytes r a n = m'.sliceBytes r a n := by
  unfold Mach.sliceBytes Mach.span; simp only [h.hand, h.spanAux, h.readRow]
theorem streamRow (r : Nat) (st : BitVec 256) (q i : Nat) : m.streamRow r st q i = m'.streamRow r st q i := by
  unfold Mach.streamRow; simp only [h.sliceBytes]
theorem wldColumn (c : Cmd) (i : Nat) : m.wldColumn c i = m'.wldColumn c i := by
  unfold Mach.wldColumn; simp only [h.streamRow, h.sliceBytes]
end Mach.SameReads

end Sys2Proof.Machine
end

section
/-! PROOFS. The array commands at work: starts, reads, rows and completions (11 R219, R228 to R232, 08 R175, 20 R382). -/

namespace Sys2Proof.Machine

theorem Mach.anyUE_of_no_error {m : Mach} (h : ∀ k, m.rowError k = none) (keys : List Nat) : m.anyUE keys = none :=
  List.find?_eq_none.2 fun k _ => by simp [h]
theorem Mach.noteUE_of_no_error {m : Mach} (h : ∀ k, m.rowError k = none) (r : Nat) (keys : List Nat) : m.noteUE r keys = m := by
  simp [Mach.noteUE, Mach.checkOf, Mach.anyUE_of_no_error h]

/-! ## WLD_START (11 R228) -/

section
variable {s : State} {r seq : Nat} {c : Cmd}

/-- The slot of a WLD LOADING, and its completion due (11 R228). -/
def loadStarted (m : Mach) (r seq : Nat) (c : Cmd) : Mach :=
  (m.modCluster (clusterOf r) (fun x => { x with wbuf := x.wbuf.set c.slot { st := 1, ctx := c.ctx } })).post
    (c.startT + 6 + (imageLen c.st c.q c.count (c.flags.testBit 0) + 127) / 128) (.wldComplete r seq)
/-- The machine with the first column of a WLD read, and the commands armed that its start lets start. -/
def firstColumnRead (s : State) (r seq : Nat) (c : Cmd) (col : List Nat × List Nat) : Mach :=
  ((loadStarted s.m r seq c).putCmd (clusterOf r) { c with started := true, got := [some col] }).armCmds s.tb (clusterOf r)

theorem exec_wldStart_of_first_column {col : List Nat × List Nat} {ks : List Nat} (hfind : s.m.findCmd r seq = some c)
    (hnew : c.started = false) (hgot : c.got = []) (hheld : s.m.startHeld s.tb c = false) (herr : ∀ k, s.m.rowError k = none)
    (hcol : s.m.wldColumn c 0 = .ok (col, ks)) : exec (.wldStart r seq) s = s.goes (if 1 < c.count then (firstColumnRead s r seq c col).post
      (max s.tb (c.startT + (imageLen c.st c.q c.count (c.flags.testBit 0) + c.count - 1) / c.count / 128)) (.wldStart r seq)
      else firstColumnRead s r seq c col) := by
  have hreads : (loadStarted s.m r seq c).SameReads s.m := Mach.sameReads_post_modCluster _ _ _ _ _ fun _ => rfl
  have herr' : ∀ k, (loadStarted s.m r seq c).rowError k = none := fun k => (hreads.rowError k).trans (herr k)
  have hcol' : (loadStarted s.m r seq c).wldColumn c 0 = .ok (col, ks) := (hreads.wldColumn c 0).trans hcol
  rw [loadStarted] at herr' hcol'
  have hexec : exec (.wldStart r seq) s = execWldStart r seq s := rfl
  rw [hexec, execWldStart, runEvent]
  simp only [hfind, hheld, hnew, hgot, Bool.false_eq_true, if_false, List.length_nil, List.nil_append, zero_add, one_mul, hcol',
    Mach.countErrors_of_no_error herr', Mach.noteUE_of_no_error herr']
  rfl

end

/-! ## Rows of the accumulator memory -/

theorem acmElem_acmPack {n : Nat} (l : List Nat) (hn : n < 256) : acmElem (acmPack l) n = l.getD n 0 % 2 ^ 32 := by
  have hsplit : 2 ^ 8192 = 2 ^ (32 * n) * (2 ^ 32 * 2 ^ (8192 - (32 * n + 32))) := by
    rw [← pow_add, ← pow_add]; congr 1; omega
  rw [← packElems_elem, acmElem, acmPack, bits_toNat, BitVec.toNat_ofNat, hsplit, Nat.mod_mul_right_div_self, Nat.mod_mul_right_mod]
theorem acmElem_lt (row : BitVec 8192) (n : Nat) : acmElem row n < 2 ^ 32 := (bits row (32 * n) 32).isLt

/-! ## The integer class (08 R175) -/

theorem foldl_add_if {α : Type} (p : α → Bool) (f : α → Int) (l : List α) (z : Int) :
    l.foldl (fun z a => if p a then z + f a else z) z = z + ((l.filter p).map f).sum := by
  induction l generalizing z with
  | nil => simp
  | cons a l ih =>
    rw [List.foldl_cons, ih]
    cases hp : p a <;> simp [hp, add_assoc]
/-- Pairs of values of two rows with their places. -/
theorem zipIdx_zip_map {α : Type} (f g : Nat → α) (xs ys : List Nat) : (List.zip (xs.map f) (ys.map g)).zipIdx =
    (List.range (min xs.length ys.length)).map (fun k => ((f (xs.getD k 0), g (ys.getD k 0)), k)) := by
  refine List.ext_getElem (by simp) fun k hk hk' => ?_
  simp only [List.length_map, List.length_range, lt_min_iff] at hk'
  simp [hk'.1, hk'.2]

/-- The dot product of an integer class is the exact sum of the products in active bands, wrapped. -/
theorem dotI_map (mask wb : Nat) (f g : Nat → Int) (xs ys : List Nat) : dotI mask wb (xs.map f) (ys.map g) =
    ((((List.range (min xs.length ys.length)).filter (fun k => mask.testBit (k / wb))).map
      (fun k => f (xs.getD k 0) * g (ys.getD k 0))).sum % 2 ^ 32).toNat := by
  rw [dotI, zipIdx_zip_map, foldl_add_if (fun p : (Int × Int) × Nat => inBand mask wb p.2) (fun p => p.1.1 * p.1.2), intCode_eq, zero_add,
    List.filter_map, List.map_map]
  rfl

/-- The dot product of column `n` of a slot of an integer class with an A row: over the active bands, exact (08 R175). -/
abbrev columnSum (c : Cmd) (v : WSlot) (a : List Nat × List Nat) (n : Nat) : Int :=
  let col := v.cols.getD n ⟨[], []⟩
  (((List.range (min a.1.length col.elems.length)).filter (fun k => c.band.testBit (k / wbOf 2 v.sp))).map (fun k =>
    intOf (stField c.st 112 4 == 0) 8 (a.1.getD k 0) * intOf (v.ty == 0) 8 (col.elems.getD k 0))).sum

section
variable {c : Cmd} {v : WSlot} {a : List Nat × List Nat} {old : BitVec 8192} {n : Nat}

/-- An element at or above N is unchanged. -/
theorem acmElem_mmaRow_of_no_column (hcls : v.cls = 2) (hn : n < 256) (hcol : v.cols.length ≤ n) :
    acmElem (mmaRow c v a old) n = acmElem old n := by
  have hmod := Nat.mod_eq_of_lt (acmElem_lt old n)
  simpa [mmaRow, acmElem_acmPack _ hn, hcls, hn, hcol] using hmod
/-- An element below N takes the column's sum, added to the old element or, with ZA, in its place. -/
theorem acmElem_mmaRow_of_column (hcls : v.cls = 2) (hn : n < 256) (hcol : n < v.cols.length) : acmElem (mmaRow c v a old) n =
    ((columnSum c v a n + if c.flags.testBit 1 then 0 else (acmElem old n : Int)) % 2 ^ 32).toNat := by
  have hdot : dotI c.band (wbOf 2 v.sp) (a.1.map (intOf (stField c.st 112 4 == 0) 8)) (v.cols[n].elems.map (intOf (v.ty == 0) 8))
      = (columnSum c v a n % 2 ^ 32).toNat := by
    rw [dotI_map, columnSum, List.getD_eq_getElem _ _ hcol]
  have hrow : acmElem (mmaRow c v a old) n = (if c.flags.testBit 1 then (columnSum c v a n % 2 ^ 32).toNat
      else (acmElem old n + (columnSum c v a n % 2 ^ 32).toNat) % 2 ^ 32) % 2 ^ 32 := by
    simp [mmaRow, acmElem_acmPack _ hn, hcls, hn, hcol, hdot]
  rw [hrow]
  split_ifs <;> omega
end

/-! ## MMA_START (11 R230, R232) -/

section
variable {s : State} {r seq : Nat} {c : Cmd} {v : List Nat × List Nat} {ks : List Nat}

/-- An A row that no mask names invalid, of rows without an error, goes into the array. -/
theorem Mach.mmaInput_of_unmasked {m : Mach} (hmask : c.flags.testBit 0 = false) (herr : ∀ k, m.rowError k = none)
    (hrow : m.streamRow c.hand c.st c.q c.got.length = .ok (v, ks)) :
      let c' := { c with started := true, got := c.got ++ [some v] }
      m.mmaInput c = (m.putCmd (clusterOf c.hand) c', c') := by
  simp only [Mach.mmaInput, hmask, Bool.false_and, Bool.false_eq_true, if_false, Bool.not_false, Bool.true_or, if_true, hrow,
    Mach.countErrors_of_no_error herr, Mach.noteUE_of_no_error herr, Mach.anyUE_of_no_error herr, Option.isSome_none]

/-- A started MMA takes the A row that is due; before the first row leaves the array nothing is written (11 R221, R232). -/
theorem exec_mmaStart_of_input (hfind : s.m.findCmd r seq = some c) (hstarted : c.started = true) (hwrote : c.wrote = 0) (hhand : c.hand = r)
    (hmask : c.flags.testBit 0 = false) (hmore : c.got.length + 1 < c.count) (herr : ∀ k, s.m.rowError k = none)
    (hnow : s.tb = c.startT + c.got.length) (hshort : c.got.length < 264)
    (hrow : s.m.streamRow r c.st c.q c.got.length = .ok (v, ks)) : exec (.mmaStart r seq) s =
      s.goes ((s.m.putCmd (clusterOf r) { c with got := c.got ++ [some v] }).post (s.tb + 1) (.mmaStart r seq)) := by
  subst hhand
  have hcmd : { c with started := true, got := c.got ++ [some v] } = { c with got := c.got ++ [some v] } := by rw [← hstarted]
  have hheld : s.m.startHeld s.tb c = false := by simp [Mach.startHeld, hstarted]
  have hinput := Mach.mmaInput_of_unmasked hmask herr hrow
  have hdue : (decide (c.got.length < c.count) && decide (c.startT + c.got.length ≤ s.tb)) = true := by
    simp [hnow, Nat.lt_of_succ_lt hmore]
  have hinside : s.tb + 1 - (c.startT + c.depth) = 0 := by rw [Cmd.depth]; omega
  have hmore' : (c.got ++ [some v]).length < c.count := by simpa using hmore
  have hnext : c.startT + (c.got ++ [some v]).length = s.tb + 1 := by
    rw [List.length_append, List.length_singleton, hnow, Nat.add_assoc]
  have hexec : exec (.mmaStart c.hand seq) s = execMmaStart c.hand seq s := rfl
  rw [hexec, execMmaStart, runEvent, hcmd.symm]
  simp only [hfind, hheld, hstarted, hdue, hinput, hinside, hwrote, hmore', hnext, Bool.false_eq_true, if_false, if_true, Nat.min_zero,
    Nat.lt_irrefl]
end

/-! ## Commands held at their start, and completions (11 R219, R228, R231, 20 R382) -/

/-- The READY slot of a WLD that has read every column (11 R221, R228). -/
abbrev loadedSlot (c : Cmd) : WSlot :=
  { st := 2, ctx := c.ctx, cls := stClass c.st c.q, ty := stField c.st 112 4, nf := c.st.getLsbD 119, q := c.q, blk := stBlk c.st,
    sp := c.flags.testBit 0, k := stK c.st, n := c.count, cols := c.got.filterMap (fun g => g.map (fun p => ⟨p.1, p.2⟩)) }

section
variable {s : State} {r seq : Nat} {c : Cmd} (hfind : s.m.findCmd r seq = some c)
include hfind

/-- A command whose partition is throttled or a band of which is waking when its start comes is looked at anew: each
start asks for that first. -/
theorem exec_start_of_held (hheld : s.m.startHeld s.tb c = true) : ∀ i ∈ [Instr.wldStart r seq, .wdropAct r seq,
    .modeCommandComplete r seq, .mmaStart r seq, .accumCommandStart r seq, .rslvStart r seq], exec i s = s.goes (s.m.holdCmd s.tb c) := by
  simp only [List.forall_mem_cons, List.not_mem_nil, false_imp_iff, implies_true, and_true]
  refine ⟨?_, ?_, ?_, ?_, ?_, ?_⟩
  all_goals
    refine congrArg Host.Outcome.next ?_
    simp only [runEvent, hfind, hheld, if_true]

theorem exec_wdropAct_of_not_held (hheld : s.m.startHeld s.tb c = false) : exec (.wdropAct r seq) s =
    s.goes ((s.m.modCluster (clusterOf r) (fun x => { x with wbuf := x.wbuf.set c.slot {} })).finishCmd s.tb c) := by
  have hexec : exec (.wdropAct r seq) s = execWdropAct r seq s := rfl
  simp only [hexec, execWdropAct, runEvent, hfind, hheld, Bool.false_eq_true, if_false]
theorem exec_modeCommandComplete_of_not_held (hheld : s.m.startHeld s.tb c = false) :
    exec (.modeCommandComplete r seq) s = s.goes (s.m.finishCmd s.tb c) := by
  have hexec : exec (.modeCommandComplete r seq) s = execModeCommandComplete r seq s := rfl
  simp only [hexec, execModeCommandComplete, runEvent, hfind, hheld, Bool.false_eq_true, if_false]
theorem exec_mmaComplete : exec (.mmaComplete r seq) s = s.goes ((s.m.mmaWrite c c.count).finishCmd s.tb c) := by
  have hexec : exec (.mmaComplete r seq) s = execMmaComplete r seq s := rfl
  simp only [hexec, execMmaComplete, runEvent, hfind]

theorem exec_wldComplete_of_columns_missing (h : c.got.length < c.count) :
    exec (.wldComplete r seq) s = s.goes (s.m.post (s.tb + 1) (.wldComplete r seq)) := by
  have hexec : exec (.wldComplete r seq) s = execWldComplete r seq s := rfl
  simp only [hexec, execWldComplete, runEvent, hfind, h, if_true]
/-- With every column read, a WLD makes its slot READY with the image. -/
theorem exec_wldComplete_of_all_columns (h : c.count ≤ c.got.length) : exec (.wldComplete r seq) s = s.goes
    ((s.m.modCluster (clusterOf r) (fun x => { x with wbuf := x.wbuf.set c.slot (loadedSlot c) })).finishCmd s.tb c) := by
  have hexec : exec (.wldComplete r seq) s = execWldComplete r seq s := rfl
  simp only [hexec, execWldComplete, runEvent, hfind, Nat.not_lt.2 h, if_false]
  rfl
end

/-! ## The statement -/

theorem startHeld_of_throttle_or_wake {m : Mach} {now : Nat} {c : Cmd} (hnew : c.started = false)
    (h : (m.part (m.clPart (clusterOf c.hand))).throttle = true ∨ now < (m.cluster (clusterOf c.hand)).wakeEnd c.need) :
    m.startHeld now c = true := by
  simpa [Mach.startHeld, hnew] using h

/-- What WLD_START leaves, once it has read its first column: the slot LOADING, the command started, the completion due. -/
theorem firstColumnRead_spec {s : State} {r seq : Nat} {c : Cmd} (col : List Nat × List Nat) (hfind : s.m.findCmd r seq = some c)
    (hnodup : ((s.m.cluster (clusterOf r)).cmds.map (·.acc)).Nodup) : let m := firstColumnRead s r seq c col
    m.mem = s.m.mem ∧ (KMap.get {} (m.cluster (clusterOf r)).wbuf c.slot).st = 1 ∧
      (KMap.get {} (m.cluster (clusterOf r)).wbuf c.slot).ctx = c.ctx ∧
      (∃ d ∈ (m.cluster (clusterOf r)).cmds, d = { c with started := true, got := [some col], armed := d.armed, startT := d.startT }) ∧
      (c.startT + 6 + (imageLen c.st c.q c.count (c.flags.testBit 0) + 127) / 128, .wldComplete r seq) ∈ m.agenda := by
  intro m
  set read : Cmd := { c with started := true, got := [some col] } with hread
  set put := (loadStarted s.m r seq c).putCmd (clusterOf r) read with hput
  have hm : m = put.armCmds s.tb (clusterOf r) := rfl
  have hcmds : ((loadStarted s.m r seq c).cluster (clusterOf r)).cmds = (s.m.cluster (clusterOf r)).cmds := by simp [loadStarted]
  have hmine : read ∈ (put.cluster (clusterOf r)).cmds := Mach.mem_putCmd (c := c) (by rw [hcmds]; exact Mach.mem_cmds_of_findCmd hfind) rfl
  have hown : ∀ e ∈ (put.cluster (clusterOf r)).cmds, e.acc = read.acc → e = read := by
    have hnodup' : ((put.cluster (clusterOf r)).cmds.map (·.acc)).Nodup := by rw [hput, Mach.putCmd_accs, hcmds]; exact hnodup
    exact fun e he hacc => List.inj_on_of_nodup_map hnodup' he hmine hacc
  obtain ⟨cs, harm⟩ := put.armCmds_cluster s.tb (clusterOf r)
  have hslot : KMap.get {} (m.cluster (clusterOf r)).wbuf c.slot = { st := 1, ctx := c.ctx } := by
    rw [hm, harm, hput, Mach.putCmd_cluster]; simp [loadStarted]
  refine ⟨?_, by rw [hslot], by rw [hslot], Mach.mem_armCmds s.tb hmine hown, Mach.mem_armCmds_agenda s.tb _ (mem_agendaAdd.2 (.inl rfl))⟩
  rw [hm, Mach.armCmds_mem]; rfl

/-- Settles O38: a start reads what its rows hold and arms what it lets start, a row of the integer class is the wrapped sum of its products,
and a completion takes a command out of its queue. -/
theorem arrayCommandsRun : Obligations.ArrayCommandsRun := by
  unfold Obligations.ArrayCommandsRun
  refine ⟨?wldStart, fun s r seq c hfind => ⟨exec_wldComplete_of_columns_missing hfind, exec_wldComplete_of_all_columns hfind,
      fun hheld => ⟨exec_wdropAct_of_not_held hfind hheld, exec_modeCommandComplete_of_not_held hfind hheld⟩,
      fun hnew h => exec_start_of_held hfind (startHeld_of_throttle_or_wake hnew h), exec_mmaComplete hfind⟩,
    fun s r seq c v ks => exec_mmaStart_of_input, ?row, Mach.finishCmd_frame⟩
  case wldStart =>
    intro s r seq c col ks hfind hnew hgot _ hheld hnodup herr hcol
    obtain ⟨hmem, hst, hctx, hcmd, hdue⟩ := firstColumnRead_spec col hfind hnodup
    refine ⟨_, exec_wldStart_of_first_column hfind hnew hgot hheld herr hcol, ?_⟩
    split
    · exact ⟨hmem, hst, hctx, hcmd, mem_agendaAdd.2 (.inr hdue)⟩
    · exact ⟨hmem, hst, hctx, hcmd, hdue⟩
  case row =>
    intro c v a old n hcls hn _ av bv len sum
    split
    · next hcol => exact acmElem_mmaRow_of_no_column hcls hn hcol
    · next hcol => exact acmElem_mmaRow_of_column hcls hn (Nat.not_le.1 hcol)

end Sys2Proof.Machine
end

section
/-! PROOFS. The words of the accumulator memory (12 R236 to R248): allocation, commands as they are accepted, and rows pushed into queues. -/

namespace Sys2Proof.Machine

open Claims

/-! ## Keys of a map written one after the other -/

theorem KMap.get_foldl_set {α : Type} (d v : α) (ks : List Nat) (m : KMap α) (j : Nat) :
    KMap.get d (ks.foldl (fun t k => KMap.set t k v) m) j = if j ∈ ks then v else KMap.get d m j := by
  induction ks generalizing m with
  | nil => simp
  | cons k ks ih =>
    rw [List.foldl_cons, ih, KMap.get_set]
    by_cases hj : j ∈ ks <;> simp [hj]
/-- A stretch of `n` keys from `b` on written with one value. -/
theorem KMap.get_foldl_set_range {α : Type} (d v : α) (b n : Nat) (m : KMap α) (j : Nat) :
    KMap.get d (((List.range n).map (b + ·)).foldl (fun t k => KMap.set t k v) m) j
      = if b ≤ j ∧ j < b + n then v else KMap.get d m j := by
  have hmem : j ∈ (List.range n).map (b + ·) ↔ b ≤ j ∧ j < b + n := by
    rw [← List.range'_eq_map_range, List.mem_range'_1]
  rw [KMap.get_foldl_set]
  simp only [hmem]

/-! ## ACMAL (12 R238, R241) -/

section
variable {x : Cluster} {n : Nat}

/-- The range that an allocation takes is the lowest one whose banks are all free. -/
theorem Cluster.freeRange_eq_some {b : Nat} (hfit : b + n ≤ 64) (hfree : ∀ i, i < n → (x.bank (b + i)).used = false)
    (hlowest : ∀ a, a < b → ∃ i, i < n ∧ (x.bank (a + i)).used = true) : x.freeRange n = some b := by
  rw [Cluster.freeRange, List.find?_range_eq_some]
  refine ⟨by simpa using hfree, List.mem_range.2 (by omega), fun a ha => ?_⟩
  obtain ⟨i, hi, hused⟩ := hlowest a ha
  simpa using ⟨i, hi, hused⟩
theorem Cluster.freeRange_eq_none (hn : n ≤ 64) (hused : ∀ a, a + n ≤ 64 → ∃ i, i < n ∧ (x.bank (a + i)).used = true) :
    x.freeRange n = none := by
  rw [Cluster.freeRange, List.find?_eq_none]
  intro a ha
  have hfit := List.mem_range.1 ha
  obtain ⟨i, hi, hu⟩ := hused a (by omega)
  simpa using ⟨i, hi, hu⟩
end

section
variable (x : Cluster) (h : Hdl) (k r p : Nat)

/-- Rows of the handle are zeroed. -/
theorem Cluster.allocate_acmRow : (x.allocate h k r).acmRow p = if 16 * h.base ≤ p ∧ p < 16 * h.base + h.rows then 0 else x.acmRow p :=
  KMap.get_foldl_set_range ..
/-- Rows of the handle are the allocating core's (12 R239). -/
theorem Cluster.allocate_rowOwner : KMap.get 0 (x.allocate h k r).rowOwner p =
    if 16 * h.base ≤ p ∧ p < 16 * h.base + h.rows then coreIn r else KMap.get 0 x.rowOwner p :=
  KMap.get_foldl_set_range ..
theorem Cluster.allocate_bank : (x.allocate h k r).bank p =
    if h.base ≤ p ∧ p < h.base + (h.nb + 1) then h.bank k r (coreIn r) else x.bank p :=
  KMap.get_foldl_set_range ..
end

/-- The handle that an ACMAL of no speculation makes of banks from `b` on (12 R237, R241). -/
abbrev newHandle (s : State) (w : MA) (b : Nat) : Hdl :=
  ⟨true, w.op == 1, false, w.row0.toNat % 2 ^ 8, w.count.toNat - 1, b, nextGen s.cluster.acmgen⟩

section
variable {s : State} {w : MA} (hplain : w.row0.getLsbD 9 = false)
include hplain

/-- An ACMAL with a free range takes the lowest; with no speculation it touches no entry of the speculation table. -/
theorem exec_acmal_issues {b : Nat} (hrange : s.cluster.freeRange w.count.toNat = some b) (h : MayIssue s .m (.acmal w) w.hdr) :
    exec (.acmal w) s = s.goes (((s.issued .m w.hdr).modCluster (clusterOf s.cur) (fun x =>
      x.allocate (newHandle s w b) s.hand.ctx s.cur)).issueResult s.cur [.hreg w.handle.toNat (newHandle s w b).code] 0
        (pushFifo .m w.hdr.push) (s.tb + 2) true false) := by
  have hbit : bit w.row0 9 = false := hplain
  have hexec : exec (.acmal w) s = execAcmal w s := rfl
  rw [hexec, execAcmal, runWord_issues h rfl (Nat.zero_le _) (by simp [hbit, hrange])]
  simp only [hbit, hrange, Option.getD_some, bits_zero_toNat]
  rfl
/-- With no free range an ACMAL takes acm-unallocated, reason 5. -/
theorem exec_acmal_without_range (hrange : s.cluster.freeRange w.count.toNat = none) (hc : (Instr.acmal w).check = none)
    (hpop : s.hand.popStop s.tb (popFifo .m w.hdr.pop) = none) : exec (.acmal w) s =
      s.goes (s.m.trap s.tb s.cur { f := ⟨0x0E, 5, []⟩, eng := 2, word := (encode (.acmal w)).getD 0 }) := by
  have hbit : bit w.row0 9 = false := hplain
  have hexec : exec (.acmal w) s = execAcmal w s := rfl
  rw [hexec, execAcmal, runWord_stops (st := .trap ⟨0x0E, 5, []⟩) (by simp [guardWord, hc, hpop, hbit, hrange, trapIf_of_true]),
    stopWord_trap (by decide)]
  rfl
end

/-! ## Commands as they are accepted (12 R238, R239, R241) -/

section
variable {s : State} {w : MA}

theorem needH_eq_none {n : Nat} (h : s.hand.pendH n = false) : s.hand.needH n = none := freezeIf_eq_none.2 h

theorem exec_acmfr_issues (hpend : s.hand.pendH w.handle.toNat = false) (hroom : CmdRoom s)
    (hhandle : s.m.hdlStop s.cur (hdlOf (s.hand.hreg w.handle.toNat)) none none 0 0 = none)
    (hmine : (s.cluster.bank (hdlOf (s.hand.hreg w.handle.toNat)).base).core = s.cur / 2 % 4)
    (h : MayIssue s .m (.acmfr w) (lateHdr w.hdr)) :
    exec (.acmfr w) s = s.goes (acmAccept ⟨s.tb, s.cur, .m⟩ w .acmfr (s.hand.hreg w.handle.toNat) id (s.issued .m w.hdr)) :=
  congrArg Host.Outcome.next (runWord_issues h rfl (Nat.zero_le _) (by simp [needH_eq_none hpend, hhandle, hmine, coreIn, queueFull_eq_none hroom]))

theorem exec_acmz_issues (hpend : s.hand.pendH w.handle.toNat = false) (hroom : CmdRoom s)
    (hhandle : s.m.hdlStop s.cur (hdlOf (s.hand.hreg w.handle.toNat)) none none w.row0.toNat w.count.toNat = none)
    (hown : s.m.ownStop s.cur (hdlOf (s.hand.hreg w.handle.toNat)) w.row0.toNat w.count.toNat = none)
    (h : MayIssue s .m (.acmz w) (lateHdr w.hdr)) :
    exec (.acmz w) s = s.goes (acmAccept ⟨s.tb, s.cur, .m⟩ w .acmz (s.hand.hreg w.handle.toNat) id (s.issued .m w.hdr)) :=
  congrArg Host.Outcome.next (runWord_issues h rfl (Nat.zero_le _) (by simp [needH_eq_none hpend, hhandle, hown, queueFull_eq_none hroom]))

/-- The sources of an ACMAD: the heads of one queue (12 R246). -/
abbrev acmadSources (w : MA) : List Opnd := List.replicate w.count.toNat ⟨w.q.toNat, false, false, 4⟩

theorem queueOwn_eq_none {e : Engine} {os : List Opnd} {pushes : List Nat} (hsrc : Sources s e os pushes) :
    queueOwn s.hand e os pushes [] = none := by
  obtain ⟨hqueues, hregs⟩ := hsrc
  rw [queueOwn, firstStop_eq_none]
  simpa [hqueues] using hregs

theorem exec_acmad_issues (hpend : s.hand.pendH w.handle.toNat = false) (hroom : CmdRoom s)
    (hhandle : s.m.hdlStop s.cur (hdlOf (s.hand.hreg w.handle.toNat)) none (some false) w.row0.toNat w.count.toNat = none)
    (hown : s.m.ownStop s.cur (hdlOf (s.hand.hreg w.handle.toNat)) w.row0.toNat w.count.toNat = none)
    (hsrc : Sources s .m (acmadSources w) []) (h : MayIssue s .m (.acmad w) (lateHdr w.hdr)) :
    exec (.acmad w) s = s.goes (acmAccept ⟨s.tb, s.cur, .m⟩ w .acmad (s.hand.hreg w.handle.toNat) (fun c =>
      { c with ents := opValues s.hand .m (acmadSources w), blk := w.op.toNat, rnd := (s.hand.creg 0x032).toNat % 16 })
        (s.took .m w.hdr (acmadSources w))) :=
  congrArg Host.Outcome.next (runWord_issues h rfl (Nat.zero_le _) (by simp [queueOwn_eq_none hsrc, needH_eq_none hpend, hhandle, hown, queueFull_eq_none hroom]))

/-- The Q register that PPCTL names, as an ACMST takes it (12 R244). -/
abbrev ppQ (s : State) : Nat := (s.hand.creg (0x038 + (s.hand.creg 0x048).toNat / 2 ^ 12 % 2 ^ 3)).toNat % 2 ^ 19

/-- An ACMST whose handle, rows, output and addresses pass its checks is accepted with the post pipe's registers as they stand. -/
theorem exec_acmst_issues : let h := hdlOf (s.hand.hreg w.handle.toNat)
    let st := s.hand.streg w.q.toNat
    let pp := s.hand.creg 0x048
    let bias := s.hand.creg 0x049
    let n := w.count.toNat
    s.hand.pendH w.handle.toNat = false → s.m.hdlStop s.cur h none (some false) w.row0.toNat n = none →
    s.m.ownStop s.cur h w.row0.toNat n = none → s.m.busyStop s.cur (16 * h.base + w.row0.toNat) n = none →
    (pp.getLsbD 5 = true → h.isInt = false) → ppCols pp * ppWidth pp (ppQ s) % 32 = 0 → st.toNat % 4 = 0 → stField st 64 32 % 4 = 0 →
    (pp.getLsbD 0 = true → bias.toNat % 4 = 0 ∧ s.m.ownSlice s.cur bias 1024 = true) →
    (∀ i, i < n → s.m.ownSlice s.cur (stRowAt st i) (ppLen pp (ppQ s)) = true) → CmdRoom s →
    MayIssue s .m (.acmst w) (lateHdr w.hdr) →
    exec (.acmst w) s = s.goes (acmAccept ⟨s.tb, s.cur, .m⟩ w .acmst (s.hand.hreg w.handle.toNat) (fun c =>
      { c with st := st, q := ppQ s, pp := pp, ppBias := bias, ppScl := s.hand.creg 0x04A, rnd := (s.hand.creg 0x032).toNat % 16 })
        (s.issued .m w.hdr)) := by
  intro hd st pp bias n hpend hhandle hown hbusy hact hrow hbase hstride hbias hrows hroom h
  have hq : ∀ pp : W64, (bits (s.hand.creg (0x038 + (bits pp 12 3).toNat)) 0 19).toNat
      = (s.hand.creg (0x038 + pp.toNat / 2 ^ 12 % 2 ^ 3)).toNat % 2 ^ 19 := fun pp => by rw [bits_zero_toNat, bits_toNat]
  have hfmt : ((bit pp 5 && hd.isInt) || ppCols pp * ppWidth pp (ppQ s) % 32 != 0) = false := by
    rw [hrow]
    simpa [bit] using hact
  have hstart : ((bits st 0 64).toNat % 4 != 0 || stField st 64 32 % 4 != 0) = false := by
    rw [bits_zero_toNat, hstride, Nat.mod_mod_of_dvd _ (by decide), hbase]
    rfl
  have hbiasAligned : (bit pp 0 && bias.toNat % 4 != 0) = false := by
    simpa [bit] using fun h0 => (hbias h0).1
  have hbiasMine : (bit pp 0 && !s.m.ownSlice s.cur bias 1024) = false := by
    simpa [bit] using fun h0 => (hbias h0).2
  have hfound : ((List.range n).map (fun i => stRowAt st i)).find? (fun a => !s.m.ownSlice s.cur a (ppLen pp (ppQ s))) = none := by
    simpa using hrows
  refine (congrArg Host.Outcome.next (runWord_issues h rfl (Nat.zero_le _) (firstStop_eq_none.2 ?_))).trans ?_
  · simp only [List.forall_mem_cons, List.not_mem_nil, false_imp_iff, implies_true, and_true, hq]
    refine ⟨needH_eq_none hpend, hhandle, hown, hbusy, trapIf_eq_none.2 hfmt, trapIf_eq_none.2 hstart, trapIf_eq_none.2 hbiasAligned,
      ?_, trapIf_eq_none.2 hbiasMine, queueFull_eq_none hroom⟩
    rw [hfound]
  · simp only [hq]; rfl
end

/-! ## ACMOWN, ACMV and ACMPK (12 R239, R242, R243) -/

section
variable {s : State} {w : MA}

theorem exec_acmown_issues : let h := hdlOf (s.hand.hreg w.handle.toNat)
    s.hand.pendH w.handle.toNat = false → s.m.hdlStop s.cur h none none w.row0.toNat w.count.toNat = none →
    s.m.ownStop s.cur h w.row0.toNat w.count.toNat = none → MayIssue s .m (.acmown w) w.hdr →
    exec (.acmown w) s = s.goes (((s.issued .m w.hdr).modCluster (clusterOf s.cur) (fun x =>
      x.giveRows (16 * h.base + w.row0.toNat) w.count.toNat w.op.toNat)).modHand s.cur (tokenNow s .m w.hdr)) := by
  intro h hpend hhandle hown hissue
  exact congrArg Host.Outcome.next (runWord_issues hissue rfl (Nat.zero_le _) (by simp [instantMeaning, h, needH_eq_none hpend, hhandle, hown]))

theorem exec_acmv_issues : let h := hdlOf (s.hand.hreg w.handle.toNat)
    let n := w.count.toNat
    let p0 := 16 * h.base + w.row0.toNat
    s.hand.pendH w.handle.toNat = false → s.m.hdlStop s.cur h none none w.row0.toNat n = none →
    s.m.ownStop s.cur h w.row0.toNat n = none → s.m.busyStop s.cur p0 n = none →
    s.hand.queueStop [] (List.replicate n w.q.toNat) = none → MayIssue s .m (.acmv w) w.hdr →
    exec (.acmv w) s = s.goes (((s.issued .m w.hdr).noteDrain s.tb (clusterOf s.cur) h.base (s.tb + 3 + n)).pushRows s.tb s.cur
      w.q.toNat (pushFifo .m w.hdr.push) ((List.range n).map (fun i => (acmBlock (s.m.acmSeen (clusterOf s.cur) (p0 + i)) w.op.toNat,
        [acmKey (clusterOf s.cur) (p0 + i)]))) []) := by
  intro h n p0 hpend hhandle hown hbusy hqueue hissue
  have hexec : exec (.acmv w) s = execAcmv w s := rfl
  rw [hexec, execAcmv, runWord_issues hissue rfl (Nat.zero_le _) (by simp [h, n, p0, hqueue, needH_eq_none hpend, hhandle, hown, hbusy])]
  simp only [List.map_map]
  rfl

/-- Is row `p` in a bank that is allocated to the hand's context (12 R242)? -/
abbrev pkMine (s : State) (p : Nat) : Bool := (s.cluster.bank (p / 16)).used && (s.cluster.bank (p / 16)).ctx == s.hand.ctx
/-- What ACMPK pushes of a row: its column block as the last completed command left it, zeros of another context's or a free one. -/
abbrev pkEntry (s : State) (w : MA) (p : Nat) : Entry × List Nat :=
  if pkMine s p then (if s.m.rowError (acmKey (clusterOf s.cur) p) = some true then 0 else acmBlock (s.cluster.settled p) w.op.toNat,
    [acmKey (clusterOf s.cur) p]) else (0, [])
/-- ACMPKS after an ACMPK of some rows: U of a free row, F of another context's (12 R242, R244). -/
abbrev pkSummary (s : State) (rows : List Nat) : W64 :=
  BitVec.ofNat 64 ((if rows.any (fun p => !(s.cluster.bank (p / 16)).used) then 1 else 0)
    + if rows.any (fun p => (s.cluster.bank (p / 16)).used && (s.cluster.bank (p / 16)).ctx != s.hand.ctx) then 2 else 0)

theorem exec_acmpk_issues : let rows := (List.range w.count.toNat).map (w.row0.toNat + ·)
    s.hand.queueStop [] (List.replicate w.count.toNat w.q.toNat) = none → MayIssue s .m (.acmpk w) w.hdr →
    exec (.acmpk w) s = s.goes (((rows.filter (fun p => (s.cluster.bank (p / 16)).used)).foldl (fun (m : Mach) p =>
      m.noteDrain s.tb (clusterOf s.cur) (s.cluster.bank (p / 16)).base (s.tb + 3 + w.count.toNat)) (s.issued .m w.hdr)).pushRows
        s.tb s.cur w.q.toNat (pushFifo .m w.hdr.push) (rows.map (pkEntry s w)) [.creg 0x047 (pkSummary s rows)]) := by
  intro rows hqueue hissue
  have hentry : ∀ (used mine : Bool) (zero shown : Entry × List Nat),
      (if !used || (used && !mine) then zero else shown) = if used && mine then shown else zero := by
    intro used mine zero shown
    cases used <;> cases mine <;> rfl
  have hsummary : ∀ u f : Bool, u.toNat + 2 * f.toNat = (if u then 1 else 0) + if f then 2 else 0 := by decide
  have hexec : exec (.acmpk w) s = execAcmpk w s := rfl
  rw [hexec, execAcmpk, runWord_issues hissue rfl (Nat.zero_le _) hqueue]
  simp only [bne, hentry, hsummary, Bool.not_not, beq_iff_eq]
  rfl
end

theorem Mach.checkOf_of_no_error {m : Mach} (herr : ∀ k, m.rowError k = none) (r : Nat) (keys : List Nat) : m.checkOf r keys = (none, m) := by
  rw [Mach.checkOf, Mach.anyUE_of_no_error herr]
/-- Of rows without an error, the entries are two results one cycle apart; the token and what lands last go with the second (12 R248). -/
theorem Mach.pushRows_two {m : Mach} (herr : ∀ k, m.rowError k = none) (now r q push : Nat) (x y : Entry × List Nat) (l : List Land) :
    m.pushRows now r q push [x, y] l = (m.issueResult r [.queue q x.1] 0 0 (now + 4) true false).issueResult r (.queue q y.1 :: l) 0 push
      (now + 5) true false := by
  have hnext : ∀ ls fl p t, (m.issueResult r ls fl p t true false).checkOf r y.2 = (none, m.issueResult r ls fl p t true false) :=
    fun ls fl p t => Mach.checkOf_of_no_error (m := m.issueResult r ls fl p t true false) herr r y.2
  simp [Mach.pushRows, Mach.countErrors_of_no_error herr, Mach.checkOf_of_no_error herr, hnext, Mach.warn]

/-! ## The statement -/

/-- Settles O39: each word whose checks pass issues with its effect; an allocation takes the lowest free range, and what it writes is read
back row by row. -/
theorem accumulatorWords : Obligations.AccumulatorWords := by
  unfold Obligations.AccumulatorWords
  refine ⟨?alloc, ?full, ?allocated, ?commands, fun s w => exec_acmst_issues, ?rows, fun s w => exec_acmpk_issues, ?push⟩
  case alloc =>
    intro s w b nb h hplain hfit _ hfree hlowest hissue
    exact exec_acmal_issues hplain (Cluster.freeRange_eq_some hfit hfree hlowest) hissue
  case full =>
    intro s w hplain hused hc hpop hn
    exact exec_acmal_without_range hplain (Cluster.freeRange_eq_none hn hused) hc hpop
  case allocated =>
    intro x h k r p y mine
    have hrow : mine = true ↔ 16 * h.base ≤ p ∧ p < 16 * h.base + h.rows := by simp [mine, Hdl.rows]
    have hbank : mine = true ↔ h.base ≤ p / 16 ∧ p / 16 < h.base + (h.nb + 1) := by
      rw [hrow, Hdl.rows]; omega
    refine ⟨?_, ?_, rfl, ?_⟩
    · simp only [hrow]; exact x.allocate_acmRow h k r p
    · simp only [hrow]; exact x.allocate_rowOwner h k r p
    · simp only [hbank]; exact x.allocate_bank h k r (p / 16)
  case commands =>
    intro s w hv n base accepted hpend hroom
    exact ⟨exec_acmfr_issues hpend hroom, exec_acmz_issues hpend hroom, exec_acmad_issues hpend hroom⟩
  case rows =>
    intro s w h n p0 hpend hhandle hown
    refine ⟨exec_acmown_issues hpend hhandle hown, fun hbusy hqueue hissue => ?_⟩
    have hseen : ∀ p, s.m.acmSeen (clusterOf s.cur) p
        = if s.m.rowError (acmKey (clusterOf s.cur) p) = some true then 0 else s.cluster.acmRow p := fun p => by
      simp only [Mach.acmSeen, beq_iff_eq]
    simp only [← hseen]
    exact exec_acmv_issues hpend hhandle hown hbusy hqueue hissue
  case push =>
    intro m now r q push x y l hue hce
    refine Mach.pushRows_two (fun k => ?_) now r q push x y l
    rcases hk : m.rowError k with _ | ue
    · rfl
    · cases ue
      · exact absurd hk (hce k)
      · exact absurd hk (hue k)

end Sys2Proof.Machine
end

section
/-! PROOFS. The events of the accumulator commands (12 R241, R245, R246, R248, R249): starts, what a completion leaves, and the post pipe's
integer output. -/

namespace Sys2Proof.Machine

/-! ## What holds a free back, and times (12 R241, R248, R249) -/

section
variable {x : Cluster} {c : Cmd} {now : Nat}

/-- Every earlier command that touches its handle holds a free back. -/
theorem Cluster.no_earlier_overlap_of_canStart (hop : c.op = .acmfr) (h : x.canStart c = true) {d : Cmd} (hd : d ∈ x.cmds)
    (hearlier : d.acc < c.acc) : overlap d.rows c.rows = false := by
  simp only [Cluster.canStart, hop, List.all_eq_true] at h
  have hfree := h d hd
  have hne : (d.acc == c.acc) = false := by simpa using hearlier.ne
  have hholds : x.holdsFree c d = true := by simp [Cluster.holdsFree, hearlier]
  simpa [hne, hholds] using hfree

/-- A free starts after the drains of its handle. -/
theorem Cluster.startAt_free (hop : c.op = .acmfr) : x.startAt now c =
    x.drains.foldl (fun t d => if d.1 = (hdlOf c.handle).base then max t d.2 else t) now := by
  simp [Cluster.startAt, Cmd.isMma, hop]
theorem Cluster.startAt_free_of_drained (hop : c.op = .acmfr) (hdrained : ∀ p ∈ x.drains, p.1 = (hdlOf c.handle).base → p.2 ≤ now) :
    x.startAt now c = now := by
  rw [Cluster.startAt_free hop]
  refine List.foldlRecOn (motive := fun t => t = now) _ _ rfl fun t ht d hd => ?_
  split
  · next hbase => rw [ht, max_eq_left (hdrained d hd hbase)]
  · exact ht
/-- A zeroing, an addition or a store starts at its event. -/
theorem Cluster.startAt_of_rows_op (hop : c.op = .acmz ∨ c.op = .acmad ∨ c.op = .acmst) : x.startAt now c = now := by
  rcases hop with hop | hop | hop <;> simp [Cluster.startAt, Cmd.isMma, hop]
end

/-! ## ACCUM_COMMAND_START (12 R241, R246) -/

/-- The machine with an accumulator command of no bias started, its completion due, and the commands armed that its start lets start. -/
def accumStarted (s : State) (r seq : Nat) (c : Cmd) : Mach :=
  ((s.m.putCmd (clusterOf r) { c with started := true, got := [some (splitElems 32 256 [], [])] }).post (c.startT + c.acmTime)
    (.accumCommandComplete r seq)).armCmds s.tb (clusterOf r)

section
variable {s : State} {r seq : Nat} {c : Cmd}

theorem Mach.countErrors_nil (m : Mach) (k : Nat) : m.countErrors k [] = m := rfl
theorem Mach.noteUE_nil (m : Mach) (r : Nat) : m.noteUE r [] = m := rfl

theorem exec_accumCommandStart_of_due (hfind : s.m.findCmd r seq = some c) (hheld : s.m.startHeld s.tb c = false)
    (hready : c.op = .acmfr → (s.m.cluster (clusterOf r)).canStart c = true) (hdue : (s.m.cluster (clusterOf r)).startAt s.tb c = s.tb)
    (hbias : c.op = .acmst → c.pp.getLsbD 0 = false) : exec (.accumCommandStart r seq) s = s.goes (accumStarted s r seq c) := by
  have hnotHeld : (c.op == .acmfr && !(s.m.cluster (clusterOf r)).canStart c) = false := by simpa using hready
  have hnoBias : (c.op == .acmst && bit c.pp 0) = false := by simpa [bit] using hbias
  have hexec : exec (.accumCommandStart r seq) s = execAccumCommandStart r seq s := rfl
  rw [hexec, execAccumCommandStart, runEvent]
  simp only [hfind, hheld, hnotHeld, hdue, hnoBias, Nat.lt_irrefl, Bool.false_eq_true, if_false, Mach.countErrors_nil, Mach.noteUE_nil]
  rfl

/-- A start keeps memory, hands and accumulators; the command is started, and its completion is due after its time. -/
theorem accumStarted_spec (hfind : s.m.findCmd r seq = some c) (hnodup : ((s.m.cluster (clusterOf r)).cmds.map (·.acc)).Nodup) :
    let m := accumStarted s r seq c
    m.mem = s.m.mem ∧ m.hands = s.m.hands ∧ (m.cluster (clusterOf r)).acm = (s.m.cluster (clusterOf r)).acm ∧
      (c.startT + c.acmTime, .accumCommandComplete r seq) ∈ m.agenda ∧
      ∃ d ∈ (m.cluster (clusterOf r)).cmds, d.acc = c.acc ∧ d.started = true ∧ d.op = c.op ∧ d.seq = c.seq := by
  intro m
  set started : Cmd := { c with started := true, got := [some (splitElems 32 256 [], [])] } with hstarted
  set put := (s.m.putCmd (clusterOf r) started).post (c.startT + c.acmTime) (.accumCommandComplete r seq) with hput
  have hm : m = put.armCmds s.tb (clusterOf r) := rfl
  have hmine : started ∈ (put.cluster (clusterOf r)).cmds := Mach.mem_putCmd (c := c) (Mach.mem_cmds_of_findCmd hfind) rfl
  have hown : ∀ e ∈ (put.cluster (clusterOf r)).cmds, e.acc = started.acc → e = started := by
    have hnodup' : ((put.cluster (clusterOf r)).cmds.map (·.acc)).Nodup := by
      rw [hput, Mach.post_cluster_get, Mach.putCmd_accs]; exact hnodup
    exact fun e he hacc => List.inj_on_of_nodup_map hnodup' he hmine hacc
  obtain ⟨cs, harm⟩ := put.armCmds_cluster s.tb (clusterOf r)
  obtain ⟨d, hd, hdc⟩ := Mach.mem_armCmds s.tb hmine hown
  refine ⟨?_, ?_, ?_, Mach.mem_armCmds_agenda s.tb _ (mem_agendaAdd.2 (.inl rfl)), d, hd, ?_⟩
  · rw [hm, Mach.armCmds_mem]; rfl
  · rw [hm, Mach.armCmds_hands]; rfl
  · rw [hm, harm, hput, Mach.post_cluster_get, Mach.putCmd_cluster]
  · rw [hdc]; exact ⟨rfl, rfl, rfl, rfl⟩

section
variable (hfind : s.m.findCmd r seq = some c) (hop : c.op = .acmfr)
include hfind hop

/-- A free that is held back again is looked at anew when commands complete (12 R249). -/
theorem exec_accumCommandStart_of_free_held_back (hheld : s.m.startHeld s.tb c = false)
    (hback : (s.m.cluster (clusterOf r)).canStart c = false) :
    exec (.accumCommandStart r seq) s = s.goes (s.m.putCmd (clusterOf r) { c with armed := false }) := by
  have hexec : exec (.accumCommandStart r seq) s = execAccumCommandStart r seq s := rfl
  simp [hexec, execAccumCommandStart, runEvent, hfind, hheld, hop, hback]
theorem exec_accumCommandComplete_of_free_held_back (hback : (s.m.cluster (clusterOf r)).canStart c = false) :
    exec (.accumCommandComplete r seq) s = s.goes (s.m.post (s.tb + 1) (.accumCommandComplete r seq)) := by
  have hexec : exec (.accumCommandComplete r seq) s = execAccumCommandComplete r seq s := rfl
  simp [hexec, execAccumCommandComplete, runEvent, hfind, hop, hback]
/-- A free starts when the drain of its handle that is open ends (12 R241). -/
theorem exec_accumCommandStart_of_drain {p : Nat × Nat} (hheld : s.m.startHeld s.tb c = false)
    (hready : (s.m.cluster (clusterOf r)).canStart c = true) (hdrains : (s.m.cluster (clusterOf r)).drains = [p])
    (hbase : p.1 = (hdlOf c.handle).base) (hopen : s.tb < p.2) : exec (.accumCommandStart r seq) s =
      s.goes ((s.m.putCmd (clusterOf r) { c with startT := p.2 }).post p.2 (.accumCommandStart r seq)) := by
  have hstart : (s.m.cluster (clusterOf r)).startAt s.tb c = p.2 := by
    rw [Cluster.startAt_free hop, hdrains]
    simp [hbase, hopen.le]
  have hexec : exec (.accumCommandStart r seq) s = execAccumCommandStart r seq s := rfl
  simp [hexec, execAccumCommandStart, runEvent, hfind, hheld, hop, hready, hstart, hopen]
end

end

/-! ## ACCUM_COMMAND_COMPLETE (12 R241, R245, R246) -/

/-- A command that completes leaves the banks' table as it is. -/
theorem Mach.finishCmd_banks (m : Mach) (now : Nat) (c : Cmd) :
    ((m.finishCmd now c).cluster (clusterOf c.hand)).banks = (m.cluster (clusterOf c.hand)).banks := by
  set k := clusterOf c.hand with hk
  set left := m.modCluster k (fun x => { x with cmds := x.cmds.filter (fun d => d.acc != c.acc) }) with hleft
  have hfreed : ((left.freeSptes k).cluster k).banks = (left.cluster k).banks := by
    refine List.foldlRecOn (motive := fun t : Mach => (t.cluster k).banks = (left.cluster k).banks) _ _ rfl fun t ht p _ => ?_
    obtain ⟨spt, n, hfree⟩ := (t.cluster k).spteFree_eq p.1
    rw [Mach.modCluster_cluster_get, if_pos rfl, hfree]
    exact ht
  obtain ⟨cs, harm⟩ := ((left.freeSptes k).modHand c.hand (fun h => h.completeTok now c.push)).armCmds_cluster now k
  have hfinish : m.finishCmd now c = ((left.freeSptes k).modHand c.hand (fun h => h.completeTok now c.push)).armCmds now k := rfl
  rw [hfinish, harm, Mach.modHand_cluster_get]
  exact hfreed.trans (by simp [hleft])

/-- The first physical row of a command. -/
abbrev Cmd.row (c : Cmd) : Nat := 16 * (hdlOf c.handle).base + c.row0
/-- The physical rows of a command on consecutive rows. -/
abbrev Cmd.rowList (c : Cmd) : List Nat := (List.range c.count).map (c.row + ·)
/-- The cluster with the banks of a handle freed (12 R241). -/
def Cluster.freeBanks (x : Cluster) (h : Hdl) : Cluster :=
  { x.unbindSpt h with banks := (List.range (h.nb + 1)).foldl (fun t i => t.set (h.base + i) {}) x.banks }
/-- The cluster with the rows of an ACMAD added to (12 R246), of rows without an error. -/
def Cluster.addRows (x : Cluster) (c : Cmd) : Cluster :=
  { x with acm := (c.rowList.zip c.ents).foldl (fun (t : KMap (BitVec 8192)) (p : Nat × Entry) =>
      t.set p.1 (acmAdd (hdlOf c.handle).isInt (c.rnd % 8) c.blk (x.acmRow p.1) p.2)) x.acm }
/-- What an accumulator command does at its completion, where no row has an error. -/
def accumEffect (s : State) (r : Nat) (c : Cmd) : Mach :=
  match c.op with
  | .acmfr => s.m.modCluster (clusterOf r) (·.freeBanks (hdlOf c.handle))
  | .acmz => s.m.modCluster (clusterOf r) (fun x => { x with acm := c.rowList.foldl (fun t p => t.set p 0) x.acm })
  | .acmad => s.m.setCluster (clusterOf r) ((s.m.cluster (clusterOf r)).addRows c)
  | .rslv => s.m.supplyQueue s.tb r c.res (c.ents.headD 0)
  | .acmst => s.m.storeRows r c c.row ((c.got.headD none).elim [] (·.1))
  | _ => s.m

section
variable {s : State} {r seq : Nat} {c : Cmd}

theorem Mach.acmErrors_of_no_error {m : Mach} (herr : ∀ k, m.rowError k = none) (r : Nat) (ps : List Nat) : m.acmErrors r ps = m := by
  simp only [Mach.acmErrors, Mach.countErrors_of_no_error herr, Mach.noteUE_of_no_error herr]
theorem Mach.acmSeen_of_no_error {m : Mach} (herr : ∀ k, m.rowError k = none) (k p : Nat) : m.acmSeen k p = (m.cluster k).acmRow p := by
  simp [Mach.acmSeen, herr]

/-- A command whose completion nothing holds back has its effect and leaves its queue. -/
theorem exec_accumCommandComplete_of_ready (hfind : s.m.findCmd r seq = some c) (herr : ∀ k, s.m.rowError k = none)
    (hready : c.op = .acmfr → (s.m.cluster (clusterOf r)).canStart c = true) :
    exec (.accumCommandComplete r seq) s = s.goes ((accumEffect s r c).finishCmd s.tb c) := by
  have hnotHeld : (c.op == .acmfr && !(s.m.cluster (clusterOf r)).canStart c) = false := by simpa using hready
  have hexec : exec (.accumCommandComplete r seq) s = execAccumCommandComplete r seq s := rfl
  rw [hexec, execAccumCommandComplete, runEvent]
  simp only [hfind, hnotHeld, Bool.false_eq_true, if_false, Mach.acmErrors_of_no_error herr, Mach.acmSeen_of_no_error herr]
  rw [accumEffect]
  cases c.op <;> rfl

/-! ### A free -/

theorem accumEffect_free (hop : c.op = .acmfr) : (accumEffect s r c).cluster (clusterOf r) =
    (s.m.cluster (clusterOf r)).freeBanks (hdlOf c.handle) := by
  simp [accumEffect, hop]
theorem Cluster.freeBanks_acm (x : Cluster) (h : Hdl) : (x.freeBanks h).acm = x.acm := by
  unfold Cluster.freeBanks Cluster.unbindSpt
  dsimp only
  split <;> rfl
theorem Cluster.freeBanks_used (x : Cluster) (h : Hdl) (b : Nat) :
    ((x.freeBanks h).bank b).used = ((x.bank b).used && !(decide (h.base ≤ b) && decide (b ≤ h.base + h.nb))) := by
  have hbank : (x.freeBanks h).bank b = if h.base ≤ b ∧ b < h.base + (h.nb + 1) then {} else x.bank b := by
    have hrange := KMap.get_foldl_set_range ({} : AcmBank) {} h.base (h.nb + 1) x.banks b
    rw [List.foldl_map] at hrange
    exact hrange
  have hle : b < h.base + (h.nb + 1) ↔ b ≤ h.base + h.nb := Nat.lt_succ_iff
  simp only [hbank, hle]
  by_cases hin : h.base ≤ b ∧ b ≤ h.base + h.nb
  · simp [hin]
  · rw [if_neg hin, ← Bool.decide_and, decide_eq_false hin, Bool.not_false, Bool.and_true]

/-! ### Rows zeroed -/

theorem accumEffect_zero (hop : c.op = .acmz) (p : Nat) : ((accumEffect s r c).cluster (clusterOf r)).acmRow p =
    if c.row ≤ p ∧ p < c.row + c.count then 0 else (s.m.cluster (clusterOf r)).acmRow p := by
  have hcluster : ((accumEffect s r c).cluster (clusterOf r)).acm =
      c.rowList.foldl (fun t p => t.set p 0) (s.m.cluster (clusterOf r)).acm := by simp [accumEffect, hop]
  rw [Cluster.acmRow, hcluster]
  exact KMap.get_foldl_set_range ..

/-! ### Rows added to -/

/-- Pairs of a key and a value written one after the other, no key twice: each is read back, and no other key is changed. -/
theorem KMap.get_foldl_set_pairs {α β : Type} (d : α) (f : Nat × β → α) {l : List (Nat × β)} (hnodup : (l.map (·.1)).Nodup) (m : KMap α) :
    (∀ p ∈ l, KMap.get d (l.foldl (fun t p => KMap.set t p.1 (f p)) m) p.1 = f p) ∧
      ∀ j, j ∉ l.map (·.1) → KMap.get d (l.foldl (fun t p => KMap.set t p.1 (f p)) m) j = KMap.get d m j := by
  induction l generalizing m with
  | nil => simp
  | cons q l ih =>
    obtain ⟨hq, hnodup'⟩ := List.nodup_cons.1 hnodup
    obtain ⟨hin, hout⟩ := ih hnodup' (KMap.set m q.1 (f q))
    refine ⟨fun p hp => ?_, fun j hj => ?_⟩
    · rcases List.mem_cons.1 hp with rfl | hp
      · rw [List.foldl_cons, hout _ hq, KMap.get_set_same]
      · exact hin p hp
    · obtain ⟨hjq, hjl⟩ := not_or.1 (fun h => hj (List.mem_cons.2 h))
      rw [List.foldl_cons, hout j hjl, KMap.get_set_ne _ _ _ _ _ hjq]

theorem Cmd.rowList_nodup (c : Cmd) : c.rowList.Nodup := List.nodup_range.map fun _ _ h => Nat.add_left_cancel h
theorem Cmd.mem_rowList {p : Nat} : p ∈ c.rowList ↔ c.row ≤ p ∧ p < c.row + c.count := by
  rw [Cmd.rowList, ← List.range'_eq_map_range, List.mem_range'_1]

section
variable (x : Cluster) (hents : c.ents.length = c.count)
include hents

theorem Cmd.rowList_zip_fst : (c.rowList.zip c.ents).map (·.1) = c.rowList :=
  List.map_fst_zip (by simp [hents])
/-- A row of no entry stays. -/
theorem Cluster.addRows_acmRow_of_not_mem {p : Nat} (hp : p < c.row ∨ c.row + c.count ≤ p) : (x.addRows c).acmRow p = x.acmRow p := by
  have hnodup : ((c.rowList.zip c.ents).map (·.1)).Nodup := by rw [Cmd.rowList_zip_fst hents]; exact c.rowList_nodup
  refine (KMap.get_foldl_set_pairs 0 _ hnodup x.acm).2 p ?_
  rw [Cmd.rowList_zip_fst hents, Cmd.mem_rowList]
  omega
/-- Each row takes its entry. -/
theorem Cluster.addRows_acmRow {i : Nat} (hi : i < c.count) : (x.addRows c).acmRow (c.row + i) =
    acmAdd (hdlOf c.handle).isInt (c.rnd % 8) c.blk (x.acmRow (c.row + i)) (c.ents.getD i 0) := by
  have hnodup : ((c.rowList.zip c.ents).map (·.1)).Nodup := by rw [Cmd.rowList_zip_fst hents]; exact c.rowList_nodup
  have hmem : (c.row + i, c.ents.getD i 0) ∈ c.rowList.zip c.ents := by
    have hlen : i < (c.rowList.zip c.ents).length := by simp [hents, hi]
    have hget : (c.rowList.zip c.ents)[i] = (c.row + i, c.ents.getD i 0) := by
      rw [List.getElem_zip, List.getD_eq_getElem _ _ (by rw [hents]; exact hi)]
      simp
    rw [← hget]
    exact List.getElem_mem hlen
  exact (KMap.get_foldl_set_pairs 0 (fun p : Nat × Entry => acmAdd (hdlOf c.handle).isInt (c.rnd % 8) c.blk (x.acmRow p.1) p.2)
    hnodup x.acm).1 _ hmem
end

/-- In an integer row, the columns of the block take the sum, wrapped; the others stay (12 R246). -/
theorem acmElem_acmAdd_int (rm b : Nat) (row : BitVec 8192) (e : Entry) {n : Nat} (hn : n < 256) : acmElem (acmAdd true rm b row e) n =
    if n / 32 = b then (acmElem row n + elem e 32 (n % 32)) % 2 ^ 32 else acmElem row n := by
  rw [acmAdd, acmElem_acmPack _ hn]
  by_cases hblock : n / 32 = b
  · simp [hn, hblock]
  · simpa [hn, hblock] using acmElem_lt row n

theorem accumEffect_add (hop : c.op = .acmad) : (accumEffect s r c).cluster (clusterOf r) = (s.m.cluster (clusterOf r)).addRows c := by
  simp [accumEffect, hop]

/-! ### A row stored -/

/-- The bytes that an ACMST writes of its first row (12 R245). -/
abbrev storedBytes (s : State) (r : Nat) (c : Cmd) : List Byte :=
  leBytes (ppLen c.pp c.q) (packElems (ppWidth c.pp c.q) ((List.range (ppCols c.pp)).map (fun n =>
    ppElem c (hdlOf c.handle).isInt (acmElem ((s.m.cluster (clusterOf r)).acmRow c.row) n) (((c.got.headD none).elim [] (·.1)).getD n 0))))

section
variable (hop : c.op = .acmst) (hone : c.count = 1) (herr : ∀ k, s.m.rowError k = none)
include hop hone herr

theorem accumEffect_store_of_written {m' : Mach}
    (hw : s.m.writeAt c.ctx (stRowAt c.st 0) (storedBytes s r c) false = .ok m') : accumEffect s r c = m' := by
  simp only [accumEffect, hop, Mach.storeRows, hone, List.range_one, List.foldl_cons, List.foldl_nil, Nat.add_zero,
    Mach.acmSeen_of_no_error herr, hw]
theorem accumEffect_store_of_fault {f : FaultRec}
    (hw : s.m.writeAt c.ctx (stRowAt c.st 0) (storedBytes s r c) false = .error f) : accumEffect s r c = s.m.recordFault r f := by
  simp only [accumEffect, hop, Mach.storeRows, hone, List.range_one, List.foldl_cons, List.foldl_nil, Nat.add_zero,
    Mach.acmSeen_of_no_error herr, hw]
/-- Written or not, the row leaves every cluster as it is. -/
theorem accumEffect_store_clusters : (accumEffect s r c).clusters = s.m.clusters := by
  cases hw : s.m.writeAt c.ctx (stRowAt c.st 0) (storedBytes s r c) false with
  | ok m' =>
    obtain ⟨mem, hmem⟩ := Mach.writeAt_eq hw
    rw [accumEffect_store_of_written hop hone herr hw, hmem]
  | error f => rw [accumEffect_store_of_fault hop hone herr hw]; rfl
end
end

/-! ## The post pipe with an i32 output and no other stage than relu (12 R244, R245) -/

section
variable {c : Cmd} {x : Nat}

theorem bit_eq_testBit_mod {v : W64} {n : Nat} (hn : n < 16) : bit v n = (v.toNat % 2 ^ 16).testBit n := by
  rw [Nat.testBit_mod_two_pow, decide_eq_true hn, Bool.true_and]
  rfl

/-- A value in range has its code, whether saturating or not. -/
theorem intToInt_code_of_fits {sat : Bool} {v : Int} (hlo : -2 ^ 31 ≤ v) (hhi : v < 2 ^ 31) : (intToInt sat true 32 v).code = intCode 32 v := by
  have hclamp : max (intMin true 32) (min (intMax true 32) v) = v := by
    simp only [intMin, intMax, if_true]
    omega
  rw [intToInt_code, hclamp, ite_self]

/-- With NF, BEN and SCEN off and output i32, an integer element goes through ACT alone. -/
theorem ppElem_int32 {act : Nat} (hx : x < 2 ^ 32) (hpp : c.pp.toNat % 2 ^ 16 = 0x400 + 16 * act) (hact : act < 2) :
    ppElem c true x 0 = if act = 1 ∧ 2 ^ 31 ≤ x then 0 else x := by
  have hbias : bit c.pp 0 = false := by rw [bit_eq_testBit_mod (by decide), hpp]; interval_cases act <;> rfl
  have hscale : bit c.pp 1 = false := by rw [bit_eq_testBit_mod (by decide), hpp]; interval_cases act <;> rfl
  have hnarrow : bit c.pp 15 = false := by rw [bit_eq_testBit_mod (by decide), hpp]; interval_cases act <;> rfl
  have hout : ppOut c.pp = 4 := by rw [ppOut, bits_toNat]; omega
  have hactField : (bits c.pp 4 2).toNat = act := by rw [bits_toNat]; omega
  have hfmt : ppFmt c.pp c.q = .int true 32 := by rw [ppFmt, hnarrow, hout]; rfl
  have hvalue : intOf true 32 x = if 2 ^ 31 ≤ x then (x : Int) - (2 ^ 32 : Nat) else (x : Int) := by
    simp only [intOf, Nat.mod_eq_of_lt hx, Bool.true_and, decide_eq_true_eq]
  simp only [ppElem, hbias, hscale, hfmt, hactField, hvalue, if_true, Bool.false_eq_true, if_false]
  rw [intToInt_code_of_fits (by split_ifs <;> omega) (by split_ifs <;> omega), intCode]
  split_ifs <;> omega
end

/-! ## The statement -/

/-- Settles O40: a start arms what it lets start and posts the completion; a completion has the command's effect on banks, rows or memory,
and takes it out of its queue. -/
theorem accumulatorEvents : Obligations.AccumulatorEvents := by
  unfold Obligations.AccumulatorEvents
  refine ⟨?start, ?free, fun x c hop h d hd => Cluster.no_earlier_overlap_of_canStart hop h hd, ?time, ?complete, ?plain, ?relu⟩
  case start =>
    intro s r seq c x base hfind hheld hop hnodup
    refine ⟨_, ?_, accumStarted_spec hfind hnodup⟩
    rcases hop with hop | hop | ⟨hop, hpp⟩ | ⟨hop, hready, hdrained⟩
    · exact exec_accumCommandStart_of_due hfind hheld (by simp [hop]) (Cluster.startAt_of_rows_op (.inl hop)) (by simp [hop])
    · exact exec_accumCommandStart_of_due hfind hheld (by simp [hop]) (Cluster.startAt_of_rows_op (.inr (.inl hop))) (by simp [hop])
    · exact exec_accumCommandStart_of_due hfind hheld (by simp [hop]) (Cluster.startAt_of_rows_op (.inr (.inr hop))) fun _ => hpp
    · exact exec_accumCommandStart_of_due hfind hheld (fun _ => hready) (Cluster.startAt_free_of_drained hop hdrained) (by simp [hop])
  case free =>
    intro s r seq c x hfind hop hheld
    exact ⟨fun hback => ⟨exec_accumCommandStart_of_free_held_back hfind hop hheld hback,
      exec_accumCommandComplete_of_free_held_back hfind hop hback⟩,
      fun p => exec_accumCommandStart_of_drain hfind hop hheld⟩
  case time =>
    intro c
    refine ⟨?_, ?_, ?_, ?_⟩ <;> exact fun hop => by rw [Cmd.acmTime, hop]
  case complete =>
    intro s r seq c hfind hhand herr hready h p0 x
    subst hhand
    obtain ⟨hmem, -, hgone, hacm⟩ := (accumEffect s c.hand c).finishCmd_frame s.tb c
    have hbanks := (accumEffect s c.hand c).finishCmd_banks s.tb c
    have hrow : ∀ p, (((accumEffect s c.hand c).finishCmd s.tb c).cluster (clusterOf c.hand)).acmRow p
        = ((accumEffect s c.hand c).cluster (clusterOf c.hand)).acmRow p := fun p => by rw [Cluster.acmRow, hacm, Cluster.acmRow]
    refine ⟨_, exec_accumCommandComplete_of_ready hfind herr hready, hgone, ?freed, ?zeroed, ?added, ?stored⟩
    case freed =>
      intro hop
      rw [accumEffect_free hop] at hacm hbanks
      refine ⟨hacm.trans (Cluster.freeBanks_acm ..), fun b => ?_⟩
      rw [Cluster.bank, hbanks]
      exact Cluster.freeBanks_used ..
    case zeroed =>
      intro hop p
      rw [hrow]
      exact accumEffect_zero hop p
    case added =>
      intro hop hint hents
      rw [accumEffect_add hop] at hrow
      refine ⟨fun p hp => (hrow p).trans (Cluster.addRows_acmRow_of_not_mem x hents hp), fun i n hi hn => ?_⟩
      rw [hrow, Cluster.addRows_acmRow x hents hi, hint]
      exact acmElem_acmAdd_int _ _ _ _ hn
    case stored =>
      intro hop hone
      refine ⟨hacm.trans ?_, fun m' hw => hmem.trans (congrArg Mach.mem (accumEffect_store_of_written hop hone herr hw))⟩
      rw [Mach.cluster, accumEffect_store_clusters hop hone herr]
      rfl
  case plain =>
    intro c x hx hpp
    exact (ppElem_int32 (act := 0) hx (by rw [hpp]; rfl) (by decide)).trans (by simp)
  case relu =>
    intro c x hx hpp
    rw [ppElem_int32 (act := 1) hx hpp (by decide)]
    split_ifs <;> omega

end Sys2Proof.Machine
end

section
/-! PROOFS. Fields of byte lists: numbers as bytes and back, a field of a concatenation, one block of many, and the two readings of an
entry as bytes (00 R1). -/

namespace Sys2Proof.Machine

/-! ## Numbers as bytes and back -/

theorem leBytes_succ (n v : Nat) : leBytes (n + 1) v = BitVec.ofNat 8 v :: leBytes n (v / 256) := by
  simp only [leBytes, List.range_succ_eq_map, List.map_cons, List.map_map, Nat.mul_zero, pow_zero, Nat.div_one]
  refine congrArg _ (List.map_congr_left fun i _ => ?_)
  rw [Function.comp_apply, Nat.succ_eq_add_one, Nat.mul_succ, Nat.add_comm, pow_add, ← Nat.div_div_eq_div_mul]; rfl

theorem leNat_leBytes (n v : Nat) : leNat (leBytes n v) = v % 2 ^ (8 * n) := by
  induction n generalizing v with
  | zero => simp [leBytes, leNat, Nat.mod_one]
  | succ n ih =>
    rw [leBytes_succ, leNat, ih, BitVec.toNat_ofNat, Nat.mul_succ, Nat.add_comm (8 * n), pow_add, Nat.mod_mul]; rfl
theorem leNat_lt (bs : List Byte) : leNat bs < 2 ^ (8 * bs.length) := by
  induction bs with
  | nil => simp [leNat]
  | cons b t ih =>
    have hb := b.isLt
    rw [leNat, List.length_cons, Nat.mul_succ, pow_add]
    omega
theorem leBytes_leNat (bs : List Byte) : leBytes bs.length (leNat bs) = bs := by
  induction bs with
  | nil => rfl
  | cons b t ih =>
    have hb := b.isLt
    have hlow : BitVec.ofNat 8 (leNat (b :: t)) = b := by
      apply BitVec.eq_of_toNat_eq
      rw [leNat, BitVec.toNat_ofNat]
      omega
    have hrest : leNat (b :: t) / 256 = leNat t := by rw [leNat]; omega
    rw [List.length_cons, leBytes_succ, hlow, hrest, ih]

/-! ## A field of a concatenation -/

theorem field_append_left {a b : List Byte} {lo n : Nat} (h : lo + n ≤ a.length) : field (a ++ b) lo n = field a lo n := by
  rw [field, field, List.drop_append_of_le_length (by omega), List.take_append_of_le_length (by rw [List.length_drop]; omega)]
theorem field_append_right {a b : List Byte} {lo n : Nat} (h : a.length ≤ lo) : field (a ++ b) lo n = field b (lo - a.length) n := by
  rw [field, field, List.drop_append, List.drop_eq_nil_of_le h, List.nil_append]
theorem field_zero_leBytes (n v : Nat) : field (leBytes n v) 0 n = v % 2 ^ (8 * n) := by
  rw [field, List.drop_zero, List.take_of_length_le (by simp), leNat_leBytes]
theorem field_lt (bs : List Byte) (lo n : Nat) : field bs lo n < 2 ^ (8 * n) :=
  (leNat_lt _).trans_le (Nat.pow_le_pow_right (by decide) (by simp))
/-- One byte of a list as a field. -/
theorem field_one (bs : List Byte) (lo : Nat) : field bs lo 1 = (bs.getD lo 0).toNat := by
  rw [field, List.getD_eq_getElem?_getD]
  rcases h : bs.drop lo with _ | ⟨b, t⟩
  · rw [List.getElem?_eq_none (List.drop_eq_nil_iff.1 h)]; rfl
  · have hb : bs[lo]? = some b := by rw [← Nat.add_zero lo, ← List.getElem?_drop, h]; rfl
    rw [hb]; simp [leNat]

/-! ## One block of many -/

/-- The blocks of a concatenation, all of one length. -/
theorem take_drop_flatMap {α β : Type} {n : Nat} {f : α → List β} (l : List α) (hf : ∀ a ∈ l, (f a).length = n) {j : Nat}
    (hj : j < l.length) : ((l.flatMap f).drop (n * j)).take n = f l[j] := by
  induction l generalizing j with
  | nil => exact absurd hj (Nat.not_lt_zero _)
  | cons a l ih =>
    have ha : (f a).length = n := hf a List.mem_cons_self
    rw [List.flatMap_cons]
    cases j with
    | zero => rw [Nat.mul_zero, List.drop_zero, List.take_append_of_le_length ha.ge, List.take_of_length_le ha.le]; rfl
    | succ j =>
      rw [Nat.mul_succ, Nat.add_comm, ← List.drop_drop, List.drop_append_of_le_length ha.ge, List.drop_eq_nil_of_le ha.le,
        List.nil_append]
      exact ih (fun b hb => hf b (List.mem_cons_of_mem _ hb)) (Nat.lt_of_succ_lt_succ hj)

/-! ## Entries -/

/-- The bytes of an entry built from 128 bytes are those bytes. -/
theorem entryBytes_entryOfBytes {bs : List Byte} (h : bs.length = 128) : entryBytes (entryOfBytes bs) = bs := by
  have hlt : leNat bs < 2 ^ 1024 := by have := leNat_lt bs; rwa [h] at this
  rw [entryBytes, entryOfBytes, BitVec.toNat_ofNat, Nat.mod_eq_of_lt hlt, ← h, leBytes_leNat]

end Sys2Proof.Machine
end

section
/-! PROOFS. The predictor: PRED, PREDUP, PTCLR (14 R267 to R272). -/

namespace Sys2Proof.Machine

open Claims

/-! ## Records and bids (13 R255, 14 R270) -/

theorem headerBytes_length (tid b4 : Nat) (spec : Bool) (tag : Nat) (ps : List (Nat × Nat)) :
    (headerBytes tid b4 spec tag ps).length = 32 := by
  simp [headerBytes]

section
variable (tid b4 tag : Nat) (spec : Bool) (ps : List (Nat × Nat))

theorem field_tid_headerBytes : field (headerBytes tid b4 spec tag ps) 0 4 = tid % 2 ^ 32 := by
  simp only [headerBytes, List.append_assoc]
  rw [field_append_left (by simp), field_zero_leBytes]
theorem field_count_headerBytes : field (headerBytes tid b4 spec tag ps) 5 1 = ps.length % 2 ^ 8 := by
  simp only [headerBytes, List.append_assoc]
  rw [field_append_right (by simp), field_append_right (by simp), field_append_left (by simp)]
  simpa using field_zero_leBytes 1 ps.length
theorem field_flags_headerBytes : field (headerBytes tid b4 spec tag ps) 6 1 = spec.toNat := by
  simp only [headerBytes, List.append_assoc]
  rw [field_append_right (by simp), field_append_right (by simp), field_append_right (by simp), field_append_left (by simp)]
  simpa [Nat.mod_eq_of_lt (spec.toNat_lt.trans (by decide : 2 < 256))] using field_zero_leBytes 1 spec.toNat
theorem field_tag_headerBytes : field (headerBytes tid b4 spec tag ps) 7 1 = tag % 2 ^ 8 := by
  simp only [headerBytes, List.append_assoc]
  rw [field_append_right (by simp), field_append_right (by simp), field_append_right (by simp), field_append_right (by simp),
    field_append_left (by simp)]
  simpa using field_zero_leBytes 1 tag
/-- The id bytes of a record: those of its pairs, then 0xFF. -/
theorem field_id_headerBytes {i : Nat} (hi : i < 8) :
    field (headerBytes tid b4 spec tag ps) (8 + i) 1 = (ps.map (·.1 % 2 ^ 8)).getD i 0xFF := by
  rw [headerBytes, field_append_left (by simp; omega), field_append_right (by simp), field_one]
  simp only [List.length_append, leBytes_length, Nat.add_sub_cancel_left, List.getD_eq_getElem?_getD, List.getElem?_take_of_lt hi]
  by_cases h : i < ps.length
  · rw [List.getElem?_append_left (by simpa using h)]; simp [h]
  · rw [List.getElem?_append_right (by simpa using h), List.getElem?_replicate_of_lt (by simp; omega)]; simp [h]
end

/-- The record of a bid that slot `j` of a query asks for: all zero where the slot takes no part (14 R270). -/
def Cluster.bidRecord (x : Cluster) (k : Nat) (q : Query) (c : Call × Nat) : List Byte :=
  if !q.has c.2 then List.replicate 32 0
  else headerBytes c.1.tid 0 true q.tag (if (x.predAt (predHash q c.2 c.1).1).hits k (predHash q c.2 c.1).2 then
    ((x.predAt (predHash q c.2 c.1).1).bid q.cmin q.kmax).map (fun e => (e, 0)) else [])

theorem Cluster.bidRecord_length (x : Cluster) (k : Nat) (q : Query) (c : Call × Nat) : (x.bidRecord k q c).length = 32 := by
  unfold Cluster.bidRecord
  split
  · simp
  · exact headerBytes_length ..

theorem Cluster.bids_eq (x : Cluster) (k : Nat) (q : Query) (cs : List Call) :
    x.bids k q cs = entryOfBytes (cs.zipIdx.flatMap (x.bidRecord k q)) := by
  refine congrArg (fun f => entryOfBytes (cs.zipIdx.flatMap f)) (funext fun c => ?_)
  unfold Cluster.bidRecord
  split
  · rfl
  · dsimp only
    split <;> rfl

/-- The bytes of record `j` of an entry. -/
abbrev recordBytes (e : Entry) (j : Nat) : List Byte := ((entryBytes e).drop (32 * j)).take 32

/-- Record `j` of a bid is the one that slot `j` asks for. -/
theorem recordBytes_bids (x : Cluster) (k : Nat) (q : Query) (e : Entry) {j : Nat} (hj : j < 4) :
    recordBytes (x.bids k q (callsOf e)) j = x.bidRecord k q (callOf e j, j) := by
  have hblocks : ∀ c ∈ (callsOf e).zipIdx, (x.bidRecord k q c).length = 32 := fun c _ => x.bidRecord_length k q c
  have hcount : (callsOf e).zipIdx.length = 4 := by simp [callsOf]
  have hbytes : ((callsOf e).zipIdx.flatMap (x.bidRecord k q)).length = 128 := by
    rw [List.length_flatMap, List.map_congr_left hblocks]; simp [callsOf]
  rw [recordBytes, Cluster.bids_eq, entryBytes_entryOfBytes hbytes, take_drop_flatMap _ hblocks (by rw [hcount]; exact hj)]
  simp [callsOf]

/-! ## The ids bid from an entry (14 R270) -/

/-- The slots of an entry that its bid names: full ones of confidence `cmin` or more, by falling confidence, then by slot. -/
def PredEntry.bidSlots (p : PredEntry) (cmin : Nat) : List Nat :=
  [3, 2, 1, 0].flatMap (fun c => (List.range 4).filter (fun i => p.ids.getD i 0 != 0xFF && p.conf.getD i 0 == c && decide (cmin ≤ p.conf.getD i 0)))

section
variable {p : PredEntry} (cmin kmax : Nat)

theorem eq_map_getD_of_length {α : Type} {l : List α} {n : Nat} (d : α) (h : l.length = n) : l = (List.range n).map (l.getD · d) := by
  refine List.ext_getElem (by simp [h]) fun i hi _ => ?_
  simp [hi]

theorem PredEntry.bid_eq (hids : p.ids.length = 4) (hconf : p.conf.length = 4) :
    p.bid cmin kmax = ((p.bidSlots cmin).take kmax).map (p.ids.getD · 0) := by
  have hzip : p.ids.zip p.conf = (List.range 4).map (fun i => (p.ids.getD i 0, p.conf.getD i 0)) := by
    conv_lhs => rw [eq_map_getD_of_length 0 hids, eq_map_getD_of_length 0 hconf, List.zip_map']
  rw [PredEntry.bid, PredEntry.bidSlots, List.map_take, List.map_flatMap]
  refine congrArg (List.take kmax ·) (congrArg (List.flatMap · [3, 2, 1, 0]) (funext fun c => ?_))
  rw [hzip, List.filter_map, List.map_map]
  rfl

theorem PredEntry.bidSlots_sorted : (p.bidSlots cmin).Pairwise (fun i j =>
    p.conf.getD j 0 < p.conf.getD i 0 ∨ p.conf.getD j 0 = p.conf.getD i 0 ∧ i < j) := by
  have hconf : ∀ {c i}, i ∈ (List.range 4).filter (fun i => p.ids.getD i 0 != 0xFF && p.conf.getD i 0 == c && decide (cmin ≤ p.conf.getD i 0)) →
      p.conf.getD i 0 = c := fun {c i} h => by
    have := (List.mem_filter.1 h).2
    simp only [Bool.and_eq_true, beq_iff_eq] at this
    exact this.1.2
  rw [PredEntry.bidSlots, List.pairwise_flatMap]
  refine ⟨fun c _ => ?_, ?_⟩
  · refine (List.pairwise_lt_range.filter _).imp_of_mem fun hi hj hlt => .inr ⟨?_, hlt⟩
    rw [hconf hi, hconf hj]
  · have hfall : ([3, 2, 1, 0] : List Nat).Pairwise (fun a b => b < a) := by decide
    refine hfall.imp fun hlt i hi j hj => .inl ?_
    rwa [hconf hi, hconf hj]
theorem PredEntry.bidSlots_nodup : (p.bidSlots cmin).Nodup :=
  (PredEntry.bidSlots_sorted cmin).imp fun h e => by subst e; omega

theorem PredEntry.mem_bidSlots {i : Nat} : i ∈ p.bidSlots cmin ↔
    i < 4 ∧ p.ids.getD i 0 ≠ 0xFF ∧ cmin ≤ p.conf.getD i 0 ∧ p.conf.getD i 0 ≤ 3 := by
  have hle : ∀ c, c ∈ ([3, 2, 1, 0] : List Nat) ↔ c ≤ 3 := fun c => by simp; omega
  simp only [PredEntry.bidSlots, List.mem_flatMap, hle, List.mem_filter, List.mem_range, Bool.and_eq_true, bne_iff_ne, beq_iff_eq,
    decide_eq_true_eq]
  constructor
  · rintro ⟨c, hc, hi, ⟨hid, rfl⟩, hmin⟩
    exact ⟨hi, hid, hmin, hc⟩
  · rintro ⟨hi, hid, hmin, hc⟩
    exact ⟨_, hc, hi, ⟨hid, rfl⟩, hmin⟩
theorem PredEntry.bidSlots_length_le : (p.bidSlots cmin).length ≤ 4 := by
  have hsub : p.bidSlots cmin ⊆ List.range 4 := fun i hi => List.mem_range.2 ((PredEntry.mem_bidSlots cmin).1 hi).1
  exact ((List.subperm_of_subset (PredEntry.bidSlots_nodup cmin) hsub).length_le).trans (by simp)
theorem PredEntry.bidSlots_length (hle : ∀ c ∈ p.conf, c ≤ 3) : (p.bidSlots cmin).length =
    ((List.range 4).filter (fun i => p.ids.getD i 0 != 0xFF && decide (cmin ≤ p.conf.getD i 0))).length := by
  have hconf : ∀ i, p.conf.getD i 0 ≤ 3 := fun i => by
    rw [List.getD_eq_getElem?_getD]
    cases h : p.conf[i]? with
    | none => exact Nat.zero_le _
    | some c => exact hle c (List.mem_of_getElem? h)
  refine ((List.perm_ext_iff_of_nodup (PredEntry.bidSlots_nodup cmin) (List.nodup_range.filter _)).2 fun i => ?_).length_eq
  simpa [PredEntry.mem_bidSlots] using fun _ _ _ => hconf i

/-- What the ids of a bid are: slots in the order of R270, as many as there are, at most `kmax`. -/
theorem PredEntry.bid_spec (hids : p.ids.length = 4) (hconf : p.conf.length = 4) (hle : ∀ c ∈ p.conf, c ≤ 3) :
    ∃ js : List Nat, p.bid cmin kmax = js.map (p.ids.getD · 0) ∧
      js.Pairwise (fun i j => p.conf.getD j 0 < p.conf.getD i 0 ∨ p.conf.getD j 0 = p.conf.getD i 0 ∧ i < j) ∧
      (∀ i ∈ js, i < 4 ∧ p.ids.getD i 0 ≠ 0xFF ∧ cmin ≤ p.conf.getD i 0) ∧
      js.length = min kmax ((List.range 4).filter (fun i => p.ids.getD i 0 != 0xFF && decide (cmin ≤ p.conf.getD i 0))).length := by
  refine ⟨(p.bidSlots cmin).take kmax, PredEntry.bid_eq cmin kmax hids hconf, (PredEntry.bidSlots_sorted cmin).sublist (List.take_sublist _ _),
    fun i hi => ?_, by rw [List.length_take, PredEntry.bidSlots_length cmin hle]⟩
  obtain ⟨hlt, hid, hmin, -⟩ := (PredEntry.mem_bidSlots cmin).1 (List.mem_of_mem_take hi)
  exact ⟨hlt, hid, hmin⟩
theorem PredEntry.bid_length_le (hids : p.ids.length = 4) (hconf : p.conf.length = 4) : (p.bid cmin kmax).length ≤ 4 := by
  rw [PredEntry.bid_eq cmin kmax hids hconf, List.length_map]
  exact (List.length_take_le' _ _).trans (PredEntry.bidSlots_length_le cmin)
theorem PredEntry.bid_lt (hids : p.ids.length = 4) (hconf : p.conf.length = 4) (hlt : ∀ i ∈ p.ids, i < 256) : ∀ i ∈ p.bid cmin kmax, i < 256 := by
  rw [PredEntry.bid_eq cmin kmax hids hconf]
  intro i hi
  obtain ⟨j, hj, rfl⟩ := List.mem_map.1 hi
  have hj4 := ((PredEntry.mem_bidSlots cmin).1 (List.mem_of_mem_take hj)).1
  rw [List.getD_eq_getElem _ _ (by omega)]
  exact hlt _ (List.getElem_mem _)
end

/-- A record that is all zero reads as the first record of the zero entry does at that place. -/
theorem recordBytes_zero {j : Nat} (hj : j < 4) : recordBytes 0 j = List.replicate 32 0 := by
  have hzero : entryBytes 0 = List.replicate 128 0 := by simp [entryBytes, leBytes, -List.reduceReplicate]
  rw [recordBytes, hzero, List.drop_replicate, List.take_replicate]
  congr 1
  omega

theorem callOf_congr {e e' : Entry} {j j' : Nat} (h : recordBytes e j = recordBytes e' j') : callOf e j = callOf e' j' := by
  unfold callOf; rw [recordBytes] at h; rw [h]

/-- The records of a bid (14 R270). -/
theorem callOf_bids (x : Cluster) (k : Nat) (q : Query) (e : Entry) {j : Nat} (hj : j < 4) : let c := callOf e j
    let ix := predHash q j c
    let p := x.predAt ix.1
    let b := callOf (x.bids k q (callsOf e)) j
    (q.mask.testBit j = false → b = callOf 0 j) ∧
    (q.mask.testBit j = true → b.tid = c.tid ∧ b.spec = true ∧ (q.tag < 256 → b.tag = q.tag) ∧
      (p.hits k ix.2 = false → b.n = 0) ∧
      (p.hits k ix.2 = true → (∀ i ∈ p.ids, i < 256) → p.ids.length = 4 → p.conf.length = 4 → b.experts = p.bid q.cmin q.kmax)) := by
  intro c ix p b
  have hrec : recordBytes (x.bids k q (callsOf e)) j = x.bidRecord k q (c, j) := recordBytes_bids x k q e hj
  refine ⟨fun hm => callOf_congr ?_, fun hm => ?_⟩
  · rw [hrec, recordBytes_zero hj, Cluster.bidRecord, Query.has, hm]; rfl
  · set ps := if p.hits k ix.2 then (p.bid q.cmin q.kmax).map (fun e => (e, 0)) else [] with hps
    have hhead : recordBytes (x.bids k q (callsOf e)) j = headerBytes c.tid 0 true q.tag ps := by
      rw [hrec, Cluster.bidRecord, Query.has, hm]; rfl
    have htid : b.tid = c.tid := (congrArg (field · 0 4) hhead).trans ((field_tid_headerBytes ..).trans (Nat.mod_eq_of_lt (field_lt _ 0 4)))
    have hcount : b.n = ps.length % 2 ^ 8 := (congrArg (field · 5 1) hhead).trans (field_count_headerBytes ..)
    have hflags : b.flags = 1 := (congrArg (field · 6 1) hhead).trans (field_flags_headerBytes ..)
    have htag : b.tag = q.tag % 2 ^ 8 := (congrArg (field · 7 1) hhead).trans (field_tag_headerBytes ..)
    have hids : b.ids = (List.range 8).map (fun i => (ps.map (·.1 % 2 ^ 8)).getD i 0xFF) :=
      List.map_congr_left fun i hi => (congrArg (field · (8 + i) 1) hhead).trans (field_id_headerBytes _ _ _ _ _ (List.mem_range.1 hi))
    refine ⟨htid, by rw [Call.spec, hflags]; rfl, fun hlt => htag.trans (Nat.mod_eq_of_lt hlt), fun hmiss => ?_, fun hhit hlt h4 h4' => ?_⟩
    · rw [hcount, hps, if_neg (by simp [hmiss])]; rfl
    · have hlen := PredEntry.bid_length_le q.cmin q.kmax h4 h4'
      have hid : ps.map (·.1 % 2 ^ 8) = p.bid q.cmin q.kmax := by
        rw [hps, if_pos hhit, List.map_map]
        exact (List.map_congr_left fun i hi => Nat.mod_eq_of_lt (PredEntry.bid_lt q.cmin q.kmax h4 h4' hlt i hi)).trans (List.map_id _)
      have hn : b.n = (p.bid q.cmin q.kmax).length := by
        rw [hcount, ← List.length_map (f := (·.1 % 2 ^ 8)), hid]
        exact Nat.mod_eq_of_lt (by omega)
      rw [Call.experts, hids, hid, hn]
      refine List.ext_getElem (by simp; omega) fun i hi hi' => ?_
      simp [hi']

/-! ## Words that read queues, with further checks of their own (07 R140) -/

/-- With its sources landed a word stops only on its further checks. -/
theorem queueOwn_of_sources {s : State} {e : Engine} {os : List Opnd} {pushes : List Nat} (hsrc : Sources s e os pushes)
    (more : List (Option Stop)) : queueOwn s.hand e os pushes more = firstStop more := by
  obtain ⟨hqueues, hregs⟩ := hsrc
  have hskip : ∀ l : List Opnd, (∀ o ∈ l, s.hand.opStop o = none) → firstStop (l.map s.hand.opStop ++ more) = firstStop more := by
    intro l hl
    induction l with
    | nil => rfl
    | cons o l ih =>
      rw [List.map_cons, hl o List.mem_cons_self]
      exact ih fun o' ho' => hl o' (List.mem_cons_of_mem _ ho')
  rw [queueOwn, hqueues]
  exact hskip os hregs

theorem callsOf_getD (e : Entry) {j : Nat} (hj : j < 4) : (callsOf e).getD j (callOf 0 0) = callOf e j := by simp [callsOf, hj]

/-! ## PRED and PREDUP issue (14 R270, R271) -/

section
variable {s : State} {w : VVV}

/-- The sources of a PRED: records and a query (14 R268). -/
abbrev predSources (w : VVV) : List Opnd := [⟨w.a.toNat, w.ka, false, 4⟩, ⟨w.b.toNat, w.kb, false, 4⟩]

theorem exec_pred_issues : let q := queryOf (operand s .m (predSources w) 1)
    let cs := callsOf (operand s .m (predSources w) 0)
    Sources s .m (predSources w) [w.d.toNat] → predBad q cs = false → 1 ≤ q.kmax → q.kmax ≤ 4 → MayIssue s .m (.pred w) w.hdr →
    exec (.pred w) s = s.goes ((s.took .m w.hdr (predSources w)).issueResult s.cur [.queue w.d.toNat (s.cluster.bids s.hand.ctx q cs)] 0
      (pushFifo .m w.hdr.push) (s.tb + 6) true false) := by
  intro q cs hsrc hbad hmin hmax h
  have hchecks : (predBad q (callsOf ((opValues s.hand .m (predSources w)).headD 0)) || q.kmax == 0 || decide (4 < q.kmax)) = false := by
    rw [opValues_headD, hbad]
    simp
    omega
  refine (runWord_of_queueMeaning rfl hsrc (firstStop_eq_none.2 (List.forall_mem_singleton.2 (trapIf_eq_none.2 hchecks))) h).trans ?_
  rw [opValues_headD]
  rfl

/-- The sources of a PREDUP: previous records, a query, and the current ones (14 R271). -/
abbrev predupSources (w : VVV) : List Opnd :=
  [⟨w.a.toNat, w.ka, false, 4⟩, ⟨w.b.toNat, w.kb, false, 4⟩, ⟨w.d.toNat, w.h, false, 4⟩]

theorem exec_predup_issues : let os := predupSources w
    let q := queryOf (operand s .m os 1)
    let prev := fun j => callOf (operand s .m os 0) j
    let call := fun j => callOf (operand s .m os 2) j
    let out := s.cluster.trainAll s.hand.ctx q ((List.range 4).map (fun j => (j, prev j, call j)))
    Sources s .m os [w.d.toNat] → predBad q (callsOf (operand s .m os 0)) = false →
    (∀ j, j < 4 → q.mask.testBit j = true → (call j).tid = (prev j).tid ∧ (call j).n ≤ 8 ∧
      (call j).experts.eraseDups.length = (call j).experts.length ∧ (call j).spec = false) → MayIssue s .m (.predup w) w.hdr →
    exec (.predup w) s = s.goes (((s.took .m w.hdr os).modCluster (clusterOf s.cur) (fun y => { y with pred := out.1.pred })).issueResult
      s.cur [.queue w.d.toNat (mkEntry 32 out.2)] 0 (pushFifo .m w.hdr.push) (s.tb + 4) true false) := by
  intro os q prev call out hsrc hbad hcalls h
  have hcall : (List.range 4).any (fun r => q.has r && (((callsOf (operand s .m os 2)).getD r (callOf 0 0)).tid !=
      ((callsOf (operand s .m os 0)).getD r (callOf 0 0)).tid || decide (8 < ((callsOf (operand s .m os 2)).getD r (callOf 0 0)).n) ||
      decide (((callsOf (operand s .m os 2)).getD r (callOf 0 0)).experts.eraseDups.length ≠
        ((callsOf (operand s .m os 2)).getD r (callOf 0 0)).experts.length) ||
      ((callsOf (operand s .m os 2)).getD r (callOf 0 0)).spec)) = false := by
    rw [List.any_eq_false]
    intro j hj
    rw [callsOf_getD _ (List.mem_range.1 hj), callsOf_getD _ (List.mem_range.1 hj)]
    by_cases hm : q.mask.testBit j = true
    · obtain ⟨htid, hn, hdups, hspec⟩ := hcalls j (List.mem_range.1 hj) hm
      simpa using fun _ => ⟨⟨⟨htid, hn⟩, hdups⟩, hspec⟩
    · simp [Query.has, hm]
  have hhead : (opValues s.hand .m os).headD 0 = operand s .m os 0 := opValues_headD s .m os
  refine (congrArg Host.Outcome.next (runWord_issues h rfl (Nat.zero_le _) ?_)).trans ?_
  · refine (queueOwn_of_sources hsrc _).trans (firstStop_eq_none.2 (List.forall_mem_singleton.2 (trapIf_eq_none.2 ?_)))
    dsimp only
    rw [hhead]
    exact Bool.or_eq_false_iff.2 ⟨hbad, hcall⟩
  · dsimp only
    rw [hhead]
    rfl
end

/-! ## Training (14 R271) -/

/-- Called ids that an entry holds take no place of another. -/
theorem PredEntry.foldl_place_of_mem {p : PredEntry} {b : Bool} {c : List Nat} (h : ∀ e ∈ c, e ∈ p.ids) :
    c.foldl PredEntry.place (p, b) = (p, b) := by
  induction c with
  | nil => rfl
  | cons e c ih =>
    have hplace : PredEntry.place (p, b) e = (p, b) := if_pos (List.contains_iff_mem.2 (h e List.mem_cons_self))
    rw [List.foldl_cons, hplace, ih fun e' he' => h e' (List.mem_cons_of_mem _ he')]

/-- An entry whose called ids rose and whose others fell. -/
def PredEntry.retrained (p : PredEntry) (c : List Nat) : PredEntry :=
  { p with conf := (p.ids.zip p.conf).map (fun s => if s.1 = 0xFF then s.2 else if c.contains s.1 then min 3 (s.2 + 1) else s.2 - 1) }

section
variable {p : PredEntry} {k tag : Nat} {c : List Nat}

/-- In a matching entry that holds the called ids those rise and the others fall. -/
theorem PredEntry.train_of_hit (hids : p.ids.length = 4) (hconf : p.conf.length = 4) (hhit : p.hits k tag = true)
    (hmem : ∀ e ∈ c, e ∈ p.ids) : let t := (p.train k tag c).1
      t.ids = p.ids ∧ t.v = true ∧ ∀ i, i < 4 → t.conf.getD i 0 = if p.ids.getD i 0 = 0xFF then p.conf.getD i 0
        else if p.ids.getD i 0 ∈ c then min 3 (p.conf.getD i 0 + 1) else p.conf.getD i 0 - 1 := by
  have hv : p.v = true := by
    simp only [PredEntry.hits, Bool.and_eq_true] at hhit
    exact hhit.1.1
  intro t
  have hplace : c.foldl PredEntry.place (p.retrained c, false) = (p.retrained c, false) := PredEntry.foldl_place_of_mem hmem
  have ht : t = p.retrained c := by
    simp only [t, PredEntry.train, if_pos hhit]
    exact congrArg Prod.fst hplace
  rw [ht, PredEntry.retrained]
  refine ⟨rfl, hv, fun i hi => ?_⟩
  have hi1 : i < p.ids.length := by omega
  have hi2 : i < p.conf.length := by omega
  simp [List.getD_eq_getElem?_getD, hi1, hi2]

/-- Another entry is allocated with the call at confidence 1. -/
theorem PredEntry.train_of_miss (hlen : c.length ≤ 4) (hmiss : p.hits k tag = false) : let t := (p.train k tag c).1
      t.v = true ∧ t.ctx = k ∧ t.tag = tag ∧ ∀ i, i < 4 → t.ids.getD i 0 = c.getD i 0xFF ∧ t.conf.getD i 0 = if i < c.length then 1 else 0 := by
  intro t
  have ht : t = { v := true, ctx := k, tag := tag, ids := (c ++ List.replicate 4 0xFF).take 4,
                  conf := (c.map (fun _ => 1) ++ List.replicate 4 0).take 4 } := by
    simp only [t, PredEntry.train, if_neg (Bool.eq_false_iff.1 hmiss)]
  rw [ht]
  refine ⟨rfl, rfl, rfl, fun i hi => ?_⟩
  simp only [List.getD_eq_getElem?_getD, List.getElem?_take_of_lt hi]
  by_cases h : i < c.length
  · rw [List.getElem?_append_left h, List.getElem?_append_left (by simpa using h)]; simp [h]
  · rw [List.getElem?_append_right (by omega), List.getElem?_append_right (by simp; omega),
      List.getElem?_replicate_of_lt (by omega), List.getElem?_replicate_of_lt (by simp; omega)]
    simp [h]
end

/-! ## PTCLR (14 R272) -/

/-- A map whose values are changed one by one, the default by the same change. -/
theorem KMap.get_map_values {α : Type} (d : α) (f : α → α) (hd : f d = d) (m : KMap α) (k : Nat) :
    KMap.get d (m.map (fun p => (p.1, f p.2))) k = f (KMap.get d m k) := by
  induction m with
  | nil => exact hd.symm
  | cons p m ih =>
    simp only [List.map_cons, KMap.get]
    split
    · rfl
    · exact ih

theorem exec_ptclr_issues {s : State} {w : Z} (h : MayIssue s .m (.ptclr w) w.hdr) : exec (.ptclr w) s =
    s.goes (((s.issued .m w.hdr).modCluster (clusterOf s.cur) (fun y => { y with pred := y.pred.map (fun p =>
      (p.1, if p.2.ctx == s.hand.ctx then { p.2 with v := false } else p.2)) })).modHand s.cur (tokenNow s .m w.hdr)) :=
  congrArg Host.Outcome.next (runWord_issues h rfl (Nat.zero_le _) rfl)

/-- The predictor of PTCLR: every entry of the context without V, the others as they were. -/
theorem ptclr_predAt (s : State) (w : Z) (h : MayIssue s .m (.ptclr w) w.hdr) : ∃ m, exec (.ptclr w) s = s.goes m ∧ m.mem = s.m.mem ∧
    m.hand s.cur = tokenNow s .m w.hdr ((s.issued .m w.hdr).hand s.cur) ∧
    ∀ i, let p := s.cluster.predAt i
      let p' := (m.cluster (clusterOf s.cur)).predAt i
      if p.ctx = s.hand.ctx then p'.v = false else p' = p := by
  refine ⟨_, exec_ptclr_issues h, rfl, by simp, fun i => ?_⟩
  have hget := KMap.get_map_values {} (fun p : PredEntry => if p.ctx == s.hand.ctx then { p with v := false } else p)
    (by split <;> rfl) s.cluster.pred i
  simp only [State.issued, Mach.modHand_cluster_get, Mach.modCluster_cluster_get, if_pos, Cluster.predAt, hget]
  by_cases hk : (KMap.get {} s.cluster.pred i).ctx = s.hand.ctx <;> simp [hk]

/-- Settles O41: each word by its checks and its issue; a bid by the bytes of its records, its order by the slots of falling confidence. -/
theorem predictor : Obligations.Predictor :=
  ⟨fun _ _ => exec_pred_issues, fun x k q e _ => callOf_bids x k q e, fun _ cmin kmax => PredEntry.bid_spec cmin kmax,
    fun _ _ => exec_predup_issues,
    fun _ _ _ _ hids hconf hlen _ _ => ⟨PredEntry.train_of_hit hids hconf, PredEntry.train_of_miss hlen⟩, ptclr_predAt⟩

end Sys2Proof.Machine
end

section
/-! PROOFS. RSLV and its start (14 R279 to R281). -/

namespace Sys2Proof.Machine

open Claims

/-! ## The descriptor and the records of an RSLV (14 R279) -/

/-- A descriptor whose reserved bits are zero. -/
theorem rslvDesc_eq {e : Entry} (hround : (lane e 0).toNat < 2 ^ 8) (hzero : e.toNat < 2 ^ 128) :
    rslvDesc e = (e.toNat % 2 ^ 8, lane e 1, (lane e 2).toNat, (lane e 3).toNat, true) := by
  have hlane : (lane e 0).toNat = e.toNat % 2 ^ 32 := by simp [lane, elem]
  have hhigh : bits (lane e 0) 8 24 = 0 := BitVec.eq_of_toNat_eq (by
    rw [bits_toNat, Nat.div_eq_of_lt hround, Nat.zero_mod]; simp)
  have hrest : bits e 128 896 = 0 := BitVec.eq_of_toNat_eq (by
    rw [bits_toNat, Nat.div_eq_of_lt hzero, Nat.zero_mod]; simp)
  have hlow : (bits (lane e 0) 0 8).toNat = e.toNat % 2 ^ 8 := by
    rw [bits_zero_toNat, hlane, Nat.mod_mod_of_dvd _ (by decide)]
  simp [rslvDesc, hlow, hhigh, hrest]

section
variable {e : Entry} (hothers : ∀ j, j < 4 → 0 < j → (callOf e j).n = 0)
include hothers

/-- Where only the first record lists experts, it alone is live. -/
theorem liveCalls_eq (hn : 0 < (callOf e 0).n) : (callsOf e).filter (fun c => c.n != 0) = [callOf e 0] := by
  have hcalls : callsOf e = [callOf e 0, callOf e 1, callOf e 2, callOf e 3] := rfl
  simp [hcalls, hothers, Nat.ne_of_gt hn]
/-- A pair of any record is one of the first. -/
theorem pairs_of_call {q : Call} {j : Nat} (hq : (q, j) ∈ (callsOf e).zipIdx) {p : Nat × Nat} (hp : p ∈ q.pairs) : q = callOf e 0 := by
  obtain ⟨-, hj, hq⟩ := List.mem_zipIdx hq
  have hj4 : j < 4 := by simpa [callsOf] using hj
  have hqj : q = callOf e j := by simpa [callsOf] using hq
  subst hqj
  rcases Nat.eq_zero_or_pos j with rfl | hpos
  · rfl
  · simp [Call.pairs, hothers j hj4 hpos] at hp
/-- Records that list no expert change no decision, and list no pair to run again. -/
theorem decideAll_eq (d : Decided) (k round c : Nat) (f : Call → Nat) :
    d.all k round c ((callsOf e).map (fun q => (q, f q))) = ((d.record k round c (f (callOf e 0)) (callOf e 0)).1,
      (d.record k round c (f (callOf e 0)) (callOf e 0)).2 ++ List.replicate 96 0) := by
  have hcalls : callsOf e = [callOf e 0, callOf e 1, callOf e 2, callOf e 3] := rfl
  have hidle : ∀ (d : Decided) (j : Nat), j < 4 → 0 < j →
      d.record k round c (f (callOf e j)) (callOf e j) = (d, List.replicate 32 0) := fun d j hj hpos => by
    rw [Decided.record, if_pos (hothers j hj hpos)]
  rw [hcalls]
  simp only [List.map_cons, List.map_nil, Decided.all, hidle _ 1 (by decide) (by decide), hidle _ 2 (by decide) (by decide),
    hidle _ 3 (by decide) (by decide), List.append_nil, List.replicate_append_replicate]
end

/-- The pairs of some records that a cluster decides itself: token, expert, record, rank (14 R280). -/
def localPairs (x : Cluster) (k c : Nat) (cs : List Call) : List (Nat × Nat × Nat × Nat) :=
  cs.zipIdx.flatMap (fun q => (q.1.pairs.zipIdx.filter (fun p => expertDest (x.expert k p.1.1) q.1.tid == c)).map
    (fun p => (q.1.tid, p.1.1, q.2, p.2)))
theorem mem_localPairs {e : Entry} (hothers : ∀ j, j < 4 → 0 < j → (callOf e j).n = 0) {x : Cluster} {k c : Nat}
    {l : Nat × Nat × Nat × Nat} (hl : l ∈ localPairs x k c (callsOf e)) :
    ∃ p ∈ (callOf e 0).pairs, p.1 = l.2.1 ∧ expertDest (x.expert k p.1) (callOf e 0).tid = c := by
  obtain ⟨⟨q, j⟩, hq, hl⟩ := List.mem_flatMap.1 hl
  obtain ⟨⟨p, i⟩, hp, rfl⟩ := List.mem_map.1 hl
  obtain ⟨hp, hdest⟩ := List.mem_filter.1 hp
  have hmem : p ∈ q.pairs := (List.mem_zipIdx' hp).2 ▸ List.getElem_mem _
  obtain rfl := pairs_of_call hothers hq hmem
  exact ⟨p, hmem, rfl, by simpa using hdest⟩

/-! ## RSLV is accepted (14 R279, R280) -/

theorem exec_rslv_issues (s : State) (w : VVV) : let os := predSources w
    let e := operand s .m os 1
    let round := e.toNat % 2 ^ 8
    let hv := lane e 1
    let h := hdlOf hv
    let tid0 := (lane e 2).toNat
    let orb := (lane e 3).toNat
    let c := callOf (operand s .m os 0) 0
    let out := orb + c.tid - tid0
    Sources s .m os [w.d.toNat] → (lane e 0).toNat < 2 ^ 8 → e.toNat < 2 ^ 128 →
    (∀ j, j < 4 → 0 < j → (callOf (operand s .m os 0) j).n = 0) → 0 < c.n → c.spec = false → c.tag = 0 → c.badIds = false →
    (∀ x ∈ c.experts, (s.cluster.expert s.hand.ctx x).getLsbD 15 = true) →
    (∀ p ∈ c.pairs, expertDest (s.cluster.expert s.hand.ctx p.1) c.tid = clusterOf s.cur →
      ∀ i t, s.cluster.sptOf s.hand.ctx round p.1 = some (i, t) → t.npend = 0 ∧ t.fst ≠ 3) →
    s.m.hdlStop s.cur h (some false) (some false) 0 0 = none → tid0 ≤ orb + c.tid → out < h.rows →
    s.m.ownStop s.cur h out 1 = none → CmdRoom s → MayIssue s .m (.rslv w) (lateHdr w.hdr) →
    let d := (Decided.mk s.cluster [] [] 0 0 0 0).record s.hand.ctx round (clusterOf s.cur) (16 * h.base + out) c
    exec (.rslv w) s = s.goes ((((s.took .m w.hdr os).modCluster (clusterOf s.cur) (fun z =>
        Cluster.sptCount { z with spt := d.1.x.spt } s.hand.ctx [d.1.conf, d.1.sq, d.1.nrerun, d.1.fdisc])).issueResult s.cur
          [.queue w.d.toNat 0] 0 0 0 false false).acceptCmd s.tb s.cur
        { acc := 0, hand := s.cur, ctx := 0, seq := 0, op := .rslv, handle := hv, adds := d.1.adds, res := s.m.nextId,
          ents := [entryOfBytes (d.2 ++ List.replicate 96 0)], push := pushFifo .m w.hdr.push }) := by
  intro os e round hv h tid0 orb c out hsrc hround hzero hothers hn hspec htag hids hvalid hwait hhandle hfirst hlast hown hroom hissue d
  have hdesc := rslvDesc_eq hround hzero
  have hdesc' : rslvDesc ((opValues s.hand .m os).getD 1 0) = (round, hv, tid0, orb, true) := hdesc
  have hhead : (opValues s.hand .m os).headD 0 = operand s .m os 0 := opValues_headD s .m os
  have hlive : (callsOf (operand s .m os 0)).filter (fun c => c.n != 0) = [c] := liveCalls_eq hothers hn
  have hout : outRow tid0 orb c.tid = some out := if_neg (Nat.not_lt.2 hfirst)
  refine (congrArg Host.Outcome.next (runWord_issues hissue rfl (Nat.zero_le _) ?_)).trans ?_
  · refine (queueOwn_of_sources hsrc _).trans ?_
    dsimp only
    rw [hhead, hdesc']
    dsimp only
    rw [hlive]
    have hbad : (!true || [c].any (fun q => q.spec || q.tag != 0 || q.badIds ||
        q.experts.any (fun e => !bit (s.cluster.expert s.hand.ctx e) 15))) = false := by
      have hany : c.experts.any (fun e => !bit (s.cluster.expert s.hand.ctx e) 15) = false :=
        List.any_eq_false.2 fun x hx => by simpa [bit] using hvalid x hx
      rw [List.any_cons, hspec, htag, hids, hany]; rfl
    have hfar : [some out].any (fun o => o.elim true fun i => decide (h.rows ≤ i)) = false := by
      simpa using hlast
    have hready : ∀ l ∈ localPairs s.cluster s.hand.ctx (clusterOf s.cur) (callsOf (operand s .m os 0)),
        ∀ i t, s.cluster.sptOf s.hand.ctx round l.2.1 = some (i, t) → t.npend = 0 ∧ t.fst ≠ 3 := fun l hl => by
      obtain ⟨p, hp, hexpert, hdest⟩ := mem_localPairs hothers hl
      exact hexpert ▸ hwait p hp hdest
    refine firstStop_eq_none.2 ?_
    simp only [List.map_cons, List.map_nil, hout, List.cons_append, List.nil_append, List.forall_mem_cons]
    refine ⟨trapIf_eq_none.2 hbad, hhandle, trapIf_eq_none.2 hfar, hown, freezeIf_eq_none.2 ?_, ?_, queueFull_eq_none hroom, by simp⟩
    · refine List.any_eq_false.2 fun l hl => ?_
      cases hspt : s.cluster.sptOf s.hand.ctx round l.2.1 with
      | none => simp
      | some p => simp [(hready l hl p.1 p.2 hspt).1]
    · split
      · next sl hsome =>
        obtain ⟨l, hl, hfault⟩ := List.exists_of_findSome?_eq_some hsome
        split at hfault
        · next i t hspt => simp [(hready l hl i t hspt).2] at hfault
        · exact absurd hfault (by simp)
      · rfl
  · dsimp only
    rw [hhead, hdesc']
    dsimp only
    rw [decideAll_eq hothers, hout]
    rfl

/-! ## One pair decided (14 R280, R282) -/

section
variable {d : Decided} {k round tid out e g : Nat}

/-- A pair without an entry is listed to run again. -/
theorem Decided.pair_of_no_entry (h : d.x.sptOf k round e = none) : d.pair k round tid out (e, g) =
    { d with rerun := d.rerun ++ [(e, g)], nrerun := d.nrerun + 1 } := by
  simp [Decided.pair, h]
/-- A pair with an unresolved row is confirmed where the row is computed, and else squashed and listed to run again. -/
theorem Decided.pair_of_row {i row : Nat} {y : Spte} (h : d.x.sptOf k round e = some (i, y)) (hrow : y.rowOf tid = some (row, .mapped)) :
    d.pair k round tid out (e, g) = if d.x.tent y row then
        { d with x := { d.x with spt := d.x.spt.set i (y.mark row .conf) }, conf := d.conf + 1,
                 adds := d.adds ++ [⟨16 * (hdlOf y.handle).base + row, (hdlOf y.handle).isInt, out, g, e⟩] }
      else { d with rerun := d.rerun ++ [(e, g)], nrerun := d.nrerun + 1, x := { d.x with spt := d.x.spt.set i (y.mark row .sq) },
                    sq := d.sq + 1 } := by
  simp only [Decided.pair, h, hrow]
end

/-! ## The adds of a started RSLV (14 R281) -/

theorem Cluster.countCall_eq (x : Cluster) (now k e : Nat) : ∃ n cn t, x.countCall now k e = { x with counters := n, cntNew := cn, cntT := t } := by
  unfold Cluster.countCall
  dsimp only
  split
  · exact ⟨_, _, _, rfl⟩
  · split <;> exact ⟨_, _, _, rfl⟩

theorem Mach.armCmds_acmRow (m : Mach) (now k p : Nat) : ((m.armCmds now k).cluster k).acmRow p = (m.cluster k).acmRow p := by
  obtain ⟨cs, harm⟩ := m.armCmds_cluster now k
  rw [harm]
  rfl

/-- A due RSLV of one add: its output row takes the sum, every other row stays, and its completion is on the agenda. -/
theorem rslvStart_of_one_add {s : State} {r seq : Nat} {c : Cmd} {a : RAdd} (hfind : s.m.findCmd r seq = some c)
    (hheld : s.m.startHeld s.tb c = false) (hadds : c.adds = [a]) (herr : ∀ k, s.m.rowError k = none) :
    let x := s.m.cluster (clusterOf r)
    ∃ m, exec (.rslvStart r seq) s = s.goes m ∧ m.mem = s.m.mem ∧ m.hands = s.m.hands ∧
      (∀ p, (m.cluster (clusterOf r)).acmRow p = if p = a.out then rslvAdd a (x.acmRow a.out) (x.acmRow a.row) else x.acmRow p) ∧
      (c.startT + 8, .accumCommandComplete r seq) ∈ m.agenda := by
  intro x
  have hexec : exec (.rslvStart r seq) s = execRslvStart r seq s := rfl
  simp only [hexec, execRslvStart, runEvent, hfind, hheld, hadds, Mach.acmErrors_of_no_error herr, Mach.acmSeen_of_no_error herr,
    List.foldl_cons, List.foldl_nil, Bool.false_eq_true, if_false]
  refine ⟨_, rfl, by simp [Mach.putCmd], by simp [Mach.putCmd], fun p => ?_, Mach.mem_armCmds_agenda _ _ (mem_agendaAdd.2 (.inl rfl))⟩
  obtain ⟨n, cn, t, hcount⟩ := Cluster.countCall_eq { x with acm := x.acm.set a.out (rslvAdd a (x.acmRow a.out) (x.acmRow a.row)) }
    s.tb c.ctx a.expert
  rw [Mach.armCmds_acmRow, Mach.post_cluster_get, Mach.putCmd_cluster, Mach.modCluster_cluster_get, if_pos rfl, hcount]
  exact KMap.get_set ..

/-- Settles O42: the records and the checks of an RSLV one by one, its decisions pair by pair, and its adds at the start. -/
theorem resolve : Obligations.Resolve := by
  refine ⟨exec_rslv_issues, fun d k round tid out e g => ⟨fun h => ?_, fun i y row h hrow => ⟨fun ht => ?_, fun ht => ?_⟩⟩,
    fun s r seq c a => rslvStart_of_one_add⟩
  · rw [Decided.pair_of_no_entry h]
    exact ⟨rfl, rfl, rfl, rfl⟩
  · rw [Decided.pair_of_row h hrow, if_pos ht]
    exact ⟨rfl, rfl, rfl, KMap.get_set_same ..⟩
  · rw [Decided.pair_of_row h hrow, if_neg (by simp [ht])]
    exact ⟨rfl, rfl, rfl, rfl, KMap.get_set_same ..⟩

end Sys2Proof.Machine
end

section
/-! PROOFS. What a machine's addresses name and hold depends on memory, contexts, device and partitions alone (04 R55 to R59, 06 R114); and
what the issue of a word and the reads of its operands change of a hand (07 R139, R142, R143). -/

namespace Sys2Proof.Machine

/-! ## Addresses read alike -/

section
variable (m : Mach) (hs : KMap Hand)

theorem Mach.walkFrom_with_hands (va : Nat) : ∀ n table w u,
    ({ m with hands := hs } : Mach).walkFrom va n table w u = m.walkFrom va n table w u := by
  intro n
  induction n with
  | zero => exact fun _ _ _ => rfl
  | succ n ih =>
    intro table w u
    simp only [Mach.walkFrom, ih]
    rfl
theorem Mach.resolve_with_hands (k : Nat) (x : W64) (n : Nat) (wr ring0 : Bool) :
    ({ m with hands := hs } : Mach).resolve k x n wr ring0 = m.resolve k x n wr ring0 := by
  simp only [Mach.resolve, Mach.walk, Mach.walkFrom_with_hands]
  rfl
theorem Mach.spanAux_with_hands (k : Nat) (wr ring0 : Bool) : ∀ f x n,
    ({ m with hands := hs } : Mach).spanAux k wr ring0 f x n = m.spanAux k wr ring0 f x n := by
  intro f
  induction f with
  | zero => exact fun _ _ => rfl
  | succ f ih =>
    intro x n
    simp only [Mach.spanAux, ih, Mach.resolve_with_hands]
end

/-- Two machines agree on what an address names and holds. -/
structure Mach.SameMap (m m' : Mach) : Prop where
  mem : m.mem = m'.mem
  ctxs : m.ctxs = m'.ctxs
  dev : m.dev = m'.dev
  clPart : m.clPart = m'.clPart

theorem Mach.SameReads.sameMap {m m' : Mach} (h : m.SameReads m') : m.SameMap m' := ⟨h.mem, h.ctxs, h.dev, h.clPart⟩
/-- A change of a cluster that keeps its control registers leaves addresses as they are. -/
theorem Mach.clPart_modCluster (m : Mach) (k : Nat) {f : Cluster → Cluster} (hcr : ∀ x, (f x).cr = x.cr) : (m.modCluster k f).clPart = m.clPart := by
  funext j
  simp only [Mach.clPart, Mach.modCluster_cluster_get]
  split
  · next h => rw [hcr, h]
  · rfl

namespace Mach.SameMap
variable {m m' : Mach}

theorem refl (m : Mach) : m.SameMap m := ⟨rfl, rfl, rfl, rfl⟩
theorem trans {m1 m2 m3 : Mach} (h : m1.SameMap m2) (h' : m2.SameMap m3) : m1.SameMap m3 :=
  ⟨h.mem.trans h'.mem, h.ctxs.trans h'.ctxs, h.dev.trans h'.dev, h.clPart.trans h'.clPart⟩
theorem modCluster (m : Mach) (k : Nat) {f : Cluster → Cluster} (hcr : ∀ x, (f x).cr = x.cr) : (m.modCluster k f).SameMap m :=
  ⟨rfl, rfl, rfl, m.clPart_modCluster k hcr⟩

variable (h : m.SameMap m')
include h

theorem withHands : ({ m with hands := m'.hands } : Mach).SameReads m' := ⟨h.mem, rfl, h.ctxs, h.dev, h.clPart⟩
theorem ctx (k : Nat) : m.ctx k = m'.ctx k := by rw [Mach.ctx, h.ctxs, Mach.ctx]
theorem physKind (pa : Nat) : m.physKind pa = m'.physKind pa := h.withHands.physKind pa
theorem rowError (k : Nat) : m.rowError k = m'.rowError k := h.withHands.rowError k
theorem readRow (k n : Nat) : m.readRow k n = m'.readRow k n := h.withHands.readRow k n
theorem readSpan (l : List (Nat × Nat)) : m.readSpan l = m'.readSpan l := by
  unfold Mach.readSpan; simp only [h.readRow]
theorem resolve (k : Nat) (x : W64) (n : Nat) (wr ring0 : Bool) : m.resolve k x n wr ring0 = m'.resolve k x n wr ring0 :=
  (m.resolve_with_hands m'.hands k x n wr ring0).symm.trans (h.withHands.resolve k x n wr ring0)
theorem span (k : Nat) (x : W64) (n : Nat) (wr ring0 : Bool) : m.span k x n wr ring0 = m'.span k x n wr ring0 :=
  (m.spanAux_with_hands m'.hands k wr ring0 _ x n).symm.trans (h.withHands.spanAux k wr ring0 _ x n)
theorem readAt (k : Nat) (x : W64) (n : Nat) (ring0 : Bool) : m.readAt k x n ring0 = m'.readAt k x n ring0 := by
  have hread : m.readSpan = m'.readSpan := funext h.readSpan
  rw [Mach.readAt, h.span, hread, Mach.readAt]
end Mach.SameMap

/-! ## What a word changes of its hand -/

/-- The fields of a hand that the issue of a word, the reads of its operands and the places of its results change. -/
structure Hand.SameBeside (h g : Hand) : Prop where
  eq : ∃ ea ex em v pool freed peeks fifos results blocked stage, g = { h with
    ea := ea, ex := ex, em := em, v := v, pool := pool, freed := freed, peeks := peeks, fifos := fifos, results := results,
    blocked := blocked, stage := stage }

namespace Hand.SameBeside

theorem refl (h : Hand) : h.SameBeside h := ⟨_, _, _, _, _, _, _, _, _, _, _, rfl⟩
theorem trans {h g f : Hand} (h1 : h.SameBeside g) (h2 : g.SameBeside f) : h.SameBeside f := by
  obtain ⟨ea, ex, em, v, pool, freed, peeks, fifos, results, blocked, stage, rfl⟩ := h1
  obtain ⟨ea', ex', em', v', pool', freed', peeks', fifos', results', blocked', stage', rfl⟩ := h2
  exact ⟨_, _, _, _, _, _, _, _, _, _, _, rfl⟩
theorem setEngine (h : Hand) (e : Engine) (x : EngineState) : h.SameBeside (h.setEngine e x) := by
  cases e <;> exact ⟨_, _, _, _, _, _, _, _, _, _, _, rfl⟩
theorem setFifo (h : Hand) (f : Nat) (x : Fifo) : h.SameBeside (h.setFifo f x) := ⟨_, _, _, _, _, _, _, _, _, _, _, rfl⟩
theorem popTok (h : Hand) (now f : Nat) : h.SameBeside (h.popTok now f) := by
  unfold Hand.popTok
  split
  · exact refl h
  · exact setFifo ..
theorem reserveTok (h : Hand) (f : Nat) : h.SameBeside (h.reserveTok f) := by
  unfold Hand.reserveTok
  split
  · exact refl h
  · exact setFifo ..
theorem enterTok (h : Hand) (now f : Nat) : h.SameBeside (h.enterTok now f) := by
  unfold Hand.enterTok
  split
  · exact refl h
  · exact setFifo ..
theorem completeTok (h : Hand) (now f : Nat) : h.SameBeside (h.completeTok now f) := by
  unfold Hand.completeTok
  split
  · exact refl h
  · split <;> exact setFifo ..
theorem tokenNow (s : State) (e : Engine) (hd : Hdr) (h : Hand) : h.SameBeside (Claims.tokenNow s e hd h) := by
  unfold Claims.tokenNow
  split
  · exact refl h
  · exact (reserveTok ..).trans (enterTok ..)
theorem issueAt (h : Hand) (now : Nat) (e : Engine) (pop : Nat) : h.SameBeside (h.issueAt now e pop) :=
  ((popTok h now pop).trans (setEngine _ e _)).trans ⟨_, _, _, _, _, _, _, _, _, _, _, rfl⟩
theorem passRv (h : Hand) : h.SameBeside h.passRv := ⟨_, _, _, _, _, _, _, _, _, _, _, rfl⟩
theorem fillLatch (h : Hand) (e : Engine) (os : List Opnd) (vals : List Entry) : h.SameBeside (h.fillLatch e os vals) := by
  unfold Hand.fillLatch
  split
  · split
    · exact setEngine ..
    · exact refl h
  · exact refl h
theorem popReads (e : Engine) (rs : Reads) : ∀ h : Hand, h.SameBeside (h.popReads e rs) := by
  induction rs with
  | nil => exact refl
  | cons r rs ih =>
    intro h
    obtain ⟨q, keep⟩ := r
    refine trans ?_ (ih _)
    cases keep
    · exact trans ⟨_, _, _, _, _, _, _, _, _, _, _, rfl⟩ (setEngine _ e _)
    · exact refl h
theorem takeOps (h0 : Hand) (e : Engine) (os : List Opnd) (h : Hand) : h.SameBeside (takeOps h0 e os h) := by
  unfold Machine.takeOps
  dsimp only
  split
  · exact ((fillLatch ..).trans (popReads ..)).trans ⟨_, _, _, _, _, _, _, _, _, _, _, rfl⟩
  · exact (fillLatch ..).trans (popReads ..)
theorem reserveAll (id : Nat) (qs : List Nat) : ∀ h : Hand, h.SameBeside (qs.foldl (fun h q => h.reserve q id) h) := by
  induction qs with
  | nil => exact refl
  | cons q qs ih => exact fun h => trans ⟨_, _, _, _, _, _, _, _, _, _, _, rfl⟩ (ih _)

section
variable {h g : Hand} (hs : h.SameBeside g)
include hs

theorem ctx : g.ctx = h.ctx := by obtain ⟨⟨_, _, _, _, _, _, _, _, _, _, _, rfl⟩⟩ := hs; rfl
theorem tid : g.tid = h.tid := by obtain ⟨⟨_, _, _, _, _, _, _, _, _, _, _, rfl⟩⟩ := hs; rfl
theorem ring : g.ring = h.ring := by obtain ⟨⟨_, _, _, _, _, _, _, _, _, _, _, rfl⟩⟩ := hs; rfl
theorem cr : g.cr = h.cr := by obtain ⟨⟨_, _, _, _, _, _, _, _, _, _, _, rfl⟩⟩ := hs; rfl
theorem disps : g.disps = h.disps := by obtain ⟨⟨_, _, _, _, _, _, _, _, _, _, _, rfl⟩⟩ := hs; rfl
theorem accs : g.accs = h.accs := by obtain ⟨⟨_, _, _, _, _, _, _, _, _, _, _, rfl⟩⟩ := hs; rfl
theorem colls : g.colls = h.colls := by obtain ⟨⟨_, _, _, _, _, _, _, _, _, _, _, rfl⟩⟩ := hs; rfl
theorem clseq : g.clseq = h.clseq := by obtain ⟨⟨_, _, _, _, _, _, _, _, _, _, _, rfl⟩⟩ := hs; rfl
end
end Hand.SameBeside

/-- The hand of a word that has issued, beside the fields that its issue changes. -/
theorem State.issued_sameBeside (s : State) (e : Engine) (hd : Hdr) : s.hand.SameBeside ((s.issued e hd).hand s.cur) := by
  rw [State.issued, Mach.modHand_hand_get, if_pos rfl]
  exact Hand.SameBeside.issueAt ..
theorem State.took_sameBeside (s : State) (e : Engine) (hd : Hdr) (os : List Opnd) : s.hand.SameBeside ((s.took e hd os).hand s.cur) := by
  rw [State.took, Mach.modHand_hand_get, if_pos rfl]
  exact (s.issued_sameBeside e hd).trans (Hand.SameBeside.takeOps ..)

section
variable (m : Mach) (r : Nat) (lands : List Land) (flags : BitVec 6) (push due : Nat) (ready xres : Bool)

/-- A result on its way: its hand, the agenda and the numbers change. -/
theorem Mach.issueResult_eq : ∃ h ag, m.issueResult r lands flags push due ready xres =
    { m.setHand r h with nextId := m.nextId + 1, agenda := ag } ∧ (m.hand r).SameBeside h ∧ ∀ p ∈ m.agenda, p ∈ ag := by
  have hhand : ∀ x : List Result, (m.hand r).SameBeside { ((lands.filterMap Land.queueNo).foldl (fun h q => h.reserve q m.nextId)
      (m.hand r)).reserveTok push with results := x } := fun x =>
    ((Hand.SameBeside.reserveAll m.nextId (lands.filterMap Land.queueNo) (m.hand r)).trans (Hand.SameBeside.reserveTok _ push)).trans
      ⟨_, _, _, _, _, _, _, _, _, _, _, rfl⟩
  cases ready
  · exact ⟨_, _, rfl, hhand _, fun p hp => hp⟩
  · exact ⟨_, _, rfl, hhand _, fun p hp => mem_agendaAdd.2 (.inr hp)⟩
theorem Mach.issueResult_hand : (m.hand r).SameBeside ((m.issueResult r lands flags push due ready xres).hand r) := by
  obtain ⟨h, ag, heq, hs, -⟩ := Mach.issueResult_eq m r lands flags push due ready xres
  have hhand : (m.issueResult r lands flags push due ready xres).hand r = h := by
    rw [heq]; exact (Mach.setHand_hand_get m r h r).trans (if_pos rfl)
  rwa [hhand]
theorem Mach.mem_issueResult_agenda {p : Nat × Instr} (hp : p ∈ m.agenda) : p ∈ (m.issueResult r lands flags push due ready xres).agenda := by
  obtain ⟨h, ag, heq, -, hag⟩ := Mach.issueResult_eq m r lands flags push due ready xres
  rw [heq]; exact hag p hp
@[simp] theorem Mach.issueResult_mem : (m.issueResult r lands flags push due ready xres).mem = m.mem := by cases ready <;> rfl
@[simp] theorem Mach.issueResult_clusters : (m.issueResult r lands flags push due ready xres).clusters = m.clusters := by cases ready <;> rfl
@[simp] theorem Mach.issueResult_frames : (m.issueResult r lands flags push due ready xres).frames = m.frames := by cases ready <;> rfl
@[simp] theorem Mach.issueResult_disps : (m.issueResult r lands flags push due ready xres).disps = m.disps := by cases ready <;> rfl
@[simp] theorem Mach.issueResult_nextId : (m.issueResult r lands flags push due ready xres).nextId = m.nextId + 1 := by cases ready <;> rfl
@[simp] theorem Mach.issueResult_cluster_get (j : Nat) : (m.issueResult r lands flags push due ready xres).cluster j = m.cluster j := by
  cases ready <;> rfl
@[simp] theorem Mach.issueResult_die_get (j : Nat) : (m.issueResult r lands flags push due ready xres).die j = m.die j := by cases ready <;> rfl
@[simp] theorem Mach.issueResult_ctx_get (j : Nat) : (m.issueResult r lands flags push due ready xres).ctx j = m.ctx j := by cases ready <;> rfl
theorem Mach.SameMap.issueResult : (m.issueResult r lands flags push due ready xres).SameMap m := by
  cases ready <;> exact ⟨rfl, rfl, rfl, rfl⟩
end

end Sys2Proof.Machine
end

section
/-! PROOFS. Routing: RSNAP, EMAPS, DISP and the events of frames (13 R253 to R263). -/

namespace Sys2Proof.Machine

open Claims

theorem ofNat_mod_two_pow (w x : Nat) : BitVec.ofNat w (x % 2 ^ w) = BitVec.ofNat w x :=
  BitVec.eq_of_toNat_eq (by simp)
/-- One bit of a word as a remainder. -/
theorem bit_eq_decide {w : Nat} (x : BitVec w) (i : Nat) : bit x i = decide (x.toNat / 2 ^ i % 2 = 1) := by
  rw [bit, BitVec.getLsbD, Nat.testBit_eq_decide_div_mod_eq]

/-! ## RSNAP (13 R263) -/

/-- A snapshot in a cycle without increments of its own is the counters. -/
theorem Cluster.snapshot_of_quiet {x : Cluster} {now : Nat} (h : x.cntT ≠ now) (e : Nat) : x.snapshot now e = KMap.get 0 x.counters e := by
  simp [Cluster.snapshot, h]
/-- A row of the 256 counters: 32 of them. -/
theorem take_drop_range_map (f : Nat → Nat) {i : Nat} (hi : i < 8) :
    (((List.range 256).map f).drop (32 * i)).take 32 = (List.range 32).map (fun j => f (32 * i + j)) := by
  refine List.ext_getElem (by simp; omega) fun j hj hj' => ?_
  simp

theorem exec_rsnap_issues (s : State) (w : VVI) : let os : List Opnd := [⟨w.a.toNat, w.ka, false, 4⟩]
    let a : W64 := BitVec.ofNat 64 ((operand s .m os 0).toNat % 2 ^ 64)
    let c := clusterOf s.cur
    let n := fun e => (KMap.get 0 s.cluster.counters e).toNat
    let rc := (KMap.get 0 s.cluster.cr 0x05A).toNat
    Sources s .m os [w.d.toNat] → a.toNat % 128 = 0 → s.m.ownSlice s.cur a 1024 = true → rc / 2 ^ 16 % 2 = 1 →
    rc % 2 ^ 16 = s.hand.ctx → s.cluster.cntT ≠ s.tb → MayIssue s .m (.rsnap w) w.hdr →
    exec (.rsnap w) s = s.goes (((s.took .m w.hdr os).modCluster c (fun z => { z with counters := [] })).issueResult s.cur
      (.queue w.d.toNat (BitVec.ofNat 1024 (s.tb % 2 ^ 64 + 2 ^ 64 * (((List.range 256).map n).sum % 2 ^ 32)))
        :: (List.range 8).map (fun i => Land.mem (s.ctx.sliceKey c (a.toNat % 2 ^ 23 + 128 * i))
            ((List.range 32).flatMap (fun j => leBytes 4 (n (32 * i + j)))))) 0 (pushFifo .m w.hdr.push) (s.tb + 10) true false) := by
  intro os a c n rc hsrc halign hslice hon hctx hquiet hissue
  have haddr : bits ((opValues s.hand .m os).headD 0) 0 64 = a := by
    rw [opValues_headD, bits_zero_eq_ofNat]
    exact (ofNat_mod_two_pow 64 _).symm
  have howner : (!bit (KMap.get 0 s.cluster.cr 0x05A) 16 || (bits (KMap.get 0 s.cluster.cr 0x05A) 0 16).toNat != s.hand.ctx) = false := by
    rw [bit_eq_decide, bits_zero_toNat, decide_eq_true hon, Bool.not_true, Bool.false_or]
    exact bne_eq_false_iff_eq.2 hctx
  refine (congrArg Host.Outcome.next (runWord_issues hissue rfl (Nat.zero_le _) ?_)).trans ?_
  · refine (queueOwn_of_sources hsrc _).trans (firstStop_eq_none.2 ?_)
    dsimp only
    rw [haddr]
    simp only [List.forall_mem_cons, List.not_mem_nil, false_imp_iff, implies_true, and_true]
    exact ⟨trapIf_eq_none.2 (by simpa using halign), trapIf_eq_none.2 (by rw [hslice]; rfl), trapIf_eq_none.2 howner⟩
  · have hrow : ∀ i ∈ List.range 8, ((((List.range 256).map n).drop (32 * i)).take 32).flatMap (leBytes 4)
        = (List.range 32).flatMap (fun j => leBytes 4 (n (32 * i + j))) := fun i hi => by
      rw [take_drop_range_map n (List.mem_range.1 hi), List.flatMap_map]
    have hsum : ((List.range 256).map n).foldl (· + ·) 0 = ((List.range 256).map n).sum := List.sum_eq_foldl.symm
    have hmem : (List.range 8).map (fun i => Land.mem (s.ctx.sliceKey c (a.toNat % 2 ^ 23 + 128 * i))
        (((((List.range 256).map n).drop (32 * i)).take 32).flatMap (leBytes 4))) = (List.range 8).map (fun i =>
          Land.mem (s.ctx.sliceKey c (a.toNat % 2 ^ 23 + 128 * i)) ((List.range 32).flatMap (fun j => leBytes 4 (n (32 * i + j))))) :=
      List.map_congr_left fun i hi => by rw [hrow i hi]
    dsimp only
    rw [haddr]
    simp only [Cluster.snapshot_of_quiet hquiet, if_neg hquiet, bits_zero_toNat]
    rw [← hsum, ← hmem]
    rfl

/-! ## EMAPS and EMAP_UPDATE (13 R254) -/

theorem exec_emaps_issues (s : State) (w : VVV) : let os : List Opnd := [⟨w.a.toNat, w.ka, false, 4⟩]
    let v := operand s .m os 0
    Sources s .m os [w.d.toNat] → (∀ j, j < 32 → (lane v j).getLsbD 31 = true →
      (lane v j).toNat / 2 ^ 24 % 2 ^ 7 = 0 ∧ s.m.emapOk s.hand.ctx (BitVec.ofNat 16 (lane v j).toNat) = true) → MayIssue s .m (.emaps w) w.hdr →
    ∃ m, exec (.emaps w) s = s.goes m ∧ m.mem = s.m.mem ∧ (m.cluster (clusterOf s.cur)).emap = s.cluster.emap ∧
      (m.cluster (clusterOf s.cur)).emapUpds = s.cluster.emapUpds ++ [⟨s.m.nextId + 1, s.hand.ctx, v, s.cur, s.m.nextId, false⟩] ∧
      m.agenda = agendaAdd (s.tb + 25) (.emapUpdate (s.m.nextId + 1)) (agendaAdd (s.tb + 24) (.emapUpdate (s.m.nextId + 1)) s.m.agenda) := by
  intro os v hsrc hlanes hissue
  have hhead : (opValues s.hand .m os).headD 0 = v := opValues_headD s .m os
  have hgood : (List.range 32).any (fun j => bit (lane v j) 31 &&
      (bits (lane v j) 24 7 != 0 || !s.m.emapOk s.hand.ctx (bits (lane v j) 0 16))) = false := by
    refine List.any_eq_false.2 fun j hj => ?_
    by_cases hset : (lane v j).getLsbD 31 = true
    · obtain ⟨hzero, hok⟩ := hlanes j (List.mem_range.1 hj) hset
      have hbits : bits (lane v j) 24 7 = 0 := BitVec.eq_of_toNat_eq (by rw [bits_toNat, hzero]; rfl)
      rw [hbits, bits_zero_eq_ofNat, hok]
      simp
    · have hclear : bit (lane v j) 31 = false := Bool.eq_false_iff.2 hset
      simp [hclear]
  have hexec : exec (.emaps w) s = _ := congrArg Host.Outcome.next (runWord_issues hissue rfl (Nat.zero_le _) (by
    refine (queueOwn_of_sources hsrc _).trans (firstStop_eq_none.2 (List.forall_mem_singleton.2 (trapIf_eq_none.2 ?_)))
    dsimp only
    rw [hhead]
    exact hgood))
  have htook : ∀ j, (s.took .m w.hdr os).cluster j = s.m.cluster j := fun _ => rfl
  refine ⟨_, hexec, ?_, ?_, ?_, ?_⟩
  all_goals dsimp only
  all_goals rw [hhead]
  · rfl
  · simp only [Mach.post_cluster_get, Mach.bump_cluster_get, Mach.modCluster_cluster_get, if_pos, Mach.issueResult_cluster_get]
    rfl
  · simp only [Mach.post_cluster_get, Mach.bump_cluster_get, Mach.modCluster_cluster_get, if_pos, Mach.issueResult_cluster_get]
    rfl
  · rfl

/-- One change made in each of some clusters. -/
theorem Mach.foldl_modCluster (f : Cluster → Cluster) {l : List Nat} (hl : l.Nodup) (m : Mach) (j : Nat) :
    (l.foldl (fun m q => m.modCluster q f) m).cluster j = if j ∈ l then f (m.cluster j) else m.cluster j := by
  induction l generalizing m with
  | nil => simp
  | cons q l ih =>
    obtain ⟨hq, hl⟩ := List.nodup_cons.1 hl
    rw [List.foldl_cons, ih hl, Mach.modCluster_cluster_get]
    by_cases hj : j = q
    · subst hj; simp [hq]
    · simp [hj]
theorem Mach.foldl_modCluster_mem (f : Cluster → Cluster) (l : List Nat) (m : Mach) : (l.foldl (fun m q => m.modCluster q f) m).mem = m.mem :=
  List.foldlRecOn (motive := fun t : Mach => t.mem = m.mem) _ _ rfl fun _ h _ _ => h
theorem Mach.foldl_modCluster_hands (f : Cluster → Cluster) (l : List Nat) (m : Mach) : (l.foldl (fun m q => m.modCluster q f) m).hands = m.hands :=
  List.foldlRecOn (motive := fun t : Mach => t.hands = m.hands) _ _ rfl fun _ h _ _ => h

section
variable {s : State} {id c : Nat} {u : EmapUpd}
  (hfind : s.m.clusters.findSome? (fun p => (p.2.emapUpds.find? (fun u => u.id == id)).map (fun u => (p.1, u))) = some (c, u))
include hfind

/-- After the landing, every cluster of the partition takes the new entries. -/
theorem emapUpdate_of_landed (hland : u.landed = true) : ∃ m : Mach, exec (.emapUpdate id) s = s.goes m ∧ m.mem = s.m.mem ∧ m.hands = s.m.hands ∧
      ∀ q, q < 72 → s.m.clPart q = (s.m.ctx u.ctx).part →
        KMap.get [] (m.cluster q).emap u.ctx = emapApply (KMap.get [] (s.m.cluster q).emap u.ctx) u.ents := by
  have hexec : exec (.emapUpdate id) s = execEmapUpdate id s := rfl
  rw [hexec, execEmapUpdate, runEvent]
  simp only [hfind, hland, Bool.not_true, Bool.false_eq_true, if_false]
  refine ⟨_, rfl, Mach.foldl_modCluster_mem .., Mach.foldl_modCluster_hands .., fun q hq hpart => ?_⟩
  have hin : q ∈ (List.range 72).filter (s.m.inPart u.ctx) := List.mem_filter.2 ⟨List.mem_range.2 hq, by simp [Mach.inPart, hq, hpart]⟩
  rw [Mach.foldl_modCluster _ (List.nodup_range.filter _), if_pos hin]
  have hemap : ((s.m.modCluster c (fun x => { x with emapUpds := x.emapUpds.filter (fun v => v.id != id) })).cluster q).emap
      = (s.m.cluster q).emap := by
    rw [Mach.modCluster_cluster_get]
    split
    · next h => rw [h]
    · rfl
  rw [hemap, KMap.get_set_same]

/-- First the old entries land. -/
theorem emapUpdate_of_not_landed (hland : u.landed = false) (hfirst : s.m.emapPending u.ctx = []) :
    ∃ m : Mach, exec (.emapUpdate id) s = s.goes (m.supplyQueue s.tb u.hand u.res
        (mkEntry 32 ((List.range 32).map (fun j => if (lane u.ents j).getLsbD 31
          then ((s.m.cluster c).expert u.ctx ((lane u.ents j).toNat / 2 ^ 16 % 2 ^ 8)).toNat else 0)))) ∧
      m.hands = s.m.hands ∧ ∀ q, (m.cluster q).emap = (s.m.cluster q).emap := by
  have hexec : exec (.emapUpdate id) s = execEmapUpdate id s := rfl
  rw [hexec, execEmapUpdate, runEvent]
  simp only [hfind, hland, hfirst, Bool.not_false, if_true, List.foldl_nil, bits_toNat]
  refine ⟨_, rfl, rfl, fun q => ?_⟩
  rw [Mach.modCluster_cluster_get]
  split
  · next h => rw [h]
  · rfl
end

/-! ## Frames arrive (13 R260) -/

section
variable {s : State} {id : Nat} {f : Frame} (hfind : s.m.frames.find? (fun f => f.id == id) = some f) (honly : s.m.frames = [f])
  (hheld : (s.m.cluster f.dst).heldFrames = []) (hlate : f.late = true ∨ s.m.willDnext s.tb f.dst f.ctx = false)
include hfind honly hheld hlate

theorem frameArrival_spec : (f.good = true → (s.m.fileFrame s.tb f).2 = true → exec (.frameArrival id) s = s.goes (s.m.fileFrame s.tb f).1) ∧
    (f.good = false → 3 ≤ f.sent → exec (.frameArrival id) s = s.goes ((if (s.m.hand f.hand).ctx = f.ctx then s.m.recordFault f.hand
      ⟨0x1F, 0, [7, BitVec.ofNat 64 (field f.hdr 0 4 + 2 ^ 32 * f.dst), 0, BitVec.ofNat 64 f.hand]⟩ else s.m).frameDone s.tb f)) ∧
    (f.good = false → f.sent < 3 → ∀ hid, s.m.readAt f.ctx f.rowAt f.len false = .ok hid → ∃ m g, exec (.frameArrival id) s = s.goes m ∧
      m.frames = [g] ∧ g.sent = f.sent + 1 ∧ g.bytes = frameBytes f.hdr hid ∧ m.mem = s.m.mem ∧
      (s.tb + hops f.src f.dst + g.bytes.length / 128, .frameArrival id) ∈ m.agenda) := by
  have hid : f.id = id := by simpa using List.find?_some hfind
  have hbehind : (s.m.frames.takeWhile (fun g => g.id != id)).any (fun g =>
      g.hand == f.hand && g.dst == f.dst && g.ctx == f.ctx && !(s.m.cluster f.dst).heldFrames.contains g.id) = false := by
    simp [honly, hid]
  have hblocked : s.m.frames.any (fun g => (s.m.cluster f.dst).heldFrames.contains g.id && g.input == f.input) = false := by
    simp [hheld]
  have hnow : (!f.late && s.m.willDnext s.tb f.dst f.ctx) = false := by
    rcases hlate with h | h <;> simp [h]
  have hnone : (s.m.cluster f.dst).heldFrames.contains id = false := by simp [hheld]
  have hexec : exec (.frameArrival id) s = execFrameArrival id s := rfl
  rw [hexec, execFrameArrival, runEvent]
  simp only [hfind, hbehind, hblocked, hnow, hnone, Bool.false_eq_true, if_false]
  refine ⟨fun hgood hfiled => ?_, fun hbad hthird => ?_, fun hbad hagain hid hread => ?_⟩
  · simp [hgood, hfiled]
  · simp [hbad, hthird, slotN]
  · simp only [hbad, hread, Bool.not_false, if_true, if_neg (Nat.not_le.2 hagain)]
    refine ⟨_, { f with sent := f.sent + 1, bytes := frameBytes f.hdr hid, len := hid.length, sendT := s.tb, late := false }, rfl, by simp only [Mach.post_frames, Mach.modDisp, Mach.modCluster_frames, Mach.putFrame, honly, List.map_cons, List.map_nil,
      beq_self_eq_true, if_true], rfl, rfl, rfl, mem_agendaAdd.2 (.inl rfl)⟩
end

/-- Where a pair of a frame goes: the arrival list, DROP, or nowhere while the overflow list is full. -/
theorem Mach.filePair_spec (m : Mach) (f : Frame) (idx p : Nat) : let x := m.ctx f.ctx
    let cap := (x.reg 0x054).toNat % 2 ^ 16
    let l := x.region 0x052
    let o := x.region 0x053
    let e := field f.hdr (8 + p) 1
    let la := l.2 + 4 * e * (l.1 + 1)
    let n := m.winWord f.ctx f.dst la
    let ref := leBytes 4 (idx % 2 ^ 16 + 2 ^ 16 * p)
    (n < cap → m.filePair f idx p = some ((((m.winWrite f.ctx f.dst (la + 4 * (n + 1)) ref).winWrite f.ctx f.dst la (leBytes 4 (n + 1))).entered
      f.dst f.ctx e f.hdr).modDisp f.disp (fun d => { d with placed := d.placed + 1 }))) ∧
    (cap ≤ n → (x.reg 0x054).getLsbD 16 = true → m.filePair f idx p = some ((m.modCluster f.dst (fun y => y.addDcnt 1 0)).modDisp f.disp
      (fun d => { d with dropped := d.dropped + 1 }))) ∧
    (cap ≤ n → (x.reg 0x054).getLsbD 16 = false → o.1 ≤ m.winWord f.ctx f.dst (o.2 + 4 * e * (o.1 + 1)) / 2 ^ 16 →
      m.filePair f idx p = none) := by
  intro x cap l o e la n ref
  have hcap : (bits (x.reg 0x054) 0 16).toNat = cap := bits_zero_toNat _ _
  refine ⟨fun hplace => ?_, fun hfull hdrop => ?_, fun hfull hkeep hover => ?_⟩ <;> rw [Mach.filePair]
  · exact if_pos (hcap.symm ▸ hplace)
  · exact (if_neg (hcap.symm ▸ Nat.not_lt.2 hfull)).trans (if_pos hdrop)
  · exact ((if_neg (hcap.symm ▸ Nat.not_lt.2 hfull)).trans (if_neg (Bool.eq_false_iff.1 hkeep))).trans (if_pos hover)

/-! ## Held frames proceed (13 R260) -/

section
variable (m : Mach) (now : Nat)

theorem Mach.pokePhys_clusters (pa : Nat) (bs : List Byte) : (m.pokePhys pa bs).clusters = m.clusters := by
  unfold Mach.pokePhys
  split <;> rfl
theorem Mach.logInput_clusters (p kind : Nat) (who : Option Nat) (a b : W64) : (m.logInput now p kind who a b).clusters = m.clusters := by
  unfold Mach.logInput
  dsimp only
  split
  · rfl
  · exact Mach.pokePhys_clusters ..
theorem Mach.useNext_clusters (p k : Nat) : (m.useNext now p k).clusters = m.clusters := by
  unfold Mach.useNext Mach.expectRecord
  dsimp only
  split
  · rfl
  · split <;> rfl
theorem Mach.diverge_clusters (p index : Nat) : (m.diverge p index).clusters = m.clusters := by
  unfold Mach.diverge
  split
  · rfl
  · exact List.foldlRecOn (motive := fun t : Mach => t.clusters = m.clusters) _ _ rfl fun _ h _ _ => h
theorem Mach.noteArrival_clusters (a : Arrival) : (m.noteArrival now a).clusters = m.clusters := by
  unfold Mach.noteArrival
  dsimp only
  split
  · exact Mach.logInput_clusters ..
  · split
    · split
      · exact Mach.useNext_clusters ..
      · exact Mach.diverge_clusters ..
    · rfl
theorem Mach.noteArrivals_clusters (l : List Arrival) : (m.noteArrivals now l).clusters = m.clusters :=
  List.foldlRecOn (motive := fun t : Mach => t.clusters = m.clusters) _ _ rfl fun t h a _ => (t.noteArrival_clusters now a).trans h
end

/-- The pairs of a frame filed in order, whatever files one: the recursion of `Mach.filePairs` with the filing of one pair left open. -/
def filePairsBy (file : Mach → Frame → Nat → Nat → Option Mach) (m : Mach) (f : Frame) (idx : Nat) : Nat → Nat → Mach × Nat × Bool
  | 0, p => (m, p, true)
  | n + 1, p => match file m f idx p with
    | none => (m, p, false)
    | some m' => filePairsBy file m' f idx n (p + 1)
theorem filePairs_eq : @Mach.filePairs = filePairsBy Mach.filePair := by
  delta Mach.filePairs Mach.filePairs._f filePairsBy filePairsBy._f
  rfl

/-- No cluster's list of held frames changes. -/
structure Mach.SameHeld (m t : Mach) : Prop where
  held : ∀ c, (t.cluster c).heldFrames = (m.cluster c).heldFrames

namespace Mach.SameHeld

theorem refl (m : Mach) : m.SameHeld m := ⟨fun _ => rfl⟩
theorem trans {m t u : Mach} (h : m.SameHeld t) (h' : t.SameHeld u) : m.SameHeld u := ⟨fun c => (h'.held c).trans (h.held c)⟩
theorem of_clusters {m t : Mach} (h : t.clusters = m.clusters) : m.SameHeld t := ⟨fun c => by rw [Mach.cluster, h, Mach.cluster]⟩
theorem modCluster (m : Mach) (c : Nat) {f : Cluster → Cluster} (hf : ∀ x, (f x).heldFrames = x.heldFrames) : m.SameHeld (m.modCluster c f) := by
  refine ⟨fun j => ?_⟩
  rw [Mach.modCluster_cluster_get]
  split
  · next h => rw [hf, h]
  · rfl
theorem modDisp (m : Mach) (id : Nat) (f : DispRec → DispRec) : m.SameHeld (m.modDisp id f) := ⟨fun _ => rfl⟩
theorem winWrite (m : Mach) (k c o : Nat) (bs : List Byte) : m.SameHeld (m.winWrite k c o bs) := by
  unfold Mach.winWrite
  split
  · next h =>
    obtain ⟨mem, heq⟩ := Mach.writeAt_eq h
    exact of_clusters (by rw [heq])
  · exact refl m
theorem entered (m : Mach) (c k e : Nat) (hdr : List Byte) : m.SameHeld (m.entered c k e hdr) := by
  unfold Mach.entered
  split
  · refine modCluster m c fun x => ?_
    unfold Cluster.mapRow
    split
    · rfl
    · split <;> rfl
  · exact refl m
theorem filePair {m t : Mach} {f : Frame} {idx p : Nat} (h : m.filePair f idx p = some t) : m.SameHeld t := by
  unfold Mach.filePair at h
  dsimp only at h
  split at h
  · obtain rfl := Option.some.inj h
    exact (((winWrite ..).trans (winWrite ..)).trans (entered ..)).trans (modDisp ..)
  · split at h
    · obtain rfl := Option.some.inj h
      exact (modCluster m f.dst (f := fun y => y.addDcnt 1 0) fun _ => rfl).trans (modDisp ..)
    · split at h
      · exact absurd h (by simp)
      · obtain rfl := Option.some.inj h
        exact ((winWrite ..).trans (winWrite ..)).trans (modDisp ..)
theorem filePairsBy {file : Mach → Frame → Nat → Nat → Option Mach}
    (hfile : ∀ m f idx p t, file m f idx p = some t → m.SameHeld t) (f : Frame) (idx n : Nat) :
    ∀ (m : Mach) (p : Nat), m.SameHeld (filePairsBy file m f idx n p).1 := by
  induction n with
  | zero => exact fun m _ => refl m
  | succ n ih =>
    intro m p
    rw [Machine.filePairsBy]
    split
    · exact refl m
    · next t h => exact (hfile _ _ _ _ _ h).trans (ih _ _)
theorem filePairs (m : Mach) (f : Frame) (idx n p : Nat) : m.SameHeld (m.filePairs f idx n p).1 := by
  rw [filePairs_eq]
  exact filePairsBy (fun _ _ _ _ _ => filePair) f idx n m p
theorem frameDone (m : Mach) (now : Nat) (f : Frame) : m.SameHeld (m.frameDone now f) := by
  unfold Mach.frameDone
  dsimp only
  split
  · exact ⟨fun _ => rfl⟩
  · split <;> exact ⟨fun _ => rfl⟩
theorem putFrame (m : Mach) (f : Frame) : m.SameHeld (m.putFrame f) := ⟨fun _ => rfl⟩
theorem fileFrame (m : Mach) (now : Nat) (f : Frame) : m.SameHeld (m.fileFrame now f).1 := by
  unfold Mach.fileFrame
  dsimp only
  split
  · split
    · exact frameDone ..
    · exact refl m
  · next t i heq =>
    have ht : m.SameHeld t := by
      split at heq
      · obtain ⟨rfl, rfl⟩ := Prod.mk.inj (Option.some.inj heq)
        exact refl m
      · split at heq
        · exact absurd heq (by simp)
        · obtain ⟨rfl, rfl⟩ := Prod.mk.inj (Option.some.inj heq)
          exact ((of_clusters (Mach.noteArrivals_clusters ..)).trans (winWrite ..)).trans (modCluster _ _ fun _ => rfl)
    split
    · exact (ht.trans (filePairs ..)).trans (frameDone ..)
    · exact (ht.trans (filePairs ..)).trans (putFrame ..)
end Mach.SameHeld

theorem heldFrameResume_spec (s : State) (c k : Nat) : ((s.m.cluster c).heldFrames = [] → exec (.heldFrameResume c k) s = s.goes s.m) ∧
    (∀ f m, (s.m.cluster c).heldFrames = [f.id] → s.m.frames.find? (fun g => g.id == f.id) = some f → s.m.fileFrame s.tb f = (m, true) →
      exec (.heldFrameResume c k) s = s.goes (m.modCluster c (fun y => { y with heldFrames := y.heldFrames.erase f.id }))) := by
  have hexec : exec (.heldFrameResume c k) s = execHeldFrameResume c k s := rfl
  rw [hexec, execHeldFrameResume, runEvent]
  refine ⟨fun hnone => ?_, fun f m hone hfind hfile => ?_⟩
  · simp [hnone, Mach.fileHeld, Mach.retryHeld]
  · have hsame : (m.cluster c).heldFrames = [f.id] := by
      have h := (Mach.SameHeld.fileFrame s.m s.tb f).held c
      rwa [hfile, hone] at h
    simp [hone, Mach.fileHeld, hfind, hfile, Mach.retryHeld, hsame]

theorem dispComplete_spec (s : State) (id : Nat) (d : DispRec) (hfind : s.m.disps.find? (fun d => d.id == id) = some d) :
    (d.left ≠ 0 → exec (.dispComplete id) s = s.goes s.m) ∧
    (d.left = 0 → exec (.dispComplete id) s = s.goes (({ s.m with disps := s.m.disps.filter (fun e => e.id != id) }.modHand d.hand (fun h =>
      { h with disps := h.disps - 1 })).supplyQueue s.tb d.hand d.res (mkEntry 32 [d.frames, d.pairs, d.placed, d.held, d.dropped, d.resends]))) := by
  have hexec : exec (.dispComplete id) s = execDispComplete id s := rfl
  rw [hexec, execDispComplete, runEvent]
  refine ⟨fun hleft => ?_, fun hleft => ?_⟩ <;> simp [hfind, hleft]

/-! ## DISP sends its frames (13 R258, R259) -/

theorem sext_toNat (x : W32) : sext 32 x.toNat = x.toInt := by
  have hlt := x.isLt
  rw [sext, BitVec.toInt_eq_toNat_cond]
  split <;> split <;> omega

/-- What the frames of one DISP share: the cycle, the hand and its context and cluster, the number of the DISP, the hidden bytes of a row,
the ISEQ, the permissions, and where a record's row lies. -/
structure Sending where
  now : Nat
  r : Nat
  k : Nat
  c : Nat
  id : Nat
  len : Nat
  iseq : Nat
  ring0 : Bool
  rowOf : Call → W64

/-- The rows that a record's hidden vector lies in; none where its address does not translate. -/
def Sending.rows (x : Sending) (m : Mach) (q : Call) : List (Nat × Nat) :=
  match m.span x.k (x.rowOf q) x.len false x.ring0 with | .ok l => l | .error _ => []
/-- The frame that a record sends to one cluster, its bytes read in machine `m`. -/
def Sending.frame (x : Sending) (m : Mach) (f : (Call × Nat × List (Nat × Nat)) × Nat) : Frame :=
  let hdr := headerBytes f.1.1.tid x.c f.1.1.spec f.1.1.tag f.1.2.2
  { id := m.nextId, hand := x.r, disp := x.id, src := x.c, dst := f.1.2.1, ctx := x.k, hdr := hdr, len := x.len,
    bytes := frameBytes hdr (m.readSpan (x.rows m f.1.1)), rowAt := x.rowOf f.1.1, iseq := x.iseq,
    sendT := x.now + 8 + frameLen x.len / 128 * f.2 }
/-- One frame sent: its row read, the frame under way, and its arrival on the agenda. -/
def Mach.sendFrame (x : Sending) (m : Mach) (f : (Call × Nat × List (Nat × Nat)) × Nat) : Mach :=
  let fr := x.frame m f
  let sp := x.rows m f.1.1
  let m := (m.countErrors x.c (sp.map (·.1))).noteUE x.r (sp.map (·.1))
  ({ m.bump with frames := m.frames ++ [fr] }).post (x.now + 8 + hops x.c fr.dst + frameLen x.len / 128 * (f.2 + 1)) (.frameArrival fr.id)

/-- Frame `f` is the one that a record sends to one cluster, its bytes read in machine `m0`, and its arrival is on the agenda `ag`. -/
def Sending.Sent (x : Sending) (m0 : Mach) (ag : List (Nat × Instr)) (q : (Call × Nat × List (Nat × Nat)) × Nat) (f : Frame) : Prop :=
  f.src = x.c ∧ f.dst = q.1.2.1 ∧ f.hdr = headerBytes q.1.1.tid x.c q.1.1.spec q.1.1.tag q.1.2.2 ∧
    (∀ l, m0.span x.k (x.rowOf q.1.1) x.len false x.ring0 = .ok l → f.bytes = frameBytes f.hdr (m0.readSpan l)) ∧
    (x.now + 8 + hops x.c f.dst + frameLen x.len / 128 * (q.2 + 1), .frameArrival f.id) ∈ ag

section
variable {x : Sending} {m m0 : Mach} (hmap : m.SameMap m0) (herr : ∀ k, m0.rowError k = none) (f : (Call × Nat × List (Nat × Nat)) × Nat)
include hmap herr

theorem Mach.sendFrame_eq : m.sendFrame x f = ({ m.bump with frames := m.frames ++ [x.frame m f] }).post
    (x.now + 8 + hops x.c f.1.2.1 + frameLen x.len / 128 * (f.2 + 1)) (.frameArrival m.nextId) := by
  have herr' : ∀ k, m.rowError k = none := fun k => (hmap.rowError k).trans (herr k)
  rw [Mach.sendFrame, Mach.countErrors_of_no_error herr', Mach.noteUE_of_no_error herr']
  rfl
theorem Sending.sent_frame : x.Sent m0 (m.sendFrame x f).agenda f (x.frame m f) := by
  refine ⟨rfl, rfl, rfl, fun l hl => ?_, ?_⟩
  · rw [Sending.frame, Sending.rows, hmap.span, hl, ← hmap.readSpan]
  · rw [Mach.sendFrame_eq hmap herr]
    exact mem_agendaAdd.2 (.inl rfl)
end

/-- The frames of a DISP: one for each record and cluster, in order, and nothing else changes but the agenda and the numbers. -/
theorem Mach.sendFrames_spec (x : Sending) {m0 : Mach} (herr : ∀ k, m0.rowError k = none) (l : List ((Call × Nat × List (Nat × Nat)) × Nat)) :
    ∀ m : Mach, m.SameMap m0 → let t := l.foldl (Mach.sendFrame x) m
      t.mem = m.mem ∧ t.hands = m.hands ∧ t.disps = m.disps ∧ (∀ p ∈ m.agenda, p ∈ t.agenda) ∧
      ∃ new : List Frame, t.frames = m.frames ++ new ∧ new.length = l.length ∧ ∀ (i : Nat) q f, l[i]? = some q → new[i]? = some f → x.Sent m0 t.agenda q f := by
  induction l with
  | nil => exact fun m _ => ⟨rfl, rfl, rfl, fun p hp => hp, [], by simp, rfl, fun i q f hq => by simp at hq⟩
  | cons a l ih =>
    intro m hmap t
    have heq := Mach.sendFrame_eq (x := x) hmap herr a
    have hmap' : (m.sendFrame x a).SameMap m0 := by rw [heq]; exact ⟨hmap.mem, hmap.ctxs, hmap.dev, hmap.clPart⟩
    obtain ⟨hmem, hhands, hdisps, hag, new, hframes, hlen, hall⟩ := ih _ hmap'
    refine ⟨hmem.trans (by rw [heq]; rfl), hhands.trans (by rw [heq]; rfl), hdisps.trans (by rw [heq]; rfl),
      fun p hp => hag p (by rw [heq]; exact mem_agendaAdd.2 (.inr hp)), x.frame m a :: new, ?_, by simp [hlen], fun i q f hq hf => ?_⟩
    · refine hframes.trans ?_
      rw [heq]
      exact List.append_assoc ..
    · cases i with
      | zero =>
        obtain rfl := Option.some.inj hq
        obtain rfl := Option.some.inj hf
        obtain ⟨hsrc, hdst, hhdr, hbytes, harrive⟩ := Sending.sent_frame (x := x) hmap herr a
        exact ⟨hsrc, hdst, hhdr, hbytes, hag _ harrive⟩
      | succ i => exact hall i q f hq hf

/-- Calls counted leave the registers of a cluster. -/
theorem Cluster.countCalls_cr (now k : Nat) (recs : List Call) (x : Cluster) :
    (recs.foldl (fun z q => if q.spec then z else q.experts.foldl (fun z e => z.countCall now k e) z) x).cr = x.cr := by
  refine List.foldlRecOn (motive := fun z : Cluster => z.cr = x.cr) _ _ rfl fun z hz q _ => ?_
  split
  · exact hz
  · refine List.foldlRecOn (motive := fun z : Cluster => z.cr = x.cr) _ _ hz fun z hz e _ => ?_
    obtain ⟨n, cn, t, heq⟩ := z.countCall_eq now k e
    rw [heq]; exact hz

/-- A frame that a record sends: the record, the cluster, and the pairs bound for it. -/
abbrev Sendings := List (Call × Nat × List (Nat × Nat))

/-- The machine with a DISP issued and its result reserved. -/
abbrev dispTaken (s : State) (w : VVV) : Mach :=
  (s.took .m w.hdr (predSources w)).issueResult s.cur [.queue w.d.toNat 0] 0 (pushFifo .m w.hdr.push) 0 false false
/-- When the last frame of a DISP can have been filed (13 R259). -/
abbrev dispEarliest (s : State) (fs : Sendings) : Nat :=
  s.tb + 8 + fs.foldl (fun t f => max t (hops (clusterOf s.cur) f.2.1)) 0 + frameLen s.ctx.dlen / 128 * fs.length
/-- The machine of a DISP before its frames are sent: its record kept, its calls counted. -/
def dispBegun (s : State) (w : VVV) (recs : List Call) (fs : Sendings) : Mach :=
  let m := dispTaken s w
  let dr : DispRec := { id := m.nextId, hand := s.cur, ctx := s.hand.ctx, frames := fs.length, left := fs.length,
                        pairs := (recs.map (·.n)).foldl (· + ·) 0, res := m.lastId, earliest := dispEarliest s fs }
  (({ m.bump with disps := m.disps ++ [dr] }).modHand s.cur (fun h => { h with disps := h.disps + 1 })).modCluster (clusterOf s.cur)
    (fun z => recs.foldl (fun z (q : Call) => if q.spec then z else q.experts.foldl (fun z e => z.countCall s.tb s.hand.ctx e) z) z)

section
variable (s : State) (w : VVV) (recs : List Call) (fs : Sendings)

theorem dispBegun_sameMap : (dispBegun s w recs fs).SameMap s.m := by
  refine (Mach.SameMap.modCluster _ _ fun x => Cluster.countCalls_cr s.tb s.hand.ctx recs x).trans ?_
  exact ⟨rfl, rfl, rfl, rfl⟩
theorem dispBegun_disps : ((dispBegun s w recs fs).hand s.cur).disps = s.hand.disps + 1 := by
  have hhand : ((dispTaken s w).hand s.cur).disps = s.hand.disps :=
    ((s.took_sameBeside .m w.hdr (predSources w)).trans (Mach.issueResult_hand ..)).disps
  rw [dispBegun, Mach.modCluster_hand_get, Mach.modHand_hand_get, if_pos rfl, ← hhand]
  rfl
end

theorem exec_disp_issues (s : State) (w : VVV) : let os : List Opnd := predSources w
    let c := clusterOf s.cur
    let e := operand s .m os 1
    let base : W64 := BitVec.ofNat 64 (e.toNat % 2 ^ 64)
    let recs := (callsOf (operand s .m os 0)).filter (fun c => c.n != 0)
    let len := s.ctx.dlen
    let row := fun (q : Call) => base + BitVec.ofInt 64 (((q.tid : Int) - (lane e 3).toNat) * (lane e 2).toInt)
    let fs := recs.flatMap (fun q => (s.cluster.framesFor s.hand.ctx q).map (fun f => (q, f)))
    Sources s .m os [w.d.toNat] → 0 < len → base.toNat / 2 ^ 23 % 2 ^ 7 = c → base.toNat < 2 ^ 63 → (lane e 2).toNat % 4 = 0 →
    e.toNat < 2 ^ 128 → (∀ q ∈ recs, q.zero = 0 ∧ q.flags < 2 ∧ (q.spec = false → q.tag = 0) ∧ q.badIds = false ∧
      (∀ x ∈ q.experts, (s.cluster.expert s.hand.ctx x).getLsbD 15 = true) ∧ (row q).toNat % 4 = 0 ∧
      s.m.spanStop s.cur (row q) len false = none) → s.m.phase s.cur = true → s.hand.disps < 8 → MayIssue s .m (.disp w) w.hdr →
    (∀ k, s.m.rowError k = none) →
    ∃ (m : Mach) (new : List Frame), exec (.disp w) s = s.goes m ∧ m.mem = s.m.mem ∧ m.frames = s.m.frames ++ new ∧
      new.length = fs.length ∧ (m.hand s.cur).disps = s.hand.disps + 1 ∧ m.disps.length = s.m.disps.length + 1 ∧
      (∀ i q f l, fs[i]? = some q → new[i]? = some f → s.m.span s.hand.ctx (row q.1) len false (s.hand.ring == 0) = .ok l →
        f.src = c ∧ f.dst = q.2.1 ∧ f.hdr = headerBytes q.1.tid c q.1.spec q.1.tag q.2.2 ∧
        f.bytes = frameBytes f.hdr (s.m.readSpan l) ∧
        (s.tb + 8 + hops c f.dst + frameLen len / 128 * (i + 1), .frameArrival f.id) ∈ m.agenda) := by
  intro os c e base recs len row fs hsrc hlen hcluster hlow hstride hzero hrecs hphase hdisps hissue herr
  have hhead : (opValues s.hand .m os).headD 0 = operand s .m os 0 := opValues_headD s .m os
  have he : (opValues s.hand .m os).getD 1 0 = e := rfl
  have hbase : bits e 0 64 = base := (bits_zero_eq_ofNat e 64).trans (ofNat_mod_two_pow 64 _).symm
  have hrow : (fun q : Call => base + w64 (((q.tid : Int) - (lane e 3).toNat) * sext 32 (lane e 2).toNat)) = row := by
    funext q; rw [sext_toNat]; rfl
  set x : Sending := ⟨s.tb, s.cur, s.hand.ctx, c, (dispTaken s w).nextId, len, s.hand.em.iseq + 1, s.hand.ring == 0, row⟩ with hx
  have hexec : exec (.disp w) s = s.goes (if fs.isEmpty
      then (fs.zipIdx.foldl (Mach.sendFrame x) (dispBegun s w recs fs)).post (dispEarliest s fs) (.dispComplete (dispTaken s w).nextId)
      else fs.zipIdx.foldl (Mach.sendFrame x) (dispBegun s w recs fs)) := by
    refine (congrArg Host.Outcome.next (runWord_issues hissue rfl (Nat.zero_le _) ?_)).trans ?_
    · refine (queueOwn_of_sources hsrc _).trans (firstStop_eq_none.2 ?_)
      dsimp only
      rw [hhead, he, hbase]
      have hbad : ((s.ctx.dlen == 0 || bit base 63 || sliceCluster base != c || (lane e 2).toNat % 4 != 0 || bits e 128 896 != 0)
          || recs.any (fun q => q.zero != 0 || q.flags / 2 != 0 || (!q.spec && q.tag != 0) || q.badIds
            || q.experts.any (fun x => !bit (s.cluster.expert s.hand.ctx x) 15))) = false := by
        have hfield : bits e 128 896 = 0 := BitVec.eq_of_toNat_eq (by rw [bits_toNat, Nat.div_eq_of_lt hzero, Nat.zero_mod]; simp)
        have hslice : bit base 63 = false := by
          rw [bit_eq_decide, Nat.div_eq_of_lt hlow]; rfl
        have hc : sliceCluster base = c := (bits_toNat base 23 7).trans hcluster
        have hrec : recs.any (fun q => q.zero != 0 || q.flags / 2 != 0 || (!q.spec && q.tag != 0) || q.badIds
            || q.experts.any (fun x => !bit (s.cluster.expert s.hand.ctx x) 15)) = false := by
          refine List.any_eq_false.2 fun q hq => ?_
          obtain ⟨hz, hflags, htag, hids, hvalid, -, -⟩ := hrecs q hq
          have hex : q.experts.any (fun x => !bit (s.cluster.expert s.hand.ctx x) 15) = false :=
            List.any_eq_false.2 fun x hx => by simpa [bit] using hvalid x hx
          have hf : q.flags / 2 = 0 := Nat.div_eq_of_lt hflags
          rw [hz, hf, hids, hex]
          cases hspec : q.spec
          · simp [htag hspec]
          · simp
        have hlen0 : (s.ctx.dlen == 0) = false := by simpa using hlen.ne'
        rw [hfield, hslice, hc, hrec, hstride, hlen0]
        simp
      have hplaced : ∀ o ∈ recs.flatMap (fun q => [trapIf ((row q).toNat % 4 != 0) 6 0 [row q], s.m.spanStop s.cur (row q) len false]),
          o = none := by
        intro o ho
        obtain ⟨q, hq, ho⟩ := List.mem_flatMap.1 ho
        obtain ⟨-, -, -, -, -, halign, hspan⟩ := hrecs q hq
        rcases List.mem_pair.1 ho with rfl | rfl
        · exact trapIf_eq_none.2 (by simpa using halign)
        · exact hspan
      rw [← hrow] at hplaced
      simp only [List.forall_mem_append, List.forall_mem_cons, List.not_mem_nil, false_imp_iff, implies_true, and_true]
      refine ⟨⟨trapIf_eq_none.2 hbad, hplaced⟩, trapIf_eq_none.2 (by rw [hphase]; rfl), freezeIf_eq_none.2 (by simpa using hdisps)⟩
    · dsimp only
      rw [hhead, he, hbase, hx, ← hrow]
      rfl
  obtain ⟨hmem, hhands, hdispsLen, -, new, hframes, hcount, hall⟩ := Mach.sendFrames_spec x herr fs.zipIdx (dispBegun s w recs fs)
    (dispBegun_sameMap s w recs fs)
  have hcount' : new.length = fs.length := by rw [hcount, List.length_zipIdx]
  have hsent : ∀ (i : Nat) q f l, fs[i]? = some q → new[i]? = some f → s.m.span s.hand.ctx (row q.1) len false (s.hand.ring == 0) = .ok l →
        f.src = c ∧ f.dst = q.2.1 ∧ f.hdr = headerBytes q.1.tid c q.1.spec q.1.tag q.2.2 ∧
        f.bytes = frameBytes f.hdr (s.m.readSpan l) ∧ (s.tb + 8 + hops c f.dst + frameLen len / 128 * (i + 1), .frameArrival f.id) ∈
          (fs.zipIdx.foldl (Mach.sendFrame x) (dispBegun s w recs fs)).agenda := by
    intro i q f l hq hf hl
    obtain ⟨hsrc, hdst, hhdr, hbytes, harrive⟩ := hall i (q, i) f (by simp [List.getElem?_zipIdx, hq]) hf
    exact ⟨hsrc, hdst, hhdr, hbytes l hl, harrive⟩
  have hfields : (fs.zipIdx.foldl (Mach.sendFrame x) (dispBegun s w recs fs)).disps.length = s.m.disps.length + 1 := by
    rw [hdispsLen]; exact List.length_append
  have hhand : ((fs.zipIdx.foldl (Mach.sendFrame x) (dispBegun s w recs fs)).hand s.cur).disps = s.hand.disps + 1 := by
    rw [Mach.hand, hhands]; exact dispBegun_disps s w recs fs
  by_cases hempty : fs.isEmpty = true
  · rw [if_pos hempty] at hexec
    refine ⟨_, new, hexec, hmem, hframes, hcount', hhand, hfields, fun i q f l hq hf hl => ?_⟩
    rw [List.isEmpty_iff.1 hempty] at hq
    simp at hq
  · rw [if_neg hempty] at hexec
    exact ⟨_, new, hexec, hmem, hframes, hcount', hhand, hfields, hsent⟩

/-- Settles O43: each word by its checks and its issue, DISP by induction on the frames it sends, and the events of frames case by case. -/
theorem routing : Obligations.Routing :=
  ⟨exec_rsnap_issues, exec_emaps_issues, fun _ _ _ _ hfind => ⟨emapUpdate_of_landed hfind, emapUpdate_of_not_landed hfind⟩, exec_disp_issues,
    fun _ _ _ => frameArrival_spec, Mach.filePair_spec, heldFrameResume_spec, dispComplete_spec⟩

end Sys2Proof.Machine
end

section
/-! PROOFS. Far writes and reads (15 R284 to R286). -/

namespace Sys2Proof.Machine

/-! ## A route that ends at a cluster past the address space -/

/-- A hand of cluster 2^40, which no package has. The slice address of that cluster has bit 63 set, so that it is a virtual address: its
page is in the translation cache, while the tables of the context, all zero, map nothing. -/
def pastTheMesh : State :=
  { cur := 2 ^ 43, tb := 100,
    m := { hands := [(2 ^ 43, { ctx := 1, thread := true, a := [(1, 4096)] })],
           clusters := [(2 ^ 40, { tc := [⟨1, 0, 16, 0x30000, true, true⟩] })],
           ctxs := [(1, { live := true, cr := [(0x100, 1), (0x110, 0x1000000000)] })] } }

/-- FRD of the slice offset 4,096 along the empty route, which ejects in the hand's own cluster. -/
def readAtHome : AF := ⟨⟨0, 0, 0⟩, 9, 1, 0⟩

/-- How many accesses the queues of its hand hold after an instruction. -/
def accessesAfter (i : Instr) (s : State) : Option Nat :=
  match exec i s with
  | .next t => some (t.m.hand s.cur).accs.length
  | _ => none

/-- The cached page gives the address a key, but check 5 of 15 R285 walks the tables and stops. -/
theorem accessesAfter_readAtHome : accessesAfter (.frd readAtHome) pastTheMesh = some 0 := by decide +kernel

/-- Refutes O30: nothing in it bounds the hand, and past cluster 2^40 the slice address of a route's end is a virtual one, which the
translation cache may map although the tables do not; FRD then traps where the statement has it enter the load queue. -/
theorem not_farAccesses : ¬ Obligations.FarAccesses := by
  unfold Obligations.FarAccesses
  rintro ⟨hslice, -⟩
  obtain ⟨-, hread⟩ := hslice pastTheMesh readAtHome (2 ^ 40) (by decide) (by decide) (by decide) (by decide) (by decide)
  have hexec := hread ⟨_, rfl⟩ (by decide) (by decide) (by decide)
  have hafter := accessesAfter_readAtHome
  rw [accessesAfter, hexec] at hafter
  exact absurd hafter (by decide)

end Sys2Proof.Machine
end

section
/-! PROOFS. Power events and grants of coolant change nothing else; boost leases (20 R381, R386 to R388, R393). -/

namespace Sys2Proof.Machine

/-! ## What an event of a partition's queue leaves (20 R393) -/

/-- Machines with the same hands and clusters have the same leases. -/
theorem Mach.leaseLevel_congr {m t : Mach} (hhands : t.hands = m.hands) (hclusters : t.clusters = m.clusters) (p : Nat) :
    t.leaseLevel p = m.leaseLevel p := by
  unfold Mach.leaseLevel Mach.clPart Mach.cluster
  rw [hhands, hclusters]

/-- `t` is `m` but for memory, the machine's stop, and the event queues of the partitions. -/
structure Mach.Reports (m t : Mach) : Prop where
  hands : t.hands = m.hands
  clusters : t.clusters = m.clusters
  ctxs : t.ctxs = m.ctxs
  dev : t.dev = m.dev
  agenda : t.agenda = m.agenda
  active : t.active = m.active
  freeN : t.freeN = m.freeN
  part : ∀ q, ∃ w l, t.part q = { m.part q with pevqw := w, lostEv := l }

namespace Mach.Reports
variable {m t : Mach}

theorem refl (m : Mach) : m.Reports m := ⟨rfl, rfl, rfl, rfl, rfl, rfl, rfl, fun _ => ⟨_, _, rfl⟩⟩
theorem trans {m1 m2 m3 : Mach} (h : m1.Reports m2) (h' : m2.Reports m3) : m1.Reports m3 :=
  ⟨h'.hands.trans h.hands, h'.clusters.trans h.clusters, h'.ctxs.trans h.ctxs, h'.dev.trans h.dev, h'.agenda.trans h.agenda,
    h'.active.trans h.active, h'.freeN.trans h.freeN, fun q => by
      obtain ⟨w, l, hq⟩ := h.part q
      obtain ⟨w', l', hq'⟩ := h'.part q
      exact ⟨w', l', by rw [hq', hq]⟩⟩

theorem pokePhys (m : Mach) (pa : Nat) (bs : List Byte) : m.Reports (m.pokePhys pa bs) := by
  unfold Mach.pokePhys
  split <;> exact ⟨rfl, rfl, rfl, rfl, rfl, rfl, rfl, fun _ => ⟨_, _, rfl⟩⟩
theorem setPart (m : Mach) (p w l : Nat) : m.Reports (m.setPart p { m.part p with pevqw := w, lostEv := l }) := by
  refine ⟨rfl, rfl, rfl, rfl, rfl, rfl, rfl, fun q => ?_⟩
  rw [Mach.setPart_part_get]
  split
  · next h => subst h; exact ⟨_, _, rfl⟩
  · exact ⟨_, _, rfl⟩
theorem powerEvent (m : Mach) (now p ty old new zone : Nat) (who : Option Nat) (datum : Nat) :
    m.Reports (m.powerEvent now p ty old new zone who datum) := by
  unfold Mach.powerEvent
  dsimp only
  split
  · exact setPart m p (m.part p).pevqw _
  · exact (setPart m p _ _).trans (pokePhys _ _ _)
theorem leaseEvent (m : Mach) (now r ty old new left : Nat) : m.Reports (m.leaseEvent now r ty old new left) := powerEvent ..
theorem zoneEvent (m : Mach) (now z ty old new : Nat) : m.Reports (m.zoneEvent now z ty old new) := by
  unfold Mach.zoneEvent
  dsimp only
  split
  · exact powerEvent ..
  · exact refl m

theorem hand (h : m.Reports t) (r : Nat) : t.hand r = m.hand r := by rw [Mach.hand, h.hands, Mach.hand]
theorem cluster (h : m.Reports t) (c : Nat) : t.cluster c = m.cluster c := by rw [Mach.cluster, h.clusters, Mach.cluster]
theorem zone (h : m.Reports t) (z : Nat) : t.zone z = m.zone z := by rw [Mach.zone, h.dev, Mach.zone]
theorem clPart (h : m.Reports t) : t.clPart = m.clPart := funext fun c => by rw [Mach.clPart, h.cluster, Mach.clPart]
theorem leaseLevel (h : m.Reports t) (p : Nat) : t.leaseLevel p = m.leaseLevel p := Mach.leaseLevel_congr h.hands h.clusters p
theorem base (h : m.Reports t) (q : Nat) : (t.part q).base = (m.part q).base := by
  obtain ⟨w, l, hq⟩ := h.part q
  rw [hq]
theorem eff (h : m.Reports t) (q : Nat) : (t.part q).eff = (m.part q).eff := by
  obtain ⟨w, l, hq⟩ := h.part q
  rw [hq]
theorem throttle (h : m.Reports t) (q : Nat) : (t.part q).throttle = (m.part q).throttle := by
  obtain ⟨w, l, hq⟩ := h.part q
  rw [hq]
theorem rpMode (h : m.Reports t) (q : Nat) : (t.part q).rpMode = (m.part q).rpMode := by
  obtain ⟨w, l, hq⟩ := h.part q
  rw [hq]
  rfl
end Mach.Reports

/-! ## What new grants leave (20 R387) -/

/-- The openings that new grants give the zones, zone 0 first. -/
def Mach.grants (m : Mach) : List Nat :=
  let fs := (List.range 64).map m.zoneWant
  if (fs.map (·.2)).sum ≤ 8160 then fs.map (·.2) else let b := bestScale fs; scaleGrants fs b.1 b.2

theorem Mach.regrant_eq (m : Mach) : m.regrant = m.grants.zipIdx.foldl (fun m g => m.modZone g.2 (fun x => { x with grant := g.1 })) m := rfl

/-- Nothing but the zones of the device changes, and of a zone nothing but its grant. -/
theorem Mach.regrant_frame (m : Mach) : ∃ zs, m.regrant = m.modDev (fun d => { d with zones := zs }) ∧
    ∀ z, ∃ g, m.regrant.zone z = { m.zone z with grant := g } := by
  rw [Mach.regrant_eq]
  refine List.foldlRecOn (motive := fun t : Mach => ∃ zs, t = m.modDev (fun d => { d with zones := zs }) ∧
    ∀ z, ∃ g, t.zone z = { m.zone z with grant := g }) _ _ ⟨m.dev.zones, rfl, fun z => ⟨_, rfl⟩⟩ ?_
  rintro t ⟨zs, rfl, hzone⟩ g -
  refine ⟨_, rfl, fun z => ?_⟩
  rw [Mach.modZone_zone_get]
  split
  · next h =>
    subst h
    obtain ⟨w, hw⟩ := hzone g.2
    exact ⟨_, by rw [hw]⟩
  · exact hzone z

section
variable (m : Mach)
@[simp] theorem Mach.regrant_hands : m.regrant.hands = m.hands := by obtain ⟨zs, h, -⟩ := m.regrant_frame; rw [h]; rfl
@[simp] theorem Mach.regrant_clusters : m.regrant.clusters = m.clusters := by obtain ⟨zs, h, -⟩ := m.regrant_frame; rw [h]; rfl
@[simp] theorem Mach.regrant_parts : m.regrant.parts = m.parts := by obtain ⟨zs, h, -⟩ := m.regrant_frame; rw [h]; rfl
@[simp] theorem Mach.regrant_freeN : m.regrant.freeN = m.freeN := by obtain ⟨zs, h, -⟩ := m.regrant_frame; rw [h]; rfl
@[simp] theorem Mach.regrant_agenda : m.regrant.agenda = m.agenda := by obtain ⟨zs, h, -⟩ := m.regrant_frame; rw [h]; rfl
@[simp] theorem Mach.regrant_part_get (p : Nat) : m.regrant.part p = m.part p := by rw [Mach.part, Mach.regrant_parts, Mach.part]
@[simp] theorem Mach.regrant_cluster_get (c : Nat) : m.regrant.cluster c = m.cluster c := by rw [Mach.cluster, Mach.regrant_clusters, Mach.cluster]
@[simp] theorem Mach.regrant_leaseLevel (p : Nat) : m.regrant.leaseLevel p = m.leaseLevel p :=
  Mach.leaseLevel_congr m.regrant_hands m.regrant_clusters p
end

/-! ## The level of a partition (20 R381) -/

section
variable (m : Mach) (now p : Nat)

theorem Mach.setLevel_cases : m.setLevel now p = m ∧ (m.part p).eff = max (m.part p).base (m.leaseLevel p) ∨
    ∃ old, m.setLevel now p = m.setPart p { m.part p with
      effOld := old, effT := now + 1, eff := max (m.part p).base (m.leaseLevel p) } := by
  unfold Mach.setLevel
  dsimp only
  split
  · next h => exact .inl ⟨rfl, h.symm⟩
  · exact .inr ⟨_, rfl⟩
@[simp] theorem Mach.setLevel_hands : (m.setLevel now p).hands = m.hands := by
  rcases m.setLevel_cases now p with ⟨h, -⟩ | ⟨old, h⟩ <;> rw [h]
  rfl
@[simp] theorem Mach.setLevel_clusters : (m.setLevel now p).clusters = m.clusters := by
  rcases m.setLevel_cases now p with ⟨h, -⟩ | ⟨old, h⟩ <;> rw [h]
  rfl
theorem Mach.setLevel_eff : ((m.setLevel now p).part p).eff = max (m.part p).base (m.leaseLevel p) := by
  rcases m.setLevel_cases now p with ⟨h, heff⟩ | ⟨old, h⟩ <;> rw [h]
  · exact heff
  · rw [Mach.setPart_part_get, if_pos rfl]
theorem Mach.setLevel_base : ((m.setLevel now p).part p).base = (m.part p).base := by
  rcases m.setLevel_cases now p with ⟨h, -⟩ | ⟨old, h⟩ <;> rw [h]
  rw [Mach.setPart_part_get, if_pos rfl]
theorem Mach.setLevel_rpMode : ((m.setLevel now p).part p).rpMode = (m.part p).rpMode := by
  rcases m.setLevel_cases now p with ⟨h, -⟩ | ⟨old, h⟩ <;> rw [h]
  rw [Mach.setPart_part_get, if_pos rfl]
  rfl
theorem Mach.setLevel_throttle : ((m.setLevel now p).part p).throttle = (m.part p).throttle := by
  rcases m.setLevel_cases now p with ⟨h, -⟩ | ⟨old, h⟩ <;> rw [h]
  rw [Mach.setPart_part_get, if_pos rfl]
end

/-! ## Leases (20 R386) -/

/-- A hand without a lease. -/
def Hand.noLease (h : Hand) : Hand := { h with boostSt := 0, boostLvl := 0, boostEnd := 0, boostLeft := 0, boostAgain := false }

@[simp] theorem Mach.post_leaseLevel (m : Mach) (t : Nat) (i : Instr) (p : Nat) : (m.post t i).leaseLevel p = m.leaseLevel p := rfl

theorem Mach.mem_post_agenda (m : Mach) (t : Nat) (i : Instr) : (t, i) ∈ (m.post t i).agenda := mem_agendaAdd.2 (.inl rfl)

theorem boostStop_eq_none_iff {m : Mach} {r : Nat} {v : W64} (hlvl : v.toNat % 2 ^ 3 ≠ 0) : m.boostStop r v = none ↔
    ¬(v.toNat % 2 ^ 3 ≤ (m.part (m.clPart (clusterOf r))).base ∨ v.toNat / 2 ^ 16 % 2 ^ 9 = 0 ∨ 500 < v.toNat / 2 ^ 16 % 2 ^ 9 ∨
      (m.hand r).boostSt = 1 ∨ (m.hand r).boostSt = 2 ∨ (m.hand r).boostSt = 3) := by
  unfold Mach.boostStop
  rw [trapIf_eq_none, bits_zero_toNat, bits_toNat]
  simp only [bne_iff_ne.2 hlvl, Bool.true_and, Bool.or_eq_false_iff, decide_eq_false_iff_not, beq_eq_false_iff_ne, not_or, and_assoc]

/-- A lease over: the hand has none, and the level of its partition follows. -/
theorem endBoost_of_active {m : Mach} {now r ty : Nat} (hst : (m.hand r).boostSt = 2) :
    let p := m.clPart (clusterOf r)
    (m.endBoost now r ty).hands = m.hands.set r (m.hand r).noLease ∧
      ((m.endBoost now r ty).part p).eff = max (m.part p).base ((m.endBoost now r ty).leaseLevel p) ∧
      ((m.endBoost now r ty).part p).base = (m.part p).base := by
  intro p
  set freed := m.setHand r (m.hand r).noLease with hfreed
  have hend : m.endBoost now r ty = ((freed.setLevel now p).leaseEvent now r ty (m.hand r).boostLvl 0 0).regrant := by
    simp only [Mach.endBoost, hst, decide_true, Bool.true_or, if_true]
    rfl
  have hevent := Mach.Reports.leaseEvent (freed.setLevel now p) now r ty (m.hand r).boostLvl 0 0
  rw [hend, Mach.regrant_hands, Mach.regrant_part_get, Mach.regrant_leaseLevel, hevent.hands, hevent.eff, hevent.base, hevent.leaseLevel,
    Mach.setLevel_hands, Mach.setLevel_eff, Mach.setLevel_base,
    Mach.leaseLevel_congr (freed.setLevel_hands now p) (freed.setLevel_clusters now p)]
  exact ⟨rfl, rfl, rfl⟩

theorem logInput_of_not_recording {m : Mach} {p : Nat} (now kind : Nat) (who : Option Nat) (a b : W64) (hmode : (m.part p).rpMode ≠ 1) :
    m.logInput now p kind who a b = m := if_pos (bne_iff_ne.2 hmode)

/-- A due answer outside record and replay takes effect. -/
theorem exec_boostAnswer_due {s : State} {r : Nat} (g : Bool) (hst : (s.m.hand r).boostSt = 1) (hdue : (s.m.hand r).boostEnd ≤ s.tb)
    (hmode : (s.m.part (s.m.clPart (clusterOf r))).rpMode = 0) : exec (.boostAnswer r g) s = s.goes (s.m.boostAnswer s.tb r g) := by
  have hexec : exec (.boostAnswer r g) s = execBoostAnswer r g s := rfl
  simp [hexec, execBoostAnswer, runEvent, hst, Nat.not_lt.2 hdue, Part.logFull, Part.noRoom, hmode]

/-- The machine in which a hand has been refused a lease, or granted one, before the answer is logged. -/
def Mach.denied (m : Mach) (now r : Nat) : Mach := (m.setHand r { m.hand r with boostSt := 4 }).leaseEvent now r 3 0 (m.hand r).boostLvl 0
/-- The machine in which a lease has begun, before its expiry is due and its answer logged. -/
def Mach.leased (m : Mach) (now r : Nat) : Mach :=
  (((m.setHand r { m.hand r with boostSt := 2, boostEnd := now + (m.hand r).boostLeft }).setLevel now (m.clPart (clusterOf r))).leaseEvent now r 2 0
    (m.hand r).boostLvl (m.hand r).boostLeft).regrant

theorem denied_hands (m : Mach) (now r : Nat) : (m.denied now r).hands = m.hands.set r { m.hand r with boostSt := 4 } :=
  (Mach.Reports.leaseEvent ..).hands
theorem denied_rpMode (m : Mach) (now r p : Nat) : ((m.denied now r).part p).rpMode = (m.part p).rpMode :=
  (Mach.Reports.leaseEvent ..).rpMode p

theorem boostAnswer_denied {m : Mach} {r : Nat} (now : Nat) (hmode : (m.part (m.clPart (clusterOf r))).rpMode = 0) :
    m.boostAnswer now r false = m.denied now r := by
  have hlog : m.boostAnswer now r false =
      (m.denied now r).logInput now (m.clPart (clusterOf r)) 4 (some r) (((m.denied now r).hand r).boostst now) 0 := rfl
  rw [hlog, logInput_of_not_recording]
  rw [denied_rpMode, hmode]
  decide

theorem leased_spec (m : Mach) (now r : Nat) : let p := m.clPart (clusterOf r)
    let t := m.leased now r
    t.hands = m.hands.set r { m.hand r with boostSt := 2, boostEnd := now + (m.hand r).boostLeft } ∧
      (t.part p).eff = max (m.part p).base (t.leaseLevel p) ∧ (t.part p).rpMode = (m.part p).rpMode := by
  intro p t
  set held := m.setHand r { m.hand r with boostSt := 2, boostEnd := now + (m.hand r).boostLeft } with hheld
  have hevent := Mach.Reports.leaseEvent (held.setLevel now p) now r 2 0 (m.hand r).boostLvl (m.hand r).boostLeft
  have ht : t = ((held.setLevel now p).leaseEvent now r 2 0 (m.hand r).boostLvl (m.hand r).boostLeft).regrant := rfl
  rw [ht, Mach.regrant_hands, Mach.regrant_part_get, Mach.regrant_leaseLevel, hevent.hands, hevent.eff, hevent.rpMode, hevent.leaseLevel,
    Mach.setLevel_hands, Mach.setLevel_eff, Mach.setLevel_rpMode,
    Mach.leaseLevel_congr (held.setLevel_hands now p) (held.setLevel_clusters now p)]
  exact ⟨rfl, rfl, rfl⟩

theorem boostAnswer_leased {m : Mach} {r : Nat} (now : Nat) (hmode : (m.part (m.clPart (clusterOf r))).rpMode = 0)
    (haside : (m.hand r).aside = false) (hdrain : (m.hand r).draining = false) :
    m.boostAnswer now r true = (m.leased now r).post (now + (m.hand r).boostLeft) (.boostExpiry r) := by
  obtain ⟨-, -, hrp⟩ := leased_spec m now r
  have hlog : m.boostAnswer now r true =
      ((m.leased now r).post (now + (m.hand r).boostLeft) (.boostExpiry r)).logInput now (m.clPart (clusterOf r)) 4 (some r)
        ((((m.leased now r).post (now + (m.hand r).boostLeft) (.boostExpiry r)).hand r).boostst now) 0 := by
    unfold Mach.boostAnswer
    dsimp only
    rw [if_neg (by decide), if_neg (by simp [haside, hdrain])]
    rfl
  rw [hlog, logInput_of_not_recording]
  rw [Mach.post_part_get, hrp, hmode]
  decide

/-- A request that is refused changes nothing; any other waits for its answer. -/
theorem exec_boostRequest {s : State} {r : Nat} {v : W64} (hlvl : v.toNat % 2 ^ 3 ≠ 0) : exec (.boostRequest r v) s =
    if s.m.boostStop r v = none then
      s.goes ((s.m.modHand r (fun h =>
        { h with boostLvl := v.toNat % 2 ^ 3, boostLeft := 1050000 * (v.toNat / 2 ^ 16 % 2 ^ 9), boostAgain := false })).askBoost s.tb r)
    else s.goes s.m := by
  have hexec : exec (.boostRequest r v) s = execBoostRequest r v s := rfl
  rw [hexec, execBoostRequest, runEvent]
  rcases hstop : s.m.boostStop r v with _ | st
  · have hwrite : ¬(bits v 0 3).toNat = 0 := by rwa [bits_zero_toNat]
    simp only [Option.isSome_none, Bool.false_eq_true, if_false, if_true, Mach.boostWrite, if_neg hwrite]
    rw [bits_zero_toNat, bits_toNat]
  · rfl

theorem exec_boostExpiry_due {s : State} {r : Nat} (hst : (s.m.hand r).boostSt = 2) (hend : (s.m.hand r).boostEnd ≤ s.tb) :
    exec (.boostExpiry r) s = s.goes (s.m.endBoost s.tb r 4) := by
  have hexec : exec (.boostExpiry r) s = execBoostExpiry r s := rfl
  simp [hexec, execBoostExpiry, runEvent, hst, Nat.not_lt.2 hend]
theorem exec_boostWithdraw (s : State) (r : Nat) : exec (.boostWithdraw r) s = s.goes (s.m.endBoost s.tb r 4) := rfl

/-- Settles O50: a request by the values that are refused, a lease's end by `endBoost_of_active`, an answer by what it leaves. -/
theorem boostLeases : Obligations.BoostLeases := by
  refine ⟨fun s r v => ?_, fun s r => ?_, fun s r i => ?_, fun s r => ?_, fun s r g => ?_⟩
  · dsimp only
    intro hlvl
    rw [exec_boostRequest hlvl]
    refine ⟨fun hbad => if_neg fun h => (boostStop_eq_none_iff hlvl).1 h hbad, fun hbase hmin hmax hst => ?_⟩
    rw [if_pos ((boostStop_eq_none_iff hlvl).2 (by omega))]
    refine ⟨_, rfl, rfl, ?_, rfl⟩
    simp [Mach.askBoost, Mach.modHand, Mach.setHand, Mach.hand]
  · intro h h2 h3
    rw [exec_boostWithdraw]
    simp [Mach.endBoost, show (s.m.hand r).boostSt ≠ 2 from h2, show (s.m.hand r).boostSt ≠ 3 from h3]
    rfl
  · intro h p hst hend hi
    have hgo : exec i s = s.goes (s.m.endBoost s.tb r 4) := by
      rcases List.mem_pair.1 hi with rfl | rfl
      · exact exec_boostWithdraw s r
      · exact exec_boostExpiry_due hst hend
    exact ⟨_, hgo, endBoost_of_active hst⟩
  · intro hno
    have hexec : exec (.boostExpiry r) s = execBoostExpiry r s := rfl
    rw [hexec, execBoostExpiry, runEvent]
    dsimp only
    rw [if_pos (by simpa using hno)]
  · intro h p
    refine ⟨fun hst => ?_, fun hst hdue hmode => ⟨?_, fun haside hdrain => ?_⟩⟩
    · have hexec : exec (.boostAnswer r g) s = execBoostAnswer r g s := rfl
      rw [hexec, execBoostAnswer, runEvent]
      dsimp only
      rw [if_pos (by simpa using .inl hst)]
    · rw [exec_boostAnswer_due false hst hdue hmode]
      exact ⟨_, rfl, boostAnswer_denied s.tb hmode ▸ denied_hands ..⟩
    · obtain ⟨hhands, heff, -⟩ := leased_spec s.m s.tb r
      rw [exec_boostAnswer_due true hst hdue hmode, boostAnswer_leased s.tb hmode haside hdrain]
      refine ⟨_, rfl, ?_, ?_, Mach.mem_post_agenda ..⟩
      · rw [Mach.post_hands, hhands]
      · rw [Mach.post_part_get, Mach.post_leaseLevel, heff]

end Sys2Proof.Machine
end

section
/-! PROOFS. What discarded commands leave (11 R228, R235), zones whose bands are forced, and evacuation (20 R389, R392). -/

namespace Sys2Proof.Machine

/-! ## Commands discarded: the device, memory and the bands stay -/

/-- `t` has the device, the active hands and the free values of `m`. -/
structure Mach.SameDev (m t : Mach) : Prop where
  dev : t.dev = m.dev
  active : t.active = m.active
  freeN : t.freeN = m.freeN
/-- It has also the memory of `m` and the bands of every cluster. -/
structure Mach.SameBands (m t : Mach) : Prop extends Mach.SameDev m t where
  mem : t.mem = m.mem
  bands : ∀ c, (t.cluster c).bands = (m.cluster c).bands

namespace Mach.SameDev
variable {m t : Mach}
theorem refl (m : Mach) : m.SameDev m := ⟨rfl, rfl, rfl⟩
theorem trans {m1 m2 m3 : Mach} (h : m1.SameDev m2) (h' : m2.SameDev m3) : m1.SameDev m3 :=
  ⟨h'.dev.trans h.dev, h'.active.trans h.active, h'.freeN.trans h.freeN⟩
theorem zone (h : m.SameDev t) (z : Nat) : t.zone z = m.zone z := by rw [Mach.zone, h.dev, Mach.zone]
theorem zoneOf (h : m.SameDev t) (c : Nat) : t.zoneOf c = m.zoneOf c := by unfold Mach.zoneOf Mach.physOf; rw [h.dev]
theorem zoneClusters (h : m.SameDev t) (z : Nat) : t.zoneClusters z = m.zoneClusters z := by
  unfold Mach.zoneClusters
  simp only [h.zoneOf]
end Mach.SameDev

theorem Mach.Reports.sameDev {m t : Mach} (h : m.Reports t) : m.SameDev t := ⟨h.dev, h.active, h.freeN⟩

namespace Mach.SameBands
theorem refl (m : Mach) : m.SameBands m := ⟨.refl m, rfl, fun _ => rfl⟩
theorem trans {m1 m2 m3 : Mach} (h : m1.SameBands m2) (h' : m2.SameBands m3) : m1.SameBands m3 :=
  ⟨h.toSameDev.trans h'.toSameDev, h'.mem.trans h.mem, fun c => (h'.bands c).trans (h.bands c)⟩
/-- A change of a cluster beside its bands. -/
theorem modCluster (m : Mach) (c : Nat) {f : Cluster → Cluster} (hf : ∀ x, (f x).bands = x.bands) : m.SameBands (m.modCluster c f) :=
  ⟨⟨rfl, rfl, rfl⟩, rfl, fun j => by
    rw [Mach.modCluster_cluster_get]
    split
    · next h => rw [hf, h]
    · rfl⟩
/-- A run of changes that each leave the bands. -/
theorem foldl {α : Type} (f : Mach → α → Mach) (hf : ∀ (m : Mach) a, m.SameBands (f m a)) (l : List α) (m : Mach) : m.SameBands (l.foldl f m) :=
  List.foldlRecOn (motive := m.SameBands) l f (refl m) fun t h a _ => h.trans (hf t a)

variable (m : Mach)

theorem modHand (r : Nat) (f : Hand → Hand) : m.SameBands (m.modHand r f) := ⟨⟨rfl, rfl, rfl⟩, rfl, fun _ => rfl⟩
theorem recordFault (r : Nat) (f : FaultRec) : m.SameBands (m.recordFault r f) := modHand ..
theorem diverge (p index : Nat) : m.SameBands (m.diverge p index) := by
  unfold Mach.diverge
  split
  · exact refl m
  · exact SameBands.trans (m2 := m.modPart p (fun x => { x with rpstat := 1 })) ⟨⟨rfl, rfl, rfl⟩, rfl, fun _ => rfl⟩
      (foldl _ (fun t r => recordFault t r _) _ _)
theorem noteFault (r : Nat) (f : FaultRec) : m.SameBands (m.noteFault r f) := by
  unfold Mach.noteFault
  split
  · unfold Mach.outsideFault
    dsimp only
    split
    · exact recordFault ..
    · split
      · exact modHand m r (fun h => { h with injected := h.injected.erase f.cause })
      · split
        · exact modHand m r (fun h => { h with live := h.live ++ [f] })
        · exact diverge ..
  · exact recordFault ..
theorem post (t : Nat) (i : Instr) : m.SameBands (m.post t i) := ⟨⟨rfl, rfl, rfl⟩, rfl, fun _ => rfl⟩
theorem putCmd (c : Nat) (d : Cmd) : m.SameBands (m.putCmd c d) := modCluster _ _ fun _ => rfl
theorem armCmds (now c : Nat) : m.SameBands (m.armCmds now c) :=
  Mach.armCmds_induct (P := m.SameBands) now c (refl m) fun t d at_ i _ h =>
    (h.trans (putCmd t c { d with armed := true, startT := at_ })).trans (post _ at_ i)
theorem freeSptes (c : Nat) : m.SameBands (m.freeSptes c) :=
  foldl (fun (t : Mach) (p : Nat × Spte) => t.modCluster c (fun x => x.spteFree p.1)) (fun t p => modCluster t c fun x => by
    obtain ⟨spt, n, h⟩ := x.spteFree_eq p.1
    rw [h]) _ m
theorem dropCmds (c : Nat) (p : Cmd → Bool) : m.SameBands (m.dropCmds c p) := by
  refine SameBands.trans ?_ (foldl (fun (t : Mach) (d : Cmd) => t.modHand d.hand _) (fun t d => modHand ..) _ _)
  refine SameBands.trans ?_ (freeSptes _ c)
  exact modCluster _ _ fun _ => rfl
theorem dropSaved (c : Nat) (p : Cmd → Bool) (cause reason : Nat) : m.SameBands (m.dropSaved c p cause reason) :=
  ⟨⟨rfl, rfl, rfl⟩, rfl, fun _ => rfl⟩
theorem dropFrom (now : Nat) : ∀ (fuel : Nat) (m : Mach) (c : Cmd) (cause reason : Nat), m.SameBands (Mach.dropFrom now fuel m c cause reason) := by
  intro fuel
  induction fuel with
  | zero => exact fun m _ _ _ => refl m
  | succ fuel ih =>
    intro m c cause reason
    rw [Mach.dropFrom]
    split
    · exact refl m
    · refine SameBands.trans ?_ (armCmds _ now _)
      refine SameBands.trans ?_ (foldl _ (fun t d => ?_) _ _)
      · refine SameBands.trans ?_ (dropSaved _ _ _ _ _)
        refine SameBands.trans ?_ (modCluster _ _ ?_)
        · exact (dropCmds ..).trans (noteFault ..)
        · exact fun _ => rfl
      · split
        · exact ih ..
        · exact refl t
end Mach.SameBands

/-! ## Bands forced (11 R219, R235) -/

section
variable (m : Mach) (now c b : Nat)

theorem Mach.setBand_band (v : Band) (j i : Nat) :
    ((m.setBand c b v).cluster j).band i = if j = c ∧ i = b then v else (m.cluster j).band i := by
  rw [Mach.setBand, Mach.modCluster_cluster_get]
  by_cases h : j = c
  · subst h
    simp [Cluster.band, KMap.get_set]
  · simp [h]

/-- Of a machine in which a band is forced, commands are discarded, whose effect on the rest `SameBands` says. -/
theorem Mach.forceBand_sameBands :
    (m.setBand c b { (m.cluster c).band b with st := .forced, since := now }).SameBands (m.forceBand now c b) := by
  unfold Mach.forceBand
  dsimp only
  refine Mach.SameBands.trans ?_ (.foldl _ (fun t d => ?_) _ _)
  · exact ⟨⟨rfl, rfl, rfl⟩, rfl, fun _ => rfl⟩
  split
  · exact .dropFrom ..
  · exact .refl t
theorem Mach.forceBand_sameDev : m.SameDev (m.forceBand now c b) :=
  .trans (m2 := m.setBand c b { (m.cluster c).band b with st := .forced, since := now }) ⟨rfl, rfl, rfl⟩ (m.forceBand_sameBands now c b).toSameDev
theorem Mach.forceBand_mem : (m.forceBand now c b).mem = m.mem := (m.forceBand_sameBands now c b).mem
theorem Mach.forceBand_band (j i : Nat) : ((m.forceBand now c b).cluster j).band i =
    if j = c ∧ i = b then { (m.cluster c).band b with st := .forced, since := now } else (m.cluster j).band i := by
  rw [← Mach.setBand_band, Cluster.band, (m.forceBand_sameBands now c b).bands]
  rfl
end

/-- The four bands of a cluster forced. -/
def Mach.forceCluster (m : Mach) (now c : Nat) : Mach := (List.range 4).foldl (fun m b => m.forceBand now c b) m

theorem Mach.forceZone_eq (m : Mach) (now z : Nat) : m.forceZone now z = (m.zoneClusters z).foldl (fun m c => m.forceCluster now c) m := rfl

/-- What holds of a machine and is kept by the force of any band holds of it with a zone forced. -/
theorem Mach.forceZone_induct {P : Mach → Prop} {m : Mach} (now z : Nat) (hm : P m) (hstep : ∀ t c b, P t → P (t.forceBand now c b)) :
    P (m.forceZone now z) := by
  rw [Mach.forceZone_eq]
  exact List.foldlRecOn _ _ hm fun t ht c _ => List.foldlRecOn _ _ ht fun u hu b _ => hstep u c b hu

theorem Mach.forceZone_sameDev (m : Mach) (now z : Nat) : m.SameDev (m.forceZone now z) :=
  Mach.forceZone_induct (P := m.SameDev) now z (.refl m) fun t c b h => h.trans (t.forceBand_sameDev now c b)
theorem Mach.forceZone_mem (m : Mach) (now z : Nat) : (m.forceZone now z).mem = m.mem :=
  Mach.forceZone_induct (P := fun t => t.mem = m.mem) now z rfl fun t c b h => (t.forceBand_mem now c b).trans h

/-- A band that is forced stays so while others are forced. -/
theorem Mach.forceBand_keeps_forced {m : Mach} {j i : Nat} (now c b : Nat) (h : ((m.cluster j).band i).st = .forced) :
    (((m.forceBand now c b).cluster j).band i).st = .forced := by
  rw [Mach.forceBand_band]
  split
  · rfl
  · exact h
theorem Mach.forceCluster_keeps_forced {m : Mach} {j i : Nat} (now c : Nat) (h : ((m.cluster j).band i).st = .forced) :
    (((m.forceCluster now c).cluster j).band i).st = .forced :=
  List.foldlRecOn (motive := fun t : Mach => ((t.cluster j).band i).st = .forced) _ _ h fun _ ht b _ => Mach.forceBand_keeps_forced now c b ht
/-- Every band of a list is forced once each of them has been. -/
theorem foldl_forceBand_forced (now c : Nat) {b : Nat} : ∀ (l : List Nat) (m : Mach), b ∈ l ∨ ((m.cluster c).band b).st = .forced →
    (((l.foldl (fun m b => m.forceBand now c b) m).cluster c).band b).st = .forced
  | [], _, h => h.resolve_left List.not_mem_nil
  | i :: l, m, h => by
    refine foldl_forceBand_forced now c l _ ?_
    rcases h with h | h
    · rcases List.mem_cons.1 h with rfl | h
      · exact .inr (by rw [Mach.forceBand_band, if_pos ⟨rfl, rfl⟩])
      · exact .inl h
    · exact .inr (Mach.forceBand_keeps_forced now c i h)
theorem Mach.forceCluster_forced (m : Mach) (now c : Nat) {b : Nat} (hb : b < 4) : (((m.forceCluster now c).cluster c).band b).st = .forced :=
  foldl_forceBand_forced now c _ m (.inl (List.mem_range.2 hb))

/-- Every band of a list of clusters is forced once each of them has been. -/
theorem foldl_forceCluster_forced (now : Nat) {c b : Nat} (hb : b < 4) : ∀ (l : List Nat) (m : Mach),
    c ∈ l ∨ ((m.cluster c).band b).st = .forced → (((l.foldl (fun m c => m.forceCluster now c) m).cluster c).band b).st = .forced
  | [], _, h => h.resolve_left List.not_mem_nil
  | d :: l, m, h => by
    refine foldl_forceCluster_forced now hb l _ ?_
    rcases h with h | h
    · rcases List.mem_cons.1 h with rfl | h
      · exact .inr (m.forceCluster_forced now _ hb)
      · exact .inl h
    · exact .inr (Mach.forceCluster_keeps_forced now d h)

theorem Mach.mem_zoneClusters {m : Mach} {c z : Nat} : c ∈ m.zoneClusters z ↔ c < 72 ∧ m.zoneOf c = z := by
  simp [Mach.zoneClusters]

theorem Mach.forceZone_forced (m : Mach) (now : Nat) {c z b : Nat} (hc : c < 72) (hz : m.zoneOf c = z) (hb : b < 4) :
    (((m.forceZone now z).cluster c).band b).st = .forced := by
  rw [Mach.forceZone_eq]
  exact foldl_forceCluster_forced now hb _ m (.inl (Mach.mem_zoneClusters.2 ⟨hc, hz⟩))

/-! ## Bands released -/

theorem Mach.releaseZone_sameDev (m : Mach) (now z : Nat) : m.SameDev (m.releaseZone now z) := by
  unfold Mach.releaseZone
  dsimp only
  split
  · exact .refl m
  · refine List.foldlRecOn (motive := m.SameDev) _ _ (.refl m) fun t ht c _ =>
      List.foldlRecOn (motive := m.SameDev) _ _ ht fun u hu b _ => hu.trans ?_
    unfold Mach.releaseBand
    dsimp only
    split
    · exact ⟨rfl, rfl, rfl⟩
    · exact .refl u

/-! ## The states of a zone (20 R389, R392) -/

@[simp] theorem Mach.post_zone (m : Mach) (t : Nat) (i : Instr) (z : Nat) : (m.post t i).zone z = m.zone z := rfl
theorem Mach.regrant_zone (m : Mach) (z : Nat) : ∃ g, m.regrant.zone z = { m.zone z with grant := g } := by
  obtain ⟨-, -, h⟩ := m.regrant_frame
  exact h z

/-- A machine in which a zone has a new state, before coolant is granted anew. -/
def Mach.zoneEntered (m : Mach) (now z : Nat) (st : ZoneSt) : Mach :=
  (m.modZone z (fun y => { y with st := st, since := now, fail := false, evac := false, nearAt := none })).zoneEvent now z 12 (m.zone z).st.no st.no
theorem Mach.zoneTo_eq (m : Mach) (now z : Nat) (st : ZoneSt) : m.zoneTo now z st = if st == .wet || st == .dry then
    (m.zoneEntered now z st).regrant else (m.zoneEntered now z st).regrant.post (now + 2100000000) (.evacStateAdvance z) := by
  unfold Mach.zoneTo Mach.zoneEntered
  rfl
theorem Mach.zoneEntered_zone (m : Mach) (now z : Nat) (st : ZoneSt) :
    (m.zoneEntered now z st).zone z = { m.zone z with st := st, since := now, fail := false, evac := false, nearAt := none } := by
  rw [Mach.zoneEntered, (Mach.Reports.zoneEvent _ _ _ _ _ _).zone, Mach.modZone_zone_get, if_pos rfl]

/-- A zone that enters a state: the fields of the state, and the look at its 2 s limit. -/
theorem zoneTo_entered (s : State) (z : Nat) (st : ZoneSt) : Claims.Entered s (s.m.zoneTo s.tb z st) z st := by
  obtain ⟨g, hg⟩ := (s.m.zoneEntered s.tb z st).regrant_zone z
  rw [Mach.zoneEntered_zone] at hg
  rw [Mach.zoneTo_eq]
  split
  · next hend =>
    refine ⟨by rw [hg], by rw [hg], by rw [hg], by rw [hg], fun hwet hdry => ?_⟩
    simp [hwet, hdry] at hend
  · rw [Claims.Entered, Mach.post_zone, hg]
    exact ⟨rfl, rfl, rfl, rfl, fun _ _ => Mach.mem_post_agenda ..⟩

section
variable {s : State} {z : Nat}

/-- A zone that has not left its state: it stays, and past 2 s there is a machine-check. -/
theorem zoneTimeout_eq (hwet : (s.m.zone z).st ≠ .wet) (hdry : (s.m.zone z).st ≠ .dry) (hfail : (s.m.zone z).fail = false) :
    s.m.zoneTimeout s.tb z = if s.tb < (s.m.zone z).since + 2100000000 then s.m
      else (s.m.modZone z (fun y => { y with fail := true })).zoneFault z ⟨0x1F, 0, [6, BitVec.ofNat 64 z]⟩ := by
  unfold Mach.zoneTimeout
  dsimp only
  by_cases h : s.tb < (s.m.zone z).since + 2100000000
  · rw [if_pos (by simp [h]), if_pos h]
  · rw [if_neg (by simp [hwet, hdry, hfail, h]), if_neg h]
    rfl
theorem zoneTimeout_early (hwet : (s.m.zone z).st ≠ .wet) (hdry : (s.m.zone z).st ≠ .dry) (hfail : (s.m.zone z).fail = false)
    (hlate : ¬(s.m.zone z).since + 2100000000 ≤ s.tb) : s.m.zoneTimeout s.tb z = s.m := by
  rw [zoneTimeout_eq hwet hdry hfail, if_pos (Nat.not_le.1 hlate)]
theorem zoneTimeout_late (hwet : (s.m.zone z).st ≠ .wet) (hdry : (s.m.zone z).st ≠ .dry) (hfail : (s.m.zone z).fail = false)
    (hlate : (s.m.zone z).since + 2100000000 ≤ s.tb) : s.m.zoneTimeout s.tb z =
      (s.m.modZone z (fun y => { y with fail := true })).zoneFault z ⟨0x1F, 0, [6, BitVec.ofNat 64 z]⟩ := by
  rw [zoneTimeout_eq hwet hdry hfail, if_neg (Nat.not_lt.2 hlate)]

/-- A state between WET and DRY: it is left once `ready`, for `left`; else its 2 s limit decides. -/
theorem leaves_of_exec {st : ZoneSt} {b : Bool} {ready : Prop} {left : Mach} (hwet : st ≠ .wet) (hdry : st ≠ .dry)
    (hst : (s.m.zone z).st = st) (hfail : (s.m.zone z).fail = false) (hb : b = true ↔ ready)
    (hexec : exec (.evacStateAdvance z) s = s.goes (if b then left else s.m.zoneTimeout s.tb z)) :
    (ready → exec (.evacStateAdvance z) s = s.goes left) ∧
    (¬ready → (¬(s.m.zone z).since + 2100000000 ≤ s.tb → exec (.evacStateAdvance z) s = s.goes s.m) ∧
      ((s.m.zone z).since + 2100000000 ≤ s.tb → exec (.evacStateAdvance z) s = s.goes
        ((s.m.modZone z (fun y => { y with fail := true })).zoneFault z ⟨0x1F, 0, [6, BitVec.ofNat 64 z]⟩))) := by
  rw [hexec]
  have hw : (s.m.zone z).st ≠ .wet := hst ▸ hwet
  have hd : (s.m.zone z).st ≠ .dry := hst ▸ hdry
  refine ⟨fun h => by rw [if_pos (hb.2 h)], fun h => ?_⟩
  rw [if_neg (fun hb' => h (hb.1 hb'))]
  exact ⟨fun hlate => by rw [zoneTimeout_early hw hd hfail hlate], fun hlate => by rw [zoneTimeout_late hw hd hfail hlate]⟩
end

/-! ## A look at a zone, state by state (20 R392) -/

section
variable {s : State} {z : Nat} (hfail : (s.m.zone z).fail = false)
include hfail

theorem advance_wet_of_no_evac (hst : (s.m.zone z).st = .wet) (hevac : (s.m.zone z).evac = false) :
    exec (.evacStateAdvance z) s = s.goes s.m := by
  have hexec : exec (.evacStateAdvance z) s = execEvacStateAdvance z s := rfl
  rw [hexec, execEvacStateAdvance, runEvent]
  simp only [hfail, hst, hevac, Bool.not_false, Bool.false_eq_true, if_false, if_true]
theorem advance_wet_of_evac (hst : (s.m.zone z).st = .wet) (hevac : (s.m.zone z).evac = true) : exec (.evacStateAdvance z) s =
    s.goes (if s.m.zoneRuns z = true then s.m.post (s.tb + 1) (.evacStateAdvance z) else s.m.zoneTo s.tb z .draining) := by
  have hexec : exec (.evacStateAdvance z) s = execEvacStateAdvance z s := rfl
  rw [hexec, execEvacStateAdvance, runEvent]
  simp only [hfail, hst, hevac, Bool.not_true, Bool.false_eq_true, if_false]
theorem advance_draining (hst : (s.m.zone z).st = .draining) : exec (.evacStateAdvance z) s =
    s.goes (if (decide ((s.m.zone z).since + 52500000 ≤ s.tb) && !(s.m.zone z).liq) = true then s.m.zoneTo s.tb z .purging
      else s.m.zoneTimeout s.tb z) := by
  have hexec : exec (.evacStateAdvance z) s = execEvacStateAdvance z s := rfl
  rw [hexec, execEvacStateAdvance, runEvent]
  simp only [hfail, hst, Bool.false_eq_true, if_false]
theorem advance_purging (hst : (s.m.zone z).st = .purging) : exec (.evacStateAdvance z) s =
    s.goes (if (decide ((s.m.zone z).since + 105000000 ≤ s.tb) && (s.m.zone z).dryAt.any (fun t => decide (t + 21000000 ≤ s.tb))) = true
      then s.m.zoneTo s.tb z .dry else s.m.zoneTimeout s.tb z) := by
  have hexec : exec (.evacStateAdvance z) s = execEvacStateAdvance z s := rfl
  rw [hexec, execEvacStateAdvance, runEvent]
  simp only [hfail, hst, Bool.false_eq_true, if_false]
theorem advance_dry (hst : (s.m.zone z).st = .dry) : exec (.evacStateAdvance z) s = s.goes s.m := by
  have hexec : exec (.evacStateAdvance z) s = execEvacStateAdvance z s := rfl
  rw [hexec, execEvacStateAdvance, runEvent]
  simp only [hfail, hst, Bool.false_eq_true, if_false]
theorem advance_refilling (hst : (s.m.zone z).st = .refilling) : exec (.evacStateAdvance z) s =
    s.goes (if (decide ((s.m.zone z).since + 210000000 ≤ s.tb) && (s.m.zone z).liq &&
        (s.m.zone z).nearAt.any (fun t => decide (t + 10500000 ≤ s.tb))) = true
      then (s.m.zoneTo s.tb z .wet).releaseZone s.tb z else s.m.zoneTimeout s.tb z) := by
  have hexec : exec (.evacStateAdvance z) s = execEvacStateAdvance z s := rfl
  rw [hexec, execEvacStateAdvance, runEvent]
  simp only [hfail, hst, Bool.false_eq_true, if_false]
end

/-- The bands of a zone released: the zone has still just entered its state. -/
theorem entered_releaseZone {s : State} {m : Mach} {z : Nat} (now : Nat) (h : Claims.Entered s m z .wet) :
    Claims.Entered s (m.releaseZone now z) z .wet := by
  obtain ⟨hst, hsince, hfail, hevac, -⟩ := h
  have hzone := (m.releaseZone_sameDev now z).zone z
  exact ⟨by rw [hzone, hst], by rw [hzone, hsince], by rw [hzone, hfail], by rw [hzone, hevac], fun h => absurd rfl h⟩

/-- A state that is not left in time: what a look at the zone then does (20 R392). -/
def StaysBy (s : State) (z : Nat) : Prop :=
  (¬(s.m.zone z).since + 2100000000 ≤ s.tb → exec (.evacStateAdvance z) s = s.goes s.m) ∧
    ((s.m.zone z).since + 2100000000 ≤ s.tb → exec (.evacStateAdvance z) s = s.goes
      ((s.m.modZone z (fun y => { y with fail := true })).zoneFault z ⟨0x1F, 0, [6, BitVec.ofNat 64 z]⟩))

section
variable {s : State} {z : Nat} (hfail : (s.m.zone z).fail = false)
include hfail

theorem leaves_draining (hst : (s.m.zone z).st = .draining) : let ready := (s.m.zone z).since + 52500000 ≤ s.tb ∧ (s.m.zone z).liq = false
    (ready → ∃ m : Mach, exec (.evacStateAdvance z) s = s.goes m ∧ Claims.Entered s m z .purging) ∧ (¬ready → StaysBy s z) := by
  intro ready
  obtain ⟨hleft, hstays⟩ := leaves_of_exec (ready := ready) (by decide) (by decide) hst hfail (by simp [ready]) (advance_draining hfail hst)
  exact ⟨fun h => ⟨_, hleft h, zoneTo_entered ..⟩, hstays⟩
theorem leaves_purging (hst : (s.m.zone z).st = .purging) :
    let ready := (s.m.zone z).since + 105000000 ≤ s.tb ∧ ∃ t, (s.m.zone z).dryAt = some t ∧ t + 21000000 ≤ s.tb
    (ready → ∃ m : Mach, exec (.evacStateAdvance z) s = s.goes m ∧ Claims.Entered s m z .dry) ∧ (¬ready → StaysBy s z) := by
  intro ready
  obtain ⟨hleft, hstays⟩ := leaves_of_exec (ready := ready) (by decide) (by decide) hst hfail (by simp [ready, Option.any_eq_true]) (advance_purging hfail hst)
  exact ⟨fun h => ⟨_, hleft h, zoneTo_entered ..⟩, hstays⟩
theorem leaves_refilling (hst : (s.m.zone z).st = .refilling) :
    let ready := (s.m.zone z).since + 210000000 ≤ s.tb ∧ (s.m.zone z).liq = true ∧ ∃ t, (s.m.zone z).nearAt = some t ∧ t + 10500000 ≤ s.tb
    (ready → ∃ m : Mach, exec (.evacStateAdvance z) s = s.goes m ∧ Claims.Entered s m z .wet) ∧ (¬ready → StaysBy s z) := by
  intro ready
  obtain ⟨hleft, hstays⟩ := leaves_of_exec (ready := ready) (by decide) (by decide) hst hfail (by simp [ready, and_assoc, Option.any_eq_true])
    (advance_refilling hfail hst)
  exact ⟨fun h => ⟨_, hleft h, entered_releaseZone _ (zoneTo_entered ..)⟩, hstays⟩
end

/-- ZCMD 1 on a WET zone: its bands are forced, and it is looked at in this cycle. -/
theorem zcmdEvacuate_wet {s : State} {r : Nat} (hwet : (s.m.zone (s.m.zix r)).st = .wet) : exec (.zcmdEvacuate r) s =
    s.goes (((if (s.m.zone (s.m.zix r)).crit then s.m else s.m.forceZone s.tb (s.m.zix r)).modZone (s.m.zix r)
      (fun x => { x with evac := true })).post s.tb (.evacStateAdvance (s.m.zix r))) := by
  have hexec : exec (.zcmdEvacuate r) s = execZcmdEvacuate r s := rfl
  have hstop : s.m.zcmdStop (s.m.zix r) 1 = none := trapIf_eq_none.2 (by rw [hwet]; rfl)
  rw [hexec, execZcmdEvacuate, runEvent]
  simp only [hstop, Option.isSome_none, Bool.false_eq_true, if_false]
  rfl
theorem zcmdRefill_dry {s : State} {r : Nat} (hdry : (s.m.zone (s.m.zix r)).st = .dry) : exec (.zcmdRefill r) s =
    s.goes (s.m.zoneTo s.tb (s.m.zix r) .refilling) := by
  have hexec : exec (.zcmdRefill r) s = execZcmdRefill r s := rfl
  have hstop : s.m.zcmdStop (s.m.zix r) 2 = none := trapIf_eq_none.2 (by rw [hdry]; rfl)
  rw [hexec, execZcmdRefill, runEvent]
  simp only [hstop, Option.isSome_none, Bool.false_eq_true, if_false]
  rfl
theorem zcmd_refused {s : State} {r : Nat} : ((s.m.zone (s.m.zix r)).st ≠ .wet → exec (.zcmdEvacuate r) s = s.goes s.m) ∧
    ((s.m.zone (s.m.zix r)).st ≠ .dry → exec (.zcmdRefill r) s = s.goes s.m) := by
  have hevac : exec (.zcmdEvacuate r) s = execZcmdEvacuate r s := rfl
  have hrefill : exec (.zcmdRefill r) s = execZcmdRefill r s := rfl
  refine ⟨fun h => ?_, fun h => ?_⟩
  · have hstop : s.m.zcmdStop (s.m.zix r) 1 = some (.trap ⟨1, 3, []⟩) := trapIf_of_true (by rw [bne_iff_ne.2 h]; rfl) 1 3 []
    rw [hevac, execZcmdEvacuate, runEvent]
    simp only [hstop, Option.isSome_some, if_true]
  · have hstop : s.m.zcmdStop (s.m.zix r) 2 = some (.trap ⟨1, 3, []⟩) := trapIf_of_true (by rw [bne_iff_ne.2 h]; rfl) 1 3 []
    rw [hrefill, execZcmdRefill, runEvent]
    simp only [hstop, Option.isSome_some, if_true]

/-- What ZCMD 1 does to a WET zone. -/
theorem zcmdEvacuate_spec {s : State} {r : Nat} (hwet : (s.m.zone (s.m.zix r)).st = .wet) : let z := s.m.zix r
    ∃ m : Mach, exec (.zcmdEvacuate r) s = s.goes m ∧ m.mem = s.m.mem ∧
      (m.zone z).evac = true ∧ (m.zone z).st = .wet ∧ (s.tb, .evacStateAdvance z) ∈ m.agenda ∧
      ((s.m.zone z).crit = false → (∀ c, c < 72 → (s.m.cluster c).cmds = []) →
        ∀ c b, c < 72 → s.m.zoneOf c = z → b < 4 → ((m.cluster c).band b).st = .forced) := by
  intro z
  refine ⟨_, zcmdEvacuate_wet hwet, ?_⟩
  set forced := if (s.m.zone z).crit then s.m else s.m.forceZone s.tb z with hforced
  have hdev : s.m.SameDev forced := by
    rw [hforced]
    split
    · exact .refl _
    · exact s.m.forceZone_sameDev s.tb z
  have hzone : ((forced.modZone z (fun x => { x with evac := true })).post s.tb (.evacStateAdvance z)).zone z =
      { s.m.zone z with evac := true } := by
    rw [Mach.post_zone, Mach.modZone_zone_get, if_pos rfl, hdev.zone]
  refine ⟨?_, by rw [hzone], by rw [hzone]; exact hwet, Mach.mem_post_agenda .., fun hcrit _ c b hc hz hb => ?_⟩
  · have hmem : forced.mem = s.m.mem := by
      rw [hforced]
      split
      · rfl
      · exact s.m.forceZone_mem s.tb z
    exact hmem
  · have hband : (((forced.modZone z (fun x => { x with evac := true })).post s.tb (.evacStateAdvance z)).cluster c) = forced.cluster c := rfl
    rw [hband, hforced, hcrit]
    exact s.m.forceZone_forced s.tb hc hz hb

/-- Settles O52: ZCMD by the zone's state, each state of an evacuation by its conditions and its 2 s limit. -/
theorem evacuation : Obligations.Evacuation := by
  refine ⟨fun s r => ?_, fun s z => ?_, fun s z hfail => ?_⟩
  · have hz : ((s.m.hand r).creg 0x0A8).toNat % 2 ^ 6 = s.m.zix r := (bits_zero_toNat _ _).symm
    dsimp only
    rw [hz]
    exact ⟨zcmd_refused.1, zcmdEvacuate_spec, zcmd_refused.2, fun hdry => ⟨_, zcmdRefill_dry hdry, zoneTo_entered ..⟩⟩
  · intro x go late stuck leaves hfail
    refine ⟨advance_dry hfail, advance_wet_of_no_evac hfail, fun h he hruns => ?_, fun h he hruns => ?_, fun h => ?_, fun h => ?_, fun h => ?_,
      fun hwet hdry => ?_⟩
    · exact (advance_wet_of_evac hfail h he).trans (congrArg (State.goes s) (if_pos hruns))
    · exact ⟨_, (advance_wet_of_evac hfail h he).trans (congrArg (State.goes s) (if_neg (Bool.eq_false_iff.1 hruns))), zoneTo_entered ..⟩
    · exact leaves_draining hfail h
    · exact leaves_purging hfail h
    · exact leaves_refilling hfail h
    · have htimeout : exec (.evacTimeout z) s = s.goes (s.m.zoneTimeout s.tb z) := rfl
      rw [htimeout]
      exact ⟨fun hlate => by rw [zoneTimeout_early hwet hdry hfail hlate], fun hlate => by rw [zoneTimeout_late hwet hdry hfail hlate]⟩
  · have hexec : exec (.evacStateAdvance z) s = execEvacStateAdvance z s := rfl
    have htimeout : exec (.evacTimeout z) s = s.goes (s.m.zoneTimeout s.tb z) := rfl
    rw [hexec, execEvacStateAdvance, runEvent, htimeout, Mach.zoneTimeout]
    simp [hfail]

end Sys2Proof.Machine
end

section
/-! PROOFS. Measurement windows, grants of coolant and samples of the sensors (20 R381, R382, R387, R390, R391). -/

namespace Sys2Proof.Machine

/-! ## Maps -/

/-- What is read of a map is its default or one of its values. -/
theorem KMap.get_eq_default_or_mem {α : Type} (d : α) : ∀ (m : KMap α) (k : Nat), KMap.get d m k = d ∨ (k, KMap.get d m k) ∈ m
  | [], _ => .inl rfl
  | (j, v) :: t, k => by
    rw [KMap.get]
    split
    · next h => exact .inr (h ▸ List.mem_cons_self ..)
    · exact (KMap.get_eq_default_or_mem d t k).imp_right (List.mem_cons_of_mem _)
/-- A map whose values are changed by their keys, the default kept. -/
theorem KMap.get_map_pairs {α : Type} (d : α) (f : Nat × α → Nat × α) (hkey : ∀ p, (f p).1 = p.1) (hd : ∀ k, (f (k, d)).2 = d) (m : KMap α)
    (k : Nat) : KMap.get d (m.map f) k = (f (k, KMap.get d m k)).2 := by
  induction m with
  | nil => exact (hd k).symm
  | cons p t ih =>
    obtain ⟨j, v⟩ := p
    have hf : f (j, v) = (j, (f (j, v)).2) := Prod.ext (hkey _) rfl
    rw [List.map_cons, hf, KMap.get, KMap.get]
    split
    · next h => rw [h]
    · exact ih

/-! ## The window (20 R381, R382) -/

theorem Mach.armCmds_part_get (m : Mach) (now c p : Nat) : (m.armCmds now c).part p = m.part p :=
  Mach.armCmds_induct (P := fun t => t.part p = m.part p) now c rfl fun _ _ _ _ _ h => h

section
variable (m : Mach) (now p : Nat)

theorem Mach.windowPart_of_no_cluster (h : ∀ c, c < 72 → m.clPart c ≠ p) : m.windowPart now p = m := by
  have hempty : m.partClusters p = [] := by simpa [Mach.partClusters] using h
  unfold Mach.windowPart
  rw [hempty]
  rfl

/-- The base grant that a window gives a partition. -/
def Mach.windowBase : Nat := if (m.partZones p).all (fun z => (m.zone z).st == .wet) then 6 else min 6 (Config.baseGrant p m.freeN).toNat
/-- The machine with the base grant and the level of a window. -/
def Mach.windowLevel : Mach :=
  let t := (({ m with freeN := m.freeN + 1 } : Mach).setPart p { m.part p with base := m.windowBase p }).setLevel now p
  if m.windowBase p = (m.part p).base then t else t.powerEvent now p 1 (m.part p).base (m.windowBase p) 0xFF none 0
/-- Is a partition throttled after a window? -/
def Mach.windowOver : Bool := decide (m.partCap p < Config.measuredDraw p m.freeN) ||
  ((m.part p).throttle && !decide (Config.measuredDraw p m.freeN < m.partCap p))

theorem Mach.windowPart_eq (h : (m.partClusters p).isEmpty = false) : m.windowPart now p =
    if m.windowOver p == (m.part p).throttle then m.windowLevel now p
    else
      let t := ((m.windowLevel now p).modPart p (fun y => { y with throttle := m.windowOver p })).powerEvent now p (if m.windowOver p then 8 else 9)
        (m.part p).throttle.toNat (m.windowOver p).toNat 0xFF none 0
      if m.windowOver p then t else (t.partClusters p).foldl (fun m c => m.armCmds now c) t := by
  unfold Mach.windowPart
  rw [h]
  rfl

/-- The base grant and the level of a window, and that the throttle is not yet touched. -/
theorem Mach.windowLevel_part : let t := m.windowLevel now p
    (t.part p).base = m.windowBase p ∧ (t.part p).eff = max (m.windowBase p) (m.leaseLevel p) ∧ (t.part p).throttle = (m.part p).throttle := by
  set granted := ({ m with freeN := m.freeN + 1 } : Mach).setPart p { m.part p with base := m.windowBase p } with hgranted
  have hpart : granted.part p = { m.part p with base := m.windowBase p } := by rw [hgranted, Mach.setPart_part_get, if_pos rfl]
  have hlease : granted.leaseLevel p = m.leaseLevel p := rfl
  have hlevel : m.windowLevel now p = if m.windowBase p = (m.part p).base then granted.setLevel now p else
      (granted.setLevel now p).powerEvent now p 1 (m.part p).base (m.windowBase p) 0xFF none 0 := rfl
  have hreports : (granted.setLevel now p).Reports (m.windowLevel now p) := by
    rw [hlevel]
    split
    · exact .refl _
    · exact .powerEvent ..
  dsimp only
  rw [hreports.base, hreports.eff, hreports.throttle, Mach.setLevel_base, Mach.setLevel_eff, Mach.setLevel_throttle, hpart, hlease]
  exact ⟨rfl, rfl, rfl⟩
/-- A window of a partition that has a cluster: its base grant, its level and its throttle. -/
theorem Mach.windowPart_part (h : (m.partClusters p).isEmpty = false) : let t := m.windowPart now p
    (t.part p).base = m.windowBase p ∧ (t.part p).eff = max (m.windowBase p) (m.leaseLevel p) ∧ (t.part p).throttle = m.windowOver p := by
  obtain ⟨hbase, heff, hthrottle⟩ := m.windowLevel_part now p
  intro t
  have ht : t = _ := m.windowPart_eq now p h
  by_cases hsame : m.windowOver p = (m.part p).throttle
  · rw [if_pos (beq_iff_eq.2 hsame)] at ht
    rw [ht, hsame]
    exact ⟨hbase, heff, hthrottle⟩
  · rw [if_neg (fun h => hsame (beq_iff_eq.1 h))] at ht
    set moved := (m.windowLevel now p).modPart p (fun y => { y with throttle := m.windowOver p }) with hmoved
    have hpart : moved.part p = { (m.windowLevel now p).part p with throttle := m.windowOver p } := by
      rw [hmoved, Mach.modPart_part_get, if_pos rfl]
    have hreports := Mach.Reports.powerEvent moved now p (if m.windowOver p then 8 else 9) (m.part p).throttle.toNat (m.windowOver p).toNat 0xFF none 0
    set told := moved.powerEvent now p (if m.windowOver p then 8 else 9) (m.part p).throttle.toNat (m.windowOver p).toNat 0xFF none 0 with htold
    have harmed : t.part p = told.part p := by
      rw [ht]
      dsimp only
      split
      · rfl
      · exact List.foldlRecOn (motive := fun u : Mach => u.part p = told.part p) _ _ rfl fun u hu c _ => (u.armCmds_part_get now c p).trans hu
    rw [harmed, hreports.base, hreports.eff, hreports.throttle, hpart]
    exact ⟨hbase, heff, rfl⟩
end

/-! ## Grants of coolant (20 R387) -/

/-- The scale that grants are cut by is at most 1. -/
theorem bestScale_le (fs : List (Nat × Nat)) : (bestScale fs).1 ≤ (bestScale fs).2 := by
  refine List.foldlRecOn (motive := fun b : Nat × Nat => b.1 ≤ b.2) _ _ (Nat.zero_le _) fun b hb q hq => ?_
  split
  · obtain ⟨d, -, hq⟩ := List.mem_flatMap.1 hq
    obtain ⟨n, hn, rfl⟩ := List.mem_map.1 hq
    exact Nat.le_of_lt_succ (List.mem_range.1 hn)
  · exact hb
/-- A grant scaled by at most 1 lies between its floor and what is wanted. -/
theorem scaled_between {lo want n d : Nat} (hlo : lo ≤ want) (hnd : n ≤ d) : lo ≤ lo + (want - lo) * n / d ∧ lo + (want - lo) * n / d ≤ want := by
  have hle : (want - lo) * n / d ≤ want - lo := by
    rcases Nat.eq_zero_or_pos d with rfl | hd
    · simp
    · exact Nat.div_le_of_le_mul (by rw [Nat.mul_comm d]; exact Nat.mul_le_mul_left _ hnd)
  exact ⟨Nat.le_add_right .., Nat.add_le_of_le_sub' hlo hle⟩

/-- Openings given to the zones from `k` on, in order. -/
theorem foldl_grant (z : Nat) : ∀ (gs : List Nat) (k : Nat) (m : Mach),
    (((gs.zipIdx k).foldl (fun m g => m.modZone g.2 (fun x => { x with grant := g.1 })) m).zone z).grant =
      if k ≤ z ∧ z < k + gs.length then gs.getD (z - k) 0 else (m.zone z).grant
  | [], k, m => by simp
  | g :: gs, k, m => by
    rw [List.zipIdx_cons, List.foldl_cons, foldl_grant z gs (k + 1), Mach.modZone_zone_get, List.length_cons]
    by_cases hz : z = k
    · subst hz
      rw [if_neg (by omega), if_pos rfl, if_pos (by omega), Nat.sub_self]
      rfl
    · rw [if_neg hz]
      by_cases hin : k + 1 ≤ z ∧ z < k + 1 + gs.length
      · rw [if_pos hin, if_pos (by omega), show z - k = z - (k + 1) + 1 by omega, List.getD_cons_succ]
      · rw [if_neg hin, if_neg (by omega)]

section
variable (m : Mach) {z : Nat} (hz : z < 64)
include hz

theorem Mach.grants_getD : (m.grants.getD z 0 = (m.zoneWant z).2 ∧ ((List.range 64).map (fun z => (m.zoneWant z).2)).sum ≤ 8160) ∨
    ¬((List.range 64).map (fun z => (m.zoneWant z).2)).sum ≤ 8160 ∧
      ∃ n d, n ≤ d ∧ m.grants.getD z 0 = (m.zoneWant z).1 + ((m.zoneWant z).2 - (m.zoneWant z).1) * n / d := by
  have hsum : (((List.range 64).map m.zoneWant).map (·.2)).sum = ((List.range 64).map (fun z => (m.zoneWant z).2)).sum := by rw [List.map_map]; rfl
  unfold Mach.grants
  dsimp only
  rw [hsum]
  split
  · next h => exact .inl ⟨by simp [List.getD_eq_getElem?_getD, hz], h⟩
  · next h => exact .inr ⟨h, _, _, bestScale_le ((List.range 64).map m.zoneWant), by simp [List.getD_eq_getElem?_getD, hz, scaleGrants]⟩
theorem Mach.regrant_grant : (m.regrant.zone z).grant = m.grants.getD z 0 := by
  have hlen : m.grants.length = 64 := by
    unfold Mach.grants
    dsimp only
    split <;> simp [scaleGrants]
  rw [Mach.regrant_eq, foldl_grant, if_pos ⟨Nat.zero_le _, by omega⟩, Nat.sub_zero]
/-- What a zone is granted, as its floor, its ceiling, its request and the leases of its partition say. -/
theorem Mach.regrant_spec : let x := m.zone z
    let g := (m.regrant.zone z).grant
    (x.st ≠ .wet → g = 0) ∧ (x.st = .wet → x.floor ≤ x.ceil → x.floor ≤ g ∧ g ≤ x.ceil ∧ (m.leaseLevel (m.zonePart z) ≠ 0 → g = x.ceil)) ∧
    (((List.range 64).map (fun z => (m.zoneWant z).2)).sum ≤ 8160 → x.st = .wet → m.leaseLevel (m.zonePart z) = 0 →
      g = min x.ceil (max x.floor x.req)) := by
  have hgrant := m.grants_getD hz
  dsimp only
  rw [m.regrant_grant hz]
  refine ⟨fun hdry => ?_, fun hwet hle => ?_, fun hsum hwet hlease => ?_⟩
  · have hwant : m.zoneWant z = (0, 0) := if_pos (bne_iff_ne.2 hdry)
    rcases hgrant with ⟨h, -⟩ | ⟨-, n, d, -, h⟩ <;> rw [h, hwant]
    simp
  · by_cases hlease : m.leaseLevel (m.zonePart z) = 0
    · have hwant : m.zoneWant z = ((m.zone z).floor, min (m.zone z).ceil (max (m.zone z).floor (m.zone z).req)) := by
        simp [Mach.zoneWant, hwet, hlease]
      rcases hgrant with ⟨h, -⟩ | ⟨-, n, d, hnd, h⟩ <;> rw [h, hwant]
      · exact ⟨by omega, by omega, fun h => absurd hlease h⟩
      · obtain ⟨hlo, hhi⟩ := scaled_between (lo := (m.zone z).floor) (want := min (m.zone z).ceil (max (m.zone z).floor (m.zone z).req))
          (by omega) hnd
        exact ⟨hlo, hhi.trans (Nat.min_le_left ..), fun h => absurd hlease h⟩
    · have hwant : m.zoneWant z = ((m.zone z).ceil, (m.zone z).ceil) := by
        simp [Mach.zoneWant, hwet, hlease]
      rcases hgrant with ⟨h, -⟩ | ⟨-, n, d, hnd, h⟩ <;> rw [h, hwant] <;> simp [hle]
  · have hwant : m.zoneWant z = ((m.zone z).floor, min (m.zone z).ceil (max (m.zone z).floor (m.zone z).req)) := by
      simp [Mach.zoneWant, hwet, hlease]
    rcases hgrant with ⟨h, -⟩ | ⟨h, -⟩
    · rw [h, hwant]
    · exact absurd hsum h
end

end Sys2Proof.Machine
end

section
/-! PROOFS. Samples of the sensors (20 R391). -/

namespace Sys2Proof.Machine

/-! ## The steps of one sample -/

section
variable (m : Mach) (now z : Nat)

/-- What the sensors of a zone say, taken over. -/
def Mach.sensed (t : Nat) (liq : Bool) (v : Nat) : Mach :=
  let x := m.zone z
  let near := decide (v ≤ x.floor + 8) && decide (x.floor ≤ v + 8)
  m.modZone z (fun y => { y with temp := t, liq := liq, valve := v, dryAt := if liq then none else some (y.dryAt.getD now),
                                 nearAt := if near then some (y.nearAt.getD now) else none })
/-- A zone that has become HOT, or no longer is. -/
def Mach.heated (x : Zone) (t : Nat) : Mach :=
  if !x.hot && decide (x.ttrap ≤ t) then
    ((m.modZone z (fun y => { y with hot := true })).zoneFault z ⟨0x17, 1, [slotN z, slotN t]⟩).zoneEvent now z 10 0 1
  else if x.hot && decide (t + 8 ≤ x.ttrap) then (m.modZone z (fun y => { y with hot := false })).zoneEvent now z 13 1 0
  else m
/-- A zone that has become CRIT, or no longer is. -/
def Mach.overheated (x : Zone) (t : Nat) : Mach :=
  if !x.crit && decide (x.tcrit ≤ t) then
    (((m.modZone z (fun y => { y with crit := true })).forceZone now z).zoneFault z ⟨0x17, 2, [slotN z, slotN t]⟩).zoneEvent now z 11 0 1
  else if x.crit && decide (t < x.ttrap) then ((m.modZone z (fun y => { y with crit := false })).zoneEvent now z 11 1 0).releaseZone now z
  else m
/-- A zone between WET and DRY looked at again after a sample. -/
def Mach.lookedAt (x : Zone) : Mach := if x.st == .wet || x.st == .dry then m else m.post now (.evacStateAdvance z)

theorem Mach.sampleZone_eq (n : Nat) : m.sampleZone now n z =
    (((m.sensed now z (Config.sensorTemp z n).toNat (Config.sensorLiquid z n) (Config.sensorValve z n).toNat).heated now z (m.zone z)
      (Config.sensorTemp z n).toNat).overheated now z (m.zone z) (Config.sensorTemp z n).toNat).lookedAt now z (m.zone z) := rfl
end

/-! ## What faults and events of a zone leave -/

section
variable (m : Mach) (now z : Nat)

theorem Mach.zoneFault_sameBands (f : FaultRec) : m.SameBands (m.zoneFault z f) := by
  unfold Mach.zoneFault
  split
  · exact .refl m
  · exact .noteFault ..
theorem Mach.lookedAt_sameBands (x : Zone) : m.SameBands (m.lookedAt now z x) := by
  unfold Mach.lookedAt
  split
  · exact .refl m
  · exact .post ..
theorem Mach.modZone_zoneOf (f : Zone → Zone) (c : Nat) : (m.modZone z f).zoneOf c = m.zoneOf c := rfl
theorem Mach.modZone_zoneClusters (f : Zone → Zone) (j : Nat) : (m.modZone z f).zoneClusters j = m.zoneClusters j := rfl
end

/-! ## The zones after a sample -/

/-- `t` is `m` in the zones and the free values, but for HOT and CRIT of zone `z`, which are `hot` and `crit`. -/
structure Mach.Warms (m t : Mach) (z : Nat) (hot crit : Bool) : Prop where
  zone : ∀ j, t.zone j = if j = z then { m.zone z with hot := hot, crit := crit } else m.zone j
  freeN : t.freeN = m.freeN
  zoneOf : t.zoneOf = m.zoneOf

namespace Mach.Warms
variable {m t u : Mach} {z : Nat} {hot crit hot' crit' : Bool}

theorem refl (m : Mach) (z : Nat) : m.Warms m z (m.zone z).hot (m.zone z).crit := ⟨fun j => by split <;> simp [*], rfl, rfl⟩
theorem trans (h : m.Warms t z hot crit) (h' : t.Warms u z hot' crit') : m.Warms u z hot' crit' :=
  ⟨fun j => by rw [h'.zone, h.zone, h.zone]; split <;> simp, h'.freeN.trans h.freeN, h'.zoneOf.trans h.zoneOf⟩
theorem sameDev (h : m.Warms t z hot crit) (hd : t.SameDev u) : m.Warms u z hot crit :=
  ⟨fun j => by rw [hd.zone, h.zone], hd.freeN.trans h.freeN, (funext hd.zoneOf).trans h.zoneOf⟩
theorem setHot (m : Mach) (z : Nat) (hot : Bool) : m.Warms (m.modZone z (fun y => { y with hot := hot })) z hot (m.zone z).crit :=
  ⟨fun j => by rw [Mach.modZone_zone_get], rfl, rfl⟩
theorem setCrit (m : Mach) (z : Nat) (crit : Bool) : m.Warms (m.modZone z (fun y => { y with crit := crit })) z (m.zone z).hot crit :=
  ⟨fun j => by rw [Mach.modZone_zone_get], rfl, rfl⟩
theorem hot_eq (h : m.Warms t z hot crit) : (t.zone z).hot = hot := by rw [h.zone, if_pos rfl]
theorem crit_eq (h : m.Warms t z hot crit) : (t.zone z).crit = crit := by rw [h.zone, if_pos rfl]
end Mach.Warms

section
variable (m : Mach) (now z : Nat) (x : Zone) (t : Nat)

theorem Mach.heated_warms (hx : x.hot = (m.zone z).hot) :
    m.Warms (m.heated now z x t) z (if x.hot then decide (x.ttrap < t + 8) else decide (x.ttrap ≤ t)) (m.zone z).crit := by
  unfold Mach.heated
  by_cases hhot : x.hot = true
  · simp only [hhot, Bool.not_true, Bool.false_and, Bool.false_eq_true, if_false, if_true, Bool.true_and, decide_eq_true_eq]
    split
    · next h =>
      rw [decide_eq_false (by omega)]
      exact (Mach.Warms.setHot m z false).sameDev (Mach.Reports.zoneEvent ..).sameDev
    · next h =>
      rw [decide_eq_true (by omega), ← hhot, hx]
      exact .refl m z
  · rw [Bool.not_eq_true] at hhot
    simp only [hhot, Bool.not_false, Bool.true_and, decide_eq_true_eq, Bool.false_and, Bool.false_eq_true, if_false]
    split
    · next h =>
      rw [decide_eq_true h]
      exact ((Mach.Warms.setHot m z true).sameDev (Mach.zoneFault_sameBands ..).toSameDev).sameDev (Mach.Reports.zoneEvent ..).sameDev
    · next h =>
      rw [decide_eq_false h, ← hhot, hx]
      exact .refl m z
theorem Mach.overheated_warms (hx : x.crit = (m.zone z).crit) :
    m.Warms (m.overheated now z x t) z (m.zone z).hot (if x.crit then decide (x.ttrap ≤ t) else decide (x.tcrit ≤ t)) := by
  unfold Mach.overheated
  by_cases hcrit : x.crit = true
  · simp only [hcrit, Bool.not_true, Bool.false_and, Bool.false_eq_true, if_false, if_true, Bool.true_and, decide_eq_true_eq]
    split
    · next h =>
      rw [decide_eq_false (by omega)]
      exact ((Mach.Warms.setCrit m z false).sameDev (Mach.Reports.zoneEvent ..).sameDev).sameDev (Mach.releaseZone_sameDev ..)
    · next h =>
      rw [decide_eq_true (by omega), ← hcrit, hx]
      exact .refl m z
  · rw [Bool.not_eq_true] at hcrit
    simp only [hcrit, Bool.not_false, Bool.true_and, decide_eq_true_eq, Bool.false_and, Bool.false_eq_true, if_false]
    split
    · next h =>
      rw [decide_eq_true h]
      exact (((Mach.Warms.setCrit m z true).sameDev (Mach.forceZone_sameDev ..)).sameDev (Mach.zoneFault_sameBands ..).toSameDev).sameDev
        (Mach.Reports.zoneEvent ..).sameDev
    · next h =>
      rw [decide_eq_false h, ← hcrit, hx]
      exact .refl m z
end

/-- What one sample leaves of the zones: the sensors of its zone, HOT and CRIT by their thresholds, and no other zone. -/
theorem Mach.sampleZone_zone (m : Mach) (now n z : Nat) :
    let t := (Config.sensorTemp z n).toNat
    let x := m.zone z
    (m.sensed now z t (Config.sensorLiquid z n) (Config.sensorValve z n).toNat).Warms (m.sampleZone now n z) z
      (if x.hot then decide (x.ttrap < t + 8) else decide (x.ttrap ≤ t)) (if x.crit then decide (x.ttrap ≤ t) else decide (x.tcrit ≤ t)) := by
  intro t x
  set sensed := m.sensed now z t (Config.sensorLiquid z n) (Config.sensorValve z n).toNat with hsensed
  have hzone : (sensed.zone z).hot = x.hot ∧ (sensed.zone z).crit = x.crit := by
    rw [hsensed, Mach.sensed, Mach.modZone_zone_get, if_pos rfl]
    exact ⟨rfl, rfl⟩
  obtain ⟨hhot, hcrit⟩ := hzone
  have hheat := sensed.heated_warms now z x t hhot.symm
  have hover := (sensed.heated now z x t).overheated_warms now z x t (by rw [hheat.crit_eq, hcrit])
  rw [hheat.hot_eq] at hover
  rw [Mach.sampleZone_eq]
  exact (hheat.trans hover).sameDev (Mach.lookedAt_sameBands ..).toSameDev

/-! ## All zones sampled -/

theorem Mach.sampleZone_freeN (m : Mach) (now n z : Nat) : (m.sampleZone now n z).freeN = m.freeN := (m.sampleZone_zone now n z).freeN
/-- A zone has what its sensors say. -/
def Zone.Says (x : Zone) (n z : Nat) : Prop :=
  x.temp = (Config.sensorTemp z n).toNat ∧ x.liq = Config.sensorLiquid z n ∧ x.valve = (Config.sensorValve z n).toNat

theorem sampleZone_says_same (m : Mach) (now n z : Nat) : ((m.sampleZone now n z).zone z).Says n z := by
  rw [(m.sampleZone_zone now n z).zone, if_pos rfl]
  simp [Zone.Says, Mach.sensed]
theorem sampleZone_says_of_says {m : Mach} {n j : Nat} (now z : Nat) (h : (m.zone j).Says n j) : ((m.sampleZone now n z).zone j).Says n j := by
  by_cases hj : j = z
  · subst hj
    exact sampleZone_says_same ..
  · rw [(m.sampleZone_zone now n z).zone, if_neg hj, Mach.sensed, Mach.modZone_zone_get, if_neg hj]
    exact h
/-- Every zone of a list says what its sensors do once all have been sampled. -/
theorem foldl_sampleZone_says (now n : Nat) {j : Nat} : ∀ (l : List Nat) (m : Mach), j ∈ l ∨ (m.zone j).Says n j →
    ((l.foldl (fun m z => m.sampleZone now n z) m).zone j).Says n j
  | [], _, h => h.resolve_left List.not_mem_nil
  | z :: l, m, h => by
    refine foldl_sampleZone_says now n l _ ?_
    rcases h with h | h
    · rcases List.mem_cons.1 h with rfl | h
      · exact .inr (sampleZone_says_same ..)
      · exact .inl h
    · exact .inr (sampleZone_says_of_says now z h)

/-- The machine with all 64 zones sampled. -/
def Mach.sampled (m : Mach) (now : Nat) : Mach :=
  (List.range 64).foldl (fun (m' : Mach) z => m'.sampleZone now m.freeN z) { m with freeN := m.freeN + 1 }
theorem Mach.sampled_freeN (m : Mach) (now : Nat) : (m.sampled now).freeN = m.freeN + 1 :=
  List.foldlRecOn (motive := fun t : Mach => t.freeN = m.freeN + 1) _ _ rfl fun t h z _ => (t.sampleZone_freeN now m.freeN z).trans h
theorem Mach.sampled_says (m : Mach) (now : Nat) {z : Nat} (hz : z < 64) : ((m.sampled now).zone z).Says m.freeN z :=
  foldl_sampleZone_says now m.freeN _ _ (.inl (List.mem_range.2 hz))

theorem exec_sensorSample (s : State) : exec .sensorSample s = s.goes ((s.m.sampled s.tb).regrant.post (s.tb + 1050) .sensorSample) := rfl

theorem sensorSample_spec (s : State) : ∃ m : Mach, exec .sensorSample s = s.goes m ∧ m.freeN = s.m.freeN + 1 ∧
    (s.tb + 1050, .sensorSample) ∈ m.agenda ∧ ∀ z, z < 64 → (m.zone z).Says s.m.freeN z := by
  refine ⟨_, exec_sensorSample s, ?_, Mach.mem_post_agenda .., fun z hz => ?_⟩
  · rw [Mach.post_freeN, Mach.regrant_freeN, Mach.sampled_freeN]
  · obtain ⟨g, hg⟩ := (s.m.sampled s.tb).regrant_zone z
    rw [Mach.post_zone, hg]
    simpa only [Zone.Says] using s.m.sampled_says s.tb hz

/-! ## Bands of a zone that becomes CRIT -/

theorem sampleZone_forced {m : Mach} {z : Nat} (now n : Nat) (hcrit : (m.zone z).crit = false)
    (ht : (m.zone z).tcrit ≤ (Config.sensorTemp z n).toNat) {c b : Nat} (hc : c < 72) (hz : m.zoneOf c = z) (hb : b < 4) :
    (((m.sampleZone now n z).cluster c).band b).st = .forced := by
  set t := (Config.sensorTemp z n).toNat with ht'
  set sensed := m.sensed now z t (Config.sensorLiquid z n) (Config.sensorValve z n).toNat with hsensed
  set heated := sensed.heated now z (m.zone z) t with hheated
  have hzone : heated.zoneOf c = z := by
    rw [(sensed.heated_warms now z (m.zone z) t (by rw [hsensed, Mach.sensed, Mach.modZone_zone_get, if_pos rfl])).zoneOf]
    exact hz
  set critical := heated.modZone z (fun y => { y with crit := true }) with hcritical
  have hover : heated.overheated now z (m.zone z) t =
      ((critical.forceZone now z).zoneFault z ⟨0x17, 2, [slotN z, slotN t]⟩).zoneEvent now z 11 0 1 :=
    if_pos (by simp [hcrit, ht])
  have hbands := ((critical.forceZone now z).zoneFault_sameBands z ⟨0x17, 2, [slotN z, slotN t]⟩).bands c
  have hreports := Mach.Reports.zoneEvent ((critical.forceZone now z).zoneFault z ⟨0x17, 2, [slotN z, slotN t]⟩) now z 11 0 1
  rw [Mach.sampleZone_eq, Cluster.band, (Mach.lookedAt_sameBands ..).bands, hover, hreports.cluster, hbands]
  exact critical.forceZone_forced now hc hzone hb

/-! ## Thermal faults -/

/-- `t` is `m` with the faults `fs` recorded against the hand of zone `z`, as far as the notes of that zone go. -/
structure Mach.Notes (m t : Mach) (z : Nat) (fs : List FaultRec) : Prop where
  zoneClusters : t.zoneClusters z = m.zoneClusters z
  zoneHand : t.zoneHand z = m.zoneHand z
  pending : (t.hand (m.zoneHand z)).pending = (m.hand (m.zoneHand z)).pending ++ fs
  cmdSaved : (t.hand (m.zoneHand z)).cmdSaved = (m.hand (m.zoneHand z)).cmdSaved
  rpMode : (t.part (t.partOf (m.zoneHand z))).rpMode = (m.part (m.partOf (m.zoneHand z))).rpMode
  cmds : ∀ c, (t.cluster c).cmds = (m.cluster c).cmds

namespace Mach.Notes
variable {m t u : Mach} {z : Nat} {fs fs' : List FaultRec}

theorem refl (m : Mach) (z : Nat) : m.Notes m z [] := ⟨rfl, rfl, by simp, rfl, rfl, fun _ => rfl⟩
theorem trans (h : m.Notes t z fs) (h' : t.Notes u z fs') : m.Notes u z (fs ++ fs') := by
  obtain ⟨hcl, hhand, hpend, hsaved, hmode, hcmds⟩ := h'
  rw [h.zoneHand] at hhand hpend hsaved hmode
  exact ⟨hcl.trans h.zoneClusters, hhand, by rw [hpend, h.pending, List.append_assoc], hsaved.trans h.cmdSaved, hmode.trans h.rpMode,
    fun c => (hcmds c).trans (h.cmds c)⟩
theorem modZone (m : Mach) (z : Nat) (f : Zone → Zone) : m.Notes (m.modZone z f) z [] := ⟨rfl, rfl, by simp, rfl, rfl, fun _ => rfl⟩
theorem post (m : Mach) (z t : Nat) (i : Instr) : m.Notes (m.post t i) z [] := ⟨rfl, rfl, by simp, rfl, rfl, fun _ => rfl⟩
theorem reports (h : m.Reports t) (z : Nat) : m.Notes t z [] := by
  refine ⟨h.sameDev.zoneClusters z, ?_, by rw [h.hand, List.append_nil], by rw [h.hand], ?_, fun c => by rw [h.cluster]⟩
  · rw [Mach.zoneHand, h.sameDev.zoneClusters, h.active, Mach.zoneHand]
  · rw [h.rpMode, Mach.partOf, Mach.handCtx, h.hand, Mach.ctx, h.ctxs]
    rfl
/-- A thermal fault of a zone with a cluster, outside replay and with a place for it. -/
theorem zoneFault (hcl : (m.zoneClusters z).isEmpty = false) (hmode : (m.part (m.partOf (m.zoneHand z))).rpMode ≠ 2)
    (hlen : (m.hand (m.zoneHand z)).pending.length < 8) (reason : Nat) (l : List W64) :
    m.Notes (m.zoneFault z ⟨0x17, reason, l⟩) z [⟨0x17, reason, l⟩] := by
  have hfault : m.zoneFault z ⟨0x17, reason, l⟩ = m.recordFault (m.zoneHand z) ⟨0x17, reason, l⟩ := by
    unfold Mach.zoneFault Mach.noteFault Mach.outsideFault
    rw [hcl]
    exact if_pos (bne_iff_ne.2 hmode)
  rw [hfault, Mach.recordFault]
  refine ⟨rfl, rfl, ?_, ?_, ?_, fun _ => rfl⟩
  · rw [Mach.modHand_hand_get, if_pos rfl, if_neg (Nat.not_le.2 hlen)]
  · rw [Mach.modHand_hand_get, if_pos rfl, if_neg (Nat.not_le.2 hlen)]
  · rw [Mach.partOf, Mach.handCtx, Mach.modHand_hand_get, if_pos rfl, if_neg (Nat.not_le.2 hlen)]
    rfl
end Mach.Notes

theorem Hand.dropSaved_of_none {h : Hand} (hs : h.cmdSaved = []) (p : Cmd → Bool) (cause reason : Nat) : h.dropSaved p cause reason = h := by
  simp [Hand.dropSaved, hs]
/-- With no command of the cluster and none saved with the zone's hand, a band is forced and that is all. -/
theorem Mach.Notes.forceBand {m : Mach} {z c : Nat} (now b : Nat) (hcmds : (m.cluster c).cmds = [])
    (hsaved : (m.hand (m.zoneHand z)).cmdSaved = []) : m.Notes (m.forceBand now c b) z [] := by
  set banded := m.setBand c b { (m.cluster c).band b with st := .forced, since := now } with hbanded
  have hcl (j : Nat) : (banded.cluster j).cmds = (m.cluster j).cmds := by
    rw [hbanded, Mach.setBand, Mach.modCluster_cluster_get]
    split
    · next h => rw [h]
    · rfl
  have hforce : m.forceBand now c b = { banded with hands := banded.hands.map (fun (q : Nat × Hand) => if clusterOf q.1 = c then
      (q.1, q.2.dropSaved (fun d => d.isMma && !d.started && d.need.testBit b) 0x17 4) else q) } := by
    unfold Mach.forceBand
    dsimp only
    rw [← hbanded]
    have hnone : (({ banded with hands := banded.hands.map (fun (q : Nat × Hand) => if clusterOf q.1 = c then
      (q.1, q.2.dropSaved (fun d => d.isMma && !d.started && d.need.testBit b) 0x17 4) else q) } : Mach).cluster c).cmds = [] :=
      (hcl c).trans hcmds
    rw [hnone]
    rfl
  have hhand : (m.forceBand now c b).hand (m.zoneHand z) = m.hand (m.zoneHand z) := by
    rw [hforce]
    refine (KMap.get_map_pairs {} _ (fun p => ?_) (fun k => ?_) m.hands (m.zoneHand z)).trans ?_
    · split <;> rfl
    · dsimp only
      split <;> rfl
    · dsimp only
      split
      · exact Hand.dropSaved_of_none hsaved ..
      · rfl
  have hdev := m.forceBand_sameDev now c b
  refine ⟨hdev.zoneClusters z, ?_, by rw [hhand, List.append_nil], by rw [hhand], ?_, fun j => ?_⟩
  · rw [Mach.zoneHand, hdev.zoneClusters, hdev.active, Mach.zoneHand]
  · rw [Mach.partOf, Mach.handCtx, hhand, hforce]
    rfl
  · rw [hforce]
    exact hcl j
theorem Mach.Notes.forceZone {m : Mach} {z : Nat} (now : Nat) (hcmds : ∀ c, c < 72 → (m.cluster c).cmds = [])
    (hsaved : (m.hand (m.zoneHand z)).cmdSaved = []) : m.Notes (m.forceZone now z) z [] := by
  rw [Mach.forceZone_eq]
  refine List.foldlRecOn (motive := fun t : Mach => m.Notes t z []) _ _ (.refl m z) fun t ht c hc =>
    List.foldlRecOn (motive := fun t : Mach => m.Notes t z []) _ _ ht fun u hu b _ => ?_
  refine hu.trans (.forceBand now b ((hu.cmds c).trans (hcmds c (Mach.mem_zoneClusters.1 hc).1)) ?_)
  rw [hu.zoneHand, hu.cmdSaved, hsaved]

section
variable {m : Mach} {z : Nat} {x : Zone} {t : Nat} (now : Nat) (hcl : (m.zoneClusters z).isEmpty = false)
  (hmode : (m.part (m.partOf (m.zoneHand z))).rpMode ≠ 2)
include hcl hmode

theorem Mach.heated_notes (hhot : x.hot = false) (hlen : (m.hand (m.zoneHand z)).pending.length < 8) :
    m.Notes (m.heated now z x t) z (if x.ttrap ≤ t then [⟨0x17, 1, [slotN z, slotN t]⟩] else []) := by
  unfold Mach.heated
  simp only [hhot, Bool.not_false, Bool.true_and, decide_eq_true_eq, Bool.false_and, Bool.false_eq_true, if_false]
  split
  · have hset := Mach.Notes.modZone m z (fun y => { y with hot := true })
    have hfault : Mach.Notes _ _ z _ := .zoneFault (m := m.modZone z (fun y => { y with hot := true })) hcl hmode hlen 1 [slotN z, slotN t]
    exact (hset.trans hfault).trans (.reports (.zoneEvent ..) z)
  · exact .refl m z
theorem Mach.overheated_notes (hcrit : x.crit = false) (hlen : (m.hand (m.zoneHand z)).pending.length < 8)
    (hcalm : x.tcrit ≤ t → (∀ c, c < 72 → (m.cluster c).cmds = []) ∧ (m.hand (m.zoneHand z)).cmdSaved = []) :
    m.Notes (m.overheated now z x t) z (if x.tcrit ≤ t then [⟨0x17, 2, [slotN z, slotN t]⟩] else []) := by
  unfold Mach.overheated
  simp only [hcrit, Bool.not_false, Bool.true_and, decide_eq_true_eq, Bool.false_and, Bool.false_eq_true, if_false]
  split
  · next h =>
    obtain ⟨hcmds, hsaved⟩ := hcalm h
    set critical := m.modZone z (fun y => { y with crit := true })
    have hforce : m.Notes (critical.forceZone now z) z [] := (Mach.Notes.modZone m z _).trans (.forceZone (m := critical) now hcmds hsaved)
    have hfault : (critical.forceZone now z).Notes _ z _ := .zoneFault (by rw [hforce.zoneClusters, hcl])
      (by rw [hforce.zoneHand, hforce.rpMode]; exact hmode) (by rw [hforce.zoneHand, hforce.pending, List.append_nil]; exact hlen) 2 [slotN z, slotN t]
    exact (hforce.trans hfault).trans (.reports (.zoneEvent ..) z)
  · exact .refl m z
end

theorem Mach.Notes.lookedAt (m : Mach) (now z : Nat) (x : Zone) : m.Notes (m.lookedAt now z x) z [] := by
  unfold Mach.lookedAt
  split
  · exact .refl m z
  · exact .post ..

/-- The thermal faults that a sample records against the hand of its zone. -/
theorem sampleZone_notes {m : Mach} {z n : Nat} (now : Nat) (hcl : (m.zoneClusters z).isEmpty = false) (hhot : (m.zone z).hot = false)
    (hcrit : (m.zone z).crit = false) (hmode : (m.part (m.partOf (m.zoneHand z))).rpMode ≠ 2)
    (hcalm : (m.zone z).tcrit ≤ (Config.sensorTemp z n).toNat →
      (∀ c, c < 72 → (m.cluster c).cmds = []) ∧ (m.hand (m.zoneHand z)).cmdSaved = [])
    (hlen : (m.hand (m.zoneHand z)).pending.length < 7) : let t := (Config.sensorTemp z n).toNat
    m.Notes (m.sampleZone now n z) z ((if (m.zone z).ttrap ≤ t then [⟨0x17, 1, [slotN z, slotN t]⟩] else []) ++
      (if (m.zone z).tcrit ≤ t then [⟨0x17, 2, [slotN z, slotN t]⟩] else [])) := by
  intro t
  have hsense : m.Notes (m.sensed now z t (Config.sensorLiquid z n) (Config.sensorValve z n).toNat) z [] := by
    rw [Mach.sensed]
    exact .modZone ..
  have hheat := hsense.trans (Mach.heated_notes (x := m.zone z) (t := t) now hcl hmode hhot (by exact Nat.lt_succ_of_lt hlen))
  rw [List.nil_append] at hheat
  have hover := hheat.trans (Mach.overheated_notes (x := m.zone z) (t := t) now (by rw [hheat.zoneClusters, hcl])
    (by rw [hheat.zoneHand, hheat.rpMode]; exact hmode) hcrit (by
      rw [hheat.zoneHand, hheat.pending, List.length_append]
      split <;> simp <;> omega) fun h => by
      obtain ⟨hcmds, hsaved⟩ := hcalm h
      exact ⟨fun c hc => (hheat.cmds c).trans (hcmds c hc), by rw [hheat.zoneHand, hheat.cmdSaved, hsaved]⟩)
  rw [Mach.sampleZone_eq]
  have hlook := hover.trans (.lookedAt _ now z (m.zone z))
  rw [List.append_nil] at hlook
  exact hlook

/-! ## The obligation -/

theorem exec_powerWindow (s : State) : exec .powerWindow s =
    s.goes (((List.range 8).foldl (fun m p => m.windowPart s.tb p) s.m).regrant.post (s.tb + 10500) .powerWindow) := rfl

theorem powerCap_eq_getD {l : Nat} (h : l ≤ 7) : powerCap l = [80, 120, 160, 200, 240, 270, 305, 360].getD l 0 := by
  interval_cases l <;> rfl

/-- Settles O51: windows by `Mach.windowPart_part`, grants by `Mach.regrant_spec`, a sample by its zone, its bands and its faults. -/
theorem powerAndSensors : Obligations.PowerAndSensors := by
  refine ⟨fun s => ⟨_, exec_powerWindow s, Mach.mem_post_agenda ..⟩, fun m now p hc hwet => ?_, fun m p h => ?_,
    fun m now p => m.windowPart_of_no_cluster now p, fun m z hz => ?_, sensorSample_spec, fun m now n z => ?_⟩
  · have hcl : (m.partClusters p).isEmpty = false := by
      obtain ⟨c, hc, hp⟩ := hc
      rw [List.isEmpty_eq_false_iff_exists_mem]
      exact ⟨c, by simp [Mach.partClusters, hc, hp]⟩
    have hbase : m.windowBase p = 6 := if_pos (by
      rw [List.all_eq_true]
      intro z hz
      obtain ⟨hz, hp⟩ := List.mem_filter.1 hz
      exact beq_iff_eq.2 (hwet z (List.mem_range.1 hz) (beq_iff_eq.1 hp)))
    obtain ⟨h1, h2, h3⟩ := m.windowPart_part now p hcl
    rw [hbase] at h1 h2
    refine ⟨h1, h2, h3.trans ?_⟩
    rw [Mach.windowOver, ← decide_not]
    simp only [Nat.not_lt]
  · rw [Mach.partCap, powerCap_eq_getD h]
    rfl
  · have hfloor : (m.zone z).cfg.toNat / 2 ^ 8 % 2 ^ 8 = (m.zone z).floor := (bits_toNat ..).symm
    have hceil : (m.zone z).cfg.toNat / 2 ^ 16 % 2 ^ 8 = (m.zone z).ceil := (bits_toNat ..).symm
    dsimp only
    rw [hfloor, hceil]
    exact m.regrant_spec hz
  · have httrap : (m.zone z).cfg.toNat / 2 ^ 40 % 2 ^ 10 = (m.zone z).ttrap := (bits_toNat ..).symm
    have htcrit : (m.zone z).cfg.toNat / 2 ^ 50 % 2 ^ 10 = (m.zone z).tcrit := (bits_toNat ..).symm
    dsimp only
    rw [httrap, htcrit]
    have hzone := m.sampleZone_zone now n z
    refine ⟨hzone.hot_eq, hzone.crit_eq, fun hcrit ht c b => sampleZone_forced now n hcrit ht, fun hc hhot hcrit hmode hcalm hlen => ?_⟩
    have hcl : (m.zoneClusters z).isEmpty = false := by
      obtain ⟨c, hc⟩ := hc
      rw [List.isEmpty_eq_false_iff_exists_mem]
      exact ⟨c, Mach.mem_zoneClusters.2 hc⟩
    refine (sampleZone_notes now hcl hhot hcrit hmode (fun h => ?_) hlen).pending.trans (List.append_assoc ..).symm
    obtain ⟨hcmds, hsaved⟩ := hcalm h
    refine ⟨hcmds, ?_⟩
    rcases KMap.get_eq_default_or_mem {} m.hands (m.zoneHand z) with h | h
    · rw [Mach.hand, h]
    · exact hsaved _ h

end Sys2Proof.Machine
end

section
/-! PROOFS. Every instruction and event goes on, and TB advances at the end of a cycle alone (03 R54, 21 R395, log 1). -/

namespace Sys2Proof.Machine

/-! ## Instructions and events -/

/-- A word of one engine, or one that each engine executes for itself. -/
theorem runWordAt_goes (s : State) (e : Engine) (te : Nat) (i : Instr) (hd : Hdr) (mn : At → Mach → Meaning) :
    ∃ m, (.next (runWordAt s e te i hd mn) : Out) = s.goes m := by
  unfold runWordAt
  dsimp only
  split <;> exact ⟨_, rfl⟩
theorem runRv_goes (s : State) (i : Instr) (mn : At → Mach → Meaning) : ∃ m, (.next (runRv s i mn) : Out) = s.goes m := by
  unfold runRv
  dsimp only
  split <;> exact ⟨_, rfl⟩
theorem runEvent_goes (s : State) (f : Nat → Mach → Mach) : ∃ m, (.next (runEvent s f) : Out) = s.goes m := ⟨_, rfl⟩

/-- Every arm of `exec` is a rendezvous, an event, or a word at one engine. -/
theorem exec_goes (i : Instr) (s : State) : ∃ m, exec i s = s.goes m := by
  cases i
  case align | exit | bar | phase | mark | trap | sys | eret | psw => exact runRv_goes ..
  case resultLanding | pendingTokenEntry | bankAccess | meshFlitAdvance | translationWalk | saccAccept | watchdogExpiry |
    timerExpiry | recordedFaultDelivery | handSwapActivate | autoHandSwitch | ttRingReadReturn | ttEntryStart | tierShardArrival |
    tierShardTimeout | ttEntryEnd | tierRequestEnd | specFetchEnd | stsetImageReturn | copyStart | copyUnit | copyComplete |
    leaseGrant | wldStart | wldComplete | wdropAct | mmaStart | mmaComplete | modeCommandComplete | bandIdleOff | bandWakeDone |
    accumCommandStart | accumCommandComplete | rslvStart | emapUpdate | frameArrival | heldFrameResume | dispComplete |
    pbitCommandStart | pbitSweep | pbitCommandComplete | dealIteration | launchComplete | barrierComplete | flagWaitServed |
    remoteFincArrival | contextAgentFinc | shapeVariableWrite | queueSchedulerPass | queueLaunchStart | queueWait | queueSignal |
    queueNop | notify | memwr | memrd | regwr | regrd | attest | haltlog | ctxnew | ctxend | remoteRowArrival | peerAck |
    peerAckTimeout | collBlockExchange | collStepArrival | collComplete | parkrpl | parkdis | dnext | drxrWrite | drxWrite |
    dlstWrite | dovfWrite | spteOpen | spteFree | ttctlWrite | swinWrite | qRegisterWrite | cpqnWrite | boostRequest |
    boostWithdraw | boostAnswer | boostExpiry | powerWindow | sensorSample | zcmdEvacuate | zcmdRefill | evacStateAdvance |
    evacTimeout | pevqrWrite | rpctlWrite | replayDivergence | ptpMessage | ttmissRead | ttlateRead | frznRead | dcntRead |
    sptcntRead | ecntRead | controlRegisterWrite | deviceReset | bootVerification | cxlLinkChange | uePortLinkChange |
    peerReadArrival | tlbiComplete =>
    exact runEvent_goes ..
  all_goals exact runWordAt_goes ..

/-! ## What a step plans -/

/-- An action that goes on from a state of time `now`. -/
def Action.KeepsTb (now : Nat) : Action → Prop
  | .run _ s => s.tb = now
  | .quiet s => s.tb = now
  | .stop _ => False

theorem Action.keepsTb_ite {now : Nat} {c : Prop} [Decidable c] {a b : Action} (ha : a.KeepsTb now) (hb : b.KeepsTb now) :
    (if c then a else b).KeepsTb now := by
  split
  · exact ha
  · exact hb
theorem issueWord_keepsTb {s : State} {now : Nat} (h : s.tb = now) (r te : Nat) (w : W64) (brk : Bool) : (issueWord s r te w brk).KeepsTb now := by
  unfold issueWord
  split
  · exact h
  · split <;> exact h
theorem attemptWord_keepsTb (s : State) (r : Nat) (e : Engine) (k : Nat) (w : Option W64) : (attemptWord s r e k w).KeepsTb s.tb := by
  unfold attemptWord
  refine Action.keepsTb_ite rfl ?_
  cases w with
  | none => exact rfl
  | some w =>
    dsimp only
    split
    · split
      · refine issueWord_keepsTb ?_ _ _ _ _
        rfl
      · exact rfl
    · refine issueWord_keepsTb ?_ _ _ _ _
      rfl
theorem attemptTurn_keepsTb (s : State) (r : Nat) (e : Engine) : (attemptTurn s r e).KeepsTb s.tb := by
  unfold attemptTurn
  refine Action.keepsTb_ite rfl (Action.keepsTb_ite rfl (Action.keepsTb_ite rfl (Action.keepsTb_ite rfl ?_)))
  split
  · exact rfl
  · exact attemptWord_keepsTb ..
theorem boundaryTurn_keepsTb (s : State) (r : Nat) : (boundaryTurn s r).KeepsTb s.tb := by
  unfold boundaryTurn
  exact Action.keepsTb_ite rfl (Action.keepsTb_ite rfl (Action.keepsTb_ite rfl rfl))
theorem serveOr_keepsTb {s : State} {early : Bool} {k : Action} (h : s.m.nextDue s.tb early = none → k.KeepsTb s.tb) :
    (serveOr s early k).KeepsTb s.tb := by
  unfold serveOr
  split
  · dsimp only
    split <;> exact rfl
  · next hnone => exact h hnone

/-- A fold whose steps all find something finds something in a list that is not empty. -/
theorem isSome_foldl_of_step {α β : Type} {f : Option α → β → Option α} (hf : ∀ b x, (f b x).isSome = true) {l : List β} (hl : l ≠ [])
    (b : Option α) : (l.foldl f b).isSome = true := by
  rw [← List.dropLast_concat_getLast hl, List.foldl_append]
  exact hf _ _
/-- Where no event is due, the head of the agenda is later. -/
theorem head_later_of_nextDue {m : Mach} {now : Nat} {p : Nat × Instr} (h : m.nextDue now false = none) (hp : m.agenda.head? = some p) :
    now < p.1 := by
  obtain ⟨t, ha⟩ := List.head?_eq_some_iff.1 hp
  by_contra hle
  have hdue : (m.agenda.takeWhile (fun p => decide (p.1 ≤ now))).zipIdx ≠ [] := by
    rw [ha, List.takeWhile_cons, if_pos (by simpa using hle)]
    simp
  refine Option.isSome_iff_ne_none.1 ?_ (Option.map_eq_none_iff.1 h)
  refine isSome_foldl_of_step (fun b x => ?_) hdue none
  simp only [Bool.false_and, Bool.false_eq_true, if_false]
  split
  · rfl
  · split <;> rfl

/-- What a step plans on a machine that has named no absent memory: the cycle ends, or the time stays. -/
theorem plan_spec {s : State} (hbad : s.m.bad = none) : (plan s).KeepsTb s.tb ∨
    plan s = .quiet (tickState s) ∧ s.turn = .tick ∧ ∀ p, s.m.agenda.head? = some p → s.tb < p.1 := by
  cases hturn : s.turn with
  | serve =>
    have hplan : plan s = serveTurn s := by simp [plan, hbad, hturn]
    exact .inl (hplan ▸ serveOr_keepsTb fun _ => rfl)
  | boundary r =>
    have hplan : plan s = boundaryTurn s r := by simp [plan, hbad, hturn]
    exact .inl (hplan ▸ boundaryTurn_keepsTb s r)
  | attempt r e => exact .inl (plan_attempt hbad hturn ▸ attemptTurn_keepsTb s r e)
  | tick =>
    have hplan : plan s = tickTurn s := by simp [plan, hbad, hturn]
    rw [hplan, tickTurn]
    cases hdue : s.m.nextDue s.tb false with
    | none => exact .inr ⟨by simp [serveOr, hdue], rfl, fun p => head_later_of_nextDue hdue⟩
    | some q => exact .inl (serveOr_keepsTb fun hnone => by rw [hdue] at hnone; cases hnone)

/-- A step from an action that keeps the time. -/
theorem step_of_keepsTb {s : State} (h : (plan s).KeepsTb s.tb) : ∃ t, step s = .next t ∧ t.tb = s.tb := by
  unfold step
  cases ha : plan s with
  | run i s' =>
    rw [ha] at h
    obtain ⟨m, hm⟩ := exec_goes i s'
    exact ⟨_, hm, h⟩
  | quiet s' =>
    rw [ha] at h
    exact ⟨_, rfl, h⟩
  | stop f =>
    rw [ha] at h
    exact h.elim

theorem step_of_bad {s : State} {pa : Nat} (hbad : s.m.bad = some pa) : step s = .fault (.absentMemory pa) := by
  simp [step, plan, hbad]

/-- What a step of a machine that has named no absent memory does to TB. -/
theorem step_spec {s : State} (hbad : s.m.bad = none) : ∃ t, step s = .next t ∧ (t.tb = s.tb ∨ t.tb = s.tb + 1 ∧ s.turn = .tick ∧ t.turn = .serve ∧
    ∀ p, s.m.agenda.head? = some p → s.tb < p.1) := by
  rcases plan_spec hbad with h | ⟨hplan, hturn, hlater⟩
  · obtain ⟨t, ht, htb⟩ := step_of_keepsTb h
    exact ⟨t, ht, .inl htb⟩
  · exact ⟨_, step_of_plan_quiet hplan, .inr ⟨rfl, hturn, rfl, hlater⟩⟩

/-- Settles O55: every arm by its frame, a step by what it plans. -/
theorem everyStepGoesOn : Obligations.EveryStepGoesOn := by
  refine ⟨exec_goes, fun s => ⟨fun hbad => ?_, fun pa => step_of_bad⟩, fun s t hstep => ?_⟩
  · obtain ⟨t, ht, -⟩ := step_spec hbad
    exact ⟨t, ht⟩
  · cases hbad : s.m.bad with
    | none =>
      obtain ⟨t', ht', htb⟩ := step_spec hbad
      obtain rfl : t' = t := by simpa using ht'.symm.trans hstep
      exact htb
    | some pa =>
      rw [step_of_bad hbad] at hstep
      cases hstep

end Sys2Proof.Machine
end

section
/-! PROOFS. The machine right after reset (19 R361, 07 R149). -/

namespace Sys2Proof.Machine


/-- CR of a hand at ring 0 with no handler active. -/
theorem crValue_default : ({} : Hand).crValue = 0 := by decide

/-- Settles O60: no map of the reset state lists a key, so that every field is its default. -/
theorem resetState : Obligations.ResetState := by
  refine ⟨rfl, rfl, rfl, rfl, fun r _ => ?_⟩
  refine ⟨rfl, rfl, rfl, rfl, rfl, rfl, rfl, fun _ => rfl, fun _ => rfl, ?_, ?_, ?_, ?_, ?_, ?_, ?_, ?_, ?_, ?_, ?_, ?_, ?_, ?_, ?_, ?_, ?_, ?_,
    fun b => rfl, rfl, fun z => rfl⟩
  case refine_1 => exact crValue_default
  all_goals
    dsimp only
    rfl

end Sys2Proof.Machine
end

section
/-! PROOFS. Divergence and the end of a recording (21 R401, R402), fabric time and links (21 R395, 27 R413, R417). -/

namespace Sys2Proof.Machine

/-! ## A replay that diverges (21 R401) -/

/-- A fault recorded against each hand of a list, none twice. -/
theorem foldl_recordFault_pending {f : FaultRec} {r : Nat} : ∀ {l : List Nat} {m : Mach}, l.Nodup → (m.hand r).pending.length < 8 →
    ((l.foldl (fun m r => m.recordFault r f) m).hand r).pending = (m.hand r).pending ++ if r ∈ l then [f] else []
  | [], m, _, _ => by simp
  | q :: l, m, hnodup, hlen => by
    obtain ⟨hq, hnodup'⟩ := List.nodup_cons.1 hnodup
    rw [List.foldl_cons]
    by_cases hr : r = q
    · subst hr
      have hpend : ((m.recordFault r f).hand r).pending = (m.hand r).pending ++ [f] := by
        rw [Mach.recordFault, Mach.modHand_hand_get, if_pos rfl, if_neg (Nat.not_le.2 hlen)]
      have hrest (t : Mach) : ((l.foldl (fun m r => m.recordFault r f) t).hand r).pending = (t.hand r).pending :=
        List.foldlRecOn (motive := fun u : Mach => (u.hand r).pending = (t.hand r).pending) _ _ rfl fun u hu q hql => by
          rw [Mach.recordFault, Mach.modHand_hand_get, if_neg (fun h : r = q => hq (h ▸ hql)), hu]
      rw [hrest, hpend, if_pos (List.mem_cons_self ..)]
    · have hhand : (m.recordFault q f).hand r = m.hand r := by rw [Mach.recordFault, Mach.modHand_hand_get, if_neg hr]
      rw [foldl_recordFault_pending hnodup' (by rwa [hhand]), hhand]
      simp [hr]

/-- A replay that diverges: the bit is set, and each thread of the partition has its fault. -/
theorem diverge_spec {m : Mach} {p : Nat} (ix : Nat) (hstat : (m.part p).rpstat ≠ 1) : let t := m.diverge p ix
    t.mem = m.mem ∧ (t.part p).rpstat = 1 ∧ ∀ r, (∃ h, (r, h) ∈ m.hands) → (m.hands.map (·.1)).Nodup → (m.hand r).pending.length < 8 →
      (t.hand r).pending = (m.hand r).pending ++
        (if (m.hand r).thread = true ∧ m.partOf r = p then [⟨0x1F, 0, [8, BitVec.ofNat 64 ix]⟩] else []) := by
  intro t
  have ht : t = (m.hands.keys.filter (fun r => (m.hand r).thread && m.partOf r == p)).foldl
    (fun m r => m.recordFault r ⟨0x1F, 0, [8, slotN ix]⟩) (m.modPart p (fun x => { x with rpstat := 1 })) := if_neg hstat
  refine ⟨?_, ?_, fun r hr hnodup hlen => ?_⟩
  · rw [ht]
    exact List.foldlRecOn (motive := fun u : Mach => u.mem = m.mem) _ _ rfl fun u hu _ _ => hu
  · rw [ht]
    refine List.foldlRecOn (motive := fun u : Mach => (u.part p).rpstat = 1) _ _ ?_ fun u hu _ _ => hu
    rw [Mach.modPart_part_get, if_pos rfl]
  · obtain ⟨h, hmem⟩ := hr
    have hkey : r ∈ m.hands.keys := List.mem_map.2 ⟨_, hmem, rfl⟩
    have hkeys : m.hands.keys.Nodup := hnodup
    rw [ht]
    refine (foldl_recordFault_pending (hkeys.filter _) (by exact hlen)).trans ?_
    refine congrArg ((m.hand r).pending ++ ·) (if_congr ?_ rfl rfl)
    simp [hkey]

/-! ## A recording that is to stop (21 R402) -/

section
variable {m : Mach} {p : Nat} (now : Nat) (hmode : (m.part p).rpMode = 1)

theorem stopLog_of_not_stopping (h : (m.part p).rpMode ≠ 1 ∨ (m.part p).rpStop = 0) : m.stopLog now p = m :=
  if_pos (by simpa using h)
include hmode
theorem stopLog_of_full (hstop : (m.part p).rpStop ≠ 0) (hfull : (m.part p).logFull = true) :
    m.stopLog now p = (m.setPart p { m.part p with rpStop := 1 }).post (now + 1) (.replayDivergence p stopIndex) := by
  simp [Mach.stopLog, hmode, hstop, hfull]
theorem stopLog_of_room (hstop : (m.part p).rpStop = 1) (hroom : (m.part p).logFull = false) :
    m.stopLog now p = (m.setPart p { m.part p with rpStop := 2 }).post (now + 1) (.replayDivergence p stopIndex) := by
  simp [Mach.stopLog, hmode, hstop, hroom]
theorem stopLog_of_room_again (hstop : 2 ≤ (m.part p).rpStop) (hroom : (m.part p).logFull = false) :
    m.stopLog now p = m.modPart p (fun x => { x with cr := x.cr.set 0x0B3 (slotN 0), rpw := 0, rpr := 0, rpUsed := [], ords := [], rpStop := 0 }) := by
  have h0 : (m.part p).rpStop ≠ 0 := by omega
  have h1 : (m.part p).rpStop ≠ 1 := by omega
  simp [Mach.stopLog, Mach.setRpMode, hmode, h0, h1, hroom]
end

/-! ## The obligation -/

theorem exec_replayDivergence (s : State) (p ix : Nat) : exec (.replayDivergence p ix) s =
    s.goes (if ix = stopIndex then s.m.stopLog s.tb p
      else if (s.m.part p).rpMode == 2 && (s.m.part p).rpr == ix && (s.m.part p).rpw != (s.m.part p).rpr && decide ((s.m.part p).rpDue ≤ s.tb)
      then s.m.diverge p ix else s.m) := rfl
theorem exec_replayDivergence_stop (s : State) (p : Nat) : exec (.replayDivergence p stopIndex) s = s.goes (s.m.stopLog s.tb p) :=
  (exec_replayDivergence s p stopIndex).trans (congrArg (State.goes s) (if_pos rfl))

/-- Settles O53: divergence by `diverge_spec`, the end of a recording case by case, time and links by what their events write. -/
theorem replayTimeAndLinks : Obligations.ReplayTimeAndLinks := by
  refine ⟨fun s p ix => ?_, fun m now p v hv hfull => ?_, fun s o => ⟨rfl, rfl⟩, fun s p wid rate g up hp hwid hrate => ?_, fun s p up hp => ?_⟩
  · intro x
    refine ⟨fun hix hmode hrpr hrpw hdue hstat => ?_, fun hix hno => ?_, fun h => ?_, fun hmode hstop hfull => ?_, fun hmode hstop hroom => ?_,
      fun hmode hstop hroom => ?_⟩
    · refine ⟨_, (exec_replayDivergence s p ix).trans ?_, diverge_spec ix hstat⟩
      rw [if_neg hix, if_pos (by simpa using ⟨⟨⟨hmode, hrpr⟩, hrpw⟩, hdue⟩)]
    · rw [exec_replayDivergence, if_neg hix, if_neg]
      simp only [Bool.and_eq_true, beq_iff_eq, bne_iff_ne, decide_eq_true_eq]
      rintro ⟨⟨⟨hmode, hrpr⟩, hrpw⟩, hdue⟩
      rcases hno with h | h | h | h
      · exact h hmode
      · exact h hrpr
      · exact hrpw h
      · exact absurd hdue (Nat.not_le.2 h)
    · rw [exec_replayDivergence_stop, stopLog_of_not_stopping s.tb h]
    · rw [exec_replayDivergence_stop, stopLog_of_full s.tb hmode hstop hfull]
    · rw [exec_replayDivergence_stop, stopLog_of_room s.tb hmode hstop hroom]
    · refine ⟨_, (exec_replayDivergence_stop s p).trans (congrArg (State.goes s) (stopLog_of_room_again s.tb hmode hstop hroom)), rfl, rfl, ?_⟩
      rw [Mach.modPart_part_get, if_pos rfl]
      refine ⟨?_, rfl, rfl⟩
      rw [Part.rpMode, Part.reg, KMap.get_set_same]
      rfl
  · exact if_pos (by simp [hv, hfull])
  · have hexec : exec (.cxlLinkChange p up wid rate g) s = execCxlLinkChange p up wid rate g s := rfl
    rw [hexec, execCxlLinkChange, runEvent]
    simp only [Nat.mod_eq_of_lt hp, Nat.mod_eq_of_lt hrate]
    rfl
  · have hexec : exec (.uePortLinkChange p up) s = execUePortLinkChange p up s := rfl
    rw [hexec, execUePortLinkChange, runEvent]
    simp only [Nat.mod_eq_of_lt hp]

end Sys2Proof.Machine
end

section
/-! PROOFS. The p-bit words: a command joins the queue of its die's array (16 R304, R305, R313). -/

namespace Sys2Proof.Machine

/-! ## A command accepted (16 R305) -/

section
variable (m : Mach) (now d : Nat)

@[simp] theorem Mach.pbKick_hands : (m.pbKick now d).hands = m.hands := by
  unfold Mach.pbKick
  split
  · rfl
  · split <;> rfl
@[simp] theorem Mach.pbKick_mem : (m.pbKick now d).mem = m.mem := by
  unfold Mach.pbKick
  split
  · rfl
  · split <;> rfl
/-- The first command of a queue that has not started is to start in this cycle. -/
theorem Mach.pbKick_of_waiting {c : PbCmd} {t : List PbCmd} (hq : (m.die d).queue = c :: t) (hst : c.started = false) : m.pbKick now d =
    (m.modDie d (fun x => { x with queue := { c with startT := now } :: t })).post now (.pbitCommandStart d) := by
  simp [Mach.pbKick, hq, hst]
end

theorem pbitJoins_of_accept {s : State} {i : Instr} {m : Mach} {op : PbOp} {push : Nat} {takes : Bool}
    (hexec : exec i s = s.goes (m.pbAccept s.tb s.cur op push takes)) (hmem : m.mem = s.m.mem) (hdies : ∀ e, m.die e = s.m.die e)
    (hctx : (m.hand s.cur).ctx = s.hand.ctx) : Claims.PbitJoins s i m.hands op push takes := by
  set d := dieOf (clusterOf s.cur) with hd
  set c : PbCmd := { hand := s.cur, ctx := s.hand.ctx, op := op, push := push } with hc
  set joined := m.modDie d (fun x =>
    { x with owner := if takes && x.owner.isNone then some s.hand.ctx else x.owner, queue := x.queue ++ [c] }) with hjoined
  have haccept : m.pbAccept s.tb s.cur op push takes = if (s.m.die d).queue.isEmpty then joined.pbKick s.tb d else joined := by
    unfold Mach.pbAccept
    simp only [hctx]
    rw [← hdies d]
    rfl
  have hdie : joined.die d = { s.m.die d with owner := if takes && (s.m.die d).owner.isNone then some s.hand.ctx else (s.m.die d).owner,
                                              queue := (s.m.die d).queue ++ [c] } := by
    rw [hjoined, Mach.modDie_die_get, if_pos rfl, hdies]
  have hother (e : Nat) (he : e ≠ d) : joined.die e = s.m.die e := by rw [hjoined, Mach.modDie_die_get, if_neg he, hdies]
  by_cases hidle : (s.m.die d).queue = []
  · have hkick : joined.pbKick s.tb d = (joined.modDie d (fun x => { x with queue := [{ c with startT := s.tb }] })).post s.tb
        (.pbitCommandStart d) := joined.pbKick_of_waiting s.tb d (by rw [hdie, hidle]; rfl) rfl
    rw [haccept, if_pos (by rw [hidle]; rfl), hkick] at hexec
    refine ⟨_, hexec, rfl, hmem, fun e he => ?_, ?_, ?_, ?_, fun _ => ⟨{ c with startT := s.tb }, ?_, rfl, Mach.mem_post_agenda ..⟩⟩
    · rw [Mach.post_die_get, Mach.modDie_die_get, if_neg he, hother e he]
    all_goals rw [Mach.post_die_get, Mach.modDie_die_get, if_pos rfl, hdie]
    rw [hidle]
    rfl
  · rw [haccept, if_neg (by simpa using hidle)] at hexec
    refine ⟨_, hexec, rfl, hmem, hother, ?_, ?_, ?_, fun h => absurd h hidle⟩
    all_goals rw [hdie]
    rw [List.map_append]
    rfl

/-! ## The checks of a p-bit word -/

section
variable {s : State}

theorem pbOwn_eq_none (h : Claims.PbitMay s) : s.m.pbOwn s.cur = none := by
  obtain ⟨hown | hown, -⟩ := h <;> exact trapIf_eq_none.2 (by simp [dieOfHand, hown])
theorem pbFull_eq_none (h : Claims.PbitMay s) : s.m.pbFull s.cur = none := by
  obtain ⟨-, hroom⟩ := h
  exact freezeIf_eq_none.2 (decide_eq_false (Nat.not_le.2 hroom))

/-- A p-bit word with a queue operand issues once its sources have landed and its own checks pass. -/
theorem pbMeaning_joins {i : Instr} {hd : Hdr} {os : List Opnd} {own : List Entry → List (Option Stop)} {op : List Entry → PbOp}
    (hexec : exec i s = .next (runWord s .m i (lateHdr hd) (fun x m => pbMeaning x m hd os own op)))
    (hsrc : Sources s .m os []) (hown : ∀ c ∈ own (opValues s.hand .m os), c = none) (hmay : Claims.PbitMay s)
    (h : MayIssue s .m i (lateHdr hd)) :
    Claims.PbitJoins s i (s.took .m hd os).hands (op (opValues s.hand .m os)) (pushFifo .m hd.push) true := by
  have hissue : exec i s = s.goes ((s.took .m hd os).pbAccept s.tb s.cur (op (opValues s.hand .m os)) (pushFifo .m hd.push) true) := by
    rw [hexec]
    refine (congrArg Host.Outcome.next (runWord_issues h rfl (Nat.zero_le _) ?_)).trans ?_
    · refine (queueOwn_of_sources hsrc _).trans (firstStop_eq_none.2 ?_)
      simp only [List.cons_append, List.forall_mem_cons, List.mem_append, List.mem_singleton]
      refine ⟨pbOwn_eq_none hmay, fun c hc => ?_⟩
      rcases hc with hc | rfl
      · exact hown c hc
      · exact pbFull_eq_none hmay
    · rfl
  exact pbitJoins_of_accept hissue rfl (fun _ => rfl) (s.took_sameBeside .m hd os).ctx

/-! ## The words -/

theorem exec_pbld_joins {w : MC} (halign : (s.hand.streg w.stream.toNat).toNat % 128 = 0)
    (hstride : stField (s.hand.streg w.stream.toNat) 64 32 % 128 = 0)
    (hown : ∀ i, i < 16 * w.count.toNat → s.m.ownSlice s.cur (stRowAt (s.hand.streg w.stream.toNat) i) 256 = true)
    (hmay : Claims.PbitMay s) (h : MayIssue s .m (.pbld w) (lateHdr w.hdr)) : Claims.PbitJoins s (.pbld w) (s.issued .m w.hdr).hands
      (.ld (s.hand.streg w.stream.toNat) w.row0.toNat w.count.toNat) (pushFifo .m w.hdr.push) true := by
  set st := s.hand.streg w.stream.toNat with hst
  have hlow : (bits st 0 64).toNat % 128 = 0 := by
    rw [bits_zero_toNat, Nat.mod_mod_of_dvd _ (by decide : 128 ∣ 2 ^ 64), halign]
  have hslices : ((List.range (16 * w.count.toNat)).map (fun i => stRowAt st i)).find? (fun a => !s.m.ownSlice s.cur a 256) = none := by
    simpa [List.find?_eq_none] using hown
  have hissue : exec (.pbld w) s = s.goes ((s.issued .m w.hdr).pbAccept s.tb s.cur (.ld st w.row0.toNat w.count.toNat)
      (pushFifo .m w.hdr.push) true) := by
    refine (congrArg Host.Outcome.next (runWord_issues h rfl (Nat.zero_le _) ?_)).trans rfl
    refine firstStop_eq_none.2 ?_
    dsimp only
    rw [← hst, hslices]
    simp [pbOwn_eq_none hmay, pbFull_eq_none hmay, hlow, hstride]
  exact pbitJoins_of_accept hissue rfl (fun _ => rfl) (s.issued_sameBeside .m w.hdr).ctx

theorem exec_pbclr_joins {w : Z} (hmay : Claims.PbitMay s) (h : MayIssue s .m (.pbclr w) (lateHdr w.hdr)) :
    Claims.PbitJoins s (.pbclr w) (s.issued .m w.hdr).hands .clr (pushFifo .m w.hdr.push) false := by
  have hissue : exec (.pbclr w) s = s.goes ((s.issued .m w.hdr).pbAccept s.tb s.cur .clr (pushFifo .m w.hdr.push) false) := by
    refine (congrArg Host.Outcome.next (runWord_issues h rfl (Nat.zero_le _) ?_)).trans rfl
    exact firstStop_eq_none.2 (by simp [pbOwn_eq_none hmay, pbFull_eq_none hmay])
  exact pbitJoins_of_accept hissue rfl (fun _ => rfl) (s.issued_sameBeside .m w.hdr).ctx

/-- A word of a context that does not own the array (16 R304). -/
theorem exec_pbclr_traps {w : Z} {k : Nat} (howner : (s.m.die (dieOf (clusterOf s.cur))).owner = some k) (hk : k ≠ s.hand.ctx)
    (hcheck : (Instr.pbclr w).check = none) (hpop : s.hand.popStop s.tb (popFifo .m w.hdr.pop) = none) : exec (.pbclr w) s =
      s.goes (s.m.trap s.tb s.cur { f := ⟨9, 8, []⟩, eng := 2, word := (encode (.pbclr w)).getD 0 }) := by
  have hown : s.m.pbOwn s.cur = some (.trap ⟨9, 8, []⟩) := trapIf_of_true (by simpa [dieOfHand, howner] using hk) 9 8 []
  refine (congrArg Host.Outcome.next (runWord_stops (st := .trap ⟨9, 8, []⟩) ?_)).trans ?_
  · have hring : decide ((s.m.hand s.cur).ring < 0) = false := decide_eq_false (Nat.not_lt_zero _)
    simp only [guardWord, hcheck, hring]
    rw [show (s.m.hand s.cur).popStop s.tb (popFifo .m (lateHdr w.hdr).pop) = none from hpop, hown]
    rfl
  · rw [stopWord_trap (by decide)]
    rfl

theorem elem_zero_of_lt {v : Entry} (h : v.toNat < 2 ^ 16) : elem v 16 0 = v.toNat := by
  rw [elem, Nat.mul_zero, pow_zero, Nat.div_one, Nat.mod_eq_of_lt h]
theorem bits_high_eq_zero {n : Nat} {v : BitVec n} {lo : Nat} (len : Nat) (h : v.toNat < 2 ^ lo) : bits v lo len = 0 := by
  apply BitVec.eq_of_toNat_eq
  rw [bits_toNat, Nat.div_eq_of_lt h, Nat.zero_mod]
  rfl

/-- The operand of a p-bit word (16 R313). -/
abbrev pbSource (w : VVI) : List Opnd := [⟨w.a.toNat, w.ka, false, 4⟩]

theorem exec_pbclmp_joins {w : VVV} (hsrc : Sources s .m [⟨w.a.toNat, w.ka, false, 4⟩] [])
    (hlanes : ∀ j, j < 32 → (lane (Claims.operand s .m [⟨w.a.toNat, w.ka, false, 4⟩] 0) j).toNat < 2 ^ 16) (hmay : Claims.PbitMay s)
    (h : MayIssue s .m (.pbclmp w) (lateHdr w.hdr)) : Claims.PbitJoins s (.pbclmp w) (s.took .m w.hdr [⟨w.a.toNat, w.ka, false, 4⟩]).hands
      (.clmp (Claims.operand s .m [⟨w.a.toNat, w.ka, false, 4⟩] 0)) (pushFifo .m w.hdr.push) true := by
  rw [← opValues_headD]
  refine pbMeaning_joins (op := fun vs => .clmp (vs.headD 0)) rfl hsrc ?_ hmay h
  rw [List.forall_mem_singleton, trapIf_eq_none, opValues_headD, List.any_eq_false]
  intro j hj
  rw [bits_high_eq_zero 16 (hlanes j (List.mem_range.1 hj)), bne_self_eq_false]
  exact Bool.false_ne_true

section
variable {w : VVI} (hsrc : Sources s .m (pbSource w) []) (hv : (Claims.operand s .m (pbSource w) 0).toNat < 2 ^ 16) (hmay : Claims.PbitMay s)
  (h : MayIssue s .m (.pbswp w) (lateHdr w.hdr))
include hsrc hv hmay h

theorem exec_pbswp_joins (hgood : (s.m.die (dieOf (clusterOf s.cur))).bad = false) :
    Claims.PbitJoins s (.pbswp w) (s.took .m w.hdr (pbSource w)).hands (.swp (Claims.operand s .m (pbSource w) 0).toNat (w.imm.toNat + 1))
      (pushFifo .m w.hdr.push) true := by
  have hjoins := pbMeaning_joins (op := fun vs => .swp (elem (vs.headD 0) 16 0) (w.imm.toNat + 1)) (i := .pbswp w) rfl hsrc (by
    simp only [List.forall_mem_cons, trapIf_eq_none]
    rw [opValues_headD, bits_high_eq_zero 1008 hv]
    exact ⟨bne_self_eq_false _, hgood, List.forall_mem_nil _⟩) hmay h
  rw [opValues_headD, elem_zero_of_lt hv] at hjoins
  exact hjoins
/-- A sweep of an array that its colouring marks BAD. -/
theorem exec_pbswp_traps (hbad : (s.m.die (dieOf (clusterOf s.cur))).bad = true) : exec (.pbswp w) s =
    s.goes (s.m.trap s.tb s.cur { f := ⟨0x18, 2, []⟩, eng := 2, word := (encode (.pbswp w)).getD 0 }) := by
  refine (congrArg Host.Outcome.next (runWord_stops (st := .trap ⟨0x18, 2, []⟩) (guardWord_eq_own h rfl (Nat.zero_le _) ?_))).trans ?_
  · refine (queueOwn_of_sources hsrc _).trans ?_
    have hhigh : trapIf (bits ((opValues s.hand .m (pbSource w)).headD 0) 16 1008 != 0) 1 8 = none :=
      trapIf_eq_none.2 (by rw [opValues_headD, bits_high_eq_zero 1008 hv, bne_self_eq_false])
    have hmark : trapIf (s.m.die (dieOfHand s.cur)).bad 0x18 2 = some (.trap ⟨0x18, 2, []⟩) := trapIf_of_true hbad 0x18 2 []
    dsimp only
    rw [pbOwn_eq_none hmay, hhigh, hmark]
    rfl
  · rw [stopWord_trap (by decide)]
    rfl
end

theorem exec_pbrd_joins {w : VVI} (hqueue : s.hand.queueStop [] [w.d.toNat] = none) (hmay : Claims.PbitMay s)
    (h : MayIssue s .m (.pbrd w) (lateHdr w.hdr)) :
    Claims.PbitJoins s (.pbrd w) ((s.issued .m w.hdr).issueResult s.cur [.queue w.d.toNat 0] 0 0 0 false false).hands
      (.rd (w.imm.getLsbD 12) (w.imm.toNat % 256) s.m.nextId) (pushFifo .m w.hdr.push) true := by
  set m := (s.issued .m w.hdr).issueResult s.cur [.queue w.d.toNat 0] 0 0 0 false false with hm
  have hsrc : Sources s .m [] [w.d.toNat] := ⟨hqueue, List.forall_mem_nil _⟩
  have hid : m.lastId = s.m.nextId := by rw [hm, Mach.lastId, Mach.issueResult_nextId]; rfl
  have hrow : (bits w.imm 0 8).toNat = w.imm.toNat % 256 := bits_zero_toNat _ _
  have hissue : exec (.pbrd w) s = s.goes (m.pbAccept s.tb s.cur (.rd (w.imm.getLsbD 12) (w.imm.toNat % 256) s.m.nextId)
      (pushFifo .m w.hdr.push) true) := by
    rw [← hid, ← hrow]
    refine (congrArg Host.Outcome.next (runWord_issues h rfl (Nat.zero_le _) ?_)).trans rfl
    refine (queueOwn_of_sources hsrc _).trans (firstStop_eq_none.2 ?_)
    simp [pbOwn_eq_none hmay, pbFull_eq_none hmay]
  exact pbitJoins_of_accept hissue (Mach.issueResult_mem ..) (fun e => Mach.issueResult_die_get ..)
    ((s.issued_sameBeside .m w.hdr).trans (Mach.issueResult_hand ..)).ctx

section
variable {w : VVI} (hmay : Claims.PbitMay s) (h : MayIssue s .m (.pbseed w) (lateHdr w.hdr))
include hmay h

/-- PBSEED of a value. -/
theorem exec_pbseed_value_joins (hent : w.imm.getLsbD 0 = false) (hsrc : Sources s .m (pbSource w) []) :
    Claims.PbitJoins s (.pbseed w) (s.took .m w.hdr (pbSource w)).hands (.seed false (lane (Claims.operand s .m (pbSource w) 0) 0))
      (pushFifo .m w.hdr.push) true := by
  rw [← opValues_headD]
  refine pbMeaning_joins (own := fun _ => []) (op := fun vs => .seed false (lane (vs.headD 0) 0)) ?_ hsrc (List.forall_mem_nil _) hmay h
  have hexec : exec (.pbseed w) s = execPbseed w s := rfl
  have hbit : bit w.imm 0 = false := hent
  rw [hexec, execPbseed]
  simp only [hbit, Bool.false_eq_true, if_false]
/-- PBSEED that turns the entropy source on. -/
theorem exec_pbseed_entropy_joins (hent : w.imm.getLsbD 0 = true) :
    Claims.PbitJoins s (.pbseed w) (s.issued .m w.hdr).hands (.seed true 0) (pushFifo .m w.hdr.push) true := by
  have hsrc : Sources s .m [] [] := ⟨by simp [Hand.queueStop, Hand.opReads], List.forall_mem_nil _⟩
  have hhands : (s.took .m w.hdr []).hands = (s.issued .m w.hdr).hands := by
    rw [State.took, State.issued, Mach.modHand_modHand]
    rfl
  rw [← hhands]
  refine pbMeaning_joins (own := fun _ => []) (op := fun _ => .seed true 0) ?_ hsrc (List.forall_mem_nil _) hmay h
  have hexec : exec (.pbseed w) s = execPbseed w s := rfl
  have hbit : bit w.imm 0 = true := hent
  rw [hexec, execPbseed]
  simp only [hbit, if_true]
end

/-- Settles O44: each word by its checks, its command by `pbitJoins_of_accept`. -/
theorem pbitWords : Obligations.PbitWords := by
  refine ⟨fun s w halign hstride hown hmay h => exec_pbld_joins halign hstride hown hmay h, fun s w hmay h => exec_pbclr_joins hmay h,
    fun s w hsrc hlanes hmay h => exec_pbclmp_joins hsrc hlanes hmay h,
    fun s w => fun hsrc hv hmay h => ⟨exec_pbswp_joins hsrc hv hmay h, exec_pbswp_traps hsrc hv hmay h⟩,
    fun s w hqueue hmay h => exec_pbrd_joins hqueue hmay h, fun s w => fun hmay h => ⟨exec_pbseed_value_joins hmay h, exec_pbseed_entropy_joins hmay h⟩,
    fun s w k howner hk hcheck hpop => exec_pbclr_traps howner hk hcheck hpop⟩
end

end Sys2Proof.Machine
end

section
/-! PROOFS. The commands of a p-bit array: starts, cycles, sweeps and completions (16 R307 to R314). -/

namespace Sys2Proof.Machine

/-! ## The cells of an array -/

theorem KMap.get_swapped_zipIdx {α : Type} {d a : α} {l : List α} {k i : Nat} (h : l[i]? = some a) :
    KMap.get d ((l.zipIdx k).map (fun p => (p.2, p.1))) (k + i) = a := by
  induction l generalizing k i with
  | nil => simp at h
  | cons b l ih =>
    cases i with
    | zero => simpa [KMap.get] using h
    | succ i =>
      have hne : k ≠ k + (i + 1) := by omega
      rw [List.zipIdx_cons, List.map_cons, KMap.get, if_neg hne, show k + (i + 1) = k + 1 + i by omega]
      exact ih (by simpa using h)

theorem Die.setCells_get (d : Die) {cs : List PCell} {i : Nat} {c : PCell} (h : cs[i]? = some c) :
    KMap.get {} (d.setCells cs).cells i = c := by
  simpa [Die.setCells] using KMap.get_swapped_zipIdx (d := ({} : PCell)) (k := 0) h

theorem Die.cellList_getElem? (d : Die) {i : Nat} (h : i < 16384) : d.cellList[i]? = some (KMap.get {} d.cells i) := by
  rw [Die.cellList, List.getElem?_map, List.getElem?_range h]
  rfl
/-- Cells replaced one by one, each by what it and its number give. -/
theorem Die.setCells_zipIdx_get (d x : Die) (f : PCell × Nat → PCell) {i : Nat} (h : i < 16384) :
    KMap.get {} (d.setCells (x.cellList.zipIdx.map f)).cells i = f (KMap.get {} x.cells i, i) := by
  apply Die.setCells_get
  rw [List.getElem?_map, List.getElem?_zipIdx, x.cellList_getElem? h]
  simp

/-- The cells of colour `t` step in cycle `t`, from the states before it (16 R310). -/
theorem Die.cycle_cell (d : Die) (b : Int) (n t : Nat) {i : Nat} (h : i < 16384) : KMap.get {} (d.cycle b n t).cells i =
    if (KMap.get {} d.cells i).colour = t then (KMap.get {} d.cells i).step d.cellList.toArray b d.det (Config.entropy (n + i))
    else KMap.get {} d.cells i :=
  d.setCells_zipIdx_get d _ h

/-- One step of a cell (16 R307, R310). -/
theorem PCell.step_spec (c : PCell) (st : Array PCell) (b : Int) (det : Bool) (noise : W32) :
    (c.step st b det noise).x = xorshift c.x ∧ (c.clamp ≠ 0 → (c.step st b det noise).s = c.s) ∧
      (c.clamp = 0 → (c.step st b det noise).s =
        decide ((if det then xorshift c.x else noise).toNat / 2 ^ 20 < sigEntry (sigIndex (c.sum st) b))) := by
  have hhigh (x : W32) : (bits x 20 12).toNat = x.toNat / 2 ^ 20 := by
    rw [bits_toNat, Nat.mod_eq_of_lt]
    have := x.isLt
    omega
  unfold PCell.step
  by_cases hclamp : c.clamp = 0
  · simp [hclamp, hhigh]
  · simp [hclamp]

theorem Die.setCells_nsw (d : Die) (cs : List PCell) : (d.setCells cs).nsw = d.nsw := rfl
theorem Die.cycle_nsw (d : Die) (b : Int) (n t : Nat) : (d.cycle b n t).nsw = d.nsw := by
  unfold Die.cycle
  exact d.setCells_nsw _
theorem Die.cycles_nsw (d : Die) (b : Int) (n : Nat) (l : List Nat) : (l.foldl (fun d t => d.cycle b n t) d).nsw = d.nsw := by
  induction l generalizing d with
  | nil => rfl
  | cons t l ih => rw [List.foldl_cons, ih, Die.cycle_nsw]
/-- An array after the eight cycles of a sweep. -/
def Die.cycled (d : Die) (b : Int) (n : Nat) : Die := (List.range 8).foldl (fun d t => d.cycle b n t) d
/-- An array whose cells at 1 have been counted. -/
def Die.counted (d : Die) : Die := d.setCells (d.cellList.map (fun c => if c.s then { c with count := min 65535 (c.count + 1) } else c))
/-- A sweep is eight cycles, and then the cells at 1 are counted (16 R310). -/
theorem Die.sweep_eq (d : Die) (b : Int) (n : Nat) :
    d.sweep b n = { (d.cycled b n).counted with nsw := (d.cycled b n).counted.nsw + 1 } := by
  unfold Die.sweep Die.counted Die.cycled
  dsimp only
theorem Die.counted_nsw (d : Die) : d.counted.nsw = d.nsw := by
  unfold Die.counted
  exact d.setCells_nsw _
theorem Die.sweep_nsw (d : Die) (b : Int) (n : Nat) : (d.sweep b n).nsw = d.nsw + 1 := by
  have hnsw : (d.cycled b n).nsw = d.nsw := d.cycles_nsw b n (List.range 8)
  have h := congrArg Die.nsw (d.sweep_eq b n)
  dsimp only at h
  rw [h, Die.counted_nsw, hnsw]
theorem Die.sweep_cell (d : Die) (b : Int) (n : Nat) {i : Nat} (h : i < 16384) : KMap.get {} (d.sweep b n).cells i =
    if (KMap.get {} (d.cycled b n).cells i).s then
      { KMap.get {} (d.cycled b n).cells i with count := min 65535 ((KMap.get {} (d.cycled b n).cells i).count + 1) }
    else KMap.get {} (d.cycled b n).cells i := by
  have hcells := congrArg Die.cells (d.sweep_eq b n)
  dsimp only at hcells
  rw [hcells]
  unfold Die.counted
  refine Die.setCells_get _ ?_
  rw [List.getElem?_map, Die.cellList_getElem? _ h]
  rfl

/-! ## A command starts (16 R313) -/

/-- The sweeps that a command has left at its start. -/
def PbCmd.turns (c : PbCmd) : Nat :=
  match c.op with
  | .swp _ n => if c.left = 0 then n else c.left
  | _ => 0
/-- The machine after a command's start: its effect, and the event it then waits for. -/
def Mach.pbStarts (m : Mach) (d : Nat) (c : PbCmd) (t : List PbCmd) : Mach :=
  let m' := (m.pbBegin d c).1.modDie d (fun x => { x with queue := { c with started := true, left := c.turns, val := (m.pbBegin d c).2 } :: t })
  match c.op with
  | .swp _ _ => m'.post (c.startT + 8) (.pbitSweep d)
  | _ => m'.post (c.startT + c.time) (.pbitCommandComplete d)

theorem exec_pbitCommandStart {s : State} {d : Nat} {c : PbCmd} {t : List PbCmd} (hq : (s.m.die d).queue = c :: t) (hst : c.started = false) :
    exec (.pbitCommandStart d) s = s.goes (s.m.pbStarts d c t) := by
  have hexec : exec (.pbitCommandStart d) s = execPbitCommandStart d s := rfl
  rw [hexec, execPbitCommandStart, runEvent]
  simp only [hq, hst, Bool.false_eq_true, if_false]
  rfl

section
variable (m : Mach) (d : Nat) (c : PbCmd) (t : List PbCmd)

theorem Mach.pbStarts_mem : (m.pbStarts d c t).mem = (m.pbBegin d c).1.mem := by
  unfold Mach.pbStarts
  cases c.op <;> rfl
theorem Mach.pbStarts_hands : (m.pbStarts d c t).hands = (m.pbBegin d c).1.hands := by
  unfold Mach.pbStarts
  cases c.op <;> rfl
theorem Mach.pbStarts_die : (m.pbStarts d c t).die d =
    { (m.pbBegin d c).1.die d with queue := { c with started := true, left := c.turns, val := (m.pbBegin d c).2 } :: t } := by
  have hset (f : Die → Die) : ((m.pbBegin d c).1.modDie d f).die d = f ((m.pbBegin d c).1.die d) := by
    rw [Mach.modDie_die_get, if_pos rfl]
  unfold Mach.pbStarts
  dsimp only
  split <;> rw [Mach.post_die_get, hset]
theorem Mach.pbStarts_sweeps {b n : Nat} (hop : c.op = .swp b n) : (c.startT + 8, .pbitSweep d) ∈ (m.pbStarts d c t).agenda := by
  unfold Mach.pbStarts
  rw [hop]
  exact Mach.mem_post_agenda ..
theorem Mach.pbStarts_completes (hop : ∀ b n, c.op ≠ .swp b n) :
    (c.startT + c.time, .pbitCommandComplete d) ∈ (m.pbStarts d c t).agenda := by
  unfold Mach.pbStarts
  cases h : c.op with
  | swp b n => exact absurd h (hop b n)
  | _ => exact Mach.mem_post_agenda ..
end

/-! ## PBLD at its start -/

section
variable {c : PbCmd} {st : BitVec 256} {d c0 : Nat}

theorem Mach.pbLoad_mem (m : Mach) (n i : Nat) : (m.pbLoad c st d c0 n i).1.mem = m.mem := by
  induction n generalizing m i with
  | zero => rfl
  | succ n ih =>
    unfold Mach.pbLoad
    split
    · rfl
    · next bs ks _ =>
      have hread : ((m.countErrors (clusterOf c.hand) ks).noteUE c.hand ks).mem = m.mem := by
        obtain ⟨cs, hcs⟩ := m.countErrors_eq (clusterOf c.hand) ks
        obtain ⟨hmem, -⟩ := (m.countErrors (clusterOf c.hand) ks).noteUE_frame c.hand ks
        rw [hmem, hcs]
      dsimp only
      split
      · exact hread
      · exact (ih _ _).trans hread

/-- A record of memory that no error touches gives a cell (16 R312). -/
def Mach.CellLoads (m : Mach) (c : PbCmd) (st : BitVec 256) (i : Nat) (old new : PCell) : Prop :=
  ∃ bs ks, m.sliceBytes c.hand (stRowAt st i) 256 = .ok (bs, ks) ∧ cellOf bs old.x = some new

theorem Mach.modDie_rowError (m : Mach) (d : Nat) (f : Die → Die) (k : Nat) : (m.modDie d f).rowError k = m.rowError k := rfl
theorem Mach.modDie_sliceBytes (m : Mach) (d : Nat) (f : Die → Die) (r : Nat) (a : W64) (n : Nat) :
    (m.modDie d f).sliceBytes r a n = m.sliceBytes r a n := by
  have hreads : (m.modDie d f).SameReads m := ⟨rfl, rfl, rfl, rfl, rfl⟩
  exact hreads.sliceBytes r a n
theorem Mach.cellLoads_modDie (m : Mach) (f : Die → Die) (i : Nat) (old new : PCell) :
    (m.modDie d f).CellLoads c st i old new ↔ m.CellLoads c st i old new := by
  simp only [Mach.CellLoads, Mach.modDie_sliceBytes]

/-- A record of a PBLD that loads is one cell written. -/
theorem Mach.pbLoad_succ {m : Mach} (hno : ∀ k, m.rowError k = none) {n i : Nat} {new : PCell}
    (hrec : m.CellLoads c st i (KMap.get {} (m.die d).cells (c0 + i)) new) : m.pbLoad c st d c0 (n + 1) i =
      (m.modDie d (fun x => { x with cells := x.cells.set (c0 + i) new })).pbLoad c st d c0 n (i + 1) := by
  obtain ⟨bs, ks, hbytes, hcell⟩ := hrec
  rw [Mach.pbLoad, hbytes]
  dsimp only
  rw [Mach.countErrors_of_no_error hno, Mach.noteUE_of_no_error hno, hcell]

/-- With every record well formed PBLD writes exactly the cells it names, in order (16 R313). -/
theorem Mach.pbLoad_spec (n i : Nat) (m : Mach) (hno : ∀ k, m.rowError k = none)
    (hrec : ∀ j, i ≤ j → j < i + n → ∃ new, m.CellLoads c st j (KMap.get {} (m.die d).cells (c0 + j)) new) :
    let out := m.pbLoad c st d c0 n i
    out.2 = none ∧
      (∀ j, j < c0 + i ∨ c0 + i + n ≤ j → KMap.get {} (out.1.die d).cells j = KMap.get {} (m.die d).cells j) ∧
      ∀ j, i ≤ j → j < i + n → m.CellLoads c st j (KMap.get {} (m.die d).cells (c0 + j)) (KMap.get {} (out.1.die d).cells (c0 + j)) := by
  induction n generalizing i m with
  | zero => exact ⟨rfl, fun _ _ => rfl, fun j h h' => absurd h' (by omega)⟩
  | succ n ih =>
    obtain ⟨new, hnew⟩ := hrec i (Nat.le_refl i) (by omega)
    rw [Mach.pbLoad_succ hno hnew]
    set m1 := m.modDie d (fun x => { x with cells := x.cells.set (c0 + i) new }) with hm1
    have hcells (j : Nat) : KMap.get {} (m1.die d).cells j = if j = c0 + i then new else KMap.get {} (m.die d).cells j := by
      rw [hm1, Mach.modDie_die_get, if_pos rfl, KMap.get_set]
    have hother (j : Nat) (h : j ≠ i) : KMap.get {} (m1.die d).cells (c0 + j) = KMap.get {} (m.die d).cells (c0 + j) := by
      rw [hcells, if_neg (by omega)]
    have hloads (j : Nat) (old new : PCell) : m1.CellLoads c st j old new ↔ m.CellLoads c st j old new := by
      rw [hm1, Mach.cellLoads_modDie]
    obtain ⟨hnone, hout, hin⟩ := ih (i + 1) m1 (fun k => (m.modDie_rowError d _ k).trans (hno k)) (fun j hj hj' => by
      simp only [hother j (by omega), hloads]
      exact hrec j (by omega) (by omega))
    refine ⟨hnone, fun j hj => ?_, fun j hj hj' => ?_⟩
    · rw [hout j (by omega), hcells, if_neg (by omega)]
    · by_cases hji : j = i
      · rw [hji, hout (c0 + i) (by omega), hcells, if_pos rfl]
        exact hnew
      · have := hin j (by omega) (by omega)
        rwa [hother j hji, hloads] at this
end

/-! ## What the other commands do at their start -/

/-- No command of an array writes memory. -/
theorem Mach.pbBegin_mem (m : Mach) (d : Nat) (c : PbCmd) : (m.pbBegin d c).1.mem = m.mem := by
  unfold Mach.pbBegin
  split
  · next st b0 nb _ =>
    have hload := m.pbLoad_mem (c := c) (st := st) (d := d) (c0 := 16 * b0) (16 * nb) 0
    dsimp only
    split
    · exact hload
    · split <;> exact hload
  · rfl
  · rfl
  · dsimp only
    split <;> rfl
  · rfl
  · rfl

/-- The cell and the code that lane `j` of a PBCLMP names. -/
def clampCell (v : Entry) (j : Nat) : Nat := (lane v j).toNat % 2 ^ 14
def clampCode (v : Entry) (j : Nat) : Nat := (lane v j).toNat / 2 ^ 14 % 4
/-- A cell clamped as a code says (16 R313). -/
def PCell.clamped (c : PCell) (code : Nat) : PCell := if code = 0 then { c with clamp := 0 } else { c with clamp := code, s := code == 3 }
/-- What lane `j` of a PBCLMP makes of the cells. -/
def pbClampLane (v : Entry) (t : KMap PCell) (j : Nat) : KMap PCell :=
  if clampCode v j = 1 then t else t.set (clampCell v j) ((KMap.get {} t (clampCell v j)).clamped (clampCode v j))

theorem pbClampLane_other {v : Entry} {j i : Nat} (t : KMap PCell) (h : clampCell v j = i → clampCode v j = 1) :
    KMap.get {} (pbClampLane v t j) i = KMap.get {} t i := by
  unfold pbClampLane
  split
  · rfl
  · next hcode => rw [KMap.get_set, if_neg (fun e => hcode (h e.symm))]
theorem pbClampLane_same {v : Entry} {j : Nat} (t : KMap PCell) (h : clampCode v j ≠ 1) :
    KMap.get {} (pbClampLane v t j) (clampCell v j) = (KMap.get {} t (clampCell v j)).clamped (clampCode v j) := by
  rw [pbClampLane, if_neg h, KMap.get_set_same]

/-- The cells after the first `n` lanes. -/
def pbClampLanes (v : Entry) (t : KMap PCell) (n : Nat) : KMap PCell := (List.range n).foldl (pbClampLane v) t
theorem pbClampLanes_succ (v : Entry) (t : KMap PCell) (n : Nat) : pbClampLanes v t (n + 1) = pbClampLane v (pbClampLanes v t n) n := by
  rw [pbClampLanes, List.range_succ, List.foldl_append]
  rfl
/-- Lanes that do not clamp a cell leave it. -/
theorem pbClampLanes_other {v : Entry} {t : KMap PCell} {i k n : Nat} (hkn : k ≤ n)
    (h : ∀ j, k ≤ j → j < n → clampCell v j = i → clampCode v j = 1) :
    KMap.get {} (pbClampLanes v t n) i = KMap.get {} (pbClampLanes v t k) i := by
  induction n, hkn using Nat.le_induction with
  | base => rfl
  | succ n hn ih =>
    rw [pbClampLanes_succ, pbClampLane_other _ (h n hn (Nat.lt_succ_self n)), ih fun j hk hj => h j hk (Nat.lt_succ_of_lt hj)]
/-- The last lane that names a cell decides it. -/
theorem pbClampLanes_last {v : Entry} {t : KMap PCell} {j n : Nat} (hj : j < n) (hlast : ∀ j', j < j' → j' < n → clampCell v j' ≠ clampCell v j)
    (hcode : clampCode v j ≠ 1) : KMap.get {} (pbClampLanes v t n) (clampCell v j) =
      (KMap.get {} (pbClampLanes v t j) (clampCell v j)).clamped (clampCode v j) := by
  rw [pbClampLanes_other (k := j + 1) hj fun j' h h' e => absurd e (hlast j' h h'), pbClampLanes_succ, pbClampLane_same _ hcode]

section
variable {m : Mach} {d : Nat} {c : PbCmd}

theorem Mach.pbBegin_clmp {v : Entry} (hop : c.op = .clmp v) :
    m.pbBegin d c = (m.modDie d (fun x => { x with cells := pbClampLanes v x.cells 32 }), 0) := by
  have hlane (t : KMap PCell) (j : Nat) : pbClampLane v t j =
      let code := (bits (lane v j) 14 2).toNat
      let i := (bits (lane v j) 0 14).toNat
      let c := KMap.get {} t i
      if code = 1 then t else t.set i (if code = 0 then { c with clamp := 0 } else { c with clamp := code, s := code == 3 }) := by
    unfold pbClampLane clampCode clampCell PCell.clamped
    simp only [bits_toNat, pow_zero, Nat.div_one]
    rfl
  have hlanes : pbClampLane v = _ := funext fun t => funext (hlane t)
  unfold Mach.pbBegin pbClampLanes
  rw [hop, hlanes]
theorem Mach.pbBegin_rd {cnt : Bool} {k res : Nat} (hop : c.op = .rd cnt k res) : m.pbBegin d c =
    (m, if cnt then mkEntry 16 ((List.range 64).map (fun j => (KMap.get {} (m.die d).cells (64 * k + j)).count))
        else mkEntry 1 ((List.range 1024).map (fun j => (KMap.get {} (m.die d).cells (1024 * k + j)).s.toNat))) := by
  rw [Mach.pbBegin, hop]

theorem mkEntry_bits_getLsbD (f : Nat → Bool) {j : Nat} (hj : j < 1024) :
    (mkEntry 1 ((List.range 1024).map (fun j => (f j).toNat))).getLsbD j = f j := by
  have helem := elem_mkEntry_map (w := 1) (fun j => (f j).toNat) hj
  rw [elem, Nat.one_mul, pow_one] at helem
  rw [BitVec.getLsbD, Nat.testBit_eq_decide_div_mod_eq]
  refine (congrArg (fun n : Nat => decide (n = 1)) helem).trans ?_
  cases f j <;> rfl

/-- A PBRD leaves the array and reads counts or states (16 R313). -/
theorem Mach.pbBegin_rd_value {cnt : Bool} {k res : Nat} (hop : c.op = .rd cnt k res) :
    (m.pbBegin d c).1 = m ∧
      (cnt = true → ∀ j, j < 64 → elem (m.pbBegin d c).2 16 j = (KMap.get {} (m.die d).cells (64 * k + j)).count % 2 ^ 16) ∧
      (cnt = false → ∀ j, j < 1024 → (m.pbBegin d c).2.getLsbD j = (KMap.get {} (m.die d).cells (1024 * k + j)).s) := by
  rw [Mach.pbBegin_rd hop]
  refine ⟨rfl, fun hcnt j hj => ?_, fun hcnt j hj => ?_⟩
  · rw [if_pos hcnt]
    exact elem_mkEntry_map _ hj
  · rw [if_neg (by simp [hcnt])]
    exact mkEntry_bits_getLsbD (fun j => (KMap.get {} (m.die d).cells (1024 * k + j)).s) hj
theorem Mach.pbBegin_clr (hop : c.op = .clr) : m.pbBegin d c = (m.modDie d Die.clearArray, 0) := by rw [Mach.pbBegin, hop]
theorem Mach.pbBegin_swp_first {b n : Nat} (hop : c.op = .swp b n) (hleft : c.left = 0) : m.pbBegin d c =
    (m.modDie d (fun x => { x with cells := x.cells.map (fun (p : Nat × PCell) => (p.1, { p.2 with count := 0 })) }), 0) := by
  rw [Mach.pbBegin, hop]
  simp only [hleft, if_true]
theorem Mach.pbBegin_swp_again {b n : Nat} (hop : c.op = .swp b n) (hleft : c.left ≠ 0) : m.pbBegin d c = (m, 0) := by
  rw [Mach.pbBegin, hop]
  simp only [hleft, if_false]
theorem Mach.pbBegin_seed_entropy {v : W32} (hop : c.op = .seed true v) :
    m.pbBegin d c = (m.modDie d (fun x => { x with det := false, nsw := 0 }), 0) := by
  rw [Mach.pbBegin, hop]
  rfl

/-- The generator of cell `i` seeded from a value (16 R313). -/
def seedState (v : W32) (i : Nat) : W32 :=
  if v ^^^ BitVec.ofNat 32 (i * 0x9E3779B9) = 0 then 1 else v ^^^ BitVec.ofNat 32 (i * 0x9E3779B9)
/-- The cells of an array with their generators seeded. -/
def Die.seeded (x : Die) (v : W32) : Die := x.setCells (x.cellList.zipIdx.map (fun p => { p.1 with x := seedState v p.2 }))
theorem Mach.pbBegin_seed_value {v : W32} (hop : c.op = .seed false v) :
    m.pbBegin d c = (m.modDie d (fun x => { x.seeded v with det := true, nsw := 0 }), 0) := by
  rw [Mach.pbBegin, hop]
  rfl
theorem Die.seeded_cell (x : Die) (v : W32) {i : Nat} (h : i < 16384) :
    KMap.get {} (x.seeded v).cells i = { KMap.get {} x.cells i with x := seedState v i } :=
  x.setCells_zipIdx_get x _ h

theorem Die.clash_congr {x y : Die} (h : x.cells = y.cells) : x.clash = y.clash := by
  unfold Die.clash Die.cellList
  rw [h]

/-- A PBLD of well-formed records writes its cells, and BAD says whether a coupling joins equal colours (16 R309, R313). -/
theorem Mach.pbBegin_ld {st : BitVec 256} {b0 nb : Nat} (hop : c.op = .ld st b0 nb) (hno : ∀ k, m.rowError k = none)
    (hrec : ∀ i, i < 16 * nb → ∃ bs ks, m.sliceBytes c.hand (stRowAt st i) 256 = .ok (bs, ks) ∧
      (cellOf bs (KMap.get {} (m.die d).cells (16 * b0 + i)).x).isSome = true) :
    let y := (m.pbBegin d c).1.die d
    (∀ i, i < 16 * b0 ∨ 16 * b0 + 16 * nb ≤ i → KMap.get {} y.cells i = KMap.get {} (m.die d).cells i) ∧
      (∀ i, i < 16 * nb → m.CellLoads c st i (KMap.get {} (m.die d).cells (16 * b0 + i)) (KMap.get {} y.cells (16 * b0 + i))) ∧
      y.bad = y.clash.isSome := by
  obtain ⟨hnone, hout, hin⟩ := Mach.pbLoad_spec (c := c) (st := st) (d := d) (c0 := 16 * b0) (16 * nb) 0 m hno fun j _ hj => by
    obtain ⟨bs, ks, hbytes, hcell⟩ := hrec j (by omega)
    obtain ⟨new, hnew⟩ := Option.isSome_iff_exists.1 hcell
    exact ⟨new, bs, ks, hbytes, hnew⟩
  set out := m.pbLoad c st d (16 * b0) (16 * nb) 0 with hload
  have hbegin : m.pbBegin d c = match (out.1.die d).clash with
      | some (i, j) => ((out.1.modDie d (fun x => { x with bad := true })).recordFault c.hand ⟨0x18, 1, [slotN i, slotN j]⟩, 0)
      | none => (out.1.modDie d (fun x => { x with bad := false }), 0) := by
    rw [Mach.pbBegin, hop]
    dsimp only
    rw [← hload, hnone]
    rfl
  have hdie : (m.pbBegin d c).1.die d = { out.1.die d with bad := (out.1.die d).clash.isSome } := by
    have hset (f : Die → Die) : (out.1.modDie d f).die d = f (out.1.die d) := by rw [Mach.modDie_die_get, if_pos rfl]
    rw [hbegin]
    cases h : (out.1.die d).clash with
    | none => exact hset _
    | some p =>
      obtain ⟨i, j⟩ := p
      exact hset (fun x => { x with bad := true })
  dsimp only
  rw [hdie]
  refine ⟨fun i hi => hout i (by omega), fun i hi => hin i (Nat.zero_le i) (by omega), ?_⟩
  exact congrArg Option.isSome (Die.clash_congr rfl)
end

/-! ## Sweeps and completions -/

/-- The machine after one sweep of a seeded array (16 R310). -/
def Mach.pbSwept (m : Mach) (now d : Nat) (c : PbCmd) (t : List PbCmd) (b : Nat) : Mach :=
  let m' := (m.modDie d (fun x => x.sweep (intOf true 16 b) m.freeN)).modDie d (fun x => { x with queue := { c with left := c.left - 1 } :: t })
  if c.left = 1 then m'.post (now + 4) (.pbitCommandComplete d) else m'.post (now + 8) (.pbitSweep d)

theorem exec_pbitSweep {s : State} {d : Nat} {c : PbCmd} {t : List PbCmd} {b n : Nat} (hq : (s.m.die d).queue = c :: t) (hop : c.op = .swp b n)
    (hst : c.started = true) (hleft : c.left ≠ 0) (hdet : (s.m.die d).det = true) (hstop : c.stop = false) :
    exec (.pbitSweep d) s = s.goes (s.m.pbSwept s.tb d c t b) := by
  have hexec : exec (.pbitSweep d) s = execPbitSweep d s := rfl
  have hone : c.left - 1 = 0 ↔ c.left = 1 := by omega
  rw [hexec, execPbitSweep, runEvent, Mach.pbSwept]
  simp only [hq, hop, hst, hleft, hdet, hstop, hone, Bool.not_true, Bool.false_or, decide_false, Bool.false_eq_true, Bool.false_and, if_false, if_true]
  rfl

theorem intOf_toInt (b : Nat) : intOf true 16 b = (BitVec.ofNat 16 b).toInt := by
  rw [BitVec.toInt_eq_toNat_cond, BitVec.toNat_ofNat, intOf]
  simp only [Bool.true_and, decide_eq_true_eq]
  split <;> split <;> omega

section
variable (m : Mach) (now d : Nat) (c : PbCmd) (t : List PbCmd) (b : Nat)

theorem Mach.pbSwept_mem : (m.pbSwept now d c t b).mem = m.mem := by
  unfold Mach.pbSwept
  dsimp only
  split <;> rfl
theorem Mach.pbSwept_hands : (m.pbSwept now d c t b).hands = m.hands := by
  unfold Mach.pbSwept
  dsimp only
  split <;> rfl
theorem Mach.pbSwept_die : (m.pbSwept now d c t b).die d =
    { (m.die d).sweep (intOf true 16 b) m.freeN with queue := { c with left := c.left - 1 } :: t } := by
  unfold Mach.pbSwept
  dsimp only
  split <;> simp only [Mach.post_die_get, Mach.modDie_die_get, if_true]
theorem Mach.pbSwept_agenda :
    (if c.left = 1 then (now + 4, .pbitCommandComplete d) else (now + 8, .pbitSweep d)) ∈ (m.pbSwept now d c t b).agenda := by
  unfold Mach.pbSwept
  dsimp only
  split <;> exact Mach.mem_post_agenda ..

/-- The entry of a PBRD supplied at its completion (16 R314). -/
def Mach.pbReads : Mach :=
  match c.op with
  | .rd _ _ res => m.supplyQueue now c.hand res c.val
  | _ => m

theorem Mach.modDie_supplyQueue (f : Die → Die) (r res : Nat) (v : Entry) :
    (m.modDie d f).supplyQueue now r res v = (m.supplyQueue now r res v).modDie d f := by
  unfold Mach.supplyQueue
  rw [Mach.modDie_hand_get]
  cases (m.hand r).results.find? (fun x => x.id == res) <;> rfl
theorem Mach.modDie_pbReads (f : Die → Die) : (m.modDie d f).pbReads now c = (m.pbReads now c).modDie d f := by
  unfold Mach.pbReads
  split
  · exact m.modDie_supplyQueue now d f ..
  · rfl
theorem Mach.pbReads_mem : (m.pbReads now c).mem = m.mem := by
  unfold Mach.pbReads Mach.supplyQueue
  split
  · split <;> rfl
  · rfl
end

theorem exec_pbitCommandComplete {s : State} {d : Nat} {c : PbCmd} {t : List PbCmd} (hq : (s.m.die d).queue = c :: t) (hst : c.started = true) :
    exec (.pbitCommandComplete d) s = s.goes ((((s.m.pbReads s.tb c).modDie d (fun x => { x with queue := t })).modHand c.hand
      (fun h => h.completeTok s.tb c.push)).pbKick s.tb d) := by
  have hexec : exec (.pbitCommandComplete d) s = execPbitCommandComplete d s := rfl
  rw [hexec, execPbitCommandComplete, runEvent, ← Mach.modDie_pbReads]
  simp only [hq, hst, Bool.not_true, Bool.false_eq_true, if_false]
  rfl

theorem exec_pbitCommandComplete_next {s : State} {d : Nat} {c c' : PbCmd} {t : List PbCmd} (hq : (s.m.die d).queue = c :: c' :: t)
    (hst : c.started = true) (hst' : c'.started = false) : ∃ m, exec (.pbitCommandComplete d) s = s.goes m ∧ m.mem = s.m.mem ∧
      (m.die d).queue = { c' with startT := s.tb } :: t ∧ (s.tb, .pbitCommandStart d) ∈ m.agenda ∧
      m.hand c.hand = ((s.m.pbReads s.tb c).hand c.hand).completeTok s.tb c.push := by
  have hexec := exec_pbitCommandComplete hq hst
  set m1 := (((s.m.pbReads s.tb c).modDie d (fun x => { x with queue := c' :: t })).modHand c.hand
    (fun h => h.completeTok s.tb c.push)) with hm1
  have hqueue : (m1.die d).queue = c' :: t := by
    rw [hm1, Mach.modHand_die_get, Mach.modDie_die_get, if_pos rfl]
  rw [Mach.pbKick_of_waiting (m := m1) s.tb d hqueue hst'] at hexec
  refine ⟨_, hexec, ?_, ?_, Mach.mem_post_agenda .., ?_⟩
  · exact s.m.pbReads_mem s.tb c
  · rw [Mach.post_die_get, Mach.modDie_die_get, if_pos rfl]
  · rw [Mach.post_hand_get, Mach.modDie_hand_get, hm1, Mach.modHand_hand_get, if_pos rfl, Mach.modDie_hand_get]

/-! ## O45 -/

/-- The places of a command are not changed by its start, whose effect is that of `pbBegin`. -/
theorem Mach.pbStarts_of_modDie {m : Mach} {d : Nat} {c : PbCmd} {t : List PbCmd} {f : Die → Die} {v : Entry}
    (hbegin : m.pbBegin d c = (m.modDie d f, v)) : (m.pbStarts d c t).hands = m.hands ∧
      (m.pbStarts d c t).die d = { f (m.die d) with queue := { c with started := true, left := c.turns, val := v } :: t } := by
  refine ⟨?_, ?_⟩
  · rw [Mach.pbStarts_hands, hbegin]
    rfl
  · rw [Mach.pbStarts_die, hbegin]
    dsimp only
    rw [Mach.modDie_die_get, if_pos rfl]
theorem PbCmd.completes {c : PbCmd} {op : PbOp} (hop : c.op = op) (h : ∀ b n, op ≠ .swp b n) : ∀ b n, c.op ≠ .swp b n :=
  fun b n e => h b n (hop.symm.trans e)

section
variable {m : Mach} {d : Nat} {c : PbCmd} (t : List PbCmd)

theorem Mach.pbStarts_swp {b n : Nat} (hop : c.op = .swp b n) : let y := (m.pbStarts d c t).die d
    y.bad = (m.die d).bad ∧ y.det = (m.die d).det ∧ y.nsw = (m.die d).nsw ∧ (m.pbStarts d c t).hands = m.hands ∧
      (c.startT + 8, .pbitSweep d) ∈ (m.pbStarts d c t).agenda ∧
      (c.left = 0 → y.queue.head?.any (·.left == n) = true ∧ ∀ p ∈ y.cells, p.2.count = 0) := by
  dsimp only
  by_cases hleft : c.left = 0
  · obtain ⟨hhands, hdie⟩ := Mach.pbStarts_of_modDie (t := t) (Mach.pbBegin_swp_first (m := m) (d := d) hop hleft)
    have hturns : c.turns = n := by simp [PbCmd.turns, hop, hleft]
    rw [hdie, hturns]
    refine ⟨rfl, rfl, rfl, hhands, m.pbStarts_sweeps d c t hop, fun _ => ⟨beq_self_eq_true n, fun p hp => ?_⟩⟩
    obtain ⟨q, -, rfl⟩ := List.mem_map.1 hp
    rfl
  · have hbegin := Mach.pbBegin_swp_again (m := m) (d := d) hop hleft
    rw [m.pbStarts_die, hbegin]
    exact ⟨rfl, rfl, rfl, by rw [Mach.pbStarts_hands, hbegin], m.pbStarts_sweeps d c t hop, fun h => absurd h hleft⟩

theorem Mach.pbStarts_clmp {v : Entry} (hop : c.op = .clmp v) : let y := (m.pbStarts d c t).die d
    y.owner = (m.die d).owner ∧ (m.pbStarts d c t).hands = m.hands ∧
      (c.startT + 4, .pbitCommandComplete d) ∈ (m.pbStarts d c t).agenda ∧ y.cells = pbClampLanes v (m.die d).cells 32 := by
  obtain ⟨hhands, hdie⟩ := Mach.pbStarts_of_modDie (t := t) (Mach.pbBegin_clmp (m := m) (d := d) hop)
  have hagenda := m.pbStarts_completes d c t (PbCmd.completes hop nofun)
  rw [PbCmd.time, hop] at hagenda
  dsimp only
  rw [hdie]
  exact ⟨rfl, hhands, hagenda, rfl⟩

theorem Mach.pbStarts_clr (hop : c.op = .clr) : let y := (m.pbStarts d c t).die d
    y.cells = [] ∧ y.owner = none ∧ y.det = false ∧ y.bad = false ∧ y.nsw = 0 ∧ (m.pbStarts d c t).hands = m.hands ∧
      (c.startT + 64, .pbitCommandComplete d) ∈ (m.pbStarts d c t).agenda := by
  obtain ⟨hhands, hdie⟩ := Mach.pbStarts_of_modDie (t := t) (Mach.pbBegin_clr (m := m) (d := d) hop)
  have hagenda := m.pbStarts_completes d c t (PbCmd.completes hop nofun)
  rw [PbCmd.time, hop] at hagenda
  dsimp only
  rw [hdie]
  exact ⟨rfl, rfl, rfl, rfl, rfl, hhands, hagenda⟩

theorem Mach.pbStarts_rd {cnt : Bool} {k res : Nat} (hop : c.op = .rd cnt k res) : let y := (m.pbStarts d c t).die d
    y.cells = (m.die d).cells ∧ (m.pbStarts d c t).hands = m.hands ∧
      (c.startT + 4, .pbitCommandComplete d) ∈ (m.pbStarts d c t).agenda ∧ y.queue.head?.map (·.val) = some (m.pbBegin d c).2 := by
  obtain ⟨hsame, -⟩ := Mach.pbBegin_rd_value (m := m) (d := d) hop
  have hagenda := m.pbStarts_completes d c t (PbCmd.completes hop nofun)
  rw [PbCmd.time, hop] at hagenda
  dsimp only
  rw [m.pbStarts_die, m.pbStarts_hands, hsame]
  exact ⟨rfl, rfl, hagenda, rfl⟩

theorem Mach.pbStarts_seed_entropy {v : W32} (hop : c.op = .seed true v) : let y := (m.pbStarts d c t).die d
    y.det = false ∧ y.nsw = 0 ∧ y.cells = (m.die d).cells ∧ (c.startT + 20, .pbitCommandComplete d) ∈ (m.pbStarts d c t).agenda := by
  obtain ⟨-, hdie⟩ := Mach.pbStarts_of_modDie (t := t) (Mach.pbBegin_seed_entropy (m := m) (d := d) hop)
  have hagenda := m.pbStarts_completes d c t (PbCmd.completes hop nofun)
  rw [PbCmd.time, hop] at hagenda
  dsimp only
  rw [hdie]
  exact ⟨rfl, rfl, rfl, hagenda⟩
theorem Mach.pbStarts_seed_value {v : W32} (hop : c.op = .seed false v) : let y := (m.pbStarts d c t).die d
    y.det = true ∧ y.nsw = 0 ∧ (c.startT + 20, .pbitCommandComplete d) ∈ (m.pbStarts d c t).agenda ∧ ∀ i, i < 16384 →
      KMap.get {} y.cells i = { KMap.get {} (m.die d).cells i with x := seedState v i } := by
  obtain ⟨-, hdie⟩ := Mach.pbStarts_of_modDie (t := t) (Mach.pbBegin_seed_value (m := m) (d := d) hop)
  have hagenda := m.pbStarts_completes d c t (PbCmd.completes hop nofun)
  rw [PbCmd.time, hop] at hagenda
  dsimp only
  rw [hdie]
  refine ⟨rfl, rfl, hagenda, fun i hi => ?_⟩
  dsimp only
  exact (m.die d).seeded_cell v hi
end

/-- Settles O45: a command's effect is that of its start, sweep by cycle and cell, and its completion starts the next. -/
theorem pbitCommands : Obligations.PbitCommands := by
  unfold Obligations.PbitCommands
  refine ⟨fun s d c t => fun hq hst => ?starts, fun d b n t i hi => d.cycle_cell b n t hi,
    fun c st b det noise => c.step_spec st b det noise, fun d b n i hi => ⟨d.sweep_nsw b n, ?cell⟩,
    fun s d c t b n => fun hq hop hst hleft hdet hstop => ?sweeps,
    fun s d c c' t hq hst hst' => exec_pbitCommandComplete_next hq hst hst'⟩
  case cell =>
    have hcell := d.sweep_cell b n hi
    rw [Die.cycled] at hcell
    exact hcell
  case sweeps =>
    refine ⟨_, exec_pbitSweep hq hop hst hleft hdet hstop, s.m.pbSwept_mem .., s.m.pbSwept_hands .., ?_, ?_, ?_, s.m.pbSwept_agenda ..⟩
    · rw [s.m.pbSwept_die, ← intOf_toInt]
    · rw [s.m.pbSwept_die, ← Die.sweep_nsw]
    · rw [s.m.pbSwept_die]
  case starts =>
    have hdie := s.m.pbStarts_die d c t
    refine ⟨_, exec_pbitCommandStart hq hst, (s.m.pbStarts_mem d c t).trans (s.m.pbBegin_mem d c), ?_, ?_, fun _ _ => Mach.pbStarts_swp t,
      Mach.pbStarts_clr t, ?clmp, ?rd, fun _ => Mach.pbStarts_seed_entropy t, fun _ => Mach.pbStarts_seed_value t, ?ld⟩
    · rw [hdie]
      rfl
    · rw [hdie]
      rfl
    case clmp =>
      intro v hop
      obtain ⟨howner, hhands, hagenda, hcells⟩ := Mach.pbStarts_clmp (m := s.m) (d := d) t hop
      refine ⟨howner, hhands, hagenda, fun i hi => ?_, fun j hj hlast => ?_⟩
      · rw [hcells]
        exact pbClampLanes_other (k := 0) (Nat.zero_le 32) fun j _ hj => hi j hj
      · rw [hcells]
        have hcell := pbClampLanes_last (v := v) (t := (s.m.die d).cells) hj hlast
        dsimp only
        split
        · next hcode =>
          have h0 : clampCode v j = 0 := hcode
          exact (congrArg PCell.clamp (hcell (by omega))).trans (by rw [h0]; rfl)
        · next hcode =>
          have h2 : clampCode v j = 2 := hcode
          have := hcell (by omega)
          rw [h2] at this
          exact ⟨congrArg PCell.clamp this, congrArg PCell.s this⟩
        · next hcode =>
          have h3 : clampCode v j = 3 := hcode
          have := hcell (by omega)
          rw [h3] at this
          exact ⟨congrArg PCell.clamp this, congrArg PCell.s this⟩
        · trivial
    case rd =>
      intro cnt k res hop
      obtain ⟨hcells, hhands, hagenda, hval⟩ := Mach.pbStarts_rd (m := s.m) (d := d) t hop
      obtain ⟨-, hcount, hstate⟩ := Mach.pbBegin_rd_value (m := s.m) (d := d) hop
      exact ⟨hcells, hhands, hagenda, _, hval, hcount, hstate⟩
    case ld =>
      intro st b0 nb hop hno hrec
      obtain ⟨hout, hin, hbad⟩ := Mach.pbBegin_ld hop hno hrec
      have hagenda := s.m.pbStarts_completes d c t (PbCmd.completes hop nofun)
      rw [PbCmd.time, hop] at hagenda
      dsimp only at hagenda
      rw [← Nat.add_assoc, ← Nat.add_assoc] at hagenda
      rw [hdie]
      refine ⟨hagenda, hout, fun i bs ks hi hbytes => ?_, hbad.trans (congrArg Option.isSome (Die.clash_congr rfl))⟩
      obtain ⟨bs', ks', hbytes', hcell⟩ := hin i hi
      cases hbytes.symm.trans hbytes'
      exact hcell

end Sys2Proof.Machine
end

section
/-! PROOFS. EXIT and the switch point (17 R334, 20 R385). -/

namespace Sys2Proof.Machine

/-! ## EXIT -/

section
variable {s : State} {w : Z}

/-- EXIT with nothing of its thread in flight ends the thread. -/
theorem exec_exit_ends (hcheck : (Instr.exit w).check = none) (hthread : s.m.threadOpen s.cur = false) (hsacc : s.m.saccOpen s.cur = false)
    (hwrites : s.m.writesOpen s.cur s.m.nextId = false) :
    exec (.exit w) s = s.goes ((s.m.modHand s.cur Hand.passRv).exitThread s.tb s.cur) := by
  refine (congrArg Host.Outcome.next (runRv_issues hcheck rfl (Nat.zero_le _) ?_)).trans rfl
  exact firstStop_eq_none.2 (by simp [hthread, hsacc, hwrites, freezeIf])

theorem exec_exit_freezes (hcheck : (Instr.exit w).check = none)
    (hstop : s.m.threadOpen s.cur = true ∨ s.m.threadOpen s.cur = false ∧ s.m.saccOpen s.cur = true ∧ ∃ f ∈ s.cluster.saccFl, f.hand = s.cur) :
    exec (.exit w) s = s.goes (s.m.block ⟨s.tb, s.cur, s.eng⟩ 12 0) := by
  refine (congrArg Host.Outcome.next (runRv_stops (st := .freeze 12 0) hcheck rfl (Nat.zero_le _) ?_)).trans rfl
  dsimp only
  rcases hstop with hthread | ⟨hthread, hsacc, hflush⟩
  · rw [hthread]
    rfl
  · have hany : (s.m.cluster (clusterOf s.cur)).saccFl.any (fun f => f.hand == s.cur) = true := by
      simpa [State.cluster] using hflush
    rw [hthread, hsacc, hany]
    rfl

theorem exec_exit_evicts (hcheck : (Instr.exit w).check = none) (hthread : s.m.threadOpen s.cur = false) (hsacc : s.m.saccOpen s.cur = true)
    (hflush : ∀ f ∈ s.cluster.saccFl, f.hand ≠ s.cur) : exec (.exit w) s = s.goes (((s.m.block ⟨s.tb, s.cur, s.eng⟩ 12 0).modHand s.cur
      (fun h => { h with stage := h.stage + 1, stageT := s.tb })).saccFlush s.tb s.cur) := by
  have hany : (s.m.cluster (clusterOf s.cur)).saccFl.any (fun f => f.hand == s.cur) = false := by
    simpa [State.cluster] using hflush
  refine (congrArg Host.Outcome.next (runRv_stops (st := .start 12) hcheck rfl (Nat.zero_le _) ?_)).trans rfl
  dsimp only
  rw [hthread, hsacc, hany]
  rfl
end

section
variable (m : Mach) (now r : Nat)

theorem Mach.wakeSacc_spec (c : Nat) (idle : Bool) : (m.wakeSacc now c idle).mem = m.mem ∧ (m.wakeSacc now c idle).hands = m.hands ∧
    (m.wakeSacc now c idle).clusters = m.clusters := by
  unfold Mach.wakeSacc
  split <;> exact ⟨rfl, rfl, rfl⟩

/-- An eviction asked for waits behind those before it (06 R129). -/
theorem Mach.saccFlush_asks {m : Mach} {r : Nat} (h : ∀ f ∈ (m.cluster (clusterOf r)).saccFl, f.hand ≠ r) : (m.saccFlush now r).mem = m.mem ∧
    (m.saccFlush now r).hands = m.hands ∧
    ((m.saccFlush now r).cluster (clusterOf r)).saccFl = (m.cluster (clusterOf r)).saccFl ++ [⟨r, (m.hand r).ctx, m.nextId, false, []⟩] := by
  have hany : (m.cluster (clusterOf r)).saccFl.any (fun f => f.hand == r) = false := by simpa using h
  set x := m.cluster (clusterOf r) with hx
  set joined := m.setCluster (clusterOf r) { x with saccFl := x.saccFl ++ [{ hand := r, ctx := (m.hand r).ctx, id := m.nextId }] } with hjoined
  have hflush : m.saccFlush now r = (joined.wakeSacc now (clusterOf r) (x.saccIn.isEmpty && x.saccFl.isEmpty)).bump := by
    rw [Mach.saccFlush, ← hx, hany]
    rfl
  obtain ⟨hmem, hhands, hclusters⟩ := joined.wakeSacc_spec now (clusterOf r) (x.saccIn.isEmpty && x.saccFl.isEmpty)
  have hcluster : (m.saccFlush now r).cluster (clusterOf r) = joined.cluster (clusterOf r) := by
    rw [hflush]
    exact congrArg (fun l => KMap.get {} l (clusterOf r)) hclusters
  refine ⟨?_, ?_, ?_⟩
  · rw [hflush]
    exact hmem
  · rw [hflush]
    exact hhands
  · rw [hcluster, hjoined, Mach.setCluster_cluster_get, if_pos rfl]
end

/-! ## The end of a thread (17 R334) -/

theorem Mach.endRunOf_hands (m : Mach) (r : Nat) : (m.endRunOf r).hands = m.hands := by
  unfold Mach.endRunOf
  split <;> rfl
theorem Mach.endRunOf_frame (m : Mach) (r : Nat) : (m.endRunOf r).mem = m.mem ∧ (m.endRunOf r).ctxs = m.ctxs ∧
    (m.endRunOf r).dev = m.dev ∧ (m.endRunOf r).agenda = m.agenda := by
  unfold Mach.endRunOf
  split <;> exact ⟨rfl, rfl, rfl, rfl⟩

/-- Where no barrier of the context has an arrival to test, testing them changes nothing. -/
theorem Mach.testBarriers_of_none {m : Mach} {k : Nat} (now : Nat) (hbar : (m.ctx k).barriers = []) (hfab : m.dev.fabBars = []) :
    m.testBarriers now k = m := by
  unfold Mach.testBarriers
  simp only [hbar, List.foldl_nil, hfab]
/-- Where no move is in flight there is none to look at. -/
theorem Mach.examineAll_of_none {m : Mach} (now : Nat) (h : ∀ p ∈ m.ctxs, p.2.moves = []) : m.examineAll now = m := by
  have hnone : m.ctxs.filter (fun p => !p.2.moves.isEmpty) = [] := List.filter_eq_nil_iff.2 fun p hp => by simp [h p hp]
  rw [Mach.examineAll, hnone]
  rfl

theorem Mach.exitThread_spec {m : Mach} {now r : Nat} {l : Launch} (hlaunch : m.launch? (m.hand r).launch = some l)
    (hbar : (m.ctx (m.hand r).ctx).barriers = []) (hfab : m.dev.fabBars = []) (hmoves : ∀ p ∈ m.ctxs, p.2.moves = []) :
    (m.exitThread now r).mem = m.mem ∧ (m.exitThread now r).hand r = (m.hand r).quit now ∧
      (now, .launchComplete l.id) ∈ (m.exitThread now r).agenda ∧
      (now + 7, .dealIteration (dieOf (clusterOf r))) ∈ (m.exitThread now r).agenda := by
  obtain ⟨hmem, hctxs, hdev, hagenda⟩ := m.endRunOf_frame r
  have hhands := m.endRunOf_hands r
  set e := (m.endRunOf r).modHand r (fun h => h.quit now) with he
  have hquit : e.hand r = (m.hand r).quit now := by
    rw [he, Mach.modHand_hand_get, if_pos rfl, Mach.hand, hhands]
    rfl
  have hfind : e.launch? (m.hand r).launch = some l := by
    rw [← hlaunch]
    exact congrArg (fun d : Dev => d.launches.find? (fun x => x.id == (m.hand r).launch)) hdev
  set a := ((e.putLaunch { l with running := l.running - 1 }).post now (.launchComplete l.id)).post (now + 7) (.dealIteration (dieOf (clusterOf r)))
    with ha
  have hlaunched : (now, .launchComplete l.id) ∈ a.agenda := mem_agendaAdd.2 (.inr (Mach.mem_post_agenda ..))
  have hdealt : (now + 7, .dealIteration (dieOf (clusterOf r))) ∈ a.agenda := Mach.mem_post_agenda ..
  set b := if (a.hand (otherHand r)).thread then a.postSwitch now (coreOf r) else a with hb
  have hab : b.mem = a.mem ∧ b.hands = a.hands ∧ b.ctxs = a.ctxs ∧ b.dev = a.dev ∧ ∀ x ∈ a.agenda, x ∈ b.agenda := by
    rw [hb]
    split
    · exact ⟨rfl, rfl, rfl, rfl, fun x hx => mem_agendaAdd.2 (.inr hx)⟩
    · exact ⟨rfl, rfl, rfl, rfl, fun x hx => hx⟩
  obtain ⟨hbmem, hbhands, hbctxs, hbdev, hbagenda⟩ := hab
  have hctxs' : b.ctxs = m.ctxs := hbctxs.trans hctxs
  have hexit : m.exitThread now r = b := by
    unfold Mach.exitThread
    dsimp only
    rw [← he, hfind]
    dsimp only
    rw [← ha, ← hb, Mach.testBarriers_of_none, Mach.examineAll_of_none]
    · rw [hctxs']
      exact hmoves
    · rw [Mach.ctx, hctxs']
      exact hbar
    · rw [hbdev]
      exact (congrArg Dev.fabBars hdev).trans hfab
  rw [hexit]
  refine ⟨hbmem.trans hmem, ?_, hbagenda _ hlaunched, hbagenda _ hdealt⟩
  rw [Mach.hand, hbhands]
  exact hquit

/-! ## What a thread sees of memory (06 R118) -/

section
variable (m : Mach) (r : Nat) (f : Hand → Hand)

theorem Mach.scatter_eq (m : Mach) (ks : List Nat) (i : Nat) (x : Entry) : ∃ y, m.scatter ks i x = { m with mem := y } ∧
    ∀ r f, (m.modHand r f).scatter ks i x = { m.modHand r f with mem := y } := by
  induction ks generalizing m i with
  | nil => exact ⟨m.mem, rfl, fun _ _ => rfl⟩
  | cons k ks ih =>
    obtain ⟨y, h, h'⟩ := ih (m.poke k (leBytes 4 (lane x i).toNat)) (i + 1)
    exact ⟨y, h, fun r f => h' r f⟩
/-- A store performed writes memory and nothing else, whatever the hands hold. -/
theorem Mach.doStore_eq (m : Mach) (a : Access) : ∃ y, m.doStore a = { m with mem := y } ∧
    ∀ r f, (m.modHand r f).doStore a = { m.modHand r f with mem := y } := by
  unfold Mach.doStore
  cases a.op with
  | scatter => exact m.scatter_eq a.keys 0 a.data
  | img b =>
    dsimp only
    split <;> exact ⟨_, rfl, fun _ _ => rfl⟩
  | _ => exact ⟨_, rfl, fun _ _ => rfl⟩
theorem Mach.doStores_eq (m : Mach) (l : List Access) : ∃ y, l.foldl Mach.doStore m = { m with mem := y } ∧
    ∀ r f, l.foldl Mach.doStore (m.modHand r f) = { m.modHand r f with mem := y } := by
  induction l generalizing m with
  | nil => exact ⟨m.mem, rfl, fun _ _ => rfl⟩
  | cons a l ih =>
    obtain ⟨y, h, h'⟩ := m.doStore_eq a
    obtain ⟨z, hz, hz'⟩ := ih { m with mem := y }
    refine ⟨z, ?_, fun r f => ?_⟩
    · rw [List.foldl_cons, h, hz]
    · rw [List.foldl_cons, h' r f]
      exact hz' r f
/-- A change of a hand that keeps its queued accesses leaves what it sees of memory. -/
theorem Mach.seen_modHand (haccs : (f (m.hand r)).accs = (m.hand r).accs) :
    ((m.modHand r f).seen r).mem = (m.seen r).mem ∧ ((m.modHand r f).seen r).dev = m.dev := by
  have hsame : ((m.modHand r f).hand r).accs = (m.hand r).accs := by rw [Mach.modHand_hand_get, if_pos rfl, haccs]
  obtain ⟨y, h, h'⟩ := m.doStores_eq (m.hand r).accs
  rw [Mach.seen, hsame, h' r f, Mach.seen, h]
  exact ⟨rfl, rfl⟩

/-- A change of a hand that keeps its context and ring leaves its translations. -/
theorem Mach.xlate_modHand (hctx : (f (m.hand r)).ctx = (m.hand r).ctx) (x : W64) (n : Nat) (wr u : Bool) :
    (m.modHand r f).xlate r x n wr u = m.xlate r x n wr u := by
  have hmap : (m.modHand r f).SameMap m := ⟨rfl, rfl, rfl, rfl⟩
  have hpage (e : TcEntry) : (m.modHand r f).usePage e x wr u (some (9, 3)) = m.usePage e x wr u (some (9, 3)) := by
    unfold Mach.usePage
    simp only [hmap.physKind]
  have hhand : ((m.modHand r f).hand r).ctx = (m.hand r).ctx := by rw [Mach.modHand_hand_get, if_pos rfl, hctx]
  unfold Mach.xlate
  simp only [hhand, hmap.resolve, hmap.ctx, Mach.modHand_cluster_get, hpage]
end

/-! ## PSW reads its entry (20 R385) -/

/-- A hand change that keeps what addresses and reads depend on. -/
structure Hand.KeepsView (h h' : Hand) : Prop where
  ctx : h'.ctx = h.ctx
  ring : h'.ring = h.ring
  accs : h'.accs = h.accs

section
variable {m : Mach} {r : Nat} {g : Hand → Hand} (hview : (m.hand r).KeepsView (g (m.hand r)))
include hview

theorem Mach.ring_modHand : ((m.modHand r g).hand r).ring = (m.hand r).ring := by rw [Mach.modHand_hand_get, if_pos rfl, hview.ring]
theorem Mach.handCtx_modHand : (m.modHand r g).handCtx r = m.handCtx r := by
  rw [Mach.handCtx, Mach.modHand_hand_get, if_pos rfl, hview.ctx, Mach.modHand_ctx_get, Mach.handCtx]
theorem Mach.keyOf_modHand (x : W64) (n : Nat) (wr : Bool) : (m.modHand r g).keyOf r x n wr = m.keyOf r x n wr := by
  rw [Mach.keyOf, Mach.keyOf, Mach.ring_modHand hview, m.xlate_modHand r g hview.ctx]
theorem Mach.xlStop_modHand (x : W64) (n : Nat) (wr : Bool) : (m.modHand r g).xlStop r x n wr = m.xlStop r x n wr := by
  rw [Mach.xlStop, Mach.xlStop, Mach.ring_modHand hview, m.xlate_modHand r g hview.ctx]
theorem Mach.pswAt_modHand (n l : Nat) : (m.modHand r g).pswAt r n l = m.pswAt r n l := by
  rw [Mach.pswAt, Mach.handCtx_modHand hview, Mach.pswAt]
theorem Mach.partOf_modHand : (m.modHand r g).partOf r = m.partOf r := by rw [Mach.partOf, Mach.handCtx_modHand hview, Mach.partOf]

/-- Bytes that no error touches are read as they stand, behind the thread's own stores. -/
theorem Mach.seen_readRow (hno : ∀ k, m.rowError k = none) (k n : Nat) :
    ((m.modHand r g).seen r).readRow k n = (m.seen r).bytes k n := by
  obtain ⟨hmem, hdev⟩ := m.seen_modHand r g hview.accs
  have hkind (pa : Nat) : ((m.modHand r g).seen r).physKind pa = m.physKind pa := by
    unfold Mach.physKind
    rw [hdev]
  have herr : ((m.modHand r g).seen r).rowError k = none := by
    rw [← hno k]
    unfold Mach.rowError Mach.cxlDown
    rw [hkind, hdev]
  rw [Mach.readRow, herr, Mach.bytes, hmem]
  rfl

/-- Where nothing is recorded or replayed and no row is in error, a PSW reads its entry and waits for it. -/
theorem Mach.pswRead_spec (hmode : (m.part (m.partOf r)).rpMode = 0) (hno : ∀ k, m.rowError k = none) (now n l : Nat) :
    let k := m.keyOf r (m.pswAt r n l) 4 false
    let t := (m.modHand r g).pswRead now r n l
    t.mem = m.mem ∧ t.hand r = { g (m.hand r) with
      stage := 1, stageT := now + m.pathTime (clusterOf r) k true + 4, stageV := slotN (leNat ((m.seen r).bytes k 4)) } := by
  have hnote : (m.modHand r g).notePsw now r l n = m.modHand r g := by
    have hlog := logInput_of_not_recording (m := m.modHand r g) (p := (m.modHand r g).partOf r) now 4 (some r) (slotN l) (slotN n)
      (by rw [Mach.partOf_modHand hview, Mach.modHand_part_get, hmode]; decide)
    unfold Mach.notePsw
    dsimp only
    rw [hlog, Mach.partOf_modHand hview, Mach.modHand_part_get, hmode]
    rfl
  have hno' : ∀ k, (m.modHand r g).rowError k = none := hno
  have hread : (m.modHand r g).pswRead now r n l = (m.modHand r g).modHand r (fun h => { h with
      stage := 1, stageT := now + m.pathTime (clusterOf r) (m.keyOf r (m.pswAt r n l) 4 false) true + 4,
      stageV := slotN (leNat ((m.seen r).bytes (m.keyOf r (m.pswAt r n l) 4 false) 4)) }) := by
    unfold Mach.pswRead
    dsimp only
    rw [hnote, Mach.noteUE_of_no_error hno', Mach.countErrors_of_no_error hno', Mach.seen_readRow hview hno, Mach.pswAt_modHand hview,
      Mach.keyOf_modHand hview]
    rfl
  refine ⟨?_, ?_⟩
  · rw [hread]
    rfl
  · rw [hread, Mach.modHand_hand_get, if_pos rfl, Mach.modHand_hand_get, if_pos rfl]
end

/-- A hand whose word has begun and waits with a freeze code. -/
def Hand.begins (h : Hand) (code : Nat) (e : Engine) (now : Nat) : Hand :=
  { h with blocked := some ⟨code, e, 0⟩, frzc := code, stage := h.stage + 1, stageT := now }
theorem Hand.begins_keepsView (h : Hand) (code : Nat) (e : Engine) (now : Nat) : h.KeepsView (h.begins code e now) := ⟨rfl, rfl, rfl⟩
theorem Mach.block_begins (m : Mach) (x : At) (code : Nat) : (m.block x code 0).modHand x.r
    (fun h => { h with stage := h.stage + 1, stageT := x.now }) = m.modHand x.r (fun h => h.begins code x.e x.now) :=
  m.modHand_modHand x.r _ _

theorem Mach.pswBegin_walks {m : Mach} {r n l : Nat} {va : W64} (now : Nat) (h : m.xlStop r (m.pswAt r n l) 4 false = some (.walk va)) :
    m.pswBegin now r n l =
      (m.startWalk now (clusterOf r) (m.hand r).ctx va).modHand r (fun h => { h with stage := 2, stageV := slotN l }) := by
  rw [Mach.pswBegin, h]
  rfl
theorem Mach.pswBegin_reads {m : Mach} {r n l : Nat} (now : Nat) (h : m.xlStop r (m.pswAt r n l) 4 false = none) (hlog : m.logStop r = none) :
    m.pswBegin now r n l = m.pswRead now r n l := by
  rw [Mach.pswBegin, h, hlog]
  rfl
theorem Mach.logStop_eq_none {m : Mach} {r : Nat} (hmode : (m.part (m.partOf r)).rpMode = 0) : m.logStop r = none := by
  rw [Mach.logStop, Part.logFull, Part.noRoom, hmode]
  rfl

section
variable {s : State} {w : N}

theorem pswAt_eq (l : Nat) : s.m.pswAt s.cur (bits w.imm 0 8).toNat l =
    s.ctx.reg 0x0A1 + BitVec.ofNat 64 (32 * (w.imm.toNat % 2 ^ 8) + 4 * l) := by
  rw [bits_zero_toNat]
  rfl
theorem pswLevel_eq (hmode : (s.m.part (s.m.partOf s.cur)).rpMode = 0) : s.m.pswLevel s.tb s.cur =
    if (s.m.part (s.m.partOf s.cur)).effT = s.tb + 1 then (s.m.part (s.m.partOf s.cur)).effOld else (s.m.part (s.m.partOf s.cur)).eff := by
  unfold Mach.pswLevel
  dsimp only
  rw [hmode]
  rfl
/-- The last arrival of a PSW fixes its level, and begins its read (20 R385). -/
theorem exec_psw_begins (hcheck : (Instr.psw w).check = none) (hstage : s.hand.stage = 0) (halign : (s.ctx.reg 0x0A1).toNat % 32 = 0)
    (hxl : ∀ f, s.m.xlStop s.cur (s.m.pswAt s.cur (bits w.imm 0 8).toNat (s.m.pswLevel s.tb s.cur)) 4 false ≠ some (.trap f)) :
    exec (.psw w) s = s.goes ((s.m.modHand s.cur (fun h => h.begins 12 s.eng s.tb)).pswBegin s.tb s.cur (bits w.imm 0 8).toNat
      (s.m.pswLevel s.tb s.cur)) := by
  have hst : (s.m.hand s.cur).stage = 0 := hstage
  refine (congrArg Host.Outcome.next (runRv_stops (st := .start 12) hcheck rfl (Nat.zero_le _) ?_)).trans ?_
  · dsimp only
    rw [hst]
    have hmis : trapIf (((s.m.handCtx s.cur).reg 0x0A1).toNat % 32 != 0) 6 0 [(s.m.handCtx s.cur).reg 0x0A1] = none :=
      trapIf_eq_none.2 (by rw [show (s.m.handCtx s.cur).reg 0x0A1 = s.ctx.reg 0x0A1 from rfl, halign]; rfl)
    rw [if_pos rfl, if_pos rfl, hmis]
    split
    · next f h => exact absurd h (hxl f)
    · rfl
  · rw [Mach.stopWord, Mach.block_begins]
    dsimp only
    rw [hst]
    rfl

theorem exec_psw_reads (hcheck : (Instr.psw w).check = none) (hstage : s.hand.stage = 2) (hmode : (s.m.part (s.m.partOf s.cur)).rpMode = 0)
    (hkey : s.m.xlStop s.cur (s.m.pswAt s.cur (bits w.imm 0 8).toNat s.hand.stageV.toNat) 4 false = none) :
    exec (.psw w) s = s.goes ((s.m.modHand s.cur (fun h => h.begins 12 s.eng s.tb)).pswRead s.tb s.cur (bits w.imm 0 8).toNat
      s.hand.stageV.toNat) := by
  have hst : (s.m.hand s.cur).stage = 2 := hstage
  refine (congrArg Host.Outcome.next (runRv_stops (st := .start 12) hcheck rfl (Nat.zero_le _) ?_)).trans ?_
  · dsimp only
    rw [hst]
    rw [if_neg (by decide), if_neg (by decide), if_neg (by decide)]
    rw [show (s.m.hand s.cur).stageV = s.hand.stageV from rfl, hkey, Mach.logStop_eq_none hmode]
    rfl
  · rw [Mach.stopWord, Mach.block_begins]
    dsimp only
    rw [hst]
    rfl

theorem exec_psw_waits (hcheck : (Instr.psw w).check = none) (hstage : s.hand.stage = 1) (hearly : s.tb < s.hand.stageT) :
    exec (.psw w) s = s.goes (s.m.block ⟨s.tb, s.cur, s.eng⟩ 12 0) := by
  have hst : (s.m.hand s.cur).stage = 1 := hstage
  refine (congrArg Host.Outcome.next (runRv_stops (st := .freeze 12 0) hcheck rfl (Nat.zero_le _) ?_)).trans rfl
  dsimp only
  rw [hst, if_neg (by decide), if_pos rfl, show (s.m.hand s.cur).stageT = s.hand.stageT from rfl, decide_eq_true hearly]
  rfl

/-- The hand of a PSW whose entry has come: every engine at the entry's offset, or past the word. -/
def Hand.switched (h : Hand) (off : W64) : Hand :=
  (if off = 0xFFFFFFFF then h.passRv else h.passRv.modEngines (fun y => { y with pc := off })).realign
theorem exec_psw_switches (hcheck : (Instr.psw w).check = none) (hstage : s.hand.stage = 1) (hcome : s.hand.stageT ≤ s.tb)
    (halign : s.hand.stageV = 0xFFFFFFFF ∨ s.hand.stageV.toNat % 8 = 0) :
    exec (.psw w) s = s.goes (s.m.modHand s.cur (fun h => h.switched s.hand.stageV)) := by
  have hst : (s.m.hand s.cur).stage = 1 := hstage
  have hv : (s.m.hand s.cur).stageV = s.hand.stageV := rfl
  have hT : (s.m.hand s.cur).stageT = s.hand.stageT := rfl
  refine (congrArg Host.Outcome.next (runRv_issues hcheck rfl (Nat.zero_le _) ?_)).trans ?_
  · dsimp only
    rw [hst, if_neg (by decide), if_pos rfl, hT, hv, decide_eq_false (Nat.not_lt.2 hcome)]
    refine firstStop_eq_none.2 ?_
    rw [List.forall_mem_cons, List.forall_mem_singleton]
    refine ⟨rfl, trapIf_eq_none.2 ?_⟩
    rcases halign with h | h
    · rw [h, bne_self_eq_false, Bool.false_and]
    · rw [h, bne_self_eq_false, Bool.and_false]
  · dsimp only
    rw [hv, Mach.modHand_modHand]
    rfl
theorem Hand.switched_spec (h : Hand) (off : W64) : (h.switched off).vclk = 0 ∧
    ∀ e, ((h.switched off).engine e).pc = if off = 0xFFFFFFFF then (h.engine e).pc + 8 else off := by
  unfold Hand.switched
  refine ⟨rfl, fun e => ?_⟩
  by_cases hto : off = 0xFFFFFFFF
  · rw [if_pos hto, if_pos hto]
    cases e <;> rfl
  · rw [if_neg hto, if_neg hto]
    cases e <;> rfl
end

/-! ## O35 -/

theorem xlStop_of_key {m : Mach} {r n : Nat} {x : W64} {wr : Bool} (h : ∃ k, m.xlate r x n wr = .key k) : m.xlStop r x n wr = none :=
  xlStop_eq_none h

/-- A PSW whose entry's translation misses waits for the walk at stage 2, with its level (20 R385). -/
theorem exec_psw_walks {s : State} {w : N} {va : W64} {level : Nat} (hcheck : (Instr.psw w).check = none) (hstage : s.hand.stage = 0)
    (halign : (s.ctx.reg 0x0A1).toNat % 32 = 0) (hlevel : s.m.pswLevel s.tb s.cur = level)
    (hxl : s.m.xlStop s.cur (s.m.pswAt s.cur (bits w.imm 0 8).toNat level) 4 false = some (.walk va)) :
    ∃ m, exec (.psw w) s = s.goes m ∧ m.mem = s.m.mem ∧ (m.hand s.cur).blocked = some ⟨12, s.eng, 0⟩ ∧
      (m.hand s.cur).stage = 2 ∧ (m.hand s.cur).stageV = BitVec.ofNat 64 level := by
  have hexec := exec_psw_begins hcheck hstage halign (by rw [hlevel, hxl]; exact fun f h => nomatch h)
  rw [hlevel] at hexec
  set m := s.m.modHand s.cur (fun h => h.begins 12 s.eng s.tb) with hm
  have hview : (s.m.hand s.cur).KeepsView ((fun h => h.begins 12 s.eng s.tb) (s.m.hand s.cur)) := Hand.begins_keepsView ..
  have hmiss : m.xlStop s.cur (m.pswAt s.cur (bits w.imm 0 8).toNat level) 4 false = some (.walk va) := by
    rw [hm, Mach.pswAt_modHand hview, Mach.xlStop_modHand hview, hxl]
  rw [Mach.pswBegin_walks s.tb hmiss] at hexec
  have hwalk : (m.startWalk s.tb (clusterOf s.cur) (m.hand s.cur).ctx va).mem = m.mem ∧
      (m.startWalk s.tb (clusterOf s.cur) (m.hand s.cur).ctx va).hands = m.hands := by
    unfold Mach.startWalk
    dsimp only
    split <;> exact ⟨rfl, rfl⟩
  obtain ⟨hmem, hhands⟩ := hwalk
  refine ⟨_, hexec, hmem, ?_, ?_, ?_⟩
  · rw [Mach.modHand_hand_get, if_pos rfl, Mach.hand, hhands]
    change (m.hand s.cur).blocked = _
    rw [hm, Mach.modHand_hand_get, if_pos rfl]
    rfl
  · rw [Mach.modHand_hand_get, if_pos rfl]
  · rw [Mach.modHand_hand_get, if_pos rfl]
    rfl

/-- Settles O35: EXIT ends its thread or waits, and PSW fixes its level, reads its entry and goes where it says. -/
theorem exitAndSwitchPoint : Obligations.ExitAndSwitchPoint := by
  unfold Obligations.ExitAndSwitchPoint
  refine ⟨fun s w l hcheck hthread hsacc hwrites _ => exec_exit_ends hcheck hthread hsacc hwrites,
    fun s w hcheck hthread => exec_exit_freezes hcheck (.inl hthread), fun s w hcheck hthread hsacc => ⟨fun hflush =>
      exec_exit_freezes hcheck (.inr ⟨hthread, hsacc, hflush⟩), ?evicts⟩, ?thread, ?begins, ?reads, ?switches⟩
  case evicts =>
    intro hflush
    set m := (s.m.block ⟨s.tb, s.cur, s.eng⟩ 12 0).modHand s.cur (fun h => { h with stage := h.stage + 1, stageT := s.tb }) with hm
    obtain ⟨hmem, hhands, hasked⟩ := Mach.saccFlush_asks s.tb (m := m) (r := s.cur) hflush
    have hhand : (m.saccFlush s.tb s.cur).hand s.cur = s.hand.begins 12 s.eng s.tb := by
      rw [Mach.hand, hhands]
      change m.hand s.cur = _
      rw [hm, Mach.block_begins s.m ⟨s.tb, s.cur, s.eng⟩, Mach.modHand_hand_get, if_pos rfl, State.hand]
    have hctx : (m.hand s.cur).ctx = s.hand.ctx := by
      rw [hm, Mach.block_begins s.m ⟨s.tb, s.cur, s.eng⟩, Mach.modHand_hand_get, if_pos rfl]
      rfl
    refine ⟨_, exec_exit_evicts hcheck hthread hsacc hflush, hmem, ?_, fun e => ?_, ?_⟩
    · rw [hhand]
      rfl
    · rw [hhand]
      cases e <;> rfl
    · rw [hctx] at hasked
      exact hasked
  case thread =>
    intro m now r l hlaunch hbar hfab hmoves
    obtain ⟨hmem, hquit, hdone, hdeal⟩ := Mach.exitThread_spec (now := now) hlaunch hbar hfab hmoves
    dsimp only
    rw [hquit]
    exact ⟨hmem, rfl, rfl, rfl, rfl, rfl, rfl, hdone, hdeal⟩
  case begins =>
    intro s w
    refine fun hcheck hstage halign hmode hno => ⟨fun va hwalk => ?_, fun hkey => ?_⟩
    · rw [← pswAt_eq, ← pswLevel_eq hmode] at hwalk
      exact exec_psw_walks hcheck hstage halign (pswLevel_eq hmode) (by rw [← pswLevel_eq hmode]; exact hwalk)
    · rw [← pswAt_eq, ← pswLevel_eq hmode] at hkey ⊢
      have hview : (s.m.hand s.cur).KeepsView ((fun h => h.begins 12 s.eng s.tb) (s.m.hand s.cur)) := Hand.begins_keepsView ..
      have hxl := xlStop_of_key hkey
      obtain ⟨hmem, hhand⟩ := Mach.pswRead_spec (m := s.m) (g := fun h => h.begins 12 s.eng s.tb) hview hmode hno s.tb (bits w.imm 0 8).toNat (s.m.pswLevel s.tb s.cur)
      have hexec := exec_psw_begins hcheck hstage halign (by rw [hxl]; exact fun f h => nomatch h)
      rw [Mach.pswBegin_reads] at hexec
      · refine ⟨_, hexec, hmem, ?_⟩
        rw [hhand]
        exact ⟨rfl, rfl, rfl, rfl⟩
      · rw [Mach.pswAt_modHand hview, Mach.xlStop_modHand hview, hxl]
      · exact Mach.logStop_eq_none (by rw [Mach.partOf_modHand hview, Mach.modHand_part_get, hmode])
  case reads =>
    intro s w
    refine fun hcheck hstage hmode hno hkey => ?_
    rw [← pswAt_eq] at hkey ⊢
    have hview : (s.m.hand s.cur).KeepsView ((fun h => h.begins 12 s.eng s.tb) (s.m.hand s.cur)) := Hand.begins_keepsView ..
    obtain ⟨hmem, hhand⟩ := Mach.pswRead_spec (m := s.m) (g := fun h => h.begins 12 s.eng s.tb) hview hmode hno s.tb (bits w.imm 0 8).toNat s.hand.stageV.toNat
    refine ⟨_, exec_psw_reads hcheck hstage hmode (xlStop_of_key hkey), hmem, ?_⟩
    rw [hhand]
    exact ⟨rfl, rfl, rfl, rfl⟩
  case switches =>
    intro s w hcheck hstage
    refine ⟨exec_psw_waits hcheck hstage, fun hcome halign => ⟨_, exec_psw_switches hcheck hstage hcome halign, rfl, ?_, ?_, fun k hk => ?_⟩⟩
    · rw [Mach.modHand_hand_get, if_pos rfl]
      exact (s.hand.switched_spec s.hand.stageV).1
    · rw [Mach.modHand_hand_get, if_pos rfl]
      exact (s.hand.switched_spec s.hand.stageV).2
    · rw [Mach.modHand_hand_get, if_neg hk]

end Sys2Proof.Machine
end

section
/-! PROOFS. The order of iterations (17 R330): mixed-radix digits, and pairs below the extents in ascending Morton code. -/

namespace Sys2Proof.Machine

/-! ## Morton codes -/

/-- The Morton code of the lowest `k` bits of two indices. -/
def mortonLow (k x y : Nat) : Nat := ((List.range k).map (fun p => x / 2 ^ p % 2 * 2 ^ (2 * p) + y / 2 ^ p % 2 * 2 ^ (2 * p + 1))).sum
theorem morton_eq (x y : Nat) : Claims.morton x y = mortonLow 31 x y := rfl
theorem mortonLow_succ (k x y : Nat) :
    mortonLow (k + 1) x y = mortonLow k x y + (x / 2 ^ k % 2 * 2 ^ (2 * k) + y / 2 ^ k % 2 * 2 ^ (2 * k + 1)) := by
  rw [mortonLow, List.range_succ, List.map_append, List.sum_append]
  simp [mortonLow]
theorem mortonLow_lt (k x y : Nat) : mortonLow k x y < 2 ^ (2 * k) := by
  induction k with
  | zero => exact Nat.one_pos
  | succ k ih =>
    have hx : x / 2 ^ k % 2 * 2 ^ (2 * k) ≤ 1 * 2 ^ (2 * k) := Nat.mul_le_mul_right _ (by omega)
    have hy : y / 2 ^ k % 2 * 2 ^ (2 * k + 1) ≤ 1 * 2 ^ (2 * k + 1) := Nat.mul_le_mul_right _ (by omega)
    have hdouble : 2 ^ (2 * k + 1) = 2 * 2 ^ (2 * k) := by ring
    have hquadruple : 2 ^ (2 * (k + 1)) = 4 * 2 ^ (2 * k) := by ring
    rw [mortonLow_succ]
    omega
/-- Bits above the lowest `k` do not matter to the code of those. -/
theorem mortonLow_high (k i j u v : Nat) : mortonLow k (2 ^ k * i + u) (2 ^ k * j + v) = mortonLow k u v := by
  have hbit (p w z : Nat) (hp : p < k) : (2 ^ k * w + z) / 2 ^ p % 2 = z / 2 ^ p % 2 := by
    obtain ⟨q, rfl⟩ : ∃ q, k = p + (q + 1) := ⟨k - p - 1, by omega⟩
    rw [pow_add, pow_succ, Nat.mul_assoc, Nat.mul_add_div (Nat.two_pow_pos p), Nat.mul_comm (2 ^ q) 2, Nat.mul_assoc]
    omega
  refine congrArg List.sum (List.map_congr_left fun p hp => ?_)
  rw [hbit p i u (List.mem_range.1 hp), hbit p j v (List.mem_range.1 hp)]
/-- The code of a pair in quadrant `q` of a square of side 2^(k+1). -/
theorem mortonLow_quadrant {k q u v : Nat} (hq : q < 4) (hu : u < 2 ^ k) (hv : v < 2 ^ k) :
    mortonLow (k + 1) (2 ^ k * (q % 2) + u) (2 ^ k * (q / 2) + v) = mortonLow k u v + q * 2 ^ (2 * k) := by
  have hhigh (b w : Nat) (hb : b < 2) (hw : w < 2 ^ k) : (2 ^ k * b + w) / 2 ^ k % 2 = b := by
    rw [Nat.mul_add_div (Nat.two_pow_pos k), Nat.div_eq_of_lt hw]
    omega
  rw [mortonLow_succ, mortonLow_high, hhigh _ _ (by omega) hu, hhigh _ _ (by omega) hv, pow_succ]
  have hsplit : q = q % 2 + q / 2 * 2 := by omega
  calc mortonLow k u v + (q % 2 * 2 ^ (2 * k) + q / 2 * (2 ^ (2 * k) * 2))
      = mortonLow k u v + (q % 2 + q / 2 * 2) * 2 ^ (2 * k) := by ring
    _ = mortonLow k u v + q * 2 ^ (2 * k) := by rw [← hsplit]

/-! ## Pairs below the extents -/

/-- The pairs below the extents in a square of side `s`. -/
def squareCount (e0 e1 s x y : Nat) : Nat := min (e0 - x) s * min (e1 - y) s
/-- The pairs in quadrant `q` of a square of side 2^(k+1), and in the quadrants before it. -/
def quadCount (e0 e1 k x y q : Nat) : Nat := squareCount e0 e1 (2 ^ k) (x + 2 ^ k * (q % 2)) (y + 2 ^ k * (q / 2))
def quadStart (e0 e1 k x y : Nat) : Nat → Nat
  | 0 => 0
  | q + 1 => quadStart e0 e1 k x y q + quadCount e0 e1 k x y q

section
variable {e0 e1 k x y n : Nat}

theorem quadStart_mono {q p : Nat} (h : q < p) : quadStart e0 e1 k x y q + quadCount e0 e1 k x y q ≤ quadStart e0 e1 k x y p := by
  induction p, h using Nat.le_induction with
  | base => exact Nat.le_refl _
  | succ p _ ih => exact ih.trans (Nat.le_add_right _ _)
theorem squareCount_quadrants : squareCount e0 e1 (2 ^ (k + 1)) x y = quadStart e0 e1 k x y 4 := by
  have hmin (e z : Nat) : min (e - z) (2 ^ (k + 1)) = min (e - z) (2 ^ k) + min (e - (z + 2 ^ k)) (2 ^ k) := by
    rw [pow_succ]
    omega
  simp only [quadStart, quadCount, squareCount, hmin, Nat.reduceMod, Nat.reduceDiv, Nat.mul_zero, Nat.mul_one, Nat.add_zero, Nat.zero_add]
  ring
/-- The n-th pair of a square is a pair of the quadrant that holds its place. -/
theorem mortonPick_quadrant (hn : n < quadStart e0 e1 k x y 4) : ∃ q n0, q < 4 ∧ n = quadStart e0 e1 k x y q + n0 ∧
    n0 < quadCount e0 e1 k x y q ∧
    mortonPick e0 e1 (k + 1) x y n = mortonPick e0 e1 k (x + 2 ^ k * (q % 2)) (y + 2 ^ k * (q / 2)) n0 := by
  have hcount (q : Nat) : quadCount e0 e1 k x y q =
      min (e0 - (x + 2 ^ k * (q % 2))) (2 ^ k) * min (e1 - (y + 2 ^ k * (q / 2))) (2 ^ k) := rfl
  have h0 := hcount 0
  have h1 := hcount 1
  have h2 := hcount 2
  have h3 := hcount 3
  simp only [Nat.reduceMod, Nat.reduceDiv, Nat.mul_zero, Nat.mul_one, Nat.add_zero] at h0 h1 h2 h3
  have hstart : quadStart e0 e1 k x y 1 = quadCount e0 e1 k x y 0 ∧
      quadStart e0 e1 k x y 2 = quadCount e0 e1 k x y 0 + quadCount e0 e1 k x y 1 ∧
      quadStart e0 e1 k x y 3 = quadCount e0 e1 k x y 0 + quadCount e0 e1 k x y 1 + quadCount e0 e1 k x y 2 ∧
      quadStart e0 e1 k x y 4 = quadCount e0 e1 k x y 0 + quadCount e0 e1 k x y 1 + quadCount e0 e1 k x y 2 + quadCount e0 e1 k x y 3 := by
    simp only [quadStart, Nat.zero_add, and_self]
  obtain ⟨hs1, hs2, hs3, hs4⟩ := hstart
  rw [mortonPick]
  simp only [← h0, ← h1, ← h2]
  split
  · next h => exact ⟨0, n, by decide, (Nat.zero_add n).symm, h, by simp⟩
  · split
    · next h h' => exact ⟨1, n - quadCount e0 e1 k x y 0, by decide, by omega, by omega, by simp⟩
    · split
      · next h h' h'' => exact ⟨2, n - quadCount e0 e1 k x y 0 - quadCount e0 e1 k x y 1, by decide, by omega, by omega, by simp⟩
      · next h h' h'' =>
        exact ⟨3, n - quadCount e0 e1 k x y 0 - quadCount e0 e1 k x y 1 - quadCount e0 e1 k x y 2, by decide, by omega, by omega, by simp⟩
end

/-- A pair of a square at (x, y), by its offsets. -/
structure InSquare (e0 e1 k x y u v : Nat) : Prop where
  u_lt : u < 2 ^ k
  v_lt : v < 2 ^ k
  x_lt : x + u < e0
  y_lt : y + v < e1
/-- Pairs that come later in the sequence have larger Morton codes (17 R330). -/
theorem mortonPick_mono (e0 e1 k : Nat) : ∀ x y n m, n ≤ m → m < squareCount e0 e1 (2 ^ k) x y → ∃ u v u' v',
    mortonPick e0 e1 k x y n = [x + u, y + v] ∧ mortonPick e0 e1 k x y m = [x + u', y + v'] ∧ InSquare e0 e1 k x y u v ∧
      InSquare e0 e1 k x y u' v' ∧ (n < m → mortonLow k u v < mortonLow k u' v') := by
  induction k with
  | zero =>
    intro x y n m hnm hm
    have hle : squareCount e0 e1 (2 ^ 0) x y ≤ 1 := Nat.mul_le_mul (Nat.min_le_right _ _) (Nat.min_le_right _ _)
    have hpos : 0 < squareCount e0 e1 (2 ^ 0) x y := by omega
    have hx : x < e0 := by
      have := Nat.pos_of_mul_pos_right hpos
      omega
    have hy : y < e1 := by
      have := Nat.pos_of_mul_pos_left hpos
      omega
    exact ⟨0, 0, 0, 0, rfl, rfl, ⟨Nat.one_pos, Nat.one_pos, hx, hy⟩, ⟨Nat.one_pos, Nat.one_pos, hx, hy⟩, fun h => absurd h (by omega)⟩
  | succ k ih =>
    intro x y n m hnm hm
    rw [squareCount_quadrants] at hm
    have hquad (q u v : Nat) (hq : q < 4) (h : InSquare e0 e1 k (x + 2 ^ k * (q % 2)) (y + 2 ^ k * (q / 2)) u v) :
        InSquare e0 e1 (k + 1) x y (2 ^ k * (q % 2) + u) (2 ^ k * (q / 2) + v) := by
      obtain ⟨hu, hv, hx, hy⟩ := h
      have hb (b w : Nat) (hb : b < 2) (hw : w < 2 ^ k) : 2 ^ k * b + w < 2 ^ (k + 1) := by
        have : 2 ^ k * b ≤ 2 ^ k * 1 := Nat.mul_le_mul_left _ (by omega)
        rw [pow_succ]
        omega
      exact ⟨hb _ _ (by omega) hu, hb _ _ (by omega) hv, by omega, by omega⟩
    obtain ⟨q, n0, hq, hn, hn0, hpick⟩ := mortonPick_quadrant (Nat.lt_of_le_of_lt hnm hm)
    obtain ⟨p, m0, hp, hm', hm0, hpick'⟩ := mortonPick_quadrant hm
    have hqp : q ≤ p := by
      by_contra hlt
      have := quadStart_mono (e0 := e0) (e1 := e1) (k := k) (x := x) (y := y) (Nat.lt_of_not_le hlt)
      omega
    rw [hpick, hpick']
    rcases Nat.lt_or_eq_of_le hqp with hlt | rfl
    · obtain ⟨u, v, -, -, hu, -, hin, -, -⟩ := ih _ _ n0 n0 (Nat.le_refl _) hn0
      obtain ⟨u', v', -, -, hu', -, hin', -, -⟩ := ih _ _ m0 m0 (Nat.le_refl _) hm0
      refine ⟨_, _, _, _, by rw [hu, Nat.add_assoc, Nat.add_assoc], by rw [hu', Nat.add_assoc, Nat.add_assoc], hquad q u v hq hin,
        hquad p u' v' hp hin', fun _ => ?_⟩
      rw [mortonLow_quadrant hq hin.u_lt hin.v_lt, mortonLow_quadrant hp hin'.u_lt hin'.v_lt]
      have hlow := mortonLow_lt k u v
      have hstep : (q + 1) * 2 ^ (2 * k) ≤ p * 2 ^ (2 * k) := Nat.mul_le_mul_right _ hlt
      rw [Nat.add_mul] at hstep
      omega
    · obtain ⟨u, v, u', v', hu, hu', hin, hin', hmono⟩ := ih _ _ n0 m0 (by omega) hm0
      refine ⟨_, _, _, _, by rw [hu, Nat.add_assoc, Nat.add_assoc], by rw [hu', Nat.add_assoc, Nat.add_assoc], hquad q u v hq hin,
        hquad q u' v' hp hin', fun h => ?_⟩
      rw [mortonLow_quadrant hq hin.u_lt hin.v_lt, mortonLow_quadrant hp hin'.u_lt hin'.v_lt]
      exact Nat.add_lt_add_right (hmono (by omega)) _

/-! ## The tuples -/

theorem tuple_mixed {l : Launch} {a b c d : Nat} (n : Nat) (he : l.extents = [a, b, c, d]) :
    (l.order = 0 → l.tuple n = [n % a, n / a % b, n / a / b % c, n / a / b / c % d]) ∧
      (l.order = 1 → l.tuple n = [n / d / c / b % a, n / d / c % b, n / d % c, n % d]) := by
  refine ⟨fun ho => ?_, fun ho => ?_⟩ <;> rw [Launch.tuple, ho, he] <;> rfl

theorem tuple_morton {l : Launch} {a b n x y : Nat} (ho : l.order = 2) (he : l.extents = [a, b]) (hn : n < a * b)
    (hpick : mortonPick a b 31 0 0 n = [x, y]) : l.tuple n = [x, y] := by
  rw [Launch.tuple, ho, he]
  change (mortonPick a b 31 0 0 (n % (a * b)) ++ digits [] (n / (a * b))).take 2 = _
  rw [Nat.mod_eq_of_lt hn, hpick]
  rfl

/-- The iterations of a launch in its order (17 R330). -/
theorem iterationOrder : Claims.IterationOrder := by
  refine ⟨fun l a b c d n he => tuple_mixed n he, fun l a b n k ho he ha hb hnk hk => ?_⟩
  have hsize : squareCount a b (2 ^ 31) 0 0 = a * b := by
    rw [squareCount, Nat.sub_zero, Nat.sub_zero, Nat.min_eq_left ha, Nat.min_eq_left hb]
  obtain ⟨u, v, u', v', hu, hu', hin, hin', hmono⟩ := mortonPick_mono a b 31 0 0 n k (Nat.le_of_lt hnk) (by rw [hsize]; exact hk)
  simp only [Nat.zero_add] at hu hu'
  have hx := hin.x_lt
  have hy := hin.y_lt
  have hx' := hin'.x_lt
  have hy' := hin'.y_lt
  simp only [Nat.zero_add] at hx hy hx' hy'
  refine ⟨u, v, u', v', tuple_morton ho he (hnk.trans hk) hu, tuple_morton ho he hk hu', hx, hy, hx', hy', ?_⟩
  rw [morton_eq, morton_eq]
  exact hmono hnk

end Sys2Proof.Machine
end

section
/-! PROOFS. Dealing (17 R330 to R334): a die's iteration, the hand dealt to, co-started teams, and the end of a launch. -/

namespace Sys2Proof.Machine

/-! ## The hand dealt to (17 R331) -/

theorem Hand.putS_frame (h : Hand) {n : Nat} (hn : n ≠ 0) (v : W64) : h.putS n v = { h with s := h.s.set n v } := by
  rw [Hand.putS, if_neg hn]

/-- A dealt thread's registers S1 to S4 as its preload bytes say. -/
def preloadS (l : Launch) (ix : List Nat) (s : KMap W64) (b : Nat × Nat) : KMap W64 :=
  if 128 ≤ b.1 then s.set (b.2 + 1) (l.preloadVal ix b.1) else s
theorem preloads_eq (l : Launch) (ix : List Nat) (bs : List (Nat × Nat)) (h : Hand) :
    bs.foldl (fun h b => if 128 ≤ b.1 then h.putS (b.2 + 1) (l.preloadVal ix b.1) else h) h =
      { h with s := bs.foldl (preloadS l ix) h.s } := by
  induction bs generalizing h with
  | nil => rfl
  | cons b bs ih =>
    rw [List.foldl_cons, ih, List.foldl_cons, preloadS]
    split
    · rw [Hand.putS_frame h (Nat.succ_ne_zero b.2)]
    · rfl
/-- The hand as a deal leaves it, but for what is preloaded. -/
def Hand.dealt (h : Hand) (now r tid : Nat) (l : Launch) : Hand :=
  { (h.setCreg 0x07A (l.dmem r)) with
    thread := true, launch := l.id, tid := tid, ea := { pc := l.entry }, ex := { pc := l.entry }, em := { pc := l.entry }, v := [], pool := 2048,
    freed := 0, fifos := [], vclk := 0, frzRun := 0, blocked := none, holdTill := now + 1, barTill := 0, ring := 0, busy := 0, stage := 0,
    disps := 0, coWait := l.costart, dealtT := now + 1 }
theorem Hand.deal_eq (h : Hand) (now r tid : Nat) (l : Launch) (ix : List Nat) : h.deal now r tid l ix =
    { h.dealt now r tid l with s := l.preload.zipIdx.foldl (preloadS l ix) (h.dealt now r tid l).s } :=
  preloads_eq l ix l.preload.zipIdx _
/-- A deal reads of its launch what the record gave, not how far it has come. -/
theorem Hand.deal_progress (h : Hand) (now r tid n dealt running : Nat) (l : Launch) (ix : List Nat) (teams : KMap (List (List Nat))) :
    h.deal now r tid { l with next := n, dealt := dealt, running := running, teams := teams } ix = h.deal now r tid l ix := rfl

/-- A register preloaded from list `bs`, at places from `k` on. -/
theorem preloadS_get {l : Launch} {ix : List Nat} {bs : List Nat} {k : Nat} (s : KMap W64) (n : Nat) :
    KMap.get 0 ((bs.zipIdx k).foldl (preloadS l ix) s) n =
      if k < n ∧ n ≤ k + bs.length ∧ 128 ≤ bs.getD (n - k - 1) 0 then l.preloadVal ix (bs.getD (n - k - 1) 0) else KMap.get 0 s n := by
  induction bs generalizing k s with
  | nil => simp
  | cons b bs ih =>
    have hstep : KMap.get 0 (preloadS l ix s (b, k)) n = if 128 ≤ b ∧ n = k + 1 then l.preloadVal ix b else KMap.get 0 s n := by
      rw [preloadS]
      split
      · next hb => simp [KMap.get_set, hb]
      · next hb => simp [hb]
    rw [List.zipIdx_cons, List.foldl_cons, ih, hstep]
    by_cases hfirst : n = k + 1
    · subst hfirst
      simp
    · by_cases hlater : k + 1 < n
      · obtain ⟨j, rfl⟩ : ∃ j, n = k + j + 2 := ⟨n - k - 2, by omega⟩
        have h1 : k + j + 2 - (k + 1) - 1 = j := by omega
        have h2 : k + j + 2 - k - 1 = j + 1 := by omega
        simp only [h1, h2, List.getD_cons_succ, List.length_cons, hfirst, and_false, if_false]
        refine if_congr ?_ rfl rfl
        omega
      · rw [if_neg (by omega), if_neg (by omega), if_neg (by omega)]

theorem preloadVal_eq (l : Launch) (ix : List Nat) (b : Nat) : l.preloadVal ix b =
    BitVec.ofInt 64 (if b.testBit 2 then (ix.getD (b % 4) 0 : Int) * l.strides.getD (b % 4) 0 else (ix.getD (b % 4) 0 : Int)) := by
  unfold Launch.preloadVal
  dsimp only
  split
  · rfl
  · exact (BitVec.ofInt_natCast 64 _).symm

/-! ## One iteration placed (17 R331) -/

section
variable {m : Mach} {now r : Nat} {l : Launch} {ix : List Nat}

/-- The machine after one iteration is placed at an active hand, or at one whose core changes hands. -/
theorem Mach.place_spec (hmoves : ∀ p ∈ m.ctxs, p.2.moves = []) : (m.place now r l ix).mem = m.mem ∧
    (m.place now r l ix).hands = m.hands.set r ((m.hand r).deal now r m.nextId l ix) ∧
    (m.place now r l ix).dies = m.dies ∧
    (m.place now r l ix).dev = (m.putLaunch { l with dealt := l.dealt + 1, running := l.running + 1 }).dev := by
  set p := ((m.modHand r (fun h => h.deal now r m.nextId l ix)).bump).putLaunch { l with dealt := l.dealt + 1, running := l.running + 1 } with hp
  have hplace : m.place now r l ix = if p.activeHand (coreOf r) = r then p else p.postSwitch now (coreOf r) := by
    unfold Mach.place
    dsimp only
    rw [← hp, Mach.examineAll_of_none]
    split <;> exact hmoves
  rw [hplace]
  split <;> exact ⟨rfl, rfl, rfl, rfl⟩
theorem Mach.place_hand (hmoves : ∀ p ∈ m.ctxs, p.2.moves = []) :
    (m.place now r l ix).hand r = (m.hand r).deal now r m.nextId l ix := by
  obtain ⟨-, hhands, -⟩ := Mach.place_spec (now := now) (r := r) (l := l) (ix := ix) hmoves
  rw [Mach.hand, hhands, KMap.get_set_same]
end

/-- The members of a launch come in ascending order. -/
theorem Launch.members_sorted (l : Launch) : l.members.Pairwise (· < ·) := by
  have hrange (n : Nat) (p : Nat → Bool) : ((List.range n).filter p).Pairwise (· < ·) := List.pairwise_lt_range.filter _
  rw [Launch.members, List.pairwise_flatMap]
  refine ⟨fun c _ => ?_, (hrange 72 _).imp fun {c d} hcd x hx y hy => ?_⟩
  · rw [List.pairwise_map]
    exact (hrange 4 _).imp fun h => by omega
  · obtain ⟨j, hj, rfl⟩ := List.mem_map.1 hx
    obtain ⟨k, hk, rfl⟩ := List.mem_map.1 hy
    have hj' := List.mem_range.1 (List.mem_filter.1 hj).1
    omega
/-- In an ascending list the first that a test accepts is the lowest that it does. -/
theorem find?_of_lowest {p : Nat → Bool} {l : List Nat} {r : Nat} (hsorted : l.Pairwise (· < ·)) (hr : r ∈ l) (hp : p r = true)
    (hlow : ∀ q ∈ l, q < r → p q = false) : l.find? p = some r := by
  induction l with
  | nil => simp at hr
  | cons a l ih =>
    obtain ⟨ha, hl⟩ := List.pairwise_cons.1 hsorted
    rcases List.mem_cons.1 hr with rfl | hr
    · rw [List.find?_cons_of_pos hp]
    · have hskip := hlow a List.mem_cons_self (ha r hr)
      rw [List.find?_cons_of_neg (by simp [hskip])]
      exact ih hl hr fun q hq => hlow q (List.mem_cons_of_mem _ hq)

/-! ## DEAL_ITERATION -/

theorem Mach.loadSnaps_of_not_replaying {m : Mach} {p : Nat} (now : Nat) (h : (m.part p).rpMode ≠ 2) : m.loadSnaps now p = m := by
  have hnone : m.logLeft p = [] := by
    unfold Mach.logLeft
    simp [h]
  rw [Mach.loadSnaps, hnone]
  rfl

section
variable {s : State} {d r : Nat} {l : Launch}

/-- The lowest free member of the die takes the next iteration (17 R331). -/
theorem dealFrom_lowest (hteams : l.teams = []) (hdue : l.notBefore ≤ s.tb) (hcostart : l.costart = false) (hleft : l.next + 1 < l.total)
    (hmem : r ∈ l.members) (hdie : dieOf (clusterOf r) = d) (hfree : s.m.freeFor s.tb r l = true)
    (hlow : ∀ q ∈ l.members, dieOf (clusterOf q) = d → q < r → s.m.freeFor s.tb q l = false) :
    s.m.dealFrom s.tb d l = some (s.m.place s.tb r { l with next := l.next + 1 } (l.tuple l.next)) := by
  have hfind : (l.onDie d).find? (fun r => s.m.freeFor s.tb r l) = some r := by
    refine find?_of_lowest (l.members_sorted.filter _) (List.mem_filter.2 ⟨hmem, by simp [hdie]⟩) hfree fun q hq hqr => ?_
    obtain ⟨hq, hqd⟩ := List.mem_filter.1 hq
    exact hlow q hq (by simpa using hqd) hqr
  rw [Mach.dealFrom, if_neg (Nat.not_lt.2 hdue), hteams]
  simp only [List.find?_nil, hcostart, Bool.false_eq_true, if_false, hfind, Nat.not_le.2 (Nat.lt_of_succ_lt hleft)]

/-- What a die's turn leaves once it has placed an iteration of the only launch. -/
theorem exec_dealIteration_places (hlaunches : s.m.dev.launches = [l]) (hprio : l.prio < 8) (hturn : (s.m.die d).dealtAt ≠ s.tb + 1)
    (hmode : (s.m.part (s.m.ctx l.ctx).part).rpMode ≠ 2) {p : Mach} (hdeal : s.m.dealFrom s.tb d l = some p) {l' : Launch}
    (hplaced : p.dev.launches = [l']) (hleft : l'.left = true) : exec (.dealIteration d) s =
      s.goes ((p.modDie d (fun x => { x with dealtAt := s.tb + 1 })).post (s.tb + 1) (.dealIteration d)) := by
  have hexec : exec (.dealIteration d) s = execDealIteration d s := rfl
  have hsnaps : [l].foldl (fun m l => m.loadSnaps s.tb (m.ctx l.ctx).part) s.m = s.m := Mach.loadSnaps_of_not_replaying s.tb hmode
  have horder : s.m.dealOrder = [l] := by
    unfold Mach.dealOrder
    rw [hlaunches]
    have : l.prio = 0 ∨ l.prio = 1 ∨ l.prio = 2 ∨ l.prio = 3 ∨ l.prio = 4 ∨ l.prio = 5 ∨ l.prio = 6 ∨ l.prio = 7 := by omega
    rcases this with h | h | h | h | h | h | h | h <;> simp [List.range_succ, h]
  rw [hexec, execDealIteration, runEvent, if_neg hturn, hlaunches]
  dsimp only
  rw [hsnaps, horder, List.findSome?_cons, hdeal]
  dsimp only
  have hany : (p.modDie d (fun x => { x with dealtAt := s.tb + 1 })).dev.launches.any Launch.left = true := by
    rw [Mach.modDie_dev, hplaced, List.any_cons, hleft, Bool.true_or]
  rw [if_pos hany, Mach.post_dev, Mach.modDie_dev, hplaced, List.foldl_cons, List.foldl_nil, if_pos hleft]
end

/-! ## A co-started team (17 R333) -/

section
variable {m : Mach} {now c r : Nat} {l : Launch} {ix : List Nat}

theorem placeTeam_none (hteam : l.members.filter (fun q => clusterOf q == c) = [r]) (hfree : m.freeFor now r l = false) :
    m.placeTeam now l c [ix] = none := by
  have hfind : (l.members.filter (fun q => clusterOf q == c)).find? (fun r => m.freeFor now r l) = none := by
    rw [hteam, List.find?_cons_of_neg (by simp [hfree])]
    rfl
  unfold Mach.placeTeam
  rw [hfind]
/-- The last of a team is placed, and its members may issue. -/
theorem placeTeam_last (hmoves : ∀ p ∈ m.ctxs, p.2.moves = []) (hteam : l.members.filter (fun q => clusterOf q == c) = [r])
    (hfree : m.freeFor now r l = true) : ∃ t : Mach, m.placeTeam now l c [ix] = some t ∧ (t.hand r).thread = true ∧
      (t.hand r).coWait = false ∧ (t.hand r).holdTill = now + 1 := by
  set l' : Launch := { l with teams := l.teams.filter (fun p => p.1 != c) } with hl'
  have hplace : m.placeTeam now l c [ix] = some ((m.place now r l' ix).modHand r (fun h =>
      if h.launch = l'.id then { h with coWait := false, holdTill := now + 1 } else h)) := by
    have hteam' : l'.members.filter (fun q => clusterOf q == c) = [r] := hteam
    have hfind : (l.members.filter (fun q => clusterOf q == c)).find? (fun r => m.freeFor now r l) = some r := by
      rw [hteam, List.find?_singleton, if_pos hfree]
    unfold Mach.placeTeam
    rw [hfind]
    simp only [List.isEmpty_nil, if_true]
    rw [← hl', hteam']
    rfl
  have hhand := Mach.place_hand (now := now) (r := r) (l := l') (ix := ix) hmoves
  have hdeal := (m.hand r).deal_eq now r m.nextId l' ix
  have hlaunch : ((m.place now r l' ix).hand r).launch = l'.id := by
    rw [hhand, hdeal]
    rfl
  refine ⟨_, hplace, ?_⟩
  rw [Mach.modHand_hand_get, if_pos rfl, if_pos hlaunch]
  refine ⟨?_, rfl, rfl⟩
  rw [hhand, hdeal]
  rfl
end

/-! ## LAUNCH_COMPLETE (17 R334, R339) -/

section
variable {s : State} {id : Nat} {l : Launch} (hfind : s.m.launch? id = some l)
include hfind

theorem exec_launchComplete_waits (h : l.left = true ∨ l.running ≠ 0) : exec (.launchComplete id) s = s.goes s.m := by
  have hexec : exec (.launchComplete id) s = execLaunchComplete id s := rfl
  have hopen : (l.left || l.running != 0) = true := by simpa using h
  rw [hexec, execLaunchComplete, runEvent, hfind]
  dsimp only
  rw [if_pos hopen]
theorem exec_launchComplete_signals (hleft : l.left = false) (hrunning : l.running = 0) {i : Nat} {q : QSlot} (hslot : l.slot = some i)
    (hq : s.m.slot? i = some q) : exec (.launchComplete id) s =
      s.goes ((s.m.modDev (fun d => { d with launches := d.launches.filter (fun y => y.id != id) })).signalDone s.tb i q l.event 1 l.status
        l.dealt) := by
  have hexec : exec (.launchComplete id) s = execLaunchComplete id s := rfl
  have hq' : (s.m.modDev (fun d => { d with launches := d.launches.filter (fun y => y.id != id) })).slot? i = some q := hq
  rw [hexec, execLaunchComplete, runEvent, hfind]
  dsimp only
  rw [hleft, hrunning, hslot]
  simp only [bne_self_eq_false, Bool.or_false, Bool.false_eq_true, if_false, Option.bind_some, hq', Option.map_some]
end

theorem Mach.signalDone_done {m n m' : Mach} {now i ev dealt : Nat} {q : QSlot} {v status : W64}
    (hstatus : m.entryStatus now q.ctx status 1 dealt = .ok n) (hsignal : m.signal q.ctx ev v = .ok m') :
    m.signalDone now i q ev v status dealt = m'.entryDone now i q status dealt := by
  rw [Mach.signalDone, hstatus]
  dsimp only
  rw [hsignal]
theorem Mach.signalDone_fault {m : Mach} {now i ev dealt : Nat} {q : QSlot} {v status : W64} {f : FaultRec}
    (hstatus : m.entryStatus now q.ctx status 1 dealt = .error f) : m.signalDone now i q ev v status dealt = m.faultXl now i q 0 f := by
  rw [Mach.signalDone, hstatus]

/-! ## O47 -/

theorem dealt_spec (h : Hand) (now r tid : Nat) (l : Launch) (ix : List Nat) (hlen : l.preload.length = 4) (j : Nat) (hj : j < 4) :
    KMap.get 0 (h.deal now r tid l ix).s (j + 1) = if 128 ≤ l.preload.getD j 0 then l.preloadVal ix (l.preload.getD j 0)
      else KMap.get 0 h.s (j + 1) := by
  rw [h.deal_eq]
  dsimp only
  rw [preloadS_get]
  have hplace : j + 1 - 0 - 1 = j := by omega
  rw [hplace, hlen]
  refine if_congr ?_ rfl ?_
  · omega
  · rfl
theorem dealt_other (h : Hand) (now r tid : Nat) (l : Launch) (ix : List Nat) (hlen : l.preload.length = 4) (n : Nat) (hn : n = 0 ∨ 5 ≤ n) :
    KMap.get 0 (h.deal now r tid l ix).s n = KMap.get 0 h.s n := by
  rw [h.deal_eq]
  dsimp only
  rw [preloadS_get, if_neg (by omega)]
  rfl

theorem dealingThreads : Claims.DealingThreads := by
  refine ⟨?deal, ?taken, ?hand, fun m now c r l ix hmoves hteam => ⟨placeTeam_last hmoves hteam, placeTeam_none hteam⟩, ?complete⟩
  case deal =>
    intro s d r l hlaunches hprio hteams hdue hcostart hnext hturn hmode hmoves hmem hdie hfree hlow _
    set l1 : Launch := { l with next := l.next + 1 } with hl1
    obtain ⟨hpmem, hhands, -, hdev⟩ := Mach.place_spec (m := s.m) (now := s.tb) (r := r) (l := l1) (ix := l.tuple l.next) hmoves
    have hdeal := dealFrom_lowest hteams hdue hcostart hnext hmem hdie hfree hlow
    have hplaced : (s.m.place s.tb r l1 (l.tuple l.next)).dev.launches =
        [{ l with next := l.next + 1, dealt := l.dealt + 1, running := l.running + 1 }] := by
      have hput := congrArg Dev.launches hdev
      rw [hput, Mach.putLaunch, Mach.modDev_dev, hlaunches]
      simp [hl1]
    have hleft : Launch.left { l with next := l.next + 1, dealt := l.dealt + 1, running := l.running + 1 } = true := by
      simp [Launch.left, hnext]
    refine ⟨_, exec_dealIteration_places hlaunches hprio hturn hmode hdeal hplaced hleft, hpmem, ?_, hplaced, ?_, Mach.mem_post_agenda ..⟩
    · exact hhands.trans (by rw [hl1]; exact congrArg (fun h => s.m.hands.set r h) rfl)
    · rw [Mach.post_die_get, Mach.modDie_die_get, if_pos rfl]
  case taken =>
    intro s d hturn
    have hexec : exec (.dealIteration d) s = execDealIteration d s := rfl
    rw [hexec, execDealIteration, runEvent, if_pos hturn]
  case hand =>
    intro h now r tid l ix hlen _
    have hS := dealt_spec h now r tid l ix hlen
    have hother := dealt_other h now r tid l ix hlen
    dsimp only
    have hdeal := h.deal_eq now r tid l ix
    refine ⟨by rw [hdeal]; rfl, by rw [hdeal]; rfl, fun e => by rw [hdeal]; cases e <;> rfl, by rw [hdeal]; rfl, by rw [hdeal]; rfl,
      by rw [hdeal]; rfl, by rw [hdeal]; rfl, fun n => by rw [hdeal]; rfl, fun f => by rw [hdeal]; rfl, by rw [hdeal]; rfl,
      by rw [hdeal]; rfl, by rw [hdeal]; rfl, by rw [hdeal]; rfl, by rw [hdeal]; rfl, fun j hj => ?_, hother⟩
    rw [hS j hj, preloadVal_eq]
  case complete =>
    intro s id l hfind
    refine ⟨exec_launchComplete_waits hfind, fun hleft hrunning i q hslot hq => ⟨fun n m' hstatus hsignal => ?_, fun f hstatus => ?_⟩⟩
    · rw [exec_launchComplete_signals hfind hleft hrunning hslot hq, Mach.signalDone_done hstatus hsignal]
    · rw [exec_launchComplete_signals hfind hleft hrunning hslot hq, Mach.signalDone_fault hstatus]

/-- Settles O47: an iteration goes to the lowest free member, the hand stands as the deal leaves it, and later iterations have larger
Morton codes. -/
theorem dealing : Obligations.Dealing := ⟨dealingThreads, iterationOrder⟩

end Sys2Proof.Machine
end

section
/-! PROOFS. The queues of the command processor (17 R335 to R339, R341). -/

namespace Sys2Proof.Machine

/-! ## What an address holds, whatever else the device keeps -/

/-- Two machines agree on memory, contexts, partitions, and on the links and errors behind a physical address. -/
structure Mach.SameStore (m m' : Mach) : Prop where
  mem : m.mem = m'.mem
  ctxs : m.ctxs = m'.ctxs
  clPart : m.clPart = m'.clPart
  cxlGib : m.dev.cxlGib = m'.dev.cxlGib
  cxlst : m.dev.cxlst = m'.dev.cxlst
  errors : m.dev.errors = m'.dev.errors

namespace Mach.SameStore
variable {m m' : Mach} (h : m.SameStore m')
include h

theorem ctx (k : Nat) : m.ctx k = m'.ctx k := by rw [Mach.ctx, h.ctxs, Mach.ctx]
theorem physKind (pa : Nat) : m.physKind pa = m'.physKind pa := by
  unfold Mach.physKind
  rw [h.cxlGib]
theorem rowError (k : Nat) : m.rowError k = m'.rowError k := by
  unfold Mach.rowError Mach.cxlDown
  rw [h.physKind, h.cxlst, h.errors]
theorem readRow (k n : Nat) : m.readRow k n = m'.readRow k n := by
  unfold Mach.readRow Mach.bytes
  rw [h.rowError, h.mem]
theorem walkFrom (va n : Nat) : ∀ table w u, m.walkFrom va n table w u = m'.walkFrom va n table w u := by
  induction n with
  | zero => exact fun _ _ _ => rfl
  | succ n ih =>
    intro table w u
    unfold Mach.walkFrom Mach.walkLevel
    rw [h.physKind, h.readRow]
    simp only [ih]
theorem resolve (k : Nat) (x : W64) (n : Nat) (wr ring0 : Bool) : m.resolve k x n wr ring0 = m'.resolve k x n wr ring0 := by
  unfold Mach.resolve Mach.inPart Mach.walk Mach.usePage
  simp only [h.walkFrom, h.physKind, h.ctx, h.clPart]
theorem span (k : Nat) (x : W64) (n : Nat) (wr ring0 : Bool) : m.span k x n wr ring0 = m'.span k x n wr ring0 := by
  have haux (f : Nat) : ∀ x n, m.spanAux k wr ring0 f x n = m'.spanAux k wr ring0 f x n := by
    induction f with
    | zero => exact fun _ _ => rfl
    | succ f ih =>
      intro x n
      unfold Mach.spanAux
      simp only [h.resolve, ih]
  exact haux _ x n
theorem readAt (k : Nat) (x : W64) (n : Nat) (ring0 : Bool) : m.readAt k x n ring0 = m'.readAt k x n ring0 := by
  have hread : m.readSpan = m'.readSpan := funext fun l => by
    unfold Mach.readSpan
    simp only [h.readRow]
  rw [Mach.readAt, h.span, hread, Mach.readAt]
theorem desc (k q : Nat) : m.desc k q = m'.desc k q := by
  have hat : m.descAt k q = m'.descAt k q := by rw [Mach.descAt, h.ctx, Mach.descAt]
  rw [Mach.desc, h.readAt, hat, Mach.desc]
end Mach.SameStore

/-! ## Slots -/

theorem KMap.find?_set_same {α : Type} (m : KMap α) (k : Nat) (v : α) : (KMap.set m k v).find? (fun p => p.1 == k) = some (k, v) := by
  induction m with
  | nil => simp [KMap.set]
  | cons p m ih =>
    obtain ⟨j, w⟩ := p
    rw [KMap.set]
    split
    · simp
    · split
      · simp
      · next hne _ => simpa [List.find?_cons, hne] using ih

section
variable (m : Mach) (i : Nat) (q : QSlot)

theorem Mach.slot?_putSlot : (m.putSlot i q).slot? i = some q := by
  have hfind := KMap.find?_set_same m.dev.slots i q
  exact congrArg (Option.map (·.2)) hfind
theorem Mach.slot?_dropSlot : (m.dropSlot i).slot? i = none := by
  have hnone : (m.dev.slots.filter (fun p => p.1 != i)).find? (fun p => p.1 == i) = none :=
    List.find?_eq_none.2 fun p hp => by simpa using (List.mem_filter.1 hp).2
  exact congrArg (Option.map (·.2)) hnone
theorem Mach.putSlot_putSlot (q' : QSlot) : (m.putSlot i q).putSlot i q' = m.putSlot i q' := by
  simp [Mach.putSlot, Mach.modDev]

theorem Mach.putDesc_dev (k n lo : Nat) (bs : List Byte) : (m.putDesc k n lo bs).dev = m.dev := by
  unfold Mach.putDesc
  split
  · next m' h =>
    obtain ⟨mem, rfl⟩ := Mach.writeAt_eq h
    rfl
  · rfl
theorem Mach.entryStatus_dev {m m' : Mach} {now k code dealt : Nat} {a : W64} (h : m.entryStatus now k a code dealt = .ok m') :
    m'.dev = m.dev := by
  rw [Mach.entryStatus] at h
  split at h
  · cases h
    rfl
  · obtain ⟨mem, rfl⟩ := Mach.writeAt_eq h
    rfl
theorem Mach.kick_dev (now : Nat) : (m.kick now).dev = m.dev := by
  unfold Mach.kick
  split <;> rfl
/-- A pass is due in the next cycle. -/
theorem Mach.mem_kick_agenda (now : Nat) : (now + 1, Instr.queueSchedulerPass) ∈ (m.kick now).agenda := by
  unfold Mach.kick
  split
  · next h =>
    obtain ⟨p, hp, heq⟩ := List.any_eq_true.1 h
    obtain ⟨h1, h2⟩ : p.1 = now + 1 ∧ p.2 = .queueSchedulerPass := by simpa using heq
    rwa [← h1, ← h2]
  · exact Mach.mem_post_agenda ..

/-! ## An entry done, and a queue that faults -/

variable (now : Nat) (status : W64)

theorem Mach.faultQueue_slots (kind cause reason : Nat) (info : W64) :
    (m.faultQueue now i q status kind info cause reason).dev.slots = m.dev.slots.filter (fun p => p.1 != i) := by
  unfold Mach.faultQueue
  dsimp only [Mach.dropSlot, Mach.modDev]
  rw [Mach.putDesc_dev]
  split
  · next h => rw [Mach.entryStatus_dev h]
  · rfl
theorem Mach.slot?_faultQueue (kind cause reason : Nat) (info : W64) :
    (m.faultQueue now i q status kind info cause reason).slot? i = none := Mach.slot?_dropSlot _ i
theorem Mach.slot?_faultXl (f : FaultRec) : (m.faultXl now i q status f).slot? i = none := by
  unfold Mach.faultXl
  split <;> exact Mach.slot?_faultQueue ..

theorem Mach.entryDone_spec {m m' : Mach} {dealt : Nat} (h : m.entryStatus now q.ctx status 1 dealt = .ok m') :
    (m.entryDone now i q status dealt).slot? i = some { q with rd := (q.rd + 1) % 2 ^ 32, st := if (q.rd + 1) % 2 ^ 32 = q.wr then 0 else 1,
                                                               since := now, ready := now + 1, asked := [] } ∧
      (now + 1, .queueSchedulerPass) ∈ (m.entryDone now i q status dealt).agenda := by
  rw [Mach.entryDone, h]
  dsimp only
  refine ⟨?_, Mach.mem_kick_agenda ..⟩
  rw [Mach.slot?, Mach.kick_dev]
  exact Mach.slot?_putSlot ..

/-- A slot is READY or EMPTY, or maps no queue any more. -/
def Mach.NotBlocked (m : Mach) (i : Nat) : Prop := (m.slot? i).all (fun x => x.st != 2) = true
theorem Mach.notBlocked_of_none {m : Mach} {i : Nat} (h : m.slot? i = none) : m.NotBlocked i := by rw [Mach.NotBlocked, h]; rfl
theorem Mach.faultXl_notBlocked (f : FaultRec) : (m.faultXl now i q status f).NotBlocked i := notBlocked_of_none (m.slot?_faultXl i q now status f)
theorem Mach.entryDone_notBlocked (dealt : Nat) : (m.entryDone now i q status dealt).NotBlocked i := by
  cases h : m.entryStatus now q.ctx status 1 dealt with
  | error f =>
    rw [Mach.entryDone, h]
    exact m.faultXl_notBlocked ..
  | ok m' =>
    rw [Mach.NotBlocked, (Mach.entryDone_spec i q now status h).1]
    simp only [Option.all_some]
    split <;> decide
end

/-! ## An entry starts (17 R336) -/

/-- What a well-formed entry does, by its OP. -/
def Mach.runEntry (m : Mach) (now i : Nat) (q : QSlot) (e : List Byte) : Mach :=
  let ev := field e 4 4
  let v := BitVec.ofNat 64 (field e 8 8)
  let status := BitVec.ofNat 64 (field e 24 8)
  match field e 0 1 with
  | 1 => m.launchEntry now i q ev (BitVec.ofNat 64 (field e 16 8)) status
  | 2 =>
    if ev = 0 then m.entryDone now i q status 0
    else match m.readAt q.ctx ((m.ctx q.ctx).reg 0x07C + slotN (8 * ev)) 8 false with
      | .error f => m.faultXl now i q status f
      | .ok bs => if v.toNat ≤ leNat bs then m.entryDone now i q status 0 else m.putSlot i { q with st := 2 }
  | 3 => m.signalDone now i q ev v status 0
  | _ => m.entryDone now i q status 0
/-- The machine with slot `i` the one last served, where the entry of a READY slot ran, or a BLOCKED one went on (17 R337). -/
def Mach.servedAt (m : Mach) (i : Nat) (q : QSlot) : Mach :=
  if q.st == 1 || (m.slot? i).all (fun x => x.st != 2) then m.modDev (fun d => { d with lastSlot := i }) else m
theorem Mach.servedAt_of_notBlocked {m : Mach} {i : Nat} (h : m.NotBlocked i) (q : QSlot) :
    m.servedAt i q = m.modDev (fun d => { d with lastSlot := i }) :=
  if_pos (by rw [show (m.slot? i).all (fun x => x.st != 2) = true from h, Bool.or_true])
theorem Mach.servedAt_of_blocked {m : Mach} {i : Nat} {q x : QSlot} (hx : m.slot? i = some x) (hst : x.st = 2) :
    m.servedAt i q = if q.st = 1 then m.modDev (fun d => { d with lastSlot := i }) else m := by
  have hall : (m.slot? i).all (fun x => x.st != 2) = false := by rw [hx]; simp [hst]
  rw [Mach.servedAt, hall, Bool.or_false]
  simp only [beq_iff_eq]

theorem entryAddr_eq (d : List Byte) (rd : Nat) : Claims.entryAddr d rd =
    BitVec.ofNat 64 (field d 0 8) + slotN (64 * (rd % 2 ^ (field d 8 1 % 32))) := by
  rw [Claims.entryAddr, slotN, BitVec.ofNat_add]

section
variable {s : State} {i : Nat} {q : QSlot} {e : List Byte}

theorem startEntry_runs (h : Claims.QueueEntry s i q e) (hgood : entryBad e = false) :
    s.m.startEntry s.tb i (some (field e 0 1)) = (s.m.runEntry s.tb i q e).servedAt i q := by
  obtain ⟨hslot, hst, d, hdesc, hread⟩ := h
  rw [entryAddr_eq] at hread
  have hst' : (q.st != 1 && q.st != 2) = false := by rcases hst with h | h <;> rw [h] <;> rfl
  rw [Mach.startEntry, hslot]
  dsimp only
  rw [hst', if_neg Bool.false_ne_true, hdesc]
  dsimp only
  rw [hread]
  dsimp only
  rw [Option.any_some, bne_self_eq_false, if_neg Bool.false_ne_true, hgood, if_neg Bool.false_ne_true]
  rfl
theorem startEntry_faults (h : Claims.QueueEntry s i q e) (hbad : entryBad e = true) {d : List Byte} (hdesc : s.m.desc q.ctx q.q = some d) :
    s.m.startEntry s.tb i (some (field e 0 1)) =
      s.m.faultQueue s.tb i q (BitVec.ofNat 64 (field e 24 8)) 1 (Claims.entryAddr d q.rd) 0 0 := by
  obtain ⟨hslot, hst, d', hdesc', hread⟩ := h
  obtain rfl : d = d' := Option.some_injective _ (hdesc.symm.trans hdesc')
  rw [entryAddr_eq] at hread ⊢
  have hst' : (q.st != 1 && q.st != 2) = false := by rcases hst with h | h <;> rw [h] <;> rfl
  rw [Mach.startEntry, hslot]
  dsimp only
  rw [hst', if_neg Bool.false_ne_true, hdesc]
  dsimp only
  rw [hread]
  dsimp only
  rw [Option.any_some, bne_self_eq_false, if_neg Bool.false_ne_true, hbad, if_pos rfl]
end

/-! ## Signals and waits -/

section
variable {m m' : Mach} {now i ev dealt : Nat} {q : QSlot} {v status : W64}

theorem Mach.signalDone_none : m.signalDone now i q 0 v status dealt = m.entryDone now i q status dealt := by
  cases h : m.entryStatus now q.ctx status 1 dealt with
  | error f => rw [Mach.signalDone_fault h, Mach.entryDone, h]
  | ok n => exact Mach.signalDone_done h (if_pos rfl)
theorem Mach.signal_writes {k : Nat} {bs : List Byte} (hev : ev ≠ 0)
    (hread : m.readAt k ((m.ctx k).reg 0x07C + slotN (8 * ev)) 8 false = .ok bs)
    (hwrite : m.writeAt k ((m.ctx k).reg 0x07C + slotN (8 * ev)) (leBytes 8 (leNat bs + v.toNat)) false = .ok m') : m.signal k ev v = .ok m' := by
  rw [Mach.signal, if_neg hev]
  dsimp only
  rw [hread]
  exact hwrite
end

/-! ## A launch begins (17 R330, R341) -/

theorem foldl_of_fixed {α β : Type} {f : β → α → β} {b : β} {l : List α} (h : ∀ a ∈ l, f b a = b) : l.foldl f b = b := by
  induction l with
  | nil => rfl
  | cons a l ih =>
    rw [List.foldl_cons, h a List.mem_cons_self]
    exact ih fun x hx => h x (List.mem_cons_of_mem _ hx)

theorem launchOf_ctx {sv : Nat → W32} {k : Nat} {bs : List Byte} {l : Launch} (h : launchOf sv k bs = some l) : l.ctx = k := by
  unfold launchOf at h
  dsimp only at h
  split at h
  · cases h
  · split at h
    · split at h
      · cases h
      · cases h
        rfl
    · cases h

/-- The first iterations of a launch are dealt by every die that has a member (17 R330). -/
def Mach.postDeals (m : Mach) (t : Nat) (l : Launch) (ds : List Nat) : Mach :=
  ds.foldl (fun m d => if (l.onDie d).isEmpty then m else m.post t (.dealIteration d)) m
theorem Mach.postDeals_frame (m : Mach) (t : Nat) (l : Launch) (ds : List Nat) : (m.postDeals t l ds).mem = m.mem ∧
    (m.postDeals t l ds).hands = m.hands ∧ (m.postDeals t l ds).dev = m.dev ∧ (∀ x ∈ m.agenda, x ∈ (m.postDeals t l ds).agenda) := by
  induction ds generalizing m with
  | nil => exact ⟨rfl, rfl, rfl, fun _ h => h⟩
  | cons d ds ih =>
    have hstep : ∀ n : Mach, n.mem = m.mem → n.hands = m.hands → n.dev = m.dev → (∀ x ∈ m.agenda, x ∈ n.agenda) →
        (n.postDeals t l ds).mem = m.mem ∧ (n.postDeals t l ds).hands = m.hands ∧ (n.postDeals t l ds).dev = m.dev ∧
          ∀ x ∈ m.agenda, x ∈ (n.postDeals t l ds).agenda := by
      intro n hmem hhands hdev hagenda
      obtain ⟨h1, h2, h3, h4⟩ := ih n
      exact ⟨h1.trans hmem, h2.trans hhands, h3.trans hdev, fun x hx => h4 x (hagenda x hx)⟩
    rw [Mach.postDeals, List.foldl_cons]
    split
    · exact hstep m rfl rfl rfl fun _ h => h
    · exact hstep _ rfl rfl rfl fun x hx => mem_agendaAdd.2 (.inr hx)
theorem Mach.postDeals_mem (m : Mach) (t : Nat) (l : Launch) {ds : List Nat} {d : Nat} (hd : d ∈ ds) (hmember : l.onDie d ≠ []) :
    (t, .dealIteration d) ∈ (m.postDeals t l ds).agenda := by
  induction ds generalizing m with
  | nil => simp at hd
  | cons a ds ih =>
    rw [Mach.postDeals, List.foldl_cons]
    rcases List.mem_cons.1 hd with rfl | hd
    · rw [if_neg (by simpa using hmember)]
      exact ((m.post t (.dealIteration d)).postDeals_frame t l ds).2.2.2 _ (Mach.mem_post_agenda ..)
    · exact ih _ hd

theorem Mach.outsideFault_live {m : Mach} {r : Nat} {f : FaultRec} (h : (m.part (m.partOf r)).rpMode ≠ 2) :
    m.outsideFault r f = m.recordFault r f := if_pos (bne_iff_ne.2 h)

section
variable {m : Mach} {now i ev : Nat} {q : QSlot} {va status : W64}

theorem Mach.launchEntry_misplaced (h : va.toNat % 128 ≠ 0 ∨ va.getLsbD 63 = false) :
    m.launchEntry now i q ev va status = m.faultQueue now i q status 2 va 0 0 := by
  have hbit : bit va 63 = va.getLsbD 63 := rfl
  rw [Mach.launchEntry, hbit, if_pos (by simpa using h)]

variable (halign : va.toNat % 128 = 0) (hvirtual : va.getLsbD 63 = true) {rec_ : List Byte} (hread : m.readAt q.ctx va 128 false = .ok rec_)
include halign hvirtual hread

theorem Mach.launchEntry_malformed (hrec : launchOf ((m.ctx q.ctx).svRead now) q.ctx rec_ = none) :
    m.launchEntry now i q ev va status = m.faultQueue now i q status 2 va 0 0 := by
  have hbit : bit va 63 = va.getLsbD 63 := rfl
  rw [Mach.launchEntry, hbit, if_neg (by simp [halign, hvirtual]), hread]
  dsimp only
  rw [hrec]

variable {l : Launch} (hrec : launchOf ((m.ctx q.ctx).svRead now) q.ctx rec_ = some l)
  (hpart : ∀ c, c < 72 → l.cset.testBit c = true → m.inPart q.ctx c = true)
include hrec hpart

/-- A record that can be launched looks at its members' hands first. -/
theorem Mach.launchEntry_occupies : m.launchEntry now i q ev va status =
    let n := (m.putSlot i { q with st := 2 }).occupy i l
    if l.members.any (fun r => (n.hand r).ctx != q.ctx) then n
    else
      let l' : Launch := { l with id := n.nextId, event := ev, status := status, slot := some i, notBefore := now + 41 }
      let t := (((n.putSlot i { q with st := 3 }).modDev (fun d => { d with launches := d.launches ++ [l'] })).bump).postDeals (now + 41) l'
        (List.range 4)
      if l.total = 0 then t.post now (.launchComplete l'.id) else t := by
  have hbit : bit va 63 = va.getLsbD 63 := rfl
  have hfind : ((List.range 72).filter (fun c => l.cset.testBit c)).find? (fun c => !m.inPart q.ctx c) = none := by
    refine List.find?_eq_none.2 fun c hc => ?_
    obtain ⟨hc, hbit⟩ := List.mem_filter.1 hc
    simp [hpart c (List.mem_range.1 hc) hbit]
  rw [Mach.launchEntry, hbit, if_neg (by simp [halign, hvirtual]), hread]
  dsimp only
  rw [hrec]
  dsimp only
  rw [hfind]
  rfl

/-- Where every member's hand holds the context the launch runs (17 R330). -/
theorem Mach.launchEntry_runs (hholds : ∀ r ∈ l.members, (m.hand r).ctx = q.ctx) (htotal : 0 < l.total) (hkept : (m.ctx q.ctx).kept = []) :
    let l' : Launch := { l with id := m.nextId, event := ev, status := status, slot := some i, notBefore := now + 41 }
    m.launchEntry now i q ev va status =
      (((m.putSlot i { q with st := 3 }).modDev (fun d => { d with launches := d.launches ++ [l'] })).bump).postDeals (now + 41) l'
        (List.range 4) := by
  have hctx := launchOf_ctx hrec
  have hoccupy : (m.putSlot i { q with st := 2 }).occupy i l = m.putSlot i { q with st := 2 } := by
    unfold Mach.occupy
    rw [foldl_of_fixed fun r hr => if_pos ((hholds r hr).trans hctx.symm), Mach.deliverKept, hctx]
    exact congrArg (List.foldl _ _) hkept
  have hany : l.members.any (fun r => ((m.putSlot i { q with st := 2 }).hand r).ctx != q.ctx) = false := by
    refine List.any_eq_false.2 fun r hr => ?_
    simp [show (m.putSlot i { q with st := 2 }).hand r = m.hand r from rfl, hholds r hr]
  rw [Mach.launchEntry_occupies halign hvirtual hread hrec hpart, hoccupy]
  dsimp only
  rw [hany, if_neg Bool.false_ne_true, Mach.putSlot_putSlot, if_neg (Nat.ne_of_gt htotal)]
  rfl

/-- Where its only member's hand holds another context, the entry asks for it, and is BLOCKED (17 R341). -/
theorem Mach.launchEntry_preempts {r : Nat} (hmember : l.members = [r]) (hzero : (m.hand r).ctx ≠ 0) (hother : (m.hand r).ctx ≠ q.ctx)
    (hmode : (m.part (m.partOf r)).rpMode ≠ 2) (hasked : q.asked = []) (hkept : (m.ctx q.ctx).kept = []) :
    m.launchEntry now i q ev va status = (m.putSlot i { q with st := 2, asked := [(r, (m.hand r).ctx)] }).recordFault r
      ⟨0x1D, 0, [BitVec.ofNat 64 (q.ctx + 65536 * l.hand)]⟩ := by
  have hctx := launchOf_ctx hrec
  set n := (m.putSlot i { q with st := 2, asked := [(r, (m.hand r).ctx)] }).recordFault r ⟨0x1D, 0, [BitVec.ofNat 64 (q.ctx + 65536 * l.hand)]⟩
    with hn
  have hask : (m.putSlot i { q with st := 2 }).askPreempt i r l.ctx l.hand = n := by
    have hcontains : ([] : List (Nat × Nat)).contains (r, (m.hand r).ctx) = false := rfl
    rw [Mach.askPreempt, Mach.slot?_putSlot]
    dsimp only
    rw [hasked, if_neg (by simp), Mach.putSlot_putSlot]
    refine (Mach.outsideFault_live ?_).trans ?_
    · exact hmode
    · rw [hctx]
      rfl
  have hfold : l.members.foldl (fun m r =>
      let h := m.hand r
      if h.ctx = l.ctx then m
      else if h.ctx = 0 then (if (m.ctx l.ctx).saved || h.draining then m else m.setHand r (h.hold l.ctx))
      else m.askPreempt i r l.ctx l.hand) (m.putSlot i { q with st := 2 }) = n := by
    rw [hmember, List.foldl_cons, List.foldl_nil]
    dsimp only
    rw [show (m.putSlot i { q with st := 2 }).hand r = m.hand r from rfl, if_neg (by rw [hctx]; exact hother), if_neg hzero, hask]
  have hoccupy : (m.putSlot i { q with st := 2 }).occupy i l = n := by
    unfold Mach.occupy
    rw [hfold, Mach.deliverKept, hctx]
    exact congrArg (List.foldl _ _) hkept
  have hsame : (n.hand r).ctx = (m.hand r).ctx := by
    obtain ⟨p, k, hhand, -⟩ := (m.putSlot i { q with st := 2, asked := [(r, (m.hand r).ctx)] }).recordFault_hand r
      ⟨0x1D, 0, [BitVec.ofNat 64 (q.ctx + 65536 * l.hand)]⟩
    rw [hn, hhand]
    rfl
  rw [Mach.launchEntry_occupies halign hvirtual hread hrec hpart, hoccupy, hmember]
  dsimp only
  rw [List.any_cons, hsame, if_pos (by simp [hother])]
end

/-! ## The scheduler's choice and its pass (17 R337) -/

/-- The slot served next is READY, and none that is has a higher effective priority. -/
theorem Mach.nextSlot_spec {m : Mach} {now i : Nat} (h : m.nextSlot now = some i) : ∃ q, (i, q) ∈ m.dev.slots ∧ q.st = 1 ∧ q.ready ≤ now ∧
    ∀ p ∈ m.dev.slots, p.2.st = 1 → p.2.ready ≤ now → p.2.effPrio now ≤ q.effPrio now := by
  have hmax (l : List (Nat × QSlot)) (b : Nat) : b ≤ l.foldl (fun a p => max a (p.2.effPrio now)) b ∧
      ∀ p ∈ l, p.2.effPrio now ≤ l.foldl (fun a p => max a (p.2.effPrio now)) b := by
    induction l generalizing b with
    | nil => exact ⟨Nat.le_refl b, fun p hp => absurd hp List.not_mem_nil⟩
    | cons p l ih =>
      obtain ⟨hb, hl⟩ := ih (max b (p.2.effPrio now))
      refine ⟨(Nat.le_max_left _ _).trans hb, fun x hx => ?_⟩
      rcases List.mem_cons.1 hx with rfl | hx
      · exact (Nat.le_max_right _ _).trans hb
      · exact hl x hx
  rw [Mach.nextSlot, Mach.nextOf] at h
  have hfound := List.find?_some h
  obtain ⟨⟨j, q⟩, hq, hji⟩ := List.any_eq_true.1 hfound
  obtain ⟨hji, htop⟩ : j = i ∧ q.effPrio now = _ := by simpa only [Bool.and_eq_true, beq_iff_eq] using hji
  obtain ⟨hmem, hready⟩ := List.mem_filter.1 hq
  have hready' (x : QSlot) : x.isReady now = true ↔ x.st = 1 ∧ x.ready ≤ now := by
    rw [QSlot.isReady, Bool.and_eq_true, beq_iff_eq, decide_eq_true_iff]
  obtain ⟨hst, hdue⟩ := (hready' q).1 hready
  refine ⟨q, hji ▸ hmem, hst, hdue, fun p hp hst' hdue' => ?_⟩
  rw [htop]
  exact (hmax _ 0).2 p (List.mem_filter.2 ⟨hp, (hready' p.2).2 ⟨hst', hdue'⟩⟩)
theorem QSlot.effPrio_of_ready {q : QSlot} (now : Nat) (h : q.st = 1) : q.effPrio now = min 7 (q.prio + (now - q.since) / 67200) := by
  rw [QSlot.effPrio, if_pos h]

/-- A machine whose scheduler has begun another pass. -/
def Mach.passed (m : Mach) : Mach := m.modDev (fun d => { d with passNo := d.passNo + 1 })
theorem Mach.passed_toMap (m : Mach) : m.passed.toMap = m.toMap := by
  have hstore : m.passed.SameStore m := ⟨rfl, rfl, rfl, rfl, rfl, rfl⟩
  unfold Mach.toMap
  simp only [hstore.desc]
  rfl
/-- A pass with no slot in use and no queue to map changes nothing else. -/
theorem Mach.queuePass_of_empty {m : Mach} (now : Nat) (hslots : m.dev.slots = []) (hmap : m.toMap = []) : m.queuePass now = m.passed := by
  have hserve : m.passed.serveSlots now [] 128 = m.passed := by
    have hnext : m.passed.nextOf now (fun p => p.2.isReady now || (p.2.st == 2 && ([] : List Nat).contains p.1)) = none := by
      unfold Mach.nextOf
      rw [show m.passed.dev.slots = m.dev.slots from rfl, hslots]
      exact List.find?_eq_none.2 fun _ _ => Bool.false_ne_true
    rw [Mach.serveSlots, hnext]
  have hslots' : m.passed.dev.slots = [] := hslots
  have hpass : m.queuePass now =
      let n := m.passed.toMap.foldl (fun m t => m.mapQueue now t) m.passed
      let n := n.serveSlots now ((n.dev.slots.filter (fun p => p.2.st == 2)).map (·.1)) 128
      if n.dev.slots.any (fun p => p.2.st == 1) then n.kick now else n := rfl
  rw [hpass, m.passed_toMap, hmap]
  dsimp only [List.foldl_nil]
  rw [hslots', List.filter_nil, List.map_nil, hserve, hslots']
  rfl
theorem Dev.filter_ending {d : Dev} (h : d.ending = []) (p : Option JctHdr × Nat → Bool) : { d with ending := d.ending.filter p } = d := by
  obtain ⟨⟩ := d
  obtain rfl : _ = [] := h
  rfl
theorem exec_queueSchedulerPass_idle {s : State} (hslots : s.m.dev.slots = []) (hending : s.m.dev.ending = []) (hheld : s.m.dev.held = [])
    (hmap : s.m.toMap = []) (hnone : ∀ p ∈ s.m.agenda, p.2 ≠ .queueSchedulerPass) :
    exec .queueSchedulerPass s = s.goes (s.m.passed.post (s.tb + 2100) .queueSchedulerPass) := by
  have hexec : exec .queueSchedulerPass s = execQueueSchedulerPass s := rfl
  have hkills : s.m.endKills = s.m := by
    unfold Mach.endKills
    rw [hending]
    exact congrArg (fun d : Dev => { s.m with dev := d }) (Dev.filter_ending hending _)
  have hretry : s.m.retryJct s.tb 1 = s.m := by
    rw [Mach.retryJct, hheld]
    rfl
  have hany : s.m.passed.agenda.any (fun p => p.2 == .queueSchedulerPass) = false :=
    List.any_eq_false.2 fun p hp => by simpa using hnone p hp
  rw [hexec, execQueueSchedulerPass, runEvent]
  dsimp only
  rw [hkills, hheld, List.length_nil, Nat.zero_add, hretry, Mach.queuePass_of_empty s.tb hslots hmap, hany, if_neg Bool.false_ne_true]

theorem Mach.mapQueue_first {m : Mach} {now k q : Nat} {d : List Byte} (hfree : m.slot? 0 = none) : (m.mapQueue now (k, q, d)).slot? 0 = some
    ⟨k, q, if field d 12 4 = field d 16 4 then 0 else 1, field d 12 4, field d 16 4, field d 9 1 % 8, now, now, []⟩ := by
  have htake : m.takeSlot = some (0, m) := by
    have hfind : (List.range 64).find? (fun i => (m.slot? i).isNone) = some 0 := by
      rw [List.range_succ_eq_map, List.find?_cons_of_pos (by rw [hfree]; rfl)]
    rw [Mach.takeSlot, hfind]
  rw [Mach.mapQueue, htake]
  exact Mach.slot?_putSlot ..

/-! ## O46 -/

/-- Settles O46: each OP of an entry, the faults of a queue, the slot served next and the empty pass. -/
theorem queueEntries : Obligations.QueueEntries := by
  unfold Obligations.QueueEntries
  refine ⟨fun s i q e hentry hgood => ?entry, fun s i q e d hentry hbad hop hdesc => ?bad,
    fun m m' now i dealt q status h => Mach.entryDone_spec i q now status h, ?gone, ?next,
    fun s hslots hending hheld hmap hnone => exec_queueSchedulerPass_idle hslots hending hheld hmap hnone,
    fun m now k q d hfree => Mach.mapQueue_first hfree⟩
  case bad =>
    have hexec : exec (.queueNop i) s = s.goes (s.m.startEntry s.tb i (some 4)) := rfl
    rw [hexec, ← hop, startEntry_faults hentry hbad hdesc]
  case gone =>
    intro m now i q hslots status kind info cause reason
    rw [Mach.faultQueue_slots, hslots]
    simp
  case next =>
    intro m now i _ h
    obtain ⟨q, hq, hst, hdue, htop⟩ := Mach.nextSlot_spec h
    refine ⟨q, hq, hst, hdue, fun p hp hst' hdue' => ?_⟩
    have := htop p hp hst' hdue'
    rwa [QSlot.effPrio_of_ready now hst', QSlot.effPrio_of_ready now hst] at this
  case entry =>
    have hruns := startEntry_runs hentry hgood
    have hnop (op : Nat) (hop : field e 0 1 = op) : s.m.startEntry s.tb i (some op) = (s.m.runEntry s.tb i q e).servedAt i q := by
      rw [← hop, hruns]
    have hvalue : (BitVec.ofNat 64 (field e 8 8)).toNat = field e 8 8 := by
      rw [BitVec.toNat_ofNat, Nat.mod_eq_of_lt (field_lt e 8 8)]
    have hrun (op : Nat) (hop : field e 0 1 = op) {t : Mach} (ht : s.m.runEntry s.tb i q e = t) (hfree : t.NotBlocked i) :
        s.goes (s.m.startEntry s.tb i (some op)) = s.goes (t.modDev (fun d => { d with lastSlot := i })) := by
      rw [hnop op hop, ht, Mach.servedAt_of_notBlocked hfree]
    dsimp only
    refine ⟨fun hop => ?_, fun hop hev => ?_, fun hop hev bs m' hread hwrite => ⟨fun n hstatus => ?_, fun f hstatus => ?_⟩,
      fun hop hev => ?_, fun hop hev bs hread => ?_, fun hop hva => ?_, fun hop halign hvirtual rec_ hread => ⟨fun hrec => ?_,
        fun l hrec hpart hholds htotal hkept => ?_, fun l r hrec hpart hmember hzero hother hmode hasked hkept => ?_⟩⟩
    · refine hrun 4 hop (t := s.m.entryDone s.tb i q (BitVec.ofNat 64 (field e 24 8)) 0) ?_ (Mach.entryDone_notBlocked ..)
      unfold Mach.runEntry
      rw [hop]
      rfl
    · refine hrun 3 hop (t := s.m.entryDone s.tb i q (BitVec.ofNat 64 (field e 24 8)) 0) ?_ (Mach.entryDone_notBlocked ..)
      unfold Mach.runEntry
      rw [hop, hev]
      exact Mach.signalDone_none
    · refine hrun 3 hop ?_ (Mach.entryDone_notBlocked ..)
      unfold Mach.runEntry
      rw [hop]
      exact Mach.signalDone_done hstatus (Mach.signal_writes hev hread (by rw [hvalue]; exact hwrite))
    · refine hrun 3 hop ?_ (Mach.faultXl_notBlocked ..)
      unfold Mach.runEntry
      rw [hop]
      exact Mach.signalDone_fault hstatus
    · refine hrun 2 hop (t := s.m.entryDone s.tb i q (BitVec.ofNat 64 (field e 24 8)) 0) ?_ (Mach.entryDone_notBlocked ..)
      unfold Mach.runEntry
      rw [hop]
      exact if_pos hev
    · have hwait : s.m.runEntry s.tb i q e = if field e 8 8 ≤ leNat bs then s.m.entryDone s.tb i q (BitVec.ofNat 64 (field e 24 8)) 0
          else s.m.putSlot i { q with st := 2 } := by
        unfold Mach.runEntry
        rw [hop]
        dsimp only
        rw [if_neg hev, show s.m.readAt q.ctx ((s.m.ctx q.ctx).reg 0x07C + slotN (8 * field e 4 4)) 8 false = .ok bs from hread]
        dsimp only
        rw [hvalue]
        rfl
      by_cases hdone : field e 8 8 ≤ leNat bs
      · rw [if_pos hdone] at hwait ⊢
        exact hrun 2 hop hwait (Mach.entryDone_notBlocked ..)
      · rw [if_neg hdone] at hwait ⊢
        refine congrArg s.goes ((hnop 2 hop).trans ?_)
        rw [hwait, Mach.servedAt_of_blocked (Mach.slot?_putSlot ..) rfl]
    · refine hrun 1 hop ?_ (Mach.notBlocked_of_none (Mach.slot?_faultQueue ..))
      unfold Mach.runEntry
      rw [hop]
      exact Mach.launchEntry_misplaced hva
    · refine hrun 1 hop ?_ (Mach.notBlocked_of_none (Mach.slot?_faultQueue ..))
      unfold Mach.runEntry
      rw [hop]
      exact Mach.launchEntry_malformed halign hvirtual hread hrec
    · set l' : Launch := { l with id := s.m.nextId, event := field e 4 4, status := BitVec.ofNat 64 (field e 24 8), slot := some i,
                                  notBefore := s.tb + 41 } with hl'
      set t := (((s.m.putSlot i { q with st := 3 }).modDev (fun d => { d with launches := d.launches ++ [l'] })).bump) with ht
      have hlaunch : s.m.runEntry s.tb i q e = t.postDeals (s.tb + 41) l' (List.range 4) := by
        unfold Mach.runEntry
        rw [hop]
        exact Mach.launchEntry_runs halign hvirtual hread hrec hpart hholds htotal hkept
      obtain ⟨hmem, hhands, hdev, -⟩ := t.postDeals_frame (s.tb + 41) l' (List.range 4)
      have hslot : (t.postDeals (s.tb + 41) l' (List.range 4)).slot? i = some { q with st := 3 } := by
        rw [Mach.slot?, hdev]
        exact s.m.slot?_putSlot i { q with st := 3 }
      have hfree : (t.postDeals (s.tb + 41) l' (List.range 4)).NotBlocked i := by
        rw [Mach.NotBlocked, hslot]
        rfl
      refine ⟨_, hrun 1 hop hlaunch hfree, hmem, hhands, hslot, rfl, ?_, fun d hd hmember => ?_⟩
      · exact congrArg Dev.launches hdev
      · exact t.postDeals_mem (s.tb + 41) l' (List.mem_range.2 hd) hmember
    · refine congrArg s.goes ((hnop 1 hop).trans ?_)
      have hpreempts : s.m.runEntry s.tb i q e = (s.m.putSlot i { q with st := 2, asked := [(r, (s.m.hand r).ctx)] }).recordFault r
          ⟨0x1D, 0, [BitVec.ofNat 64 (q.ctx + 65536 * l.hand)]⟩ := by
        unfold Mach.runEntry
        rw [hop]
        exact Mach.launchEntry_preempts halign hvirtual hread hrec hpart hmember hzero hother hmode hasked hkept
      rw [hpreempts, Mach.servedAt_of_blocked (x := { q with st := 2, asked := [(r, (s.m.hand r).ctx)] }) ?_ rfl]
      exact s.m.slot?_putSlot i { q with st := 2, asked := [(r, (s.m.hand r).ctx)] }

end Sys2Proof.Machine
end

section
/-! PROOFS. Taking a trap (19 R362, R363): what enters the handler, what the cut takes back, and the halt past ring 3. -/

namespace Sys2Proof.Machine

/-! ## A record written -/

section
variable {m m' : Mach} {r k : Nat} {bs : List Byte}

/-- A record that can be written changes memory alone: at ring 2 and 3 the bytes at the address, below over the rows of the area (19 R361). -/
theorem Mach.writeRec_ok (h : m.writeRec r k bs = .ok m') : ∃ mem, m' = { m with mem := mem } ∧
    (2 ≤ k → mem = m.mem.writeN ((m.hand r).creg (0x008 + k)).toNat bs) ∧
    (k ≤ 1 → ∃ l, m.span (m.hand r).ctx ((m.hand r).creg (0x008 + k)) bs.length true (k == 0) = .ok l ∧ mem = (m.writeSpan l bs).mem) := by
  unfold Mach.writeRec at h
  dsimp only at h
  split at h
  · next hk =>
    rw [Mach.writeAt] at h
    cases hspan : m.span (m.hand r).ctx ((m.hand r).creg (0x008 + k)) bs.length true (k == 0) with
    | error f => simp [hspan, Except.map] at h
    | ok l =>
      obtain ⟨mem, hmem⟩ := m.writeSpan_eq l bs
      have hm' : m' = m.writeSpan l bs := by simpa [hspan, Except.map, eq_comm] using h
      exact ⟨mem, hm'.trans hmem, fun h2 => by omega, fun _ => ⟨l, rfl, by rw [hmem]⟩⟩
  · next hk =>
    split at h
    · cases h
      exact ⟨_, rfl, fun _ => rfl, fun h1 => absurd h1 hk⟩
    · cases h
end

/-! ## The delivery of a trap -/

section
variable {m m' : Mach} {now r ret d n : Nat} {c : Cut} {nested : Bool}

theorem Mach.deliver_writes (hd : d < 4) (hwrite : m.writeRec r d (m.recordBytes now r c d ret nested) = .ok m') :
    m.deliver now r c ret (n + 1) d nested = m'.modHand r (fun h => h.enterHandler now d c.f.cause c.f.reason) := by
  rw [Mach.deliver, if_neg (Nat.not_le.2 hd), hwrite]
theorem Mach.deliver_halts (hd : 3 < d) : m.deliver now r c ret (n + 1) d nested =
    { m with halted := some (m.halted.getD ⟨m.recordBytes now r c 3 ret nested, m.hands.map (fun p => (p.1, p.2.crValue))⟩) } := by
  rw [Mach.deliver, if_pos (show 4 ≤ d from hd)]
end

/-- The cut of a trap with its return PCs: those it names, or where the engines stand (19 R366). -/
def Mach.cutWith (m : Mach) (r : Nat) (c : Cut) : Cut := if c.pcs = [] then { c with pcs := m.cutPcs r } else c
theorem Mach.cutWith_f (m : Mach) (r : Nat) (c : Cut) : (m.cutWith r c).f = c.f := by
  unfold Mach.cutWith
  split <;> rfl
theorem Hand.deliverRing_eq (h : Hand) (want : Nat) :
    h.deliverRing want = max want (h.ring + (if h.busy.getLsbD h.ring then 1 else 0)) := by
  unfold Hand.deliverRing Hand.busyAt
  cases h.busy.getLsbD h.ring <;> rfl
theorem takeTrap_eq (m : Mach) (now r want : Nat) (c : Cut) : let cut := Claims.cutOf m now r
    m.takeTrap now r c want = cut.deliver now r (cut.cutWith r c) (cut.hand r).ring 5
      (max want ((cut.hand r).ring + (if (cut.hand r).busy.getLsbD (cut.hand r).ring then 1 else 0))) ((cut.hand r).busy != 0) := by
  dsimp only
  rw [← Hand.deliverRing_eq]
  unfold Mach.takeTrap Mach.cutWith
  simp only [List.isEmpty_iff]

/-- A trap whose record can be written: the machine with the record, and the hand in its handler (19 R363). -/
theorem takeTrap_enters {m m' : Mach} {now r want : Nat} {c : Cut} (cut : Mach) (hcut : Claims.cutOf m now r = cut) {d : Nat}
    (hring : max want ((cut.hand r).ring + (if (cut.hand r).busy.getLsbD (cut.hand r).ring then 1 else 0)) = d) (hd : d < 4)
    (hwrite : cut.writeRec r d (cut.recordBytes now r (cut.cutWith r c) d (cut.hand r).ring ((cut.hand r).busy != 0)) = .ok m') :
    m.takeTrap now r c want = m'.modHand r (fun h => h.enterHandler now d c.f.cause c.f.reason) := by
  have htake := takeTrap_eq m now r want c
  dsimp only at htake
  rw [htake, hcut, hring, Mach.deliver_writes hd hwrite, Mach.cutWith_f]

theorem trapEntry : Claims.TrapEntry := by
  intro m m' now r want c
  dsimp only
  intro hd hwrite
  set cut := Claims.cutOf m now r with hcut
  set d := max want ((cut.hand r).ring + (if (cut.hand r).busy.getLsbD (cut.hand r).ring then 1 else 0)) with hring
  obtain ⟨mem, rfl, -⟩ := Mach.writeRec_ok hwrite
  have htrap := takeTrap_enters (c := c) cut hcut.symm hring.symm hd hwrite
  have hhand : (m.takeTrap now r c want).hand r = (cut.hand r).enterHandler now d c.f.cause c.f.reason := by
    rw [htrap, Mach.modHand_hand_get, if_pos rfl]
    rfl
  rw [hhand]
  refine ⟨rfl, rfl, fun k => ?_, rfl, rfl, rfl, rfl, fun e => by cases e <;> exact ⟨rfl, rfl, rfl, rfl, rfl, rfl, rfl⟩, rfl, rfl, rfl, rfl, rfl,
    rfl, rfl, rfl, ?_, fun k hk => ?_⟩
  · exact KMap.get_set ..
  · rw [htrap]
    rfl
  · rw [htrap, Mach.modHand_hand_get, if_neg hk]
    rfl

/-- What a hand takes back halts nothing. -/
theorem Mach.withdraw_halted (m : Mach) (now r : Nat) : (m.withdraw now r).halted = m.halted := by
  unfold Mach.withdraw
  dsimp only
  refine List.foldlRecOn (motive := fun t : Mach => t.halted = m.halted) _ _ ?_ fun _ h _ _ => h
  exact List.foldlRecOn (motive := fun t : Mach => t.halted = m.halted) _ _ rfl fun _ h _ _ => h
theorem trapPastRingThreeHalts : Claims.TrapPastRingThreeHalts := by
  intro m now r want c
  dsimp only
  intro hd hpcs
  have htake := takeTrap_eq m now r want c
  dsimp only at htake
  rw [htake, Mach.deliver_halts hd, Mach.cutWith, if_neg hpcs]
  dsimp only
  rw [show (Claims.cutOf m now r).halted = m.halted from m.withdraw_halted now r]

/-! ## What the cut takes back (17 R321, R326, R342) -/

theorem Barrier.without_of_not_mem {b : Barrier} {r : Nat} (h : r ∉ b.arrived) : b.without r = b := by
  rw [Barrier.without, if_neg (by simpa using h)]
theorem Barriers.without_of_not_mem {bs : KMap Barrier} {r : Nat} (h : ∀ p ∈ bs, r ∉ p.2.arrived) : bs.map (fun p => (p.1, p.2.without r)) = bs := by
  refine (List.map_congr_left fun p hp => ?_).trans (List.map_id bs)
  rw [Barrier.without_of_not_mem (h p hp)]
  rfl

/-- A hand that waits in no barrier and on no flag has nothing to take back. -/
theorem Mach.withdraw_of_none {m : Mach} {r : Nat} (now : Nat) (hflags : ∀ w ∈ (m.ctx (m.hand r).ctx).flagWaits, w.hand ≠ r)
    (hbars : ∀ p ∈ (m.ctx (m.hand r).ctx).barriers ++ m.dev.fabBars, r ∉ p.2.arrived) :
    m.withdraw now r = m.setCtx (m.hand r).ctx (m.ctx (m.hand r).ctx) := by
  set k := (m.hand r).ctx with hk
  have hws : (m.ctx k).flagWaits.filter (fun w => w.hand == r) = [] := List.filter_eq_nil_iff.2 fun w hw => by simpa using hflags w hw
  have hback : ((m.ctx k).barriers ++ m.dev.fabBars).flatMap (fun p => if p.2.arrived.contains r then p.2.arrived else []) = [] :=
    List.flatMap_eq_nil_iff.2 fun p hp => if_neg (by simpa using hbars p hp)
  have hkeep : (m.ctx k).flagWaits.filter (fun w => w.hand != r) = (m.ctx k).flagWaits := List.filter_eq_self.2 fun w hw => by simpa using hflags w hw
  have hctxbars := Barriers.without_of_not_mem fun p hp => hbars p (List.mem_append_left _ hp)
  have hfab := Barriers.without_of_not_mem fun p hp => hbars p (List.mem_append_right _ hp)
  have hctx : { m.ctx k with barriers := (m.ctx k).barriers.map (fun p => (p.1, p.2.without r))
                             flagWaits := (m.ctx k).flagWaits.filter (fun w => w.hand != r) } = m.ctx k := by
    rw [hctxbars, hkeep]
  have hdev : { m.dev with fabBars := m.dev.fabBars.map (fun p => (p.1, p.2.without r)) } = m.dev := by rw [hfab]
  unfold Mach.withdraw
  dsimp only
  rw [← hk, hws, hback]
  dsimp only [List.foldl_nil]
  calc (m.modCtx k (fun x => { x with barriers := x.barriers.map (fun p => (p.1, p.2.without r))
                                      flagWaits := x.flagWaits.filter (fun w => w.hand != r) })).modDev (fun d =>
        { d with fabBars := d.fabBars.map (fun p => (p.1, p.2.without r)) })
      = { m.setCtx k (m.ctx k) with dev := { m.dev with fabBars := m.dev.fabBars.map (fun p => (p.1, p.2.without r)) } } := by
        rw [Mach.modCtx, hctx]
        rfl
    _ = m.setCtx k (m.ctx k) := by
        rw [hdev]
        rfl

/-- Where no walk of the cluster has failed none is forgotten. -/
theorem Mach.dropFailed_of_none {m : Mach} {c : Nat} (h : ∀ w ∈ (m.cluster c).walks, w.failed = none) :
    m.dropFailed c = m.setCluster c (m.cluster c) := by
  have hkeep : (m.cluster c).walks.filter (fun w => w.failed.isNone) = (m.cluster c).walks :=
    List.filter_eq_self.2 fun w hw => by rw [h w hw]; rfl
  have hcluster : { m.cluster c with walks := (m.cluster c).walks.filter (fun w => w.failed.isNone) } = m.cluster c := by rw [hkeep]
  rw [Mach.dropFailed, Mach.modCluster, hcluster]

theorem trapLeavesTheRest : Claims.TrapLeavesTheRest := by
  refine ⟨fun m m' now r want c => ?_, fun m now r => ?_⟩
  · dsimp only
    intro hd hwrite
    set cut := Claims.cutOf m now r with hcut
    set d := max want ((cut.hand r).ring + (if (cut.hand r).busy.getLsbD (cut.hand r).ring then 1 else 0)) with hring
    obtain ⟨mem, rfl, hphys, hspan⟩ := Mach.writeRec_ok hwrite
    have htrap := takeTrap_enters (c := c) cut hcut.symm hring.symm hd hwrite
    rw [htrap]
    exact ⟨rfl, hphys, hspan⟩
  · dsimp only
    intro hflags hbars hwalks
    have hcut : Claims.cutOf m now r = (m.setCtx (m.hand r).ctx (m.ctx (m.hand r).ctx)).setCluster (clusterOf r) (m.cluster (clusterOf r)) := by
      rw [Claims.cutOf, Mach.withdraw_of_none now hflags hbars]
      exact Mach.dropFailed_of_none hwalks
    rw [hcut]
    refine ⟨rfl, fun j => ?_, fun j => ?_⟩
    · rw [Mach.setCluster_ctx_get, Mach.setCtx_ctx_get]
      split
      · next h => rw [h]
      · rfl
    · rw [Mach.setCluster_cluster_get]
      split
      · next h => rw [h]
      · rfl

end Sys2Proof.Machine
end

section
/-! PROOFS. The trap record and the return from it (19 R366, R367). -/

namespace Sys2Proof.Machine

/-! ## The blocks of a record (19 R366) -/

/-- Numbers as bytes, one behind the other: each with its length. -/
def packBytes (l : List (Nat × Nat)) : List Byte := l.flatMap (fun p => leBytes p.1 p.2)
theorem packBytes_append (l k : List (Nat × Nat)) : packBytes (l ++ k) = packBytes l ++ packBytes k := List.flatMap_append
theorem packBytes_length (l : List (Nat × Nat)) : (packBytes l).length = (l.map (·.1)).sum := by
  rw [packBytes, List.length_flatMap]
  exact congrArg List.sum (List.map_congr_left fun p _ => leBytes_length p.1 p.2)
/-- Number `i` of some lies behind those before it. -/
theorem packBytes_field {l : List (Nat × Nat)} {i n v : Nat} (h : l[i]? = some (n, v)) :
    field (packBytes l) ((l.take i).map (·.1)).sum n = v % 2 ^ (8 * n) := by
  obtain ⟨hi, hget⟩ := List.getElem?_eq_some_iff.1 h
  have hsplit : l = l.take i ++ (n, v) :: l.drop (i + 1) := by
    rw [← hget, List.getElem_cons_drop, List.take_append_drop]
  have hpack : packBytes l = packBytes (l.take i) ++ (leBytes n v ++ packBytes (l.drop (i + 1))) := by
    conv_lhs => rw [hsplit]
    rw [packBytes_append]
    rfl
  rw [hpack, ← packBytes_length, field_append_right (Nat.le_refl _), Nat.sub_self, field_append_left (by rw [leBytes_length]; omega),
    field_zero_leBytes]
theorem foldl_append_packBytes (b : List Byte) (l : List (Nat × Nat)) : l.foldl (fun b p => b ++ leBytes p.1 p.2) b = b ++ packBytes l := by
  induction l generalizing b with
  | nil => exact (List.append_nil b).symm
  | cons p l ih =>
    rw [List.foldl_cons, ih, List.append_assoc]
    rfl

/-- The numbers of a record before its PCs, behind the time. -/
def Mach.recordCause (m : Mach) (r : Nat) (c : Cut) (d ret : Nat) (nested : Bool) : List (Nat × Nat) :=
  [(1, c.f.cause), (1, c.f.reason), (1, c.eng + (if c.recorded then 4 else 0)), (1, d + 4 * ret + (if nested then 16 else 0)),
    (2, min (m.hand r).lost 65535), (1, (m.hand r).frzc), (1, 0), (8, c.word.toNat)]
/-- The least word count of a hand's engines. -/
def Hand.lowWords (h : Hand) : Nat := min h.ea.words (min h.ex.words h.em.words)
/-- The numbers of a record behind its PCs. -/
def Mach.recordCounts (m : Mach) (r : Nat) : List (Nat × Nat) :=
  let h := m.hand r
  [(4, h.ea.iseq), (4, h.ex.iseq), (4, h.em.iseq), (4, 0), (8, h.vclk), (8, h.ea.lastVc), (8, h.ex.lastVc), (8, h.em.lastVc),
    (4, (h.creg 0x043).toNat), (4, m.astrt r), (4, m.adone r), (4, h.cpseq), (4, h.clseq), (4, m.sweepsOf r),
    (2, h.ea.words - h.lowWords), (2, h.ex.words - h.lowWords), (2, h.em.words - h.lowWords), (2, 0)]
/-- The numbers of the first 128 bytes of a record with its three PCs. -/
def Mach.recordNumbers (m : Mach) (now r : Nat) (c : Cut) (d ret : Nat) (nested : Bool) (p q t : W64) : List (Nat × Nat) :=
  (8, now) :: (m.recordCause r c d ret nested ++ ([(8, p.toNat), (8, q.toNat), (8, t.toNat)] ++ m.recordCounts r))
/-- The cause's own fields, 16 of them. -/
def Cut.slotBytes (c : Cut) : List Byte := ((c.f.slots ++ List.replicate 16 (0 : W64)).take 16).flatMap (fun x => leBytes 8 x.toNat)
/-- The copies and collectives of a record, and its zeros. -/
def Mach.recordTail (m : Mach) (r : Nat) : List Byte :=
  (List.range 8).flatMap (fun i => copySlot (m.hand r).copies[i]?) ++ ((List.range 4).flatMap (fun i => collSlot (m.threadColls r)[i]?)
    ++ leBytes 448 0)
theorem Mach.recordBytes_blocks (m : Mach) (now r : Nat) (c : Cut) (d ret : Nat) (nested : Bool) : m.recordBytes now r c d ret nested =
    (((m.recordCounts r).foldl (fun b p => b ++ leBytes p.1 p.2)
        ((m.recordCause r c d ret nested).foldl (fun b p => b ++ leBytes p.1 p.2) (leBytes 8 now) ++ c.pcs.flatMap (fun p => leBytes 8 p.toNat))
      ++ c.slotBytes) ++ (List.range 8).flatMap (fun i => copySlot (m.hand r).copies[i]?))
    ++ (List.range 4).flatMap (fun i => collSlot (m.threadColls r)[i]?) ++ leBytes 448 0 := by
  unfold Mach.recordBytes Mach.recordCounts Mach.recordCause Hand.lowWords Cut.slotBytes
  dsimp only [List.foldl_cons, List.foldl_nil]
theorem Mach.recordBytes_eq (m : Mach) (now r : Nat) (c : Cut) (d ret : Nat) (nested : Bool) {p q t : W64} (hpcs : c.pcs = [p, q, t]) :
    m.recordBytes now r c d ret nested = packBytes (m.recordNumbers now r c d ret nested p q t) ++ (c.slotBytes ++ m.recordTail r) := by
  have hpack : packBytes (m.recordNumbers now r c d ret nested p q t) = leBytes 8 now ++ (packBytes (m.recordCause r c d ret nested) ++
      (packBytes [(8, p.toNat), (8, q.toNat), (8, t.toNat)] ++ packBytes (m.recordCounts r))) := by
    rw [← packBytes_append, ← packBytes_append]
    rfl
  have hthree : c.pcs.flatMap (fun p => leBytes 8 p.toNat) = packBytes [(8, p.toNat), (8, q.toNat), (8, t.toNat)] := by
    rw [hpcs]
    rfl
  rw [Mach.recordBytes_blocks, foldl_append_packBytes, foldl_append_packBytes, hthree, hpack, Mach.recordTail]
  simp only [List.append_assoc]

theorem length_flatMap_of_const {α β : Type} {f : α → List β} {n : Nat} (l : List α) (h : ∀ a, (f a).length = n) :
    (l.flatMap f).length = l.length * n := by
  rw [List.length_flatMap, List.map_congr_left fun a _ => h a, List.map_const', List.sum_replicate, smul_eq_mul]

theorem copySlot_length (c : Option Copy) : (copySlot c).length = 32 := by cases c <;> simp [copySlot]
theorem collSlot_length (c : Option Coll) : (collSlot c).length = 16 := by cases c <;> simp [collSlot]
theorem Cut.slotBytes_length (c : Cut) : c.slotBytes.length = 128 := by
  rw [Cut.slotBytes, length_flatMap_of_const _ fun x : W64 => leBytes_length 8 x.toNat, List.length_take, List.length_append, List.length_replicate]
  omega
theorem Mach.recordTail_length (m : Mach) (r : Nat) : (m.recordTail r).length = 768 := by
  rw [Mach.recordTail, List.length_append, List.length_append, length_flatMap_of_const _ fun i => copySlot_length _,
    length_flatMap_of_const _ fun i => collSlot_length _, List.length_range, List.length_range, leBytes_length]

/-- The lengths of a record's numbers (19 R366). -/
def recordLens : List Nat := [8, 1, 1, 1, 1, 2, 1, 1, 8, 8, 8, 8, 4, 4, 4, 4, 8, 8, 8, 8, 4, 4, 4, 4, 4, 4, 2, 2, 2, 2]
theorem Mach.recordNumbers_lens (m : Mach) (now r : Nat) (c : Cut) (d ret : Nat) (nested : Bool) (p q t : W64) :
    (m.recordNumbers now r c d ret nested p q t).map (·.1) = recordLens := rfl
theorem Mach.recordNumbers_length (m : Mach) (now r : Nat) (c : Cut) (d ret : Nat) (nested : Bool) (p q t : W64) :
    (packBytes (m.recordNumbers now r c d ret nested p q t)).length = 128 := by
  rw [packBytes_length, Mach.recordNumbers_lens]
  rfl

section
variable (m : Mach) (now r d ret : Nat) (c : Cut) (nested : Bool) {p q t : W64} (hpcs : c.pcs = [p, q, t])
include hpcs

theorem Mach.recordBytes_length : (m.recordBytes now r c d ret nested).length = 1024 := by
  rw [m.recordBytes_eq now r c d ret nested hpcs, List.length_append, List.length_append, Mach.recordNumbers_length, c.slotBytes_length,
    m.recordTail_length]
/-- A number of a record, by its place and its offset. -/
theorem Mach.record_field {lo n v : Nat} (i : Nat) (hat : (m.recordNumbers now r c d ret nested p q t)[i]? = some (n, v))
    (hlo : (recordLens.take i).sum = lo) (h : lo + n ≤ 128) :
    field (m.recordBytes now r c d ret nested) lo n = v % 2 ^ (8 * n) := by
  rw [m.recordBytes_eq now r c d ret nested hpcs, field_append_left (by rw [Mach.recordNumbers_length]; exact h), ← hlo,
    ← m.recordNumbers_lens now r c d ret nested p q t, ← List.map_take, packBytes_field hat]

/-- Where each number of a record lies (19 R366). -/
theorem Mach.record_fields : let b := m.recordBytes now r c d ret nested
    let h := m.hand r
    (field b 0 8 = now % 2 ^ 64 ∧ field b 8 1 = c.f.cause % 2 ^ 8 ∧ field b 9 1 = c.f.reason % 2 ^ 8 ∧
      field b 10 1 = (c.eng + (if c.recorded then 4 else 0)) % 2 ^ 8 ∧ field b 11 1 = (d + 4 * ret + (if nested then 16 else 0)) % 2 ^ 8 ∧
      field b 12 2 = min h.lost 65535 % 2 ^ 16 ∧ field b 16 8 = c.word.toNat % 2 ^ 64) ∧
    (field b 24 8 = p.toNat % 2 ^ 64 ∧ field b 32 8 = q.toNat % 2 ^ 64 ∧ field b 40 8 = t.toNat % 2 ^ 64 ∧ field b 64 8 = h.vclk % 2 ^ 64) ∧
    field b 120 2 = (h.ea.words - h.lowWords) % 2 ^ 16 ∧ field b 122 2 = (h.ex.words - h.lowWords) % 2 ^ 16 ∧
      field b 124 2 = (h.em.words - h.lowWords) % 2 ^ 16 := by
  have hat {lo n v : Nat} (i : Nat) (hi : (m.recordNumbers now r c d ret nested p q t)[i]? = some (n, v)) (hlo : (recordLens.take i).sum = lo)
      (h : lo + n ≤ 128) := m.record_field now r d ret c nested hpcs i hi hlo h
  exact ⟨⟨hat 0 rfl rfl (by decide), hat 1 rfl rfl (by decide), hat 2 rfl rfl (by decide), hat 3 rfl rfl (by decide), hat 4 rfl rfl (by decide),
      hat 5 rfl rfl (by decide), hat 8 rfl rfl (by decide)⟩,
    ⟨hat 9 rfl rfl (by decide), hat 10 rfl rfl (by decide), hat 11 rfl rfl (by decide), hat 16 rfl rfl (by decide)⟩,
    hat 26 rfl rfl (by decide), hat 27 rfl rfl (by decide), hat 28 rfl rfl (by decide)⟩
end

/-- The slots of a record, each 8 bytes from byte 128 on (19 R366). -/
theorem Mach.record_slot (m : Mach) (now r d ret : Nat) (c : Cut) (nested : Bool) {p q t : W64} (hpcs : c.pcs = [p, q, t]) {j : Nat} {x : W64}
    (hj : j < 16) (hx : c.f.slots[j]? = some x) : field (m.recordBytes now r c d ret nested) (128 + 8 * j) 8 = x.toNat := by
  have hwords := m.recordNumbers_length now r c d ret nested p q t
  set l := (c.f.slots ++ List.replicate 16 (0 : W64)).take 16 with hl
  have hlen : j < l.length := by
    rw [hl, List.length_take, List.length_append, List.length_replicate]
    omega
  have hat : l[j] = x := by
    have hsome : l[j]? = some x := by
      obtain ⟨hlt, -⟩ := List.getElem?_eq_some_iff.1 hx
      rw [hl, List.getElem?_take_of_lt hj, List.getElem?_append_left hlt, hx]
    exact Option.some_injective _ ((List.getElem?_eq_getElem hlen).symm.trans hsome)
  rw [m.recordBytes_eq now r c d ret nested hpcs, field_append_right (by omega), hwords, Nat.add_sub_cancel_left,
    field_append_left (by rw [c.slotBytes_length]; omega), field, Cut.slotBytes, ← hl,
    take_drop_flatMap l (fun a _ => leBytes_length 8 a.toNat) hlen, hat, leNat_leBytes, Nat.mod_eq_of_lt x.isLt]

/-! ## The record's fields and the return from it -/

theorem trapRecordAndReturn : Claims.TrapRecordAndReturn := by
  refine ⟨fun m now r d ret c nested p q t hpcs => ?fields, fun m g now later t r d ret c nested p q u hpcs hd hret hvclk => ?back⟩
  case fields =>
    obtain ⟨⟨hnow, hcause, hreason, heng, hring, hlost, hword⟩, ⟨hp, hq, ht, hvclk⟩, -⟩ := m.record_fields now r d ret c nested hpcs
    refine ⟨m.recordBytes_length now r d ret c nested hpcs, fun h => ?_, fun h => ?_, fun h => ?_, fun h => ?_, fun h h' => ?_, ?_, ?_, ?_, ?_, ?_,
      fun h => ?_, fun j x hj hx => m.record_slot now r d ret c nested hpcs hj hx⟩
    · rw [hnow, Nat.mod_eq_of_lt h]
    · exact hcause.trans (Nat.mod_eq_of_lt h)
    · exact hreason.trans (Nat.mod_eq_of_lt h)
    · rw [heng, Nat.mod_eq_of_lt (by split <;> omega)]
    · rw [hring, Nat.mod_eq_of_lt (by split <;> omega)]
    · rw [hlost, Nat.mod_eq_of_lt (by omega)]
    · rw [hword, Nat.mod_eq_of_lt c.word.isLt]
    · rw [hp, Nat.mod_eq_of_lt p.isLt]
    · rw [hq, Nat.mod_eq_of_lt q.isLt]
    · rw [ht, Nat.mod_eq_of_lt t.isLt]
    · rw [hvclk, Nat.mod_eq_of_lt h]
  case back =>
    obtain ⟨⟨-, -, -, -, hring, -, -⟩, ⟨hp, hq, hu, hvc⟩, hwords⟩ := m.record_fields now r d ret c nested hpcs
    generalize m.recordBytes now r c d ret nested = img at hring hp hq hu hvc hwords ⊢
    have hpc {n : Nat} {x : W64} (h : n = x.toNat % 2 ^ 64) : BitVec.ofNat 64 n &&& ~~~(7 : W64) = x &&& ~~~7 := by
      rw [h, Nat.mod_eq_of_lt x.isLt, BitVec.ofNat_toNat, BitVec.setWidth_eq]
    refine ⟨?_, hvc.trans (Nat.mod_eq_of_lt hvclk), rfl, hpc hp, hpc hq, hpc hu, rfl, rfl, rfl, fun e => by cases e <;> exact ⟨rfl, rfl, rfl⟩,
      hwords⟩
    change nbits (field img 11 1) 2 2 = ret
    rw [hring, nbits]
    split <;> omega

/-- Settles O21: the handler entered and what stays, the halt past ring 3, the record's fields and the return from it. -/
theorem trapEntryAndRecord : Obligations.TrapEntryAndRecord := ⟨trapEntry, trapLeavesTheRest, trapPastRingThreeHalts, trapRecordAndReturn⟩

end Sys2Proof.Machine
end

section
/-! PROOFS. TRAP, SYS and ERET, and the events that take a trap of a waiting hand (19 R361, R364, R367, R368, 07 R148). -/

namespace Sys2Proof.Machine

/-! ## TRAP and SYS (19 R368) -/

theorem callSlot_eq (n : BitVec 36) (ring : Nat) : callSlot n ring = [BitVec.ofNat 64 (n.toNat % 2 ^ 16 + 2 ^ 16 * ring)] := by
  rw [callSlot, bits_zero_toNat]
  rfl

section
variable {s : State} {w : N}

theorem exec_trap_takes (hcheck : (Instr.trap w).check = none) : exec (.trap w) s = s.goes ((s.m.modHand s.cur Hand.passRv).trap s.tb s.cur
    { f := ⟨0x1A, 0, [BitVec.ofNat 64 (w.imm.toNat % 2 ^ 16 + 2 ^ 16 * s.hand.ring)]⟩, word := (encode (.trap w)).getD 0 }) := by
  rw [← callSlot_eq]
  exact congrArg Host.Outcome.next (runRv_issues hcheck rfl (Nat.zero_le _) rfl)

theorem exec_sys_takes (hcheck : (Instr.sys w).check = none) (hring : s.hand.ring < w.mod.toNat % 4) : exec (.sys w) s =
    s.goes ((s.m.modHand s.cur Hand.passRv).takeTrap s.tb s.cur
      { f := ⟨0x19, 0, [BitVec.ofNat 64 (w.imm.toNat % 2 ^ 16 + 2 ^ 16 * s.hand.ring)]⟩, word := (encode (.sys w)).getD 0 }
      (w.mod.toNat % 4)) := by
  have hmod : (bits w.mod 0 2).toNat = w.mod.toNat % 4 := bits_zero_toNat _ _
  rw [← callSlot_eq, ← hmod]
  rw [← hmod] at hring
  exact congrArg Host.Outcome.next (runRv_issues hcheck rfl (Nat.zero_le _) (trapIf_eq_none.2 (decide_eq_false (Nat.not_le.2 hring))))
theorem exec_sys_illegal (hcheck : (Instr.sys w).check = none) (hring : w.mod.toNat % 4 ≤ s.hand.ring) : exec (.sys w) s =
    s.goes (s.m.trap s.tb s.cur { f := ⟨1, 8, []⟩, eng := 3, word := (encode (.sys w)).getD 0 }) := by
  have hmod : (bits w.mod 0 2).toNat = w.mod.toNat % 4 := bits_zero_toNat _ _
  rw [← hmod] at hring
  refine (congrArg Host.Outcome.next (runRv_stops (st := .trap ⟨1, 8, []⟩) hcheck rfl (Nat.zero_le _) ?_)).trans ?_
  · exact trapIf_of_true (decide_eq_true hring) 1 8 []
  · rw [stopWord_trap (by decide)]
end

/-! ## ERET (19 R367) -/

section
variable {s : State} {w : Z}

/-- What a read of the record notes of errors leaves of a machine, beside its own hand's pending faults. -/
theorem Mach.noteRec_frame (m : Mach) (r k : Nat) : (m.noteRec r k).mem = m.mem ∧ (∀ j, j ≠ r → (m.noteRec r k).hand j = m.hand j) ∧
    ∃ p n, (m.noteRec r k).hand r = { m.hand r with pending := p, lost := n } := by
  have hnote (m : Mach) (ks : List Nat) : (m.noteUE r ks).mem = m.mem ∧ (∀ j, j ≠ r → (m.noteUE r ks).hand j = m.hand j) ∧
      ∃ p n, (m.noteUE r ks).hand r = { m.hand r with pending := p, lost := n } := by
    rw [Mach.noteUE, Mach.checkOf]
    cases m.anyUE ks with
    | none => exact ⟨rfl, fun _ _ => rfl, _, _, rfl⟩
    | some k =>
      obtain ⟨p, n, hhand, -⟩ := Mach.recordFault_hand { m with freeN := m.freeN + 1 } r (m.mcheck k r)
      have hother (j : Nat) (hj : j ≠ r) : (Mach.recordFault { m with freeN := m.freeN + 1 } r (m.mcheck k r)).hand j = m.hand j := by
        rw [Mach.recordFault, Mach.modHand_hand_get, if_neg hj]
        rfl
      exact ⟨rfl, hother, p, n, hhand⟩
  have hboth (ks : List Nat) : (((m.countErrors (clusterOf r) ks).noteUE r ks).mem = m.mem) ∧
      (∀ j, j ≠ r → ((m.countErrors (clusterOf r) ks).noteUE r ks).hand j = m.hand j) ∧
      ∃ p n, ((m.countErrors (clusterOf r) ks).noteUE r ks).hand r = { m.hand r with pending := p, lost := n } := by
    obtain ⟨cs, hcs⟩ := m.countErrors_eq (clusterOf r) ks
    rw [hcs]
    exact hnote { m with clusters := cs } ks
  unfold Mach.noteRec
  dsimp only
  split
  · unfold Mach.noteRead
    split
    · exact hboth _
    · exact ⟨rfl, fun _ _ => rfl, _, _, rfl⟩
  · exact hboth _

/-- The machine after an ERET whose record reads as `img`. -/
def State.returned (s : State) (img : List Byte) : Mach :=
  ((s.m.modHand s.cur Hand.passRv).noteRec s.cur s.hand.ring).modHand s.cur (fun h => h.returnFrom s.tb (s.m.recTime s.cur) img)

theorem exec_eret_returns {img : List Byte} (hcheck : (Instr.eret w).check = none) (hread : (s.m.seen s.cur).readRec s.cur s.hand.ring = .ok img)
    (hdest : s.hand.ring ≠ 0 ∧ field img 11 1 / 4 % 4 < s.hand.ring ∨
      s.hand.ring = 0 ∧ s.hand.busy.getLsbD 0 = true ∧ field img 11 1 / 4 % 4 = 0) :
    exec (.eret w) s = s.goes (s.returned img) := by
  have hread' : (s.m.seen s.cur).readRec s.cur (s.m.hand s.cur).ring = .ok img := hread
  have hbits : nbits (field img 11 1) 2 2 = field img 11 1 / 4 % 4 := rfl
  refine (congrArg Host.Outcome.next (runRv_issues hcheck rfl (Nat.zero_le _) ?_)).trans ?_
  · dsimp only
    rw [hread', hbits]
    change firstStop [trapIf (s.hand.ring == 0 && !s.hand.busyAt 0) 1 8, none, trapIf (decide (s.hand.ring < field img 11 1 / 4 % 4) ||
      (field img 11 1 / 4 % 4 == s.hand.ring && s.hand.ring != 0)) 1 8] = none
    refine firstStop_eq_none.2 ?_
    simp only [List.forall_mem_cons, List.not_mem_nil, false_imp_iff, implies_true, and_true, true_and, trapIf_eq_none]
    rcases hdest with ⟨hne, hlt⟩ | ⟨hzero, hbusy, hto⟩
    · refine ⟨by simp [hne], ?_⟩
      have hnot : ¬ s.hand.ring < field img 11 1 / 4 % 4 := by omega
      have hne' : field img 11 1 / 4 % 4 ≠ s.hand.ring := by omega
      simp [hnot, hne']
    · refine ⟨?_, ?_⟩
      · rw [Hand.busyAt, hbusy]
        simp
      · rw [hzero, hto]
        rfl
  · dsimp only
    rw [hread']
    rfl

theorem exec_eret_illegal (hcheck : (Instr.eret w).check = none) (hring : s.hand.ring = 0) (hbusy : s.hand.busy.getLsbD 0 = false) :
    exec (.eret w) s = s.goes (s.m.trap s.tb s.cur { f := ⟨1, 8, []⟩, eng := 3, word := (encode (.eret w)).getD 0 }) := by
  refine (congrArg Host.Outcome.next (runRv_stops (st := .trap ⟨1, 8, []⟩) hcheck rfl (Nat.zero_le _) ?_)).trans ?_
  · have hstop : trapIf ((s.m.hand s.cur).ring == 0 && !(s.m.hand s.cur).busyAt 0) 1 8 = some (.trap ⟨1, 8, []⟩) := by
      refine trapIf_of_true ?_ 1 8 []
      rw [show (s.m.hand s.cur).ring = 0 from hring, Hand.busyAt, show (s.m.hand s.cur).busy.getLsbD 0 = false from hbusy]
      rfl
    dsimp only
    rw [hstop]
    rfl
  · rw [stopWord_trap (by decide)]
end

theorem softwareTrapsAndReturn : Claims.SoftwareTrapsAndReturn := by
  refine ⟨fun s w hcheck => exec_trap_takes hcheck, fun s w hcheck hring => exec_sys_takes hcheck hring,
    fun s w hcheck hring => exec_sys_illegal hcheck hring, fun s w img hcheck hread => fun hdest => ?_,
    fun s w hcheck hring hbusy => exec_eret_illegal hcheck hring hbusy⟩
  obtain ⟨hmem, hother, p, n, hhand⟩ := (s.m.modHand s.cur Hand.passRv).noteRec_frame s.cur s.hand.ring
  rw [Mach.modHand_hand_get, if_pos rfl] at hhand
  refine ⟨_, exec_eret_returns hcheck hread hdest, hmem, fun k hk => ?_, ?_⟩
  · rw [State.returned, Mach.modHand_hand_get, if_neg hk, hother k hk, Mach.modHand_hand_get, if_neg hk]
  · rw [State.returned, Mach.modHand_hand_get, if_pos rfl, hhand]
    refine ⟨rfl, rfl, rfl, fun e => by cases e <;> rfl, ?_, rfl, rfl, rfl, rfl, rfl, rfl, rfl, rfl, rfl⟩
    exact Nat.lt_succ_of_le (Nat.le_add_right _ _)

/-! ## Events of a waiting hand -/

/-- WATCHDOG_EXPIRY (07 R148). -/
theorem exec_watchdogExpiry_takes {s : State} {r : Nat} {b : Blocked} (hblocked : (s.m.hand r).blocked = some b)
    (hwd : 0 < ((s.m.hand r).creg 0x022).toNat % 2 ^ 32) (hlong : ((s.m.hand r).creg 0x022).toNat % 2 ^ 32 < (s.m.hand r).frzRun) :
    exec (.watchdogExpiry r) s = s.goes (s.m.trap s.tb r
      { f := ⟨0x16, 0, [BitVec.ofNat 64 b.code, BitVec.ofNat 64 (engNo b.eng), s.m.cutPc r b.eng, BitVec.ofNat 64 b.info]⟩,
        eng := engNo b.eng, word := s.m.wordAt r (s.m.cutPc r b.eng) }) := by
  have hexec : exec (.watchdogExpiry r) s = execWatchdogExpiry r s := rfl
  rw [hexec, execWatchdogExpiry, runEvent]
  dsimp only
  rw [hblocked]
  dsimp only
  rw [bits_zero_toNat, if_neg (by simp only [decide_eq_true_eq, Bool.or_eq_true]; omega)]
  rfl
theorem exec_watchdogExpiry_off {s : State} {r : Nat} (hwd : (s.m.hand r).creg 0x022 = 0) : exec (.watchdogExpiry r) s = s.goes s.m := by
  have hexec : exec (.watchdogExpiry r) s = execWatchdogExpiry r s := rfl
  rw [hexec, execWatchdogExpiry, runEvent]
  dsimp only
  split
  · rfl
  · rw [hwd]
    rfl

/-- TIMER_EXPIRY: the fault is recorded, or counted as lost past 8 (19 R361, R364). -/
theorem exec_timerExpiry_records {s : State} {r : Nat} (hmode : (s.m.part (s.m.partOf r)).rpMode ≠ 2) :
    exec (.timerExpiry r) s = s.goes (s.m.recordFault r ⟨0x1E, 0, []⟩) := by
  have hexec : exec (.timerExpiry r) s = execTimerExpiry r s := rfl
  rw [hexec, execTimerExpiry, runEvent, if_neg (by simpa using hmode)]
theorem Mach.recordFault_pending (m : Mach) (r : Nat) (f : FaultRec) : if (m.hand r).pending.length < 8
    then ((m.recordFault r f).hand r).pending = (m.hand r).pending ++ [f]
    else ((m.recordFault r f).hand r).pending = (m.hand r).pending ∧ ((m.recordFault r f).hand r).lost = (m.hand r).lost + 1 := by
  rw [Mach.recordFault, Mach.modHand_hand_get, if_pos rfl]
  split
  · next h =>
    rw [if_neg (Nat.not_le.2 h)]
  · next h =>
    rw [if_pos (Nat.not_lt.1 h)]
    exact ⟨rfl, rfl⟩

/-! ## RECORDED_FAULT_DELIVERY (19 R364) -/

section
variable {s : State} {r : Nat} {a b : List FaultRec} {f : FaultRec}

/-- The oldest fault that may be delivered (19 R364). -/
theorem Mach.dueFault_eq {m : Mach} (hpending : (m.hand r).pending = a ++ f :: b)
    (hbefore : ∀ g ∈ a, m.tring r g.cause < (m.hand r).ring ∧ g.cause ∉ [0x1F, 0x16, 0x1D])
    (hdue : (m.hand r).ring ≤ m.tring r f.cause ∨ f.cause ∈ [0x1F, 0x16, 0x1D]) (hmode : (m.part (m.partOf r)).rpMode = 0) :
    m.dueFault r = some f := by
  rw [Mach.dueFault, hpending, hmode]
  refine List.find?_eq_some_iff_append.2 ⟨?_, a, b, rfl, fun g hg => ?_⟩
  · simp only [Nat.reduceBEq, Bool.false_and, Bool.not_false, Bool.and_true, Bool.or_eq_true, decide_eq_true_eq, List.contains_iff_mem]
    exact hdue
  · obtain ⟨hlow, hcause⟩ := hbefore g hg
    simp only [Nat.reduceBEq, Bool.false_and, Bool.not_false, Bool.and_true, Bool.not_eq_true', Bool.or_eq_false_iff, decide_eq_false_iff_not]
    exact ⟨Nat.not_le.2 hlow, by simpa using hcause⟩

theorem exec_recordedFaultDelivery_takes (hpending : (s.m.hand r).pending = a ++ f :: b)
    (hbefore : ∀ g ∈ a, s.m.tring r g.cause < (s.m.hand r).ring ∧ g.cause ∉ [0x1F, 0x16, 0x1D])
    (hdue : (s.m.hand r).ring ≤ s.m.tring r f.cause ∨ f.cause ∈ [0x1F, 0x16, 0x1D]) (hfirst : f ∉ a)
    (hwrite : ∃ m, s.m.writeRec r ((s.m.hand r).deliverRing (s.m.tring r f.cause)) (List.replicate 1024 0) = .ok m)
    (hmode : (s.m.part (s.m.partOf r)).rpMode = 0) : exec (.recordedFaultDelivery r) s =
      s.goes (((s.m.modHand r (fun h => { h with pending := a ++ b })).modHand r (fun h => { h with vclk := (s.m.hand r).cutVclk })).trap
        s.tb r { f := f, recorded := true, pcs := s.m.cutPcs r }) := by
  have hexec : exec (.recordedFaultDelivery r) s = execRecordedFaultDelivery r s := rfl
  have hpoint : s.m.pointCause r = none := by
    have hleft : s.m.logLeft (s.m.partOf r) = [] := by
      unfold Mach.logLeft
      simp [hmode]
    rw [Mach.pointCause, Mach.replayNext, hleft]
    rfl
  have hroom : s.m.causeWaits r = false := by
    rw [Mach.causeWaits, Part.logFull, Part.noRoom, hmode]
    rfl
  have hdrop : s.m.modHand r (fun h => { h with pending := h.pending.erase f }) = s.m.modHand r (fun h => { h with pending := a ++ b }) := by
    refine Mach.modHand_congr ?_
    rw [hpending, List.erase_append_right _ hfirst, List.erase_cons_head]
  rw [hexec, execRecordedFaultDelivery, runEvent]
  dsimp only
  rw [hpoint]
  dsimp only
  rw [Mach.dueFault_eq hpending hbefore hdue hmode]
  dsimp only
  rw [hroom, if_neg Bool.false_ne_true]
  obtain ⟨m, hwrite⟩ := hwrite
  set cut := (s.m.modHand r (fun h => { h with pending := a ++ b })).modHand r (fun h => { h with vclk := (s.m.hand r).cutVclk }) with hcut
  have hlog : cut.logInput s.tb (s.m.partOf r) 7 (some r) (slotN f.cause) (s.m.hand r).iseqs = cut :=
    logInput_of_not_recording s.tb 7 (some r) _ _ (by rw [show (cut.part (s.m.partOf r)).rpMode = 0 from hmode]; decide)
  unfold Mach.takeRecorded
  dsimp only
  rw [hwrite]
  dsimp only
  rw [if_neg Bool.false_ne_true, hdrop, ← hcut, hlog, ite_self]
end

theorem deadlockTimerAndRecordedFaults : Claims.DeadlockTimerAndRecordedFaults :=
  ⟨fun _ _ _ => fun hblocked hwd hlong => exec_watchdogExpiry_takes hblocked hwd hlong, fun _ _ hwd => exec_watchdogExpiry_off hwd,
    fun s r hmode => ⟨_, exec_timerExpiry_records hmode, s.m.recordFault_pending r _⟩,
    fun _ _ _ _ _ => fun hpending hbefore hdue hfirst hwrite hmode =>
      exec_recordedFaultDelivery_takes hpending hbefore hdue hfirst hwrite hmode⟩

/-- Settles O22: the software traps and the return issue as their own effect, and the events take, record or give up a fault. -/
theorem softwareTrapsAndRecordedFaults : Obligations.SoftwareTrapsAndRecordedFaults := ⟨softwareTrapsAndReturn, deadlockTimerAndRecordedFaults⟩

end Sys2Proof.Machine
end

section
/-! PROOFS. MFC, MTC and TSR, the write of a shape variable, and what the control registers hold (19 R361, R369, R370). -/

namespace Sys2Proof.Machine

/-! ## What a read of a control register leaves (19 R369, R379) -/

/-- The check of a parity error leaves contexts and partitions, and a hand its context. -/
theorem Mach.cregCheck_frame (m : Mach) (r n : Nat) : (m.cregCheck r n).ctxs = m.ctxs ∧ (m.cregCheck r n).parts = m.parts ∧
    ((m.cregCheck r n).hand r).ctx = (m.hand r).ctx := by
  unfold Mach.cregCheck
  split
  · obtain ⟨cs, hcs⟩ := Mach.countErrors_eq { m with freeN := m.freeN + 2 } (clusterOf r) [crKey r n]
    rw [hcs]
    obtain ⟨p, l, hhand, -⟩ := Mach.recordFault_hand { m with freeN := m.freeN + 2, clusters := cs } r (m.mcheck (crKey r n) r)
    refine ⟨rfl, rfl, ?_⟩
    dsimp only
    exact (congrArg Hand.ctx hhand).trans rfl
  · exact ⟨rfl, rfl, rfl⟩
theorem Mach.who_cregCheck (m : Mach) (r n : Nat) : (m.cregCheck r n).who r = m.who r := by
  rw [Mach.who, (m.cregCheck_frame r n).2.2]; rfl
theorem Mach.part_cregCheck (m : Mach) (r n p : Nat) : (m.cregCheck r n).part p = m.part p := by
  rw [Mach.part, (m.cregCheck_frame r n).2.1]; rfl

/-- Without an error in the register its value is what it reads, and nothing is counted. -/
theorem Mach.cregGet_of_no_error {m : Mach} {w : Who} {n : Nat} (h : m.rowError (crKey w.r n) ≠ some true) (now : Nat) :
    m.cregGet now w n = m.cregRead now w n := if_neg fun h' => h (beq_iff_eq.1 h')
theorem Mach.cregCheck_of_no_error {m : Mach} {r n : Nat} (h : m.rowError (crKey r n) ≠ some true) : m.cregCheck r n = m :=
  if_neg fun h' => h (beq_iff_eq.1 h')

section
variable {m : Mach} {r n : Nat} (now : Nat)

/-- A register other than TB is read as it is. -/
theorem Mach.readCreg_of_ne (hn : n ≠ 0x0B0) :
    m.readCreg now r n = (m.cregGet now (m.who r) n, (m.cregCheck r n).cregClear (m.who r) n) := by
  rw [Mach.readCreg, if_pos (bne_iff_ne.2 hn), Mach.who_cregCheck]
/-- TB outside a replay is logged. -/
theorem Mach.readCreg_logged (hmode : (m.part (m.partOf r)).rpMode ≠ 2) : m.readCreg now r 0x0B0 = (m.cregGet now (m.who r) 0x0B0,
    (m.cregCheck r 0x0B0).logInput now (m.partOf r) 6 (some r) (m.cregGet now (m.who r) 0x0B0) 0) := by
  rw [Mach.readCreg, if_neg (by decide), Mach.part_cregCheck, if_neg hmode]
/-- TB under a replay is what the next record of its kind says. -/
theorem Mach.readCreg_replayed (hmode : (m.part (m.partOf r)).rpMode = 2) {k : Nat} {x : LogRec}
    (hnext : (m.cregCheck r 0x0B0).replayNext (m.partOf r) 6 (some r) = some (k, x)) :
    m.readCreg now r 0x0B0 = (x.a, (m.cregCheck r 0x0B0).useNext now (m.partOf r) k) := by
  rw [Mach.readCreg, if_neg (by decide), Mach.part_cregCheck, if_pos hmode, hnext]
/-- Outside record and replay every register is read as it is. -/
theorem Mach.readCreg_plain (hmode : n = 0x0B0 → (m.part (m.partOf r)).rpMode = 0) :
    m.readCreg now r n = (m.cregGet now (m.who r) n, (m.cregCheck r n).cregClear (m.who r) n) := by
  by_cases hn : n = 0x0B0
  · subst hn
    have hzero : (m.part (m.partOf r)).rpMode = 0 := hmode rfl
    rw [Mach.readCreg_logged now (by omega), logInput_of_not_recording _ _ _ _ _ (by rw [Mach.part_cregCheck, hzero]; decide)]
    rfl
  · exact Mach.readCreg_of_ne now hn

/-- What lets a read of a register issue. -/
theorem Mach.readStop_eq_none (hland : ∀ x ∈ (m.hand r).results, ∀ v, Land.creg n v ∉ x.lands)
    (hflags : n = 0x031 → ∀ x ∈ (m.hand r).results, x.xres = false) (hlog : n = 0x0B0 → m.logStop r = none) :
    m.readStop r n = none := by
  refine firstStop_eq_none.2 ?_
  simp only [List.forall_mem_cons]
  refine ⟨freezeIf_eq_none.2 ?_, freezeIf_eq_none.2 ?_, ?_, by simp⟩
  · by_cases hn : n = 0x031
    · simpa [hn] using hflags hn
    · simp [hn]
  · refine List.any_eq_false.2 fun x hx hany => ?_
    obtain ⟨l, hl, hk⟩ := List.any_eq_true.1 hany
    cases l with
    | creg k v => exact hland x hx v (beq_iff_eq.1 hk ▸ hl)
    | _ => cases hk
  · split
    · next hn => exact hlog hn
    · rfl
end

/-! ## MFC (19 R369) -/

theorem State.who_issued (s : State) (e : Engine) (hd : Hdr) : (s.issued e hd).who s.cur = s.m.who s.cur := by
  rw [Mach.who, (s.issued_sameBeside e hd).ctx]; rfl
theorem State.part_issued (s : State) (e : Engine) (hd : Hdr) (p : Nat) : (s.issued e hd).part p = s.m.part p := rfl
theorem State.partOf_issued (s : State) (e : Engine) (hd : Hdr) : (s.issued e hd).partOf s.cur = s.m.partOf s.cur := by
  rw [Mach.partOf, Mach.handCtx, (s.issued_sameBeside e hd).ctx]; rfl

/-- The machine with S[s] of a word that reads a register on its way. -/
def State.mfcLands (s : State) (w : K) (q : W64 × Mach) (lat : Nat) : Mach :=
  q.2.issueResult s.cur [.sreg (sKey s.hand.ring w.s.toNat) q.1] 0 (pushFifo .x w.hdr.push) (s.tb + lat) true true

theorem exec_mfc_issues {s : State} {w : K} (hissue : MayIssue s .x (.mfc w) w.hdr) (hstop : s.m.readStop s.cur w.creg.toNat = none) :
    exec (.mfc w) s = s.goes (s.mfcLands w ((s.issued .x w.hdr).readCreg s.tb s.cur w.creg.toNat) (readLat w.creg.toNat)) :=
  congrArg Host.Outcome.next (runWord_issues hissue rfl (Nat.zero_le _) hstop)

theorem readLat_eq (n : Nat) : readLat n = if 0x080 ≤ n ∧ n ≤ 0x09F then 24 else 2 := by simp [readLat]

/-! ## MTC and TSR (19 R369, R370) -/

/-- The token of a word whose effect is complete in its issue vc (07 R143). -/
theorem Hand.tokenNow_push (s : State) (e : Engine) (hd : Hdr) (h : Hand) :
    h.tokenNow s.tb (pushFifo e hd.push) = Claims.tokenNow s e hd h := by
  rw [Hand.tokenNow, Claims.tokenNow]
  by_cases hpush : hd.push = 0
  · rw [if_pos hpush, hpush]; rfl
  · rw [if_neg hpush]
    split
    · next hnone => rw [hnone]; rfl
    · rfl

theorem exec_mtc_issues {s : State} {w : K} (hsrc : ReadyS s w.s.toNat) (hring : cregRing w.creg.toNat ≤ s.hand.ring)
    (hstop : s.m.cregStop (s.m.who s.cur) w.creg.toNat (s.hand.sreg w.s.toNat) = none) (hissue : MayIssue s .x (.mtc w) w.hdr) :
    exec (.mtc w) s = s.goes ((s.issued .x w.hdr).writeCreg ⟨s.tb, s.cur, .x⟩ w.creg.toNat (s.hand.sreg w.s.toNat) w.hdr.push) := by
  refine congrArg Host.Outcome.next (runWord_issues hissue rfl hring (firstStop_eq_none.2 ?_))
  simp only [List.forall_mem_cons]
  exact ⟨needS_eq_none hsrc, hstop, by simp⟩

theorem Mach.writeCreg_shape {m : Mach} {n : Nat} (hlo : 0x080 ≤ n) (hhi : n ≤ 0x09F) (x : At) (v : W64) (push : BitVec 2) :
    m.writeCreg x n v push = ((m.modHand x.r (fun h => h.reserveTok (pushFifo x.e push))).post (x.now + 24)
      (.shapeVariableWrite x.r (n - 0x080) (v.setWidth 32) push)).issueResult x.r [] 0 0 (x.now + 24) true true := by
  have hbits : bits v 0 32 = v.setWidth 32 := by rw [bits_zero_eq_ofNat]; rfl
  have hshape : (decide (0x080 ≤ n) && decide (n ≤ 0x09F)) = true := by simp [hlo, hhi]
  unfold Mach.writeCreg
  rw [if_pos hshape, hbits]
theorem Mach.writeCreg_other {m : Mach} {n : Nat} (hn : ¬(0x080 ≤ n ∧ n ≤ 0x09F)) (x : At) (v : W64) (push : BitVec 2) :
    m.writeCreg x n v push = (m.cregWrite x.now (m.who x.r) n v).modHand x.r (fun h => h.tokenNow x.now (pushFifo x.e push)) := by
  unfold Mach.writeCreg
  rw [if_neg (by simpa using hn)]

/-- Below the ring of its word a hand takes privilege-fault (03 R54). -/
theorem runWord_below {s : State} {e : Engine} {i : Instr} {hd : Hdr} {mn : At → Mach → Meaning} (hcheck : i.check = none)
    (hpre : (mn ⟨s.tb, s.cur, e⟩ s.m).pre = none) (hring : s.hand.ring < (mn ⟨s.tb, s.cur, e⟩ s.m).ring) :
    Host.Outcome.next (runWord s e i hd mn) =
      s.goes (s.m.trap s.tb s.cur { f := ⟨2, 0, []⟩, eng := engNo e, word := (encode i).getD 0 }) := by
  have htrap := trapIf_of_true (decide_eq_true hring) 2 0 []
  refine (congrArg Host.Outcome.next (runWord_stops (st := .trap ⟨2, 0, []⟩) ?_)).trans ?_
  · rw [guardWord, hcheck, hpre]
    exact congrArg (fun o => firstStop (none :: o :: _)) htrap
  · rw [stopWord_trap (by decide)]

/-- Below the ring of the register MTC and TSR take privilege-fault. -/
theorem exec_mtc_below {s : State} {w : K} (hcheck : (Instr.mtc w).check = none) (hring : s.hand.ring < cregRing w.creg.toNat) :
    exec (.mtc w) s = s.goes (s.m.trap s.tb s.cur { f := ⟨2, 0, []⟩, eng := 1, word := (encode (.mtc w)).getD 0 }) :=
  runWord_below hcheck rfl hring
theorem exec_tsr_below {s : State} {w : K} (hcheck : (Instr.tsr w).check = none) (hring : s.hand.ring < cregRing w.creg.toNat) :
    exec (.tsr w) s = s.goes (s.m.trap s.tb s.cur { f := ⟨2, 0, []⟩, eng := 1, word := (encode (.tsr w)).getD 0 }) :=
  runWord_below hcheck rfl hring

theorem w1cBits_eq (n : Nat) : w1cBits n = if n = 0x031 then 0x3F else if n = 0x0B7 then 1 else 0 := by
  unfold w1cBits
  split
  · rfl
  · rfl
  · next h31 hb7 => rw [if_neg h31, if_neg hb7]

theorem tsrValue_eq (n : Nat) (clr : Bool) (old sel : W64) : tsrValue n clr old sel =
    if clr then old &&& ~~~sel &&& ~~~w1cBits n ||| sel &&& w1cBits n else (old ||| sel) &&& ~~~w1cBits n := by
  cases clr <;> simp [tsrValue]

/-- The bits that a TSR selects. -/
theorem tsrSel_eq (v : BitVec 22) : (bits v 0 21).zeroExtend 64 = BitVec.ofNat 64 (v.toNat % 2 ^ 21) := by
  refine BitVec.eq_of_toNat_eq ?_
  simp [bits_zero_toNat]

/-- What a TSR writes: the state it finds, its own value, and what lands. -/
def State.tsrV (s : State) (w : K) : W64 :=
  tsrValue w.creg.toNat (w.imm.getLsbD 21) (s.m.cregGet s.tb (s.m.who s.cur) w.creg.toNat) (BitVec.ofNat 64 (w.imm.toNat % 2 ^ 21))
def State.tsrLands (s : State) (w : K) (m : Mach) : Mach :=
  (m.modHand s.cur (Claims.tokenNow s .x w.hdr)).issueResult s.cur
    [.sreg (sKey s.hand.ring w.s.toNat) ((s.issued .x w.hdr).cregGet s.tb (s.m.who s.cur) w.creg.toNat)] 0 0 (s.tb + 2) true true

section
variable {s : State} {w : K} (hmode : w.creg.toNat = 0x0B0 → (s.m.part (s.m.partOf s.cur)).rpMode = 0)
  (hflags : w.creg.toNat = 0x031 → ∀ x ∈ s.hand.results, x.xres = false)
  (hland : ∀ x ∈ s.hand.results, ∀ v, Land.creg w.creg.toNat v ∉ x.lands)
  (hring : cregRing w.creg.toNat ≤ s.hand.ring) (hissue : MayIssue s .x (.tsr w) w.hdr)
include hmode hflags hland hring hissue

theorem exec_tsr_issues (hstop : tsrWrites w.creg.toNat = true → s.m.cregStop (s.m.who s.cur) w.creg.toNat (s.tsrV w) = none) :
    let m1 := ((s.issued .x w.hdr).cregCheck s.cur w.creg.toNat).cregClear (s.m.who s.cur) w.creg.toNat
    exec (.tsr w) s = s.goes (s.tsrLands w
      (if tsrWrites w.creg.toNat then m1.cregWrite s.tb (s.m.who s.cur) w.creg.toNat (s.tsrV w) else m1)) := by
  have hread : s.m.readStop s.cur w.creg.toNat = none := Mach.readStop_eq_none hland hflags fun hn => Mach.logStop_eq_none (hmode hn)
  have hv : tsrValue w.creg.toNat (bit w.imm 21) (s.m.cregGet s.tb (s.m.who s.cur) w.creg.toNat) ((bits w.imm 0 21).zeroExtend 64) = s.tsrV w := by
    rw [tsrSel_eq]; rfl
  refine (congrArg Host.Outcome.next (runWord_issues hissue rfl hring (firstStop_eq_none.2 ?_))).trans ?_
  · simp only [List.forall_mem_cons]
    refine ⟨hread, ?_, by simp⟩
    rw [hv]
    split
    · next hw => exact hstop hw
    · rfl
  · dsimp only
    rw [hv, Mach.readCreg_plain _ (by rw [State.partOf_issued]; exact hmode), State.who_issued]
    simp only [Hand.tokenNow_push]
    split <;> rfl
end

theorem Mach.cregStop_shape {n : Nat} (hlo : 0x080 ≤ n) (hhi : n ≤ 0x09F) (m : Mach) (w : Who) (v : W64) : m.cregStop w n v = none := by
  interval_cases n <;> rfl
theorem tsrWrites_shape {n : Nat} (hlo : 0x080 ≤ n) (hhi : n ≤ 0x09F) : tsrWrites n = true := by
  simp [tsrWrites, hlo, hhi]

/-! ## The values of the registers (19 R361) -/

section
variable (m : Mach) (now : Nat) (w : Who) (n : Nat) (v : W64)

theorem Mach.cregWrite_shape (hlo : 0x080 ≤ n) (hhi : n ≤ 0x09F) :
    ((m.cregWrite now w n v).ctx w.k).sv = (m.ctx w.k).sv.set (n - 0x080) (v.setWidth 32) := by
  have hbits : bits v 0 32 = v.setWidth 32 := by rw [bits_zero_eq_ofNat]; rfl
  have hshape : (decide (0x080 ≤ n) && decide (n ≤ 0x09F)) = true := by simp [hlo, hhi]
  unfold Mach.cregWrite
  dsimp only
  rw [if_pos hshape, Mach.modCtx_ctx_get, if_pos rfl, hbits]

/-- A shape variable reads sign-extended. -/
theorem Mach.cregRead_shape {i : Nat} (hi : i < 32) : m.cregRead now w (0x080 + i) = (KMap.get 0 (m.ctx w.k).sv i).signExtend 64 := by
  interval_cases i <;> rfl

/-- A register that a hand, a context or a partition holds raw. -/
def rawCreg (n : Nat) : Bool := isHandReg n || ctxCregs.contains n || partCregs.contains n

theorem ctxCregs_not_part : ∀ n ∈ ctxCregs, (partCregs.contains n || n = 0x074) = false := by decide

/-- A raw register reads what was stored. -/
theorem Mach.cregRead_storeCreg (hraw : rawCreg n = true) : (m.storeCreg w n v).cregRead now w n = v := by
  unfold Mach.storeCreg Mach.cregRead
  cases hhand : isHandReg n with
  | true =>
    rw [if_pos rfl, if_pos rfl, Mach.modHand_hand_get, if_pos rfl, Hand.setCreg_creg, if_pos rfl]
  | false =>
    rw [if_neg Bool.false_ne_true, if_neg Bool.false_ne_true]
    cases hctx : ctxCregs.contains n with
    | true =>
      rw [if_pos rfl, if_neg (by rw [ctxCregs_not_part n (List.contains_iff_mem.1 hctx)]; exact Bool.false_ne_true), Mach.modCtx_ctx_get, if_pos rfl]
      exact KMap.get_set_same ..
    | false =>
      have hpart : partCregs.contains n = true := by rwa [rawCreg, hhand, hctx] at hraw
      have hstore : (partCregs.contains n || decide (n = 0x074)) = true := by rw [hpart]; rfl
      rw [if_neg Bool.false_ne_true, if_pos hpart, if_pos hstore, Mach.modPart_ctx_get, Mach.modPart_part_get, if_pos rfl]
      exact KMap.get_set_same ..
end

end Sys2Proof.Machine
end

section
/-! PROOFS. The statement of the control registers, from the lemmas of the words and of the values (19 R361, R369, R370). -/

namespace Sys2Proof.Machine

/-! ## The words -/

section
variable {s : State} {w : K}

/-- MFC of a register other than TB. -/
theorem exec_mfc_plain (hland : ∀ x ∈ s.hand.results, ∀ v, Land.creg w.creg.toNat v ∉ x.lands) (hissue : MayIssue s .x (.mfc w) w.hdr)
    (hn : w.creg.toNat ≠ 0x0B0) (hflags : w.creg.toNat = 0x031 → ∀ x ∈ s.hand.results, x.xres = false) :
    exec (.mfc w) s = s.goes (s.mfcLands w ((s.issued .x w.hdr).cregGet s.tb (s.m.who s.cur) w.creg.toNat,
      ((s.issued .x w.hdr).cregCheck s.cur w.creg.toNat).cregClear (s.m.who s.cur) w.creg.toNat)
      (if 0x080 ≤ w.creg.toNat ∧ w.creg.toNat ≤ 0x09F then 24 else 2)) := by
  rw [exec_mfc_issues hissue (Mach.readStop_eq_none hland hflags fun h => absurd h hn), Mach.readCreg_of_ne _ hn, State.who_issued, readLat_eq]

/-- MFC of TB, where the log has room or is not written. -/
theorem exec_mfc_tb (hland : ∀ x ∈ s.hand.results, ∀ v, Land.creg w.creg.toNat v ∉ x.lands) (hissue : MayIssue s .x (.mfc w) w.hdr)
    (hn : w.creg.toNat = 0x0B0) (hlog : s.m.logStop s.cur = none) :
    exec (.mfc w) s = s.goes (s.mfcLands w ((s.issued .x w.hdr).readCreg s.tb s.cur 0x0B0) 2) := by
  rw [exec_mfc_issues hissue (Mach.readStop_eq_none hland (fun h => absurd (h.symm.trans hn) (by decide)) fun _ => hlog), hn]
  rfl
end

theorem mfc_holds (s : State) (w : K) : let n := w.creg.toNat
    let m1 := s.issued .x w.hdr
    let v := m1.cregGet s.tb (s.m.who s.cur) n
    let sets := fun (m : Mach) (lat : Nat) =>
      m.issueResult s.cur [.sreg (sKey s.hand.ring w.s.toNat) v] 0 (pushFifo .x w.hdr.push) (s.tb + lat) true true
    (∀ x ∈ s.hand.results, ∀ v, Land.creg n v ∉ x.lands) → MayIssue s .x (.mfc w) w.hdr →
    (n ≠ 0x0B0 → (n = 0x031 → ∀ x ∈ s.hand.results, x.xres = false) →
      exec (.mfc w) s = s.goes (sets ((m1.cregCheck s.cur n).cregClear (s.m.who s.cur) n) (if 0x080 ≤ n ∧ n ≤ 0x09F then 24 else 2))) ∧
    (n = 0x0B0 → let p := m1.partOf s.cur
      let m2 := m1.cregCheck s.cur n
      ((s.m.part (s.m.partOf s.cur)).rpMode = 0 → exec (.mfc w) s = s.goes (sets m2 2)) ∧
      ((m1.part p).rpMode = 1 → s.m.logStop s.cur = none →
        exec (.mfc w) s = s.goes (sets (m2.logInput s.tb p 6 (some s.cur) v 0) 2)) ∧
      ((m1.part p).rpMode = 2 → s.m.logStop s.cur = none → ∀ k x, m2.replayNext p 6 (some s.cur) = some (k, x) → exec (.mfc w) s =
        s.goes ((m2.useNext s.tb p k).issueResult s.cur [.sreg (sKey s.hand.ring w.s.toNat) x.a] 0 (pushFifo .x w.hdr.push)
          (s.tb + 2) true true))) := by
  intro n m1 v sets hland hissue
  refine ⟨exec_mfc_plain hland hissue, fun hn => ⟨fun hmode => ?_, fun hmode hlog => ?_, fun hmode hlog k x hnext => ?_⟩⟩
  · have hmode1 : (m1.part (m1.partOf s.cur)).rpMode = 0 := by rw [State.partOf_issued]; exact hmode
    rw [exec_mfc_tb hland hissue hn (Mach.logStop_eq_none hmode), Mach.readCreg_plain _ (fun _ => hmode1), State.who_issued, ← hn]
    have hclear : (m1.cregCheck s.cur n).cregClear (s.m.who s.cur) n = m1.cregCheck s.cur n := by rw [hn]; rfl
    rw [hclear]
    rfl
  · rw [exec_mfc_tb hland hissue hn hlog, Mach.readCreg_logged _ (by rw [hmode]; decide), State.who_issued, ← hn]
    rfl
  · rw [exec_mfc_tb hland hissue hn hlog, Mach.readCreg_replayed _ hmode (by rw [← hn]; exact hnext), ← hn]
    rfl

theorem mtc_holds (s : State) (w : K) (hsrc : ReadyS s w.s.toNat) (hring : cregRing w.creg.toNat ≤ s.hand.ring)
    (hstop : s.m.cregStop (s.m.who s.cur) w.creg.toNat (s.hand.sreg w.s.toNat) = none) (hissue : MayIssue s .x (.mtc w) w.hdr) :
    let n := w.creg.toNat
    let v := s.hand.sreg w.s.toNat
    (¬(0x080 ≤ n ∧ n ≤ 0x09F) → exec (.mtc w) s =
      s.goes (((s.issued .x w.hdr).cregWrite s.tb (s.m.who s.cur) n v).modHand s.cur (Claims.tokenNow s .x w.hdr))) ∧
    (0x080 ≤ n → n ≤ 0x09F → exec (.mtc w) s =
      s.goes ((((s.issued .x w.hdr).modHand s.cur (fun h => h.reserveTok (pushFifo .x w.hdr.push))).post (s.tb + 24)
        (.shapeVariableWrite s.cur (n - 0x080) (v.setWidth 32) w.hdr.push)).issueResult s.cur [] 0 0 (s.tb + 24) true true)) := by
  rw [exec_mtc_issues hsrc hring hstop hissue]
  refine ⟨fun hn => ?_, fun hlo hhi => congrArg s.goes (Mach.writeCreg_shape hlo hhi _ _ _)⟩
  rw [Mach.writeCreg_other hn]
  dsimp only
  rw [State.who_issued]
  simp only [Hand.tokenNow_push]

theorem tsr_holds (s : State) (w : K) : let n := w.creg.toNat
    let who := s.m.who s.cur
    let sel : W64 := BitVec.ofNat 64 (w.imm.toNat % 2 ^ 21)
    let old := s.m.cregGet s.tb who n
    let once : W64 := if n = 0x031 then 0x3F else if n = 0x0B7 then 1 else 0
    let v := if w.imm.getLsbD 21 then old &&& ~~~sel &&& ~~~once ||| sel &&& once else (old ||| sel) &&& ~~~once
    let m1 := ((s.issued .x w.hdr).cregCheck s.cur n).cregClear who n
    let lands := fun (m : Mach) => s.goes (s.tsrLands w m)
    (n = 0x0B0 → (s.m.part (s.m.partOf s.cur)).rpMode = 0) → (n = 0x031 → ∀ x ∈ s.hand.results, x.xres = false) → (∀ x ∈ s.hand.results, ∀ v, Land.creg n v ∉ x.lands) →
    cregRing n ≤ s.hand.ring → MayIssue s .x (.tsr w) w.hdr →
    (tsrWrites n = false → exec (.tsr w) s = lands m1) ∧
    (tsrWrites n = true → s.m.cregStop who n v = none → exec (.tsr w) s = lands (m1.cregWrite s.tb who n v)) ∧
    (0x080 ≤ n → n ≤ 0x09F → exec (.tsr w) s = lands (m1.cregWrite s.tb who n v)) := by
  intro n who sel old once v m1 lands hmode hflags hland hring hissue
  have hv : s.tsrV w = v := by rw [State.tsrV, tsrValue_eq, w1cBits_eq]
  have hissues := exec_tsr_issues hmode hflags hland hring hissue
  rw [hv] at hissues
  refine ⟨fun hw => ?_, fun hw hstop => ?_, fun hlo hhi => ?_⟩
  · exact (hissues fun h => absurd (h.symm.trans hw) (by decide)).trans (congrArg lands (if_neg (by rw [hw]; decide)))
  · exact (hissues fun _ => hstop).trans (congrArg lands (if_pos hw))
  · exact (hissues fun _ => Mach.cregStop_shape hlo hhi _ _ _).trans (congrArg lands (if_pos (tsrWrites_shape hlo hhi)))

theorem cregRing_values : (∀ n ∈ [0x00E, 0x010, 0x014, 0x022, 0x040, 0x05A, 0x072, 0x07A, 0x0A4, 0x0AA, 0x0B3, 0x100, 0x101, 0x110, 0x111],
      cregRing n = 1) ∧ (∀ n ∈ [0x001, 0x0A9, 0x0AC, 0x0AE, 0x0AF], cregRing n = 2) ∧ cregRing 0x0B1 = 3 ∧
    ∀ k, k ≤ 3 → cregRing (0x004 + k) = k ∧ cregRing (0x008 + k) = k := by decide

/-- SHAPE_VARIABLE_WRITE (17 R327). -/
theorem exec_shapeVariableWrite (s : State) (r i : Nat) (v : W32) (push : BitVec 2) : ∃ m, exec (.shapeVariableWrite r i v push) s = s.goes m ∧
    (let k := (s.m.hand r).ctx
     (m.ctx k).sv = (s.m.ctx k).sv.set i v ∧ m.hand r = (s.m.hand r).enterTok s.tb (pushFifo .x push) ∧ m.mem = s.m.mem) := by
  refine ⟨_, rfl, ?_, ?_, rfl⟩
  · rw [Mach.modHand_ctx_get, Mach.modCtx_ctx_get, if_pos rfl]
  · rw [Mach.modHand_hand_get, if_pos rfl]
    rfl

theorem controlRegisterWords : Claims.ControlRegisterWords := by
  refine ⟨mfc_holds, fun m now w n herr => ⟨Mach.cregGet_of_no_error herr now, Mach.cregCheck_of_no_error herr⟩,
    mtc_holds, ?_, cregRing_values, tsr_holds, fun m now w n v => Mach.cregWrite_shape m now w n v, exec_shapeVariableWrite⟩
  rintro s w i (rfl | rfl) hcheck hring
  · exact exec_mtc_below hcheck hring
  · exact exec_tsr_below hcheck hring

/-! ## The values -/

theorem Hand.crValue_toNat {h : Hand} (hring : h.ring ≤ 3) : h.crValue.toNat = h.ring + 16 * h.busy.toNat := by
  have hbusy := h.busy.isLt
  have hor : h.busy.toNat * 2 ^ 4 ||| h.ring = 2 ^ 4 * h.busy.toNat + h.ring := by
    rw [Nat.mul_comm]
    exact (Nat.two_pow_add_eq_or_of_lt (show h.ring < 2 ^ 4 by omega) _).symm
  rw [Hand.crValue, BitVec.toNat_or, BitVec.toNat_shiftLeft, BitVec.toNat_ofNat, BitVec.toNat_ofNat, Nat.shiftLeft_eq,
    Nat.mod_eq_of_lt (show h.busy.toNat < 2 ^ 64 by omega), Nat.mod_eq_of_lt (show h.ring < 2 ^ 64 by omega),
    Nat.mod_eq_of_lt (show h.busy.toNat * 2 ^ 4 < 2 ^ 64 by omega), hor]
  omega

theorem controlRegisterReads (m : Mach) (now : Nat) (w : Who) : let h := m.hand w.r
    let read := m.cregRead now w
    (h.ring ≤ 3 → (read 0x000).toNat = h.ring + 16 * h.busy.toNat) ∧ read 0x00D = BitVec.ofNat 64 h.pending.length ∧
      read 0x020 = BitVec.ofNat 64 h.vclk ∧ read 0x024 = BitVec.ofNat 64 h.frzc ∧ read 0x031 = h.xflags.setWidth 64 ∧
      read 0x071 = m.dev.fabid ∧ read 0x0B0 = BitVec.ofNat 64 now ∧ read 0x0B1 = m.dev.tboff ∧ read 0x0B8 = m.dev.bootst ∧
      read 0x10A = BitVec.ofNat 64 (m.ctx w.k).ttwr ∧ read 0x10B = BitVec.ofNat 64 (m.ctx w.k).ttrd ∧
      ∀ i, i < 32 → read (0x080 + i) = (KMap.get 0 (m.ctx w.k).sv i).signExtend 64 :=
  ⟨fun hring => Hand.crValue_toNat hring, rfl, rfl, rfl, rfl, rfl, rfl, rfl, rfl, rfl, rfl, fun _ hi => Mach.cregRead_shape m now w hi⟩

section
variable (m : Mach) (now : Nat) (w : Who) (v : W64)

/-- A write keeps the writable bits of a register that is stored as written. -/
theorem cregRead_cregWrite_masked :
    ∀ p ∈ ([(0x004, ~~~7), (0x005, ~~~7), (0x008, ~~~0x3FF), (0x00E, 1), (0x010, ~~~6), (0x014, ~~~0), (0x038, 0x7FFFF),
        (0x048, 0x00FFFF33), (0x049, ~~~0), (0x04A, 0xFFFFFFFF), (0x060, 0x3FFF3FFF3FFF3FFF), (0x064, 0xFF), (0x070, 1),
        (0x072, 0x000FFFFFFFFFFFC0), (0x07B, ~~~63), (0x0A1, ~~~31), (0x0A4, 0x000FFFFFFFFFFFFF), (0x100, 0x000FFFFFFFFFF001),
        (0x101, ~~~15), (0x10C, ~~~15), (0x110, 0x000000FF0000007F), (0x111, 0x3F)] : List (Nat × W64)),
      (m.cregWrite now w p.1 v).cregRead now w p.1 = v &&& p.2 := by
  have hput (n : Nat) (mask : W64) (hraw : rawCreg n = true) (hwrite : m.cregWrite now w n v = m.storeCreg w n (v &&& mask)) :
      (m.cregWrite now w n v).cregRead now w n = v &&& mask := hwrite ▸ Mach.cregRead_storeCreg m now w n _ hraw
  simp only [List.forall_mem_cons]
  refine ⟨?_, ?_, ?_, ?_, ?_, ?_, ?_, ?_, ?_, ?_, ?_, ?_, ?_, ?_, ?_, ?_, ?_, ?_, ?_, ?_, ?_, ?_, by simp⟩ <;>
    exact hput _ _ rfl rfl

/-- The value of a register that a write has stored clamped. -/
theorem cregRead_storeCreg_toNat {n u : Nat} (hraw : rawCreg n = true) (hu : u < 2 ^ 64) :
    ((m.storeCreg w n (slotN u)).cregRead now w n).toNat = u := by
  rw [Mach.cregRead_storeCreg m now w n _ hraw, slotN, BitVec.toNat_ofNat, Nat.mod_eq_of_lt hu]

theorem cregRead_skew : ((m.cregWrite now w 0x021 v).cregRead now w 0x021).toNat = max 16 (min 4096 (v.toNat % 2 ^ 13)) := by
  have hlt : max 16 (min 4096 (v.toNat % 2 ^ 13)) < 2 ^ 64 := by omega
  rw [← bits_zero_toNat] at hlt ⊢
  exact cregRead_storeCreg_toNat m now w rfl hlt
theorem cregRead_wdog : ((m.cregWrite now w 0x022 v).cregRead now w 0x022).toNat =
    (let t := v.toNat % 2 ^ 32; if 1 ≤ t ∧ t < 1024 then 1024 else t) := by
  have hwrite : m.cregWrite now w 0x022 v = m.storeCreg w 0x022 (slotN (if 1 ≤ (bits v 0 32).toNat && (bits v 0 32).toNat ≤ 1023 then 1024
    else (bits v 0 32).toNat)) := rfl
  rw [hwrite, bits_zero_toNat, cregRead_storeCreg_toNat m now w rfl (by split <;> omega)]
  simp only [Bool.and_eq_true, decide_eq_true_eq, Nat.lt_succ_iff]
theorem cregRead_leaseMax : ((m.cregWrite now w 0x040 v).cregRead now w 0x040).toNat = max 1 (min 64 (v.toNat % 2 ^ 7)) := by
  have hlt : max 1 (min 64 (v.toNat % 2 ^ 7)) < 2 ^ 64 := by omega
  rw [← bits_zero_toNat] at hlt ⊢
  exact cregRead_storeCreg_toNat m now w rfl hlt

theorem Hand.xrm_lt (h : Hand) : h.xrm < 8 := (bits (h.creg 0x030) 0 3).isLt

/-- XMODE as a write leaves it: SAT, and the rounding mode, the old one for a code of none (08 R170). -/
theorem cregRead_xmode : let rm := if v.toNat % 8 < 5 then v.toNat % 8 else (m.hand w.r).xrm
    ((m.cregWrite now w 0x030 v).cregRead now w 0x030).toNat = (v.getLsbD 3).toNat * 8 + rm ∧ rm < 8 := by
  intro rm
  have hbits : (bits v 0 3).toNat = v.toNat % 8 := bits_zero_toNat v 3
  have hrm : (if 5 ≤ (bits v 0 3).toNat then (m.hand w.r).xrm else (bits v 0 3).toNat) = rm := by
    rw [hbits]
    by_cases hmode : v.toNat % 8 < 5
    · rw [if_neg (by omega)]
      exact (if_pos hmode).symm
    · rw [if_pos (by omega)]
      exact (if_neg hmode).symm
  have hlt : rm < 8 := by
    dsimp only [rm]
    split
    · omega
    · exact (m.hand w.r).xrm_lt
  have hwrite : m.cregWrite now w 0x030 v = m.storeCreg w 0x030 (slotN ((v.getLsbD 3).toNat * 8 +
    (if 5 ≤ (bits v 0 3).toNat then (m.hand w.r).xrm else (bits v 0 3).toNat))) := rfl
  have hsat := Bool.toNat_le (v.getLsbD 3)
  rw [hwrite, hrm]
  exact ⟨cregRead_storeCreg_toNat m now w rfl (by omega), hlt⟩

/-- XFLAGS is cleared where a write has ones (08 R164). -/
theorem cregRead_xflags : (m.cregWrite now w 0x031 v).cregRead now w 0x031 = (((m.hand w.r).xflags &&& ~~~(v.setWidth 6)) : BitVec 6).setWidth 64 := by
  have hwrite : m.cregWrite now w 0x031 v = m.modHand w.r (fun h => { h with xflags := h.xflags &&& ~~~(bits v 0 6) }) := rfl
  have hread (m : Mach) : m.cregRead now w 0x031 = (m.hand w.r).xflags.setWidth 64 := rfl
  rw [hwrite, hread, Mach.modHand_hand_get, if_pos rfl, bits_zero_eq_ofNat]
  rfl
end

theorem controlRegisterValues : Claims.ControlRegisterValues := by
  refine ⟨controlRegisterReads, fun m now w v => ⟨cregRead_cregWrite_masked m now w v, cregRead_skew m now w v, cregRead_wdog m now w v,
    cregRead_leaseMax m now w v, ?_, ?_, cregRead_xflags m now w v⟩⟩
  all_goals
    obtain ⟨hvalue, hlt⟩ := cregRead_xmode m now w v
    dsimp only
  · rw [hvalue]
    omega
  · rw [BitVec.getLsbD, hvalue, Nat.testBit_eq_decide_div_mod_eq]
    cases hsat : v.getLsbD 3 <;> simp <;> omega

/-- Settles O33: a read lands what the register holds and clears an RC one, a write keeps the writable bits, and below the ring of a register
its words trap. -/
theorem controlRegisters : Obligations.ControlRegisters := ⟨controlRegisterWords, controlRegisterValues⟩

end Sys2Proof.Machine
end

section
/-! PROOFS. TLBI and its completion (19 R371). -/

namespace Sys2Proof.Machine

theorem Hand.SameBeside.vclk {h g : Hand} (hs : h.SameBeside g) : g.vclk = h.vclk := by
  obtain ⟨⟨_, _, _, _, _, _, _, _, _, _, _, rfl⟩⟩ := hs; rfl

/-! ## The translations that a TLBI removes -/

theorem Mach.mem_tlbiClusters {m : Mach} {r form c : Nat} : c ∈ m.tlbiClusters r form ↔ c < 72 ∧ (form = 2 ∨ m.clPart c = m.partOf r) := by
  unfold Mach.tlbiClusters Mach.partClusters
  split
  · next hform => simp [hform]
  · next hform => simp [hform]

theorem Mach.nodup_tlbiClusters (m : Mach) (r form : Nat) : (m.tlbiClusters r form).Nodup := by
  unfold Mach.tlbiClusters Mach.partClusters
  split
  · exact List.nodup_range
  · exact List.nodup_range.filter _

/-- The translations of a list of clusters filtered: nothing else changes. -/
theorem foldl_filterTc (gone : TcEntry → Bool) (cs : List Nat) (m : Mach) :
    let t := cs.foldl (fun m c => m.modCluster c (fun x => { x with tc := x.tc.filter (fun e => !gone e) })) m
    (∃ cl, t = { m with clusters := cl }) ∧ ∀ c, t.cluster c = if c ∈ cs then { m.cluster c with tc := (m.cluster c).tc.filter (fun e => !gone e) }
      else m.cluster c := by
  induction cs generalizing m with
  | nil => exact ⟨⟨_, rfl⟩, fun c => by simp⟩
  | cons d cs ih =>
    obtain ⟨⟨cl, heq⟩, hcl⟩ := ih (m.modCluster d (fun x => { x with tc := x.tc.filter (fun e => !gone e) }))
    refine ⟨⟨cl, heq.trans rfl⟩, fun c => ?_⟩
    refine (hcl c).trans ?_
    by_cases hcd : c = d
    · subst hcd
      by_cases hc : c ∈ cs <;> simp [hc, Mach.modCluster_cluster_get]
    · simp [hcd, Mach.modCluster_cluster_get]

theorem Mach.tlbiDrop_spec (m : Mach) (r form : Nat) (va : W64) : let t := m.tlbiDrop r form va
    let gone := fun (e : TcEntry) => form == 2 || (e.ctx == (m.hand r).ctx && (form == 0 || va.toNat % 2 ^ 48 / 2 ^ e.logSize == e.vpage))
    (∃ cl, t = { m with clusters := cl }) ∧ ∀ c, (t.cluster c).tc =
      if c ∈ m.tlbiClusters r form then (m.cluster c).tc.filter (fun e => !gone e) else (m.cluster c).tc := by
  intro t gone
  obtain ⟨heq, hcl⟩ := foldl_filterTc gone (m.tlbiClusters r form) m
  refine ⟨heq, fun c => ?_⟩
  refine (congrArg Cluster.tc (hcl c)).trans ?_
  split <;> rfl

/-! ## TLBI -/

/-- The hand of a TLBI: its completion is to come, and X waits for the nominal 48 vc. -/
theorem Hand.tlbiIssued_spec (h : Hand) (t : Tlbi) : 
    let g := ({ h with tlbi := some t }.reserveTok t.push).modEngine .x (fun e => { e with notBefore := h.vclk + 48 })
    g.tlbi = some t ∧ g.ex.notBefore = h.vclk + 48 := by
  unfold Hand.reserveTok
  split <;> exact ⟨rfl, rfl⟩

section
variable {s : State} {w : SSS}

theorem exec_tlbi_removes (hring : (if w.imm.toNat % 4 = 2 then 2 else 1) ≤ s.hand.ring)
    (hsrc : w.imm.toNat % 4 = 1 → ReadyS s w.a.toNat) (hissue : MayIssue s .x (.tlbi w) w.hdr) :
    let form := w.imm.toNat % 4
    let va := s.hand.sreg w.a.toNat
    let gone := fun (e : TcEntry) => form == 2 || (e.ctx == s.hand.ctx && (form == 0 || va.toNat % 2 ^ 48 / 2 ^ e.logSize == e.vpage))
    ∃ m, exec (.tlbi w) s = s.goes m ∧ m.mem = s.m.mem ∧
      (∀ c, (m.cluster c).tc = if c < 72 ∧ (form = 2 ∨ s.m.clPart c = s.m.partOf s.cur)
        then (s.m.cluster c).tc.filter (fun e => !gone e) else (s.m.cluster c).tc) ∧
      (m.hand s.cur).tlbi = some ⟨s.m.nextId, form, va, pushFifo .x w.hdr.push⟩ ∧ (m.hand s.cur).ex.notBefore = s.hand.vclk + 48 ∧
      m.agenda = agendaAdd (s.tb + 48) (.tlbiComplete s.cur s.m.nextId) s.m.agenda := by
  intro form va gone
  have hform : (bits w.imm 0 2).toNat = form := bits_zero_toNat _ _
  have hbeside := s.issued_sameBeside .x w.hdr
  obtain ⟨⟨cl, heq⟩, htc⟩ := (s.issued .x w.hdr).tlbiDrop_spec s.cur form va
  refine ⟨_, congrArg Host.Outcome.next (runWord_issues hissue rfl ?_ ?_), ?_⟩
  · dsimp only
    rw [hform]
    exact hring
  · dsimp only
    rw [hform]
    split
    · next h1 => exact needS_eq_none (hsrc h1)
    · rfl
  dsimp only
  rw [hform]
  refine ⟨?_, fun c => ?_, ?_, ?_, ?_⟩
  · exact (congrArg Mach.mem heq).trans rfl
  · refine (htc c).trans ?_
    simp only [Mach.mem_tlbiClusters, State.partOf_issued, hbeside.ctx]
    rfl
  · rw [Mach.post_hand_get, Mach.bump_hand_get, Mach.modHand_hand_get, if_pos rfl]
    exact (Hand.tlbiIssued_spec _ ⟨_, _, _, _⟩).1
  · have hvclk : (((s.issued .x w.hdr).tlbiDrop s.cur form va).hand s.cur).vclk = s.hand.vclk :=
      (congrArg (fun m => (Mach.hand m s.cur).vclk) heq).trans hbeside.vclk
    rw [Mach.post_hand_get, Mach.bump_hand_get, Mach.modHand_hand_get, if_pos rfl]
    exact (Hand.tlbiIssued_spec _ ⟨_, _, _, _⟩).2.trans (by rw [hvclk])
  · exact congrArg (agendaAdd (s.tb + 48) (.tlbiComplete s.cur s.m.nextId)) ((congrArg Mach.agenda heq).trans rfl)

theorem exec_tlbi_below (hcheck : (Instr.tlbi w).check = none) (hring : s.hand.ring = 0) :
    exec (.tlbi w) s = s.goes (s.m.trap s.tb s.cur { f := ⟨2, 0, []⟩, eng := 1, word := (encode (.tlbi w)).getD 0 }) := by
  have hbelow : s.hand.ring < (if (bits w.imm 0 2).toNat = 2 then 2 else 1) := by rw [hring]; split <;> decide
  exact runWord_below hcheck rfl hbelow
end

/-! ## TLBI_COMPLETE -/

section
variable {s : State} {r : Nat} {t : Tlbi} (ht : (s.m.hand r).tlbi = some t)
include ht

theorem exec_tlbiComplete_eq : exec (.tlbiComplete r t.id) s =
    s.goes (if (s.m.tlbiClusters r t.form).any (fun c => (s.m.cluster c).walks.any (fun w => w.failed.isNone && decide (w.id < t.id))) then
        s.m.post (s.tb + 1) (.tlbiComplete r t.id)
      else (s.m.tlbiDrop r t.form t.va).modHand r (fun h => { h with tlbi := none }.enterTok s.tb t.push)) := by
  have hexec : exec (.tlbiComplete r t.id) s = execTlbiComplete r t.id s := rfl
  rw [hexec, execTlbiComplete, runEvent, ht]
  dsimp only
  rw [if_neg (by simp)]

theorem exec_tlbiComplete_completes (hwalks : ∀ c, ∀ w ∈ (s.m.cluster c).walks, w.failed.isSome = true ∨ t.id ≤ w.id) :
    ∃ m, exec (.tlbiComplete r t.id) s = s.goes m ∧
      m.mem = s.m.mem ∧ (m.hand r).tlbi = none ∧ (m.hand r).fifos = ((s.m.hand r).enterTok s.tb t.push).fifos ∧
      ∀ c ∈ s.m.tlbiClusters r t.form, ∀ e ∈ (m.cluster c).tc, t.form ≠ 2 ∧ (e.ctx = (s.m.hand r).ctx →
        t.form ≠ 0 ∧ t.va.toNat % 2 ^ 48 / 2 ^ e.logSize ≠ e.vpage) := by
  have hnone : (s.m.tlbiClusters r t.form).any (fun c => (s.m.cluster c).walks.any (fun w => w.failed.isNone && decide (w.id < t.id))) = false := by
    refine List.any_eq_false.2 fun c _ => Bool.not_eq_true _ ▸ List.any_eq_false.2 fun w hw => ?_
    rcases hwalks c w hw with hfailed | hid
    · obtain ⟨f, hf⟩ := Option.isSome_iff_exists.1 hfailed
      simp [hf]
    · simp [Nat.not_lt.2 hid]
  obtain ⟨⟨cl, heq⟩, htc⟩ := s.m.tlbiDrop_spec r t.form t.va
  refine ⟨_, (exec_tlbiComplete_eq ht).trans (congrArg s.goes (if_neg (by rw [hnone]; decide))), (congrArg Mach.mem heq).trans rfl, ?_, ?_,
    fun c hc e he => ?_⟩
  · rw [Mach.modHand_hand_get, if_pos rfl]
    unfold Hand.enterTok
    split <;> rfl
  · rw [Mach.modHand_hand_get, if_pos rfl, heq]
    unfold Hand.enterTok
    split <;> rfl
  · rw [Mach.modHand_cluster_get, htc c, if_pos hc] at he
    have hkept := (List.mem_filter.1 he).2
    simpa [← imp_iff_not_or] using hkept

theorem exec_tlbiComplete_waits (hwalks : ∃ c ∈ s.m.tlbiClusters r t.form, ∃ w ∈ (s.m.cluster c).walks, w.failed = none ∧ w.id < t.id) :
    exec (.tlbiComplete r t.id) s = s.goes (s.m.post (s.tb + 1) (.tlbiComplete r t.id)) := by
  obtain ⟨c, hc, w, hw, hfailed, hid⟩ := hwalks
  refine (exec_tlbiComplete_eq ht).trans (congrArg s.goes (if_pos ?_))
  exact List.any_eq_true.2 ⟨c, hc, List.any_eq_true.2 ⟨w, hw, by simp [hfailed, hid]⟩⟩
end

theorem translationInvalidate : Claims.TranslationInvalidate :=
  ⟨fun _ _ => exec_tlbi_removes, fun _ _ => exec_tlbi_below,
    fun _ _ _ ht => ⟨exec_tlbiComplete_completes ht, exec_tlbiComplete_waits ht⟩⟩

end Sys2Proof.Machine
end

section
/-! PROOFS. HSWAP, CTXSV and CTXLD, the drain of a hand, and the change of the active hand (19 R372 to R376, 17 R422). -/

namespace Sys2Proof.Machine

/-! ## The words -/

section
variable {s : State}

theorem exec_hswap_issues {w : Z} (hring : 1 ≤ s.hand.ring) (hother : (s.m.hand (otherHand s.cur)).ctx ≠ 0) (hissue : MayIssue s .x (.hswap w) w.hdr) :
    exec (.hswap w) s = s.goes ((((s.issued .x w.hdr).beginDrain s.tb s.cur).beginSwap s.tb s.cur { hand := s.cur }).modHand s.cur
      (Claims.tokenNow s .x w.hdr)) := by
  refine congrArg Host.Outcome.next (runWord_issues hissue rfl hring (firstStop_eq_none.2 ?_))
  simp only [List.forall_mem_cons]
  exact ⟨trapIf_eq_none.2 (beq_eq_false_iff_ne.2 hother), by simp⟩

/-- The hands of the team of a hand. -/
theorem teamHands_teamOf (r : Nat) : teamHands (teamOf r) = [0, 2, 4, 6].map (fun k => 8 * clusterOf r + k + r % 2) := by
  have hteam : teamOf r / 2 = clusterOf r := by unfold teamOf clusterOf; omega
  have hhand : teamOf r % 2 = r % 2 := by unfold teamOf; omega
  rw [teamHands, hteam, hhand]
  rfl

section
variable {w : SSS} (hring : 1 ≤ s.hand.ring) (hsrcA : ReadyS s w.a.toNat) (hsrcB : ReadyS s w.b.toNat)
  (hissue : MayIssue s .x (.ctxsv w) w.hdr)
include hring hsrcA hsrcB hissue

theorem exec_ctxsv_saves (ha : s.hand.sreg w.a.toNat ≠ 0) (hsave : s.m.areaStop s.cur (s.hand.sreg w.a.toNat) true = none)
    (hload : s.m.areaStop s.cur (s.hand.sreg w.b.toNat) false = none)
    (hteam : s.m.loadStop s.cur (s.hand.sreg w.b.toNat) (teamHands (teamOf s.cur)) = none)
    (hagent : (s.m.ctxs.map (fun p => p.2.agent.length)).sum < 4096) : let team := teamHands (teamOf s.cur)
    exec (.ctxsv w) s = s.goes (((team.foldl (fun (m : Mach) q => if (m.hand q).ctx = s.hand.ctx && !(m.hand q).aside
        then m.beginDrain s.tb q else m) (s.issued .x w.hdr)).beginSwap s.tb s.cur
      { hand := s.cur, team := team, isSave := true, saveAt := s.hand.sreg w.a.toNat, loadAt := s.hand.sreg w.b.toNat }).modHand s.cur
      (Claims.tokenNow s .x w.hdr)) := by
  intro team
  refine (congrArg Host.Outcome.next (runWord_issues hissue rfl hring (firstStop_eq_none.2 ?_))).trans ?_
  · simp only [List.forall_mem_cons]
    exact ⟨needS_eq_none hsrcA, needS_eq_none hsrcB, hsave, hload, hteam,
      trapIf_eq_none.2 (by simp [Nat.not_le.2 hagent]), by simp⟩
  · dsimp only [instantMeaning]
    rw [if_neg ha]

theorem exec_ctxsv_ends (ha : s.hand.sreg w.a.toNat = 0) (hload : s.m.areaStop s.cur (s.hand.sreg w.b.toNat) false = none)
    (hteam : s.m.loadStop s.cur (s.hand.sreg w.b.toNat) (teamHands (teamOf s.cur)) = none) :
    let team := teamHands (teamOf s.cur)
    let m1 := (s.issued .x w.hdr).killContext s.tb s.hand.ctx
    let m2 := if s.hand.sreg w.b.toNat = 0 then m1 else m1.loadTeam s.tb s.cur s.hand.ctx (s.hand.sreg w.b.toNat) team
    exec (.ctxsv w) s = s.goes ((((m2.modDev (fun d => { d with ending := d.ending ++ [(none, s.hand.ctx)] })).kick s.tb).beginSwap s.tb s.cur
      { hand := s.cur, team := team, isSave := true, drained := true, at_ := s.tb + 24 }).modHand s.cur (Claims.tokenNow s .x w.hdr)) := by
  intro team m1 m2
  refine (congrArg Host.Outcome.next (runWord_issues hissue rfl hring (firstStop_eq_none.2 ?_))).trans ?_
  · simp only [List.forall_mem_cons]
    refine ⟨needS_eq_none hsrcA, needS_eq_none hsrcB, ?_, hload, hteam, trapIf_eq_none.2 ?_, by simp⟩
    · exact if_pos ha
    · show ((s.hand.sreg w.a.toNat != 0) && _) = false
      rw [ha]
      rfl
  · dsimp only [instantMeaning]
    rw [if_pos ha]
end

theorem exec_ctxld_loads {w : SSS} (hring : 1 ≤ s.hand.ring) (hsrc : ReadyS s w.a.toNat) (ha : s.hand.sreg w.a.toNat ≠ 0)
    (hload : s.m.areaStop s.cur (s.hand.sreg w.a.toNat) false = none) :
    let act := (List.range 4).map (fun k => 8 * clusterOf s.cur + 2 * k + KMap.get 0 s.m.active (4 * clusterOf s.cur + k))
    let m1 := (s.issued .x w.hdr).loadTeam s.tb s.cur s.hand.ctx (s.hand.sreg w.a.toNat) (act.map otherHand)
    (∀ q ∈ act, (s.m.hand (otherHand q)).ctx = 0) → s.m.loadStop s.cur (s.hand.sreg w.a.toNat) (act.map otherHand) = none →
    MayIssue s .x (.ctxld w) w.hdr →
    exec (.ctxld w) s = s.goes ((act.foldl (fun (m : Mach) q => m.postSwitch s.tb (coreOf q)) m1).modHand s.cur (Claims.tokenNow s .x w.hdr)) := by
  intro act m1 hfree hteam hissue
  refine congrArg Host.Outcome.next (runWord_issues hissue rfl hring (firstStop_eq_none.2 ?_))
  simp only [List.forall_mem_cons]
  refine ⟨needS_eq_none hsrc, trapIf_eq_none.2 (beq_eq_false_iff_ne.2 ha), hload, trapIf_eq_none.2 (List.any_eq_false.2 fun q hq => ?_), hteam, by simp⟩
  obtain ⟨p, hp, rfl⟩ := List.mem_map.1 hq
  simpa using hfree p hp

theorem exec_switch_below {i : Instr} (hi : (∃ w, i = .hswap w) ∨ (∃ w, i = .ctxsv w) ∨ ∃ w, i = .ctxld w) (hcheck : i.check = none)
    (hring : s.hand.ring = 0) : exec i s = s.goes (s.m.trap s.tb s.cur { f := ⟨2, 0, []⟩, eng := 1, word := (encode i).getD 0 }) := by
  have hbelow : s.hand.ring < 1 := by omega
  obtain ⟨w, rfl⟩ | ⟨w, rfl⟩ | ⟨w, rfl⟩ := hi
  · exact runWord_below hcheck rfl hbelow
  · exact runWord_below hcheck rfl hbelow
  · exact runWord_below hcheck rfl hbelow
end

/-! ## The drain (19 R372) -/

theorem Mach.askFlush_frame (m : Mach) (now r id : Nat) : (m.askFlush now r id).mem = m.mem ∧ (m.askFlush now r id).hands = m.hands ∧
    (m.askFlush now r id).cluster (clusterOf r) = { m.cluster (clusterOf r) with
      saccFl := (m.cluster (clusterOf r)).saccFl ++ [⟨r, (m.hand r).ctx, id, false, []⟩] } ∧ (m.askFlush now r id).dies = m.dies := by
  unfold Mach.askFlush Mach.wakeSacc
  dsimp only
  have hset (x : Cluster) : (m.setCluster (clusterOf r) x).cluster (clusterOf r) = x := by rw [Mach.setCluster_cluster_get, if_pos rfl]
  split
  · exact ⟨rfl, rfl, hset _, rfl⟩
  · exact ⟨rfl, rfl, hset _, rfl⟩
theorem Mach.pbKick_clusters (m : Mach) (now d : Nat) : (m.pbKick now d).clusters = m.clusters := by
  unfold Mach.pbKick
  split
  · rfl
  · split <;> rfl

/-- The waits of a hand taken back change of a hand only the time of its barrier. -/
theorem Mach.withdraw_frame (m : Mach) (now r : Nat) : (m.withdraw now r).mem = m.mem ∧ (m.withdraw now r).clusters = m.clusters ∧
    (m.withdraw now r).dies = m.dies ∧ ∀ q, ∃ t, (m.withdraw now r).hand q = { m.hand q with barTill := t } := by
  unfold Mach.withdraw
  dsimp only
  refine List.foldlRecOn (motive := fun t : Mach => t.mem = m.mem ∧ t.clusters = m.clusters ∧ t.dies = m.dies ∧
    ∀ q, ∃ b, t.hand q = { m.hand q with barTill := b }) _ _ ?_ fun _ h _ _ => h
  refine List.foldlRecOn (motive := fun t : Mach => t.mem = m.mem ∧ t.clusters = m.clusters ∧ t.dies = m.dies ∧
    ∀ q, ∃ b, t.hand q = { m.hand q with barTill := b }) _ _ ⟨rfl, rfl, rfl, fun q => ⟨_, rfl⟩⟩ ?_
  rintro t ⟨hmem, hclusters, hdies, hhand⟩ p -
  refine ⟨hmem, hclusters, hdies, fun q => ?_⟩
  obtain ⟨b, hb⟩ := hhand q
  rw [Mach.modHand_hand_get]
  split
  · next hq =>
    subst hq
    rw [hb]
    exact ⟨_, rfl⟩
  · exact ⟨b, hb⟩

section
variable (m : Mach) (now r : Nat)

/-- The lease that a draining hand leaves, and the unstarted commands. -/
def Mach.drainRem : Nat := if (m.hand r).askLease then (m.hand r).savedRem else if m.holds r then (m.lease r).rem else 0
def Mach.drainSaved : List Cmd := (m.cmdsOf r).filter (fun c => !c.started)
/-- Its waits taken back and its lease run ended; its unstarted commands out of their queue; it stops. -/
def Mach.drainWaits : Mach := ((m.withdraw now r).endRunOf r).modLease (clusterOf r) (fun l => l.unwait (reqOf r))
def Mach.drainCmds : Mach :=
  (m.drainWaits now r).modCluster (clusterOf r) (fun x => { x with cmds := x.cmds.filter (fun c => !(c.hand == r && !c.started)) })
def Mach.drainStopped : Mach :=
  ({ m.drainCmds now r with
      agenda := (m.drainCmds now r).agenda.filter (fun p => !(m.drainSaved r).any (fun c => p.2 == c.startEvent)) } : Mach).modHand r
    (fun h => { h.stopCopies now with draining := true, stage := 0, blocked := none, savedRem := m.drainRem r,
                                      cmdSaved := h.cmdSaved ++ m.drainSaved r, askLease := false })
/-- Its SACC pairs evicted. -/
def Mach.drainFlushed : Mach :=
  if (m.drainStopped now r).saccOpen r then ((m.drainStopped now r).askFlush now r (m.drainStopped now r).nextId).bump else m.drainStopped now r
theorem Mach.beginDrain_eq : m.beginDrain now r = ((m.drainFlushed now r).stopPbits now r).armCmds now (clusterOf r) := rfl

theorem Mach.withAgenda_cluster_get (ag : List (Nat × Instr)) (c : Nat) : ({ m with agenda := ag } : Mach).cluster c = m.cluster c := rfl
theorem Mach.withAgenda_hand_get (ag : List (Nat × Instr)) (q : Nat) : ({ m with agenda := ag } : Mach).hand q = m.hand q := rfl

/-- Of a draining hand's cluster, lease and commands change. -/
theorem Mach.drainStopped_cluster : ∃ l, (m.drainStopped now r).cluster (clusterOf r) =
    { m.cluster (clusterOf r) with lease := l, cmds := (m.cluster (clusterOf r)).cmds.filter (fun c => !(c.hand == r && !c.started)) } := by
  have hcl : (m.withdraw now r).cluster (clusterOf r) = m.cluster (clusterOf r) := by
    rw [Mach.cluster, (m.withdraw_frame now r).2.1]; rfl
  obtain ⟨l, hl⟩ : ∃ l, ((m.withdraw now r).endRunOf r).cluster (clusterOf r) = { m.cluster (clusterOf r) with lease := l } := by
    unfold Mach.endRunOf Mach.modLease
    split
    · exact ⟨_, by rw [Mach.modCluster_cluster_get, if_pos rfl, hcl]⟩
    · exact ⟨_, hcl⟩
  refine ⟨l.unwait (reqOf r), ?_⟩
  rw [Mach.drainStopped, Mach.modHand_cluster_get, Mach.withAgenda_cluster_get, Mach.drainCmds, Mach.modCluster_cluster_get, if_pos rfl,
    Mach.drainWaits, Mach.modLease, Mach.modCluster_cluster_get, if_pos rfl, hl]
theorem Mach.drainStopped_frame : (m.drainStopped now r).mem = m.mem ∧ (m.drainStopped now r).dies = m.dies ∧
    ∃ b, (m.drainStopped now r).hand r = { m.hand r with
      copies := ((m.hand r).stopCopies now).copies, draining := true, stage := 0, blocked := none, savedRem := m.drainRem r,
      cmdSaved := (m.hand r).cmdSaved ++ m.drainSaved r, askLease := false, barTill := b } := by
  obtain ⟨hmem, -, hdies, hhand⟩ := m.withdraw_frame now r
  obtain ⟨b, hb⟩ := hhand r
  have hends : ((m.withdraw now r).endRunOf r).mem = m.mem ∧ ((m.withdraw now r).endRunOf r).dies = m.dies ∧
      ((m.withdraw now r).endRunOf r).hand r = (m.withdraw now r).hand r := by
    unfold Mach.endRunOf
    split <;> exact ⟨hmem, hdies, rfl⟩
  have hsame : (m.drainCmds now r).hand r = { m.hand r with barTill := b } := by
    rw [Mach.drainCmds, Mach.modCluster_hand_get, Mach.drainWaits, Mach.modLease, Mach.modCluster_hand_get, hends.2.2, hb]
  have hkeep : (m.drainCmds now r).mem = m.mem ∧ (m.drainCmds now r).dies = m.dies := by
    rw [Mach.drainCmds, Mach.modCluster_mem, Mach.modCluster_dies, Mach.drainWaits, Mach.modLease, Mach.modCluster_mem, Mach.modCluster_dies]
    exact ⟨hends.1, hends.2.1⟩
  refine ⟨?_, ?_, b, ?_⟩
  · rw [Mach.drainStopped, Mach.modHand_mem, hkeep.1]
  · rw [Mach.drainStopped, Mach.modHand_dies, hkeep.2]
  rw [Mach.drainStopped, Mach.modHand_hand_get, if_pos rfl, Mach.withAgenda_hand_get, hsame]
  rfl

theorem Mach.drainFlushed_frame : (m.drainFlushed now r).mem = m.mem ∧ (m.drainFlushed now r).dies = m.dies ∧
    (m.drainFlushed now r).hand r = (m.drainStopped now r).hand r ∧
    ((m.drainFlushed now r).cluster (clusterOf r)).cmds = ((m.drainStopped now r).cluster (clusterOf r)).cmds ∧
    (m.saccOpen r = true → ∃ f ∈ ((m.drainFlushed now r).cluster (clusterOf r)).saccFl, f.hand = r ∧ f.ctx = (m.hand r).ctx) := by
  obtain ⟨l, hcluster⟩ := m.drainStopped_cluster now r
  obtain ⟨hmem, hdies, b, hhand⟩ := m.drainStopped_frame now r
  have hopen : (m.drainStopped now r).saccOpen r = m.saccOpen r := by
    unfold Mach.saccOpen
    rw [hcluster]
  have hctx : ((m.drainStopped now r).hand r).ctx = (m.hand r).ctx := by rw [hhand]
  unfold Mach.drainFlushed
  rw [hopen]
  split
  · next hsacc =>
    obtain ⟨fmem, fhands, fcluster, fdies⟩ := (m.drainStopped now r).askFlush_frame now r (m.drainStopped now r).nextId
    refine ⟨by rw [Mach.bump_mem, fmem, hmem], by rw [Mach.bump_dies, fdies, hdies], by rw [Mach.bump_hand_get, Mach.hand, fhands, Mach.hand], ?_, fun _ => ?_⟩
    · rw [Mach.bump_cluster_get, fcluster]
    · refine ⟨⟨r, (m.hand r).ctx, (m.drainStopped now r).nextId, false, []⟩, ?_, rfl, rfl⟩
      rw [Mach.bump_cluster_get, fcluster, hctx]
      exact List.mem_append_right _ List.mem_cons_self
  · next hsacc => exact ⟨hmem, hdies, rfl, rfl, fun h => absurd h hsacc⟩

theorem Mach.stopPbits_frame : (m.stopPbits now r).mem = m.mem ∧ (m.stopPbits now r).clusters = m.clusters ∧
    (m.stopPbits now r).hand r = { m.hand r with
      pbSaved := (m.hand r).pbSaved ++ (m.die (dieOfHand r)).queue.filter (fun c => c.hand == r && !c.started) } := by
  unfold Mach.stopPbits
  dsimp only
  refine ⟨Mach.pbKick_mem .., Mach.pbKick_clusters .., ?_⟩
  rw [Mach.hand, Mach.pbKick_hands]
  exact (Mach.modHand_hand_get _ r _ r).trans (if_pos rfl)

/-- What a hand that begins to drain is, and what it leaves. -/
theorem Mach.beginDrain_spec : let t := m.beginDrain now r
    t.mem = m.mem ∧ (t.hand r).draining = true ∧ (t.hand r).blocked = none ∧ (t.hand r).pbSaved = (m.hand r).pbSaved
        ++ (m.die (dieOfHand r)).queue.filter (fun c => c.hand == r && !c.started) ∧
      (t.hand r).cmdSaved = (m.hand r).cmdSaved ++ (m.cmdsOf r).filter (fun c => !c.started) ∧
      (m.saccOpen r = true → ∃ f ∈ (t.cluster (clusterOf r)).saccFl, f.hand = r ∧ f.ctx = (m.hand r).ctx) ∧
      ∀ c ∈ (t.cluster (clusterOf r)).cmds, c.hand = r → c.started = true := by
  intro t
  obtain ⟨l, hcluster⟩ := m.drainStopped_cluster now r
  obtain ⟨smem, sdies, b, shand⟩ := m.drainStopped_frame now r
  obtain ⟨fmem, fdies, fhand, fcmds, fsacc⟩ := m.drainFlushed_frame now r
  obtain ⟨pmem, pclusters, phand⟩ := (m.drainFlushed now r).stopPbits_frame now r
  have ht : t = ((m.drainFlushed now r).stopPbits now r).armCmds now (clusterOf r) := m.beginDrain_eq now r
  have hpcluster : ((m.drainFlushed now r).stopPbits now r).cluster (clusterOf r) = (m.drainFlushed now r).cluster (clusterOf r) := by
    rw [Mach.cluster, pclusters]; rfl
  have hhand : t.hand r = { (m.drainStopped now r).hand r with
      pbSaved := (m.hand r).pbSaved ++ (m.die (dieOfHand r)).queue.filter (fun c => c.hand == r && !c.started) } := by
    rw [ht, Mach.armCmds_hand_get, phand, fhand, Mach.die, fdies, shand]
    rfl
  rw [hhand, shand]
  refine ⟨?_, rfl, rfl, rfl, rfl, fun hsacc => ?_, ?_⟩
  · rw [ht, Mach.armCmds_mem, pmem, fmem]
  · obtain ⟨cs, hcs⟩ := ((m.drainFlushed now r).stopPbits now r).armCmds_cluster now (clusterOf r)
    rw [ht, hcs, hpcluster]
    exact fsacc hsacc
  · have hstarted : ∀ c ∈ (((m.drainFlushed now r).stopPbits now r).cluster (clusterOf r)).cmds, c.hand = r → c.started = true := by
      rw [hpcluster, fcmds, hcluster]
      intro c hc hr
      simpa [hr] using (List.mem_filter.1 hc).2
    rw [ht]
    refine Mach.armCmds_induct (P := fun x => ∀ c ∈ (x.cluster (clusterOf r)).cmds, c.hand = r → c.started = true) now (clusterOf r) hstarted ?_
    intro x d time i hd hx c hc hr
    rw [Mach.post_cluster_get, Mach.putCmd_cluster] at hc
    obtain ⟨e, he, rfl⟩ := List.mem_map.1 hc
    revert hr
    split
    · exact hstarted d hd
    · exact hx e he
end

end Sys2Proof.Machine
end

section
/-! PROOFS. HAND_SWAP_ACTIVATE and AUTO_HAND_SWITCH, and the statement of translations and switches (19 R371 to R376, 17 R422). -/

namespace Sys2Proof.Machine

/-! ## A drained hand set aside (19 R372, 20 R388) -/

section
variable (m : Mach) (now r : Nat)

theorem Mach.setLevel_swaps (p : Nat) : (m.setLevel now p).swaps = m.swaps := by
  unfold Mach.setLevel
  dsimp only
  split <;> rfl
theorem Mach.pokePhys_swaps (pa : Nat) (bs : List Byte) : (m.pokePhys pa bs).swaps = m.swaps := by
  unfold Mach.pokePhys
  split <;> rfl
theorem Mach.leaseEvent_swaps (ty old new left : Nat) : (m.leaseEvent now r ty old new left).swaps = m.swaps := by
  unfold Mach.leaseEvent Mach.powerEvent
  dsimp only
  split
  · rfl
  · rw [Mach.pokePhys_swaps]
    rfl
theorem Mach.regrant_swaps : m.regrant.swaps = m.swaps := by
  obtain ⟨zs, h, -⟩ := m.regrant_frame
  rw [h]
  rfl

theorem Mach.suspendBoost_frame : (m.suspendBoost now r).swaps = m.swaps ∧ ((m.suspendBoost now r).hand r).aside = (m.hand r).aside ∧
    ((m.suspendBoost now r).hand r).draining = (m.hand r).draining := by
  unfold Mach.suspendBoost
  dsimp only
  split
  · exact ⟨rfl, rfl, rfl⟩
  set left := m.setHand r { m.hand r with boostSt := 3, boostLeft := (m.hand r).boostEnd - now } with hleft
  have hswaps : left.swaps = m.swaps := rfl
  have hhand : left.hand r = { m.hand r with boostSt := 3, boostLeft := (m.hand r).boostEnd - now } := by
    rw [hleft, Mach.setHand_hand_get, if_pos rfl]
  have hreports := Mach.Reports.leaseEvent (left.setLevel now (m.clPart (clusterOf r))) now r 5 (m.hand r).boostLvl 0 ((m.hand r).boostEnd - now)
  have hafter : (((left.setLevel now (m.clPart (clusterOf r))).leaseEvent now r 5 (m.hand r).boostLvl 0 ((m.hand r).boostEnd - now)).regrant).hand r
      = left.hand r := by
    rw [Mach.hand, Mach.regrant_hands, hreports.hands, Mach.setLevel_hands, Mach.hand]
  rw [hafter, hhand]
  exact ⟨by rw [Mach.regrant_swaps, Mach.leaseEvent_swaps, Mach.setLevel_swaps, hswaps], rfl, rfl⟩

theorem Mach.setAside_frame : (m.setAside now r).swaps = m.swaps ∧ ((m.setAside now r).hand r).aside = true ∧
    ((m.setAside now r).hand r).draining = false := by
  unfold Mach.setAside
  set rested := m.modHand r (fun h => { h.modEngines (fun e => { e with latch := none }) with draining := false, aside := true }) with hrested
  have hhand : rested.hand r = { (m.hand r).modEngines (fun e => { e with latch := none }) with draining := false, aside := true } := by
    rw [hrested, Mach.modHand_hand_get, if_pos rfl]
  obtain ⟨hswaps, haside, hdraining⟩ := rested.suspendBoost_frame now r
  exact ⟨hswaps, haside.trans (by rw [hhand]), hdraining.trans (by rw [hhand])⟩
end

/-! ## HAND_SWAP_ACTIVATE (19 R372 to R374) -/

section
variable {s : State} {core : Nat} {w : Swap} (hswap : s.m.swaps.find? (fun p => p.1 == core) = some (core, w))
include hswap

theorem exec_handSwapActivate_waits (hdrained : w.drained = false) (hsave : w.isSave = false) (hquiet : s.m.quiet w.hand = false) :
    exec (.handSwapActivate core) s = s.goes (s.m.post (s.tb + 1) (.handSwapActivate core)) := by
  have hexec : exec (.handSwapActivate core) s = execHandSwapActivate core s := rfl
  rw [hexec, execHandSwapActivate, runEvent]
  dsimp only
  rw [hswap]
  dsimp only
  rw [hdrained, hsave, if_pos (by rfl), if_pos (by simp [hquiet])]

theorem exec_handSwapActivate_drained (hdrained : w.drained = false) (hsave : w.isSave = false) (hquiet : s.m.quiet w.hand = true) :
    exec (.handSwapActivate core) s = s.goes ({ s.m.setAside s.tb w.hand with
      swaps := (s.m.setAside s.tb w.hand).swaps.set core { w with drained := true, at_ := s.tb + 24 } }.post (s.tb + 24)
        (.handSwapActivate core)) := by
  have hexec : exec (.handSwapActivate core) s = execHandSwapActivate core s := rfl
  rw [hexec, execHandSwapActivate, runEvent]
  dsimp only
  rw [hswap]
  dsimp only
  rw [hdrained, hsave, if_pos (by rfl), if_neg (by simp [hquiet])]
  rfl

theorem exec_handSwapActivate_early (hdrained : w.drained = true) (hearly : s.tb < w.at_) :
    exec (.handSwapActivate core) s = s.goes s.m := by
  have hexec : exec (.handSwapActivate core) s = execHandSwapActivate core s := rfl
  rw [hexec, execHandSwapActivate, runEvent]
  dsimp only
  rw [hswap]
  dsimp only
  rw [hdrained, if_neg (by decide), if_pos hearly]
end

theorem handSwapActivate_holds (s : State) (core : Nat) (w : Swap) (hswap : s.m.swaps.find? (fun p => p.1 == core) = some (core, w)) :
    (w.drained = false → w.isSave = false → s.m.quiet w.hand = false →
      exec (.handSwapActivate core) s = s.goes (s.m.post (s.tb + 1) (.handSwapActivate core))) ∧
    (w.drained = false → w.isSave = false → s.m.quiet w.hand = true →
      ∃ m, exec (.handSwapActivate core) s = s.goes m ∧ m.swaps = s.m.swaps.set core { w with drained := true, at_ := s.tb + 24 } ∧
        (m.hand w.hand).aside = true ∧ (m.hand w.hand).draining = false ∧ (s.tb + 24, .handSwapActivate core) ∈ m.agenda) ∧
    (w.drained = true → s.tb < w.at_ → exec (.handSwapActivate core) s = s.goes s.m) := by
  refine ⟨exec_handSwapActivate_waits hswap, fun hdrained hsave hquiet => ?_, exec_handSwapActivate_early hswap⟩
  obtain ⟨hswaps, haside, hdraining⟩ := s.m.setAside_frame s.tb w.hand
  exact ⟨_, exec_handSwapActivate_drained hswap hdrained hsave hquiet, congrArg (fun l => l.set core { w with drained := true, at_ := s.tb + 24 }) hswaps,
    haside, hdraining, Mach.mem_post_agenda ..⟩

/-! ## AUTO_HAND_SWITCH and the active hand (17 R422) -/

section
variable {s : State} {core : Nat}

theorem exec_autoHandSwitch_busy (hthread : (s.m.hand (s.m.activeHand core)).thread = true) : exec (.autoHandSwitch core) s = s.goes s.m := by
  have hexec : exec (.autoHandSwitch core) s = execAutoHandSwitch core s := rfl
  rw [hexec, execAutoHandSwitch, runEvent]
  dsimp only
  rw [hthread, Bool.true_or, Bool.true_or, if_pos rfl]

theorem exec_autoHandSwitch_idle (hidle : (s.m.hand (s.m.activeHand core)).thread = false)
    (hother : (s.m.hand (otherHand (s.m.activeHand core))).thread = true) (hswaps : s.m.swaps = []) :
    exec (.autoHandSwitch core) s = s.goes (if s.tb < s.m.switchAt core then s.m.postSwitch s.tb core
      else (s.m.activate s.tb (otherHand (s.m.activeHand core))).post (s.tb + 1) (.handSwapActivate core)) := by
  have hexec : exec (.autoHandSwitch core) s = execAutoHandSwitch core s := rfl
  rw [hexec, execAutoHandSwitch, runEvent]
  dsimp only
  rw [hidle, hother, hswaps, if_neg (by simp)]
end

theorem autoHandSwitch_holds (s : State) (core : Nat) : let a := 2 * core + KMap.get 0 s.m.active core
    let o := otherHand a
    ((s.m.hand a).thread = true → exec (.autoHandSwitch core) s = s.goes s.m) ∧
    let at_ := max ((s.m.hand a).freeAt + 16) ((s.m.hand o).dealtT + 24)
    ((s.m.hand a).thread = false → (s.m.hand o).thread = true → s.m.swaps = [] → s.tb < at_ →
      exec (.autoHandSwitch core) s = s.goes (s.m.post at_ (.autoHandSwitch core))) ∧
    ((s.m.hand a).thread = false → (s.m.hand o).thread = true → s.m.swaps = [] → at_ ≤ s.tb →
      exec (.autoHandSwitch core) s = s.goes ((s.m.activate s.tb o).post (s.tb + 1) (.handSwapActivate core))) := by
  intro a o
  refine ⟨exec_autoHandSwitch_busy, ?_⟩
  intro at_
  have hat : s.m.switchAt core = at_ := rfl
  refine ⟨fun hidle hother hswaps hearly => ?_, fun hidle hother hswaps hdue => ?_⟩
  · have hmax : max (s.tb + 1) (s.m.switchAt core) = at_ := hat ▸ max_eq_right hearly
    refine (exec_autoHandSwitch_idle hidle hother hswaps).trans (congrArg s.goes ((if_pos hearly).trans ?_))
    rw [Mach.postSwitch, hmax]
  · exact (exec_autoHandSwitch_idle hidle hother hswaps).trans (congrArg s.goes (if_neg (Nat.not_lt.2 hdue)))

theorem Mach.activate_thread (m : Mach) (now r : Nat) (haside : (m.hand r).aside = false) : let t := m.activate now r
    KMap.get 0 t.active (coreOf r) = r % 2 ∧ t.hand r = { m.hand r with vclk := max 1 (m.hand r).vclk } := by
  have hact : m.activate now r = { m with active := m.active.set (coreOf r) (r % 2) }.modHand r (fun h => { h with vclk := max 1 h.vclk }) := by
    unfold Mach.activate
    dsimp only
    rw [haside]
    rfl
  intro t
  refine ⟨?_, ?_⟩
  · refine (congrArg (fun m => KMap.get 0 (Mach.active m) (coreOf r)) hact).trans ?_
    exact KMap.get_set_same ..
  · refine (congrArg (fun m => Mach.hand m r) hact).trans ?_
    rw [Mach.modHand_hand_get, if_pos rfl]
    rfl

/-! ## The statement -/

theorem handsAndContextsSwitch : Claims.HandsAndContextsSwitch := by
  refine ⟨fun s w hring hother => exec_hswap_issues hring hother, ?_, ?_, ?_, fun s i => exec_switch_below,
    Mach.beginDrain_spec, handSwapActivate_holds, autoHandSwitch_holds, Mach.activate_thread⟩
  · intro s w
    rw [← teamHands_teamOf]
    exact fun hring hsrcA hsrcB ha hsave hload hteam hagent hissue => exec_ctxsv_saves hring hsrcA hsrcB hissue ha hsave hload hteam hagent
  · intro s w
    rw [← teamHands_teamOf]
    exact fun hring hsrcA hsrcB ha hload hteam hissue => exec_ctxsv_ends hring hsrcA hsrcB hissue ha hload hteam
  · exact fun s w hring hsrc ha hload => exec_ctxld_loads hring hsrc ha hload

/-- Settles O36: a TLBI removes what it names in each cluster that it reaches, and a hand that drains is set aside before the next one acts. -/
theorem translationInvalidateAndSwitches : Obligations.TranslationInvalidateAndSwitches := ⟨translationInvalidate, handsAndContextsSwitch⟩

end Sys2Proof.Machine
end

section
/-! PROOFS. The statement of barriers does not bound who has arrived: a barrier that counts a hand of another team is tested for that team
(17 R321). -/

namespace Sys2Proof.Machine

/-- A thread of context 1's launch 1. -/
def memberOfOne : Hand := { ctx := 1, thread := true, launch := 1 }
/-- Hands 0 and 2 are of team 0 and run the launch; at their barrier only hand 8 has arrived, which is of team 2 and holds nothing. -/
def strangerArrived : State :=
  { eng := .a, m := { hands := [(0, memberOfOne), (2, memberOfOne)],
                      ctxs := [(1, { live := true, barriers := [(barKey 0 256, { arrived := [8] })] })] } }
/-- BAR of the team's cores, the phase left as it is. -/
def teamBar : N := ⟨⟨0, 0, 0⟩, 0, 0⟩

/-- Hand 2 has not arrived, yet the barrier is tested for the members of hand 8, who first arrived, and its completion is posted. -/
theorem agenda_after_teamBar : (match exec (.bar teamBar) strangerArrived with | .next s => s.m.agenda | _ => []) = [(4, .barrierComplete 1 0 256)] := by
  decide +kernel

/-- Refutes O23: nothing in it says that who has arrived at a barrier belongs to it. A barrier that counts a hand of another team is
tested for that hand's team, and completes although a member has not arrived. -/
theorem not_flagsBarriersAndPhases : ¬ Obligations.FlagsBarriersAndPhases := by
  unfold Obligations.FlagsBarriersAndPhases
  rintro ⟨-, hbar, -⟩
  obtain ⟨hwaits, -⟩ := hbar strangerArrived teamBar (by decide +kernel) (by decide +kernel) (by decide +kernel) (by decide +kernel) (by decide +kernel)
  obtain ⟨m, hexec, hagenda, -⟩ := hwaits (by decide +kernel) (by decide +kernel)
  have hafter := agenda_after_teamBar
  rw [hexec] at hafter
  exact absurd (hagenda.symm.trans hafter) (by decide)

end Sys2Proof.Machine
end

section
/-! PROOFS. The messages of the command processor in their turn (27 R414, R415, 17 R338, R340, R341). -/

namespace Sys2Proof.Machine

/-! ## A message arrives -/

/-- Does a message want the hypervisor (27 R414)? -/
def JctBody.wantsHypervisor : JctBody → Bool
  | .ctxnew _ => true
  | .ctxend => true
  | _ => false

section
variable {m : Mach} {j : JctMsg} (now : Nat)

theorem Mach.jct_of_no_role (hrole : m.role j.hdr.src = none) : m.jct now j = m.dropJct := by
  rw [Mach.jct, hrole]
theorem Mach.jct_of_role {role : Nat} (hrole : m.role j.hdr.src = some role) : m.jct now j =
    if j.body.wantsHypervisor && role != 2 then m.dropJct
    else (m.modDev (fun d => { d with held := d.held ++ [j] })).retryJct now (m.dev.held.length + 1) := by
  obtain ⟨h, b⟩ := j
  have hrole' : m.role h.src = some role := hrole
  have hjct : m.jct now ⟨h, b⟩ = match m.role h.src with
      | none => m.dropJct
      | some role => if b.wantsHypervisor && role != 2 then m.dropJct
        else (m.modDev (fun d => { d with held := d.held ++ [⟨h, b⟩] })).retryJct now (m.dev.held.length + 1) := by
    cases b <;> rfl
  rw [hjct, hrole']

theorem Dev.held_of_nil {d : Dev} (h : d.held = []) : { d with held := [] } = d := by
  obtain ⟨⟩ := d
  obtain rfl : _ = [] := h
  rfl
theorem Mach.modDev_held_of_nil (h : m.dev.held = []) : m.modDev (fun d => { d with held := [] }) = m := by
  rw [Mach.modDev, Dev.held_of_nil h]

section
variable {role : Nat} (hheld : m.dev.held = []) (hrole : m.role j.hdr.src = some role) (hhyp : j.body.wantsHypervisor = true → role = 2)
include hheld hrole hhyp

theorem Mach.jct_retries : m.jct now j = (m.modDev (fun d => { d with held := [j] })).retryJct now 1 := by
  have hmay : (j.body.wantsHypervisor && role != 2) = false := by
    cases hb : j.body.wantsHypervisor with
    | true => simp [hhyp hb]
    | false => rfl
  rw [Mach.jct_of_role now hrole, if_neg (by rw [hmay]; decide), Mach.modDev, hheld]
  rfl
/-- A message whose turn it is, with none held before it, is performed at once. -/
theorem Mach.jct_performs (hready : (m.modDev (fun d => { d with held := [j] })).jctReady j = true) : m.jct now j = m.performJct now j := by
  have hfind : (m.modDev (fun d => { d with held := [j] })).dev.held.find? (m.modDev (fun d => { d with held := [j] })).jctReady = some j := by
    rw [show (m.modDev (fun d => { d with held := [j] })).dev.held = [j] from rfl, List.find?_cons_of_pos hready]
  have herase : ((m.modDev (fun d => { d with held := [j] })).modDev (fun d => { d with held := d.held.erase j })) =
      m.modDev (fun d => { d with held := [j].erase j }) := rfl
  have hlast (t : Mach) : t.retryJct now 0 = t := rfl
  rw [m.jct_retries now hheld hrole hhyp, Mach.retryJct, hfind]
  dsimp only
  rw [hlast, herase, List.erase_cons_head, Mach.modDev_held_of_nil hheld]
/-- One whose turn it is not is held. -/
theorem Mach.jct_holds (hready : (m.modDev (fun d => { d with held := [j] })).jctReady j = false) :
    m.jct now j = m.modDev (fun d => { d with held := [j] }) := by
  have hfind : (m.modDev (fun d => { d with held := [j] })).dev.held.find? (m.modDev (fun d => { d with held := [j] })).jctReady = none := by
    rw [show (m.modDev (fun d => { d with held := [j] })).dev.held = [j] from rfl,
      List.find?_cons_of_neg (by rw [hready]; exact Bool.false_ne_true), List.find?_nil]
  rw [m.jct_retries now hheld hrole hhyp, Mach.retryJct, hfind]
end

/-! ## In its turn -/

/-- Outside record and replay every command may be accepted and none is logged. -/
theorem Mach.mayCommand_of_plain {p : Nat} (hmode : (m.part p).rpMode = 0) (a : W64) : m.mayCommand p a = true := by
  rw [Mach.mayCommand, hmode]
  rfl
theorem Mach.noteCommand_of_plain {p : Nat} (hmode : (m.part p).rpMode = 0) (a : W64) : m.noteCommand now p a = m := by
  rw [Mach.noteCommand, hmode, if_neg (by decide)]
  exact logInput_of_not_recording _ _ _ _ _ (by rw [hmode]; decide)

section
variable (hlive : (m.ctx j.hdr.ctx).live = true)
include hlive

theorem Mach.jctReady_of_live : m.jctReady j = (decide (j.hdr.seq < (m.ctx j.hdr.ctx).expected j.hdr.src) ||
    (j.hdr.seq == (m.ctx j.hdr.ctx).expected j.hdr.src && (m.mayCommand (m.jctPart j) j.body.datum && !m.jctWaits j))) := by
  rw [Mach.jctReady, hlive]
  rfl
theorem Mach.performJct_of_live : m.performJct now j = if j.hdr.seq < (m.ctx j.hdr.ctx).expected j.hdr.src then m.dropJct
    else ((m.noteCommand now (m.ctx j.hdr.ctx).part j.body.datum).modCtx j.hdr.ctx
      (fun x => { x with jctSeq := x.jctSeq.set j.hdr.src (j.hdr.seq + 1) })).actJct now j := by
  rw [Mach.performJct, hlive]
  rfl
theorem Mach.jctPart_of_live : m.jctPart j = (m.ctx j.hdr.ctx).part := by
  unfold Mach.jctPart
  split
  · rw [Mach.inUse, hlive]
    rfl
  · rfl
end

/-- A message with the next number of its source and context acts. -/
theorem Mach.jct_acts {role : Nat} (hheld : m.dev.held = []) (hrole : m.role j.hdr.src = some role)
    (hhyp : j.body.wantsHypervisor = true → role = 2) (hlive : (m.ctx j.hdr.ctx).live = true)
    (hseq : j.hdr.seq = (m.ctx j.hdr.ctx).expected j.hdr.src) (hmode : (m.part (m.ctx j.hdr.ctx).part).rpMode = 0)
    (hwaits : (m.modDev (fun d => { d with held := [j] })).jctWaits j = false) : m.jct now j =
    (m.modCtx j.hdr.ctx (fun x => { x with jctSeq := x.jctSeq.set j.hdr.src (j.hdr.seq + 1) })).actJct now j := by
  rw [Mach.jct_performs now hheld hrole hhyp, Mach.performJct_of_live now hlive, if_neg (by omega), Mach.noteCommand_of_plain now hmode]
  rw [Mach.jctReady_of_live (by exact hlive), Mach.jctPart_of_live (by exact hlive), Mach.mayCommand_of_plain (by exact hmode), hwaits]
  exact Bool.or_eq_true_iff.2 (.inr (by simpa using hseq))
end

/-! ## The words of a live context -/

section
variable {s : State} {j : JctHdr} (hturn : Claims.HostTurn s j)
include hturn

/-- A message of a turn acts on the machine that counts it. -/
theorem jct_of_hostTurn {b : JctBody} (hhyp : b.wantsHypervisor = true → s.m.role j.src = some 2)
    (hwaits : (s.m.modDev (fun d => { d with held := [⟨j, b⟩] })).jctWaits ⟨j, b⟩ = false) : s.m.jct s.tb ⟨j, b⟩ =
    (s.m.modCtx j.ctx (fun x => { x with jctSeq := x.jctSeq.set j.src (j.seq + 1) })).actJct s.tb ⟨j, b⟩ := by
  obtain ⟨hheld, ⟨role, hrole⟩, hlive, hseq, hmode⟩ := hturn
  refine Mach.jct_acts s.tb hheld hrole (fun hb => ?_) hlive hseq hmode hwaits
  exact Option.some.inj (hrole.symm.trans (hhyp hb))

theorem exec_notify_turn (q ix : Nat) : exec (.notify j q ix) s =
    s.goes ((s.m.modCtx j.ctx (fun x => { x with jctSeq := x.jctSeq.set j.src (j.seq + 1) })).notify s.tb j.ctx q ix) :=
  congrArg s.goes (jct_of_hostTurn hturn (b := .notify q ix) (fun h => absurd h Bool.false_ne_true) rfl)

theorem exec_memwr_turn {va : W64} {data : List Byte} (hlen : data.length % 128 = 0) (hne : data ≠ []) (hmax : data.length ≤ 4096) :
    let m := s.m.modCtx j.ctx (fun x => { x with jctSeq := x.jctSeq.set j.src (j.seq + 1) })
    (∀ m', m.writeAt j.ctx va data false = .ok m' → exec (.memwr j va data) s = s.goes (m'.kick s.tb)) ∧
      (∀ f, m.writeAt j.ctx va data false = .error f → exec (.memwr j va data) s = s.goes (m.reply j 2 f.cause)) := by
  intro m
  have hjct : s.m.jct s.tb ⟨j, .memwr va data⟩ = m.actJct s.tb ⟨j, .memwr va data⟩ :=
    jct_of_hostTurn hturn (fun h => absurd h Bool.false_ne_true) rfl
  have hact : m.actJct s.tb ⟨j, .memwr va data⟩ = match m.writeAt j.ctx va data false with
      | .ok m' => m'.kick s.tb
      | .error f => m.reply j 2 f.cause := by
    unfold Mach.actJct
    dsimp only
    rw [if_neg (by simp [hlen, hne, Nat.not_lt.2 hmax])] <;> rfl
  refine ⟨fun m' hw => ?_, fun f hw => ?_⟩
  · exact congrArg s.goes (hjct.trans (hact.trans (by rw [hw])))
  · exact congrArg s.goes (hjct.trans (hact.trans (by rw [hw])))

theorem exec_memrd_turn (va : W64) (n : Nat) : let m := s.m.modCtx j.ctx (fun x => { x with jctSeq := x.jctSeq.set j.src (j.seq + 1) })
    (∀ bs, m.readAt j.ctx va n false = .ok bs → exec (.memrd j va n) s = s.goes (m.reply j 3 0 bs)) ∧
      (∀ f, m.readAt j.ctx va n false = .error f → exec (.memrd j va n) s = s.goes (m.reply j 3 f.cause)) := by
  intro m
  have hjct : s.m.jct s.tb ⟨j, .memrd va n⟩ = m.actJct s.tb ⟨j, .memrd va n⟩ :=
    jct_of_hostTurn hturn (fun h => absurd h Bool.false_ne_true) rfl
  have hact : m.actJct s.tb ⟨j, .memrd va n⟩ = match m.readAt j.ctx va n false with
      | .ok bs => m.reply j 3 0 bs
      | .error f => m.reply j 3 f.cause := rfl
  refine ⟨fun bs hr => ?_, fun f hr => ?_⟩
  · exact congrArg s.goes (hjct.trans (hact.trans (by rw [hr])))
  · exact congrArg s.goes (hjct.trans (hact.trans (by rw [hr])))

theorem exec_regrd_turn {n core : Nat} (hok : s.m.hostRefuses j.ctx n core = false) :
    let m := s.m.modCtx j.ctx (fun x => { x with jctSeq := x.jctSeq.set j.src (j.seq + 1) })
    let w : Who := ⟨j.ctx, s.m.hostHand j.ctx core⟩
    exec (.regrd j n core) s = s.goes ((m.cregClear w n).reply j 5 0 (leBytes 8 (m.cregRead s.tb w n).toNat)) := by
  intro m w
  have hjct : s.m.jct s.tb ⟨j, .regrd n core⟩ = m.actJct s.tb ⟨j, .regrd n core⟩ :=
    jct_of_hostTurn hturn (fun h => absurd h Bool.false_ne_true) rfl
  have hrefuses : m.hostRefuses j.ctx n core = false := hok
  have hact : m.actJct s.tb ⟨j, .regrd n core⟩ = (m.cregClear w n).reply j 5 0 (leBytes 8 (m.cregRead s.tb w n).toNat) :=
    if_neg (by rw [hrefuses]; exact Bool.false_ne_true)
  exact congrArg s.goes (hjct.trans hact)

theorem exec_regwr_turn {n core : Nat} {v : W64} (hok : s.m.hostRefuses j.ctx n core = false) (hring : cregRing n ≤ 1) :
    let m := s.m.modCtx j.ctx (fun x => { x with jctSeq := x.jctSeq.set j.src (j.seq + 1) })
    let w : Who := ⟨j.ctx, s.m.hostHand j.ctx core⟩
    s.m.cregStop w n v = none → m.cregStop w n v = none →
    exec (.regwr j n core v) s = s.goes ((m.cregWrite s.tb w n v).kick s.tb) := by
  intro m w hstop hstop'
  set held := s.m.modDev (fun d => { d with held := [⟨j, .regwr n core v⟩] }) with hheld
  have hheldStop : held.cregStop w n v = none := hstop
  have hwaits : held.jctWaits ⟨j, .regwr n core v⟩ = false := by
    have hsame : held.cregStop ⟨j.ctx, held.hostHand j.ctx core⟩ n v = none := hheldStop
    unfold Mach.jctWaits
    dsimp only
    rw [hsame]
    exact Bool.and_false _
  have hjct : s.m.jct s.tb ⟨j, .regwr n core v⟩ = m.actJct s.tb ⟨j, .regwr n core v⟩ :=
    jct_of_hostTurn hturn (fun h => absurd h Bool.false_ne_true) hwaits
  have hrefuses : m.hostRefuses j.ctx n core = false := hok
  have hact : m.actJct s.tb ⟨j, .regwr n core v⟩ = (m.cregWrite s.tb w n v).kick s.tb := by
    have hw : m.hostWrite s.tb j n core v = (m.cregWrite s.tb w n v).kick s.tb := by
      unfold Mach.hostWrite
      rw [if_neg (by rw [hrefuses]; exact Bool.false_ne_true), if_neg (by omega)]
      rw [show m.cregStop ⟨j.ctx, m.hostHand j.ctx core⟩ n v = none from hstop']
      rfl
    exact hw
  exact congrArg s.goes (hjct.trans hact)

theorem exec_ctxend_turn (hrole : s.m.role j.src = some 2) :
    let m := s.m.modCtx j.ctx (fun x => { x with jctSeq := x.jctSeq.set j.src (j.seq + 1) })
    exec (.ctxend j) s =
      s.goes (((m.killContext s.tb j.ctx).modDev (fun d => { d with ending := d.ending ++ [(some j, j.ctx)] })).kick s.tb) :=
  congrArg s.goes (jct_of_hostTurn hturn (b := .ctxend) (fun _ => hrole) rfl)
end

end Sys2Proof.Machine
end

section
/-! PROOFS. Contexts made and ended, messages out of order, NOTIFY at the slots, and messages as bytes (27 R414, R415, 17 R338, R340, R341). -/

namespace Sys2Proof.Machine

/-! ## CTXNEW (17 R340) -/

section
variable {s : State} {j : JctHdr} {p : Nat} (hheld : s.m.dev.held = []) (hrole : s.m.role j.src = some 2) (hlive : (s.m.ctx j.ctx).live = false)
include hlive in
theorem ctxnew_ready : (s.m.modDev (fun d => { d with held := [⟨j, .ctxnew p⟩] })).jctReady ⟨j, .ctxnew p⟩ =
    (s.m.ctxRefusal j.ctx p != 0 || (j.seq == 0 &&
      ((s.m.modDev (fun d => { d with held := [⟨j, .ctxnew p⟩] })).mayCommand
        ((s.m.modDev (fun d => { d with held := [⟨j, .ctxnew p⟩] })).jctPart ⟨j, .ctxnew p⟩) 0 && true))) := by
  have hlive' : ((s.m.modDev (fun d => { d with held := [⟨j, .ctxnew p⟩] })).ctx j.ctx).live = false := hlive
  rw [Mach.jctReady, hlive']
  rfl

include hheld hrole hlive

/-- A CTXNEW for a context number that is free. -/
theorem exec_ctxnew_free : (s.m.modDev (fun d => { d with held := [⟨j, .ctxnew p⟩] })).jctReady ⟨j, .ctxnew p⟩ = true →
    exec (.ctxnew j p) s = s.goes (if s.m.ctxRefusal j.ctx p = 0 then s.m.newContext s.tb j.src j.ctx p
      else s.m.reply j 8 (s.m.ctxRefusal j.ctx p)) := by
  intro hready
  have hperform : s.m.performJct s.tb ⟨j, .ctxnew p⟩ = if s.m.ctxRefusal j.ctx p = 0 then s.m.newContext s.tb j.src j.ctx p
      else s.m.reply j 8 (s.m.ctxRefusal j.ctx p) := by
    rw [Mach.performJct, hlive]
    rfl
  exact congrArg s.goes ((Mach.jct_performs s.tb hheld hrole (fun _ => rfl) hready).trans hperform)

theorem exec_ctxnew_makes (hseq : j.seq = 0) (hmode : (s.m.part p).rpMode = 0) (hpos : 0 < j.ctx) (hlt : j.ctx < 65536)
    (hended : (s.m.ctx j.ctx).ended = false) (hp : p < 8) (hpart : ∃ c, c < 72 ∧ s.m.clPart c = p)
    (hroom : (s.m.ctxs.filter (fun x => x.2.live || x.2.ended)).length < 4096) :
    exec (.ctxnew j p) s = s.goes (s.m.setCtx j.ctx { live := true, part := p, jctSeq := [(j.src, 1)] }) := by
  obtain ⟨c, hc, hcp⟩ := hpart
  have hfree : s.m.inUse j.ctx = false := by rw [Mach.inUse, hlive, hended]; rfl
  have hclusters : (s.m.partClusters p).isEmpty = false := by
    have hmem : c ∈ s.m.partClusters p := List.mem_filter.2 ⟨List.mem_range.2 hc, beq_iff_eq.2 hcp⟩
    exact List.isEmpty_eq_false_iff.2 (List.ne_nil_of_mem hmem)
  have hrefusal : s.m.ctxRefusal j.ctx p = 0 := by
    rw [Mach.ctxRefusal, hfree, hclusters, if_neg (by simp; omega), if_neg (by simp; omega), if_neg (by omega)]
  have hheldPart : (s.m.modDev (fun d => { d with held := [⟨j, .ctxnew p⟩] })).jctPart ⟨j, .ctxnew p⟩ = p :=
    if_neg (show ¬ s.m.inUse j.ctx = true by rw [hfree]; exact Bool.false_ne_true)
  rw [exec_ctxnew_free hheld hrole hlive, if_pos hrefusal, Mach.newContext, Mach.noteCommand_of_plain s.tb hmode]
  rw [ctxnew_ready hlive, hheldPart, Mach.mayCommand_of_plain (by exact hmode), hseq]
  exact Bool.or_true _

theorem exec_ctxnew_refused {c : Nat} (hc : c ≠ 0) (hrefusal : s.m.ctxRefusal j.ctx p = c) : exec (.ctxnew j p) s = s.goes (s.m.reply j 8 c) := by
  subst hrefusal
  rw [exec_ctxnew_free hheld hrole hlive, if_neg hc]
  rw [ctxnew_ready hlive]
  exact Bool.or_eq_true_iff.2 (.inl (bne_iff_ne.2 hc))
end

theorem Mach.ctxRefusal_number {m : Mach} {k : Nat} (p : Nat) (h : k = 0 ∨ (m.ctx k).ended = true) : m.ctxRefusal k p = 0x101 := by
  rw [Mach.ctxRefusal, if_pos]
  obtain hk | hended := h
  · simp [hk]
  · simp [Mach.inUse, hended]
theorem Mach.ctxRefusal_partition {m : Mach} {k p : Nat} (hlive : (m.ctx k).live = false) (hpos : 0 < k) (hlt : k < 65536)
    (hended : (m.ctx k).ended = false) (h : 8 ≤ p ∨ ∀ c, c < 72 → m.clPart c ≠ p) : m.ctxRefusal k p = 0x102 := by
  have hfree : m.inUse k = false := by rw [Mach.inUse, hlive, hended]; rfl
  rw [Mach.ctxRefusal, hfree, if_neg (by simp; omega), if_pos]
  obtain hp | hnone := h
  · simp [hp]
  · have hempty : m.partClusters p = [] := List.filter_eq_nil_iff.2 fun c hc => by simpa using hnone c (List.mem_range.1 hc)
    simp [hempty]

/-! ## Messages that are dropped or held -/

section
variable {s : State} {j : JctHdr}

theorem exec_hypervisor_dropped {p : Nat} {i : Instr} (hrole : s.m.role j.src ≠ some 2) (hi : i ∈ [Instr.ctxnew j p, .ctxend j]) :
    exec i s = s.goes (s.m.modDev (fun d => { d with dropped := d.dropped + 1 })) := by
  have hdrop (b : JctBody) (hb : b.wantsHypervisor = true) : s.m.jct s.tb ⟨j, b⟩ = s.m.dropJct := by
    cases hsrc : s.m.role j.src with
    | none => exact Mach.jct_of_no_role _ hsrc
    | some role =>
      have hne : role ≠ 2 := fun h => hrole (hsrc.trans (congrArg some h))
      rw [Mach.jct_of_role (j := ⟨j, b⟩) s.tb hsrc, if_pos (by simp [hb, hne])]
  simp only [List.mem_cons, List.not_mem_nil, or_false] at hi
  obtain rfl | rfl := hi
  · exact congrArg s.goes (hdrop (.ctxnew p) rfl)
  · exact congrArg s.goes (hdrop .ctxend rfl)

variable (hheld : s.m.dev.held = []) (hrole : ∃ x, s.m.role j.src = some x)
include hheld hrole

theorem exec_notify_duplicate (q ix : Nat) (hlive : (s.m.ctx j.ctx).live = true) (hseq : j.seq < (s.m.ctx j.ctx).expected j.src) :
    exec (.notify j q ix) s = s.goes (s.m.modDev (fun d => { d with dropped := d.dropped + 1 })) := by
  obtain ⟨role, hrole⟩ := hrole
  have hready : (s.m.modDev (fun d => { d with held := [⟨j, .notify q ix⟩] })).jctReady ⟨j, .notify q ix⟩ = true := by
    rw [Mach.jctReady_of_live (by exact hlive)]
    exact Bool.or_eq_true_iff.2 (.inl (decide_eq_true hseq))
  have hjct : s.m.jct s.tb ⟨j, .notify q ix⟩ = s.m.performJct s.tb ⟨j, .notify q ix⟩ :=
    Mach.jct_performs s.tb hheld hrole (fun h => absurd h Bool.false_ne_true) hready
  refine congrArg s.goes (hjct.trans ?_)
  rw [Mach.performJct_of_live s.tb hlive, if_pos hseq]
  rfl
theorem exec_notify_ahead (q ix : Nat) (hlive : (s.m.ctx j.ctx).live = true) (hseq : (s.m.ctx j.ctx).expected j.src < j.seq) :
    exec (.notify j q ix) s = s.goes (s.m.modDev (fun d => { d with held := [⟨j, .notify q ix⟩] })) := by
  obtain ⟨role, hrole⟩ := hrole
  have hlate : decide (j.seq < (s.m.ctx j.ctx).expected j.src) = false := decide_eq_false (by omega)
  have hturn : (j.seq == (s.m.ctx j.ctx).expected j.src) = false := beq_eq_false_iff_ne.2 (by omega)
  have hready : (s.m.modDev (fun d => { d with held := [⟨j, .notify q ix⟩] })).jctReady ⟨j, .notify q ix⟩ = false := by
    rw [Mach.jctReady_of_live (by exact hlive)]
    exact (congrArg₂ (fun a b => a || (b && _)) hlate hturn).trans rfl
  exact congrArg s.goes (Mach.jct_holds s.tb hheld hrole (fun h => absurd h Bool.false_ne_true) hready)

variable (hlive : (s.m.ctx j.ctx).live = false)
include hlive

theorem exec_notify_unborn (q ix : Nat) (hseq : j.seq = 0) : exec (.notify j q ix) s = s.goes (s.m.reply j 1 0x100) := by
  obtain ⟨role, hrole⟩ := hrole
  have hready : (s.m.modDev (fun d => { d with held := [⟨j, .notify q ix⟩] })).jctReady ⟨j, .notify q ix⟩ = true := by
    have hlive' : ((s.m.modDev (fun d => { d with held := [⟨j, .notify q ix⟩] })).ctx j.ctx).live = false := hlive
    rw [Mach.jctReady, hlive']
    exact Bool.or_eq_true_iff.2 (.inr (beq_iff_eq.2 hseq))
  have hjct : s.m.jct s.tb ⟨j, .notify q ix⟩ = s.m.performJct s.tb ⟨j, .notify q ix⟩ :=
    Mach.jct_performs s.tb hheld hrole (fun h => absurd h Bool.false_ne_true) hready
  refine congrArg s.goes (hjct.trans ?_)
  rw [Mach.performJct, hlive]
  rfl
theorem exec_notify_early (hended : (s.m.ctx j.ctx).ended = false) (q ix : Nat) (hseq : 0 < j.seq) :
    exec (.notify j q ix) s = s.goes (s.m.modDev (fun d => { d with held := [⟨j, .notify q ix⟩] })) := by
  obtain ⟨role, hrole⟩ := hrole
  have hlive' : ((s.m.modDev (fun d => { d with held := [⟨j, .notify q ix⟩] })).ctx j.ctx).live = false := hlive
  have hnever : ((s.m.ctx j.ctx).ended || j.seq == 0) = false := by
    rw [hended, Bool.false_or]
    exact beq_eq_false_iff_ne.2 (by omega)
  have hready : (s.m.modDev (fun d => { d with held := [⟨j, .notify q ix⟩] })).jctReady ⟨j, .notify q ix⟩ = false := by
    rw [Mach.jctReady, hlive']
    exact hnever
  exact congrArg s.goes (Mach.jct_holds s.tb hheld hrole (fun h => absurd h Bool.false_ne_true) hready)
end

/-! ## NOTIFY at its slot (17 R338) -/

/-- With one slot that is not READY there is none to serve. -/
theorem Mach.serveSlots_of_one {m : Mach} {i : Nat} {x : QSlot} (now n : Nat) (hslots : m.dev.slots = [(i, x)]) (hst : x.st ≠ 1) :
    m.serveSlots now [] (n + 1) = m := by
  have hnext : m.nextOf now (fun p => p.2.isReady now || (p.2.st == 2 && ([] : List Nat).contains p.1)) = none := by
    unfold Mach.nextOf
    rw [hslots, List.filter_cons_of_neg (by simp [QSlot.isReady, hst]), List.filter_nil]
    exact List.find?_eq_none.2 fun _ _ => Bool.false_ne_true
  rw [Mach.serveSlots, hnext]

section
variable {m : Mach} {k q : Nat} (now ix : Nat)

theorem Mach.notify_outside (hq : ((m.ctx k).reg 0x07D).toNat % 2 ^ 13 ≤ q) :
    m.notify now k q ix = m.modDev (fun d => { d with dropped := d.dropped + 1 }) := by
  rw [Mach.notify, if_pos (by rw [bits_zero_toNat]; exact hq)]

variable (hq : q < ((m.ctx k).reg 0x07D).toNat % 2 ^ 13)
include hq

theorem Mach.notify_mapped {i : Nat} {x : QSlot} (hslots : m.dev.slots = [(i, x)]) (hctx : x.ctx = k) (hqueue : x.q = q) :
    m.notify now k q ix = (m.putSlot i (x.take now ix)).serveSlots now [] 64 ∧ (m.putSlot i (x.take now ix)).dev.slots = [(i, x.take now ix)] := by
  have hfind : m.dev.slots.find? (fun p => p.2.ctx == k && p.2.q == q) = some (i, x) := by
    rw [hslots]
    exact List.find?_cons_of_pos (by simp [hctx, hqueue])
  refine ⟨?_, ?_⟩
  · rw [Mach.notify, if_neg (by rw [bits_zero_toNat]; omega), hfind]
  · rw [Mach.putSlot, Mach.modDev, hslots]
    simp [KMap.set]
theorem Mach.notify_unmapped {d : List Byte} (hslots : m.dev.slots = []) (hdesc : m.desc k q = some d) : m.notify now k q ix =
    ((m.putDesc k q 16 (leBytes 4 ix)).putDesc k q 10 (leBytes 1 (field d 10 1 ||| 2))).kick now := by
  rw [Mach.notify, if_neg (by rw [bits_zero_toNat]; omega), hslots, List.find?_nil]
  dsimp only
  rw [hdesc]
end

theorem notify_holds (m : Mach) (now k q ix : Nat) : let n := ((m.ctx k).reg 0x07D).toNat % 2 ^ 13
    (n ≤ q → m.notify now k q ix = m.modDev (fun d => { d with dropped := d.dropped + 1 })) ∧
    (q < n → ∀ i x, m.dev.slots = [(i, x)] → x.ctx = k → x.q = q →
      (x.st = 3 ∨ x.st = 2 ∧ x.rd ≠ ix → m.notify now k q ix = m.putSlot i { x with wr := ix }) ∧
      (x.st ≤ 2 → x.rd = ix → m.notify now k q ix = m.putSlot i { x with wr := ix, st := 0, since := if x.st = 0 then x.since else now }) ∧
      (x.st = 0 → x.rd ≠ ix → m.notify now k q ix =
        (m.putSlot i { x with wr := ix, st := 1, since := now, ready := now }).serveSlots now [] 64)) ∧
    (q < n → ∀ d, m.dev.slots = [] → m.desc k q = some d →
      m.notify now k q ix = ((m.putDesc k q 16 (leBytes 4 ix)).putDesc k q 10 (leBytes 1 (field d 10 1 ||| 2))).kick now) := by
  intro n
  refine ⟨Mach.notify_outside now ix, fun hq i x hslots hctx hqueue => ?_, fun hq d => Mach.notify_unmapped now ix hq⟩
  obtain ⟨hnotify, hafter⟩ := Mach.notify_mapped now ix hq hslots hctx hqueue
  refine ⟨fun hst => ?_, fun hst hrd => ?_, fun hst hrd => ?_⟩
  · have htake : x.take now ix = { x with wr := ix } := by
      unfold QSlot.take
      obtain hst | ⟨hst, hrd⟩ := hst
      · rw [if_pos hst]
      · rw [if_neg (by omega), if_neg hrd, if_neg (by omega)]
    have hnot : (x.take now ix).st ≠ 1 := by
      rw [htake]
      show x.st ≠ 1
      omega
    rw [hnotify, Mach.serveSlots_of_one now 63 hafter hnot, htake]
  · have htake : x.take now ix = { x with wr := ix, st := 0, since := if x.st = 0 then x.since else now } := by
      unfold QSlot.take
      rw [if_neg (by omega), if_pos hrd]
    have hnot : (x.take now ix).st ≠ 1 := by
      rw [htake]
      exact Nat.zero_ne_one
    rw [hnotify, Mach.serveSlots_of_one now 63 hafter hnot, htake]
  · have htake : x.take now ix = { x with wr := ix, st := 1, since := now, ready := now } := by
      unfold QSlot.take
      rw [if_neg (by omega), if_neg hrd, if_pos hst]
    rw [hnotify, htake]

/-! ## Messages as bytes (27 R414) -/

section
variable {m : Mach} {now src : Nat} {bs : List Byte} (hlen : 16 ≤ bs.length) (hzero : field bs 1 1 = 0)
include hlen hzero

/-- A header that keeps to its layout: the bytes are read by endpoint and type. -/
theorem readJct_eq (endpoint : Nat) : readJct endpoint src bs =
    let h : JctHdr := ⟨src, field bs 2 2, field bs 4 4⟩
    let va : W64 := BitVec.ofNat 64 (field bs 8 8)
    let command := fun (ok : Bool) (b : JctBody) => if ok then some (JctIn.command ⟨h, b⟩) else none
    match endpoint, field bs 0 1 with
    | 1, 1 => command (field bs 10 2 == 0) (.notify (field bs 8 2) (field bs 12 4))
    | 1, 2 => command true (.memwr va (bs.drop 16))
    | 1, 3 => command true (.memrd va (field bs 16 4))
    | 1, 4 => command (field bs 10 2 == 0 && field bs 14 2 == 0) (.regwr (field bs 8 2) (field bs 12 2) (BitVec.ofNat 64 (field bs 16 8)))
    | 1, 5 => command (field bs 10 2 == 0 && field bs 14 2 == 0) (.regrd (field bs 8 2) (field bs 12 2))
    | 1, 8 => command (field bs 9 7 == 0) (.ctxnew (field bs 8 1))
    | 1, 9 => command (field bs 8 8 == 0) .ctxend
    | 2, 6 => if field bs 8 8 == 0 then some (.attest h ((bs.drop 16).take 48)) else none
    | 2, 7 => if field bs 8 8 == 0 then some (.haltlog h) else none
    | _, _ => none := by
  unfold readJct
  dsimp only
  rw [if_neg (by simp [hzero, Nat.not_lt.2 hlen])] <;> rfl
end

theorem Mach.message_broken {bs : List Byte} (h : bs.length < 16 ∨ field bs 1 1 ≠ 0) (m : Mach) (now e src : Nat) :
    m.message now e src bs = m.modDev (fun d => { d with dropped := d.dropped + 1 }) := by
  have hread : readJct e src bs = none := by
    unfold readJct
    dsimp only
    rw [if_pos (by obtain hlen | hzero := h <;> simp [*])]
  rw [Mach.message, hread]
  rfl

theorem message_holds (m : Mach) (now src : Nat) (bs : List Byte) : let h : JctHdr := ⟨src, field bs 2 2, field bs 4 4⟩
    let va : W64 := BitVec.ofNat 64 (field bs 8 8)
    let reads := fun (end_ type : Nat) (m' : Mach) => 16 ≤ bs.length → field bs 0 1 = type → field bs 1 1 = 0 → m.message now end_ src bs = m'
    (field bs 10 2 = 0 → reads 1 1 (m.jct now ⟨h, .notify (field bs 8 2) (field bs 12 4)⟩)) ∧
    reads 1 2 (m.jct now ⟨h, .memwr va (bs.drop 16)⟩) ∧ reads 1 3 (m.jct now ⟨h, .memrd va (field bs 16 4)⟩) ∧
    (field bs 10 2 = 0 → field bs 14 2 = 0 →
      reads 1 4 (m.jct now ⟨h, .regwr (field bs 8 2) (field bs 12 2) (BitVec.ofNat 64 (field bs 16 8))⟩) ∧
      reads 1 5 (m.jct now ⟨h, .regrd (field bs 8 2) (field bs 12 2)⟩)) ∧
    (field bs 9 7 = 0 → reads 1 8 (m.jct now ⟨h, .ctxnew (field bs 8 1)⟩)) ∧
    (field bs 8 8 = 0 → reads 1 9 (m.jct now ⟨h, .ctxend⟩) ∧ reads 2 6 (m.attest now h ((bs.drop 16).take 48)) ∧ reads 2 7 (m.haltlog h)) ∧
    (bs.length < 16 ∨ field bs 1 1 ≠ 0 → ∀ e, m.message now e src bs = m.modDev (fun d => { d with dropped := d.dropped + 1 })) := by
  intro h va reads
  have hread (e type : Nat) (hlen : 16 ≤ bs.length) (htype : field bs 0 1 = type) (hzero : field bs 1 1 = 0) := htype ▸ readJct_eq (src := src) hlen hzero e
  have hmsg {e : Nat} {x : JctIn} {m' : Mach} (hx : readJct e src bs = some x)
      (hm : (match x with | .command j => m.jct now j | .attest j nonce => m.attest now j nonce | .haltlog j => m.haltlog j) = m') :
      m.message now e src bs = m' := by
    rw [Mach.message, hx, ← hm]
    cases x <;> rfl
  refine ⟨fun h10 hlen htype hzero => ?_, fun hlen htype hzero => ?_, fun hlen htype hzero => ?_,
    fun h10 h14 => ⟨fun hlen htype hzero => ?_, fun hlen htype hzero => ?_⟩, fun h9 hlen htype hzero => ?_,
    fun h8 => ⟨fun hlen htype hzero => ?_, fun hlen htype hzero => ?_, fun hlen htype hzero => ?_⟩, fun hbad e => Mach.message_broken hbad m now e src⟩
  · exact hmsg ((readJct_eq hlen hzero 1).trans (by rw [htype, h10]; rfl)) rfl
  · exact hmsg ((readJct_eq hlen hzero 1).trans (by rw [htype]; rfl)) rfl
  · exact hmsg ((readJct_eq hlen hzero 1).trans (by rw [htype]; rfl)) rfl
  · exact hmsg ((readJct_eq hlen hzero 1).trans (by rw [htype, h10, h14]; rfl)) rfl
  · exact hmsg ((readJct_eq hlen hzero 1).trans (by rw [htype, h10, h14]; rfl)) rfl
  · exact hmsg ((readJct_eq hlen hzero 1).trans (by rw [htype, h9]; rfl)) rfl
  · exact hmsg ((readJct_eq hlen hzero 1).trans (by rw [htype, h8]; rfl)) rfl
  · exact hmsg ((readJct_eq hlen hzero 2).trans (by rw [htype, h8]; rfl)) rfl
  · exact hmsg ((readJct_eq hlen hzero 2).trans (by rw [htype, h8]; rfl)) rfl

/-! ## A killed context's number is free (17 R341) -/

theorem KMap.get_filter_ne {α : Type} (d : α) (k : Nat) (l : KMap α) : KMap.get d (l.filter (fun p => p.1 != k)) k = d := by
  induction l with
  | nil => rfl
  | cons p l ih =>
    obtain ⟨q, v⟩ := p
    by_cases hq : q = k
    · rw [List.filter_cons_of_neg (by simp [hq]), ih]
    · rw [List.filter_cons_of_pos (by simp [hq]), KMap.get, if_neg hq, ih]

/-- The number of a killed context is free again; device and answers stay. -/
theorem Mach.freeNumber_frame (m : Mach) (k : Nat) : (m.freeNumber k).ctx k = {} ∧ (m.freeNumber k).dev = m.dev := by
  have hfold : ((List.range 72).foldl (fun m c => m.modCluster c (fun x =>
      { x with text := x.text.filter (fun p => p.1 != k), dctl := x.dctl.filter (fun p => p.1 != k) })) m).dev = m.dev :=
    List.foldlRecOn (motive := fun t : Mach => t.dev = m.dev) _ _ rfl fun _ h _ _ => h
  unfold Mach.freeNumber
  dsimp only
  refine ⟨?_, hfold⟩
  rw [Mach.ctx]
  exact KMap.get_filter_ne ..

theorem Mach.endKills_one {m : Mach} {k : Nat} {j : JctHdr} (hending : m.dev.ending = [(some j, k)]) (hgone : m.gone k = true) :
    m.endKills.ctx k = {} ∧ m.endKills.dev.ending = [] ∧ m.endKills.dev.answers = m.dev.answers ++ [⟨j.src, 9, j.ctx, j.seq, 0, []⟩] := by
  have hdone : m.dev.ending.filter (fun e => m.gone e.2) = [(some j, k)] := by
    rw [hending]
    exact List.filter_cons_of_pos hgone
  have hleft : ([(some j, k)] : List (Option JctHdr × Nat)).filter (fun e => !([(some j, k)] : List (Option JctHdr × Nat)).contains e) = [] := by
    simp
  have hends : m.endKills = ((m.modDev (fun d => { d with ending := [] })).freeNumber k).reply j 9 0 := by
    unfold Mach.endKills
    dsimp only
    rw [hdone, Mach.modDev, hending, hleft]
    rfl
  obtain ⟨hctx, hdev⟩ := (m.modDev (fun d => { d with ending := [] })).freeNumber_frame k
  have hreply : (((m.modDev (fun d => { d with ending := [] })).freeNumber k).reply j 9 0).dev = { m.dev with
      ending := [], answers := m.dev.answers ++ [⟨j.src, 9, j.ctx, j.seq, 0, []⟩] } := by
    rw [Mach.reply, Mach.modDev_dev, hdev]
    rfl
  rw [hends, Mach.reply, Mach.modDev_ctx_get, ← Mach.reply, hreply]
  exact ⟨hctx, rfl, rfl⟩

/-- Settles O48: with nothing held before it a message of a live context acts just where its number is the next; others are dropped, held or
answered by their order and their sender. -/
theorem hostMessages : Obligations.HostMessages := by
  refine ⟨fun s j hturn => ⟨exec_notify_turn hturn, fun va data hlen hne hmax => exec_memwr_turn hturn hlen hne hmax, exec_memrd_turn hturn,
      fun n core v hok hring hstop hstop' => exec_regwr_turn hturn hok hring hstop hstop', fun n core hok => exec_regrd_turn hturn hok,
      fun hrole => exec_ctxend_turn hturn hrole⟩, ?_, fun s j p i => exec_hypervisor_dropped, ?_, notify_holds, ?_, message_holds, by decide,
    fun m k j => Mach.endKills_one⟩
  · intro s j p hheld hrole hlive
    refine ⟨exec_ctxnew_makes hheld hrole hlive, fun h => ?_, fun hpos hlt hended h => ?_⟩
    · exact exec_ctxnew_refused hheld hrole hlive (by decide) (Mach.ctxRefusal_number p h)
    · exact exec_ctxnew_refused hheld hrole hlive (by decide) (Mach.ctxRefusal_partition hlive hpos hlt hended h)
  · exact fun s j q ix hheld hrole hlive => ⟨exec_notify_duplicate hheld hrole q ix hlive, exec_notify_ahead hheld hrole q ix hlive⟩
  · exact fun s j q ix hheld hrole hlive hended => ⟨exec_notify_unborn hheld hrole hlive q ix, exec_notify_early hheld hrole hlive hended q ix⟩

end Sys2Proof.Machine
end

section
/-! PROOFS. The security core: reports and the halt log, the verification of a boot, and a reset (27 R418 to R421, 20 R392). -/

namespace Sys2Proof.Machine

/-! ## A report (27 R421) -/

/-- The digest of a class, and its version, as a report holds them. -/
def Mach.reportDigest (m : Mach) (c : Nat) : List Byte := ((KMap.get [] m.dev.digests c) ++ List.replicate 48 0).take 48
def Mach.reportSvn (m : Mach) (c : Nat) : List Byte := leBytes 1 (KMap.get 0 m.dev.svns c)

theorem take_padded_length (bs : List Byte) (n : Nat) : ((bs ++ List.replicate n 0).take n).length = n := by
  rw [List.length_take, List.length_append, List.length_replicate]
  omega
theorem take_padded {bs : List Byte} {n : Nat} (h : bs.length = n) : (bs ++ List.replicate n 0).take n = bs := by
  rw [← h, List.take_left]

section
variable (m : Mach) (now left : Nat) (nonce : List Byte)

theorem Mach.reportDigest_length (c : Nat) : (m.reportDigest c).length = 48 := take_padded_length ..
theorem Mach.reportDigests_length : ((List.range 3).flatMap m.reportDigest).length = 144 := by
  rw [length_flatMap_of_const _ m.reportDigest_length]; rfl
theorem Mach.reportSvn_length (c : Nat) : (m.reportSvn c).length = 1 := leBytes_length ..
theorem Mach.reportSvns_length : ((List.range 3).flatMap m.reportSvn).length = 3 := by
  rw [length_flatMap_of_const _ m.reportSvn_length]; rfl

/-- A report is the nonce, the time, and what stands behind them. -/
def Mach.reportHead : List Byte := (nonce ++ List.replicate 48 0).take 48 ++ leBytes 8 now
def Mach.reportTail : List Byte := (List.range 3).flatMap m.reportSvn ++ (leBytes 1 0 ++ leBytes 4 left)
theorem Mach.report_eq : m.report now nonce left = Mach.reportHead now nonce ++ ((List.range 3).flatMap m.reportDigest ++ m.reportTail left) := by
  have hreport : m.report now nonce left = (nonce ++ List.replicate 48 0).take 48 ++ leBytes 8 now ++ (List.range 3).flatMap m.reportDigest
    ++ (List.range 3).flatMap m.reportSvn ++ leBytes 1 0 ++ leBytes 4 left := rfl
  rw [hreport, Mach.reportHead, Mach.reportTail]
  simp only [List.append_assoc]
theorem Mach.reportHead_length : (Mach.reportHead now nonce).length = 56 := by
  rw [Mach.reportHead, List.length_append, take_padded_length, leBytes_length]
theorem Mach.reportTail_length : (m.reportTail left).length = 8 := by
  rw [Mach.reportTail, List.length_append, m.reportSvns_length, List.length_append, leBytes_length, leBytes_length]
theorem Mach.report_length : (m.report now nonce left).length = 208 := by
  rw [m.report_eq, List.length_append, List.length_append, Mach.reportHead_length, m.reportDigests_length, m.reportTail_length]

theorem Mach.report_nonce (hlen : nonce.length = 48) : (m.report now nonce left).take 48 = nonce := by
  rw [m.report_eq, List.take_append_of_le_length (by rw [Mach.reportHead_length]; omega), Mach.reportHead, take_padded hlen, ← hlen, List.take_left]
theorem Mach.report_time : field (m.report now nonce left) 48 8 = now % 2 ^ 64 := by
  rw [m.report_eq, field_append_left (by rw [Mach.reportHead_length]), Mach.reportHead, field_append_right (take_padded_length ..).le, take_padded_length]
  exact field_zero_leBytes 8 now
theorem Mach.report_digest {c : Nat} (hc : c < 3) (hlen : (KMap.get [] m.dev.digests c).length = 48) :
    ((m.report now nonce left).drop (56 + 48 * c)).take 48 = KMap.get [] m.dev.digests c := by
  have hblock : (((List.range 3).flatMap m.reportDigest).drop (48 * c)).take 48 = m.reportDigest c := by
    rw [take_drop_flatMap _ (fun a _ => m.reportDigest_length a) (by simpa using hc), List.getElem_range]
  have hdigests := m.reportDigests_length
  rw [m.report_eq, ← List.drop_drop, ← Mach.reportHead_length now nonce, List.drop_left, List.drop_append_of_le_length (by omega),
    List.take_append_of_le_length (by rw [List.length_drop]; omega), hblock]
  exact take_padded hlen
/-- A field behind the digests. -/
theorem Mach.report_tail {lo n : Nat} : field (m.report now nonce left) (200 + lo) n = field (m.reportTail left) lo n := by
  have hhead := Mach.reportHead_length now nonce
  have hdigests := m.reportDigests_length
  rw [m.report_eq, field_append_right (by omega), field_append_right (by omega), hhead, hdigests, show 200 + lo - 56 - 144 = lo by omega]
theorem Mach.report_svn {c : Nat} (hc : c < 3) (hsvn : KMap.get 0 m.dev.svns c < 64) :
    field (m.report now nonce left) (200 + c) 1 = KMap.get 0 m.dev.svns c := by
  have hblock : (((List.range 3).flatMap m.reportSvn).drop (1 * c)).take 1 = m.reportSvn c := by
    rw [take_drop_flatMap _ (fun a _ => m.reportSvn_length a) (by simpa using hc), List.getElem_range]
  rw [m.report_tail, Mach.reportTail, field_append_left (by rw [m.reportSvns_length]; omega), field, ← Nat.one_mul c, hblock, Mach.reportSvn,
    leNat_leBytes, Nat.one_mul]
  omega
theorem Mach.report_zero : field (m.report now nonce left) 203 1 = 0 := by
  have hsvns := m.reportSvns_length
  rw [show 203 = 200 + 3 from rfl, m.report_tail, Mach.reportTail, field_append_right (by omega), hsvns, field_append_left (by simp)]
  exact field_zero_leBytes 1 0
theorem Mach.report_left : field (m.report now nonce left) 204 4 = left % 2 ^ 32 := by
  have hsvns := m.reportSvns_length
  rw [show 204 = 200 + 4 from rfl, m.report_tail, Mach.reportTail, field_append_right (by omega), hsvns, field_append_right (by simp), leBytes_length]
  exact field_zero_leBytes 4 left
end

/-! ## ATTEST and HALTLOG (27 R419 to R421) -/

section
variable {s : State} {j : JctHdr}

theorem exec_attest_reports {nonce : List Byte} {x : Nat} (hrole : s.m.role j.src = some x) (hnonce : nonce.length = 48) :
    ∃ bs ecdsa hss, exec (.attest j nonce) s = s.goes ((s.m.modDev (fun d => { d with sigBudget := d.sigBudget - 1 })).reply j 6 0
        (bs ++ ecdsa ++ hss)) ∧
      bs.length = 208 ∧ ecdsa.length = 96 ∧ bs.take 48 = nonce ∧ field bs 48 8 = s.tb % 2 ^ 64 ∧ field bs 203 1 = 0 ∧
      field bs 204 4 = (s.m.dev.sigBudget - 1) % 2 ^ 32 ∧ hss = (if s.m.dev.sigBudget = 0 then [] else Config.hssSign (2 ^ 20 - s.m.dev.sigBudget) bs) ∧
      (∀ c, c < 3 → (KMap.get [] s.m.dev.digests c).length = 48 → (bs.drop (56 + 48 * c)).take 48 = KMap.get [] s.m.dev.digests c) ∧
      (∀ c, c < 3 → KMap.get 0 s.m.dev.svns c < 64 → field bs (200 + c) 1 = KMap.get 0 s.m.dev.svns c) := by
  set bs := s.m.report s.tb nonce (s.m.dev.sigBudget - 1) with hbs
  have hattest : s.m.attest s.tb j nonce = (s.m.modDev (fun d => { d with sigBudget := d.sigBudget - 1 })).reply j 6 0
      (bs ++ (Config.signReport bs ++ List.replicate 96 0).take 96 ++
        (if s.m.dev.sigBudget = 0 then [] else Config.hssSign (2 ^ 20 - s.m.dev.sigBudget) bs)) := by
    rw [Mach.attest, hrole]
    rfl
  exact ⟨bs, _, _, congrArg s.goes hattest, s.m.report_length .., take_padded_length .., s.m.report_nonce _ _ _ hnonce, s.m.report_time ..,
    s.m.report_zero .., s.m.report_left .., rfl, fun c hc hlen => s.m.report_digest _ _ _ hc hlen, fun c hc hsvn => s.m.report_svn _ _ _ hc hsvn⟩

theorem exec_haltlog_running {x : Nat} (hrole : s.m.role j.src = some x) (hhalt : s.m.halted = none) :
    exec (.haltlog j) s = s.goes (s.m.reply j 7 0 (leBytes 8 s.m.dev.bootst.toNat)) := by
  have hlog : s.m.haltlog j = s.m.reply j 7 0 (leBytes 8 s.m.dev.bootst.toNat) := by
    rw [Mach.haltlog, hrole, hhalt]
    exact congrArg (fun bs => s.m.reply j 7 0 bs) (List.append_nil _)
  exact congrArg s.goes hlog
theorem exec_haltlog_halted {x : Nat} (hrole : s.m.role j.src = some x) {h : HaltLog} (hhalt : s.m.halted = some h) :
    ∃ crs, exec (.haltlog j) s = s.goes (s.m.reply j 7 0 (leBytes 8 s.m.dev.bootst.toNat ++ h.record ++ crs)) ∧
      ∀ r, r < 576 → (crs.drop (8 * r)).take 8 = leBytes 8 (KMap.get 0 h.crs r).toNat := by
  have hlog : s.m.haltlog j = s.m.reply j 7 0 (leBytes 8 s.m.dev.bootst.toNat ++ h.record ++
      (List.range 576).flatMap (fun r => leBytes 8 (KMap.get 0 h.crs r).toNat)) := by
    rw [Mach.haltlog, hrole, hhalt, List.append_assoc]
    rfl
  refine ⟨_, congrArg s.goes hlog, fun r hr => ?_⟩
  rw [take_drop_flatMap _ (fun a _ => leBytes_length ..) (by simpa using hr), List.getElem_range]

theorem exec_security_dropped {nonce : List Byte} {i : Instr} (hrole : s.m.role j.src = none) (hi : i ∈ [Instr.attest j nonce, .haltlog j]) :
    exec i s = s.goes (s.m.modDev (fun d => { d with dropped := d.dropped + 1 })) := by
  simp only [List.mem_cons, List.not_mem_nil, or_false] at hi
  obtain rfl | rfl := hi
  · have hdrop : s.m.attest s.tb j nonce = s.m.dropJct := by rw [Mach.attest, hrole]
    exact congrArg s.goes hdrop
  · have hdrop : s.m.haltlog j = s.m.dropJct := by rw [Mach.haltlog, hrole]
    exact congrArg s.goes hdrop
end

/-! ## The verification of an image (27 R418) -/

theorem Mach.keyTrusted_iff (m : Mach) (key : List Byte) : m.keyTrusted key = true ↔
    ∃ i, i < Config.keySlots ∧ i ∉ m.dev.revoked ∧ Config.keyHash i = Config.sha384 key := by
  simp only [Mach.keyTrusted, List.any_eq_true, List.mem_range, Bool.and_eq_true, beq_iff_eq, Bool.not_eq_true', List.contains_eq_mem,
    decide_eq_false_iff_not]
  exact exists_congr fun i => and_congr_right fun _ => and_comm

theorem Mach.bootCode_eq_zero (m : Mach) (im : FwImage) : m.bootCode im = 0 ↔
    im.ecdsa.length = 96 ∧ Config.verifies im.key im.ecdsa (Config.sha384 (FwImage.header im)) = true ∧
    im.lms.length = 2668 ∧ Config.verifies im.key im.lms (FwImage.header im) = true ∧ KMap.get 0 m.dev.fuses im.cls ≤ im.svn ∧ im.svn ≤ 63 ∧
    (∃ i, i < Config.keySlots ∧ i ∉ m.dev.revoked ∧ Config.keyHash i = Config.sha384 im.key) ∧ Config.sha384 im.body = im.digest := by
  rw [← Mach.keyTrusted_iff]
  unfold Mach.bootCode
  split
  · next h =>
    simp only [Bool.or_eq_true, bne_iff_ne, Bool.not_eq_true'] at h
    simp only [Nat.one_ne_zero, false_iff]
    rintro ⟨hlen, hver, -⟩
    exact h.elim (fun h => h hlen) (fun h => by simp [hver] at h)
  next h1 =>
  split
  · next h =>
    simp only [Bool.or_eq_true, bne_iff_ne, Bool.not_eq_true'] at h
    simp only [OfNat.ofNat_ne_zero, false_iff]
    rintro ⟨-, -, hlen, hver, -⟩
    exact h.elim (fun h => h hlen) (fun h => by simp [hver] at h)
  next h2 =>
  split
  · next h =>
    simp only [Bool.or_eq_true, decide_eq_true_eq] at h
    simp only [OfNat.ofNat_ne_zero, false_iff]
    rintro ⟨-, -, -, -, hfuse, hmax, -⟩
    omega
  next h3 =>
  split
  · next h =>
    simp only [OfNat.ofNat_ne_zero, false_iff]
    rintro ⟨-, -, -, -, -, -, hkey, -⟩
    simp [hkey] at h
  next h4 =>
  split
  · next h =>
    simp only [OfNat.ofNat_ne_zero, false_iff]
    rintro ⟨-, -, -, -, -, -, -, hdigest⟩
    simp [hdigest] at h
  next h5 =>
  simp only [Bool.or_eq_true, bne_iff_ne, Bool.not_eq_true', decide_eq_true_eq, not_or, not_not, Bool.not_eq_false, not_lt] at h1 h2 h3 h4 h5
  exact iff_of_true rfl ⟨h1.1, h1.2, h2.1, h2.2, h3.2, h3.1, h4, h5⟩

theorem Mach.brokenDie_retired {m : Mach} {d : Nat} (h : m.brokenDie = some d) : 1 < (KMap.get [] m.dev.retired d).length  := by
  have hmore : decide (1 < (KMap.get [] m.dev.retired d).length) = true := List.find?_some (p := fun d => decide (1 < (KMap.get [] m.dev.retired d).length)) h
  exact of_decide_eq_true hmore

end Sys2Proof.Machine
end

section
/-! PROOFS. BOOT_VERIFICATION and DEVICE_RESET, and the statement of the security core (27 R418, R419, 20 R392). -/

namespace Sys2Proof.Machine

/-! ## What a reset keeps (27 R419, log 14) -/

section
variable (m : Mach) (now : Nat)

theorem Mach.resetAt_frame : (m.resetAt now).mem = m.mem ∧ (m.resetAt now).hands = [] ∧ (m.resetAt now).dies = [] ∧ (m.resetAt now).ctxs = [] ∧
    (m.resetAt now).parts = [] ∧ (m.resetAt now).halted = none ∧ (m.resetAt now).clusters = m.clustersReset now :=
  ⟨rfl, rfl, rfl, rfl, rfl, rfl, rfl⟩
theorem Mach.resetAt_dev : (m.resetAt now).dev.bootst = 0 ∧ (m.resetAt now).dev.tboff = 0 ∧ (m.resetAt now).dev.zones = m.zonesReset ∧
    (m.resetAt now).dev.fuses = m.dev.fuses ∧ (m.resetAt now).dev.sigBudget = m.dev.sigBudget := ⟨rfl, rfl, rfl, rfl, rfl⟩

/-- A zone as the reset finds it: WET with liquid, else DRY. -/
def Zone.afterReset (z : Zone) : Zone := { temp := z.temp, liq := z.liq, st := if z.liq then .wet else .dry }
theorem Mach.get_zonesReset (z : Nat) : KMap.get {} m.zonesReset z = (m.zone z).afterReset :=
  KMap.get_map_values {} Zone.afterReset rfl m.dev.zones z
theorem Zone.afterReset_wet (z : Zone) : (z.afterReset.st == .wet) = z.liq := by
  cases h : z.liq <;> simp [Zone.afterReset, h]

/-- A map that lists the keys of a list that a test leaves out. -/
theorem KMap.get_filterMap {α : Type} (d : α) (skip : Nat → Bool) (f : Nat → α) (l : List Nat) (k : Nat) :
    KMap.get d (l.filterMap (fun c => if skip c then none else some (c, f c))) k = if k ∈ l ∧ skip k = false then f k else d := by
  induction l with
  | nil => simp [KMap.get]
  | cons c l ih =>
    cases hskip : skip c with
    | true =>
      rw [List.filterMap_cons_none (by simp [hskip]), ih]
      have hiff : (k ∈ l ∧ skip k = false) ↔ (k ∈ c :: l ∧ skip k = false) := by
        refine and_congr_left fun hk => ?_
        rw [List.mem_cons]
        exact (or_iff_right fun h => by rw [h, hskip] at hk; cases hk).symm
      exact if_congr hiff rfl rfl
    | false =>
      rw [List.filterMap_cons_some (b := (c, f c)) (by simp [hskip]), KMap.get, ih]
      by_cases hck : c = k
      · subst hck
        rw [if_pos rfl, if_pos ⟨List.mem_cons_self, hskip⟩]
      · rw [if_neg hck]
        exact if_congr (and_congr_left fun _ => by rw [List.mem_cons]; exact (or_iff_right (Ne.symm hck)).symm) rfl rfl

theorem Mach.get_clustersReset {c : Nat} (hc : c < 72) : KMap.get {} (m.clustersReset now) c = if (m.zone (m.zoneOf c)).liq then {}
    else { bands := (List.range 4).map (fun b => (b, { st := .forced, since := now })) } := by
  have hmap : m.clustersReset now = (List.range 72).filterMap (fun c => if (m.zone (m.zoneOf c)).liq then none
      else some (c, { bands := (List.range 4).map (fun b => (b, { st := .forced, since := now })) })) := by
    unfold Mach.clustersReset
    refine List.filterMap_congr fun c _ => ?_
    rw [Mach.get_zonesReset, Zone.afterReset_wet]
  rw [hmap, KMap.get_filterMap]
  cases (m.zone (m.zoneOf c)).liq with
  | true => rw [if_neg (by simp), if_pos rfl]
  | false => rw [if_pos ⟨List.mem_range.2 hc, rfl⟩, if_neg Bool.false_ne_true]
end

/-! ## DEVICE_RESET -/

theorem exec_deviceReset_resets (s : State) : ∃ m : Mach, exec .deviceReset s = s.goes m ∧ m.mem = s.m.mem ∧ m.hands = [] ∧ m.dies = [] ∧ m.ctxs = [] ∧
    m.parts = [] ∧ m.halted = none ∧
    (∀ z, ((m.zone z).st = if (s.m.zone z).liq then .wet else .dry) ∧ (m.zone z).valve = 0) ∧
    (∀ c, c < 72 → m.cluster c = if (s.m.zone (s.m.zoneOf c)).liq then {}
      else { bands := (List.range 4).map (fun b => (b, { st := .forced, since := s.tb })) }) ∧
    m.dev.bootst = (if s.m.dev.bootst.toNat % 2 ^ 8 ≠ 0 then s.m.dev.bootst
      else match s.m.brokenDie with | none => 0 | some d => BitVec.ofNat 64 (6 + 256 * d)) ∧ m.dev.tboff = 0 ∧ m.dev.sigBudget = s.m.dev.sigBudget ∧ m.dev.fuses = s.m.dev.fuses := by
  set st := if bits s.m.dev.bootst 0 8 != 0 then s.m.dev.bootst else s.m.brokenDie.elim 0 (fun die => slotN (6 + 256 * die)) with hst
  have hst' : st = if s.m.dev.bootst.toNat % 2 ^ 8 ≠ 0 then s.m.dev.bootst
      else match s.m.brokenDie with | none => 0 | some d => BitVec.ofNat 64 (6 + 256 * d) := by
    have hcode : (bits s.m.dev.bootst 0 8 != 0) = true ↔ s.m.dev.bootst.toNat % 2 ^ 8 ≠ 0 := by
      rw [bne_iff_ne, ← bits_zero_toNat]
      exact not_congr (by rw [← BitVec.toNat_inj]; rfl)
    rw [hst]
    refine if_congr hcode rfl ?_
    cases s.m.brokenDie <;> rfl
  have hexec : exec .deviceReset s = s.goes ((s.m.resetAt s.tb).modDev (fun d => { d with bootst := st })) := rfl
  obtain ⟨hmem, hhands, hdies, hctxs, hparts, hhalted, hclusters⟩ := s.m.resetAt_frame s.tb
  obtain ⟨-, htboff, hzones, hfuses, hbudget⟩ := s.m.resetAt_dev s.tb
  refine ⟨_, hexec, hmem, hhands, hdies, hctxs, hparts, hhalted, fun z => ?_, fun c hc => ?_, hst', htboff, hbudget, hfuses⟩
  · have hzone : ((s.m.resetAt s.tb).modDev (fun d => { d with bootst := st })).zone z = (s.m.zone z).afterReset := by
      rw [Mach.zone, Mach.modDev_dev, hzones]
      exact s.m.get_zonesReset z
    rw [hzone]
    exact ⟨rfl, rfl⟩
  · rw [Mach.modDev_cluster_get, Mach.cluster, hclusters]
    exact s.m.get_clustersReset s.tb hc

/-! ## BOOT_VERIFICATION -/

/-- The device with an accepted image (27 R418). -/
def Dev.acceptImage (d : Dev) (im : FwImage) : Dev :=
  { d with fuses := d.fuses.set im.cls (max im.svn (KMap.get 0 d.fuses im.cls)), digests := d.digests.set im.cls im.digest,
           svns := d.svns.set im.cls im.svn }

theorem Dev.acceptImages_bootst (ims : List FwImage) (d : Dev) : (ims.foldl Dev.acceptImage d).bootst = d.bootst :=
  List.foldlRecOn (motive := fun t : Dev => t.bootst = d.bootst) _ _ rfl fun _ h _ _ => h

/-- A fuse counter is the largest of what it was and the versions of its class. -/
theorem Dev.acceptImages_fuses (ims : List FwImage) (d : Dev) (c v : Nat) : KMap.get 0 (ims.foldl Dev.acceptImage d).fuses c ≤ v ↔
    KMap.get 0 d.fuses c ≤ v ∧ ∀ im ∈ ims, im.cls = c → im.svn ≤ v := by
  induction ims generalizing d with
  | nil => simp
  | cons im ims ih =>
    rw [List.foldl_cons, ih, List.forall_mem_cons, ← and_assoc]
    refine and_congr_left fun _ => ?_
    rw [Dev.acceptImage, KMap.get_set]
    by_cases hc : c = im.cls
    · rw [if_pos hc, max_le_iff, hc]
      exact and_comm.trans (and_congr_right fun _ => ⟨fun h _ => h, fun h => h rfl⟩)
    · rw [if_neg hc]
      exact (and_iff_left fun h => absurd h.symm hc).symm

/-- The digest and the version of the one image of a class. -/
theorem Dev.acceptImages_only {im : FwImage} (ims : List FwImage) (d : Dev) (honly : ∀ x ∈ ims, x.cls = im.cls → x = im)
    (hin : im ∈ ims ∨ KMap.get [] d.digests im.cls = im.digest ∧ KMap.get 0 d.svns im.cls = im.svn) :
    KMap.get [] (ims.foldl Dev.acceptImage d).digests im.cls = im.digest ∧ KMap.get 0 (ims.foldl Dev.acceptImage d).svns im.cls = im.svn := by
  induction ims generalizing d with
  | nil => exact hin.resolve_left (List.not_mem_nil)
  | cons x ims ih =>
    obtain ⟨hx, hrest⟩ := List.forall_mem_cons.1 honly
    refine ih _ hrest ?_
    by_cases hcls : x.cls = im.cls
    · obtain rfl := hx hcls
      exact .inr ⟨KMap.get_set_same .., KMap.get_set_same ..⟩
    · rw [Dev.acceptImage, KMap.get_set_ne _ _ _ _ _ (Ne.symm hcls), KMap.get_set_ne _ _ _ _ _ (Ne.symm hcls)]
      refine hin.imp_left fun hmem => ?_
      exact (List.mem_cons.1 hmem).resolve_left fun h => hcls (congrArg FwImage.cls h.symm)

section
variable {s : State} {ims : List FwImage}

/-- A package whose boot ends with a code. -/
def Mach.bootFails (m : Mach) (now code : Nat) : Mach := (m.resetAt now).modDev (fun d => { d with bootst := slotN code })
/-- A code of a failure keeps the package in reset. -/
theorem Mach.stopped_of_code {t : Mach} {code cls : Nat} (hcode : 0 < code) (hlt : code < 256)
    (ht : t.dev.bootst = slotN (code + 256 * cls)) : t.dev.bootst = BitVec.ofNat 64 (code + 256 * cls) ∧ t.stopped = true := by
  refine ⟨ht, ?_⟩
  have hlow : (bits t.dev.bootst 0 8).toNat = code := by
    rw [bits_zero_toNat, ht, slotN, BitVec.toNat_ofNat]
    omega
  have hne : (bits t.dev.bootst 0 8 != 0) = true := bne_iff_ne.2 fun h => by
    rw [h] at hlow
    exact absurd hlow.symm hcode.ne'
  rw [Mach.stopped, hne, Bool.or_true]

theorem Mach.bootCode_lt (m : Mach) (im : FwImage) : m.bootCode im < 256 := by
  unfold Mach.bootCode
  split_ifs <;> decide

theorem exec_boot_failed {im : FwImage} (hfind : ims.find? (fun im => s.m.bootCode im != 0) = some im) :
    exec (.bootVerification ims) s = s.goes (s.m.bootFails s.tb (s.m.bootCode im + 256 * (im.cls % 256))) := by
  have hexec : exec (.bootVerification ims) s = execBootVerification ims s := rfl
  rw [hexec, execBootVerification, runEvent]
  dsimp only
  rw [hfind]
  rfl
theorem exec_boot_lacking {c : Nat} (hfind : ims.find? (fun im => s.m.bootCode im != 0) = none) (hlack : classLacking ims = some c) :
    exec (.bootVerification ims) s = s.goes (s.m.bootFails s.tb (1 + 256 * c)) := by
  have hexec : exec (.bootVerification ims) s = execBootVerification ims s := rfl
  rw [hexec, execBootVerification, runEvent]
  dsimp only
  rw [hfind, hlack]
  rfl
theorem exec_boot_accepted (hfind : ims.find? (fun im => s.m.bootCode im != 0) = none) (hlack : classLacking ims = none) :
    exec (.bootVerification ims) s = s.goes ((s.m.resetAt s.tb).modDev (fun d =>
      match s.m.brokenDie with
      | some die => { ims.foldl Dev.acceptImage d with bootst := slotN (6 + 256 * die) }
      | none => ims.foldl Dev.acceptImage d)) := by
  have hexec : exec (.bootVerification ims) s = execBootVerification ims s := rfl
  rw [hexec, execBootVerification, runEvent]
  dsimp only
  rw [hfind, hlack]
  cases s.m.brokenDie <;> rfl
end

/-- Of the classes below three the first that no image has. -/
theorem classLacking_eq_none {ims : List FwImage} : classLacking ims = none ↔ ∀ c, c < 3 → ∃ im ∈ ims, im.cls = c := by
  simp [classLacking, List.find?_eq_none]
theorem classLacking_eq_some {ims : List FwImage} {c : Nat} (hc : c < 3) (hlack : ∀ im ∈ ims, im.cls ≠ c)
    (hfirst : ∀ b, b < c → ∃ im ∈ ims, im.cls = b) : classLacking ims = some c := by
  have hat : (!ims.any (fun im => im.cls == c)) = true := by simpa using hlack
  have hbelow : ∀ b, b < c → (!ims.any (fun im => im.cls == b)) = false := fun b hb => by simpa using hfirst b hb
  exact List.find?_range_eq_some.2 ⟨hat, List.mem_range.2 hc, fun b hb => by rw [hbelow b hb]; rfl⟩

section
variable {s : State} {ims : List FwImage}

theorem find?_first_bad {a b : List FwImage} {im : FwImage} (hims : ims = a ++ im :: b) (ha : ∀ x ∈ a, s.m.bootCode x = 0)
    (him : s.m.bootCode im ≠ 0) : ims.find? (fun im => s.m.bootCode im != 0) = some im := by
  have hnone : a.find? (fun im => s.m.bootCode im != 0) = none := List.find?_eq_none.2 fun x hx => by simp [ha x hx]
  rw [hims, List.find?_append, hnone, Option.none_or, List.find?_cons_of_pos (p := fun im => s.m.bootCode im != 0) (bne_iff_ne.2 him)]
theorem find?_none_bad (hall : ∀ im ∈ ims, s.m.bootCode im = 0) : ims.find? (fun im => s.m.bootCode im != 0) = none :=
  List.find?_eq_none.2 fun x hx => by simp [hall x hx]

/-- What a boot whose images are accepted leaves of the device. -/
theorem exec_boot_accepts (hall : ∀ im ∈ ims, s.m.bootCode im = 0) (hclasses : ∀ c, c < 3 → ∃ im ∈ ims, im.cls = c) :
    ∃ m : Mach, exec (.bootVerification ims) s = s.goes m ∧ m.mem = s.m.mem ∧ m.hands = [] ∧
      (s.m.brokenDie = none → m.dev.bootst = 0) ∧
      (∀ d, s.m.brokenDie = some d → m.dev.bootst = BitVec.ofNat 64 (6 + 256 * d) ∧ m.stopped = true) ∧
      (∀ c v, KMap.get 0 m.dev.fuses c ≤ v ↔ KMap.get 0 s.m.dev.fuses c ≤ v ∧ ∀ im ∈ ims, im.cls = c → im.svn ≤ v) ∧
      ∀ im ∈ ims, (∀ x ∈ ims, x.cls = im.cls → x = im) → KMap.get [] m.dev.digests im.cls = im.digest ∧ KMap.get 0 m.dev.svns im.cls = im.svn := by
  obtain ⟨hmem, hhands, -⟩ := s.m.resetAt_frame s.tb
  obtain ⟨hbootst, -, -, hfuses, -⟩ := s.m.resetAt_dev s.tb
  have hfuse (c v : Nat) : KMap.get 0 (ims.foldl Dev.acceptImage (s.m.resetAt s.tb).dev).fuses c ≤ v ↔
      KMap.get 0 s.m.dev.fuses c ≤ v ∧ ∀ im ∈ ims, im.cls = c → im.svn ≤ v := by
    rw [Dev.acceptImages_fuses, hfuses]
  have honly (im : FwImage) (him : im ∈ ims) (h : ∀ x ∈ ims, x.cls = im.cls → x = im) := Dev.acceptImages_only ims (s.m.resetAt s.tb).dev h (.inl him)
  refine ⟨_, exec_boot_accepted (find?_none_bad hall) (classLacking_eq_none.2 hclasses), hmem, hhands, ?_⟩
  rw [Mach.modDev_dev]
  cases hdie : s.m.brokenDie with
  | none => exact ⟨fun _ => (Dev.acceptImages_bootst ims _).trans hbootst, fun d hd => absurd hd (by simp), hfuse, honly⟩
  | some die =>
    refine ⟨fun h => absurd h (by simp), fun d hd => ?_, hfuse, honly⟩
    obtain rfl := Option.some.inj hd
    exact Mach.stopped_of_code (t := (s.m.resetAt s.tb).modDev (fun d => { ims.foldl Dev.acceptImage d with bootst := slotN (6 + 256 * die) }))
      (code := 6) (by decide) (by decide) rfl

theorem exec_boot_holds (s : State) (ims : List FwImage) : ∃ m : Mach, exec (.bootVerification ims) s = s.goes m ∧ m.mem = s.m.mem ∧ m.hands = [] ∧
    (∀ a im b, ims = a ++ im :: b → (∀ x ∈ a, s.m.bootCode x = 0) → s.m.bootCode im ≠ 0 → im.cls < 256 →
      m.dev.bootst = BitVec.ofNat 64 (s.m.bootCode im + 256 * im.cls) ∧ m.stopped = true ∧ m.dev.fuses = s.m.dev.fuses) ∧
    ((∀ im ∈ ims, s.m.bootCode im = 0) →
      (∀ c, c < 3 → (∀ im ∈ ims, im.cls ≠ c) → (∀ b, b < c → ∃ im ∈ ims, im.cls = b) →
        m.dev.bootst = BitVec.ofNat 64 (1 + 256 * c) ∧ m.stopped = true ∧ m.dev.fuses = s.m.dev.fuses) ∧
      ((∀ c, c < 3 → ∃ im ∈ ims, im.cls = c) →
        (s.m.brokenDie = none → m.dev.bootst = 0) ∧
        (∀ d, s.m.brokenDie = some d → m.dev.bootst = BitVec.ofNat 64 (6 + 256 * d) ∧ m.stopped = true) ∧
        (∀ c v, KMap.get 0 m.dev.fuses c ≤ v ↔ KMap.get 0 s.m.dev.fuses c ≤ v ∧ ∀ im ∈ ims, im.cls = c → im.svn ≤ v) ∧
        ∀ im ∈ ims, (∀ x ∈ ims, x.cls = im.cls → x = im) → KMap.get [] m.dev.digests im.cls = im.digest ∧ KMap.get 0 m.dev.svns im.cls = im.svn)) := by
  obtain ⟨hmem, hhands, -⟩ := s.m.resetAt_frame s.tb
  obtain ⟨-, -, -, hfuses, -⟩ := s.m.resetAt_dev s.tb
  cases hfind : ims.find? (fun im => s.m.bootCode im != 0) with
  | some bad =>
    have hbad : s.m.bootCode bad ≠ 0 := by simpa using List.find?_some hfind
    refine ⟨_, exec_boot_failed hfind, hmem, hhands, fun a im b hims ha him hcls => ?_, fun hall => ?_⟩
    · obtain rfl : im = bad := Option.some.inj ((find?_first_bad hims ha him).symm.trans hfind)
      rw [Nat.mod_eq_of_lt hcls]
      obtain ⟨hcode, hstop⟩ := Mach.stopped_of_code (t := s.m.bootFails s.tb (s.m.bootCode im + 256 * im.cls)) (Nat.pos_of_ne_zero him)
        (s.m.bootCode_lt im) rfl
      exact ⟨hcode, hstop, hfuses⟩
    · exact absurd (hall bad (List.mem_of_find?_eq_some hfind)) hbad
  | none =>
    have hall : ∀ im ∈ ims, s.m.bootCode im = 0 := fun im him => by simpa using List.find?_eq_none.1 hfind im him
    have hno (a b : List FwImage) (im : FwImage) (hims : ims = a ++ im :: b) (him : s.m.bootCode im ≠ 0) : False :=
      him (hall im (by rw [hims]; simp))
    cases hlack : classLacking ims with
    | some c' =>
      refine ⟨_, exec_boot_lacking hfind hlack, hmem, hhands, fun a im b hims _ him => (hno a b im hims him).elim, fun _ => ⟨?_, fun hclasses => ?_⟩⟩
      · intro c hc hnone hfirst
        obtain rfl : c = c' := Option.some.inj ((classLacking_eq_some hc hnone hfirst).symm.trans hlack)
        obtain ⟨hcode, hstop⟩ := Mach.stopped_of_code (t := s.m.bootFails s.tb (1 + 256 * c)) (code := 1) (by decide) (by decide) rfl
        exact ⟨hcode, hstop, hfuses⟩
      · exact absurd ((classLacking_eq_none.2 hclasses).symm.trans hlack) (by simp)
    | none =>
      obtain ⟨m, hexec, hmem, hhands, hboot⟩ := exec_boot_accepts hall (classLacking_eq_none.1 hlack)
      refine ⟨m, hexec, hmem, hhands, fun a im b hims _ him => (hno a b im hims him).elim, fun _ => ⟨fun c hc hnone _ => ?_, fun _ => hboot⟩⟩
      obtain ⟨im, him, hcls⟩ := classLacking_eq_none.1 hlack c hc
      exact absurd hcls (hnone im him)
end

/-- Settles O49: an image is accepted just where each of its checks passes, and a boot goes on only where every image is. -/
theorem securityCore : Obligations.SecurityCore :=
  ⟨fun _ _ _ _ hrole hnonce => exec_attest_reports hrole hnonce,
    fun _ _ _ hrole => ⟨exec_haltlog_running hrole, fun _ hhalt => exec_haltlog_halted hrole hhalt⟩,
    fun _ _ _ _ hrole hi => exec_security_dropped hrole hi, exec_boot_holds, Mach.bootCode_eq_zero, fun _ _ => Mach.brokenDie_retired,
    exec_deviceReset_resets⟩

end Sys2Proof.Machine
end

section
/-! PROOFS. Rows of other devices at their receiver: behind a parked one, written at their banks, parked or refused (15 R287 to R290). -/

namespace Sys2Proof.Machine

/-! ## A device that neither records nor replays (21 R396) -/

section
variable {m : Mach} (hmode : ∀ q, (m.part q).rpMode = 0)
include hmode

theorem Mach.mayArriveAll_of_mode_zero (l : List Arrival) : m.mayArriveAll l = true := by
  refine List.all_eq_true.2 fun a _ => ?_
  simp [Mach.mayArrive, hmode]
theorem Mach.noteArrivals_of_mode_zero (now : Nat) (l : List Arrival) : m.noteArrivals now l = m := by
  have hnote (a : Arrival) : m.noteArrival now a = m := by simp [Mach.noteArrival, hmode]
  induction l with
  | nil => rfl
  | cons a l ih => rw [Mach.noteArrivals, List.foldl_cons, hnote]; exact ih
theorem Mach.rowLate_of_mode_zero (row : RemoteRow) (who iseq : Nat) : m.rowLate row who iseq = false := by
  rw [Mach.rowLate, Mach.mayArriveAll_of_mode_zero hmode]; rfl
theorem Mach.outsideFault_of_mode_zero (r : Nat) (f : FaultRec) : m.outsideFault r f = m.recordFault r f :=
  Mach.outsideFault_live (by rw [hmode]; decide)
end

/-! ## Where a row lands -/

section
variable {m : Mach} {now : Nat} {row : RemoteRow} {who iseq : Nat}

theorem Mach.useBanks_nil (m : Mach) (now : Nat) : m.useBanks now (banksOf []) = m := rfl
theorem Mach.banksBusy_nil (m : Mach) (now : Nat) : m.banksBusy now (banksOf []) = false := Bool.and_false _

theorem Mach.useBanks_eq (m : Mach) (now : Nat) (bs : List Nat) : ∃ t us, m.useBanks now bs = { m with bankT := t, bankUse := us } := by
  unfold Mach.useBanks
  split <;> exact ⟨_, _, rfl⟩

/-- Bytes written over row pieces give the same memory in machines that differ elsewhere. -/
theorem Mach.writeSpan_mem_congr {m m' : Mach} (h : m.mem = m'.mem) (l : List (Nat × Nat)) (bs : List Byte) :
    (m.writeSpan l bs).mem = (m'.writeSpan l bs).mem := by
  induction l generalizing m m' bs with
  | nil => exact h
  | cons p l ih => exact ih (m := m.poke p.1 (bs.take p.2)) (m' := m'.poke p.1 (bs.take p.2)) (congrArg (fun x : Memory => x.writeN p.1 (bs.take p.2)) h) _

theorem Mach.landKeys_of_behind (h : m.rowBehind row = true) : m.landKeys row = [] := if_pos h
theorem Mach.landKeys_of_span {l : List (Nat × Nat)} (h : m.rowBehind row = false)
    (hspan : m.span row.ctx row.addr row.data.length true true = .ok l) : m.landKeys row = l.map (·.1) := by
  simp [Mach.landKeys, h, Mach.rowKeys, hspan]
theorem Mach.landKeys_of_fault {f : FaultRec} (h : m.rowBehind row = false)
    (hspan : m.span row.ctx row.addr row.data.length true true = .error f) : m.landKeys row = [] := by
  simp [Mach.landKeys, h, Mach.rowKeys, hspan]

/-- A row of no collective is counted at none. -/
theorem Mach.countRow_of_kind (h : row.kind = 1) (lost : Bool) : m.countRow now row lost = m := if_pos (by rw [h]; rfl)
theorem Mach.rowRefused_of_kind (h : row.kind = 1) : m.rowRefused now row = m := if_pos (by rw [h]; rfl)

/-! ## Landed, parked or refused -/

/-- A row put into a slot of the park area. -/
def Mach.inSlot (m : Mach) (now : Nat) (row : RemoteRow) (f : FaultRec) (behind : Bool) (n : Nat) : Mach :=
  let p := (m.ctx row.ctx).part
  ((m.modPart p (fun y => { y with parked := y.parked ++ [⟨n, row, behind⟩] })).pokePhys
    ((m.part p).parkAt n).1 (parkHeader now row f)).pokePhys ((m.part p).parkAt n).2 row.data

theorem Mach.landRow_of_behind {n : Nat} (h : m.rowBehind row = true) (hfree : (m.part (m.ctx row.ctx).part).freeSlot = some n) :
    m.landRow now row who iseq = (m.inSlot now row ⟨0, 0, []⟩ true n, 1) := by
  simp only [Mach.landRow, h, if_true, Mach.parkRow, hfree]
  rfl
theorem Mach.landRow_of_span (hmode : ∀ q, (m.part q).rpMode = 0) (hkind : row.kind = 1) {l : List (Nat × Nat)}
    (h : m.rowBehind row = false) (hspan : m.span row.ctx row.addr row.data.length true true = .ok l) :
    m.landRow now row who iseq = (m.writeSpan l row.data, 0) := by
  simp only [Mach.landRow, h, hspan, Mach.noteArrivals_of_mode_zero hmode, Mach.countRow_of_kind hkind]
  rfl
theorem Mach.landRow_refused (hkind : row.kind = 1) {f : FaultRec} (h : m.rowBehind row = false)
    (hspan : m.span row.ctx row.addr row.data.length true true = .error f) (hfree : (m.part (m.ctx row.ctx).part).freeSlot = none) :
    m.landRow now row who iseq = (m.modPart (m.ctx row.ctx).part (fun y => { y with refused := y.refused + 1 }), 2) := by
  simp only [Mach.landRow, h, hspan, Mach.parkRow, hfree, if_pos hkind, Mach.rowRefused_of_kind hkind]
  rfl
theorem Mach.landRow_parked {f : FaultRec} {n : Nat} (h : m.rowBehind row = false)
    (hspan : m.span row.ctx row.addr row.data.length true true = .error f) (hfree : (m.part (m.ctx row.ctx).part).freeSlot = some n) :
    m.landRow now row who iseq =
      ((m.inSlot now row f false n).noteParked ((m.inSlot now row f false n).rowCluster row) row.ctx n, 1) := by
  simp only [Mach.landRow, h, hspan, Mach.parkRow, hfree]
  rfl

/-! ## The row-parked fault -/

/-- A fault of a context for a cluster leaves memory and the partitions as they are. -/
theorem Mach.homeFault_frame {m : Mach} (hmode : ∀ q, (m.part q).rpMode = 0) (k c : Nat) (f : FaultRec) :
    (m.homeFault k c f).mem = m.mem ∧ (m.homeFault k c f).parts = m.parts := by
  unfold Mach.homeFault
  split
  · rw [Mach.noteFault, Mach.outsideFault_of_mode_zero hmode]
    split <;> exact ⟨rfl, rfl⟩
  · exact ⟨rfl, rfl⟩
theorem Mach.part_congr {m m' : Mach} (h : m.parts = m'.parts) (q : Nat) : m.part q = m'.part q := by rw [Mach.part, h, Mach.part]
/-- Row-parked changes nothing of memory, and of the partitions the count of refused rows that it reports. -/
theorem Mach.noteParked_frame {m : Mach} (hmode : ∀ q, (m.part q).rpMode = 0) (c k n : Nat) :
    (m.noteParked c k n).mem = m.mem ∧
      (m.noteParked c k n).parts = (m.modPart (m.ctx k).part (fun x => { x with refused := 0 })).parts := by
  have hmode1 (q : Nat) : ((m.modPart (m.ctx k).part (fun x => { x with refused := 0 })).part q).rpMode = 0 := by
    rw [Mach.modPart_part_get]
    split <;> exact hmode _
  obtain ⟨hmem, hparts⟩ := Mach.homeFault_frame hmode1 k c ⟨0x15, 0, [slotN n, slotN (m.part (m.ctx k).part).refused]⟩
  unfold Mach.noteParked
  dsimp only
  generalize Mach.homeFault _ k c _ = m2 at hmem hparts ⊢
  have hmode2 (q : Nat) : (m2.part q).rpMode = 0 := by rw [Mach.part_congr hparts]; exact hmode1 q
  split
  · exact ⟨hmem, hparts⟩
  · split
    · exact ⟨hmem, hparts⟩
    · rw [Mach.outsideFault_of_mode_zero hmode2]
      exact ⟨hmem, hparts⟩

/-- Bytes written at a physical address leave the partitions as they are. -/
theorem Mach.pokePhys_parts (m : Mach) (pa : Nat) (bs : List Byte) : (m.pokePhys pa bs).parts = m.parts := by
  unfold Mach.pokePhys
  split <;> rfl
theorem Mach.pokePhys_ctxs (m : Mach) (pa : Nat) (bs : List Byte) : (m.pokePhys pa bs).ctxs = m.ctxs := by
  unfold Mach.pokePhys
  split <;> rfl
/-- What is written at a physical address depends on memory and on what lies there alone. -/
theorem Mach.pokePhys_mem_congr {m m' : Mach} (hmem : m.mem = m'.mem) (hdev : m.dev = m'.dev) (pa : Nat) (bs : List Byte) :
    (m.pokePhys pa bs).mem = (m'.pokePhys pa bs).mem := by
  have hkind : m.physKind pa = m'.physKind pa := by unfold Mach.physKind; rw [hdev]
  unfold Mach.pokePhys
  rw [hkind]
  split
  · exact congrArg (fun x : Memory => x.writeN pa bs) hmem
  · exact hmem
theorem Mach.pokePhys_dev (m : Mach) (pa : Nat) (bs : List Byte) : (m.pokePhys pa bs).dev = m.dev := by
  unfold Mach.pokePhys
  split <;> rfl
theorem Mach.pokePhys_twice_mem_congr {m m' : Mach} (hmem : m.mem = m'.mem) (hdev : m.dev = m'.dev) (pa pb : Nat) (bs cs : List Byte) :
    ((m.pokePhys pa bs).pokePhys pb cs).mem = ((m'.pokePhys pa bs).pokePhys pb cs).mem :=
  Mach.pokePhys_mem_congr (Mach.pokePhys_mem_congr hmem hdev pa bs) (by rw [Mach.pokePhys_dev, Mach.pokePhys_dev, hdev]) pb cs
theorem Mach.inSlot_mem (m : Mach) (now : Nat) (row : RemoteRow) (f : FaultRec) (behind : Bool) (n : Nat) :
    (m.inSlot now row f behind n).mem = ((m.pokePhys ((m.part (m.ctx row.ctx).part).parkAt n).1 (parkHeader now row f)).pokePhys
      ((m.part (m.ctx row.ctx).part).parkAt n).2 row.data).mem := by
  unfold Mach.inSlot
  dsimp only
  generalize ((m.part (m.ctx row.ctx).part).parkAt n).1 = pa
  generalize ((m.part (m.ctx row.ctx).part).parkAt n).2 = pb
  generalize parkHeader now row f = bs
  refine Mach.pokePhys_twice_mem_congr ?_ ?_ pa pb bs row.data
  · exact Mach.modPart_mem ..
  · exact Mach.modPart_dev ..
end

/-! ## A row arrives -/

section
variable {s : State} {row : RemoteRow}

theorem remoteRowArrival_next : exec (.remoteRowArrival row) s = s.goes
    (if s.m.rowLate row 65535 0 || s.m.banksBusy s.tb (banksOf (s.m.landKeys row)) then
      ({ s.m with rowsIn := s.m.rowsIn ++ [(s.m.nextId, row)] }.bump).waitAtBank s.tb (.meshFlitAdvance s.m.nextId)
    else ((s.m.useBanks s.tb (banksOf (s.m.landKeys row))).landRow s.tb row 65535 0).1) := rfl

variable (hmode : ∀ q, (s.m.part q).rpMode = 0)
include hmode

theorem remoteRowArrival_of_free (h : s.m.banksBusy s.tb (banksOf (s.m.landKeys row)) = false) :
    exec (.remoteRowArrival row) s = s.goes ((s.m.useBanks s.tb (banksOf (s.m.landKeys row))).landRow s.tb row 65535 0).1 := by
  rw [remoteRowArrival_next, Mach.rowLate_of_mode_zero hmode, h]
  rfl
theorem remoteRowArrival_of_busy (h : s.m.banksBusy s.tb (banksOf (s.m.landKeys row)) = true) :
    exec (.remoteRowArrival row) s = s.goes
      (({ s.m with rowsIn := s.m.rowsIn ++ [(s.m.nextId, row)] }.bump).waitAtBank s.tb (.meshFlitAdvance s.m.nextId)) := by
  rw [remoteRowArrival_next, Mach.rowLate_of_mode_zero hmode, h]
  rfl
/-- A row that is written at no bank needs none. -/
theorem remoteRowArrival_of_nil (h : s.m.landKeys row = []) :
    exec (.remoteRowArrival row) s = s.goes (s.m.landRow s.tb row 65535 0).1 := by
  rw [remoteRowArrival_of_free hmode (by rw [h]; exact s.m.banksBusy_nil s.tb), h, Mach.useBanks_nil]

/-- A row behind a parked one of its stream is parked too. -/
theorem remoteRowArrival_behind {n : Nat} (hb : s.m.rowBehind row = true)
    (hfree : (s.m.part (s.m.ctx row.ctx).part).freeSlot = some n) :
    exec (.remoteRowArrival row) s = s.goes (s.m.inSlot s.tb row ⟨0, 0, []⟩ true n) := by
  rw [remoteRowArrival_of_nil hmode (Mach.landKeys_of_behind hb), Mach.landRow_of_behind hb hfree]

section
variable (hb : s.m.rowBehind row = false)
include hb

/-- A row that translates is written at its banks. -/
theorem remoteRowArrival_landed (hkind : row.kind = 1) {l : List (Nat × Nat)} (hspan : s.m.span row.ctx row.addr row.data.length true true = .ok l)
    (hfree : s.m.banksBusy s.tb (banksOf (l.map (·.1))) = false) :
    exec (.remoteRowArrival row) s = s.goes ((s.m.useBanks s.tb (banksOf (l.map (·.1)))).writeSpan l row.data) := by
  rw [← Mach.landKeys_of_span hb hspan] at hfree ⊢
  rw [remoteRowArrival_of_free hmode hfree]
  obtain ⟨t, us, huse⟩ := s.m.useBanks_eq s.tb (banksOf (s.m.landKeys row))
  rw [huse]
  have hmap : Mach.SameMap { s.m with bankT := t, bankUse := us } s.m := ⟨rfl, rfl, rfl, rfl⟩
  rw [Mach.landRow_of_span (m := { s.m with bankT := t, bankUse := us }) hmode hkind hb ((hmap.span ..).trans hspan)]
theorem meshFlitAdvance_busy {l : List (Nat × Nat)} {id : Nat} (hspan : s.m.span row.ctx row.addr row.data.length true true = .ok l)
    (hin : s.m.rowsIn.find? (fun q => q.1 == id) = some (id, row)) (hbusy : s.m.banksBusy s.tb (banksOf (l.map (·.1))) = true) :
    exec (.meshFlitAdvance id) s = s.goes (s.m.waitAtBank s.tb (.meshFlitAdvance id)) := by
  have hexec : exec (.meshFlitAdvance id) s = execMeshFlitAdvance id s := rfl
  rw [← Mach.landKeys_of_span hb hspan] at hbusy
  rw [hexec, execMeshFlitAdvance, runEvent, hin]
  dsimp only
  rw [Mach.rowLate_of_mode_zero hmode, Mach.atBanks_of_busy hbusy]
/-- A row of the mesh that translates is written once its banks take it, and has then left the mesh. -/
theorem meshFlitAdvance_landed (hkind : row.kind = 1) {l : List (Nat × Nat)} {id : Nat} (hspan : s.m.span row.ctx row.addr row.data.length true true = .ok l)
    (hin : s.m.rowsIn.find? (fun q => q.1 == id) = some (id, row)) (hfree : s.m.banksBusy s.tb (banksOf (l.map (·.1))) = false) :
    ∃ m, exec (.meshFlitAdvance id) s = s.goes m ∧ m.mem = (s.m.writeSpan l row.data).mem ∧
      m.rowsIn = s.m.rowsIn.filter (fun q => q.1 != id) ∧ m.hands = s.m.hands := by
  have hexec : exec (.meshFlitAdvance id) s = execMeshFlitAdvance id s := rfl
  rw [hexec, execMeshFlitAdvance, runEvent, hin]
  rw [← Mach.landKeys_of_span hb hspan] at hfree
  dsimp only
  rw [Mach.rowLate_of_mode_zero hmode, Mach.atBanks_of_free hfree]
  obtain ⟨t, us, q, hserved⟩ := s.m.served_eq s.tb (.meshFlitAdvance id) (s.m.landKeys row)
  rw [hserved]
  let m1 : Mach := { s.m with bankT := t, bankUse := us, bankQ := q, rowsIn := s.m.rowsIn.filter (fun q => q.1 != id) }
  have hmap : Mach.SameMap m1 s.m := ⟨rfl, rfl, rfl, rfl⟩
  have hland : m1.landRow s.tb row 65535 0 = (m1.writeSpan l row.data, 0) :=
    Mach.landRow_of_span (m := m1) hmode hkind hb ((hmap.span ..).trans hspan)
  refine ⟨_, congrArg (fun p : Mach × Nat => s.goes p.1) hland, ?_, ?_, ?_⟩
  · exact Mach.writeSpan_mem_congr hmap.mem l row.data
  · obtain ⟨mem, h⟩ := m1.writeSpan_eq l row.data
    rw [h]
  · obtain ⟨mem, h⟩ := m1.writeSpan_eq l row.data
    rw [h]

/-- A row that does not translate is refused and counted with no slot free. -/
theorem remoteRowArrival_refused (hkind : row.kind = 1) {f : FaultRec}
    (hspan : s.m.span row.ctx row.addr row.data.length true true = .error f)
    (hslot : (s.m.part (s.m.ctx row.ctx).part).freeSlot = none) :
    exec (.remoteRowArrival row) s = s.goes (s.m.modPart (s.m.ctx row.ctx).part (fun y => { y with refused := y.refused + 1 })) := by
  rw [remoteRowArrival_of_nil hmode (Mach.landKeys_of_fault hb hspan), Mach.landRow_refused hkind hb hspan hslot]
/-- A row that does not translate is parked in the lowest free slot. -/
theorem remoteRowArrival_parked {f : FaultRec} {n : Nat} (hspan : s.m.span row.ctx row.addr row.data.length true true = .error f)
    (hslot : (s.m.part (s.m.ctx row.ctx).part).freeSlot = some n) :
    ∃ m, exec (.remoteRowArrival row) s = s.goes m ∧
      (m.part (s.m.ctx row.ctx).part).parked = (s.m.part (s.m.ctx row.ctx).part).parked ++ [⟨n, row, false⟩] ∧
      (m.part (s.m.ctx row.ctx).part).refused = 0 ∧
      m.mem = ((s.m.pokePhys ((s.m.part (s.m.ctx row.ctx).part).parkAt n).1 (parkHeader s.tb row f)).pokePhys
        ((s.m.part (s.m.ctx row.ctx).part).parkAt n).2 row.data).mem := by
  rw [remoteRowArrival_of_nil hmode (Mach.landKeys_of_fault hb hspan), Mach.landRow_parked hb hspan hslot]
  generalize hp : (s.m.ctx row.ctx).part = p
  have hparts : (s.m.inSlot s.tb row f false n).parts =
      (s.m.modPart p (fun y => { y with parked := y.parked ++ [⟨n, row, false⟩] })).parts := by
    rw [Mach.inSlot, Mach.pokePhys_parts, Mach.pokePhys_parts, hp]
  have hpart (q : Nat) : (s.m.inSlot s.tb row f false n).part q =
      (s.m.modPart p (fun y => { y with parked := y.parked ++ [⟨n, row, false⟩] })).part q := Mach.part_congr hparts q
  have hctx : ((s.m.inSlot s.tb row f false n).ctx row.ctx).part = p := by
    rw [← hp, Mach.ctx, Mach.inSlot, Mach.pokePhys_ctxs, Mach.pokePhys_ctxs]
    rfl
  have hmode1 (q : Nat) : ((s.m.inSlot s.tb row f false n).part q).rpMode = 0 := by
    rw [hpart, Mach.modPart_part_get]
    split <;> exact hmode _
  obtain ⟨hmem, hlast⟩ := Mach.noteParked_frame hmode1 ((s.m.inSlot s.tb row f false n).rowCluster row) row.ctx n
  rw [hctx] at hlast
  refine ⟨_, rfl, ?_, ?_, hmem.trans ?_⟩
  · rw [Mach.part_congr hlast, Mach.modPart_part_get, if_pos rfl, hpart, Mach.modPart_part_get, if_pos rfl]
  · rw [Mach.part_congr hlast, Mach.modPart_part_get, if_pos rfl]
  · rw [Mach.inSlot_mem, hp]
end
end

end Sys2Proof.Machine
end

section
/-! PROOFS. Parked rows replayed and discarded, reads of other devices, and what peers answer (15 R285, R286, R290, R298, R300). -/

namespace Sys2Proof.Machine

/-! ## Parked rows (15 R290) -/

/-- The two registers of a partition's parked rows act from ring 1 on. -/
theorem Mach.regEvent_park {m : Mach} {now r n : Nat} {v : W64} (hn : n = 0x075 ∨ n = 0x076) (hring : 1 ≤ (m.hand r).ring) :
    m.regEvent now r n v = m.cregWrite now (m.who r) n v := by
  rcases hn with rfl | rfl <;> exact if_neg (Nat.not_lt.2 hring)

@[simp] theorem Mach.bytes_length (m : Mach) (k n : Nat) : (m.bytes k n).length = n := by simp [Mach.bytes, Memory.readN]

section
variable {m : Mach} {now p : Nat} {q : Parked} (hparked : (m.part p).parked = [q])
include hparked

/-- Behind the only parked row there is none. -/
theorem Mach.rowsBehind_of_one (n : Nat) (row : RemoteRow) : m.rowsBehind p n row = [] := by
  simp only [Mach.rowsBehind, hparked, List.filter_cons, List.filter_nil]
  split <;> simp [List.dropWhile_cons, apply_ite (List.drop 1)]
/-- The slot of the only parked row freed. -/
theorem Mach.freePark_of_one :
    m.freePark p q.slot = (m.modPart p (fun y => { y with parked := [] })).pokePhys (((m.part p).parkAt q.slot).1 + 22) [0] := by
  have hpart : { m.part p with parked := (m.part p).parked.filter (fun z => z.slot != q.slot) } = { m.part p with parked := [] } := by
    rw [hparked]; simp
  exact congrArg (fun x => (m.setPart p x).pokePhys (((m.part p).parkAt q.slot).1 + 22) [0]) hpart

section
variable (hkind : q.row.kind = 1) (hbehind : q.behind = false)
include hkind hbehind

theorem Mach.parkReplay_of_one {l : List (Nat × Nat)} (hspan : m.span q.row.ctx q.row.addr q.row.data.length true true = .ok l) :
    m.parkReplay now p q.slot = (m.writeSpan l (m.bytes ((m.part p).parkAt q.slot).2 q.row.data.length)).freePark p q.slot := by
  have hfind : (m.part p).parked.find? (fun z => z.slot == q.slot) = some q := by simp [hparked]
  simp only [Mach.parkReplay, hfind, hbehind, Mach.bytes_length, hspan, Mach.countRow_of_kind hkind, Mach.rowsBehind_of_one hparked]
  rfl
theorem Mach.parkDiscard_of_one : m.parkDiscard now p q.slot = m.freePark p q.slot := by
  have hfind : (m.part p).parked.find? (fun z => z.slot == q.slot) = some q := by simp [hparked]
  simp only [Mach.parkDiscard, hfind, hbehind, Mach.countRow_of_kind hkind, Mach.rowsBehind_of_one hparked]
  rfl
end
end

/-- A parked row is written by PARKRPL, and PARKDIS writes nothing of it; both free its slot. -/
theorem parkedRow_spec {s : State} {r : Nat} {v : W64} {q : Parked} (hring : 1 ≤ (s.m.hand r).ring)
    (hparked : (s.m.part (s.m.ctx (s.m.hand r).ctx).part).parked = [q]) (hslot : q.slot = v.toNat % 2 ^ 10)
    (hbehind : q.behind = false) (hkind : q.row.kind = 1) :
    let p := (s.m.ctx (s.m.hand r).ctx).part
    let x := s.m.part p
    let m1 := fun (m : Mach) => (m.modPart p (fun y => { y with parked := [] })).pokePhys ((x.parkAt q.slot).1 + 22) [0]
    (∀ l, s.m.span q.row.ctx q.row.addr q.row.data.length true true = .ok l →
      exec (.parkrpl r v) s = s.goes (m1 (s.m.writeSpan l (s.m.bytes (x.parkAt q.slot).2 q.row.data.length)))) ∧
    exec (.parkdis r v) s = s.goes (m1 s.m) := by
  have hrpl : exec (.parkrpl r v) s = s.goes (s.m.parkReplay s.tb (s.m.ctx (s.m.hand r).ctx).part q.slot) := by
    refine congrArg s.goes ((Mach.regEvent_park (.inl rfl) hring).trans ?_)
    rw [hslot, ← Nat.div_one v.toNat, ← pow_zero 2, ← bits_toNat v 0 10]
    rfl
  have hdis : exec (.parkdis r v) s = s.goes (s.m.parkDiscard s.tb (s.m.ctx (s.m.hand r).ctx).part q.slot) := by
    refine congrArg s.goes ((Mach.regEvent_park (.inr rfl) hring).trans ?_)
    rw [hslot, ← Nat.div_one v.toNat, ← pow_zero 2, ← bits_toNat v 0 10]
    rfl
  refine ⟨fun l hspan => ?_, ?_⟩
  · rw [hrpl, Mach.parkReplay_of_one hparked hkind hbehind hspan]
    obtain ⟨mem, hw⟩ := s.m.writeSpan_eq l (s.m.bytes ((s.m.part (s.m.ctx (s.m.hand r).ctx).part).parkAt q.slot).2 q.row.data.length)
    rw [hw]
    exact congrArg s.goes (Mach.freePark_of_one (m := { s.m with mem := mem }) hparked)
  · rw [hdis, Mach.parkDiscard_of_one hparked hkind hbehind, Mach.freePark_of_one hparked]

/-! ## A read of another device (15 R286) -/

theorem peerReadArrival_ok {s : State} {k n : Nat} {va : W64} {bs : List Byte} (h : s.m.readAt k va n true = .ok bs) :
    exec (.peerReadArrival k va n) s = s.goes { s.m with dev := { s.m.dev with
      answers := s.m.dev.answers ++ [⟨2, 256, k, 0, 0, bs ++ leBytes 8 (crc64 bs).toNat⟩] } } := by
  have hexec : exec (.peerReadArrival k va n) s = execPeerReadArrival k va n s := rfl
  rw [hexec, execPeerReadArrival, runEvent, h]
  rfl
theorem peerReadArrival_error {s : State} {k n : Nat} {va : W64} {f : FaultRec} (h : s.m.readAt k va n true = .error f) :
    exec (.peerReadArrival k va n) s = s.goes { s.m with dev := { s.m.dev with
      answers := s.m.dev.answers ++ [⟨2, 256, k, 0, f.cause + 256 * f.reason, List.replicate n 0⟩] } } := by
  have hexec : exec (.peerReadArrival k va n) s = execPeerReadArrival k va n s := rfl
  rw [hexec, execPeerReadArrival, runEvent, h]
  rfl

/-! ## An answer of a peer (15 R285, R286, R298) -/

/-- The message that was answered is no longer waited for. -/
def Mach.answered (m : Mach) (id : Nat) : Mach := { m with dev := { m.dev with peerOps := m.dev.peerOps.filter (fun q => q.id != id) } }
/-- The access that a peer performed leaves its queue. -/
def Mach.farDone (m : Mach) (now id : Nat) (p : PeerOp) : Mach :=
  ((m.answered id).modHand p.hand (fun h => { h with accs := h.accs.filter (fun b => b.id != p.acc) })).wakeMoves now p.hand

section
variable {s : State} {id status reason : Nat} {p : PeerOp} {data : List Byte}

section
variable (hfind : s.m.dev.peerOps.find? (fun p => p.id == id) = some p) (hturn : s.m.peerBehind p = false)
include hfind hturn

theorem peerAck_farWrite (hcoll : p.coll = 0) (hread : p.isRead = false) :
    exec (.peerAck id status reason data) s = s.goes ((s.m.farDone s.tb id p).modHand p.hand (fun h => h.enterTok s.tb p.push)) := by
  have hexec : exec (.peerAck id status reason data) s = execPeerAck id status reason data s := rfl
  rw [hexec, execPeerAck, runEvent, hfind]
  dsimp only
  rw [hturn, if_neg Bool.false_ne_true, if_pos hcoll, hread]
  rfl
theorem peerAck_farRead (hcoll : p.coll = 0) (hread : p.isRead = true) :
    exec (.peerAck id 0 reason data) s = s.goes ((s.m.farDone s.tb id p).supplyQueue s.tb p.hand p.res (entryOfBytes (data.take 128))) := by
  have hexec : exec (.peerAck id 0 reason data) s = execPeerAck id 0 reason data s := rfl
  rw [hexec, execPeerAck, runEvent, hfind]
  dsimp only
  rw [hturn, if_neg Bool.false_ne_true, if_pos hcoll, hread]
  rfl
theorem peerAck_farRead_fault (hcoll : p.coll = 0) (hread : p.isRead = true) {a : Access}
    (hacc : (s.m.hand p.hand).accs.find? (fun a => a.id == p.acc) = some a) :
    exec (.peerAck id 8 reason data) s = s.goes (((s.m.farDone s.tb id p).recordFault p.hand ⟨8, reason, [a.rows.headD 0, 0, 0]⟩).supplyQueue
      s.tb p.hand p.res 0) := by
  have hexec : exec (.peerAck id 8 reason data) s = execPeerAck id 8 reason data s := rfl
  have hacc' : ((s.m.modDev fun d => { d with peerOps := d.peerOps.filter fun q => q.id != id }).hand p.hand).accs.find?
      (fun a => a.id == p.acc) = some a := hacc
  rw [hexec, execPeerAck, runEvent, hfind]
  dsimp only
  rw [hturn, if_neg Bool.false_ne_true, if_pos hcoll, hread, hacc']
  rfl
theorem peerAck_chunk (hcoll : p.coll ≠ 0) (hread : p.isRead = true) :
    exec (.peerAck id status reason data) s = s.goes ((s.m.answered id).post s.tb (.collStepArrival p.hand p.coll p.index data)) := by
  have hexec : exec (.peerAck id status reason data) s = execPeerAck id status reason data s := rfl
  rw [hexec, execPeerAck, runEvent, hfind]
  dsimp only
  rw [hturn, if_neg Bool.false_ne_true, if_neg hcoll, hread]
  rfl
theorem peerAck_sent (hcoll : p.coll ≠ 0) (hread : p.isRead = false) {c : Coll} (hc : s.m.findColl p.hand p.coll = some c) :
    exec (.peerAck id 0 reason data) s =
      s.goes (((s.m.answered id).putColl p.hand { c with sends := c.sends - 1 }).collTest s.tb p.hand p.coll) := by
  have hexec : exec (.peerAck id 0 reason data) s = execPeerAck id 0 reason data s := rfl
  have hsent : (s.m.answered id).collSent s.tb p.hand p.coll =
      ((s.m.answered id).putColl p.hand { c with sends := c.sends - 1 }).collTest s.tb p.hand p.coll := by
    have hc' : (s.m.answered id).findColl p.hand p.coll = some c := hc
    rw [Mach.collSent, hc']
  rw [hexec, execPeerAck, runEvent, hfind]
  dsimp only
  rw [hturn, if_neg Bool.false_ne_true, if_neg hcoll, hread]
  exact congrArg s.goes hsent
theorem peerAck_refused (hcoll : p.coll ≠ 0) (hread : p.isRead = false) :
    exec (.peerAck id 2 reason data) s = s.goes ((s.m.answered id).collFault s.tb p.hand p.coll 3) := by
  have hexec : exec (.peerAck id 2 reason data) s = execPeerAck id 2 reason data s := rfl
  rw [hexec, execPeerAck, runEvent, hfind]
  dsimp only
  rw [hturn, if_neg Bool.false_ne_true, if_neg hcoll, hread]
  rfl
end

/-! ## A send that no answer comes to (15 R300) -/

section
variable (hops : s.m.dev.peerOps = [p])
include hops

theorem peerAckTimeout_early (h : s.tb < p.sentT + 52500) : exec (.peerAckTimeout p.hand p.coll) s = s.goes s.m := by
  have hexec : exec (.peerAckTimeout p.hand p.coll) s = execPeerAckTimeout p.hand p.coll s := rfl
  rw [hexec, execPeerAckTimeout, runEvent]
  simp [hops, Nat.not_le.2 h]
theorem peerAckTimeout_again (h : p.sentT + 52500 ≤ s.tb) (htries : p.tries < 3) : exec (.peerAckTimeout p.hand p.coll) s = s.goes
    ({ s.m with dev := { s.m.dev with peerOps := [{ p with tries := p.tries + 1, sentT := s.tb }] } }.post (s.tb + 52500)
      (.peerAckTimeout p.hand p.coll)) := by
  have hexec : exec (.peerAckTimeout p.hand p.coll) s = execPeerAckTimeout p.hand p.coll s := rfl
  rw [hexec, execPeerAckTimeout, runEvent]
  simp [hops, h, Nat.not_le.2 htries, Mach.modDev]
theorem peerAckTimeout_last (h : p.sentT + 52500 ≤ s.tb) (htries : 3 ≤ p.tries) : exec (.peerAckTimeout p.hand p.coll) s = s.goes
    ({ s.m with dev := { s.m.dev with peerOps := [] } }.collFault s.tb p.hand p.coll 3) := by
  have hexec : exec (.peerAckTimeout p.hand p.coll) s = execPeerAckTimeout p.hand p.coll s := rfl
  rw [hexec, execPeerAckTimeout, runEvent]
  simp [hops, h, htries, Mach.modDev]
end
end

/-! ## The statement -/

/-- Settles O32. -/
theorem rowsAndPeers : Obligations.RowsAndPeers := by
  unfold Obligations.RowsAndPeers
  refine ⟨fun s row => ?_, fun s r v q hring hparked hslot hbehind hkind => parkedRow_spec hring hparked hslot hbehind hkind,
    fun s k n va => ⟨fun bs => peerReadArrival_ok, fun f => peerReadArrival_error⟩, fun s id p data hfind hturn => ?_,
    fun s p hops => ⟨peerAckTimeout_early hops, peerAckTimeout_again hops, peerAckTimeout_last hops⟩⟩
  · intro p x hmode hkind
    refine ⟨fun ⟨q, hq, hstream⟩ n hfree => remoteRowArrival_behind hmode (List.any_eq_true.2 ⟨q, hq, hstream⟩) hfree, fun hstream => ?_⟩
    have hb : s.m.rowBehind row = false := List.any_eq_false.2 fun q hq => by rw [hstream q hq]; decide
    refine ⟨fun l hspan => ⟨remoteRowArrival_landed hmode hb hkind hspan, fun hbusy => ?_, fun id hin => ⟨fun hbusy => ?_,
      meshFlitAdvance_landed hmode hb hkind hspan hin⟩⟩,
      fun f hspan => ⟨fun hslot => ?_, fun n hslot => remoteRowArrival_parked hmode hb hspan hslot⟩⟩
    · exact remoteRowArrival_of_busy hmode ((congrArg (fun k => s.m.banksBusy s.tb (banksOf k)) (Mach.landKeys_of_span hb hspan)).trans hbusy)
    · exact meshFlitAdvance_busy hmode hb hspan hin hbusy
    · exact remoteRowArrival_refused hmode hb hkind hspan hslot
  · exact ⟨peerAck_farWrite hfind hturn, fun hcoll hread => ⟨peerAck_farRead hfind hturn hcoll hread,
      fun n a => peerAck_farRead_fault hfind hturn hcoll hread⟩, peerAck_chunk hfind hturn,
      fun hcoll hread c hc => ⟨peerAck_sent hfind hturn hcoll hread hc, peerAck_refused hfind hturn hcoll hread⟩⟩

end Sys2Proof.Machine
end

section
/-! PROOFS. COLL and COLLQ (15 R296, R297, 18 R348). -/

namespace Sys2Proof.Machine

/-! ## A row read for errors (19 R379) -/

/-- A row with an uncorrectable error is recorded against its reader, and counted: nothing else of the machine changes. -/
theorem Mach.noteRead_spec (m : Mach) (r k : Nat) (x : W64) (n : Nat) (u : Bool) :
    (m.noteRead r k x n u).mem = m.mem ∧ (m.noteRead r k x n u).agenda = m.agenda ∧
      (∃ p l, (m.noteRead r k x n u).hand r = { m.hand r with pending := p, lost := l }) ∧
      ∀ q, ((m.noteRead r k x n u).cluster q).ranges = (m.cluster q).ranges := by
  have hcount (q : Nat) (keys : List Nat) (j : Nat) : ((m.countErrors q keys).cluster j).ranges = (m.cluster j).ranges := by
    simp only [Mach.countErrors, Mach.addErrors]
    split
    · rfl
    · rw [Mach.modCluster_cluster_get]
      split
      · next h => rw [h]
      · rfl
  rw [Mach.noteRead]
  split
  · next l _ =>
    obtain ⟨cs, hcs⟩ := m.countErrors_eq (clusterOf r) (l.map (·.1))
    have hranges := hcount (clusterOf r) (l.map (·.1))
    rw [hcs] at hranges ⊢
    rw [Mach.noteUE, Mach.checkOf]
    cases ({ m with clusters := cs } : Mach).anyUE (l.map (·.1)) with
    | none => exact ⟨rfl, rfl, ⟨_, _, rfl⟩, hranges⟩
    | some k =>
      obtain ⟨p, n, hhand, -⟩ := Mach.recordFault_hand { m with clusters := cs, freeN := m.freeN + 1 } r (Mach.mcheck { m with clusters := cs } k r)
      exact ⟨rfl, rfl, ⟨p, n, hhand⟩, hranges⟩
  · exact ⟨rfl, rfl, ⟨_, _, rfl⟩, fun _ => rfl⟩

/-! ## COLL -/

section
variable {s : State} {w : AC}

/-- What stops COLL once its descriptor may be read. -/
def collStops (s : State) (w : AC) : List (Option Stop) :=
  let c := collOf s.m ⟨s.tb, s.cur, .a⟩ w
  [trapIf (s.m.collBad s.cur c) 0x14 1 [slotN c.seq], s.m.spanStop s.cur c.src c.bytes false,
    s.m.spanStop s.cur c.dst (c.dstLen (s.m.collSize s.cur c)) true,
    (if c.f 48 8 = 0 then none else s.m.spanStop s.cur (BitVec.ofNat 64 (c.f 48 8)) 64 true),
    (if c.op = 4 then s.m.spanStop s.cur (BitVec.ofNat 64 (c.f 56 8)) (8 * c.rowCount) false else none),
    trapIf (!s.m.phase s.cur) 0x0A 0 [s.hand.areg w.desc.toNat],
    freezeIf (decide (4 ≤ (s.m.collsOf s.cur).length) || decide (14 < (s.m.cluster (clusterOf s.cur)).ranges.length)) 9]
/-- A collective taken up by its hand, with its two places in the range table, and its blocks exchanged from the next cycle on. -/
def Mach.takeColl (m : Mach) (now r : Nat) (c : Coll) (d : Nat) : Mach :=
  (((m.modHand r (fun h => { h with
      colls := h.colls.filter (fun d => d.state != 3 && (d.state != 4 || decide (sub32 c.seq d.seq ≤ 4))) ++ [c]
      clseq := c.seq })).modCluster (clusterOf r) (fun y => { y with
      ranges := y.ranges ++ [⟨r, c.ctx, c.id, c.src, c.bytes⟩, ⟨r, c.ctx, c.id, c.dst, d⟩] })).bump).post (now + 1) (.collBlockExchange r c.id none)

variable (hready : ReadyA s w.desc) (halign : (s.hand.areg w.desc.toNat).toNat % 128 = 0)
  (hkey : ∃ k, s.m.xlate s.cur (s.hand.areg w.desc.toNat) 128 false = .key k) (hissue : MayIssue s .a (.coll w) w.hdr)
include hready halign hkey hissue

theorem coll_frozen (hacq : ∃ x ∈ s.hand.results, x.acq = true) : exec (.coll w) s = s.goes (s.m.block ⟨s.tb, s.cur, .a⟩ 8 0) := by
  have hstop : s.hand.acqStop = some (.freeze 8 0) := by
    obtain ⟨x, hx, h⟩ := hacq
    have hany : s.hand.results.any (·.acq) = true := List.any_eq_true.2 ⟨x, hx, h⟩
    simp [Hand.acqStop, hany, freezeIf]
  have hown : firstStop (s.hand.needA w.desc.toNat :: trapIf ((s.hand.areg w.desc.toNat).toNat % 128 != 0) 6 0 [s.hand.areg w.desc.toNat] ::
      s.m.xlStop s.cur (s.hand.areg w.desc.toNat) 128 false :: s.hand.acqStop :: collStops s w) = some (.freeze 8 0) := by
    rw [State.hand, needA_eq_none hready, ← State.hand, xlStop_eq_none hkey, hstop, halign]
    rfl
  exact (congrArg Host.Outcome.next (runWord_stops (guardWord_eq_own hissue rfl (Nat.zero_le _) hown))).trans rfl
theorem coll_issues (hacq : ∀ x ∈ s.hand.results, x.acq = false) (hstops : ∀ o ∈ collStops s w, o = none) :
    exec (.coll w) s = s.goes (((s.issued .a w.hdr).noteRead s.cur s.hand.ctx (s.hand.areg w.desc.toNat) 128 (s.hand.ring == 0)).takeColl s.tb s.cur
      (collOf s.m ⟨s.tb, s.cur, .a⟩ w)
      ((collOf s.m ⟨s.tb, s.cur, .a⟩ w).dstLen (s.m.collSize s.cur (collOf s.m ⟨s.tb, s.cur, .a⟩ w)))) := by
  have hany : s.hand.acqStop = none := by simpa [Hand.acqStop] using hacq
  refine (congrArg Host.Outcome.next (runWord_issues hissue rfl (Nat.zero_le _) (firstStop_eq_none.2 ?_))).trans rfl
  simp only [List.forall_mem_cons]
  exact ⟨needA_eq_none hready, by simp [show (s.m.hand s.cur) = s.hand from rfl, halign], xlStop_eq_none hkey, hany, by simpa [collStops] using hstops⟩
end

/-- What a collective taken up changes. -/
theorem Mach.takeColl_spec (m : Mach) (now r : Nat) (c : Coll) (d : Nat) :
    (m.takeColl now r c d).mem = m.mem ∧ ((m.takeColl now r c d).hand r).clseq = c.seq ∧
      ((m.takeColl now r c d).hand r).colls =
        (m.hand r).colls.filter (fun d => d.state != 3 && (d.state != 4 || decide (sub32 c.seq d.seq ≤ 4))) ++ [c] ∧
      ((m.takeColl now r c d).cluster (clusterOf r)).ranges =
        (m.cluster (clusterOf r)).ranges ++ [⟨r, c.ctx, c.id, c.src, c.bytes⟩, ⟨r, c.ctx, c.id, c.dst, d⟩] ∧
      (m.takeColl now r c d).agenda = agendaAdd (now + 1) (.collBlockExchange r c.id none) m.agenda := by
  refine ⟨rfl, ?_, ?_, ?_, rfl⟩
  · simp [Mach.takeColl]
  · simp [Mach.takeColl]
  · simp [Mach.takeColl]

/-! ## COLLQ -/

section
variable {s : State} {w : AC} (hissue : MayIssue s .a (.collq w) w.hdr)
include hissue

theorem collq_issues (h : (s.m.collsOf s.cur).length ≤ w.imm.toNat % 4) : exec (.collq w) s = s.goes (s.issued .a w.hdr) := by
  have hown : freezeIf (decide ((bits w.imm 0 2).toNat < (s.m.collsOf s.cur).length)) 9 = none := by
    rw [freezeIf_eq_none, bits_zero_toNat]
    exact decide_eq_false (Nat.not_lt.2 h)
  exact (congrArg Host.Outcome.next (runWord_issues hissue rfl (Nat.zero_le _) hown)).trans rfl
theorem collq_frozen (h : w.imm.toNat % 4 < (s.m.collsOf s.cur).length) :
    exec (.collq w) s = s.goes (s.m.block ⟨s.tb, s.cur, .a⟩ 9 0) := by
  have hown : freezeIf (decide ((bits w.imm 0 2).toNat < (s.m.collsOf s.cur).length)) 9 = some (.freeze 9 0) :=
    if_pos (by rw [bits_zero_toNat]; exact decide_eq_true h)
  exact (congrArg Host.Outcome.next (runWord_stops (guardWord_eq_own hissue rfl (Nat.zero_le _) hown))).trans rfl
end

end Sys2Proof.Machine
end

section
/-! PROOFS. The blocks of a collective exchanged: held back, begun by its members, refused by peers, started at its banks (15 R292, R300). -/

namespace Sys2Proof.Machine

section
variable {s : State} {r id : Nat} {c : Coll} {b : Option Bool} (hfind : s.m.findColl r id = some c)
include hfind

/-- What the exchange does for a collective that has not begun. -/
theorem collBlockExchange_waiting (hstate : c.state = 0) : exec (.collBlockExchange r id b) s = s.goes
    (if s.m.collHeld r c then s.m.post (s.tb + 1) (.collBlockExchange r id b)
    else if c.grp = 2 then
      match b with
      | none => s.m
      | some false => s.m.collFault1 s.tb r id 2
      | some true => (s.m.putColl r (c.begin_ (s.m.deviceMembers r c) r)).post s.tb (.collBlockExchange r id none)
    else
      let ms := (s.m.meeting r c).map (s.m.exchanging r c)
      if ms.any (·.isNone) then s.m
      else
        let ms := ms.filterMap (fun q => q)
        let all := ms.filterMap (fun q => (s.m.findColl q.1 q.2).map (fun d => (q.1, d)))
        if all.all (fun d => d.2.agreed == c.agreed) then
          ms.foldl (fun m q => m.post s.tb (.collBlockExchange q.1 q.2 none)) (all.foldl (fun m d => m.putColl d.1 (d.2.begin_ ms d.1)) s.m)
        else ms.foldl (fun m q => m.collFault1 s.tb q.1 q.2 2) s.m) := by
  have hexec : exec (.collBlockExchange r id b) s = execCollBlockExchange r id b s := rfl
  rw [hexec, execCollBlockExchange, runEvent, hfind]
  dsimp only
  rw [if_neg (by simp [hstate]), if_neg (by rw [hstate]; decide), if_neg (by rw [hstate]; decide)] <;> rfl

theorem collBlockExchange_held (hstate : c.state = 0) (hheld : s.m.collHeld r c = true) :
    exec (.collBlockExchange r id b) s = s.goes (s.m.post (s.tb + 1) (.collBlockExchange r id b)) := by
  rw [collBlockExchange_waiting hfind hstate, if_pos hheld]

/-- What the exchange does for a collective of a device group that nothing holds back. -/
theorem collBlockExchange_device (hstate : c.state = 0) (hheld : s.m.collHeld r c = false) (hgrp : c.grp = 2) :
    exec (.collBlockExchange r id none) s = s.goes s.m ∧
      exec (.collBlockExchange r id (some false)) s = s.goes (s.m.collFault1 s.tb r id 2) ∧
      exec (.collBlockExchange r id (some true)) s =
        s.goes ((s.m.putColl r (c.begin_ (s.m.deviceMembers r c) r)).post s.tb (.collBlockExchange r id none)) := by
  simp only [collBlockExchange_waiting hfind hstate, hheld, if_neg Bool.false_ne_true, if_pos hgrp, and_self]

section
variable (hstate : c.state = 0) (hheld : s.m.collHeld r c = false) (hgrp : c.grp ≠ 2)
include hstate hheld hgrp

/-- A member of the exchange that does not wait yet keeps the others waiting. -/
theorem collBlockExchange_early (hnone : none ∈ (s.m.meeting r c).map (s.m.exchanging r c)) :
    exec (.collBlockExchange r id none) s = s.goes s.m := by
  have hany : ((s.m.meeting r c).map (s.m.exchanging r c)).any (·.isNone) = true := List.any_eq_true.2 ⟨none, hnone, rfl⟩
  rw [collBlockExchange_waiting hfind hstate, hheld, if_neg Bool.false_ne_true, if_neg hgrp]
  exact congrArg s.goes (if_pos hany)

variable {ms : List (Nat × Nat)} (hms : (s.m.meeting r c).map (s.m.exchanging r c) = ms.map some)
include hms

/-- Once all members wait, their blocks are compared. -/
theorem collBlockExchange_met : exec (.collBlockExchange r id none) s = s.goes
    (if (ms.filterMap (fun q => (s.m.findColl q.1 q.2).map (fun d => (q.1, d)))).all (fun d => d.2.agreed == c.agreed) then
      ms.foldl (fun m q => m.post s.tb (.collBlockExchange q.1 q.2 none))
        ((ms.filterMap (fun q => (s.m.findColl q.1 q.2).map (fun d => (q.1, d)))).foldl (fun m d => m.putColl d.1 (d.2.begin_ ms d.1)) s.m)
    else ms.foldl (fun m q => m.collFault1 s.tb q.1 q.2 2) s.m) := by
  have hany : ¬((ms.map some).any (·.isNone) = true) := by simp
  have hsome : (ms.map some).filterMap (fun q => q) = ms := by simp [List.filterMap_map]
  rw [collBlockExchange_waiting hfind hstate, hheld, if_neg Bool.false_ne_true, if_neg hgrp, hms]
  refine congrArg s.goes ((if_neg hany).trans ?_)
  rw [hsome]
/-- Members whose blocks differ all take reason 2. -/
theorem collBlockExchange_differ (h : ∃ q ∈ ms, ∃ d, s.m.findColl q.1 q.2 = some d ∧ d.agreed ≠ c.agreed) :
    exec (.collBlockExchange r id none) s = s.goes (ms.foldl (fun m q => m.collFault1 s.tb q.1 q.2 2) s.m) := by
  obtain ⟨q, hq, d, hd, hdiffers⟩ := h
  have hmem : (q.1, d) ∈ ms.filterMap (fun q => (s.m.findColl q.1 q.2).map (fun d => (q.1, d))) :=
    List.mem_filterMap.2 ⟨q, hq, by rw [hd]; rfl⟩
  have hall : ¬((ms.filterMap (fun q => (s.m.findColl q.1 q.2).map (fun d => (q.1, d)))).all (fun d => d.2.agreed == c.agreed) = true) :=
    fun hall => hdiffers (beq_iff_eq.1 (List.all_eq_true.1 hall (q.1, d) hmem))
  rw [collBlockExchange_met hfind hstate hheld hgrp hms, if_neg hall]
/-- Members whose blocks agree begin. -/
theorem collBlockExchange_agree (h : ∀ q ∈ ms, ∀ d, s.m.findColl q.1 q.2 = some d → d.agreed = c.agreed) :
    exec (.collBlockExchange r id none) s = s.goes (ms.foldl (fun m q => m.post s.tb (.collBlockExchange q.1 q.2 none))
      ((ms.filterMap (fun q => (s.m.findColl q.1 q.2).map (fun d => (q.1, d)))).foldl
        (fun m d => m.putColl d.1 (d.2.begin_ ms d.1)) s.m)) := by
  have hall : (ms.filterMap (fun q => (s.m.findColl q.1 q.2).map (fun d => (q.1, d)))).all (fun d => d.2.agreed == c.agreed) = true := by
    refine List.all_eq_true.2 fun x hx => ?_
    obtain ⟨q, hq, hsome⟩ := List.mem_filterMap.1 hx
    obtain ⟨d, hd, rfl⟩ := Option.map_eq_some_iff.1 hsome
    exact beq_iff_eq.2 (h q hq d hd)
  rw [collBlockExchange_met hfind hstate hheld hgrp hms, if_pos hall]
end

/-- Peers that fail after the collective has begun fault it with reason 3. -/
theorem collBlockExchange_failed (hgrp : c.grp = 2) (hstate : c.state ≠ 0) :
    exec (.collBlockExchange r id (some false)) s = s.goes (s.m.collFault1 s.tb r id 3) := by
  have hexec : exec (.collBlockExchange r id (some false)) s = execCollBlockExchange r id (some false) s := rfl
  rw [hexec, execCollBlockExchange, runEvent, hfind]
  dsimp only
  rw [if_pos (by simp [hgrp, hstate])]

/-- A member about to begin starts at its banks. -/
theorem collBlockExchange_begun (hstate : c.state = 2) (hb : b = some false → c.grp ≠ 2) :
    exec (.collBlockExchange r id b) s = s.goes (s.m.atBanks s.tb (.collBlockExchange r id b) (s.m.startKeys c) false
      (fun m => (m.putColl r { c with state := 1 }).collStart s.tb r id)) := by
  have hexec : exec (.collBlockExchange r id b) s = execCollBlockExchange r id b s := rfl
  have hpeers : ¬((decide (b = some false) && decide (c.grp = 2) && c.state != 0) = true) := by
    by_cases h : b = some false
    · simp [hb h]
    · simp [h]
  rw [hexec, execCollBlockExchange, runEvent, hfind]
  dsimp only
  rw [if_neg hpeers, if_pos hstate]
end

end Sys2Proof.Machine
end

section
/-! PROOFS. A chunk of a direct all-gather, the end of a collective, and two integer elements combined (15 R294, R296, R297). -/

namespace Sys2Proof.Machine

/-! ## Memory through the steps of a collective -/

/-- A write at an address gives the same memory where the address names the same and memory holds the same. -/
theorem Mach.SameMap.writeAt {m m' mw : Mach} (h : m.SameMap m') {k : Nat} {x : W64} {bs : List Byte} {u : Bool}
    (hw : m'.writeAt k x bs u = .ok mw) : ∃ mv, m.writeAt k x bs u = .ok mv ∧ mv.mem = mw.mem ∧ mv.ctxs = m.ctxs := by
  rw [Mach.writeAt] at hw ⊢
  rw [h.span]
  cases hspan : m'.span k x bs.length true u with
  | error f => simp [hspan, Except.map] at hw
  | ok l =>
    simp only [hspan, Except.map, Except.ok.injEq] at hw
    refine ⟨m.writeSpan l bs, rfl, ?_, ?_⟩
    · rw [← hw]
      exact Mach.writeSpan_mem_congr h.mem l bs
    · obtain ⟨mem, heq⟩ := m.writeSpan_eq l bs
      rw [heq]
/-- Zero bytes can be read at any address. -/
theorem Mach.readAt_zero (m : Mach) (k : Nat) (x : W64) (u : Bool) : m.readAt k x 0 u = .ok [] := rfl
theorem Mach.noteRead_zero (m : Mach) (r k : Nat) (x : W64) (u : Bool) : m.noteRead r k x 0 u = m := rfl

/-- A flag of a context with no team in an image rises without a write to memory, and no team of it goes there. -/
theorem Mach.collFlag_frame {m : Mach} {now r : Nat} {c : Coll} (hagent : ∀ t, (m.ctx c.ctx).agentOf t = none) :
    (m.collFlag now r c).mem = m.mem ∧ ∀ t, ((m.collFlag now r c).ctx c.ctx).agentOf t = none := by
  rw [Mach.collFlag, Mach.agentFinc, hagent]
  refine ⟨rfl, fun t => ?_⟩
  dsimp only
  rw [Mach.raiseFlag, Mach.post_ctx_get, Mach.modCtx_ctx_get, if_pos rfl]
  exact hagent t
theorem Mach.foldl_collFlag_mem {α : Type} {now r : Nat} {c : Coll} (l : List α) {m : Mach} (hagent : ∀ t, (m.ctx c.ctx).agentOf t = none) :
    (l.foldl (fun m _ => m.collFlag now r c) m).mem = m.mem := by
  induction l generalizing m with
  | nil => rfl
  | cons x l ih =>
    obtain ⟨hmem, hagent'⟩ := Mach.collFlag_frame (now := now) (r := r) hagent
    exact (ih hagent').trans hmem
theorem Mach.collTest_mem (m : Mach) (now r id : Nat) : (m.collTest now r id).mem = m.mem := by
  unfold Mach.collTest
  split
  · rfl
  · split <;> rfl
theorem Mach.collSent_mem (m : Mach) (now r id : Nat) : (m.collSent now r id).mem = m.mem := by
  unfold Mach.collSent
  split
  · rfl
  · exact Mach.collTest_mem ..

/-! ## A direct all-gather (15 R294) -/

section
variable {c : Coll} (hop : c.op = 2) (halgo : c.algo c.members.length = 3)
include hop halgo

theorem Coll.ownPart_direct (t j : Nat) : c.ownPart c.members.length t j = (c.dst, 0, 0) := by
  simp [Coll.ownPart, Coll.isUp, hop, halgo]
omit hop in
theorem Coll.kidWaits_direct (t j : Nat) : c.kidWaits c.members.length t j = false := by
  simp [Coll.kidWaits, Coll.isUp, halgo]
omit hop in
theorem Coll.stepOut_direct (i t : Nat) (acc : List Byte) (j : Nat) : c.stepOut c.members.length i t acc j = (acc, []) := by
  simp [Coll.stepOut, halgo]
/-- A chunk goes to its sender's place in DST. -/
theorem Coll.writes_direct (i t j : Nat) : (c.writes c.members.length i t j).1 = t * c.bytes + min (j * c.f 36 4) c.bytes := by
  simp [Coll.writes, Coll.clip, Coll.payload, hop, halgo]

omit hop halgo in
/-- Bytes written at the one place of DST that a collective without RELAY has. -/
theorem Mach.collPut_of_one {m m' : Mach} {now r lo : Nat} {bs : List Byte} (hrelay : c.opt 1 = false) (hne : bs ≠ [])
    (hw : m.writeAt c.ctx (c.dst + BitVec.ofNat 64 lo) bs c.u = .ok m') : m.collPut now r c lo bs = m' := by
  have haddrs : m.putAddrs c lo = [c.dst + BitVec.ofNat 64 lo] := by simp [Mach.putAddrs, hrelay]
  rw [Mach.collPut, if_neg (by simpa using hne), haddrs, List.foldl_cons, hw, List.foldl_nil]

/-- A chunk that arrives is written, and nothing else of memory. -/
theorem Mach.collStep_direct {m mw : Mach} {now r k : Nat} {bs : List Byte} (hrelay : c.opt 1 = false)
    (hagent : ∀ t, (m.ctx c.ctx).agentOf t = none) (hne : bs ≠ [])
    (hw : m.writeAt c.ctx (c.dst + BitVec.ofNat 64 (k / c.chunks c.members.length * c.bytes +
      min (k % c.chunks c.members.length * c.f 36 4) c.bytes)) bs c.u = .ok mw) :
    (m.collStep now r c k bs).mem = mw.mem := by
  have hsame (c' : Coll) : (m.putColl r c').SameMap m := ⟨rfl, rfl, rfl, rfl⟩
  obtain ⟨mv, hwrite, hmem, hctxs⟩ := (hsame { c with done := c.done ++ [k] }).writeAt hw
  have hagent' (t : Nat) : (mv.ctx c.ctx).agentOf t = none := by
    rw [Mach.ctx, hctxs]
    exact hagent t
  have hput := Mach.collPut_of_one (now := now) (r := r) hrelay hne hwrite
  have hup (t : Nat) : c.isUp c.members.length t = false := by simp [Coll.isUp, halgo]
  unfold Mach.collStep
  dsimp only
  rw [Coll.ownPart_direct hop halgo]
  dsimp only
  rw [Mach.readAt_zero]
  dsimp only
  simp only [hup, Coll.kidWaits_direct halgo, Coll.stepOut_direct halgo, Mach.noteRead_zero, Coll.writes_direct hop halgo, Bool.false_eq_true,
    if_false, List.isEmpty_nil, if_true, List.foldl_nil]
  rw [hput, Mach.collTest_mem, apply_ite Mach.mem, Mach.collSent_mem, ite_self]
  split
  · rw [Mach.foldl_collFlag_mem _ hagent', hmem]
  · exact hmem
end

/-- The arrivals at banks of a chunk's writes. -/
def Mach.chunkArrivals (m : Mach) (c : Coll) (k : Nat) : List Arrival :=
  let q := c.members.getD (c.sender c.members.length c.rank (k / c.chunks c.members.length)) (1024, 0)
  arrivalsOf (if q.1 < 1024 then q.1 else 65535) ((m.findColl q.1 q.2).elim 0 (·.iseq)) (m.stepKeys c k).2

section
variable {s : State} {r id k : Nat} {c : Coll} {bs : List Byte} (hop : c.op = 2) (hmode : ∀ q, (s.m.part q).rpMode = 0)
include hop hmode

/-- A chunk without CSUM that its member receives is performed at its banks. -/
theorem collStepArrival_next (hfind : s.m.findColl r id = some c) (hstate : c.state = 1) (hsum : c.opt 0 = false)
    (hdone : c.done.contains k = false) (hround : k / c.chunks c.members.length ∈ c.rounds c.members.length c.rank) :
    exec (.collStepArrival r id k bs) s = s.goes (s.m.atBanks s.tb (.collStepArrival r id k bs) ((s.m.stepKeys c k).1 ++ (s.m.stepKeys c k).2)
      false (fun m => (m.noteArrivals s.tb (s.m.chunkArrivals c k)).collStep s.tb r c k bs)) := by
  have hexec : exec (.collStepArrival r id k bs) s = execCollStepArrival r id k bs s := rfl
  have hround' : (c.rounds c.members.length c.rank).contains (k / c.chunks c.members.length) = true := by simpa using hround
  rw [hexec, execCollStepArrival, runEvent, hfind]
  dsimp only
  rw [if_neg (by rw [hstate]; decide), if_neg (by rw [hop]; decide), if_neg (by rw [hstate, hdone, hround']; decide), if_neg (by simp [hsum]),
    Mach.mayArriveAll_of_mode_zero hmode, hsum]
  rfl
/-- The banks that serve a chunk of a direct all-gather change nothing of what it writes. -/
theorem Mach.chunkLanded_mem {mw : Mach} {i : Instr} {keys : List Nat} (halgo : c.algo c.members.length = 3) (hrelay : c.opt 1 = false)
    (hagent : ∀ t, (s.m.ctx c.ctx).agentOf t = none) (hne : bs ≠ [])
    (hw : s.m.writeAt c.ctx (c.dst + BitVec.ofNat 64 (k / c.chunks c.members.length * c.bytes +
      min (k % c.chunks c.members.length * c.f 36 4) c.bytes)) bs c.u = .ok mw) :
    (((s.m.served s.tb i keys).noteArrivals s.tb (s.m.chunkArrivals c k)).collStep s.tb r c k bs).mem = mw.mem := by
  obtain ⟨t, us, q, hserved⟩ := s.m.served_eq s.tb i keys
  rw [hserved]
  have hmap : Mach.SameMap { s.m with bankT := t, bankUse := us, bankQ := q } s.m := ⟨rfl, rfl, rfl, rfl⟩
  obtain ⟨mv, hwrite, hmem, -⟩ := hmap.writeAt hw
  rw [Mach.noteArrivals_of_mode_zero (m := { s.m with bankT := t, bankUse := us, bankQ := q }) hmode,
    Mach.collStep_direct hop halgo hrelay (m := { s.m with bankT := t, bankUse := us, bankQ := q }) hagent hne hwrite, hmem]
end

/-! ## The end of a collective -/

theorem collComplete_plain {s : State} {r id : Nat} {c : Coll} (hfind : s.m.findColl r id = some c) (hstate : c.state = 1)
    (hstatus : c.f 48 8 = 0) :
    exec (.collComplete r id) s = s.goes ((((s.m.modCluster (clusterOf r) (fun x =>
      { x with ranges := x.ranges.filter (fun e => e.coll != id) })).modHand r (fun h =>
      { h with colls := if c.op = 4 then h.colls.map (fun d => if d.id == id then { d with state := 4 } else d)
                        else h.colls.filter (fun d => d.id != id) }))).tokenFor s.tb c.ctx r c.tid c.push) := by
  have hexec : exec (.collComplete r id) s = execCollComplete r id s := rfl
  have hid : c.id = id := by simpa using List.find?_some hfind
  have hnone (st : Nat) : s.m.collStatus s.tb r c st = s.m := if_pos hstatus
  rw [hexec, execCollComplete, runEvent, hfind]
  dsimp only
  rw [if_neg (by rw [hstate]; decide), if_pos hstatus, Mach.collEnds]
  simp only [hnone, hid]
  rfl

/-! ## Integer elements (15 R294) -/

theorem intCode_toInt (w : Nat) (v : Int) : (intCode w v : Int) = v % 2 ^ w := by
  rw [intCode_eq, Int.toNat_of_nonneg (Int.emod_nonneg _ (by positivity))]
/-- Integers wrap, or take the extreme by type. -/
theorem combine1_int {ty : Nat} (hty : ty ≤ 5) (a b : Nat) : let v := intOf (tySigned ty) (tw ty)
    ((combine1 ty 0 a b : Nat) : Int) = (v a + v b) % 2 ^ tw ty ∧
    ((combine1 ty 1 a b : Nat) : Int) = max (v a) (v b) % 2 ^ tw ty ∧ ((combine1 ty 2 a b : Nat) : Int) = min (v a) (v b) % 2 ^ tw ty := by
  have hint : ¬(isF ty = true) := by simp [isF, Nat.not_le.2 (Nat.lt_succ_of_le hty)]
  have hsum : combine1 ty 0 a b = intCode (tw ty) (intOf (tySigned ty) (tw ty) a + intOf (tySigned ty) (tw ty) b) := if_neg hint
  have hmax : combine1 ty 1 a b = intCode (tw ty) (max (intOf (tySigned ty) (tw ty) a) (intOf (tySigned ty) (tw ty) b)) := if_neg hint
  have hmin : combine1 ty 2 a b = intCode (tw ty) (min (intOf (tySigned ty) (tw ty) a) (intOf (tySigned ty) (tw ty) b)) := if_neg hint
  rw [hsum, hmax, hmin]
  exact ⟨intCode_toInt .., intCode_toInt .., intCode_toInt ..⟩

end Sys2Proof.Machine
end

section
/-! PROOFS. Collectives: the statement (15 R291 to R300). -/

namespace Sys2Proof.Machine

/-- COLL and what its issue changes (15 R296, R297). -/
theorem coll_spec (s : State) (w : AC) : let a := s.hand.areg w.desc.toNat
    let c := collOf s.m ⟨s.tb, s.cur, .a⟩ w
    let d := c.dstLen (s.m.collSize s.cur c)
    ReadyA s w.desc → a.toNat % 128 = 0 → (∃ k, s.m.xlate s.cur a 128 false = .key k) → MayIssue s .a (.coll w) w.hdr →
    (∀ x ∈ s.hand.results, x.acq = false) → s.m.collBad s.cur c = false →
    s.m.spanStop s.cur c.src c.bytes false = none → s.m.spanStop s.cur c.dst d true = none →
    (c.f 48 8 ≠ 0 → s.m.spanStop s.cur (BitVec.ofNat 64 (c.f 48 8)) 64 true = none) →
    (c.op = 4 → s.m.spanStop s.cur (BitVec.ofNat 64 (c.f 56 8)) (8 * c.rowCount) false = none) →
    s.m.phase s.cur = true → (s.m.collsOf s.cur).length < 4 → s.cluster.ranges.length ≤ 14 →
    ∃ m, exec (.coll w) s = s.goes m ∧ m.mem = s.m.mem ∧ c.seq = (s.hand.clseq + 1) % 2 ^ 32 ∧ (m.hand s.cur).clseq = c.seq ∧
      (m.hand s.cur).colls = s.hand.colls.filter (fun d => d.state != 3 && (d.state != 4 || decide (sub32 c.seq d.seq ≤ 4))) ++ [c] ∧
      c.id = s.m.nextId ∧ (m.cluster (clusterOf s.cur)).ranges = s.cluster.ranges ++
        [⟨s.cur, s.hand.ctx, c.id, c.src, c.bytes⟩, ⟨s.cur, s.hand.ctx, c.id, c.dst, d⟩] ∧
      m.agenda = agendaAdd (s.tb + 1) (.collBlockExchange s.cur c.id none) s.m.agenda := by
  intro a c d hready halign hkey hissue hacq hbad hsrc hdst hstatus hlist hphase hlt hranges
  have hstops : ∀ o ∈ collStops s w, o = none := by
    simp only [collStops, List.forall_mem_cons]
    refine ⟨trapIf_eq_none.2 hbad, hsrc, hdst, ?_, ?_, by simp [hphase], ?_, by simp⟩
    · split
      · rfl
      · next h => exact hstatus h
    · split
      · next h => exact hlist h
      · rfl
    · rw [freezeIf_eq_none, Bool.or_eq_false_iff]
      exact ⟨decide_eq_false (Nat.not_le.2 hlt), decide_eq_false (Nat.not_lt.2 hranges)⟩
  obtain ⟨hmem, hagenda, ⟨p, l, hhand⟩, hread⟩ :=
    (s.issued .a w.hdr).noteRead_spec s.cur s.hand.ctx a 128 (s.hand.ring == 0)
  obtain ⟨hmem', hseq, hcolls, hranges', hagenda'⟩ :=
    ((s.issued .a w.hdr).noteRead s.cur s.hand.ctx a 128 (s.hand.ring == 0)).takeColl_spec s.tb s.cur c d
  refine ⟨_, coll_issues hready halign hkey hissue hacq hstops, hmem'.trans hmem, rfl, hseq, hcolls.trans ?_, rfl, hranges'.trans ?_,
    hagenda'.trans ?_⟩
  · rw [hhand]
    exact congrArg (fun l => List.filter _ l ++ [c]) (s.issued_sameBeside .a w.hdr).colls
  · rw [hread]
    rfl
  · rw [hagenda]
    rfl

/-- Settles O31. -/
theorem collectives : Obligations.Collectives := by
  unfold Obligations.Collectives
  refine ⟨fun s w => ?_, fun s w hissue => ⟨collq_issues hissue, collq_frozen hissue⟩, fun s r id c hfind hstate => ?_,
    fun s r id c b hfind => ?_, fun s r id k c bs mw => ?_, fun s r id c => collComplete_plain, fun ty a b hty => combine1_int hty a b⟩
  · intro a c d hready halign hkey hissue
    exact ⟨coll_frozen hready halign hkey hissue, coll_spec s w hready halign hkey hissue⟩
  · exact ⟨fun hheld b => collBlockExchange_held hfind hstate hheld, fun hheld => ⟨collBlockExchange_device hfind hstate hheld,
      fun hgrp ms hms => ⟨collBlockExchange_differ hfind hstate hheld hgrp hms, collBlockExchange_agree hfind hstate hheld hgrp hms⟩,
      collBlockExchange_early hfind hstate hheld⟩⟩
  · refine ⟨collBlockExchange_failed hfind, fun hstate hb => ⟨fun hbusy => ?_, fun hfree => ?_⟩⟩
    · rw [collBlockExchange_begun hfind hstate hb, Mach.atBanks_of_busy hbusy]
    · rw [collBlockExchange_begun hfind hstate hb, Mach.atBanks_of_free hfree]
  · intro p t at_ hfind hstate hop halgo hsum hrelay hagent hdone hround hmode hne _
    have hstep := collStepArrival_next (bs := bs) hop hmode hfind hstate hsum hdone hround
    refine ⟨fun hbusy => ?_, fun hfree hw => ?_⟩
    · rw [hstep, Mach.atBanks_of_busy hbusy]
    · rw [hstep, Mach.atBanks_of_free hfree]
      exact ⟨_, rfl, Mach.chunkLanded_mem hop hmode halgo hrelay hagent hne hw⟩

end Sys2Proof.Machine
end
